-- ==== Sys2Proof/Word.lean ====
section
/-! DEFINITION. The widths the spec gives (R8, R9) and the sparse map in which memories and register files are held. -/

namespace Sys2Proof

/-- A byte of memory. -/
abbrev Byte := BitVec 8

/-- A register: every register is 32 bits wide (R9). -/
abbrev Word := BitVec 32

/-- A sparse map from numbers to values: a list of (key, value) pairs. Its canonical form has keys strictly rising and
lists no value equal to what an unlisted key reads as. -/
abbrev SMap (α : Type) := List (Nat × α)

end Sys2Proof
end

