-- ==== Sys2Proof/Syntax.lean ====
section
/-! DEFINITION. The commands: one constructor per row of spec/opcode_table.json. Operands name the unit (b a flat block index,
c a context, i an issue by its age number, m a flat macro index, r a region, p a Courier port, pc a pseudo-channel, k the position
of a message or entry among those waiting, e a schedule record), the value written, the time t in REFCLK cycles, and what the
environment supplies (log entries 1, 10). -/

namespace Sys2Proof

/-- A Courier flit as it is received (R338, R340): its 256 bytes; where a codeword ended in it, the symbol errors of that codeword; and whether
one of its bytes lies in an uncorrectable codeword. -/
structure Flit where
  bytes : List Byte
  cw : Option Nat
  bad : Bool
deriving DecidableEq, Repr

/-- The argument of an SD command (R366), and whether its CRC7 is bad (R406). -/
structure SdArg where
  value : Nat
  crcBad : Bool
deriving DecidableEq, Repr

/-- What the data lines bring with a CMD53 (R380, R406): the bytes, and the numbers of the blocks whose CRC16 is bad. -/
structure SdData where
  bytes : List Byte
  bad : List Nat
deriving DecidableEq, Repr

/-- The commands of the block. -/
inductive Instr where

  /-- PWRGOOD_RISE (R527): PWRGOOD rises: straps are sampled and the start-up sequence begins from power-on reset. -/
  | pwrgoodRise (strapBoot : Nat) (strapIo18 : Nat) (feedtag : Nat)
  /-- PWRGOOD_FALL (R508): PWRGOOD falls: the device enters OFF and abandons any primary postmark commit. -/
  | pwrgoodFall
  /-- RESET_N_LOW (R525): RESET_N falls: PD01 to PD39 switch off, the stacks enter self-refresh and the device is held in BOOT. -/
  | resetNLow
  /-- RESET_N_RISE (R525): RESET_N rises: straps are sampled and the start-up sequence runs. -/
  | resetNRise (strapBoot : Nat) (strapIo18 : Nat) (feedtag : Nat)
  /-- CHIP_RST_SOFT (R526): A write of CHIP_RST with KEY 0xB007 and SOFT set schedules an internal reset pulse. -/
  | chipRstSoft (v : Nat)
  /-- SOFT_RESET_PULSE (R526): 10 us after the write, a 10 us internal reset pulse acts as a RESET_N pulse. -/
  | softResetPulse
  /-- TRST_N_LOW (R524): TRST_N low resets the JTAG TAP only. -/
  | trstNLow
  /-- START_UP_STAGE (R528): A start-up stage completes and the next stage of Table 17.6 begins, ending in READY or FAULTED. -/
  | startUpStage (ok : Bool)
  /-- DOMAIN_SETTLED (R516): A power domain switched on completes its wake latency and becomes usable. -/
  | domainSettled (d : Nat)
  /-- PWR_SET (R419): Command switching the selected power domains on or off in ascending order. -/
  | pwrSet
  /-- PWR_REQ_WRITE (R534): A write of PWR_REQ_LO or PWR_REQ_HI acts as PWR_SET with the same mask. -/
  | pwrReqWrite (hi : Bool) (v : Nat)
  /-- SLEEP (R411): Command asking the device to enter SLEEP once every other command has replied. -/
  | sleep
  /-- SLEEP_ENTRY (R520): After the other commands have replied, the device records its domains, discards plans and powers down into SLEEP. -/
  | sleepEntry
  /-- SDI_HOSTCTL_WAKE (R521): A write of 1 to SDI_HOSTCTL.WAKE wakes the device from SLEEP. -/
  | sdiHostctlWake
  /-- REGION_POWER_DOWN (R498): Horizon powers a region's compute domain off once a REST request stands and every condition holds. -/
  | regionPowerDown (r : Nat)
  /-- RGN_ACLK_STEP_WRITE (R21): A write to RGN_ACLK.STEP is checked against the neighbours and starts or queues a step change. -/
  | rgnAclkStepWrite (r : Nat) (v : Nat)
  /-- SYNTHESIZER_LOCKED (R24): 5 us after an accepted step write the idle synthesizer locks, and on a downward change ACLK switches. -/
  | synthesizerLocked (r : Nat)
  /-- LDO_SETTLED (R24): The region LDO settles at the new target, ending the change and starting any queued target. -/
  | ldoSettled (r : Nat)
  /-- RGN_LDO_OOR (R446): The LDO output stays outside its band for more than 2 us, setting OOR and throttling the region's ramp. -/
  | rgnLdoOor (r : Nat)
  /-- GOVERNOR_WINDOW_END (R25): A 256-cycle governor window ends; the activity count restarts and governor holds are released. -/
  | governorWindowEnd (r : Nat)
  /-- FWD (R46): A forward tile operation is checked and issued to the lock-step tile. -/
  | fwd (b : Nat) (c : Nat)
  /-- TRN (R56): A transposed-mode tile operation is checked and issued. -/
  | trn (b : Nat) (c : Nat)
  /-- RES_WRITE (R58): A resident-operand operation writes whole rows into macros. -/
  | resWrite (b : Nat) (c : Nat)
  /-- RES_MERGE (R59): A resident-operand operation merges selected bytes into macro rows. -/
  | resMerge (b : Nat) (c : Nat)
  /-- UPDATE (R136): An optimiser update pass rewrites every row of the masked macros. -/
  | update (b : Nat) (c : Nat)
  /-- PASS (R135): An operation decodes stored values and runs them through the activation stage and store. -/
  | pass (b : Nat) (c : Nat)
  /-- ROWFIN (R134): A row-finish operation combines statistics records into row parameters. -/
  | rowfin (b : Nat) (c : Nat)
  /-- SFWD (R232): A sparse forward operation takes the dense or sparse path from its tile header. -/
  | sfwd (b : Nat) (c : Nat)
  /-- STRN (R251): A sparse transposed operation on a BLK-2x tile. -/
  | strn (b : Nat) (c : Nat)
  /-- SEXPAND (R233): A sparse tile is expanded into its target macro. -/
  | sexpand (b : Nat) (c : Nat)
  /-- SPACK (R252): A macro's codes are packed into a BLK-2x tile under a mask. -/
  | spack (b : Nat) (c : Nat)
  /-- COPY (R161): A copy operation moves one source row to the destination. -/
  | copy (b : Nat) (c : Nat)
  /-- TCOPY (R162): A copy operation transposes one square tile. -/
  | tcopy (b : Nat) (c : Nat)
  /-- PCOPY (R161): A copy operation permutes dimensions for one source row. -/
  | pcopy (b : Nat) (c : Nat)
  /-- ATOMIC (R165): An operation sends each source line as an atomic add request to the destination's atomic unit. -/
  | atomic (b : Nat) (c : Nat)
  /-- WAITCNT (R167): An operation waits until an arrival counter reaches its target and then retires. -/
  | waitcnt (b : Nat) (c : Nat)
  /-- FORWARD_ROW (R46): A tile row whose inputs have arrived takes the row ports and applies its planes. -/
  | forwardRow (b : Nat) (i : Nat) (cyc : Nat)
  /-- TRANSPOSED_ROW (R56): A transposed tile row whose inputs have arrived takes the row ports group by group. -/
  | transposedRow (b : Nat) (i : Nat) (cyc : Nat)
  /-- CORRECTION_READ (R126): The sequencer issues a block-wide row read for an escape and the correction lanes apply q to the weights. -/
  | correctionRead (b : Nat) (i : Nat)
  /-- EPILOGUE (R129): A tile row's epilogue starts once its entries and corrections are ready and stores its outputs. -/
  | epilogue (b : Nat) (i : Nat)
  /-- ISSUE_RETIRE (R120): An issue's last read or write retires and its scoreboard entry is released. -/
  | issueRetire (b : Nat) (i : Nat)
  /-- REMOTE_READ (R155): A remote read arrives at a scratchpad and is served or refused with POISON. -/
  | remoteRead (k : Nat)
  /-- REMOTE_WRITE (R592): A remote write arrives and is judged slot by slot against its circular region. -/
  | remoteWrite (k : Nat)
  /-- ATOMIC_ADD_REQUEST (R165): An atomic add request arrives at the region atomic unit and is queued or dropped. -/
  | atomicAddRequest (k : Nat)
  /-- ATOMIC_APPLY (R166): The atomic unit applies the oldest queued request as a read-modify-write and counts it. -/
  | atomicApply (r : Nat)
  /-- READ_DATA (R594): Read data arrives for an issue's input staging. -/
  | readData (b : Nat) (i : Nat) (line : Nat)
  /-- WRITE_ACKNOWLEDGEMENT (R322): A write or atomic acknowledgement returns to its requester with its credit. -/
  | writeAcknowledgement (k : Nat)
  /-- CREDIT_RETURN (R158): A credit-return message gives a producer back one slot credit. -/
  | creditReturn (k : Nat)
  /-- REGISTER_ACCESS (R36): A register access message reaches its unit over the register bus or mesh. -/
  | registerAccess (wr : Bool) (addr : Nat) (v : Nat)
  /-- FLIT_CRC_MISMATCH (R316): A router finds a flit CRC mismatch, discards it and requests a replay. -/
  | flitCrcMismatch (r : Nat) (b : Nat) (p : Nat)
  /-- HBM_READ_SERVICE (R321): A controller serves a queued HBM read request. -/
  | hbmReadService (pc : Nat) (k : Nat)
  /-- HBM_WRITE_SERVICE (R322): A controller applies a queued full-line write and acknowledges it. -/
  | hbmWriteService (pc : Nat) (k : Nat)
  /-- HBM_NARROW_WRITE (R324): A controller applies a bit-enabled narrow write as an indivisible read-modify-write. -/
  | hbmNarrowWrite (pc : Nat) (k : Nat)
  /-- HBM_ATOMIC_ADD (R325): A pseudo-channel atomic unit applies an atomic add to a line. -/
  | hbmAtomicAdd (pc : Nat) (k : Nat)
  /-- HBM_SCRUB_STEP (R329): Every INTERVAL us a pseudo-channel scrubs its next line. -/
  | hbmScrubStep (pc : Nat)
  /-- HBM_REFRESH (R327): A bank's refresh falls due and runs. -/
  | hbmRefresh (pc : Nat) (bank : Nat)
  /-- HBM_TEMPERATURE_READ (R327): Every 1 ms the controller reads the stack temperature and sets the refresh rate. -/
  | hbmTemperatureRead (st : Nat) (temp : Int)
  /-- SCRUB_STEP (R63): A scrub step takes the row ports, reads one row and writes it back if corrected. -/
  | scrubStep (b : Nat)
  /-- SCRUB (R63): A scrub schedule event requests scrub steps in every macro of its regions. -/
  | scrub (e : Nat) (t : Nat)
  /-- MAC_REMAP_VALID_WRITE (R66): Setting VALID on a remap entry starts a fill pass. -/
  | macRemapValidWrite (m : Nat) (i : Nat) (v : Nat)
  /-- FILL_STEP (R66): A fill step copies one row's column into the spare; the last sets FILLED. -/
  | fillStep (b : Nat)
  /-- MAC_CFG_WRITE (R76): A write to MAC_CFG is applied, or refused with CFG_REJ while work is in progress. -/
  | macCfgWrite (m : Nat) (v : Nat)
  /-- MAC_RB_GO (R117): A write of GO takes a scoreboard entry for a readback. -/
  | macRbGo (m : Nat) (v : Nat)
  /-- READBACK (R117): A readback takes the row ports as a block-wide read and delivers its row. -/
  | readback (b : Nat)
  /-- MAC_SHADOW_SYNC (R70): A write of SYNC starts copying dirty rows to the shadow. -/
  | macShadowSync (m : Nat)
  /-- MAC_SYNC_ROW_COPIED (R70): A dirty row's transfers to the shadow complete and its dirty bit clears. -/
  | macSyncRowCopied (m : Nat)
  /-- MAC_SHADOW_RESTORE (R71): A write of RESTORE starts rewriting all rows from the shadow. -/
  | macShadowRestore (m : Nat)
  /-- MAC_RESTORE_RETIRE (R71): A macro restore retires and held requests proceed. -/
  | macRestoreRetire (m : Nat)
  /-- SPD_SHADOW_SYNC (R170): A write of SYNC copies dirty KiB of the retained window to the shadow. -/
  | spdShadowSync (b : Nat)
  /-- SPD_SHADOW_RESTORE (R170): A write of RESTORE rewrites the retained window from the shadow. -/
  | spdShadowRestore (b : Nat)
  /-- SPD_SHADOW_DONE (R170): A retained-window sync or restore completes and BUSY clears. -/
  | spdShadowDone (b : Nat)
  /-- GATHER_LINE_FLUSH (R153): A dirty gather-buffer line untouched for 16 FCLK cycles is written to its bank. -/
  | gatherLineFlush (b : Nat) (line : Nat)
  /-- CIRRUS_GROUP_PREDICTION (R268): A group's corrected estimates are compared with THR and its neurons are classed. -/
  | cirrusGroupPrediction (b : Nat) (i : Nat)
  /-- CIR_THRESH_WRITE (R281): A host write to CIR_THRESH takes effect at the next slot boundary. -/
  | cirThreshWrite (b : Nat) (v : Nat)
  /-- RECALIBRATION_CHAIN (R283): One chain of an array is trimmed against the reference chains. -/
  | recalibrationChain (b : Nat) (ok : Bool)
  /-- RECAL_OPEN (R282): A schedule record opens a block's recalibration window. -/
  | recalOpen (e : Nat) (t : Nat)
  /-- RECAL_CLOSE (R298): A schedule record closes a block's recalibration window. -/
  | recalClose (e : Nat) (t : Nat)
  /-- SPARSE_GROUP_DEAL (R240): The dispatcher deals a group's pieces to free lanes, splitting hot rows. -/
  | sparseGroupDeal (b : Nat) (i : Nat)
  /-- PIECE_EMIT (R239): A lane finishes a piece and emits its sums to the merge tree. -/
  | pieceEmit (b : Nat) (i : Nat) (k : Nat)
  /-- MERGE_RELEASE (R242): The merge tree releases completed outputs in ascending order into the entries. -/
  | mergeRelease (b : Nat) (i : Nat)
  /-- CADENCE_IN_EDGE (R290): A rising edge on CADENCE_IN is accepted as a slot boundary or ignored as a runt. -/
  | cadenceInEdge (t : Nat)
  /-- COASTED_BOUNDARY (R294): With no accepted edge by the coast limit, the unit starts the next slot itself. -/
  | coastedBoundary (t : Nat)
  /-- CAD_LOST (R295): After four coasted boundaries the limit expires again, slots stop and CAD_LOST is raised. -/
  | cadLost (t : Nat)
  /-- CAD_CMD_SET (R293): A write of SET makes the next boundary take the number in CAD_SLOT_SET. -/
  | cadCmdSet
  /-- ADMIT (R301): The ADMIT event admits the slot's result set and releases REPEAT contexts. -/
  | admitRecord (e : Nat) (t : Nat)
  /-- DEADLINE (R302): A deadline record checks whether the named contexts have finished a result set. -/
  | deadline (e : Nat) (t : Nat)
  /-- TRACKER (R94): The scale-tracker event sets each tracked tensor's clip value. -/
  | tracker (e : Nat) (t : Nat)
  /-- BIST_RECORD (R556): A BIST schedule record starts a self-test slice. -/
  | bistRecord (e : Nat) (t : Nat)
  /-- SECURE_RECORD (R300): A SECURE schedule record acts as a securing trigger according to the chip state. -/
  | secureRecord (e : Nat) (t : Nat)
  /-- WAKE_RECORD (R498): A WAKE record asks Horizon to power the masked regions up. -/
  | wakeRecord (e : Nat) (t : Nat)
  /-- REST_RECORD (R498): A REST record lets the masked regions power down. -/
  | restRecord (e : Nat) (t : Nat)
  /-- CADENCE_OUT_PULSE (R304): DELAY cycles after a boundary the device drives a pulse on CADENCE_OUT. -/
  | cadenceOutPulse (t : Nat)
  /-- BEACON (R306): A received beacon is checked and may offset the slot counter. -/
  | beacon (p : Nat) (f : Flit) (t : Nat)
  /-- LANE_SIGNAL (R351): A lane of a port in DETECT receives signal and the port enters EQUALIZE. -/
  | laneSignal (p : Nat) (lane : Nat)
  /-- EQUALIZE_COMPLETE (R351): Equalisation ends and the port enters ALIGN. -/
  | equalizeComplete (p : Nat)
  /-- ALIGN_COMPLETE (R339): Alignment ends and the port enters NEGOTIATE on 8 or 4 lanes, or FAILED. -/
  | alignComplete (p : Nat) (lanes : Nat)
  /-- TS1 (R352): A TS1 training frame is received and counted toward agreement. -/
  | ts1 (p : Nat) (f : Flit)
  /-- TS2 (R352): A TS2 frame is received; matching frames make the port ACTIVE. -/
  | ts2 (p : Nat) (f : Flit)
  /-- NEGOTIATE_TIMEOUT (R352): A negotiation attempt times out; after the third the port is FAILED. -/
  | negotiateTimeout (p : Nat)
  /-- MESSAGE_FLIT (R343): A message flit is received and accepted in order or refused. -/
  | messageFlit (p : Nat) (f : Flit)
  /-- IDLE_FLIT (R342): An idle flit delivers ACK and credit counts. -/
  | idleFlit (p : Nat) (f : Flit)
  /-- RETRY (R343): A RETRY frame makes the transmitter resend from the named sequence. -/
  | retry (p : Nat) (f : Flit)
  /-- RETRY_REPEAT (R343): Every 2 us without the expected sequence the receiver sends another RETRY. -/
  | retryRepeat (p : Nat)
  /-- ACK_TIMEOUT (R343): ACK makes no progress for 10 us and the transmitter replays; the eighth replay takes the link down. -/
  | ackTimeout (p : Nat)
  /-- LOCK_LOSS (R355): An active lane loses alignment-marker lock for 1 us and the link goes down. -/
  | lockLoss (p : Nat)
  /-- CUR_CTL_TRAIN (R351): A write of TRAIN moves a FAILED port to DETECT. -/
  | curCtlTrain (p : Nat)
  /-- CUR_CTL_EN_CLEAR (R355): Clearing EN takes an active port down. -/
  | curCtlEnClear (p : Nat)
  /-- MESSAGE_ROUTE (R348): A Courier message is delivered on the device or forwarded by its route entry. -/
  | messageRoute (k : Nat)
  /-- HANDOFF (R354): A hand-off message is held for its slot or discarded. -/
  | handoff (k : Nat)
  /-- COLL_ADD (R356): A child's COLL_ADD lines are applied as atomic adds into the stage area. -/
  | collAdd (k : Nat)
  /-- COLL_BCAST (R356): A broadcast chunk is written to RESULT and forwarded to children. -/
  | collBcast (k : Nat)
  /-- CUR_TIMEOUT (R347): An off-device request lacks a response within the timeout and gets a POISON response. -/
  | curTimeout (k : Nat)
  /-- CMD0 (R367): SD command resetting the SDIO interface and mailbox. -/
  | cmd0
  /-- CMD3 (R366): SD command publishing the relative card address. -/
  | cmd3
  /-- CMD5 (R365): SD command reporting operating conditions and voltage-switch acceptance. -/
  | cmd5 (arg : SdArg)
  /-- CMD7 (R366): SD command selecting or deselecting the card. -/
  | cmd7 (arg : SdArg)
  /-- CMD11 (R365): SD command switching the pads to 1.8 V. -/
  | cmd11
  /-- CMD15 (R366): SD command moving the card to the inactive state. -/
  | cmd15 (arg : SdArg)
  /-- CMD19 (R364): SD command answered with the standard tuning block. -/
  | cmd19
  /-- CMD52 (R366): SD command reading or writing one byte of a function. -/
  | cmd52 (arg : SdArg)
  /-- CMD53 (R372): SD command transferring bytes or blocks through function 1 or the function 2 stream. -/
  | cmd53 (arg : SdArg) (data : SdData)
  /-- RES (R367): A write of RES in the CCCR I/O Abort register resets the interface and mailbox. -/
  | res
  /-- IO_ABORT (R401): A write of AS aborts the current CMD53 of a function. -/
  | ioAbort (fn : Nat)
  /-- SDI_CMD_DB_WRITE (R385): The host writes the command doorbell, applied or refused with DB_ERR. -/
  | sdiCmdDbWrite (v : Nat)
  /-- SDI_RPL_DB_WRITE (R385): The host returns reply slots by writing the reply doorbell. -/
  | sdiRplDbWrite (v : Nat)
  /-- SDI_EVT_DB_WRITE (R385): The host frees event entries by writing the event doorbell. -/
  | sdiEvtDbWrite (v : Nat)
  /-- REPLY_WRITE (R384): The device writes a reply into a free reply slot and advances RPL_PI. -/
  | replyWrite (k : Nat)
  /-- EVENT_APPEND (R386): A posted event is appended to the event queue or dropped when full. -/
  | eventAppend
  /-- MBXBSY_PULSE_END (R379): Two SD_CLK periods after a warning the MBXBSY pulse ends. -/
  | mbxbsyPulseEnd
  /-- HEARTBEAT (R397): Every 1 ms while the mailbox is served SDI_HEART increments. -/
  | heartbeat (t : Nat)
  /-- IO_READY (R370): IOR1 becomes 1 after IOE1 is set. -/
  | ioReady
  /-- HELLO (R393): Command opening a session at the highest shared version. -/
  | hello
  /-- NEGOTIATE (R415): Command changing the session version and event mask. -/
  | negotiate
  /-- BYE (R416): Command closing the session. -/
  | bye
  /-- IDENTIFY (R414): Command returning part, stepping, serial and identity data. -/
  | identify
  /-- GET_ID_KEY (R545): Command returning the identity public key and signatures left. -/
  | getIdKey
  /-- QUOTE (R548): Command returning a signed attestation quote. -/
  | quote
  /-- FW_LOAD (R542): Command receiving, verifying and staging a firmware image. -/
  | fwLoad
  /-- FW_ACTIVATE (R543): Command making the staged firmware active for the next boot. -/
  | fwActivate
  /-- FW_INFO (R414): Command returning firmware versions and measurement. -/
  | fwInfo
  /-- PWR_STATE (R418): Command returning the domains that are on and changing. -/
  | pwrState
  /-- IMG_LIST (R418): Command listing image records. -/
  | imgList
  /-- IMG_WRITE (R420): Command writing an image into the MRAM shadow and recording it on a digest match. -/
  | imgWrite
  /-- IMG_PULL (R420): Command pulling an image from a peer into the shadow. -/
  | imgPull
  /-- IMG_DELETE (R421): Command removing an image record. -/
  | imgDelete
  /-- IMG_READ (R421): Command reading an image out over function 2. -/
  | imgRead
  /-- SHADOW_SYNC (R422): Command synchronising named macros to the shadow and recording their digest. -/
  | shadowSync
  /-- PLAN_LOAD (R436): Command loading a plan image as the staged plan. -/
  | planLoad
  /-- PLAN_VERIFY (R220): Command running the loader checks on the staged plan. -/
  | planVerify
  /-- PLAN_ARM (R222): Command installing and arming a plan, restoring its weight macros. -/
  | planArm
  /-- PLAN_START (R437): Command entering RUNNING at the next slot boundary. -/
  | planStart
  /-- PLAN_STOP (R437): Command stopping a job, at once or at the next slot boundary. -/
  | planStop
  /-- PLAN_DRAIN (R437): Command ending admission and draining to ARMED. -/
  | planDrain
  /-- PLAN_STATUS (R418): Command returning plan and slot progress. -/
  | planStatus
  /-- TRACKER_READ (R418): Command returning scale-tracker clip values. -/
  | trackerRead
  /-- CAD_STATUS (R423): Command returning slot, phase and period. -/
  | cadStatus
  /-- CAD_SET_SLOT (R424): Command setting the slot number at the next boundary. -/
  | cadSetSlot
  /-- SLOT_STATUS (R429): Command returning slot-status records. -/
  | slotStatus
  /-- SUBMIT (R426): Command submitting input data and a shape record for a slot. -/
  | submit
  /-- SUBMIT_DATA_VISIBLE (R426): A submission's data becomes visible in HBM and its shape record is recorded. -/
  | submitDataVisible
  /-- FETCH (R427): Command waiting for a result set and reading its output. -/
  | fetch
  /-- RING_SETUP (R425): Command configuring the input or output ring. -/
  | ringSetup
  /-- HBM_WRITE (R428): Command writing HBM through the chip hub. -/
  | hbmWrite
  /-- HBM_READ (R428): Command reading HBM through the chip hub. -/
  | hbmRead
  /-- LINK_STATUS (R430): Command returning every port's status. -/
  | linkStatus
  /-- SET_COORD (R431): Command writing the device coordinate. -/
  | setCoord
  /-- ROUTE_WRITE (R431): Command writing a range of route entries all at once. -/
  | routeWrite
  /-- SET_TAG (R454): Command setting the failure-domain tag. -/
  | setTag
  /-- GROUP_FORM (R455): Command forming a Nimbus group. -/
  | groupForm
  /-- SECURE (R459): Command requesting a securing and replying with the epoch. -/
  | secure
  /-- RESTORE (R478): Command restoring the last secured epoch or setting the step after PATH1. -/
  | restore
  /-- REJOIN (R474): Command rebuilding the device's own state from the group. -/
  | rejoin
  /-- ADOPT (R474): Command rebuilding a lost member's state and taking its coordinate. -/
  | adopt
  /-- SECURE_STATUS (R430): Command returning the securing status. -/
  | secureStatus
  /-- BIST_RUN (R559): Command running self-test slices until every selected unit is taken. -/
  | bistRun
  /-- BIST_RESULT (R568): Command returning self-test result records. -/
  | bistResult
  /-- REPAIR_COMMIT (R570): Command fusing every soft repair. -/
  | repairCommit
  /-- PML_READ (R510): Command reading postmark records. -/
  | pmlRead
  /-- PML_STATUS (R510): Command returning the log status and clear nonce. -/
  | pmlStatus
  /-- PML_CLEAR (R509): Command erasing the log under a signed nonce. -/
  | pmlClear
  /-- SET_TIME (R433): Command setting the wall time carried by postmarks. -/
  | setTime
  /-- REG_READ (R434): Command reading consecutive registers. -/
  | regRead
  /-- REG_WRITE (R434): Command writing registers with masks in order. -/
  | regWrite
  /-- HZN_RULE_WRITE (R435): Command writing Horizon rules and committing them. -/
  | hznRuleWrite
  /-- HZN_RULE_READ (R430): Command returning Horizon rule records. -/
  | hznRuleRead
  /-- HZN_STATUS (R430): Command returning risk, level and filtered channel values. -/
  | hznStatus
  /-- HORIZON_SAMPLE (R486): Every 1 ms Horizon reads, filters, forms risk and evaluates its rules. -/
  | horizonSample (t : Nat) (raw : List Int)
  /-- HZN_RULE_CMD_COMMIT (R500): A write of COMMIT requests copying the staged rules to the active copy. -/
  | hznRuleCmdCommit
  /-- ACTIVE_RULE_COPY (R500): Between two samples the staged rules are copied into the active copy. -/
  | activeRuleCopy
  /-- POSTMARK_COMMIT (R505): The writer commits the oldest queued record in two phases. -/
  | postmarkCommit
  /-- FAULT_SLOT_SERVICE (R446): Casec reads an occupied block or region slot, records it and frees it. -/
  | faultSlotService
  /-- FREEZE (R461): A due freeze enters SECURING and copies the image into the secured buffer. -/
  | freeze
  /-- FREEZE_COPY_COMPLETE (R461): The image copy completes and the device returns to its prior state. -/
  | freezeCopyComplete
  /-- DIGESTS_FORMED (R462): The digests of the frozen image are complete. -/
  | digestsFormed
  /-- REDUCTION_START (R466): The ready counter advances and the engine starts a step's gradient reduction. -/
  | reductionStart
  /-- PING (R470): A Nimbus PING is answered with PONG. -/
  | ping (k : Nat)
  /-- PONG (R470): A Nimbus PONG shows a peer is alive. -/
  | pong (k : Nat)
  /-- LOST (R470): A LOST message marks a member not live. -/
  | lost (k : Nat)
  /-- STATUS_REQ (R471): The coordinator asks survivors for their gradient state. -/
  | statusReq (k : Nat)
  /-- STATUS (R471): A survivor reports its gradient state to the coordinator. -/
  | status (k : Nat)
  /-- DECIDE (R472): The coordinator's recovery decision is received and acted on. -/
  | decide (k : Nat)
  /-- ZEROED (R472): A survivor reports its STAGE area zeroed. -/
  | zeroed (k : Nat)
  /-- GO (R472): The coordinator releases the fallback reduction. -/
  | go (k : Nat)
  /-- ADDED (R467): A member reports its adds into a stripe acknowledged. -/
  | added (k : Nat)
  /-- PUSHED (R467): A stripe owner reports its stripe written to every member. -/
  | pushed (k : Nat)
  /-- READY (R467): A member reports its reduction complete to the coordinator. -/
  | ready (k : Nat)
  /-- COMMIT (R467): COMMIT writes the AVG word, increments the commit counter and may carry SECURE. -/
  | commit (k : Nat)
  /-- SECURE_REQ (R459): A member's securing request reaches the coordinator. -/
  | secureReq (k : Nat)
  /-- PARITY (R464): A parity contribution is XORed into the parity chunk. -/
  | parity (k : Nat)
  /-- DIGESTS (R464): A member's chunk digests are stored by its successors. -/
  | digests (k : Nat)
  /-- SECURED (R465): A member reports its epoch secured to the coordinator. -/
  | secured (k : Nat)
  /-- EPOCH_DONE (R465): Members store the device roots and set the new epoch. -/
  | epochDone (k : Nat)
  /-- MEMBERS (R474): A survivor sends the member table to a rebuilding device. -/
  | members (k : Nat)
  /-- ADOPTED (R474): Members record a rebuilt coordinate as live with its new tag. -/
  | adopted (k : Nat)
  /-- REBUILD_COMPLETE (R474): A rebuild is verified, the image is restored and the device enters ARMED or FAULTED. -/
  | rebuildComplete
  /-- PEER_PING_TIMEOUT (R470): A PING gets no PONG within NIM_TIMEOUT and the peer is lost. -/
  | peerPingTimeout (c : Nat)
  /-- STATUS_TIMEOUT (R471): A survivor's STATUS does not arrive in time and it is lost too. -/
  | statusTimeout (c : Nat)
  /-- DECIDE_TIMEOUT (R471): No DECIDE within twice the timeout makes the next coordinator repeat the exchange. -/
  | decideTimeout
  /-- BIST_UNIT_CLAIM (R557): A self-test unit's scoreboard claim is granted and the unit runs if it still fits. -/
  | bistUnitClaim (u : Nat)
  /-- BIST_UNIT_COMPLETE (R568): A self-test unit completes and writes any result record. -/
  | bistUnitComplete (u : Nat) (ok : Bool)
  /-- BYPASS (R552): TAP instruction BYPASS. -/
  | bypass
  /-- IDCODE (R566): TAP instruction reading the device identification code. -/
  | idcode
  /-- SAMPLE_PRELOAD (R552): TAP instruction SAMPLE/PRELOAD. -/
  | samplePreload (v : Nat)
  /-- EXTEST (R566): TAP instruction driving pins from the boundary register. -/
  | extest (v : Nat)
  /-- EXTEST_PULSE (R566): IEEE 1149.6 instruction EXTEST_PULSE on AC-coupled lanes. -/
  | extestPulse (v : Nat)
  /-- EXTEST_TRAIN (R566): IEEE 1149.6 instruction EXTEST_TRAIN on AC-coupled lanes. -/
  | extestTrain (v : Nat)
  /-- PRIVATE_INSTRUCTION (R552): A private TAP instruction acts only while debug is unlocked, else as BYPASS. -/
  | privateInstruction (code : Nat)
  /-- SEC_DEBUG_UNLOCK (R553): Casec's write of UNLOCK is applied only for a DEBUG image without PERM_LOCK. -/
  | secDebugUnlock (v : Nat)
  /-- REGISTER_WRITE (R12): A write to a register without behaviour of its own sets its fields by access code. -/
  | registerWrite (addr : Nat) (v : Nat)
  /-- SOFT_RESET_PULSE_END (R526): The 10 us internal reset pulse ends; this acts as the rise of RESET_N, so straps are sampled and start-up runs. -/
  | softResetPulseEnd (strapBoot : Nat) (strapIo18 : Nat) (feedtag : Nat)
  /-- CADENCE_OUT_PULSE_END (R304): 100 REFCLK cycles after a CADENCE_OUT pulse began, the pin returns low. -/
  | cadenceOutPulseEnd (t : Nat)
  /-- CUR_CTL_EN_SET (R351): A write of 1 to CUR_CTL.EN on a DISABLED port whose domain is on moves the port to DETECT. -/
  | curCtlEnSet (p : Nat)
  /-- HBM_REQUEST (R320): An HBM request from a block, a Courier port or the chip hub arrives at its pseudo-channel and enters the 704-entry request queue. -/
  | hbmRequest (k : Nat)
  /-- SPD_SYNC_KIB_COPIED (R170): One dirty KiB of a retained window finishes its 128 shadow transfers and its dirty bit clears. -/
  | spdSyncKibCopied (b : Nat)
  /-- RESTORE_COMPLETE (R477): A RESTORE has checked its digests and written back its image, sets the state of Table 15.8 and leaves RESTORING for ARMED or FAULTED. -/
  | restoreComplete
  /-- FIRMWARE_VERIFIED_AT_WAKE (R521): During a wake from SLEEP, the boot ROM's reload and verification of the running firmware completes and the wake continues or enters FAULTED. -/
  | firmwareVerifiedAtWake
  /-- BAD_OPCODE (R391): Casec takes a command whose opcode is not defined in the session version and answers BAD_OPCODE without executing it. -/
  | badOpcode
deriving DecidableEq, Repr

end Sys2Proof
end

