-- ==== Sys2Proof/Machine/Bits.lean ====
section
/-! DEFINITION. Bit fields, byte order (R8), two's complement, saturating counts and the operations of the sparse map. -/

namespace Sys2Proof.Machine

/-- Bits [lo + w - 1 : lo] of a number. -/
def bits (n lo w : Nat) : Nat := (n >>> lo) % 2 ^ w

/-- Bit i of a number. -/
def bit (n i : Nat) : Bool := n.testBit i

/-- A number with bits [lo + w - 1 : lo] replaced by the low w bits of v. -/
def putBits (n lo w v : Nat) : Nat :=
  n % 2 ^ lo + (v % 2 ^ w) * 2 ^ lo + (n >>> (lo + w)) * 2 ^ (lo + w)

/-- 1 for true, 0 for false. -/
def b2n (b : Bool) : Nat := if b then 1 else 0

/-- The signed value of a w-bit two's complement code. -/
def toSigned (w n : Nat) : Int :=
  if n % 2 ^ w < 2 ^ (w - 1) then (n % 2 ^ w : Nat) else (n % 2 ^ w : Nat) - (2 ^ w : Nat)

/-- The w-bit two's complement code of a number. -/
def ofSigned (w : Nat) (i : Int) : Nat := (i % (2 ^ w : Nat)).toNat

/-- A count of width w after adding k, saturating at all ones (the RC counters of the spec saturate). -/
def satCount (w n k : Nat) : Nat := min (n + k) (2 ^ w - 1)

/-- ceil(a / b). -/
def ceilDiv (a b : Nat) : Nat := (a + b - 1) / b

/-- Little-endian number of a list of bytes (R8). -/
def leNat : List Byte → Nat
  | [] => 0
  | b :: bs => b.toNat + 256 * leNat bs

/-- The k low bytes of a number, little-endian (R8). -/
def leBytes : Nat → Nat → List Byte
  | 0, _ => []
  | k + 1, n => BitVec.ofNat 8 n :: leBytes k (n / 256)

/-- The number of one bits among the low w bits. -/
def popcount : Nat → Nat → Nat
  | 0, _ => 0
  | w + 1, n => n % 2 + popcount w (n / 2)

/-- The sum of f over 0 to n - 1. -/
def sumN (n : Nat) (f : Nat → Nat) : Nat := (List.range n).foldl (fun a i => a + f i) 0

/-- The sum of f over 0 to n - 1, signed. -/
def sumI (n : Nat) (f : Nat → Int) : Int := (List.range n).foldl (fun a i => a + f i) 0

/-- Positions 0 to w - 1 whose bit is set, ascending. -/
def onesOf (w n : Nat) : List Nat := (List.range w).filter (fun (i : Nat) => n.testBit i)

/-- The value at a key, d where the key is not listed. -/
def SMap.get {α : Type} (d : α) : SMap α → Nat → α
  | [], _ => d
  | (k, v) :: r, x => if k = x then v else SMap.get d r x

/-- The map without a key. -/
def SMap.erase {α : Type} : SMap α → Nat → SMap α
  | [], _ => []
  | (k, v) :: r, x => if k = x then SMap.erase r x else (k, v) :: SMap.erase r x

/-- The map with a pair put in front of the first greater key. -/
def SMap.insert {α : Type} : SMap α → Nat → α → SMap α
  | [], x, a => [(x, a)]
  | (k, v) :: r, x, a => if x < k then (x, a) :: (k, v) :: r else (k, v) :: SMap.insert r x a

/-- The map with key x at value a, in canonical form: a value equal to d is not listed. -/
def SMap.set {α : Type} [DecidableEq α] (d : α) (m : SMap α) (x : Nat) (a : α) : SMap α :=
  if a = d then SMap.erase m x else SMap.insert (SMap.erase m x) x a

/-- The map without the keys that satisfy p. -/
def SMap.dropKeys {α : Type} (p : Nat → Bool) (m : SMap α) : SMap α := m.filter (fun e => !p e.1)

/-- A memory: bytes by address, an unlisted address reading 0. -/
abbrev Mem := SMap Byte

/-- One byte read. -/
def Mem.rd (m : Mem) (a : Nat) : Byte := SMap.get 0 m a

/-- One byte written. -/
def Mem.wr (m : Mem) (a : Nat) (b : Byte) : Mem := SMap.set 0 m a b

/-- n bytes read from address a upward. -/
def Mem.rdN (m : Mem) (a n : Nat) : List Byte := (List.range n).map (fun (i : Nat) => m.rd (a + i))

/-- Bytes written from address a upward. -/
def Mem.wrN (m : Mem) : Nat → List Byte → Mem
  | _, [] => m
  | a, b :: bs => Mem.wrN (m.wr a b) (a + 1) bs

/-- The addresses lo to hi - 1 cleared to 0. -/
def Mem.clear (m : Mem) (lo hi : Nat) : Mem := SMap.dropKeys (fun a => lo ≤ a && a < hi) m

/-- Keys strictly rising. -/
def keysRise {α : Type} : SMap α → Bool
  | [] => true
  | [_] => true
  | (a, _) :: (b, y) :: r => decide (a < b) && keysRise ((b, y) :: r)

/-- The canonical form of a memory: addresses strictly rising and no entry equal to what an unlisted address reads as. -/
def Mem.wf (m : Mem) : Bool := keysRise m && m.all (fun e => decide (e.2 ≠ 0))

/-- A list with element i replaced. -/
def setAt {α : Type} : List α → Nat → α → List α
  | [], _, _ => []
  | _ :: r, 0, a => a :: r
  | x :: r, i + 1, a => x :: setAt r i a

/-- A list without element i. -/
def dropAt {α : Type} : List α → Nat → List α
  | [], _ => []
  | _ :: r, 0 => r
  | x :: r, i + 1 => x :: dropAt r i

/-- Sublist of n elements from index i. -/
def slice {α : Type} (l : List α) (i n : Nat) : List α := (l.drop i).take n

/-- Little-endian number of w bytes at offset i of a byte string; bytes beyond its end count 0. -/
def leAt (l : List Byte) (i w : Nat) : Nat := leNat (slice l i w)

/-- A byte string padded with zero bytes, or cut, to length n. -/
def padTo (n : Nat) (l : List Byte) : List Byte := (l ++ List.replicate n 0).take n

/-- The list without repeats, first occurrences kept. -/
def dedup {α : Type} [DecidableEq α] (l : List α) : List α := l.foldl (fun acc x => if x ∈ acc then acc else acc ++ [x]) []

end Sys2Proof.Machine
end

