-- ==== Sys2Proof/Machine/Hash.lean ====
section
/-! DEFINITION. The published functions the spec names (Table 0.7): CRC-32C, SHA-256 (FIPS 180-4) and arithmetic in GF(2^8). -/

namespace Sys2Proof.Machine

/-- One bit of the reflected CRC-32C register. -/
def crcBit (c : Nat) : Nat := if c % 2 = 1 then (c / 2) ^^^ 0x82F63B78 else c / 2

/-- One byte of the CRC-32C register. -/
def crcByte (c : Nat) (b : Byte) : Nat := (fun x => crcBit (crcBit (crcBit (crcBit (crcBit (crcBit (crcBit (crcBit x)))))))) (c ^^^ b.toNat)

/-- CRC-32C (Castagnoli) of a byte string. -/
def crc32c (l : List Byte) : Nat := (l.foldl crcByte 0xFFFFFFFF) ^^^ 0xFFFFFFFF

/-- One bit of the CRC-16 register, most significant bit first. -/
def crc16Bit (c : Nat) : Nat := if 0x8000 ≤ c then (2 * c ^^^ 0x1021) % 65536 else 2 * c

/-- CRC-16 with polynomial 0x1021 and initial value 0xFFFF of a byte string (R315; log entry 82). -/
def crc16 (l : List Byte) : Nat :=
  l.foldl (fun c b => (fun x => crc16Bit (crc16Bit (crc16Bit (crc16Bit (crc16Bit (crc16Bit (crc16Bit (crc16Bit x)))))))) (c ^^^ (256 * b.toNat))) 0xFFFF

/-- The greatest r + x, x of n bits, whose k-th power is at most m. -/
def rootFrom (k m : Nat) : Nat → Nat → Nat
  | 0, r => r
  | n + 1, r => rootFrom k m n (bif Nat.ble ((r + 2 ^ n) ^ k) m then r + 2 ^ n else r)

/-- The first 32 bits of the fractional part of the k-th root of p (FIPS 180-4, 4.2.2 and 5.3.3). -/
def rootWord (k p : Nat) : BitVec 32 := BitVec.ofNat 32 (rootFrom k (p * 2 ^ (32 * k)) 37 0)

/-- The first 64 primes. -/
def shaPrimes : List Nat :=
  [2, 3, 5, 7, 11, 13, 17, 19, 23, 29, 31, 37, 41, 43, 47, 53, 59, 61, 67, 71, 73, 79, 83, 89, 97, 101, 103, 107, 109, 113, 127, 131]
    ++ [137, 139, 149, 151, 157, 163, 167, 173, 179, 181, 191, 193, 197, 199, 211, 223, 227, 229, 233, 239, 241, 251, 257, 263, 269, 271,
      277, 281, 283, 293, 307, 311]

/-- The exclusive or of a word rotated right by each of these amounts. -/
def turns (x : BitVec 32) (l : List Nat) : BitVec 32 := l.foldl (fun y n => y ^^^ x.rotateRight n) 0

/-- The next word of the message schedule from those before it, the newest first. -/
def nextWord (w : List (BitVec 32)) : BitVec 32 :=
  let x := w.getD 14 0
  let y := w.getD 1 0
  w.getD 6 0 + w.getD 15 0 + (turns x [7, 18] ^^^ x >>> 3) + (turns y [17, 19] ^^^ y >>> 10)

/-- The message schedule, the newest first: n words beyond those given. -/
def schedule : Nat → List (BitVec 32) → List (BitVec 32)
  | 0, w => w
  | n + 1, w => schedule n (nextWord w :: w)

/-- The big-endian words of a byte string. -/
def beWords (l : List Byte) : List (BitVec 32) :=
  (List.range (l.length / 4)).map (fun (i : Nat) => BitVec.ofNat 32 ((List.range 4).foldl (fun n j => 256 * n + (l.getD (4 * i + j) 0).toNat) 0))

/-- One step of the compression on the eight working words, with the sum of a schedule word and its constant. -/
def shaStep (v : List (BitVec 32)) (x : BitVec 32) : List (BitVec 32) :=
  match v with
  | [a, b, c, d, e, f, g, h] =>
    let up := x + h + turns e [6, 11, 25] + (g ^^^ (e &&& (f ^^^ g)))
    [up + turns a [2, 13, 22] + ((a &&& (b ||| c)) ||| (b &&& c)), a, b, c, d + up, e, f, g]
  | _ => v

/-- The hash value after one more block of 64 bytes. -/
def shaBlock (hash : List (BitVec 32)) (block : List Byte) : List (BitVec 32) :=
  let sums := (shaPrimes.zip (schedule 48 (beWords block).reverse).reverse).map (fun e => rootWord 3 e.1 + e.2)
  (hash.zip (sums.foldl shaStep hash)).map (fun e => e.1 + e.2)

/-- The big-endian bytes of a number, k of them. -/
def beBytes (k n : Nat) : List Byte := (leBytes k n).reverse

/-- SHA-256 of a byte string, as the 32-byte string its standard gives (R8). -/
def sha256 (l : List Byte) : List Byte :=
  let m := l ++ BitVec.ofNat 8 0x80 :: List.replicate ((119 - l.length % 64) % 64) 0 ++ beBytes 8 (8 * l.length)
  let blocks := (List.range (m.length / 64)).map (fun (i : Nat) => slice m (64 * i) 64)
  (blocks.foldl shaBlock ((shaPrimes.take 8).map (rootWord 2))).flatMap (fun x => beBytes 4 x.toNat)

/-- The product in GF(2^8) with polynomial 0x11D, k steps. -/
def gfMulAux : Nat → Nat → Nat → Nat → Nat
  | 0, _, _, r => r
  | k + 1, a, b, r =>
    gfMulAux k (let x := 2 * a; if x ≥ 256 then x ^^^ 0x11D else x) (b / 2) (if b % 2 = 1 then r ^^^ a else r)

/-- The product in GF(2^8). -/
def gfMul (a b : Nat) : Nat := gfMulAux 8 a b 0

/-- A power in GF(2^8). -/
def gfPow (a : Nat) : Nat → Nat
  | 0 => 1
  | n + 1 => gfMul a (gfPow a n)

/-- The inverse in GF(2^8): the 254th power. -/
def gfInv (a : Nat) : Nat := gfPow a 254

end Sys2Proof.Machine
end

