-- ==== Sys2Proof/Machine/RegTable.lean ====
section
/-! DEFINITION. Every register of the spec's register tables: its name, window, offset, index strides and counts, and fields
with access code (Table 0.4), reset value and allowed encodings; and one name per field. -/

namespace Sys2Proof.Machine

/-- The access codes of Table 0.4 (R12). -/
inductive Acc where
  | ro
  | rw
  | wo
  | w1c
  | rc
deriving DecidableEq, Repr

/-- One field of a register: lowest bit, width, access code, reset value, and the ranges of values that are no reserved
encodings (none listed: every value is allowed; R11). -/
structure FieldDesc where
  lo : Nat
  width : Nat
  acc : Acc
  reset : Nat
  allowed : List (Nat × Nat)
deriving DecidableEq, Repr

/-- One row of a register table: name, offset in its window, (stride, count) of each index from the widest, fields. -/
structure RegDesc where
  name : String
  off : Nat
  dims : List (Nat × Nat)
  fields : List FieldDesc
deriving DecidableEq, Repr

/-- A register field by name: offset in its window (index 0), lowest bit, width. -/
structure Fld where
  off : Nat
  lo : Nat
  width : Nat
deriving DecidableEq, Repr

/-- The same field d bytes further on, for an indexed register. -/
def Fld.idx (f : Fld) (d : Nat) : Fld := ⟨f.off + d, f.lo, f.width⟩

/-- Registers of the rgn window, part 0. -/
def regs_rgn_0 : List RegDesc :=
  [⟨"RGN_ACLK", 0x0, [], [⟨0, 4, .rw, 0xa, []⟩, ⟨8, 4, .ro, 0xa, []⟩, ⟨12, 4, .ro, 0xa, []⟩, ⟨16, 1, .ro, 0, []⟩, ⟨17, 1, .w1c, 0, []⟩, ⟨18, 1, .w1c, 0, []⟩]⟩,
   ⟨"RGN_LDO_STAT", 0x4, [], [⟨0, 10, .ro, 0, []⟩, ⟨10, 1, .ro, 0, []⟩, ⟨11, 1, .w1c, 0, []⟩]⟩,
   ⟨"RGN_GOV_CTL", 0x10, [], [⟨0, 20, .rw, 0x6e000, []⟩, ⟨20, 5, .rw, 4, [(1, 16)]⟩]⟩,
   ⟨"RGN_GOV_STAT", 0x14, [], [⟨0, 28, .rc, 0, []⟩, ⟨28, 2, .ro, 0, []⟩]⟩,
   ⟨"RGN_GOV_EVT", 0x18, [], [⟨0, 16, .rc, 0, []⟩, ⟨16, 16, .rc, 0, []⟩]⟩,
   ⟨"RGN_XING_STALL", 0x1000, [], [⟨0, 32, .rc, 0, []⟩]⟩,
   ⟨"RGN_RTR_FLITS", 0x1100, [(0x40, 16), (0x4, 5)], [⟨0, 32, .rc, 0, []⟩]⟩,
   ⟨"RGN_RTR_STALL", 0x1114, [(0x40, 16), (0x4, 5)], [⟨0, 32, .rc, 0, []⟩]⟩,
   ⟨"RGN_RTR_ERR", 0x1128, [(0x40, 16)], [⟨0, 16, .rc, 0, []⟩, ⟨16, 5, .ro, 0, []⟩]⟩,
   ⟨"RGN_ERR_REC_LO", 0x100, [], [⟨0, 32, .ro, 0, []⟩]⟩,
   ⟨"RGN_ERR_REC_HI", 0x104, [], [⟨0, 32, .ro, 0, []⟩]⟩,
   ⟨"RGN_ERR_STAT", 0x108, [], [⟨0, 1, .w1c, 0, []⟩, ⟨1, 1, .w1c, 0, []⟩, ⟨2, 1, .ro, 0, []⟩, ⟨8, 8, .rc, 0, []⟩, ⟨16, 16, .ro, 0, []⟩]⟩]

/-- Registers of the rgn window, part 1. -/
def regs_rgn_1 : List RegDesc :=
  [⟨"RGN_ERR_FENCE", 0x10c, [], [⟨0, 16, .ro, 0, []⟩]⟩]

/-- Registers of the rgn window. -/
def regs_rgn : List RegDesc := regs_rgn_0 ++ regs_rgn_1

/-- Registers of the chip window, part 0. -/
def regs_chip_0 : List RegDesc :=
  [⟨"CHIP_ACC_ERR", 0x20, [], [⟨0, 1, .w1c, 0, []⟩, ⟨1, 1, .w1c, 0, []⟩, ⟨2, 1, .w1c, 0, []⟩]⟩,
   ⟨"CHIP_ACC_ADDR", 0x24, [], [⟨0, 32, .ro, 0, []⟩]⟩,
   ⟨"CHIP_STATE", 0x10, [], [⟨0, 4, .ro, 1, []⟩, ⟨4, 4, .ro, 0, []⟩, ⟨8, 1, .w1c, 0, []⟩, ⟨16, 16, .ro, 0, []⟩]⟩,
   ⟨"CHIP_ID", 0x0, [], [⟨0, 16, .ro, 0x4096, []⟩, ⟨16, 8, .ro, 0xb1, []⟩]⟩,
   ⟨"CHIP_SERIAL_LO", 0x8, [], [⟨0, 32, .ro, 0, []⟩]⟩,
   ⟨"CHIP_SERIAL_HI", 0xc, [], [⟨0, 32, .ro, 0, []⟩]⟩,
   ⟨"CHIP_RST", 0x30, [], [⟨0, 16, .wo, 0, []⟩, ⟨16, 1, .wo, 0, []⟩]⟩,
   ⟨"CHIP_RST_CAUSE", 0x34, [], [⟨0, 2, .ro, 0, []⟩, ⟨4, 4, .ro, 0, []⟩]⟩,
   ⟨"CHIP_BOOT", 0x38, [], [⟨0, 2, .ro, 0, []⟩, ⟨2, 1, .ro, 0, []⟩, ⟨4, 4, .ro, 1, []⟩, ⟨8, 8, .ro, 0, []⟩, ⟨16, 16, .ro, 0, []⟩]⟩]

/-- Registers of the chip window. -/
def regs_chip : List RegDesc := regs_chip_0

/-- Registers of the mac window, part 0. -/
def regs_mac_0 : List RegDesc :=
  [⟨"MAC_CFG", 0x0, [], [⟨0, 2, .rw, 0, []⟩, ⟨2, 2, .rw, 0, [(0, 2)]⟩, ⟨4, 4, .rw, 0, []⟩, ⟨8, 1, .rw, 0, []⟩]⟩,
   ⟨"MAC_STAT", 0x4, [], [⟨0, 3, .ro, 0, []⟩, ⟨3, 1, .w1c, 0, []⟩]⟩,
   ⟨"MAC_PLANES", 0x8, [], [⟨0, 32, .rc, 0, []⟩]⟩,
   ⟨"MAC_SKIPS", 0xc, [], [⟨0, 32, .rc, 0, []⟩]⟩,
   ⟨"MAC_ECC_CTL", 0x10, [], [⟨0, 8, .rw, 0x40, [(1, 255)]⟩, ⟨8, 1, .rw, 1, []⟩, ⟨9, 1, .rw, 1, []⟩, ⟨16, 8, .rw, 0x10, [(1, 255)]⟩]⟩,
   ⟨"MAC_ECC_STAT", 0x14, [], [⟨0, 16, .rc, 0, []⟩, ⟨16, 1, .w1c, 0, []⟩, ⟨17, 1, .w1c, 0, []⟩, ⟨18, 1, .w1c, 0, []⟩, ⟨19, 1, .w1c, 0, []⟩]⟩,
   ⟨"MAC_ECC_ADDR", 0x18, [], [⟨0, 9, .ro, 0, []⟩, ⟨16, 11, .ro, 0, []⟩, ⟨31, 1, .ro, 0, []⟩]⟩,
   ⟨"MAC_SCRUB_POS", 0x1c, [], [⟨0, 9, .ro, 0, []⟩, ⟨16, 16, .ro, 0, []⟩]⟩,
   ⟨"MAC_REMAP", 0x40, [(0x4, 16)], [⟨0, 11, .rw, 0, [(0, 1095)]⟩, ⟨15, 1, .rw, 0, []⟩, ⟨16, 1, .ro, 0, []⟩, ⟨17, 1, .ro, 0, []⟩]⟩,
   ⟨"MAC_SHADOW_CTL", 0x90, [], [⟨0, 1, .wo, 0, []⟩, ⟨1, 1, .wo, 0, []⟩, ⟨2, 1, .ro, 0, []⟩, ⟨3, 1, .w1c, 0, []⟩]⟩,
   ⟨"MAC_SHADOW_DIRTY", 0xa0, [(0x4, 16)], [⟨0, 32, .ro, 0, []⟩]⟩,
   ⟨"MAC_POISON", 0xe0, [(0x4, 16)], [⟨0, 32, .ro, 0, []⟩]⟩]

/-- Registers of the mac window, part 1. -/
def regs_mac_1 : List RegDesc :=
  [⟨"MAC_RMON_CTL", 0x180, [], [⟨0, 8, .rw, 0xf8, []⟩, ⟨8, 4, .rw, 4, [(1, 15)]⟩, ⟨12, 1, .rw, 1, []⟩, ⟨13, 1, .w1c, 0, []⟩, ⟨16, 8, .ro, 0, []⟩]⟩,
   ⟨"MAC_RMON_MIN", 0x200, [(0x80, 8)], [⟨0, 32, .ro, 0, []⟩]⟩,
   ⟨"MAC_RMON_MAX", 0x204, [(0x80, 8)], [⟨0, 32, .ro, 0, []⟩]⟩,
   ⟨"MAC_RMON_MEAN", 0x208, [(0x80, 8)], [⟨0, 32, .ro, 0, []⟩]⟩,
   ⟨"MAC_RMON_CNT", 0x20c, [(0x80, 8)], [⟨0, 32, .ro, 0, []⟩]⟩,
   ⟨"MAC_RMON_HIST", 0x240, [(0x80, 8), (0x4, 16)], [⟨0, 32, .ro, 0, []⟩]⟩,
   ⟨"MAC_ENV_MAX_LO", 0x600, [(0x10, 8)], [⟨0, 32, .rw, 0xff800000, []⟩]⟩,
   ⟨"MAC_ENV_MAX_HI", 0x604, [(0x10, 8)], [⟨0, 32, .rw, 0x7f800000, []⟩]⟩,
   ⟨"MAC_ENV_MEAN_LO", 0x608, [(0x10, 8)], [⟨0, 32, .rw, 0xff800000, []⟩]⟩,
   ⟨"MAC_ENV_MEAN_HI", 0x60c, [(0x10, 8)], [⟨0, 32, .rw, 0x7f800000, []⟩]⟩,
   ⟨"MAC_RB_CTL", 0x800, [], [⟨0, 9, .rw, 0, []⟩, ⟨16, 1, .wo, 0, []⟩, ⟨17, 1, .ro, 0, []⟩, ⟨18, 1, .ro, 0, []⟩, ⟨19, 1, .ro, 0, []⟩]⟩,
   ⟨"MAC_RB_DATA", 0x840, [(0x4, 32)], [⟨0, 32, .ro, 0, []⟩]⟩]

/-- Registers of the mac window. -/
def regs_mac : List RegDesc := regs_mac_0 ++ regs_mac_1

/-- Registers of the blk window, part 0. -/
def regs_blk_0 : List RegDesc :=
  [⟨"BLK_SEQ_CTL", 0x0, [], [⟨0, 32, .rw, 0, []⟩]⟩,
   ⟨"BLK_SEQ_STAT", 0x8, [], [⟨0, 7, .ro, 0, []⟩, ⟨7, 1, .w1c, 0, []⟩, ⟨8, 7, .rc, 0, []⟩, ⟨16, 5, .ro, 0, []⟩]⟩,
   ⟨"BLK_EVT_FLAGS", 0x20, [], [⟨0, 1, .w1c, 0, []⟩, ⟨1, 1, .w1c, 0, []⟩, ⟨2, 1, .w1c, 0, []⟩, ⟨3, 1, .w1c, 0, []⟩]⟩,
   ⟨"BLK_EVT_CNT0", 0x24, [], [⟨0, 16, .rc, 0, []⟩, ⟨16, 16, .rc, 0, []⟩]⟩,
   ⟨"BLK_EVT_CNT1", 0x28, [], [⟨0, 16, .rc, 0, []⟩, ⟨16, 16, .rc, 0, []⟩]⟩,
   ⟨"BLK_FAULT", 0x30, [], [⟨0, 8, .ro, 0, []⟩, ⟨8, 5, .ro, 0, []⟩, ⟨16, 16, .ro, 0, []⟩]⟩,
   ⟨"BLK_FAULT_STAT", 0x34, [], [⟨0, 1, .w1c, 0, []⟩, ⟨1, 1, .w1c, 0, []⟩]⟩,
   ⟨"BLK_WAIT", 0x44, [(0x4, 9)], [⟨0, 32, .rc, 0, []⟩]⟩,
   ⟨"BLK_CORR_STAT", 0x68, [], [⟨0, 16, .rc, 0, []⟩, ⟨16, 16, .rc, 0, []⟩]⟩,
   ⟨"BLK_CTX_STAT", 0x100, [(0x4, 32)], [⟨0, 3, .ro, 0, []⟩, ⟨4, 4, .ro, 0, []⟩, ⟨8, 16, .ro, 0, []⟩, ⟨24, 8, .ro, 0, []⟩]⟩,
   ⟨"BLK_CTX_CFG", 0x200, [(0x4, 32)], [⟨0, 2, .rw, 0, []⟩]⟩,
   ⟨"BLK_CTX_WIN", 0x400, [(0x8, 32), (0x4, 2)], [⟨0, 13, .rw, 0, []⟩, ⟨16, 13, .rw, 0, []⟩, ⟨31, 1, .rw, 0, []⟩]⟩]

/-- Registers of the blk window, part 1. -/
def regs_blk_1 : List RegDesc :=
  [⟨"SPD_STAT", 0x10000, [], [⟨0, 16, .rc, 0, []⟩, ⟨16, 1, .w1c, 0, []⟩, ⟨17, 1, .w1c, 0, []⟩, ⟨18, 1, .w1c, 0, []⟩, ⟨19, 1, .w1c, 0, []⟩]⟩,
   ⟨"SPD_ECC_ADDR", 0x10004, [], [⟨0, 13, .ro, 0, []⟩, ⟨16, 3, .ro, 0, []⟩, ⟨31, 1, .ro, 0, []⟩]⟩,
   ⟨"SPD_CIRC_BASE", 0x10100, [(0x10, 16)], [⟨0, 13, .rw, 0, []⟩, ⟨31, 1, .rw, 0, []⟩]⟩,
   ⟨"SPD_CIRC_CFG", 0x10104, [(0x10, 16)], [⟨0, 10, .rw, 0, [(1, 1023)]⟩, ⟨16, 10, .rw, 0, [(1, 1023)]⟩, ⟨28, 1, .rw, 0, []⟩]⟩,
   ⟨"SPD_CIRC_PTR", 0x10108, [(0x10, 16)], [⟨0, 11, .ro, 0, []⟩, ⟨16, 11, .ro, 0, []⟩]⟩,
   ⟨"SPD_CIRC_SRC", 0x1010c, [(0x10, 16)], [⟨0, 9, .rw, 0, [(0, 271)]⟩]⟩,
   ⟨"SPD_OUT_CRED", 0x10200, [(0x4, 16)], [⟨0, 11, .ro, 0, []⟩, ⟨16, 16, .rc, 0, []⟩]⟩,
   ⟨"SPD_ATOM_WIN", 0x10300, [], [⟨0, 13, .rw, 0, []⟩, ⟨16, 13, .rw, 0, []⟩, ⟨31, 1, .rw, 0, []⟩]⟩,
   ⟨"SPD_ATOM_CNT", 0x10340, [(0x4, 16)], [⟨0, 32, .ro, 0, []⟩]⟩,
   ⟨"SPD_RET", 0x10380, [], [⟨0, 13, .rw, 0, []⟩, ⟨16, 7, .rw, 0, [(1, 64)]⟩, ⟨31, 1, .rw, 0, []⟩]⟩,
   ⟨"SPD_SHADOW_CTL", 0x10384, [], [⟨0, 1, .wo, 0, []⟩, ⟨1, 1, .wo, 0, []⟩, ⟨2, 1, .ro, 0, []⟩, ⟨3, 1, .w1c, 0, []⟩]⟩,
   ⟨"SPD_SHADOW_DIRTY", 0x10388, [(0x4, 2)], [⟨0, 32, .ro, 0, []⟩]⟩]

/-- Registers of the blk window, part 2. -/
def regs_blk_2 : List RegDesc :=
  [⟨"SPD_CONFLICT", 0x10400, [(0x4, 16)], [⟨0, 32, .rc, 0, []⟩]⟩,
   ⟨"SPE_STAT", 0x20000, [], [⟨0, 1, .ro, 0, []⟩, ⟨1, 1, .w1c, 0, []⟩, ⟨2, 1, .w1c, 0, []⟩, ⟨3, 1, .w1c, 0, []⟩, ⟨4, 1, .w1c, 0, []⟩]⟩,
   ⟨"SPE_META_ERR", 0x20004, [], [⟨0, 4, .ro, 0, []⟩, ⟨8, 1, .ro, 0, []⟩, ⟨16, 12, .ro, 0, []⟩]⟩,
   ⟨"SPE_TILES_DENSE", 0x20010, [], [⟨0, 32, .rc, 0, []⟩]⟩,
   ⟨"SPE_TILES_SPARSE", 0x20014, [], [⟨0, 32, .rc, 0, []⟩]⟩,
   ⟨"SPE_EXP_SKIP", 0x20018, [], [⟨0, 32, .rc, 0, []⟩]⟩,
   ⟨"SPE_ENTRIES", 0x2001c, [], [⟨0, 32, .rc, 0, []⟩]⟩,
   ⟨"SPE_SPLITS", 0x20020, [], [⟨0, 32, .rc, 0, []⟩]⟩,
   ⟨"SPE_LANE_IDLE", 0x20024, [], [⟨0, 32, .rc, 0, []⟩]⟩,
   ⟨"SPE_CMP_TILES", 0x20028, [], [⟨0, 32, .rc, 0, []⟩]⟩,
   ⟨"SPE_CMP_LINES", 0x2002c, [], [⟨0, 32, .rc, 0, []⟩]⟩,
   ⟨"SPE_BE0", 0x20040, [], [⟨0, 16, .rw, 0x6148, []⟩, ⟨16, 16, .rw, 0x3852, []⟩]⟩]

/-- Registers of the blk window, part 3. -/
def regs_blk_3 : List RegDesc :=
  [⟨"SPE_BE1", 0x20044, [], [⟨0, 16, .rw, 0x4ccd, []⟩]⟩,
   ⟨"SPE_STAGED", 0x20080, [(0x4, 16)], [⟨0, 32, .ro, 0, []⟩]⟩,
   ⟨"SPE_STAGED_VLD", 0x200c0, [], [⟨0, 16, .ro, 0, []⟩]⟩,
   ⟨"SPE_BIND_0", 0x20100, [(0x10, 16)],
     [⟨0, 12, .rw, 0, []⟩, ⟨12, 2, .rw, 0, [(0, 2)]⟩, ⟨15, 1, .rw, 0, []⟩, ⟨16, 12, .rw, 0, []⟩, ⟨28, 4, .rw, 0, [(0, 2), (4, 5)]⟩]⟩,
   ⟨"SPE_BIND_1", 0x20104, [(0x10, 16)], [⟨0, 5, .rw, 0, []⟩, ⟨5, 2, .rw, 0, []⟩]⟩,
   ⟨"SPE_BIND_2", 0x20108, [(0x10, 16)], [⟨0, 32, .rw, 0, []⟩]⟩,
   ⟨"SPE_BIND_3", 0x2010c, [(0x10, 16)], [⟨0, 16, .rw, 0, []⟩]⟩,
   ⟨"CIR_CFG", 0x30000, [], [⟨0, 11, .rw, 0x400, [(1, 1024)]⟩, ⟨11, 1, .rw, 0, []⟩, ⟨12, 1, .rw, 1, []⟩, ⟨16, 4, .rw, 0, [(0, 8)]⟩, ⟨20, 4, .rw, 4, [(0, 8), (15, 15)]⟩]⟩,
   ⟨"CIR_PRED_DESC", 0x30004, [], [⟨0, 12, .rw, 0, []⟩]⟩,
   ⟨"CIR_THRESH", 0x30008, [], [⟨0, 24, .rw, 0, []⟩]⟩,
   ⟨"CIR_THR_MIN", 0x3000c, [], [⟨0, 24, .rw, 0x800000, []⟩]⟩,
   ⟨"CIR_DOUBT", 0x30010, [], [⟨0, 24, .rw, 0, []⟩]⟩]

/-- Registers of the blk window, part 4. -/
def regs_blk_4 : List RegDesc :=
  [⟨"CIR_AUTO", 0x30014, [], [⟨0, 24, .rw, 0x100, []⟩]⟩,
   ⟨"CIR_MISS_CTL", 0x30018, [], [⟨0, 8, .rw, 4, []⟩, ⟨8, 8, .rw, 0x10, []⟩, ⟨16, 4, .rw, 4, []⟩]⟩,
   ⟨"CIR_LIVE", 0x3001c, [], [⟨0, 32, .rw, 1, []⟩]⟩,
   ⟨"CIR_MAP", 0x30040, [(0x4, 16)], [⟨0, 8, .rw, 0, []⟩, ⟨8, 3, .rw, 0, []⟩, ⟨15, 1, .rw, 0, []⟩]⟩,
   ⟨"CIR_STAT", 0x30100, [], [⟨0, 1, .ro, 0, []⟩, ⟨1, 1, .ro, 0, []⟩, ⟨2, 1, .w1c, 0, []⟩, ⟨3, 1, .w1c, 0, []⟩, ⟨4, 1, .w1c, 0, []⟩]⟩,
   ⟨"CIR_CAL_STAT", 0x30104, [], [⟨0, 8, .ro, 0, []⟩, ⟨8, 8, .ro, 0, []⟩, ⟨16, 16, .ro, 0, []⟩]⟩,
   ⟨"CIR_FAIL", 0x30110, [(0x4, 8)], [⟨0, 32, .ro, 0, []⟩]⟩,
   ⟨"CIR_EVAL", 0x30140, [], [⟨0, 32, .rc, 0, []⟩]⟩,
   ⟨"CIR_PREDICTED", 0x30144, [], [⟨0, 32, .rc, 0, []⟩]⟩,
   ⟨"CIR_SKIPPED", 0x30148, [], [⟨0, 32, .rc, 0, []⟩]⟩,
   ⟨"CIR_DOUBT_CNT", 0x3014c, [], [⟨0, 32, .rc, 0, []⟩]⟩,
   ⟨"CIR_AUDITED", 0x30150, [], [⟨0, 32, .rc, 0, []⟩]⟩]

/-- Registers of the blk window, part 5. -/
def regs_blk_5 : List RegDesc :=
  [⟨"CIR_MISS", 0x30154, [], [⟨0, 32, .rc, 0, []⟩]⟩,
   ⟨"CIR_MISS_DOUBT", 0x30158, [], [⟨0, 32, .rc, 0, []⟩]⟩,
   ⟨"CIR_ALLACT", 0x3015c, [], [⟨0, 32, .rc, 0, []⟩]⟩,
   ⟨"POST_RESCALE_SCALE", 0x40000, [(0x1000, 16), (0xc, 256)], [⟨0, 16, .rw, 0, []⟩]⟩,
   ⟨"POST_RESCALE_BIAS", 0x40004, [(0x1000, 16), (0xc, 256)], [⟨0, 32, .rw, 0, []⟩]⟩,
   ⟨"POST_RESCALE_COLSUM", 0x40008, [(0x1000, 16), (0xc, 256)], [⟨0, 32, .rw, 0, []⟩]⟩,
   ⟨"POST_AFFINE", 0x40c00, [(0x1000, 16), (0x4, 256)], [⟨0, 16, .rw, 0, []⟩, ⟨16, 16, .rw, 0, []⟩]⟩,
   ⟨"POST_ACT_LO", 0x50000, [(0x400, 4)], [⟨0, 32, .rw, 0, []⟩]⟩,
   ⟨"POST_ACT_INV_W", 0x50004, [(0x400, 4)], [⟨0, 32, .rw, 0, []⟩]⟩,
   ⟨"POST_ACT_CTL", 0x50008, [(0x400, 4)], [⟨0, 2, .rw, 0, [(0, 1)]⟩, ⟨8, 8, .rw, 0, []⟩, ⟨16, 2, .rw, 0, [(0, 2)]⟩]⟩,
   ⟨"POST_ACT_RSV", 0x5000c, [(0x400, 4)], []⟩,
   ⟨"POST_ACT_C0", 0x50010, [(0x400, 4), (0xc, 64)], [⟨0, 32, .rw, 0, []⟩]⟩]

/-- Registers of the blk window, part 6. -/
def regs_blk_6 : List RegDesc :=
  [⟨"POST_ACT_C1", 0x50014, [(0x400, 4), (0xc, 64)], [⟨0, 32, .rw, 0, []⟩]⟩,
   ⟨"POST_ACT_C2", 0x50018, [(0x400, 4), (0xc, 64)], [⟨0, 32, .rw, 0, []⟩]⟩]

/-- Registers of the blk window. -/
def regs_blk : List RegDesc := regs_blk_0 ++ regs_blk_1 ++ regs_blk_2 ++ regs_blk_3 ++ regs_blk_4 ++ regs_blk_5 ++ regs_blk_6

/-- Registers of the cad window, part 0. -/
def regs_cad_0 : List RegDesc :=
  [⟨"CAD_CTL", 0x0, [], [⟨0, 1, .rw, 1, []⟩, ⟨1, 2, .rw, 0, [(0, 2)]⟩, ⟨3, 1, .rw, 0, []⟩, ⟨4, 4, .rw, 0, []⟩, ⟨16, 16, .rw, 0, []⟩]⟩,
   ⟨"CAD_OUT_DELAY", 0x4, [], [⟨0, 14, .rw, 0, [(0, 10000)]⟩]⟩,
   ⟨"CAD_SLOT_LO", 0x8, [], [⟨0, 32, .ro, 0, []⟩]⟩,
   ⟨"CAD_SLOT_HI", 0xc, [], [⟨0, 16, .ro, 0, []⟩]⟩,
   ⟨"CAD_SLOT_SET_LO", 0x10, [], [⟨0, 32, .rw, 0, []⟩]⟩,
   ⟨"CAD_SLOT_SET_HI", 0x14, [], [⟨0, 16, .rw, 0, []⟩]⟩,
   ⟨"CAD_CMD", 0x18, [], [⟨0, 1, .wo, 0, []⟩]⟩,
   ⟨"CAD_PHASE", 0x1c, [], [⟨0, 16, .ro, 0, []⟩, ⟨16, 1, .ro, 0, []⟩, ⟨17, 1, .ro, 1, []⟩]⟩,
   ⟨"CAD_PERIOD", 0x20, [], [⟨0, 23, .ro, 0, []⟩, ⟨24, 4, .ro, 0, []⟩]⟩,
   ⟨"CAD_LAST", 0x24, [], [⟨0, 23, .ro, 0, []⟩]⟩,
   ⟨"CAD_STAT", 0x28, [], [⟨0, 1, .w1c, 0, []⟩, ⟨1, 1, .w1c, 0, []⟩, ⟨2, 1, .w1c, 0, []⟩, ⟨3, 1, .w1c, 0, []⟩]⟩,
   ⟨"CAD_LATE_CNT", 0x2c, [], [⟨0, 32, .rc, 0, []⟩]⟩]

/-- Registers of the cad window, part 1. -/
def regs_cad_1 : List RegDesc :=
  [⟨"CAD_COUNTS", 0x30, [], [⟨0, 16, .rc, 0, []⟩, ⟨16, 16, .rc, 0, []⟩]⟩,
   ⟨"CAD_RESYNC_DELTA", 0x34, [], [⟨0, 32, .ro, 0, []⟩]⟩,
   ⟨"CAD_LATE_INFO", 0x38, [], [⟨0, 8, .ro, 0, []⟩, ⟨8, 5, .ro, 0, []⟩, ⟨16, 10, .ro, 0, []⟩]⟩]

/-- Registers of the cad window. -/
def regs_cad : List RegDesc := regs_cad_0 ++ regs_cad_1

/-- Registers of the hbm window, part 0. -/
def regs_hbm_0 : List RegDesc :=
  [⟨"HBM_CTL", 0x0, [], [⟨0, 1, .rw, 1, []⟩]⟩,
   ⟨"HBM_STAT", 0x4, [], [⟨0, 1, .w1c, 0, []⟩, ⟨1, 1, .w1c, 0, []⟩, ⟨2, 1, .w1c, 0, []⟩, ⟨3, 1, .w1c, 0, []⟩, ⟨4, 1, .w1c, 0, []⟩, ⟨5, 1, .w1c, 0, []⟩, ⟨6, 1, .ro, 0, []⟩]⟩,
   ⟨"HBM_CE_CNT", 0x8, [], [⟨0, 32, .rc, 0, []⟩]⟩,
   ⟨"HBM_ERR_ADDR_LO", 0x10, [], [⟨0, 32, .ro, 0, []⟩]⟩,
   ⟨"HBM_ERR_ADDR_HI", 0x14, [], [⟨0, 4, .ro, 0, []⟩, ⟨8, 2, .ro, 0, []⟩, ⟨10, 9, .ro, 0, []⟩]⟩,
   ⟨"HBM_TEMP", 0x18, [], [⟨0, 8, .ro, 0, []⟩, ⟨8, 1, .ro, 0, []⟩, ⟨16, 8, .rw, 0x5f, []⟩]⟩,
   ⟨"HBM_SCRUB_CTL", 0x1c, [], [⟨0, 8, .rw, 2, [(1, 255)]⟩]⟩,
   ⟨"HBM_SCRUB_POS", 0x20, [], [⟨0, 16, .ro, 0, []⟩]⟩,
   ⟨"HBM_PROT_BASE", 0x100, [(0x10, 8)], [⟨0, 22, .rw, 0, []⟩, ⟨31, 1, .rw, 0, []⟩]⟩,
   ⟨"HBM_PROT_LIMIT", 0x104, [(0x10, 8)], [⟨0, 22, .rw, 0, []⟩]⟩,
   ⟨"HBM_PROT_ACC", 0x108, [(0x10, 8)], [⟨0, 1, .rw, 0, []⟩, ⟨1, 1, .rw, 0, []⟩, ⟨2, 1, .rw, 0, []⟩, ⟨3, 1, .rw, 0, []⟩, ⟨4, 1, .rw, 0, []⟩, ⟨5, 1, .rw, 0, []⟩]⟩,
   ⟨"HBM_PC_RD", 0x200, [(0x10, 32)], [⟨0, 32, .rc, 0, []⟩]⟩]

/-- Registers of the hbm window, part 1. -/
def regs_hbm_1 : List RegDesc :=
  [⟨"HBM_PC_WR", 0x204, [(0x10, 32)], [⟨0, 32, .rc, 0, []⟩]⟩,
   ⟨"HBM_PC_ATOM", 0x208, [(0x10, 32)], [⟨0, 32, .rc, 0, []⟩]⟩,
   ⟨"HBM_PC_QPEAK", 0x20c, [(0x10, 32)], [⟨0, 10, .rc, 0, []⟩]⟩]

/-- Registers of the hbm window. -/
def regs_hbm : List RegDesc := regs_hbm_0 ++ regs_hbm_1

/-- Registers of the cur window, part 0. -/
def regs_cur_0 : List RegDesc :=
  [⟨"CUR_CTL", 0x0, [], [⟨0, 1, .rw, 1, []⟩, ⟨1, 1, .wo, 0, []⟩, ⟨2, 1, .rw, 1, []⟩, ⟨3, 2, .rw, 0, []⟩, ⟨5, 1, .rw, 0, []⟩, ⟨8, 3, .rw, 7, [(1, 7)]⟩, ⟨16, 4, .rw, 8, []⟩]⟩,
   ⟨"CUR_STAT", 0x4, [], [⟨0, 3, .ro, 0, []⟩, ⟨3, 2, .ro, 0, []⟩, ⟨5, 1, .ro, 0, []⟩, ⟨6, 1, .w1c, 0, []⟩, ⟨7, 1, .w1c, 0, []⟩, ⟨8, 8, .ro, 0, []⟩]⟩,
   ⟨"CUR_PEER", 0x8, [], [⟨0, 12, .ro, 0, []⟩, ⟨12, 4, .ro, 0, []⟩, ⟨16, 4, .ro, 0, []⟩, ⟨20, 3, .ro, 0, []⟩]⟩,
   ⟨"CUR_FEAT_EN_LO", 0x10, [], [⟨0, 32, .rw, 0x7f, []⟩]⟩,
   ⟨"CUR_FEAT_EN_HI", 0x14, [], [⟨0, 32, .rw, 0, []⟩]⟩,
   ⟨"CUR_FEAT_LO", 0x18, [], [⟨0, 32, .ro, 0, []⟩]⟩,
   ⟨"CUR_FEAT_HI", 0x1c, [], [⟨0, 32, .ro, 0, []⟩]⟩,
   ⟨"CUR_VC_BUF", 0x20, [(0x4, 8)], [⟨0, 11, .rw, 0x80, []⟩]⟩,
   ⟨"CUR_FEC_CW", 0x40, [], [⟨0, 32, .rc, 0, []⟩]⟩,
   ⟨"CUR_FEC_CORR", 0x44, [], [⟨0, 32, .rc, 0, []⟩]⟩,
   ⟨"CUR_FEC_UNCORR", 0x48, [], [⟨0, 32, .rc, 0, []⟩]⟩,
   ⟨"CUR_RETRY", 0x4c, [], [⟨0, 16, .rc, 0, []⟩, ⟨16, 16, .rc, 0, []⟩]⟩]

/-- Registers of the cur window, part 1. -/
def regs_cur_1 : List RegDesc :=
  [⟨"CUR_TX_FLITS", 0x50, [], [⟨0, 32, .rc, 0, []⟩]⟩,
   ⟨"CUR_RX_FLITS", 0x54, [], [⟨0, 32, .rc, 0, []⟩]⟩]

/-- Registers of the cur window. -/
def regs_cur : List RegDesc := regs_cur_0 ++ regs_cur_1

/-- Registers of the curShared window, part 0. -/
def regs_curShared_0 : List RegDesc :=
  [⟨"CUR_COORD", 0x0, [], [⟨0, 12, .rw, 0, []⟩]⟩,
   ⟨"CUR_HANDOFF", 0x4, [], [⟨0, 12, .rw, 0, []⟩, ⟨12, 1, .rw, 0, []⟩, ⟨13, 1, .rw, 0, []⟩]⟩,
   ⟨"CUR_RSP_TIMEOUT", 0x8, [], [⟨0, 16, .rw, 0x3e8, [(1, 65535)]⟩]⟩,
   ⟨"CUR_ERR", 0xc, [], [⟨0, 1, .w1c, 0, []⟩, ⟨1, 1, .w1c, 0, []⟩, ⟨2, 1, .w1c, 0, []⟩, ⟨3, 1, .w1c, 0, []⟩]⟩,
   ⟨"CUR_CNT", 0x10, [], [⟨0, 16, .rc, 0, []⟩, ⟨16, 16, .rc, 0, []⟩]⟩,
   ⟨"CUR_ROUTE", 0x4000, [(0x4, 4096)], [⟨0, 16, .rw, 0, []⟩]⟩,
   ⟨"CUR_COLL_CFG", 0x8000, [(0x20, 64)], [⟨0, 16, .rw, 0, []⟩, ⟨16, 4, .rw, 0, []⟩, ⟨20, 1, .rw, 0, []⟩, ⟨21, 1, .rw, 0, []⟩, ⟨22, 2, .rw, 0, [(0, 2)]⟩, ⟨24, 1, .rw, 0, []⟩, ⟨31, 1, .rw, 0, []⟩]⟩,
   ⟨"CUR_COLL_LINES", 0x8004, [(0x20, 64)], [⟨0, 20, .rw, 0, [(1, 1048575)]⟩]⟩,
   ⟨"CUR_COLL_STAGE_LO", 0x8008, [(0x20, 64)], [⟨0, 32, .rw, 0, []⟩]⟩,
   ⟨"CUR_COLL_STAGE_HI", 0x800c, [(0x20, 64)], [⟨0, 4, .rw, 0, []⟩]⟩,
   ⟨"CUR_COLL_RESULT_LO", 0x8010, [(0x20, 64)], [⟨0, 32, .rw, 0, []⟩]⟩,
   ⟨"CUR_COLL_RESULT_HI", 0x8014, [(0x20, 64)], [⟨0, 4, .rw, 0, []⟩]⟩]

/-- Registers of the curShared window, part 1. -/
def regs_curShared_1 : List RegDesc :=
  [⟨"CUR_COLL_DONE", 0x8018, [(0x20, 64)], [⟨0, 8, .rw, 0, []⟩, ⟨8, 4, .rw, 0, []⟩, ⟨12, 1, .rw, 0, []⟩]⟩,
   ⟨"CUR_COLL_COUNT", 0x801c, [(0x20, 64)], [⟨0, 20, .ro, 0, []⟩]⟩]

/-- Registers of the curShared window. -/
def regs_curShared : List RegDesc := regs_curShared_0 ++ regs_curShared_1

/-- Registers of the pgh window, part 0. -/
def regs_pgh_0 : List RegDesc :=
  [⟨"PGH_PROT_R0", 0x0, [(0x20, 4)], [⟨0, 12, .rw, 0, []⟩, ⟨16, 12, .rw, 0xfff, []⟩, ⟨28, 1, .rw, 1, []⟩, ⟨29, 1, .rw, 1, []⟩, ⟨30, 1, .rw, 0, []⟩, ⟨31, 1, .rw, 1, []⟩]⟩,
   ⟨"PGH_PROT", 0x4, [(0x20, 4), (0x4, 7)], [⟨0, 12, .rw, 0, []⟩, ⟨16, 12, .rw, 0, []⟩, ⟨28, 1, .rw, 0, []⟩, ⟨29, 1, .rw, 0, []⟩, ⟨30, 1, .rw, 0, []⟩, ⟨31, 1, .rw, 0, []⟩]⟩,
   ⟨"PGH_PROT_STAT", 0x100, [], [⟨0, 4, .w1c, 0, []⟩]⟩,
   ⟨"PGH_PROT_ADDR", 0x104, [], [⟨0, 18, .ro, 0, []⟩, ⟨18, 2, .ro, 0, []⟩, ⟨20, 1, .ro, 0, []⟩]⟩,
   ⟨"PGH_COLL_STAT", 0x108, [], [⟨0, 4, .w1c, 0, []⟩]⟩,
   ⟨"PGH_COLL_ADDR", 0x10c, [], [⟨0, 15, .ro, 0, []⟩, ⟨16, 2, .ro, 0, []⟩, ⟨18, 2, .ro, 0, []⟩]⟩,
   ⟨"PGH_COLL_CNT", 0x110, [], [⟨0, 32, .rc, 0, []⟩]⟩]

/-- Registers of the pgh window. -/
def regs_pgh : List RegDesc := regs_pgh_0

/-- Registers of the sdi window, part 0. -/
def regs_sdi_0 : List RegDesc :=
  [⟨"SDI_BUS", 0x0, [], [⟨0, 1, .ro, 0, []⟩, ⟨1, 3, .ro, 0, []⟩, ⟨4, 1, .ro, 0, []⟩, ⟨5, 1, .ro, 0, []⟩, ⟨6, 2, .ro, 0, []⟩, ⟨16, 16, .ro, 0, []⟩]⟩,
   ⟨"SDI_CRC_ERR", 0x4, [], [⟨0, 16, .rc, 0, []⟩, ⟨16, 16, .rc, 0, []⟩]⟩,
   ⟨"SDI_XFER", 0x8, [], [⟨0, 32, .rc, 0, []⟩]⟩]

/-- Registers of the sdi window. -/
def regs_sdi : List RegDesc := regs_sdi_0

/-- Registers of the nim window, part 0. -/
def regs_nim_0 : List RegDesc :=
  [⟨"NIM_CTL", 0x0, [], [⟨0, 1, .rw, 0, []⟩, ⟨1, 1, .rw, 1, []⟩]⟩,
   ⟨"NIM_STAT", 0x4, [], [⟨0, 3, .ro, 0, []⟩, ⟨3, 2, .ro, 0, []⟩, ⟨5, 1, .ro, 0, []⟩, ⟨6, 1, .ro, 0, []⟩, ⟨7, 1, .ro, 0, []⟩, ⟨8, 1, .w1c, 0, []⟩, ⟨9, 1, .w1c, 0, []⟩]⟩,
   ⟨"NIM_EPOCH", 0x8, [], [⟨0, 32, .ro, 0, []⟩]⟩,
   ⟨"NIM_EPOCH_STEP", 0xc, [], [⟨0, 32, .ro, 0, []⟩]⟩,
   ⟨"NIM_STEP", 0x10, [], [⟨0, 32, .ro, 0, []⟩]⟩,
   ⟨"NIM_GROUP", 0x14, [], [⟨0, 16, .ro, 0xffff, []⟩, ⟨16, 4, .ro, 0, []⟩, ⟨20, 4, .ro, 0, []⟩, ⟨24, 1, .ro, 0, []⟩, ⟨25, 1, .ro, 0, []⟩]⟩,
   ⟨"NIM_TAG", 0x18, [], [⟨0, 4, .ro, 0, []⟩, ⟨4, 1, .ro, 0, []⟩, ⟨8, 4, .ro, 0, []⟩]⟩,
   ⟨"NIM_TIMEOUT", 0x1c, [], [⟨0, 16, .rw, 0x64, [(1, 65535)]⟩]⟩,
   ⟨"NIM_AREA_LO", 0x20, [], [⟨0, 32, .rw, 0, []⟩]⟩,
   ⟨"NIM_AREA_HI", 0x24, [], [⟨0, 4, .rw, 0, []⟩]⟩,
   ⟨"NIM_CHUNKS", 0x28, [], [⟨0, 16, .rw, 0, [(1, 16384)]⟩]⟩,
   ⟨"NIM_SHARD_KIND", 0x40, [(0x10, 8)], [⟨0, 2, .rw, 0, []⟩]⟩]

/-- Registers of the nim window, part 1. -/
def regs_nim_1 : List RegDesc :=
  [⟨"NIM_SHARD_BASE_LO", 0x44, [(0x10, 8)], [⟨0, 32, .rw, 0, []⟩]⟩,
   ⟨"NIM_SHARD_BASE_HI", 0x48, [(0x10, 8)], [⟨0, 4, .rw, 0, []⟩]⟩,
   ⟨"NIM_SHARD_LEN", 0x4c, [(0x10, 8)], [⟨0, 32, .rw, 0, []⟩]⟩,
   ⟨"NIM_GRAD_CTL", 0x100, [], [⟨0, 1, .rw, 0, []⟩, ⟨1, 2, .rw, 0, [(0, 2)]⟩, ⟨4, 8, .rw, 0, []⟩, ⟨12, 4, .rw, 0, []⟩, ⟨16, 16, .rw, 0, []⟩]⟩,
   ⟨"NIM_GRAD_COMMIT", 0x104, [], [⟨0, 8, .rw, 0, []⟩, ⟨8, 4, .rw, 0, []⟩]⟩,
   ⟨"NIM_GRAD_LINES", 0x108, [], [⟨0, 24, .rw, 0, []⟩]⟩,
   ⟨"NIM_GRAD_LOCAL_LO", 0x110, [], [⟨0, 32, .rw, 0, []⟩]⟩,
   ⟨"NIM_GRAD_LOCAL_HI", 0x114, [], [⟨0, 4, .rw, 0, []⟩]⟩,
   ⟨"NIM_GRAD_STAGE_LO", 0x118, [], [⟨0, 32, .rw, 0, []⟩]⟩,
   ⟨"NIM_GRAD_STAGE_HI", 0x11c, [], [⟨0, 4, .rw, 0, []⟩]⟩,
   ⟨"NIM_GRAD_RESULT_LO", 0x120, [], [⟨0, 32, .rw, 0, []⟩]⟩,
   ⟨"NIM_GRAD_RESULT_HI", 0x124, [], [⟨0, 4, .rw, 0, []⟩]⟩]

/-- Registers of the nim window, part 2. -/
def regs_nim_2 : List RegDesc :=
  [⟨"NIM_GRAD_AVG_LO", 0x128, [], [⟨0, 32, .rw, 0, []⟩]⟩,
   ⟨"NIM_GRAD_AVG_HI", 0x12c, [], [⟨0, 4, .rw, 0, []⟩]⟩,
   ⟨"NIM_MEMBER", 0x200, [(0x4, 16)], [⟨0, 12, .ro, 0, []⟩, ⟨12, 4, .ro, 0, []⟩, ⟨16, 1, .ro, 0, []⟩, ⟨17, 1, .ro, 0, []⟩]⟩,
   ⟨"NIM_COUNTS", 0x300, [], [⟨0, 16, .rc, 0, []⟩, ⟨16, 16, .rc, 0, []⟩]⟩,
   ⟨"NIM_REBUILD", 0x304, [], [⟨0, 32, .ro, 0, []⟩]⟩]

/-- Registers of the nim window. -/
def regs_nim : List RegDesc := regs_nim_0 ++ regs_nim_1 ++ regs_nim_2

/-- Registers of the hzn window, part 0. -/
def regs_hzn_0 : List RegDesc :=
  [⟨"HZN_CTL", 0x0, [], [⟨0, 1, .rw, 1, []⟩, ⟨8, 5, .rw, 0x10, []⟩]⟩,
   ⟨"HZN_RISK", 0x4, [], [⟨0, 8, .ro, 0, []⟩, ⟨8, 3, .ro, 0, []⟩, ⟨16, 16, .ro, 0, []⟩]⟩,
   ⟨"HZN_LVL_THR0", 0x8, [], [⟨0, 32, .rw, 0x80604020, []⟩]⟩,
   ⟨"HZN_LVL_THR1", 0xc, [], [⟨0, 24, .rw, 0xe0c0a0, []⟩]⟩,
   ⟨"HZN_BAL", 0x10, [], [⟨0, 5, .rw, 0x19, [(6, 30)]⟩, ⟨8, 1, .ro, 0, []⟩]⟩,
   ⟨"HZN_ALERT", 0x14, [], [⟨0, 1, .w1c, 0, []⟩, ⟨1, 1, .w1c, 0, []⟩, ⟨2, 1, .ro, 0, []⟩]⟩,
   ⟨"HZN_ALERT_RULES_LO", 0x18, [], [⟨0, 32, .w1c, 0, []⟩]⟩,
   ⟨"HZN_ALERT_RULES_HI", 0x1c, [], [⟨0, 32, .w1c, 0, []⟩]⟩,
   ⟨"HZN_FIRED_LO", 0x20, [], [⟨0, 32, .ro, 0, []⟩]⟩,
   ⟨"HZN_FIRED_HI", 0x24, [], [⟨0, 32, .ro, 0, []⟩]⟩,
   ⟨"HZN_REST", 0x28, [], [⟨0, 16, .ro, 0, []⟩, ⟨16, 16, .ro, 0, []⟩]⟩,
   ⟨"HZN_WAKE_CNT", 0x2c, [], [⟨0, 16, .rc, 0, []⟩, ⟨16, 16, .rc, 0, []⟩]⟩]

/-- Registers of the hzn window, part 1. -/
def regs_hzn_1 : List RegDesc :=
  [⟨"HZN_RULE_CMD", 0x30, [], [⟨0, 1, .wo, 0, []⟩, ⟨1, 1, .ro, 0, []⟩]⟩,
   ⟨"HZN_DEPTH_LO", 0x38, [], [⟨0, 32, .ro, 0, []⟩]⟩,
   ⟨"HZN_DEPTH_HI", 0x3c, [], [⟨0, 32, .ro, 0, []⟩]⟩,
   ⟨"HZN_USER", 0x40, [(0x4, 4)], [⟨0, 32, .rw, 0, []⟩]⟩,
   ⟨"HZN_CH_CFG", 0x100, [(0x10, 64)], [⟨0, 2, .rw, 1, []⟩, ⟨2, 3, .rw, 3, []⟩, ⟨5, 5, .rw, 7, []⟩, ⟨15, 1, .ro, 0, []⟩, ⟨16, 16, .rw, 0, []⟩]⟩,
   ⟨"HZN_CH_OFS", 0x104, [(0x10, 64)], [⟨0, 32, .rw, 0, []⟩]⟩,
   ⟨"HZN_CH_VAL", 0x108, [(0x10, 64)], [⟨0, 32, .ro, 0, []⟩]⟩,
   ⟨"HZN_CH_RATE", 0x10c, [(0x10, 64)], [⟨0, 32, .ro, 0, []⟩]⟩,
   ⟨"HZN_RULE", 0x800, [(0x10, 64), (0x4, 4)], [⟨0, 32, .ro, 0, []⟩]⟩,
   ⟨"HZN_STG_0", 0xc00, [(0x10, 64)], [⟨0, 6, .rw, 0, []⟩, ⟨6, 1, .rw, 0, []⟩, ⟨8, 4, .rw, 0, [(0, 8)]⟩, ⟨16, 16, .rw, 0, []⟩]⟩,
   ⟨"HZN_STG_1", 0xc04, [(0x10, 64)], [⟨0, 32, .rw, 0, []⟩]⟩,
   ⟨"HZN_STG_2", 0xc08, [(0x10, 64)],
     [⟨0, 4, .rw, 0, [(0, 7)]⟩, ⟨4, 1, .rw, 0, []⟩, ⟨8, 8, .rw, 0, []⟩, ⟨16, 16, .rw, 0, []⟩]⟩,
   ⟨"HZN_STG_3", 0xc0c, [(0x10, 64)], [⟨0, 16, .rw, 0, []⟩]⟩,
   ⟨"HZN_PROT_R0", 0x1000, [(0x20, 4)], [⟨0, 9, .rw, 0, []⟩, ⟨16, 9, .rw, 0x1ff, []⟩, ⟨28, 1, .rw, 1, []⟩, ⟨29, 1, .rw, 1, []⟩, ⟨31, 1, .rw, 1, []⟩]⟩,
   ⟨"HZN_PROT", 0x1004, [(0x20, 4), (0x4, 7)], [⟨0, 9, .rw, 0, []⟩, ⟨16, 9, .rw, 0, []⟩, ⟨28, 1, .rw, 0, []⟩, ⟨29, 1, .rw, 0, []⟩, ⟨31, 1, .rw, 0, []⟩]⟩]

/-- Registers of the hzn window, part 2. -/
def regs_hzn_2 : List RegDesc :=
  [⟨"HZN_PROT_STAT", 0x1100, [], [⟨0, 4, .w1c, 0, []⟩]⟩,
   ⟨"HZN_PROT_ADDR", 0x1104, [], [⟨0, 15, .ro, 0, []⟩, ⟨18, 2, .ro, 0, []⟩, ⟨20, 1, .ro, 0, []⟩]⟩,
   ⟨"HZN_COLL_STAT", 0x1108, [], [⟨0, 4, .w1c, 0, []⟩]⟩,
   ⟨"HZN_COLL_ADDR", 0x110c, [], [⟨0, 12, .ro, 0, []⟩, ⟨16, 2, .ro, 0, []⟩, ⟨18, 2, .ro, 0, []⟩]⟩,
   ⟨"HZN_COLL_CNT", 0x1110, [], [⟨0, 32, .rc, 0, []⟩]⟩]

/-- Registers of the hzn window. -/
def regs_hzn : List RegDesc := regs_hzn_0 ++ regs_hzn_1 ++ regs_hzn_2

/-- Registers of the pml window, part 0. -/
def regs_pml_0 : List RegDesc :=
  [⟨"PML_STAT", 0x0, [], [⟨0, 1, .ro, 0, []⟩, ⟨1, 1, .ro, 0, []⟩, ⟨2, 1, .w1c, 0, []⟩]⟩,
   ⟨"PML_NEWEST", 0x4, [], [⟨0, 13, .ro, 0, []⟩]⟩,
   ⟨"PML_COUNT", 0x8, [], [⟨0, 14, .ro, 0, []⟩, ⟨16, 7, .ro, 0, []⟩]⟩,
   ⟨"PML_PINNED", 0xc, [], [⟨0, 13, .ro, 0, []⟩, ⟨31, 1, .ro, 0, []⟩]⟩,
   ⟨"PML_SEQ", 0x10, [], [⟨0, 32, .ro, 0, []⟩]⟩,
   ⟨"PML_BOOT_COUNT", 0x14, [], [⟨0, 32, .ro, 0, []⟩]⟩,
   ⟨"PML_DROPS", 0x18, [], [⟨0, 32, .rc, 0, []⟩]⟩,
   ⟨"PML_WALL_LO", 0x20, [], [⟨0, 32, .ro, 0, []⟩]⟩,
   ⟨"PML_WALL_HI", 0x24, [], [⟨0, 32, .ro, 0, []⟩]⟩]

/-- Registers of the pml window. -/
def regs_pml : List RegDesc := regs_pml_0

/-- Registers of the pwr window, part 0. -/
def regs_pwr_0 : List RegDesc :=
  [⟨"PWR_ON_LO", 0x0, [], [⟨0, 32, .ro, 1, []⟩]⟩,
   ⟨"PWR_ON_HI", 0x4, [], [⟨0, 8, .ro, 0, []⟩]⟩,
   ⟨"PWR_REQ_LO", 0x8, [], [⟨0, 4, .ro, 0xf, []⟩, ⟨4, 28, .rw, 0, []⟩]⟩,
   ⟨"PWR_REQ_HI", 0xc, [], [⟨0, 8, .rw, 0, []⟩]⟩,
   ⟨"PWR_RET_LO", 0x10, [], [⟨0, 32, .ro, 0, []⟩]⟩,
   ⟨"PWR_RET_HI", 0x14, [], [⟨0, 8, .ro, 0, []⟩]⟩,
   ⟨"PWR_STAT", 0x18, [], [⟨0, 1, .ro, 0, []⟩, ⟨1, 1, .w1c, 0, []⟩, ⟨2, 1, .ro, 0, []⟩, ⟨8, 6, .ro, 0, []⟩, ⟨16, 16, .ro, 0, []⟩]⟩,
   ⟨"PWR_SLEEP_LO", 0x20, [], [⟨0, 32, .ro, 0, []⟩]⟩,
   ⟨"PWR_SLEEP_HI", 0x24, [], [⟨0, 8, .ro, 0, []⟩]⟩,
   ⟨"PWR_SLEEP_STAT", 0x28, [], [⟨0, 13, .ro, 0, []⟩, ⟨16, 16, .rc, 0, []⟩]⟩,
   ⟨"PWR_WAKES", 0x2c, [], [⟨0, 16, .rc, 0, []⟩, ⟨16, 16, .rc, 0, []⟩]⟩]

/-- Registers of the pwr window. -/
def regs_pwr : List RegDesc := regs_pwr_0

/-- Registers of the sec window, part 0. -/
def regs_sec_0 : List RegDesc :=
  [⟨"SEC_STAT", 0x0, [], [⟨0, 1, .ro, 0, []⟩, ⟨1, 1, .ro, 0, []⟩, ⟨2, 1, .ro, 0, []⟩, ⟨3, 1, .ro, 0, []⟩, ⟨4, 1, .ro, 0, []⟩, ⟨5, 1, .ro, 0, []⟩]⟩,
   ⟨"SEC_DEBUG", 0x4, [], [⟨0, 1, .rw, 0, []⟩]⟩,
   ⟨"SEC_ROLLBACK", 0x8, [], [⟨0, 7, .ro, 0, []⟩, ⟨8, 7, .ro, 0, []⟩, ⟨16, 7, .ro, 0, []⟩]⟩,
   ⟨"SEC_FW_VERSION", 0xc, [], [⟨0, 32, .ro, 0, []⟩]⟩,
   ⟨"SEC_VERIFY_FAIL", 0x10, [], [⟨0, 16, .ro, 0, []⟩, ⟨16, 3, .ro, 0, []⟩, ⟨19, 1, .ro, 0, []⟩]⟩,
   ⟨"SEC_ID_Q", 0x14, [], [⟨0, 17, .ro, 0, []⟩]⟩,
   ⟨"SEC_QUOTES", 0x18, [], [⟨0, 32, .rc, 0, []⟩]⟩,
   ⟨"SEC_FW_SHA", 0x40, [(0x4, 8)], [⟨0, 32, .ro, 0, []⟩]⟩,
   ⟨"SEC_ROOT_HASH", 0x60, [(0x4, 8)], [⟨0, 32, .ro, 0, []⟩]⟩]

/-- Registers of the sec window. -/
def regs_sec : List RegDesc := regs_sec_0

/-- Registers of the bst window, part 0. -/
def regs_bst_0 : List RegDesc :=
  [⟨"BST_CTL", 0x0, [], [⟨0, 5, .rw, 4, [(1, 16)]⟩, ⟨5, 1, .rw, 1, []⟩]⟩,
   ⟨"BST_STAT", 0x4, [], [⟨0, 1, .ro, 0, []⟩, ⟨1, 1, .ro, 0, []⟩, ⟨2, 1, .w1c, 0, []⟩, ⟨3, 1, .w1c, 0, []⟩, ⟨4, 1, .ro, 0, []⟩]⟩,
   ⟨"BST_BOOT_SEL", 0x8, [], [⟨0, 32, .ro, 0, []⟩]⟩,
   ⟨"BST_RES_CNT", 0xc, [], [⟨0, 10, .ro, 0, []⟩, ⟨16, 16, .ro, 0, []⟩]⟩,
   ⟨"BST_COUNTS", 0x10, [], [⟨0, 16, .rc, 0, []⟩, ⟨16, 16, .rc, 0, []⟩]⟩,
   ⟨"BST_FUSE_FREE", 0x14, [], [⟨0, 14, .ro, 0, []⟩]⟩,
   ⟨"BST_CUR", 0x40, [(0x4, 10)], [⟨0, 16, .ro, 0, []⟩, ⟨16, 16, .ro, 0, []⟩]⟩,
   ⟨"BST_REP_SEL", 0x80, [], [⟨0, 14, .rw, 0, [(0, 4351)]⟩]⟩,
   ⟨"BST_REP_BAD_LO", 0x84, [], [⟨0, 32, .ro, 0, []⟩]⟩,
   ⟨"BST_REP_BAD_HI", 0x88, [], [⟨0, 32, .ro, 0, []⟩]⟩,
   ⟨"BST_SPD_REP", 0x4000, [(0x20, 256), (0x4, 8)], [⟨0, 4, .ro, 0, []⟩, ⟨4, 9, .ro, 0, []⟩, ⟨13, 2, .ro, 0, []⟩, ⟨15, 1, .ro, 0, []⟩, ⟨16, 1, .ro, 0, []⟩]⟩]

/-- Registers of the bst window. -/
def regs_bst : List RegDesc := regs_bst_0

namespace F

abbrev RGN_ACLK_STEP : Fld := ⟨0x0, 0, 4⟩
abbrev RGN_ACLK_CAP : Fld := ⟨0x0, 8, 4⟩
abbrev RGN_ACLK_EFF : Fld := ⟨0x0, 12, 4⟩
abbrev RGN_ACLK_PENDING : Fld := ⟨0x0, 16, 1⟩
abbrev RGN_ACLK_LIMIT_ERR : Fld := ⟨0x0, 17, 1⟩
abbrev RGN_ACLK_WAKE_CLAMP : Fld := ⟨0x0, 18, 1⟩
abbrev RGN_LDO_STAT_VOUT_MV : Fld := ⟨0x4, 0, 10⟩
abbrev RGN_LDO_STAT_SETTLED : Fld := ⟨0x4, 10, 1⟩
abbrev RGN_LDO_STAT_OOR : Fld := ⟨0x4, 11, 1⟩
abbrev RGN_GOV_CTL_BUDGET : Fld := ⟨0x10, 0, 20⟩
abbrev RGN_GOV_CTL_RAMP : Fld := ⟨0x10, 20, 5⟩
abbrev RGN_GOV_STAT_STRETCH : Fld := ⟨0x14, 0, 28⟩
abbrev RGN_GOV_STAT_HZN_DIV : Fld := ⟨0x14, 28, 2⟩
abbrev RGN_GOV_EVT_BUDGET_HITS : Fld := ⟨0x18, 0, 16⟩
abbrev RGN_GOV_EVT_RAMP_HOLDS : Fld := ⟨0x18, 16, 16⟩
abbrev CHIP_ACC_ERR_UNMAPPED : Fld := ⟨0x20, 0, 1⟩
abbrev CHIP_ACC_ERR_PD_OFF : Fld := ⟨0x20, 1, 1⟩
abbrev CHIP_ACC_ERR_OVERRUN : Fld := ⟨0x20, 2, 1⟩
abbrev CHIP_ACC_ADDR_ADDR : Fld := ⟨0x24, 0, 32⟩
abbrev CHIP_STATE_STATE : Fld := ⟨0x10, 0, 4⟩
abbrev CHIP_STATE_PREV : Fld := ⟨0x10, 4, 4⟩
abbrev CHIP_STATE_JOB_ENDED : Fld := ⟨0x10, 8, 1⟩
abbrev CHIP_STATE_TRANSITIONS : Fld := ⟨0x10, 16, 16⟩
abbrev MAC_CFG_PREC : Fld := ⟨0x0, 0, 2⟩
abbrev MAC_CFG_TWIN_ROLE : Fld := ⟨0x0, 2, 2⟩
abbrev MAC_CFG_TWIN_FIRST : Fld := ⟨0x0, 4, 4⟩
abbrev MAC_CFG_EN : Fld := ⟨0x0, 8, 1⟩
abbrev MAC_STAT_ACT : Fld := ⟨0x4, 0, 3⟩
abbrev MAC_STAT_CFG_REJ : Fld := ⟨0x4, 3, 1⟩
abbrev MAC_PLANES_COUNT : Fld := ⟨0x8, 0, 32⟩
abbrev MAC_SKIPS_COUNT : Fld := ⟨0xc, 0, 32⟩
abbrev MAC_ECC_CTL_SCRUB_PERIOD : Fld := ⟨0x10, 0, 8⟩
abbrev MAC_ECC_CTL_SCRUB_EN : Fld := ⟨0x10, 8, 1⟩
abbrev MAC_ECC_CTL_AUTO_REMAP : Fld := ⟨0x10, 9, 1⟩
abbrev MAC_ECC_CTL_REMAP_THRESH : Fld := ⟨0x10, 16, 8⟩
abbrev MAC_ECC_STAT_CE_COUNT : Fld := ⟨0x14, 0, 16⟩
abbrev MAC_ECC_STAT_UE : Fld := ⟨0x14, 16, 1⟩
abbrev MAC_ECC_STAT_SCRUB_BEHIND : Fld := ⟨0x14, 17, 1⟩
abbrev MAC_ECC_STAT_REMAP_FULL : Fld := ⟨0x14, 18, 1⟩
abbrev MAC_ECC_STAT_RESTORED : Fld := ⟨0x14, 19, 1⟩
abbrev MAC_ECC_ADDR_ROW : Fld := ⟨0x18, 0, 9⟩
abbrev MAC_ECC_ADDR_COL : Fld := ⟨0x18, 16, 11⟩
abbrev MAC_ECC_ADDR_KIND : Fld := ⟨0x18, 31, 1⟩
abbrev MAC_SCRUB_POS_NEXT_ROW : Fld := ⟨0x1c, 0, 9⟩
abbrev MAC_SCRUB_POS_PASSES : Fld := ⟨0x1c, 16, 16⟩
abbrev MAC_REMAP_COL : Fld := ⟨0x40, 0, 11⟩
abbrev MAC_REMAP_VALID : Fld := ⟨0x40, 15, 1⟩
abbrev MAC_REMAP_FILLED : Fld := ⟨0x40, 16, 1⟩
abbrev MAC_REMAP_FUSED : Fld := ⟨0x40, 17, 1⟩
abbrev MAC_SHADOW_CTL_SYNC : Fld := ⟨0x90, 0, 1⟩
abbrev MAC_SHADOW_CTL_RESTORE : Fld := ⟨0x90, 1, 1⟩
abbrev MAC_SHADOW_CTL_BUSY : Fld := ⟨0x90, 2, 1⟩
abbrev MAC_SHADOW_CTL_STALE : Fld := ⟨0x90, 3, 1⟩
abbrev MAC_SHADOW_DIRTY_DIRTY : Fld := ⟨0xa0, 0, 32⟩
abbrev MAC_POISON_POISON : Fld := ⟨0xe0, 0, 32⟩
abbrev MAC_RMON_CTL_BIN_EXP0 : Fld := ⟨0x180, 0, 8⟩
abbrev MAC_RMON_CTL_DRIFT_SLOTS : Fld := ⟨0x180, 8, 4⟩
abbrev MAC_RMON_CTL_EN : Fld := ⟨0x180, 12, 1⟩
abbrev MAC_RMON_CTL_DRIFT : Fld := ⟨0x180, 13, 1⟩
abbrev MAC_RMON_CTL_DRIFT_GROUPS : Fld := ⟨0x180, 16, 8⟩
abbrev MAC_RMON_MIN_MIN : Fld := ⟨0x200, 0, 32⟩
abbrev MAC_RMON_MAX_MAX : Fld := ⟨0x204, 0, 32⟩
abbrev MAC_RMON_MEAN_MEAN : Fld := ⟨0x208, 0, 32⟩
abbrev MAC_RMON_CNT_COUNT : Fld := ⟨0x20c, 0, 32⟩
abbrev MAC_RMON_HIST_BIN : Fld := ⟨0x240, 0, 32⟩
abbrev MAC_ENV_MAX_LO_MAX_LO : Fld := ⟨0x600, 0, 32⟩
abbrev MAC_ENV_MAX_HI_MAX_HI : Fld := ⟨0x604, 0, 32⟩
abbrev MAC_ENV_MEAN_LO_MEAN_LO : Fld := ⟨0x608, 0, 32⟩
abbrev MAC_ENV_MEAN_HI_MEAN_HI : Fld := ⟨0x60c, 0, 32⟩
abbrev MAC_RB_CTL_ROW : Fld := ⟨0x800, 0, 9⟩
abbrev MAC_RB_CTL_GO : Fld := ⟨0x800, 16, 1⟩
abbrev MAC_RB_CTL_DONE : Fld := ⟨0x800, 17, 1⟩
abbrev MAC_RB_CTL_CE : Fld := ⟨0x800, 18, 1⟩
abbrev MAC_RB_CTL_UE : Fld := ⟨0x800, 19, 1⟩
abbrev MAC_RB_DATA_DATA : Fld := ⟨0x840, 0, 32⟩
abbrev BLK_SEQ_CTL_CTX_EN : Fld := ⟨0x0, 0, 32⟩
abbrev BLK_SEQ_STAT_SB_USED : Fld := ⟨0x8, 0, 7⟩
abbrev BLK_SEQ_STAT_TBL_REJ : Fld := ⟨0x8, 7, 1⟩
abbrev BLK_SEQ_STAT_SB_PEAK : Fld := ⟨0x8, 8, 7⟩
abbrev BLK_SEQ_STAT_LAST_CTX : Fld := ⟨0x8, 16, 5⟩
abbrev BLK_EVT_FLAGS_ACC_SAT : Fld := ⟨0x20, 0, 1⟩
abbrev BLK_EVT_FLAGS_ESC_SAT : Fld := ⟨0x20, 1, 1⟩
abbrev BLK_EVT_FLAGS_NONFINITE : Fld := ⟨0x20, 2, 1⟩
abbrev BLK_EVT_FLAGS_QSAT : Fld := ⟨0x20, 3, 1⟩
abbrev BLK_EVT_CNT0_ACC_SAT : Fld := ⟨0x24, 0, 16⟩
abbrev BLK_EVT_CNT0_ESC_SAT : Fld := ⟨0x24, 16, 16⟩
abbrev BLK_EVT_CNT1_NONFINITE : Fld := ⟨0x28, 0, 16⟩
abbrev BLK_EVT_CNT1_QSAT : Fld := ⟨0x28, 16, 16⟩
abbrev BLK_FAULT_CLASS : Fld := ⟨0x30, 0, 8⟩
abbrev BLK_FAULT_CTX : Fld := ⟨0x30, 8, 5⟩
abbrev BLK_FAULT_OP_INDEX : Fld := ⟨0x30, 16, 16⟩
abbrev BLK_FAULT_STAT_VALID : Fld := ⟨0x34, 0, 1⟩
abbrev BLK_FAULT_STAT_ESCALATED : Fld := ⟨0x34, 1, 1⟩
abbrev BLK_WAIT_CYCLES : Fld := ⟨0x44, 0, 32⟩
abbrev BLK_CORR_STAT_ESCAPES : Fld := ⟨0x68, 0, 16⟩
abbrev BLK_CORR_STAT_PEAK_KENT : Fld := ⟨0x68, 16, 16⟩
abbrev BLK_CTX_STAT_STATE : Fld := ⟨0x100, 0, 3⟩
abbrev BLK_CTX_STAT_WAIT : Fld := ⟨0x100, 4, 4⟩
abbrev BLK_CTX_STAT_OP_INDEX : Fld := ⟨0x100, 8, 16⟩
abbrev BLK_CTX_STAT_FAULT_CLASS : Fld := ⟨0x100, 24, 8⟩
abbrev BLK_CTX_CFG_PRIO : Fld := ⟨0x200, 0, 2⟩
abbrev BLK_CTX_WIN_BASE : Fld := ⟨0x400, 0, 13⟩
abbrev BLK_CTX_WIN_LIMIT : Fld := ⟨0x400, 16, 13⟩
abbrev BLK_CTX_WIN_VALID : Fld := ⟨0x400, 31, 1⟩
abbrev SPD_STAT_CE_COUNT : Fld := ⟨0x10000, 0, 16⟩
abbrev SPD_STAT_UE : Fld := ⟨0x10000, 16, 1⟩
abbrev SPD_STAT_CREDIT_ERR : Fld := ⟨0x10000, 17, 1⟩
abbrev SPD_STAT_ATOM_SAT : Fld := ⟨0x10000, 18, 1⟩
abbrev SPD_STAT_ATOM_NONFINITE : Fld := ⟨0x10000, 19, 1⟩
abbrev SPD_ECC_ADDR_LINE : Fld := ⟨0x10004, 0, 13⟩
abbrev SPD_ECC_ADDR_WORD : Fld := ⟨0x10004, 16, 3⟩
abbrev SPD_ECC_ADDR_KIND : Fld := ⟨0x10004, 31, 1⟩
abbrev SPD_CIRC_BASE_BASE : Fld := ⟨0x10100, 0, 13⟩
abbrev SPD_CIRC_BASE_VALID : Fld := ⟨0x10100, 31, 1⟩
abbrev SPD_CIRC_CFG_SLOT : Fld := ⟨0x10104, 0, 10⟩
abbrev SPD_CIRC_CFG_SIZE : Fld := ⟨0x10104, 16, 10⟩
abbrev SPD_CIRC_CFG_REMOTE : Fld := ⟨0x10104, 28, 1⟩
abbrev SPD_CIRC_PTR_HEAD : Fld := ⟨0x10108, 0, 11⟩
abbrev SPD_CIRC_PTR_TAIL : Fld := ⟨0x10108, 16, 11⟩
abbrev SPD_CIRC_SRC_SRC : Fld := ⟨0x1010c, 0, 9⟩
abbrev SPD_OUT_CRED_CREDITS : Fld := ⟨0x10200, 0, 11⟩
abbrev SPD_OUT_CRED_STALLS : Fld := ⟨0x10200, 16, 16⟩
abbrev SPD_ATOM_WIN_BASE : Fld := ⟨0x10300, 0, 13⟩
abbrev SPD_ATOM_WIN_LIMIT : Fld := ⟨0x10300, 16, 13⟩
abbrev SPD_ATOM_WIN_VALID : Fld := ⟨0x10300, 31, 1⟩
abbrev SPD_ATOM_CNT_COUNT : Fld := ⟨0x10340, 0, 32⟩
abbrev SPD_RET_BASE : Fld := ⟨0x10380, 0, 13⟩
abbrev SPD_RET_SIZE_KIB : Fld := ⟨0x10380, 16, 7⟩
abbrev SPD_RET_VALID : Fld := ⟨0x10380, 31, 1⟩
abbrev SPD_SHADOW_CTL_SYNC : Fld := ⟨0x10384, 0, 1⟩
abbrev SPD_SHADOW_CTL_RESTORE : Fld := ⟨0x10384, 1, 1⟩
abbrev SPD_SHADOW_CTL_BUSY : Fld := ⟨0x10384, 2, 1⟩
abbrev SPD_SHADOW_CTL_STALE : Fld := ⟨0x10384, 3, 1⟩
abbrev SPD_SHADOW_DIRTY_DIRTY : Fld := ⟨0x10388, 0, 32⟩
abbrev SPD_CONFLICT_CYCLES : Fld := ⟨0x10400, 0, 32⟩
abbrev SPE_STAT_BUSY : Fld := ⟨0x20000, 0, 1⟩
abbrev SPE_STAT_META_ERR : Fld := ⟨0x20000, 1, 1⟩
abbrev SPE_STAT_SLOT_ERR : Fld := ⟨0x20000, 2, 1⟩
abbrev SPE_STAT_CMP_ERR : Fld := ⟨0x20000, 3, 1⟩
abbrev SPE_STAT_PRED_NOCRC : Fld := ⟨0x20000, 4, 1⟩
abbrev SPE_META_ERR_CAUSE : Fld := ⟨0x20004, 0, 4⟩
abbrev SPE_META_ERR_SOURCE : Fld := ⟨0x20004, 8, 1⟩
abbrev SPE_META_ERR_DESC : Fld := ⟨0x20004, 16, 12⟩
abbrev SPE_TILES_DENSE_COUNT : Fld := ⟨0x20010, 0, 32⟩
abbrev SPE_TILES_SPARSE_COUNT : Fld := ⟨0x20014, 0, 32⟩
abbrev SPE_EXP_SKIP_COUNT : Fld := ⟨0x20018, 0, 32⟩
abbrev SPE_ENTRIES_COUNT : Fld := ⟨0x2001c, 0, 32⟩
abbrev SPE_SPLITS_COUNT : Fld := ⟨0x20020, 0, 32⟩
abbrev SPE_LANE_IDLE_COUNT : Fld := ⟨0x20024, 0, 32⟩
abbrev SPE_CMP_TILES_COUNT : Fld := ⟨0x20028, 0, 32⟩
abbrev SPE_CMP_LINES_COUNT : Fld := ⟨0x2002c, 0, 32⟩
abbrev SPE_BE0_BSR8 : Fld := ⟨0x20040, 0, 16⟩
abbrev SPE_BE0_CSR64 : Fld := ⟨0x20040, 16, 16⟩
abbrev SPE_BE1_BLK2X : Fld := ⟨0x20044, 0, 16⟩
abbrev SPE_STAGED_VAL_CRC : Fld := ⟨0x20080, 0, 32⟩
abbrev SPE_STAGED_VLD_VALID : Fld := ⟨0x200c0, 0, 16⟩
abbrev SPE_BIND_0_WORD0 : Fld := ⟨0x20100, 0, 32⟩
abbrev SPE_BIND_1_WORD1 : Fld := ⟨0x20104, 0, 32⟩
abbrev SPE_BIND_2_WORD2 : Fld := ⟨0x20108, 0, 32⟩
abbrev SPE_BIND_3_WORD3 : Fld := ⟨0x2010c, 0, 32⟩
abbrev CIR_CFG_ROWS : Fld := ⟨0x30000, 0, 11⟩
abbrev CIR_CFG_EN : Fld := ⟨0x30000, 11, 1⟩
abbrev CIR_CFG_AUTO : Fld := ⟨0x30000, 12, 1⟩
abbrev CIR_CFG_ESC_FRAC : Fld := ⟨0x30000, 16, 4⟩
abbrev CIR_CFG_AUDIT_LOG2 : Fld := ⟨0x30000, 20, 4⟩
abbrev CIR_PRED_DESC_DESC : Fld := ⟨0x30004, 0, 12⟩
abbrev CIR_THRESH_THR : Fld := ⟨0x30008, 0, 24⟩
abbrev CIR_THR_MIN_MIN : Fld := ⟨0x3000c, 0, 24⟩
abbrev CIR_DOUBT_WIDTH : Fld := ⟨0x30010, 0, 24⟩
abbrev CIR_AUTO_STEP : Fld := ⟨0x30014, 0, 24⟩
abbrev CIR_MISS_CTL_MISS_LIM : Fld := ⟨0x30018, 0, 8⟩
abbrev CIR_MISS_CTL_POST_LIM : Fld := ⟨0x30018, 8, 8⟩
abbrev CIR_MISS_CTL_AUDIT_N : Fld := ⟨0x30018, 16, 4⟩
abbrev CIR_LIVE_LIVE : Fld := ⟨0x3001c, 0, 32⟩
abbrev CIR_MAP_BASE : Fld := ⟨0x30040, 0, 8⟩
abbrev CIR_MAP_SHIFT : Fld := ⟨0x30040, 8, 3⟩
abbrev CIR_MAP_EN : Fld := ⟨0x30040, 15, 1⟩
abbrev CIR_STAT_CAL : Fld := ⟨0x30100, 0, 1⟩
abbrev CIR_STAT_RECAL : Fld := ⟨0x30100, 1, 1⟩
abbrev CIR_STAT_FLOOR : Fld := ⟨0x30100, 2, 1⟩
abbrev CIR_STAT_BAD_FMT : Fld := ⟨0x30100, 3, 1⟩
abbrev CIR_STAT_MISS_HIGH : Fld := ⟨0x30100, 4, 1⟩
abbrev CIR_CAL_STAT_TEMP : Fld := ⟨0x30104, 0, 8⟩
abbrev CIR_CAL_STAT_NEXT_CHAIN : Fld := ⟨0x30104, 8, 8⟩
abbrev CIR_CAL_STAT_PASSES : Fld := ⟨0x30104, 16, 16⟩
abbrev CIR_FAIL_FAIL : Fld := ⟨0x30110, 0, 32⟩
abbrev CIR_EVAL_ROWS : Fld := ⟨0x30140, 0, 32⟩
abbrev CIR_PREDICTED_COUNT : Fld := ⟨0x30144, 0, 32⟩
abbrev CIR_SKIPPED_COUNT : Fld := ⟨0x30148, 0, 32⟩
abbrev CIR_DOUBT_CNT_COUNT : Fld := ⟨0x3014c, 0, 32⟩
abbrev CIR_AUDITED_COUNT : Fld := ⟨0x30150, 0, 32⟩
abbrev CIR_MISS_COUNT : Fld := ⟨0x30154, 0, 32⟩
abbrev CIR_MISS_DOUBT_COUNT : Fld := ⟨0x30158, 0, 32⟩
abbrev CIR_ALLACT_GROUPS : Fld := ⟨0x3015c, 0, 32⟩
abbrev CAD_CTL_IN_EN : Fld := ⟨0x0, 0, 1⟩
abbrev CAD_CTL_OUT_MODE : Fld := ⟨0x0, 1, 2⟩
abbrev CAD_CTL_BEACON_RX : Fld := ⟨0x0, 3, 1⟩
abbrev CAD_CTL_BEACON_PORT : Fld := ⟨0x0, 4, 4⟩
abbrev CAD_CTL_BEACON_TX : Fld := ⟨0x0, 16, 16⟩
abbrev CAD_OUT_DELAY_DELAY : Fld := ⟨0x4, 0, 14⟩
abbrev CAD_SLOT_LO_SLOT : Fld := ⟨0x8, 0, 32⟩
abbrev CAD_SLOT_HI_SLOT : Fld := ⟨0xc, 0, 16⟩
abbrev CAD_SLOT_SET_LO_SLOT : Fld := ⟨0x10, 0, 32⟩
abbrev CAD_SLOT_SET_HI_SLOT : Fld := ⟨0x14, 0, 16⟩
abbrev CAD_CMD_SET : Fld := ⟨0x18, 0, 1⟩
abbrev CAD_PHASE_PHASE : Fld := ⟨0x1c, 0, 16⟩
abbrev CAD_PHASE_COAST : Fld := ⟨0x1c, 16, 1⟩
abbrev CAD_PHASE_LOST : Fld := ⟨0x1c, 17, 1⟩
abbrev CAD_PERIOD_MEAN : Fld := ⟨0x20, 0, 23⟩
abbrev CAD_PERIOD_N : Fld := ⟨0x20, 24, 4⟩
abbrev CAD_LAST_PERIOD : Fld := ⟨0x24, 0, 23⟩
abbrev CAD_STAT_LATE : Fld := ⟨0x28, 0, 1⟩
abbrev CAD_STAT_LOST : Fld := ⟨0x28, 1, 1⟩
abbrev CAD_STAT_RUNT : Fld := ⟨0x28, 2, 1⟩
abbrev CAD_STAT_RESYNC : Fld := ⟨0x28, 3, 1⟩
abbrev CAD_LATE_CNT_COUNT : Fld := ⟨0x2c, 0, 32⟩
abbrev CAD_COUNTS_RUNT : Fld := ⟨0x30, 0, 16⟩
abbrev CAD_COUNTS_COAST : Fld := ⟨0x30, 16, 16⟩
abbrev CAD_RESYNC_DELTA_DELTA : Fld := ⟨0x34, 0, 32⟩
abbrev CAD_LATE_INFO_BLOCK : Fld := ⟨0x38, 0, 8⟩
abbrev CAD_LATE_INFO_CTX : Fld := ⟨0x38, 8, 5⟩
abbrev CAD_LATE_INFO_ENTRY : Fld := ⟨0x38, 16, 10⟩
abbrev RGN_XING_STALL_CYCLES : Fld := ⟨0x1000, 0, 32⟩
abbrev RGN_RTR_FLITS_COUNT : Fld := ⟨0x1100, 0, 32⟩
abbrev RGN_RTR_STALL_CYCLES : Fld := ⟨0x1114, 0, 32⟩
abbrev RGN_RTR_ERR_REPLAYS : Fld := ⟨0x1128, 0, 16⟩
abbrev RGN_RTR_ERR_ISOLATED : Fld := ⟨0x1128, 16, 5⟩
abbrev HBM_CTL_SCRUB_EN : Fld := ⟨0x0, 0, 1⟩
abbrev HBM_STAT_UE : Fld := ⟨0x4, 0, 1⟩
abbrev HBM_STAT_RANGE : Fld := ⟨0x4, 1, 1⟩
abbrev HBM_STAT_PROT : Fld := ⟨0x4, 2, 1⟩
abbrev HBM_STAT_ATOM_SAT : Fld := ⟨0x4, 3, 1⟩
abbrev HBM_STAT_ATOM_NONFINITE : Fld := ⟨0x4, 4, 1⟩
abbrev HBM_STAT_HOT : Fld := ⟨0x4, 5, 1⟩
abbrev HBM_STAT_READY : Fld := ⟨0x4, 6, 1⟩
abbrev HBM_CE_CNT_COUNT : Fld := ⟨0x8, 0, 32⟩
abbrev HBM_ERR_ADDR_LO_ADDR : Fld := ⟨0x10, 0, 32⟩
abbrev HBM_ERR_ADDR_HI_ADDR : Fld := ⟨0x14, 0, 4⟩
abbrev HBM_ERR_ADDR_HI_KIND : Fld := ⟨0x14, 8, 2⟩
abbrev HBM_ERR_ADDR_HI_SRC : Fld := ⟨0x14, 10, 9⟩
abbrev HBM_TEMP_TEMP : Fld := ⟨0x18, 0, 8⟩
abbrev HBM_TEMP_DOUBLE : Fld := ⟨0x18, 8, 1⟩
abbrev HBM_TEMP_HOT_LIMIT : Fld := ⟨0x18, 16, 8⟩
abbrev HBM_SCRUB_CTL_INTERVAL : Fld := ⟨0x1c, 0, 8⟩
abbrev HBM_SCRUB_POS_PASSES : Fld := ⟨0x20, 0, 16⟩
abbrev HBM_PROT_BASE_BASE : Fld := ⟨0x100, 0, 22⟩
abbrev HBM_PROT_BASE_VALID : Fld := ⟨0x100, 31, 1⟩
abbrev HBM_PROT_LIMIT_LIMIT : Fld := ⟨0x104, 0, 22⟩
abbrev HBM_PROT_ACC_BLK_RD : Fld := ⟨0x108, 0, 1⟩
abbrev HBM_PROT_ACC_BLK_WR : Fld := ⟨0x108, 1, 1⟩
abbrev HBM_PROT_ACC_CUR_RD : Fld := ⟨0x108, 2, 1⟩
abbrev HBM_PROT_ACC_CUR_WR : Fld := ⟨0x108, 3, 1⟩
abbrev HBM_PROT_ACC_HUB_RD : Fld := ⟨0x108, 4, 1⟩
abbrev HBM_PROT_ACC_HUB_WR : Fld := ⟨0x108, 5, 1⟩
abbrev HBM_PC_RD_LINES : Fld := ⟨0x200, 0, 32⟩
abbrev HBM_PC_WR_LINES : Fld := ⟨0x204, 0, 32⟩
abbrev HBM_PC_ATOM_LINES : Fld := ⟨0x208, 0, 32⟩
abbrev HBM_PC_QPEAK_ENTRIES : Fld := ⟨0x20c, 0, 10⟩
abbrev CUR_CTL_EN : Fld := ⟨0x0, 0, 1⟩
abbrev CUR_CTL_TRAIN : Fld := ⟨0x0, 1, 1⟩
abbrev CUR_CTL_AUTO_RETRAIN : Fld := ⟨0x0, 2, 1⟩
abbrev CUR_CTL_AXIS : Fld := ⟨0x0, 3, 2⟩
abbrev CUR_CTL_DATELINE : Fld := ⟨0x0, 5, 1⟩
abbrev CUR_CTL_VERS_EN : Fld := ⟨0x0, 8, 3⟩
abbrev CUR_CTL_SWING : Fld := ⟨0x0, 16, 4⟩
abbrev CUR_STAT_STATE : Fld := ⟨0x4, 0, 3⟩
abbrev CUR_STAT_VER : Fld := ⟨0x4, 3, 2⟩
abbrev CUR_STAT_DEGRADED : Fld := ⟨0x4, 5, 1⟩
abbrev CUR_STAT_DOWN : Fld := ⟨0x4, 6, 1⟩
abbrev CUR_STAT_TRAIN_FAIL : Fld := ⟨0x4, 7, 1⟩
abbrev CUR_STAT_LANES_GOOD : Fld := ⟨0x4, 8, 8⟩
abbrev CUR_PEER_COORD : Fld := ⟨0x8, 0, 12⟩
abbrev CUR_PEER_PORT : Fld := ⟨0x8, 12, 4⟩
abbrev CUR_PEER_TAG : Fld := ⟨0x8, 16, 4⟩
abbrev CUR_PEER_VERS : Fld := ⟨0x8, 20, 3⟩
abbrev CUR_FEAT_EN_LO_FEAT : Fld := ⟨0x10, 0, 32⟩
abbrev CUR_FEAT_EN_HI_FEAT : Fld := ⟨0x14, 0, 32⟩
abbrev CUR_FEAT_LO_FEAT : Fld := ⟨0x18, 0, 32⟩
abbrev CUR_FEAT_HI_FEAT : Fld := ⟨0x1c, 0, 32⟩
abbrev CUR_VC_BUF_FLITS : Fld := ⟨0x20, 0, 11⟩
abbrev CUR_FEC_CW_COUNT : Fld := ⟨0x40, 0, 32⟩
abbrev CUR_FEC_CORR_COUNT : Fld := ⟨0x44, 0, 32⟩
abbrev CUR_FEC_UNCORR_COUNT : Fld := ⟨0x48, 0, 32⟩
abbrev CUR_RETRY_REPLAYS : Fld := ⟨0x4c, 0, 16⟩
abbrev CUR_RETRY_TIMEOUTS : Fld := ⟨0x4c, 16, 16⟩
abbrev CUR_TX_FLITS_COUNT : Fld := ⟨0x50, 0, 32⟩
abbrev CUR_RX_FLITS_COUNT : Fld := ⟨0x54, 0, 32⟩
abbrev CUR_COORD_COORD : Fld := ⟨0x0, 0, 12⟩
abbrev CUR_HANDOFF_DST : Fld := ⟨0x4, 0, 12⟩
abbrev CUR_HANDOFF_TX_EN : Fld := ⟨0x4, 12, 1⟩
abbrev CUR_HANDOFF_RX_EN : Fld := ⟨0x4, 13, 1⟩
abbrev CUR_RSP_TIMEOUT_US : Fld := ⟨0x8, 0, 16⟩
abbrev CUR_ERR_UNDELIVERABLE : Fld := ⟨0xc, 0, 1⟩
abbrev CUR_ERR_TIMEOUT : Fld := ⟨0xc, 1, 1⟩
abbrev CUR_ERR_HANDOFF_STALE : Fld := ⟨0xc, 2, 1⟩
abbrev CUR_ERR_COLL : Fld := ⟨0xc, 3, 1⟩
abbrev CUR_CNT_TIMEOUTS : Fld := ⟨0x10, 0, 16⟩
abbrev CUR_CNT_UNDELIVERED : Fld := ⟨0x10, 16, 16⟩
abbrev CUR_ROUTE_PORTS : Fld := ⟨0x4000, 0, 16⟩
abbrev CUR_COLL_CFG_CHILDREN : Fld := ⟨0x8000, 0, 16⟩
abbrev CUR_COLL_CFG_PARENT : Fld := ⟨0x8000, 16, 4⟩
abbrev CUR_COLL_CFG_ROOT : Fld := ⟨0x8000, 20, 1⟩
abbrev CUR_COLL_CFG_LOCAL : Fld := ⟨0x8000, 21, 1⟩
abbrev CUR_COLL_CFG_FMT : Fld := ⟨0x8000, 22, 2⟩
abbrev CUR_COLL_CFG_BCAST : Fld := ⟨0x8000, 24, 1⟩
abbrev CUR_COLL_CFG_VALID : Fld := ⟨0x8000, 31, 1⟩
abbrev CUR_COLL_LINES_LINES : Fld := ⟨0x8004, 0, 20⟩
abbrev CUR_COLL_STAGE_LO_ADDR : Fld := ⟨0x8008, 0, 32⟩
abbrev CUR_COLL_STAGE_HI_ADDR : Fld := ⟨0x800c, 0, 4⟩
abbrev CUR_COLL_RESULT_LO_ADDR : Fld := ⟨0x8010, 0, 32⟩
abbrev CUR_COLL_RESULT_HI_ADDR : Fld := ⟨0x8014, 0, 4⟩
abbrev CUR_COLL_DONE_DONE_BLK : Fld := ⟨0x8018, 0, 8⟩
abbrev CUR_COLL_DONE_DONE_CNT : Fld := ⟨0x8018, 8, 4⟩
abbrev CUR_COLL_DONE_DONE_EN : Fld := ⟨0x8018, 12, 1⟩
abbrev CUR_COLL_COUNT_CHUNKS : Fld := ⟨0x801c, 0, 20⟩
abbrev PGH_PROT_R0_BASE : Fld := ⟨0x0, 0, 12⟩
abbrev PGH_PROT_R0_LIMIT : Fld := ⟨0x0, 16, 12⟩
abbrev PGH_PROT_R0_RD : Fld := ⟨0x0, 28, 1⟩
abbrev PGH_PROT_R0_WR : Fld := ⟨0x0, 29, 1⟩
abbrev PGH_PROT_R0_CMD_ONLY : Fld := ⟨0x0, 30, 1⟩
abbrev PGH_PROT_R0_VALID : Fld := ⟨0x0, 31, 1⟩
abbrev PGH_PROT_BASE : Fld := ⟨0x4, 0, 12⟩
abbrev PGH_PROT_LIMIT : Fld := ⟨0x4, 16, 12⟩
abbrev PGH_PROT_RD : Fld := ⟨0x4, 28, 1⟩
abbrev PGH_PROT_WR : Fld := ⟨0x4, 29, 1⟩
abbrev PGH_PROT_CMD_ONLY : Fld := ⟨0x4, 30, 1⟩
abbrev PGH_PROT_VALID : Fld := ⟨0x4, 31, 1⟩
abbrev PGH_PROT_STAT_REFUSED : Fld := ⟨0x100, 0, 4⟩
abbrev PGH_PROT_ADDR_OFFSET : Fld := ⟨0x104, 0, 18⟩
abbrev PGH_PROT_ADDR_MASTER : Fld := ⟨0x104, 18, 2⟩
abbrev PGH_PROT_ADDR_WRITE : Fld := ⟨0x104, 20, 1⟩
abbrev PGH_COLL_STAT_WARNED : Fld := ⟨0x108, 0, 4⟩
abbrev PGH_COLL_ADDR_WORD : Fld := ⟨0x10c, 0, 15⟩
abbrev PGH_COLL_ADDR_READER : Fld := ⟨0x10c, 16, 2⟩
abbrev PGH_COLL_ADDR_WARNED : Fld := ⟨0x10c, 18, 2⟩
abbrev PGH_COLL_CNT_COUNT : Fld := ⟨0x110, 0, 32⟩
abbrev SDI_BUS_WIDE : Fld := ⟨0x0, 0, 1⟩
abbrev SDI_BUS_SPEED : Fld := ⟨0x0, 1, 3⟩
abbrev SDI_BUS_V18 : Fld := ⟨0x0, 4, 1⟩
abbrev SDI_BUS_STRAP_IO18 : Fld := ⟨0x0, 5, 1⟩
abbrev SDI_BUS_IOE : Fld := ⟨0x0, 6, 2⟩
abbrev SDI_BUS_RCA : Fld := ⟨0x0, 16, 16⟩
abbrev SDI_CRC_ERR_CMD : Fld := ⟨0x4, 0, 16⟩
abbrev SDI_CRC_ERR_DATA : Fld := ⟨0x4, 16, 16⟩
abbrev SDI_XFER_BLOCKS : Fld := ⟨0x8, 0, 32⟩
abbrev RGN_ERR_REC_LO_ID : Fld := ⟨0x100, 0, 32⟩
abbrev RGN_ERR_REC_HI_ID : Fld := ⟨0x104, 0, 32⟩
abbrev RGN_ERR_STAT_VALID : Fld := ⟨0x108, 0, 1⟩
abbrev RGN_ERR_STAT_ESCALATED : Fld := ⟨0x108, 1, 1⟩
abbrev RGN_ERR_STAT_THROTTLE : Fld := ⟨0x108, 2, 1⟩
abbrev RGN_ERR_STAT_DROPPED : Fld := ⟨0x108, 8, 8⟩
abbrev RGN_ERR_STAT_COUNT : Fld := ⟨0x108, 16, 16⟩
abbrev RGN_ERR_FENCE_BLOCKS : Fld := ⟨0x10c, 0, 16⟩
abbrev NIM_CTL_EN : Fld := ⟨0x0, 0, 1⟩
abbrev NIM_CTL_RISK_EN : Fld := ⟨0x0, 1, 1⟩
abbrev NIM_STAT_ACT : Fld := ⟨0x4, 0, 3⟩
abbrev NIM_STAT_GRAD : Fld := ⟨0x4, 3, 2⟩
abbrev NIM_STAT_REQ : Fld := ⟨0x4, 5, 1⟩
abbrev NIM_STAT_ALIGNED : Fld := ⟨0x4, 6, 1⟩
abbrev NIM_STAT_P1DONE : Fld := ⟨0x4, 7, 1⟩
abbrev NIM_STAT_ABORT : Fld := ⟨0x4, 8, 1⟩
abbrev NIM_STAT_UNRECOV : Fld := ⟨0x4, 9, 1⟩
abbrev NIM_EPOCH_EPOCH : Fld := ⟨0x8, 0, 32⟩
abbrev NIM_EPOCH_STEP_STEP : Fld := ⟨0xc, 0, 32⟩
abbrev NIM_STEP_STEP : Fld := ⟨0x10, 0, 32⟩
abbrev NIM_GROUP_GROUP_ID : Fld := ⟨0x14, 0, 16⟩
abbrev NIM_GROUP_K : Fld := ⟨0x14, 16, 4⟩
abbrev NIM_GROUP_MEMBER : Fld := ⟨0x14, 20, 4⟩
abbrev NIM_GROUP_VALID : Fld := ⟨0x14, 24, 1⟩
abbrev NIM_GROUP_SHARED_FEED : Fld := ⟨0x14, 25, 1⟩
abbrev NIM_TAG_TAG : Fld := ⟨0x18, 0, 4⟩
abbrev NIM_TAG_BY_CMD : Fld := ⟨0x18, 4, 1⟩
abbrev NIM_TAG_FEEDTAG : Fld := ⟨0x18, 8, 4⟩
abbrev NIM_TIMEOUT_MS : Fld := ⟨0x1c, 0, 16⟩
abbrev NIM_AREA_LO_ADDR : Fld := ⟨0x20, 0, 32⟩
abbrev NIM_AREA_HI_ADDR : Fld := ⟨0x24, 0, 4⟩
abbrev NIM_CHUNKS_C : Fld := ⟨0x28, 0, 16⟩
abbrev NIM_SHARD_KIND_KIND : Fld := ⟨0x40, 0, 2⟩
abbrev NIM_SHARD_BASE_LO_BASE : Fld := ⟨0x44, 0, 32⟩
abbrev NIM_SHARD_BASE_HI_BASE : Fld := ⟨0x48, 0, 4⟩
abbrev NIM_SHARD_LEN_LEN : Fld := ⟨0x4c, 0, 32⟩
abbrev NIM_GRAD_CTL_EN : Fld := ⟨0x100, 0, 1⟩
abbrev NIM_GRAD_CTL_FMT : Fld := ⟨0x100, 1, 2⟩
abbrev NIM_GRAD_CTL_READY_BLK : Fld := ⟨0x100, 4, 8⟩
abbrev NIM_GRAD_CTL_READY_CNT : Fld := ⟨0x100, 12, 4⟩
abbrev NIM_GRAD_CTL_READY_INC : Fld := ⟨0x100, 16, 16⟩
abbrev NIM_GRAD_COMMIT_COMMIT_BLK : Fld := ⟨0x104, 0, 8⟩
abbrev NIM_GRAD_COMMIT_COMMIT_CNT : Fld := ⟨0x104, 8, 4⟩
abbrev NIM_GRAD_LINES_LINES : Fld := ⟨0x108, 0, 24⟩
abbrev NIM_GRAD_LOCAL_LO_ADDR : Fld := ⟨0x110, 0, 32⟩
abbrev NIM_GRAD_LOCAL_HI_ADDR : Fld := ⟨0x114, 0, 4⟩
abbrev NIM_GRAD_STAGE_LO_ADDR : Fld := ⟨0x118, 0, 32⟩
abbrev NIM_GRAD_STAGE_HI_ADDR : Fld := ⟨0x11c, 0, 4⟩
abbrev NIM_GRAD_RESULT_LO_ADDR : Fld := ⟨0x120, 0, 32⟩
abbrev NIM_GRAD_RESULT_HI_ADDR : Fld := ⟨0x124, 0, 4⟩
abbrev NIM_GRAD_AVG_LO_ADDR : Fld := ⟨0x128, 0, 32⟩
abbrev NIM_GRAD_AVG_HI_ADDR : Fld := ⟨0x12c, 0, 4⟩
abbrev NIM_MEMBER_COORD : Fld := ⟨0x200, 0, 12⟩
abbrev NIM_MEMBER_TAG : Fld := ⟨0x200, 12, 4⟩
abbrev NIM_MEMBER_LIVE : Fld := ⟨0x200, 16, 1⟩
abbrev NIM_MEMBER_VALID : Fld := ⟨0x200, 17, 1⟩
abbrev NIM_COUNTS_SECURED : Fld := ⟨0x300, 0, 16⟩
abbrev NIM_COUNTS_ABORTED : Fld := ⟨0x300, 16, 16⟩
abbrev NIM_REBUILD_CHUNKS : Fld := ⟨0x304, 0, 32⟩
abbrev HZN_CTL_RULES_EN : Fld := ⟨0x0, 0, 1⟩
abbrev HZN_CTL_RISK_SHIFT : Fld := ⟨0x0, 8, 5⟩
abbrev HZN_RISK_RISK : Fld := ⟨0x4, 0, 8⟩
abbrev HZN_RISK_LEVEL : Fld := ⟨0x4, 8, 3⟩
abbrev HZN_RISK_SAMPLES : Fld := ⟨0x4, 16, 16⟩
abbrev HZN_LVL_THR0_T1_T4 : Fld := ⟨0x8, 0, 32⟩
abbrev HZN_LVL_THR1_T5_T7 : Fld := ⟨0xc, 0, 24⟩
abbrev HZN_BAL_APPROACH : Fld := ⟨0x10, 0, 5⟩
abbrev HZN_BAL_OVER : Fld := ⟨0x10, 8, 1⟩
abbrev HZN_ALERT_CAD_LOST : Fld := ⟨0x14, 0, 1⟩
abbrev HZN_ALERT_BAL_OVER : Fld := ⟨0x14, 1, 1⟩
abbrev HZN_ALERT_PIN : Fld := ⟨0x14, 2, 1⟩
abbrev HZN_ALERT_RULES_LO_RULES : Fld := ⟨0x18, 0, 32⟩
abbrev HZN_ALERT_RULES_HI_RULES : Fld := ⟨0x1c, 0, 32⟩
abbrev HZN_FIRED_LO_RULES : Fld := ⟨0x20, 0, 32⟩
abbrev HZN_FIRED_HI_RULES : Fld := ⟨0x24, 0, 32⟩
abbrev HZN_REST_REQ : Fld := ⟨0x28, 0, 16⟩
abbrev HZN_REST_OFF : Fld := ⟨0x28, 16, 16⟩
abbrev HZN_WAKE_CNT_DEMAND : Fld := ⟨0x2c, 0, 16⟩
abbrev HZN_WAKE_CNT_SECURE_REQ : Fld := ⟨0x2c, 16, 16⟩
abbrev HZN_RULE_CMD_COMMIT : Fld := ⟨0x30, 0, 1⟩
abbrev HZN_RULE_CMD_BUSY : Fld := ⟨0x30, 1, 1⟩
abbrev HZN_DEPTH_LO_A : Fld := ⟨0x38, 0, 32⟩
abbrev HZN_DEPTH_HI_A : Fld := ⟨0x3c, 0, 32⟩
abbrev HZN_USER_VALUE : Fld := ⟨0x40, 0, 32⟩
abbrev HZN_CH_CFG_FILT : Fld := ⟨0x100, 0, 2⟩
abbrev HZN_CH_CFG_K : Fld := ⟨0x100, 2, 3⟩
abbrev HZN_CH_CFG_LAG : Fld := ⟨0x100, 5, 5⟩
abbrev HZN_CH_CFG_VALID : Fld := ⟨0x100, 15, 1⟩
abbrev HZN_CH_CFG_WEIGHT : Fld := ⟨0x100, 16, 16⟩
abbrev HZN_CH_OFS_OFFSET : Fld := ⟨0x104, 0, 32⟩
abbrev HZN_CH_VAL_F : Fld := ⟨0x108, 0, 32⟩
abbrev HZN_CH_RATE_RATE : Fld := ⟨0x10c, 0, 32⟩
abbrev HZN_RULE_WORD : Fld := ⟨0x800, 0, 32⟩
abbrev HZN_STG_WORD : Fld := ⟨0xc00, 0, 32⟩
abbrev HZN_PROT_R0_BASE : Fld := ⟨0x1000, 0, 9⟩
abbrev HZN_PROT_R0_LIMIT : Fld := ⟨0x1000, 16, 9⟩
abbrev HZN_PROT_R0_RD : Fld := ⟨0x1000, 28, 1⟩
abbrev HZN_PROT_R0_WR : Fld := ⟨0x1000, 29, 1⟩
abbrev HZN_PROT_R0_VALID : Fld := ⟨0x1000, 31, 1⟩
abbrev HZN_PROT_BASE : Fld := ⟨0x1004, 0, 9⟩
abbrev HZN_PROT_LIMIT : Fld := ⟨0x1004, 16, 9⟩
abbrev HZN_PROT_RD : Fld := ⟨0x1004, 28, 1⟩
abbrev HZN_PROT_WR : Fld := ⟨0x1004, 29, 1⟩
abbrev HZN_PROT_VALID : Fld := ⟨0x1004, 31, 1⟩
abbrev HZN_PROT_STAT_REFUSED : Fld := ⟨0x1100, 0, 4⟩
abbrev HZN_PROT_ADDR_OFFSET : Fld := ⟨0x1104, 0, 15⟩
abbrev HZN_PROT_ADDR_MASTER : Fld := ⟨0x1104, 18, 2⟩
abbrev HZN_PROT_ADDR_WRITE : Fld := ⟨0x1104, 20, 1⟩
abbrev HZN_COLL_STAT_WARNED : Fld := ⟨0x1108, 0, 4⟩
abbrev HZN_COLL_ADDR_WORD : Fld := ⟨0x110c, 0, 12⟩
abbrev HZN_COLL_ADDR_READER : Fld := ⟨0x110c, 16, 2⟩
abbrev HZN_COLL_ADDR_WARNED : Fld := ⟨0x110c, 18, 2⟩
abbrev HZN_COLL_CNT_COUNT : Fld := ⟨0x1110, 0, 32⟩
abbrev PML_STAT_BUSY : Fld := ⟨0x0, 0, 1⟩
abbrev PML_STAT_PRIMARY : Fld := ⟨0x0, 1, 1⟩
abbrev PML_STAT_DROPPED : Fld := ⟨0x0, 2, 1⟩
abbrev PML_NEWEST_SLOT : Fld := ⟨0x4, 0, 13⟩
abbrev PML_COUNT_PRIMARY : Fld := ⟨0x8, 0, 14⟩
abbrev PML_COUNT_LAST_WORDS : Fld := ⟨0x8, 16, 7⟩
abbrev PML_PINNED_SLOT : Fld := ⟨0xc, 0, 13⟩
abbrev PML_PINNED_VALID : Fld := ⟨0xc, 31, 1⟩
abbrev PML_SEQ_NEXT : Fld := ⟨0x10, 0, 32⟩
abbrev PML_BOOT_COUNT_COUNT : Fld := ⟨0x14, 0, 32⟩
abbrev PML_DROPS_COUNT : Fld := ⟨0x18, 0, 32⟩
abbrev PML_WALL_LO_TIME : Fld := ⟨0x20, 0, 32⟩
abbrev PML_WALL_HI_TIME : Fld := ⟨0x24, 0, 32⟩
abbrev PWR_ON_LO_ON : Fld := ⟨0x0, 0, 32⟩
abbrev PWR_ON_HI_ON : Fld := ⟨0x4, 0, 8⟩
abbrev PWR_REQ_LO_FIXED : Fld := ⟨0x8, 0, 4⟩
abbrev PWR_REQ_LO_REQ : Fld := ⟨0x8, 4, 28⟩
abbrev PWR_REQ_HI_REQ : Fld := ⟨0xc, 0, 8⟩
abbrev PWR_RET_LO_RET : Fld := ⟨0x10, 0, 32⟩
abbrev PWR_RET_HI_RET : Fld := ⟨0x14, 0, 8⟩
abbrev PWR_STAT_BUSY : Fld := ⟨0x18, 0, 1⟩
abbrev PWR_STAT_DEP_ERR : Fld := ⟨0x18, 1, 1⟩
abbrev PWR_STAT_CREDIT_WAIT : Fld := ⟨0x18, 2, 1⟩
abbrev PWR_STAT_LAST_PD : Fld := ⟨0x18, 8, 6⟩
abbrev PWR_STAT_LAST_US : Fld := ⟨0x18, 16, 16⟩
abbrev PWR_SLEEP_LO_ON : Fld := ⟨0x20, 0, 32⟩
abbrev PWR_SLEEP_HI_ON : Fld := ⟨0x24, 0, 8⟩
abbrev PWR_SLEEP_STAT_DIRTY_LOST : Fld := ⟨0x28, 0, 13⟩
abbrev PWR_SLEEP_STAT_SLEEPS : Fld := ⟨0x28, 16, 16⟩
abbrev PWR_WAKES_COMPUTE : Fld := ⟨0x2c, 0, 16⟩
abbrev PWR_WAKES_SCRATCH : Fld := ⟨0x2c, 16, 16⟩
abbrev CHIP_ID_PART : Fld := ⟨0x0, 0, 16⟩
abbrev CHIP_ID_STEPPING : Fld := ⟨0x0, 16, 8⟩
abbrev CHIP_SERIAL_LO_SERIAL : Fld := ⟨0x8, 0, 32⟩
abbrev CHIP_SERIAL_HI_SERIAL : Fld := ⟨0xc, 0, 32⟩
abbrev CHIP_RST_KEY : Fld := ⟨0x30, 0, 16⟩
abbrev CHIP_RST_SOFT : Fld := ⟨0x30, 16, 1⟩
abbrev CHIP_RST_CAUSE_CAUSE : Fld := ⟨0x34, 0, 2⟩
abbrev CHIP_RST_CAUSE_PREV_STATE : Fld := ⟨0x34, 4, 4⟩
abbrev CHIP_BOOT_STRAP_BOOT : Fld := ⟨0x38, 0, 2⟩
abbrev CHIP_BOOT_STRAP_BAD : Fld := ⟨0x38, 2, 1⟩
abbrev CHIP_BOOT_STAGE : Fld := ⟨0x38, 4, 4⟩
abbrev CHIP_BOOT_FAIL : Fld := ⟨0x38, 8, 8⟩
abbrev CHIP_BOOT_TIME_MS : Fld := ⟨0x38, 16, 16⟩
abbrev SEC_STAT_FW_VERIFIED : Fld := ⟨0x0, 0, 1⟩
abbrev SEC_STAT_ROOT_SET : Fld := ⟨0x0, 1, 1⟩
abbrev SEC_STAT_UNLOCKED : Fld := ⟨0x0, 2, 1⟩
abbrev SEC_STAT_SINCE_BOOT : Fld := ⟨0x0, 3, 1⟩
abbrev SEC_STAT_PERM_LOCK : Fld := ⟨0x0, 4, 1⟩
abbrev SEC_STAT_ADVANCING : Fld := ⟨0x0, 5, 1⟩
abbrev SEC_DEBUG_UNLOCK : Fld := ⟨0x4, 0, 1⟩
abbrev SEC_ROLLBACK_FUSED : Fld := ⟨0x8, 0, 7⟩
abbrev SEC_ROLLBACK_RUNNING : Fld := ⟨0x8, 8, 7⟩
abbrev SEC_ROLLBACK_STAGED : Fld := ⟨0x8, 16, 7⟩
abbrev SEC_FW_VERSION_RUNNING : Fld := ⟨0xc, 0, 32⟩
abbrev SEC_VERIFY_FAIL_STATUS : Fld := ⟨0x10, 0, 16⟩
abbrev SEC_VERIFY_FAIL_CHECK : Fld := ⟨0x10, 16, 3⟩
abbrev SEC_VERIFY_FAIL_AT_BOOT : Fld := ⟨0x10, 19, 1⟩
abbrev SEC_ID_Q_NEXT : Fld := ⟨0x14, 0, 17⟩
abbrev SEC_QUOTES_COUNT : Fld := ⟨0x18, 0, 32⟩
abbrev SEC_FW_SHA_SHA : Fld := ⟨0x40, 0, 32⟩
abbrev SEC_ROOT_HASH_HASH : Fld := ⟨0x60, 0, 32⟩
abbrev BST_CTL_PAR : Fld := ⟨0x0, 0, 5⟩
abbrev BST_CTL_SVC_EN : Fld := ⟨0x0, 5, 1⟩
abbrev BST_STAT_BUSY : Fld := ⟨0x4, 0, 1⟩
abbrev BST_STAT_SMALL : Fld := ⟨0x4, 1, 1⟩
abbrev BST_STAT_FAIL : Fld := ⟨0x4, 2, 1⟩
abbrev BST_STAT_REPAIRED : Fld := ⟨0x4, 3, 1⟩
abbrev BST_STAT_COMMIT_BUSY : Fld := ⟨0x4, 4, 1⟩
abbrev BST_BOOT_SEL_SELECTOR : Fld := ⟨0x8, 0, 32⟩
abbrev BST_RES_CNT_NEWEST : Fld := ⟨0xc, 0, 10⟩
abbrev BST_RES_CNT_TOTAL : Fld := ⟨0xc, 16, 16⟩
abbrev BST_COUNTS_SKIPPED : Fld := ⟨0x10, 0, 16⟩
abbrev BST_COUNTS_DEFERRED : Fld := ⟨0x10, 16, 16⟩
abbrev BST_FUSE_FREE_ENTRIES : Fld := ⟨0x14, 0, 14⟩
abbrev BST_CUR_DONE : Fld := ⟨0x40, 0, 16⟩
abbrev BST_CUR_PASSES : Fld := ⟨0x40, 16, 16⟩
abbrev BST_REP_SEL_UNIT : Fld := ⟨0x80, 0, 14⟩
abbrev BST_REP_BAD_LO_BAD : Fld := ⟨0x84, 0, 32⟩
abbrev BST_REP_BAD_HI_BAD : Fld := ⟨0x88, 0, 32⟩
abbrev BST_SPD_REP_BANK : Fld := ⟨0x4000, 0, 4⟩
abbrev BST_SPD_REP_LINE : Fld := ⟨0x4000, 4, 9⟩
abbrev BST_SPD_REP_SPARE : Fld := ⟨0x4000, 13, 2⟩
abbrev BST_SPD_REP_VALID : Fld := ⟨0x4000, 15, 1⟩
abbrev BST_SPD_REP_FUSED : Fld := ⟨0x4000, 16, 1⟩
abbrev POST_RESCALE_SCALE_SCALE : Fld := ⟨0x40000, 0, 16⟩
abbrev POST_RESCALE_BIAS_BIAS : Fld := ⟨0x40004, 0, 32⟩
abbrev POST_RESCALE_COLSUM_COLSUM : Fld := ⟨0x40008, 0, 32⟩
abbrev POST_AFFINE_GAMMA : Fld := ⟨0x40c00, 0, 16⟩
abbrev POST_AFFINE_BETA : Fld := ⟨0x40c00, 16, 16⟩
abbrev POST_ACT_LO_LO : Fld := ⟨0x50000, 0, 32⟩
abbrev POST_ACT_INV_W_INV_W : Fld := ⟨0x50004, 0, 32⟩
abbrev POST_ACT_CTL_MODE : Fld := ⟨0x50008, 0, 2⟩
abbrev POST_ACT_CTL_EXP_LO : Fld := ⟨0x50008, 8, 8⟩
abbrev POST_ACT_CTL_NEG : Fld := ⟨0x50008, 16, 2⟩
abbrev POST_ACT_C0_C0 : Fld := ⟨0x50010, 0, 32⟩
abbrev POST_ACT_C1_C1 : Fld := ⟨0x50014, 0, 32⟩
abbrev POST_ACT_C2_C2 : Fld := ⟨0x50018, 0, 32⟩

end F

end Sys2Proof.Machine
end

