-- ==== Sys2Proof/Machine/Parts.lean ====
section
/-! DEFINITION. The parts of the state that stand behind the registers: macros, contexts, scoreboard issues, gather lines,
region units and messages in flight. Plain data. -/

namespace Sys2Proof.Machine

/-- What a context is doing (R113). -/
inductive CtxSt where
  | off
  | ready
  | wait
  | done
  | faulted
deriving DecidableEq, Repr

/-- One context of a block's sequencer (R113, R202): its state, the wait reason of Table 4.3, the class that faulted it, the
number of result sets whose passes it has taken up, whether a pass is under way, the operation it issues next, the first
operation of the current chain group and the iteration of its loop (R210), and the outbound entries whose STALLS its next issue has been counted in
(Table 5.5). -/
structure Ctx where
  st : CtxSt
  reason : Nat
  faultClass : Nat
  taken : Nat
  running : Bool
  opn : Nat
  grp : Nat
  iter : Nat
  stalled : List Nat
deriving DecidableEq, Repr

/-- A context after reset or power-up. -/
def Ctx.init : Ctx := ⟨.off, 0, 0, 0, false, 0, 0, 0, []⟩

/-- A range held in the scoreboard (R119): space 0 local scratchpad bytes, 1 accumulator bytes of the masked macros, 2 rows of
the masked macros; lo inclusive, hi exclusive. -/
structure Claim where
  space : Nat
  mask : Nat
  lo : Nat
  hi : Nat
  wr : Bool
deriving DecidableEq, Repr

/-- A slot of a circular region or of an outbound region taken by an issue (R158): which region (or outbound entry), the slot
number, whether it is written, whether it is outbound. -/
structure SlotUse where
  region : Nat
  slotNo : Nat
  wr : Bool
  outbound : Bool
deriving DecidableEq, Repr

/-- One piece dealt to a lane of the sparse engine (R239): the output, its entries as (input index, weight), and whether it is
an audited output (R279). -/
structure Piece where
  out : Nat
  entries : List (Nat × Int)
  audit : Bool
deriving DecidableEq, Repr

/-- The sparse engine's work on one issue (R238 to R243): the group being dealt, the next output, pieces of the current output
waiting for a lane, pieces on lanes, pending counts, totals and correction totals by output × 8 + row, the next output to
release, whether all pieces of the group were dealt, predicted, doubtful and audited outputs of the group (R268, R278), and
whether a prediction stands. -/
structure Engine where
  grp : Nat
  nextOut : Nat
  queue : List Piece
  lanes : List Piece
  pend : SMap Nat
  tot : SMap Int
  totC : SMap Int
  nextRel : Nat
  dealt : Bool
  predOk : Bool
  predicted : List Nat
  doubtful : List Nat
  audits : List Nat
  counted : Bool
deriving DecidableEq, Repr

/-- The engine at the start of a group. -/
def Engine.init (g : Nat) : Engine := ⟨g, 0, [], [], [], [], [], 0, false, false, [], [], [], false⟩

/-- One entry of the scoreboard (R119, R120): an issue of one tile or transfer and the work it still has in flight. `id` is its
age. `word` is its 32-byte record, `j` and `slot` its result set, `pos` the loop position of each operand slot (R209). `need`
lists the 64-byte lines of its inputs not yet arrived, `got` those that have, `staged` their bytes. `path` is 1 on the sparse engine, 2 while a
dense path expands its tile, else 0; `eng` is the group whose totals are being merged and `nxt` the one after it (R241). `clip` holds the clip value in effect when it
issued (R95), `cmp` the codes stored into bound tensors whose tiles are not written yet as (slot, position, code) (R248), `rdBase` and `wrBase` the first row numbers it reads and writes in scale streams (R96, R97), `resv` its correction
entries (R127). -/
structure Issue where
  id : Nat
  ctx : Nat
  word : Nat
  opIndex : Nat
  j : Nat
  slot : Nat
  pos : List (List Int)
  claims : List Claim
  uses : List SlotUse
  need : List Nat
  got : List Nat
  staged : SMap Byte
  rows : Nat
  rowsDone : Nat
  epiDone : Nat
  corr : SMap Int
  corrPend : List (Nat × Nat × Int)
  corrRow : Nat
  resv : Nat
  acks : Nat
  faulted : Bool
  clip : List Nat
  cmp : List (Nat × List Int × Nat)
  rdBase : Nat
  wrBase : Nat
  path : Nat
  eng : Engine
  nxt : Engine
  done : Bool
deriving DecidableEq, Repr

/-- A line of the gather buffer (R153): its byte offset, the bytes merged into it as (index, value, bit enables), none where it is not dirty, the
line as its bank holds it where the buffer has read it, and the issue that merged into it last. -/
structure GLine where
  line : Nat
  data : List (Nat × Byte × Byte)
  clean : Option (List Byte)
  iss : Nat
deriving DecidableEq, Repr

/-- A store into a line that a restore of the retained window holds (R170): its issue, the line, whether all of the line was accessed, and the bytes by
their index. -/
structure HeldStore where
  iss : Nat
  line : Nat
  full : Bool
  data : List (Nat × Byte × Byte)
deriving DecidableEq, Repr

/-- A byte that a block has stored on another device: its value and its enabled bits (log entry 79). -/
structure FarByte where
  val : Byte
  en : Byte
deriving DecidableEq, Repr

/-- A shadow synchronisation or restore under way (R70, R71, R170): rows or KiB still to copy, which of the two it is, and its age among the
block's scoreboard entries (R119). -/
structure ShadowOp where
  restore : Bool
  left : List Nat
  age : Nat
deriving DecidableEq, Repr

/-- Running statistics of one channel group of a range monitor over the slot (R73), and its consecutive judged slots outside the
envelope (R74). -/
structure RGrp where
  mn : Word
  mx : Word
  sum : Word
  cnt : Nat
  bins : List Nat
  run : Nat
deriving DecidableEq, Repr

/-- A group's statistics when they restart. -/
def RGrp.init : RGrp := ⟨0x7F800000#32, 0xFF800000#32, 0#32, 0, List.replicate 16 0, 0⟩

/-- What stands behind one macro's registers: scrub steps requested and not retired (R63) with their age, the next row of each fill pass (R66)
with the age of the oldest,
the watch table of four (column, count) slots (R67), running monitor statistics (R73), the age of a readback that waits (R117), a
sync or restore under way, the image record it holds, one more than its number, 0 for none (R533), and its error handler's slot (fault ID, count) (R443). -/
structure MacroX where
  scrubReq : Nat
  scrubAge : Nat
  fill : SMap Nat
  fillAge : Nat
  watch : List (Nat × Nat)
  mon : SMap RGrp
  rb : Option Nat
  shop : Option ShadowOp
  held : Nat
  eslot : Option (Nat × Nat)
deriving DecidableEq, Repr

/-- A macro after power-up. -/
def MacroX.init : MacroX := ⟨0, 0, [], 0, List.replicate 4 (0, 0), [], none, none, 0, none⟩

/-- A staging tag (R236): directory descriptor, directory position, VAL_CRC. -/
structure StageTag where
  desc : Nat
  dpos : List Int
  crc : Nat
deriving DecidableEq, Repr

/-- What a message carries (Table 11.3). Lines are 64-byte lines named by the byte address of the first at the destination; `data` lists bytes by
their index from it, with bit enables, and a `narrow` write is TYPE 2. `iss` is the TAG: the requester's issue (a block's age number, a port's or
the hub's token). `poison` is 0, or the event class of the error a POISON response reports. -/
inductive Body where
  | read (line lines : Nat) (iss : Nat)
  | write (line : Nat) (narrow : Bool) (data : List (Nat × Byte × Byte)) (iss : Nat)
  | atomic (line : Nat) (data : List (Nat × Byte × Byte)) (fmt : Nat) (cnt : Option Nat) (iss : Nat)
  | credit (region : Nat)
  | readRsp (key : Nat) (data : List Byte) (poison : Nat) (iss : Nat)
  | ack (poison : Nat) (iss : Nat)
  | note (kind : Nat) (args : List Nat) (data : List Byte)
deriving DecidableEq, Repr

/-- A message in flight. Ends: 0 to 255 blocks, 256 + p Courier port p, 272 the chip hub, 1024 + pc an HBM pseudo-channel, 4096 + c the device
at coordinate c; `blk` is the target block at another device, 256 for its HBM. -/
structure Msg where
  src : Nat
  dst : Nat
  blk : Nat
  body : Body
deriving DecidableEq, Repr

/-- Counts of the mesh: flits sent on each router output (R333), by 8 × block + port, and failed attempts in a row on the flit at a router input
(R316), by the same key; and marks of the outputs, and at 4,096 + r of the crossings of region r, that flits have used since their cycle counts were
last read. -/
structure Mesh where
  flits : SMap Nat
  tries : SMap Nat
  waits : SMap Nat
deriving DecidableEq, Repr

/-- What stands behind one block's registers: contexts, the scoreboard in order of age, issues whose compressed tile's
header is being staged before they issue (R227), the next age, the context that last issued
at each issue point, gather lines in order of last use, slots begun by remote writers TAKEN (R592), slots begun by the local
producer (2^16 + 2^11 × region + pointer marks a remote slot whose last byte was written ahead of an earlier one, 2^17 + region names the
writer of a region fed over Courier as 2^9 × coordinate + endpoint + 1) and slots taken by readers, next slot of each outbound entry, the cycle of the last plane (R27), row counters of scale
streams written and read (R96, R97), staging tags, retained-window sync or restore, and the Cirrus array's pending threshold,
audits since the last judgement, PRED groups of each result set (R278 to R280), the error handler's slot (fault ID, count) (R443),
whether Casec has no report of the error in that slot (R448),
retired issues of a chain whose correction entries wait for the chain's last operation (R127, R210), HBM requests that wait for a
credit (R320), whether a resumption is being delayed (R27), stores that a restore of the retained window holds (R170), and the bytes that the block has stored on other devices since START, by place
(log entry 79). -/
structure BlockX where
  ctxs : SMap Ctx
  issues : List Issue
  probes : List Issue
  nextId : Nat
  last : List Nat
  gather : List GLine
  circTaken : SMap Nat
  circBegun : SMap Nat
  circRead : SMap Nat
  outNext : SMap Nat
  lastPlane : Option Nat
  rowsWr : SMap Nat
  rowsRd : SMap Nat
  tags : SMap (Option StageTag)
  shop : Option ShadowOp
  thrPend : Option Nat
  audA : Nat
  audM : Nat
  predG : SMap Nat
  eslot : Option (Nat × Nat)
  chains : List Issue
  outbox : List Msg
  rampHeld : Bool
  heldW : List HeldStore
  far : SMap FarByte
  unreported : Bool
deriving DecidableEq, Repr

/-- A block after power-up. -/
def BlockX.init : BlockX :=
  ⟨[], [], [], 0, [31, 31, 31], [], [], [], [], [], none, [], [], [], none, none, 0, 0, [], none, [], [], false, [], [], false⟩

/-- A step change of a region clock in progress (R24): from, to, and the stage: 0 the synthesizer locks, 1 the LDO ramps. -/
structure StepChange where
  src : Nat
  dst : Nat
  stage : Nat
deriving DecidableEq, Repr

/-- An atomic add request (R165): target block, line byte offset, enabled bytes, format (0 INT32, 1 FP32, 2 BF16), counter, and the
requester with its issue. -/
structure AtomReq where
  blk : Nat
  line : Nat
  data : List (Nat × Byte × Byte)
  fmt : Nat
  cnt : Option Nat
  src : Nat
  iss : Nat
deriving DecidableEq, Repr

/-- What stands behind one region's registers: its step change and queued target (R21), the number of the governor's window (R25; log entry 78),
planes as (ACLK cycle, block, activity), the cycle in which the window's budget was reached (R26), resumption cycles of idle blocks
(R27), the atomic unit's queue (R166), and the region error handler's report table of (fault ID, count) (R448). -/
structure RegionX where
  chg : Option StepChange
  queued : Option Nat
  win : Nat
  planes : List (Nat × Nat × Nat)
  hit : Option Nat
  resumed : List Nat
  atoms : List AtomReq
  reports : List (Nat × Nat)
deriving DecidableEq, Repr

/-- A region after power-up. -/
def RegionX.init : RegionX := ⟨none, none, 0, [], none, [], [], []⟩

end Sys2Proof.Machine
end

