-- ==== Sys2Proof/Machine/Units.lean ====
section
/-! DEFINITION. The state of the chip units behind their registers: power, error handling, postmarks, cadence, jobs, HBM
controllers, Courier ports, the SDIO interface and mailbox, Nimbus, Horizon, self-test, firmware and images. Plain data. -/

namespace Sys2Proof.Machine

/-- A retained copy of one block's registers and contexts (R518): contexts and register words by address. -/
structure SavedBlock where
  ctxs : SMap Ctx
  words : SMap Word
deriving DecidableEq, Repr

/-- The power controller (R513 to R521, R525 to R528): domains whose wake latency runs, compute domains among them that have settled and are held in
reset for their scratchpad domain (R514), domains still to be switched as (domain, on), the command that waits for them, domains in RET, saved compute blocks, whether the stacks are in self-refresh,
the stage of a wake from SLEEP (0 none, 1 PD03, 2 PD02, 3 firmware verification, 4 recorded domains), the soft reset pulse (0 none,
1 scheduled, 2 running), regions whose macro restores still run after a wake, sampled straps, and when BOOT was entered. -/
structure Power where
  settling : List Nat
  held : List Nat
  plan : List (Nat × Bool)
  cmd : Option Nat
  ret : Nat
  saved : SMap SavedBlock
  selfRef : Bool
  wake : Nat
  pulse : Nat
  restoring : List Nat
  strapBoot : Nat
  strapIo18 : Nat
  feedtag : Nat
  bootAt : Nat
deriving DecidableEq, Repr

/-- One entry of Casec's fault table (R449): ID, count, count when it was last postmarked. -/
structure FaultEnt where
  id : Nat
  cnt : Nat
  posted : Nat
deriving DecidableEq, Repr

/-- Casec's error handling (R443, R449 to R452): its table, oldest first, its slot, the pinned fault ID with its merge count, and
whether the boot ROM serves the mailbox in FAULTED. -/
structure Errs where
  table : List FaultEnt
  slot : Option Nat
  pin : Option (Nat × Nat)
  rom : Bool
deriving DecidableEq, Repr

/-- A postmark submitted to the writer (R506); its other fields are formed when it is written. -/
structure PmSub where
  kind : Nat
  source : Nat
  fatal : Bool
  fid : Nat
  count : Nat
  arg : Nat
  detail : List (Nat × Nat)
deriving DecidableEq, Repr

/-- The Postmark Log (R504 to R510, R433): valid primary records by slot, the slot the next record takes, the newest and the pinned
slot, last-words records with their slot, oldest first, and the next slot there, the writer's queue, SEQ and BOOT_COUNT, drops
since the last record, a clear with its command and the queued records ahead of it, the wall time in µs with the time it was set at, the
number of the current CLEAR_NONCE, and whether the first phase of the oldest queued record's commit has begun (R505). -/
structure Pml where
  slots : SMap (List Byte)
  next : Nat
  newest : Nat
  pinned : Option Nat
  words : List (Nat × List Byte)
  wordNext : Nat
  queue : List PmSub
  seq : Nat
  bootCount : Nat
  drops : Nat
  clear : Option (Nat × Nat)
  wall : Option (Nat × Nat)
  nonce : Nat
  begun : Bool
deriving DecidableEq, Repr

/-- A posted event that has not been appended yet (R386, Table 13.6). -/
structure EvPost where
  code : Nat
  source : Nat
  flags : Nat
  slot : Nat
  phase : Nat
  arg : Nat
deriving DecidableEq, Repr

/-- The cadence unit (R290 to R306): when the current slot, or the count g, began; whether an accepted edge has come since reset;
whether the last boundary was an accepted edge; measured periods, newest first; coasted boundaries in a row; SET and a resync
offset for the next boundary; start times of pulses not yet driven and the end of the one driven; schedule records of this slot that
have fired (1,024, 1,025 and 1,026 name the implicit TRACKER, ADMIT and SCRUB); regions whose range monitors have copied since power-up. -/
structure Cad where
  base : Nat
  seen : Bool
  edge : Bool
  hist : List Nat
  coasts : Nat
  setPend : Bool
  resync : Option Int
  pulses : List Nat
  pulseEnd : Option Nat
  fired : List Nat
  monSeen : Nat
deriving DecidableEq, Repr

/-- One entry of the scale tracker (R93, R94): its window of slot maxima, newest first, the running maximum and the clip value. -/
structure TrkEnt where
  win : List Word
  cur : Word
  clip : Word
deriving DecidableEq, Repr

/-- A slot-status record (Table 14.5). -/
structure SlotRec where
  slot : Nat
  status : Nat
  flags : Nat
  late : Nat
  step : Nat
  allact : Nat
  predicted : Nat
  skipped : Nat
  doubtful : Nat
  audited : Nat
  missed : Nat
  doneSlot : Nat
  donePhase : Nat
deriving DecidableEq, Repr

/-- A ring of entries in HBM (R425). -/
structure Ring where
  base : Nat
  stride : Nat
  count : Nat
deriving DecidableEq, Repr

/-- The job (R200, R207, R425 to R438): the staged plan, whether it is verified, result sets admitted since START, STEP_BASE in
effect, a START or STOP that waits for a boundary and a DRAIN, with their commands, slot-status records by slot, tracker entries,
the rings, shape records by slot, slots with an accepted SUBMIT, hand-offs held by slot as (marks, shape record), the last admitted and completed
slot, and the result sets of the last 256 slots that are no longer in work as (slot, contexts that finished them, as 32 × block + context) (R302). -/
structure Job where
  staged : Option (List Byte)
  verified : Bool
  j : Nat
  stepBase : Nat
  startCmd : Option Nat
  stopCmd : Option Nat
  drainCmd : Option Nat
  recs : List SlotRec
  trk : List TrkEnt
  inRing : Option Ring
  outRing : Option Ring
  shapes : SMap (List Byte)
  submitted : List Nat
  handoffs : SMap (Nat × List Byte)
  lastAdmit : Nat
  lastDone : Nat
  ended : List (Nat × List Nat)
deriving DecidableEq, Repr

/-- A queued HBM request (R319, R320): requester, address of its first line, its lines, kind 0 read 1 write 2 narrow write 3 atomic 4 scrub, enabled
bytes by their index from that line, atomic format and the requester's issue. -/
structure HbmReq where
  src : Nat
  line : Nat
  lines : Nat
  kind : Nat
  data : List (Nat × Byte × Byte)
  fmt : Nat
  iss : Nat
deriving DecidableEq, Repr

/-- A Courier message (Table 12.4). -/
structure CMsg where
  dst : Nat
  src : Nat
  dstEp : Nat
  srcEp : Nat
  mtype : Nat
  flags : Nat
  lines : Nat
  tag : Nat
  attr : Nat
  tree : Nat
  addr : Nat
  data : List Byte
deriving DecidableEq, Repr

/-- The fields of a training frame (Table 12.8). -/
structure Ts where
  vers : Nat
  coord : Nat
  port : Nat
  tag : Nat
  lanes : Nat
  featLo : Nat
  featHi : Nat
  bufs : List Nat
deriving DecidableEq, Repr

/-- A message flit in the replay buffer (R343): its SEQ, bits [4:0] of its link header (VC, HEAD, TAIL) and its DATA. -/
structure SentFlit where
  seq : Nat
  ctl : Nat
  payload : List Byte
deriving DecidableEq, Repr

/-- The link state of a port (R339 to R343, R352): attempts, consecutive TS1 and TS2 frames, TS2 frames sent since the agreement, logical lanes good
at the own receiver, lanes and settings in force, sequence numbers, replay buffer, credits, the channel whose count the next flit carries, partial
messages, transmit queue, RETRY and BEACON frames sent, bad flits received, and the last flit sent; and the bits of its stream that are in no codeword yet with their number, codewords sent since the last markers, and what the
last codeword put on each lane (R338). -/
structure Port where
  attempt : Nat
  ts1n : Nat
  ts1 : Option Ts
  ts2n : Nat
  ts2 : Option Ts
  sent2 : Nat
  agreed : Option (Nat × Nat)
  goodRx : Nat
  txLanes : Nat
  axis : Nat
  dateline : Bool
  bufs : List Nat
  peerBufs : List Nat
  txSeq : Nat
  acked : Nat
  rxNext : Nat
  replay : List SentFlit
  stalls : Nat
  sent : List Nat
  ccount : List Nat
  freed : List Nat
  cvc : Nat
  refused : Bool
  part : SMap (List Byte)
  txq : List (Nat × List Byte)
  retries : Nat
  beacons : Nat
  bad : Nat
  out : List Byte
  txBits : Nat
  txLen : Nat
  txCw : Nat
  wire : List (List Nat × Option Nat)
deriving DecidableEq, Repr

/-- A port after its domain is switched on. -/
def Port.init : Port :=
  ⟨0, 0, none, 0, none, 0, none, 0, 8, 0, false, List.replicate 8 128, List.replicate 8 0, 0, 4095, 0, [], 0,
    List.replicate 8 0, List.replicate 8 0, List.replicate 8 0, 0, false, [], [], 0, 0, 0, [], 0, 0, 0, []⟩

/-- A request or write sent off the device that lacks its answer (R347): its TAG, the destination coordinate, the requester (a Msg end),
its issue, the line's place, and the lines that a read asked for. -/
structure Outst where
  tag : Nat
  coord : Nat
  who : Nat
  iss : Nat
  key : Nat
  isRead : Bool
  lines : Nat
deriving DecidableEq, Repr

/-- A message from another device that a port serves on the mesh (R346): its token, the port, the message, requests without an answer, requests not
yet sent as (end, body), data received as (place, bytes), a POISON class, and whether its flits still count against the port's buffers (R342). -/
structure Serv where
  tok : Nat
  port : Nat
  msg : CMsg
  left : Nat
  todo : List (Nat × Body)
  data : List (Nat × List Byte)
  poison : Nat
  held : Bool
deriving DecidableEq, Repr

/-- Courier (R344 to R359): ports, messages not yet routed as (port, message), 16 + 16 × axis + p naming a port p of that axis that has gone down since
and 255 the device itself, requests outstanding, collective counts of lines by 2^20 × entry + chunk, messages being served and the next token. -/
structure Cour where
  ports : SMap Port
  inbox : List (Nat × CMsg)
  outst : List Outst
  collCnt : SMap Nat
  serving : List Serv
  nextTok : Nat
deriving DecidableEq, Repr

/-- The SDIO interface (R363 to R373, R400 to R404): bus state 0 idle, 1 ready, 2 stand-by, 3 command, 4 inactive; address; voltage;
writable CCCR and FBR settings; function 1 and 2 registers; whether the last command was answered, its data and flags; the function of a
CMD53 still under way; and the words of the command slot whose copy by Casec a collision leaves undefined, with what it reads (R378). -/
structure Sdio where
  bus : Nat
  rca : Nat
  v18 : Bool
  swPend : Bool
  ioe : Nat
  ior1 : Bool
  ien : Nat
  width : Nat
  cdDis : Bool
  e4mi : Bool
  bs0 : Nat
  bs1 : Nat
  bs2 : Nat
  bss : Nat
  dts : Nat
  eai : Bool
  aperBase : Nat
  aperView : Nat
  cmdDb : Nat
  cmdCi : Nat
  rplPi : Nat
  rplDb : Nat
  evtPi : Nat
  evtDb : Nat
  intStat : Nat
  intEn : Nat
  heart : Nat
  heartAt : Nat
  collAddr : Nat
  collLatch : Nat
  evtLost : Nat
  inLatch : Nat
  outLatch : Nat
  f2Stat : Nat
  f2IntEn : Nat
  said : Bool
  resp : List Byte
  oor : Bool
  fnErr : Bool
  under : Option Nat
  clash : List (Nat × Nat)
deriving DecidableEq, Repr

/-- The interface as it powers up (R365, R367, Tables 13.3, 13.10, 13.11). -/
def Sdio.init (strapIo18 : Nat) : Sdio :=
  ⟨0, 0, decide (strapIo18 = 1), false, 0, false, 0, 0, false, false, 512, 512, 512, 0, 0, false,
    0, 0, 0, 0, 0, 0, 0, 0, 0, 0, 0, 0, 0, 0, 0, 0, 0, 0, 0, false, [], false, false, none, []⟩

/-- A command taken that lacks its final reply (R392): its number, opcode, tag, sequence number, the version it was taken in,
parameters, and its progress (a stage and numbers that its handling keeps). -/
structure Taken where
  id : Nat
  op : Nat
  tag : Nat
  seq : Nat
  ver : Nat
  par : List Byte
  stage : Nat
  aux : List Nat
deriving DecidableEq, Repr

/-- A bulk transfer in one direction (R399 to R401): its command, bytes still expected or to be read, and the data received or to be
sent. -/
structure Xfer where
  cmd : Nat
  left : Nat
  data : List Byte
deriving DecidableEq, Repr

/-- The mailbox as Casec serves it (R383 to R396, R399, R409 to R416): session, expected sequence, event mask, commands in progress,
replies and events waiting, bulk transfers, and the number of the next command. -/
structure Mail where
  sess : Bool
  ver : Nat
  expSeq : Nat
  mask : Nat
  taken : List Taken
  replies : List (List Byte)
  posts : List EvPost
  inq : List Xfer
  outq : List Xfer
  nextId : Nat
deriving DecidableEq, Repr

/-- The mailbox after reset. -/
def Mail.init : Mail := ⟨false, 0, 0, 0xFFFFFFFF, [], [], [], [], [], 0⟩

/-- An image record (R531, Table 14.3). -/
structure ImgRec where
  id : Nat
  kind : Nat
  first : Nat
  count : Nat
  len : Nat
  sha : List Byte
deriving DecidableEq, Repr

/-- Firmware, images and fuses (R536 to R546, R530, R531): slots of the firmware store, an image that FW_LOAD writes into the staged slot with its
command (steps 2 to 4 of R542), the running image, rollback bits blown, the
advance record, the next one-time key, image records in order of their entry, and the retained-window directory. -/
structure Store where
  active : List Byte
  staged : List Byte
  staging : Option (Nat × List Byte)
  running : List Byte
  rollback : Nat
  advance : Option Nat
  idNext : Nat
  imgs : List ImgRec
  retDir : SMap Nat
deriving DecidableEq, Repr

/-- A securing (R461 to R465): epoch, the step it ends, the slot of its freeze, whether the own image is frozen (a peer's PARITY or SECURED may come
before that), copied, and its digests formed, chunk digests, shard roots and device root, PARITY contributions received by 1,024 × stripe
+ 2 × message + kind, whether SECURED was sent, the members that sent SECURED with their roots, and the macros whose rows older work held at the freeze,
each with the first age of their block that is younger than the copy (R461). -/
structure Securing where
  epoch : Nat
  step : Nat
  slot : Nat
  frozen : Bool
  copied : Bool
  digests : Bool
  chunkDig : List (List Byte)
  roots : List (List Byte)
  root : List Byte
  parity : SMap Nat
  sent : Bool
  got : List (Nat × List Byte)
  late : List (Nat × Nat)
deriving DecidableEq, Repr

/-- A rebuild (R474): its command, whether it adopts, coordinate, group and epoch asked for, the member index taken, whether the member table has
come, the epoch rebuilt and the step it ended, whether a step was completed under PATH1, parts of the survivors' buffers and of the
coordinator's RESULT area read (by request number), requests without an answer, and a status that ends it. -/
structure Rebuild where
  cmd : Nat
  adopt : Bool
  coord : Nat
  group : Nat
  asked : Nat
  member : Nat
  table : Bool
  epoch : Nat
  eStep : Nat
  path1 : Bool
  got : SMap (List Byte)
  wait : Nat
  err : Nat
deriving DecidableEq, Repr

/-- A survivor's answer (R471): member, ARG of STATUS, its epoch and its step. -/
structure NimStatus where
  member : Nat
  arg : Nat
  epoch : Nat
  step : Nat
deriving DecidableEq, Repr

/-- The recovery exchange (R470 to R473): members lost since the settled epoch, those lost since the last decision, whether an exchange runs, its
coordinator, answers, members that zeroed STAGE, and the decision sent. -/
structure Exch where
  lost : List Nat
  now : List Nat
  active : Bool
  coord : Nat
  status : List NimStatus
  zeroed : List Nat
  decision : Option Nat
deriving DecidableEq, Repr

/-- The Nimbus engine (R459 to R479): a freeze is due, at the end of which step, and has met its slot boundary; the epoch that COMMIT gave it; the state
SECURING was entered from; the securing; root and slot of the last secured epoch; the ready counter when the last reduction started, its step, live
members and LOCAL readiness, ADDED as (step, sender), PUSHED as (step, stripe), READY as (step, sender), stripes already reported, tokens of
requests answered with POISON; the last committed step; a GO is awaited; a securing request at the coordinator; peers that a PING waits for;
the exchange; a step being completed under PATH1 and one completed; SECURE commands; a rebuild; a RESTORE as (command, EPOCH); and whether the
next step is committed without a reduction (R479). -/
structure Nim where
  due : Bool
  dueStep : Option Nat
  atEdge : Bool
  epochNext : Option Nat
  fromSt : Nat
  sec : Option Securing
  root : List Byte
  epochSlot : Nat
  gradBase : Nat
  gradStep : Nat
  gradLive : List Nat
  added : List (Nat × Nat)
  pushed : List (Nat × Nat)
  ready : List (Nat × Nat)
  told : List Nat
  failed : List Nat
  committed : Option Nat
  goWait : Bool
  secReq : Bool
  pings : List Nat
  exch : Exch
  path1 : Option Nat
  p1step : Nat
  secCmd : List Nat
  rebuild : Option Rebuild
  restore : Option (Nat × Nat)
  noReduce : Bool
deriving DecidableEq, Repr

/-- One channel's filter (R489, R490): the last five X, the last 33 F, newest first, whether a valid sample came since the restart. -/
structure HzCh where
  last5 : List Int
  hist : List Int
  first : Bool
deriving DecidableEq, Repr

/-- Depths by region that a replaced rule left behind and that still fall (R495), with the milliseconds since their last step and their period. -/
structure HzFall where
  depth : List Nat
  ms : Nat
  per : Nat
deriving DecidableEq, Repr

/-- One rule's state (R493, R495): fired, count, depths by region, milliseconds since its last depth step, its period when it fired, and what the
records before this one left. -/
structure HzRule where
  fired : Bool
  cnt : Nat
  depth : List Nat
  ms : Nat
  per : Nat
  old : List HzFall
deriving DecidableEq, Repr

/-- Horizon (R486 to R500): channels, rules, balance depths, whether an HZN_BAL postmark stands, counts since the last sample by channel,
and the samples since the last step time. -/
structure Hzn where
  chs : SMap HzCh
  rules : SMap HzRule
  bal : List Nat
  balMark : Bool
  tally : SMap Nat
  tick : Nat
deriving DecidableEq, Repr

/-- A self-test unit being taken (R556, R557): kind and unit (a flat block index, a region, 16 for the chip's own, or a port), when it was
started or claimed, slot and phase at that moment, for CIRRUS whether the block's recalibration window was open before, and for a unit that claims a
block the age of its claim among the block's scoreboard entries. -/
structure TestUnit where
  kind : Nat
  unit : Nat
  since : Nat
  slot : Nat
  phase : Nat
  prior : Bool
  age : Nat
deriving DecidableEq, Repr

/-- A self-test slice (R556 to R559): source 0 start-up, 1 BIST_RUN, 2 schedule, selector, budget in µs, when it began, the units it was to take in
their order, those still to take, those that it gave up untested, units whose claims wait, units under test, its command, failures, and whether a failure is fatal at start-up. -/
structure Slice where
  source : Nat
  sel : Nat
  budget : Nat
  start : Nat
  order : List (Nat × Nat)
  left : List (Nat × Nat)
  missed : List (Nat × Nat)
  claimed : List TestUnit
  running : List TestUnit
  cmd : Option Nat
  fails : Nat
  fatal : Bool
deriving DecidableEq, Repr

/-- One entry of a repair commit (R570): a register that holds a soft repair, or spare i of a unit code that is bad. -/
inductive FuseItem where
  | entry (a : Nat)
  | spare (code i : Nat)
deriving DecidableEq, Repr

/-- A repair commit in progress (R570): its command, the number of entries it fuses, those still to blow, and whether the first of them has taken its
space already, its valid bit not blown yet. -/
structure FuseRun where
  cmd : Nat
  total : Nat
  left : List FuseItem
  begun : Bool
deriving DecidableEq, Repr

/-- The self-test units (R555 to R570): the slice, cursors by 32 × kind + region, result records as bytes with their index, bad spares
by unit code (a mask) and those already fused, free fuse entries, lanes that failed by port, and the repair commit in progress. -/
structure Bist where
  slice : Option Slice
  cursor : SMap Nat
  results : SMap (List Byte)
  newest : Nat
  total : Nat
  bad : SMap Nat
  badFused : SMap Nat
  fuseFree : Nat
  lanes : SMap Nat
  commit : Option FuseRun
deriving DecidableEq, Repr

/-- The test access port (R552, R566): current instruction (0 BYPASS or none, 1 IDCODE, 2 SAMPLE/PRELOAD, 3 EXTEST, 4 EXTEST_PULSE, 5
EXTEST_TRAIN), the boundary register and what the port shifts out. -/
structure Tap where
  ir : Nat
  boundary : Nat
  out : Nat
deriving DecidableEq, Repr

end Sys2Proof.Machine
end

