-- ==== Sys2Proof/Machine/Coding.lean ====
section
/-! DEFINITION. The line coding of Courier (R338 to R341, Tables 12.2, 12.3): flits as bytes, RS(544,514) codewords, lanes and markers. -/

namespace Sys2Proof.Machine

/-! ## RS(544,514) over GF(2^10) (R338; log entry 84) -/

/-- The double of an element of GF(2^10), with primitive polynomial x^10 + x^3 + 1. -/
def gfDouble (a : Nat) : Nat := if 512 ≤ a then (2 * a) ^^^ 0x409 else 2 * a

/-- The product of two elements, over the n low bits of the second. -/
def gfTimes : Nat → Nat → Nat → Nat
  | 0, _, _ => 0
  | n + 1, a, b => (if b % 2 = 1 then a else 0) ^^^ gfTimes n (gfDouble a) (b / 2)

/-- The generator polynomial, the product of x + 2^j for j from 0 to n - 1, highest power first. -/
def rsGenerator : Nat → List Nat
  | 0 => [1]
  | n + 1 =>
    let root := (List.range n).foldl (fun a _ => gfDouble a) 1
    let g := rsGenerator n
    List.zipWith (fun a b => a ^^^ b) (g ++ [0]) (0 :: g.map (gfTimes 10 root))

/-- The 30 check symbols of 514 symbols, the first symbol being that of the highest power. -/
def rsCheck (syms : List Nat) : List Nat :=
  let g := (rsGenerator 30).drop 1
  syms.foldl (fun r x =>
    let f := x ^^^ r.headD 0
    List.zipWith (fun a c => a ^^^ gfTimes 10 f c) (r.drop 1 ++ [0]) g) (List.replicate 30 0)

/-- A codeword of 544 symbols. -/
def rsEncode (syms : List Nat) : List Nat := syms ++ rsCheck syms

/-- A codeword with more than 15 symbol errors is uncorrectable. -/
def cwLost (errors : Nat) : Bool := decide (15 < errors)

/-- What one codeword puts on the lanes in use: the symbols dealt to each in turn, and after every 16,384 codewords a marker with the lane's number
among them (R338, R339); `n` is the number of codewords sent before it. -/
def dealLanes (lanes n : Nat) (cw : List Nat) : List (List Nat × Option Nat) :=
  (List.range lanes).map (fun (l : Nat) =>
    (((cw.zip (List.range cw.length)).filter (fun e => decide (e.2 % lanes = l))).map Prod.fst,
      if (n + 1) % 16384 = 0 then some l else none))

/-! ## Flits (R340, R341, Tables 12.2, 12.3) -/

/-- A flit: link header, DATA, four reserved bytes and the CRC-32C of bytes 0 to 251. -/
def flitBytes (link : Nat) (data : List Byte) : List Byte :=
  let body := leBytes 8 link ++ padTo 240 data ++ leBytes 4 0
  body ++ leBytes 4 (crc32c body)

/-- A link header: VC, HEAD and TAIL in `ctl`, KIND, SEQ, ACK, CVC and CCOUNT. -/
def linkHeader (ctl kind seq ack cvc ccount : Nat) : Nat :=
  ctl % 8 + 8 * (ctl / 8 % 4) + 2 ^ 5 * kind + 2 ^ 8 * (seq % 4096) + 2 ^ 20 * (ack % 4096) + 2 ^ 32 * (cvc % 8) + 2 ^ 36 * (ccount % 4096)

/-- The link header of a received flit, and its fields. -/
def flitLink (f : Flit) : Nat := leAt f.bytes 0 8
def flitVc (f : Flit) : Nat := flitLink f % 8
def flitHead (f : Flit) : Bool := (flitLink f).testBit 3
def flitTail (f : Flit) : Bool := (flitLink f).testBit 4
def flitKind (f : Flit) : Nat := bits (flitLink f) 5 2
def flitSeq (f : Flit) : Nat := bits (flitLink f) 8 12
def flitAck (f : Flit) : Nat := bits (flitLink f) 20 12
def flitCvc (f : Flit) : Nat := bits (flitLink f) 32 3
def flitCcount (f : Flit) : Nat := bits (flitLink f) 36 12
/-- DATA of a received flit. -/
def flitData (f : Flit) : List Byte := slice f.bytes 8 240
/-- CTYPE of a control frame. -/
def flitCtype (f : Flit) : Nat := leAt f.bytes 8 1

/-- A flit is bad: its CRC-32C does not match, or a codeword in which it has a byte was uncorrectable, the one that ends in it among them (R338, R340). -/
def flitBad (f : Flit) : Bool := f.bad || (f.cw.map cwLost).getD false || decide (leAt f.bytes 252 4 ≠ crc32c (f.bytes.take 252))

/-! ## The stream a port sends -/

/-- The symbols of a whole codeword, cut from the stream least significant bit first. -/
def cutSymbols (stream : Nat) : List Nat := (List.range 514).map (fun (i : Nat) => bits stream (10 * i) 10)

/-- Bytes of a flit join the stream; a codeword that they complete goes to the lanes. -/
def Port.stream (x : Port) (b : List Byte) : Port :=
  let acc := x.txBits + leNat b * 2 ^ x.txLen
  let n := x.txLen + 8 * b.length
  if 5140 ≤ n then
    { x with
        txBits := acc / 2 ^ 5140, txLen := n - 5140, txCw := (x.txCw + 1) % 16384,
        wire := dealLanes (if x.txLanes = 8 then 8 else 4) x.txCw (rsEncode (cutSymbols acc)) }
  else { x with txBits := acc, txLen := n }

/-- A port sends one flit (R341): it carries ACK and the count of the next channel in turn. -/
def Port.sendFlit (x : Port) (ctl kind seq : Nat) (data : List Byte) : Port :=
  let b := flitBytes (linkHeader ctl kind seq (x.rxNext + 4095) x.cvc (x.freed.getD x.cvc 0)) data
  { x.stream b with cvc := (x.cvc + 1) % 8, out := b }

/-- An idle flit, and a control frame with its CTYPE ahead of its bytes. -/
def Port.sendIdle (x : Port) : Port := x.sendFlit 0 0 0 []
def Port.sendControl (x : Port) (ctype : Nat) (data : List Byte) : Port := x.sendFlit 0 2 0 (leBytes 1 ctype ++ data)

/-- The bytes of a training frame after CTYPE (Table 12.8). -/
def tsBytes (f : Ts) : List Byte :=
  leBytes 1 f.vers ++ leBytes 2 f.coord ++ leBytes 1 (f.port % 16 + 16 * f.tag) ++ leBytes 1 f.lanes ++ leBytes 2 0
    ++ leBytes 4 f.featLo ++ leBytes 4 f.featHi ++ (List.range 8).flatMap (fun (v : Nat) => leBytes 2 (f.bufs.getD v 0))

/-- The training frame that a control frame holds; bits that no version defines are ignored (R352). -/
def tsOf (f : Flit) : Ts :=
  let l := f.bytes
  ⟨leAt l 9 1, leAt l 10 2 % 4096, leAt l 12 1 % 16, leAt l 12 1 / 16, leAt l 13 1 &&& 0x8F, leAt l 16 4, leAt l 20 4,
    (List.range 8).map (fun (v : Nat) => leAt l (24 + 2 * v) 2)⟩

end Sys2Proof.Machine
end

