-- ==== Sys2Proof/Config.lean ====
section
/-! DEFINITION. What one part or one implementation fixes (fuses, keys made at manufacture), and the free values: constants
with no body, so that nothing can be proved of what they are. -/

namespace Sys2Proof.Config

/-- A free value, indexed by the state's free-value counter (log entry 8): the spec leaves the value open. -/
opaque freeNat : Nat → Nat

/-- What a three-or-more-bit error in one SEC-DED word leads to (R41: "depending on the pattern"): 0 uncorrectable,
1 accepted as it stands, otherwise corrected to a wrong value, by the free counter (log entry 7). -/
opaque eccVerdict : Nat → Nat

/-- What a range monitor's minimum (even index) and maximum (odd) read after a slot without values (R73 states none; log entry 28). -/
opaque emptyStat : Nat → BitVec 32

/-- The 32-byte ROOT_HASH fuse of the part (R536); all zero means none fused (log entry 6). -/
opaque rootHashFuse : List Byte

/-- The PERM_LOCK fuse (R536, R553) (log entry 6). -/
opaque permLockFuse : Bool

/-- The 64-bit serial number fuse (Table 17.10) (log entry 6). -/
opaque serialFuse : BitVec 64

/-- The device's 16-byte LMS identifier I of its identity key (R545) (log entry 6). -/
opaque idI : List Byte

/-- The 32-byte identity seed (R545): nothing outside the device reads it (log entry 6). -/
opaque idSeed : List Byte

/-- Secret element i of one-time key q of the identity key, derived at manufacture from seed and identifier in a way the spec does not give (R545; log
entry 44). -/
opaque otsElement : List Byte → List Byte → Nat → Nat → List Byte

/-- The randomizer C of the signature that the identity key makes with one-time key q over a message: the spec does not say how it is drawn (R548; log
entry 44). -/
opaque otsRandomizer : List Byte → Nat → List Byte → List Byte

/-- The boundary-register cell of a signal ball (R566): the spec gives no order of the cells (log entry 50). -/
opaque boundaryCell : Nat → Nat

/-- A value for the n-th CLEAR_NONCE (R433): the spec gives none (log entry 45). -/
opaque clearNonce : Nat → List Byte

/-- What a byte of region 0's scratchpads holds after FW_LOAD, outside the retained windows, by the free counter and address: lost (R542; log
entry 46). -/
opaque lostByte : Nat → Nat → BitVec 8

/-- A byte on another device that this device has not stored, as a block counts the escapes of a row that lies there, by the free counter and place
(log entry 79). -/
opaque heldByte : Nat → Nat → BitVec 8

/-- The value that an escape beyond the 32 entries of its row's side list decodes with outside the macro input stage, by the free counter and its place
among the row's escapes (R86, R135; log entry 102). -/
opaque lostEntry : Nat → Nat → Nat

/-- The firmware image in the active slot of a part as manufactured (R530; log entry 5). -/
opaque factoryImage : List Byte

/-- The selector of the start-up self-test, fused (R559, Table 19.5) (log entry 6). -/
opaque bistBootSel : Nat

/-- Tensor ID and logical index of a weight by flat forward macro, row and channel: what an UPDATE's draw is keyed by (R101, R136). No descriptor
names the weight tensor (log entry 65). -/
opaque weightKey : Nat → Nat → Nat → Nat × Nat

/-- The governor budget fuse of B1 parts (R28, Table 1.8). -/
def govBudgetFuse : Nat := 0x6E000

/-- CHIP_ID of this part and stepping (R1, Table 17.10): PART 0x4096, STEPPING 0xB1. -/
def chipId : Nat := 0xB14096

end Sys2Proof.Config
end

