-- ==== Sys2Proof/Machine/State.lean ====
section
/-! DEFINITION. The state: everything the spec gives the machine, as plain data, the queue of waiting commands, the reasons to stop,
and the machine right after reset. -/

namespace Sys2Proof.Machine

/-- Reasons to stop with a fault. No command stops so: every error the spec describes is an effect on the state. -/
inductive Fault where
  /-- Raised by nothing; the spec gives the block no access without an effect. Safe. -/
  | none
deriving DecidableEq, Repr

/-- Reasons to refuse a command. -/
inductive Refusal where
  /-- Raised by an arm whose command has no meaning yet. Safe: the machine stops where the hardware goes on. -/
  | notModelled (mnemonic : String)
  /-- Raised by PRIVATE_INSTRUCTION while debug is unlocked (R552): the spec names no private instruction and gives none an effect.
  Safe: the machine stops where the hardware goes on. -/
  | privateInstruction
deriving DecidableEq, Repr

/-- The chip states (R38, Table 1.12). -/
inductive ChipSt where
  | off
  | boot
  | ready
  | armed
  | running
  | draining
  | securing
  | restoring
  | faulted
  | sleep
deriving DecidableEq, Repr

/-- The state machine of the chip (Table 1.13). -/
structure Chip where
  st : ChipSt
  prev : ChipSt
  jobEnded : Bool
  transitions : Nat
deriving DecidableEq, Repr

/-- Levels of pins (R523 to R527, R304, R379, R497). -/
structure Pins where
  pwrgood : Bool
  resetN : Bool
  cadenceOut : Bool
  alertN : Bool
  mbxbsy : Bool
deriving DecidableEq, Repr

/-- A result set (R29, R213, R214): its number from START, slot, whether it is rejected or void, and the values of V1 to V15. -/
structure ResultSet where
  j : Nat
  slot : Nat
  rejected : Bool
  void : Bool
  shape : List Nat
deriving DecidableEq, Repr

/-- The arrays: bytes by flat address, an unlisted byte reading 0 (log entries 3, 4). Macro rows at 65,536 × macro + 128 × row,
accumulators at 16,384 × macro, scratchpads at 524,288 × block, Cirrus arrays at 131,072 × block, HBM by its own address; and the offset and gain
trims of Cirrus chains by 256 × block + chain (R283). -/
structure Mems where
  rows : SMap Byte
  acc : SMap Byte
  spd : SMap Byte
  wshadow : SMap Byte
  sshadow : SMap Byte
  cirrus : SMap Byte
  hbm : SMap Byte
  pigeon : SMap Byte
  hznRam : SMap Byte
  cirTrim : SMap (Nat × Nat)
deriving DecidableEq, Repr

/-- Flipped bits of SEC-DED words (log entry 7), by array: a macro row's bit at 1,112 × (512 × macro + row) + column (spare i at column 1,096 + i),
a scratchpad or HBM word's bit at 72 × word + bit. `hard` names macro cells that are damaged: no write clears their flip. -/
structure Flips where
  mac : List Nat
  hard : List Nat
  spd : List Nat
  hbm : List Nat
deriving DecidableEq, Repr

/-- The state of the device. `pending` is the queue of commands that wait, `free` the free-value counter and `now` the REFCLK cycles since
power-on reset began (the model's own fields; log entries 2, 8). `regs` lists the registers that differ from their reset values, `latch`
the latched high words of 64-bit pairs (R9), `busRead` the value the last register read returned, `on` the domains that are on as a mask,
`img` the installed plan image, `sets` the result sets that some context has not finished, `net` the messages in flight, `mesh` the counts of the
mesh, `hbmQ` the
pseudo-channels' request queues and `hbmPos` their scrub positions (R329). -/
structure State where
  pending : List Instr
  free : Nat
  now : Nat
  regs : SMap Word
  latch : SMap Word
  busRead : Word
  pins : Pins
  chip : Chip
  mem : Mems
  flips : Flips
  macros : SMap MacroX
  blocks : SMap BlockX
  regions : SMap RegionX
  net : List Msg
  mesh : Mesh
  img : List Byte
  sets : List ResultSet
  on : Nat
  power : Power
  errs : Errs
  pml : Pml
  cad : Cad
  job : Job
  hbmQ : SMap (List HbmReq)
  hbmPos : SMap Nat
  cour : Cour
  sdio : Sdio
  mail : Mail
  store : Store
  nim : Nim
  hzn : Hzn
  bist : Bist
  tap : Tap
deriving DecidableEq, Repr

/-- Power control with nothing switched on but PD00 (R524), straps as sampled. -/
def Power.init (strapBoot strapIo18 feedtag bootAt : Nat) : Power :=
  ⟨[], [], [], none, 0, [], false, 0, 0, [], strapBoot, strapIo18, feedtag, bootAt⟩
/-- Error handling after reset. -/
def Errs.init : Errs := ⟨[], none, none, false⟩
/-- An empty Postmark Log (log entry 5). -/
def Pml.init : Pml := ⟨[], 0, 0, none, [], 0, [], 0, 0, 0, none, none, 0, false⟩
/-- The cadence unit after a chip reset that ends at time t (R293). -/
def Cad.init (t : Nat) : Cad := ⟨t, false, false, [], 0, false, none, [], none, [], 0⟩
/-- No job. -/
def Job.init : Job := ⟨none, false, 0, 0, none, none, none, [], [], none, none, [], [], [], 0, 0, []⟩
/-- Courier after reset. -/
def Cour.init : Cour := ⟨[], [], [], [], [], 0⟩
/-- The recovery exchange when none runs. -/
def Exch.init : Exch := ⟨[], [], false, 0, [], [], none⟩
/-- The Nimbus engine after reset. -/
def Nim.init : Nim :=
  ⟨false, none, false, none, 0, none, [], 0, 0, 0, [], [], [], [], [], [], none, false, false, [], Exch.init, none, 0, [], none, none, false⟩
/-- Horizon after reset. -/
def Hzn.init : Hzn := ⟨[], [], List.replicate 16 0, false, [], 0⟩
/-- Self-test after reset, with the fused store unused (log entry 6). -/
def Bist.init : Bist := ⟨none, [], [], 0, 0, [], [], 8192, [], none⟩
/-- The test port after reset: IDCODE, as IEEE 1149.1 selects it (R524; log entry 22). -/
def Tap.init : Tap := ⟨1, 0, 0⟩
/-- MRAM and fuses of a part as manufactured (log entries 5, 6). -/
def Store.init : Store := ⟨Config.factoryImage, [], none, [], 0, none, 0, [], []⟩

/-- The machine right after power-on reset: PWRGOOD and RESET_N high, stage 1 of start-up, BOOT, only PD00 on (R524, R528; Tables 1.13,
17.6). -/
def State.reset : State where
  pending := []
  free := 0
  now := 0
  regs := []
  latch := []
  busRead := 0
  pins := ⟨true, true, false, true, false⟩
  chip := ⟨.boot, .off, false, 0⟩
  mem := ⟨[], [], [], [], [], [], [], [], [], []⟩
  flips := ⟨[], [], [], []⟩
  macros := []
  blocks := []
  regions := []
  net := []
  mesh := ⟨[], [], []⟩
  img := []
  sets := []
  on := 1
  power := Power.init 0 0 0 0
  errs := Errs.init
  pml := Pml.init
  cad := Cad.init 0
  job := Job.init
  hbmQ := []
  hbmPos := []
  cour := Cour.init
  sdio := { Sdio.init 0 with intStat := 16 }
  mail := { Mail.init with posts := [⟨1, 2, 0, 0, 0, 1⟩] }
  store := Store.init
  nim := Nim.init
  hzn := Hzn.init
  bist := Bist.init
  tap := Tap.init

end Sys2Proof.Machine
end

