-- ==== Sys2Proof/Machine/RegFile.lean ====
section
/-! DEFINITION. The register file (R8 to R12, R36): where an address leads, what it holds after reset, and fields by name. -/

namespace Sys2Proof.Machine

/-- The windows of the register address map (Table 1.5). -/
inductive Win where
  | chip
  | pwr
  | cad
  | hbm
  | sdi
  | pgh
  | hzn
  | pml
  | nim
  | sec
  | bst
  | cur
  | curShared
  | rgn
  | blk
  | mac
deriving DecidableEq, Repr

/-- Where a register address leads: window, number of the unit in its kind, offset in the window. -/
structure Loc where
  win : Win
  idx : Nat
  off : Nat
deriving DecidableEq, Repr

/-- The chip units in the order of Table 1.5. -/
def chipWin : Nat → Option (Win × Nat)
  | 0 => some (.chip, 0)
  | 1 => some (.pwr, 0)
  | 2 => some (.cad, 0)
  | 3 => some (.hbm, 0)
  | 4 => some (.hbm, 1)
  | 5 => some (.sdi, 0)
  | 6 => some (.pgh, 0)
  | 7 => some (.hzn, 0)
  | 8 => some (.pml, 0)
  | 9 => some (.nim, 0)
  | 10 => some (.sec, 0)
  | 11 => some (.bst, 0)
  | _ => none

/-- The window an address lies in (Table 1.5, R36); none in a reserved range. -/
def locate (a : Nat) : Option Loc :=
  if a < 0xC0000 then (chipWin (a / 0x10000)).map (fun w => ⟨w.1, w.2, a % 0x10000⟩)
  else if 0x10000000 ≤ a ∧ a < 0x11000000 then
    let p := (a - 0x10000000) / 0x100000
    let off := a % 0x100000
    if p = 0 ∧ 0x80000 ≤ off then some ⟨.curShared, 0, off - 0x80000⟩ else some ⟨.cur, p, off⟩
  else if 0x20000000 ≤ a ∧ a < 0x30000000 then
    let r := (a / 0x1000000) % 16
    let b := (a / 0x100000) % 16
    let off := a % 0x100000
    if off < 0x80000 then some ⟨.blk, 16 * r + b, off⟩
    else if off < 0xC0000 then some ⟨.mac, 256 * r + 16 * b + (off - 0x80000) / 0x4000, (off - 0x80000) % 0x4000⟩
    else if b = 0 then some ⟨.rgn, r, off - 0xC0000⟩
    else none
  else none

/-- The base address of block b's window (R36). -/
def blkBase (b : Nat) : Nat := 0x20000000 + (b / 16) * 0x1000000 + (b % 16) * 0x100000
/-- The base address of macro m's window (R76). -/
def macBase (m : Nat) : Nat := blkBase (m / 16) + 0x80000 + (m % 16) * 0x4000
/-- The base address of region r's unit registers (R36). -/
def rgnBase (r : Nat) : Nat := 0x20000000 + r * 0x1000000 + 0xC0000
/-- The base address of Courier port p (R361). -/
def curBase (p : Nat) : Nat := 0x10000000 + p * 0x100000
/-- The base of the shared Courier registers (R362). -/
def curShBase : Nat := 0x10080000
/-- Bases of the chip units. -/
def chipBase : Nat := 0
def pwrBase : Nat := 0x10000
def cadBase : Nat := 0x20000
def hbmBase (st : Nat) : Nat := 0x30000 + st * 0x10000
def sdiBase : Nat := 0x50000
def pghBase : Nat := 0x60000
def hznBase : Nat := 0x70000
def pmlBase : Nat := 0x80000
def nimBase : Nat := 0x90000
def secBase : Nat := 0xA0000
def bstBase : Nat := 0xB0000

/-- The register table of a window. -/
def Win.table : Win → List RegDesc
  | .chip => regs_chip
  | .pwr => regs_pwr
  | .cad => regs_cad
  | .hbm => regs_hbm
  | .sdi => regs_sdi
  | .pgh => regs_pgh
  | .hzn => regs_hzn
  | .pml => regs_pml
  | .nim => regs_nim
  | .sec => regs_sec
  | .bst => regs_bst
  | .cur => regs_cur
  | .curShared => regs_curShared
  | .rgn => regs_rgn
  | .blk => regs_blk
  | .mac => regs_mac

/-- The offset left after the indices are taken out, widest stride first; none where an index is out of its range. -/
def fitDims : List (Nat × Nat) → Nat → Option Nat
  | [], rem => some rem
  | (s, n) :: r, rem => if rem / s < n then fitDims r (rem % s) else none

/-- The offset is one of this row's registers. -/
def RegDesc.at (d : RegDesc) (off : Nat) : Bool := decide (d.off ≤ off) && decide (fitDims d.dims (off - d.off) = some 0)

/-- The register table's row for a location. -/
def Loc.desc (l : Loc) : Option RegDesc := l.win.table.find? (fun d => d.at l.off)

/-- The row of the register tables an address falls on; none in a reserved range (R37). -/
def regDesc (a : Nat) : Option RegDesc := (locate a).bind Loc.desc

/-- The word a row's fields make at reset. -/
def RegDesc.resetWord (d : RegDesc) : Word :=
  BitVec.ofNat 32 (d.fields.foldl (fun n f => putBits n f.lo f.width f.reset) 0)

/-- What a register holds after reset; 0 in a reserved range. -/
def regReset (a : Nat) : Word := ((regDesc a).map RegDesc.resetWord).getD 0

/-- The power domain a register lies in (R36, Table 17.1; log entry 12). -/
def Loc.domain (l : Loc) : Nat :=
  match l.win with
  | .chip | .pwr | .cad | .sdi => 0
  | .hzn => 1
  | .pgh => 2
  | .pml | .nim | .sec | .bst | .rgn | .curShared => 3
  | .hbm => 36 + l.idx
  | .cur => if l.idx < 8 then 38 else 39
  | .blk => if 0x10000 ≤ l.off ∧ l.off < 0x20000 then 20 + l.idx / 16 else 4 + l.idx / 16
  | .mac => 4 + l.idx / 256

/-- The word stored at a register address. -/
def State.reg (s : State) (a : Nat) : Word := SMap.get (regReset a) s.regs a
/-- The word stored at a register address replaced. -/
def State.setReg (s : State) (a : Nat) (w : Word) : State := { s with regs := SMap.set (regReset a) s.regs a w }
/-- The field f of the unit whose window begins at base. -/
def State.getF (s : State) (base : Nat) (f : Fld) : Nat := bits (s.reg (base + f.off)).toNat f.lo f.width
/-- The field f replaced. -/
def State.setF (s : State) (base : Nat) (f : Fld) (v : Nat) : State :=
  s.setReg (base + f.off) (BitVec.ofNat 32 (putBits (s.reg (base + f.off)).toNat f.lo f.width v))
/-- The field f raised by k, saturating at all ones. -/
def State.addF (s : State) (base : Nat) (f : Fld) (k : Nat) : State := s.setF base f (satCount f.width (s.getF base f) k)
/-- A flag field set to 1. -/
def State.flagF (s : State) (base : Nat) (f : Fld) : State := s.setF base f 1
/-- A one-bit field read as a truth value. -/
def State.isF (s : State) (base : Nat) (f : Fld) : Bool := decide (s.getF base f = 1)

/-! ## Writes by access code (R10 to R12) -/

/-- A value is no reserved encoding of a field (R11). -/
def FieldDesc.allows (f : FieldDesc) (v : Nat) : Bool :=
  f.allowed.isEmpty || f.allowed.any (fun r => decide (r.1 ≤ v) && decide (v ≤ r.2))

/-- One field of a register word after a write of word v (R11, R12): RW takes the value, W1C clears what is written 1, the rest stay. -/
def FieldDesc.write (f : FieldDesc) (old v : Nat) : Nat :=
  let x := bits v f.lo f.width
  match f.acc with
  | .rw => if f.allows x then putBits old f.lo f.width x else old
  | .w1c => putBits old f.lo f.width (bits old f.lo f.width &&& (2 ^ f.width - 1 - x))
  | _ => old

/-- A register word after a write of word v. -/
def RegDesc.write (d : RegDesc) (old v : Nat) : Nat := d.fields.foldl (fun w f => f.write w v) old

/-- A write of word v to a register by its fields' access codes alone. -/
def State.plainWrite (s : State) (a v : Nat) : State :=
  match regDesc a with
  | some d => s.setReg a (BitVec.ofNat 32 (d.write (s.reg a).toNat v))
  | none => s

/-- What stands behind a block's registers. -/
def State.bx (s : State) (b : Nat) : BlockX := SMap.get BlockX.init s.blocks b
/-- What stands behind a block's registers, replaced. -/
def State.setBx (s : State) (b : Nat) (x : BlockX) : State := { s with blocks := SMap.set BlockX.init s.blocks b x }
/-- What stands behind a macro's registers. -/
def State.mx (s : State) (m : Nat) : MacroX := SMap.get MacroX.init s.macros m
/-- What stands behind a macro's registers, replaced. -/
def State.setMx (s : State) (m : Nat) (x : MacroX) : State := { s with macros := SMap.set MacroX.init s.macros m x }
/-- What stands behind a region's registers. -/
def State.rx (s : State) (r : Nat) : RegionX := SMap.get RegionX.init s.regions r
/-- What stands behind a region's registers, replaced. -/
def State.setRx (s : State) (r : Nat) (x : RegionX) : State := { s with regions := SMap.set RegionX.init s.regions r x }

/-- Domain PDd has power: it is ON or in RET, and holds its arrays and registers (R515). -/
def State.pdPow (s : State) (d : Nat) : Bool := s.on.testBit d
/-- Domain PDd is ON and usable; one in RET does no work and is unreachable (R515). -/
def State.pdOn (s : State) (d : Nat) : Bool := s.pdPow d && !s.power.ret.testBit d
/-- The domains that are ON, as a mask. -/
def State.onMask (s : State) : Nat := s.on - (s.on &&& s.power.ret)
/-- The compute domain of block b is on. -/
def State.compOn (s : State) (b : Nat) : Bool := decide (b < 256) && s.pdOn (4 + b / 16)
/-- The scratchpad domain of block b is on. -/
def State.spdOn (s : State) (b : Nat) : Bool := decide (b < 256) && s.pdOn (20 + b / 16)

/-- The next free value, and the counter advanced (log entry 8). -/
def State.takeFree (s : State) : Nat × State := (Config.freeNat s.free, { s with free := s.free + 1 })

end Sys2Proof.Machine
end

