-- ==== Sys2Proof/Machine/Flags.lean ====
section
/-! DEFINITION. Flag computations: the numeric events of a block (Table 3.7), the sticky flags and counts that hold them, saturating
adds (R106), and block faults and their escalation point (R124). -/

namespace Sys2Proof.Machine

/-- Counts of numeric events: accumulator saturations, limited escapes, non-finite values, clipped outputs. -/
structure Fl where
  acc : Nat
  esc : Nat
  nonf : Nat
  qsat : Nat
deriving DecidableEq, Repr

/-- No event. -/
def Fl.zero : Fl := ⟨0, 0, 0, 0⟩
/-- Events of two computations. -/
def Fl.add (a b : Fl) : Fl := ⟨a.acc + b.acc, a.esc + b.esc, a.nonf + b.nonf, a.qsat + b.qsat⟩
/-- One non-finite value, one clipped output, one limited escape, one saturation. -/
def Fl.nonfinite : Fl := ⟨0, 0, 1, 0⟩
def Fl.clipped : Fl := ⟨0, 0, 0, 1⟩
def Fl.limited : Fl := ⟨0, 1, 0, 0⟩
def Fl.saturated : Fl := ⟨1, 0, 0, 0⟩

/-- Largest and smallest value of an accumulator entry (R106). -/
def accMax (acc24 : Bool) : Int := if acc24 then 2 ^ 23 - 1 else 2 ^ 31 - 1
def accMin (acc24 : Bool) : Int := if acc24 then -(2 ^ 23) else -(2 ^ 31)

/-- sat_add of R106: the sum and whether it saturated. -/
def satAdd (acc24 : Bool) (a d : Int) : Int × Bool :=
  let t := a + d
  if accMax acc24 < t then (accMax acc24, true) else if t < accMin acc24 then (accMin acc24, true) else (t, false)

/-- The correction path's 48-bit add, saturating at ±(2^47 - 1) (R106). -/
def sat48 (a d : Int) : Int × Bool :=
  let t := a + d
  if 2 ^ 47 - 1 < t then (2 ^ 47 - 1, true) else if t < -(2 ^ 47 - 1) then (-(2 ^ 47 - 1), true) else (t, false)

/-- Numeric events recorded in block b's sticky flags and counts (R106, R111, Table 4.8). -/
def State.addFl (s : State) (b : Nat) (f : Fl) : State :=
  let base := blkBase b
  let put := fun (s : State) (n : Nat) (fl cnt : Fld) => if n = 0 then s else (s.flagF base fl).addF base cnt n
  put (put (put (put s f.acc F.BLK_EVT_FLAGS_ACC_SAT F.BLK_EVT_CNT0_ACC_SAT)
    f.esc F.BLK_EVT_FLAGS_ESC_SAT F.BLK_EVT_CNT0_ESC_SAT)
    f.nonf F.BLK_EVT_FLAGS_NONFINITE F.BLK_EVT_CNT1_NONFINITE)
    f.qsat F.BLK_EVT_FLAGS_QSAT F.BLK_EVT_CNT1_QSAT

end Sys2Proof.Machine
end

