-- ==== Sys2Proof/Machine/Fp.lean ====
section
/-! DEFINITION. IEEE 754 binary16, binary32 and bfloat16 (Table 0.7) computed exactly and rounded once, to nearest with
ties to even unless a rule says otherwise (R98, R102, R105, R130). -/

namespace Sys2Proof.Machine

/-- A floating-point format: exponent and mantissa field widths. -/
structure FpFmt where
  eb : Nat
  mb : Nat
deriving DecidableEq, Repr

/-- binary32. -/
def fmt32 : FpFmt := ⟨8, 23⟩
/-- binary16. -/
def fmt16 : FpFmt := ⟨5, 10⟩
/-- bfloat16. -/
def fmtB16 : FpFmt := ⟨8, 7⟩

/-- The value a code stands for: a finite value is (-1)^neg × m × 2^e exactly. -/
inductive FpVal where
  | nan
  | inf (neg : Bool)
  | fin (neg : Bool) (m : Nat) (e : Int)
deriving DecidableEq, Repr

/-- The exponent bias of a format. -/
def FpFmt.bias (f : FpFmt) : Nat := 2 ^ (f.eb - 1) - 1
/-- Position of the sign bit. -/
def FpFmt.signBit (f : FpFmt) : Nat := f.eb + f.mb
/-- Code of +infinity. -/
def FpFmt.infCode (f : FpFmt) : Nat := (2 ^ f.eb - 1) * 2 ^ f.mb
/-- The format's quiet NaN with sign 0 (R105; log entry 9). -/
def FpFmt.qnan (f : FpFmt) : Nat := f.infCode + 2 ^ (f.mb - 1)

/-- The value of a code. -/
def fpDecode (f : FpFmt) (c : Nat) : FpVal :=
  let neg := c.testBit f.signBit
  let ex := bits c f.mb f.eb
  let mant := c % 2 ^ f.mb
  if ex = 2 ^ f.eb - 1 then (if mant = 0 then .inf neg else .nan)
  else if ex = 0 then .fin neg mant (1 - (f.bias : Int) - (f.mb : Int))
  else .fin neg (2 ^ f.mb + mant) ((ex : Int) - (f.bias : Int) - (f.mb : Int))

/-- Numerator and denominator of m × 2^e. -/
def ratOf (m : Nat) (e : Int) : Nat × Nat :=
  if 0 ≤ e then (m * 2 ^ e.toNat, 1) else (m, 2 ^ (-e).toNat)

/-- floor(log2 (num / den)) for positive num and den. -/
def ilog2Rat (num den : Nat) : Int :=
  let l : Int := (Nat.log2 num : Int) - (Nat.log2 den : Int)
  let ge : Bool := if 0 ≤ l then decide (den * 2 ^ l.toNat ≤ num) else decide (den ≤ num * 2 ^ (-l).toNat)
  if ge then l else l - 1

/-- How a quotient is narrowed to an integer: to nearest ties to even, or up. -/
inductive RoundMode where
  | nearest
  | up
deriving DecidableEq, Repr

/-- num / den as an integer. -/
def roundQuot (r : RoundMode) (num den : Nat) : Nat :=
  let q := num / den
  let rem := num % den
  match r with
  | .up => if rem = 0 then q else q + 1
  | .nearest => if 2 * rem < den then q else if 2 * rem > den then q + 1 else q + q % 2

/-- The magnitude code nearest to (or, rounding up, not below) num / den; the code of infinity when it overflows. -/
def roundMag (f : FpFmt) (r : RoundMode) (num den : Nat) : Nat :=
  if num = 0 then 0 else
    let emin : Int := 1 - (f.bias : Int)
    let e := max (ilog2Rat num den) emin
    let sh : Int := e - (f.mb : Int)
    let n := if 0 ≤ sh then roundQuot r num (den * 2 ^ sh.toNat) else roundQuot r (num * 2 ^ (-sh).toNat) den
    min ((e - emin).toNat * 2 ^ f.mb + n) f.infCode

/-- A code of a format from a sign and a rational magnitude, to nearest ties to even. -/
def fpRound (f : FpFmt) (neg : Bool) (num den : Nat) : Nat :=
  b2n neg * 2 ^ f.signBit + roundMag f .nearest num den

/-- A code of a format from a value. -/
def fpEncode (f : FpFmt) : FpVal → Nat
  | .nan => f.qnan
  | .inf neg => b2n neg * 2 ^ f.signBit + f.infCode
  | .fin neg m e => fpRound f neg (ratOf m e).1 (ratOf m e).2

/-- Signed numerator of a finite value over 2^k, k ≥ -e. -/
def sNum (neg : Bool) (m : Nat) (e k : Int) : Int :=
  let x : Int := (m * 2 ^ (e + k).toNat : Nat)
  if neg then -x else x

/-- The sum of two values. -/
def fpAddV (a b : FpVal) : FpVal :=
  match a, b with
  | .nan, _ => .nan
  | _, .nan => .nan
  | .inf x, .inf y => if x = y then .inf x else .nan
  | .inf x, .fin _ _ _ => .inf x
  | .fin _ _ _, .inf y => .inf y
  | .fin na ma ea, .fin nb mb eb =>
    let k := max 0 (max (-ea) (-eb))
    let t := sNum na ma ea k + sNum nb mb eb k
    if t = 0 then .fin (na && nb) 0 0 else .fin (decide (t < 0)) t.natAbs (-k)

/-- The value with its sign changed. -/
def fpNegV : FpVal → FpVal
  | .nan => .nan
  | .inf n => .inf (!n)
  | .fin n m e => .fin (!n) m e

/-- The product of two values. -/
def fpMulV (a b : FpVal) : FpVal :=
  match a, b with
  | .nan, _ => .nan
  | _, .nan => .nan
  | .inf x, .inf y => .inf (xor x y)
  | .inf x, .fin n m _ => if m = 0 then .nan else .inf (xor x n)
  | .fin n m _, .inf y => if m = 0 then .nan else .inf (xor n y)
  | .fin na ma ea, .fin nb mb eb => .fin (xor na nb) (ma * mb) (ea + eb)

/-- The quotient of two values, rounded once to the format. -/
def fpDivC (f : FpFmt) (a b : FpVal) : Nat :=
  match a, b with
  | .nan, _ => f.qnan
  | _, .nan => f.qnan
  | .inf _, .inf _ => f.qnan
  | .inf x, .fin n _ _ => fpEncode f (.inf (xor x n))
  | .fin n _ _, .inf y => fpEncode f (.fin (xor n y) 0 0)
  | .fin na ma ea, .fin nb mb eb =>
    if mb = 0 then (if ma = 0 then f.qnan else fpEncode f (.inf (xor na nb)))
    else
      let x := ratOf ma ea
      let y := ratOf mb eb
      fpRound f (xor na nb) (x.1 * y.2) (x.2 * y.1)

/-- The integer square root by one bit at a time: n fuel bits. -/
def isqrtAux : Nat → Nat → Nat → Nat
  | 0, _, r => r
  | k + 1, n, r => if (r + 2 ^ k) * (r + 2 ^ k) ≤ n then isqrtAux k n (r + 2 ^ k) else isqrtAux k n r

/-- floor of the square root. -/
def isqrt (n : Nat) : Nat := isqrtAux (Nat.log2 n / 2 + 1) n 0

/-- The square root of a value, rounded once to the format. -/
def fpSqrtC (f : FpFmt) (a : FpVal) : Nat :=
  match a with
  | .nan => f.qnan
  | .inf n => if n then f.qnan else f.infCode
  | .fin n m e =>
    if m = 0 then fpEncode f (.fin n 0 0)
    else if n then f.qnan
    else
      let odd := e % 2 = 1
      let m' := (if odd then 2 * m else m) * 2 ^ 120
      let e' : Int := (if odd then e - 1 else e) / 2 - 60
      let r := isqrt m'
      let s := if r * r = m' then 2 * r else 2 * r + 1
      fpEncode f (.fin false s (e' - 1))

/-- FP32 codes. -/
abbrev F32 := Word

/-- The value of an FP32 code. -/
def f32v (a : F32) : FpVal := fpDecode fmt32 a.toNat
/-- The FP32 code of a value. -/
def f32of (v : FpVal) : F32 := BitVec.ofNat 32 (fpEncode fmt32 v)
/-- fp32_add. -/
def f32add (a b : F32) : F32 := f32of (fpAddV (f32v a) (f32v b))
/-- fp32_sub. -/
def f32sub (a b : F32) : F32 := f32of (fpAddV (f32v a) (fpNegV (f32v b)))
/-- fp32_mul. -/
def f32mul (a b : F32) : F32 := f32of (fpMulV (f32v a) (f32v b))
/-- fp32_div. -/
def f32div (a b : F32) : F32 := BitVec.ofNat 32 (fpDivC fmt32 (f32v a) (f32v b))
/-- fp32_sqrt. -/
def f32sqrt (a : F32) : F32 := BitVec.ofNat 32 (fpSqrtC fmt32 (f32v a))
/-- The FP32 value nearest to i × 2^(-k), ties to even. -/
def f32ofInt (i : Int) (k : Nat) : F32 := f32of (.fin (decide (i < 0)) i.natAbs (-(k : Int)))
/-- An FP16 code as FP32, exactly. -/
def f32of16 (c : Nat) : F32 := f32of (fpDecode fmt16 c)
/-- A bfloat16 code as FP32, exactly. -/
def f32ofB16 (c : Nat) : F32 := f32of (fpDecode fmtB16 c)
/-- An FP32 value rounded to FP16. -/
def f16of32 (a : F32) : Nat := fpEncode fmt16 (f32v a)
/-- An FP32 value rounded to bfloat16. -/
def fB16of32 (a : F32) : Nat := fpEncode fmtB16 (f32v a)

/-- The code is a NaN. -/
def f32isNan (a : F32) : Bool := match f32v a with | .nan => true | _ => false
/-- The code is finite. -/
def f32isFinite (a : F32) : Bool := match f32v a with | .fin _ _ _ => true | _ => false
/-- A key that orders the codes that are no NaN as their values; both zeros have key 0. -/
def f32key (a : F32) : Int := if a.msb then -((a.toNat % 2 ^ 31 : Nat) : Int) else ((a.toNat % 2 ^ 31 : Nat) : Int)
/-- a < b for codes that are no NaN. -/
def f32lt (a b : F32) : Bool := decide (f32key a < f32key b)
/-- The magnitude. -/
def f32abs (a : F32) : F32 := a &&& 0x7FFFFFFF#32
/-- The sign changed. -/
def f32neg (a : F32) : F32 := a ^^^ 0x80000000#32
/-- The larger of a running value and a new one; a NaN on either side gives NaN (R132, R133). -/
def f32max (run v : F32) : F32 :=
  if f32isNan run || f32isNan v then BitVec.ofNat 32 fmt32.qnan else if f32lt run v then v else run

/-- +0, 1, 0.5, ±infinity and NaN. -/
def f32zero : F32 := 0x00000000#32
def f32one : F32 := 0x3F800000#32
def f32half : F32 := 0x3F000000#32
def f32inf : F32 := 0x7F800000#32
def f32ninf : F32 := 0xFF800000#32
def f32nan : F32 := 0x7FC00000#32

/-- floor of a finite value as an integer; 0 for the others. -/
def f32floor (a : F32) : Int :=
  match f32v a with
  | .fin n m e =>
    let q := ratOf m e
    let x : Int := if n then -(q.1 : Int) else (q.1 : Int)
    x / (q.2 : Int)
  | _ => 0

/-- The integer nearest to a finite value × 2^k, ties to even. -/
def f32roundInt (a : FpVal) (k : Nat) : Int :=
  match a with
  | .fin n m e =>
    let q := ratOf m (e + (k : Int))
    let x := roundQuot .nearest q.1 q.2
    if n then -(x : Int) else (x : Int)
  | _ => 0

/-- The smallest FP16 code not below a non-negative FP32 value (R92). -/
def f16up (t : F32) : Nat :=
  match f32v t with
  | .fin _ m e => roundMag fmt16 .up (ratOf m e).1 (ratOf m e).2
  | _ => fmt16.infCode

end Sys2Proof.Machine
end

