-- ==== Sys2Proof/Machine/Operands.lean ====
section
/-! DEFINITION. Operand forms: the plan image's sections and records, operation records, loop descriptors, tensor descriptors and the
addresses of their elements (chapters 05 to 08). -/

namespace Sys2Proof.Machine

/-! ## Sections of a plan image (R198, R199) -/

/-- A directory entry of a plan image. -/
structure Sect where
  ty : Nat
  scope : Nat
  off : Nat
  len : Nat
  cnt : Nat
deriving DecidableEq, Repr

/-- Directory entry k of a plan image. -/
def planDir (img : List Byte) (k : Nat) : Sect :=
  let o := 64 + 16 * k
  ⟨leAt img o 2, leAt img (o + 2) 2, leAt img (o + 4) 4, leAt img (o + 8) 4, leAt img (o + 12) 4⟩

/-- The directory of a plan image. -/
def planDirs (img : List Byte) : List Sect := (List.range (leAt img 6 2)).map (planDir img)

/-- The section of a type and scope. -/
def planSect (img : List Byte) (ty scope : Nat) : Option Sect :=
  (planDirs img).find? (fun d => decide (d.ty = ty) && decide (d.scope = scope))

/-- The bytes of record i of a section whose records are w bytes long; none where there is no such record. -/
def planRec (img : List Byte) (ty scope w i : Nat) : Option (List Byte) :=
  match planSect img ty scope with
  | some d => if i < d.cnt then some (slice img (d.off + w * i) w) else none
  | none => none

/-- JOB_SEED, STEP_BASE, STEP_SETS and TRAINING of the header (Table 7.1). -/
def planSeed (img : List Byte) : Nat := leAt img 16 8
def planStepBase (img : List Byte) : Nat := leAt img 24 4
def planStepSets (img : List Byte) : Nat := leAt img 28 2
def planTraining (img : List Byte) : Bool := (leAt img 30 1).testBit 0

/-- BOUND and DEFAULT of shape variable v (R203). -/
def shapeBound (img : List Byte) (v : Nat) : Nat := ((planRec img 0x11 0xFFFF 8 v).map (fun r => leAt r 0 4)).getD 0
def shapeDefault (img : List Byte) (v : Nat) : Nat := ((planRec img 0x11 0xFFFF 8 v).map (fun r => leAt r 4 4)).getD 0

/-! ## Context headers (Table 7.4) -/

/-- A context header. -/
structure CtxHdr where
  first : Nat
  count : Nat
  prio : Nat
  rep : Bool
  win0 : Nat
  win1 : Nat
deriving DecidableEq, Repr

/-- The header of context c of block b; an empty list where the plan has none. -/
def ctxHdr (img : List Byte) (b c : Nat) : CtxHdr :=
  match planRec img 0x2 b 16 c with
  | some r => ⟨leAt r 0 4, leAt r 4 2, leAt r 6 1 % 4, (leAt r 6 1).testBit 2, leAt r 8 4, leAt r 12 4⟩
  | none => ⟨0, 0, 0, false, 0, 0⟩

/-! ## Operation records (Tables 4.1, 5.2, 8.4) -/

/-- Operation record i of block b as a 256-bit number; 0, a reserved kind, where there is none. -/
def opRec (img : List Byte) (b i : Nat) : Nat := ((planRec img 0x3 b 32 i).map leNat).getD 0

def opKind (w : Nat) : Nat := bits w 0 8
def opMacros (w : Nat) : Nat := bits w 16 16
def opKgroup (w : Nat) : Nat := bits w 32 3
/-- The K-group size G = 2^KGROUP (R118). -/
def opG (w : Nat) : Nat := 2 ^ opKgroup w
def opRows (w : Nat) : Nat := bits w 35 5 + 1
def opTileIdx (w : Nat) : Nat := bits w 40 4
def opInit (w : Nat) : Bool := w.testBit 44
/-- CHAIN; kinds 0x12, 0x13 and 0x20 on ignore or have no such field (R229, Table 5.2). -/
def opChain (w : Nat) : Bool := w.testBit 45 && decide (opKind w < 0x20 ∧ opKind w ≠ 0x12 ∧ opKind w ≠ 0x13)
def opEscFrac (w : Nat) : Nat := bits w 46 4
def opEscMargin (w : Nat) : Nat := bits w 50 4
def opNearest (w : Nat) : Bool := w.testBit 54
def opAcc24 (w : Nat) : Bool := w.testBit 55
def opFunc (w : Nat) : Nat := bits w 56 3
def opPool (w : Nat) : Nat := bits w 59 2
/-- Pool rows P: 1 without pooling, else 2, 4 or 8. -/
def opPoolRows (w : Nat) : Nat := if opPool w = 0 then 1 else 2 ^ (bits w 61 2 + 1)
def opStats (w : Nat) : Bool := w.testBit 63
def opRowSub (w : Nat) : Bool := w.testBit 64
def opRowMul (w : Nat) : Bool := w.testBit 65
def opChAffine (w : Nat) : Bool := w.testBit 66
def opRfMode (w : Nat) : Nat := bits w 67 2
/-- Is the record a copy or transfer (kinds 0x20 to 0x24)? -/
def opIsCopy (w : Nat) : Bool := decide (0x20 ≤ opKind w)
/-- Descriptor index of slot i: D0 to D5, or SRC and DST of a copy (R208). -/
def opDesc (w i : Nat) : Nat := if opIsCopy w then (if i = 0 then bits w 16 12 else bits w 28 12) else bits w (72 + 12 * i) 12
def opLoop (w : Nat) : Nat := if opIsCopy w then bits w 64 16 else bits w 144 16
def opZp (w : Nat) : Nat := bits w 160 8
def opPred (w : Nat) : Bool := w.testBit 168
def opPath (w : Nat) : Nat := bits w 169 2
def cpEsize (w : Nat) : Nat := bits w 40 2
def cpPerm (w i : Nat) : Nat := bits w (42 + 3 * i) 3
def cpAfmt (w : Nat) : Nat := bits w 60 2
def cpCnt (w : Nat) : Nat := bits w 80 4
def cpCntEn (w : Nat) : Bool := w.testBit 84
def cpTarget (w : Nat) : Nat := bits w 88 32

/-- Which issue point an operation kind targets: 0 the tile, 1 the sparse engine, 2 the block DMA (R114, R232). -/
def opPoint (w : Nat) : Nat := if opIsCopy w then 2 else if opKind w = 0x10 ∨ opKind w = 0x11 then 1 else 0

/-- Which descriptor slots an operation uses (Tables 4.2, 8.5; R112). -/
def opSlots (w : Nat) : List Nat :=
  let k := opKind w
  let d2 := if opRowSub w || opRowMul w then [2] else []
  let d3 := if opStats w then [3] else []
  if k = 0x01 ∨ k = 0x02 ∨ k = 0x06 then [0, 1] ++ d2 ++ d3
  else if k = 0x03 ∨ k = 0x04 then [0]
  else if k = 0x05 then [0, 1, 2, 3, 4, 5]
  else if k = 0x07 then [0, 1]
  else if k = 0x10 ∨ k = 0x11 then [0, 1] ++ d2 ++ d3 ++ [4]
  else if k = 0x12 then [4]
  else if k = 0x13 then [4, 5]
  else if k = 0x24 then []
  else [0, 1]

/-- Macro numbers of a mask, ascending. -/
def maskMacros (m : Nat) : List Nat := onesOf 16 m

/-! ## Precisions (Table 2.1) -/

/-- Bits per weight P of a PREC code. -/
def precBits (p : Nat) : Nat := if p = 0 then 8 else if p = 1 then 4 else if p = 2 then 2 else 1
/-- Output channels N of a PREC code. -/
def precN (p : Nat) : Nat := 1024 / precBits p

/-! ## Element formats (Table 6.1) -/

/-- The effective FMT: 12 to 15 decode as RAW8 (R181). -/
def fmtEff (f : Nat) : Nat := if 12 ≤ f then 11 else f
/-- Bits per element. -/
def fmtBits (f : Nat) : Nat :=
  let f := fmtEff f
  if f = 1 ∨ f = 4 then 4 else if f = 2 then 2 else if f = 3 then 1
  else if f = 7 ∨ f = 8 then 16 else if f = 9 ∨ f = 10 then 32 else 8
/-- log2 of the vector alignment A. -/
def fmtLogA (f : Nat) : Nat :=
  let f := fmtEff f
  if f = 1 ∨ f = 4 then 5 else if f = 2 then 4 else if f = 3 then 3 else 6
/-- Is the format NQ4, NQ6 or NQ8? -/
def fmtIsNq (f : Nat) : Bool := decide (f = 4) || decide (f = 5) || decide (f = 6)
/-- The escape code of an NQ format (R82). -/
def nqEscape (f : Nat) : Nat := if f = 4 then 0x8 else if f = 5 then 0x20 else 0x80
/-- Planes a of an input format (Table 3.2). -/
def fmtPlanes (f : Nat) : Nat := if f = 1 then 4 else 8

/-! ## Tensor descriptors (Table 6.2) -/

/-- A tensor descriptor, with run-time extents where bindings replace them (R215). -/
structure Desc where
  tid : Nat
  fmt : Nat
  packed : Bool
  smode : Nat
  clip : Bool
  loc : Nat
  hdr : Nat
  zp : Nat
  fixed : Nat
  addr : Nat
  fill : Nat
  side : Nat
  sstream : Nat
  outdim : Nat
  rowdim : Nat
  exts : List Nat
  sexts : List Nat
  strides : List Int
deriving DecidableEq, Repr

/-- The lowest dimension other than o. -/
def otherDim (o : Nat) : Nat := if o = 0 then 1 else 0

/-- A descriptor read from its 128 bytes, reserved encodings decoded under R181. -/
def descOf (r : List Byte) : Desc :=
  let b3 := leAt r 3 1
  let b4 := leAt r 4 1
  let b24 := leAt r 24 1
  let od := if 6 ≤ b24 % 8 then 0 else b24 % 8
  let rd0 := bits b24 3 3
  let rd := if 6 ≤ rd0 ∨ rd0 = od then otherDim od else rd0
  let sm := bits b3 5 2
  let ex := (List.range 6).map (fun (i : Nat) => leAt r (32 + 4 * i) 4)
  { tid := leAt r 0 3, fmt := fmtEff (b3 % 16), packed := b3.testBit 4, smode := if sm = 3 then 0 else sm,
    clip := b3.testBit 7, loc := b4 % 4, hdr := bits b4 4 4, zp := leAt r 5 1, fixed := leAt r 6 2, addr := leAt r 8 8,
    fill := leAt r 16 4, side := leAt r 20 2 % 4096, sstream := leAt r 22 2 % 4096, outdim := od, rowdim := rd,
    exts := ex, sexts := ex, strides := (List.range 6).map (fun (i : Nat) => toSigned 64 (leAt r (64 + 8 * i) 8)) }

/-- Descriptor i of block b's table; where there is none, the all-zero record. -/
def descAt (img : List Byte) (b i : Nat) : Desc := descOf ((planRec img 0x5 b 128 i).getD [])

/-! ## Loop descriptors (Tables 7.5, 7.6) -/

/-- The bytes of loop descriptor i of block b. -/
def loopRec (img : List Byte) (b i : Nat) : List Byte := (planRec img 0x4 b 128 i).getD []
def loopLevels (l : List Byte) : Nat := leAt l 0 1 % 8
def loopNbind (l : List Byte) : Nat := min (leAt l 1 1 % 16) 8
def loopExtent (l : List Byte) (i : Nat) : Nat := leAt l (32 + 16 * i) 4
def loopStep (l : List Byte) (i : Nat) : Nat := leAt l (36 + 16 * i) 4
def loopMap (l : List Byte) (i s : Nat) : Nat := leAt l (40 + 16 * i + s) 1

/-- A binding (Table 7.6). -/
structure Bind where
  whr : Nat
  dim : Nat
  toLoop : Bool
  var : Nat
deriving DecidableEq, Repr

/-- Binding k of a loop descriptor. -/
def loopBind (l : List Byte) (k : Nat) : Bind :=
  let w := leAt l (16 + 2 * k) 2
  ⟨bits w 0 3, bits w 3 3, w.testBit 6, bits w 8 4⟩

/-- The bindings in use. -/
def loopBinds (l : List Byte) : List Bind := (List.range (loopNbind l)).map (loopBind l)

/-- The value of shape variable v in a result set. -/
def shapeVal (rs : ResultSet) (v : Nat) : Nat := rs.shape.getD (v - 1) 0

/-- The run-time extent of level i (R209, R215). -/
def loopExtRt (l : List Byte) (rs : ResultSet) (i : Nat) : Nat :=
  match (loopBinds l).find? (fun b => b.toLoop && decide (b.whr = i)) with
  | some b => shapeVal rs b.var
  | none => loopExtent l i

/-- Iterations of level i: ceil(E / STEP). -/
def loopIters (l : List Byte) (rs : ResultSet) (i : Nat) : Nat :=
  if loopStep l i = 0 then 0 else ceilDiv (loopExtRt l rs i) (loopStep l i)

/-- Iterations of the whole loop. -/
def loopTotal (l : List Byte) (rs : ResultSet) : Nat :=
  (List.range (loopLevels l)).foldl (fun n i => n * loopIters l rs i) 1

/-- The index of level i in iteration q, the innermost level advancing fastest (R209). -/
def loopIdx (l : List Byte) (rs : ResultSet) (q i : Nat) : Nat :=
  let inner := ((List.range (loopLevels l)).filter (fun (k : Nat) => decide (i < k))).foldl (fun n k => n * loopIters l rs k) 1
  (q / inner) % (loopIters l rs i)

/-- A position is a signed 32-bit value (R182; log entry 87). -/
def wrap32 (x : Int) : Int := toSigned 32 (ofSigned 32 x)

/-- The loop position of slot sl in iteration q: one position per dimension (R209). -/
def loopPos (l : List Byte) (rs : ResultSet) (q sl : Nat) : List Int :=
  (List.range 6).map (fun (d : Nat) =>
    wrap32 (((List.range (loopLevels l)).map (fun (i : Nat) =>
      let m := loopMap l i sl
      if m % 8 = d then (loopIdx l rs q i * loopStep l i) >>> (bits m 4 3) else 0)).sum : Nat))

/-- A descriptor as slot sl of an operation sees it: bound extents replaced (R215). -/
def bindDesc (l : List Byte) (rs : ResultSet) (sl : Nat) (d : Desc) : Desc :=
  { d with exts := (List.range 6).map (fun (i : Nat) =>
      match (loopBinds l).find? (fun b => !b.toLoop && decide (b.whr = sl) && decide (b.dim = i)) with
      | some b => shapeVal rs b.var
      | none => d.exts.getD i 1) }

/-- Check 1 of Table 4.4: every bound value within the static extent it replaces, of the descriptors that the operation uses (R112, R215). -/
def shapeOk (img : List Byte) (b w : Nat) (rs : ResultSet) : Bool :=
  let l := loopRec img b (opLoop w)
  (loopBinds l).all (fun bd =>
    if bd.toLoop then decide (shapeVal rs bd.var ≤ loopExtent l bd.whr)
    else !decide (bd.whr ∈ opSlots w) || decide (shapeVal rs bd.var ≤ (descAt img b (opDesc w bd.whr)).exts.getD bd.dim 0))

/-! ## Places

A byte anywhere is named by one number: block b's scratchpad byte o by 2^19 × b + o, HBM byte a by 2^40 + a, and a byte of the device
at coordinate c by 2^41 × (c + 1) plus its number there. -/

def keySpd (b o : Nat) : Nat := 0x80000 * b + o % 0x80000
def keyHbm (a : Nat) : Nat := 0x10000000000 + a % 0x1000000000
def keyDev (c k : Nat) : Nat := 0x20000000000 * (c + 1) + k
/-- Word k of outbound entry j of block b in the CLAIMS record (R201). -/
def outWord (img : List Byte) (b j k : Nat) : Nat := leAt ((planRec img 1 b 1024 0).getD []) (232 + 8 * j + 4 * k) 4

/-- The outbound entry of block b that feeds the scratchpad of block blk on the device at coordinate c: of two valid ones the first (log entry 104). -/
def outTo (img : List Byte) (b blk c : Nat) : Option Nat :=
  (List.range 16).find? (fun (j : Nat) =>
    let w := outWord img b j 0
    w.testBit 31 && w.testBit 24 && decide (w % 256 = blk) && decide (bits w 12 12 = c))

/-- Is the place in a scratchpad of this device? -/
def isSpd (k : Nat) : Bool := decide (k < 0x10000000000)
/-- Is the place in this device's HBM? -/
def isHbm (k : Nat) : Bool := decide (0x10000000000 ≤ k) && decide (k < 0x20000000000)
/-- The block and offset of a scratchpad place. -/
def spdBlk (k : Nat) : Nat := k / 0x80000
def spdOff (k : Nat) : Nat := k % 0x80000
/-- The 64-byte line a place lies in. -/
def lineOf (k : Nat) : Nat := k / 64 * 64

/-- The owner entry i of the plan (R194); none beyond the section. -/
def ownerEntry (img : List Byte) (i : Nat) : Option Nat := (planRec img 0x10 0xFFFF 8 i).map leNat

/-- The place of byte off of a descriptor's storage for block b on the device at coordinate own; none where an owner table has it
absent (R177, R181, R194 to R196). Of a scratchpad offset only the low 19 bits are used: a descriptor names plain offsets (Table 6.2). -/
def resolve (img : List Byte) (own b : Nat) (d : Desc) (off : Nat) : Option Nat :=
  if d.loc = 0 then some (keySpd b off)
  else if d.loc = 1 then some (keySpd (bits d.addr 20 8) off)
  else if d.loc = 2 then some (keyHbm off)
  else
    let i := off / 65536
    if bits d.addr 32 24 ≤ i then none
    else match ownerEntry img (bits d.addr 0 24 + i) with
      | none => none
      | some e =>
        let kind := bits e 12 2
        let o := bits e 24 40
        let here := if kind = 0 then some (keySpd (bits e 16 8) (o % 0x80000 + off % 65536))
          else if kind = 1 then some (keyHbm (o % 0x1000000000 + off % 65536)) else none
        if bits e 0 12 = own then here else here.map (keyDev (bits e 0 12))

/-- The base offset that R177 starts from. -/
def descBase (d : Desc) : Nat :=
  if d.loc = 0 ∨ d.loc = 1 then d.addr % 0x80000 else if d.loc = 2 then d.addr % 0x1000000000 else 0

/-- locate of R177: the byte offset and the bit in it of the element at a position. -/
def elemOff (d : Desc) (p : List Int) : Nat × Nat :=
  let c := (p.getD 0 0).toNat
  let g := fun i => p.getD (i + 1) 0 * d.strides.getD (i + 1) 0
  let base : Int := (descBase d : Int) + (((List.range 5).map g).sum)
  let wrap := fun (x : Int) => (x % (2 ^ 64 : Nat)).toNat
  let off := if d.packed then wrap base
    else
      let a := 2 ^ fmtLogA d.fmt
      wrap (base + ((c / 64 : Nat) : Int) * d.strides.getD 0 0) / a * a
  let bt := (if d.packed then c else c % 64) * fmtBits d.fmt
  ((off + bt / 8) % 2 ^ 64, bt % 8)

/-- The position is in bounds (R182). -/
def inBounds (d : Desc) (p : List Int) : Bool :=
  (List.range 6).all (fun (i : Nat) => decide (0 ≤ p.getD i 0) && decide (p.getD i 0 < (d.exts.getD i 1 : Nat)))

/-- The element's fill code (R185). -/
def fillCode (d : Desc) : Nat :=
  let c := d.fill % 2 ^ (if d.fmt = 5 then 6 else fmtBits d.fmt)
  if fmtIsNq d.fmt ∧ c = nqEscape d.fmt then 0 else c

/-- Bytes an element touches. -/
def elemLen (d : Desc) : Nat := if fmtBits d.fmt < 8 then 1 else fmtBits d.fmt / 8

/-- The places of an element's bytes; none where any of them is absent. -/
def elemKeys (img : List Byte) (own b : Nat) (d : Desc) (p : List Int) : Option (List Nat) :=
  ((List.range (elemLen d)).map (fun (i : Nat) => resolve img own b d ((elemOff d p).1 + i))).mapM id

/-- An element's code as a reader sees it: fill where the position is out of bounds or absent (R183, R195). -/
def elemRead (img : List Byte) (own b : Nat) (d : Desc) (m : SMap Byte) (p : List Int) : Nat :=
  if inBounds d p then
    match elemKeys img own b d p with
    | some ks =>
      let c := bits (leNat (ks.map (fun k => SMap.get 0 m k))) (elemOff d p).2 (fmtBits d.fmt)
      if d.fmt = 5 then c % 64 else c
    | none => fillCode d
  else fillCode d

/-- The lines an element's read fetches: none out of bounds. -/
def elemLines (img : List Byte) (own b : Nat) (d : Desc) (p : List Int) : List Nat :=
  if inBounds d p then ((elemKeys img own b d p).getD []).map lineOf else []

/-- One byte to be stored: its place, value and bit enables. -/
abbrev Cell := Nat × Byte × Byte

/-- The bytes an element's write stores, with only its own bits enabled (R184, R186): none out of bounds. -/
def elemWrite (img : List Byte) (own b : Nat) (d : Desc) (p : List Int) (code : Nat) : List Cell :=
  if inBounds d p then
    match elemKeys img own b d p with
    | some ks =>
      let o := (elemOff d p).2
      if fmtBits d.fmt < 8 then
        ks.map (fun k => (k, BitVec.ofNat 8 (code * 2 ^ o), BitVec.ofNat 8 ((2 ^ fmtBits d.fmt - 1) * 2 ^ o)))
      else List.zipWith (fun k (v : Byte) => (k, v, (0xFF#8 : Byte))) ks (leBytes (elemLen d) code)
    | none => []
  else []

/-- The logical index of an element (R178). -/
def logicalIdx (d : Desc) (p : List Int) : Nat :=
  let e := fun i => (d.exts.getD i 1 : Int)
  let g := fun i => p.getD i 0
  ((g 0 + e 0 * (g 1 + e 1 * (g 2 + e 2 * (g 3 + e 3 * (g 4 + e 4 * g 5))))) % (2 ^ 40 : Nat)).toNat

/-- A position moved by k in dimension i (R182). -/
def posAdd (p : List Int) (i : Nat) (k : Int) : List Int := setAt p i (wrap32 (p.getD i 0 + k))

/-- Some element of the row of position p, of those at these indices along `OUTDIM`, is in bounds (R184, R189). -/
def rowHas (d : Desc) (p : List Int) (es : List Nat) : Bool := es.any (fun (e : Nat) => inBounds d (posAdd p d.outdim e))
/-- A position with dimension i at k. -/
def posSet (p : List Int) (i : Nat) (k : Int) : List Int := setAt p i k
/-- A zero position. -/
def pos0 : List Int := [0, 0, 0, 0, 0, 0]

/-- Row number of a position among a tensor's rows, dimension 1 ascending fastest (R188). -/
def rowNumber (d : Desc) (p : List Int) : Nat :=
  let e := fun i => (d.exts.getD i 1 : Int)
  let g := fun i => p.getD i 0
  (g 1 + e 1 * (g 2 + e 2 * (g 3 + e 3 * (g 4 + e 4 * g 5)))).toNat

/-- The position of row j of a scale stream, taken in the same order (R188). -/
def rowPos (d : Desc) (j : Nat) : List Int :=
  let e := fun i => max 1 (d.exts.getD i 1)
  let q1 := j / e 1
  let q2 := q1 / e 2
  let q3 := q2 / e 3
  let q4 := q3 / e 4
  [0, ((j % e 1 : Nat) : Int), ((q1 % e 2 : Nat) : Int), ((q2 % e 3 : Nat) : Int), ((q3 % e 4 : Nat) : Int), (q4 : Int)]

/-- Row length in bytes (R176). -/
def rowBytes (d : Desc) : Nat :=
  let c := d.exts.getD 0 1
  if d.packed then ceilDiv (c * fmtBits d.fmt) 8 else 64 * ceilDiv c 64 * fmtBits d.fmt / 8

end Sys2Proof.Machine
end

