-- ==== Sys2Proof/Machine/Numbers.lean ====
section
/-! DEFINITION. Number formats, scales and rounding (chapter 03): NQ grids, decoding, the keyed mixer, and the encoders. -/

namespace Sys2Proof.Machine

/-! ## NQ grids (R82 to R84) -/

/-- NQ4 grid magnitudes for m = 0 to 7 (Table 3.3). -/
def grid4 : List Nat := [0, 5, 11, 21, 36, 57, 87, 127]
/-- NQ6 grid magnitudes for m = 0 to 31 (Table 3.4). -/
def grid6 : List Nat :=
  [0, 1, 2, 3, 4, 6, 7, 8, 10, 12, 13, 16, 18, 20, 23, 26, 29, 33, 37, 41, 46, 51, 57, 62, 69, 76, 83, 91, 99, 108, 117, 127]
/-- NQ8 grid magnitude for m: the FP32 value nearest to G(m), ties to even (R82). -/
def grid8 (m : Nat) : F32 := BitVec.ofNat 32 (fpRound fmt32 false (m * (16129 + 3 * m * m)) 8193532)

/-- Largest magnitude M of an NQ code. -/
def nqM (f : Nat) : Nat := if f = 4 then 7 else if f = 5 then 31 else 127
/-- Width of an NQ code. -/
def nqW (f : Nat) : Nat := if f = 4 then 4 else if f = 5 then 6 else 8
/-- Signed value c of an NQ code. -/
def nqSigned (f c : Nat) : Int := toSigned (nqW f) c
/-- The grid value of an NQ4 or NQ6 code; 0 for the escape code (R86). -/
def gridInt (f c : Nat) : Int :=
  let v := nqSigned f c
  let g : Int := ((if f = 4 then grid4 else grid6).getD v.natAbs 0 : Nat)
  if c % 2 ^ nqW f = nqEscape f then 0 else if v < 0 then -g else g
/-- The grid magnitude m of an NQ format in FP32. -/
def gridF (f m : Nat) : F32 := if f = 6 then grid8 m else f32ofInt ((if f = 4 then grid4 else grid6).getD m 0 : Nat) 0
/-- The code of sign × magnitude m; magnitude 0 gives code 0. -/
def nqCode (f : Nat) (neg : Bool) (m : Nat) : Nat := if neg then (2 ^ nqW f - m) % 2 ^ nqW f else m

/-! ## Macro inputs (R80, Table 3.2) -/

/-- The value the macro receives for a code, as the signed or unsigned a-bit code it enters with. -/
def inputValue (f zpUsed c : Nat) : Int :=
  if f = 4 ∨ f = 5 then gridInt f c
  else if zpUsed = 0 then toSigned (fmtBits f) c else (c % 2 ^ fmtBits f : Nat)

/-- Is the input signed under R43? An integer input is unsigned where the operation's ZP is not 0 (R80, R81). -/
def inputSigned (f zp : Nat) : Bool := fmtIsNq f || decide (zp = 0)

/-- The signed value of a stored weight code at precision p (R42). -/
def weightValue (p c : Nat) : Int := if p = 3 then (if c % 2 = 1 then 1 else -1) else toSigned (precBits p) c

/-! ## Escapes entering the correction path (R87) -/

/-- q of a side-list entry at escape fraction f, with its events. -/
def escQ (e f : Nat) : Int × Fl :=
  match fpDecode fmt16 e with
  | .nan => (0, Fl.nonfinite)
  | .inf n => (if n then -32767 else 32767, Fl.nonfinite)
  | v =>
    let q := f32roundInt v f
    if 32767 < q then (32767, Fl.limited) else if q < -32767 then (-32767, Fl.limited) else (q, Fl.zero)

/-! ## The keyed mixer (R100, R101) -/

def mixK1 : Nat := 0xB5C32F196D8EA743
def mixK2 : Nat := 0xC8A15E7D3B29F04D
def mixK3 : Nat := 0x94F26C0BE17A3D59

/-- Rotation to the left within 64 bits. -/
def rotl64 (x n : Nat) : Nat := (x * 2 ^ n) % 2 ^ 64 + x / 2 ^ (64 - n)

/-- One round r of the mixer. -/
def mixRound (key z r : Nat) : Nat :=
  let z := z ^^^ (z >>> 29)
  let z := (z * mixK2) % 2 ^ 64
  let z := z ^^^ (z >>> 32)
  let z := (z * mixK3) % 2 ^ 64
  z ^^^ rotl64 key (21 * r)

/-- keyed_mix of R100. -/
def keyedMix (seed step tensor element : Nat) : Nat :=
  let key := (seed % 2 ^ 64) ^^^ ((step * mixK1) % 2 ^ 64)
  let z := ((tensor * 2 ^ 40) % 2 ^ 64 ||| element) ^^^ key
  let z := mixRound key (mixRound key (mixRound key z 1) 2) 3
  z ^^^ (z >>> 31)

/-- How a store rounds: to nearest, or stochastically with a draw whose 24-bit numerator is given (R101, R102). -/
inductive Draw where
  | nearest
  | random (u : Nat)
deriving DecidableEq, Repr

/-- The draw of an element (R101). -/
def drawOf (near : Bool) (seed step tensor element : Nat) : Draw :=
  if near then .nearest else .random (keyedMix seed step tensor element >>> 40)

/-- R102: is the upper level chosen, for fraction d between the levels? `even` says that the lower level is even. -/
def chooseHi (dr : Draw) (d : F32) (even : Bool) : Bool :=
  match f32v d with
  | .fin n m e =>
    let q := ratOf m e
    let num := if n then 0 else q.1
    match dr with
    | .random u => decide (u * q.2 < num * 2 ^ 24)
    | .nearest => if num * 2 < q.2 then false else if q.2 < num * 2 then true else !even
  | _ => false

/-! ## Encoders (R103, R104) -/

/-- encode_int of R103. R102 calls d = r − lo exact in FP32; for −0.5 < r < 0 it can need more than 24 bits, and the model rounds it to nearest even as
every other step is (log entry 101). -/
def encodeInt (dr : Draw) (v s : F32) (a zp : Nat) : Nat × Fl :=
  let loQ : Int := if 0 < zp then -(zp : Int) else -(2 ^ (a - 1) - 1)
  let hiQ : Int := if 0 < zp then 2 ^ a - 1 - (zp : Int) else 2 ^ (a - 1) - 1
  let code := fun (q : Int) => ofSigned a (q + zp)
  let r := f32div v s
  if f32isNan v || f32isNan r then (code 0, Fl.nonfinite)
  else
    let hi := f32ofInt hiQ 0
    let lo := f32ofInt loQ 0
    if f32lt hi r then (code hiQ, Fl.clipped)
    else if f32lt r lo then (code loQ, Fl.clipped)
    else
      let fl := f32floor r
      let d := f32sub r (f32ofInt fl 0)
      (code (if chooseHi dr d (decide (fl % 2 = 0)) then fl + 1 else fl), Fl.zero)

/-- encode_bin of R103: code 1 for +1, 0 for -1. -/
def encodeBin (dr : Draw) (v s : F32) : Nat × Fl :=
  let r := f32div v s
  if f32isNan v || f32isNan r then (1, Fl.nonfinite)
  else
    let neg1 := f32neg f32one
    let fl := if f32lt f32one r || f32lt r neg1 then Fl.clipped else Fl.zero
    let r := if f32lt f32one r then f32one else if f32lt r neg1 then neg1 else r
    let d := f32mul (f32add r f32one) f32half
    (if chooseHi dr d false then 1 else 0, fl)

/-- The largest m below M with grid(m) not above x, searched from m downward. -/
def nqFind (f : Nat) (x : F32) : Nat → Nat
  | 0 => 0
  | m + 1 => if f32lt x (gridF f (m + 1)) then nqFind f x m else m + 1

/-- What encode_nq gives: a code, the side-list entry it appends, and events. -/
structure NqOut where
  code : Nat
  entry : Option Nat
  fl : Fl
deriving DecidableEq, Repr

/-- encode_nq of R104; `used` escapes are already in the row. -/
def encodeNq (dr : Draw) (f margin used : Nat) (v s : F32) : NqOut :=
  let x := f32div v s
  if f32isNan v || f32isNan x then ⟨0, none, Fl.nonfinite⟩
  else
    let gmax := if f = 6 then f32one else f32ofInt 127 0
    let ax := f32abs x
    -- T = gmax × (1 + margin / 8), exact in FP32
    let t := if f = 6 then f32ofInt (8 + margin : Nat) 3 else f32ofInt (127 * (8 + margin) : Nat) 3
    if f32lt t ax ∧ used < 32 then
      let big := !f32isFinite x || !f32lt ax (f32ofInt 65520 0)
      if big then ⟨nqEscape f, some (if x.msb then 0xFBFF else 0x7BFF), Fl.limited⟩
      else ⟨nqEscape f, some (f16of32 x), Fl.zero⟩
    else if !f32lt ax gmax then
      ⟨nqCode f x.msb (nqM f), none, if f32lt gmax ax then Fl.clipped else Fl.zero⟩
    else
      let m := nqFind f ax (nqM f - 1)
      let d := f32div (f32sub ax (gridF f m)) (f32sub (gridF f (m + 1)) (gridF f m))
      ⟨nqCode f x.msb (if chooseHi dr d (decide (m % 2 = 0)) then m + 1 else m), none, Fl.zero⟩

/-- The RAW8 store of R105. -/
def encodeRaw8 (v : F32) : Nat × Fl :=
  if f32isNan v then (0, Fl.nonfinite)
  else match f32v v with
    | .inf n => (if n then 0 else 255, Fl.clipped)
    | x =>
      let big := f32lt (f32ofInt 255 0) v
      let small := f32lt v f32zero
      let q := f32roundInt x 0
      (if q < 0 then 0 else if 255 < q then 255 else q.toNat, if big || small then Fl.clipped else Fl.zero)

/-! ## Output scales (R92) -/

/-- Q of a format: largest magnitude it encodes; in FP32. -/
def scaleQ (f zp : Nat) : F32 :=
  let a := fmtBits f
  if f = 6 then f32one
  else if f = 4 ∨ f = 5 then f32ofInt 127 0
  else if f = 3 then f32one
  else if 0 < zp then f32ofInt (max zp (2 ^ a - 1 - zp) : Nat) 0
  else f32ofInt (2 ^ (a - 1) - 1 : Nat) 0

/-- The FP16 scale of a row whose magnitude to cover is m; `any` says that some value of the row is finite. -/
def rowScale (f zp : Nat) (m : F32) (any : Bool) : Nat :=
  if !any || decide (f32key m = 0) then 0x0400
  else
    let t := f32div m (scaleQ f zp)
    if f32lt (f32ofInt 65504 0) t then 0x7BFF else f16up t

/-! ## Decoding values (R88, R135, R185) -/

/-- The FP32 value of a code in a descriptor's format, with scale s and zero point zp; an NQ escape takes the side-list entry e. -/
def decodeReal (f c : Nat) (s : F32) (zp e : Nat) : F32 :=
  if f = 9 then BitVec.ofNat 32 c
  else if f = 7 then f32of16 c
  else if f = 8 then f32ofB16 c
  else if f = 10 then f32ofInt (toSigned 32 c) 0
  else if f = 11 then f32ofInt (c % 256 : Nat) 0
  else if f = 3 then f32mul s (f32ofInt (if c % 2 = 1 then 1 else -1) 0)
  else if fmtIsNq f then
    if c % 2 ^ nqW f = nqEscape f then f32mul s (f32of16 e)
    else if f = 6 then
      let v := nqSigned f c
      let g := grid8 v.natAbs
      f32mul s (if v < 0 then f32neg g else g)
    else f32mul s (f32ofInt (gridInt f c) 0)
  else if zp = 0 then f32mul s (f32ofInt (toSigned (fmtBits f) c) 0)
  else f32mul s (f32ofInt ((c % 2 ^ fmtBits f : Nat) - (zp : Int)) 0)

end Sys2Proof.Machine
end

