-- ==== Sys2Proof/Machine/Ops.lean ====
section
/-! DEFINITION. Named operations over the state that every family uses: time, slots and phases, events, postmarks, chip states, fault
IDs, and the arrays. -/

namespace Sys2Proof.Machine

/-! ## Time, slots and phases (R290, R293) -/

/-- Time advanced to t REFCLK cycles; it never runs back (log entry 2). -/
def State.at (s : State) (t : Nat) : State := { s with now := max s.now t }

/-- The slot counter (R293). -/
def State.slotNo (s : State) : Nat :=
  s.getF cadBase F.CAD_SLOT_LO_SLOT + 2 ^ 32 * s.getF cadBase F.CAD_SLOT_HI_SLOT

/-- The slot counter set, modulo 2^48. -/
def State.setSlot (s : State) (n : Nat) : State :=
  (s.setF cadBase F.CAD_SLOT_LO_SLOT n).setF cadBase F.CAD_SLOT_HI_SLOT (n / 2 ^ 32)

/-- No slot is running (CAD_PHASE.LOST, R293, R295). -/
def State.slotLost (s : State) : Bool := s.isF cadBase F.CAD_PHASE_LOST

/-- The mean period Tm; 0 while no period has been measured (R291). -/
def State.meanPeriod (s : State) : Nat := s.cad.hist.sum / s.cad.hist.length

/-- The phase (R293, R295). -/
def State.phase (s : State) : Nat :=
  if s.slotLost then (if s.cad.seen then 65535 else 0)
  else if s.meanPeriod = 0 then 0
  else min (65536 * (s.now - s.cad.base) / s.meanPeriod) 65535

/-! ## Chip states (R38, Table 1.13) -/

/-- The encoding of CHIP_STATE.STATE. -/
def ChipSt.code : ChipSt → Nat
  | .off => 0
  | .boot => 1
  | .ready => 2
  | .armed => 3
  | .running => 4
  | .draining => 5
  | .securing => 6
  | .restoring => 7
  | .faulted => 8
  | .sleep => 9

/-- The chip is in one of these states. -/
def State.isIn (s : State) (l : List ChipSt) : Bool := decide (s.chip.st ∈ l)

/-! ## Events (R386, R442) -/

/-- An event is posted if its bit of EVENT_MASK is 1 (R442); bit 1 always is (R415). -/
def State.postEvent (s : State) (code source arg : Nat) (pm : Bool) : State :=
  if code = 1 ∨ s.mail.mask.testBit code then
    { s with mail := { s.mail with posts := s.mail.posts ++ [⟨code, source, b2n pm, s.slotNo, s.phase, arg % 2 ^ 32⟩] } }
  else s

/-- A bit of SDI_INT_STAT set. -/
def State.setInt (s : State) (b : Nat) : State :=
  { s with sdio := { s.sdio with intStat := s.sdio.intStat ||| 2 ^ b } }

/-! ## Horizon's counts (R487) -/

/-- A count of channel ch raised by k. -/
def State.tally (s : State) (ch k : Nat) : State :=
  { s with hzn := { s.hzn with tally := SMap.set 0 s.hzn.tally ch (SMap.get 0 s.hzn.tally ch + k) } }

/-! ## Postmarks (R502 to R508) -/

/-- A record dropped (R506). -/
def State.pmDrop (s : State) : State :=
  ({ s with pml := { s.pml with drops := s.pml.drops + 1 } }.addF pmlBase F.PML_DROPS_COUNT 1).flagF pmlBase F.PML_STAT_DROPPED

/-- A record submitted to the writer's queue of 16; dropped where it is full (R506). -/
def State.pmSubmit (s : State) (p : PmSub) : State :=
  if 16 ≤ s.pml.queue.length then s.pmDrop else { s with pml := { s.pml with queue := s.pml.queue ++ [p] } }

/-- The wall time in µs (R433): 0 before SET_TIME. -/
def State.wallTime (s : State) : Nat :=
  match s.pml.wall with
  | some (us, t) => (us + (s.now - t) / 100) % 2 ^ 64
  | none => 0

/-- PLAN_ID of a plan image (R198); 0 for none. -/
def planIdOf (img : List Byte) : Nat := leAt img 12 4

/-- The image of the running firmware (R541): none while the boot ROM runs, in a start-up before stage 6 and in a FAULTED that it entered. -/
def State.fwImage (s : State) : List Byte := if s.chip.st = .faulted ∧ s.errs.rom = true then [] else s.store.running

/-- VERSION of the running firmware; 0 under the boot ROM (R539, R541). -/
def State.fwVersion (s : State) : Nat := leAt s.fwImage 4 4

/-- SOURCE of a record that Casec writes (Table 16.6, R543; log entry 95): the boot ROM where no firmware runs. -/
def State.pmSource (s : State) : Nat := if s.fwImage.isEmpty then 2 else 0

/-- The 256 bytes of a record with its SEQ and CRC (Table 16.6); `lw` sets LAST_WORDS, `pin` PINNED. -/
def State.pmForm (s : State) (p : PmSub) (lw pin : Bool) : List Byte :=
  let body := leBytes 2 p.kind ++ leBytes 1 p.source
    ++ leBytes 1 (b2n p.fatal + 2 * b2n pin + 4 * b2n lw) ++ leBytes 4 s.pml.seq ++ leBytes 6 s.slotNo ++ leBytes 2 s.phase
    ++ leBytes 4 s.pml.bootCount ++ leBytes 8 s.wallTime ++ leBytes 8 p.fid ++ leBytes 4 (min p.count (2 ^ 32 - 1))
    ++ leBytes 1 (s.chip.st.code + 16 * s.chip.prev.code) ++ leBytes 1 0 ++ leBytes 2 (min s.pml.drops 65535)
    ++ leBytes 4 (planIdOf s.img) ++ leBytes 4 s.fwVersion ++ leBytes 4 p.arg
    ++ padTo 192 ((p.detail.take 24).flatMap (fun d => leBytes 4 d.1 ++ leBytes 4 d.2)) ++ leBytes 4 0
  body ++ leBytes 4 (crc32c body)

/-- The primary store is reachable while PD03 is on (R504). -/
def State.pmPrimary (s : State) : Bool := s.pdOn 3

/-- The event that each committed record posts (R506). -/
def State.pmPosted (s : State) (slot store source : Nat) : State :=
  s.postEvent 0x6 (if source = 1 then 1 else 0) (slot + store * 65536) true

/-- The slot that the next record of the primary store takes: the pinned one is passed over (R504). -/
def State.pmSlot (s : State) : Nat := if s.pml.pinned = some s.pml.next then (s.pml.next + 1) % 8192 else s.pml.next

/-- A commit that has begun is cut off between its phases: its slot, which it took from its former record, holds no valid one (R505). -/
def State.pmAbort (s : State) : State := { s with pml := { s.pml with begun := false } }

/-- A formed record placed in the primary store (R504): its slot, the pin of the first FATAL record, the slot skipped next. -/
def State.pmPlace (s : State) (rec : List Byte) (fatal : Bool) (source : Nat) : State :=
  let slot := s.pmSlot
  let pin := if s.pml.pinned.isNone && fatal then some slot else s.pml.pinned
  { s with pml := { s.pml with
      slots := SMap.set [] s.pml.slots slot rec, newest := slot, next := (slot + 1) % 8192, pinned := pin } }.pmPosted slot 0 source

/-- A record written: SEQ advances and the drops are carried (R502, R506). -/
def State.pmCount (s : State) : State := { s with pml := { s.pml with seq := (s.pml.seq + 1) % 2 ^ 32, drops := 0 } }

/-- A record committed in the primary store (R505). -/
def State.pmCommit (s : State) (p : PmSub) : State :=
  (s.pmPlace (s.pmForm p false (s.pml.pinned.isNone && p.fatal)) p.fatal p.source).pmCount

/-- A record committed in the last-words store, the oldest replaced, and counted as a drop, where it holds 64 (R507). -/
def State.pmWord (s : State) (p : PmSub) : State :=
  let rec_ := s.pmForm p true false
  let s1 := s.pmCount
  let full := decide (64 ≤ s.pml.words.length)
  let s2 := if full then s1.pmDrop else s1
  { s2 with pml := { s2.pml with
      words := (if full then s2.pml.words.drop 1 else s2.pml.words) ++ [(s2.pml.wordNext, rec_)],
      wordNext := (s2.pml.wordNext + 1) % 64 } }.pmPosted s.pml.wordNext 1 p.source

/-- A copy of a last-words record sealed anew for the primary store, PINNED where it is the first FATAL one (R504, R507). -/
def pmReseal (rec : List Byte) (pin : Bool) : List Byte :=
  let body := (rec.take 3) ++ leBytes 1 (leAt rec 3 1 ||| (if pin then 6 else 4)) ++ slice rec 4 248
  body ++ leBytes 4 (crc32c body)

/-- Every record of the last-words store copied into the primary store in SEQ order and freed (R507). -/
def State.pmCopyWords (s : State) : State :=
  if s.pmPrimary then
    let s1 := s.pml.words.foldl (fun st w =>
      let fatal := (leAt w.2 3 1).testBit 0
      st.pmPlace (pmReseal w.2 (st.pml.pinned.isNone && fatal)) fatal (leAt w.2 2 1)) s
    { s1 with pml := { s1.pml with words := [], wordNext := 0 } }
  else s

/-! ## Fault IDs (R447, Table 15.2) -/

/-- The current epoch. -/
def State.epoch (s : State) : Nat := s.getF nimBase F.NIM_EPOCH_EPOCH

/-- A fault ID. -/
def State.faultId (s : State) (level unit cls : Nat) : Nat :=
  level % 4 + (unit % 2 ^ 14) * 4 + (cls % 256) * 2 ^ 16 + s.epoch * 2 ^ 32

/-- UNIT codes. -/
def unitMac (m : Nat) : Nat := m
def unitBlk (b : Nat) : Nat := 0x1000 + b
def unitRgn (r : Nat) : Nat := 0x1100 + r
def unitChip (u : Nat) : Nat := 0x1200 + u
def unitPort (p : Nat) : Nat := 0x1210 + p
def unitDev (c : Nat) : Nat := 0x2000 + c

/-! ## Contexts -/

/-- Context c of block b. -/
def State.ctx (s : State) (b c : Nat) : Ctx := SMap.get Ctx.init (s.bx b).ctxs c

/-- Context c of block b replaced. -/
def State.setCtx (s : State) (b c : Nat) (x : Ctx) : State :=
  s.setBx b { s.bx b with ctxs := SMap.set Ctx.init (s.bx b).ctxs c x }

/-- A context becomes FAULTED with a class (R124). It never finishes the result sets whose work it had not finished: `taken` and
`running` then name the first of them. -/
def State.faultCtx (s : State) (b c cls : Nat) : State :=
  let x := s.ctx b c
  if x.st = .faulted then s
  else
    let mine := (((s.bx b).issues ++ (s.bx b).probes).filter (fun i => decide (i.ctx = c))).map Issue.j
    let low := mine.foldl min (if x.running then x.taken - 1 else x.taken)
    let stuck := decide (low < x.taken)
    let s1 := s.setBx b { s.bx b with chains := (s.bx b).chains.filter (fun i => decide (i.ctx ≠ c)) }
    s1.setCtx b c { x with
      st := .faulted, reason := 0, faultClass := cls, taken := if stuck then low + 1 else x.taken, running := stuck }

/-- Context c of block b as it stands, or as it is saved. -/
def State.ctxNow (s : State) (b c : Nat) : Ctx :=
  if s.pdPow (4 + b / 16) then s.ctx b c else SMap.get Ctx.init (SMap.get ⟨[], []⟩ s.power.saved b).ctxs c

/-- Issues of context c of block b in flight. -/
def State.ctxIssues (s : State) (b c : Nat) : List Issue :=
  ((s.bx b).issues ++ (s.bx b).probes).filter (fun i => decide (i.ctx = c))

/-- A context has finished result set j (R302): the last issue of its list for it has retired. -/
def State.ctxFinished (s : State) (b c j : Nat) : Bool :=
  let x := s.ctxNow b c
  decide (j < x.taken) && !(x.running && decide (x.taken = j + 1)) && !(s.ctxIssues b c).any (fun i => decide (i.j = j))

/-- The contexts of the device that have finished result set j, as 32 × block + context. -/
def State.finishers (s : State) (j : Nat) : List Nat :=
  ((s.blocks.map (fun e => (e.1, e.2.ctxs))) ++ (s.power.saved.map (fun e => (e.1, e.2.ctxs)))).flatMap (fun e =>
    (e.2.filter (fun c => s.ctxFinished e.1 c.1 j)).map (fun c => 32 * e.1 + c.1))

/-- Result sets leave the work: which contexts have finished them is kept for the DEADLINE records of the next 255 slots (R302). -/
def State.noteEnded (s : State) (l : List ResultSet) : State :=
  { s with job := { s.job with
      ended := s.job.ended.filter (fun e => decide ((s.slotNo + 2 ^ 48 - e.1) % 2 ^ 48 < 256)) ++ l.map (fun r => (r.slot, s.finishers r.j)) } }

/-- Every context of the device stops and what it has in flight is given up (R450). With `keep`, at entry to FAULTED, a context that is FAULTED or DONE
still reads so until the next START or STOP (R113). -/
def State.stopContexts (s : State) (keep : Bool) : State :=
  { s with blocks := s.blocks.map (fun e => (e.1, { e.2 with
      ctxs := e.2.ctxs.map (fun c => (c.1, { c.2 with
        st := if keep = true ∧ (c.2.st = .faulted ∨ c.2.st = .done) then c.2.st else .off, reason := 0, running := false })),
      issues := [], probes := [], chains := [], outbox := [] })) }

/-! ## Power requests that other units make -/

/-- A domain is switched on: its wake latency begins unless it has power or settles (R516). -/
def State.powerUp (s : State) (d : Nat) : State :=
  if s.pdPow d ∨ d ∈ s.power.settling then s
  else { s with power := { s.power with settling := s.power.settling ++ [d] } }

/-- Domains of PD04 to PD35 that settle now, of which R516 allows four; one that only waits in reset for its scratchpad domain has settled (log
entry 108). -/
def State.settlingBig (s : State) : Nat := (s.power.settling.filter (fun d => decide (4 ≤ d ∧ d < 36 ∧ ¬ d ∈ s.power.held))).length

/-- A domain that a unit wants on is switched on in its turn, within the limit of R516. -/
def State.powerAsk (s : State) (d : Nat) : State :=
  if s.power.plan = [] ∧ s.settlingBig < 4 then s.powerUp d
  else if s.pdPow d ∨ d ∈ s.power.settling ∨ (d, true) ∈ s.power.plan then s
  else { s with power := { s.power with plan := s.power.plan ++ [(d, true)] } }

/-- Horizon wakes the compute domains of the masked regions that it powered off (R498, R499); the number woken. -/
def State.hznWake (s : State) (mask : Nat) : State × Nat :=
  let off := s.getF hznBase F.HZN_REST_OFF
  let rs := onesOf 16 (mask &&& off)
  let s1 := rs.foldl (fun st r => st.powerAsk (4 + r)) s
  (s1.setF hznBase F.HZN_REST_OFF (off &&& (0xFFFF ^^^ (mask % 65536))), rs.length)

/-! ## Arrays -/

/-- Bytes of HBM (R317). -/
def State.hbmRd (s : State) (a n : Nat) : List Byte := Mem.rdN s.mem.hbm a n
/-- Bytes of HBM written. -/
def State.hbmWr (s : State) (a : Nat) (bs : List Byte) : State := { s with mem := { s.mem with hbm := Mem.wrN s.mem.hbm a bs } }
/-- Bytes of block b's scratchpad. -/
def State.spdRd (s : State) (b o n : Nat) : List Byte := Mem.rdN s.mem.spd (0x80000 * b + o) n
/-- Bytes of block b's scratchpad written. -/
def State.spdWr (s : State) (b o : Nat) (bs : List Byte) : State :=
  { s with mem := { s.mem with spd := Mem.wrN s.mem.spd (0x80000 * b + o) bs } }
/-- The 128 bytes of row r of macro m. -/
def State.rowRd (s : State) (m r : Nat) : List Byte := Mem.rdN s.mem.rows (65536 * m + 128 * r) 128
/-- Bytes of row r of macro m written from byte o. -/
def State.rowWr (s : State) (m r o : Nat) (bs : List Byte) : State :=
  { s with mem := { s.mem with rows := Mem.wrN s.mem.rows (65536 * m + 128 * r + o) bs } }

/-- A merged byte: the enabled bits of v over the old byte (R186). -/
def mergeByte (old v en : Byte) : Byte := (old &&& ~~~en) ||| (v &&& en)

/-- Enabled bytes merged into a memory at base. -/
def Mem.merge (m : Mem) (base : Nat) (data : List (Nat × Byte × Byte)) : Mem :=
  data.foldl (fun mm d => mm.wr (base + d.1) (mergeByte (mm.rd (base + d.1)) d.2.1 d.2.2)) m

end Sys2Proof.Machine
end

