-- ==== Sys2Proof/Machine/Pigeon.lean ====
section
/-! DEFINITION. Pigeonhole and Horizon's RAM as their masters reach them (R374 to R382): protection regions, views, refusals, warnings. -/

namespace Sys2Proof.Machine

/-! ## Protection (R377, R381, R501) -/

/-- A word of a protection region covers byte offset `off` in units of 64 bytes, `w` bits wide, and grants the direction bit `dir`. -/
def protGrants (r : Word) (w off dir : Nat) : Bool :=
  let n := r.toNat
  n.testBit 31 && n.testBit dir && decide (bits n 0 w ≤ off / 64) && decide (off / 64 ≤ bits n 16 w) && !(n.testBit 30 && off.testBit 12)

/-- Region r of master m of Pigeonhole. -/
def State.pghRegion (s : State) (m r : Nat) : Word := s.reg (pghBase + 0x20 * m + 4 * r)

/-- Master m of Pigeonhole (0 Casec, 1 the SDIO engine, 2 Horizon, 3 the control DMA) may access an offset; `dir` is 28 for reads and 29 for
writes. -/
def State.pghMay (s : State) (m off dir : Nat) : Bool := (List.range 8).any (fun (r : Nat) => protGrants (s.pghRegion m r) 12 off dir)

/-- One region grants master m the whole of Pigeonhole in a direction, as region 0 does from reset. -/
def State.pghWhole (s : State) (m dir : Nat) : Bool :=
  (List.range 8).any (fun (r : Nat) =>
    let n := (s.pghRegion m r).toNat
    n.testBit 31 && n.testBit dir && decide (bits n 0 12 = 0) && decide (bits n 16 12 = 0xFFF) && !n.testBit 30)

/-- Master m of Horizon's RAM (0 Horizon, 1 Casec, 2 the SDIO engine, 3 the control DMA) may access an offset. -/
def State.hznMay (s : State) (m off dir : Nat) : Bool :=
  (List.range 8).any (fun (r : Nat) => protGrants (s.reg (hznBase + 0x1000 + 0x20 * m + 4 * r)) 9 off dir)

/-- Horizon, master 0, may read and write its RAM below 0x7C00, where its sample histories lie (R501). -/
def State.hznOwn (s : State) : Bool :=
  let whole := (List.range 8).any (fun (r : Nat) =>
    let n := (s.reg (hznBase + 0x1000 + 4 * r)).toNat
    n.testBit 31 && n.testBit 28 && n.testBit 29 && decide (bits n 0 9 = 0) && decide (0x1EF ≤ bits n 16 9) && !n.testBit 30)
  whole || (List.range 0x1F0).all (fun (u : Nat) => s.hznMay 0 (64 * u) 28 && s.hznMay 0 (64 * u) 29)

/-- An access of master m to Pigeonhole refused: the master, the first refusal, and PROT for the SDIO engine. -/
def State.pghRefuse (s : State) (m off wr : Nat) : State :=
  let stat := s.getF pghBase F.PGH_PROT_STAT_REFUSED
  let s1 := if stat = 0 then
      ((s.setF pghBase F.PGH_PROT_ADDR_OFFSET off).setF pghBase F.PGH_PROT_ADDR_MASTER m).setF pghBase F.PGH_PROT_ADDR_WRITE wr
    else s
  let s2 := s1.setF pghBase F.PGH_PROT_STAT_REFUSED (stat ||| 2 ^ m)
  if m = 1 then s2.setInt 3 else s2

/-- An access of master m to Horizon's RAM refused. -/
def State.hznRefuse (s : State) (m off wr : Nat) : State :=
  let stat := s.getF hznBase F.HZN_PROT_STAT_REFUSED
  let s1 := if stat = 0 then
      ((s.setF hznBase F.HZN_PROT_ADDR_OFFSET off).setF hznBase F.HZN_PROT_ADDR_MASTER m).setF hznBase F.HZN_PROT_ADDR_WRITE wr
    else s
  let s2 := s1.setF hznBase F.HZN_PROT_STAT_REFUSED (stat ||| 2 ^ m)
  if m = 2 then s2.setInt 3 else s2

/-! ## Accesses (R376) -/

/-- A byte written through a view: 0 plain, 1 bit-set, 2 bit-clear. -/
def viewByte (view : Nat) (old x : Byte) : Byte := if view = 1 then old ||| x else if view = 2 then old &&& ~~~x else x

/-- Master m reads a byte of Pigeonhole; every view shows the plain contents. -/
def State.pghRead (s : State) (m view off : Nat) : Nat × State :=
  if view < 3 ∧ s.pghMay m off 28 = true then ((Mem.rd s.mem.pigeon off).toNat, s) else (0, s.pghRefuse m off 0)

/-- Master m writes a byte of Pigeonhole; a write through an alias needs both directions. -/
def State.pghWrite (s : State) (m view off : Nat) (x : Byte) : State :=
  if view < 3 ∧ s.pghMay m off 29 = true ∧ (view = 0 ∨ s.pghMay m off 28 = true) then
    { s with mem := { s.mem with pigeon := Mem.wr s.mem.pigeon off (viewByte view (Mem.rd s.mem.pigeon off) x) } }
  else s.pghRefuse m off 1

/-- The bytes that master m reads from an offset on, plain: 0 where it is refused. -/
def State.pghBytes (s : State) (m off n : Nat) : List Byte :=
  if s.pghWhole m 28 then Mem.rdN s.mem.pigeon off n
  else (List.range n).map (fun (i : Nat) => if s.pghMay m (off + i) 28 then Mem.rd s.mem.pigeon (off + i) else 0)

/-- The refusals that such a read meets. -/
def State.pghNote (s : State) (m off n : Nat) : State :=
  if s.pghWhole m 28 then s
  else match (List.range n).find? (fun (i : Nat) => !s.pghMay m (off + i) 28) with
    | some i => s.pghRefuse m (off + i) 0
    | none => s

/-- Master m writes bytes from an offset on, plain. -/
def State.pghPut (s : State) (m off : Nat) (d : List Byte) : State :=
  if s.pghWhole m 29 then { s with mem := { s.mem with pigeon := Mem.wrN s.mem.pigeon off d } }
  else (List.range d.length).foldl (fun st i => st.pghWrite m 0 (off + i) (d.getD i 0)) s

/-- Master m reads a byte of Horizon's RAM. While PD01 is off it reads 0, as the aperture of R373 does (log entry 89). -/
def State.hznRead (s : State) (m off : Nat) : Nat × State :=
  if !s.pdOn 1 then (0, s)
  else if s.hznMay m off 28 then ((Mem.rd s.mem.hznRam off).toNat, s) else (0, s.hznRefuse m off 0)

/-- Master m writes bytes of one 64-byte unit of Horizon's RAM. -/
def State.hznPut (s : State) (m off : Nat) (d : List Byte) : State :=
  if !s.pdOn 1 then s
  else if s.hznMay m off 29 then { s with mem := { s.mem with hznRam := Mem.wrN s.mem.hznRam off d } } else s.hznRefuse m off 1

/-! ## Collisions (R378 to R380) -/

/-- The SDIO engine is warned of a collision in a word of Pigeonhole (R379); kind 0 it read, 1 it wrote. -/
def State.collEngine (s : State) (word kind : Nat) : State :=
  let a := if s.sdio.intStat.testBit 2 then s.sdio.collAddr else word + kind * 2 ^ 16
  ({ s with sdio := { s.sdio with collAddr := a }, pins := { s.pins with mbxbsy := true } }).setInt 2

/-- Casec is warned of a collision (R380). -/
def State.collCasec (s : State) (word kind : Nat) : State :=
  let st := s.getF pghBase F.PGH_COLL_STAT_WARNED
  let s1 := if st.testBit 0 then s else
      ((s.setF pghBase F.PGH_COLL_ADDR_WORD word).setF pghBase F.PGH_COLL_ADDR_READER (1 - kind)).setF pghBase F.PGH_COLL_ADDR_WARNED 0
  (s1.setF pghBase F.PGH_COLL_STAT_WARNED (st ||| 1)).addF pghBase F.PGH_COLL_CNT_COUNT 1

end Sys2Proof.Machine
end

