-- ==== Sys2Proof/Machine/Mailbox.lean ====
section
/-! DEFINITION. The mailbox as Casec serves it (R383 to R396, R407 to R413): acceptance, replies, bulk transfers. -/

namespace Sys2Proof.Machine

/-! ## Acceptance by state (Tables 14.1 to 14.6) -/

/-- The letters of Table 14.1 as a mask over the codes of CHIP_STATE: Fw, and Any. -/
def stFw : Nat := 0b111111100
def stAny : Nat := 0b111111110

/-- For an opcode: the states that accept it as a mask over CHIP_STATE codes, and the version that defines it first (R414). -/
def opRow (op : Nat) : Option (Nat × Nat) :=
  let b := fun (l : List Nat) => l.foldl (fun n i => n + 2 ^ i) 0
  let mk := fun (m : Nat) => some (m, 0x100)
  match op with
  | 0x0001 | 0x0002 | 0x0003 | 0x0101 | 0x0102 | 0x0103 => mk stAny
  | 0x0201 | 0x0202 | 0x0203 => mk (b [2, 8])
  | 0x0301 => mk stFw
  | 0x0302 | 0x0303 => mk (b [2])
  | 0x0401 => mk stFw
  | 0x0402 | 0x0404 => mk (b [2, 8])
  | 0x0403 => some (b [2, 8], 0x101)
  | 0x0405 => mk (b [2, 3, 8])
  | 0x0406 => mk (b [2, 3, 4, 5, 8])
  | 0x0501 | 0x0502 => mk (b [2, 3, 4, 5])
  | 0x0503 => mk (b [2])
  | 0x0504 => mk (b [3])
  | 0x0505 => mk (b [3, 4, 8])
  | 0x0506 => mk (b [4])
  | 0x0507 | 0x0508 | 0x0601 | 0x0603 => mk stFw
  | 0x0602 => mk (b [2, 3, 8])
  | 0x0701 => mk (b [3, 4])
  | 0x0702 => mk (b [3, 4, 5, 8])
  | 0x0703 => mk (b [2, 3])
  | 0x0704 | 0x0705 => mk (b [2, 3, 4, 5, 8])
  | 0x0801 => mk stFw
  | 0x0802 | 0x0803 => mk (b [2, 3, 7, 8])
  | 0x0804 => mk (b [2, 3, 8])
  | 0x0805 => mk (b [2, 3])
  | 0x0901 => mk (b [3, 4, 6])
  | 0x0902 | 0x0903 | 0x0904 => mk (b [2, 3, 8])
  | 0x0905 => mk stFw
  | 0x0A01 | 0x0A03 => mk (b [2])
  | 0x0A02 => mk stFw
  | 0x0B01 | 0x0B02 | 0x0B03 | 0x0B04 => mk stAny
  | 0x0C01 | 0x0C02 | 0x0D01 | 0x0D02 => mk stFw
  | 0x0D03 => some (stFw, 0x200)
  | _ => none

/-- Check 6 of Table 13.8: the opcode is defined in the version. -/
def opDefined (op ver : Nat) : Bool :=
  match opRow op with
  | some r => decide (r.2 ≤ ver)
  | none => false

/-- The opcode is accepted in the current state (R407). -/
def State.opAccepted (s : State) (op : Nat) : Bool := ((opRow op).map (fun r => r.1.testBit s.chip.st.code)).getD false

/-- The serialised commands (R409). -/
def serialOps : List Nat :=
  [0x0501, 0x0502, 0x0503, 0x0504, 0x0505, 0x0506, 0x0302, 0x0303, 0x0201, 0x0202, 0x0402, 0x0403, 0x0404, 0x0406, 0x0802, 0x0803,
    0x0805, 0x0901, 0x0902, 0x0903, 0x0904, 0x0A01, 0x0A03, 0x0B03, 0x0D01]

/-- The group of an opcode. -/
def opGroup (op : Nat) : Nat := op / 256

/-- The boot ROM serves the mailbox (Table 13.9): in BOOT and in a FAULTED that it entered. -/
def State.romServes (s : State) : Bool :=
  match s.chip.st with
  | .boot => true
  | .faulted => s.errs.rom
  | _ => false

/-- Firmware or the boot ROM serves the mailbox (R395, R397): Casec's domain is on, outside OFF and SLEEP. -/
def State.served (s : State) : Bool := s.pdOn 2 && !s.isIn [.off, .sleep]

/-! ## Bulk transfers (R399 to R401, R413) -/

/-- A bit of SDI_F2_STAT set. -/
def State.setF2 (s : State) (b : Nat) : State := { s with sdio := { s.sdio with f2Stat := s.sdio.f2Stat ||| 2 ^ b } }

/-- Bytes ready to read on function 2: what stands of the first outbound transfer in its buffer of 64 KiB (R401). -/
def State.outAvail (s : State) : Nat := ((s.mail.outq.head?).map (fun x => min x.left 65536)).getD 0

/-- Bytes that the current inbound transfer still expects (R400). -/
def State.inLeft (s : State) : Nat := ((s.mail.inq.head?).map Xfer.left).getD 0

/-- The outbound transfers replaced; OUT_READY is set where OUT_AVAIL rises from 0 (R401). -/
def State.setOutq (s : State) (q : List Xfer) : State :=
  let s1 := { s with mail := { s.mail with outq := q } }
  if s.outAvail = 0 ∧ 0 < s1.outAvail then s1.setF2 1 else s1

/-- A transfer put into a queue: in the place its command holds there, else behind (R399). -/
def xferPut (q : List Xfer) (x : Xfer) : List Xfer :=
  if q.any (fun y => decide (y.cmd = x.cmd)) then q.map (fun y => if y.cmd = x.cmd then x else y) else q ++ [x]

/-- An inbound phase armed. -/
def State.armIn (s : State) (id len : Nat) : State := { s with mail := { s.mail with inq := xferPut s.mail.inq ⟨id, len, []⟩ } }

/-- An outbound phase with its data. -/
def State.armOut (s : State) (id : Nat) (data : List Byte) : State := s.setOutq (xferPut s.mail.outq ⟨id, data.length, data⟩)

/-- The place in the order of R399 of a command whose inbound phase is not armed yet: a transfer that expects nothing. -/
def State.holdIn (s : State) (id : Nat) : State := s.armIn id 0

/-- The place of a command whose outbound data does not stand yet. -/
def State.holdOut (s : State) (id : Nat) : State := s.armOut id []

/-! ## Replies (R384, R390) -/

/-- The version carried by a reply: the session version, or 1.0. -/
def State.replyVer (s : State) : Nat := if s.mail.sess then s.mail.ver else 0x100

/-- A reply packet (R390). -/
def replyBytes (ver op tag seq status : Nat) (res : List Byte) : List Byte :=
  let p := leBytes 1 (ver / 256) ++ leBytes 1 ver ++ leBytes 2 op ++ leBytes 2 tag ++ leBytes 2 status ++ leBytes 2 res.length
    ++ leBytes 4 seq ++ leBytes 2 0 ++ res
  p ++ leBytes 4 (crc32c p)

/-- A reply queued for a free slot (R384). -/
def State.queueReply (s : State) (op tag seq status : Nat) (res : List Byte) : State :=
  { s with mail := { s.mail with replies := s.mail.replies ++ [replyBytes s.replyVer op tag seq status res] } }

/-- The command in progress with a number. -/
def State.takenBy (s : State) (id : Nat) : Option Taken := s.mail.taken.find? (fun t => decide (t.id = id))

/-- The first command in progress with an opcode. -/
def State.takenOp (s : State) (op : Nat) : Option Taken := s.mail.taken.find? (fun t => decide (t.op = op))

/-- The final reply of a command in progress (R392): it leaves the commands in progress with any bulk transfer of its own (R413). -/
def State.finish (s : State) (id status : Nat) (res : List Byte) : State :=
  match s.takenBy id with
  | some t =>
    let s1 := s.queueReply t.op t.tag t.seq status res
    { s1 with mail := { s1.mail with
        taken := s1.mail.taken.filter (fun x => decide (x.id ≠ id)),
        inq := s1.mail.inq.filter (fun x => decide (x.cmd ≠ id)) } }.setOutq (s1.mail.outq.filter (fun x => decide (x.cmd ≠ id)))
  | none => s

/-- The final reply of a command that may stand. -/
def State.finishOpt (s : State) (id : Option Nat) (status : Nat) (res : List Byte) : State :=
  match id with
  | some i => s.finish i status res
  | none => s

/-- A PENDING reply (R392). -/
def State.replyPending (s : State) (t : Taken) : State := s.queueReply t.op t.tag t.seq 0x1 []

/-- A command in progress replaced. -/
def State.setTaken (s : State) (t : Taken) : State :=
  { s with mail := { s.mail with taken := s.mail.taken.map (fun x => if x.id = t.id then t else x) } }

/-- The results of a reply with status FAULTED (R452); JOB_ENDED is 0 while the boot ROM serves (R395). -/
def State.faultedRes (s : State) : List Byte :=
  let p := s.errs.pin.getD (0, 0)
  leBytes 8 p.1 ++ leBytes 4 p.2 ++ leBytes 1 (b2n (s.chip.jobEnded && !s.errs.rom))

/-- No plan is staged: a PLAN_LOAD failed in its bulk phase (R436). -/
def State.noStaged (s : State) : State := { s with job := { s.job with staged := none, verified := false } }

/-- Each command in progress that FAULTED does not accept gets its final reply (R396). -/
def State.endRefused (s : State) : State :=
  (s.mail.taken.filter (fun t => !s.opAccepted t.op)).foldl (fun st t =>
    (if t.op = 0x0501 then st.noStaged else st).finish t.id 0x0501 st.faultedRes) s

/-- RES, CMD0, RESET_N and a wake: indices 0, commands without a final reply ended (R388), bulk transfers ended (R367). -/
def State.mailReset (s0 : State) (closeSession : Bool) : State :=
  let s := if s0.mail.taken.any (fun t => decide (t.op = 0x0501)) then s0.noStaged else s0
  { s with sdio := { s.sdio with cmdDb := 0, cmdCi := 0, rplPi := 0, rplDb := 0, clash := [] },
           mail := { s.mail with
             taken := [], replies := [], inq := [], outq := [],
             sess := if closeSession then false else s.mail.sess, ver := if closeSession then 0 else s.mail.ver },
           job := { s.job with startCmd := none, stopCmd := none, drainCmd := none } }

end Sys2Proof.Machine
end

