-- ==== Sys2Proof/Machine/BistSlice.lean ====
section
/-! DEFINITION. A self-test slice as the rest of the device meets it (Table 19.1, R555 to R559): its units, their domains and cursors, what ends it, and
the transitions of the chip state, which end it too. -/

namespace Sys2Proof.Machine

/-- A unit of this kind claims a block in the scoreboard (R557). -/
def bistBlockKind (k : Nat) : Bool := decide (k ∈ [0, 1, 2, 3, 6])

/-- The region controller that takes a unit; 16 is the chip's BIST unit, which takes ports and the PLLs. -/
def bistRegion (k u : Nat) : Nat := if bistBlockKind k then u / 16 else if k = 5 then 16 else u

/-- Regions whose compute domain has power, as a mask: in RET too (R558). -/
def State.compMask (s : State) : Nat := bits s.on 4 16

/-- Four or fewer region compute domains are on (R558). -/
def State.bistSmall (s : State) : Bool := decide (popcount 16 s.compMask ≤ 4)

/-- The domains of a unit are on (R555): a compute domain that R558 has put in RET comes back to ON when its region is under test. -/
def State.bistLive (s : State) (k u : Nat) : Bool :=
  let comp := fun r => decide (r < 16) && s.pdPow (4 + r)
  if k = 0 ∨ k = 6 then comp (u / 16)
  else if k = 1 ∨ k = 2 then s.spdOn u
  else if k = 3 then comp (u / 16) && s.spdOn u
  else if k = 4 then decide (u < 16) && s.pdOn 3
  else if k = 5 then decide (u < 16) && s.pdOn (38 + u / 8)
  else if k = 7 then decide (u = 16) || comp u
  else if k = 8 then decide (u < 16) && s.pdOn 1
  else comp u

/-- The slice replaced. -/
def State.setSlice (s : State) (q : Option Slice) : State := { s with bist := { s.bist with slice := q } }

/-- The units that a slice has not reached: those still to take, those whose claims wait, and those given up untested. -/
def Slice.unreached (q : Slice) : List (Nat × Nat) := q.left ++ q.claimed.map (fun u => (u.kind, u.unit)) ++ q.missed

/-- A slice ends: each kind's cursor of each region stands at the first unit, in the slice's order, that the slice did not reach, so that the next slice
takes it first (R556); where it reached all of them the cursor stays. -/
def State.moveCursors (s : State) (q : Slice) : State :=
  let un := q.unreached
  { s with bist := { s.bist with
      cursor := (q.order.filter (fun e => decide (e ∈ un))).foldr (fun e c => SMap.set 0 c (32 * e.1 + bistRegion e.1 e.2) e.2) s.bist.cursor } }

/-- Units under test or waiting whose domain has gone are given up untested (R555). -/
def State.sliceDrop (s : State) : State :=
  match s.bist.slice with
  | some q =>
    let live := fun (u : TestUnit) => s.bistLive u.kind u.unit
    let gone := (q.claimed ++ q.running).filter (fun u => !live u)
    s.setSlice (some { q with
      claimed := q.claimed.filter live, running := q.running.filter live, missed := q.missed ++ gone.map (fun u => (u.kind, u.unit)) })
  | none => s

/-- The chip leaves the states in which a slice may run (R559): the units in progress complete, and nothing further is taken. A slice without one has
ended, and BIST_RUN is answered with its failures; the entry to FAULTED answers it itself (R396). -/
def State.sliceLeave (s : State) (answer : Bool) : State :=
  match s.bist.slice with
  | some q =>
    let s1 := s.moveCursors q
    let q1 := { q with left := [], claimed := [], missed := [] }
    if !q.running.isEmpty then s1.setSlice (some q1)
    else if answer then (s1.setSlice none).finishOpt q.cmd 0 (leBytes 4 q.fails) else s1.setSlice none
  | none => s

/-- A slice starts and goes on in these states only (Table 19.1). -/
def bistStates : List ChipSt := [.boot, .ready, .armed, .running, .draining]

/-- A transition of the chip state (Tables 1.12, 1.13): PREV, the count, STATE_CHANGE and SDI_INT_STAT.STATE (R387); a self-test slice ends where the new
state does not allow one (R559), and no domain stays in RET (R515). -/
def State.goChip (s : State) (st : ChipSt) : State :=
  let s0 := if st ∈ bistStates then s else s.sliceLeave (decide (st ≠ .faulted))
  let s1 := { s0 with
      chip := { s0.chip with st := st, prev := s0.chip.st, transitions := (s0.chip.transitions + 1) % 65536 },
      power := { s0.power with ret := 0 } }
  (s1.postEvent 0x1 2 (st.code + 16 * s0.chip.st.code) false).setInt 4

end Sys2Proof.Machine
end

