-- ==== Sys2Proof/Machine/Errors.lean ====
section
/-! DEFINITION. Error handling at the four levels (R443 to R452): slots, merging, escalation, reports, Casec's table, and the entry to
FAULTED. -/

namespace Sys2Proof.Machine

/-- The current step (R101, R207; inference: the number of the last admitted result set). -/
def State.curStep (s : State) : Nat :=
  if planTraining s.img then (s.job.stepBase + (s.job.j - 1) / planStepSets s.img) % 2 ^ 32 else s.job.lastAdmit % 2 ^ 32

/-- ACT of NIM_STAT (Table 15.11). -/
def State.nimAct (s : State) : Nat :=
  let grad := s.getF nimBase F.NIM_STAT_GRAD
  if s.nim.rebuild.isSome then 6
  else if s.nim.restore.isSome then 7
  else if s.nim.exch.active then 5
  else if s.chip.st = .securing then 1
  else if grad = 1 then 4
  else if grad = 2 then 3
  else if s.nim.sec.isSome then 2
  else 0

/-- NIM_STAT over its stored word: ACT, and ALIGNED where the last secured epoch ended the step before the current one. -/
def State.nimStat (s : State) (w : Nat) : Nat :=
  putBits (putBits w 0 3 s.nimAct) 6 1
    (b2n (decide (s.epoch ≠ 0) && decide ((s.getF nimBase F.NIM_EPOCH_STEP_STEP + 1) % 2 ^ 32 = s.curStep)))

/-- CUR_STAT of port p as read, over its stored word: a lane that failed its self-test reads 0 in LANES_GOOD (R565). -/
def State.curStat (s : State) (p w : Nat) : Nat := putBits w 8 8 (bits w 8 8 &&& (255 ^^^ SMap.get 0 s.bist.lanes p))

/-- The registers a FAULT postmark holds in DETAIL: a macro's ECC registers, the fault slot of a block or region, the status register of the cadence
unit, an HBM stack, Nimbus or a Courier port (Table 16.7: the unit's status registers; log entry 20). -/
def State.faultDetail (s : State) (fid : Nat) : List (Nat × Nat) :=
  let u := bits fid 2 14
  let rd := fun a => (a, (s.reg a).toNat)
  if u < 0x1000 then [rd (macBase u + 0x14), rd (macBase u + 0x18)]
  else if u < 0x1100 then [rd (blkBase (u - 0x1000) + 0x30), rd (blkBase (u - 0x1000) + 0x34)]
  else if u < 0x1110 then
    [rd (rgnBase (u - 0x1100) + 0x100), rd (rgnBase (u - 0x1100) + 0x104), rd (rgnBase (u - 0x1100) + 0x108)]
  else if u = 0x1202 then [rd (cadBase + F.CAD_STAT_LATE.off)]
  else if u = 0x1203 ∨ u = 0x1204 then [rd (hbmBase (u - 0x1203) + F.HBM_STAT_UE.off)]
  else if u = 0x1209 then
    let a := nimBase + F.NIM_STAT_GRAD.off
    [(a, s.nimStat (s.reg a).toNat)]
  else if 0x1210 ≤ u ∧ u < 0x1220 then
    let a := curBase (u - 0x1210) + F.CUR_STAT_STATE.off
    [(a, s.curStat (u - 0x1210) (s.reg a).toNat)]
  else []

/-- An entry leaves Casec's table: a count postmark where its count has grown (R449). -/
def State.faultLeave (s : State) (e : FaultEnt) : State :=
  if e.posted < e.cnt then s.pmSubmit ⟨0x2, 0, false, e.id, e.cnt, 0, []⟩ else s

/-- Casec enters a record with count n (R449). -/
def State.casecRecord (s : State) (fid n : Nat) : State :=
  match s.errs.table.find? (fun e => decide (e.id = fid)) with
  | some _ =>
    { s with errs := { s.errs with
        table := s.errs.table.map (fun e => if e.id = fid then { e with cnt := e.cnt + n } else e) } }
  | none =>
    if n = 0 then s
    else
      let s1 : State := match s.errs.table with
        | e :: r => if 256 ≤ s.errs.table.length then { s.faultLeave e with errs := { s.errs with table := r } } else s
        | _ => s
      let s2 := { s1 with errs := { s1.errs with table := s1.errs.table ++ [FaultEnt.mk fid n n] } }
      (s2.pmSubmit ⟨0x1, s.pmSource, false, fid, n, 0, s2.faultDetail fid⟩).postEvent 0x5 0 fid true

/-- Every entry leaves the table (R449: a change of epoch, an entry to FAULTED). -/
def State.faultFlush (s : State) : State :=
  let s1 := s.errs.table.foldl State.faultLeave s
  { s1 with errs := { s1.errs with table := [] } }

/-- A report finds region r's table full (R448). -/
def State.reportLost (s : State) (r fid : Nat) : Bool :=
  !(s.rx r).reports.any (fun e => decide (e.1 = fid)) && decide (16 ≤ (s.rx r).reports.length)

/-- A report to region r's table of 16 entries (R448): merged, forwarded to Casec when new, lost when the table is full. -/
def State.reportUp (s : State) (r fid : Nat) : State :=
  let x := s.rx r
  if x.reports.any (fun e => decide (e.1 = fid)) then
    s.setRx r { x with reports := x.reports.map (fun e => if e.1 = fid then (e.1, e.2 + 1) else e) }
  else if x.reports.length < 16 then (s.setRx r { x with reports := x.reports ++ [(fid, 0)] }).casecRecord fid 1
  else s.addF (rgnBase r) F.RGN_ERR_STAT_DROPPED 1

/-! ## Chip level (R450, R451) -/

/-- A securing of this device is under way. -/
def State.isSecuring (s : State) : Bool := (s.nim.sec.map Securing.frozen).getD false

/-- A securing in progress is abandoned (R465): NIM_SECURE_ABORT. The secured epoch and its buffer stay as they are. -/
def State.abandonSecuring (s : State) : State :=
  let s1 := { s with nim := { s.nim with sec := none } }
  if s.isSecuring then
    ((s1.flagF nimBase F.NIM_STAT_ABORT).addF nimBase F.NIM_COUNTS_ABORTED 1).casecRecord (s1.faultId 3 (unitChip 9) 0x92) 1
  else s1

/-- No securing request waits any more. -/
def State.dropRequest (s : State) : State :=
  let s1 := s.setF nimBase F.NIM_STAT_REQ 0
  { s1 with nim := { s1.nim with due := false, dueStep := none, atEdge := false, epochNext := none, secReq := false } }

/-- Slot-status records in progress take a status (R429, R437, R450); no result set remains in work. -/
def State.endSets (s : State) (status : Nat) : State :=
  { s with sets := [], job := { s.job with recs := s.job.recs.map (fun e => if e.status = 1 then { e with status := status } else e) } }

/-- FETCHes whose record no longer reads PENDING get their reply (R427): cancelled with the record's status. A complete one is served by
`serveFetch`. -/
def State.cancelFetches (s : State) : State :=
  (s.mail.taken.filter (fun t => decide (t.op = 0x0702 ∧ t.stage = 0))).foldl (fun st t =>
    match st.job.recs.find? (fun e => decide (e.slot = leAt t.par 8 6)) with
    | some e => if e.status = 1 ∨ e.status = 0 then st else st.finish t.id e.status (if e.status = 0x0501 then st.faultedRes else [])
    | none => st) s

/-- The entry to FAULTED (R450, R451, R396): contexts stop, result sets end with 0x0501, a securing is abandoned, the pinned record is
written, Casec's slot is freed and Horizon's regions wake (R499). A start, stop, drain, restore or rebuild under way is answered with FAULTED. -/
def State.enterFaulted (s : State) (ended : Bool) : State :=
  let s1 := (((((s.noteEnded s.sets).stopContexts true).endSets 0x0501).abandonSecuring).dropRequest).goChip .faulted
  let s2 := { s1 with chip := { s1.chip with jobEnded := s1.chip.jobEnded || ended },
                      job := { s1.job with startCmd := none, stopCmd := none, drainCmd := none } }
  let p := s2.errs.pin.getD (0, 0)
  let s3 := (s2.pmSubmit ⟨0x3, s2.pmSource, true, p.1, p.2, b2n s2.chip.jobEnded, []⟩).faultFlush
  let s4 := { s3 with errs := { s3.errs with slot := none } }
  let s5 := [s1.job.startCmd, s1.job.stopCmd, s1.job.drainCmd, s1.nim.restore.map Prod.fst, s1.nim.rebuild.map Rebuild.cmd].foldl
    (fun st c => st.finishOpt c 0x0501 st.faultedRes) { s4 with nim := { s4.nim with restore := none, rebuild := none } }
  ((s5.cancelFetches).endRefused).hznWake 0xFFFF |>.1

/-- A chip-level error (R450, R451): recorded; in ARMED, RUNNING, DRAINING, SECURING or RESTORING it takes Casec's slot, merges there, or,
with another ID, ends the job at once. -/
def State.raiseChip (s : State) (fid : Nat) : State :=
  let s1 := s.casecRecord fid 1
  if s.isIn [.armed, .running, .draining, .securing, .restoring] then
    match s.errs.slot with
    | none => { s1 with errs := { s1.errs with slot := some fid, pin := some (fid, 1), rom := false } }
    | some f =>
      if f = fid then { s1 with errs := { s1.errs with pin := s1.errs.pin.map (fun p => (p.1, p.2 + 1)) } }
      else s1.enterFaulted true
  else s1

/-! ## Region, block and macro handlers (R443 to R446) -/

/-- Block b is fenced at region level (R445): every context whose CTX_EN bit is 1 (R113) is FAULTED. -/
def State.fence (s : State) (b cls : Nat) : State :=
  let s1 := (List.range 32).foldl (fun st c => if (s.getF (blkBase b) F.BLK_SEQ_CTL_CTX_EN).testBit c then st.faultCtx b c cls else st) s
  let base := rgnBase (b / 16)
  let s2 := s1.setF base F.RGN_ERR_FENCE_BLOCKS (s1.getF base F.RGN_ERR_FENCE_BLOCKS ||| 2 ^ (b % 16))
  let f := F.RGN_RTR_ERR_ISOLATED.idx (0x40 * (b % 16))
  s2.setF base f (s2.getF base f ||| 1)

/-- Block b is fenced (R445). -/
def State.fenced (s : State) (b : Nat) : Bool := (s.getF (rgnBase (b / 16)) F.RGN_ERR_FENCE_BLOCKS).testBit (b % 16)

/-- An error at region r (R444): its slot takes it and acts, merges it, or passes it to the chip. `blk` is the block it escalated from. -/
def State.raiseRegion (s : State) (r fid : Nat) (blk : Option Nat) : State :=
  let base := rgnBase r
  if s.isF base F.RGN_ERR_STAT_VALID then
    if s.getF base F.RGN_ERR_REC_LO_ID + 2 ^ 32 * s.getF base F.RGN_ERR_REC_HI_ID = fid then s.addF base F.RGN_ERR_STAT_COUNT 1
    else (s.flagF base F.RGN_ERR_STAT_ESCALATED).raiseChip fid
  else
    let s1 := ((((s.setF base F.RGN_ERR_REC_LO_ID fid).setF base F.RGN_ERR_REC_HI_ID (fid / 2 ^ 32)).flagF base
      F.RGN_ERR_STAT_VALID).setF base F.RGN_ERR_STAT_COUNT 1)
    let s2 := if bits fid 16 8 = 0x9A then s1.flagF base F.RGN_ERR_STAT_THROTTLE else s1
    match blk with
    | some b => s2.fence b (bits fid 16 8)
    | none => s2

/-- An error at block b (R444, Table 15.1): `unit` is the unit it names, `ctx` and `opIndex` fill BLK_FAULT. -/
def State.raiseBlockId (s : State) (b fid ctx opIndex : Nat) : State :=
  let base := blkBase b
  if s.isF base F.BLK_FAULT_STAT_VALID then
    match (s.bx b).eslot with
    | some (f, n) =>
      if f = fid then s.setBx b { s.bx b with eslot := some (f, n + 1) }
      else (s.flagF base F.BLK_FAULT_STAT_ESCALATED).raiseRegion (b / 16) fid (some b)
    | none => (s.flagF base F.BLK_FAULT_STAT_ESCALATED).raiseRegion (b / 16) fid (some b)
  else
    let s1 := (((s.setF base F.BLK_FAULT_CLASS (bits fid 16 8)).setF base F.BLK_FAULT_CTX ctx).setF base
      F.BLK_FAULT_OP_INDEX opIndex).flagF base F.BLK_FAULT_STAT_VALID
    (s1.setBx b { s1.bx b with eslot := some (fid, 1), unreported := s1.reportLost (b / 16) fid }).reportUp (b / 16) fid

/-- An error at block b that names a unit. -/
def State.raiseBlock (s : State) (b unit cls ctx opIndex : Nat) : State :=
  s.raiseBlockId b (s.faultId 1 unit cls) ctx opIndex

/-- The contexts that hold a scoreboard entry on macro m (R445). -/
def State.ctxsOn (s : State) (m : Nat) : List Nat :=
  dedup (((s.bx (m / 16)).issues.filter (fun i =>
    i.claims.any (fun c => decide (c.space ≠ 0) && c.mask.testBit (m % 16)))).map Issue.ctx)

/-- An error at macro m (R444, R445, Table 15.1). MAC_REMAP_REQ keeps the slot while its fill pass runs; the others free it at once. -/
def State.raiseMacro (s : State) (m cls : Nat) : State :=
  let fid := s.faultId 0 (unitMac m) cls
  match (s.mx m).eslot with
  | some (f, n) =>
    if f = fid then s.setMx m { s.mx m with eslot := some (f, n + 1) }
    else
      let b := m / 16
      let fresh := !s.isF (blkBase b) F.BLK_FAULT_STAT_VALID
      let s1 := s.raiseBlockId b fid 0 0
      if fresh then (s1.ctxsOn m).foldl (fun st c => st.faultCtx b c cls) s1 else s1
  | none =>
    let s1 := if cls = 0x04 then s.setMx m { s.mx m with eslot := some (fid, 1) } else s
    s1.reportUp (m / 256) fid

/-- A postmark event of a unit that no handler takes (SPD_CREDIT_ERR, Cirrus and Courier events, cadence): a record under R449 (log entry 21). -/
def State.chipEvent (s : State) (level unit cls : Nat) : State := s.casecRecord (s.faultId level unit cls) 1

/-! ## Casec's service of slots (R446) -/

/-- Casec reads block b's slot, enters its record and frees it: its merges, and the first error too where its report was lost (R448). -/
def State.serviceBlock (s : State) (b : Nat) : State :=
  let base := blkBase b
  if s.isF base F.BLK_FAULT_STAT_VALID then
    let s1 : State := match (s.bx b).eslot with
      | some (f, n) => s.casecRecord f (if (s.bx b).unreported then n else n - 1)
      | none => s
    (s1.setF base F.BLK_FAULT_STAT_VALID 0).setBx b { s1.bx b with eslot := none }
  else s

/-- Casec reads region r's slot, enters its record and frees it, and takes the counts of its report table (R446, R448). -/
def State.serviceRegion (s : State) (r : Nat) : State :=
  let base := rgnBase r
  let s1 := if s.isF base F.RGN_ERR_STAT_VALID then
      ((s.casecRecord (s.getF base F.RGN_ERR_REC_LO_ID + 2 ^ 32 * s.getF base F.RGN_ERR_REC_HI_ID)
        (s.getF base F.RGN_ERR_STAT_COUNT)).setF base F.RGN_ERR_STAT_VALID 0).setF base F.RGN_ERR_STAT_THROTTLE 0
    else s
  let s2 := (s1.rx r).reports.foldl (fun st e => st.casecRecord e.1 e.2) s1
  s2.setRx r { s2.rx r with reports := [] }

/-- FAULT_SLOT_SERVICE (R446): Casec reads every occupied block and region slot and frees it, in every state except OFF and SLEEP. -/
def faultService (s : State) : State :=
  if s.isIn [.off, .sleep] then s
  else (List.range 16).foldl (fun st r =>
    ((List.range 16).foldl (fun st2 i => st2.serviceBlock (16 * r + i)) st).serviceRegion r) s

/-- The meaning of FAULT_SLOT_SERVICE. -/
def execFaultSlotService (s : State) : Host.Outcome State Fault Refusal := .next (faultService s)

end Sys2Proof.Machine
end

