-- ==== Sys2Proof/Machine/RegionClock.lean ====
section
/-! DEFINITION. Region clocks, LDOs and the governor (R17 to R28). -/

namespace Sys2Proof.Machine

/-- Regions r and q are neighbours: their floorplan positions share an edge (R5, R20). -/
def neighbours (r q : Nat) : Bool :=
  (decide (r / 4 = q / 4) && (decide (r % 4 = q % 4 + 1) || decide (q % 4 = r % 4 + 1)))
    || (decide (r % 4 = q % 4) && (decide (r / 4 = q / 4 + 1) || decide (q / 4 = r / 4 + 1)))

/-- The powered neighbours of region r (R20). -/
def State.poweredNbrs (s : State) (r : Nat) : List Nat :=
  (List.range 16).filter (fun (q : Nat) => neighbours r q && s.pdOn (4 + q))

/-- The effective step of region r (RGN_ACLK.EFF). -/
def State.eff (s : State) (r : Nat) : Nat := s.getF (rgnBase r) F.RGN_ACLK_EFF

/-- The steps of region q that a neighbour's check compares with: effective, of the change in progress, queued (R21). -/
def State.stepsOf (s : State) (q : Nat) : List Nat :=
  s.eff q :: (((s.rx q).chg.map (fun c => [c.dst])).getD [] ++ ((s.rx q).queued.map (fun n => [n])).getD [])

/-- Two steps differ by at most 6. -/
def within6 (a b : Nat) : Bool := decide (a ≤ b + 6) && decide (b ≤ a + 6)

/-- Check of R21: step n of region r against every powered neighbour. -/
def State.stepOk (s : State) (r n : Nat) : Bool :=
  (s.poweredNbrs r).all (fun q => (s.stepsOf q).all (within6 n))

/-- clamp(n, lo, hi) of R22, lo and hi taken over the powered neighbours. R22 names their effective steps; so that R23 holds at every
moment the model also takes the step of a neighbour's change in progress and its queued target, as R21 does (log entry 67). -/
def State.clampStep (s : State) (r n : Nat) : Nat :=
  let es := (s.poweredNbrs r).flatMap s.stepsOf
  let lo := es.foldl max 0 - 6
  let hi := es.foldl (fun m e => min m (e + 6)) 10
  min (max n lo) hi

/-- The nominal LDO target of a step in mV (R17). -/
def ldoTarget (n : Nat) : Nat := 600 + 20 * n

/-- A measured output within 10 mV of the target: a free value in that range (R18, Table 1.7). -/
def State.measureLdo (s : State) (r n : Nat) : State :=
  let (x, s1) := s.takeFree
  s1.setF (rgnBase r) F.RGN_LDO_STAT_VOUT_MV (ldoTarget n - 10 + x % 21)

/-- A change of region r to step n begins (R24, Table 1.2); no change where n is the effective step. -/
def State.startStep (s : State) (r n : Nat) : State :=
  let e := s.eff r
  if n = e then s
  else
    let s1 := (s.setRx r { s.rx r with chg := some ⟨e, n, 0⟩ }).setF (rgnBase r) F.RGN_ACLK_PENDING 1
    if e < n then s1.setF (rgnBase r) F.RGN_LDO_STAT_SETTLED 0 else s1

/-- Step n becomes the target of region r: at once, or queued behind the change in progress (R21). -/
def State.aimStep (s : State) (r n : Nat) : State :=
  if !s.pdOn (4 + r) then s
  else if (s.rx r).chg.isSome then s.setRx r { s.rx r with queued := some n }
  else s.startStep r n

/-- The effect of a write of v to RGN_ACLK (R11, R12, R19, R21): the W1C bits, then STEP under the check. -/
def aclkWrite (s : State) (r v : Nat) : State :=
  let base := rgnBase r
  let s1 := if bit v 17 then s.setF base F.RGN_ACLK_LIMIT_ERR 0 else s
  let s2 := if bit v 18 then s1.setF base F.RGN_ACLK_WAKE_CLAMP 0 else s1
  let n := v % 16
  if 10 < n then s2
  else
    let e := min n (s2.getF base F.RGN_ACLK_CAP)
    if s2.stepOk r e then (s2.setF base F.RGN_ACLK_STEP n).aimStep r e else s2.flagF base F.RGN_ACLK_LIMIT_ERR

/-- The idle synthesizer of region r has locked: a downward change switches ACLK and its LDO ramps (Table 1.2). -/
def synthLocked (s : State) (r : Nat) : State :=
  match (s.rx r).chg with
  | some ⟨a, n, 0⟩ =>
    let s1 := s.setRx r { s.rx r with chg := some ⟨a, n, 1⟩ }
    if n < a then (s1.setF (rgnBase r) F.RGN_ACLK_EFF n).setF (rgnBase r) F.RGN_LDO_STAT_SETTLED 0 else s1
  | _ => s

/-- The LDO of region r has settled: the change ends and a queued target starts as a change of its own (R21, R24). -/
def ldoSettledEff (s : State) (r : Nat) : State :=
  match (s.rx r).chg with
  | some ⟨_, n, 1⟩ =>
    let base := rgnBase r
    let s1 := ((s.setF base F.RGN_ACLK_EFF n).setF base F.RGN_LDO_STAT_SETTLED 1).setF base F.RGN_ACLK_PENDING 0
    let s2 := s1.measureLdo r n
    let q := (s2.rx r).queued
    let s3 := s2.setRx r { s2.rx r with chg := none, queued := none }
    match q with
    | some t => s3.startStep r (min t (s3.getF base F.RGN_ACLK_CAP))
    | none => s3
  | _ => s

/-- The clock of region r as its compute domain powers up (R22): clamped, locked and settled. -/
def State.wakeClock (s : State) (r : Nat) : State :=
  let base := rgnBase r
  let want := min (s.getF base F.RGN_ACLK_STEP) (s.getF base F.RGN_ACLK_CAP)
  let n := s.clampStep r want
  let s1 := (s.setF base F.RGN_ACLK_EFF n).setF base F.RGN_ACLK_PENDING 0
  let s2 := if n = want then s1 else s1.flagF base F.RGN_ACLK_WAKE_CLAMP
  ((s2.setRx r { s2.rx r with chg := none, queued := none }).setF base F.RGN_LDO_STAT_SETTLED 1).measureLdo r n

/-- The clock of region r as its compute domain switches off: the LDO reads as off and every other register keeps its value, PENDING among them
(Table 1.7, R36). What becomes of a step change in progress and of a queued target the spec does not say: the model drops both (DESIGN CHOICE, log
entry 67). -/
def State.stopClock (s : State) (r : Nat) : State :=
  let base := rgnBase r
  ((s.setRx r { s.rx r with chg := none, queued := none, win := 0, planes := [], hit := none, resumed := [] }).setF base
    F.RGN_LDO_STAT_VOUT_MV 0).setF base F.RGN_LDO_STAT_SETTLED 0

/-- The governor's budget of a window (R26). -/
def State.budget (s : State) (r : Nat) : Nat :=
  (s.getF (rgnBase r) F.RGN_GOV_CTL_BUDGET * 64) / 2 ^ s.getF (rgnBase r) F.RGN_GOV_STAT_HZN_DIV

/-- RAMP in effect (R27, R446). -/
def State.ramp (s : State) (r : Nat) : Nat :=
  if s.isF (rgnBase r) F.RGN_ERR_STAT_THROTTLE then 1 else s.getF (rgnBase r) F.RGN_GOV_CTL_RAMP

/-- The first cycle of the governor's window of region r (R25). ACLK cycles of a region count from its first window (log entry 78). -/
def RegionX.winStart (x : RegionX) : Nat := 256 * x.win

/-- Planes of the window that were issued: those up to the cycle in which the budget was reached (R26). -/
def RegionX.issued (x : RegionX) : List (Nat × Nat × Nat) :=
  x.planes.filter (fun p => decide (p.1 < x.winStart + 256) && (x.hit.all (fun h => decide (p.1 ≤ h))))

/-- The activity count of the window (R25). -/
def RegionX.act (x : RegionX) : Nat := (x.issued.map (fun p => p.2.2)).sum

/-- Planes of a block that the governor holds back: those after the cycle in which the budget was reached (R26). -/
def RegionX.heldOf (x : RegionX) (b : Nat) : List (Nat × Nat × Nat) :=
  match x.hit with
  | some h => x.planes.filter (fun p => decide (p.2.1 = b) && decide (h < p.1))
  | none => []

/-- The first cycle at whose end the count of some planes reaches the budget. -/
def hitCycle (budget : Nat) (l : List (Nat × Nat × Nat)) : Option Nat :=
  ((l.map (fun p => p.1)).filter (fun c => decide (budget ≤ ((l.filter (fun p => decide (p.1 ≤ c))).map (fun p => p.2.2)).sum))).min?

/-- A plane of block b in ACLK cycle cyc (R25, R26). The planes of one cycle count together; the first cycle that reaches the budget counts a
hit. -/
def State.govPlane (s : State) (b cyc activity : Nat) : State :=
  let r := b / 16
  let x := s.rx r
  let y := { x with planes := x.planes ++ [(cyc, b, activity)] }
  match hitCycle (s.budget r) y.issued with
  | some c =>
    let s1 := s.setRx r { y with hit := some c }
    if x.hit.isNone then (s1.addF (rgnBase r) F.RGN_GOV_EVT_BUDGET_HITS 1).tally 54 1 else s1
  | none => s.setRx r y

/-- Block b issued its last plane before cycle cyc, or has issued none. -/
def State.planeBefore (s : State) (b cyc : Nat) : Bool := (s.bx b).lastPlane.all (fun c => decide (c < cyc))

/-- Block b is idle at cycle cyc: 64 cycles have passed without a plane (R27). -/
def State.idleAt (s : State) (b cyc : Nat) : Bool := (s.bx b).lastPlane.all (fun c => decide (c + 64 < cyc))

/-- Every run of 16 consecutive cycles with cycle cyc in it holds fewer than `limit` of these resumptions (R27). -/
def rampRoom (limit cyc : Nat) (resumed : List Nat) : Bool :=
  (List.range 16).all (fun i => decide ((resumed.filter (fun c => decide (c ≤ cyc + i) && decide (cyc + i < c + 16))).length < limit))

/-- The first cycle from start on in which an idle block may resume after these resumptions (R27). -/
def rampCycle (limit start : Nat) (resumed : List Nat) : Nat :=
  start + ((List.range (16 * (resumed.length + 1))).find? (fun i => rampRoom limit (start + i) resumed)).getD 0

/-- An idle block of region r resumes in cycle cyc (R27). Resumptions that share no run of 16 cycles with the governor's window or a later one
count no more. -/
def State.noteResume (s : State) (r cyc : Nat) : State :=
  let x := s.rx r
  s.setRx r { x with resumed := x.resumed.filter (fun c => decide (x.winStart < c + 16)) ++ [cyc] }

/-- The held planes of block b issue from the window's first cycle on, one after another as before; a block that has become idle resumes under
the ramp (R26 to R28). -/
def State.resumeHeld (s : State) (b : Nat) (l : List (Nat × Nat × Nat)) : State :=
  let r := b / 16
  let start := (s.rx r).winStart
  match l with
  | [] => s
  | (first, _, _) :: _ =>
    let idle := decide (first + 63 < start)
    let c := if idle then rampCycle (s.ramp r) start (s.rx r).resumed else start
    let s1 := if idle then s.noteResume r c else s
    let s2 := if start < c then s1.addF (rgnBase r) F.RGN_GOV_EVT_RAMP_HOLDS 1 else s1
    l.foldl (fun st p =>
      let t := st.govPlane b (c + (p.1 - first)) p.2.2
      t.setBx b { t.bx b with lastPlane := some (c + (p.1 - first)) }) s2

/-- A governor window of region r ends (R25, R26): the count restarts, planes held back issue in order of block number, and where the budget
was reached the stretched cycles, which the spec does not count out, add a free value. -/
def windowEnd (s : State) (r : Nat) : State :=
  let x := s.rx r
  let s0 := if x.hit.isSome then
      let (y, t) := s.takeFree
      t.addF (rgnBase r) F.RGN_GOV_STAT_STRETCH (y % 257)
    else s
  let s1 := s0.setRx r { s0.rx r with win := x.win + 1, planes := [], hit := none }
  let later := x.planes.filter (fun p => decide (x.winStart + 256 ≤ p.1) && (x.heldOf p.2.1).isEmpty)
  let s2 := later.foldl (fun t p => t.govPlane p.2.1 p.1 p.2.2) s1
  (List.range 16).foldl (fun st i => st.resumeHeld (16 * r + i) (x.heldOf (16 * r + i))) s2

/-- The LDO output has left its band for more than 2 µs while settled (Table 1.7, R446). -/
def ldoOor (s : State) (r : Nat) : State :=
  if s.pdOn (4 + r) && s.isF (rgnBase r) F.RGN_LDO_STAT_SETTLED then
    (s.flagF (rgnBase r) F.RGN_LDO_STAT_OOR).raiseRegion r (s.faultId 2 (unitRgn r) 0x9A) none
  else s

/-- The meaning of RGN_ACLK_STEP_WRITE. The region unit lies in PD03 (R36). -/
def execRgnAclkStepWrite (r v : Nat) (s : State) : Host.Outcome State Fault Refusal :=
  .next (if r < 16 ∧ s.pdOn 3 then aclkWrite s r v else s)
/-- The meaning of SYNTHESIZER_LOCKED. -/
def execSynthesizerLocked (r : Nat) (s : State) : Host.Outcome State Fault Refusal := .next (synthLocked s r)
/-- The meaning of LDO_SETTLED. -/
def execLdoSettled (r : Nat) (s : State) : Host.Outcome State Fault Refusal := .next (ldoSettledEff s r)
/-- The meaning of RGN_LDO_OOR. -/
def execRgnLdoOor (r : Nat) (s : State) : Host.Outcome State Fault Refusal := .next (if r < 16 then ldoOor s r else s)
/-- The meaning of GOVERNOR_WINDOW_END. -/
def execGovernorWindowEnd (r : Nat) (s : State) : Host.Outcome State Fault Refusal :=
  .next (if r < 16 ∧ s.pdOn (4 + r) then windowEnd s r else s)

end Sys2Proof.Machine
end

