-- ==== Sys2Proof/Machine/Power.lean ====
section
/-! DEFINITION. Power domains (R513 to R520), the order of switching, and the resets (R524 to R527). What a wake rewrites from the plan,
and start-up, are in Boot.lean. -/

namespace Sys2Proof.Machine

/-- The domains that domain d needs (Table 17.1). -/
def pdNeeds (d : Nat) : List Nat :=
  if d = 0 then [] else if d ≤ 3 then [0] else if d < 20 then [3, d + 16] else [3]

/-- A set of domains, as a mask, keeps the rule of R514. -/
def pdSetOk (mask : Nat) : Bool :=
  (List.range 40).all (fun (d : Nat) => !mask.testBit d || (pdNeeds d).all (fun n => mask.testBit n))

/-- The wake latency of a domain in whole µs (Table 17.2), the restore of R518 included. -/
def pdLatency (d : Nat) : Nat :=
  if d = 1 then 60 else if d = 2 then 250 else if d = 3 then 300 else if d < 20 then 121 else if d < 36 then 30
  else if d < 38 then 2000 else 200

/-- Blocks of region r. -/
def rgnBlocks (r : Nat) : List Nat := (List.range 16).map (fun (i : Nat) => 16 * r + i)

/-- The macro columns and scratchpad lines repaired in eFuse, which every start-up applies (R68, R570): those registers stay,
a column's entry filled by the restore that follows. -/
def fusedRepair (a : Nat) (w : Word) : Bool :=
  match locate a with
  | some l =>
    (decide (l.win = .mac) && decide (0x40 ≤ l.off) && decide (l.off < 0x80) && w.getLsbD 17)
      || (decide (l.win = .bst) && decide (0x4000 ≤ l.off) && decide (l.off < 0x6000) && w.getLsbD 16)
  | none => false

/-- Registers and latches of domain d return to their reset values (R517), those of eFuse repairs among them (R68). -/
def State.dropRegs (s : State) (d : Nat) : State :=
  let here := fun a => decide ((locate a).map Loc.domain = some d)
  let fill := fun (a : Nat) (w : Word) => if decide ((locate a).map Loc.win = some .mac) then w ||| 0x10000#32 else w
  { s with
      regs := (s.regs.filter (fun e => !here e.1 || fusedRepair e.1 e.2)).map (fun (e : Nat × Word) =>
        if here e.1 then (e.1, fill e.1 e.2) else e),
      latch := SMap.dropKeys here s.latch }

/-- What stands behind a block's registers after its compute domain woke: its scratchpad side and its scale-stream counts stay. -/
def BlockX.wakeCompute (x : BlockX) : BlockX :=
  { BlockX.init with
      gather := x.gather, circTaken := x.circTaken, circBegun := x.circBegun, circRead := x.circRead, outNext := x.outNext,
      shop := x.shop, rowsWr := x.rowsWr, rowsRd := x.rowsRd, heldW := x.heldW }

/-- What stands behind a block's registers after its scratchpad domain woke. -/
def BlockX.wakeSpd (x : BlockX) : BlockX :=
  { x with gather := [], circTaken := [], circBegun := [], circRead := [], outNext := [], shop := none, heldW := [] }

/-- The registers that the power controller saves for a block (R518), as offsets in the block's window. -/
def savedOffsets : List Nat :=
  [0x0, 0x30008] ++ (List.range 32).map (fun (c : Nat) => 0x200 + 4 * c) ++ (List.range 64).map (fun (i : Nat) => 0x400 + 4 * i)
    ++ (List.range 16).flatMap (fun (m : Nat) =>
      let o := 0x80000 + 0x4000 * m
      [o, o + 0x10, o + 0x1C] ++ (List.range 16).map (fun (i : Nat) => o + 0x40 + 4 * i))

/-- The compute side of block b saved into PD03 (R518). -/
def State.saveBlock (s : State) (b : Nat) : State :=
  let ws := savedOffsets.map (fun o => (blkBase b + o, s.reg (blkBase b + o)))
  let keep := ws.filter (fun w => decide (w.2 ≠ regReset w.1))
  { s with power := { s.power with saved := SMap.set ⟨[], []⟩ s.power.saved b ⟨(s.bx b).ctxs, keep⟩ } }

/-- The word saved for register a of a block; the copy lists those that differ from their reset values. A valid remap entry returns with FILLED = 1
(R518). -/
def SavedBlock.word (sv : SavedBlock) (b a : Nat) : Word :=
  let w := ((sv.words.find? (fun e => decide (e.1 = a))).map Prod.snd).getD (regReset a)
  let o := (a - blkBase b) % 0x4000
  let isRemap := decide (0x80000 ≤ a - blkBase b) && decide (0x40 ≤ o) && decide (o < 0x80)
  if isRemap && w.getLsbD 15 then w ||| 0x10000#32 else w

/-- A block's saved contexts and registers written back, those that were saved at their reset values among them (R518). -/
def State.loadBlock (s : State) (b : Nat) : State :=
  let sv := SMap.get ⟨[], []⟩ s.power.saved b
  let s1 := s.setBx b { s.bx b with ctxs := sv.ctxs }
  savedOffsets.foldl (fun st o =>
    let a := blkBase b + o
    if st.reg a = sv.word b a then st else st.setReg a (sv.word b a)) s1

/-- Macros of region r hold nothing of their units' state any more; the flips of their rows are gone with the rows. -/
def State.dropMacros (s : State) (r : Nat) : State :=
  { s with macros := SMap.dropKeys (fun m => m / 256 == r) s.macros,
           mem := { s.mem with
             rows := Mem.clear s.mem.rows (65536 * 256 * r) (65536 * 256 * (r + 1)),
             acc := Mem.clear s.mem.acc (16384 * 256 * r) (16384 * 256 * (r + 1)) },
           flips := { s.flips with mac := s.flips.mac.filter (fun f => decide (f / (1112 * 512 * 256) ≠ r)) } }

/-- A port enters DETECT from its domain's wake or EN, or stands DISABLED (Table 12.7). -/
def State.portStart (s : State) (p : Nat) : State :=
  let base := curBase p
  let s1 := { s with cour := { s.cour with ports := SMap.set Port.init s.cour.ports p Port.init } }
  s1.setF base F.CUR_STAT_STATE (if s1.isF base F.CUR_CTL_EN && s1.pdOn (if p < 8 then 38 else 39) then 1 else 0)

/-- Messages that arrived on port p keep its axis while its link is down (R348); its buffer counts restart at its training (R342). -/
def State.inboxLeft (s : State) (p : Nat) : State :=
  let axis := (SMap.get Port.init s.cour.ports p).axis
  { s with cour := { s.cour with
      inbox := s.cour.inbox.map (fun (e : Nat × CMsg) => if e.1 = p then (16 + 16 * axis + p, e.2) else e),
      serving := s.cour.serving.map (fun v => if v.port = p then { v with held := false } else v) } }

/-- A port's domain is off: DISABLED (R335), what it held lost. -/
def State.portOff (s0 : State) (p : Nat) : State :=
  let s := s0.inboxLeft p
  { s with cour := { s.cour with ports := SMap.set Port.init s.cour.ports p Port.init } }.setF (curBase p) F.CUR_STAT_STATE 0

/-- The self-test unit after PD03 went off (R517): its records, counts and soft marks are gone; the fuses stay, and so do the lanes that a port's last
test left bad (R565). -/
def Bist.lost (x : Bist) : Bist :=
  { Bist.init with bad := x.badFused, badFused := x.badFused, fuseFree := x.fuseFree, lanes := x.lanes }

/-- Domain d loses its power (R513 to R518): a compute domain is saved first. -/
def State.domainCut (s : State) (d : Nat) : State :=
  let s1 := if 4 ≤ d ∧ d < 20 then ((rgnBlocks (d - 4)).foldl State.saveBlock s).stopClock (d - 4) else s
  let s2 := { s1 with
      on := s1.on - 2 ^ d,
      power := { s1.power with
        restoring := s1.power.restoring.filter (fun r => decide (r + 4 ≠ d)), ret := putBits s1.power.ret d 1 0 },
      cad := if 4 ≤ d ∧ d < 20 then { s1.cad with monSeen := putBits s1.cad.monSeen (d - 4) 1 0 } else s1.cad }
  if 4 ≤ d ∧ d < 20 then
    let s3 := s2.dropMacros (d - 4)
    (rgnBlocks (d - 4)).foldl (fun st b => st.setBx b (st.bx b).wakeCompute) s3
  else if 20 ≤ d ∧ d < 36 then
    let r := d - 20
    let s3 := (rgnBlocks r).foldl (fun st b => st.setBx b (st.bx b).wakeSpd) s2
    { s3 with
        regions := s3.regions.map (fun e => if e.1 = r then (e.1, { e.2 with atoms := [] }) else e),
        mem := { s3.mem with spd := Mem.clear s3.mem.spd (0x80000 * 16 * r) (0x80000 * 16 * (r + 1)) },
        flips := { s3.flips with spd := s3.flips.spd.filter (fun f => decide (f / 72 / 65536 / 16 ≠ r)) } }
  else if d = 2 then { s2 with mem := { s2.mem with pigeon := [] } }
  else if d = 36 ∨ d = 37 then { s2 with hbmQ := SMap.dropKeys (fun pc => decide (pc / 32 + 36 = d)) s2.hbmQ }
  else if d = 38 ∨ d = 39 then ((List.range 8).map (fun (i : Nat) => i + 8 * (d - 38))).foldl State.portOff s2
  else if d = 3 then
    -- the mesh, the error tables of the regions, the Nimbus engine and the self-test unit lose what they hold
    { s2.pmAbort with
        net := [], mesh := ⟨[], [], []⟩, regions := [], nim := Nim.init, bist := s2.bist.lost,
        cour := { s2.cour with inbox := [], outst := [], collCnt := [], serving := [] } }
  else s2

/-- Domain d switches off; self-test units in it are given up (R555). -/
def State.domainOff (s : State) (d : Nat) : State := if s.pdPow d then (s.domainCut d).sliceDrop else s

/-- Domain d has become usable: registers at their reset values, arrays clear (R517); ports enter DETECT, a stack is READY, the primary
store is reachable and takes the last words (R507). -/
def State.domainOn (s : State) (d : Nat) : State :=
  let s0 := { s.dropRegs d with
      on := if s.pdPow d then s.on else s.on + 2 ^ d,
      power := { s.power with
        settling := s.power.settling.filter (fun x => decide (x ≠ d)), held := s.power.held.filter (fun x => decide (x ≠ d)),
        ret := putBits s.power.ret d 1 0 } }
  let s1 := (s0.setF pwrBase F.PWR_STAT_LAST_PD d).setF pwrBase F.PWR_STAT_LAST_US (min (pdLatency d) 65535)
  if d = 1 ∨ d = 2 then
    -- a bank that wakes from off is cleared before it grants an access (R382); the event queue stays (R367)
    { s1 with mem := { s1.mem with
        hznRam := if d = 1 then s1.mem.hznRam.filter (fun e => decide (0x7C00 ≤ e.1)) else s1.mem.hznRam,
        pigeon := if d = 2 then [] else s1.mem.pigeon } }
  else if d = 3 then
    let s2 := (s1.setF nimBase F.NIM_TAG_TAG s1.power.feedtag).setF nimBase F.NIM_TAG_FEEDTAG s1.power.feedtag
    -- SINCE_BOOT stays until the next entry to BOOT (R553), and a wake from SLEEP is none (R521)
    let s3 := if s.isF secBase F.SEC_STAT_SINCE_BOOT then s2.flagF secBase F.SEC_STAT_SINCE_BOOT else s2
    { s3 with mesh := ⟨[], [], []⟩ }.pmCopyWords
  else if d = 36 ∨ d = 37 then s1.setF (hbmBase (d - 36)) F.HBM_STAT_READY 1
  else if d = 38 ∨ d = 39 then ((List.range 8).map (fun (i : Nat) => i + 8 * (d - 38))).foldl State.portStart s1
  else if 4 ≤ d ∧ d < 20 then (s1.wakeClock (d - 4)).addF pwrBase F.PWR_WAKES_COMPUTE 1
  else if 20 ≤ d ∧ d < 36 then s1.addF pwrBase F.PWR_WAKES_SCRATCH 1
  else s1

/-- Traffic or requests in flight against the scratchpads of region r: outstanding credit (R32, R514). -/
def State.creditsOut (s : State) (r : Nat) : Bool :=
  s.net.any (fun m => decide (m.dst < 256 ∧ m.dst / 16 = r)) || !(s.rx r).atoms.isEmpty

/-- The power controller goes on with its plan (R514, R516): in order, a switch-off of a scratchpad waits for its credits, a switch-on of a
further domain of PD04 to PD35 for one of four to settle; when nothing is left the command that waits replies. -/
def State.pwrRun (s : State) : Nat → State
  | 0 => s
  | n + 1 =>
    match s.power.plan with
    | [] =>
      if s.power.settling.isEmpty then
        { s.finishOpt s.power.cmd 0 (leBytes 8 s.onMask) with power := { s.power with cmd := none } }
      else s
    | (d, true) :: rest =>
      if 4 ≤ d ∧ d < 36 ∧ 4 ≤ s.settlingBig then s
      else
        let s1 := { s with power := { s.power with plan := rest } }
        (s1.powerUp d).pwrRun n
    | (d, false) :: rest =>
      if 20 ≤ d ∧ d < 36 ∧ s.creditsOut (d - 20) = true then s
      else
        let s1 := { s with power := { s.power with plan := rest } }
        (s1.domainOff d).pwrRun n

/-- The power controller goes on as far as it can. -/
def State.pwrGo (s : State) : State := s.pwrRun 48

/-- A switch of the domains of mask to the values of value in ascending order (R514, R419); none where the resulting set breaks the rule. -/
def State.pwrPlan (s : State) (mask value : Nat) (cmd : Option Nat) : Option State :=
  let result := (List.range 40).foldl (fun n d =>
    if (if mask.testBit d then value.testBit d else s.on.testBit d || decide (d ∈ s.power.settling)) then n + 2 ^ d else n) 0
  if pdSetOk result then
    let ds := (List.range 40).filter (fun (d : Nat) => mask.testBit d && decide (value.testBit d ≠ s.pdPow d))
    let keep := fun a b => putBits a 0 32 b
    let lo := (s.reg (pwrBase + 8)).toNat
    let hi := (s.reg (pwrBase + 0xC)).toNat
    let req := lo + hi * 2 ^ 32
    let req2 := (List.range 40).foldl (fun n d =>
      if 4 ≤ d ∧ mask.testBit d = true then putBits n d 1 (b2n (value.testBit d)) else n) req
    let s1 := (s.setReg (pwrBase + 8) (BitVec.ofNat 32 (keep 0 req2))).setReg (pwrBase + 0xC) (BitVec.ofNat 32 (req2 / 2 ^ 32))
    some ({ s1 with power := { s1.power with
      plan := s1.power.plan ++ ds.map (fun d => (d, value.testBit d)), cmd := cmd } }.pwrGo)
  else none

/-- A write of PWR_REQ_LO or PWR_REQ_HI (R514, R534): applied only in BOOT and READY and within the rule. -/
def pwrReqEff (s : State) (hi : Bool) (v : Nat) : State :=
  if s.isIn [.boot, .ready] then
    let mask := if hi then 0xFF * 2 ^ 32 else 0xFFFFFFF0
    let value := if hi then v * 2 ^ 32 else v
    match s.pwrPlan mask value s.power.cmd with
    | some t => t
    | none => s.flagF pwrBase F.PWR_STAT_DEP_ERR
  else s

/-- The meaning of PWR_REQ_WRITE. -/
def execPwrReqWrite (hi : Bool) (v : Nat) (s : State) : Host.Outcome State Fault Refusal := .next (pwrReqEff s hi v)

/-! ## Resets (R524 to R527) -/

/-- A chip reset begins (R525), a transition to BOOT (R387) unless the device is there: everything returns to reset but PD00's interface and event queue, the MRAM, the fuses and HBM; only PD00 is
on and the device is held in BOOT. -/
def State.chipReset (s : State) : State :=
  let keepReg := fun (a : Nat) => decide ((locate a).map Loc.win = some .sdi)
  let s1 := { s with
      regs := s.regs.filter (fun e => keepReg e.1 || fusedRepair e.1 e.2),
      latch := s.latch.filter (fun e => keepReg e.1),
      pins := { s.pins with cadenceOut := false, alertN := true, mbxbsy := false },
      mem := { s.mem with
        rows := [], acc := [], spd := [], pigeon := [], hznRam := s.mem.hznRam.filter (fun e => decide (0x7C00 ≤ e.1)) },
      flips := { s.flips with mac := [], spd := [] },
      macros := [], blocks := [], regions := [], net := [], mesh := ⟨[], [], []⟩, img := [], sets := [], on := 1, errs := Errs.init,
      pml := { s.pmAbort.pml with queue := [], wall := none, clear := none, nonce := s.pml.nonce + 1 },
      cad := Cad.init s.now, job := Job.init, hbmQ := [], hbmPos := [], cour := Cour.init,
      store := { s.store with running := [], staging := none }, nim := Nim.init, hzn := Hzn.init,
      bist := { s.bist.lost with lanes := [] },
      power := { Power.init s.power.strapBoot s.power.strapIo18 s.power.feedtag s.now with selfRef := true } }
  let s2 := s1.mailReset true
  let s3 := { s2 with chip := ⟨.boot, .off, false, 0⟩ }
  (if s.chip.st = .boot then s3 else (s3.postEvent 0x1 2 (1 + 16 * s.chip.st.code) false).setInt 4).setF
    chipBase F.CHIP_RST_CAUSE_PREV_STATE s.chip.st.code

/-- A chip reset ends (R527): straps are sampled, the cause is recorded and start-up is at stage 1. -/
def State.chipRise (s : State) (cause strapBoot strapIo18 feedtag : Nat) : State :=
  let s1 := { s with
      power := { s.power with strapBoot := strapBoot, strapIo18 := strapIo18, feedtag := feedtag, bootAt := s.now, pulse := 0 },
      cad := { s.cad with base := s.now } }
  let s2 := (s1.setF chipBase F.CHIP_RST_CAUSE_CAUSE cause).setF chipBase F.CHIP_BOOT_STRAP_BOOT strapBoot
  s2.setF chipBase F.CHIP_BOOT_STRAP_BAD (b2n (decide (strapBoot = 3)))

/-- Power-on reset: only MRAM and fuses survive (R524); OFF to BOOT is a transition that is posted (R387). -/
def State.powerOn (s : State) (strapBoot strapIo18 feedtag : Nat) : State :=
  let s0 := s.chipReset
  let s1 := { s0 with
      regs := s0.regs.filter (fun e => fusedRepair e.1 e.2), latch := [],
      mem := { s0.mem with hbm := [], hznRam := [] }, flips := { s0.flips with mac := [], spd := [], hbm := [] }, sdio := Sdio.init strapIo18, mail := Mail.init,
      chip := ⟨.boot, .off, false, 0⟩, pins := { s0.pins with pwrgood := true }, tap := Tap.init,
      power := Power.init strapBoot strapIo18 feedtag s.now }
  ((s1.chipRise 0 strapBoot strapIo18 feedtag).postEvent 0x1 2 1 false).setInt 4

/-- PWRGOOD_RISE (R527, Table 1.12): with RESET_N high the device leaves OFF for BOOT. -/
def execPwrgoodRise (strapBoot strapIo18 feedtag : Nat) (s : State) : Host.Outcome State Fault Refusal :=
  .next (if s.pins.pwrgood then s
    else if s.pins.resetN then s.powerOn (strapBoot % 4) (strapIo18 % 2) (feedtag % 16)
    else { s with pins := { s.pins with pwrgood := true } })

/-- PWRGOOD_FALL (R508, Table 1.12): the record that the writer is committing, abandoned, and a POWER_LOSS record reach the last-words store, and the device is OFF. -/
def pwrgoodFallEff (s : State) : State :=
  if !s.pins.pwrgood then s
  else if s.chip.st = .off then { s with pins := { s.pins with pwrgood := false } }
  else
    let s1 := match s.pml.queue with
      | p :: q => if s.pmPrimary then { s.pmAbort with pml := { s.pmAbort.pml with queue := q } }.pmWord p else s
      | [] => s
    let s2 := s1.pmWord ⟨0x7, 3, false, (s.errs.pin.getD (0, 0)).1, 0, 0, []⟩
    let s3 := s2.chipReset
    { s3 with
        chip := ⟨.off, s.chip.st, false, 0⟩, on := 0,
        pins := { pwrgood := false, resetN := s.pins.resetN, cadenceOut := false, alertN := true, mbxbsy := false },
        sdio := Sdio.init 0, mail := Mail.init,
        regs := s3.regs.filter (fun e => fusedRepair e.1 e.2), latch := [],
        mem := { s3.mem with hbm := [], hznRam := [] }, flips := { s3.flips with mac := [], spd := [], hbm := [] }, tap := Tap.init }

/-- The meaning of PWRGOOD_FALL. -/
def execPwrgoodFall (s : State) : Host.Outcome State Fault Refusal := .next (pwrgoodFallEff s)

/-- RESET_N_LOW (R525): a low pulse of 100 ns or more, since the device ignores a shorter one (R582; log entry 109). -/
def execResetNLow (s : State) : Host.Outcome State Fault Refusal :=
  .next (if !s.pins.resetN then s
    else if s.chip.st = .off then { s with pins := { s.pins with resetN := false } }
    else
      let t := s.chipReset
      { t with pins := { t.pins with resetN := false } })

/-- RESET_N_RISE (R525, R527): straps are sampled and start-up runs. From OFF, with PWRGOOD high, it is the power-on reset that waited. -/
def execResetNRise (strapBoot strapIo18 feedtag : Nat) (s : State) : Host.Outcome State Fault Refusal :=
  .next (if s.pins.resetN then s
    else
      let s1 := { s with pins := { s.pins with resetN := true } }
      if s.chip.st = .off then
        (if s.pins.pwrgood then s1.powerOn (strapBoot % 4) (strapIo18 % 2) (feedtag % 16) else s1)
      else s1.chipRise 1 (strapBoot % 4) (strapIo18 % 2) (feedtag % 16))

/-- CHIP_RST_SOFT (R526): KEY 0xB007 with SOFT schedules the pulse. -/
def chipRstWrite (s : State) (v : Nat) : State :=
  if bits v 0 16 = 0xB007 ∧ bit v 16 = true ∧ s.power.pulse = 0 then { s with power := { s.power with pulse := 1 } } else s

/-- The meaning of CHIP_RST_SOFT. -/
def execChipRstSoft (v : Nat) (s : State) : Host.Outcome State Fault Refusal :=
  .next (if s.isIn [.off] then s else chipRstWrite s v)

/-- SOFT_RESET_PULSE (R526): the scheduled pulse begins; it acts as RESET_N low. -/
def execSoftResetPulse (s : State) : Host.Outcome State Fault Refusal :=
  .next (if s.power.pulse = 1 then
      let t := s.chipReset
      { t with power := { t.power with pulse := 2 } }
    else s)

/-- SOFT_RESET_PULSE_END (R526, R527): the pulse ends; straps are sampled and start-up runs. -/
def execSoftResetPulseEnd (strapBoot strapIo18 feedtag : Nat) (s : State) : Host.Outcome State Fault Refusal :=
  .next (if s.power.pulse = 2 then s.chipRise 2 (strapBoot % 4) (strapIo18 % 2) (feedtag % 16) else s)

/-- TRST_N_LOW (R524): the JTAG TAP alone is reset. -/
def execTrstNLow (s : State) : Host.Outcome State Fault Refusal := .next { s with tap := Tap.init }

end Sys2Proof.Machine
end

