-- ==== Sys2Proof/Machine/Fabric.lean ====
section
/-! DEFINITION. The mesh and HBM (R310 to R334): delivery order, request queues, protection, ECC, scrub, temperature, links. -/

namespace Sys2Proof.Machine

/-! ## Messages (R311, R313, Tables 11.1 to 11.3) -/

/-- The virtual channel of a message (Table 11.3). -/
def Body.vc : Body → Nat
  | .read _ _ _ => 0
  | .write _ _ _ _ => 1
  | .atomic _ _ _ _ _ => 1
  | .credit _ => 2
  | .readRsp _ _ _ _ => 2
  | .ack _ _ => 2
  | .note _ _ _ => 3

/-- TYPE of a message (Table 11.3). -/
def Body.type : Body → Nat
  | .read _ _ _ => 0
  | .write _ narrow _ _ => if narrow then 2 else 1
  | .atomic _ _ _ _ _ => 3
  | .readRsp _ _ _ _ => 4
  | .ack _ _ => 5
  | .credit _ => 6
  | .note _ _ _ => 7

/-- Lines that hold these bytes. -/
def dataLines (data : List (Nat × Byte × Byte)) : Nat := data.foldl (fun n d => max n (d.1 / 64 + 1)) 0

/-- The bytes of a message's data lines. -/
def Body.payload : Body → List Byte
  | .write _ _ d _ => (List.range (64 * dataLines d)).map (fun (i : Nat) => ((d.find? (fun x => decide (x.1 = i))).map (fun x => x.2.1)).getD 0)
  | .atomic _ d _ _ _ => (List.range (64 * dataLines d)).map (fun (i : Nat) => ((d.find? (fun x => decide (x.1 = i))).map (fun x => x.2.1)).getD 0)
  | .readRsp _ d _ _ => d
  | _ => []

/-- Flits of a message: its head, and one for every two data lines (R313). -/
def Body.flits (b : Body) : Nat := 1 + ceilDiv (ceilDiv b.payload.length 64) 2

/-- ADDR, LINES, TAG and ATTR of a message header (Table 11.2). A read request names the lines it asks for in LINES. -/
def Body.header (region : Nat) : Body → List Byte
  | .read a n i => leBytes 8 (a + 2 ^ 20 * region) ++ leBytes 2 n ++ leBytes 2 i ++ [0]
  | .write a _ d i => leBytes 8 (a + 2 ^ 20 * region) ++ leBytes 2 (dataLines d) ++ leBytes 2 i ++ [0]
  | .atomic a d f c i => leBytes 8 (a + 2 ^ 20 * region) ++ leBytes 2 (dataLines d) ++ leBytes 2 i
      ++ leBytes 1 (f % 4 + 4 * (c.getD 0 % 16) + 64 * b2n c.isSome)
  | .readRsp _ d e i => leBytes 8 0 ++ leBytes 2 (ceilDiv d.length 64) ++ leBytes 2 i ++ leBytes 1 (128 * b2n (decide (e ≠ 0)))
  | .ack e i => leBytes 8 0 ++ leBytes 2 0 ++ leBytes 2 i ++ leBytes 1 (128 * b2n (decide (e ≠ 0)))
  | .credit r => leBytes 8 (2 ^ 20 * (r % 16)) ++ leBytes 5 0
  | .note k _ d => leBytes 8 k ++ leBytes 2 (ceilDiv d.length 64) ++ leBytes 3 0

/-- BITMASK of a narrow write (Table 11.2). -/
def Body.bitmask : Body → List Byte
  | .write _ true d _ => (List.range 64).map (fun (i : Nat) => ((d.find? (fun x => decide (x.1 = i))).map (fun x => x.2.2)).getD 0)
  | _ => List.replicate 64 0

/-- The 128-byte data fields of a message's flits (R313, Table 11.2): the head's header, then two lines each. -/
def Body.fields (region : Nat) (b : Body) : List (List Byte) :=
  padTo 128 (padTo 16 (b.header region) ++ b.bitmask) :: (List.range (b.flits - 1)).map (fun (k : Nat) => padTo 128 (slice b.payload (128 * k) 128))

/-- The endpoint number of an end (Table 11.1). -/
def endNo (e : Nat) : Nat :=
  if e = 272 then 0x130 else if 1024 ≤ e ∧ e < 1056 then 0x110 + (e - 1024) / 2 else if 1056 ≤ e ∧ e < 1088 then 0x120 + (e - 1056) / 2 else e

/-- The control field of a flit (R313), with the CRC-16 of R315 over the data field and its own bits [31:0]. -/
def flitControl (m : Msg) (head tail : Bool) (data : List Byte) : Nat :=
  let w := m.body.vc + 4 * b2n head + 8 * b2n tail + 2 ^ 4 * (endNo m.dst % 512) + 2 ^ 13 * (endNo m.src % 512) + 2 ^ 22 * m.body.type
  w + 2 ^ 32 * crc16 (data ++ leBytes 4 w)

/-- The flits of a message as (control field, data field). -/
def Msg.flits (m : Msg) (region : Nat) : List (Nat × List Byte) :=
  let l := m.body.fields region
  (l.zip (List.range l.length)).map (fun e => (flitControl m (decide (e.2 = 0)) (decide (e.2 + 1 = l.length)) e.1, e.1))

/-! ## Routes (R5, R311, R312) -/

/-- The mesh position of block b (R5). -/
def meshPos (b : Nat) : Nat × Nat := (4 * (b / 64) + (b % 16) / 4, 4 * ((b / 16) % 4) + b % 4)

/-- The block at a mesh position. -/
def blkAt (row col : Nat) : Nat := 16 * (4 * (row / 4) + col / 4) + 4 * (row % 4) + col % 4

/-- The neighbouring block of block b through router port p (1 north, 2 east, 3 south, 4 west) and the port it is met on; none at an edge. -/
def meshNbr (b p : Nat) : Option (Nat × Nat) :=
  let (r, c) := meshPos b
  if p = 1 then (if r = 0 then none else some (blkAt (r - 1) c, 3))
  else if p = 2 then (if c = 15 then none else some (blkAt r (c + 1), 4))
  else if p = 3 then (if r = 15 then none else some (blkAt (r + 1) c, 1))
  else if p = 4 then (if c = 0 then none else some (blkAt r (c - 1), 2)) else none

/-- Mesh position of a Msg end, with positions beyond the grid of the edge endpoints (Table 11.1): row and column, offset by one. -/
def endPos (e : Nat) : Option (Nat × Nat) :=
  if e < 256 then some ((meshPos e).1 + 1, (meshPos e).2 + 1)
  else if e < 264 then some (0, 2 * (e - 256) + 1)
  else if e < 272 then some (17, 2 * (e - 264) + 1)
  else if e = 272 then some (0, 16)
  else if 1024 ≤ e ∧ e < 1056 then some ((e - 1024) / 2 + 1, 0)
  else if 1056 ≤ e ∧ e < 1088 then some ((e - 1056) / 2 + 1, 17)
  else none

/-- Port by which the router at (r, c) sends toward a destination position (R312): 0 local, 1 north, 2 east, 3 south, 4 west. -/
def nextHop (r c : Nat) (dst : Nat × Nat) : Nat :=
  let clampN := fun x => min (max x 1) 16 - 1
  let tr := clampN dst.1
  let tc := clampN dst.2
  if c < tc then 2 else if tc < c then 4 else if r < tr then 3 else if tr < r then 1
  else if dst.1 = 0 then 1 else if dst.1 = 17 then 3 else if dst.2 = 0 then 4 else if dst.2 = 17 then 2 else 0

/-- Outputs that a route takes from the router at (r, c) to a destination, as (block, port); at most n. -/
def hopsFrom (dst : Nat × Nat) : Nat → Nat → Nat → List (Nat × Nat)
  | 0, _, _ => []
  | n + 1, r, c =>
    let b := blkAt r c
    let p := nextHop r c dst
    (b, p) :: (match (if p = 0 then none else meshNbr b p) with
      | some (q, _) => hopsFrom dst n (meshPos q).1 (meshPos q).2
      | none => [])

/-- A position on the grid: that of the router an edge position is reached through. -/
def onGrid (x : Nat) : Nat := min (max x 1) 16 - 1

/-- The router outputs between two ends (R312); none where an end is no endpoint of the mesh. -/
def meshPath (src dst : Nat) : List (Nat × Nat) :=
  match endPos src, endPos dst with
  | some a, some b => hopsFrom b 40 (onGrid a.1) (onGrid a.2)
  | _, _ => []

/-- The router inputs between two ends: the one that the source injects into, then those that each output feeds. -/
def meshInputs (src dst : Nat) : List (Nat × Nat) :=
  match endPos src with
  | some a =>
    let p := if a.1 = 0 then 1 else if a.1 = 17 then 3 else if a.2 = 0 then 4 else if a.2 = 17 then 2 else 0
    (blkAt (onGrid a.1) (onGrid a.2), p) :: (meshPath src dst).filterMap (fun h => meshNbr h.1 h.2)
  | none => []

/-! ## Delivery (R313, R315, R316; log entries 11, 82) -/

/-- Places: the line of a request at its destination. -/
def lineKey (dst blk l : Nat) : Nat := if 1024 ≤ dst then keyHbm l else keySpd blk l

/-! ### Ports and routes to other devices (R335, R348) -/

/-- The state of port p (Table 12.7): 0 DISABLED, 1 DETECT, 2 EQUALIZE, 3 ALIGN, 4 NEGOTIATE, 5 ACTIVE, 6 FAILED. -/
def State.portSt (s : State) (p : Nat) : Nat := s.getF (curBase p) F.CUR_STAT_STATE
/-- The domain of port p (R335). -/
def portDomain (p : Nat) : Nat := if p < 8 then 38 else 39
/-- The port's domain is on. -/
def State.portOn (s : State) (p : Nat) : Bool := decide (p < 16) && s.pdOn (portDomain p)
/-- Port p is ACTIVE in a domain that is on. -/
def State.portActive (s : State) (p : Nat) : Bool := s.portOn p && decide (s.portSt p = 5)
/-- Own coordinate. -/
def State.ownCoord (s : State) : Nat := s.getF curShBase F.CUR_COORD_COORD
/-- Ports of a mask that are ACTIVE. -/
def State.activePorts (s : State) (mask : Nat) : List Nat := (onesOf 16 mask).filter s.portActive

/-- The port by which a message to endpoint ep of the device at coordinate c leaves (R348), from endpoint srcEp of the device at src and of a message
class; none where that device is unreachable. -/
def State.leavingPort (s : State) (c ep cls srcEp src : Nat) : Option Nat :=
  match s.activePorts (s.getF curShBase (F.CUR_ROUTE_PORTS.idx (4 * c))) with
  | [] => none
  | p0 :: r => some (if ep < 256 ∨ 2 ≤ cls then p0 else (p0 :: r).getD ((srcEp + src) % (r.length + 1)) p0)

/-- The endpoint of an end: the two pseudo-channels of an HBM edge port share one (Table 11.1). -/
def endOf (e : Nat) : Nat := if 1024 ≤ e ∧ e < 1088 then e / 2 * 2 else e

/-- The endpoint on the mesh that a message is sent to: the port by which one for another device leaves. -/
def State.endTo (s : State) (m : Msg) : Nat :=
  if 4096 ≤ m.dst then ((s.leavingPort (m.dst - 4096) m.blk m.body.vc (endNo m.src) s.ownCoord).map (fun p => 256 + p)).getD m.dst
  else endOf m.dst

/-- Message k of those in flight, if no earlier one of its source and destination endpoint and channel is still in flight (R315). -/
def State.msgAt (s : State) (k : Nat) : Option Msg :=
  match s.net[k]? with
  | some m =>
    if (s.net.take k).any (fun x => decide (endOf x.src = endOf m.src ∧ s.endTo x = s.endTo m) && decide (x.body.vc = m.body.vc)) then none
    else some m
  | none => none

/-- Message k arrives: it is no longer in flight, and its good flits end the attempts on the inputs it came through (R316). -/
def State.dropMsg (s : State) (k : Nat) : State :=
  match s.net[k]? with
  | some m =>
    let ins := if s.mesh.tries.isEmpty then [] else (meshInputs m.src m.dst).map (fun h => 8 * h.1 + h.2)
    { s with net := dropAt s.net k, mesh := { s.mesh with tries := SMap.dropKeys (fun x => decide (x ∈ ins)) s.mesh.tries } }
  | none => s

/-- Router port p of block b is isolated (R316). -/
def State.isolated (s : State) (h : Nat × Nat) : Bool :=
  (s.getF (rgnBase (h.1 / 16)) (F.RGN_RTR_ERR_ISOLATED.idx (0x40 * (h.1 % 16)))).testBit h.2

/-- A router output leads over a crossing into another region (R33). -/
def crosses (h : Nat × Nat) : Bool := ((meshNbr h.1 h.2).map (fun q => decide (q.1 / 16 ≠ h.1 / 16))).getD false

/-- Flits sent on router outputs counted, and the outputs and crossings that they used marked (R333). -/
def State.countFlits (s : State) (path : List (Nat × Nat)) (n : Nat) : State :=
  { s with mesh := { s.mesh with
      flits := path.foldl (fun m h => SMap.set 0 m (8 * h.1 + h.2) (satCount 32 (SMap.get 0 m (8 * h.1 + h.2)) n)) s.mesh.flits,
      waits := path.foldl (fun m h =>
        let m1 := SMap.set 0 m (8 * h.1 + h.2) 1
        if crosses h then SMap.set 0 m1 (4096 + h.1 / 16) 1 else m1) s.mesh.waits } }

/-- A way over the mesh uses an isolated link (R316): the router port at which the source injects, or an output on the route. -/
def State.cutRoute (s : State) (src dst : Nat) : Bool := ((meshInputs src dst).take 1 ++ meshPath src dst).any s.isolated

/-- What the router at an isolated link answers for a message whose flits it discards: requests and writes, with POISON (R316). -/
def cutAnswer (m : Msg) : Option Msg :=
  match m.body with
  | .read l n i => some ⟨m.dst, m.src, 256, .readRsp (lineKey m.dst m.blk l) (List.replicate (64 * n) 0) 0x69 i⟩
  | .write _ _ _ i => some ⟨m.dst, m.src, 256, .ack 0x69 i⟩
  | .atomic _ _ _ _ i => some ⟨m.dst, m.src, 256, .ack 0x69 i⟩
  | _ => none

/-- A message sent on the mesh: it counts on the outputs of its route. Where the route uses an isolated link its flits are discarded there. -/
def State.send (s : State) (src dst blk : Nat) (b : Body) : State :=
  let path := meshPath src dst
  let m : Msg := ⟨src, dst, blk, b⟩
  if s.cutRoute src dst then
    let s1 := if ((meshInputs src dst).take 1).any s.isolated then s else s.countFlits (path.takeWhile (fun h => !s.isolated h)) b.flits
    { s1 with net := s1.net ++ (cutAnswer m).toList }
  else
    let s1 := s.countFlits path b.flits
    { s1 with net := s1.net ++ [m] }

/-- Messages in flight whose route uses an isolated link are discarded, with the answers of R316. -/
def State.cutNet (s : State) : State :=
  { s with net := s.net.flatMap (fun m => if s.cutRoute m.src m.dst then (cutAnswer m).toList else [m]) }

/-! ## Places (R317) -/

/-- The pseudo-channel of an HBM address. -/
def hbmPc (a : Nat) : Nat := bits a 8 6 ^^^ bits a 14 6
/-- The byte offset in the pseudo-channel. -/
def hbmOffset (a : Nat) : Nat := bits a 14 22 * 256 + a % 256
/-- The address of a byte offset in a pseudo-channel. -/
def hbmAddr (pc off : Nat) : Nat :=
  let hi := off / 256
  hi * 16384 + (pc ^^^ (hi % 64)) * 256 + off % 256
/-- The first unpopulated address (R317). -/
def hbmTop : Nat := 0xC00000000
/-- Lines of a pseudo-channel (R329). -/
def hbmLines : Nat := 12582912

/-! ## SEC-DED words (R41, R150, R328; log entry 7) -/

/-- The number of flipped bits of 72-bit word w. -/
def flipsIn (l : List Nat) (w : Nat) : Nat := (l.filter (fun f => decide (f / 72 = w))).length

/-- A word of 8 bytes with bit x of its 72 bits inverted; a check bit (64 to 71) is in none of the bytes. -/
def flipBit (l : List Byte) (x : Nat) : List Byte :=
  if x < 64 then setAt l (x / 8) (l.getD (x / 8) 0 ^^^ BitVec.ofNat 8 (2 ^ (x % 8))) else l

/-- The bytes of word w as the array holds them: its true bytes with its flipped bits inverted. -/
def rawWord (fl : List Nat) (w : Nat) (data : List Byte) : List Byte :=
  (fl.filter (fun f => decide (f / 72 = w))).foldl (fun l f => flipBit l (f % 72)) data

/-- What a read of a SEC-DED word finds (R41): its bytes, and 0 accepted as it stands, 1 corrected, 2 uncorrectable. -/
structure WordRead where
  data : List Byte
  kind : Nat
deriving DecidableEq, Repr

/-- Word w, whose true bytes are `data`, read through its code. With three or more flips the outcome is open, and a correction to a wrong value
inverts any one bit of the word. -/
def State.eccWord (s : State) (fl : List Nat) (w : Nat) (data : List Byte) : WordRead × State :=
  let n := flipsIn fl w
  if n ≤ 1 then (⟨data, n⟩, s)
  else if n = 2 then (⟨rawWord fl w data, 2⟩, s)
  else
    let v := Config.eccVerdict s.free
    let (x, s1) := s.takeFree
    let raw := rawWord fl w data
    (if v % 3 = 0 then ⟨raw, 2⟩ else if v % 3 = 1 then ⟨raw, 0⟩ else ⟨flipBit raw (x % 72), 1⟩, s1)

/-- What the words of a 64-byte line read as, in order. -/
def State.eccLine (s : State) (fl : List Nat) (word0 : Nat) (data : List Byte) : List WordRead × State :=
  (List.range 8).foldl (fun (acc : List WordRead × State) i =>
    let (q, t) := acc.2.eccWord fl (word0 + i) (slice data (8 * i) 8)
    (acc.1 ++ [q], t)) ([], s)

/-- The bytes of a line's words; one of them was corrected; one is uncorrectable. -/
def lineBytes (l : List WordRead) : List Byte := l.flatMap WordRead.data
def lineCe (l : List WordRead) : Bool := l.any (fun q => decide (q.kind = 1))
def lineUe (l : List WordRead) : Bool := l.any (fun q => decide (q.kind = 2))

/-- Flipped bits of words word0 to word0 + n - 1 gone: the words were written with new check bits. -/
def clearFlips (l : List Nat) (word0 n : Nat) : List Nat := l.filter (fun f => decide (f / 72 < word0 ∨ word0 + n ≤ f / 72))

/-! ## HBM controllers -/

/-- An error recorded in HBM_ERR_ADDR if it is the first since bits [2:0] of HBM_STAT were clear, and its bit set (R334). -/
def State.hbmErr (s : State) (a kind src : Nat) : State :=
  let base := hbmBase (hbmPc a / 32)
  let s1 := if bits (s.reg (base + 4)).toNat 0 3 = 0 then
      (((s.setF base F.HBM_ERR_ADDR_LO_ADDR a).setF base F.HBM_ERR_ADDR_HI_ADDR (a / 2 ^ 32)).setF base
        F.HBM_ERR_ADDR_HI_KIND kind).setF base F.HBM_ERR_ADDR_HI_SRC src
    else s
  s1.flagF base (if kind = 0 then F.HBM_STAT_UE else if kind = 1 then F.HBM_STAT_RANGE else F.HBM_STAT_PROT)

/-- Does protection allow an access to address a by a Msg end (R330)? -/
def State.hbmAllowed (s : State) (a src : Nat) (wr : Bool) : Bool :=
  let base := hbmBase (hbmPc a / 32)
  let unit := a / 16384
  let inW := fun w =>
    let o := 0x10 * w
    s.isF base (F.HBM_PROT_BASE_VALID.idx o) && decide (s.getF base (F.HBM_PROT_BASE_BASE.idx o) ≤ unit)
      && decide (unit ≤ s.getF base (F.HBM_PROT_LIMIT_LIMIT.idx o))
  match (List.range 8).find? inW with
  | none => true
  | some w =>
    let cls := if src < 256 then 0 else if src = 272 then 2 else 1
    bit (s.reg (base + 0x108 + 0x10 * w)).toNat (2 * cls + b2n wr)

/-- What a request meets before it is served (R318, R330): the class of the error, 0 for none. Blocks' faults are raised where the POISON
arrives; for other requesters a protection error is postmarked. -/
def State.hbmGate (s : State) (a src : Nat) (wr : Bool) : Nat × State :=
  if hbmTop ≤ a then (0x63, s.hbmErr a 1 (endNo src))
  else if !s.hbmAllowed a src wr then
    let s1 := s.hbmErr a 2 (endNo src)
    (0x64, if src < 256 then s1 else s1.chipEvent 1 (unitChip (3 + hbmPc a / 32)) 0x64)
  else (0, s)

/-- A line read through ECC (R328): its bytes and the class of the error, 0 for none. -/
def State.hbmReadLine (s : State) (a src : Nat) : List Byte × Nat × State :=
  let (l, s1) := s.eccLine s.flips.hbm (a / 8) (s.hbmRd a 64)
  let st := hbmPc a / 32
  let s2 := if lineCe l then (s1.addF (hbmBase st) F.HBM_CE_CNT_COUNT 1).tally (48 + st) 1 else s1
  if lineUe l then
    let s3 := s2.hbmErr a 0 (endNo src)
    (lineBytes l, 0x62, if src < 256 then s3 else s3.chipEvent 1 (unitChip (3 + st)) 0x62)
  else (lineBytes l, 0, s2)

/-- A line written with new check bits. -/
def State.hbmWriteLine (s : State) (a : Nat) (bs : List Byte) : State :=
  let s1 := s.hbmWr a bs
  { s1 with flips := { s1.flips with hbm := clearFlips s1.flips.hbm (a / 8) 8 } }

/-- A counter register of a pseudo-channel raised by n lines. -/
def State.pcCount (s : State) (pc : Nat) (f : Fld) (n : Nat) : State := s.addF (hbmBase (pc / 32)) (f.idx (0x10 * (pc % 32))) n

/-- Lines read one after another; the class of the first error, 0 for none. -/
def State.hbmReadLines (s : State) (a n src : Nat) : List Byte × Nat × State :=
  (List.range n).foldl (fun (acc : List Byte × Nat × State) i =>
    let (d, e, t) := acc.2.2.hbmReadLine (a + 64 * i) src
    (acc.1 ++ d, if acc.2.1 = 0 then e else acc.2.1, t)) ([], 0, s)

/-- A read of n lines of one granule served: bytes and error class. -/
def State.hbmServeRead (s : State) (a n src : Nat) : List Byte × Nat × State :=
  let (e, s1) := s.hbmGate a src false
  if e ≠ 0 then (List.replicate (64 * n) 0, e, s1)
  else
    let (d, e2, s2) := s1.hbmReadLines a n src
    (d, e2, s2.pcCount (hbmPc a) F.HBM_PC_RD_LINES n)

/-- Is every bit of a line enabled? -/
def fullLine (data : List (Nat × Byte × Byte)) : Bool :=
  (List.range 64).all (fun (i : Nat) => data.any (fun d => decide (d.1 = i) && decide (d.2.2 = 0xFF)))

/-- Enabled bits merged into the bytes of a line, or of several. -/
def mergeLine (old : List Byte) (data : List (Nat × Byte × Byte)) : List Byte :=
  data.foldl (fun l d => setAt l d.1 (mergeByte (l.getD d.1 0) d.2.1 d.2.2)) old

/-- A full-line write of n lines of one granule served (R322): the error class. -/
def State.hbmServeFull (s : State) (a n src : Nat) (data : List (Nat × Byte × Byte)) : Nat × State :=
  let (e, s1) := s.hbmGate a src true
  if e ≠ 0 then (e, s1)
  else
    let bytes := mergeLine (List.replicate (64 * n) 0) data
    (0, ((List.range n).foldl (fun st i => st.hbmWriteLine (a + 64 * i) (slice bytes (64 * i) 64)) s1).pcCount (hbmPc a) F.HBM_PC_WR_LINES n)

/-- A narrow write served (R324): its line is read and corrected first, also where every bit is enabled; the error class. -/
def State.hbmServeNarrow (s : State) (a src : Nat) (data : List (Nat × Byte × Byte)) : Nat × State :=
  let (e, s1) := s.hbmGate a src true
  if e ≠ 0 then (e, s1)
  else
    let (old, e2, s2) := s1.hbmReadLine a src
    if e2 ≠ 0 then (e2, s2) else (0, (s2.hbmWriteLine a (mergeLine old data)).pcCount (hbmPc a) F.HBM_PC_WR_LINES 1)

/-- One element of an atomic add (R166): the sum, whether it saturated, whether it is not finite. -/
def atomElem (fmt old add : Nat) : Nat × Bool × Bool :=
  if fmt = 0 then
    let t := toSigned 32 old + toSigned 32 add
    if 2 ^ 31 - 1 < t then (2 ^ 31 - 1, true, false) else if t < -(2 ^ 31) then (2 ^ 31, true, false) else (ofSigned 32 t, false, false)
  else if fmt = 1 then
    let r := f32add (BitVec.ofNat 32 old) (BitVec.ofNat 32 add)
    (r.toNat, false, !f32isFinite r)
  else
    let r := fB16of32 (f32add (f32ofB16 old) (f32ofB16 add))
    (r, false, !f32isFinite (f32ofB16 r))

/-- The bytes of a line after an atomic add of its enabled elements, with whether one saturated or was not finite. -/
def atomLine (fmt : Nat) (old : List Byte) (data : List (Nat × Byte × Byte)) : List Byte × Bool × Bool :=
  let w := if fmt = 2 then 2 else 4
  (List.range (64 / w)).foldl (fun (acc : List Byte × Bool × Bool) i =>
    let o := w * i
    let bytes := (List.range w).map (fun (j : Nat) => data.find? (fun d => decide (d.1 = o + j)))
    if bytes.all (fun d => decide ((d.map (fun x => x.2.2)).getD 0 = 0xFF)) then
      let add := leNat (bytes.map (fun d => (d.map (fun x => x.2.1)).getD 0))
      let (r, sa, nf) := atomElem fmt (leAt acc.1 o w) add
      ((acc.1.take o) ++ leBytes w r ++ acc.1.drop (o + w), acc.2.1 || sa, acc.2.2 || nf)
    else acc) (old, false, false)

/-- An atomic add served at a pseudo-channel (R325): the error class. -/
def State.hbmServeAtomic (s : State) (a src fmt : Nat) (data : List (Nat × Byte × Byte)) : Nat × State :=
  let (e, s1) := s.hbmGate a src true
  if e ≠ 0 then (e, s1)
  else
    let (old, e2, s2) := s1.hbmReadLine a src
    if e2 ≠ 0 then (e2, s2)
    else
      let (new, sa, nf) := atomLine fmt old data
      let base := hbmBase (hbmPc a / 32)
      let s3 := (s2.hbmWriteLine a new).pcCount (hbmPc a) F.HBM_PC_ATOM_LINES 1
      let s4 := if sa then s3.flagF base F.HBM_STAT_ATOM_SAT else s3
      (0, if nf then s4.flagF base F.HBM_STAT_ATOM_NONFINITE else s4)

/-! ## Request queues (R320, R321) -/

/-- The queue of a pseudo-channel. -/
def State.pcQueue (s : State) (pc : Nat) : List HbmReq := SMap.get [] s.hbmQ pc
/-- The queue of a pseudo-channel replaced. -/
def State.setQueue (s : State) (pc : Nat) (q : List HbmReq) : State := { s with hbmQ := SMap.set [] s.hbmQ pc q }
/-- The controller of a pseudo-channel is in service. -/
def State.pcOn (s : State) (pc : Nat) : Bool := decide (pc < 64) && s.pdOn (36 + pc / 32)

/-- Requests of a Msg end outstanding at a pseudo-channel (R320): on their way, queued, or answered and on their way back. -/
def State.pcUsed (s : State) (src pc : Nat) : Nat :=
  (s.net.filter (fun m => decide ((m.src = src ∧ m.dst = 1024 + pc) ∨ (m.src = 1024 + pc ∧ m.dst = src)))).length
    + ((s.pcQueue pc).filter (fun r => decide (r.src = src))).length

/-- Request credits that a Msg end holds per pseudo-channel (R320). -/
def pcCredits (src : Nat) : Nat := if src < 256 then 2 else if src = 272 then 64 else 8

/-- The request that a message to a pseudo-channel makes (R319); a write is full-line or narrow by its TYPE. -/
def Msg.hbmReq (m : Msg) : Option HbmReq :=
  match m.body with
  | .read l n i => some ⟨m.src, l, n, 0, [], 0, i⟩
  | .write l narrow d i => some ⟨m.src, l, if narrow then 1 else dataLines d, if narrow then 2 else 1, d, 0, i⟩
  | .atomic l d f _ i => some ⟨m.src, l, 1, 3, d, f, i⟩
  | _ => none

/-- A request enters a pseudo-channel's queue, which QPEAK follows. -/
def State.enqueue (s : State) (pc : Nat) (r : HbmReq) : State :=
  let q := s.pcQueue pc ++ [r]
  let s1 := s.setQueue pc q
  let base := hbmBase (pc / 32)
  let f := F.HBM_PC_QPEAK_ENTRIES.idx (0x10 * (pc % 32))
  s1.setF base f (max (s1.getF base f) q.length)

/-- HBM_REQUEST (R319, R320): a request on its way to a pseudo-channel enters its queue of 704. -/
def hbmEnqueue (s : State) (k : Nat) : State :=
  match s.msgAt k with
  | some m =>
    if 1024 ≤ m.dst ∧ m.dst < 1088 ∧ s.pcOn (m.dst - 1024) = true then
      match m.hbmReq with
      | some r => if 704 ≤ (s.pcQueue (m.dst - 1024)).length then s else (s.dropMsg k).enqueue (m.dst - 1024) r
      | none => s
    else s
  | none => s

/-- Two requests concern a common line. -/
def HbmReq.meets (x y : HbmReq) : Bool := decide (x.line < y.line + 64 * y.lines) && decide (y.line < x.line + 64 * x.lines)

/-- Entry k of a queue, if no earlier entry concerns a line of it (R321). -/
def State.reqAt (s : State) (pc k : Nat) : Option HbmReq :=
  match (s.pcQueue pc)[k]? with
  | some r => if ((s.pcQueue pc).take k).any (fun x => x.meets r) then none else some r
  | none => none

/-- Entry k leaves its queue. -/
def State.dequeue (s : State) (pc k : Nat) : State := s.setQueue pc (dropAt (s.pcQueue pc) k)

/-- A scrub step served (R329): words that the read corrects are counted; the line is written back unless one of its words is uncorrectable,
which is recorded and postmarked. The scrub reads as no endpoint, so that SRC is left open. -/
def State.scrubServe (s : State) (pc a : Nat) : State :=
  let base := hbmBase (pc / 32)
  let (l, s1) := s.eccLine s.flips.hbm (a / 8) (s.hbmRd a 64)
  let s2 := if lineCe l then (s1.addF base F.HBM_CE_CNT_COUNT 1).tally (48 + pc / 32) 1 else s1
  if lineUe l then
    let (x, t) := s2.takeFree
    (t.hbmErr a 0 (x % 512)).chipEvent 1 (unitChip (3 + pc / 32)) 0x62
  else if lineCe l then s2.hbmWriteLine a (lineBytes l) else s2

/-- The pseudo-channel's scrub goes on to its next line; HBM_SCRUB_POS counts the passes of the stack's first pseudo-channel. -/
def State.scrubNext (s : State) (pc : Nat) : State :=
  let base := hbmBase (pc / 32)
  let next := (SMap.get 0 s.hbmPos pc + 1) % hbmLines
  let s1 := { s with hbmPos := SMap.set 0 s.hbmPos pc next }
  if next = 0 ∧ pc % 32 = 0 then s1.setF base F.HBM_SCRUB_POS_PASSES (s1.getF base F.HBM_SCRUB_POS_PASSES + 1) else s1

/-- What a request that is served answers, and the state after it (R318, R321 to R325, R328 to R330); a scrub step has no answer. -/
def State.hbmServe (s : State) (pc : Nat) (r : HbmReq) : Option Body × State :=
  if r.kind = 0 then
    let (d, e, t) := s.hbmServeRead r.line r.lines r.src
    (some (.readRsp (keyHbm r.line) d e r.iss), t)
  else if r.kind = 1 then
    let (e, t) := s.hbmServeFull r.line r.lines r.src r.data
    (some (.ack e r.iss), t)
  else if r.kind = 2 then
    let (e, t) := s.hbmServeNarrow r.line r.src r.data
    (some (.ack e r.iss), t)
  else if r.kind = 3 then
    let (e, t) := s.hbmServeAtomic r.line r.src r.fmt r.data
    (some (.ack e r.iss), t)
  else (none, (s.scrubServe pc r.line).scrubNext pc)

/-- A field of collective entry t. -/
def State.coll (s : State) (t : Nat) (f : Fld) : Nat := s.getF curShBase (f.idx (0x20 * t))
def State.collStage (s : State) (t : Nat) : Nat := s.coll t F.CUR_COLL_STAGE_LO_ADDR + 2 ^ 32 * s.coll t F.CUR_COLL_STAGE_HI_ADDR
def State.collResult (s : State) (t : Nat) : Nat := s.coll t F.CUR_COLL_RESULT_LO_ADDR + 2 ^ 32 * s.coll t F.CUR_COLL_RESULT_HI_ADDR
/-- Entry t is in use. -/
def State.collValid (s : State) (t : Nat) : Bool := decide (s.coll t F.CUR_COLL_CFG_VALID = 1)
/-- A line counts toward chunk j of collective entry t (R356). -/
def State.collBump (s : State) (t j : Nat) : State :=
  let key := 2 ^ 20 * t + j
  { s with cour := { s.cour with collCnt := SMap.set 0 s.cour.collCnt key (SMap.get 0 s.cour.collCnt key + 1) } }

/-- An atomic add that a block applied to a line counts where the line lies in the stage area of a collective (R356). -/
def State.collNote (s : State) (a : Nat) : State :=
  (List.range 64).foldl (fun st t =>
    let st0 := st.collStage t
    if st.collValid t = true ∧ st0 ≤ a ∧ a < st0 + 64 * st.coll t F.CUR_COLL_LINES_LINES then st.collBump t ((a - st0) / 4096) else st) s

/-- A request that has left its queue is served and answered. -/
def State.hbmAnswer (s : State) (pc : Nat) (r : HbmReq) : State :=
  match s.hbmServe pc r with
  | (some b, t) =>
    let t1 := t.send (1024 + pc) r.src 256 b
    if r.kind = 3 ∧ r.src < 256 ∧ b = .ack 0 r.iss then t1.collNote r.line else t1
  | (none, t) => t

/-! ## The chip hub's requests (R319 to R321; log entry 15) -/

/-- A request of the hub takes its place in the pseudo-channel's queue behind those that wait, which are served ahead of it. -/
def State.hubTurn (s : State) (a : Nat) : State :=
  let pc := hbmPc a
  let q := s.pcQueue pc
  let base := hbmBase (pc / 32)
  let f := F.HBM_PC_QPEAK_ENTRIES.idx (0x10 * (pc % 32))
  q.foldl (fun st r => st.hbmAnswer pc r) ((s.setF base f (max (s.getF base f) (min 704 (q.length + 1)))).setQueue pc [])

/-- A request of the hub for the line at a, of `out` flits, and its answer, of `back` flits, cross the mesh; none where an isolated link has no way for
one of them, and the hub's request ends with POISON (R316). -/
def State.hubCross (s : State) (a out back : Nat) : Option State :=
  let e := 1024 + hbmPc a
  if s.cutRoute 272 e || s.cutRoute e 272 then none else some ((s.countFlits (meshPath 272 e) out).countFlits (meshPath e 272) back)

/-- The hub reads a line. -/
def State.hubFetch (s : State) (a : Nat) : List Byte × Nat × State :=
  match s.hubCross a 1 2 with
  | some t => (t.hubTurn a).hbmServeRead a 1 272
  | none => (List.replicate 64 0, 0x69, s)

/-- The hub writes a line, full-line where every bit is enabled, else as a narrow write. -/
def State.hubLine (s : State) (a : Nat) (data : List (Nat × Byte × Byte)) : Nat × State :=
  match s.hubCross a 2 1 with
  | some t => if fullLine data then (t.hubTurn a).hbmServeFull a 1 272 data else (t.hubTurn a).hbmServeNarrow a 272 data
  | none => (0x69, s)

/-- The hub adds to a line. -/
def State.hubAtomic (s : State) (a fmt : Nat) (data : List (Nat × Byte × Byte)) : Nat × State :=
  match s.hubCross a 2 1 with
  | some t => (t.hubTurn a).hbmServeAtomic a 272 fmt data
  | none => (0x69, s)

/-- HBM_READ_SERVICE, HBM_WRITE_SERVICE and HBM_NARROW_WRITE (R318, R321 to R324): entry k, if it is of this kind. -/
def hbmSvc (s : State) (pc k kind : Nat) : State :=
  match s.reqAt pc k with
  | some r => if s.pcOn pc = true ∧ r.kind = kind then (s.dequeue pc k).hbmAnswer pc r else s
  | none => s

/-- HBM_SCRUB_STEP (R329): the step for the pseudo-channel's next line enters the request queue, unless one waits there or it is full, and is
served as soon as no earlier entry concerns its line (log entry 83). With SCRUB_EN at 0 no further step enters; one that waits is served. -/
def hbmScrub (s : State) (pc : Nat) : State :=
  if s.pcOn pc then
    let waits := (s.pcQueue pc).any (fun r => decide (r.kind = 4))
    let s1 := if waits || decide (704 ≤ (s.pcQueue pc).length) || !s.isF (hbmBase (pc / 32)) F.HBM_CTL_SCRUB_EN then s
      else s.enqueue pc ⟨0, hbmAddr pc (64 * SMap.get 0 s.hbmPos pc), 1, 4, [], 0, 0⟩
    match (s1.pcQueue pc).findIdx? (fun r => decide (r.kind = 4)) with
    | some k =>
      match s1.reqAt pc k with
      | some r => (s1.dequeue pc k).hbmAnswer pc r
      | none => s1
    | none => s1
  else s

/-- HBM_TEMPERATURE_READ (R327): temperature, doubled refresh above 85 °C, HBM_HOT at the limit. -/
def hbmTempRead (s : State) (st : Nat) (temp : Int) : State :=
  let base := hbmBase st
  if decide (st < 2) && s.pdOn (36 + st) then
    let s1 := (s.setF base F.HBM_TEMP_TEMP (ofSigned 8 temp)).setF base F.HBM_TEMP_DOUBLE (b2n (decide (85 < temp)))
    if toSigned 8 (s1.getF base F.HBM_TEMP_HOT_LIMIT) ≤ temp then
      (s1.flagF base F.HBM_STAT_HOT).chipEvent 3 (unitChip (3 + st)) 0x67
    else s1
  else s

/-! ## Mesh links (R312, R316) -/

/-- Router port p of block b is isolated in its register (R316). -/
def State.isolate1 (s : State) (b p : Nat) : State :=
  let f := F.RGN_RTR_ERR_ISOLATED.idx (0x40 * (b % 16))
  s.setF (rgnBase (b / 16)) f (s.getF (rgnBase (b / 16)) f ||| 2 ^ p)

/-- The link at router port p of block b isolated in both directions, with NOC_ISOLATE (R316). -/
def State.isolateLink (s : State) (b p : Nat) : State :=
  let s1 := s.isolate1 b p
  let s2 := (match meshNbr b p with
    | some (q, pq) => s1.isolate1 q pq
    | none => s1).cutNet
  s2.raiseRegion (b / 16) (s2.faultId 2 (unitBlk b) 0x69) none

/-- FLIT_CRC_MISMATCH (R316): the router at block r.b asks for a replay on input p. A third failure in a row on one flit isolates the link;
the attempts in a row are counted until a message arrives through the input. -/
def flitMismatch (s : State) (r b p : Nat) : State :=
  let base := rgnBase r
  let key := (16 * r + b) * 8 + p
  let n := SMap.get 0 s.mesh.tries key + 1
  let s1 := s.addF base (F.RGN_RTR_ERR_REPLAYS.idx (0x40 * b)) 1
  let s2 := { s1 with mesh := { s1.mesh with tries := SMap.set 0 s1.mesh.tries key (n % 3) } }
  if n = 3 then s2.isolateLink (16 * r + b) p else s2

/-- The meaning of HBM_REQUEST. -/
def execHbmRequest (k : Nat) (s : State) : Host.Outcome State Fault Refusal := .next (hbmEnqueue s k)
/-- The meaning of HBM_READ_SERVICE. -/
def execHbmReadService (pc k : Nat) (s : State) : Host.Outcome State Fault Refusal := .next (hbmSvc s pc k 0)
/-- The meaning of HBM_WRITE_SERVICE. -/
def execHbmWriteService (pc k : Nat) (s : State) : Host.Outcome State Fault Refusal := .next (hbmSvc s pc k 1)
/-- The meaning of HBM_NARROW_WRITE. -/
def execHbmNarrowWrite (pc k : Nat) (s : State) : Host.Outcome State Fault Refusal := .next (hbmSvc s pc k 2)
/-- The meaning of HBM_SCRUB_STEP. -/
def execHbmScrubStep (pc : Nat) (s : State) : Host.Outcome State Fault Refusal := .next (hbmScrub s pc)
/-- The meaning of HBM_REFRESH (R327): refresh changes when requests complete, never what they return. -/
def execHbmRefresh (_pc _bank : Nat) (s : State) : Host.Outcome State Fault Refusal := .next s
/-- The meaning of HBM_TEMPERATURE_READ. -/
def execHbmTemperatureRead (st : Nat) (temp : Int) (s : State) : Host.Outcome State Fault Refusal := .next (hbmTempRead s st temp)
/-- The meaning of FLIT_CRC_MISMATCH. -/
def execFlitCrcMismatch (r b p : Nat) (s : State) : Host.Outcome State Fault Refusal :=
  .next (if r < 16 ∧ b < 16 ∧ p < 5 ∧ s.pdOn 3 = true then flitMismatch s r b p else s)

end Sys2Proof.Machine
end

