-- ==== Sys2Proof/Machine/Courier.lean ====
section
/-! DEFINITION. Courier (R335 to R362): training, flits, credits, retry, messages, routing, collectives, timeouts. -/

namespace Sys2Proof.Machine

/-! ## Ports -/

/-- What stands behind port p's registers. -/
def State.port (s : State) (p : Nat) : Port := SMap.get Port.init s.cour.ports p
/-- What stands behind port p's registers, replaced. -/
def State.setPort (s : State) (p : Nat) (x : Port) : State :=
  { s with cour := { s.cour with ports := SMap.set Port.init s.cour.ports p x } }
/-- Port p is in state st of its training, in a domain that is on. -/
def State.portIs (s : State) (p st : Nat) : Bool := s.portOn p && decide (s.portSt p = st)
/-- The features agreed on port p. -/
def State.agreedFeat (s : State) (p : Nat) : Nat :=
  s.getF (curBase p) F.CUR_FEAT_LO_FEAT + 2 ^ 32 * s.getF (curBase p) F.CUR_FEAT_HI_FEAT
/-- A port with nothing of an earlier link left. -/
def Port.fresh (x : Port) : Port := { Port.init with beacons := x.beacons }

/-- Port p enters a training state (1 to 4), nothing of an earlier link left. -/
def State.portTo (s : State) (p st : Nat) : State :=
  let t := s.setF (curBase p) F.CUR_STAT_STATE st
  if st = 1 then t.setPort p (s.port p).fresh else t

/-- Port p enters FAILED (R351): CUR_TRAIN_FAIL. -/
def State.portFail (s : State) (p : Nat) : State :=
  let s1 := (s.setF (curBase p) F.CUR_STAT_STATE 6).flagF (curBase p) F.CUR_STAT_TRAIN_FAIL
  s1.chipEvent 3 (unitPort p) 0x84

/-- An active port goes down (R355): it retrains, or is FAILED; with EN cleared it is DISABLED (Table 12.7). -/
def State.linkDown (s : State) (p : Nat) : State :=
  let base := curBase p
  let s2 := (((s.inboxLeft p).flagF base F.CUR_STAT_DOWN).setF base F.CUR_STAT_DEGRADED 0).setPort p (s.port p).fresh
  let s3 := (s2.chipEvent 3 (unitPort p) 0x83).postEvent 0x8 0 p true
  if !s3.isF base F.CUR_CTL_EN then s3.setF base F.CUR_STAT_STATE 0
  else if s3.isF base F.CUR_CTL_AUTO_RETRAIN then s3.portTo p 1 else s3.portFail p

/-- LANE_SIGNAL (R351). -/
def execLaneSignal (p lane : Nat) (s : State) : Host.Outcome State Fault Refusal :=
  .next (if lane < 8 ∧ s.portIs p 1 = true then s.portTo p 2 else s)

/-- EQUALIZE_COMPLETE (R351). -/
def execEqualizeComplete (p : Nat) (s : State) : Host.Outcome State Fault Refusal :=
  .next (if s.portIs p 2 then s.portTo p 3 else s)

/-- The LANES byte of a direction whose receiver found these logical lanes good (R339): 8, 4, 4 with bit 7, or none. -/
def laneChoice (good : Nat) : Option Nat :=
  if good % 256 = 255 then some 8 else if good % 16 = 15 then some 4 else if good / 16 % 16 = 15 then some 0x84 else none

/-- LANE_DEGRADE is offered: the feature and the version that defines it. -/
def State.degradeOffered (s : State) (p : Nat) : Bool :=
  (s.getF (curBase p) F.CUR_FEAT_EN_LO_FEAT).testBit 6 && (s.getF (curBase p) F.CUR_CTL_VERS_EN).testBit 2

/-- The training frame that port p sends (Table 12.8): TS1 with what it offers, TS2 once there is an agreement. -/
def State.ownTs (s : State) (p : Nat) : Ts :=
  let base := curBase p
  let x := s.port p
  let v := match x.agreed with
    | some a => if a.1 = 0 then 0x10 else if a.1 = 1 then 0x11 else 0x20
    | none => s.getF base F.CUR_CTL_VERS_EN
  let feat := match x.agreed with
    | some a => a.2
    | none => s.getF base F.CUR_FEAT_EN_LO_FEAT % 128
  ⟨v, s.ownCoord, p, s.getF nimBase F.NIM_TAG_TAG, x.txLanes, feat, 0, x.bufs⟩

/-- Port p sends its training frame. A port sends one for each that it receives (log entry 84). -/
def State.sendTs (s : State) (p : Nat) : State :=
  let x := s.port p
  let b := tsBytes (s.ownTs p)
  s.setPort p (if x.agreed.isSome then { x.sendControl 2 b with sent2 := x.sent2 + 1 } else x.sendControl 1 b)

/-- Port p enters NEGOTIATE: the settings of CUR_CTL and CUR_VCv_BUF take effect (R361; log entry 23), and TS1 is sent. -/
def State.portNegotiate (s : State) (p rx tx : Nat) : State :=
  let base := curBase p
  ((s.setF base F.CUR_STAT_STATE 4).setPort p
    { (s.port p).fresh with
        goodRx := rx, txLanes := tx, axis := s.getF base F.CUR_CTL_AXIS, dateline := s.isF base F.CUR_CTL_DATELINE,
        bufs := (List.range 8).map (fun (v : Nat) => s.getF base (F.CUR_VC_BUF_FLITS.idx (4 * v))) }).sendTs p

/-- What a lane carries (R338, R339): nothing, the training pattern with the logical lanes found good at the own receiver, which is repeated on every
lane, or its share of the flit stream. -/
inductive LaneOut where
  | silent
  | pattern (good : Nat)
  | stream
deriving DecidableEq, Repr

/-- Lane l of port p sends: the pattern on every lane in ALIGN; from NEGOTIATE on the stream, and the pattern on the lanes that a direction on four lanes
leaves unused. -/
def State.laneOut (s : State) (p l : Nat) : LaneOut :=
  let x := s.port p
  let used := decide (x.txLanes = 8) || (decide (x.txLanes = 4) && decide (l < 4)) || (decide (x.txLanes = 0x84) && decide (4 ≤ l))
  if !s.portOn p || decide (8 ≤ l) then .silent
  else if s.portSt p = 3 then .pattern x.goodRx
  else if s.portSt p = 4 ∨ s.portSt p = 5 then (if used then .stream else .pattern x.goodRx)
  else .silent

/-- ALIGN_COMPLETE (R339, R351): `lanes` holds the good physical lanes in [7:0], the logical lanes good at the own receiver in [15:8] and
those that the peer's training pattern reports good in [23:16]. A lane that failed its self-test reads as bad and is left out (R565), and no more
logical lanes are good than lanes. The own training pattern reports the good logical lanes. -/
def alignDone (s : State) (p lanes : Nat) : State :=
  if s.portIs p 3 then
    let good := (lanes % 256) &&& (255 ^^^ (SMap.get 0 s.bist.lanes p))
    let rx := if popcount 8 (bits lanes 8 8) ≤ popcount 8 good then bits lanes 8 8 else 0
    let s1 := (s.setF (curBase p) F.CUR_STAT_LANES_GOOD (lanes % 256)).setPort p { s.port p with goodRx := rx }
    match laneChoice rx, laneChoice (bits lanes 16 8) with
    | some rxw, some tx => if (rxw = 8 ∧ tx = 8) ∨ s.degradeOffered p = true then s1.portNegotiate p rx tx else s1.portFail p
    | _, _ => s1.portFail p
  else s

/-- The meaning of ALIGN_COMPLETE. -/
def execAlignComplete (p lanes : Nat) (s : State) : Host.Outcome State Fault Refusal := .next (alignDone s p lanes)

/-- A negotiation attempt fails; after the third the port is FAILED (Table 12.7). -/
def State.attemptFail (s : State) (p : Nat) : State :=
  let x := s.port p
  if 2 ≤ x.attempt then s.portFail p
  else s.setPort p { x with attempt := x.attempt + 1, ts1n := 0, ts1 := none, ts2n := 0, ts2 := none, agreed := none, sent2 := 0 }

/-- The highest version of a mask (Table 12.8), as 0 for 1.0, 1 for 1.1, 2 for 2.0. -/
def topVersion (m : Nat) : Option Nat :=
  if m.testBit 2 then some 2 else if m.testBit 1 then some 1 else if m.testBit 0 then some 0 else none

/-- Features defined for a version (Table 12.9). -/
def versionFeatures (v : Nat) : Nat := if v = 0 then 0x7 else if v = 1 then 0x3F else 0x7F

/-- Eight identical TS1 frames are in (R352): version and features. -/
def State.agree (s : State) (p : Nat) (f : Ts) : State :=
  let base := curBase p
  let s1 := (((s.setF base F.CUR_PEER_COORD f.coord).setF base F.CUR_PEER_PORT f.port).setF base
    F.CUR_PEER_TAG f.tag).setF base F.CUR_PEER_VERS (f.vers % 8)
  match topVersion (f.vers % 8 &&& s.getF base F.CUR_CTL_VERS_EN) with
  | none => s1.attemptFail p
  | some v =>
    let own := s.getF base F.CUR_FEAT_EN_LO_FEAT
    let feat := own &&& f.featLo &&& versionFeatures v
    let narrow := (s.port p).txLanes ≠ 8 ∨ f.lanes % 16 = 4
    if narrow ∧ feat.testBit 6 = false then s1.attemptFail p
    else
      let s2 := ((s1.setF base F.CUR_FEAT_LO_FEAT feat).setF base F.CUR_FEAT_HI_FEAT 0).setF base F.CUR_STAT_VER v
      s2.setPort p { s2.port p with agreed := some (v, feat) }

/-! ## Credits and acknowledgements (R341 to R343) -/

/-- New flits sent while credits and the replay buffer allow (R342, R343); a channel without credit holds its own flits back only. A flit waits as
(bits [4:0] of its link header, DATA). -/
def pumpPort (x : Port) : List (Nat × List Byte) → List Nat → Port × List (Nat × List Byte) × Nat
  | [], _ => (x, [], 0)
  | (c, d) :: r, blocked =>
    let v := c % 8
    let ok := decide ((x.sent.getD v 0 + 4096 - x.ccount.getD v 0) % 4096 < x.peerBufs.getD v 0) && decide (x.replay.length < 512)
    if ok && !decide (v ∈ blocked) then
      let y := { x.sendFlit c 1 x.txSeq d with
          sent := setAt x.sent v ((x.sent.getD v 0 + 1) % 4096), replay := x.replay ++ [⟨x.txSeq, c, d⟩],
          txSeq := (x.txSeq + 1) % 4096 }
      let (z, q, n) := pumpPort y r blocked
      (z, q, n + 1)
    else
      let (z, q, n) := pumpPort x r (v :: blocked)
      (z, (c, d) :: q, n)

/-- Port p sends what it can of its transmit queue. -/
def State.pump (s : State) (p : Nat) : State :=
  let x := s.port p
  let (y, q, n) := pumpPort x x.txq []
  (s.setPort p { y with txq := q }).addF (curBase p) F.CUR_TX_FLITS_COUNT n

/-- The flits after the one whose SEQ is acknowledged; none where ACK covers nothing new. -/
def ackReplay (l : List SentFlit) (ack : Nat) : Option (List SentFlit) :=
  match l.findIdx? (fun e => decide (e.seq = ack)) with
  | some i => some (l.drop (i + 1))
  | none => none

/-- What every good flit delivers (R341): ACK, and CCOUNT for CVC. -/
def State.flitTake (s : State) (p : Nat) (f : Flit) : State :=
  let x := s.port p
  let y := match ackReplay x.replay (flitAck f) with
    | some l => { x with replay := l, acked := flitAck f, stalls := 0 }
    | none => x
  s.setPort p { y with ccount := setAt y.ccount (flitCvc f) (flitCcount f) }

/-- A good flit is taken, and new flits go out where it lets them. -/
def State.flitBack (s : State) (p : Nat) (f : Flit) : State := (s.flitTake p f).pump p

/-- The codeword that ends in a received flit (R338): counted, its corrected symbols with it, or as uncorrectable. -/
def State.flitFec (s : State) (p : Nat) (f : Flit) : State :=
  let base := curBase p
  match f.cw with
  | none => s
  | some n =>
    let s1 := s.addF base F.CUR_FEC_CW_COUNT 1
    if cwLost n then (s1.addF base F.CUR_FEC_UNCORR_COUNT 1).tally 57 1
    else (s1.addF base F.CUR_FEC_CORR_COUNT n).tally (32 + p) n

/-- A bad flit is counted in the port's state. -/
def State.noteBad (s : State) (p : Nat) : State := s.setPort p { s.port p with bad := (s.port p).bad + 1 }

/-- A control frame of type `ty` (R341): a bad one, and one of another type, is discarded; a good one delivers ACK and CCOUNT, and new flits follow what
it asks for (R343). -/
def State.frameIn (s : State) (p : Nat) (f : Flit) (ty : Nat) (act : State → State) : State :=
  let s1 := s.flitFec p f
  if flitBad f then s1.noteBad p
  else if flitKind f = 2 ∧ flitCtype f = ty then (act (s1.flitTake p f)).pump p else s1

/-- A flit that port p receives in state st, in which it is served; one that arrives in the other state of the two that carry the stream is discarded, its
codeword counted all the same (R338, R339). -/
def State.flitAt (s : State) (p st : Nat) (f : Flit) (act : State → State) : State :=
  if s.portIs p st then act s
  else if s.portIs p (9 - st) then (let s1 := s.flitFec p f; if flitBad f then s1.noteBad p else s1)
  else s

/-! ## Training frames (R352) -/

/-- A good TS1: the eighth of consecutive identical frames makes the agreement. -/
def State.takeTs1 (s : State) (p : Nat) (f : Ts) : State :=
  let x := s.port p
  let n := if x.ts1 = some f then x.ts1n + 1 else 1
  let s1 := s.setPort p { x with ts1 := some f, ts1n := n, ts2n := 0, ts2 := none }
  (if n = 8 ∧ x.agreed = none then s1.agree p f else s1).sendTs p

/-- TS1 at a port that negotiates. -/
def ts1In (s : State) (p : Nat) (f : Flit) : State :=
  s.flitAt p 4 f (fun u => u.frameIn p f 1 (fun t => t.takeTs1 p (tsOf f)))

/-- The meaning of TS1. -/
def execTs1 (p : Nat) (f : Flit) (s : State) : Host.Outcome State Fault Refusal := .next (ts1In s p f)

/-- The port is ACTIVE (R352): counts restart; on 4 lanes it is degraded. -/
def State.portUp (s : State) (p : Nat) (f : Ts) : State :=
  let base := curBase p
  let x := s.port p
  let narrow := decide (x.txLanes ≠ 8 ∨ f.lanes % 16 = 4)
  let s1 := ((s.setF base F.CUR_STAT_STATE 5).setF base F.CUR_STAT_DEGRADED (b2n narrow)).setPort p
    { x.fresh with
        agreed := x.agreed, goodRx := x.goodRx, txLanes := x.txLanes, axis := x.axis, dateline := x.dateline, bufs := x.bufs,
        peerBufs := f.bufs, txBits := x.txBits, txLen := x.txLen, txCw := x.txCw, wire := x.wire }
  if narrow then s1.chipEvent 3 (unitPort p) 0x88 else s1

/-- A good TS2: eight consecutive ones equal to the own agreement, and as many sent, make the port ACTIVE; one that differs ends the attempt. -/
def State.takeTs2 (s : State) (p : Nat) (f : Ts) : State :=
  let x := s.port p
  match x.agreed with
  | none => (s.setPort p { x with ts1n := 0, ts1 := none }).sendTs p
  | some (_, feat) =>
    if f.vers = (s.ownTs p).vers ∧ f.featLo = feat ∧ f.featHi = 0 then
      if 8 ≤ x.ts2n + 1 ∧ 8 ≤ x.sent2 then s.portUp p f
      else (s.setPort p { x with ts2 := some f, ts2n := x.ts2n + 1, ts1n := 0, ts1 := none }).sendTs p
    else s.attemptFail p

/-- TS2 at a port that negotiates. -/
def ts2In (s : State) (p : Nat) (f : Flit) : State :=
  s.flitAt p 4 f (fun u => u.frameIn p f 2 (fun t => t.takeTs2 p (tsOf f)))

/-- The meaning of TS2. -/
def execTs2 (p : Nat) (f : Flit) (s : State) : Host.Outcome State Fault Refusal := .next (ts2In s p f)

/-- NEGOTIATE_TIMEOUT (R352). -/
def execNegotiateTimeout (p : Nat) (s : State) : Host.Outcome State Fault Refusal :=
  .next (if s.portIs p 4 then s.attemptFail p else s)

/-- LOCK_LOSS (R355). -/
def execLockLoss (p : Nat) (s : State) : Host.Outcome State Fault Refusal :=
  .next (if s.portActive p then s.linkDown p else s)

/-- A write of TRAIN (R351). -/
def trainWrite (s : State) (p : Nat) : State := if s.portOn p ∧ s.portSt p = 6 then s.portTo p 1 else s

/-- EN written 0 (R351, R355). -/
def enClear (s : State) (p : Nat) : State :=
  if s.portOn p then
    let s1 := s.setF (curBase p) F.CUR_CTL_EN 0
    if s.portSt p = 5 then s1.linkDown p
    else (s1.setPort p (s.port p).fresh).setF (curBase p) F.CUR_STAT_STATE 0
  else s

/-- EN written 1 (R351). -/
def enSet (s : State) (p : Nat) : State :=
  if s.portOn p then
    let s1 := s.setF (curBase p) F.CUR_CTL_EN 1
    if s.portSt p = 0 then s1.portTo p 1 else s1
  else s

/-- The meaning of CUR_CTL_TRAIN. -/
def execCurCtlTrain (p : Nat) (s : State) : Host.Outcome State Fault Refusal := .next (trainWrite s p)
/-- The meaning of CUR_CTL_EN_CLEAR. -/
def execCurCtlEnClear (p : Nat) (s : State) : Host.Outcome State Fault Refusal := .next (enClear s p)
/-- The meaning of CUR_CTL_EN_SET. -/
def execCurCtlEnSet (p : Nat) (s : State) : Host.Outcome State Fault Refusal := .next (enSet s p)

/-! ## Messages and flits (R340 to R344) -/

/-- Lines of 64 bytes that a message carries: a narrow write's bit mask goes ahead of its line, a Nimbus header line ahead of its data
lines (R344, R457; log entry 33). -/
def CMsg.allLines (m : CMsg) : Nat := m.lines + (if m.mtype = 2 ∨ m.mtype = 7 then 1 else 0)

/-- Flits of a message: ceil((32 + 64 n) / 240). -/
def CMsg.flits (m : CMsg) : Nat := ceilDiv (32 + 64 * m.allLines) 240

/-- The class of a message type (Table 12.5): 0 request, 1 write, 2 response, 3 control. -/
def mtypeClass (t : Nat) : Nat := if t = 0 then 0 else if t ≤ 3 ∨ t = 9 ∨ t = 10 then 1 else if t ≤ 6 then 2 else 3

/-- The virtual channel of a message: the pair of its class, the upper one with DLINE (R345). -/
def CMsg.vc (m : CMsg) : Nat := 2 * mtypeClass m.mtype + m.flags % 2

/-- The bytes of a message (Table 12.4). -/
def CMsg.bytes (m : CMsg) : List Byte :=
  leBytes 2 m.dst ++ leBytes 2 m.src ++ leBytes 2 m.dstEp ++ leBytes 2 m.srcEp ++ leBytes 1 m.mtype ++ leBytes 1 m.flags
    ++ leBytes 2 m.lines ++ leBytes 2 m.tag ++ leBytes 1 m.attr ++ leBytes 1 m.tree ++ leBytes 8 m.addr ++ leBytes 8 0
    ++ padTo (64 * m.allLines) m.data

/-- A message read from its bytes. -/
def cmsgOf (l : List Byte) : CMsg :=
  let m : CMsg := ⟨leAt l 0 2 % 4096, leAt l 2 2 % 4096, leAt l 4 2 % 512, leAt l 6 2 % 512, leAt l 8 1, leAt l 9 1, leAt l 10 2, leAt l 12 2,
    leAt l 14 1, leAt l 15 1, leAt l 16 8, []⟩
  { m with data := padTo (64 * m.allLines) (l.drop 32) }

/-- The flits of a message's bytes as (bits [4:0] of the link header, DATA), n of them on channel v, the first being flit i. -/
def cutFlits (v i : Nat) (l : List Byte) : Nat → List (Nat × List Byte)
  | 0 => []
  | n + 1 => (v + 8 * b2n (decide (i = 0)) + 16 * b2n (decide (n = 0)), padTo 240 l) :: cutFlits v (i + 1) (l.drop 240) n

/-- A message accepted into the transmit queue of port p. -/
def State.txMsg (s : State) (p : Nat) (m : CMsg) : State :=
  let x := s.port p
  (s.setPort p { x with txq := x.txq ++ cutFlits m.vc 0 m.bytes m.flits }).pump p

/-- Flits of a message freed at the port it arrived on (R342). -/
def State.freeFlits (s : State) (p : Nat) (m : CMsg) : State :=
  if p < 16 then
    let x := s.port p
    s.setPort p { x with freed := setAt x.freed m.vc ((x.freed.getD m.vc 0 + m.flits) % 4096) }
  else s

/-- IDLE_FLIT (R341, R342): a bad one is discarded. A port with nothing to send answers with an idle flit (log entry 84). -/
def idleIn (s : State) (p : Nat) (f : Flit) : State :=
  let s1 := s.flitFec p f
  if flitBad f then s1.noteBad p
  else if flitKind f = 0 then
    let s2 := s1.flitBack p f
    if (s2.port p).txq.isEmpty then s2.setPort p (s2.port p).sendIdle else s2
  else s1

/-- The meaning of IDLE_FLIT. -/
def execIdleFlit (p : Nat) (f : Flit) (s : State) : Host.Outcome State Fault Refusal :=
  .next (s.flitAt p 5 f (fun t => idleIn t p f))

/-- A RETRY frame with the expected SEQ (R341, R343). -/
def Port.sendRetry (x : Port) : Port := { x.sendControl 3 (leBytes 2 x.rxNext) with retries := x.retries + 1 }

/-- A refused message flit: at the first refusal one RETRY frame is sent (R343). -/
def State.flitRefuse (s : State) (p : Nat) : State :=
  let x := s.port p
  if x.refused then s else s.setPort p { x.sendRetry with refused := true }

/-- An accepted message flit: its bytes, from HEAD to TAIL, join the message under way on its channel; a whole message waits for its routing
(R344). -/
def State.flitAccept (s : State) (p : Nat) (f : Flit) : State :=
  let x := s.port p
  let v := flitVc f
  let bytes := (if flitHead f then [] else SMap.get [] x.part v) ++ flitData f
  let s1 := (s.setPort p { x with
      rxNext := (x.rxNext + 1) % 4096, refused := false, part := SMap.set [] x.part v (if flitTail f then [] else bytes) }).addF
    (curBase p) F.CUR_RX_FLITS_COUNT 1
  if flitTail f then { s1 with cour := { s1.cour with inbox := s1.cour.inbox ++ [(p, cmsgOf bytes)] } } else s1

/-- MESSAGE_FLIT (R343). -/
def flitIn (s : State) (p : Nat) (f : Flit) : State :=
  let s1 := s.flitFec p f
  if flitBad f then (s1.noteBad p).flitRefuse p
  else if flitKind f = 1 then
    let s2 := s1.flitBack p f
    if flitSeq f = (s2.port p).rxNext then s2.flitAccept p f else s2.flitRefuse p
  else s1

/-- The meaning of MESSAGE_FLIT. -/
def execMessageFlit (p : Nat) (f : Flit) (s : State) : Host.Outcome State Fault Refusal :=
  .next (s.flitAt p 5 f (fun t => flitIn t p f))

/-- A replay of the flits from index i of the replay buffer (R343): the eighth without progress takes the link down. -/
def State.replayFrom (s : State) (p i : Nat) (timeout : Bool) : State :=
  let x := s.port p
  let base := curBase p
  let s1 := ((s.addF base F.CUR_RETRY_REPLAYS 1).addF base F.CUR_TX_FLITS_COUNT (x.replay.length - i)).tally 56 1
  let s2 := if timeout then s1.addF base F.CUR_RETRY_TIMEOUTS 1 else s1
  if 8 ≤ x.stalls + 1 then s2.linkDown p
  else s2.setPort p { (x.replay.drop i).foldl (fun (y : Port) e => y.sendFlit e.ctl 1 e.seq e.payload) x with stalls := x.stalls + 1 }

/-- RETRY (R343): flits are sent again from the named SEQ; one that names no flit held repeats nothing. -/
def retryIn (s : State) (p seq : Nat) : State :=
  match (s.port p).replay.findIdx? (fun e => decide (e.seq = seq)) with
  | some i => s.replayFrom p i false
  | none => s

/-- The meaning of RETRY. -/
def execRetry (p : Nat) (f : Flit) (s : State) : Host.Outcome State Fault Refusal :=
  .next (s.flitAt p 5 f (fun u => u.frameIn p f 3 (fun t => retryIn t p (leAt f.bytes 9 2 % 4096))))

/-- RETRY_REPEAT (R343): a further RETRY frame. -/
def execRetryRepeat (p : Nat) (s : State) : Host.Outcome State Fault Refusal :=
  .next (if s.portActive p && (s.port p).refused then s.setPort p (s.port p).sendRetry else s)

/-- ACK_TIMEOUT (R343): the transmitter replays from the oldest flit. -/
def execAckTimeout (p : Nat) (s : State) : Host.Outcome State Fault Refusal :=
  .next (if s.portActive p && !(s.port p).replay.isEmpty then s.replayFrom p 0 true else s)

/-! ## Routing (R348, R349) -/

/-- CUR_UNDELIVERABLE (R349, Table 12.10): counted, postmarked once until the flag is cleared. -/
def State.undeliverable (s : State) (dst : Nat) : State :=
  let s1 := s.addF curShBase F.CUR_CNT_UNDELIVERED 1
  if s.isF curShBase F.CUR_ERR_UNDELIVERABLE then s1
  else (s1.flagF curShBase F.CUR_ERR_UNDELIVERABLE).chipEvent 3 (unitDev dst) 0x85

/-- A message of this device waits for its routing. -/
def State.originate (s : State) (m : CMsg) : State := { s with cour := { s.cour with inbox := s.cour.inbox ++ [(255, m)] } }

/-- The answer to a request or write message: read data or an acknowledgement, POISON with class e ≠ 0. -/
def answerOf (own : Nat) (m : CMsg) (data : List Byte) (poison : Bool) : CMsg :=
  if m.mtype = 0 then
    ⟨m.src, own, m.srcEp, m.dstEp, 4, if poison then 0x80 else 0, m.lines, m.tag, m.attr % 128 + (if poison then 128 else 0), 0, m.addr, data⟩
  else ⟨m.src, own, m.srcEp, m.dstEp, 5, if poison then 0x80 else 0, 0, m.tag, m.attr % 128 + (if poison then 128 else 0), 0, m.addr, []⟩

/-- An answer handed to the requester of an outstanding request; `e` is the class of its POISON, `from_` the end that answers. -/
def State.handBack (s : State) (o : Outst) (from_ : Nat) (data : List Byte) (e : Nat) : State :=
  let s1 := { s with cour := { s.cour with outst := s.cour.outst.filter (fun x => decide (x ≠ o)) } }
  s1.send from_ o.who 256 (if o.isRead then .readRsp o.key (if o.who = 272 then data else padTo (64 * o.lines) data) e o.iss else .ack e o.iss)

/-- A message discarded under R349: a request or a write (Table 12.5) is answered with POISON toward its source. -/
def State.discard (s : State) (m : CMsg) : State :=
  let s1 := s.undeliverable m.dst
  if mtypeClass m.mtype ≤ 1 then
    if m.src = s.ownCoord then
      match s1.cour.outst.find? (fun o => decide (o.tag = m.tag ∧ o.coord = m.dst)) with
      | some o => s1.handBack o (4096 + m.dst) [] 0x86
      | none => s1
    else s1.originate (answerOf s.ownCoord m [] true)
  else s1

/-- The feature that a message needs of its leaving link (Table 12.9); none for most. -/
def State.needFeature (s : State) (m : CMsg) : Option Nat :=
  if m.mtype = 8 then some 1
  else if m.mtype = 9 then
    some (if s.getF curShBase (F.CUR_COLL_CFG_FMT.idx (0x20 * (m.tree % 64))) = 0 then 2 else 3)
  else if m.mtype = 10 then some 4
  else if m.mtype = 0 ∧ m.dstEp = 0x130 then some 5
  else none

/-- The link of port p has what a message needs. -/
def State.linkHas (s : State) (p : Nat) (m : CMsg) : Bool :=
  match s.needFeature m with
  | some f => (s.agreedFeat p).testBit f
  | none => true

/-- The axis of the port that a message of the inbox arrived on; none for one that starts here. -/
def State.arrivedOn (s : State) (from_ : Nat) : Option Nat :=
  if from_ < 16 then some (s.port from_).axis else if from_ < 80 then some ((from_ - 16) / 16) else none

/-- A message leaves by port q; `from_` names the port it arrived on (255: it starts here). DLINE is set as R348 gives. -/
def State.leaveBy (s : State) (from_ q : Nat) (m : CMsg) : State :=
  let keep := decide (s.arrivedOn from_ = some (s.port q).axis)
  let d0 := if keep then m.flags % 2 else 0
  let d := if (s.port q).dateline then 1 else d0
  s.txMsg q { m with flags := m.flags - m.flags % 2 + d }

/-- The port by which a message for another device leaves (R348); none where it is unreachable. -/
def State.portFor (s : State) (m : CMsg) : Option Nat := s.leavingPort m.dst m.dstEp (mtypeClass m.mtype) m.srcEp m.src

/-- The Msg end of an endpoint number: the chip hub, or a block or port. -/
def epEnd (ep : Nat) : Nat := if ep = 0x130 then 272 else ep

/-- A Courier message crosses the mesh between two ends of it, its header and lines as a mesh message has them (R313, R333); none where the route
uses an isolated link, which discards it (R316). -/
def State.crossMesh (s : State) (src dst lines : Nat) : Option State :=
  if s.cutRoute src dst then none else some (s.countFlits (meshPath src dst) (1 + ceilDiv lines 2))

/-- A message for another device (R348, R349): it crosses the mesh to its leaving port where it starts here, and leaves. -/
def State.forward (s : State) (from_ : Nat) (m : CMsg) : State :=
  match s.portFor m with
  | none => s.discard m
  | some q =>
    if !s.linkHas q m then s.discard m
    else if from_ < 80 then s.leaveBy from_ q m
    else
      match s.crossMesh (epEnd m.srcEp) (256 + q) m.allLines with
      | some t => t.leaveBy from_ q m
      | none => s.discard m

/-! ## Delivery on the device (R346, R347, R359) -/

/-- The enabled bytes of a 64-byte line. -/
def wholeLine (l : List Byte) : List (Nat × Byte × Byte) := (List.range 64).map (fun (i : Nat) => (i, l.getD i 0, 0xFF#8))

/-- The enabled bytes of a narrow write: its bit mask, then its line. -/
def narrowLine (l : List Byte) : List (Nat × Byte × Byte) :=
  ((List.range 64).filter (fun (i : Nat) => decide (l.getD i 0 ≠ 0))).map (fun i => (i, l.getD (64 + i) 0, l.getD i 0))

/-- The Msg end that serves line i of a message on this device (R317). -/
def CMsg.target (m : CMsg) (i : Nat) : Nat :=
  if m.dstEp < 256 then m.dstEp else 1024 + hbmPc ((m.addr + 64 * i) % 2 ^ 36)

/-- Lines i to i + n - 1 of a message as a request on the mesh; a counter counts once per message, with its last line. -/
def CMsg.bodyAt (m : CMsg) (i n tok : Nat) : Body :=
  let a := (if m.dstEp < 256 then m.addr % 2 ^ 19 else m.addr) + 64 * i
  let d := slice m.data (64 * i) (64 * n)
  let whole := (List.range (64 * n)).map (fun (k : Nat) => (k, d.getD k 0, (0xFF#8 : Byte)))
  if m.mtype = 0 then .read a n tok
  else if m.mtype = 1 then .write a false whole tok
  else if m.mtype = 2 then .write a true (narrowLine m.data) tok
  else .atomic a (if m.lines = 0 then [] else whole) (m.attr % 4)
    (if decide (m.lines ≤ i + n) && m.attr.testBit 6 then some (bits m.attr 2 4) else none) tok

/-- The runs of lines that one request takes, as (first, count), of `left` lines from line i on: up to four of a 256 B granule of HBM for reads and
full-line writes, one for atomic adds (R319); all lines of a read or write of a scratchpad. -/
def CMsg.runs (m : CMsg) (i : Nat) : Nat → List (Nat × Nat)
  | 0 => []
  | left + 1 =>
    if m.mtype = 0 ∨ m.mtype = 1 then
      if m.dstEp < 256 then (if i = 0 then [(0, left + 1)] else [])
      else
        let k := (m.addr / 64 + i) % 4
        if i = 0 ∨ k = 0 then (i, min (left + 1) (4 - k)) :: m.runs (i + 1) left else m.runs (i + 1) left
    else (i, 1) :: m.runs (i + 1) left

/-- The requests that a message makes on the mesh, with their ends; one of a single line or of none is one request. -/
def CMsg.parts (m : CMsg) (tok : Nat) : List (Nat × Body) :=
  (m.runs 0 (if m.mtype = 2 then 1 else max 1 m.lines)).map (fun r => (m.target r.1, m.bodyAt r.1 r.2 tok))

/-- The first requests of a list that port p can send: those to HBM need a credit of their pseudo-channel (R320). -/
def State.sendParts (s : State) (p blk : Nat) : List (Nat × Body) → List (Nat × Body) × State
  | [] => ([], s)
  | q :: r =>
    if 1024 ≤ q.1 ∧ pcCredits (256 + p) ≤ s.pcUsed (256 + p) (q.1 - 1024) then (q :: r, s)
    else (s.send (256 + p) q.1 (if q.1 < 256 then q.1 else blk) q.2).sendParts p blk r

/-- Port p sends what it can of the messages that it serves, in the order they arrived (R346); the flits of one that is in the mesh as a whole are freed
(R342). -/
def State.portServe (s : State) (p : Nat) : State :=
  let mine := s.cour.serving.filter (fun v => decide (v.port = p))
  let (s1, _) := mine.foldl (fun (acc : State × Bool) v =>
    if acc.2 then acc
    else
      let (rest, t0) := acc.1.sendParts p 256 v.todo
      let t := if rest.isEmpty && v.held then t0.freeFlits p v.msg else t0
      ({ t with cour := { t.cour with serving := t.cour.serving.map (fun x =>
          if x.tok = v.tok then { x with todo := rest, held := x.held && !rest.isEmpty } else x) } },
        !rest.isEmpty)) (s, false)
  s1

/-- A request or write from another device begins to be served on the mesh (R346). -/
def State.serve (s : State) (p : Nat) (m : CMsg) : State :=
  let tok := s.cour.nextTok
  let l := m.parts tok
  { s with cour := { s.cour with
      nextTok := tok + 1, serving := s.cour.serving ++ [Serv.mk tok (p % 16) m l.length l [] 0 (decide (p < 16))] } }.portServe (p % 16)

/-- A line of the image space that the chip hub serves: the weight shadow, then the Cirrus images (R359; log entry 26). -/
def State.imageRd (s : State) (a n : Nat) : List Byte :=
  (List.range n).map (fun (i : Nat) =>
    if a + i < 0x10000000 then Mem.rd s.mem.wshadow (a + i)
    else Mem.rd s.mem.cirrus (a + i - 0x10000000))

/-- The 48 bytes of a record in IMG_LIST. -/
def ImgRec.entry (r : ImgRec) : List Byte :=
  leBytes 4 r.id ++ leBytes 1 r.kind ++ leBytes 1 0 ++ leBytes 2 r.first ++ leBytes 2 r.count ++ leBytes 2 0 ++ leBytes 4 r.len
    ++ padTo 32 r.sha

/-- Where the image space holds the directory: record i in line i, zeros beyond the last (log entry 57). -/
def imgDirAt : Nat := 0x20000000

/-- Lines of the directory as peers read it. -/
def State.imgDir (s : State) (a n : Nat) : List Byte :=
  (List.range n).flatMap (fun (i : Nat) => padTo 64 (((s.store.imgs[(a - imgDirAt) / 64 + i]?).map ImgRec.entry).getD []))

/-- A read of the image space by a peer (R359). -/
def State.serveImage (s : State) (p : Nat) (m : CMsg) : State :=
  if (s.agreedFeat p).testBit 5 && s.isIn [.ready, .armed, .running, .draining] then
    s.originate (answerOf s.ownCoord m (if imgDirAt ≤ m.addr then s.imgDir m.addr m.lines else s.imageRd m.addr (64 * m.lines)) false)
  else s.originate (answerOf s.ownCoord m [] true)

/-- A response from another device (R347): to its requester, or discarded. One with POISON may come from a device on the way (R349; log entry 85). -/
def State.respond (s : State) (p : Nat) (m : CMsg) : State :=
  match s.cour.outst.find? (fun o => decide (o.tag = m.tag) && (decide (o.coord = m.src) || m.flags.testBit 7)) with
  | some o => s.handBack o (256 + p % 16) m.data (if m.flags.testBit 7 then 0x86 else 0)
  | none => s

/-- A message delivered on its device. Hand-offs, collectives and Nimbus messages wait for their own commands. -/
def State.deliver (s : State) (p : Nat) (m : CMsg) : State :=
  if m.mtype ≤ 3 then (if m.dstEp = 0x130 then (if m.mtype = 0 then s.serveImage p m else s) else s.serve p m)
  else if m.mtype = 6 then s.send (256 + p % 16) m.dstEp (65536 + 512 * m.src + m.srcEp) (.credit (bits m.addr 20 4))
  else if m.mtype ≤ 5 then s.respond p m
  else s

/-- Message k of the inbox, if no earlier one of its port and class waits (R346). -/
def State.inboxAt (s : State) (k : Nat) : Option (Nat × CMsg) :=
  match s.cour.inbox[k]? with
  | some e =>
    if (s.cour.inbox.take k).any (fun x => decide (x.1 = e.1) && decide (mtypeClass x.2.mtype = mtypeClass e.2.mtype)) then none else some e
  | none => none

/-- The mesh channel of a message between a port and the chip hub (R345): COLL_ADD and COLL_BCAST on VC1, HANDOFF and type 7 on VC3. -/
def CMsg.meshVc (m : CMsg) : Nat := mtypeClass m.mtype

/-- A message type handled by a command of its own, when it has reached its device: it is for the chip hub. -/
def ownCommand (m : CMsg) : Bool := decide (m.mtype = 7) || decide (m.mtype = 8) || decide (m.mtype = 9) || decide (m.mtype = 10)

/-- A request or write of another device that a port serves on this one's mesh. -/
def CMsg.servedHere (m : CMsg) (own : Nat) : Bool := decide (m.dst = own) && decide (m.mtype ≤ 3) && decide (m.dstEp ≠ 0x130)

/-- Message k leaves the inbox, its flits freed unless it waits for its requests to enter the mesh (R342); one for the chip hub crosses the mesh from its port, on its channel and in order there (R315,
R345). -/
def State.takeInbox (s : State) (k : Nat) : State :=
  match s.cour.inbox[k]? with
  | some e =>
    let s0 := { s with cour := { s.cour with inbox := dropAt s.cour.inbox k } }
    let s1 := if e.2.servedHere s.ownCoord then s0 else s0.freeFlits e.1 e.2
    if e.1 < 80 ∧ ownCommand e.2 = true ∧ e.2.dst = s.ownCoord then
      (s1.crossMesh (256 + e.1 % 16) 272 e.2.allLines).getD s1
    else s1
  | none => s

/-- The mesh has no way from the port of a message to the chip hub: an isolated link discards it, and answers it as R316 gives. -/
def State.hubCut (s : State) (p : Nat) : Bool := decide (p < 80) && (s.crossMesh (256 + p % 16) 272 0).isNone

/-- A mesh message for another device as a Courier message with tag t; ADDR names `region` in [23:20] for a scratchpad write (Table 12.4). -/
def courierOf (own region : Nat) (m : Msg) (t : Nat) : CMsg :=
  let ep := if m.blk = 256 then 0x1FF else m.blk
  let mk := fun (ty lines attr a : Nat) (d : List Byte) => CMsg.mk (m.dst - 4096) own ep (endNo m.src) ty 0 lines t attr 0 a d
  let lines := fun (d : List (Nat × Byte × Byte)) => mergeLine (List.replicate (64 * dataLines d) 0) d
  match m.body with
  | .read l n _ => mk 0 n 0 l []
  | .write l narrow d _ =>
    let a := l + 2 ^ 20 * region
    if narrow then mk 2 1 0 a (m.body.bitmask ++ lines d) else mk 1 (dataLines d) 0 a (lines d)
  | .atomic l d f c _ => mk 3 (dataLines d) (f + (c.map (fun n => 4 * n + 64)).getD 0) l (lines d)
  | .credit r => mk 6 0 0 (r * 2 ^ 20) []
  | .readRsp _ d e _ => mk 4 (d.length / 64) (if e = 0 then 0 else 128) 0 d
  | .ack e _ => mk 5 0 (if e = 0 then 0 else 128) 0 []
  | .note _ _ d => mk 7 (d.length / 64) 0 0 d

/-- The place that a request for another device names. -/
def remoteKey (m : Msg) : Nat :=
  let l := match m.body with
    | .read l _ _ => l
    | .write l _ _ _ => l
    | .atomic l _ _ _ _ => l
    | _ => 0
  keyDev (m.dst - 4096) (if m.blk = 256 then keyHbm l else keySpd m.blk l)

/-- A request of this device is recorded until its answer comes (R347). -/
def State.record (s : State) (m : Msg) (t : Nat) : State :=
  let put := fun (i : Nat) (rd : Bool) (n : Nat) =>
    { s with cour := { s.cour with
        nextTok := s.cour.nextTok + 1, outst := s.cour.outst ++ [Outst.mk t (m.dst - 4096) m.src i (remoteKey m) rd n] } }
  match m.body with
  | .read _ n i => put i true n
  | .write _ _ _ i => put i false 0
  | .atomic _ _ _ _ i => put i false 0
  | _ => s

/-- MESSAGE_ROUTE (R348): message k of the inbox, or beyond it the messages of this device for others. -/
def routeMsg (s : State) (k : Nat) : State :=
  let n := s.cour.inbox.length
  if k < n then
    match s.inboxAt k with
    | some (p, m) =>
      if m.dst = s.ownCoord then
        if ownCommand m then
          if s.hubCut p then
            let s1 := s.takeInbox k
            if mtypeClass m.mtype ≤ 1 then s1.originate (answerOf s.ownCoord m [] true) else s1
          else s
        else (s.takeInbox k).deliver p m
      else (s.takeInbox k).forward p m
    | none => s
  else
    let far := (List.range s.net.length).filter (fun (i : Nat) => decide (4096 ≤ ((s.net[i]?).map Msg.dst).getD 0))
    match far[k - n]? with
    | some i =>
      match s.msgAt i with
      | some m =>
        let t := s.cour.nextTok % 65536
        let region := if m.src < 256 ∧ m.blk < 256 then
            ((outTo s.img m.src m.blk (m.dst - 4096)).map (fun j => bits (outWord s.img m.src j 0) 8 4)).getD 0 else 0
        let c := courierOf s.ownCoord region m t
        let s1 := (s.dropMsg i).record m t
        if c.dst = s.ownCoord then s1.deliver 255 c else s1.forward 255 c
      | none => s
    | none => s

/-- The meaning of MESSAGE_ROUTE. -/
def execMessageRoute (k : Nat) (s : State) : Host.Outcome State Fault Refusal := .next (if s.pdOn 3 then routeMsg s k else s)

/-! ## Answers that return (R322, R346) -/

/-- Line i of a served message in what has come for it. -/
def Serv.lineAt (v : Serv) (i : Nat) : List Byte :=
  let a := if v.msg.dstEp < 256 then keySpd v.msg.dstEp (v.msg.addr % 2 ^ 19 + 64 * i) else keyHbm (v.msg.addr + 64 * i)
  match v.data.find? (fun d => decide (d.1 ≤ a) && decide (a < d.1 + d.2.length)) with
  | some d => padTo 64 (d.2.drop (a - d.1))
  | none => List.replicate 64 0

/-- An answer to a port for a message of another device: its credit lets the next request go, and the last one sends the response back (R346). -/
def State.served1 (s : State) (tok : Nat) (part : Option (Nat × List Byte)) (e : Nat) : State :=
  match s.cour.serving.find? (fun v => decide (v.tok = tok)) with
  | some v =>
    let w := { v with left := v.left - 1, poison := if e = 0 then v.poison else e, data := v.data ++ part.toList }
    let s1 := if w.left = 0 then
        { s with cour := { s.cour with serving := s.cour.serving.filter (fun x => decide (x.tok ≠ tok)) } }.originate
          (answerOf s.ownCoord w.msg ((List.range w.msg.lines).flatMap w.lineAt) (decide (w.poison ≠ 0)))
      else { s with cour := { s.cour with serving := s.cour.serving.map (fun x => if x.tok = tok then w else x) } }
    s1.portServe v.port
  | none => s

/-- The unit whose memory or link an answer with POISON comes from (R447). -/
def answerUnit (src : Nat) : Nat :=
  if 4096 ≤ src then unitDev (src - 4096)
  else if 1024 ≤ src then unitChip (3 + (src - 1024) / 32)
  else if src = 272 then unitChip 9
  else if 256 ≤ src then unitPort (src - 256)
  else unitBlk src

/-- An acknowledgement for issue i of block b (R322); with POISON the operation and its context fault (R124). A retirement waits for
acknowledgements of HBM and of other devices, not of scratchpads of this one (log entry 35). -/
def State.ackIssue (s : State) (b i src e : Nat) : State :=
  match (s.bx b).issues.find? (fun x => decide (x.id = i)) with
  | some x =>
    let s1 := s.setBx b { s.bx b with issues := (s.bx b).issues.map (fun y =>
      if y.id = i then { y with acks := if src < 256 then y.acks else y.acks - 1, faulted := y.faulted || decide (e ≠ 0) }
      else y) }
    if e = 0 then s1 else (s1.raiseBlock b (answerUnit src) e x.ctx x.opIndex).faultCtx b x.ctx e
  | none => s

/-! ## Collectives (R356, R357) -/

/-- Contributors c of entry t. -/
def State.collC (s : State) (t : Nat) : Nat := popcount 16 (s.coll t F.CUR_COLL_CFG_CHILDREN) + s.coll t F.CUR_COLL_CFG_LOCAL
/-- Lines of chunk j. -/
def State.chunkLines (s : State) (t j : Nat) : Nat := min 64 (s.coll t F.CUR_COLL_LINES_LINES - 64 * j)
/-- Chunks of the buffer. -/
def State.collChunks (s : State) (t : Nat) : Nat := ceilDiv (s.coll t F.CUR_COLL_LINES_LINES) 64

/-- A counter increment that the chip hub sends to block b (R167). -/
def State.hubCount (s : State) (b c : Nat) : State := s.send 272 b b (.atomic 0 [] 0 (some c) 0)

/-- Lines written through the hub to HBM. -/
def State.hubPutLines (s : State) (a : Nat) (bs : List Byte) : State :=
  (List.range (bs.length / 64)).foldl (fun st i => (st.hubLine (a + 64 * i) (wholeLine (slice bs (64 * i) 64))).2) s

/-- Lines read through the hub from HBM. -/
def State.hubGetLines (s : State) (a n : Nat) : List Byte × State :=
  (List.range n).foldl (fun (acc : List Byte × State) i =>
    let (d, _, t) := acc.2.hubFetch (a + 64 * i)
    (acc.1 ++ d, t)) ([], s)

/-- A collective message sent on port p, in parts of at most 32 lines; it crosses the mesh to the port on VC1 (R345). One that cannot leave is
discarded, and the hub gets a POISON answer (R349). -/
def State.collSend (s : State) (p ty t off : Nat) (data : List Byte) : State :=
  let n := data.length / 64
  (List.range (ceilDiv n 32)).foldl (fun st i =>
    let d := slice data (2048 * i) 2048
    let m : CMsg := ⟨st.getF (curBase p) F.CUR_PEER_COORD, st.ownCoord, 0x130, 0x130, ty, 0, d.length / 64, 0, 0, t, off + 2048 * i, d⟩
    if st.portActive p && st.linkHas p m then ((st.crossMesh 272 (256 + p) m.lines).map (fun t => t.leaveBy 255 p m)).getD st
    else (st.undeliverable m.dst).send (256 + p % 16) 272 256 (.ack 0x86 0)) s

/-- The lines of a result written, and passed on to the children; DONE counts once a chunk is in. -/
def State.collPut (s : State) (t off : Nat) (data : List Byte) (bcast : Bool) : State :=
  let s1 := s.hubPutLines (s.collResult t + off) data
  let s2 := if bcast then
      (onesOf 16 (s.coll t F.CUR_COLL_CFG_CHILDREN)).foldl (fun st p => st.collSend p 10 t off data) s1
    else s1
  let e := (off + data.length) / 64
  let whole := decide (e % 64 = 0) || decide (e = s.coll t F.CUR_COLL_LINES_LINES)
  if whole ∧ s.coll t F.CUR_COLL_DONE_DONE_EN = 1 then
    s2.hubCount (s.coll t F.CUR_COLL_DONE_DONE_BLK) (s.coll t F.CUR_COLL_DONE_DONE_CNT)
  else s2

/-- A chunk has counted all its lines (R356): forwarded, or written at the root; zeros over it in STAGE. -/
def State.chunkDone (s : State) (t j : Nat) : State :=
  let off := 4096 * j
  let (d, s1) := s.hubGetLines (s.collStage t + off) (s.chunkLines t j)
  let s2 := if s.coll t F.CUR_COLL_CFG_ROOT = 1 then s1.collPut t off d (decide (s.coll t F.CUR_COLL_CFG_BCAST = 1))
    else s1.collSend (s.coll t F.CUR_COLL_CFG_PARENT) 9 t off d
  let s3 := s2.hubPutLines (s.collStage t + off) (List.replicate d.length 0)
  let n := s.coll t F.CUR_COLL_COUNT_CHUNKS
  s3.setF curShBase (F.CUR_COLL_COUNT_CHUNKS.idx (0x20 * t)) (if n = s.collChunks t then 1 else n + 1)

/-- A chunk that has counted all its lines, as (entry, chunk). -/
def State.collDue (s : State) : Option (Nat × Nat) :=
  (s.cour.collCnt.find? (fun e =>
    let t := e.1 / 2 ^ 20
    let full := s.collC t * s.chunkLines t (e.1 % 2 ^ 20)
    s.collValid t && decide (0 < full) && decide (full ≤ e.2))).map (fun e => (e.1 / 2 ^ 20, e.1 % 2 ^ 20))

/-- Chunks that have counted all their lines are acted on, at most n of them; lines beyond a completion count toward the next use (R357). -/
def State.collRun (s : State) : Nat → State
  | 0 => s
  | n + 1 =>
    match s.collDue with
    | some (t, j) =>
      let key := 2 ^ 20 * t + j
      ({ s with cour := { s.cour with collCnt := SMap.set 0 s.cour.collCnt key (SMap.get 0 s.cour.collCnt key - s.collC t * s.chunkLines t j) } }.chunkDone
        t j).collRun n
    | none => s

/-- Every chunk that has counted all its lines is acted on: there are no more completions than lines counted, or still to be counted by requests
that wait in the queues. -/
def State.collSettle (s : State) : State :=
  s.collRun ((s.cour.collCnt.map Prod.snd).sum + 64 * (s.hbmQ.map (fun e => e.2.length)).sum)

/-- Lines written and read through the hub, one line written with enables, and one added to; chunks that requests ahead of them complete are acted
on. -/
def State.hubWrite (s : State) (a : Nat) (bs : List Byte) : State := (s.hubPutLines a bs).collSettle
def State.hubRead (s : State) (a n : Nat) : List Byte × State :=
  let (d, t) := s.hubGetLines a n
  (d, t.collSettle)
def State.hubStore (s : State) (a : Nat) (data : List (Nat × Byte × Byte)) : Nat × State :=
  let (e, t) := s.hubLine a data
  (e, t.collSettle)
def State.hubAdd (s : State) (a fmt : Nat) (data : List (Nat × Byte × Byte)) : State := ((s.hubAtomic a fmt data).2).collSettle

/-- A COLL message discarded (R356). -/
def State.collErr (s : State) : State := s.flagF curShBase F.CUR_ERR_COLL

/-- COLL_ADD (R356): a child's lines are added into STAGE and counted. -/
def collAddEff (s : State) (p : Nat) (m : CMsg) : State :=
  let t := m.tree
  let l0 := m.addr / 64
  if t < 64 ∧ s.collValid t = true ∧ (s.coll t F.CUR_COLL_CFG_CHILDREN).testBit (p % 16) = true
      ∧ l0 + m.lines ≤ s.coll t F.CUR_COLL_LINES_LINES then
    ((List.range m.lines).foldl (fun st i =>
      ((st.hubAtomic (s.collStage t + 64 * (l0 + i)) (s.coll t F.CUR_COLL_CFG_FMT) (wholeLine (slice m.data (64 * i) 64))).2).collBump t
        ((l0 + i) / 64)) s).collSettle
  else s.collErr

/-- COLL_BCAST (R356): lines from the parent are written to RESULT and passed on. -/
def collBcastEff (s : State) (p : Nat) (m : CMsg) : State :=
  let t := m.tree
  if t < 64 ∧ s.collValid t = true ∧ s.coll t F.CUR_COLL_CFG_ROOT = 0 ∧ s.coll t F.CUR_COLL_CFG_PARENT = p % 16
      ∧ m.addr / 64 + m.lines ≤ s.coll t F.CUR_COLL_LINES_LINES then
    (s.collPut t m.addr m.data true).collSettle
  else s.collErr

/-- A message of type ty for this device at position k of the inbox. -/
def State.ownMsg (s : State) (k ty : Nat) : Option (Nat × CMsg) :=
  match s.inboxAt k with
  | some (p, m) => if m.mtype = ty ∧ m.dst = s.ownCoord ∧ s.hubCut p = false then some (p, m) else none
  | none => none

/-- The meaning of COLL_ADD. -/
def execCollAdd (k : Nat) (s : State) : Host.Outcome State Fault Refusal :=
  .next (match s.ownMsg k 9 with
    | some (p, m) => collAddEff (s.takeInbox k) p m
    | none => s)

/-- The meaning of COLL_BCAST. -/
def execCollBcast (k : Nat) (s : State) : Host.Outcome State Fault Refusal :=
  .next (match s.ownMsg k 10 with
    | some (p, m) => collBcastEff (s.takeInbox k) p m
    | none => s)

/-- The meaning of HBM_ATOMIC_ADD. -/
def execHbmAtomicAdd (pc k : Nat) (s : State) : Host.Outcome State Fault Refusal := .next ((hbmSvc s pc k 3).collSettle)

end Sys2Proof.Machine
end

