-- ==== Sys2Proof/Machine/MacroMaint.lean ====
section
/-! DEFINITION. Macro rows, ECC, scrub, remap and fill, shadow port, readback and range monitors (chapter 02, R117). -/

namespace Sys2Proof.Machine

/-! ## Rows and their SEC-DED words (R40, R41, R65) -/

/-- The number of row r of macro m over all macros. -/
def rowNo (m r : Nat) : Nat := 512 * m + r

/-- Remap entry i of macro m. -/
def State.remap (s : State) (m i : Nat) : Nat := (s.reg (macBase m + 0x40 + 4 * i)).toNat
/-- The physical column that serves logical column c: a filled spare instead of its own (R65). -/
def State.physCol (s : State) (m c : Nat) : Nat :=
  match (List.range 16).find? (fun (i : Nat) =>
    (s.remap m i).testBit 15 && (s.remap m i).testBit 16 && decide (s.remap m i % 2048 = c)) with
  | some i => 1096 + i
  | none => c

/-- Flipped physical columns of row r of macro m. -/
def State.rowFlips (s : State) (m r : Nat) : List Nat :=
  ((s.flips.mac ++ s.flips.hard).filter (fun f => decide (f / 1112 = rowNo m r))).map (fun f => f % 1112)

/-- Flipped logical columns of a row, ascending; none in the usual case. -/
def State.logFlips (s : State) (m r : Nat) : List Nat :=
  let fl := s.rowFlips m r
  if fl.isEmpty then [] else (List.range 1096).filter (fun (c : Nat) => decide (s.physCol m c ∈ fl))

/-- The bytes of a row with flipped data columns as the arrays hold them: what compute sees (R44). -/
def State.rowRaw (s : State) (m r : Nat) : List Byte :=
  ((s.logFlips m r).filter (fun c => decide (c < 1024))).foldl (fun l c =>
    setAt l (c / 8) (l.getD (c / 8) 0 ^^^ BitVec.ofNat 8 (2 ^ (c % 8)))) (s.rowRd m r)

/-- The word a logical column belongs to (R41). -/
def colWord (c : Nat) : Nat := if c < 1024 then c / 128 else (c - 1024) / 9

/-- What a checked read of a row finds (R41): bytes, corrected columns, uncorrectable or not. -/
structure RowRead where
  data : List Byte
  ce : List Nat
  ue : Bool
deriving DecidableEq, Repr

/-- The logical column that bit x of word w's 137 bits lies in (R41): 0 to 127 its data, 128 to 136 its check bits. -/
def wordCol (w x : Nat) : Nat := if x < 128 then 128 * w + x else 1024 + 9 * w + (x - 128)

/-- The bytes of a row with logical column c inverted; a check column is in none of them. -/
def flipCol (l : List Byte) (c : Nat) : List Byte :=
  if c < 1024 then setAt l (c / 8) (l.getD (c / 8) 0 ^^^ BitVec.ofNat 8 (2 ^ (c % 8))) else l

/-- A checked read of a row. A word with three or more flips is judged by `eccVerdict`, and a correction to a wrong value inverts any one bit of
the word, a check bit or a data bit (log entry 7). -/
def State.rowCheck (s : State) (m r : Nat) : RowRead × State :=
  let fl := s.logFlips m r
  if fl.isEmpty then (⟨s.rowRd m r, [], false⟩, s)
  else
    let raw := s.rowRaw m r
    (List.range 8).foldl (fun (acc : RowRead × State) w =>
      let f := fl.filter (fun c => decide (colWord c = w))
      let (q, t) := acc
      if f.length = 0 then acc
      else if f.length = 1 then
        (⟨flipCol q.data (f.headD 0), q.ce ++ f, q.ue⟩, t)
      else if f.length = 2 then (⟨q.data, q.ce, true⟩, t)
      else
        let v := Config.eccVerdict t.free
        let (x, t1) := t.takeFree
        if v % 3 = 0 then (⟨q.data, q.ce, true⟩, t1)
        else if v % 3 = 1 then (q, t1)
        else
          (⟨flipCol q.data (wordCol w (x % 137)), q.ce ++ [wordCol w (x % 137)], q.ue⟩, t1)) (⟨raw, [], false⟩, s)

/-- The column that a valid entry i names. -/
def State.remapCol (s : State) (m i : Nat) : Option Nat := if (s.remap m i).testBit 15 then some (s.remap m i % 2048) else none

/-- The columns of macro m whose spare is in use (R65): a write reaches the spare, not the column. -/
def State.filledCols (s : State) (m : Nat) : List Nat :=
  (List.range 16).filterMap (fun (i : Nat) => if (s.remap m i).testBit 16 then s.remapCol m i else none)

/-- Physical column f is written when the words of the mask are: a column of such a word whose spare is not in use, or a spare whose entry is
valid for a column of such a word (R65, R66). -/
def State.colWritten (s : State) (m words f : Nat) : Bool :=
  if f < 1096 then words.testBit (colWord f) && !decide (f ∈ s.filledCols m)
  else match s.remapCol m (f - 1096) with
    | some c => words.testBit (colWord c)
    | none => false

/-- The columns in spare use that a write of these words leaves with their old bit, where that is not the new one (R65): they read as flipped
once their entry is cleared. The new check bits of a check column are free, as the spec does not give the code (log entry 7). -/
def State.staleCols (s : State) (m r words : Nat) (new : List Byte) : List Nat :=
  let old := s.rowRd m r
  (s.filledCols m).filter (fun c =>
    if !words.testBit (colWord c) then decide (c ∈ s.rowFlips m r)
    else if c < 1024 then
      ((leAt old (c / 8) 1).testBit (c % 8) != decide (c ∈ s.rowFlips m r)) != (leAt new (c / 8) 1).testBit (c % 8)
    else if slice old (16 * colWord c) 16 = slice new (16 * colWord c) 16 then decide (c ∈ s.rowFlips m r)
    else decide (Config.freeNat (s.free + c) % 2 = 1))

/-- Row r of macro m with the words of the mask written from `data`, with new check bits (R58, R65, R66). -/
def State.putRow (s : State) (m r words : Nat) (data : List Byte) : State :=
  let new := (List.range 128).map (fun (x : Nat) => if words.testBit (x / 16) then data.getD x 0 else 0)
  let stale := s.staleCols m r words new
  let keep := s.flips.mac.filter (fun f => !(decide (f / 1112 = rowNo m r)
    && (s.colWritten m words (f % 1112) || decide (f % 1112 ∈ s.filledCols m))))
  let s1 := (onesOf 8 words).foldl (fun st w => st.rowWr m r (16 * w) (slice new (16 * w) 16)) s
  { s1 with
    flips := { s1.flips with mac := keep ++ stale.map (fun c => 1112 * rowNo m r + c) },
    free := if (s.filledCols m).isEmpty then s1.free else s1.free + 1096 }

/-- A bit of an array of 32-bit registers at offset o. -/
def rowBitFld (o r : Nat) : Fld := ⟨o + 4 * (r / 32), r % 32, 1⟩

/-- Row r of macro m is dirty (R69), is poisoned (R64). -/
def State.rowDirty (s : State) (m r : Nat) : Bool := decide (s.getF (macBase m) (rowBitFld 0xA0 r) = 1)
def State.rowPoisoned (s : State) (m r : Nat) : Bool := decide (s.getF (macBase m) (rowBitFld 0xE0 r) = 1)
/-- Any row of macro m is poisoned; any is dirty. -/
def State.anyPoison (s : State) (m : Nat) : Bool := (List.range 16).any (fun (i : Nat) => decide (s.reg (macBase m + 0xE0 + 4 * i) ≠ 0))
def State.anyDirty (s : State) (m : Nat) : Bool := (List.range 16).any (fun (i : Nat) => decide (s.reg (macBase m + 0xA0 + 4 * i) ≠ 0))

/-- The staging tag of macro m replaced (R236). -/
def State.setTag (s : State) (m : Nat) (g : Option StageTag) : State :=
  s.setBx (m / 16) { s.bx (m / 16) with tags := SMap.set none (s.bx (m / 16)).tags (m % 16) g }

/-- A row write (R58, R69): whole words of `words` take the bytes; the row is dirty, and the holding tag (R533) and the staging tag (R236)
clear; a write of the whole row clears its poison. -/
def State.writeRow (s : State) (m r words : Nat) (data : List Byte) : State :=
  let s1 := s.putRow m r words data
  let s2 := ((s1.setMx m { s1.mx m with held := 0 }).setTag m none).setF (macBase m) (rowBitFld 0xA0 r) 1
  if words % 256 = 255 then s2.setF (macBase m) (rowBitFld 0xE0 r) 0 else s2

/-- The 128 bytes of the shadow's row (R64, R71). -/
def State.shadowRow (s : State) (m r : Nat) : List Byte := Mem.rdN s.mem.wshadow (65536 * m + 128 * r) 128

/-- A row rewritten from the shadow: no dirty bit (R69). -/
def State.restoreRow (s : State) (m r : Nat) : State := s.putRow m r 255 (s.shadowRow m r)

/-! ## The scoreboard as maintenance sees it (R119, R120) -/

/-- A self-test unit's claim on block b is older than `age`: it takes every row and all accumulator bytes of the 16 macros (R557). -/
def State.claimHolds (s : State) (b age : Nat) : Bool :=
  (s.bist.slice.map (fun q => (q.claimed ++ q.running).any (fun u => bistBlockKind u.kind && decide (u.unit = b ∧ u.age < age)))).getD false

/-- Macros whose rows a freeze has still to copy behind older work (R461), with the first age of their block that is younger than the copy. -/
def State.late (s : State) : List (Nat × Nat) := (s.nim.sec.map (fun v => if v.copied then [] else v.late)).getD []

/-- An issue of block b older than `age`, or for a write an older copy of a freeze, holds rows of macro m (number in the block) that a step needs; `wr`
asks for writing. -/
def State.rowHeld (s : State) (b mi lo hi : Nat) (wr : Bool) (age : Nat) : Bool :=
  s.claimHolds b age || (wr && s.late.any (fun e => decide (e.1 = 16 * b + mi ∧ e.2 ≤ age))) || (s.bx b).issues.any (fun i => decide (i.id < age) && i.claims.any (fun c =>
    decide (c.space = 2) && c.mask.testBit mi && decide (c.lo < hi) && decide (lo < c.hi) && (wr || c.wr)))

/-- The macros of block b. -/
def blkMacros (b : Nat) : List Nat := (List.range 16).map (fun (i : Nat) => 16 * b + i)

/-- Scoreboard entries of block b in use (R119, R557): issues, readbacks, synchronisations and restores, a block-wide scrub and fill step that are
due, and claims of self-test units (log entry 73). -/
def State.sbUsed (s : State) (b : Nat) : Nat :=
  let n := fun (p : MacroX → Bool) => ((blkMacros b).filter (fun m => p (s.mx m))).length
  (s.bx b).issues.length + n (fun x => x.rb.isSome) + n (fun x => x.shop.isSome) + min 1 (n (fun x => decide (0 < x.scrubReq)))
    + min 1 (n (fun x => decide (x.fill ≠ [])))
    + ((s.bist.slice.map (fun q => q.claimed ++ q.running)).getD []).countP (fun u => bistBlockKind u.kind && decide (u.unit = b))

/-- SB_PEAK follows SB_USED (R142). -/
def State.sbPeak (s : State) (b : Nat) : State :=
  s.setF (blkBase b) F.BLK_SEQ_STAT_SB_PEAK (max (s.getF (blkBase b) F.BLK_SEQ_STAT_SB_PEAK) (s.sbUsed b))

/-- A restore of macro m stands that is older than `age`: requests of that age to the macro are held (R71). -/
def State.restoreHolds (s : State) (m age : Nat) : Bool :=
  ((s.mx m).shop.map (fun o => o.restore && decide (o.age < age))).getD false

/-- A readback of row r of macro m older than `age` waits (R117, R120). -/
def State.rbHeld (s : State) (m lo hi age : Nat) : Bool :=
  ((s.mx m).rb.map (fun a => decide (a < age) && decide (lo ≤ s.getF (macBase m) F.MAC_RB_CTL_ROW)
    && decide (s.getF (macBase m) F.MAC_RB_CTL_ROW < hi))).getD false

/-- A step of macro m at row r and of this age may run: no older issue, readback or restore stands in its way (R71, R120). -/
def State.stepFree (s : State) (m r : Nat) (wr : Bool) (age : Nat) : Bool :=
  !s.restoreHolds m age && !s.rowHeld (m / 16) (m % 16) r (r + 1) wr age && !(wr && s.rbHeld m r (r + 1) age)

/-! ## Corrections, remaps (R62, R67) -/

/-- An age among the scoreboard entries of block b taken (R119). -/
def State.takeAge (s : State) (b : Nat) : Nat × State :=
  ((s.bx b).nextId, s.setBx b { s.bx b with nextId := (s.bx b).nextId + 1 })

/-- A fill pass of entry i of macro m begins (R66). Its steps have the age of the oldest pass that runs. -/
def State.fillStart (s : State) (m i : Nat) : State :=
  let (a, s1) := s.takeAge (m / 16)
  let x := s1.mx m
  (s1.setMx m { x with fill := SMap.set 512 x.fill i 0, fillAge := if x.fill = [] then a else x.fillAge }).sbPeak (m / 16)

/-- The macro handler frees the slot that it holds for a remap once no fill pass runs (Table 15.1). -/
def State.freeMacroSlot (s : State) (m : Nat) : State :=
  if (s.mx m).fill = [] then s.setMx m { s.mx m with eslot := none } else s

/-- A remap of logical column c by the macro itself (R67), with its fill pass begun; a column with a valid entry already has its remap. -/
def State.autoRemap (s : State) (m c : Nat) : State :=
  if (List.range 16).any (fun (i : Nat) => (s.remap m i).testBit 15 && decide (s.remap m i % 2048 = c)) then s
  else
    match (List.range 16).find? (fun (i : Nat) => !(s.remap m i).testBit 15 && !(s.remap m i).testBit 17
        && !(SMap.get 0 s.bist.bad m).testBit i) with
    | some i => (s.setReg (macBase m + 0x40 + 4 * i) (BitVec.ofNat 32 (c + 0x8000))).fillStart m i
    | none => (s.flagF (macBase m) F.MAC_ECC_STAT_REMAP_FULL).raiseBlockId (m / 16) (s.faultId 0 (unitMac m) 0x05) 0 0

/-- Column c of macro m has reached REMAP_THRESH: MAC_REMAP_REQ, whatever entry is free (R67, Table 2.7). -/
def State.remapRequest (s : State) (m c : Nat) : State := ((s.raiseMacro m 0x04).autoRemap m c).freeMacroSlot m

/-- The slot of the watch table that a column without an entry replaces: the lowest-numbered of the lowest counts. -/
def watchVictim (l : List (Nat × Nat)) : Nat :=
  (List.range 4).foldl (fun b i => if (l.getD i (0, 0)).2 < (l.getD b (0, 0)).2 then i else b) 0

/-- A corrected error noted in the watch table (R67). A count that is above REMAP_THRESH already, because software has lowered it within the pass,
reaches it no more (log entry 100). -/
def State.noteColumn (s : State) (m c : Nat) : State :=
  let base := macBase m
  if s.isF base F.MAC_ECC_CTL_AUTO_REMAP then
    let w := (s.mx m).watch
    let (i, n) := match (List.range 4).find? (fun (i : Nat) => decide ((w.getD i (0, 0)).1 = c) && decide ((w.getD i (0, 0)).2 ≠ 0)) with
      | some i => (i, (w.getD i (0, 0)).2 + 1)
      | none => (watchVictim w, 1)
    let s1 := s.setMx m { s.mx m with watch := setAt w i (c, n) }
    if n = s.getF base F.MAC_ECC_CTL_REMAP_THRESH then s1.remapRequest m c else s1
  else s

/-- A correction recorded (R62). Where one read corrects several words, the spec does not say which of the columns COL takes: any one of them
(log entry 72). -/
def State.noteCe (s : State) (m r : Nat) (cols : List Nat) : State :=
  let base := macBase m
  let (x, s0) := if cols.length ≤ 1 then (0, s) else s.takeFree
  let s1 := (((s0.addF base F.MAC_ECC_STAT_CE_COUNT 1).setF base F.MAC_ECC_ADDR_ROW r).setF base F.MAC_ECC_ADDR_COL
    (cols.getD (x % cols.length) 0)).setF base F.MAC_ECC_ADDR_KIND 0
  cols.foldl (fun st c => st.noteColumn m c) s1

/-- An uncorrectable word recorded (Table 2.8). -/
def State.noteUe (s : State) (m r : Nat) : State :=
  let base := macBase m
  ((s.setF base F.MAC_ECC_ADDR_ROW r).setF base F.MAC_ECC_ADDR_COL 0x7FF).setF base F.MAC_ECC_ADDR_KIND 1

/-- Step 2 of R64: the row is poisoned. -/
def State.poisonRow (s : State) (m r : Nat) : State :=
  let s1 := (s.setF (macBase m) (rowBitFld 0xE0 r) 1).flagF (macBase m) F.MAC_ECC_STAT_UE
  s1.raiseBlockId (m / 16) (s1.faultId 0 (unitMac m) 0x03) 0 0

/-- A row read for a consumer (R61 to R64): its bytes where it delivers data at once, whether it was corrected, whether it found an
uncorrectable word, and the bytes that a repeated read delivers after a repair. -/
structure RowOut where
  data : Option (List Byte)
  ce : Bool
  ue : Bool
  again : Option (List Byte)
deriving DecidableEq, Repr

/-- A row read. `back` writes a corrected row back (scrub, fill, update). An uncorrectable word in a clean row makes the macro rewrite the row
from the shadow and read it again (R64): RESTORED is set, and where the repeated read is uncorrectable too, the row is poisoned and nothing counts as
repaired, so that MAC_UE_RESTORED is not raised (log entry 100). -/
def State.readRow (s : State) (m r : Nat) (back : Bool) : RowOut × State :=
  let (q, s0) := s.rowCheck m r
  if q.ue then
    let s1 := s0.noteUe m r
    if s1.rowDirty m r then (⟨none, false, true, none⟩, s1.poisonRow m r)
    else
      let (q2, s2) := (s1.restoreRow m r).rowCheck m r
      let s3 := s2.flagF (macBase m) F.MAC_ECC_STAT_RESTORED
      if q2.ue then (⟨none, false, true, none⟩, (s3.noteUe m r).poisonRow m r)
      else
        let s4 := s3.raiseMacro m 0x02
        (⟨none, !q2.ce.isEmpty, true, some q2.data⟩, if q2.ce.isEmpty then s4 else s4.noteCe m r q2.ce)
  else if q.ce.isEmpty then (⟨some q.data, false, false, none⟩, s0)
  else (⟨some q.data, true, false, none⟩, (if back then s0.putRow m r 255 q.data else s0).noteCe m r q.ce)

/-- What a read delivers in the end to a readback, correction, scrub, fill or synchronisation. -/
def RowOut.got (o : RowOut) : Option (List Byte) := match o.data with
  | some d => some d
  | none => o.again

/-- A merge write of selected bytes (R59, R64, R69): nothing is written where the read finds an uncorrectable word. -/
def State.mergeRow (s : State) (m r : Nat) (bytes : List (Nat × Byte)) : State :=
  let (o, s1) := s.readRow m r false
  match o.data with
  | some d => s1.writeRow m r 255 (bytes.foldl (fun l b => setAt l b.1 b.2) d) |>.setF (macBase m) (rowBitFld 0xE0 r)
      (s1.getF (macBase m) (rowBitFld 0xE0 r))
  | none => s1

/-! ## What is due on the row ports (R117; log entry 73)

A scrub step, a fill step and a readback have the age at which they were asked for. The oldest that nothing older holds goes first. -/

/-- The age of a scrub step that is due at macro m and free to go; a fill pass holds the scrub (R66), unless it waits itself for a restore or for the
claim of a self-test unit. -/
def State.scrubDue (s : State) (m : Nat) : Option Nat :=
  let x := s.mx m
  if 0 < x.scrubReq ∧ (x.fill = [] ∨ s.restoreHolds m x.fillAge = true ∨ s.claimHolds (m / 16) x.fillAge = true) ∧ s.stepFree m (s.getF (macBase m) F.MAC_SCRUB_POS_NEXT_ROW) true x.scrubAge = true then some x.scrubAge else none

/-- The age of a fill step that is due at macro m and free to go. -/
def State.fillDue (s : State) (m : Nat) : Option Nat :=
  let x := s.mx m
  match x.fill with
  | (_, r) :: _ => if s.stepFree m r true x.fillAge then some x.fillAge else none
  | [] => none

/-- The age of a readback that waits at macro m and is free to go. -/
def State.rbDue (s : State) (m : Nat) : Option Nat :=
  match (s.mx m).rb with
  | some a =>
    let r := s.getF (macBase m) F.MAC_RB_CTL_ROW
    if s.rowHeld (m / 16) (m % 16) r (r + 1) false a || s.restoreHolds m a then none else some a
  | none => none

/-- The age of a shadow synchronisation whose next read is free to go at macro m (R70). -/
def State.syncDue (s : State) (m : Nat) : Option Nat :=
  match (s.mx m).shop with
  | some ⟨false, r :: _, age⟩ => if s.stepFree m r false age then some age else none
  | _ => none

/-- The smallest of the ages that are given. -/
def oldest (l : List (Option Nat)) : Option Nat := (l.filterMap id).min?

/-- Age a comes before every age of the list. -/
def goesFirst (a : Option Nat) (l : List (Option Nat)) : Bool :=
  match a, oldest l with
  | some x, some y => decide (x < y)
  | some _, none => true
  | none, _ => false

/-- A maintenance step or readback of block b is due and free to go: it takes the row ports before any other work (R117). -/
def State.portsDue (s : State) (b : Nat) : Bool :=
  ((blkMacros b).flatMap (fun m => [s.scrubDue m, s.fillDue m, s.rbDue m, s.syncDue m])).any Option.isSome

/-- Scrub steps of block b go next on the row ports, as one block-wide operation: nothing else that is due is older (R117). -/
def State.scrubNextUp (s : State) (b : Nat) : Bool :=
  let ms := blkMacros b
  goesFirst (oldest (ms.map s.scrubDue)) (ms.flatMap (fun m => [s.fillDue m, s.rbDue m, s.syncDue m]))

/-- Fill steps of block b go next. -/
def State.fillNextUp (s : State) (b : Nat) : Bool :=
  let ms := blkMacros b
  goesFirst (oldest (ms.map s.fillDue)) (ms.flatMap (fun m => [s.scrubDue m, s.rbDue m, s.syncDue m]))

/-- Synchronisation reads of block b go next: each macro acts at its own row. -/
def State.syncNextUp (s : State) (b : Nat) : Bool :=
  let ms := blkMacros b
  goesFirst (oldest (ms.map s.syncDue)) (ms.flatMap (fun m => [s.scrubDue m, s.fillDue m, s.rbDue m]))

/-! ## Scrub (R63) -/

/-- The SCRUB event at macro m: ceil(512 / SCRUB_PERIOD) steps, dropped where earlier ones have not retired. -/
def State.scrubEvent (s : State) (m : Nat) : State :=
  let base := macBase m
  if s.isF base F.MAC_ECC_CTL_SCRUB_EN then
    if 0 < (s.mx m).scrubReq then s.flagF base F.MAC_ECC_STAT_SCRUB_BEHIND
    else
      let (a, s1) := s.takeAge (m / 16)
      (s1.setMx m { s1.mx m with scrubReq := ceilDiv 512 (s1.getF base F.MAC_ECC_CTL_SCRUB_PERIOD), scrubAge := a }).sbPeak (m / 16)
  else s

/-- One scrub step of macro m where one is due. -/
def State.scrubMacro (s : State) (m : Nat) : State :=
  let base := macBase m
  let r := s.getF base F.MAC_SCRUB_POS_NEXT_ROW
  if (s.scrubDue m).isSome then
    let s0 := if r = 0 then s.setMx m { s.mx m with watch := List.replicate 4 (0, 0) } else s
    let (_, s1) := s0.readRow m r true
    let s2 := s1.setMx m { s1.mx m with scrubReq := (s1.mx m).scrubReq - 1 }
    let s3 := s2.setF base F.MAC_SCRUB_POS_NEXT_ROW (r + 1)
    if r = 511 then s3.setF base F.MAC_SCRUB_POS_PASSES (s3.getF base F.MAC_SCRUB_POS_PASSES + 1) else s3
  else s

/-- SCRUB_STEP: one block-wide step, each macro at its own row (R117). -/
def scrubEff (s : State) (b : Nat) : State := (blkMacros b).foldl State.scrubMacro s

/-! ## Remap entries and fill passes (R65, R66, R68) -/

/-- A write of v to MAC_REMAPi of macro m. A new COL written with VALID to an entry that is valid already names another column: FILLED clears and
a new fill pass starts (the spec does not say; log entry 74). -/
def remapWrite (s : State) (m i v : Nat) : State :=
  let a := macBase m + 0x40 + 4 * i
  let old := s.remap m i
  if old.testBit 17 then s
  else
    let col := if v % 2048 < 1096 then v % 2048 else old % 2048
    let valid := v.testBit 15
    if valid && (List.range 16).any (fun (j : Nat) => decide (j ≠ i) && (s.remap m j).testBit 15 && decide (s.remap m j % 2048 = col)) then s
    else if !valid then
      let s1 := s.setReg a (BitVec.ofNat 32 col)
      (s1.setMx m { s1.mx m with fill := SMap.set 512 (s1.mx m).fill i 512 }).freeMacroSlot m
    else if old.testBit 15 && decide (old % 2048 = col) then s
    else
      (s.setReg a (BitVec.ofNat 32 (col + 0x8000))).fillStart m i

/-- The meaning of MAC_REMAP_VALID_WRITE. -/
def execMacRemapValidWrite (m i v : Nat) (s : State) : Host.Outcome State Fault Refusal :=
  .next (if s.compOn (m / 16) ∧ i < 16 then remapWrite s m i v else s)

/-- Spare i of macro m at row r, where the fill step's read delivered nothing to write: what the spare holds of the row is free (R66; log entry 99). -/
def State.openSpare (s : State) (m i r : Nat) : State :=
  let f := 1112 * rowNo m r + 1096 + i
  let (x, t) := s.takeFree
  { t with flips := { t.flips with mac := t.flips.mac.filter (fun g => decide (g ≠ f)) ++ (if x % 2 = 1 then [f] else []) } }

/-- One fill step of macro m (R66): the row is read and what the read delivers is written back. Of several entries being filled the lowest-numbered
goes on; the spec gives no order of passes (log entry 99). -/
def State.fillMacro (s : State) (m : Nat) : State :=
  match (s.mx m).fill with
  | (i, r) :: _ =>
    if (s.fillDue m).isSome then
      let (o, s1) := s.readRow m r true
      let s2 := match o.got with
        | some d => s1.putRow m r 255 d
        | none => s1.openSpare m i r
      if r = 511 then
        let s3 := s2.setReg (macBase m + 0x40 + 4 * i) (BitVec.ofNat 32 (s2.remap m i ||| 0x10000))
        (s3.setMx m { s3.mx m with fill := SMap.set 512 (s3.mx m).fill i 512 }).freeMacroSlot m
      else s2.setMx m { s2.mx m with fill := SMap.set 512 (s2.mx m).fill i (r + 1) }
    else s
  | [] => s

/-- FILL_STEP: one block-wide step (R117). -/
def fillEff (s : State) (b : Nat) : State := (blkMacros b).foldl State.fillMacro s

/-! ## MAC_CFG and readback (R76, R117) -/

/-- Work is in progress on macro m (R76): an operation, a maintenance step that is asked for, a readback, a synchronisation or a restore. The
claim of a self-test unit is neither an issued operation nor a maintenance step, and the model does not count it (log entry 75). -/
def State.macroBusy (s : State) (m : Nat) : Bool :=
  (s.mx m).rb.isSome || (s.mx m).shop.isSome || decide (0 < (s.mx m).scrubReq) || decide ((s.mx m).fill ≠ [])
    || (s.bx (m / 16)).issues.any (fun i => i.claims.any (fun c => decide (c.space ≠ 0) && c.mask.testBit (m % 16)))

/-- A write of v to MAC_CFG. -/
def macCfg (s : State) (m v : Nat) : State :=
  if s.macroBusy m then s.flagF (macBase m) F.MAC_STAT_CFG_REJ else s.plainWrite (macBase m) v

/-- The meaning of MAC_CFG_WRITE. -/
def execMacCfgWrite (m v : Nat) (s : State) : Host.Outcome State Fault Refusal :=
  .next (if s.compOn (m / 16) then macCfg s m v else s)

/-- A write of v to MAC_RB_CTL: ROW, and with GO an entry on the scoreboard, DONE cleared. -/
def rbWrite (s : State) (m v : Nat) : State :=
  let s1 := s.plainWrite (macBase m + 0x800) v
  if v.testBit 16 then
    let (age, s2) := (s1.setF (macBase m) F.MAC_RB_CTL_DONE 0).takeAge (m / 16)
    (s2.setMx m { s2.mx m with rb := some age }).sbPeak (m / 16)
  else s1

/-- The meaning of MAC_RB_GO. -/
def execMacRbGo (m v : Nat) (s : State) : Host.Outcome State Fault Refusal :=
  .next (if s.compOn (m / 16) then rbWrite s m v else s)

/-- The oldest readback of block b that waits for nothing, where no older step is due: (age, macro). -/
def State.rbNext (s : State) (b : Nat) : Option (Nat × Nat) :=
  let ms := blkMacros b
  let l := ms.filterMap (fun m => (s.rbDue m).map (fun a => (a, m)))
  let first := oldest (l.map (fun e => some e.1))
  if goesFirst first (ms.flatMap (fun m => [s.scrubDue m, s.fillDue m, s.syncDue m])) then l.find? (fun e => decide (some e.1 = first)) else none

/-- READBACK (R117): the oldest that is free to go reads its row. A poisoned row of the macro does not fault it: R64 faults operations at issue, and a
readback is issued by no context (log entry 100). -/
def readbackEff (s : State) (b : Nat) : State :=
  match s.rbNext b with
  | some (_, m) =>
    let base := macBase m
    let (o, s1) := s.readRow m (s.getF base F.MAC_RB_CTL_ROW) false
    let s2 := s1.setMx m { s1.mx m with rb := none }
    match o.got with
    | some d =>
      let s3 := (List.range 32).foldl (fun st i => st.setReg (base + 0x840 + 4 * i) (BitVec.ofNat 32 (leAt d (4 * i) 4))) s2
      ((s3.setF base F.MAC_RB_CTL_DONE 1).setF base F.MAC_RB_CTL_CE (b2n o.ce)).setF base F.MAC_RB_CTL_UE 0
    | none => (s2.setF base F.MAC_RB_CTL_CE 0).setF base F.MAC_RB_CTL_UE 1
  | none => s

/-! ## The shadow port (R69 to R71) -/

/-- Dirty rows of macro m, ascending. -/
def State.dirtyRows (s : State) (m : Nat) : List Nat :=
  (List.range 16).flatMap (fun (i : Nat) => (onesOf 32 (s.reg (macBase m + 0xA0 + 4 * i)).toNat).map (fun k => 32 * i + k))

/-- A sync or restore of macro m goes on or ends. -/
def State.setShop (s : State) (m : Nat) (o : Option ShadowOp) : State :=
  (s.setMx m { s.mx m with shop := o }).setF (macBase m) F.MAC_SHADOW_CTL_BUSY (b2n o.isSome)

/-- A sync or restore of macro m begins, younger than every issue made so far. -/
def State.shopStart (s : State) (m : Nat) (restore : Bool) (left : List Nat) : State :=
  let (a, s1) := s.takeAge (m / 16)
  (s1.setShop m (some ⟨restore, left, a⟩)).sbPeak (m / 16)

/-- A write of 1 to SYNC alone. With no dirty row there is nothing to copy. The rows are those that are dirty at the write: the spec does not say
whether one that becomes dirty later is copied too (log entry 76). -/
def shadowSync (s : State) (m : Nat) : State :=
  if (s.mx m).shop.isSome then s
  else
    let l := s.dirtyRows m
    if l.isEmpty then s else s.shopStart m false l

/-- A write of 1 to RESTORE alone. The restore begins with the write, so that STALE is judged there (log entry 76). -/
def shadowRestore (s : State) (m : Nat) : State :=
  if (s.mx m).shop.isSome then s
  else
    let s1 := if s.anyDirty m then s.flagF (macBase m) F.MAC_SHADOW_CTL_STALE else s
    s1.shopStart m true (List.range 512)

/-- The meaning of MAC_SHADOW_SYNC. -/
def execMacShadowSync (m : Nat) (s : State) : Host.Outcome State Fault Refusal :=
  .next (if s.compOn (m / 16) then shadowSync s m else s)
/-- The meaning of MAC_SHADOW_RESTORE. -/
def execMacShadowRestore (m : Nat) (s : State) : Host.Outcome State Fault Refusal :=
  .next (if s.compOn (m / 16) then shadowRestore s m else s)

/-- A dirty row of macro m copied to the shadow (R70); a row whose read delivers nothing stays dirty. -/
def State.syncRow (s : State) (m : Nat) : State :=
  match (s.mx m).shop with
  | some ⟨false, r :: rest, age⟩ =>
    if s.stepFree m r false age then
      let (o, s1) := s.readRow m r false
      let s2 := match o.got with
        | some d =>
          let t := { s1 with mem := { s1.mem with wshadow := Mem.wrN s1.mem.wshadow (65536 * m + 128 * r) d } }
          t.setF (macBase m) (rowBitFld 0xA0 r) 0
        | none => s1
      s2.setShop m (if rest.isEmpty then none else some ⟨false, rest, age⟩)
    else s
  | _ => s

/-- The holding tag that a restore of macro m sets: one more than the ID of the weight image that covers its patch, 0 for none (R533). -/
def State.holdTag (s : State) (m : Nat) : Nat :=
  ((s.store.imgs.find? (fun r => decide (r.kind = 0 ∧ r.first ≤ m ∧ m < r.first + r.count))).map (fun r => r.id + 1)).getD 0

/-- Every row of macro m rewritten from the shadow, no row dirty or poisoned any more (R71), its holding tag set (R533). -/
def State.restoreAll (s : State) (m : Nat) : State :=
  let d := Mem.rdN s.mem.wshadow (65536 * m) 65536
  let stale := (List.range 512).flatMap (fun (r : Nat) =>
    if s.filledCols m = [] then [] else (s.staleCols m r 255 (slice d (128 * r) 128)).map (fun c => 1112 * rowNo m r + c))
  let s1 := { s with
      mem := { s.mem with rows := Mem.wrN (Mem.clear s.mem.rows (65536 * m) (65536 * (m + 1))) (65536 * m) d },
      flips := { s.flips with mac := s.flips.mac.filter (fun f => decide (f / 1112 / 512 ≠ m)) ++ stale },
      free := if s.filledCols m = [] then s.free else s.free + 1096 }
  (List.range 16).foldl (fun st i => (st.setReg (macBase m + 0xA0 + 4 * i) 0).setReg (macBase m + 0xE0 + 4 * i) 0)
    ((s1.setMx m { s1.mx m with held := s1.holdTag m }).setTag m none)

/-- A restore of macro m retires, when every issue, readback and step older than it has released the macro. -/
def State.restoreRetire (s : State) (m : Nat) : State :=
  match (s.mx m).shop with
  | some ⟨true, _, age⟩ =>
    let x := s.mx m
    if s.rowHeld (m / 16) (m % 16) 0 512 true age || s.rbHeld m 0 512 age || decide (0 < x.scrubReq ∧ x.scrubAge < age)
        || decide (x.fill ≠ [] ∧ x.fillAge < age) then s
    else (s.restoreAll m).setShop m none
  | _ => s

/-! ## Range monitors (R72 to R74) -/

/-- The histogram bin of a value (R73). -/
def monBin (e0 : Int) (v : F32) : Nat :=
  match f32v (f32abs v) with
  | .fin _ m e =>
    let q := ratOf m (e - e0)
    -- bin i holds 2^(i-1) ≤ |v| / 2^E0 < 2^i
    (List.range 15).foldl (fun b i => if decide (q.1 < 2 ^ i * q.2) && decide (b = 15) then i else b) 15
  | _ => 15

/-- One value passed to group g of macro m's monitor. -/
def State.monSample (s : State) (m g : Nat) (v : F32) : State :=
  let base := macBase m
  if s.isF base F.MAC_RMON_CTL_EN then
    let x := s.mx m
    let q := SMap.get RGrp.init x.mon g
    let b := monBin (toSigned 8 (s.getF base F.MAC_RMON_CTL_BIN_EXP0)) v
    let q1 := { q with bins := setAt q.bins b (satCount 32 (q.bins.getD b 0) 1) }
    let q2 := if f32isFinite v then
        { q1 with mn := if f32lt v q.mn then v else q.mn, mx := if f32lt q.mx v then v else q.mx,
                  sum := f32add q.sum v, cnt := satCount 32 q.cnt 1 }
      else q1
    s.setMx m { x with mon := SMap.set RGrp.init x.mon g q2 }
  else s

/-- lo ≤ x ≤ hi among codes; a NaN lies in no range. -/
def f32in (lo x hi : F32) : Bool :=
  !f32isNan lo && !f32isNan x && !f32isNan hi && !f32lt x lo && !f32lt hi x

/-- The registers of a monitor's statistics. -/
def isRmonStat (a : Nat) : Bool :=
  match locate a with
  | some l => decide (l.win = .mac) && decide (0x200 ≤ l.off) && decide (l.off < 0x600)
  | none => false

/-- Group g of macro m copied to its registers and judged. -/
def State.monGroup (s : State) (m g : Nat) (q : RGrp) : State :=
  let base := macBase m
  let a := base + 0x200 + 0x80 * g
  let mean := if q.cnt = 0 then 0#32 else f32div q.sum (f32ofInt (q.cnt : Int) 0)
  let s1 := (List.range 16).foldl (fun st i => st.setReg (a + 0x40 + 4 * i) (BitVec.ofNat 32 (q.bins.getD i 0))) s
  if q.cnt = 0 then
    s1.setMx m { s1.mx m with mon := SMap.set RGrp.init (s1.mx m).mon g { RGrp.init with run := q.run } }
  else
    let s2 := ((((s1.setReg a q.mn).setReg (a + 4) q.mx).setReg (a + 8) mean).setReg (a + 0xC) (BitVec.ofNat 32 q.cnt))
    let env := fun (i : Nat) => s2.reg (base + 0x600 + 0x10 * g + 4 * i)
    let ok := f32in (env 0) q.mx (env 1) && f32in (env 2) mean (env 3)
    let run := if ok then 0 else q.run + 1
    let f : Fld := ⟨0x180, 16 + g, 1⟩
    let s3 := if ok then s2.setF base f 0
      else if s2.getF base F.MAC_RMON_CTL_DRIFT_SLOTS ≤ run then s2.setF base f 1 else s2
    s3.setMx m { s3.mx m with mon := SMap.set RGrp.init (s3.mx m).mon g { RGrp.init with run := run } }

/-- After its groups are judged, macro m reports a drift once (R74). What EN = 0 stops the spec does not say beyond the watching of values (R72): the
boundary still copies, and a standing drift is still reported (log entry 77). -/
def State.monDrift (s : State) (m : Nat) : State :=
  let base := macBase m
  if s.getF base F.MAC_RMON_CTL_DRIFT_GROUPS ≠ 0 ∧ s.isF base F.MAC_RMON_CTL_DRIFT = false then
    (s.flagF base F.MAC_RMON_CTL_DRIFT).raiseMacro m 0x06
  else s

/-- Macros whose monitor registers say that some group is in drift. -/
def State.driftMacros (s : State) : List Nat :=
  s.regs.filterMap (fun e =>
    match locate e.1 with
    | some l => if l.win = .mac ∧ l.off = 0x180 ∧ bits e.2.toNat 16 8 ≠ 0 then some l.idx else none
    | none => none)

/-- The range monitors at a slot boundary: copy, restart, judge (R73, R74). -/
def State.monBoundary (s : State) : State :=
  let s0 := { s with
      regs := SMap.dropKeys isRmonStat s.regs,
      cad := { s.cad with monSeen := s.cad.monSeen ||| (bits s.onMask 4 16) } }
  let s1 := s.macros.foldl (fun st e => e.2.mon.foldl (fun t g => t.monGroup e.1 g.1 g.2) st) s0
  (s1.driftMacros).foldl State.monDrift s1

end Sys2Proof.Machine
end

