-- ==== Sys2Proof/Machine/Jobs.lean ====
section
/-! DEFINITION. Result sets and the plan's contexts (R202, R207, R210, R213 to R217, R301, R302), the scale tracker (R93 to R95), START
and STOP, and FETCH (R427). -/

namespace Sys2Proof.Machine

/-! ## Contexts of the installed plan -/

/-- (block, context) of every context header of a plan. -/
def planCtxs (img : List Byte) : List (Nat × Nat) :=
  (planDirs img).flatMap (fun d => if d.ty = 2 ∧ d.scope < 256 then (List.range (min d.cnt 32)).map (fun (c : Nat) => (d.scope, c)) else [])

/-- Blocks that have a CLAIMS section. -/
def planClaims (img : List Byte) : List Nat :=
  (planDirs img).filterMap (fun d => if d.ty = 1 ∧ d.scope < 256 then some d.scope else none)

/-- A register of block b's compute side as it stands, or as it is saved while the domain is off (R518). -/
def State.keptReg (s : State) (b off : Nat) : Word :=
  let a := blkBase b + off
  if s.compOn b then s.reg a else SMap.get (regReset a) (SMap.get ⟨[], []⟩ s.power.saved b).words a

/-- Context c of block b replaced, where it stands or is saved. -/
def State.setCtxNow (s : State) (b c : Nat) (x : Ctx) : State :=
  if s.compOn b then s.setCtx b c x
  else
    let v := SMap.get ⟨[], []⟩ s.power.saved b
    { s with power := { s.power with saved := SMap.set ⟨[], []⟩ s.power.saved b { v with ctxs := SMap.set Ctx.init v.ctxs c x } } }

/-- Context c of block b is enabled and its list is not empty (R113). -/
def State.ctxEnabled (s : State) (b c : Nat) : Bool :=
  (s.keptReg b 0).toNat.testBit c && decide (0 < (ctxHdr s.img b c).count)

/-- The enabled contexts of the installed plan. -/
def State.jobCtxs (s : State) : List (Nat × Nat) := (planCtxs s.img).filter (fun e => s.ctxEnabled e.1 e.2)

/-- The enabled contexts with REPEAT (R202). -/
def State.repeatCtxs (s : State) : List (Nat × Nat) := s.jobCtxs.filter (fun e => (ctxHdr s.img e.1 e.2).rep)

/-! ## The walk through an operation list (R209, R210, R216) -/

/-- Operation n of a context's list. -/
def ctxOp (img : List Byte) (b c n : Nat) : Nat := opRec img b ((ctxHdr img b c).first + n)

/-- The last operation of the chain group that holds operation n. -/
def grpEnd (img : List Byte) (b c : Nat) : Nat → Nat → Nat
  | 0, n => n
  | k + 1, n =>
    if opChain (ctxOp img b c n) && decide (n + 1 < (ctxHdr img b c).count) then grpEnd img b c k (n + 1) else n

/-- An operation with CHAIN = 0 whose N is 0 for a result set: it issues nothing (R216). -/
def silentOp (img : List Byte) (b : Nat) (rs : ResultSet) (w : Nat) : Bool :=
  let d := bindDesc (loopRec img b (opLoop w)) rs 1 (descAt img b (opDesc w 1))
  !opChain w && decide (opKind w = 1 ∨ opKind w = 2 ∨ opKind w = 6 ∨ opKind w = 7 ∨ opKind w = 0x10 ∨ opKind w = 0x11) && decide (d.exts.getD d.outdim 1 = 0)

/-- Iterations of the chain group that a context is in. -/
def grpTotal (img : List Byte) (b c : Nat) (rs : ResultSet) (x : Ctx) : Nat :=
  loopTotal (loopRec img b (opLoop (ctxOp img b c x.grp))) rs

/-- A context at the start of a chain group passes over the groups that issue nothing. -/
def ctxSettle (img : List Byte) (b c : Nat) (rs : ResultSet) : Nat → Ctx → Ctx
  | 0, x => x
  | k + 1, x =>
    let n := (ctxHdr img b c).count
    let e := grpEnd img b c n x.opn
    if x.opn < n ∧ (grpTotal img b c rs x = 0 ∨ (e = x.opn ∧ silentOp img b rs (ctxOp img b c x.opn) = true)) then
      ctxSettle img b c rs k { x with opn := e + 1, grp := e + 1, iter := 0 }
    else x

/-- The next iteration of the group, or the next group, after the group's last operation. -/
def ctxIterate (img : List Byte) (b c : Nat) (rs : ResultSet) (x : Ctx) : Ctx :=
  if x.iter + 1 < grpTotal img b c rs x then { x with opn := x.grp, iter := x.iter + 1 }
  else
    let n := (ctxHdr img b c).count
    let o := grpEnd img b c n x.grp + 1
    ctxSettle img b c rs n { x with opn := o, grp := o, iter := 0 }

/-- A context past the operation it has just issued; its pass ends where its list does. -/
def ctxAdvance (img : List Byte) (b c : Nat) (rs : ResultSet) (x : Ctx) : Ctx :=
  let n := (ctxHdr img b c).count
  let y := if x.opn < grpEnd img b c n x.grp then
      (if silentOp img b rs (ctxOp img b c (x.opn + 1)) then ctxIterate img b c rs { x with opn := x.opn + 1 }
      else { x with opn := x.opn + 1 })
    else ctxIterate img b c rs x
  { y with running := decide (y.opn < n) }

/-- The result set of number j still in work. -/
def State.setOf (s : State) (j : Nat) : Option ResultSet := s.sets.find? (fun r => decide (r.j = j))

/-- The first result set in work from number j on. -/
def State.nextSet (s : State) (j : Nat) : Option ResultSet :=
  s.sets.foldl (fun best r =>
    if j ≤ r.j then (match best with
      | some q => if r.j < q.j then some r else some q
      | none => some r) else best) none

/-- A context that has no pass under way begins its next one (R202), passing over rejected and void result sets (R214), waits with
reason 1, or is DONE (R113). -/
def State.ctxTidyN (s : State) (b c : Nat) : Nat → State
  | 0 => s
  | n + 1 =>
    let x := s.ctx b c
    if x.running || !decide (x.st = .ready ∨ x.st = .wait) || !s.ctxEnabled b c then s
    else
      let h := ctxHdr s.img b c
      let fin := if (s.ctxIssues b c).isEmpty then s.setCtx b c { x with st := .done, reason := 0 } else s
      if !h.rep && decide (0 < x.taken) then fin
      else
        match (if h.rep then s.nextSet x.taken else s.setOf 0) with
        | some rs =>
          let y := ctxSettle s.img b c rs h.count
            { x with st := .ready, reason := 0, taken := rs.j + 1, opn := 0, grp := 0, iter := 0 }
          (s.setCtx b c { y with running := decide (y.opn < h.count) }).ctxTidyN b c n
        | none =>
          if h.rep || decide (s.job.j = 0) then
            s.setCtx b c { x with st := .wait, reason := 1, taken := max x.taken s.job.j, opn := 0, grp := 0, iter := 0 }
          else s.setCtx b c { x with st := .done, reason := 0, taken := 1 }

/-- Context c of block b brought up to date; one of a region that is off, or that has not restored its macros, waits for the wake to complete
(R499). -/
def State.ctxTidy (s : State) (b c : Nat) : State :=
  if s.compOn b && !decide (b / 16 ∈ s.power.restoring) then s.ctxTidyN b c (s.sets.length + 2) else s

/-- Every context of the plan brought up to date. -/
def State.tidyAll (s : State) : State := (planCtxs s.img).foldl (fun st e => st.ctxTidy e.1 e.2) s

/-! ## Slot-status records (R429) -/

/-- The record of a slot. -/
def State.slotRec (s : State) (n : Nat) : Option SlotRec := s.job.recs.find? (fun e => decide (e.slot = n))

/-- The record of a slot changed. -/
def State.modRec (s : State) (n : Nat) (f : SlotRec → SlotRec) : State :=
  { s with job := { s.job with recs := s.job.recs.map (fun e => if e.slot = n then f e else e) } }

/-- Numeric events of an operation noted in its result set's flags. -/
def State.recFl (s : State) (n : Nat) (f : Fl) : State :=
  s.modRec n (fun e => { e with flags := e.flags ||| (if 0 < f.acc then 2 else 0) ||| (if 0 < f.esc then 4 else 0)
    ||| (if 0 < f.nonf then 8 else 0) ||| (if 0 < f.qsat then 16 else 0) })

/-- Every REPEAT context has finished a result set: it is complete (R429). -/
def State.setComplete (s : State) (j : Nat) : Bool := s.repeatCtxs.all (fun e => s.ctxFinished e.1 e.2 j)

/-! ## FETCH (R427) -/

/-- Bytes of HBM read through the chip hub from byte a on; none where a line is refused or uncorrectable (R428), or
its controller is off. -/
def State.hubBytes (s : State) (a n : Nat) : Option (List Byte) × State :=
  let first := lineOf a
  let lines := if n = 0 then 0 else (lineOf (a + n - 1) - first) / 64 + 1
  let r := (List.range lines).foldl (fun (acc : Option (List Byte) × State) i =>
    match acc.1 with
    | some l =>
      let a := first + 64 * i
      let (d, e, t) := if acc.2.pcOn (hbmPc a) then acc.2.hubFetch a else ([], 1, acc.2)
      (if e = 0 then some (l ++ d) else none, t)
    | none => acc) (some [], s)
  (r.1.map (fun l => slice l (a - first) n), r.2.collSettle)

/-- Slots that lie between slot n and the current one; `none` where n is ahead. -/
def State.slotsBack (s : State) (n : Nat) : Option Nat :=
  let back := (s.slotNo + 2 ^ 48 - n) % 2 ^ 48
  if back < 2 ^ 47 then some back else none

/-- Slot n is older than S − COUNT + 1 of the output ring (R427), whatever its status (log entry 107). -/
def State.fetchOld (s : State) (n : Nat) : Bool :=
  match s.job.outRing, s.slotsBack n with
  | some g, some back => decide (g.count ≤ back)
  | _, _ => false

/-- A FETCH that waits, once its result set has a status other than PENDING: its bulk phase, or that status (R427); till then it holds its
place among the outbound transfers (R399). A slot that has grown too old, or that was passed without a result set, is answered SLOT_PASSED. -/
def State.serveFetch (s : State) (t : Taken) : State :=
  let n := leAt t.par 8 6
  match s.slotRec n with
  | some e =>
    if s.fetchOld n then s.finish t.id 0x0203 []
    else if e.status = 1 then s.holdOut t.id
    else if e.status = 0 then
      match s.hubBytes (t.aux.getD 1 0) (leAt t.par 0 4) with
      | (some d, s1) => (s1.armOut t.id d).setTaken { t with stage := 1 }
      | (none, s1) => s1.finish t.id 0x0504 []
    else s.finish t.id e.status (if e.status = 0x0501 then s.faultedRes else [])
  | none => if ((s.slotsBack n).map (fun k => decide (0 < k))).getD false then s.finish t.id 0x0203 [] else s.holdOut t.id

/-- Every FETCH that waits, looked at again. -/
def State.serveFetches (s : State) : State :=
  (s.mail.taken.filter (fun t => decide (t.op = 0x0702 ∧ t.stage = 0))).foldl State.serveFetch s

/-- A FETCH whose slot's ADMIT has fired without a record is answered SLOT_PASSED (R427). -/
def State.passFetches (s : State) (n : Nat) : State :=
  (s.mail.taken.filter (fun t => decide (t.op = 0x0702 ∧ t.stage = 0 ∧ leAt t.par 8 6 = n))).foldl (fun st t =>
    if (st.slotRec n).isNone then st.finish t.id 0x0203 [] else st) s

/-! ## Completion (R429, R437) -/

/-- Result sets that every REPEAT context has finished become complete; those no context needs any more leave; DRAINING ends with the last
(RESULT_SET_COMPLETE, DRAIN_COMPLETE). -/
def State.completeSets (s : State) : State :=
  let done := s.sets.filter (fun r => s.setComplete r.j)
  let s1 := done.foldl (fun st r =>
    match st.slotRec r.slot with
    | some e =>
      if e.status = 1 then
        let t := st.modRec r.slot (fun e => { e with status := 0, doneSlot := st.slotNo, donePhase := st.phase })
        { t with job := { t.job with lastDone := r.slot } }
      else st
    | none => st) s
  let leaves := fun (r : ResultSet) => s1.jobCtxs.all (fun e =>
    s1.ctxFinished e.1 e.2 r.j || (decide (0 < r.j) && !(ctxHdr s1.img e.1 e.2).rep))
  let s2 := { s1.noteEnded (s1.sets.filter leaves) with sets := s1.sets.filter (fun r => !leaves r) }
  let s3 := s2.serveFetches
  if s3.isIn [.draining] && s3.sets.all (fun r => s3.setComplete r.j) then
    let s4 := s3.goChip .armed
    { s4.finishOpt s4.job.drainCmd 0 (leBytes 6 s4.job.lastAdmit) with job := { s4.job with drainCmd := none } }
  else s3

/-! ## Admission (R207, R213, R214, R301, R354, R499) -/

/-- The values of V1 to V15 that a shape record gives (R213). -/
def shapeValues (img : List Byte) (r : List Byte) : List Nat :=
  (List.range 15).map (fun (i : Nat) => if (leAt r 0 4).testBit (i + 1) then leAt r (4 * (i + 1)) 4 else shapeDefault img (i + 1))

/-- Some value exceeds its bound (R214). -/
def shapeExceeds (img : List Byte) (vs : List Nat) : Bool :=
  (List.range 15).any (fun (i : Nat) => decide (shapeBound img (i + 1) < vs.getD i 0))

/-- The step field of the result set of number j and slot n (R101, R207). -/
def State.stepOf (s : State) (j n : Nat) : Nat :=
  (if planTraining s.img then s.job.stepBase + j / planStepSets s.img else n) % 2 ^ 32

/-- What the ADMIT of slot n finds: marks of a hand-off (bit 0 rejected, bit 1 void) and the shape record. -/
def State.shapeFor (s : State) (n : Nat) : Option (Nat × List Byte) :=
  if s.isF curShBase F.CUR_HANDOFF_RX_EN then (s.job.handoffs.find? (fun e => decide (e.1 = n))).map Prod.snd
  else (s.job.shapes.find? (fun e => decide (e.1 = n))).map (fun e => (0, e.2))

/-- The hand-off that the ADMIT of slot n sends (R354). -/
def State.sendHandoff (s : State) (n marks : Nat) (r : List Byte) : State :=
  if s.isF curShBase F.CUR_HANDOFF_TX_EN then
    s.originate ⟨s.getF curShBase F.CUR_HANDOFF_DST, s.ownCoord, 0x130, 0x130, 8, 0, 1, 0, marks, 0, n, padTo 64 r⟩
  else s

/-- The regions that Horizon powered off and that hold a REPEAT context wake (R499). -/
def State.demandWake (s : State) : State :=
  let off := s.getF hznBase F.HZN_REST_OFF
  if off = 0 then s
  else
    let mask := s.repeatCtxs.foldl (fun n e => n ||| 2 ^ (e.1 / 16)) 0
    let (s1, k) := s.hznWake (off &&& mask)
    s1.addF hznBase F.HZN_WAKE_CNT_DEMAND k

/-- The ADMIT event of the current slot in RUNNING (R301). Rejected and void result sets count toward j of R207 (log entry 29). -/
def State.admitSet (s : State) : State :=
  let n := s.slotNo
  let j := s.job.j
  let rx := s.isF curShBase F.CUR_HANDOFF_RX_EN
  let got := s.shapeFor n
  let marks := (got.map Prod.fst).getD 2
  let vs := shapeValues s.img ((got.map Prod.snd).getD [])
  let rejected := marks.testBit 0 || (!marks.testBit 1 && shapeExceeds s.img vs)
  let void := !rejected && marks.testBit 1
  let status := if rejected then 0x0412 else if void then 0x0502 else 1
  let flags := (if s.isF cadBase F.CAD_PHASE_COAST then 0x40 else 0) + (if rx && got.isSome then 0x80 else 0)
  let r : SlotRec := ⟨n, status, flags, 0, s.stepOf j n, 0, 0, 0, 0, 0, 0, 0, 0⟩
  let keep := s.job.recs.filter (fun e => decide (e.slot ≠ n) &&
    (decide ((n + 2 ^ 48 - e.slot) % 2 ^ 48 < 1024) || s.sets.any (fun q => decide (q.slot = e.slot))))
  let s1 := { s with
      job := { s.job with
        j := j + 1, recs := keep ++ [r], lastAdmit := n, shapes := s.job.shapes.filter (fun e => decide (e.1 ≠ n)),
        handoffs := s.job.handoffs.filter (fun e => decide (e.1 ≠ n)) },
      sets := if status = 1 then s.sets ++ [ResultSet.mk j n false false vs] else s.sets }
  let s2 := if rejected then s1.postEvent 0x3 0 n false else if void then s1.postEvent 0x4 0 n false else s1
  let s3 := s2.sendHandoff n (b2n rejected + 2 * b2n void) ((got.map Prod.snd).getD [])
  (s3.tidyAll).completeSets

/-- A hand-off arrives (R354): held for the next 16 slots, or for the current one while its ADMIT has not fired; else discarded. `fired`
says that the current slot's ADMIT has fired. -/
def State.takeHandoff (s : State) (m : CMsg) (fired : Bool) : State :=
  let n := m.addr % 2 ^ 48
  let ahead := (n + 2 ^ 48 - s.slotNo) % 2 ^ 48
  let okSlot := decide (ahead ≤ 16) && !(decide (ahead = 0) && fired)
  if s.isF curShBase F.CUR_HANDOFF_RX_EN && okSlot && !s.job.handoffs.any (fun e => decide (e.1 = n)) then
    { s with job := { s.job with handoffs := s.job.handoffs ++ [(n, (m.attr % 4, padTo 64 m.data))] } }
  else (s.flagF curShBase F.CUR_ERR_HANDOFF_STALE).chipEvent 3 (unitDev m.src) 0x87

/-! ## Deadlines (R302, R303) -/

/-- The first context of a mask in block blk that has not finished the result set of slot n; none where all have, and where no result set of that
slot is checked, being void, rejected or never admitted. A result set that STOP or an entry to FAULTED ended is checked as it stood then. -/
def State.lateCtx (s : State) (blk mask n : Nat) : Option Nat :=
  match s.sets.find? (fun r => decide (r.slot = n)) with
  | some r => (onesOf 32 mask).find? (fun c => !s.ctxFinished blk c r.j)
  | none =>
    match s.job.ended.find? (fun e => decide (e.1 = n)) with
    | some e => (onesOf 32 mask).find? (fun c => decide (¬ 32 * blk + c ∈ e.2))
    | none => none

/-- A DEADLINE record of index e fires: block, context mask, LAG. -/
def State.deadlineFire (s : State) (e blk mask lag : Nat) : State :=
  let n := (s.slotNo + 2 ^ 48 - lag) % 2 ^ 48
  match s.lateCtx blk mask n with
  | some c =>
    let wasLate := ((s.slotRec n).map (fun x => x.flags.testBit 0)).getD false
    let clear := !s.isF cadBase F.CAD_STAT_LATE
    let s1 := s.modRec n (fun x => { x with flags := x.flags ||| 1, late := satCount 8 x.late 1 })
    let s2 := if wasLate then s1 else s1.postEvent 0x2 0 n clear
    let s3 := if clear then
        (((s2.chipEvent 3 (unitChip 2) 0x71).setF cadBase F.CAD_LATE_INFO_BLOCK blk).setF cadBase F.CAD_LATE_INFO_CTX c).setF cadBase
          F.CAD_LATE_INFO_ENTRY e
      else s2
    ((s3.flagF cadBase F.CAD_STAT_LATE).addF cadBase F.CAD_LATE_CNT_COUNT 1).tally 58 1
  | none => s

/-! ## The scale tracker (R93, R94, R204) -/

/-- TRACKER record i of a plan: W, μ, C0, first macro, macro count, groups. -/
def trkRec (img : List Byte) (i : Nat) : List Byte := (planRec img 0x12 0xFFFF 32 i).getD []
def trkTid (r : List Byte) : Nat := leAt r 0 3
def trkW (r : List Byte) : Nat := leAt r 3 1 % 16 + 1
def trkMargin (r : List Byte) : F32 := f32of16 (leAt r 4 2)
def trkC0 (r : List Byte) : F32 := BitVec.ofNat 32 (leAt r 8 4)

/-- Entries of the tracker. -/
def trkCount (img : List Byte) : Nat := ((planSect img 0x12 0xFFFF).map Sect.cnt).getD 0

/-- The tracker as START leaves it. -/
def State.trkReset (s : State) : State :=
  { s with job := { s.job with trk := (List.range (trkCount s.img)).map (fun (i : Nat) => TrkEnt.mk [] 0#32 (trkC0 (trkRec s.img i))) } }

/-- The larger of two optional magnitudes. -/
def maxOpt : Option F32 → F32 → Option F32
  | some a, v => some (if f32lt a v then v else a)
  | none, v => some v

/-- The slot maximum of a tracker record from the range monitors' registers (R94): groups without values do not contribute. -/
def State.slotMax (s : State) (r : List Byte) : Option F32 :=
  (List.range (leAt r 14 2)).foldl (fun best i =>
    (onesOf 8 (leAt r 16 1)).foldl (fun best g =>
      let a := macBase (leAt r 12 2 + i) + 0x200 + 0x80 * g
      if s.reg (a + 0xC) = 0#32 then best else maxOpt (maxOpt best (f32abs (s.reg a))) (f32abs (s.reg (a + 4)))) best) none

/-- The entries of the tracker changed one by one, each with its TRACKER record. -/
def State.trkMap (s : State) (f : List Byte → TrkEnt → TrkEnt) : State :=
  let l := List.zipWith (fun (i : Nat) (e : TrkEnt) => f (trkRec s.img i) e) (List.range s.job.trk.length) s.job.trk
  { s with job := { s.job with trk := l } }

/-- After the monitors have copied at a boundary, the closed slot's maxima enter the windows (R94). -/
def State.trkPush (s : State) : State :=
  s.trkMap (fun r e =>
    match s.slotMax r with
    | some m => { e with win := (m :: e.win).take (trkW r), cur := m }
    | none => e)

/-- The scale-tracker event sets each clip value (R94). -/
def State.trkEvent (s : State) : State :=
  s.trkMap (fun r e =>
    match e.win with
    | m :: rest => { e with clip := f32mul (rest.foldl (fun a v => if f32lt a v then v else a) m) (trkMargin r) }
    | [] => { e with clip := trkC0 r })

/-- The clip value of a tensor (R95, R204): +∞ without an entry. -/
def State.clipOf (s : State) (tid : Nat) : F32 :=
  match (List.range s.job.trk.length).find? (fun (i : Nat) => decide (trkTid (trkRec s.img i) = tid)) with
  | some i => ((s.job.trk[i]?).map TrkEnt.clip).getD 0x7F800000#32
  | none => 0x7F800000#32

/-! ## START and STOP (R113, R157, R167, R437) -/

/-- Pointers of circular regions and arrival counters: START sets them to 0. -/
def isStartReg (a : Nat) : Bool :=
  match locate a with
  | some l => decide (l.win = .blk) &&
      ((decide (0x10100 ≤ l.off) && decide (l.off < 0x10200) && decide (l.off % 16 = 8)) || (decide (0x10340 ≤ l.off) && decide (l.off < 0x10380)))
  | none => false

/-- Outbound credits of block b: SIZE of every valid entry (R157). -/
def State.giveCredits (s : State) (b : Nat) : State :=
  (List.range 16).foldl (fun st j =>
    st.setF (blkBase b) (F.SPD_OUT_CRED_CREDITS.idx (4 * j)) (if (outWord st.img b j 0).testBit 31 then outWord st.img b j 1 % 1024 else 0)) s

/-- A block's bookkeeping as START leaves it. -/
def BlockX.startJob (x : BlockX) : BlockX :=
  { x with issues := [], probes := [], chains := [], outbox := [], circTaken := [], circBegun := [], circRead := [], outNext := [], rowsWr := [], rowsRd := [],
           predG := [], far := [] }

/-- The job's state as at START: no result set, regions empty with full credits, counters at 0, the tracker restarted. The spec does not say
what START does to the range monitors: the model restarts the running statistics and the drift runs of every macro (DESIGN CHOICE, log entry 71). -/
def State.jobReset (s0 : State) : State :=
  let s := s0.noteEnded s0.sets
  let s1 := { s with
      regs := SMap.dropKeys isStartReg s.regs,
      blocks := s.blocks.map (fun (e : Nat × BlockX) => (e.1, e.2.startJob)),
      macros := s.macros.map (fun (e : Nat × MacroX) => (e.1, { e.2 with mon := [] })),
      sets := [], job := { s.job with j := 0 } }
  ((planClaims s.img).foldl (fun st b => if st.spdOn b then st.giveCredits b else st) s1).trkReset

/-- START takes effect at a slot boundary (Table 1.12): every enabled context with a list becomes READY. -/
def State.startJob (s : State) : State :=
  let s1 := s.jobReset
  let s2 := (planCtxs s1.img).foldl (fun st e =>
    st.setCtxNow e.1 e.2 { Ctx.init with st := if st.ctxEnabled e.1 e.2 then .ready else .off }) s1
  (s2.goChip .running).tidyAll

/-- The fences are lifted (R445): the blocks issue again. Their routers' local ports stay isolated, which only a reset ends (Table 11.6). -/
def State.liftFences (s : State) : State :=
  (List.range 16).foldl (fun st r =>
    let base := rgnBase r
    if st.getF base F.RGN_ERR_FENCE_BLOCKS = 0 then st else st.setF base F.RGN_ERR_FENCE_BLOCKS 0) s

/-- STOP empties every circular region of every block and discards its credits (R157). -/
def State.emptyRegions (s : State) : State :=
  (List.range 256).foldl (fun st b =>
    if st.spdOn b then
      (List.range 16).foldl (fun t i =>
        let p := F.SPD_CIRC_PTR_HEAD.idx (0x10 * i)
        (t.setF (blkBase b) p (t.getF (blkBase b) (F.SPD_CIRC_PTR_TAIL.idx (0x10 * i)))).setF (blkBase b)
          (F.SPD_OUT_CRED_CREDITS.idx (4 * i)) 0) st
    else st) s

/-- No step is being completed or was completed under PATH1 (R473), and none is to be committed without a reduction (R479): these end with the job. -/
def State.endPath1 (s : State) : State :=
  let s1 := s.setF nimBase F.NIM_STAT_P1DONE 0
  { s1 with nim := { s1.nim with path1 := none, noReduce := false } }

/-- A job ends by STOP: contexts stop, unfinished result sets are DISCARDED, regions are empty, fences are lifted. -/
def State.stopJob (s : State) : State :=
  ((((((s.noteEnded s.sets).stopContexts false).endSets 0x0503).serveFetches).emptyRegions).liftFences).endPath1

/-- CIR_STAT.RECAL cleared in a register entry: the block's window closes. -/
def closeRecal (e : Nat × Word) : Nat × Word :=
  match locate e.1 with
  | some l => if l.win = .blk ∧ l.off = 0x30100 then (e.1, BitVec.ofNat 32 (putBits e.2.toNat 1 1 0)) else e
  | none => e

/-- A plan is discarded (Table 1.12): nothing is installed; windows that RECAL_OPEN opened close (R298). Phase 0 of this slot, where the implicit
SCRUB fires, has passed. -/
def State.discardPlan (s : State) : State :=
  let regs := (s.regs.map closeRecal).filter (fun e => decide (e.2 ≠ regReset e.1))
  { s with
      regs := regs, img := [], sets := [], cad := { s.cad with fired := s.cad.fired ++ [1026] },
      job := { s.job with trk := [], shapes := [], submitted := [], handoffs := [], ended := [] } }

end Sys2Proof.Machine
end

