-- ==== Sys2Proof/Machine/Cirrus.lean ====
section
/-! DEFINITION. Cirrus outside its predictions: thresholds, judgement of audits, recalibration (R280 to R285). -/

namespace Sys2Proof.Machine

/-- The filtered junction temperature of region r in 1/256 m°C: channel r of Horizon (R284, Table 16.1). -/
def State.regionTemp (s : State) (r : Nat) : Int := toSigned 32 (s.getF hznBase (F.HZN_CH_VAL_F.idx (0x10 * r)))

/-- The threshold of block b's array (R268). -/
def State.cirThr (s : State) (b : Nat) : Int := toSigned 24 (s.getF (blkBase b) F.CIR_THRESH_THR)

/-- A write to CIR_THRESH waits for the next slot boundary before it takes effect (R281); a read returns the value written from then on, as of every RW
field (Table 0.4). -/
def cirThrWrite (s : State) (b v : Nat) : State := s.setBx b { s.bx b with thrPend := some (v % 2 ^ 24) }

/-- The meaning of CIR_THRESH_WRITE. -/
def execCirThreshWrite (b v : Nat) (s : State) : Host.Outcome State Fault Refusal :=
  .next (if s.compOn b then cirThrWrite s b v else s)

/-- THR after an automatic lowering: down by STEP, not below CIR_THR_MIN, and never raised (R280; log entry 30). -/
def lowered (thr mn step : Int) : Int := min thr (max (thr - step) mn)

/-- The judgement of block b's audits (R280). -/
def State.judge (s : State) (b : Nat) : State :=
  let base := blkBase b
  let x := s.bx b
  if x.audA = 0 then s
  else
    let s0 := s.setBx b { x with audA := 0, audM := 0 }
    let thr := s.cirThr b
    let mn := toSigned 24 (s.getF base F.CIR_THR_MIN_MIN)
    let s1 := if s.getF base F.CIR_MISS_CTL_MISS_LIM * x.audA < x.audM * 256 ∧ s.isF base F.CIR_CFG_AUTO = true then
        (if thr = mn then
          (if s0.isF base F.CIR_STAT_FLOOR then s0 else (s0.flagF base F.CIR_STAT_FLOOR).chipEvent 1 (unitBlk b) 0x52)
        else s0.setF base F.CIR_THRESH_THR (ofSigned 24 (lowered thr mn (s.getF base F.CIR_AUTO_STEP : Nat))))
      else s0
    if s.getF base F.CIR_MISS_CTL_POST_LIM * x.audA < x.audM * 256 then
      (s1.flagF base F.CIR_STAT_MISS_HIGH).chipEvent 1 (unitBlk b) 0x51
    else s1

/-- A threshold that was written takes effect, over any lowering (R281). -/
def State.applyThr (s : State) (b : Nat) : State :=
  match (s.bx b).thrPend with
  | some v => (s.setF (blkBase b) F.CIR_THRESH_THR v).setBx b { s.bx b with thrPend := none }
  | none => s

/-- Every array judges its audits and applies threshold writes at a slot boundary (R296). -/
def State.cirBoundary (s : State) : State :=
  ((s.blocks.filter (fun e => decide (0 < e.2.audA) || e.2.thrPend.isSome)).map Prod.fst).foldl (fun st b => (st.judge b).applyThr b) s

/-- A whole number of °C for a temperature in 1/256 m°C; which way a fraction rounds is free (R284; log entry 31). -/
def State.wholeDeg (s : State) (f : Int) : Int × State :=
  if f % 256000 = 0 then (f / 256000, s)
  else
    let (x, s1) := s.takeFree
    (f / 256000 + (x % 2 : Nat), s1)

/-- The trims of chain n of block b's array set, to values that the spec leaves open (R283; log entry 32). -/
def State.setTrim (s : State) (b n : Nat) : State :=
  let (o, s1) := s.takeFree
  let (g, s2) := s1.takeFree
  { s2 with mem := { s2.mem with cirTrim := SMap.set (0, 0) s2.mem.cirTrim (256 * b + n) (o, g) } }

/-- One chain of block b's array is trimmed; `ok` says that its trim lies within range: one out of range keeps the trims it had (R283 to R285). -/
def recalChain (s : State) (b : Nat) (ok : Bool) : State :=
  let base := blkBase b
  if s.compOn b && s.isF base F.CIR_STAT_RECAL then
    let n := s.getF base F.CIR_CAL_STAT_NEXT_CHAIN
    let f : Fld := ⟨0x30110 + 4 * (n / 32), n % 32, 1⟩
    let s1 := if ok then (s.setTrim b n).setF base f 0 else (s.flagF base f).chipEvent 1 (unitBlk b) 0x53
    let s2 := s1.setF base F.CIR_CAL_STAT_NEXT_CHAIN (n + 1)
    if n = 255 then
      let (t, s3) := s2.wholeDeg (s2.regionTemp (b / 16))
      ((s3.flagF base F.CIR_STAT_CAL).setF base F.CIR_CAL_STAT_TEMP (ofSigned 8 t)).setF base F.CIR_CAL_STAT_PASSES
        (s3.getF base F.CIR_CAL_STAT_PASSES + 1)
    else s2
  else s

/-- The meaning of RECALIBRATION_CHAIN. -/
def execRecalibrationChain (b : Nat) (ok : Bool) (s : State) : Host.Outcome State Fault Refusal := .next (recalChain s b ok)

/-- A recalibration window of block b opens or closes (R282, R298). -/
def State.recalWindow (s : State) (b : Nat) (isOpen : Bool) : State :=
  if s.compOn b then s.setF (blkBase b) F.CIR_STAT_RECAL (b2n isOpen) else s

end Sys2Proof.Machine
end

