-- ==== Sys2Proof/Machine/Scratch.lean ====
section
/-! DEFINITION. The block scratchpads apart from a block's own issues (R144 to R172): ECC, the retained window and its shadow, the gather
buffer, remote access, circular regions, the region atomic unit. -/

namespace Sys2Proof.Machine

/-! ## Issues in flight -/

/-- Issue or probe `id` of a block changed. -/
def BlockX.modIssue (x : BlockX) (id : Nat) (f : Issue → Issue) : BlockX :=
  let g := fun (l : List Issue) => l.map (fun i => if i.id = id then f i else i)
  { x with issues := g x.issues, probes := g x.probes }

/-- Issue or probe `id` of block b changed. -/
def State.modIssue (s : State) (b id : Nat) (f : Issue → Issue) : State := s.setBx b ((s.bx b).modIssue id f)

/-- Issue `id` of block b. -/
def State.issueOf (s : State) (b id : Nat) : Option Issue := (s.bx b).issues.find? (fun i => decide (i.id = id))

/-- Issue or probe `id` of block b, with true for a probe. -/
def State.workOf (s : State) (b id : Nat) : Option (Issue × Bool) :=
  match s.issueOf b id with
  | some i => some (i, false)
  | none => ((s.bx b).probes.find? (fun i => decide (i.id = id))).map (fun i => (i, true))

/-- A fault of class cls, naming a unit, raised while issue `id` is in flight (R124): it stores nothing more, and its context faults. -/
def State.issueFault (s : State) (b id unit cls : Nat) : State :=
  match s.workOf b id with
  | some (i, _) =>
    if i.faulted then s
    else
      let s1 := (s.modIssue b id (fun x => { x with faulted := true })).raiseBlock b unit cls i.ctx i.opIndex
      let s2 := s1.faultCtx b i.ctx cls
      s2.setBx b { s2.bx b with probes := (s2.bx b).probes.filter (fun x => decide (x.ctx ≠ i.ctx)) }
  | none => s

/-! ## The retained window (R168 to R170) -/

/-- First byte and size of block b's retained window; size 0 where it is not in use. -/
def State.retWin (s : State) (b : Nat) : Nat × Nat :=
  let base := blkBase b
  if s.isF base F.SPD_RET_VALID then (64 * s.getF base F.SPD_RET_BASE, 1024 * s.getF base F.SPD_RET_SIZE_KIB) else (0, 0)

/-- The KiB of the retained window that byte o of block b lies in. -/
def State.retKib (s : State) (b o : Nat) : Option Nat :=
  let w := s.retWin b
  if w.1 ≤ o ∧ o < w.1 + w.2 then some ((o - w.1) / 1024) else none

/-- The dirty bit of KiB k. -/
def dirtyFld (k : Nat) : Fld := ⟨0x10388 + 4 * (k / 32), k % 32, 1⟩

/-- KiB k of block b's window is dirty. -/
def State.kibDirty (s : State) (b k : Nat) : Bool := decide (s.getF (blkBase b) (dirtyFld k) = 1)

/-- A restore of the window runs: accesses to byte o of the window are held (R170). -/
def State.retHeld (s : State) (b o : Nat) : Bool :=
  (((s.bx b).shop.map ShadowOp.restore).getD false) && (s.retKib b o).isSome

/-- KiB k of the window rewritten from the shadow (R151, R170). -/
def State.kibRestore (s : State) (b k : Nat) : State :=
  let o := (s.retWin b).1 + 1024 * k
  let s1 := s.spdWr b o (Mem.rdN s.mem.sshadow (65536 * b + 1024 * k) 1024)
  { s1 with flips := { s1.flips with spd := clearFlips s1.flips.spd (65536 * b + o / 8) 128 } }

/-! ## Reads and writes of a bank (R146, R150, R151, R169) -/

/-- An error noted in SPD_ECC_ADDR. -/
def State.spdErr (s : State) (b o w kind : Nat) : State :=
  let base := blkBase b
  ((s.setF base F.SPD_ECC_ADDR_LINE (o / 64)).setF base F.SPD_ECC_ADDR_WORD w).setF base F.SPD_ECC_ADDR_KIND kind

/-- What a read found in a word of a line is noted (R150, R151): a corrected word is counted and written back, either kind names its line. -/
def State.spdNote (s : State) (b o w : Nat) (q : WordRead) : State :=
  let word := 65536 * b + o / 8 + w
  if q.kind = 0 then s
  else if q.kind = 2 then s.spdErr b o w 1
  else
    let s1 := ((s.addF (blkBase b) F.SPD_STAT_CE_COUNT 1).spdErr b o w 0).spdWr b (o + 8 * w) q.data
    { s1 with flips := { s1.flips with spd := clearFlips s1.flips.spd word 1 } }

/-- An uncorrectable word was met in the line at byte o (R151): a clean KiB of the retained window is rewritten from the shadow and the access is
repeated (true); else UE is set. -/
def State.spdRepair (s : State) (b o : Nat) : Bool × State :=
  match s.retKib b o with
  | some k => if s.kibDirty b k then (false, s.flagF (blkBase b) F.SPD_STAT_UE) else (true, s.kibRestore b k)
  | none => (false, s.flagF (blkBase b) F.SPD_STAT_UE)

/-- The line at byte o (a multiple of 64) of block b read through ECC: none where an uncorrectable word is not repaired (R151). -/
def State.spdLine (s : State) (b o : Nat) : Option (List Byte) × State :=
  let (l, s0) := s.eccLine s.flips.spd (65536 * b + o / 8) (s.spdRd b o 64)
  let s1 := (l.zip (List.range 8)).foldl (fun st e => st.spdNote b o e.2 e.1) s0
  if !lineUe l then (some (lineBytes l), s1)
  else
    let (ok, s2) := s1.spdRepair b o
    (if ok then some (s2.spdRd b o 64) else none, s2)

/-- One byte written with bit enables; a changed byte of the retained window sets its KiB's dirty bit (R169; log entry 36). -/
def State.spdByte (s : State) (b o : Nat) (v en : Byte) : State :=
  let old := Mem.rd s.mem.spd (0x80000 * b + o)
  let new := mergeByte old v en
  if new = old then s
  else
    let s1 := { s with mem := { s.mem with spd := Mem.wr s.mem.spd (0x80000 * b + o) new } }
    match s.retKib b o with
    | some k => s1.setF (blkBase b) (dirtyFld k) 1
    | none => s1

/-- Bytes of one 8-byte word w of block b written (R146, R150, R151; log entry 81). A word written whole is not read. Else the merge reads it: a
corrected word counts as a read's does, and what is written has new check bits; an uncorrectable one that is not repaired is not written (true). -/
def State.spdWordPut (s : State) (b w : Nat) (cells : List (Nat × Byte × Byte)) : Bool × State :=
  let word := 65536 * b + w
  let o := w / 8 * 64
  let put := fun (t : State) =>
    let t1 := cells.foldl (fun st c => st.spdByte b c.1 c.2.1 c.2.2) t
    (false, { t1 with flips := { t1.flips with spd := clearFlips t1.flips.spd word 1 } })
  if (List.range 8).all (fun (j : Nat) => cells.any (fun c => decide (c.1 = 8 * w + j) && decide (c.2.2 = 0xFF))) then put s
  else
    let (q, s1) := s.eccWord s.flips.spd word (s.spdRd b (8 * w) 8)
    if q.kind = 2 then
      let (ok, s2) := (s1.spdNote b o (w % 8) q).spdRepair b o
      if ok then put s2 else (true, s2)
    else put ((s1.spdNote b o (w % 8) q).spdWr b (8 * w) q.data)

/-- Bytes of block b written to their banks, as (offset, value, enables); true where a merge met an uncorrectable word, whose bytes are not written. -/
def State.spdMerge (s : State) (b : Nat) (cells : List (Nat × Byte × Byte)) : Bool × State :=
  if s.flips.spd.isEmpty then (false, cells.foldl (fun st c => st.spdByte b c.1 c.2.1 c.2.2) s)
  else
    (dedup (cells.map (fun c => c.1 / 8))).foldl (fun (acc : Bool × State) w =>
      let (u, t) := acc.2.spdWordPut b w (cells.filter (fun c => decide (c.1 / 8 = w)))
      (acc.1 || u, t)) (false, s)

/-- Bytes of block b written to their banks, none of them by an issue. -/
def State.spdPut (s : State) (b : Nat) (cells : List (Nat × Byte × Byte)) : State := (s.spdMerge b cells).2

/-- Bytes that issue `id` writes: a merge that meets an uncorrectable word faults the operation (R151). -/
def State.spdPutBy (s : State) (b id : Nat) (cells : List (Nat × Byte × Byte)) : State :=
  let (u, t) := s.spdMerge b cells
  if u then t.issueFault b id (unitBlk b) 0x34 else t

/-! ## The gather buffer (R153, R154; log entry 80) -/

/-- The bytes of a buffered line, over those of its bank. -/
def GLine.over (g : GLine) (bank : List Byte) : List Byte := mergeLine bank g.data

/-- A dirty line of block b's gather buffer is written to its bank and is dirty no longer; a restore of the retained window holds it back. -/
def State.gatherFlush (s : State) (b o : Nat) : State :=
  match (s.bx b).gather.find? (fun g => decide (g.line = o)) with
  | some g =>
    if g.data.isEmpty || s.retHeld b o then s
    else
      let s1 := s.setBx b { s.bx b with
        gather := (s.bx b).gather.map (fun x => if x.line = o then { x with data := [], clean := x.clean.map x.over } else x) }
      s1.spdPutBy b g.iss (g.data.map (fun d => (o + d.1, d.2.1, d.2.2)))
  | none => s

/-- A line leaves the gather buffer. -/
def State.gatherDrop (s : State) (b o : Nat) : State :=
  s.setBx b { s.bx b with gather := (s.bx b).gather.filter (fun g => decide (g.line ≠ o)) }

/-- Another requester writes the line at byte o: the buffer writes it first and lets it go (R154). -/
def State.gatherYield (s : State) (b o : Nat) : State := (s.gatherFlush b o).gatherDrop b o

/-- Bytes merged into a gather line, later writes over earlier ones. -/
def gatherMerge (l : List (Nat × Byte × Byte)) (d : Nat × Byte × Byte) : List (Nat × Byte × Byte) :=
  match l.find? (fun x => decide (x.1 = d.1)) with
  | some x => l.map (fun y => if y.1 = d.1 then (y.1, mergeByte x.2.1 d.2.1 d.2.2, x.2.2 ||| d.2.2) else y)
  | none => l ++ [d]

/-- The buffer holds at most 8 lines: the least recently used is evicted (R153). -/
def State.gatherEvict (s : State) (b : Nat) : State :=
  if 8 < (s.bx b).gather.length then
    match (s.bx b).gather.find? (fun g => !s.retHeld b g.line) with
    | some g => s.gatherYield b g.line
    | none => s
  else s

/-- Line o of the buffer, allocated where it is not there, as the one used last. -/
def State.gatherUse (s : State) (b o : Nat) (f : GLine → GLine) : State :=
  let x := s.bx b
  let g := (x.gather.find? (fun g => decide (g.line = o))).getD ⟨o, [], none, 0⟩
  (s.setBx b { x with gather := x.gather.filter (fun g => decide (g.line ≠ o)) ++ [f g] }).gatherEvict b

/-- A narrow write of issue `id` merges into the buffer's line (R153). -/
def State.gatherWrite (s : State) (b id o : Nat) (data : List (Nat × Byte × Byte)) : State :=
  s.gatherUse b o (fun g => { g with data := data.foldl gatherMerge g.data, iss := id })

/-- A narrow read of the line at byte o: from the buffer where it holds the line, else from its bank, the line then held (R153). -/
def State.gatherRead (s : State) (b o : Nat) : Option (List Byte) × State :=
  let g := ((s.bx b).gather.find? (fun g => decide (g.line = o))).getD ⟨o, [], none, 0⟩
  match g.clean with
  | some l => (some (g.over l), s.gatherUse b o id)
  | none =>
    match s.spdLine b o with
    | (some l, t) => (some (g.over l), t.gatherUse b o (fun x => { x with clean := some l }))
    | (none, t) => (none, t)

/-- The meaning of GATHER_LINE_FLUSH. -/
def execGatherLineFlush (b line : Nat) (s : State) : Host.Outcome State Fault Refusal :=
  .next (if s.spdOn b then s.gatherFlush b line else s)

/-! ## Circular regions (R156 to R159, R592) -/

/-- A field of circular region i of block b. -/
def State.circ (s : State) (b i : Nat) (f : Fld) : Nat := s.getF (blkBase b) (f.idx (0x10 * i))
/-- Region i is valid; is fed from outside. -/
def State.circValid (s : State) (b i : Nat) : Bool := decide (s.circ b i F.SPD_CIRC_BASE_VALID = 1)
def State.circRemote (s : State) (b i : Nat) : Bool := decide (s.circ b i F.SPD_CIRC_CFG_REMOTE = 1)
/-- First byte, bytes of a slot, slots. -/
def State.circBase (s : State) (b i : Nat) : Nat := 64 * s.circ b i F.SPD_CIRC_BASE_BASE
def State.circSlot (s : State) (b i : Nat) : Nat := 64 * s.circ b i F.SPD_CIRC_CFG_SLOT
def State.circSize (s : State) (b i : Nat) : Nat := s.circ b i F.SPD_CIRC_CFG_SIZE
/-- HEAD and TAIL. -/
def State.circHead (s : State) (b i : Nat) : Nat := s.circ b i F.SPD_CIRC_PTR_HEAD
def State.circTail (s : State) (b i : Nat) : Nat := s.circ b i F.SPD_CIRC_PTR_TAIL
/-- The difference of two pointers of a region. -/
def ptrDiff (size a b : Nat) : Nat := (a + 2 * size - b % (2 * size)) % (2 * size)
/-- The valid region of block b that byte o lies in; an offset of 0x6_0000 or above lies in none (R155). -/
def State.circAt (s : State) (b o : Nat) : Option Nat :=
  (List.range 16).find? (fun (i : Nat) => s.circValid b i && decide (s.circBase b i ≤ o)
    && decide (o < s.circBase b i + s.circSlot b i * s.circSize b i) && decide (o < 0x60000))

/-- A pointer register of region i set. -/
def State.setPtr (s : State) (b i : Nat) (f : Fld) (v : Nat) : State := s.setF (blkBase b) (f.idx (0x10 * i)) v

/-- Key of the mark that a remote slot is complete ahead of an earlier one. -/
def doneKey (i ptr : Nat) : Nat := 65536 + 2048 * i + ptr

/-- TAIL passes every remote slot that is complete, in the order they were taken (R158). -/
def State.tailRun (s : State) (b i : Nat) : Nat → State
  | 0 => s
  | n + 1 =>
    let t := s.circTail b i
    if SMap.get 0 (s.bx b).circBegun (doneKey i t) = 1 then
      let s1 := s.setBx b { s.bx b with circBegun := SMap.set 0 (s.bx b).circBegun (doneKey i t) 0 }
      (s1.setPtr b i F.SPD_CIRC_PTR_TAIL ((t + 1) % (2 * s.circSize b i))).tailRun b i n
    else s

/-- An access to space that the target does not give (R155): dropped and postmarked. -/
def State.creditErr (s : State) (b : Nat) : State := (s.flagF (blkBase b) F.SPD_STAT_CREDIT_ERR).chipEvent 1 (unitBlk b) 0x35

/-- The pointer of the slot k that a remote write may fill, and TAKEN after it (R592). -/
def State.slotFor (s : State) (b i k : Nat) : Option (Nat × Nat) :=
  let size := s.circSize b i
  let taken := SMap.get 0 (s.bx b).circTaken i
  if k = taken % size ∧ ptrDiff size taken (s.circHead b i) < size then some (taken, (taken + 1) % (2 * size))
  else
    let tail := s.circTail b i
    ((List.range (ptrDiff size taken tail)).map (fun (x : Nat) => (tail + x) % (2 * size))).find? (fun p => decide (p % size = k)) |>.map
      (fun p => (p, taken))

/-- The device and block that a write over Courier comes from, from the message being served. -/
def State.writerOf (s : State) (src tok : Nat) : Nat :=
  if 256 ≤ src ∧ src < 272 then
    ((s.cour.serving.find? (fun v => decide (v.tok = tok))).map (fun v => 512 * v.msg.src + v.msg.srcEp + 1)).getD 0
  else 0

/-- A remote write of bytes in one slot of region i, as (offset, value, enables) (R155, R592): into a slot of a region whose source is the writer, or
dropped (none). A slot is complete when its last byte, the highest, is written (log entry 34). Else the class that the acknowledgement carries. -/
def State.slotWrite (s : State) (b src i : Nat) (cells : List (Nat × Byte × Byte)) (iss : Nat) : Option Nat × State :=
  let slot := s.circSlot b i
  let off := (cells.headD (0, 0, 0)).1 - s.circBase b i
  if s.circRemote b i = true ∧ s.circ b i F.SPD_CIRC_SRC_SRC = src then
    match s.slotFor b i (off / slot) with
    | some (ptr, taken) =>
      let (ue, s1) := ((dedup (cells.map (fun c => c.1 / 64 * 64))).foldl (fun st o => st.gatherYield b o) s).spdMerge b cells
      let org := s1.writerOf src iss
      let x := s1.bx b
      let s2 := s1.setBx b { x with
        circTaken := SMap.set 0 x.circTaken i taken,
        circBegun := if org = 0 then x.circBegun else SMap.set 0 x.circBegun (131072 + i) org }
      let last := s.circBase b i + off / slot * slot + slot - 1
      let s3 := if cells.any (fun c => decide (c.1 = last)) then
          (s2.setBx b { s2.bx b with circBegun := SMap.set 0 (s2.bx b).circBegun (doneKey i ptr) 1 }).tailRun b i (2 * s.circSize b i)
        else s2
      (some (if ue then 0x34 else 0), s3)
    | none => (none, s.creditErr b)
  else (none, s.creditErr b)

/-- The slot that byte o of block b lies in, one more than 2^20 × region + slot; 0 where it lies in no region. -/
def State.slotKey (s : State) (b o : Nat) : Nat :=
  match s.circAt b o with
  | some i => 1 + 2 ^ 20 * i + (o - s.circBase b i) / s.circSlot b i
  | none => 0

/-- A remote write (R155, R592), judged slot by slot, each part as a write of its own; what lies in no region is dropped as one part. -/
def State.remoteParts (s : State) (b src line : Nat) (data : List (Nat × Byte × Byte)) (iss : Nat) : List (Option Nat) × State :=
  let cells := data.map (fun d => (line + d.1, d.2.1, d.2.2))
  (dedup (cells.map (fun c => s.slotKey b c.1))).foldl (fun (acc : List (Option Nat) × State) q =>
    let mine := cells.filter (fun c => decide (s.slotKey b c.1 = q))
    let (e, t) := if q = 0 then (none, acc.2.creditErr b) else acc.2.slotWrite b src ((q - 1) / 2 ^ 20) mine iss
    (acc.1 ++ [e], t)) ([], s)

/-- A remote write is applied; it is acknowledged where every part of it was applied, with POISON where a merge met an uncorrectable word (R322; log
entry 81). -/
def State.remoteWrite1 (s : State) (b src line : Nat) (data : List (Nat × Byte × Byte)) (iss : Nat) : State :=
  let (es, t) := s.remoteParts b src line data iss
  if es.all Option.isSome then t.send b src 256 (.ack (if es.any (fun e => decide (e = some 0x34)) then 0x34 else 0) iss) else t

/-- A request to a fenced block is answered with POISON by its router, whose local port is isolated (R316, R445). -/
def State.fenceAnswer (s : State) (m : Msg) : State := { s with net := s.net ++ (cutAnswer m).toList }

/-- n lines from byte o on read one after another for another requester; none where one of them is not delivered. -/
def State.spdLines (s : State) (b o n : Nat) : Option (List Byte) × State :=
  (List.range n).foldl (fun (acc : Option (List Byte) × State) i =>
    let (d, t) := (acc.2.gatherFlush b (o + 64 * i)).spdLine b (o + 64 * i)
    (match acc.1, d with
      | some l, some x => some (l ++ x)
      | _, _ => none, t)) (some [], s)

/-- A restore holds one of n lines from byte o on. -/
def State.linesHeld (s : State) (b o n : Nat) : Bool := (List.range n).any (fun (i : Nat) => s.retHeld b (o + 64 * i))

/-- REMOTE_READ (R155): message k of those in flight, of up to 32 lines. -/
def remoteReadEff (s : State) (k : Nat) : State :=
  match s.msgAt k with
  | some m =>
    match m.body with
    | .read l n i =>
      let b := m.dst
      if b < 256 ∧ s.spdOn b = true ∧ s.linesHeld b l n = false then
        let s1 := s.dropMsg k
        let poison := fun (c : Nat) => Body.readRsp (keySpd b l) (List.replicate (64 * n) 0) c i
        if s.fenced b then s1.fenceAnswer m
        else if 0x60000 < l + 64 * n then (s1.creditErr b).send b m.src 256 (poison 0x35)
        else
          match s1.spdLines b l n with
          | (some d, s2) => s2.send b m.src 256 (.readRsp (keySpd b l) d 0 i)
          | (none, s2) => s2.send b m.src 256 (poison 0x34)
      else s
    | _ => s
  | none => s

/-- The meaning of REMOTE_READ. -/
def execRemoteRead (k : Nat) (s : State) : Host.Outcome State Fault Refusal := .next (remoteReadEff s k)

/-- REMOTE_WRITE (R155, R592): message k of those in flight. -/
def remoteWriteEff (s : State) (k : Nat) : State :=
  match s.msgAt k with
  | some m =>
    match m.body with
    | .write l _ d i =>
      let b := m.dst
      if b < 256 ∧ s.spdOn b = true ∧ s.linesHeld b l (dataLines d) = false then
        let s1 := s.dropMsg k
        if s.fenced b then s1.fenceAnswer m else s1.remoteWrite1 b m.src l d i
      else s
    | _ => s
  | none => s

/-- The meaning of REMOTE_WRITE. -/
def execRemoteWrite (k : Nat) (s : State) : Host.Outcome State Fault Refusal := .next (remoteWriteEff s k)

/-- A slot of region i of block b has been read (R158): HEAD advances and the producer's credit returns. -/
def State.headAdvance (s : State) (b i : Nat) : State :=
  let size := s.circSize b i
  let s1 := s.setPtr b i F.SPD_CIRC_PTR_HEAD ((s.circHead b i + 1) % (2 * size))
  if s.circRemote b i then
    let src := s.circ b i F.SPD_CIRC_SRC_SRC
    if src < 256 then s1.send b src b (.credit i)
    else
      let org := SMap.get 0 (s.bx b).circBegun (131072 + i)
      if org = 0 then s1 else s1.send b (4096 + (org - 1) / 512) ((org - 1) % 512) (.credit i)
  else s1

/-- Outbound entry j of block b feeds region i of block `tgt` of this device, or of the device at coordinate c. -/
def outFeeds (img : List Byte) (b j tgt i : Nat) (c : Option Nat) : Bool :=
  let w := outWord img b j 0
  w.testBit 31 && decide (w % 256 = tgt) && decide (bits w 8 4 = i) && (match c with
    | some n => w.testBit 24 && decide (bits w 12 12 = n)
    | none => !w.testBit 24)

/-- CREDIT_RETURN (R158): message k gives the producer back one slot credit. -/
def creditReturnEff (s : State) (k : Nat) : State :=
  match s.msgAt k with
  | some m =>
    match m.body with
    | .credit i =>
      if m.dst < 256 then
        let b := m.dst
        let (tgt, c) := if 65536 ≤ m.blk then (m.blk % 512, some ((m.blk - 65536) / 512)) else (m.blk, none)
        let s1 := s.dropMsg k
        match (List.range 16).find? (fun (j : Nat) => outFeeds s.img b j tgt i c) with
        | some j => if s1.spdOn b then s1.addF (blkBase b) (F.SPD_OUT_CRED_CREDITS.idx (4 * j)) 1 else s1
        | none => s1
      else s
    | _ => s
  | none => s

/-- The meaning of CREDIT_RETURN. -/
def execCreditReturn (k : Nat) (s : State) : Host.Outcome State Fault Refusal := .next (creditReturnEff s k)

/-! ## The region atomic unit (R165 to R167) -/

/-- A line lies in block b's atomic window. -/
def State.inAtomWin (s : State) (b line : Nat) : Bool :=
  let base := blkBase b
  s.isF base F.SPD_ATOM_WIN_VALID && decide (s.getF base F.SPD_ATOM_WIN_BASE ≤ line / 64)
    && decide (line / 64 ≤ s.getF base F.SPD_ATOM_WIN_LIMIT) && decide (line < 0x60000)

/-- ATOMIC_ADD_REQUEST (R165, R166): message k enters the queue of 32 of its target's region unit; outside the window it is dropped. -/
def atomRequest (s : State) (k : Nat) : State :=
  match s.msgAt k with
  | some m =>
    match m.body with
    | .atomic l d f c i =>
      let b := m.dst
      if b < 256 ∧ s.spdOn b = true ∧ (s.rx (b / 16)).atoms.length < 32 then
        let s1 := s.dropMsg k
        if s.fenced b then s1.fenceAnswer m
        else if s.inAtomWin b l then
          s1.setRx (b / 16) { s1.rx (b / 16) with atoms := (s1.rx (b / 16)).atoms ++ [⟨b, l, d, f, c, m.src, i⟩] }
        else s1.creditErr b
      else s
    | _ => s
  | none => s

/-- The meaning of ATOMIC_ADD_REQUEST. -/
def execAtomicAddRequest (k : Nat) (s : State) : Host.Outcome State Fault Refusal := .next (atomRequest s k)

/-- Arrival counter c of block b raised by one (R167); it wraps. -/
def State.countUp (s : State) (b c : Nat) : State :=
  let f := F.SPD_ATOM_CNT_COUNT.idx (4 * c)
  s.setF (blkBase b) f (s.getF (blkBase b) f + 1)

/-- One request applied (R166). A line that cannot be read is not written, and the acknowledgement carries POISON. -/
def State.atomApply1 (s : State) (q : AtomReq) : State :=
  let b := q.blk
  let base := blkBase b
  let (e, s1) := match (s.gatherYield b q.line).spdLine b q.line with
    | (some old, t) =>
      let (new, sa, nf) := atomLine q.fmt old q.data
      let t1 := t.spdPut b ((List.range 64).map (fun (j : Nat) => (q.line + j, new.getD j 0, (0xFF#8 : Byte))))
      let t2 := if sa then t1.flagF base F.SPD_STAT_ATOM_SAT else t1
      (0, if nf then t2.flagF base F.SPD_STAT_ATOM_NONFINITE else t2)
    | (none, t) => (0x34, t)
  let s2 := if e = 0 then (match q.cnt with
    | some c => s1.countUp b c
    | none => s1) else s1
  s2.send b q.src 256 (.ack e q.iss)

/-- ATOMIC_APPLY (R166): the oldest request of region r's unit; a restore of the retained window holds it (R170). -/
def atomApply (s : State) (r : Nat) : State :=
  match (s.rx r).atoms with
  | q :: rest => if s.spdOn q.blk && !s.retHeld q.blk q.line then (s.setRx r { s.rx r with atoms := rest }).atomApply1 q else s
  | [] => s

/-- The meaning of ATOMIC_APPLY. -/
def execAtomicApply (r : Nat) (s : State) : Host.Outcome State Fault Refusal := .next (atomApply s r)

/-! ## Synchronisation and restore of the retained window (R170) -/

/-- A sync or restore of block b's window begins or ends. -/
def State.setSpdShop (s : State) (b : Nat) (o : Option ShadowOp) : State :=
  (s.setBx b { s.bx b with shop := o }).setF (blkBase b) F.SPD_SHADOW_CTL_BUSY (b2n o.isSome)

/-- KiB of the window that are dirty, ascending. -/
def State.dirtyKib (s : State) (b : Nat) : List Nat := (List.range ((s.retWin b).2 / 1024)).filter (s.kibDirty b)

/-- A write of 1 to SYNC alone. The KiB are those that are dirty at the write (log entry 76). -/
def spdSync (s : State) (b : Nat) : State :=
  if (s.bx b).shop.isSome then s else s.setSpdShop b (some ⟨false, s.dirtyKib b, 0⟩)

/-- The lines of block b's retained window leave the gather buffer for their banks. -/
def State.gatherWindow (s : State) (b : Nat) : State :=
  (((s.bx b).gather.map GLine.line).filter (fun o => (s.retKib b o).isSome)).foldl (fun st o => st.gatherYield b o) s

/-- A write of 1 to RESTORE alone: what the gather buffer holds of the window is written ahead of it (R154); STALE where KiB are dirty. -/
def spdRestore (s : State) (b : Nat) : State :=
  if (s.bx b).shop.isSome then s
  else
    let s0 := s.gatherWindow b
    let s1 := if (s0.dirtyKib b).isEmpty then s0 else s0.flagF (blkBase b) F.SPD_SHADOW_CTL_STALE
    s1.setSpdShop b (some ⟨true, [], 0⟩)

/-- The meaning of SPD_SHADOW_SYNC. -/
def execSpdShadowSync (b : Nat) (s : State) : Host.Outcome State Fault Refusal := .next (if s.spdOn b then spdSync s b else s)
/-- The meaning of SPD_SHADOW_RESTORE. -/
def execSpdShadowRestore (b : Nat) (s : State) : Host.Outcome State Fault Refusal := .next (if s.spdOn b then spdRestore s b else s)

/-- SPD_SYNC_KIB_COPIED (R170): the sync's next KiB reaches the shadow and its dirty bit clears; one that cannot be read stays dirty. -/
def kibCopied (s : State) (b : Nat) : State :=
  match (s.bx b).shop with
  | some ⟨false, k :: rest, age⟩ =>
    let (d, s1) := s.spdLines b ((s.retWin b).1 + 1024 * k) 16
    let s2 := match d with
      | some l =>
        let t := { s1 with mem := { s1.mem with sshadow := Mem.wrN s1.mem.sshadow (65536 * b + 1024 * k) l } }
        t.setF (blkBase b) (dirtyFld k) 0
      | none => s1
    s2.setSpdShop b (some ⟨false, rest, age⟩)
  | _ => s

/-- The meaning of SPD_SYNC_KIB_COPIED. -/
def execSpdSyncKibCopied (b : Nat) (s : State) : Host.Outcome State Fault Refusal := .next (if s.spdOn b then kibCopied s b else s)

/-- The whole window rewritten from the shadow, no KiB dirty (R170). Lines of the window leave the gather buffer with it. -/
def State.windowRestore (s : State) (b : Nat) : State :=
  let w := s.retWin b
  let s0 := s.setBx b { s.bx b with gather := (s.bx b).gather.filter (fun g => !(decide (w.1 ≤ g.line) && decide (g.line < w.1 + w.2))) }
  let s1 := (List.range (w.2 / 1024)).foldl (fun st k => st.kibRestore b k) s0
  (s1.setReg (blkBase b + 0x10388) 0).setReg (blkBase b + 0x1038C) 0

/-- The bytes that issue `id` writes into the line at byte o, as (index, value, enables): held while a restore holds the line (R170). An access to the
whole line goes to its bank, a narrower one to the gather buffer (R153). -/
def State.lineWrite (s : State) (b id o : Nat) (full : Bool) (data : List (Nat × Byte × Byte)) : State :=
  if s.retHeld b o then s.setBx b { s.bx b with heldW := (s.bx b).heldW ++ [HeldStore.mk id o full data] }
  else if full then (s.gatherYield b o).spdPutBy b id (data.map (fun d => (o + d.1, d.2.1, d.2.2)))
  else s.gatherWrite b id o data

/-- The stores that a restore held proceed, in order (R170). -/
def State.heldGo (s : State) (b : Nat) : State :=
  (s.bx b).heldW.foldl (fun st e => st.lineWrite b e.iss e.line e.full e.data) (s.setBx b { s.bx b with heldW := [] })

/-- SPD_SHADOW_DONE (R170): the sync has copied its last KiB, or the restore retires and the accesses it held proceed; BUSY clears. -/
def spdDone (s : State) (b : Nat) : State :=
  match (s.bx b).shop with
  | some ⟨true, _, _⟩ => ((s.windowRestore b).setSpdShop b none).heldGo b
  | some ⟨false, [], _⟩ => s.setSpdShop b none
  | _ => s

end Sys2Proof.Machine
end

