-- ==== Sys2Proof/Machine/HostCmd.lean ====
section
/-! DEFINITION. How Casec takes a host command out of the Pigeonhole (R383, R389 to R395, R407 to R413): the packet at the front of the
command ring, the checks of Table 13.8 in their order, and the parameter checks that rows share. -/

namespace Sys2Proof.Machine

/-- Bytes of Pigeonhole as Casec copies them (R377, R378): collided words as the free values drawn for them. -/
def State.casecCopy (s : State) (off n : Nat) : List Byte :=
  let d := s.pghBytes 0 off n
  if s.sdio.clash.isEmpty then d
  else (List.range n).map (fun (i : Nat) =>
    match s.sdio.clash.find? (fun e => decide (e.1 = (off + i) / 8)) with
    | some e => BitVec.ofNat 8 (e.2 / 256 ^ ((off + i) % 8))
    | none => d.getD i 0)

/-- The packet in command slot CI mod 32 (R389, Table 13.7) as a command not yet taken, `aux` holding FLAGS; PLEN; whether its CRC-32C
matches. -/
def State.packet (s : State) : Taken × Nat × Bool :=
  let base := 0x2000 * (s.sdio.cmdCi % 32)
  let h := s.casecCopy base 16
  let plen := leAt h 8 2
  let p := if plen ≤ 4064 then s.casecCopy (base + 16) plen else []
  let crc := leNat (s.casecCopy (base + 16 + plen) 4)
  (⟨s.mail.nextId, leAt h 2 2, leAt h 4 2, leAt h 10 4, 256 * leAt h 0 1 + leAt h 1 1, p, 0, [leAt h 6 2]⟩, plen, decide (crc = crc32c (h ++ p)))

/-- Casec takes the command at the front of the ring (R383): one stands there, a reply slot is free, SLEEP does not wait (R411), and the
boot ROM serves the group in BOOT (R395). -/
def State.cmdReady (s : State) (op : Nat) : Bool :=
  s.served && decide (s.sdio.cmdDb ≠ s.sdio.cmdCi)
    && decide ((s.sdio.rplPi + 64 - s.sdio.rplDb) % 64 + s.mail.replies.length < 32)
    && !s.mail.taken.any (fun t => decide (t.op = 0x0303))
    && !(decide (s.chip.st = .boot) && !decide (opGroup op ∈ [0, 1, 0xB]))

/-- Checks 1 to 6 of Table 13.8: the status and results of the reply, and whether the expected sequence advances (R391). -/
def State.cmdCheck (s : State) (t : Taken) (plen : Nat) (crcOk : Bool) : Option (Nat × List Byte × Bool) :=
  let hello := decide (t.op = 1)
  if 4064 < plen then some (0x0105, [], false)
  else if !crcOk then some (0x0103, [], false)
  else if !hello && !s.mail.sess then some (0x0106, [], true)
  else if !hello && decide (t.ver ≠ s.mail.ver) then some (0x0101, [], true)
  else if !hello && decide (t.seq ≠ s.mail.expSeq) then some (0x0104, leBytes 4 s.mail.expSeq, false)
  else if !hello && !opDefined t.op s.mail.ver then some (0x0102, [], true)
  else none

/-- Acceptance by state and serialisation (R395, R407, R409). -/
def State.cmdAccept (s : State) (t : Taken) : Option (Nat × List Byte) :=
  if s.chip.st = .faulted ∧ s.errs.rom = true ∧ ¬ opGroup t.op ∈ [0, 1, 2, 0xB] then some (0x0501, s.faultedRes)
  else if !s.opAccepted t.op then (if s.chip.st = .faulted then some (0x0501, s.faultedRes) else some (0x0302, []))
  else if t.op ∈ serialOps ∧ s.mail.taken.any (fun x => decide (x.op ∈ serialOps)) = true ∧ ¬ (t.op = 0x0901 ∧ s.chip.st = .securing) then
    some (0x0303, [])
  else none

/-- The expected sequence advances by one (R391). -/
def State.advSeq (s : State) : State := { s with mail := { s.mail with expSeq := (s.mail.expSeq + 1) % 2 ^ 32 } }

/-- The command at the front of the ring is taken (R383, R391), when its opcode satisfies `own`: it is answered by the check that fails, or
executed by `f`. -/
def State.hostTake (s : State) (own : Taken → Bool) (f : Taken → State → State) : State :=
  let (t, plen, crcOk) := s.packet
  if s.cmdReady t.op && own t then
    let s0 := s.pghNote 0 (0x2000 * (s.sdio.cmdCi % 32)) (20 + min plen 4064)
    let s1 := { s0 with
        sdio := { s0.sdio with cmdCi := (s.sdio.cmdCi + 1) % 64, clash := [] }, mail := { s0.mail with nextId := s.mail.nextId + 1 } }
    match s1.cmdCheck t plen crcOk with
    | some (st, res, adv) => (if adv then s1.advSeq else s1).queueReply t.op t.tag t.seq st res
    | none =>
      let s2 := s1.advSeq
      match s2.cmdAccept t with
      | some (st, res) => s2.queueReply t.op t.tag t.seq st res
      | none => f t { s2 with mail := { s2.mail with taken := s2.mail.taken ++ [t] } }
  else s

/-- The command with a given opcode. -/
def State.hostCmd (s : State) (op : Nat) (f : Taken → State → State) : State := s.hostTake (fun t => decide (t.op = op)) f

/-- BAD_OPCODE (R391): an opcode that the session version does not define. -/
def execBadOpcode (s : State) : Host.Outcome State Fault Refusal :=
  .next (s.hostTake (fun t => !opDefined t.op (if s.mail.sess then s.mail.ver else 0x200)) (fun t st => st.finish t.id 0x0102 []))

/-! ## Parameters (R394, R408, R412) -/

/-- BULK of the packet's flags. -/
def Taken.bulk (t : Taken) : Bool := (t.aux.getD 0 0).testBit 0
/-- BULK_LEN. -/
def Taken.bulkLen (t : Taken) : Nat := leAt t.par 0 4
/-- A parameter field of w bytes at offset o. -/
def Taken.fld (t : Taken) (o w : Nat) : Nat := leAt t.par o w
/-- A field that version `from_` adds, with its default. -/
def Taken.fldFrom (t : Taken) (o w from_ dflt : Nat) : Nat :=
  if from_ ≤ t.ver ∧ o + w ≤ t.par.length then leAt t.par o w else dflt

/-- The parameters of a row without a function 2 phase: BULK is 0, the first `need` bytes are there and the reserved bytes, as (offset,
length), are 0. -/
def Taken.ok (t : Taken) (need : Nat) (reserved : List (Nat × Nat)) : Bool :=
  !t.bulk && decide (need ≤ t.par.length) && reserved.all (fun r => decide (leAt t.par r.1 r.2 = 0))

/-- The parameters of a row with a function 2 phase in direction `dir` of at most `limit` bytes. -/
def Taken.okBulk (t : Taken) (dir limit need : Nat) (reserved : List (Nat × Nat)) : Bool :=
  t.bulk && decide (need ≤ t.par.length) && decide (8 ≤ t.par.length) && decide (leAt t.par 4 1 = dir)
    && decide (0 < t.bulkLen) && decide (t.bulkLen ≤ limit)
    && ((5, 3) :: reserved).all (fun r => decide (leAt t.par r.1 r.2 = 0))

/-- A final reply with a status alone. -/
def State.fail (s : State) (t : Taken) (status : Nat) : State := s.finish t.id status []

/-- A command that goes on after the step that took it: whether it lasts longer than 1 ms, and so first gets PENDING (R392), the model's
time does not say. -/
def State.goesOn (s : State) (t : Taken) : State :=
  let (x, s1) := s.takeFree
  if x % 2 = 1 then s1.replyPending t else s1

/-- PENDING for a command that its step has not ended (R392). -/
def State.goesOnIf (s : State) (t : Taken) : State := if (s.takenBy t.id).isSome then s.goesOn t else s

/-- Another serialised command than the one with number `id` is in progress. -/
def State.inProgress (s : State) (ops : List Nat) : Bool := s.mail.taken.any (fun t => decide (t.op ∈ ops))

end Sys2Proof.Machine
end

