-- ==== Sys2Proof/Machine/Secure.lean ====
section
/-! DEFINITION. Groups and Nimbus messages (R454 to R457), securing (R458 to R465), with the commands that ask for it. -/

namespace Sys2Proof.Machine

/-! ## The group (R455, R485) -/

/-- The Nimbus engine is enabled. -/
def State.nimEn (s : State) : Bool := s.pdOn 3 && s.isF nimBase F.NIM_CTL_EN
/-- The device is in a group. -/
def State.inGroup (s : State) : Bool := s.isF nimBase F.NIM_GROUP_VALID
/-- Members n = K + 2 of the group. -/
def State.grpN (s : State) : Nat := s.getF nimBase F.NIM_GROUP_K + 2
/-- Own member index. -/
def State.ownIdx (s : State) : Nat := s.getF nimBase F.NIM_GROUP_MEMBER
/-- A field of member m's entry. -/
def State.member (s : State) (m : Nat) (f : Fld) : Nat := s.getF nimBase (f.idx (4 * m))
/-- Member m is live. -/
def State.isLive (s : State) (m : Nat) : Bool :=
  decide (m < 16) && decide (s.member m F.NIM_MEMBER_VALID = 1) && decide (s.member m F.NIM_MEMBER_LIVE = 1)
/-- The live members, ascending. -/
def State.live (s : State) : List Nat := (List.range 16).filter s.isLive
/-- The coordinate of member m. -/
def State.coordOf (s : State) (m : Nat) : Nat := s.member m F.NIM_MEMBER_COORD
/-- The valid member at a coordinate. -/
def State.memberAt (s : State) (c : Nat) : Option Nat :=
  (List.range 16).find? (fun (m : Nat) => decide (s.member m F.NIM_MEMBER_VALID = 1) && decide (s.coordOf m = c))
/-- The coordinator: the live member with the lowest index (R457). -/
def State.coordinator (s : State) : Nat := s.live.headD 0

/-! ## Steps (R459, R460) -/

/-- Step S has ended: every result set of it was admitted and has completed (R460). -/
def State.stepEnded (s : State) (S : Nat) : Bool :=
  let k := (S + 2 ^ 32 - s.job.stepBase) % 2 ^ 32
  let n := planStepSets s.img
  decide ((k + 1) * n ≤ s.job.j) && s.sets.all (fun r => decide ((k + 1) * n ≤ r.j) || s.setComplete r.j)

/-- The last step that has ended. -/
def State.lastStep (s : State) : Nat :=
  if !planTraining s.img then s.curStep
  else if 0 < s.job.j ∧ s.stepEnded s.curStep = true then s.curStep else (s.curStep + 2 ^ 32 - 1) % 2 ^ 32

/-! ## Messages between hubs (R456, R457, Tables 15.4, 15.5) -/

/-- The header line. -/
def nimHeader (op own group epoch step arg plan : Nat) (digest : List Byte) : List Byte :=
  padTo 64 (leBytes 1 op ++ leBytes 1 own ++ leBytes 2 group ++ leBytes 4 epoch ++ leBytes 4 step ++ leBytes 4 arg ++ leBytes 4 plan
    ++ padTo 32 digest)

/-- A request, write or Nimbus message of the hub, recorded until its answer comes (R347) unless it stays on the device. -/
def State.hubSend (s : State) (m : CMsg) (tok : Nat) (rd : Bool) : State :=
  let t := s.cour.nextTok % 65536
  if m.dst = s.ownCoord then s.originate m
  else
    { s with cour := { s.cour with
        nextTok := s.cour.nextTok + 1, outst := s.cour.outst ++ [Outst.mk t m.dst 272 tok 0 rd m.lines] } }.originate { m with tag := t }

/-- A Nimbus message sent to a coordinate. -/
def State.nimSend (s : State) (c op epoch step arg : Nat) (digest data : List Byte) (tok : Nat) : State :=
  let h := nimHeader op s.ownIdx (s.getF nimBase F.NIM_GROUP_GROUP_ID) epoch step arg (planIdOf s.img) digest
  s.hubSend ⟨c, s.ownCoord, 0x130, 0x130, 7, 0, data.length / 64, 0, 0, 0, 0, h ++ data⟩ tok false

/-- A Nimbus message without data to a member. -/
def State.nimTo (s : State) (m op epoch step arg : Nat) : State := s.nimSend (s.coordOf m) op epoch step arg [] [] 0

/-- A Nimbus message to every live member. -/
def State.nimAll (s : State) (op epoch step arg : Nat) (data : List Byte) : State :=
  s.live.foldl (fun st m => st.nimSend (st.coordOf m) op epoch step arg [] data 0) s

/-- The group that the device listens to: its own, or the one it rebuilds a member of. -/
def State.nimGroup (s : State) : Nat :=
  match s.nim.rebuild with
  | some r => if r.table then s.getF nimBase F.NIM_GROUP_GROUP_ID else r.group
  | none => s.getF nimBase F.NIM_GROUP_GROUP_ID

/-- A Nimbus operation at position k of the inbox: acknowledged and acted on, or discarded where the group differs or the engine is
disabled (R456). -/
def State.nimMsg (s : State) (k op : Nat) (f : CMsg → State → State) : State :=
  match s.ownMsg k 7 with
  | some (_, m) =>
    if leAt m.data 0 1 = op then
      let s1 := s.takeInbox k
      if s.nimEn && decide (leAt m.data 2 2 = s.nimGroup) then
        f m (if m.src = s.ownCoord then s1 else s1.originate (answerOf s.ownCoord m [] false))
      else s1
    else s
  | none => s

def CMsg.nSender (m : CMsg) : Nat := leAt m.data 1 1
def CMsg.nEpoch (m : CMsg) : Nat := leAt m.data 4 4
def CMsg.nStep (m : CMsg) : Nat := leAt m.data 8 4
def CMsg.nArg (m : CMsg) : Nat := leAt m.data 12 4

/-- Requests of the hub with a token between lo and hi that lack their answer: on the way there, or its answer on the way to the hub. -/
def State.hubWaits (s : State) (lo hi : Nat) : Bool :=
  s.cour.outst.any (fun o => decide (o.who = 272) && decide (lo ≤ o.iss) && decide (o.iss ≤ hi))
    || s.net.any (fun m => decide (m.dst = 272) && (match m.body with
      | .ack _ i => decide (lo ≤ i) && decide (i ≤ hi)
      | .readRsp _ _ _ i => decide (lo ≤ i) && decide (i ≤ hi)
      | _ => false))

/-! ## The image and its buffers (R458, R463) -/

/-- 1 MiB. -/
def mib : Nat := 2 ^ 20
/-- Image chunks C. -/
def State.nimC (s : State) : Nat := s.getF nimBase F.NIM_CHUNKS_C
/-- Parity chunks that a member holds: 2 × ceil(C / K), none outside a group. -/
def State.nimP (s : State) : Nat := if s.inGroup then 2 * ceilDiv s.nimC (s.getF nimBase F.NIM_GROUP_K) else 0
/-- The secured area. -/
def State.nimArea (s : State) : Nat := s.getF nimBase F.NIM_AREA_LO_ADDR + 2 ^ 32 * s.getF nimBase F.NIM_AREA_HI_ADDR
/-- The buffer of epoch e. -/
def State.nimBuf (s : State) (e : Nat) : Nat := s.nimArea + (e % 2) * ((s.nimC + s.nimP + 2) * mib)
/-- Offset of the parity chunks in a buffer. -/
def State.parOff (s : State) : Nat := s.nimC * mib
/-- Offset of the digest area in a buffer. -/
def State.digOff (s : State) : Nat := (s.nimC + s.nimP) * mib
/-- Bytes padded with zeros to whole chunks. -/
def padMib (l : List Byte) : List Byte := padTo (ceilDiv l.length mib * mib) l

/-- A field of shard k. -/
def State.shard (s : State) (k : Nat) (f : Fld) : Nat := s.getF nimBase (f.idx (0x10 * k))
/-- BASE of shard k. -/
def State.shardBase (s : State) (k : Nat) : Nat :=
  s.shard k F.NIM_SHARD_BASE_LO_BASE + 2 ^ 32 * s.shard k F.NIM_SHARD_BASE_HI_BASE
/-- LEN of shard k. -/
def State.shardLen (s : State) (k : Nat) : Nat := s.shard k F.NIM_SHARD_LEN_LEN
/-- Bytes of shard k before padding. -/
def State.shardSize (s : State) (k : Nat) : Nat :=
  match s.shard k F.NIM_SHARD_KIND_KIND with
  | 1 => 65536 * s.shardLen k
  | 2 => s.shardLen k
  | 3 => 65536 * s.shardLen k
  | _ => 0
/-- Chunks of shard k. -/
def State.shardChunks (s : State) (k : Nat) : Nat := ceilDiv (s.shardSize k) mib

/-- A freeze copies macro m's rows later, behind older work (R461). -/
def State.isLate (s : State) (m : Nat) : Bool := (s.nim.sec.map (fun v => v.late.any (fun e => decide (e.1 = m)))).getD false

/-- The rows of macro m (R458): reads through ECC. -/
def State.macImage (s : State) (m : Nat) : List Byte × State :=
  (List.range 512).foldl (fun (acc : List Byte × State) r =>
    if acc.2.compOn (m / 16) && !acc.2.isLate m then
      let (o, t) := acc.2.readRow m r false
      (acc.1 ++ (o.got.getD (t.rowRd m r)), t)
    else (acc.1 ++ List.replicate 128 0, acc.2)) ([], s)

/-- The retained window of block b padded to 64 KiB. -/
def State.winImage (s : State) (b : Nat) : List Byte × State :=
  let w := s.retWin b
  let r := (List.range (w.2 / 1024)).foldl (fun (acc : List Byte × State) k =>
    let (d, t) := acc.2.spdLines b (w.1 + 1024 * k) 16
    (acc.1 ++ (d.getD (t.spdRd b (w.1 + 1024 * k) 1024)), t)) ([], s)
  (padTo 65536 r.1, r.2)

/-- The bytes of shard k. -/
def State.shardBytes (s : State) (k : Nat) : List Byte × State :=
  let base := s.shardBase k
  let n := s.shardLen k
  match s.shard k F.NIM_SHARD_KIND_KIND with
  | 1 => (List.range n).foldl (fun (acc : List Byte × State) i =>
      let (d, t) := acc.2.macImage (base + i)
      (acc.1 ++ d, t)) ([], s)
  | 2 => s.hubRead base (n / 64)
  | 3 => (List.range n).foldl (fun (acc : List Byte × State) i =>
      let (d, t) := acc.2.winImage (base + i)
      (acc.1 ++ d, t)) ([], s)
  | _ => ([], s)

/-- The image: every shard at a chunk boundary (R458). -/
def State.imageBytes (s : State) : List Byte × State :=
  (List.range 8).foldl (fun (acc : List Byte × State) k =>
    let (d, t) := acc.2.shardBytes k
    (acc.1 ++ padMib d, t)) ([], s)

/-- Where the image holds the rows of macro m. -/
def State.macroPlaces (s : State) (m : Nat) : List Nat :=
  ((List.range 8).foldl (fun (acc : List Nat × Nat) k =>
    let here := decide (s.shard k F.NIM_SHARD_KIND_KIND = 1 ∧ s.shardBase k ≤ m ∧ m < s.shardBase k + s.shardLen k)
    (if here then acc.1 ++ [acc.2 * mib + 65536 * (m - s.shardBase k)] else acc.1, acc.2 + s.shardChunks k)) ([], 0)).1

/-- Work older than `age` holds rows of macro m or is to rewrite them (R71, R120). -/
def State.macroHeld (s : State) (m age : Nat) : Bool := s.rowHeld (m / 16) (m % 16) 0 512 false age || s.restoreHolds m age

/-- The macros of the image whose rows older work holds (R61, R115), with the age that the next work of their block takes. -/
def State.lateMacros (s : State) : List (Nat × Nat) :=
  ((List.range 4096).filter (fun (m : Nat) => s.compOn (m / 16) && !(s.macroPlaces m).isEmpty && s.macroHeld m (s.bx (m / 16)).nextId)).map
    (fun m => (m, (s.bx (m / 16)).nextId))

/-- merkle of R462, with as many rounds as fit. -/
def merklePairs : List (List Byte) → List (List Byte)
  | a :: b :: r => sha256 (a ++ b) :: merklePairs r
  | l => l
def merkleN : Nat → List (List Byte) → List Byte
  | 0, l => l.headD []
  | n + 1, l => match l with
    | [] => []
    | [a] => a
    | _ => merkleN n (merklePairs l)
def merkle (l : List (List Byte)) : List Byte := merkleN l.length l

/-- The digests of the chunks of an image. -/
def chunkDigests (c : Nat) (img : List Byte) : List (List Byte) := (List.range c).map (fun (i : Nat) => sha256 (padTo mib (slice img (i * mib) mib)))

/-- The root of each of the eight shards over chunk digests (R462); none for a shard of no chunk. -/
def State.rootSlots (s : State) (dig : List (List Byte)) : List (Option (List Byte)) :=
  ((List.range 8).foldl (fun (acc : List (Option (List Byte)) × Nat) k =>
    let n := s.shardChunks k
    (acc.1 ++ [if n = 0 then none else some (merkle (slice dig acc.2 n))], acc.2 + n)) ([], 0)).1

/-- The shard roots that the device root is formed over, in ascending s (R462). -/
def State.shardRoots (s : State) (dig : List (List Byte)) : List (List Byte) := (s.rootSlots dig).filterMap id

/-- The eight shard roots as the digest area holds them (R463): shard s at position s, zeros where it has none. -/
def State.rootArea (s : State) (dig : List (List Byte)) : List Byte :=
  (s.rootSlots dig).flatMap (fun (x : Option (List Byte)) => padTo 32 (x.getD []))

/-! ## Parity (R464) -/

/-- Stripes of an n-member group whose members hold C chunks. -/
def stripes (n C : Nat) : Nat := n * ceilDiv C (n - 2)
/-- Member m holds data in stripe st. -/
def isDataOf (n m st : Nat) : Bool := decide (m ≠ st % n) && decide (m ≠ (st + 1) % n)
/-- The data position of member m in stripe st. -/
def dataPos (n m st : Nat) : Nat := ((List.range m).filter (fun (x : Nat) => isDataOf n x st)).length
/-- The image chunk that data member m gives to stripe st. -/
def dataChunk (n m st : Nat) : Nat := (n - 2) * (st / n) + ((List.range (st % n)).filter (fun (x : Nat) => isDataOf n m x)).length
/-- The number, in stripe order, of the parity chunk that member m holds for stripe st. -/
def parityNo (n m st : Nat) : Nat := 2 * (st / n) + ((List.range (st % n)).filter (fun (x : Nat) => !isDataOf n m x)).length

/-- g^k times each byte. -/
def scaleBytes (c : Nat) (l : List Byte) : List Byte := l.map (fun b => BitVec.ofNat 8 (gfMul b.toNat c))
/-- The XOR of two byte strings. -/
def xorBytes (a b : List Byte) : List Byte := List.zipWith (fun x y => x ^^^ y) a b
/-- g^k. -/
def gPow (k : Nat) : Nat := gfPow 2 k

/-- Contributions that a parity chunk of stripe st waits for in each message: data slots beyond C are not sent. -/
def parityNeed (n C st : Nat) : Nat := ((List.range n).filter (fun (m : Nat) => isDataOf n m st && decide (dataChunk n m st < C))).length

/-- A securing of epoch e that holds nothing yet. -/
def State.newSec (s : State) (e : Nat) : State :=
  let t := s.hubWrite (s.nimBuf e + s.parOff) (List.replicate (s.nimP * mib) 0)
  { t with nim := { t.nim with sec := some ⟨e, 0, 0, false, false, false, [], [], [], [], false, [], []⟩ } }

/-- The securing of epoch e, begun by whichever comes first: the own freeze or a peer's message; its parity chunks start from zeros. -/
def State.secFor (s : State) (e : Nat) : State :=
  match s.nim.sec with
  | some v => if v.epoch = e ∨ v.frozen = true then s else s.newSec e
  | none => s.newSec e

/-- The securing changed. -/
def State.modSec (s : State) (f : Securing → Securing) : State := { s with nim := { s.nim with sec := s.nim.sec.map f } }

/-- Every parity chunk of the device is complete. -/
def State.parityDone (s : State) (v : Securing) : Bool :=
  let n := s.grpN
  let own := s.ownIdx
  !s.inGroup || (List.range (stripes n s.nimC)).all (fun (st : Nat) =>
    isDataOf n own st || (List.range 512).all (fun (i : Nat) =>
      decide (parityNeed n s.nimC st ≤ SMap.get 0 v.parity (1024 * st + 2 * i + (if st % n = own then 0 else 1)))))

/-- The own image chunk c sent to the parity members of its stripe in 512 messages each. -/
def State.sendParity (s : State) (e st : Nat) (d : List Byte) : State :=
  let n := s.grpN
  let gd := scaleBytes (gPow (dataPos n s.ownIdx st)) d
  (List.range 512).foldl (fun t i =>
    (t.nimSend (t.coordOf (st % n)) 0xE e 0 (st + 2 ^ 20 * i) [] (slice d (2048 * i) 2048) 0x3000).nimSend
      (t.coordOf ((st + 1) % n)) 0xE e 0 (st + 2 ^ 20 * i + 2 ^ 29) [] (slice gd (2048 * i) 2048) 0x3000) s

/-- The parity contributions of the whole image (R464). -/
def State.sendAllParity (s : State) (e : Nat) : State :=
  let n := s.grpN
  let own := s.ownIdx
  (List.range (stripes n s.nimC)).foldl (fun t st =>
    let c := dataChunk n own st
    if isDataOf n own st && decide (c < t.nimC) then
      let (d, t1) := t.hubRead (t.nimBuf e + c * mib) (mib / 64)
      t1.sendParity e st d
    else t) s

/-- The chunk digests sent to members m + 1 and m + 2, 64 a message. -/
def State.sendDigests (s : State) (e : Nat) (dig : List (List Byte)) : State :=
  let n := s.grpN
  (List.range (ceilDiv dig.length 64)).foldl (fun t i =>
    let d := (slice dig (64 * i) 64).flatten
    let d64 := padTo (ceilDiv d.length 64 * 64) d
    [1, 2].foldl (fun u x => u.nimSend (u.coordOf ((u.ownIdx + x) % n)) 0xF e 0 (64 * i) [] d64 0x3000) t) s

/-! ## An epoch is secured (R465) -/

/-- The epoch of the securing becomes the last secured one, with the device roots of the group where EPOCH_DONE brings them. -/
def State.finishEpoch (s : State) (roots : List Byte) : State :=
  match s.nim.sec with
  | some v =>
    let s0 := if s.inGroup && !roots.isEmpty then s.hubWrite (s.nimBuf v.epoch + s.digOff + 0x180000 + 256) (padTo 512 roots) else s
    let s1 := (((s0.faultFlush).setF nimBase F.NIM_EPOCH_EPOCH v.epoch).setF nimBase F.NIM_EPOCH_STEP_STEP v.step).addF nimBase
      F.NIM_COUNTS_SECURED 1
    let s2 := s1.postEvent 0x7 0 v.epoch false
    let s3 := s2.nim.secCmd.foldl (fun t c => t.finish c 0 (leBytes 4 v.epoch ++ padTo 32 v.root)) s2
    { s3 with nim := { s3.nim with
        sec := none, root := v.root, epochSlot := v.slot, secCmd := [], exch := { s3.nim.exch with lost := [] } } }
  | none => s

/-- SECURED goes to the coordinator once the digests are formed, the parity chunks are complete and every message was acknowledged. -/
def State.trySecured (s : State) : State :=
  match s.nim.sec with
  | some v =>
    if s.inGroup && v.digests && !v.sent && !s.hubWaits 0x3000 0x3000 && !decide (0x3000 ∈ s.nim.failed) && s.parityDone v then
      (s.modSec (fun x => { x with sent := true })).nimSend (s.coordOf s.coordinator) 0x10 v.epoch v.step 0 v.root [] 0
    else s
  | none => s

/-- FREEZE (R461, R499): a due freeze of a device in RUNNING that has met its boundary, or in ARMED, once Horizon's regions are awake and no
earlier securing is under way. Macros whose rows older work holds are copied when that has ended. -/
def freezeEff (s : State) : State :=
  let want := s.nimEn && !s.isSecuring && ((decide (s.chip.st = .running) && s.nim.atEdge)
    || (decide (s.chip.st = .armed) && s.isF nimBase F.NIM_STAT_REQ))
  if !want then s
  else if s.getF hznBase F.HZN_REST_OFF ≠ 0 then (s.hznWake 0xFFFF).1
  else if !s.power.settling.isEmpty || !s.power.plan.isEmpty || !s.power.restoring.isEmpty then s
  else
    let e := s.nim.epochNext.getD (s.epoch + 1)
    let step := s.lastStep
    let s1 := (s.dropRequest).goChip .securing
    let s2 := (s1.secFor e).modSec (fun v => { v with late := s1.lateMacros })
    let (img, s3) := s2.imageBytes
    let s4 := s3.hubWrite (s3.nimBuf e) (padTo (s3.nimC * mib) img)
    let s5 := s4.modSec (fun v => { v with epoch := e, step := step, slot := s4.slotNo, frozen := true })
    { s5 with nim := { s5.nim with fromSt := s.chip.st.code, failed := s5.nim.failed.filter (fun x => decide (x ≠ 0x3000)) } }

/-- The meaning of FREEZE. -/
def execFreeze (s : State) : Host.Outcome State Fault Refusal := .next (freezeEff s)

/-- The macros that had to wait are copied into the buffer. -/
def State.lateCopy (s : State) (v : Securing) : State :=
  v.late.foldl (fun st e =>
    let (d, t) := st.macImage e.1
    (t.macroPlaces e.1).foldl (fun u o => u.hubWrite (u.nimBuf v.epoch + o) d) t) (s.modSec (fun x => { x with late := [] }))

/-- FREEZE_COPY_COMPLETE (R461, R464), once no work older than the freeze holds a row of the image: the device returns to the state it came from; the
parity contributions leave. -/
def freezeCopied (s : State) : State :=
  match s.nim.sec with
  | some v =>
    if s.chip.st = .securing ∧ v.frozen = true ∧ v.late.all (fun e => !s.macroHeld e.1 e.2) = true then
      let s1 := ((s.lateCopy v).modSec (fun x => { x with copied := true })).goChip (if s.nim.fromSt = 4 then .running else .armed)
      if s.inGroup then s1.sendAllParity v.epoch else s1
    else s
  | none => s

/-- The meaning of FREEZE_COPY_COMPLETE. -/
def execFreezeCopyComplete (s : State) : Host.Outcome State Fault Refusal := .next (freezeCopied s)

/-- DIGESTS_FORMED (R462, R463): chunk digests, shard roots and device root, written to the digest area; outside a group the epoch is secured. -/
def digestsFormed (s : State) : State :=
  match s.nim.sec with
  | some v =>
    if v.copied && !v.digests then
      let (img, s1) := s.hubRead (s.nimBuf v.epoch) (s.nimC * mib / 64)
      let dig := chunkDigests s1.nimC img
      let roots := s1.shardRoots dig
      let a := s1.nimBuf v.epoch + s1.digOff
      let s2 := (s1.hubWrite a (padTo (ceilDiv s1.nimC 2 * 64) dig.flatten)).hubWrite (a + 0x180000) (s1.rootArea dig)
      let s3 := s2.modSec (fun x => { x with digests := true, chunkDig := dig, roots := roots, root := merkle roots })
      if s3.inGroup then (s3.sendDigests v.epoch dig).trySecured else s3.finishEpoch []
    else s
  | none => s

/-- The meaning of DIGESTS_FORMED. -/
def execDigestsFormed (s : State) : Host.Outcome State Fault Refusal := .next (digestsFormed s)

/-- PARITY (R464): a contribution is XORed into its parity chunk. -/
def parityIn (m : CMsg) (s : State) : State :=
  let e := m.nEpoch
  let st := bits m.nArg 0 20
  let i := bits m.nArg 20 9
  let q := bits m.nArg 29 1
  let n := s.grpN
  if s.inGroup ∧ e = s.epoch + 1 ∧ s.ownIdx = (st + q) % n ∧ st < stripes n s.nimC then
    let s1 := s.secFor e
    let a := s1.nimBuf e + s1.parOff + parityNo n s1.ownIdx st * mib + 2048 * i
    let (old, s2) := s1.hubRead a 32
    let key := 1024 * st + 2 * i + q
    ((s2.hubWrite a (xorBytes old (padTo 2048 (m.data.drop 64)))).modSec (fun v =>
      { v with parity := SMap.set 0 v.parity key (SMap.get 0 v.parity key + 1) })).trySecured
  else s

/-- The meaning of PARITY. -/
def execParity (k : Nat) (s : State) : Host.Outcome State Fault Refusal := .next (s.nimMsg k 0xE parityIn)

/-- DIGESTS (R463, R464): the chunk digests of member m − 1 or m − 2 are stored. -/
def digestsIn (m : CMsg) (s : State) : State :=
  let e := m.nEpoch
  let d := (s.ownIdx + s.grpN - m.nSender % 16) % s.grpN
  let first := bits m.nArg 0 14
  if s.inGroup ∧ e = s.epoch + 1 ∧ (d = 1 ∨ d = 2) ∧ first < s.nimC then
    let s1 := s.secFor e
    let a := s1.nimBuf e + s1.digOff + 0x80000 * d + 32 * first
    s1.hubWrite a (m.data.drop 64)
  else s

/-- The meaning of DIGESTS. -/
def execDigests (k : Nat) (s : State) : Host.Outcome State Fault Refusal := .next (s.nimMsg k 0xF digestsIn)

/-- SECURED (R465): the coordinator ends the epoch once every live member has sent it. -/
def securedIn (m : CMsg) (s : State) : State :=
  let e := m.nEpoch
  if s.inGroup ∧ s.ownIdx = s.coordinator ∧ e = s.epoch + 1 then
    let s1 := (s.secFor e).modSec (fun v => { v with
      got := v.got.filter (fun x => decide (x.1 ≠ m.nSender)) ++ [(m.nSender, slice m.data 20 32)] })
    match s1.nim.sec with
    | some v =>
      if s1.live.all (fun x => v.got.any (fun g => decide (g.1 = x))) then
        let root := fun i => ((v.got.find? (fun g => decide (g.1 = i))).map Prod.snd).getD (List.replicate 32 0)
        s1.nimAll 0x11 e v.step 0 ((List.range 16).flatMap root)
      else s1
    | none => s1
  else s

/-- The meaning of SECURED. -/
def execSecured (k : Nat) (s : State) : Host.Outcome State Fault Refusal := .next (s.nimMsg k 0x10 securedIn)

/-- EPOCH_DONE (R465). -/
def epochDoneIn (m : CMsg) (s : State) : State :=
  match s.nim.sec with
  | some v => if v.epoch = m.nEpoch ∧ v.frozen = true then s.finishEpoch (m.data.drop 64) else s
  | none => s

/-- The meaning of EPOCH_DONE. -/
def execEpochDone (k : Nat) (s : State) : Host.Outcome State Fault Refusal := .next (s.nimMsg k 0x11 epochDoneIn)

/-! ## Requests (R459, R300) -/

/-- A securing request; one while another stands, or while the device is SECURING, is absorbed. -/
def State.secureRequest (s : State) : State :=
  if s.isF nimBase F.NIM_STAT_REQ then s
  else
    let s1 := s.flagF nimBase F.NIM_STAT_REQ
    match s.chip.st with
    | .armed => s1
    | .draining => s1
    | .running =>
      if s.inGroup then s1.nimTo s.coordinator 0xD s.epoch s.curStep 0
      else { s1 with nim := { s1.nim with due := true, dueStep := if planTraining s.img then some s.curStep else none } }
    | _ => s

/-- A freeze that is due meets a slot boundary (R459, R461). -/
def State.nimEdge (s : State) : State :=
  if s.nim.due && decide (s.chip.st = .running) && (s.nim.dueStep.map s.stepEnded).getD true then
    { s with nim := { s.nim with atEdge := true } }
  else s

/-- Admission of the next result set is held (R460, R469, R473). -/
def State.admissionHeld (s : State) : Bool :=
  let j := s.job.j
  let train := planTraining s.img
  let first := decide (0 < j) && decide (j % planStepSets s.img = 0)
  let next := s.stepOf j s.slotNo
  s.nim.atEdge || (s.nim.due && (s.nim.dueStep.map s.stepEnded).getD false)
    || (s.nimEn && s.inGroup && s.isF nimBase F.NIM_GRAD_CTL_EN && train && first && decide (s.nim.committed ≠ some s.curStep))
    || ((s.nim.path1.map (fun p => decide (next ≠ p) && first)).getD false)
    || (s.isF nimBase F.NIM_STAT_P1DONE && first)

/-- SECURE (R459, R409): the reply follows when the epoch is secured. -/
def execSecure (s : State) : Host.Outcome State Fault Refusal :=
  .next (s.hostCmd 0x0901 (fun t st =>
    if !t.ok 0 [] then st.fail t 0x0201
    else
      let s1 := if st.chip.st = .securing then st else st.secureRequest
      ({ s1 with nim := { s1.nim with secCmd := s1.nim.secCmd ++ [t.id] } }.goesOn t)))

/-- SECURE_REQ (R459): the coordinator sets SECURE in its next COMMIT. -/
def execSecureReq (k : Nat) (s : State) : Host.Outcome State Fault Refusal :=
  .next (s.nimMsg k 0xD (fun _ st =>
    if st.inGroup ∧ st.ownIdx = st.coordinator then { st with nim := { st.nim with secReq := true } } else st))

/-- SECURE_STATUS (R430). -/
def execSecureStatus (s : State) : Host.Outcome State Fault Refusal :=
  .next (s.hostCmd 0x0905 (fun t st =>
    if !t.ok 0 [] then st.fail t 0x0201
    else st.finish t.id 0 (leBytes 4 st.epoch ++ leBytes 6 st.nim.epochSlot ++ leBytes 2 (st.getF nimBase F.NIM_GROUP_GROUP_ID)
      ++ leBytes 1 st.ownIdx ++ leBytes 1 (st.getF nimBase F.NIM_GROUP_K) ++ leBytes 2 0 ++ padTo 32 st.nim.root)))

/-! ## Tags and groups (R454, R455, R432) -/

/-- SET_TAG (R454). -/
def execSetTag (s : State) : Host.Outcome State Fault Refusal :=
  .next (s.hostCmd 0x0804 (fun t st =>
    let v := t.fld 0 1
    if !t.ok 1 [] || decide (bits v 4 3 ≠ 0) then st.fail t 0x0201
    else
      let back := v.testBit 7
      let tag := if back then st.getF nimBase F.NIM_TAG_FEEDTAG else v % 16
      let s1 := (st.setF nimBase F.NIM_TAG_TAG tag).setF nimBase F.NIM_TAG_BY_CMD (b2n !back)
      s1.finish t.id 0 (leBytes 1 tag)))

/-- The member entries of GROUP_FORM as (COORD, TAG). -/
def groupEntries (p : List Byte) (n : Nat) : List (Nat × Nat) :=
  (List.range n).map (fun (i : Nat) => (leAt p (8 + 4 * i) 2, leAt p (10 + 4 * i) 1))

/-- Two entries carry the same tag. -/
def tagClash : List (Nat × Nat) → Bool
  | [] => false
  | e :: r => r.any (fun x => decide (x.2 = e.2)) || tagClash r

/-- A group formed (R455): epoch 0, every member live, nothing of an earlier group left. -/
def State.formGroup (s : State) (k gid own : Nat) (shared : Bool) (es : List (Nat × Nat)) : State :=
  let s0 := ((s.abandonSecuring).dropRequest).faultFlush
  let set := fun (st : State) (f : Fld) (v : Nat) => st.setF nimBase f v
  let s1 := set (set (set (set (set s0 F.NIM_GROUP_GROUP_ID gid) F.NIM_GROUP_K k) F.NIM_GROUP_MEMBER own) F.NIM_GROUP_VALID 1)
    F.NIM_GROUP_SHARED_FEED (b2n shared)
  let s2 := set (set (set s1 F.NIM_EPOCH_EPOCH 0) F.NIM_EPOCH_STEP_STEP 0) F.NIM_STAT_P1DONE 0
  let s3 := (List.range 16).foldl (fun st m =>
    match es[m]? with
    | some e => st.setReg (nimBase + 0x200 + 4 * m) (BitVec.ofNat 32 (e.1 % 4096 + 4096 * (e.2 % 16) + 0x30000))
    | none => st.setReg (nimBase + 0x200 + 4 * m) 0) s2
  { s3 with nim := { Nim.init with secCmd := s3.nim.secCmd } }

/-- GROUP_FORM (R432, R455). -/
def execGroupForm (s : State) : Host.Outcome State Fault Refusal :=
  .next (s.hostCmd 0x0805 (fun t st =>
    let k := t.fld 0 1
    let fl := t.fld 1 1
    let es := groupEntries t.par (k + 2)
    let bad := !t.ok 8 [(4, 4)] || decide (k < 2 ∨ 14 < k) || decide (1 < fl) || decide (t.par.length ≠ 8 + 4 * (k + 2))
      || es.any (fun e => decide (4096 ≤ e.1) || decide (16 ≤ e.2))
      || (List.range (k + 2)).any (fun (i : Nat) => decide (leAt t.par (11 + 4 * i) 1 ≠ 0))
    match es.findIdx? (fun e => decide (e.1 = st.ownCoord)) with
    | some own =>
      if bad then st.fail t 0x0201
      else if tagClash es && decide (fl = 0) then st.fail t 0x0602
      else (st.formGroup k (t.fld 2 2) own (decide (fl = 1)) es).finish t.id 0 (leBytes 1 own ++ leBytes 1 fl)
    | none => st.fail t 0x0201))

end Sys2Proof.Machine
end

