-- ==== Sys2Proof/Machine/Images.lean ====
section
/-! DEFINITION. Images in the MRAM shadow and their records (R420 to R422, R530 to R533, R359; Table 14.3): IMG_LIST, IMG_WRITE, IMG_PULL,
IMG_DELETE, IMG_READ and SHADOW_SYNC. -/

namespace Sys2Proof.Machine

/-! ## Records (R531, R533) -/

/-- Bytes of a unit of a kind: a macro's patch, a Cirrus image, a retained window (R418). -/
def unitSize (kind : Nat) : Nat := if kind = 1 then 131072 else 65536

/-- Units that a kind's range may name: macros, or blocks. -/
def unitTop (kind : Nat) : Nat := if kind = 0 then 4096 else 256

/-- A record overlaps a range. -/
def ImgRec.over (r : ImgRec) (kind first count : Nat) : Bool :=
  decide (r.kind = kind) && decide (r.first < first + count) && decide (first < r.first + r.count)

/-- A macro without the holding tag of a removed weight record. -/
def untag (r : ImgRec) (e : Nat × MacroX) : Nat × MacroX :=
  if r.kind = 0 ∧ r.first ≤ e.1 ∧ e.1 < r.first + r.count then (e.1, { e.2 with held := 0 }) else e

/-- Records that satisfy p leave the directory, and the holding tags that name them are cleared (R533). -/
def State.imgDrop (s : State) (p : ImgRec → Bool) : State :=
  let gone := s.store.imgs.filter p
  { s with
      store := { s.store with imgs := s.store.imgs.filter (fun r => !p r) },
      macros := s.macros.map (fun (e : Nat × MacroX) => gone.foldl (fun x r => untag r x) e) }

/-- A record entered, every record whose range it overlaps removed (R531). -/
def State.imgAdd (s : State) (r : ImgRec) : State :=
  let s1 := s.imgDrop (fun x => x.over r.kind r.first r.count)
  { s1 with store := { s1.store with imgs := s1.store.imgs ++ [r] } }

/-- Bytes of the shadow, from byte o of the areas of a kind. -/
def State.shadowRd (s : State) (kind o n : Nat) : List Byte :=
  Mem.rdN (if kind = 0 then s.mem.wshadow else if kind = 1 then s.mem.cirrus else s.mem.sshadow) o n

/-- Bytes of the shadow written. -/
def State.shadowWr (s : State) (kind o : Nat) (d : List Byte) : State :=
  if kind = 0 then { s with mem := { s.mem with wshadow := Mem.wrN s.mem.wshadow o d } }
  else if kind = 1 then { s with mem := { s.mem with cirrus := Mem.wrN s.mem.cirrus o d } }
  else { s with mem := { s.mem with sshadow := Mem.wrN s.mem.sshadow o d } }

/-- IMG_LIST: as many entries as a reply holds. -/
def imgListEff (t : Taken) (s : State) : State :=
  if !t.ok 4 [] then s.fail t 0x0201
  else
    let l := (s.store.imgs.drop (t.fld 0 4)).take 84
    s.finish t.id 0 (leBytes 4 s.store.imgs.length ++ leBytes 4 l.length ++ l.flatMap ImgRec.entry)

/-- The meaning of IMG_LIST. -/
def execImgList (s : State) : Host.Outcome State Fault Refusal := .next (s.hostCmd 0x0401 imgListEff)

/-! ## IMG_WRITE and IMG_PULL (R420, R531, R359) -/

/-- Ranges, as (first, count), of WEIGHTS records of the installed plan. -/
def State.planWeights (s : State) : List (Nat × Nat × Nat) :=
  (List.range (((planSect s.img 0x13 0xFFFF).map Sect.cnt).getD 0)).map (fun (i : Nat) =>
    let r := (planRec s.img 0x13 0xFFFF 64 i).getD []
    (leAt r 0 4, leAt r 4 2, leAt r 6 2))

/-- A record that a command describes: KIND, FIRST, COUNT and SHA. -/
def imgOf (id kind first count : Nat) (sha : List Byte) : ImgRec := ⟨id, kind, first, count, count * unitSize kind, padTo 32 sha⟩

/-- The record of an IMG_WRITE, of an IMG_PULL. -/
def Taken.imgRec (t : Taken) : ImgRec :=
  if t.op = 0x0402 then imgOf (t.fld 8 4) (t.fld 12 1) (t.fld 14 2) (t.fld 16 2) (slice t.par 20 32)
  else imgOf (t.fld 4 4) (t.fld 8 1) (t.fld 10 2) (t.fld 12 2) (slice t.par 16 32)

/-- A record's range exists. -/
def ImgRec.fits (r : ImgRec) : Bool := decide (r.kind ≤ 2) && decide (0 < r.count) && decide (r.first + r.count ≤ unitTop r.kind)

/-- Its range overlaps a WEIGHTS range of the installed plan. -/
def State.planNames (s : State) (r : ImgRec) : Bool := s.planWeights.any (fun w => r.over 0 w.2.1 w.2.2)

/-- A restore, synchronisation or recalibration runs in a record's range, or Cirrus predicts there (R531). -/
def State.imgBusy (s : State) (r : ImgRec) : Bool :=
  ((List.range r.count).map (fun (i : Nat) => r.first + i)).any (fun u =>
    if r.kind = 0 then (s.mx u).shop.isSome
    else if r.kind = 1 then s.isF (blkBase u) F.CIR_STAT_RECAL || !(s.bx u).issues.isEmpty
    else (s.bx u).shop.isSome)

/-- What keeps an image command from running: a status (R420, R531). -/
def State.imgRefuse (s : State) (r : ImgRec) : Option Nat :=
  if s.planNames r then some 0x0701 else if 256 ≤ s.store.imgs.length then some 0x0301 else none

/-- The range has been written whole: recorded where its digest is the one given; otherwise no record stands for it. -/
def State.imgEnd (s : State) (t : Taken) (sha : List Byte) : State :=
  let r := t.imgRec
  if padTo 32 sha = r.sha then (s.imgAdd r).finish t.id 0 []
  else (s.imgDrop (fun x => x.over r.kind r.first r.count)).fail t 0x0204

/-- IMG_WRITE once its range is quiet. -/
def State.imgWriteGo (s : State) (t : Taken) : State := (s.armIn t.id t.bulkLen).setTaken { t with stage := 1 }

/-- IMG_WRITE (R420, R531). -/
def imgWriteEff (t : Taken) (s : State) : State :=
  let r := t.imgRec
  if !t.okBulk 0 (2 ^ 32) 52 [(13, 1), (18, 2)] || !r.fits || decide (t.bulkLen ≠ r.len) then s.fail t 0x0201
  else
    match s.imgRefuse r with
    | some st => s.fail t st
    | none => (if s.imgBusy r then s.holdIn t.id else s.imgWriteGo t).goesOn t

/-- The bulk phase of IMG_WRITE has brought its last byte. -/
def State.imgWritten (s : State) (t : Taken) (d : List Byte) : State :=
  (s.shadowWr t.imgRec.kind (unitSize t.imgRec.kind * t.imgRec.first) d).imgEnd t (sha256 d)

/-- The meaning of IMG_WRITE: one that waits goes on once its range is quiet, else one is taken. -/
def execImgWrite (s : State) : Host.Outcome State Fault Refusal :=
  .next (match s.takenOp 0x0402 with
    | some t => if t.stage = 0 ∧ s.imgBusy t.imgRec = false then s.imgWriteGo t else s.hostCmd 0x0402 imgWriteEff
    | none => s.hostCmd 0x0402 imgWriteEff)

/-- Parts of 32 lines that a pull reads. -/
def ImgRec.parts (r : ImgRec) : Nat := r.len / 2048

/-- Lines of the peer's image space asked for; tokens from 2^40 on are parts of an image, from 2^41 on parts of the directory. -/
def State.imgAsk (s : State) (t : Taken) (a tok : Nat) : State :=
  s.hubSend ⟨t.fld 0 2 % 4096, s.ownCoord, 0x130, 0x130, 0, 0, 32, 0, 0, 0, a, []⟩ tok true

/-- Part i of a pull, from where the peer's record lies (log entry 57). -/
def State.pullAsk (s : State) (t : Taken) (i : Nat) : State :=
  let r := t.imgRec
  s.imgAsk t ((if r.kind = 1 then 0x10000000 else 0) + unitSize r.kind * t.aux.getD 4 0 + 2048 * i) (2 ^ 40 + i)

/-- IMG_PULL once its range is quiet: the peer's directory is read, 256 records in eight parts. Its numbers are then whether the record was found,
the parts unanswered, whether one failed, and FIRST of the record. Retained-window images lie in no image space, and the device is no peer of its own. -/
def State.imgPullGo (s : State) (t : Taken) : State :=
  if t.imgRec.kind = 2 ∨ t.fld 0 2 = s.ownCoord then s.fail t 0x0202
  else (List.range 8).foldl (fun st i => st.imgAsk t (imgDirAt + 2048 * i) (2 ^ 41 + i)) (s.setTaken { t with stage := 1, aux := [t.aux.getD 0 0, 0, 8, 0, 0] })

/-- The FIRST of a record of part of a directory that has an image's IMAGE_ID, KIND and COUNT. -/
def imgFound (r : ImgRec) (d : List Byte) : Option Nat :=
  ((List.range 32).find? (fun (i : Nat) =>
    decide (leAt d (64 * i) 4 = r.id) && decide (leAt d (64 * i + 4) 1 = r.kind) && decide (leAt d (64 * i + 8) 2 = r.count))).map
    (fun i => leAt d (64 * i + 6) 2)

/-- The peer holds the image: its parts are read, at most 64 of them outstanding. The numbers are the next part, the parts unanswered, whether one
failed, and FIRST at the peer. -/
def State.pullGo (s : State) (t : Taken) : State :=
  let n := min 64 t.imgRec.parts
  let t1 := { t with stage := 2, aux := [t.aux.getD 0 0, n, n, 0, t.aux.getD 4 0] }
  (List.range n).foldl (fun st i => st.pullAsk t1 i) (s.setTaken t1)

/-- A part of the peer's directory has been answered: after the last one the image is read, or NOT_FOUND where the peer holds none with this IMAGE_ID,
KIND and COUNT or did not say (R420). -/
def State.dirPart (s : State) (d : List Byte) (e : Nat) : State :=
  match s.takenOp 0x0403 with
  | some t =>
    if t.stage ≠ 1 then s
    else
      let hit := if e = 0 then imgFound t.imgRec d else none
      let t1 := { t with aux := [t.aux.getD 0 0, t.aux.getD 1 0 ||| b2n hit.isSome, t.aux.getD 2 0 - 1, t.aux.getD 3 0 ||| b2n (decide (e ≠ 0)),
                                 hit.getD (t.aux.getD 4 0)] }
      if t1.aux.getD 2 0 ≠ 0 then s.setTaken t1
      else if t1.aux.getD 1 0 = 1 then s.pullGo t1
      else s.fail t1 0x0202
  | none => s

/-- IMG_PULL (R420, R531, R359). -/
def imgPullEff (t : Taken) (s : State) : State :=
  let r := t.imgRec
  if !t.ok 48 [(2, 2), (9, 1), (14, 2)] || !r.fits || decide (4096 ≤ t.fld 0 2) then s.fail t 0x0201
  else
    match s.imgRefuse r with
    | some st => s.fail t st
    | none => (if s.imgBusy r then s else s.imgPullGo t).goesOnIf t

/-- The meaning of IMG_PULL: one that waits goes on once its range is quiet, else one is taken. -/
def execImgPull (s : State) : Host.Outcome State Fault Refusal :=
  .next (match s.takenOp 0x0403 with
    | some t => if t.stage = 0 ∧ s.imgBusy t.imgRec = false then s.imgPullGo t else s.hostCmd 0x0403 imgPullEff
    | none => s.hostCmd 0x0403 imgPullEff)

/-- Part i of a pull has been answered (R359): written to the shadow, or failed; the last ends the command. -/
def State.pullPart (s : State) (i : Nat) (d : List Byte) (e : Nat) : State :=
  match s.takenOp 0x0403 with
  | some t =>
    if t.stage ≠ 2 then s
    else
      let r := t.imgRec
      let s1 := if e = 0 then s.shadowWr r.kind (unitSize r.kind * r.first + 2048 * i) (padTo 2048 d) else s
      let next := t.aux.getD 1 0
      let more := decide (next < r.parts)
      let left := t.aux.getD 2 0 - b2n (!more)
      let bad := t.aux.getD 3 0 ||| b2n (decide (e ≠ 0))
      let t1 := { t with aux := [t.aux.getD 0 0, next + b2n more, left, bad, t.aux.getD 4 0] }
      let s2 := s1.setTaken t1
      if more then s2.pullAsk t1 next
      else if left = 0 then
        (if bad = 1 then (s2.imgDrop (fun x => x.over r.kind r.first r.count)).fail t1 0x0202
        else s2.imgEnd t1 (sha256 (s2.shadowRd r.kind (unitSize r.kind * r.first) r.len)))
      else s2
  | none => s

/-! ## IMG_DELETE and IMG_READ (R421) -/

/-- IMG_DELETE. -/
def imgDeleteEff (t : Taken) (s : State) : State :=
  let id := t.fld 0 4
  if !t.ok 4 [] then s.fail t 0x0201
  else if !s.store.imgs.any (fun r => decide (r.id = id)) then s.fail t 0x0202
  else if s.planWeights.any (fun w => decide (w.1 = id)) then s.fail t 0x0701
  else (s.imgDrop (fun r => decide (r.id = id))).finish t.id 0 []

/-- The meaning of IMG_DELETE. -/
def execImgDelete (s : State) : Host.Outcome State Fault Refusal := .next (s.hostCmd 0x0404 imgDeleteEff)

/-- IMG_READ: BULK_LEN beyond the image is out of range (log entry 58). -/
def imgReadEff (t : Taken) (s : State) : State :=
  if !t.okBulk 1 (2 ^ 32) 12 [] then s.fail t 0x0201
  else
    match s.store.imgs.find? (fun r => decide (r.id = t.fld 8 4)) with
    | some r =>
      if r.len < t.bulkLen then s.fail t 0x0201
      else (s.armOut t.id (s.shadowRd r.kind (unitSize r.kind * r.first) t.bulkLen)).goesOn t
    | none => s.fail t 0x0202

/-- The meaning of IMG_READ. -/
def execImgRead (s : State) : Host.Outcome State Fault Refusal := .next (s.hostCmd 0x0405 imgReadEff)

/-! ## SHADOW_SYNC (R422) -/

/-- The macros that a SHADOW_SYNC names, and the blocks that hold them. -/
def Taken.syncMacros (t : Taken) : List Nat := (List.range (t.fld 2 2)).map (fun (i : Nat) => t.fld 0 2 + i)
def Taken.syncBlocks (t : Taken) : List Nat := dedup (t.syncMacros.map (fun m => m / 16))

/-- BUSY reads 1 somewhere in the range of a SHADOW_SYNC. -/
def State.syncBusy (s : State) (t : Taken) : Bool :=
  t.syncMacros.any (fun m => (s.mx m).shop.isSome) || ((t.fld 4 1).testBit 0 && t.syncBlocks.any (fun b => (s.bx b).shop.isSome))

/-- A SHADOW_SYNC ends once every BUSY reads 0: the digest of the range, and its record. -/
def State.syncGo (s : State) : State :=
  match s.takenOp 0x0406 with
  | some t =>
    if s.syncBusy t then s
    else
      let d := sha256 (s.shadowRd 0 (65536 * t.fld 0 2) (65536 * t.fld 2 2))
      let r := imgOf (t.fld 8 4) 0 (t.fld 0 2) (t.fld 2 2) d
      if r.id = 0 then s.finish t.id 0 d
      else
        let s1 := s.imgAdd r
        if 256 < s1.store.imgs.length then s.fail t 0x0301 else s1.finish t.id 0 d
  | none => s

/-- SHADOW_SYNC. -/
def shadowSyncEff (t : Taken) (s : State) : State :=
  if !t.ok 12 [(5, 3)] || decide (1 < t.fld 4 1) || decide (t.fld 2 2 = 0) || decide (4096 < t.fld 0 2 + t.fld 2 2) then s.fail t 0x0201
  else
    let s1 := t.syncMacros.foldl (fun st m => if st.compOn (m / 16) then shadowSync st m else st) s
    let s2 := if (t.fld 4 1).testBit 0 then t.syncBlocks.foldl (fun st b => if st.spdOn b then spdSync st b else st) s1 else s1
    s2.syncGo.goesOnIf t

/-- The meaning of SHADOW_SYNC: one in progress is looked at again, else one is taken. -/
def execShadowSync (s : State) : Host.Outcome State Fault Refusal :=
  .next (match s.takenOp 0x0406 with
    | some t => if s.syncBusy t then s.hostCmd 0x0406 shadowSyncEff else s.syncGo
    | none => s.hostCmd 0x0406 shadowSyncEff)

end Sys2Proof.Machine
end

