-- ==== Sys2Proof/Machine/Recovery.lean ====
section
/-! DEFINITION. The gradient phase (R466 to R469), peer loss and the recovery decision (R470 to R473), restoring (R477 to R479) and
rebuilding a member (R474 to R476). -/

namespace Sys2Proof.Machine

/-! ## The gradient phase -/

/-- A 36-bit address of the engine's configuration. -/
def State.nimAddr (s : State) (lo hi : Fld) : Nat := s.getF nimBase lo + 2 ^ 32 * s.getF nimBase hi
def State.gLocal (s : State) : Nat := s.nimAddr F.NIM_GRAD_LOCAL_LO_ADDR F.NIM_GRAD_LOCAL_HI_ADDR
def State.gStage (s : State) : Nat := s.nimAddr F.NIM_GRAD_STAGE_LO_ADDR F.NIM_GRAD_STAGE_HI_ADDR
def State.gResult (s : State) : Nat := s.nimAddr F.NIM_GRAD_RESULT_LO_ADDR F.NIM_GRAD_RESULT_HI_ADDR
def State.gAvg (s : State) : Nat := s.nimAddr F.NIM_GRAD_AVG_LO_ADDR F.NIM_GRAD_AVG_HI_ADDR
/-- Gradient length in lines. -/
def State.gLines (s : State) : Nat := s.getF nimBase F.NIM_GRAD_LINES_LINES
/-- The gradient state: 0 IDLE, 1 REDUCING, 2 READY, 3 COMMITTED (R469). -/
def State.grad (s : State) : Nat := s.getF nimBase F.NIM_STAT_GRAD
/-- The gradient state replaced. -/
def State.setGrad (s : State) (g : Nat) : State := s.setF nimBase F.NIM_STAT_GRAD g
/-- The ready counter. -/
def State.readyCount (s : State) : Nat :=
  s.getF (blkBase (s.getF nimBase F.NIM_GRAD_CTL_READY_BLK)) (F.SPD_ATOM_CNT_COUNT.idx (4 * s.getF nimBase F.NIM_GRAD_CTL_READY_CNT))

/-- The gradient state as at START; no step is being completed or was completed under PATH1. -/
def State.gradReset (s : State) : State :=
  let s1 := (s.setGrad 0).setF nimBase F.NIM_STAT_P1DONE 0
  { s1 with nim := { s1.nim with
      path1 := none, gradBase := 0, gradLive := [], added := [], pushed := [], ready := [], told := [], failed := [], committed := none, goWait := false } }

/-- First line and number of lines of stripe q of n. -/
def stripeOf (l n q : Nat) : Nat × Nat := (q * l / n, (q + 1) * l / n - q * l / n)

/-- Own local stripe q added into the stage stripe of a member (R467). -/
def State.addStripe (s : State) (q m : Nat) : State :=
  let (f, k) := stripeOf s.gLines s.nim.gradLive.length q
  let fmt := s.getF nimBase F.NIM_GRAD_CTL_FMT
  (List.range k).foldl (fun st i =>
    let (d, t) := st.hubRead (st.gLocal + 64 * (f + i)) 1
    let a := t.gStage + 64 * (f + i)
    if t.coordOf m = t.ownCoord then t.hubAdd a fmt (wholeLine d)
    else t.hubSend ⟨t.coordOf m, t.ownCoord, 0x1FF, 0x130, 3, 0, 1, 0, fmt, 0, a, d⟩ (0x1000 + q) false) s

/-- ADDED goes to the owner of each stripe whose adds are all acknowledged. -/
def State.tellAdded (s : State) : State :=
  (List.range s.nim.gradLive.length).foldl (fun st q =>
    if decide (q ∈ st.nim.told) || st.hubWaits (0x1000 + q) (0x1000 + q) || decide (0x1000 + q ∈ st.nim.failed) then st
    else { st.nimTo (st.nim.gradLive.getD q 0) 9 st.epoch st.nim.gradStep q with nim := { st.nim with told := st.nim.told ++ [q] } }) s

/-- The reduction of the current gradient step starts over the live members (R467). -/
def State.startReduce (s : State) : State :=
  let s1 := s.setGrad 1
  let s2 := { s1 with nim := { s1.nim with gradLive := s1.live, told := [], failed := [], goWait := false } }
  (s2.nim.gradLive.foldl (fun (acc : State × Nat) m => (acc.1.addStripe acc.2 m, acc.2 + 1)) (s2, 0)).1.tellAdded

/-- COMMIT of a step (R467): the AVG word, then the commit counter. -/
def State.commitStep (s : State) (step contrib : Nat) : State :=
  let w := f32div (f32ofInt 1 0) (f32ofInt (contrib : Nat) 0)
  let a := s.gAvg
  let bytes := leBytes 4 w.toNat
  let data := (List.range 4).map (fun (i : Nat) => (a % 64 + i, bytes.getD i 0, (0xFF#8 : Byte)))
  let s1 := ((s.hubStore (a / 64 * 64) data).2).setGrad 3
  let s2 := s1.hubCount (s1.getF nimBase F.NIM_GRAD_COMMIT_COMMIT_BLK) (s1.getF nimBase F.NIM_GRAD_COMMIT_COMMIT_CNT)
  { s2 with nim := { s2.nim with committed := some step, gradStep := step } }

/-- REDUCTION_START (R466, R479): the ready counter has advanced by READY_INC since the last start. A step that is committed without a reduction takes
its READY_INC increments as one that started. -/
def reductionStart (s : State) : State :=
  let on := s.nimEn && s.isF nimBase F.NIM_GRAD_CTL_EN && planTraining s.img && s.isIn [.running, .draining, .securing]
    && decide (s.grad = 0 ∨ s.grad = 3) && decide (0 < s.job.j) && decide (s.nim.committed ≠ some s.curStep)
  let adv := (s.readyCount + 2 ^ 32 - s.nim.gradBase) % 2 ^ 32
  if !on then s
  else if s.nim.noReduce then
    let s1 := { s with nim := { s.nim with noReduce := false, gradBase := (s.nim.gradBase + s.getF nimBase F.NIM_GRAD_CTL_READY_INC) % 2 ^ 32, gradStep := s.curStep, committed := some s.curStep } }
    (s1.setGrad 3).hubCount (s.getF nimBase F.NIM_GRAD_COMMIT_COMMIT_BLK) (s.getF nimBase F.NIM_GRAD_COMMIT_COMMIT_CNT)
  else if s.inGroup && decide (s.getF nimBase F.NIM_GRAD_CTL_READY_INC ≤ adv) && !s.nim.goWait then
    { s with nim := { s.nim with gradBase := s.readyCount, gradStep := s.curStep } }.startReduce
  else s

/-- The meaning of REDUCTION_START. -/
def execReductionStart (s : State) : Host.Outcome State Fault Refusal := .next (reductionStart s)

/-- The own position among the members of the reduction. -/
def State.gradPos (s : State) : Option Nat := s.nim.gradLive.findIdx? (fun m => decide (m = s.ownIdx))

/-- PUSHED goes to every live member once the result writes are acknowledged. -/
def State.tellPushed (s : State) : State :=
  match s.gradPos with
  | some i =>
    if decide (0x100 ∈ s.nim.told) && !decide (0x200 ∈ s.nim.told) && !s.hubWaits 0x2000 0x2000 && !decide (0x2000 ∈ s.nim.failed) then
      { s.nim.gradLive.foldl (fun st m => st.nimTo m 0xA st.epoch st.nim.gradStep i) s with
          nim := { s.nim with told := s.nim.told ++ [0x200] } }
    else s
  | none => s

/-- The own stage stripe written to every live member's result stripe, and cleared (R467). -/
def State.pushStripe (s : State) (i : Nat) : State :=
  let (f, k) := stripeOf s.gLines s.nim.gradLive.length i
  let (d, s1) := s.hubRead (s.gStage + 64 * f) k
  let a := s1.gResult + 64 * f
  let s2 := s1.nim.gradLive.foldl (fun st m =>
    if st.coordOf m = st.ownCoord then st.hubWrite a d
    else (List.range (ceilDiv k 32)).foldl (fun t j =>
      let x := slice d (2048 * j) 2048
      t.hubSend ⟨t.coordOf m, t.ownCoord, 0x1FF, 0x130, 1, 0, x.length / 64, 0, 0, 0, a + 2048 * j, x⟩ 0x2000 false) st) s1
  let s3 := s2.hubWrite (s2.gStage + 64 * f) (List.replicate (64 * k) 0)
  { s3 with nim := { s3.nim with told := s3.nim.told ++ [0x100] } }.tellPushed

/-- ADDED has come from every member of the reduction: the own stripe is pushed. -/
def State.tryPush (s : State) : State :=
  match s.gradPos with
  | some i =>
    if decide (s.grad = 1) && !decide (0x100 ∈ s.nim.told)
        && s.nim.gradLive.all (fun m => decide ((s.nim.gradStep, m) ∈ s.nim.added)) then s.pushStripe i
    else s
  | none => s

/-- PUSHED has come for every stripe: READY goes to the coordinator. -/
def State.tryReady (s : State) : State :=
  if s.grad = 1 ∧ (List.range s.nim.gradLive.length).all (fun (q : Nat) => decide ((s.nim.gradStep, q) ∈ s.nim.pushed)) = true
      ∧ 0 < s.nim.gradLive.length then
    (s.setGrad 2).nimTo s.coordinator 0xB s.epoch s.nim.gradStep 0
  else s

/-- ADDED: stripe of the own position, from a member (R467). -/
def execAdded (k : Nat) (s : State) : Host.Outcome State Fault Refusal :=
  .next (s.nimMsg k 9 (fun m st =>
    { st with nim := { st.nim with added := st.nim.added ++ [(m.nStep, m.nSender)] } }.tryPush))

/-- PUSHED (R467). -/
def execPushed (k : Nat) (s : State) : Host.Outcome State Fault Refusal :=
  .next (s.nimMsg k 0xA (fun m st =>
    { st with nim := { st.nim with pushed := st.nim.pushed ++ [(m.nStep, bits m.nArg 0 4)] } }.tryReady))

/-- READY (R467): with READY of every live member the coordinator sends COMMIT, with SECURE where a request waits (R459). -/
def readyIn (m : CMsg) (s : State) : State :=
  let s1 := { s with nim := { s.nim with ready := s.nim.ready ++ [(m.nStep, m.nSender)] } }
  if s1.ownIdx = s1.coordinator ∧ s1.live.all (fun x => decide ((m.nStep, x) ∈ s1.nim.ready)) = true then
    let s2 := s1.nimAll 0xC (s1.epoch + 1) m.nStep (s1.live.length + (if s1.nim.secReq then 32 else 0)) []
    { s2 with nim := { s2.nim with secReq := false, ready := s2.nim.ready.filter (fun e => decide (e.1 ≠ m.nStep)) } }
  else s1

/-- The meaning of READY. -/
def execReady (k : Nat) (s : State) : Host.Outcome State Fault Refusal := .next (s.nimMsg k 0xB readyIn)

/-! ## Peer loss (R470, R471) -/

/-- NIM_PEER_LOST for the device at coordinate c. -/
def State.peerLostErr (s : State) (c : Nat) : State := s.raiseChip (s.faultId 3 (unitDev c) 0x91)

/-- The own STATUS (R471): gradient state, TENT, P1DONE. -/
def State.ownStatus (s : State) : Nat :=
  s.grad + 4 * b2n ((s.nim.sec.map Securing.sent).getD false) + 8 * s.getF nimBase F.NIM_STAT_P1DONE

/-- The coordinator of the remaining members asks for their gradient state. -/
def State.askStatus (s : State) : State :=
  let own : NimStatus := ⟨s.ownIdx, s.ownStatus, s.epoch, s.curStep⟩
  let s1 := { s with nim := { s.nim with exch := { s.nim.exch with coord := s.ownIdx, status := [own] } } }
  (s1.live.filter (fun m => decide (m ≠ s1.ownIdx))).foldl (fun st m => st.nimTo m 4 st.epoch st.curStep 0) s1

/-- Some tag that two or more of these members carry, all of them lost (Table 15.7). -/
def feedGone (members : List Nat) (tag : Nat → Nat) (lost : Nat → Bool) : Bool :=
  (List.range 16).any (fun (x : Nat) =>
    let carry := members.filter (fun m => decide (tag m = x))
    decide (2 ≤ carry.length) && carry.all lost)

/-- A shared feed of the group is lost, whenever its carriers were. -/
def State.feedLost (s : State) : Bool :=
  s.isF nimBase F.NIM_GROUP_SHARED_FEED && feedGone ((List.range 16).filter (fun (m : Nat) => decide (s.member m F.NIM_MEMBER_VALID = 1)))
    (fun m => s.member m F.NIM_MEMBER_TAG) (fun m => !s.isLive m)

/-- The settled epoch (R472): the largest that a survivor holds by EPOCH_DONE. -/
def settledEpoch (l : List NimStatus) : Nat := (l.map NimStatus.epoch).foldl max 0

/-- The step of the settled epoch as this device knows it. -/
def State.settledStep (s : State) (e : Nat) : Nat :=
  match s.nim.sec with
  | some v => if v.epoch = e then v.step else s.getF nimBase F.NIM_EPOCH_STEP_STEP
  | none => s.getF nimBase F.NIM_EPOCH_STEP_STEP

/-- The step whose gradient phase is current (R469, R472; log entry 93): the smallest that a survivor reduces or is READY for, else the largest
that a survivor is in. -/
def gradPhaseStep (l : List NimStatus) : Nat :=
  match (l.filter (fun x => decide (x.arg % 4 = 1 ∨ x.arg % 4 = 2))).map NimStatus.step with
  | a :: r => r.foldl min a
  | [] => (l.map NimStatus.step).foldl max 0

/-- The decision of Table 15.7 with the settled epoch and the step it concerns. A survivor in a later step has committed this one (R469). -/
def State.decideNow (s : State) : Nat × Nat × Nat :=
  let l := s.nim.exch.status
  let e := settledEpoch l
  let S := gradPhaseStep l
  let aligned := decide (0 < e) && decide ((s.settledStep e + 1) % 2 ^ 32 = S)
  let grads := (l.filter (fun x => decide (x.step = S))).map (fun x => x.arg % 4)
  let d := if 2 < s.nim.exch.lost.length ∨ s.feedLost = true then 3
    else if aligned && (grads.any (fun g => decide (g = 3)) || l.any (fun x => decide (S < x.step))) then 0
    else if aligned && grads.any (fun g => decide (g = 1 ∨ g = 2)) then 1 else 2
  (d, e, S)

/-- Bit mask of the live members. -/
def State.liveMask (s : State) : Nat := s.live.foldl (fun n m => n + 2 ^ m) 0

/-- With STATUS of every survivor the coordinator decides and sends DECIDE (R471). -/
def State.tryDecide (s : State) : State :=
  if s.nim.exch.active && decide (s.nim.exch.coord = s.ownIdx)
      && s.live.all (fun m => s.nim.exch.status.any (fun x => decide (x.member = m))) then
    let (d, e, S) := s.decideNow
    s.nimAll 6 e S (d + 16 * s.liveMask) []
  else s

/-- The exchange with one more member lost, begun again under a coordinator. -/
def Exch.lose (x : Exch) (m coord : Nat) : Exch :=
  ⟨dedup (x.lost ++ [m]), dedup (x.now ++ [m]), true, coord, [], [], none⟩

/-- A group member is lost (R465, R470, R471): not live, LOST to the others, PEER_LOST, and the exchange begins again. -/
def State.loseMember (s : State) (m : Nat) : State :=
  if !s.isLive m || decide (m = s.ownIdx) then s
  else
    let f := F.NIM_MEMBER_LIVE.idx (4 * m)
    let s1 := (s.setF nimBase f 0).postEvent 0x9 0 (s.coordOf m) false
    let tent := (s1.nim.sec.map Securing.sent).getD false
    let s2 := if tent then s1 else s1.abandonSecuring
    let gone := s2.coordOf m
    let x := s2.nim.exch.lose m s2.coordinator
    let s3 : State := { s2 with nim := { s2.nim with pings := s2.nim.pings.filter (fun c => decide (c ≠ gone)), exch := x } }
    let s4 := (s3.live.filter (fun q => decide (q ≠ s3.ownIdx))).foldl (fun st q => st.nimTo q 3 st.epoch st.curStep m) s3
    if s4.ownIdx = s4.coordinator then s4.askStatus.tryDecide else s4

/-- A watched peer at coordinate c is lost. -/
def State.losePeer (s : State) (c : Nat) : State :=
  match (if s.inGroup then s.memberAt c else none) with
  | some m => if s.isLive m then s.loseMember m else s
  | none => (s.postEvent 0x9 0 c false).peerLostErr c

/-- The device watches coordinate c (R470). -/
def State.watches (s : State) (c : Nat) : Bool :=
  s.nimEn && ((s.inGroup && ((s.memberAt c).map s.isLive).getD false)
    || (s.isF curShBase F.CUR_HANDOFF_TX_EN && decide (s.getF curShBase F.CUR_HANDOFF_DST = c)))

/-- A request or Nimbus message to c went unanswered: a watched peer gets a PING. -/
def State.pingPeer (s : State) (c : Nat) : State :=
  if s.watches c && !decide (c ∈ s.nim.pings) then
    { s.nimSend c 1 s.epoch s.curStep 0 [] [] 0 with nim := { s.nim with pings := s.nim.pings ++ [c] } }
  else s

/-- PING (R470). -/
def execPing (k : Nat) (s : State) : Host.Outcome State Fault Refusal :=
  .next (s.nimMsg k 1 (fun m st => st.nimSend m.src 2 st.epoch st.curStep 0 [] [] 0))

/-- PONG (R470). -/
def execPong (k : Nat) (s : State) : Host.Outcome State Fault Refusal :=
  .next (s.nimMsg k 2 (fun m st => { st with nim := { st.nim with pings := st.nim.pings.filter (fun c => decide (c ≠ m.src)) } }))

/-- LOST from a live member (R470). -/
def execLost (k : Nat) (s : State) : Host.Outcome State Fault Refusal :=
  .next (s.nimMsg k 3 (fun m st => if st.isLive m.nSender then st.loseMember (bits m.nArg 0 4) else st))

/-- PEER_PING_TIMEOUT (R470). -/
def execPeerPingTimeout (c : Nat) (s : State) : Host.Outcome State Fault Refusal :=
  .next (if decide (c ∈ s.nim.pings) && s.nimEn then
      { s with nim := { s.nim with pings := s.nim.pings.filter (fun x => decide (x ≠ c)) } }.losePeer c
    else s)

/-- STATUS_REQ (R471): this survivor answers the coordinator. -/
def execStatusReq (k : Nat) (s : State) : Host.Outcome State Fault Refusal :=
  .next (s.nimMsg k 4 (fun m st =>
    let s1 := { st with nim := { st.nim with exch := { st.nim.exch with active := true, coord := m.nSender } } }
    s1.nimTo (m.nSender % 16) 5 s1.epoch s1.curStep s1.ownStatus))

/-- STATUS (R471). -/
def execStatus (k : Nat) (s : State) : Host.Outcome State Fault Refusal :=
  .next (s.nimMsg k 5 (fun m st =>
    let x := st.nim.exch
    if x.active && decide (x.coord = st.ownIdx) then
      let e : NimStatus := ⟨m.nSender, m.nArg, m.nEpoch, m.nStep⟩
      { st with nim := { st.nim with exch := { x with
          status := x.status.filter (fun (q : NimStatus) => decide (q.member ≠ m.nSender)) ++ [e] } } }.tryDecide
    else st))

/-- STATUS_TIMEOUT (R471): a survivor that did not answer is lost as well. -/
def execStatusTimeout (c : Nat) (s : State) : Host.Outcome State Fault Refusal :=
  .next (match s.memberAt c with
    | some m =>
      if s.nimEn && s.nim.exch.active && decide (s.nim.exch.coord = s.ownIdx) && s.nim.exch.decision.isNone
          && !s.nim.exch.status.any (fun x => decide (x.member = m)) then s.loseMember m
      else s
    | none => s)

/-- DECIDE_TIMEOUT (R471): the next coordinator repeats the exchange. -/
def execDecideTimeout (s : State) : Host.Outcome State Fault Refusal :=
  .next (let x := s.nim.exch
    if s.nimEn && x.active && x.decision.isNone && decide (x.coord ≠ s.ownIdx) then
      let next := ((s.live.filter (fun m => decide (x.coord < m))).head?).getD s.coordinator
      let s1 := { s with nim := { s.nim with exch := { x with coord := next, status := [] } } }
      if next = s.ownIdx then s1.askStatus.tryDecide else s1
    else s)

/-! ## The decision (R472, R473) -/

/-- Every survivor adopts the settled epoch: a tentative one becomes the last secured epoch or is abandoned. The members lost in this exchange
stay counted. -/
def State.settle (s : State) (e : Nat) : State :=
  match s.nim.sec with
  | some v =>
    if v.epoch = e ∧ v.sent = true then
      let t := s.finishEpoch []
      { t with nim := { t.nim with exch := s.nim.exch } }
    else s.abandonSecuring
  | none => s

/-- NIM_PEER_LOST for every peer lost in this exchange. -/
def State.raiseLost (s : State) : State :=
  let l := s.nim.exch.now
  let s1 := { s with nim := { s.nim with exch := { s.nim.exch with now := [] } } }
  l.foldl (fun st m => st.peerLostErr (st.coordOf m)) s1

/-- The last result set of a step under PATH1 has completed (R473): NIM_PEER_LOST, P1DONE. -/
def State.tryPath1 (s : State) : State :=
  match s.nim.path1 with
  | some S =>
    if s.nim.committed = some S ∧ s.stepEnded S = true then
      let s1 := s.flagF nimBase F.NIM_STAT_P1DONE
      { s1 with nim := { s1.nim with path1 := none, p1step := S } }.raiseLost
    else s
  | none => s

/-- COMMIT (R459, R467): one that carries SECURE makes a freeze due at the end of its step. Under PATH1 the step
may have ended already (R473). -/
def commitIn (m : CMsg) (s : State) : State :=
  let step := m.nStep
  let s1 := s.commitStep step (m.nArg % 32)
  let s2 := { s1 with nim := { s1.nim with
      added := s1.nim.added.filter (fun e => decide (e.1 ≠ step)), pushed := s1.nim.pushed.filter (fun e => decide (e.1 ≠ step)) } }
  let s3 := s2.flagF nimBase F.NIM_STAT_REQ
  (if m.nArg.testBit 5 then { s3 with nim := { s3.nim with due := true, dueStep := some step, epochNext := some m.nEpoch } } else s2).tryPath1

/-- The meaning of COMMIT. -/
def execCommit (k : Nat) (s : State) : Host.Outcome State Fault Refusal := .next (s.nimMsg k 0xC commitIn)

/-- The contributors of the COMMIT of step S (Table 15.7): the members over which this device reduced it, since COMMIT follows READY of each. -/
def State.contributors (s : State) (S lostNow : Nat) : Nat :=
  if s.nim.gradStep = S ∧ s.nim.gradLive ≠ [] then s.nim.gradLive.length else s.live.length + lostNow

/-- DECIDE (R472, R473, Table 15.7). -/
def decideIn (m : CMsg) (s : State) : State :=
  let d := bits m.nArg 0 2
  let S := m.nStep
  let lostNow := s.nim.exch.now.length
  let s0 := { s with nim := { s.nim with exch := { s.nim.exch with decision := some d, active := decide (d = 1) } } }
  let s1 := s0.settle m.nEpoch
  if d = 0 then
    let s2 := if s1.nim.committed = some S then s1 else s1.commitStep S (s1.contributors S lostNow)
    { s2 with nim := { s2.nim with path1 := some S } }.tryPath1
  else if d = 1 then
    let s2 := s1.hubWrite s1.gStage (List.replicate (64 * s1.gLines) 0)
    let s3 := { s2 with nim := { s2.nim with path1 := some S, goWait := true, added := [], pushed := [], ready := [], told := [] } }
    s3.nimTo s3.nim.exch.coord 7 s3.epoch S 0
  else if d = 2 then s1.raiseLost
  else (s1.flagF nimBase F.NIM_STAT_UNRECOV).raiseChip (s1.faultId 3 (unitChip 9) 0x93)

/-- The meaning of DECIDE. -/
def execDecide (k : Nat) (s : State) : Host.Outcome State Fault Refusal := .next (s.nimMsg k 6 decideIn)

/-- ZEROED (R472): with that of every survivor the coordinator sends GO. -/
def execZeroed (k : Nat) (s : State) : Host.Outcome State Fault Refusal :=
  .next (s.nimMsg k 7 (fun m st =>
    let x := st.nim.exch
    let z := dedup (x.zeroed ++ [m.nSender])
    let s1 := { st with nim := { st.nim with exch := { x with zeroed := z } } }
    if x.coord = st.ownIdx ∧ st.live.all (fun q => decide (q ∈ z)) = true then s1.nimAll 8 s1.epoch m.nStep 0 [] else s1))

/-- GO (R472, R473): a member that had started reduces over the survivors; an IDLE one joins when its LOCAL area is ready. -/
def execGo (k : Nat) (s : State) : Host.Outcome State Fault Refusal :=
  .next (s.nimMsg k 8 (fun m st =>
    let s1 := { st with nim := { st.nim with goWait := false, exch := { st.nim.exch with active := false } } }
    if s1.grad = 1 ∨ s1.grad = 2 then { s1 with nim := { s1.nim with gradStep := m.nStep } }.startReduce.tryPush else s1))

/-! ## Restoring (R477, R478) -/

/-- Macro rows of shard k written back, which sets their dirty bits (R69). -/
def State.putMacros (s : State) (base : Nat) (img : List Byte) (n : Nat) : State :=
  (List.range n).foldl (fun st i =>
    let m := base + i
    if st.compOn (m / 16) then
      (List.range 512).foldl (fun t r => t.writeRow m r 255 (slice img (65536 * i + 128 * r) 128)) st
    else st) s

/-- Retained windows of shard k written back, which sets their dirty bits (R169). -/
def State.putWindows (s : State) (base : Nat) (img : List Byte) (n : Nat) : State :=
  (List.range n).foldl (fun st i =>
    let b := base + i
    if st.spdOn b then
      let w := st.retWin b
      st.spdPut b ((List.range w.2).map (fun (j : Nat) => (w.1 + j, img.getD (65536 * i + j) 0, (0xFF#8 : Byte))))
    else st) s

/-- The image of the buffer of epoch e written back, shard by shard (R477). -/
def State.putImage (s : State) (e : Nat) : State :=
  ((List.range 8).foldl (fun (acc : State × Nat) k =>
    let st := acc.1
    let n := st.shardChunks k
    let (img, t) := st.hubRead (st.nimBuf e + acc.2 * mib) (n * mib / 64)
    let base := t.shardBase k
    let len := t.shardLen k
    let u := match t.shard k F.NIM_SHARD_KIND_KIND with
      | 1 => t.putMacros base img len
      | 2 => t.hubWrite base (img.take (len / 64 * 64))
      | 3 => t.putWindows base img len
      | _ => t
    (u, acc.2 + n)) (s, 0)).1

/-- The state after a restore (Table 15.8), and ARMED. A chip-level error that has come meanwhile still waits for its slot boundary (R450). -/
def State.restored (s : State) (base : Nat) : State :=
  let s1 := ((((s.noteEnded s.sets).stopContexts false).jobReset).gradReset).liftFences
  ({ s1 with
      job := { s1.job with stepBase := base % 2 ^ 32 },
      nim := { s1.nim with restore := none, rebuild := none } }).goChip .armed

/-- A restore, rejoin or adoption fails (R475, Table 15.3): its reply, NIM_RESTORE_FAIL, FAULTED; a chip-level error that waits for its slot boundary stays
the pinned one (R450). -/
def State.restoreFail (s : State) (cmd status : Nat) : State :=
  let s1 := s.finish cmd status []
  let fid := s1.faultId 3 (unitChip 9) 0x94
  let s2 := s1.chipEvent 3 (unitChip 9) 0x94
  { s2 with
      errs := { s2.errs with pin := if s2.errs.slot.isSome then s2.errs.pin else some (fid, 1), rom := false },
      nim := { s2.nim with restore := none, rebuild := none } }.enterFaulted false

/-- RESTORING begins (Table 1.12, R499). A device that leaves FAULTED has no pinned fault ID any more (R450). -/
def State.goRestoring (s : State) : State :=
  let pin := if s.chip.st = .faulted then none else s.errs.pin
  ({ s with errs := { s.errs with pin := pin } }.goChip .restoring).hznWake 0xFFFF |>.1

/-- RESTORE (R478): EPOCH 0xFFFF_FFFE is accepted only with P1DONE set (log entry 97). -/
def execRestore (s : State) : Host.Outcome State Fault Refusal :=
  .next (s.hostCmd 0x0902 (fun t st =>
    if !t.ok 4 [] then st.fail t 0x0201
    else if st.img.isEmpty then st.fail t 0x0410
    else if t.fld 0 4 = 0xFFFFFFFE ∧ st.isF nimBase F.NIM_STAT_P1DONE = false then st.fail t 0x0603
    else
      let s1 := st.goRestoring
      { s1 with nim := { s1.nim with restore := some (t.id, t.fld 0 4) } }.goesOn t))

/-- Every image chunk of the buffer of epoch e matches the device's own digest table. -/
def State.digestsMatch (s : State) (e : Nat) : Bool × State :=
  let (img, s1) := s.hubRead (s.nimBuf e) (s.nimC * mib / 64)
  let (tab, s2) := s1.hubRead (s1.nimBuf e + s1.digOff) (ceilDiv s1.nimC 2)
  (decide ((chunkDigests s2.nimC img).flatten = tab.take (32 * s2.nimC)), s2)

/-- RESTORE_COMPLETE (R477, R478, Table 15.8). -/
def restoreDone (s : State) : State :=
  match s.nim.restore with
  | some (cmd, e) =>
    if s.chip.st ≠ .restoring ∨ s.power.settling ≠ [] then s
    else if e = 0xFFFFFFFE then
      if s.isF nimBase F.NIM_STAT_P1DONE then (s.restored (s.nim.p1step + 1)).finish cmd 0 (leBytes 4 s.epoch)
      else s.restoreFail cmd 0x0603
    else if s.epoch = 0 ∨ (e ≠ 0xFFFFFFFF ∧ e ≠ s.epoch) then s.restoreFail cmd 0x0603
    else
      let (ok, s1) := s.digestsMatch s.epoch
      if ok then
        let s2 := s1.putImage s1.epoch
        (s2.restored (s2.getF nimBase F.NIM_EPOCH_STEP_STEP + 1)).finish cmd 0 (leBytes 4 s2.epoch)
      else s1.restoreFail cmd 0x0604
  | none => s

/-- The meaning of RESTORE_COMPLETE. -/
def execRestoreComplete (s : State) : Host.Outcome State Fault Refusal := .next (restoreDone s)

/-! ## Rebuilding a member (R474, R475, R479) -/

/-- ADOPT and REJOIN begin: RESTORING, until MEMBERS comes. -/
def State.beginRebuild (s : State) (t : Taken) (adopt : Bool) (coord group epoch : Nat) : State :=
  let s1 := s.goRestoring
  { s1 with nim := { s1.nim with
      rebuild := some ⟨t.id, adopt, coord, group, epoch, 0, false, 0, 0, false, [], 0, 0⟩ } }.goesOn t

/-- REJOIN (R474). -/
def execRejoin (s : State) : Host.Outcome State Fault Refusal :=
  .next (s.hostCmd 0x0903 (fun t st =>
    if !t.ok 8 [(2, 2)] then st.fail t 0x0201
    else if st.img.isEmpty then st.fail t 0x0410
    else st.beginRebuild t false st.ownCoord (t.fld 0 2) (t.fld 4 4)))

/-- ADOPT (R474). -/
def execAdopt (s : State) : Host.Outcome State Fault Refusal :=
  .next (s.hostCmd 0x0904 (fun t st =>
    if !t.ok 8 [] || decide (4096 ≤ t.fld 0 2) then st.fail t 0x0201
    else if st.img.isEmpty then st.fail t 0x0410
    else st.beginRebuild t true (t.fld 0 2) (t.fld 2 2) (t.fld 4 4)))

/-- The rebuild ends with a status. -/
def State.rebuildErr (s : State) (e : Nat) : State :=
  { s with nim := { s.nim with rebuild := s.nim.rebuild.map (fun r => if r.err = 0 then { r with err := e } else r) } }

/-- The survivors of a rebuild: live members but the rebuilt one. -/
def State.survivors (s : State) (m : Nat) : List Nat := s.live.filter (fun x => decide (x ≠ m))

/-- Parts of 2 KiB of a buffer. -/
def State.bufParts (s : State) : Nat := (s.nimC + s.nimP + 2) * 512

/-- A part of another device's memory asked for, as request number i. -/
def State.askPart (s : State) (m a lines i : Nat) : State :=
  let s1 := s.hubSend ⟨s.coordOf m, s.ownCoord, 0x1FF, 0x130, 0, 0, lines, 0, 0, 0, a, []⟩ (0x4000 + i) true
  { s1 with nim := { s1.nim with rebuild := s1.nim.rebuild.map (fun r => { r with wait := r.wait + 1 }) } }

/-- The reads of a rebuild: every survivor's buffer of the epoch; under PATH1 the coordinator's RESULT area and AVG line. Request number
part + parts × position among the survivors, RESULT after them. -/
def State.askAll (s : State) (r : Rebuild) : State :=
  let sv := s.survivors r.member
  let n := s.bufParts
  let buf := s.nimBuf r.epoch
  let s1 := (sv.foldl (fun (acc : State × Nat) m =>
    ((List.range n).foldl (fun st i => st.askPart m (buf + 2048 * i) 32 (n * acc.2 + i)) acc.1, acc.2 + 1)) (s, 0)).1
  if r.path1 then
    let base := n * sv.length
    let s2 := (List.range (ceilDiv s1.gLines 32)).foldl (fun st i =>
      st.askPart (sv.headD 0) (st.gResult + 2048 * i) (min 32 (st.gLines - 32 * i)) (base + 1 + i)) s1
    s2.askPart (sv.headD 0) (s2.gAvg / 64 * 64) 1 base
  else s1

/-- The words of a member table as MEMBERS carries them: laid out as NIM_MEMBERm. -/
def State.memberTable (s : State) : List Byte := (List.range 16).flatMap (fun (i : Nat) => leBytes 4 (s.reg (nimBase + 0x200 + 4 * i)).toNat)

/-- A survivor sends the member table of its group, with its epoch and whether the group is SHARED_FEED, to a coordinate (R474; log entry 114). -/
def State.sendMembers (s : State) (c : Nat) : State :=
  if s.nimEn && s.inGroup && s.nim.rebuild.isNone then
    s.nimSend (c % 4096) 0x12 s.epoch (s.getF nimBase F.NIM_EPOCH_STEP_STEP) (s.getF nimBase F.NIM_GROUP_SHARED_FEED) [] s.memberTable 0
  else s

/-- What R475 finds in a survivor's MEMBERS: 0, or the status that ends the rebuild. `own` is the member rebuilt. -/
def State.rebuildCheck (s : State) (r : Rebuild) (m : CMsg) (own : Nat) : Nat :=
  let entry := fun (i : Nat) => leAt m.data (64 + 4 * i) 4
  let valid := (List.range 16).filter (fun (i : Nat) => (entry i).testBit 17)
  let gone := fun (i : Nat) => decide (i = own) || !(entry i).testBit 16
  let shared := m.nArg.testBit 0
  if 2 < (valid.filter gone).length ∨ (shared && feedGone valid (fun i => bits (entry i) 12 4) gone) = true then 0x0601
  else if leAt m.data 16 4 ≠ planIdOf s.img then 0x0606
  else if (r.asked ≠ 0xFFFFFFFF ∧ r.asked ≠ m.nEpoch) ∨ m.nEpoch = 0 then 0x0603
  else if shared = false ∧ valid.any (fun i => !gone i && decide (bits (entry i) 12 4 = s.getF nimBase F.NIM_TAG_TAG)) = true then 0x0602
  else 0

/-- The membership that a rebuild takes from MEMBERS; ADOPT then writes CUR_COORD. -/
def State.takeMembers (s : State) (r : Rebuild) (m : CMsg) (own : Nat) : State :=
  let entry := fun (i : Nat) => leAt m.data (64 + 4 * i) 4
  let valid := (List.range 16).filter (fun (i : Nat) => (entry i).testBit 17)
  let set := fun (st : State) (f : Fld) (v : Nat) => st.setF nimBase f v
  let s1 := (List.range 16).foldl (fun st i => st.setReg (nimBase + 0x200 + 4 * i) (BitVec.ofNat 32 (bits (entry i) 0 18))) s
  let s2 := set (set (set (set (set s1 F.NIM_GROUP_GROUP_ID r.group) F.NIM_GROUP_K (valid.length - 2)) F.NIM_GROUP_MEMBER own) F.NIM_GROUP_VALID 1)
    F.NIM_GROUP_SHARED_FEED (bits m.nArg 0 1)
  let s3 := if r.adopt then s2.setF curShBase F.CUR_COORD_COORD r.coord else s2
  { s3 with nim := { s3.nim with exch := { s3.nim.exch with lost := valid.filter (fun i => decide (i ≠ own) && !(entry i).testBit 16) } } }

/-- MEMBERS comes from a survivor (R474, R475): its checks are made, then the membership taken and the chunks asked for. -/
def membersIn (m : CMsg) (s : State) : State :=
  match s.nim.rebuild with
  | some r =>
    if r.table = true ∨ r.err ≠ 0 then s
    else
      match (List.range 16).find? (fun (i : Nat) =>
        (leAt m.data (64 + 4 * i) 4).testBit 17 && decide (leAt m.data (64 + 4 * i) 4 % 4096 = r.coord)) with
      | none => s.rebuildErr 0x0605
      | some own =>
        if s.rebuildCheck r m own ≠ 0 then s.rebuildErr (s.rebuildCheck r m own)
        else
          let (x, s1) := (s.takeMembers r m own).takeFree
          let r2 := { r with table := true, member := own, epoch := m.nEpoch, eStep := m.nStep, path1 := decide (x % 2 = 1) }
          { s1 with nim := { s1.nim with rebuild := some r2 } }.askAll r2
  | none => s

/-- The meaning of MEMBERS: message k of the inbox where it is one; else a survivor sends its table to coordinate k (log entry 114). -/
def execMembers (k : Nat) (s : State) : Host.Outcome State Fault Refusal :=
  .next (match s.ownMsg k 7 with
    | some (_, m) => if leAt m.data 0 1 = 0x12 then s.nimMsg k 0x12 membersIn else s.sendMembers k
    | none => s.sendMembers k)

/-- A part of a survivor's memory has come, or its POISON (R475). -/
def State.rebuildPart (s : State) (i : Nat) (d : List Byte) (e : Nat) : State :=
  let s1 := { s with nim := { s.nim with rebuild := s.nim.rebuild.map (fun r =>
    { r with wait := r.wait - 1, got := if e = 0 then SMap.set [] r.got i d else r.got }) } }
  if e = 0 then s1 else s1.rebuildErr 0x0607

/-- Chunk c of a survivor's buffer, as read: image chunks, then parity chunks. -/
def State.readChunk (s : State) (r : Rebuild) (m c : Nat) : List Byte :=
  match (s.survivors r.member).findIdx? (fun x => decide (x = m)) with
  | some p => (List.range 512).flatMap (fun (i : Nat) => padTo 2048 (SMap.get [] r.got (s.bufParts * p + 512 * c + i)))
  | none => []

/-- Bytes at an offset of a survivor's digest area, as read, n lines. -/
def State.readDig (s : State) (r : Rebuild) (m off n : Nat) : List Byte :=
  match (s.survivors r.member).findIdx? (fun x => decide (x = m)) with
  | some p =>
    let first := 512 * (s.nimC + s.nimP) + off / 2048
    ((List.range (ceilDiv (off % 2048 + 64 * n) 2048)).flatMap (fun (i : Nat) => padTo 2048 (SMap.get [] r.got (s.bufParts * p + first + i))) |>.drop
      (off % 2048)).take (64 * n)
  | none => []

/-- The data chunk of member m in stripe st, as the survivors hold it; none where m is lost. -/
def State.dataRead (s : State) (r : Rebuild) (m st : Nat) : Option (List Byte) :=
  let c := dataChunk s.grpN m st
  if s.nimC ≤ c then some (List.replicate mib 0)
  else if m ∈ s.survivors r.member then some (s.readChunk r m c) else none

/-- XOR of the surviving data of stripe st, each times g^(w × its position). -/
def State.sumData (s : State) (r : Rebuild) (st w : Nat) : List Byte :=
  ((List.range s.grpN).filter (fun (m : Nat) => isDataOf s.grpN m st)).foldl (fun acc m =>
    match s.dataRead r m st with
    | some d => xorBytes acc (scaleBytes (gPow (w * dataPos s.grpN m st)) d)
    | none => acc) (List.replicate mib 0)

/-- The data chunk of member m in stripe st: read, or the unique value that satisfies the P and Q equations (R464, R474). -/
def State.dataSolve (s : State) (r : Rebuild) (m st : Nat) : List Byte :=
  match s.dataRead r m st with
  | some d => d
  | none =>
    let n := s.grpN
    let pm := st % n
    let qm := (st + 1) % n
    let sv := s.survivors r.member
    let parity := fun x => s.readChunk r x (s.nimC + parityNo n x st)
    let j := dataPos n m st
    let others := (List.range n).filter (fun (x : Nat) => isDataOf n x st && decide (x ≠ m) && (s.dataRead r x st).isNone)
    match others with
    | [] =>
      if pm ∈ sv then xorBytes (parity pm) (s.sumData r st 0)
      else scaleBytes (gfInv (gPow j)) (xorBytes (parity qm) (s.sumData r st 1))
    | x :: _ =>
      let k := dataPos n x st
      let a := xorBytes (parity pm) (s.sumData r st 0)
      let b := xorBytes (parity qm) (s.sumData r st 1)
      scaleBytes (gfInv (gPow j ^^^ gPow k)) (xorBytes b (scaleBytes (gPow k) a))

/-- The image of the rebuilt member. -/
def State.rebuiltImage (s : State) (r : Rebuild) : List Byte :=
  let n := s.grpN
  let sts := (List.range (stripes n s.nimC)).filter (fun (st : Nat) => isDataOf n r.member st)
  (sts.take s.nimC).flatMap (fun st => s.dataSolve r r.member st)

/-- The parity chunks of the rebuilt member, recomputed from their data. -/
def State.rebuiltParity (s : State) (r : Rebuild) : List Byte :=
  let n := s.grpN
  let sts := (List.range (stripes n s.nimC)).filter (fun (st : Nat) => !isDataOf n r.member st)
  sts.flatMap (fun st =>
    let w := if st % n = r.member then 0 else 1
    ((List.range n).filter (fun (m : Nat) => isDataOf n m st)).foldl (fun acc m =>
      xorBytes acc (scaleBytes (gPow (w * dataPos n m st)) (s.dataSolve r m st))) (List.replicate mib 0))

/-- The digest table of the rebuilt member: from member m + 1, or m + 2 where that is lost. -/
def State.rebuiltDigests (s : State) (r : Rebuild) : List Byte :=
  let n := s.grpN
  let m1 := (r.member + 1) % n
  let m2 := (r.member + 2) % n
  (if m1 ∈ s.survivors r.member then s.readDig r m1 0x80000 (ceilDiv s.nimC 2) else s.readDig r m2 0x100000 (ceilDiv s.nimC 2)).take
    (32 * s.nimC)

/-- The digest area of the rebuilt buffer (R463). -/
def State.putDigests (s : State) (r : Rebuild) (dig : List (List Byte)) (devRoots : List Byte) : State :=
  let n := s.grpN
  let a := s.nimBuf r.epoch + s.digOff
  let half := ceilDiv s.nimC 2
  let tab := fun d => s.readDig r ((r.member + n - d) % n) 0 half
  ((((s.hubWrite a (padTo (64 * half) dig.flatten)).hubWrite (a + 0x80000) (tab 1)).hubWrite (a + 0x100000) (tab 2)).hubWrite
    (a + 0x180000) (s.rootArea dig)).hubWrite (a + 0x180100) (padTo 512 devRoots)

/-- The RESULT area and AVG line of step S copied from the coordinator (R479). -/
def State.putResult (s : State) (r : Rebuild) : State :=
  let base := s.bufParts * (s.survivors r.member).length
  let s1 := (List.range (ceilDiv s.gLines 32)).foldl (fun st i => st.hubWrite (st.gResult + 2048 * i) (SMap.get [] r.got (base + 1 + i))) s
  let line := SMap.get [] r.got base
  let o := s1.gAvg % 64
  (s1.hubStore (s1.gAvg / 64 * 64) ((List.range 4).map (fun (i : Nat) => (o + i, line.getD (o + i) 0, (0xFF#8 : Byte))))).2

/-- The survivors whose EPOCH_DONE gave another root for the rebuilt member (R474: the root held by the survivors). -/
def State.rootDiffers (s : State) (r : Rebuild) (root : List Byte) : Bool :=
  (s.survivors r.member).any (fun m => decide (slice (s.readDig r m 0x180100 8) (32 * r.member) 32 ≠ root))

/-- REBUILD_COMPLETE (R474, R475, R477, R479): verified, written, restored and announced, or FAULTED. Where no survivor has sent MEMBERS until then, none
answered in time (log entry 114). -/
def rebuildDone (s : State) : State :=
  match s.nim.rebuild with
  | some r =>
    if s.chip.st ≠ .restoring ∨ s.power.settling ≠ [] then s
    else if r.err ≠ 0 then s.restoreFail r.cmd r.err
    else if r.table = false then s.restoreFail r.cmd 0x0607
    else if r.wait ≠ 0 then s
    else
      let img := s.rebuiltImage r
      let dig := chunkDigests s.nimC img
      let roots := s.shardRoots dig
      let devRoots := s.readDig r ((s.survivors r.member).headD 0) 0x180100 8
      if dig.flatten ≠ s.rebuiltDigests r ∨ s.rootDiffers r (merkle roots) = true then s.restoreFail r.cmd 0x0604
      else
        let s1 := (s.hubWrite (s.nimBuf r.epoch) img).hubWrite (s.nimBuf r.epoch + s.parOff) (s.rebuiltParity r)
        let s0 := if r.epoch = s1.epoch then s1 else s1.faultFlush
        let s2 := (((s0.putDigests r dig devRoots).setF nimBase F.NIM_REBUILD_CHUNKS (s0.nimC + s0.nimP)).setF nimBase
          F.NIM_EPOCH_EPOCH r.epoch).setF nimBase F.NIM_EPOCH_STEP_STEP r.eStep
        let s3 := s2.putImage r.epoch
        let s4 := if r.path1 then s3.putResult r else s3
        let tag := s4.getF nimBase F.NIM_TAG_TAG
        let s5 := s4.setReg (nimBase + 0x200 + 4 * r.member) (BitVec.ofNat 32 (r.coord + 4096 * tag + 0x30000))
        let s6 := s5.restored (r.eStep + 1)
        let s7 := { s6 with nim := { s6.nim with noReduce := r.path1, root := merkle roots } }
        let s8 := (s7.survivors r.member).foldl (fun st m => st.nimTo m 0x13 r.epoch r.eStep (r.member + 16 * tag)) s7
        s8.finish r.cmd 0 (leBytes 4 r.epoch ++ (if r.adopt then leBytes 4 (r.eStep + 1) else []))
  | none => s

/-- The meaning of REBUILD_COMPLETE. -/
def execRebuildComplete (s : State) : Host.Outcome State Fault Refusal := .next (rebuildDone s)

/-- ADOPTED (R474): the coordinate is live again with its new tag. -/
def execAdopted (k : Nat) (s : State) : Host.Outcome State Fault Refusal :=
  .next (s.nimMsg k 0x13 (fun m st =>
    let i := bits m.nArg 0 4
    (st.setF nimBase (F.NIM_MEMBER_LIVE.idx (4 * i)) 1).setF nimBase (F.NIM_MEMBER_TAG.idx (4 * i)) (bits m.nArg 4 4)))

/-! ## Answers to the hub, and timeouts -/

/-- An acknowledgement or read data for the hub: the engine goes on. -/
def State.hubAnswer (s : State) (tok : Nat) (d : List Byte) (e : Nat) : State :=
  if 2 ^ 41 ≤ tok then s.dirPart d e
  else if 2 ^ 40 ≤ tok then s.pullPart (tok - 2 ^ 40) d e
  else if 0x4000 ≤ tok then s.rebuildPart (tok - 0x4000) d e
  else if tok = 0 then s
  else
    let s1 := if e = 0 then s else { s with nim := { s.nim with failed := dedup (s.nim.failed ++ [tok]) } }
    if tok < 0x2000 then (if s1.grad = 1 then s1.tellAdded else s1)
    else if tok = 0x2000 then s1.tellPushed
    else s1.trySecured

/-- WRITE_ACKNOWLEDGEMENT (R322): message k of those in flight, an acknowledgement, or read data for a port or the hub. -/
def writeAck (s : State) (k : Nat) : State :=
  match s.msgAt k with
  | some m =>
    match m.body with
    | .ack e i =>
      if m.dst < 256 then (s.dropMsg k).ackIssue m.dst i m.src e
      else if m.dst < 272 then (s.dropMsg k).served1 i none e
      else (s.dropMsg k).hubAnswer i [] e
    | .readRsp key d e i =>
      if m.dst < 256 then s
      else if m.dst < 272 then (s.dropMsg k).served1 i (some (key, d)) e
      else (s.dropMsg k).hubAnswer i d e
    | _ => s
  | none => s

/-- CUR_TIMEOUT (R347, R470): the requester gets POISON, and a watched peer a PING. -/
def timeoutEff (s : State) (k : Nat) : State :=
  match s.cour.outst[k]? with
  | some o =>
    let s1 := (s.handBack o (4096 + o.coord) [] 0x86).addF curShBase F.CUR_CNT_TIMEOUTS 1
    (s1.flagF curShBase F.CUR_ERR_TIMEOUT).pingPeer o.coord
  | none => s

/-- The meaning of CUR_TIMEOUT. -/
def execCurTimeout (k : Nat) (s : State) : Host.Outcome State Fault Refusal := .next (timeoutEff s k)

/-- What follows the retirement of an issue: result sets complete, and a step under PATH1 with them (R473). -/
def State.afterRetire (s : State) : State := s.completeSets.tryPath1

end Sys2Proof.Machine
end

