-- ==== Sys2Proof/Machine/SelfTest.lean ====
section
/-! DEFINITION. Self-test slices, units, repairs and results (R555 to R570). A unit operand is 65,536 × kind + unit. -/

namespace Sys2Proof.Machine

/-! ## Units (Table 19.1) -/

/-- A test may start on a unit: its domains are on, and a port is not ACTIVE (R555, Table 19.1). -/
def State.bistCan (s : State) (k u : Nat) : Bool := s.bistLive k u && !(decide (k = 5) && s.portActive u)

/-- The units of kind k in the regions of a mask, ascending. -/
def bistUnits (k mask : Nat) : List Nat :=
  if bistBlockKind k then (onesOf 16 mask).flatMap (fun r => (List.range 16).map (fun (i : Nat) => 16 * r + i))
  else if k = 5 then List.range 16
  else if k = 7 then onesOf 16 mask ++ [16]
  else onesOf 16 mask

/-- A kind is allowed in the current state (Table 19.1). -/
def State.bistKindOk (s : State) (k : Nat) : Bool := !decide (k = 2 ∨ k = 3) || s.isIn [.boot, .ready]

/-- A slice may start and go on. -/
def State.bistStateOk (s : State) : Bool := s.isIn bistStates

/-- Cycles of a region's ACLK in ns, at its effective step (R17). -/
def State.aclkNs (s : State) (r n : Nat) : Nat := ceilDiv (1000 * n) (250 + 25 * s.eff r)

/-- The predicted time of a unit in ns (Table 19.1, R556). -/
def State.bistTime (s : State) (k u : Nat) : Nat :=
  let r := bistRegion k u
  if k = 0 then s.aclkNs r 15374 + 81920
  else if k = 1 then 3840
  else if k = 2 then 167680
  else if k = 3 then s.aclkNs r 43600
  else if k = 4 then 4096
  else if k = 5 then 100000
  else if k = 6 then 43520
  else if k = 7 then 50000
  else 20000

/-! ## The slice -/

/-- The units in the order of R556: by kind, and in each region from the kind's cursor on. -/
def State.bistOrder (s : State) (k mask : Nat) : List (Nat × Nat) :=
  let us := (bistUnits k mask).filter (fun u => s.bistCan k u)
  let cur := fun u => SMap.get 0 s.bist.cursor (32 * k + bistRegion k u)
  (us.filter (fun u => decide (cur u ≤ u)) ++ us.filter (fun u => decide (u < cur u))).map (fun u => (k, u))

/-- Time that a slice has used, in ns. -/
def State.sliceUsed (s : State) (q : Slice) : Nat := 10 * (s.now - q.start)

/-- A unit fits in what remains of the budget. -/
def State.sliceFits (s : State) (q : Slice) (k u : Nat) : Bool := decide (s.sliceUsed q + s.bistTime k u ≤ 1000 * q.budget)

/-- A unit begins its test: its kind's count of the current pass advances (Table 19.5). -/
def State.bistTake (s : State) (k : Nat) : State :=
  let f := F.BST_CUR_DONE.idx (4 * k)
  let g := F.BST_CUR_PASSES.idx (4 * k)
  let n := s.getF bstBase f + 1
  let all := ((bistUnits k 0xFFFF).filter (fun x => s.bistCan k x)).length
  if all ≤ n then (s.setF bstBase f 0).setF bstBase g (s.getF bstBase g + 1) else s.setF bstBase f n

/-- A unit as it is started or claimed now; a claim takes its age in its block's scoreboard (R557). -/
def State.testUnit (s : State) (k u : Nat) : TestUnit × State :=
  let (a, s1) := if bistBlockKind k then s.takeAge u else (0, s)
  (⟨k, u, s.now, s.slotNo, s.phase, decide (k = 6) && s.isF (blkBase u) F.CIR_STAT_RECAL, a⟩, s1)

/-- Region controller r starts what it can (R556 to R558): at most n units, in order, each while it fits and its domains are on. -/
def State.sliceFillR (s : State) (r : Nat) : Nat → State
  | 0 => s
  | n + 1 =>
    match s.bist.slice with
    | some q =>
      let act := q.claimed ++ q.running
      let blockActs := (act.filter (fun u => bistBlockKind u.kind && decide (bistRegion u.kind u.unit = r))).length
      let others := act.any (fun u => decide (bistRegion u.kind u.unit ≠ r) && decide (bistRegion u.kind u.unit < 16))
      if s.bistSmall && decide (r < 16) && others then s
      else
        match q.left.find? (fun e => decide (bistRegion e.1 e.2 = r) && s.bistCan e.1 e.2 && s.sliceFits q e.1 e.2) with
        | some (k, u) =>
          let limit := if s.bistSmall then 2 else s.getF bstBase F.BST_CTL_PAR
          if bistBlockKind k && decide (limit ≤ blockActs) then s
          else
            let rest := q.left.filter (fun e => decide (e ≠ (k, u)))
            let (t, s1) := s.testUnit k u
            if bistBlockKind k then ((s1.setSlice (some { q with left := rest, claimed := q.claimed ++ [t] })).sbPeak u).sliceFillR r n
            else ((s1.setSlice (some { q with left := rest, running := q.running ++ [t] })).bistTake k).sliceFillR r n
        | none => s
    | none => s

/-- Compute domains with power in regions that are not under test are in RET during BIST_RUN and start-up in a small configuration (R558). -/
def State.sliceRet (s : State) : State :=
  match s.bist.slice with
  | some q =>
    let under := (q.claimed ++ q.running).foldl (fun m u =>
      let r := bistRegion u.kind u.unit
      if r < 16 then m ||| 2 ^ (4 + r) else m) 0
    let all := s.compMask * 16
    let here := s.bistSmall && decide (q.source < 2) && s.isIn [.boot, .ready]
    { s with power := { s.power with ret := if here then all &&& ((2 ^ 40 - 1) ^^^ under) else 0 } }
  | none => { s with power := { s.power with ret := 0 } }

/-- The end of a slice (R556, R559): for start-up and BIST_RUN a next slice of the units not reached begins while one of them can be tested; else
BIST_RUN replies. -/
def State.sliceEnd (s : State) : Nat → State
  | 0 => s.sliceRet
  | n + 1 =>
    let s1 := (List.range 17).foldl (fun st r => st.sliceFillR r 40) s
    match s1.bist.slice with
    | some q =>
      let next := q.order.filter (fun e => decide (e ∈ q.left ++ q.missed) && s1.bistCan e.1 e.2)
      if !(q.claimed.isEmpty && q.running.isEmpty) then s1.sliceRet
      else if q.source < 2 && !next.isEmpty then
        ((s1.moveCursors q).setSlice (some { q with start := s1.now, order := next, left := next, missed := [] })).sliceEnd n
      else if q.source = 0 then ((s1.moveCursors q).setSlice (some { q with left := [], missed := [] })).sliceRet
      else (((s1.moveCursors q).setSlice none).sliceRet).finishOpt q.cmd 0 (leBytes 4 q.fails)
    | none => s1.sliceRet

/-- The slice goes on after something has changed, or ends where the chip has left the states that allow one and no unit is in progress (R559). -/
def State.sliceGo (s : State) : State :=
  if s.bistStateOk then (if s.bist.slice.isSome then s.sliceDrop.sliceEnd 2 else s) else s.sliceDrop.sliceLeave true

/-- A slice starts (R555, R556): kinds that the state does not allow are passed over and counted. Interconnect tests that the slice before had not
ended go on in it (R564). -/
def State.sliceStart (s : State) (source sel budget : Nat) (cmd : Option Nat) : State :=
  let s0 := match s.bist.slice with
    | some q => s.moveCursors q
    | none => s
  let mask := if sel / 65536 % 65536 = 0 then s.compMask else sel / 65536 % 65536
  let kinds := onesOf 10 sel
  let bad := (kinds.filter (fun k => !s.bistKindOk k)).length
  let units := (kinds.filter s.bistKindOk).flatMap (fun k => s0.bistOrder k mask)
  let old := (s.bist.slice.map Slice.running).getD []
  let left := units.filter (fun e => !old.any (fun u => decide (u.kind = e.1 ∧ u.unit = e.2)))
  let q : Slice := ⟨source, sel, if budget = 0 then 200 else budget, s.now, left, left, [], [], old, cmd, 0, false⟩
  ((s0.addF bstBase F.BST_COUNTS_SKIPPED bad).setSlice (some q)).sliceGo

/-- A slice is in progress: units that are not interconnect tests run, or its budget is not spent. -/
def State.sliceBusy (s : State) : Bool :=
  match s.bist.slice with
  | some q => !q.claimed.isEmpty || q.running.any (fun u => decide (u.kind ≠ 4)) || (decide (q.source < 2) && !q.running.isEmpty)
      || (!q.running.isEmpty && decide (s.sliceUsed q ≤ 1000 * q.budget))
  | none => false

/-- A BIST schedule record fires (R556): budget and selector; nothing while SVC_EN is 0, a slice runs or the state does not allow one. -/
def State.sliceRecord (s : State) (budget sel : Nat) : State :=
  if s.pdOn 3 && s.isF bstBase F.BST_CTL_SVC_EN && s.bistStateOk && !s.sliceBusy then s.sliceStart 2 sel budget none else s

/-- A unit that a region waits for, so that Horizon leaves the region on (R498, R557). -/
def State.bistHolds (s : State) (r : Nat) : Bool :=
  (s.bist.slice.map (fun q => (q.claimed ++ q.running).any (fun u => bistBlockKind u.kind && decide (u.unit / 16 = r)))).getD false

/-- A claim that waits holds back issues younger than it (R557). -/
def State.bistClaimed (s : State) (b : Nat) : Bool :=
  (s.bist.slice.map (fun q => (q.claimed ++ q.running).any (fun u => bistBlockKind u.kind && decide (u.unit = b)))).getD false

/-- Byte o lies in the range of n bytes from lo on. -/
def inRange (o lo n : Nat) : Bool := decide (lo ≤ o) && decide (o < lo + n)

/-- Line l of block b's scratchpad is free (R561): in no context's claim window, no valid circular region, nor the atomic or retained window. -/
def State.lineFree (s : State) (b l : Nat) : Bool :=
  let o := 64 * l
  let win := fun c w =>
    let v := (s.keptReg b (0x400 + 8 * c + 4 * w)).toNat
    v.testBit 31 && decide (bits v 0 13 ≤ l) && decide (l ≤ bits v 16 13)
  let rw := s.retWin b
  !((List.range 32).any (fun (c : Nat) => win c 0 || win c 1)) && (s.circAt b o).isNone && !s.inAtomWin b o && !inRange o rw.1 rw.2

/-- Scratchpad bytes from lo to hi of block b meet the lines that a unit of kind k there claims (R557): every line for SPD_FULL, the free ones for
SPD_FREE. -/
def State.linesOf (s : State) (k b lo hi : Nat) : Bool :=
  decide (k = 2) || (decide (k = 1) && (List.range 6144).any (fun (l : Nat) => decide (lo < 64 * l + 64) && decide (64 * l < hi) && s.lineFree b l))

/-- They meet the lines that some unit of block b claims. -/
def State.linesTested (s : State) (b lo hi : Nat) : Bool :=
  (s.bist.slice.map (fun q => (q.claimed ++ q.running).any (fun u => decide (u.unit = b) && s.linesOf u.kind b lo hi))).getD false

/-- Nothing older in the block's scoreboard overlaps the claim of unit t (R120, R557): it takes every row and all accumulator bytes of the 16 macros, and
the lines under test. -/
def State.claimFree (s : State) (t : TestUnit) : Bool :=
  let b := t.unit
  !(s.bx b).issues.any (fun i => decide (i.id < t.age) && i.claims.any (fun c => decide (c.space ≠ 0) || s.linesOf t.kind b c.lo c.hi))
    && (blkMacros b).all (fun m =>
      let x := s.mx m
      !(x.rb.map (fun a => decide (a < t.age))).getD false && !(x.shop.map (fun o => decide (o.age < t.age))).getD false
        && !decide (0 < x.scrubReq ∧ x.scrubAge < t.age) && !decide (x.fill ≠ [] ∧ x.fillAge < t.age))
    && !s.claimHolds b t.age

/-- BIST_UNIT_CLAIM (R557): the claim of a block is granted once no older entry of the scoreboard overlaps it; the unit runs if it still fits, else it
is released and counted. CIRRUS opens the array's window (R567; log entry 96). A slice that has left the allowed states starts nothing more (R559). -/
def bistClaim (s : State) (code : Nat) : State :=
  let k := code / 65536
  let u := code % 65536
  match s.bist.slice with
  | some q =>
    match q.claimed.find? (fun t => decide (t.kind = k ∧ t.unit = u)) with
    | some t =>
      if !s.bistStateOk || !s.bistLive k u then s.sliceGo
      else if s.claimFree t then
        let rest := q.claimed.filter (fun x => decide (x ≠ t))
        if s.sliceFits q k u then
          let s1 := (s.setSlice (some { q with claimed := rest, running := q.running ++ [t] })).bistTake k
          (if k = 6 then s1.recalWindow u true else s1).sliceGo
        else
          ((s.addF bstBase F.BST_COUNTS_DEFERRED 1).setSlice (some { q with claimed := rest, missed := q.missed ++ [(k, u)] })).sliceGo
      else s
    | none => s
  | none => s

/-- The meaning of BIST_UNIT_CLAIM. -/
def execBistUnitClaim (u : Nat) (s : State) : Host.Outcome State Fault Refusal := .next (bistClaim s u)

/-! ## Results (R568) -/

/-- What a unit found: outcome 0 good, 1 repaired, 2 failed, unit code, WHERE, errors and repairs. -/
structure Found where
  outcome : Nat
  code : Nat
  wher : Nat
  errors : Nat
  repairs : Nat
deriving DecidableEq, Repr

/-- The record of one result. -/
def resultBytes (k source dur : Nat) (t : TestUnit) (f : Found) : List Byte :=
  leBytes 1 k ++ leBytes 1 f.outcome ++ leBytes 2 f.code ++ leBytes 6 t.slot ++ leBytes 2 t.phase ++ leBytes 4 f.wher
    ++ leBytes 4 (min f.errors (2 ^ 32 - 1)) ++ leBytes 2 f.repairs ++ leBytes 1 source ++ leBytes 1 0 ++ leBytes 4 dur ++ leBytes 4 0

/-- Kinds whose unrepaired failure ends start-up (Table 19.1). -/
def bistFatal (k : Nat) : Bool := !decide (k ∈ [5, 6, 8])

/-- A result is recorded, its event raised and counted (R568, R569). -/
def State.bistNote (s : State) (t : TestUnit) (f : Found) : State :=
  if f.outcome = 0 then s
  else
    let q := s.bist.slice.getD ⟨0, 0, 0, 0, [], [], [], [], [], none, 0, false⟩
    let idx := if s.bist.total = 0 then 0 else (s.bist.newest + 1) % 1024
    let dur := (s.now - t.since) / 100
    let fails := if f.outcome = 2 then q.fails + 1 else q.fails
    let sl := s.bist.slice.map (fun _ => { q with fails := fails, fatal := q.fatal || (decide (f.outcome = 2) && bistFatal t.kind) })
    let s1 := { s with bist := { s.bist with
        results := SMap.set [] s.bist.results idx (resultBytes t.kind q.source dur t f), newest := idx,
        total := min (s.bist.total + 1) 65535, slice := sl } }
    if f.outcome = 1 then (s1.flagF bstBase F.BST_STAT_REPAIRED).chipEvent 3 f.code 0xA1
    else (s1.flagF bstBase F.BST_STAT_FAIL).chipEvent 3 f.code 0xA2

/-- How many bits, flits or measurements failed where n cells, lines, links, lanes or chains did: at least one and at most `per` of each (R568; log
entry 37). -/
def State.errorsOf (s : State) (n per : Nat) : Nat × State :=
  if n = 0 then (0, s) else (let (x, t) := s.takeFree; (n + x % (n * (per - 1) + 1), t))

/-- What the parts of one unit found, as one result (log entry 110): the worst outcome with the place of the first part that had it, and the sums. -/
def Found.join (f g : Found) : Found :=
  let w := if f.outcome < g.outcome then g else f
  { w with errors := f.errors + g.errors, repairs := f.repairs + g.repairs }

/-! ## Memory tests (R560 to R563) -/

/-- A free value where a unit failed, 0 where it passed: which cells, lanes or chains failed (log entry 37). -/
def State.failMask (s : State) (ok : Bool) : Nat × State := if ok then (0, s) else s.takeFree

/-- One failing column of macro m takes the lowest entry that is neither valid nor bad, filled at once (R562); whether it was repaired. -/
def State.bistColumn (s : State) (m c : Nat) : Bool × State :=
  match (List.range 16).find? (fun (i : Nat) =>
    !(s.remap m i).testBit 15 && !(s.remap m i).testBit 17 && !(SMap.get 0 s.bist.bad m).testBit i) with
  | some i => (true, s.setReg (macBase m + 0x40 + 4 * i) (BitVec.ofNat 32 (c + 0x18000)))
  | none => (false, s)

/-- Spares of a unit code marked bad. -/
def State.markBad (s : State) (code mask : Nat) : State :=
  { s with bist := { s.bist with bad := SMap.set 0 s.bist.bad code (SMap.get 0 s.bist.bad code ||| mask) } }

/-- The physical columns of macro m with a damaged cell: every March finds them. -/
def State.hardCols (s : State) (m : Nat) : Nat :=
  (s.flips.hard.filter (fun f => decide (f / 1112 / 512 = m))).foldl (fun n f => n ||| 2 ^ (f % 1112)) 0

/-- A March leaves every cell of macro m at 0, the columns behind a spare in use and the accumulators among them (Table 19.2). -/
def State.marchZero (s : State) (m : Nat) : State :=
  { s with
    mem := { s.mem with
      rows := Mem.clear s.mem.rows (65536 * m) (65536 * (m + 1)), acc := Mem.clear s.mem.acc (16384 * m) (16384 * (m + 1)) },
    flips := { s.flips with mac := s.flips.mac.filter (fun f => decide (f / 1112 / 512 ≠ m)) } }

/-- A MACRO unit at macro m: failing cells in bits [1111:0] of x, by physical column, a wrong known answer in bit 1112; damaged cells fail whatever x
says. The closing restore rewrites every row through the new entries (R560, R562, R563). -/
def State.bistMacro (s : State) (m x0 : Nat) : Found × State :=
  let x := x0 % 2 ^ 1113 ||| s.hardCols m
  let s1 := s.markBad (unitMac m) (bits x 1096 16)
  let bad := (List.range 1096).filter (fun (c : Nat) => x.testBit (s1.physCol m c))
  let (fixed, s2) := bad.foldl (fun (acc : Nat × State) c =>
    if (List.range 16).any (fun (i : Nat) => (acc.2.remap m i).testBit 15 && decide (acc.2.remap m i % 2048 = c)) then acc
    else
      let (ok, st) := acc.2.bistColumn m c
      (if ok then acc.1 + 1 else acc.1, st)) (0, s1)
  let wrong := x.testBit 1112
  let s3 := (s2.marchZero m).restoreAll m
  let failed := wrong || decide (fixed < bad.length)
  let s4 := if failed then s3.setF (macBase m) F.MAC_CFG_EN 0 else s3
  let any := failed || !bad.isEmpty || decide (bits x 1096 16 ≠ 0)
  let (errs, s5) := s4.errorsOf (if any then popcount 1113 x else 0) 512
  (⟨if failed then 2 else if any then 1 else 0, unitMac m, bad.headD 0, errs, fixed⟩, s5)

/-- A MACRO unit of block b completes: macros with a dirty or poisoned row are passed over. The unit writes one record (R568). -/
def State.bistMacros (s : State) (t : TestUnit) (ok : Bool) : State :=
  let (f, s1) := (blkMacros t.unit).foldl (fun (acc : Found × State) m =>
    let st := acc.2
    if st.anyDirty m || st.anyPoison m then (acc.1, st.addF bstBase F.BST_COUNTS_SKIPPED 1)
    else
      let (x, st1) := st.failMask ok
      let (g, st2) := st1.bistMacro m x
      (acc.1.join g, st2)) (⟨0, unitBlk t.unit, 0, 0, 0⟩, s)
  s1.bistNote t f

/-- Repair entry e of block b. -/
def State.spdRep (s : State) (b e : Nat) : Nat := (s.reg (bstBase + 0x4000 + 0x20 * b + 4 * e)).toNat

/-- Bank and bank line of a scratchpad line (R144). -/
def lineBank (l : Nat) : Nat × Nat := (l % 16, l / 16)

/-- A failing line takes a free repair entry of its block and a good spare of its bank (R562); whether it was repaired. -/
def State.bistLine (s : State) (b l : Nat) : Bool × State :=
  let (bank, row) := lineBank l
  let entries := (List.range 8).map (fun (e : Nat) => s.spdRep b e)
  let used := fun sp => entries.any (fun v => v.testBit 15 && decide (v % 16 = bank) && decide (bits v 13 2 = sp))
  match (List.range 8).find? (fun (e : Nat) => !(s.spdRep b e).testBit 15),
    (List.range 4).find? (fun (sp : Nat) => !used sp && !(SMap.get 0 s.bist.bad (unitBlk b)).testBit (4 * bank + sp)) with
  | some e, some sp =>
    (true, s.setReg (bstBase + 0x4000 + 0x20 * b + 4 * e) (BitVec.ofNat 32 (bank + 16 * row + 2 ^ 13 * sp + 2 ^ 15)))
  | _, _ => (false, s)

/-- Lines of block b tested: bit l of x says that line l failed, bits [6207:6144] that a spare line did. The tested lines hold 0. -/
def State.bistLines (s : State) (t : TestUnit) (ls : List Nat) (x : Nat) : State :=
  let b := t.unit
  let s1 := s.markBad (unitBlk b) (bits x 6144 64)
  let bad := ls.filter (fun l => x.testBit l)
  let (fixed, s2) := bad.foldl (fun (acc : Nat × State) l =>
    let (ok, st) := acc.2.bistLine b l
    (if ok then acc.1 + 1 else acc.1, st)) (0, s1)
  let s3 := ls.foldl (fun st l =>
    { st with mem := { st.mem with spd := Mem.clear st.mem.spd (0x80000 * b + 64 * l) (0x80000 * b + 64 * l + 64) },
              flips := { st.flips with spd := clearFlips st.flips.spd (65536 * b + 8 * l) 8 } }) s2
  let failed := decide (fixed < bad.length)
  let any := !bad.isEmpty || decide (bits x 6144 64 ≠ 0)
  let (errs, s4) := s3.errorsOf (if any then bad.length + popcount 64 (bits x 6144 64) else 0) 576
  let w := (bad.head?.map (fun l => (lineBank l).1 * 65536 + (lineBank l).2)).getD 0
  s4.bistNote t ⟨if failed then 2 else if any then 1 else 0, unitBlk b, w, errs, fixed⟩

/-- SPD_FULL at block b (R561): what the gather buffer holds is written to the banks, the retained window synchronised, every line tested and left at 0,
and the window restored. -/
def State.bistFull (s0 : State) (t : TestUnit) (x : Nat) : State :=
  let b := t.unit
  let s := ((s0.bx b).gather.map GLine.line).foldl (fun st o => st.gatherYield b o) s0
  let ks := s.dirtyKib b
  let s1 := (ks.foldl (fun st _ => kibCopied st b) (s.setSpdShop b (some ⟨false, ks, 0⟩))).setSpdShop b none
  ((s1.setBx b { s1.bx b with gather := [] }).bistLines t (List.range 6144) x).windowRestore b

/-! ## Interconnect and analogue parts (R564, R565, R567) -/

/-- Output port p of the router of block b drives a link: the block itself, a neighbour, or an endpoint at an edge (Table 11.1). -/
def outputUsed (b p : Nat) : Bool :=
  let (r, c) := meshPos b
  decide (p = 0) || (meshNbr b p).isSome || decide (p = 2 ∨ p = 4) || (decide (p = 1 ∧ r = 0) && (decide (c % 2 = 0) || decide (c = 15)))
    || (decide (p = 3 ∧ r = 15) && decide (c % 2 = 0))

/-- MESH at region r: bit 5 × i + p of x says that the link at router output p of block i failed; each is isolated. -/
def State.bistMesh (s : State) (t : TestUnit) (x : Nat) : State :=
  let r := t.unit
  let links := (List.range 80).filter (fun (i : Nat) => x.testBit i && outputUsed (16 * r + i / 5) (i % 5))
  let s1 := links.foldl (fun st i => st.isolateLink (16 * r + i / 5) (i % 5)) s
  let (errs, s2) := s1.errorsOf links.length 4096
  s2.bistNote t ⟨if links.isEmpty then 0 else 2, unitRgn r, 0, errs, 0⟩

/-- COURIER at port p: a failed lane reads as bad, and training leaves it out, until a test of the port passes (R565). -/
def State.bistPort (s : State) (t : TestUnit) (x : Nat) : State :=
  let p := t.unit
  let m := x % 256
  let bad := if m = 0 then 0 else SMap.get 0 s.bist.lanes p ||| m
  let s1 := { s with bist := { s.bist with lanes := SMap.set 0 s.bist.lanes p bad } }
  let (errs, s2) := s1.errorsOf (popcount 8 m) 13500000
  s2.bistNote t ⟨if m = 0 then 0 else 2, unitPort p, m, errs, 0⟩

/-- CIRRUS at block b: a full recalibration pass with failed chains in bits [255:0] of x, and, in bits [259:256], failed reference chains; with
fewer than 3 good ones every chain is failed. The window returns to what it was. -/
def State.bistCirrus (s : State) (t : TestUnit) (x : Nat) : State :=
  let b := t.unit
  let s1 := (List.range 256).foldl (fun st _ =>
    recalChain st b (!x.testBit (st.getF (blkBase b) F.CIR_CAL_STAT_NEXT_CHAIN))) s
  let refs := popcount 4 (bits x 256 4)
  let s2 := if 2 ≤ refs then (List.range 8).foldl (fun st i => st.setReg (blkBase b + 0x30110 + 4 * i) 0xFFFFFFFF) s1 else s1
  let s3 := s2.recalWindow b t.prior
  let bad := bits x 0 256 ≠ 0 ∨ refs ≠ 0
  let (errs, s4) := s3.errorsOf (if bad then popcount 260 (x % 2 ^ 260) else 0) 16
  s4.bistNote t ⟨if 2 ≤ refs then 2 else if bad then 1 else 0, unitBlk b, x % 2 ^ 32, errs, 0⟩

/-- The unit code of a kind that only passes or fails. -/
def bistCode (k u : Nat) : Nat := if k = 3 then unitBlk u else if u = 16 then unitChip 11 else unitRgn u

/-- The part of the pass conditions of Table 19.3 that the state holds: the settled output of region r's LDO lies within 10 mV of its target (R18). What
is compared with a second sensor, a monitor, a median or `REFCLK` reaches the model as `ok` alone (log entry 111). -/
def State.ldoInBand (s : State) (r : Nat) : Bool :=
  let v := s.getF (rgnBase r) F.RGN_LDO_STAT_VOUT_MV
  let w := ldoTarget (s.eff r)
  !s.isF (rgnBase r) F.RGN_LDO_STAT_SETTLED || (decide (w ≤ v + 10) && decide (v ≤ w + 10))

/-- The completion of unit t. -/
def State.bistDone (s : State) (t : TestUnit) (ok0 : Bool) : State :=
  let ok := ok0 && (!decide (t.kind = 9) || s.ldoInBand t.unit)
  if t.kind = 0 then s.bistMacros t ok
  else
    let (x, s1) := s.failMask ok
    if t.kind = 1 then s1.bistLines t ((List.range 6144).filter (s1.lineFree t.unit)) x
    else if t.kind = 2 then s1.bistFull t x
    else if t.kind = 4 then s1.bistMesh t x
    else if t.kind = 5 then s1.bistPort t x
    else if t.kind = 6 then s1.bistCirrus t x
    else
      let s2 := if t.kind = 3 then s1.setBx t.unit { s1.bx t.unit with gather := [], chains := [] } else s1
      s2.bistNote t ⟨if ok then 0 else 2, bistCode t.kind t.unit, 0, if ok then 0 else 1 + x, 0⟩

/-- BIST_UNIT_COMPLETE: unit `code` of those that run completes; `ok` false says that something in it failed. A unit whose domain has gone leaves no
result (R555). -/
def bistComplete (s : State) (code : Nat) (ok : Bool) : State :=
  match s.bist.slice with
  | some q =>
    match q.running.find? (fun t => decide (65536 * t.kind + t.unit = code)) with
    | some t =>
      let s1 := if s.bistLive t.kind t.unit then s.bistDone t ok else s
      let q1 := s1.bist.slice.getD q
      (s1.setSlice (some { q1 with running := q1.running.filter (fun x => decide (x ≠ t)) })).sliceGo
    | none => s
  | none => s

/-- The meaning of BIST_UNIT_COMPLETE. -/
def execBistUnitComplete (u : Nat) (ok : Bool) (s : State) : Host.Outcome State Fault Refusal := .next (bistComplete s u ok)

/-! ## Commands (Table 14.6) -/

/-- BIST_RUN (R559). -/
def bistRunEff (t : Taken) (s : State) : State :=
  if !t.ok 6 [] || decide (bits (t.fld 0 4) 10 6 ≠ 0) then s.fail t 0x0201
  else (s.sliceStart 1 (t.fld 0 4) (t.fld 4 2) (some t.id)).goesOnIf t

/-- The meaning of BIST_RUN. -/
def execBistRun (s : State) : Host.Outcome State Fault Refusal := .next (s.hostCmd 0x0A01 bistRunEff)

/-- BIST_RESULT (R568): records by their place in the table, one that nothing has written reading 0. -/
def bistResultEff (t : Taken) (s : State) : State :=
  let first := t.fld 0 2
  let n := t.fld 2 2
  if !t.ok 4 [] || decide (n = 0) || decide (127 < n) || decide (1024 ≤ first) then s.fail t 0x0201
  else s.finish t.id 0 ((List.range n).flatMap (fun (i : Nat) => padTo 32 (SMap.get [] s.bist.results ((first + i) % 1024))))

/-- The meaning of BIST_RESULT. -/
def execBistResult (s : State) : Host.Outcome State Fault Refusal := .next (s.hostCmd 0x0A02 bistResultEff)

/-- A soft repair that is not fused: a valid column entry or scratchpad entry. -/
def softRepair (a : Nat) (w : Word) : Bool :=
  match locate a with
  | some l =>
    (decide (l.win = .mac) && decide (0x40 ≤ l.off) && decide (l.off < 0x80) && w.getLsbD 15 && !w.getLsbD 17)
      || (decide (l.win = .bst) && decide (0x4000 ≤ l.off) && decide (l.off < 0x6000) && w.getLsbD 15 && !w.getLsbD 16)
  | none => false

/-- A register entry with its repair fused. -/
def fuseRepair (e : Nat × Word) : Nat × Word :=
  if softRepair e.1 e.2 then (e.1, if (locate e.1).map Loc.win = some .mac then e.2 ||| 0x20000#32 else e.2 ||| 0x10000#32) else e

/-- Bad spares not fused yet, as entries. -/
def State.spareItems (s : State) : List FuseItem :=
  s.bist.bad.flatMap (fun e => ((onesOf 64 e.2).filter (fun i => !(SMap.get 0 s.bist.badFused e.1).testBit i)).map (fun i => FuseItem.spare e.1 i))

/-- Every soft repair, of regions that are off too, whose registers stand until their wake, and every newly bad spare. -/
def State.fuseItems (s : State) : List FuseItem :=
  (s.regs.filter (fun e => softRepair e.1 e.2)).map (fun e => FuseItem.entry e.1) ++ s.spareItems

/-- The valid bit of one entry is blown, and its repair is permanent. -/
def State.fuseItem (s : State) : FuseItem → State
  | .entry a =>
    let fuse := fun (e : Nat × Word) => if e.1 = a then fuseRepair e else e
    { s with
      regs := s.regs.map fuse,
      power := { s.power with saved := s.power.saved.map (fun (e : Nat × SavedBlock) => (e.1, { e.2 with words := e.2.words.map fuse })) } }
  | .spare code i =>
    { s with bist := { s.bist with badFused := SMap.set 0 s.bist.badFused code (SMap.get 0 s.bist.badFused code ||| 2 ^ i) } }

/-- A repair commit goes on by one act (R570): the first entry takes its space, then its valid bit is blown; after the last one the command replies. An
entry cut off in between by a reset has lost its space. -/
def State.fuseStep (s : State) : State :=
  match s.bist.commit with
  | some c =>
    (match c.left with
    | [] => { s with bist := { s.bist with commit := none } }.finish c.cmd 0 (leBytes 2 c.total)
    | i :: rest =>
      if c.begun then
        let s1 := s.fuseItem i
        { s1 with bist := { s1.bist with commit := some { c with left := rest, begun := false } } }
      else { s with bist := { s.bist with fuseFree := s.bist.fuseFree - 1, commit := some { c with begun := true } } })
  | none => s

/-- REPAIR_COMMIT (R570): a commit of every soft repair and newly bad spare begins, or nothing is fused. -/
def repairCommitEff (t : Taken) (s : State) : State :=
  if !t.ok 0 [] then s.fail t 0x0201
  else
    let l := s.fuseItems
    if s.bist.fuseFree < l.length then s.fail t 0x0301
    else if l = [] then s.finish t.id 0 (leBytes 2 0)
    else { s with bist := { s.bist with commit := some ⟨t.id, l.length, l, false⟩ } }.goesOn t

/-- The meaning of REPAIR_COMMIT. -/
def execRepairCommit (s : State) : Host.Outcome State Fault Refusal := .next (s.hostCmd 0x0A03 repairCommitEff)

end Sys2Proof.Machine
end

