-- ==== Sys2Proof/Machine/Cadence.lean ====
section
/-! DEFINITION. The cadence unit (R290 to R309): edges, coasting, slot boundaries, schedule events, CADENCE_OUT and beacons. -/

namespace Sys2Proof.Machine

/-! ## Schedule records (R297 to R299) -/

/-- A schedule record (Table 10.1). -/
structure SchedRec where
  kind : Nat
  every : Nat
  slotMod : Nat
  phase : Nat
  arg0 : Nat
  arg1 : Nat
  lag : Nat
deriving DecidableEq, Repr

/-- Schedule record i of a plan. -/
def schedRec (img : List Byte) (i : Nat) : SchedRec :=
  let r := (planRec img 0x14 0xFFFF 16 i).getD []
  ⟨leAt r 0 1, leAt r 1 1 % 16, leAt r 2 2, leAt r 4 2, leAt r 6 2, leAt r 8 4, leAt r 12 1⟩

/-- Schedule records of a plan. -/
def schedCount (img : List Byte) : Nat := ((planSect img 0x14 0xFFFF).map Sect.cnt).getD 0

/-- Schedule records fire from the moment ARM completes until the plan is discarded (R299): not yet while the ARM that installed the plan goes on,
but through one that arms the installed plan again (R200). -/
def State.schedActive (s : State) : Bool :=
  !s.img.isEmpty && !s.mail.taken.any (fun t => decide (t.op = 0x0503) && decide (t.aux.getD 0 0 = 1))

/-- The record of event e; 1,024, 1,025 and 1,026 are the implicit TRACKER, ADMIT and SCRUB at phase 0 (R299). -/
def State.evRec (s : State) (e : Nat) : SchedRec :=
  if e = 1024 then ⟨3, 0, 0, 0, 0, 0, 0⟩ else if e = 1025 then ⟨1, 0, 0, 0, 0, 0, 0⟩
  else if e = 1026 then ⟨4, 0, 0, 0, 0xFFFF, 0, 0⟩ else schedRec s.img e

/-- The events of the current slot: the implicit ones in their order, then the records due in it. -/
def State.slotEvents (s : State) : List Nat :=
  if s.schedActive then
    let l := (List.range (schedCount s.img)).map (fun (i : Nat) => (i, schedRec s.img i))
    let impl := fun (k e : Nat) => if l.any (fun x => decide (x.2.kind = k)) then [] else [e]
    impl 3 1024 ++ impl 1 1025 ++ impl 4 1026
      ++ (l.filter (fun x => decide (s.slotNo % 2 ^ x.2.every = x.2.slotMod))).map Prod.fst
  else [1026]

/-- The cycle of its slot in which an event of phase P fires (R293, R297). While no period is measured the phase reads 0, no event above phase 0
falls due, and the number stands for the order of phases alone, in which they fire as the slot closes (R296). -/
def State.fireCycle (s : State) (P : Nat) : Nat :=
  if P = 0 then 0 else if s.meanPeriod = 0 then 6400000 + P else ceilDiv (P * s.meanPeriod) 65536

/-- The unfired events of the slot as (cycle, event), in the order of the list. -/
def State.unfired (s : State) : List (Nat × Nat) :=
  (s.slotEvents.filter (fun e => decide (¬ e ∈ s.cad.fired))).map (fun e => (s.fireCycle (s.evRec e).phase, e))

/-- The event that fires next: the first in the list of the lowest cycle. -/
def firstEv : List (Nat × Nat) → Option (Nat × Nat)
  | [] => none
  | e :: r =>
    match firstEv r with
    | some x => if x.1 < e.1 then some x else some e
    | none => some e

/-- Events at or before the current phase count as fired: a plan armed in a slot fires what is still to come (R297, R299). -/
def State.schedMark (s : State) : State :=
  let past := (s.unfired.map Prod.snd).filter (fun e => decide ((s.evRec e).phase ≤ s.phase))
  { s with cad := { s.cad with fired := s.cad.fired ++ past } }

/-! ## What events do (Table 10.2) -/

/-- ADMIT (R301): in RUNNING alone (R299; log entry 70), while slots run. Where admission is held (R460, R469, R473) the slot has no result set: its shape record and
hand-off are dropped. Regions that Horizon powered off wake (R499). The first result set of a step finds the gradient state IDLE (R469). -/
def State.admitFire (s : State) : State :=
  let n := s.slotNo
  let s1 := if s.chip.st = .running ∧ s.slotLost = false then
      (let s0 := s.demandWake
      if s0.admissionHeld then
        { s0 with job := { s0.job with
            shapes := s0.job.shapes.filter (fun e => decide (e.1 ≠ n)), handoffs := s0.job.handoffs.filter (fun e => decide (e.1 ≠ n)) } }
      else
        let first := planTraining s0.img && decide (s0.job.j % planStepSets s0.img = 0)
        (if first then s0.setGrad 0 else s0).admitSet)
    else s
  s1.passFetches n

/-- SCRUB (R63): every macro of the masked regions that are on. -/
def State.scrubFire (s : State) (mask : Nat) : State :=
  (onesOf 16 (mask &&& s.compMask)).foldl (fun st r => (List.range 256).foldl (fun t i => t.scrubEvent (256 * r + i)) st) s

/-- WAKE (R498): regions that Horizon powered off wake, and their REST requests are withdrawn. -/
def State.wakeFire (s : State) (mask : Nat) : State :=
  if s.isIn [.sleep] || !s.pdOn 1 then s
  else
    let s1 := s.setF hznBase F.HZN_REST_REQ (s.getF hznBase F.HZN_REST_REQ &&& (0xFFFF ^^^ (mask % 65536)))
    (s1.hznWake mask).1

/-- REST (R498): a request stands until the next WAKE. -/
def State.restFire (s : State) (mask : Nat) : State :=
  if s.isIn [.sleep] || !s.pdOn 1 then s
  else s.setF hznBase F.HZN_REST_REQ (s.getF hznBase F.HZN_REST_REQ ||| mask % 65536)

/-- SECURE (R300): by the chip state; discarded in the others. -/
def State.secureFire (s : State) : State :=
  if s.isIn [.armed, .running, .draining, .securing] && s.pdOn 3 then
    (if s.isIn [.securing] then s else s.secureRequest)
  else s

/-- Event e fires. -/
def State.fireEv (s : State) (e : Nat) : State :=
  let r := s.evRec e
  let s1 := { s with cad := { s.cad with fired := s.cad.fired ++ [e] } }
  if r.kind = 1 then s1.admitFire
  else if r.kind = 2 then s1.deadlineFire e (r.arg0 % 256) r.arg1 r.lag
  else if r.kind = 3 then s1.trkEvent
  else if r.kind = 4 then s1.scrubFire r.arg0
  else if r.kind = 5 then s1.recalWindow (r.arg0 % 256) true
  else if r.kind = 6 then s1.recalWindow (r.arg0 % 256) false
  else if r.kind = 7 then s1.sliceRecord r.arg0 r.arg1
  else if r.kind = 8 then s1.secureFire
  else if r.kind = 9 then s1.wakeFire r.arg0
  else if r.kind = 10 then s1.restFire r.arg0
  else s1

/-- Every unfired event of the closing slot, in phase order (R296). -/
def State.fireRest (s : State) : Nat → State
  | 0 => s
  | n + 1 =>
    match firstEv s.unfired with
    | some e => (s.fireEv e.2).fireRest n
    | none => s

/-- The cadence unit works: outside OFF and outside a chip reset. -/
def State.cadLive (s : State) : Bool := s.pins.pwrgood && s.pins.resetN && decide (s.power.pulse ≠ 2) && !s.isIn [.off]

/-- A command names event e of kind k: it fires at time t when its phase has come and no earlier one waits (R297). -/
def fireCmd (s0 : State) (k e t : Nat) : State :=
  let s := s0.at t
  if s.cadLive && !s.slotLost then
    match firstEv s.unfired with
    | some x => if x.2 = e ∧ (s.evRec e).kind = k ∧ (s.evRec e).phase ≤ s.phase then s.fireEv e else s
    | none => s
  else s

/-- The meaning of ADMIT. -/
def execAdmit (e t : Nat) (s : State) : Host.Outcome State Fault Refusal := .next (fireCmd s 1 e t)
/-- The meaning of DEADLINE. -/
def execDeadline (e t : Nat) (s : State) : Host.Outcome State Fault Refusal := .next (fireCmd s 2 e t)
/-- The meaning of TRACKER. -/
def execTracker (e t : Nat) (s : State) : Host.Outcome State Fault Refusal := .next (fireCmd s 3 e t)
/-- The meaning of SCRUB. -/
def execScrub (e t : Nat) (s : State) : Host.Outcome State Fault Refusal := .next (fireCmd s 4 e t)
/-- The meaning of RECAL_OPEN. -/
def execRecalOpen (e t : Nat) (s : State) : Host.Outcome State Fault Refusal := .next (fireCmd s 5 e t)
/-- The meaning of RECAL_CLOSE. -/
def execRecalClose (e t : Nat) (s : State) : Host.Outcome State Fault Refusal := .next (fireCmd s 6 e t)
/-- The meaning of BIST_RECORD. -/
def execBistRecord (e t : Nat) (s : State) : Host.Outcome State Fault Refusal := .next (fireCmd s 7 e t)
/-- The meaning of SECURE_RECORD. -/
def execSecureRecord (e t : Nat) (s : State) : Host.Outcome State Fault Refusal := .next (fireCmd s 8 e t)
/-- The meaning of WAKE_RECORD. -/
def execWakeRecord (e t : Nat) (s : State) : Host.Outcome State Fault Refusal := .next (fireCmd s 9 e t)
/-- The meaning of REST_RECORD. -/
def execRestRecord (e t : Nat) (s : State) : Host.Outcome State Fault Refusal := .next (fireCmd s 10 e t)

/-! ## Slot boundaries (R290 to R296) -/

/-- The registers that show the period history. -/
def State.showPeriod (s : State) : State :=
  (s.setF cadBase F.CAD_PERIOD_MEAN s.meanPeriod).setF cadBase F.CAD_PERIOD_N s.cad.hist.length

/-- The number of the slot that begins (R293, R306): SET before a resync offset, which it discards. -/
def State.nextSlot (s : State) : Nat :=
  if s.cad.setPend then s.getF cadBase F.CAD_SLOT_SET_LO_SLOT + 2 ^ 32 * s.getF cadBase F.CAD_SLOT_SET_HI_SLOT
  else (((s.slotNo : Int) + 1 + s.cad.resync.getD 0) % (2 ^ 48 : Nat)).toNat

/-- Transitions that Table 1.12 places at a slot boundary (R437, R438, R450). -/
def State.edgeTransitions (s : State) : State :=
  if s.errs.slot.isSome && s.isIn [.armed, .running, .draining, .securing, .restoring] then s.enterFaulted false
  else
    match s.chip.st, s.job.startCmd, s.job.stopCmd with
    | .armed, some id, _ =>
      let s1 := s.startJob.gradReset
      { s1.finish id 0 (leBytes 6 s1.slotNo) with job := { s1.job with startCmd := none } }
    | .running, _, some id =>
      let s1 := (s.stopJob.dropRequest).goChip .armed
      { s1.finish id 0 (leBytes 2 s1.chip.st.code) with job := { s1.job with stopCmd := none } }
    | _, _, _ => s

/-- A beacon sent on port p (R305, R353): a BEACON frame with the number of the slot that has just begun. -/
def State.beaconOut (s : State) (p : Nat) : State :=
  let x := s.port p
  if s.portActive p && ((x.agreed.map (fun a => a.2.testBit 0)).getD false) then
    s.setPort p { x.sendControl 4 (leBytes 6 s.slotNo) with beacons := x.beacons + 1 }
  else s

/-- The replies of CAD_SET_SLOT after the boundary (R424). -/
def State.slotReply (s : State) : State :=
  (s.mail.taken.filter (fun t => decide (t.op = 0x0602))).foldl (fun st t => st.finish t.id 0 (leBytes 6 st.slotNo)) s

/-- A slot boundary (R296) at the current time; `edge` says that an accepted edge makes it. Events of the new slot's phase 0 follow as commands
of their own. -/
def State.slotBoundary (s : State) (edge : Bool) : State :=
  let s1 := if s.slotLost then s else s.fireRest 1027
  let s2 := s1.setSlot s1.nextSlot
  let mode := s2.getF cadBase F.CAD_CTL_OUT_MODE
  let pulse := decide (mode = 2) || (decide (mode = 1) && edge)
  let start := s2.now + s2.getF cadBase F.CAD_OUT_DELAY_DELAY
  let cad := { s2.cad with
      base := s2.now, seen := true, edge := edge, setPend := false, resync := none, fired := [],
      pulses := if pulse then s2.cad.pulses ++ [start] else s2.cad.pulses }
  let s3 := (({ s2 with cad := cad }.setF cadBase F.CAD_PHASE_COAST (b2n !edge)).setF cadBase F.CAD_PHASE_LOST 0).slotReply
  let s4 := ((s3.monBoundary).trkPush).cirBoundary
  let s5 := (s4.edgeTransitions).nimEdge
  (onesOf 16 (s5.getF cadBase F.CAD_CTL_BEACON_TX)).foldl State.beaconOut s5.serveFetches

/-- An accepted edge (R291): a measured period enters the history. After CAD_LOST no slot coasts until a period has been measured. -/
def State.acceptEdge (s : State) : State :=
  let g := s.now - s.cad.base
  let measured := s.cad.seen && s.cad.edge && decide (g ≤ 6400000)
  let s1 := if measured then
      { s with cad := { s.cad with hist := (g :: s.cad.hist).take 8 } }.setF cadBase F.CAD_LAST_PERIOD g
    else s
  let coasts := if s.cad.coasts = 5 ∧ measured = false then 5 else 0
  ({ s1 with cad := { s1.cad with coasts := coasts } }.showPeriod).slotBoundary true

/-- CADENCE_IN_EDGE at time t (R290). -/
def cadEdge (s0 : State) (t : Nat) : State :=
  let s := s0.at t
  if !s.cadLive then s
  else if s.isF cadBase F.CAD_CTL_IN_EN && decide (11250 ≤ s.now - s.cad.base) then s.acceptEdge
  else (s.flagF cadBase F.CAD_STAT_RUNT).addF cadBase F.CAD_COUNTS_RUNT 1

/-- The meaning of CADENCE_IN_EDGE. -/
def execCadenceInEdge (t : Nat) (s : State) : Host.Outcome State Fault Refusal := .next (cadEdge s t)

/-- The limit L of the slot (R294). -/
def State.coastLimit (s : State) : Nat :=
  let m := s.meanPeriod
  if m = 0 then 6400000 else if s.cad.coasts = 0 then min (m + m / 8) 6400000 else m

/-- COASTED_BOUNDARY at time t (R294): at most 4 in a row. -/
def coast (s0 : State) (t : Nat) : State :=
  let s := s0.at t
  if s.cadLive && s.cad.seen && !s.slotLost && decide (s.cad.coasts < 4) && decide (s.coastLimit ≤ s.now - s.cad.base) then
    ({ s with cad := { s.cad with coasts := s.cad.coasts + 1 } }.addF cadBase F.CAD_COUNTS_COAST 1).slotBoundary false
  else s

/-- The meaning of COASTED_BOUNDARY. -/
def execCoastedBoundary (t : Nat) (s : State) : Host.Outcome State Fault Refusal := .next (coast s t)

/-- ALERT_N follows HZN_ALERT and HZN_ALERT_RULES (R497). -/
def State.alertSync (s : State) : State :=
  let on := decide (s.getF hznBase F.HZN_ALERT_CAD_LOST = 1) || decide (s.getF hznBase F.HZN_ALERT_BAL_OVER = 1)
    || decide (s.getF hznBase F.HZN_ALERT_RULES_LO_RULES ≠ 0) || decide (s.getF hznBase F.HZN_ALERT_RULES_HI_RULES ≠ 0)
  { s.setF hznBase F.HZN_ALERT_PIN (b2n on) with pins := { s.pins with alertN := !on } }

/-- CAD_LOST at time t (R295, R307, R497): no further slot starts, and the history is empty. -/
def cadLostEff (s0 : State) (t : Nat) : State :=
  let s := s0.at t
  if s.cadLive && s.cad.seen && !s.slotLost && decide (s.cad.coasts = 4) && decide (s.coastLimit ≤ s.now - s.cad.base) then
    let s1 := s.fireRest 1027
    let s2 := { s1 with cad := { s1.cad with hist := [], coasts := 5 } }.showPeriod
    let s3 := (s2.flagF cadBase F.CAD_STAT_LOST).flagF cadBase F.CAD_PHASE_LOST
    let s4 := (s3.chipEvent 3 (unitChip 2) 0x72).postEvent 0xB 0 (s3.slotNo % 2 ^ 32) true
    if s4.pdOn 1 then ((s4.flagF hznBase F.HZN_ALERT_CAD_LOST).alertSync).postEvent 0xA 1 0x40 true else s4
  else s

/-- The meaning of CAD_LOST. -/
def execCadLost (t : Nat) (s : State) : Host.Outcome State Fault Refusal := .next (cadLostEff s t)

/-- CAD_CMD.SET (R293). -/
def cadSet (s : State) : State := if s.cadLive then { s with cad := { s.cad with setPend := true } } else s

/-- The meaning of CAD_CMD_SET. -/
def execCadCmdSet (s : State) : Host.Outcome State Fault Refusal := .next (cadSet s)

/-! ## CADENCE_OUT and beacons (R304 to R306) -/

/-- CADENCE_OUT_PULSE at time t: the first pending pulse whose time has come is driven; with OUT_MODE 0 the pin stays low. -/
def pulseOut (s0 : State) (t : Nat) : State :=
  let s := s0.at t
  match s.cad.pulses with
  | p :: rest =>
    if s.cadLive && decide (p ≤ s.now) then
      let s1 := { s with cad := { s.cad with pulses := rest } }
      if s.getF cadBase F.CAD_CTL_OUT_MODE = 0 then s1
      else { s1 with pins := { s1.pins with cadenceOut := true }, cad := { s1.cad with pulseEnd := some (s.now + 100) } }
    else s
  | [] => s

/-- With OUT_MODE 0 the pin is held low, a pulse that is being driven included (R304). -/
def State.outHeld (s : State) : State :=
  if s.getF cadBase F.CAD_CTL_OUT_MODE = 0 then
    { s with pins := { s.pins with cadenceOut := false }, cad := { s.cad with pulseEnd := none } }
  else s

/-- The meaning of CADENCE_OUT_PULSE. -/
def execCadenceOutPulse (t : Nat) (s : State) : Host.Outcome State Fault Refusal := .next (pulseOut s t)

/-- CADENCE_OUT_PULSE_END at time t: 100 cycles after the pulse began. -/
def pulseEnd (s0 : State) (t : Nat) : State :=
  let s := s0.at t
  match s.cad.pulseEnd with
  | some e =>
    if e ≤ s.now then { s with pins := { s.pins with cadenceOut := false }, cad := { s.cad with pulseEnd := none } } else s
  | none => s

/-- The meaning of CADENCE_OUT_PULSE_END. -/
def execCadenceOutPulseEnd (t : Nat) (s : State) : Host.Outcome State Fault Refusal := .next (pulseEnd s t)

/-- A beacon with number `slot` on port p (R306). -/
def State.takeBeacon (s : State) (p slot : Nat) : State :=
  if s.cadLive && s.isF cadBase F.CAD_CTL_BEACON_RX && decide (s.getF cadBase F.CAD_CTL_BEACON_PORT = p) then
    let want := if s.phase < 32768 then s.slotNo else (s.slotNo + 1) % 2 ^ 48
    let d := toSigned 48 (slot + 2 ^ 48 - want)
    if d = 0 then s
    else
      let s1 := { s with cad := { s.cad with resync := some d } }
      ((s1.flagF cadBase F.CAD_STAT_RESYNC).setF cadBase F.CAD_RESYNC_DELTA_DELTA (ofSigned 32 d)).chipEvent 3 (unitChip 2) 0x73
  else s

/-- BEACON (R306, R353): a control frame on port p at time t, its slot number in bytes 9 to 14. -/
def beaconIn (s0 : State) (p : Nat) (f : Flit) (t : Nat) : State :=
  let s := s0.at t
  if s.portActive p then s.frameIn p f 4 (fun u => u.takeBeacon p (leAt f.bytes 9 6)) else s

/-- The meaning of BEACON. -/
def execBeacon (p : Nat) (f : Flit) (t : Nat) (s : State) : Host.Outcome State Fault Refusal := .next (beaconIn s p f t)

/-! ## Hand-offs (R354) -/

/-- HANDOFF: message k is held for its slot or discarded. -/
def handoffIn (s : State) (k : Nat) : State :=
  match s.ownMsg k 8 with
  | some (_, m) => (s.takeInbox k).takeHandoff m (s.cad.fired.any (fun e => decide ((s.evRec e).kind = 1)))
  | none => s

/-- The meaning of HANDOFF. -/
def execHandoff (k : Nat) (s : State) : Host.Outcome State Fault Refusal := .next (handoffIn s k)

end Sys2Proof.Machine
end

