-- ==== Sys2Proof/Machine/Horizon.lean ====
section
/-! DEFINITION. Horizon (R486 to R501): channels and filters, risk, rules and their actions, throttling, the balance between neighbours,
powering regions off, and rule commits. -/

namespace Sys2Proof.Machine

/-! ## Numbers (R488) -/

/-- Saturation to a signed 32-bit value. -/
def sat32 (i : Int) : Int := max (-(2 ^ 31)) (min i (2 ^ 31 - 1))

/-- A rule's state before it ever fired. -/
def HzRule.init : HzRule := ⟨false, 0, List.replicate 16 0, 0, 0, []⟩

/-- A channel after its filter restarted. -/
def HzCh.init : HzCh := ⟨[], [], false⟩

/-- A signed register of Horizon's window. -/
def State.hznI (s : State) (f : Fld) : Int := toSigned 32 (s.getF hznBase f)

/-- A signed register of Horizon's window set. -/
def State.setHznI (s : State) (f : Fld) (v : Int) : State := s.setF hznBase f (ofSigned 32 v)

/-- Filtered value of channel c; its rate; its VALID bit. -/
def State.hzF (s : State) (c : Nat) : Int := s.hznI (F.HZN_CH_VAL_F.idx (0x10 * c))
def State.hzRate (s : State) (c : Nat) : Int := s.hznI (F.HZN_CH_RATE_RATE.idx (0x10 * c))
def State.hzValid (s : State) (c : Nat) : Bool := s.isF hznBase (F.HZN_CH_CFG_VALID.idx (0x10 * c))

/-! ## Channels (R487, Table 16.1) -/

/-- Pairs (r, q), r < q, of powered neighbours (R20). -/
def State.nbrPairs (s : State) : List (Nat × Nat) :=
  (List.range 16).flatMap (fun (r : Nat) => ((s.poweredNbrs r).filter (fun q => decide (s.pdOn (4 + r) = true ∧ r < q))).map (fun q => (r, q)))

/-- Macros with MAC_RMON_CTL.DRIFT set in regions that are on. -/
def State.driftCount (s : State) : Nat :=
  (s.regs.filter (fun e => match locate e.1 with
    | some l => decide (l.win = .mac) && decide (l.off = 0x180) && s.pdOn l.domain && e.2.toNat.testBit 13
    | none => false)).length

/-- The count of a counting channel since the last sample. -/
def State.tallyOf (s : State) (c : Nat) : Int := (SMap.get 0 s.hzn.tally c : Nat)

/-- Some Courier domain is on. -/
def State.anyPortOn (s : State) : Bool := s.pdOn 38 || s.pdOn 39

/-- The largest of a list; none where it is empty. -/
def maxOf : List Int → Option Int
  | [] => none
  | a :: r => some (r.foldl max a)

/-- Channel 55: the largest difference of filtered channels over pairs of powered neighbours, from the last sample's filtered values, since
the filters run after every channel is read, in m°C with a free rounding (log entry 39). -/
def State.spread (s : State) (free : Nat) : Option Int :=
  (maxOf (s.nbrPairs.map (fun p => (((s.hzF p.1) - (s.hzF p.2)).natAbs : Int)))).map (fun d => (d + (free % 256 : Nat)) / 256)

/-- The raw value of channel c, none where it is invalid: diode temperatures come from the sample, all else from the state. An LDO that
ramps has a measured output of 10 bits that the model does not follow: free, region by region (log entry 42). -/
def State.hzRaw (s : State) (raw : List Int) (free c : Nat) : Option Int :=
  let ok := fun (b : Bool) (v : Int) => if b then some v else none
  if c < 16 then ok (s.pdOn (4 + c)) (raw.getD c 0)
  else if c < 32 then
    let r := c - 16
    ok (s.pdOn (4 + r)) (if s.isF (rgnBase r) F.RGN_LDO_STAT_SETTLED then
        (s.getF (rgnBase r) F.RGN_LDO_STAT_VOUT_MV : Nat) - (ldoTarget (s.eff r) : Nat)
      else (free / 256 / 1024 ^ r % 1024 : Nat) - (ldoTarget (s.eff r) : Nat))
  else if c < 48 then ok (s.pdOn (portDomain (c - 32))) (s.tallyOf c)
  else if c < 50 then ok (s.pdOn (c - 12)) (s.tallyOf c)
  else if c < 52 then ok (s.pdOn (c - 14)) (1000 * toSigned 8 (s.getF (hbmBase (c - 50)) F.HBM_TEMP_TEMP))
  else if c = 52 then ok (s.pdOn 3) (s.driftCount : Nat)
  else if c = 53 then
    ok (decide (0 < s.cad.hist.length) && !s.slotLost)
      (((s.getF cadBase F.CAD_LAST_PERIOD : Int) - (s.getF cadBase F.CAD_PERIOD_MEAN : Int)).natAbs : Nat)
  else if c = 54 then ok (s.pdOn 3) (s.tallyOf c)
  else if c = 55 then s.spread free
  else if c < 58 then ok s.anyPortOn (s.tallyOf c)
  else if c = 58 then some (s.tallyOf c)
  else if c = 59 then maxOf (((List.range 16).filter (fun (r : Nat) => s.pdOn (4 + r))).map (fun r => raw.getD r 0))
  else some (s.hznI (F.HZN_USER_VALUE.idx (4 * (c - 60))))

/-! ## Filters (R488 to R490) -/

/-- Insertion into an ascending list. -/
def insertAsc (x : Int) : List Int → List Int
  | [] => [x]
  | y :: r => if x ≤ y then x :: y :: r else y :: insertAsc x r

/-- The median, the lower middle of an even number. -/
def median (l : List Int) : Int := (l.foldr insertAsc []).getD ((l.length - 1) / 2) 0

/-- R489: the channel after a valid X, with its new F. `prev` is the filtered value that stands. -/
def filterStep (filt k : Nat) (ch : HzCh) (prev X : Int) : HzCh × Int :=
  let last := if 2 ≤ filt then (X :: ch.last5).take 5 else ch.last5
  let m := if 2 ≤ filt then median last else X
  let f := if filt = 0 then X else if filt = 2 then m else if ch.first then sat32 (prev + (m - prev) / 2 ^ k) else m
  (⟨last, (f :: ch.hist).take 33, true⟩, f)

/-- Channel c sampled: filtered, its rate formed, or invalid with its filters restarted. -/
def State.hzSample (s : State) (raw : Option Int) (c : Nat) : State :=
  let o := 0x10 * c
  match raw with
  | some x =>
    let (ch, f) := filterStep (s.getF hznBase (F.HZN_CH_CFG_FILT.idx o)) (s.getF hznBase (F.HZN_CH_CFG_K.idx o))
      (SMap.get HzCh.init s.hzn.chs c) (s.hzF c) (sat32 (256 * sat32 x))
    let lag := s.getF hznBase (F.HZN_CH_CFG_LAG.idx o) + 1
    let rate := match ch.hist[lag]? with
      | some g => sat32 (f - g)
      | none => 0
    let s1 := { s with hzn := { s.hzn with chs := SMap.set HzCh.init s.hzn.chs c ch } }
    ((s1.setHznI (F.HZN_CH_VAL_F.idx o) f).setHznI (F.HZN_CH_RATE_RATE.idx o) rate).setF hznBase (F.HZN_CH_CFG_VALID.idx o) 1
  | none =>
    let s1 := { s with hzn := { s.hzn with chs := SMap.set HzCh.init s.hzn.chs c HzCh.init } }
    s1.setF hznBase (F.HZN_CH_CFG_VALID.idx o) 0

/-! ## Risk (R491) -/

/-- The weighted sum over the valid channels. -/
def State.riskSum (s : State) : Int :=
  sumI 64 (fun c =>
    let o := 0x10 * c
    if s.hzValid c then toSigned 16 (s.getF hznBase (F.HZN_CH_CFG_WEIGHT.idx o)) * max (s.hzF c - s.hznI (F.HZN_CH_OFS_OFFSET.idx o)) 0
    else 0)

/-- The threshold of level L, 1 to 7. -/
def State.levelThr (s : State) (L : Nat) : Nat :=
  if L ≤ 4 then bits (s.getF hznBase F.HZN_LVL_THR0_T1_T4) (8 * (L - 1)) 8 else bits (s.getF hznBase F.HZN_LVL_THR1_T5_T7) (8 * (L - 5)) 8

/-- Risk and level formed; a change of level is posted. -/
def State.formRisk (s : State) : State :=
  let risk := (max 0 (min (s.riskSum / 2 ^ s.getF hznBase F.HZN_CTL_RISK_SHIFT) 255)).toNat
  let level := ((List.range 7).filter (fun (i : Nat) => decide (s.levelThr (i + 1) ≤ risk))).length
  let old := s.getF hznBase F.HZN_RISK_LEVEL
  let s1 := (s.setF hznBase F.HZN_RISK_RISK risk).setF hznBase F.HZN_RISK_LEVEL level
  let s2 := s1.setF hznBase F.HZN_RISK_SAMPLES (s1.getF hznBase F.HZN_RISK_SAMPLES + 1)
  if level = old then s2 else s2.postEvent 0xC 1 level false

/-! ## Rules (R492 to R495) -/

/-- A rule record (Table 16.2). -/
structure HzRec where
  ch : Nat
  rate : Bool
  op : Nat
  hold : Nat
  thresh : Int
  act : Nat
  pm : Bool
  period : Nat
  regions : Nat
  rearm : Nat
deriving DecidableEq, Repr

/-- A record's fields. -/
def hzRec (l : List Byte) : HzRec :=
  ⟨leAt l 0 1 % 64, (leAt l 0 1).testBit 6, leAt l 1 1 % 16, leAt l 2 2, toSigned 32 (leAt l 4 4), leAt l 8 1 % 16, (leAt l 8 1).testBit 4,
    leAt l 9 1, leAt l 10 2, leAt l 12 2⟩

/-- A record that may stand: no reserved encoding or bit, HOLD, REARM and a THROTTLE's PERIOD not 0 (R492). -/
def hzRecOk (l : List Byte) : Bool :=
  let r := hzRec l
  decide (leAt l 0 1 < 128) && decide (leAt l 1 1 < 16) && decide (r.op ≤ 8) && decide (leAt l 8 1 < 32) && decide (r.act ≤ 7)
    && decide (leAt l 14 2 = 0) && decide (0 < r.hold) && decide (0 < r.rearm) && (decide (r.act ≠ 3) || decide (0 < r.period))

/-- The 16 bytes of active rule i, of staged rule i. -/
def State.ruleBytes (s : State) (i : Nat) : List Byte :=
  (List.range 4).flatMap (fun (w : Nat) => leBytes 4 (s.reg (hznBase + 0x800 + 0x10 * i + 4 * w)).toNat)
def State.stagedBytes (s : State) (i : Nat) : List Byte :=
  (List.range 4).flatMap (fun (w : Nat) => leBytes 4 (s.reg (hznBase + 0xC00 + 0x10 * i + 4 * w)).toNat)

/-- A rule record written to one of the copies, at window offset `at_`. -/
def State.putRule (s : State) (at_ i : Nat) (l : List Byte) : State :=
  (List.range 4).foldl (fun st w => st.setReg (hznBase + at_ + 0x10 * i + 4 * w) (BitVec.ofNat 32 (leAt l (4 * w) 4))) s

/-- Active rule i. -/
def State.rule (s : State) (i : Nat) : HzRec := hzRec (s.ruleBytes i)
/-- State of rule i. -/
def State.hzRule (s : State) (i : Nat) : HzRule := SMap.get HzRule.init s.hzn.rules i
/-- State of rule i replaced. -/
def State.setHzRule (s : State) (i : Nat) (x : HzRule) : State :=
  { s with hzn := { s.hzn with rules := SMap.set HzRule.init s.hzn.rules i x } }

/-- A record's condition in this sample (R493): false on an invalid channel but for OP 8 (R488; log entry 94). -/
def State.ruleTrue (s : State) (r : HzRec) : Bool :=
  let v := if r.rate then s.hzRate r.ch else s.hzF r.ch
  let on := s.hzValid r.ch
  if r.op = 1 then on && decide (r.thresh < v)
  else if r.op = 2 then on && decide (r.thresh ≤ v)
  else if r.op = 3 then on && decide (v < r.thresh)
  else if r.op = 4 then on && decide (v ≤ r.thresh)
  else if r.op = 5 then on && decide (r.thresh < sat32 (v.natAbs : Nat))
  else if r.op = 6 then on && decide (r.thresh ≤ (s.getF hznBase F.HZN_RISK_RISK : Nat))
  else if r.op = 7 then on && decide (r.thresh ≤ (s.getF hznBase F.HZN_RISK_LEVEL : Nat))
  else decide (r.op = 8)

/-- One sample of a rule's state (Table 16.3): its new state and whether it fires. -/
def HzRule.step (x : HzRule) (r : HzRec) (cond : Bool) : HzRule × Bool :=
  if x.fired then
    if cond then ({ x with cnt := 0 }, false)
    else if x.cnt + 1 = r.rearm then ({ x with fired := false, cnt := 0, ms := 0 }, false)
    else ({ x with cnt := x.cnt + 1 }, false)
  else if cond then
    if x.cnt + 1 = r.hold then ({ x with fired := true, cnt := 0, ms := 0, per := r.period }, true)
    else ({ x with cnt := x.cnt + 1 }, false)
  else ({ x with cnt := 0 }, false)

/-- HZN_FIRED shows the rules that are FIRED. -/
def State.showFired (s : State) : State :=
  let m := sumN 64 (fun i => if (s.hzRule i).fired then 2 ^ i else 0)
  (s.setF hznBase F.HZN_FIRED_LO_RULES m).setF hznBase F.HZN_FIRED_HI_RULES (m / 2 ^ 32)

/-- Applied depth A of region r. -/
def State.hzA (s : State) (r : Nat) : Nat :=
  bits (s.getF hznBase F.HZN_DEPTH_LO_A + 2 ^ 32 * s.getF hznBase F.HZN_DEPTH_HI_A) (4 * r) 4
/-- Applied depth of region r set. -/
def State.setHzA (s : State) (r v : Nat) : State :=
  let n := putBits (s.getF hznBase F.HZN_DEPTH_LO_A + 2 ^ 32 * s.getF hznBase F.HZN_DEPTH_HI_A) (4 * r) 4 v
  (s.setF hznBase F.HZN_DEPTH_LO_A n).setF hznBase F.HZN_DEPTH_HI_A (n / 2 ^ 32)

/-- A throttle rule's depths rise by 1 in its regions, to at most 13 and A + 1 (R495). -/
def State.riseDepth (s : State) (i mask : Nat) : State :=
  let x := s.hzRule i
  s.setHzRule i { x with
    depth := (List.range 16).map (fun (r : Nat) =>
      let d := x.depth.getD r 0
      if mask.testBit r then min (min (d + 1) 13) (s.hzA r + 1) else d) }

/-- Depths that a replaced rule left, one millisecond on. -/
def HzFall.next (f : HzFall) : HzFall :=
  if f.per ≤ f.ms + 1 then { f with ms := 0, depth := f.depth.map (fun d => d - 1) } else { f with ms := f.ms + 1 }

/-- What the records before rule i's left falls on, until it is 0 (R495). -/
def State.moveOld (s : State) (i : Nat) : State :=
  let x := s.hzRule i
  if x.old = [] then s
  else s.setHzRule i { x with old := (x.old.map HzFall.next).filter (fun f => f.depth.any (fun d => decide (0 < d))) }

/-- A rule's depths one millisecond on (R495): FIRED ones rise every PERIOD ms, the others fall to 0 every period of their firing; in the sample that
fires or arms the rule the period begins. -/
def State.moveDepth (s : State) (i : Nat) (fresh : Bool) : State :=
  let x := s.hzRule i
  if fresh ∨ (x.fired = false ∧ ∀ d ∈ x.depth, d = 0) then s
  else if x.per ≤ x.ms + 1 then
    let s1 := s.setHzRule i { x with ms := 0 }
    if x.fired then (if (s.rule i).act = 3 then s1.riseDepth i (s.rule i).regions else s1)
    else s1.setHzRule i { x with ms := 0, depth := x.depth.map (fun d => d - 1) }
  else s.setHzRule i { x with ms := x.ms + 1 }

/-- An HZN_RULE postmark of rule i (Table 16.7). -/
def State.rulePostmark (s : State) (i : Nat) : State :=
  let o := hznBase + 0x100 + 0x10 * (s.rule i).ch
  let rd := fun a => (a, (s.reg a).toNat)
  s.pmSubmit ⟨0x5, 1, false, 0, 0, i, [rd (o + 8), rd (o + 0xC), rd (hznBase + 4)]⟩

/-- The wake from SLEEP begins with PD03 (R521, Table 1.12), the ring indices at 0 and no command in progress (R388). -/
def State.wakeStart (s : State) : State :=
  if s.isIn [.sleep] && decide (s.power.wake = 0) then
    let t := s.mailReset false
    { t with power := { t.power with wake := 1 } }.powerUp 3
  else s

/-- A rule's securing request (Table 16.4). -/
def State.hznSecure (s : State) : State :=
  if s.pdOn 3 && s.isF nimBase F.NIM_CTL_RISK_EN && s.isIn [.armed, .running, .securing] then
    (s.secureFire).addF hznBase F.HZN_WAKE_CNT_SECURE_REQ 1
  else s

/-- Rule i fires: its postmark, then its action (R494, Table 16.4). -/
def State.fireRule (s : State) (i : Nat) : State :=
  let r := s.rule i
  let s1 := if r.pm then s.rulePostmark i else s
  if r.act = 1 then s1.rulePostmark i
  else if r.act = 2 then
    let f := if i < 32 then F.HZN_ALERT_RULES_LO_RULES else F.HZN_ALERT_RULES_HI_RULES
    (((s1.setF hznBase f (s1.getF hznBase f ||| 2 ^ (i % 32))).alertSync).postEvent 0xA 1 i true).rulePostmark i
  else if r.act = 3 then s1.riseDepth i r.regions
  else if r.act = 4 then s1.hznSecure
  else if r.act = 5 then s1.wakeFire r.regions
  else if r.act = 6 then s1.restFire r.regions
  else if r.act = 7 then s1.wakeStart
  else s1

/-- The rules evaluated in ascending index; the ones that fire (R486 step 4). -/
def State.evalRules (s : State) : State × List Nat :=
  let r := (List.range 64).foldl (fun (acc : State × List Nat) i =>
    let (x, fires) := (acc.1.hzRule i).step (s.rule i) (s.ruleTrue (s.rule i))
    (acc.1.setHzRule i x, if fires then acc.2 ++ [i] else acc.2)) (s, [])
  (r.1.showFired, r.2)

/-- Steps 4 and 5 of R486: rules, actions in the same order, and the depths of rules that neither fired nor armed now. -/
def State.runRules (s : State) : State :=
  let (s1, fired) := if s.isF hznBase F.HZN_CTL_RULES_EN then s.evalRules else (s, [])
  let s2 := fired.foldl State.fireRule s1
  (List.range 64).foldl (fun st i => (st.moveDepth i (decide ((s1.hzRule i).fired ≠ (s.hzRule i).fired))).moveOld i) s2

/-! ## Balance and throttle steps (R495, R496) -/

/-- Pairs (hotter, cooler) of powered neighbours with their difference, in 1/256 m°C. -/
def State.hotPairs (s : State) : List (Nat × Nat × Int) :=
  (s.nbrPairs.map (fun p =>
    let d := s.hzF p.1 - s.hzF p.2
    if 0 < d then (p.1, p.2, d) else (p.2, p.1, -d))).filter (fun p => decide (0 < p.2.2))

/-- °C in 1/256 m°C. -/
def degC (n : Nat) : Int := ((n * 256000 : Nat) : Int)

/-- The new depth of region r's balance source. R495 bounds a THROTTLE rule's depth by the applied depth plus 1; the model bounds the balance
source in the same way, so that below the limit R35's reversal begins at once (DEDUCED, log entry 68). -/
def State.balDepth (s : State) (r : Nat) : Nat :=
  let mine := s.hotPairs.filter (fun p => decide (p.1 = r))
  let a := s.getF hznBase F.HZN_BAL_APPROACH
  let d := s.hzn.bal.getD r 0
  if mine.any (fun p => decide (degC a < p.2.2)) then min (min (d + 1) 13) (s.hzA r + 1)
  else if mine.all (fun p => decide (p.2.2 < degC a - degC 5)) then d - 1
  else d

/-- BAL_OVER and its postmark while some pair lies beyond 30 °C. Of several such pairs the spec names none: a free one is recorded (log
entry 40). -/
def State.balOver (s : State) : State :=
  match s.hotPairs.filter (fun p => decide (degC 30 < p.2.2)) with
  | [] => { s.setF hznBase F.HZN_BAL_OVER 0 with hzn := { s.hzn with balMark := false } }
  | p0 :: rest =>
    let (x, s0) := s.takeFree
    let p := (p0 :: rest).getD (x % (rest.length + 1)) p0
    let fresh := !s.isF hznBase F.HZN_ALERT_BAL_OVER
    let s1 := ((s0.setF hznBase F.HZN_BAL_OVER 1).flagF hznBase F.HZN_ALERT_BAL_OVER).alertSync
    let s2 := if fresh then s1.postEvent 0xA 1 0x41 (!s.hzn.balMark) else s1
    let rd := fun r => (hznBase + 0x108 + 0x10 * r, (s.reg (hznBase + 0x108 + 0x10 * r)).toNat)
    let s3 := if s.hzn.balMark then s2 else s2.pmSubmit ⟨0x6, 1, false, 0, 0, p.1 + 16 * p.2.1, [rd p.1, rd p.2.1]⟩
    { s3 with hzn := { s3.hzn with balMark := true } }

/-- The balance function of a step time. -/
def State.balance (s : State) : State :=
  let bal := (List.range 16).map s.balDepth
  let s1 := s.balOver
  { s1 with hzn := { s1.hzn with bal := bal } }

/-- A region's demand D. -/
def State.demand (s : State) (r : Nat) : Nat :=
  (s.hzn.rules.flatMap (fun e => (e.2.depth :: e.2.old.map HzFall.depth).map (fun l => l.getD r 0))).foldl max (s.hzn.bal.getD r 0)

/-- CAP of region r set, its effective step following. -/
def State.setCap (s : State) (r c n : Nat) : State := (s.setF (rgnBase r) F.RGN_ACLK_CAP c).aimStep r n

/-- The throttle or release step of region r (R495). -/
def State.throttleStep (s : State) (r : Nat) : State :=
  let base := rgnBase r
  let A := s.hzA r
  let D := s.demand r
  let cap := s.getF base F.RGN_ACLK_CAP
  let div := s.getF base F.RGN_GOV_STAT_HZN_DIV
  let stp := s.getF base F.RGN_ACLK_STEP
  if A < D then
    if 0 < cap ∧ s.stepOk r (min stp (cap - 1)) = true then (s.setCap r (cap - 1) (min stp (cap - 1))).setHzA r (A + 1)
    else if div < 3 then (s.setF base F.RGN_GOV_STAT_HZN_DIV (div + 1)).setHzA r (A + 1)
    else s
  else if D < A then
    let s1 := s.setHzA r (A - 1)
    if 0 < div then s1.setF base F.RGN_GOV_STAT_HZN_DIV (div - 1)
    else
      let c := min (cap + 1) 10
      let want := min stp c
      let n := s.clampStep r want
      (if n ≠ want ∧ s.pdOn (4 + r) = true then s1.flagF base F.RGN_ACLK_WAKE_CLAMP else s1).setCap r c n
  else s

/-- The step of region r while PD03 is off (SLEEP): the region has no clock to change, so that A only falls (R495). -/
def State.sleepStep (s : State) (r : Nat) : State := if s.demand r < s.hzA r then s.setHzA r (s.hzA r - 1) else s

/-- Step 6 of R486, on every tenth sample. -/
def State.stepTime (s : State) : State :=
  let s1 := s.balance
  (List.range 16).foldl (if s1.pdOn 3 then State.throttleStep else State.sleepStep) s1

/-! ## The sample (R486) -/

/-- A history kept as signed words, from word k of a free value. -/
def freeWords (y k : Nat) (l : List Int) : List Int := l.zipIdx.map (fun e => toSigned 32 (y / 2 ^ (32 * (k + e.2)) % 2 ^ 32))

/-- Horizon reaches its histories in its RAM (R377, R381, R501). Where a region of its own leaves part of them out, a free value says whether an
access was refused, and what the histories then hold is free (log entry 89). -/
def State.hznHists (s : State) : State :=
  if s.hznOwn then s
  else
    let (x, s1) := s.takeFree
    if x.testBit 0 then
      let (y, s2) := (s1.hznRefuse 0 (x / 4 % 0x7C00) (x / 2 % 2)).takeFree
      { s2 with hzn := { s2.hzn with chs := s2.hzn.chs.foldl (fun m e =>
          SMap.set HzCh.init m e.1 ⟨freeWords y (64 * e.1 + 40) e.2.last5, freeWords y (64 * e.1) e.2.hist, e.2.first⟩) [] } }
    else s1

/-- One sample at time t. The counts restart. -/
def hznSample (s0 : State) (t : Nat) (raw : List Int) : State :=
  let s := s0.at t
  if s.pdOn 1 then
    let (x, s1) := s.hznHists.takeFree
    let rs := (List.range 64).map (fun (c : Nat) => (c, s.hzRaw raw x c))
    let s2 := { s1 with hzn := { s1.hzn with tally := [], tick := (s1.hzn.tick + 1) % 10 } }
    let s3 := (rs.foldl (fun st e => st.hzSample e.2 e.1) s2).formRisk
    let s4 := s3.runRules
    if s2.hzn.tick = 0 then s4.stepTime else s4
  else s

/-- The meaning of HORIZON_SAMPLE. -/
def execHorizonSample (t : Nat) (raw : List Int) (s : State) : Host.Outcome State Fault Refusal := .next (hznSample s t raw)

/-! ## Powering regions off (R498) -/

/-- A context that lets its region rest. -/
def Ctx.rests (x : Ctx) : Bool :=
  decide (x.st = .off) || decide (x.st = .done) || (decide (x.st = .wait) && decide (x.reason = 1) && decide (x.opn = 0))

/-- Block b holds nothing: every context rests, one whose CTX_EN bit is 0 being OFF (R113), and it has no scoreboard entry of any kind (R119), no header
being staged, no accumulator tile that a chain holds and no dirty row (R69, R498). -/
def State.blockRests (s : State) (b : Nat) : Bool :=
  (s.bx b).ctxs.all (fun e => !(s.reg (blkBase b)).toNat.testBit e.1 || e.2.rests) && decide (s.sbUsed b = 0) && (s.bx b).probes.isEmpty
    && (s.bx b).chains.isEmpty && (List.range 16).all (fun (i : Nat) => !s.anyDirty (16 * b + i))

/-- REGION_POWER_DOWN (R498). -/
def regionRest (s : State) (r : Nat) : State :=
  if decide (r < 16) && s.pdOn 1 && s.pdOn (4 + r) && (s.getF hznBase F.HZN_REST_REQ).testBit r && s.isIn [.armed, .running, .draining]
      && !s.bistHolds r && (List.range 16).all (fun (i : Nat) => s.blockRests (16 * r + i)) then
    let s1 := s.domainOff (4 + r)
    s1.setF hznBase F.HZN_REST_OFF (s1.getF hznBase F.HZN_REST_OFF ||| 2 ^ r)
  else s

/-- The meaning of REGION_POWER_DOWN. -/
def execRegionPowerDown (r : Nat) (s : State) : Host.Outcome State Fault Refusal := .next (regionRest s r)

/-! ## Rule commits (R500, R435) -/

/-- A commit requested. -/
def ruleCommit (s : State) : State := if s.pdOn 1 then s.setF hznBase F.HZN_RULE_CMD_BUSY 1 else s

/-- The meaning of HZN_RULE_CMD_COMMIT: HZN_RULE_CMD is reached only while the register bus is on (R37, R39). -/
def execHznRuleCmdCommit (s : State) : Host.Outcome State Fault Refusal := .next (if s.pdOn 3 then ruleCommit s else s)

/-- Rule i committed: a changed record becomes active and its state restarts, its depths falling from where they are; a staged record that
may not stand is refused (log entry 41). -/
def State.commitRule (s : State) (i : Nat) : State :=
  let new := s.stagedBytes i
  if new = s.ruleBytes i then s
  else if hzRecOk new then
    let x := s.hzRule i
    let left : HzFall := ⟨x.depth, if x.fired then 0 else x.ms, x.per⟩
    (s.putRule 0x800 i new).setHzRule i
      { HzRule.init with old := (x.old ++ [left]).filter (fun f => f.depth.any (fun d => decide (0 < d))) }
  else s.putRule 0xC00 i (s.ruleBytes i)

/-- ACTIVE_RULE_COPY (R500). -/
def ruleCopy (s : State) : State :=
  if s.pdOn 1 && s.isF hznBase F.HZN_RULE_CMD_BUSY then
    let s1 := ((List.range 64).foldl State.commitRule s).showFired.setF hznBase F.HZN_RULE_CMD_BUSY 0
    match s1.takenOp 0x0D01 with
    | some t => s1.finish t.id 0 []
    | none => s1
  else s

/-- The meaning of ACTIVE_RULE_COPY. -/
def execActiveRuleCopy (s : State) : Host.Outcome State Fault Refusal := .next (ruleCopy s)

/-- HZN_RULE_WRITE (R435, R492): the records go to the staged copy, which is then committed. -/
def ruleWriteEff (t : Taken) (s : State) : State :=
  let first := t.fld 0 1
  let n := t.fld 1 1
  let recs := (List.range n).map (fun (i : Nat) => slice t.par (4 + 16 * i) 16)
  if !t.ok (4 + 16 * n) [(2, 2)] || decide (n = 0) || decide (64 < first + n) || !recs.all hzRecOk then s.fail t 0x0201
  else
    let s1 := (List.range n).foldl (fun st i => st.putRule 0xC00 (first + i) (recs.getD i [])) s
    (ruleCommit s1).goesOn t

/-- The meaning of HZN_RULE_WRITE. -/
def execHznRuleWrite (s : State) : Host.Outcome State Fault Refusal := .next (s.hostCmd 0x0D01 ruleWriteEff)

/-- HZN_RULE_READ: the active records. -/
def ruleReadEff (t : Taken) (s : State) : State :=
  let first := t.fld 0 1
  let n := t.fld 1 1
  if !t.ok 2 [] || decide (n = 0) || decide (64 < first + n) then s.fail t 0x0201
  else s.finish t.id 0 ((List.range n).flatMap (fun (i : Nat) => s.ruleBytes (first + i)))

/-- The meaning of HZN_RULE_READ. -/
def execHznRuleRead (s : State) : Host.Outcome State Fault Refusal := .next (s.hostCmd 0x0D02 ruleReadEff)

/-- HZN_STATUS: risk, level and the filtered values. -/
def hznStatusEff (t : Taken) (s : State) : State :=
  if !t.ok 0 [] then s.fail t 0x0201
  else
    s.finish t.id 0 (leBytes 1 (s.getF hznBase F.HZN_RISK_RISK) ++ leBytes 1 (s.getF hznBase F.HZN_RISK_LEVEL) ++ leBytes 2 0
      ++ (List.range 64).flatMap (fun (c : Nat) => leBytes 4 (s.getF hznBase (F.HZN_CH_VAL_F.idx (0x10 * c)))))

/-- The meaning of HZN_STATUS. -/
def execHznStatus (s : State) : Host.Outcome State Fault Refusal := .next (s.hostCmd 0x0D03 hznStatusEff)

end Sys2Proof.Machine
end

