-- ==== Sys2Proof/Machine/Lms.lean ====
section
/-! DEFINITION. Verification of a single LMS signature (R537, R538), as RFC 8554 gives it, with SHA-256 and the parameter sets of Table 18.2.
Strings are big-endian there (R8). -/

namespace Sys2Proof.Machine

/-- A big-endian number. -/
def beNat (l : List Byte) : Nat := leNat l.reverse

/-- Tree height of an LMS type code (Table 18.2). -/
def lmsHeight (ty : Nat) : Option Nat := if ty = 6 then some 10 else if ty = 7 then some 15 else if ty = 8 then some 20 else none

/-- Winternitz width and number of chains of an LM-OTS type code. -/
def otsWidth (ty : Nat) : Option (Nat × Nat) := if ty = 3 then some (4, 67) else if ty = 4 then some (8, 34) else none

/-- Length of a signature with tree height h and p chains (R537). -/
def sigLen (h p : Nat) : Nat := 4 + (36 + 32 * p) + 4 + 32 * h

/-- A public key: LMS type, LM-OTS type, identifier and root. -/
structure LmsKey where
  ty : Nat
  ots : Nat
  ident : List Byte
  root : List Byte
deriving DecidableEq, Repr

/-- A public key from its 56 bytes. -/
def lmsKey (l : List Byte) : LmsKey := ⟨beNat (slice l 0 4), beNat (slice l 4 4), slice l 8 16, slice l 24 32⟩

/-- coef of RFC 8554: element i of width w of a string. -/
def otsCoef (s : List Byte) (i w : Nat) : Nat :=
  let per := 8 / w
  ((s.getD (i / per) 0).toNat / 2 ^ (w * (per - 1 - i % per))) % 2 ^ w

/-- The message hash followed by its checksum, 2 bytes. -/
def otsDigits (h : List Byte) (w : Nat) : List Byte :=
  let sum := sumN (256 / w) (fun i => 2 ^ w - 1 - otsCoef h i w)
  h ++ beBytes 2 (sum * (if w = 4 then 16 else 1))

/-- Chain i advanced from element a by n steps. -/
def otsChain (pre : List Byte) (i : Nat) : Nat → Nat → List Byte → List Byte
  | 0, _, t => t
  | n + 1, a, t => otsChain pre i n (a + 1) (sha256 (pre ++ beBytes 2 i ++ beBytes 1 a ++ t))

/-- The LM-OTS public key candidate of a signature (RFC 8554, Algorithm 4b). -/
def otsCandidate (ident : List Byte) (q w p : Nat) (c : List Byte) (y : List Byte) (msg : List Byte) : List Byte :=
  let pre := ident ++ beBytes 4 q
  let dg := otsDigits (sha256 (pre ++ beBytes 2 0x8181 ++ c ++ msg)) w
  let z := (List.range p).flatMap (fun (i : Nat) =>
    let a := otsCoef dg i w
    otsChain pre i (2 ^ w - 1 - a) a (slice y (32 * i) 32))
  sha256 (pre ++ beBytes 2 0x8080 ++ z)

/-- The tree walked from a node to its root. -/
def lmsClimb (ident : List Byte) (path : List Byte) : Nat → Nat → Nat → List Byte → List Byte
  | 0, _, _, t => t
  | n + 1, node, i, t =>
    let sib := slice path (32 * i) 32
    let pre := ident ++ beBytes 4 (node / 2) ++ beBytes 2 0x8383
    lmsClimb ident path n (node / 2) (i + 1) (sha256 (if node % 2 = 1 then pre ++ sib ++ t else pre ++ t ++ sib))

/-- The types of key and signature are accepted and agree, and the signature has their length (R537, R538). -/
def lmsTypesOk (key sig : List Byte) : Bool :=
  let k := lmsKey key
  match lmsHeight k.ty, otsWidth k.ots with
  | some h, some (_, p) =>
    decide (key.length = 56) && decide (beNat (slice sig 4 4) = k.ots) && decide (sig.length = sigLen h p)
      && decide (beNat (slice sig (40 + 32 * p) 4) = k.ty)
  | _, _ => false

/-- A signature verifies over a message under a public key (RFC 8554, Algorithm 6a). -/
def lmsVerify (key sig msg : List Byte) : Bool :=
  let k := lmsKey key
  match lmsHeight k.ty, otsWidth k.ots with
  | some h, some (w, p) =>
    let q := beNat (slice sig 0 4)
    let kc := otsCandidate k.ident q w p (slice sig 8 32) (slice sig 40 (32 * p)) msg
    let leaf := sha256 (k.ident ++ beBytes 4 (2 ^ h + q) ++ beBytes 2 0x8282 ++ kc)
    lmsTypesOk key sig && decide (q < 2 ^ h) && decide (lmsClimb k.ident (sig.drop (44 + 32 * p)) h (2 ^ h + q) 0 leaf = k.root)
  | _, _ => false

end Sys2Proof.Machine
end

