-- ==== Sys2Proof/Machine/Postmark.lean ====
section
/-! DEFINITION. The Postmark Log's writer and its commands (R504 to R510, R433). -/

namespace Sys2Proof.Machine

/-- The root key in effect (R541): that of the running image; none under the boot ROM. -/
def State.rootKey (s : State) : Option (List Byte) := if s.store.running.isEmpty then none else some (slice s.store.running 64 56)

/-- The 8 bytes of SERIAL. -/
def serialBytes : List Byte := leBytes 8 Config.serialFuse.toNat

/-- Nonce number n (R433): a free value, but other than the one before it, since each successful clear and each entry to BOOT changes the nonce (log
entry 45). -/
def nonceAt : Nat → List Byte
  | 0 => padTo 16 (Config.clearNonce 0)
  | n + 1 =>
    let x := padTo 16 (Config.clearNonce (n + 1))
    if x = nonceAt n then setAt x 0 (x.getD 0 0 + 1) else x

/-- CLEAR_NONCE (R433). -/
def State.clearNonce (s : State) : List Byte := nonceAt s.pml.nonce

/-- Records in both stores. -/
def State.pmRecords (s : State) : Nat := s.pml.slots.length + s.pml.words.length

/-- A record goes to the store that is reachable (R506, R507). -/
def State.pmWrite (s : State) (p : PmSub) : State := if s.pmPrimary then s.pmCommit p else s.pmWord p

/-- A clear with no record ahead of it (R509): every record of both stores is erased, a CLEAR record is written, and the nonce changes.
Records submitted after it stay in the queue. -/
def State.pmClearRun (s : State) : State :=
  match s.pml.clear with
  | some (id, ahead) =>
    if ahead = 0 then
      let n := s.pmRecords
      let s1 := { s with pml := { s.pml with
        slots := [], pinned := none, words := [], wordNext := 0, clear := none, nonce := s.pml.nonce + 1 } }
      (s1.pmWrite ⟨0x8, s.pmSource, false, 0, 0, n, []⟩).finish id 0 []
    else s
  | none => s

/-- The first phase of a commit begins: the oldest queued record's bytes go into its slot of the primary store, which holds no valid record from then on
until the commit entry is written (R505, R506). -/
def State.pmBegin (s : State) : State :=
  if s.pml.queue.isEmpty || !s.pmPrimary then s
  else { s with pml := { s.pml with slots := s.pml.slots.filter (fun e => decide (e.1 ≠ s.pmSlot)), begun := true } }

/-- POSTMARK_COMMIT (R505, R506): both phases of the oldest record's commit, or what is left of them, end. -/
def pmStep (s : State) : State :=
  match s.pml.queue with
  | p :: q =>
    let clear := s.pml.clear.map (fun (c : Nat × Nat) => (c.1, c.2 - 1))
    (({ s with pml := { s.pml with queue := q, clear := clear, begun := false } }.pmWrite p)).pmClearRun
  | [] => s.pmClearRun

/-- The meaning of POSTMARK_COMMIT. -/
def execPostmarkCommit (s : State) : Host.Outcome State Fault Refusal := .next (if s.isIn [.off] then s else pmStep s)

/-- Record i of a store: 256 zero bytes where the slot holds none, or the primary store is not reachable (R510; log entry 43). -/
def State.pmRecord (s : State) (store i : Nat) : List Byte :=
  padTo 256 (if store = 0 then (if s.pmPrimary then SMap.get [] s.pml.slots i else [])
    else ((s.pml.words.find? (fun w => decide (w.1 = i))).map Prod.snd).getD [])

/-- PML_READ (R510). -/
def pmlReadEff (t : Taken) (s : State) : State :=
  let first := t.fld 0 2
  let n := t.fld 2 1
  let store := t.fld 3 1
  if !t.ok 4 [] || decide (n = 0) || decide (15 < n) || decide (1 < store) || decide ((if store = 0 then 8192 else 64) < first + n) then
    s.fail t 0x0201
  else s.finish t.id 0 ((List.range n).flatMap (fun (i : Nat) => s.pmRecord store (first + i)))

/-- The meaning of PML_READ. -/
def execPmlRead (s : State) : Host.Outcome State Fault Refusal := .next (s.hostCmd 0x0B01 pmlReadEff)

/-- PML_STATUS (R510, R433). -/
def pmlStatusEff (t : Taken) (s : State) : State :=
  if !t.ok 0 [] then s.fail t 0x0201
  else
    s.finish t.id 0 (leBytes 2 s.pml.slots.length ++ leBytes 2 s.pml.newest ++ leBytes 2 (s.pml.pinned.getD 0xFFFF)
      ++ leBytes 1 s.pml.words.length ++ leBytes 1 0 ++ leBytes 4 s.pml.bootCount ++ s.clearNonce)

/-- The meaning of PML_STATUS. -/
def execPmlStatus (s : State) : Host.Outcome State Fault Refusal := .next (s.hostCmd 0x0B02 pmlStatusEff)

/-- PML_CLEAR (R433, R509): the current nonce, signed with SERIAL under the root key in effect. -/
def pmlClearEff (t : Taken) (s : State) : State :=
  if !t.ok 16 [] then s.fail t 0x0201
  else
    let nonce := slice t.par 0 16
    let good := decide (nonce = s.clearNonce) && (match s.rootKey with
      | some k => lmsVerify k (t.par.drop 16) (nonce ++ serialBytes)
      | none => false)
    if good then
      let s1 := { s with pml := { s.pml with clear := some (t.id, s.pml.queue.length) } }
      (if s1.pml.queue.isEmpty then s1 else s1.goesOn t).pmClearRun
    else s.fail t 0x0702

/-- The meaning of PML_CLEAR. -/
def execPmlClear (s : State) : Host.Outcome State Fault Refusal := .next (s.hostCmd 0x0B03 pmlClearEff)

/-- SET_TIME (R433). -/
def setTimeEff (t : Taken) (s : State) : State :=
  if !t.ok 8 [] then s.fail t 0x0201
  else { s with pml := { s.pml with wall := some (t.fld 0 8, s.now) } }.finish t.id 0 []

/-- The meaning of SET_TIME. -/
def execSetTime (s : State) : Host.Outcome State Fault Refusal := .next (s.hostCmd 0x0B04 setTimeEff)

end Sys2Proof.Machine
end

