-- ==== Sys2Proof/Machine/Plan.lean ====
section
/-! DEFINITION. The plan loader's checks (R198 to R207, R220, R254, R287, R308) and what ARM writes (R222). -/

namespace Sys2Proof.Machine

/-- A failing record: section type, scope, record index. -/
abbrev PlanFail := Nat × Nat × Nat

/-- Records of a section; 0 where the plan has none. -/
def planCount (img : List Byte) (ty scope : Nat) : Nat := ((planSect img ty scope).map Sect.cnt).getD 0

/-- Blocks that some section names. -/
def planBlocks (img : List Byte) : List Nat := dedup ((planDirs img).filterMap (fun d => if d.scope < 256 then some d.scope else none))

/-- Records of a section that fail, by index. -/
def failRecs (img : List Byte) (ty scope : Nat) (bad : Nat → Bool) : List PlanFail :=
  ((List.range (planCount img ty scope)).filter bad).map (fun i => (ty, scope, i))

/-- Records of a block's section that fail, over all blocks. -/
def failBlocks (img : List Byte) (ty : Nat) (bad : Nat → Nat → Bool) : List PlanFail :=
  (planBlocks img).flatMap (fun b => failRecs img ty b (bad b))

/-! ## Checks 1 and 2 -/

/-- Check 1: header and trailer (R198, R200). -/
def check1 (img : List Byte) : List PlanFail :=
  let n := leAt img 8 4
  if decide (leAt img 0 4 = 0x4E414C50) && decide (leAt img 4 1 = 1) && decide (n = img.length) && decide (n % 64 = 0)
      && decide (64 ≤ n) && decide (n ≤ 67108864) && decide (leAt img (n - 4) 4 = crc32c (img.take (n - 4)))
  then [] else [(0, 0xFFFF, 0)]

/-- Table 7.2: scope is a block, record size (0: fixed by check 13), most records; none for a reserved type. -/
def sectRow (ty : Nat) : Option (Bool × Nat × Nat) :=
  match ty with
  | 1 => some (true, 1024, 1)
  | 2 => some (true, 16, 32)
  | 3 => some (true, 32, 65536)
  | 4 => some (true, 128, 4096)
  | 5 => some (true, 128, 4096)
  | 6 => some (true, 69632, 1)
  | 7 => some (true, 144, 16)
  | 8 => some (true, 0, 0)
  | 9 => some (true, 0, 0)
  | 0x10 => some (false, 8, 4194304)
  | 0x11 => some (false, 8, 16)
  | 0x12 => some (false, 32, 1024)
  | 0x13 => some (false, 64, 256)
  | 0x14 => some (false, 0, 0)
  | _ => none

/-- A directory entry that fails by itself. -/
def dirBad (img : List Byte) (d : Sect) : Bool :=
  let sects := leAt img 6 2
  match sectRow d.ty with
  | some (blk, size, most) =>
    !(if blk then decide (d.scope < 256) else decide (d.scope = 0xFFFF)) || decide (d.off % 64 ≠ 0) || decide (d.off < 64 + 16 * sects)
      || decide (img.length < d.off + d.len + 4) || (decide (size ≠ 0) && (decide (d.len ≠ d.cnt * size) || decide (most < d.cnt)))
  | none => true

/-- Two sections share bytes. -/
def sectsMeet (a b : Sect) : Bool := decide (a.off < b.off + b.len) && decide (b.off < a.off + a.len)

/-- Check 2: the directory (R199). An entry count outside 1 to 64, or a directory beyond the image, names the first entry at fault (log
entry 47). -/
def check2 (img : List Byte) : List PlanFail :=
  let n := leAt img 6 2
  if n = 0 then [(0, 0, 0)]
  else if 64 < n then [((planDir img 64).ty, (planDir img 64).scope, 64)]
  else if img.length < 64 + 16 * n + 4 then
    let i := (img.length - 68) / 16
    [((planDir img i).ty, (planDir img i).scope, i)]
  else
    ((List.range n).filter (fun (j : Nat) =>
      let d := planDir img j
      dirBad img d || ((List.range j).map (planDir img)).any (fun e =>
        (decide (e.ty = d.ty) && decide (e.scope = d.scope)) || sectsMeet e d))).map (fun j => ((planDir img j).ty, (planDir img j).scope, j))

/-! ## Checks 3 to 5 -/

/-- A kind of operation that exists (R112, R160, R229). -/
def kindKnown (k : Nat) : Bool := (decide (1 ≤ k) && decide (k ≤ 7)) || (decide (0x10 ≤ k) && decide (k ≤ 0x13)) || (decide (0x20 ≤ k) && decide (k ≤ 0x24))

/-- Check 3: indices. -/
def check3 (img : List Byte) : List PlanFail :=
  failBlocks img 2 (fun b c => decide (planCount img 3 b < (ctxHdr img b c).first + (ctxHdr img b c).count))
    ++ failBlocks img 3 (fun b i =>
      let w := opRec img b i
      kindKnown (opKind w) && (decide (planCount img 4 b ≤ opLoop w) || (opSlots w).any (fun k => decide (planCount img 5 b ≤ opDesc w k))))
    ++ failRecs img 0x13 0xFFFF (fun i =>
      let r := (planRec img 0x13 0xFFFF 64 i).getD []
      decide (4096 < leAt r 4 2 + leAt r 6 2))
    ++ failRecs img 0x12 0xFFFF (fun i =>
      let r := trkRec img i
      decide (4096 < leAt r 12 2 + leAt r 14 2))

/-- A PERM that reorders six dimensions (R162). -/
def permOk (w : Nat) : Bool :=
  let l := (List.range 6).map (cpPerm w)
  l.all (fun x => decide (x < 6)) && decide ((dedup l).length = 6)

/-- A reserved encoding in an operation record (R112, R160, R162, R229). Fields that the kind ignores are left out. -/
def opReserved (w : Nat) : Bool :=
  let k := opKind w
  let epi := decide (opPool w = 3) || decide (bits w 61 2 = 3) || decide (8 < opEscFrac w) || decide (opFunc w = 2) || decide (opFunc w = 3)
  if !kindKnown k then true
  else if k = 7 then false
  else if k < 0x10 then decide (4 < opKgroup w) || epi
  else if k < 0x12 then decide (opPath w = 3) || decide (4 < opKgroup w) || epi
  else if k < 0x20 then decide (opPath w = 3) || decide (4 < opKgroup w)
  else if k = 0x22 then !permOk w
  else if k = 0x23 then decide (cpAfmt w = 3)
  else false

/-- A reserved encoding in a loop descriptor or a binding in use, or a bound variable without a SHAPES record (Tables 7.5, 7.6). -/
def loopReserved (img l : List Byte) : Bool :=
  let n := leAt l 0 1 % 8
  let nb := leAt l 1 1 % 16
  decide (n = 0) || decide (n = 7) || decide (8 < nb)
    || (List.range n).any (fun (i : Nat) => decide (loopStep l i = 0) || (List.range 6).any (fun (k : Nat) => decide (loopMap l i k % 8 = 6)))
    || (List.range (min nb 8)).any (fun (k : Nat) =>
      let b := loopBind l k
      decide (b.var = 0) || decide (planCount img 0x11 0xFFFF ≤ b.var)
        || (if b.toLoop then decide (n ≤ b.whr) else decide (5 < b.whr) || decide (5 < b.dim)))

/-- A value holds no reserved encoding in the fields of the register at address a. -/
def imageOk (a v : Nat) : Bool := ((regDesc a).map (fun d => d.fields.all (fun f => f.allows (bits v f.lo f.width)))).getD true

/-- The CLAIMS record of a block, and register images in it (Table 7.3). -/
def claimsRec (img : List Byte) (b : Nat) : List Byte := (planRec img 1 b 1024 0).getD []
def clMac (r : List Byte) (m : Nat) : Nat := leAt r (2 * m) 2
def clCirc (r : List Byte) (i w : Nat) : Nat := leAt r (32 + 12 * i + 4 * w) 4
def clAtom (r : List Byte) : Nat := leAt r 224 4
def clRet (r : List Byte) : Nat := leAt r 228 4
def clOut (r : List Byte) (j w : Nat) : Nat := leAt r (232 + 8 * j + 4 * w) 4

/-- A reserved encoding in a CLAIMS record: of a macro's configuration, a valid region, or a valid retained window. -/
def claimsReserved (r : List Byte) : Bool :=
  (List.range 16).any (fun (m : Nat) => !imageOk (macBase 0) (clMac r m))
    || (List.range 16).any (fun (i : Nat) => (clCirc r i 0).testBit 31
      && (!imageOk (blkBase 0 + 0x10104) (clCirc r i 1) || !imageOk (blkBase 0 + 0x1010C) (clCirc r i 2)))
    || ((clRet r).testBit 31 && !imageOk (blkBase 0 + 0x10380) (clRet r))

/-- Check 4: reserved encodings. -/
def check4 (img : List Byte) : List PlanFail :=
  (if planStepSets img = 0 then [(0, 0xFFFF, 0)] else [])
    ++ failBlocks img 3 (fun b i => opReserved (opRec img b i))
    ++ failBlocks img 4 (fun b i => loopReserved img (loopRec img b i))
    ++ failBlocks img 1 (fun b _ => claimsReserved (claimsRec img b))
    ++ failBlocks img 7 (fun b i =>
      let r := (planRec img 7 b 144 i).getD []
      decide (15 < leAt r 0 1) || !imageOk (macBase 0 + 0x180) (leAt r 2 2))
    ++ failBlocks img 6 (fun b _ =>
      let r := (planRec img 6 b 69632 0).getD []
      (List.range 4).any (fun (i : Nat) => !imageOk (blkBase 0 + 0x50008) (leAt r (0x10008 + 0x400 * i) 4)))
    ++ failRecs img 0x11 0xFFFF (fun i =>
      decide (i ≠ 0) && (decide (2 ^ 31 ≤ shapeBound img i) || decide (shapeBound img i < shapeDefault img i)))

/-- (block, context) of every context with operations. -/
def planLists (img : List Byte) : List (Nat × Nat) := (planCtxs img).filter (fun e => decide (0 < (ctxHdr img e.1 e.2).count))

/-- Check 5: the operations of a chain group name one loop descriptor, and no list ends within a group (R210). -/
def check5 (img : List Byte) : List PlanFail :=
  (planLists img).flatMap (fun e =>
    let h := ctxHdr img e.1 e.2
    ((List.range h.count).filter (fun (n : Nat) =>
      let w := ctxOp img e.1 e.2 n
      if n + 1 = h.count then opChain w
      else opChain w && decide (opLoop (ctxOp img e.1 e.2 (n + 1)) ≠ opLoop w))).map (fun n =>
        (3, e.1, h.first + (if n + 1 = h.count then n else n + 1))))

/-! ## Checks 6 to 9 -/

/-- PREC, TWIN_ROLE, TWIN_FIRST and EN of a macro's configuration. -/
def cfgPrec (c : Nat) : Nat := c % 4
def cfgRole (c : Nat) : Nat := bits c 2 2
def cfgFirst (c : Nat) : Nat := bits c 4 4
def cfgEn (c : Nat) : Bool := c.testBit 8

/-- Macros in a forward and a twin set (Table 2.5). -/
def twinSizes (p : Nat) : Nat × Nat := if p = 0 then (4, 4) else if p = 1 then (2, 2) else if p = 2 then (1, 1) else (1, 2)

/-- The macros of a block from number f on hold a set of n macros with a role and partner, of one precision. -/
def setIs (r : List Byte) (f n role partner prec : Nat) : Bool :=
  decide (f + n ≤ 16) && (List.range n).all (fun (i : Nat) =>
    let c := clMac r (f + i)
    decide (cfgRole c = role) && decide (cfgFirst c = partner) && decide (cfgPrec c = prec))

/-- Macro m of a CLAIMS record with a role belongs to twin sets as Table 2.5 gives. -/
def twinOk (r : List Byte) (m : Nat) : Bool :=
  let c := clMac r m
  let p := cfgPrec c
  let (nf, nt) := twinSizes p
  if cfgRole c = 1 then
    let t := cfgFirst c
    let f := cfgFirst (clMac r t)
    setIs r f nf 1 t p && setIs r t nt 2 f p && decide (f ≤ m) && decide (m < f + nf)
  else if cfgRole c = 2 then
    let f := cfgFirst c
    let t := cfgFirst (clMac r f)
    setIs r f nf 1 t p && setIs r t nt 2 f p && decide (t ≤ m) && decide (m < t + nt)
  else true

/-- The precision of an operation: PREC of the lowest macro of its mask (R201). -/
def plannedPrec (img : List Byte) (b w : Nat) : Nat := cfgPrec (clMac (claimsRec img b) ((maskMacros (opMacros w)).headD 0))

/-- Every group of G macros lies wholly inside or outside the mask (R118). -/
def maskGroupsOk (mask g : Nat) : Bool :=
  (List.range 16).all (fun (m : Nat) => decide (mask.testBit m = mask.testBit (m / g * g)))

/-- Transposed kinds; kinds that compute with an input tensor; kinds that store D1. -/
def opTransposed (w : Nat) : Bool := decide (opKind w = 2) || decide (opKind w = 0x11)
def opComputes (w : Nat) : Bool := decide (opKind w = 1) || decide (opKind w = 2) || decide (opKind w = 0x10) || decide (opKind w = 0x11)
def opStores (w : Nat) : Bool := opComputes w || decide (opKind w = 6)

/-- Check 6 for one operation. -/
def cfgBad (img : List Byte) (b w : Nat) : Bool :=
  let r := claimsRec img b
  let ms := maskMacros (opMacros w)
  let p := plannedPrec img b w
  let d0 := descAt img b (opDesc w 0)
  let d1 := descAt img b (opDesc w 1)
  if opIsCopy w || decide (opKind w = 7) then false
  else
    ms.any (fun m => !cfgEn (clMac r m) || decide (cfgPrec (clMac r m) ≠ p))
      || !maskGroupsOk (opMacros w) (opG w)
      || (decide (opKgroup w ≠ 0) && (opTransposed w || decide (2 ≤ p)))
      || (opComputes w && decide (opZp w ≠ 0) && (opTransposed w || decide (2 ≤ p)))
      || (opComputes w && !decide (d0.fmt = 0 ∨ d0.fmt = 1 ∨ d0.fmt = 4 ∨ d0.fmt = 5))
      || (opStores w && !opChain w && decide (d1.fmt = 10)
        && (decide (opPool w ≠ 0) || opStats w || opRowSub w || opRowMul w || opChAffine w || decide (opFunc w ≠ 0)))

/-- Check 6. The two twin macros of a W1 set are checked as a set (Table 2.5); by which operation the block adds their outputs the spec does not
say, and the model gives the sum none of its own (DESIGN CHOICE, log entry 92). -/
def check6 (img : List Byte) : List PlanFail :=
  failBlocks img 3 (fun b i => cfgBad img b (opRec img b i))
    ++ failBlocks img 1 (fun b _ => (List.range 16).any (fun (m : Nat) => !twinOk (claimsRec img b) m))

/-- Check 7: the mask, and tile rows against pool rows. -/
def tileLimitBad (w : Nat) : Bool :=
  if opIsCopy w || decide (opKind w = 7) then false
  else decide (opMacros w = 0)
    || (!decide (opKind w = 0x12 ∨ opKind w = 0x13) && decide (opPool w ≠ 0) && decide (opRows w % opPoolRows w ≠ 0))

/-- Entries of a tile row on one macro: N in forward mode, 512 in transposed mode. -/
def opEntries (w prec : Nat) : Nat := if opTransposed w then 512 else precN prec
/-- T of R53: bytes of a tile on one macro. -/
def opTileBytes (w prec : Nat) : Nat := opRows w * opEntries w prec * (if opAcc24 w then 3 else 4)

/-- Check 8 for one operation. -/
def accCapBad (w prec : Nat) : Bool := opComputes w && decide (16384 < (opTileIdx w + 1) * opTileBytes w prec)

/-- Xmax and Wmax of R107. -/
def opXmax (fmt zp : Nat) : Nat :=
  if fmt = 4 ∨ fmt = 5 then 127
  else if fmt = 1 then (if zp = 0 then 8 else 15) else if zp = 0 then 128 else 255
def precWmax (p : Nat) : Nat := if p = 0 then 128 else if p = 1 then 8 else if p = 2 then 2 else 1

/-- The first operation of the chain group that holds operation n of a list. -/
def grpStart (img : List Byte) (b c : Nat) : Nat → Nat
  | 0 => 0
  | n + 1 => if opChain (ctxOp img b c n) then grpStart img b c n else n + 1

/-- The K of check 9 for operation n: what its group has reduced so far into its tile. -/
def groupK (img : List Byte) (b c n : Nat) : Nat :=
  let w := ctxOp img b c n
  let g := grpStart img b c n
  sumN (n + 1 - g) (fun i =>
    let v := ctxOp img b c (g + i)
    if opComputes v && decide (opTileIdx v = opTileIdx w) then (if opTransposed v then precN (plannedPrec img b v) else 512) else 0)

/-- Check 9: ACC24 within R107. -/
def check9 (img : List Byte) : List PlanFail :=
  (planLists img).flatMap (fun e =>
    let h := ctxHdr img e.1 e.2
    ((List.range h.count).filter (fun (n : Nat) =>
      let w := ctxOp img e.1 e.2 n
      opComputes w && opAcc24 w && decide (8388607 <
        groupK img e.1 e.2 n * opXmax (descAt img e.1 (opDesc w 0)).fmt (opZp w) * precWmax (plannedPrec img e.1 w)))).map (fun n =>
          (3, e.1, h.first + n)))

/-! ## Checks 10 to 12 -/

/-- A valid window of 64 B units that leaves the scratchpad. -/
def winBad (v : Nat) : Bool := v.testBit 31 && decide (bits v 0 13 ≤ bits v 16 13) && decide (0x17FF < bits v 16 13)

/-- Byte spans of the valid regions, and of the atomic and retained windows, of a CLAIMS record. -/
def circSpans (r : List Byte) : List (Nat × Nat) :=
  (List.range 16).filterMap (fun (i : Nat) =>
    let b := clCirc r i 0
    let c := clCirc r i 1
    if b.testBit 31 then some (64 * bits b 0 13, 64 * bits b 0 13 + 64 * bits c 0 10 * bits c 16 10) else none)
def otherSpans (r : List Byte) : List (Nat × Nat) :=
  (if (clAtom r).testBit 31 then [(64 * bits (clAtom r) 0 13, 64 * bits (clAtom r) 16 13 + 64)] else [])
    ++ (if (clRet r).testBit 31 then [(64 * bits (clRet r) 0 13, 64 * bits (clRet r) 0 13 + 1024 * bits (clRet r) 16 7)] else [])

/-- Two spans share a byte. -/
def spansMeet (a b : Nat × Nat) : Bool := decide (a.1 < b.2) && decide (b.1 < a.2)

/-- Some pair of regions, or a region and another window, overlap (R156). -/
def spansClash : List (Nat × Nat) → List (Nat × Nat) → Bool
  | [], _ => false
  | a :: r, o => (r ++ o).any (spansMeet a) || spansClash r o

/-- Check 10: claims inside the scratchpad, aligned, free of overlaps. -/
def check10 (img : List Byte) : List PlanFail :=
  failBlocks img 2 (fun b c => winBad (ctxHdr img b c).win0 || winBad (ctxHdr img b c).win1)
    ++ failBlocks img 1 (fun b _ =>
      let r := claimsRec img b
      (circSpans r ++ otherSpans r).any (fun x => decide (0x60000 < x.2)) || winBad (clAtom r)
        || ((clRet r).testBit 31 && decide (clRet r % 16 ≠ 0)) || spansClash (circSpans r) (otherSpans r))

/-- Outbound entry j of block b with a target on this device (R201). -/
def outLocal (img : List Byte) (b j : Nat) : Option (Nat × Nat) :=
  let w := clOut (claimsRec img b) j 0
  if w.testBit 31 && !w.testBit 24 then some (w % 256, bits w 8 4) else none

/-- Every local outbound entry of the plan as (block, entry, target block, region). -/
def outLocals (img : List Byte) : List (Nat × Nat × Nat × Nat) :=
  (planClaims img).flatMap (fun b => (List.range 16).filterMap (fun (j : Nat) => (outLocal img b j).map (fun t => (b, j, t.1, t.2))))

/-- Region i of block b of a plan: valid and fed from outside, its source, its slots. -/
def regRemote (img : List Byte) (b i : Nat) : Bool :=
  (clCirc (claimsRec img b) i 0).testBit 31 && (clCirc (claimsRec img b) i 1).testBit 28
def regSrc (img : List Byte) (b i : Nat) : Nat := clCirc (claimsRec img b) i 2 % 512
def regSize (img : List Byte) (b i : Nat) : Nat := bits (clCirc (claimsRec img b) i 1) 16 10

/-- Check 11: the credit budget. -/
def check11 (img : List Byte) : List PlanFail :=
  let outs := outLocals img
  failBlocks img 1 (fun b _ =>
    outs.any (fun o => decide (o.1 = b)
      && (!regRemote img o.2.2.1 o.2.2.2 || decide (regSrc img o.2.2.1 o.2.2.2 ≠ b)
        || decide (regSize img o.2.2.1 o.2.2.2 ≠ clOut (claimsRec img b) o.2.1 1 % 1024)
        || decide (1 < (outs.filter (fun x => decide (x.2.2 = o.2.2))).length)))
      || (List.range 16).any (fun (i : Nat) => regRemote img b i && decide (regSrc img b i < 256)
        && !outs.any (fun o => decide (o.1 = regSrc img b i) && decide (o.2.2 = (b, i)))))

/-- A WEIGHTS record (R205). -/
structure WRec where
  id : Nat
  first : Nat
  count : Nat
  sha : List Byte
deriving DecidableEq, Repr

/-- WEIGHTS record i, and all of them. -/
def wRec (img : List Byte) (i : Nat) : WRec :=
  let r := (planRec img 0x13 0xFFFF 64 i).getD []
  ⟨leAt r 0 4, leAt r 4 2, leAt r 6 2, slice r 8 32⟩
def wRecs (img : List Byte) : List WRec := (List.range (planCount img 0x13 0xFFFF)).map (wRec img)

/-- Check 12: the weight images. -/
def check12 (imgs : List ImgRec) (img : List Byte) : List PlanFail :=
  failRecs img 0x13 0xFFFF (fun i =>
    let w := wRec img i
    !imgs.any (fun r => decide (r.kind = 0 ∧ r.id = w.id ∧ r.sha = w.sha ∧ r.first = w.first ∧ r.count = w.count))
      || ((wRecs img).take i).any (fun x => decide (x.first < w.first + w.count) && decide (w.first < x.first + x.count)))

/-! ## Check 13: CIRRUS, SPARSE, SCHEDULE -/

/-- The CIRRUS record of a block; the SPARSE record of a block; word w of its binding i. -/
def cirRec (img : List Byte) (b : Nat) : List Byte := (planRec img 8 b 160 0).getD []
def spRec (img : List Byte) (b : Nat) : List Byte := (planRec img 9 b 320 0).getD []
def spBind (r : List Byte) (i w : Nat) : Nat := leAt r (64 + 16 * i + 4 * w) 4
def hasCirrus (img : List Byte) (b : Nat) : Bool := decide (0 < planCount img 8 b)

/-- Blocks whose section of a type fails as a whole. -/
def failSects (img : List Byte) (ty : Nat) (bad : Nat → Sect → Bool) : List PlanFail :=
  (planBlocks img).flatMap (fun b => match planSect img ty b with
    | some d => if bad b d then [(ty, b, 0)] else []
    | none => [])

/-- Table 9.4, first row. -/
def cirSectBad (img : List Byte) (b : Nat) (d : Sect) : Bool :=
  let r := cirRec img b
  decide (d.cnt ≠ 1) || decide (d.len ≠ 160) || !imageOk (blkBase 0 + 0x30000) (leAt r 0 4) || !imageOk (blkBase 0 + 0x30018) (leAt r 24 4)
    || decide (toSigned 24 (leAt r 8 4) < toSigned 24 (leAt r 12 4))

/-- Table 9.4, second row: PRED, and the neurons that enabled maps name. -/
def cirOps (img : List Byte) : List PlanFail :=
  failBlocks img 3 (fun b i =>
    let w := opRec img b i
    decide (0x10 ≤ opKind w ∧ opKind w < 0x20) && opPred w
      && (!decide (opKind w = 0x10 ∨ opKind w = 0x12) || planTraining img || !hasCirrus img b))
    ++ failSects img 8 (fun b _ => (List.range 16).any (fun (m : Nat) =>
      let v := leAt (cirRec img b) (32 + 4 * m) 4
      v.testBit 15 && decide (255 < v % 256 + (precN (cfgPrec (clMac (claimsRec img b) m)) - 1) / 2 ^ bits v 8 3)))

/-- Table 9.4, third row. -/
def cirImages (imgs : List ImgRec) (img : List Byte) : List PlanFail :=
  failSects img 8 (fun b _ =>
    let r := cirRec img b
    !imgs.any (fun e => decide (e.kind = 1 ∧ e.id = leAt r 96 4 ∧ e.sha = slice r 104 32 ∧ e.first ≤ b ∧ b < e.first + e.count)))

/-- Fields of a binding (Table 8.6). -/
def bdDesc (w0 : Nat) : Nat := w0 % 4096
def bdFmt (w0 : Nat) : Nat := bits w0 12 2
def bdValid (w0 : Nat) : Bool := w0.testBit 15
def bdDir (w0 : Nat) : Nat := bits w0 16 12
def bdEfmt (w0 : Nat) : Nat := bits w0 28 4
def bdTr (w1 : Nat) : Nat := w1 % 32 + 1
def bdTc (w1 : Nat) : Nat := 64 * 2 ^ bits w1 5 2

/-- x rounded up to a multiple of 64. -/
def padTo64 (x : Nat) : Nat := ceilDiv x 64 * 64

/-- Units, index length and value length of a tile of a format with `stored` units (R223, R224). -/
def fullUnits (fmt rows cols : Nat) : Nat := if fmt = 0 then rows / 8 * (cols / 8) else if fmt = 2 then rows / 16 * (cols / 16) else rows * cols
def indexLen (fmt rows cols stored : Nat) : Nat :=
  let bm := ceilDiv (fullUnits fmt rows cols) 64 * 8
  if fmt = 0 then bm else if fmt = 2 then bm + 2 * stored else rows * cols / 64 + stored
def storedElems (fmt stored : Nat) : Nat := if fmt = 0 then 64 * stored else if fmt = 2 then 256 * stored else stored
def fullTileLen (fmt efmt rows cols stored : Nat) : Nat :=
  64 + padTo64 (indexLen fmt rows cols stored) + padTo64 (ceilDiv (storedElems fmt stored * fmtBits efmt) 8)

/-- An element format a tile may have (Table 8.1). -/
def efmtOk (e : Nat) : Bool := decide (e = 0) || decide (e = 1) || decide (e = 2) || decide (e = 4) || decide (e = 5)

/-- Table 8.8, first row. -/
def spSectBad (img : List Byte) (b : Nat) (d : Sect) : Bool :=
  let r := spRec img b
  decide (d.cnt ≠ 1) || decide (d.len ≠ 320) || (List.range 16).any (fun (i : Nat) =>
    let w0 := spBind r i 0
    bdValid w0 && (decide (bdFmt w0 = 3) || !efmtOk (bdEfmt w0) || (decide (bdFmt w0 = 0) && decide (bdTr (spBind r i 1) % 8 ≠ 0))
      || (decide (bdFmt w0 = 2) && decide (bdTr (spBind r i 1) % 16 ≠ 0))))

/-- Table 8.8, second row: sparse operations. -/
def spOps (img : List Byte) : List PlanFail :=
  failBlocks img 3 (fun b i =>
    let w := opRec img b i
    let m := (maskMacros (opMacros w)).headD 0
    let c := clMac (claimsRec img b) m
    decide (0x10 ≤ opKind w ∧ opKind w < 0x20)
      && (decide ((maskMacros (opMacros w)).length ≠ 1) || decide (opKgroup w ≠ 0) || decide (cfgPrec c = 3) || decide (cfgRole c ≠ 0)
        || (wRecs img).any (fun x => decide (x.first ≤ 16 * b + m) && decide (16 * b + m < x.first + x.count))))

/-- Table 8.8, third row: bindings. -/
def spBinds (img : List Byte) : List PlanFail :=
  failSects img 9 (fun b _ =>
    let r := spRec img b
    let vs := (List.range 16).filter (fun (i : Nat) => bdValid (spBind r i 0))
    vs.any (fun i =>
      let w0 := spBind r i 0
      let rows := bdTr (spBind r i 1)
      let cols := bdTc (spBind r i 1)
      vs.any (fun k => decide (k ≠ i) && decide (bdDesc (spBind r k 0) = bdDesc w0))
        || decide (64 * (spBind r i 3 % 65536) < fullTileLen (bdFmt w0) (bdEfmt w0) rows cols (fullUnits (bdFmt w0) rows cols))))

/-- Table 10.5, first row. The reserved encodings are those of KIND and, in a BIST record, bits [15:10] of the selector (R555). -/
def schSect (img : List Byte) : List PlanFail :=
  match planSect img 0x14 0xFFFF with
  | some d =>
    if d.len ≠ 16 * d.cnt ∨ 1024 < d.cnt then [(0x14, 0xFFFF, 0)]
    else failRecs img 0x14 0xFFFF (fun i =>
      let r := schedRec img i
      decide (r.kind = 0) || decide (10 < r.kind) || decide (2 ^ r.every ≤ r.slotMod)
        || (decide (r.kind = 7) && decide (bits r.arg1 10 6 ≠ 0)))
  | none => []

/-- Table 10.5, second row. -/
def schAdmit (img : List Byte) : List PlanFail :=
  failRecs img 0x14 0xFFFF (fun i =>
    let r := schedRec img i
    decide (r.kind = 1) && (decide (r.every ≠ 0) || (List.range i).any (fun (k : Nat) => decide ((schedRec img k).kind = 1))))

/-- Table 10.5, third row. -/
def schArgs (img : List Byte) : List PlanFail :=
  failRecs img 0x14 0xFFFF (fun i =>
    let r := schedRec img i
    (decide (r.kind = 2) && (decide (255 < r.arg0)
      || (onesOf 32 r.arg1).any (fun c => !(ctxHdr img r.arg0 c).rep || decide ((ctxHdr img r.arg0 c).count = 0))))
      || (decide (r.kind = 5 ∨ r.kind = 6) && (decide (255 < r.arg0) || !hasCirrus img r.arg0)))

/-! ## The loader (R220) -/

/-- The checks of Table 7.8 in their order, each with its code and the records that fail it. -/
def planChecks (imgs : List ImgRec) (img : List Byte) : List (Nat × (Unit → List PlanFail)) :=
  [(0x401, fun _ => check1 img), (0x402, fun _ => check2 img), (0x403, fun _ => check3 img), (0x404, fun _ => check4 img),
   (0x405, fun _ => check5 img), (0x406, fun _ => check6 img), (0x407, fun _ => failBlocks img 3 (fun b i => tileLimitBad (opRec img b i))),
   (0x408, fun _ => failBlocks img 3 (fun b i => accCapBad (opRec img b i) (plannedPrec img b (opRec img b i)))), (0x409, fun _ => check9 img),
   (0x40A, fun _ => check10 img), (0x40B, fun _ => check11 img), (0x40C, fun _ => check12 imgs img),
   (0x420, fun _ => failSects img 8 (cirSectBad img)), (0x421, fun _ => cirOps img), (0x422, fun _ => cirImages imgs img),
   (0x430, fun _ => failSects img 9 (spSectBad img)), (0x431, fun _ => spOps img), (0x432, fun _ => spBinds img),
   (0x440, fun _ => schSect img), (0x441, fun _ => schAdmit img), (0x442, fun _ => schArgs img)]

/-- The first check that fails: its code and its failing records. -/
def firstFail : List (Nat × (Unit → List PlanFail)) → Option (Nat × List PlanFail)
  | [] => none
  | (c, f) :: r => match f () with
    | [] => firstFail r
    | l => some (c, l)

/-- A plan verified: none where it passes, else the code and the record named. Of several records that fail one check the spec does not say
which is named: a free one (log entry 48). -/
def State.verifyPlan (s : State) (img : List Byte) : Option (Nat × PlanFail) × State :=
  match firstFail (planChecks s.store.imgs img) with
  | some (c, l) =>
    let (x, s1) := s.takeFree
    (some (c, l.getD (x % l.length) (0, 0xFFFF, 0)), s1)
  | none => (none, s)

/-- The results of a loader failure. -/
def failBytes (f : PlanFail) : List Byte := leBytes 2 f.1 ++ leBytes 2 f.2.1 ++ leBytes 4 f.2.2

/-! ## What ARM writes (R222, R201, R202, R206, R253, R286) -/

/-- Registers of a list of (address, value) written by their access codes. -/
def State.writeAll (s : State) (l : List (Nat × Nat)) : State := l.foldl (fun st e => st.plainWrite e.1 e.2) s

/-- The last valid SPD_RET image of block b kept (R519). -/
def State.keepRet (s : State) (b v : Nat) : State :=
  if v.testBit 31 then { s with store := { s.store with retDir := SMap.set 0 s.store.retDir b v } } else s

/-- Scratchpad side of block b: claims, retained window and outbound credits. -/
def State.armSpd (s : State) (b : Nat) : State :=
  match planRec s.img 1 b 1024 0 with
  | some r =>
    if s.spdOn b then
      let base := blkBase b + 0x10000
      let s1 := s.writeAll ((List.range 16).flatMap (fun (i : Nat) =>
        [(base + 0x100 + 16 * i, clCirc r i 0), (base + 0x104 + 16 * i, clCirc r i 1), (base + 0x10C + 16 * i, clCirc r i 2)])
          ++ [(base + 0x300, clAtom r)])
      let s2 := if (s1.bx b).shop.isSome then s1 else (s1.plainWrite (base + 0x380) (clRet r)).keepRet b (clRet r)
      s2.giveCredits b
    else s
  | none => s

/-- Registers of Table 9.3 in the order of the record's images: offset in the block window, offset and width in the record. -/
def cirImgs : List (Nat × Nat × Nat) :=
  [(0x30000, 0, 4), (0x30004, 4, 2), (0x30008, 8, 4), (0x3000C, 12, 4), (0x30010, 16, 4), (0x30014, 20, 4), (0x30018, 24, 4), (0x3001C, 28, 4)]
    ++ (List.range 16).map (fun (m : Nat) => (0x30040 + 4 * m, 32 + 4 * m, 4))

/-- Compute side of block b: macros, contexts, post-unit tables, envelopes, Cirrus and sparse settings. A block without a section takes the
reset values of what that section sets (log entry 49). -/
def State.armCompute (s : State) (b : Nat) : State :=
  if s.compOn b then
    let base := blkBase b
    let n := planCount s.img 2 b
    let en := sumN (min n 32) (fun c => if 0 < (ctxHdr s.img b c).count then 2 ^ c else 0)
    let s1 := s.setReg base (BitVec.ofNat 32 en)
    let s2 := match planRec s.img 1 b 1024 0 with
      | some r => s1.writeAll ((List.range 16).map (fun (m : Nat) => (macBase (16 * b + m), clMac r m)))
      | none => s1
    let s3 := s2.writeAll ((List.range (min n 32)).flatMap (fun (c : Nat) =>
      let h := ctxHdr s.img b c
      [(base + 0x200 + 4 * c, h.prio), (base + 0x400 + 8 * c, h.win0), (base + 0x404 + 8 * c, h.win1)]))
    let s4 := match planRec s.img 6 b 69632 0 with
      | some r => s3.writeAll ((List.range 17408).map (fun (i : Nat) => (base + 0x40000 + 4 * i, leAt r (4 * i) 4)))
      | none => s3
    let envs := (List.range (planCount s.img 7 b)).map (fun (i : Nat) => (planRec s.img 7 b 144 i).getD [])
    let s5 := (List.range 16).foldl (fun st m =>
      let mb := macBase (16 * b + m)
      match envs.find? (fun r => decide (leAt r 0 1 = m)) with
      | some r => ((st.writeAll [(mb + 0x180, leAt r 2 2 % 8192)]).writeAll
          ((List.range 32).map (fun (i : Nat) => (mb + 0x600 + 4 * i, leAt r (16 + 4 * i) 4))))
      | none => (List.range 32).foldl (fun t i => t.setReg (mb + 0x600 + 4 * i) (regReset (mb + 0x600 + 4 * i))) st) s4
    let s6 := match planRec s.img 8 b 160 0 with
      | some r => s5.writeAll (cirImgs.map (fun e => (base + e.1, leAt r e.2.1 e.2.2)))
      | none => s5.setF base F.CIR_CFG_EN 0
    match planRec s.img 9 b 320 0 with
    | some r => s6.writeAll ([(base + 0x20040, leAt r 0 4), (base + 0x20044, leAt r 4 2)]
        ++ (List.range 64).map (fun (i : Nat) => (base + 0x20100 + 4 * i, leAt r (64 + 4 * i) 4)))
    | none =>
      ([0x20040, 0x20044] ++ (List.range 64).map (fun (i : Nat) => 0x20100 + 4 * i)).foldl (fun st o => st.setReg (base + o) (regReset (base + o))) s6
  else s

/-- Step 1 of R222. -/
def State.armWrite (s : State) : State := (List.range 256).foldl (fun st b => (st.armSpd b).armCompute b) s

end Sys2Proof.Machine
end

