-- ==== Sys2Proof/Machine/Trust.lean ====
section
/-! DEFINITION. Firmware images and their slots, the device identity and quotes, the debug lock and the test access port (R536 to R554). -/

namespace Sys2Proof.Machine

/-! ## The firmware image (R539, R540) -/

/-- VERSION, ROLLBACK, SIG_LEN and the DEBUG flag of a firmware image; 0 for an empty slot. -/
def fwVer (img : List Byte) : Nat := leAt img 4 4
def fwRoll (img : List Byte) : Nat := leAt img 8 4
def fwSigLen (img : List Byte) : Nat := leAt img 16 4
def fwDebug (img : List Byte) : Bool := (leAt img 20 4).testBit 0

/-- Check 1 of Table 18.4: the layout of Table 18.3. -/
def fwLayoutOk (img : List Byte) : Bool :=
  decide (leAt img 0 4 = 0x4D495746) && decide (fwVer img ≠ 0) && decide (fwRoll img ≤ 64) && decide (1 ≤ leAt img 12 4)
    && decide (leAt img 12 4 ≤ 4191232) && decide (img.length = 3072 + leAt img 12 4) && decide (fwSigLen img ≤ 2944)
    && decide (leAt img 20 4 < 2) && decide (leAt img 24 40 = 0) && decide (leAt img 120 8 = 0)

/-- The root key and the signature that an image carries. -/
def fwKey (img : List Byte) : List Byte := slice img 64 56
def fwSig (img : List Byte) : List Byte := slice img 128 (fwSigLen img)

/-- The checks of Table 18.4 in order against the root hash of the fuses and the fused counter: number and status of the first that fails. -/
def fwCheck (rootHash : List Byte) (fused : Nat) (img : List Byte) : Option (Nat × Nat) :=
  let h := padTo 32 rootHash
  if !fwLayoutOk img then some (1, 0x0201)
  else if h = List.replicate 32 0 ∨ sha256 (fwKey img) ≠ h then some (2, 0x0702)
  else if !lmsTypesOk (fwKey img) (fwSig img) then some (3, 0x0702)
  else if !lmsVerify (fwKey img) (fwSig img) (img.take 128 ++ img.drop 3072) then some (4, 0x0702)
  else if fwRoll img < fused then some (5, 0x0703)
  else none

/-- An image checked on this part. -/
def State.fwFails (s : State) (img : List Byte) : Option (Nat × Nat) := fwCheck Config.rootHashFuse s.store.rollback img

/-- A failed image check recorded in SEC_VERIFY_FAIL (R540). -/
def State.fwNote (s : State) (check status : Nat) (boot : Bool) : State :=
  ((s.setF secBase F.SEC_VERIFY_FAIL_STATUS status).setF secBase F.SEC_VERIFY_FAIL_CHECK check).setF secBase
    F.SEC_VERIFY_FAIL_AT_BOOT (b2n boot)

/-! ## Staging and activation (R542, R543) -/

/-- Every dirty KiB of block b's retained window copied to the shadow. -/
def State.windowSync (s : State) (b : Nat) : State :=
  let ks := s.dirtyKib b
  (ks.foldl (fun st _ => kibCopied st b) (s.setSpdShop b (some ⟨false, ks, 0⟩))).setSpdShop b none

/-- The claims of block b that FW_LOAD holds invalid. -/
def State.unclaim (s : State) (b : Nat) : State :=
  ((List.range 16).foldl (fun st i => st.setPtr b i F.SPD_CIRC_BASE_VALID 0) s).setF (blkBase b) F.SPD_ATOM_WIN_VALID 0

/-- Those claims rewritten from the installed plan. -/
def State.reclaim (s : State) (b : Nat) : State :=
  match planRec s.img 1 b 1024 0 with
  | some r =>
    s.writeAll ((List.range 16).map (fun (i : Nat) => (blkBase b + 0x10100 + 16 * i, clCirc r i 0)) ++ [(blkBase b + 0x10300, clAtom r)])
  | none => s

/-- The bulk phase of FW_LOAD begins: retained windows synchronised, claims held invalid. -/
def State.fwBegin (s : State) (t : Taken) : State :=
  let s1 := (List.range 16).foldl (fun st b => (st.windowSync b).unclaim b) s
  (s1.armIn t.id t.bulkLen).setTaken { t with stage := 1 }

/-- FW_LOAD (R417, R542): with PD20 off it waits for that domain. -/
def fwLoadEff (t : Taken) (s : State) : State :=
  if !t.okBulk 0 4194304 16 [(8, 8)] then s.fail t 0x0201
  else if s.pdOn 20 then (s.fwBegin t).goesOn t
  else ((s.powerUp 20).holdIn t.id).goesOn t

/-- The meaning of FW_LOAD. -/
def execFwLoad (s : State) : Host.Outcome State Fault Refusal := .next (s.hostCmd 0x0201 fwLoadEff)

/-- What the scratchpads of region 0 held is lost (R542): free values (log entry 46), with new check bits. -/
def State.lostRegion (s : State) : State :=
  let (n, s1) := (s.free, s.takeFree.2)
  let fresh := (List.range 16).foldl (fun (m : Mem) b =>
    (List.range 0x60000).foldl (fun (m : Mem) o => m.wr (0x80000 * b + o) (Config.lostByte n (0x80000 * b + o))) m) s1.mem.spd
  let s2 := { s1 with
      mem := { s1.mem with spd := fresh },
      flips := { s1.flips with spd := s1.flips.spd.filter (fun f => decide (16 ≤ f / 72 / 65536)) } }
  (List.range 16).foldl (fun st b => st.setBx b { st.bx b with gather := [] }) s2

/-- What ends FW_LOAD (R542): the retained windows of region 0 restored and the claims rewritten. -/
def State.fwRestore (s : State) : State := (List.range 16).foldl (fun st b => (st.windowRestore b).reclaim b) s.lostRegion

/-- FW_LOAD ends without a reply where its bulk phase is under way (R388). -/
def State.fwDrop (s : State) : State :=
  match s.takenOp 0x0201 with
  | some t => if t.stage = 1 then s.fwRestore else s
  | none => s

/-- The bulk phase of FW_LOAD has brought its last byte: an image that fails a check leaves any image staged before, and one that passes marks the
staged slot empty (step 1 of R542), to be written, read back and marked valid by `fwStage`. -/
def State.fwLoaded (s : State) (t : Taken) (img : List Byte) : State :=
  match s.fwFails img with
  | some (c, st) => ((s.fwNote c st false).fail t st).fwRestore
  | none => { s with store := { s.store with staged := [], staging := some (t.id, img) } }.setTaken { t with stage := 2 }

/-- Steps 2 to 4 of R542: the image is in the staged slot and valid, FW_LOAD is answered, the retained windows are restored and the claims rewritten. -/
def State.fwStage (s : State) : State :=
  match s.store.staging with
  | some (id, img) =>
    ({ s with store := { s.store with staged := img, staging := none } }.finish id 0 (leBytes 4 (fwVer img) ++ leBytes 4 (fwRoll img))).fwRestore
  | none => s

/-- FW_LOAD holds the claims of block b invalid, from the start of its bulk phase until the restore (R542). -/
def State.fwHolds (s : State) (b : Nat) : Bool :=
  decide (b < 16) && (s.store.staging.isSome || s.mail.taken.any (fun t => decide (t.op = 0x0201 ∧ t.stage = 1)))

/-- FW_ACTIVATE (R417, R543). -/
def fwActivateEff (t : Taken) (s : State) : State :=
  if !t.ok 0 [] then s.fail t 0x0201
  else if s.store.staged.isEmpty then s.fail t 0x0202
  else if fwRoll s.store.staged < s.store.rollback then (s.fwNote 5 0x0703 false).fail t 0x0703
  else
    let v := fwVer s.store.staged
    let s1 := { s with store := { s.store with active := s.store.staged, staged := [] } }
    (s1.pmSubmit ⟨0x9, s1.pmSource, false, 0, 0, v, []⟩).finish t.id 0 (leBytes 4 v)

/-- The meaning of FW_ACTIVATE. -/
def execFwActivate (s : State) : Host.Outcome State Fault Refusal := .next (s.hostCmd 0x0202 fwActivateEff)

/-- The measurement of an image (R539); zeros for none. -/
def fwMeasure (img : List Byte) : List Byte := if img.isEmpty then List.replicate 32 0 else sha256 img

/-- The measurement of the running image; zeros under the boot ROM. -/
def State.fwSha (s : State) : List Byte := fwMeasure s.fwImage

/-- FW_INFO. -/
def fwInfoEff (t : Taken) (s : State) : State :=
  if !t.ok 0 [] then s.fail t 0x0201
  else s.finish t.id 0 (leBytes 4 s.fwVersion ++ leBytes 4 (fwVer s.store.staged) ++ leBytes 4 (fwVer s.store.active) ++ s.fwSha)

/-- The meaning of FW_INFO. -/
def execFwInfo (s : State) : Host.Outcome State Fault Refusal := .next (s.hostCmd 0x0203 fwInfoEff)

/-! ## The device identity (R545 to R551) -/

/-- The device's identifier ID_I. -/
def idIdent : List Byte := padTo 16 Config.idI

/-- Secret element i of one-time key q. -/
def idElement (q i : Nat) : List Byte := padTo 32 (Config.otsElement Config.idSeed Config.idI q i)

/-- The LM-OTS public key of one-time key q (RFC 8554, Algorithm 1; W4, 67 chains of 15 steps). -/
def idOneTime (q : Nat) : List Byte :=
  let pre := idIdent ++ beBytes 4 q
  sha256 (pre ++ beBytes 2 0x8080 ++ (List.range 67).flatMap (fun (i : Nat) => otsChain pre i 15 0 (idElement q i)))

/-- Node r of the identity tree of height 15, n levels above its leaves (RFC 8554, section 5.3). -/
def idNode : Nat → Nat → List Byte
  | 0, r => sha256 (idIdent ++ beBytes 4 r ++ beBytes 2 0x8282 ++ idOneTime (r - 32768))
  | n + 1, r => sha256 (idIdent ++ beBytes 4 r ++ beBytes 2 0x8383 ++ idNode n (2 * r) ++ idNode n (2 * r + 1))

/-- The identity's public key in RFC 8554 byte order (R545): H15 and W4. -/
def idKey : List Byte := beBytes 4 7 ++ beBytes 4 3 ++ idIdent ++ idNode 15 1

/-- The LM-OTS signature of one-time key q over a message (RFC 8554, Algorithm 3): type code, randomizer and the 67 chain elements. -/
def idOtsSign (q : Nat) (msg : List Byte) : List Byte :=
  let pre := idIdent ++ beBytes 4 q
  let c := padTo 32 (Config.otsRandomizer Config.idSeed q msg)
  let dg := otsDigits (sha256 (pre ++ beBytes 2 0x8181 ++ c ++ msg)) 4
  beBytes 4 3 ++ c ++ (List.range 67).flatMap (fun (i : Nat) => otsChain pre i (otsCoef dg i 4) 0 (idElement q i))

/-- The siblings on the way from leaf q to the root. -/
def idPath (q : Nat) : List Byte :=
  (List.range 15).flatMap (fun (i : Nat) => let r := (32768 + q) / 2 ^ i; idNode i (if r % 2 = 1 then r - 1 else r + 1))

/-- The identity key's signature with index q (R538, R548; RFC 8554, section 5.4): 2,668 bytes that verify under GET_ID_KEY's key. -/
def idSign (q : Nat) (msg : List Byte) : List Byte := beBytes 4 q ++ idOtsSign q msg ++ beBytes 4 7 ++ idPath q

/-- GET_ID_KEY. -/
def getIdKeyEff (t : Taken) (s : State) : State :=
  if !t.ok 0 [] then s.fail t 0x0201 else s.finish t.id 0 (idKey ++ leBytes 4 (32768 - s.store.idNext))

/-- The meaning of GET_ID_KEY. -/
def execGetIdKey (s : State) : Host.Outcome State Fault Refusal := .next (s.hostCmd 0x0102 getIdKeyEff)

/-- Macro m holds image id (R532): its domain is on and its holding tag names the image. -/
def State.holds (s : State) (m id : Nat) : Bool := decide (m < 4096) && s.pdOn (4 + m / 256) && decide ((s.mx m).held = id + 1)

/-- Every macro of a WEIGHTS record holds its image. -/
def State.weightHeld (s : State) (w : WRec) : Bool := (List.range w.count).all (fun (i : Nat) => s.holds (w.first + i) w.id)

/-- Bytes 180 to 215 of a quote (R550): W_COUNT, W_HELD and W_DIGEST. -/
def State.quoteWeights (s : State) : List Byte :=
  if s.img.isEmpty then List.replicate 36 0
  else
    let ws := wRecs s.img
    let msg := (List.range ws.length).flatMap (fun (i : Nat) =>
      slice ((planRec s.img 0x13 0xFFFF 64 i).getD []) 0 40 ++ leBytes 1 (b2n (s.weightHeld (wRec s.img i))))
    leBytes 2 ws.length ++ leBytes 2 (ws.filter s.weightHeld).length ++ sha256 msg

/-- A group of a quote's fields, zeros where INCLUDE leaves it out (R549). -/
def grp (on : Bool) (l : List Byte) : List Byte := if on then l else List.replicate l.length 0

/-- The 32 bytes of the root hash of the fuses. -/
def rootHashBytes : List Byte := padTo 32 Config.rootHashFuse

/-- The debug byte of a quote. -/
def State.debugByte (s : State) : Nat :=
  s.getF secBase F.SEC_DEBUG_UNLOCK + 2 * s.getF secBase F.SEC_STAT_SINCE_BOOT + 4 * b2n Config.permLockFuse

/-- The body of a quote with signature index q (Table 18.5). -/
def State.quoteBody (s : State) (nonce : List Byte) (include_ q : Nat) : List Byte :=
  let i := include_ % 16
  let fw := if s.romServes then [] else s.store.running
  leBytes 4 0x544F5551 ++ leBytes 2 1 ++ leBytes 2 256 ++ serialBytes ++ leBytes 4 Config.chipId ++ leBytes 4 i ++ nonce
    ++ leBytes 4 s.pml.bootCount ++ grp (i.testBit 0) (leBytes 4 (fwVer fw) ++ leBytes 4 s.store.rollback)
    ++ leBytes 1 s.chip.st.code ++ leBytes 1 s.debugByte ++ leBytes 2 0 ++ leBytes 4 q ++ leBytes 4 (32767 - q)
    ++ grp (i.testBit 0) (fwMeasure fw ++ rootHashBytes)
    ++ grp (i.testBit 1) (leBytes 4 (planIdOf s.img) ++ (if s.img.isEmpty then List.replicate 32 0 else sha256 s.img))
    ++ grp (i.testBit 2) s.quoteWeights ++ grp (i.testBit 3) (leBytes 6 s.slotNo ++ leBytes 2 s.phase ++ leBytes 8 s.wallTime)
    ++ List.replicate 24 0

/-- The signer makes a quote (R546, R548): NEXT is committed first. -/
def State.quoteRun (s : State) (t : Taken) : State :=
  let q := s.store.idNext
  if 32768 ≤ q then s.fail t 0x0704
  else
    let s1 := { s with store := { s.store with idNext := q + 1 } }
    let body := s1.quoteBody (slice t.par 0 32) (t.fldFrom 32 4 0x101 0xFFFFFFFF) q
    (s1.addF secBase F.SEC_QUOTES_COUNT 1).finish t.id 0 (body ++ idSign q body)

/-- The commands that hold back a quote's sample (R551). -/
def State.quoteHeld (s : State) : Bool :=
  s.inProgress [0x0503, 0x0505, 0x0902, 0x0903, 0x0904, 0x0402, 0x0403, 0x0404, 0x0406, 0x0202]

/-- A QUOTE taken: quotes are made in the order in which they were taken (R547). -/
def quoteEff (t : Taken) (s : State) : State :=
  if !t.ok 32 [] then s.fail t 0x0201
  else if s.quoteHeld || s.mail.taken.any (fun x => decide (x.op = 0x0103 ∧ x.id ≠ t.id)) then s.goesOn t
  else s.quoteRun t

/-- The meaning of QUOTE: the oldest that waits is made once nothing holds it back, else one is taken. -/
def execQuote (s : State) : Host.Outcome State Fault Refusal :=
  .next (match s.takenOp 0x0103 with
    | some t => if s.quoteHeld then s.hostCmd 0x0103 quoteEff else s.quoteRun t
    | none => s.hostCmd 0x0103 quoteEff)

/-! ## The debug lock and the test access port (R552, R553, R566) -/

/-- A write of SEC_DEBUG by Casec firmware: UNLOCK 1 only with an image that may and without PERM_LOCK. -/
def secDebugWrite (s : State) (v : Nat) : State :=
  if bit v 0 then
    (if fwDebug s.fwImage && !Config.permLockFuse then
      (s.flagF secBase F.SEC_DEBUG_UNLOCK).flagF secBase F.SEC_STAT_SINCE_BOOT
    else s)
  else s.setF secBase F.SEC_DEBUG_UNLOCK 0

/-- The meaning of SEC_DEBUG_UNLOCK. -/
def execSecDebugUnlock (v : Nat) (s : State) : Host.Outcome State Fault Refusal :=
  .next (if s.pdOn 3 && !s.fwImage.isEmpty then secDebugWrite s v else s)

/-- The signal balls' levels (R566): while EXTEST, EXTEST_PULSE or EXTEST_TRAIN is the current instruction, the output balls follow their cells of the
boundary register (log entry 50), and what the device drives inside reaches no ball; else they have the device's own levels. -/
def State.balls (s : State) : Pins :=
  let cell := fun (i : Nat) => s.tap.boundary.testBit (Config.boundaryCell i)
  if 3 ≤ s.tap.ir then { s.pins with cadenceOut := cell 0, alertN := cell 1, mbxbsy := cell 2 } else s.pins

/-- The test access port takes an instruction while the part is powered; what it shifts out, and its boundary register. -/
def State.tapTake (s : State) (ir boundary out : Nat) : State :=
  if s.pins.pwrgood then { s with tap := ⟨ir, boundary, out⟩ } else s

/-- BYPASS: the pins are the device's own again. -/
def State.tapBypass (s : State) : State := s.tapTake 0 s.tap.boundary 0

/-- An instruction that loads the boundary register with v. What it captures from the signal balls is a free value: the spec gives neither
the order of the cells nor the levels at the balls (log entry 50). Under EXTEST, EXTEST_PULSE and EXTEST_TRAIN the pins follow the
boundary register. -/
def State.tapLoad (s : State) (ir v : Nat) : State :=
  let (x, s1) := s.takeFree
  s1.tapTake ir v x

/-- The meaning of BYPASS. -/
def execBypass (s : State) : Host.Outcome State Fault Refusal := .next s.tapBypass
/-- The meaning of IDCODE (R566): the port shifts out 0x9409_6BCF. -/
def execIdcode (s : State) : Host.Outcome State Fault Refusal := .next (s.tapTake 1 s.tap.boundary 0x94096BCF)
/-- The meaning of SAMPLE_PRELOAD. -/
def execSamplePreload (v : Nat) (s : State) : Host.Outcome State Fault Refusal := .next (s.tapLoad 2 v)
/-- The meaning of EXTEST. -/
def execExtest (v : Nat) (s : State) : Host.Outcome State Fault Refusal := .next (s.tapLoad 3 v)
/-- The meaning of EXTEST_PULSE. -/
def execExtestPulse (v : Nat) (s : State) : Host.Outcome State Fault Refusal := .next (s.tapLoad 4 v)
/-- The meaning of EXTEST_TRAIN. -/
def execExtestTrain (v : Nat) (s : State) : Host.Outcome State Fault Refusal := .next (s.tapLoad 5 v)

/-- Private instructions act: SEC_DEBUG.UNLOCK is 1. -/
def State.unlocked (s : State) : Bool := s.pdOn 3 && s.isF secBase F.SEC_DEBUG_UNLOCK

/-- The meaning of PRIVATE_INSTRUCTION (R552): BYPASS while debug is locked. What one does while it is unlocked the spec does not say. -/
def execPrivateInstruction (_code : Nat) (s : State) : Host.Outcome State Fault Refusal :=
  if s.unlocked then .refused .privateInstruction else .next s.tapBypass

end Sys2Proof.Machine
end

