-- ==== Sys2Proof/Machine/PlanCmd.lean ====
section
/-! DEFINITION. The plan commands (R200, R222, R435 to R439, Table 14.3): load, verify, arm, start, stop, drain and their readings. -/

namespace Sys2Proof.Machine

/-- PLAN_LOAD: the image comes in its bulk phase. -/
def planLoadEff (t : Taken) (s : State) : State :=
  if !t.okBulk 0 67108864 8 [] || decide (t.bulkLen % 64 ≠ 0) then s.fail t 0x0201 else (s.armIn t.id t.bulkLen).goesOn t

/-- The meaning of PLAN_LOAD. -/
def execPlanLoad (s : State) : Host.Outcome State Fault Refusal := .next (s.hostCmd 0x0501 planLoadEff)

/-- The bulk phase of PLAN_LOAD has brought its last byte (R436): the plan is staged, its contents unchecked. -/
def State.planLoaded (s : State) (t : Taken) (img : List Byte) : State :=
  { s with job := { s.job with staged := some img, verified := false } }.finish t.id 0 (sha256 img ++ leBytes 4 (planIdOf img))

/-- The staged plan verified; `some` is the state after a failure's reply (R436). -/
def State.planCheck (s : State) (t : Taken) (img : List Byte) : Option State × State :=
  match s.verifyPlan img with
  | (some (code, f), s1) =>
    let s2 := { s1 with job := { s1.job with verified := false } }
    (some (s2.finish t.id code (failBytes f)), s2)
  | (none, s1) => (none, { s1 with job := { s1.job with verified := true } })

/-- PLAN_VERIFY. -/
def planVerifyEff (t : Taken) (s : State) : State :=
  if !t.ok 0 [] then s.fail t 0x0201
  else
    match s.job.staged with
    | none => s.fail t 0x0410
    | some img => match s.planCheck t img with
      | (some u, _) => u
      | (none, u) => u.finish t.id 0 []

/-- The meaning of PLAN_VERIFY. -/
def execPlanVerify (s : State) : Host.Outcome State Fault Refusal := .next (s.hostCmd 0x0502 planVerifyEff)

/-! ## ARM (R222) -/

/-- Macros that a WEIGHTS record of the installed plan names, that are on and do not hold its image. -/
def State.unheld (s : State) : List Nat :=
  (wRecs s.img).flatMap (fun w =>
    ((List.range w.count).map (fun (i : Nat) => w.first + i)).filter (fun m => decide (m < 4096) && s.compOn (m / 16) && !s.holds m w.id))

/-- Step 3 of R222: ARMED. Where the plan is newly installed, the records of the slot that are past count as fired (R299); one armed again has fired
its own all along. -/
def State.armed (s : State) (t : Taken) : State :=
  let s1 := (s.goChip .armed).finish t.id 0 (leBytes 4 (planIdOf s.img) ++ leBytes 2 (t.aux.getD 1 0))
  if t.aux.getD 0 0 = 1 then { s1 with cad := { s1.cad with fired := [] } }.schedMark else s1

/-- PLAN_ARM goes on, `retired` naming a macro whose restore has just retired: those that still lack one are restored, and with none left the
device is ARMED. -/
def State.armGo (s : State) (retired : Option Nat) : State :=
  match s.takenOp 0x0503 with
  | some t =>
    let left := (t.aux.drop 2).filter (fun m => decide (some m ≠ retired) && s.compOn (m / 16))
    let s1 := s.setTaken { t with aux := t.aux.take 2 ++ left }
    if left.isEmpty then s1.armed t else left.foldl shadowRestore s1
  | none => s

/-- The staged plan is installed (R200): the one before is discarded, with the rings (R425) and what the job held. -/
def State.install (s : State) (img : List Byte) : State :=
  let s1 := s.discardPlan
  { s1 with
      img := img,
      job := { s1.job with staged := none, verified := false, stepBase := planStepBase img, inRing := none, outRing := none, j := 0 } }

/-- Steps 1 and 2 of R222 on the plan now installed; `fresh` says that this command installed it. -/
def State.armPlan (s : State) (t : Taken) (fresh : Bool) : State :=
  let s1 := { s with job := { s.job with recs := [] } }.trkReset.armWrite
  let ms := dedup s1.unheld
  ((s1.setTaken { t with aux := [b2n fresh, ms.length] ++ ms }).armGo none).goesOnIf t

/-- PLAN_ARM: the staged plan, or, with none staged, the installed one again without a verification. -/
def planArmEff (t : Taken) (s : State) : State :=
  if !t.ok 0 [] then s.fail t 0x0201
  else
    match s.job.staged with
    | some img =>
      if s.job.verified then (s.install img).armPlan t true
      else match s.planCheck t img with
        | (some u, _) => u
        | (none, u) => (u.install img).armPlan t true
    | none => if s.img.isEmpty then s.fail t 0x0410 else s.armPlan t false

/-- The meaning of PLAN_ARM. -/
def execPlanArm (s : State) : Host.Outcome State Fault Refusal := .next (s.hostCmd 0x0503 planArmEff)

/-! ## START, STOP and DRAIN (R437 to R439) -/

/-- PLAN_START: PENDING; the slot boundary does the rest. -/
def planStartEff (t : Taken) (s : State) : State :=
  if !t.ok 0 [] then s.fail t 0x0201 else { s with job := { s.job with startCmd := some t.id } }.replyPending t

/-- The meaning of PLAN_START. -/
def execPlanStart (s : State) : Host.Outcome State Fault Refusal := .next (s.hostCmd 0x0504 planStartEff)

/-- The entry to READY: Horizon's regions wake (R499). -/
def State.goReady (s : State) : State := ((s.goChip .ready).hznWake 0xFFFF).1

/-- STOP in ARMED discards the plan; in FAULTED the job alone, and the pinned fault no longer stands. -/
def State.stopNow (s : State) : State :=
  let s1 := (s.stopJob).dropRequest
  if s.chip.st = .armed then s1.discardPlan.goReady
  else { s1 with errs := { s1.errs with slot := none, pin := none } }.goReady

/-- PLAN_STOP: in RUNNING at the next slot boundary, else at once. -/
def planStopEff (t : Taken) (s : State) : State :=
  if !t.ok 0 [] then s.fail t 0x0201
  else if s.chip.st = .running then { s with job := { s.job with stopCmd := some t.id } }.replyPending t
  else
    let s1 := s.stopNow
    s1.finish t.id 0 (leBytes 2 s1.chip.st.code)

/-- The meaning of PLAN_STOP. -/
def execPlanStop (s : State) : Host.Outcome State Fault Refusal := .next (s.hostCmd 0x0505 planStopEff)

/-- PLAN_DRAIN: DRAINING at once (R437), where no ADMIT acts any more (R299; log entry 70); the reply follows the entry to ARMED. -/
def planDrainEff (t : Taken) (s : State) : State :=
  if !t.ok 0 [] then s.fail t 0x0201
  else (({ s with job := { s.job with drainCmd := some t.id } }.goChip .draining).completeSets).goesOnIf t

/-- The meaning of PLAN_DRAIN. -/
def execPlanDrain (s : State) : Host.Outcome State Fault Refusal := .next (s.hostCmd 0x0506 planDrainEff)

/-! ## Readings -/

/-- Step of the last admitted result set; 0 before the first. -/
def State.lastStepNo (s : State) : Nat := if s.job.j = 0 then 0 else s.stepOf (s.job.j - 1) s.job.lastAdmit

/-- PLAN_STATUS. -/
def planStatusEff (t : Taken) (s : State) : State :=
  if !t.ok 0 [] then s.fail t 0x0201
  else
    let st := s.job.staged.getD []
    let fl := b2n s.job.staged.isSome + 2 * b2n (s.job.staged.isSome && s.job.verified) + 4 * b2n (!s.img.isEmpty)
    s.finish t.id 0 (leBytes 4 (planIdOf s.img) ++ leBytes 4 (planIdOf st) ++ leBytes 1 fl ++ leBytes 3 0 ++ leBytes 4 s.lastStepNo
      ++ leBytes 6 s.job.lastAdmit ++ leBytes 6 s.job.lastDone ++ (if s.img.isEmpty then List.replicate 32 0 else sha256 s.img))

/-- The meaning of PLAN_STATUS. -/
def execPlanStatus (s : State) : Host.Outcome State Fault Refusal := .next (s.hostCmd 0x0507 planStatusEff)

/-- TRACKER_READ; a range beyond the installed plan's entries is out of range (log entry 51). -/
def trackerReadEff (t : Taken) (s : State) : State :=
  let first := t.fld 0 2
  let n := t.fld 2 2
  if !t.ok 4 [] || decide (n = 0) || decide (508 < n) || decide (s.job.trk.length < first + n) then s.fail t 0x0201
  else
    s.finish t.id 0 ((List.range n).flatMap (fun (i : Nat) =>
      let e := s.job.trk.getD (first + i) ⟨[], 0, 0⟩
      leBytes 3 (trkTid (trkRec s.img (first + i))) ++ leBytes 1 e.win.length ++ leBytes 4 e.clip.toNat))

/-- The meaning of TRACKER_READ. -/
def execTrackerRead (s : State) : Host.Outcome State Fault Refusal := .next (s.hostCmd 0x0508 trackerReadEff)

end Sys2Proof.Machine
end

