-- ==== Sys2Proof/Machine/Boot.lean ====
section
/-! DEFINITION. Start-up (R527 to R529, R541, R544), domains that become usable (R516 to R519), SLEEP and its wake (R520, R521, R411), and the
power commands (R419, R514). -/

namespace Sys2Proof.Machine

/-! ## Domains that become usable -/

/-- What Casec does for block b after its scratchpad domain wakes (R519): SPD_RET from the retained-window directory, the window restored, and
the claims of the installed plan. The restore ends within the step (log entry 55). -/
def State.spdWake (s : State) (b : Nat) : State :=
  let s1 := (s.setReg (blkBase b + 0x10380) (BitVec.ofNat 32 (SMap.get 0 s.store.retDir b))).windowRestore b
  s1.armSpd b

/-- What a compute domain does for block b at its wake (R518): the installed plan's images, then the saved registers; the restore of its macros
begins. -/
def State.compWake (s : State) (b : Nat) : State :=
  let s1 := (s.armCompute b).loadBlock b
  (blkMacros b).foldl (fun st m => st.shopStart m true []) s1

/-- Domain d becomes usable, with what its wake rewrites. -/
def State.domainReady (s : State) (d : Nat) : State :=
  let s1 := s.domainOn d
  if 4 ≤ d ∧ d < 20 then
    let s2 := (rgnBlocks (d - 4)).foldl State.compWake s1
    { s2 with power := { s2.power with restoring := s2.power.restoring ++ [d - 4] } }
  else if 20 ≤ d ∧ d < 36 then (rgnBlocks (d - 20)).foldl State.spdWake s1
  else if d = 36 ∨ d = 37 then { s1 with power := { s1.power with selfRef := false } }
  else s1

/-- A wake from SLEEP goes on (R521): PD02 after PD03, the verification after PD02, and READY once the recorded domains are on and
restored. -/
def State.wakeGo (s : State) : State :=
  if s.power.wake = 1 ∧ s.pdOn 3 = true then { s with power := { s.power with wake := 2 } }.powerUp 2
  else if s.power.wake = 2 ∧ s.pdOn 2 = true then { s with power := { s.power with wake := 3 } }
  else if s.power.wake = 4 ∧ s.power.plan = [] ∧ s.power.settling = [] ∧ s.power.restoring = [] then
    { s with power := { s.power with wake := 0 } }.goReady
  else s

/-- A PWR_SET that waited for Horizon's wakes (R514) begins. -/
def State.pwrSetGo (s : State) : State :=
  match s.takenOp 0x0302 with
  | some t =>
    if t.stage = 0 ∧ s.power.settling = [] ∧ s.power.plan = [] then
      match s.pwrPlan (t.fld 0 8) (t.fld 8 8) (some t.id) with
      | some u => u.setTaken { t with stage := 1 }
      | none => (s.flagF pwrBase F.PWR_STAT_DEP_ERR).fail t 0x0201
    else s
  | none => s

/-- Domain d is usable; a compute domain that was held in reset for it becomes usable with it (R514). -/
def State.domainUsable (s : State) (d : Nat) : State :=
  let s1 := s.domainReady d
  if 20 ≤ d ∧ d < 36 ∧ d - 16 ∈ s.power.held then s1.domainReady (d - 16) else s1

/-- DOMAIN_SETTLED (R516): a compute domain stays in reset until its scratchpad domain is on (R514), and no longer counts among the four that settle
(log entry 108). -/
def domainSettled (s : State) (d : Nat) : State :=
  if d ∈ s.power.settling then
    if 4 ≤ d ∧ d < 20 ∧ s.pdPow (d + 16) = false then
      (if d ∈ s.power.held then s else { s with power := { s.power with held := s.power.held ++ [d] } }).pwrGo
    else
      let s1 := s.domainUsable d
      let s2 := match s1.takenOp 0x0201 with
        | some t => if d = 20 ∧ t.stage = 0 then s1.fwBegin t else s1
        | none => s1
      ((s2.pwrGo).pwrSetGo).wakeGo
  else s

/-- The meaning of DOMAIN_SETTLED. -/
def execDomainSettled (d : Nat) (s : State) : Host.Outcome State Fault Refusal := .next (domainSettled s d)

/-! ## Start-up -/

/-- Milliseconds since BOOT was entered. -/
def State.bootMs (s : State) : State := s.setF chipBase F.CHIP_BOOT_TIME_MS (min ((s.now - s.power.bootAt) / 100000) 65535)

/-- FAULTED entered by the boot ROM (Table 13.9, Table 15.3): Casec's unit, with class 0x95 or 0x96 and epoch 0. -/
def State.romFault (s : State) (cls : Nat) : State :=
  { s with errs := { s.errs with pin := some (3 + 0x1220 * 4 + cls * 2 ^ 16, 1), rom := true } }.enterFaulted false

/-- Start-up ends at a failed stage (R528). The writer of BOOT records is the boot ROM (Table 16.7; log entry 56). -/
def State.bootFail (s : State) (stage status : Nat) : State :=
  ((s.setF chipBase F.CHIP_BOOT_FAIL stage).pmSubmit ⟨0x4, 2, true, 0, 0, status, []⟩).bootMs

/-- Start-up ends in FAULTED under firmware (R528, R569). The spec gives no class to pin: a free fault ID (log entry 53). -/
def State.testFail (s : State) (stage : Nat) : State :=
  let (x, s1) := (s.bootFail stage 0x0501).takeFree
  { s1 with errs := { s1.errs with pin := some (x % 2 ^ 64, 1), rom := false } }.enterFaulted false

/-- The boot ROM completes an advance record that it finds, and firmware blows the rollback fuses up to its own value through one (R544). -/
def State.rollTo (s : State) (r : Nat) : State := { s with store := { s.store with rollback := max s.store.rollback r, advance := none } }

/-- PGH_PROT as firmware programs it (R377). -/
def State.protPigeon (s : State) : State :=
  let rgn := fun (lo hi rd wr cmd : Nat) => BitVec.ofNat 32 (lo + hi * 2 ^ 16 + rd * 2 ^ 28 + wr * 2 ^ 29 + cmd * 2 ^ 30 + 2 ^ 31)
  let s1 := (s.setReg (pghBase + 0x20) (rgn 0 0xFFF 1 0 0)).setReg (pghBase + 0x24) (rgn 0 0xFFF 0 1 1)
  (List.range 6).foldl (fun st i => st.setReg (pghBase + 0x28 + 4 * i) 0) s1

/-- HZN_PROT as firmware programs it (R501): the SDIO engine reaches the event queue alone, the control DMA nothing. -/
def State.protHzn (s : State) : State :=
  let s1 := s.setReg (hznBase + 0x1040) (BitVec.ofNat 32 (0x1F0 + 0x1FF * 2 ^ 16 + 3 * 2 ^ 28 + 2 ^ 31))
  (List.range 15).foldl (fun st i => st.setReg (hznBase + 0x1044 + 4 * i) 0) s1

/-- Stage 5: the active slot verified (R541); `some` where start-up ends. Stage 6 begins with firmware that writes an advance record where its own
ROLLBACK is above the counter (step 1 of R544). -/
def State.bootVerify (s : State) : Option State × State :=
  let s1 := match s.store.advance with
    | some r => s.rollTo r
    | none => s
  match s1.fwFails s1.store.active with
  | some (c, st) => (some (((s1.fwNote c st true).bootFail 5 st).romFault 0x95), s1)
  | none =>
    let r := fwRoll s1.store.active
    (none, { s1 with store := { s1.store with
      running := s1.store.active, advance := if s1.store.rollback < r then some r else none } })

/-- Stage 6: firmware blows the counter up to its advance record and clears the record (steps 2 and 3 of R544), then programs what it owns (R377,
R501). -/
def State.bootFirmware (s : State) : State :=
  let s0 := match s.store.advance with
    | some r => s.rollTo r
    | none => s
  let s1 := (s0.protPigeon).protHzn
  s1.pmSubmit ⟨0x4, 2, false, 0, 0, 0, []⟩

/-- Stage 9: scratchpads, then compute, then every macro from the shadow (R529). -/
def State.bootRegions (s : State) : State :=
  let s1 := (List.range 16).foldl (fun st r => (rgnBlocks r).foldl State.spdWake (st.domainOn (20 + r))) s
  let s2 := (List.range 16).foldl (fun st r => st.domainOn (4 + r)) s1
  (List.range 4096).foldl State.restoreAll s2

/-- The slice of start-up has ended. -/
def State.bootTested (s : State) : Bool :=
  match s.bist.slice with
  | some q => decide (q.source = 0) && q.unreached.isEmpty && q.running.isEmpty
  | none => true

/-- Start-up is complete. -/
def State.bootDone (s : State) : State := ((s.setF chipBase F.CHIP_BOOT_STAGE 15).bootMs).goReady

/-- The stage in progress completes (Table 17.6); `ok` false says that HBM training failed in stage 7. -/
def State.stageEnd (s : State) (ok : Bool) : State :=
  let n := s.getF chipBase F.CHIP_BOOT_STAGE
  let next := fun (t : State) => t.setF chipBase F.CHIP_BOOT_STAGE (n + 1)
  if n = 1 then next s
  else if n = 2 then next (s.domainOn 1)
  else if n = 3 then next (s.domainOn 2)
  else if n = 4 then
    let s1 := { s with pml := { s.pml with bootCount := (s.pml.bootCount + 1) % 2 ^ 32 } }.domainOn 3
    if s.power.strapBoot = 2 then ((s1.setF chipBase F.CHIP_BOOT_STAGE 15).bootMs).romFault 0x96 else next s1
  else if n = 5 then (match s.bootVerify with
    | (some t, _) => t
    | (none, t) => next t)
  else if n = 6 then
    let s1 := s.bootFirmware
    if s.power.strapBoot = 1 then s1.bootDone else next s1
  else if n = 7 then (if ok then next ((s.domainReady 36).domainReady 37) else s.testFail 7)
  else if n = 8 then next ((s.domainOn 38).domainOn 39)
  else if n = 9 then (next s.bootRegions).sliceStart 0 Config.bistBootSel 0 none
  else if n = 10 ∧ s.bootTested = true then
    let bad := (s.bist.slice.map Slice.fatal).getD false
    let s1 := s.setSlice none
    if bad then s1.testFail 10 else s1.bootDone
  else s

/-- The meaning of START_UP_STAGE: in BOOT, while no reset holds the device. -/
def execStartUpStage (ok : Bool) (s : State) : Host.Outcome State Fault Refusal :=
  .next (if s.isIn [.boot] && s.cadLive then s.stageEnd ok else s)

/-! ## SLEEP (R411, R520, R521) -/

/-- With every other command answered and its reply written, SLEEP replies OK; it then holds the mailbox until the device sleeps. -/
def State.sleepReply (s : State) : State :=
  match s.mail.taken with
  | [t] => if t.op = 0x0303 ∧ t.stage = 0 ∧ s.mail.replies = [] then (s.queueReply t.op t.tag t.seq 0 []).setTaken { t with stage := 1 } else s
  | _ => s

/-- SLEEP. -/
def sleepEff (t : Taken) (s : State) : State :=
  if !t.ok 0 [] then s.fail t 0x0201
  else
    let s1 := s.sleepReply
    if (s1.takenBy t.id).map Taken.stage = some 0 then s1.goesOn t else s1

/-- The meaning of SLEEP. -/
def execSleep (s : State) : Host.Outcome State Fault Refusal := .next (s.hostCmd 0x0303 sleepEff)

/-- Macros that hold a dirty row. -/
def State.dirtyMacros (s : State) : Nat := ((List.range 4096).filter (fun (m : Nat) => s.compOn (m / 16) && s.anyDirty m)).length

/-- The domains that SLEEP switches off, in order (R520). -/
def sleepOrder : List Nat :=
  [39, 38, 37, 36] ++ (List.range 16).map (fun (i : Nat) => 19 - i) ++ (List.range 16).map (fun (i : Nat) => 35 - i) ++ [3, 2]

/-- SLEEP is entered, in the order of R520. -/
def State.sleepIn (s : State) : State :=
  let s1 := (s.setF pwrBase F.PWR_SLEEP_LO_ON s.on).setF pwrBase F.PWR_SLEEP_HI_ON (s.on / 2 ^ 32)
  let s2 := (s1.setF pwrBase F.PWR_SLEEP_STAT_DIRTY_LOST s.dirtyMacros).addF pwrBase F.PWR_SLEEP_STAT_SLEEPS 1
  let s3 := s2.discardPlan
  let s4 := { s3 with
      job := { s3.job with staged := none, verified := false }, power := { s3.power with selfRef := true },
      mail := { s3.mail with taken := [] } }
  (sleepOrder.foldl State.domainOff s4).goChip .sleep

/-- Every scratchpad domain that is on has all its credits back (R32). -/
def State.creditsHome (s : State) : Bool := (List.range 16).all (fun (r : Nat) => !s.pdOn (20 + r) || !s.creditsOut r)

/-- The meaning of SLEEP_ENTRY: SLEEP has replied and its reply stands in the ring. The entry waits as a whole until no credit against a
scratchpad domain is outstanding (R32; log entry 69). -/
def execSleepEntry (s : State) : Host.Outcome State Fault Refusal :=
  .next (match s.mail.taken with
    | [t] =>
      if t.op = 0x0303 ∧ t.stage = 1 ∧ s.mail.replies = [] ∧ s.chip.st = .ready ∧ s.power.settling = [] ∧ s.power.plan = []
          ∧ s.creditsHome = true then s.sleepIn
      else s
    | _ => s)

/-- The meaning of SDI_HOSTCTL_WAKE: the wake command of Table 1.12. -/
def execSdiHostctlWake (s : State) : Host.Outcome State Fault Refusal := .next s.wakeStart

/-- FIRMWARE_VERIFIED_AT_WAKE (R521): the boot ROM verifies the running firmware; PGH_PROT is programmed again, and the recorded domains
are switched on in ascending order. -/
def wakeVerified (s : State) : State :=
  if s.chip.st = .sleep ∧ s.power.wake = 3 then
    match s.fwFails s.store.running with
    | some (c, st) =>
      let s1 := { s with power := { s.power with wake := 0 } }
      ((s1.fwNote c st true).pmSubmit ⟨0x4, 2, true, 0, 0, st, []⟩).romFault 0x95
    | none =>
      let was := s.getF pwrBase F.PWR_SLEEP_LO_ON + 2 ^ 32 * s.getF pwrBase F.PWR_SLEEP_HI_ON
      let ds := (onesOf 40 was).filter (fun d => decide (4 ≤ d))
      let s1 := { s with power := { s.power with wake := 4, plan := ds.map (fun d => (d, true)), cmd := none } }
      ((s1.protPigeon).pwrGo).wakeGo
  else s

/-- The meaning of FIRMWARE_VERIFIED_AT_WAKE. -/
def execFirmwareVerifiedAtWake (s : State) : Host.Outcome State Fault Refusal := .next (wakeVerified s)

/-! ## Power commands (Table 14.3) -/

/-- PWR_SET (R419, R514): a request that breaks the rule switches nothing; while Horizon's wakes run it waits. -/
def pwrSetEff (t : Taken) (s : State) : State :=
  let mask := t.fld 0 8
  if !t.ok 16 [] || decide (mask % 16 ≠ 0) || decide (2 ^ 40 ≤ mask) then s.fail t 0x0201
  else if s.power.settling = [] ∧ s.power.plan = [] then
    match s.pwrPlan mask (t.fld 8 8) (some t.id) with
    | some u => (u.setTaken { t with stage := 1 }).goesOnIf t
    | none => (s.flagF pwrBase F.PWR_STAT_DEP_ERR).fail t 0x0201
  else s.goesOn t

/-- The meaning of PWR_SET. -/
def execPwrSet (s : State) : Host.Outcome State Fault Refusal := .next (s.hostCmd 0x0302 pwrSetEff)

/-- Domains that settle, or that a request has still to switch. -/
def State.changing (s : State) : Nat :=
  (List.range 40).foldl (fun n d => if d ∈ s.power.settling ∨ s.power.plan.any (fun e => decide (e.1 = d)) = true then n + 2 ^ d else n) 0

/-- PWR_STATE. -/
def pwrStateEff (t : Taken) (s : State) : State :=
  if !t.ok 0 [] then s.fail t 0x0201 else s.finish t.id 0 (leBytes 8 s.onMask ++ leBytes 8 s.changing)

/-- The meaning of PWR_STATE. -/
def execPwrState (s : State) : Host.Outcome State Fault Refusal := .next (s.hostCmd 0x0301 pwrStateEff)

end Sys2Proof.Machine
end

