-- ==== Sys2Proof/Machine/HostOps.lean ====
section
/-! DEFINITION. Session, cadence, data and Courier commands of the host (R393, R414 to R416, R423 to R431; Tables 14.2, 14.4 to 14.6), and the
steps that end macro and window copies. -/

namespace Sys2Proof.Machine

/-! ## Session (R393, R415, R416) -/

/-- The protocol versions spoken at stepping B1. -/
def spoken : List Nat := [0x100, 0x101, 0x200]

/-- The two bytes of a version. -/
def verBytes (v : Nat) : List Byte := leBytes 1 (v / 256) ++ leBytes 1 v

/-- The highest version that both lists hold; 0 for none. -/
def highestCommon (l : List Nat) : Nat := (spoken.filter (fun v => decide (v ∈ l))).foldl max 0

/-- HELLO (R393). -/
def helloEff (t : Taken) (s : State) : State :=
  let n := t.fld 0 1
  if !t.ok (4 + 2 * n) [(1, 3)] || decide (n = 0) || decide (8 < n) then s.fail t 0x0201
  else
    let v := highestCommon ((List.range n).map (fun (i : Nat) => 256 * t.fld (4 + 2 * i) 1 + t.fld (5 + 2 * i) 1))
    let res := leBytes 1 3 ++ verBytes v ++ leBytes 1 0 ++ spoken.flatMap verBytes
    if v = 0 then s.finish t.id 0x0101 res
    else
      let s1 := { s with mail := { s.mail with sess := true, ver := v, expSeq := (t.seq + 1) % 2 ^ 32, mask := 0xFFFFFFFF } }
      s1.finish t.id 0 res

/-- The meaning of HELLO. -/
def execHello (s : State) : Host.Outcome State Fault Refusal := .next (s.hostCmd 0x0001 helloEff)

/-- NEGOTIATE (R415). -/
def negotiateEff (t : Taken) (s : State) : State :=
  let v := 256 * t.fld 0 1 + t.fld 1 1
  if !t.ok 4 [(2, 2)] then s.fail t 0x0201
  else if ¬ v ∈ spoken then s.fail t 0x0101
  else
    { s with mail := { s.mail with ver := v, mask := t.fldFrom 4 4 0x101 0xFFFFFFFF ||| 2 } }.finish t.id 0 (verBytes v)

/-- The meaning of NEGOTIATE. -/
def execNegotiate (s : State) : Host.Outcome State Fault Refusal := .next (s.hostCmd 0x0002 negotiateEff)

/-- BYE (R416): the reply, and then the session is closed. -/
def byeEff (t : Taken) (s : State) : State :=
  if !t.ok 0 [] then s.fail t 0x0201
  else
    let s1 := s.finish t.id 0 []
    { s1 with mail := { s1.mail with sess := false, ver := 0 } }

/-- The meaning of BYE. -/
def execBye (s : State) : Host.Outcome State Fault Refusal := .next (s.hostCmd 0x0003 byeEff)

/-! ## IDENTIFY (R414) -/

/-- Bytes of a name. -/
def nameBytes (l : List Nat) : List Byte := l.map (BitVec.ofNat 8)

/-- A field of a unit of PD03; 0 while that domain is off. -/
def State.spineF (s : State) (base : Nat) (f : Fld) : Nat := if s.pdOn 3 then s.getF base f else 0

/-- STRAPS. -/
def State.straps (s : State) : Nat := s.power.strapBoot + 4 * s.power.strapIo18 + 16 * s.power.feedtag

/-- IDENTIFY. -/
def identifyEff (t : Taken) (s : State) : State :=
  if !t.ok 0 [] then s.fail t 0x0201
  else
    s.finish t.id 0 (padTo 16 (nameBytes [0x53, 0x48, 0x58, 0x2D, 0x34, 0x30, 0x39, 0x36]) ++ nameBytes [0x42, 0x31] ++ leBytes 2 0
      ++ serialBytes ++ leBytes 4 s.pml.bootCount ++ leBytes 4 (if s.romServes then 0 else s.fwVersion) ++ leBytes 4 s.store.rollback
      ++ leBytes 2 (s.spineF curShBase F.CUR_COORD_COORD)
      ++ leBytes 1 (s.spineF nimBase F.NIM_TAG_TAG + 16 * s.spineF nimBase F.NIM_TAG_BY_CMD) ++ leBytes 1 s.straps ++ rootHashBytes)

/-- The meaning of IDENTIFY. -/
def execIdentify (s : State) : Host.Outcome State Fault Refusal := .next (s.hostCmd 0x0101 identifyEff)

/-! ## Cadence (R423, R424, R429) -/

/-- CAD_STATUS. -/
def cadStatusEff (t : Taken) (s : State) : State :=
  if !t.ok 0 [] then s.fail t 0x0201
  else
    s.finish t.id 0 (leBytes 6 s.slotNo ++ leBytes 2 s.phase ++ leBytes 4 s.meanPeriod
      ++ leBytes 1 (s.getF cadBase F.CAD_PHASE_COAST + 2 * s.getF cadBase F.CAD_PHASE_LOST) ++ leBytes 3 0)

/-- The meaning of CAD_STATUS. -/
def execCadStatus (s : State) : Host.Outcome State Fault Refusal := .next (s.hostCmd 0x0601 cadStatusEff)

/-- CAD_SET_SLOT (R424): the reply follows the next slot boundary. -/
def cadSetSlotEff (t : Taken) (s : State) : State :=
  if !t.ok 6 [] then s.fail t 0x0201
  else
    let n := t.fld 0 6
    let s1 := (s.setF cadBase F.CAD_SLOT_SET_LO_SLOT n).setF cadBase F.CAD_SLOT_SET_HI_SLOT (n / 2 ^ 32)
    (cadSet s1).goesOn t

/-- The meaning of CAD_SET_SLOT. -/
def execCadSetSlot (s : State) : Host.Outcome State Fault Refusal := .next (s.hostCmd 0x0602 cadSetSlotEff)

/-- A slot-status record (Table 14.5). -/
def SlotRec.image (e : SlotRec) : List Byte :=
  leBytes 6 e.slot ++ leBytes 2 e.status ++ leBytes 1 e.flags ++ leBytes 1 e.late ++ leBytes 2 0 ++ leBytes 4 e.step ++ leBytes 4 e.allact
    ++ leBytes 4 e.predicted ++ leBytes 4 e.skipped ++ leBytes 4 e.doubtful ++ leBytes 4 e.audited ++ leBytes 4 e.missed
    ++ leBytes 6 (if e.status = 1 then 0 else e.doneSlot) ++ leBytes 2 (if e.status = 1 then 0 else e.donePhase) ++ List.replicate 16 0

/-- The record that SLOT_STATUS returns for a slot (R429): those of the last 1,024 slots, else NOT_FOUND. -/
def State.slotImage (s : State) (n : Nat) : List Byte :=
  let none_ := leBytes 6 n ++ leBytes 2 0x0202 ++ List.replicate 56 0
  match s.slotRec n with
  | some e => if (s.slotNo + 2 ^ 48 - n) % 2 ^ 48 < 1024 then e.image else none_
  | none => none_

/-- SLOT_STATUS. -/
def slotStatusEff (t : Taken) (s : State) : State :=
  let n := t.fld 6 2
  if !t.ok 8 [] || decide (n = 0) || decide (63 < n) then s.fail t 0x0201
  else s.finish t.id 0 ((List.range n).flatMap (fun (i : Nat) => s.slotImage ((t.fld 0 6 + i) % 2 ^ 48)))

/-- The meaning of SLOT_STATUS. -/
def execSlotStatus (s : State) : Host.Outcome State Fault Refusal := .next (s.hostCmd 0x0603 slotStatusEff)

/-! ## HBM through the hub (R428) -/

/-- Bytes written line by line through the chip hub from byte a, a multiple of 64, on, a last partial line as a narrow write; false where a
line is refused, unreadable for its merge, or its controller is off. Lines before it stand. -/
def State.hubPut (s : State) (a : Nat) (d : List Byte) : Bool × State :=
  (List.range (ceilDiv d.length 64)).foldl (fun (acc : Bool × State) i =>
    if acc.1 then
      let x := slice d (64 * i) 64
      let l := a + 64 * i
      if acc.2.pcOn (hbmPc l) then
        let (e, t) := acc.2.hubStore l ((wholeLine x).take x.length)
        (decide (e = 0), t)
      else (false, acc.2)
    else acc) (true, s)

/-- HBM_WRITE: ADDR and BULK_LEN are multiples of 64. -/
def hbmWriteEff (t : Taken) (s : State) : State :=
  if !t.okBulk 0 (2 ^ 32) 16 [] || decide (t.bulkLen % 64 ≠ 0) || decide (t.fld 8 8 % 64 ≠ 0) then s.fail t 0x0201
  else (s.armIn t.id t.bulkLen).goesOn t

/-- The meaning of HBM_WRITE. -/
def execHbmWrite (s : State) : Host.Outcome State Fault Refusal := .next (s.hostCmd 0x0704 hbmWriteEff)

/-- The bulk phase of HBM_WRITE has brought its last byte. -/
def State.hbmWritten (s : State) (t : Taken) (d : List Byte) : State :=
  match s.hubPut (t.fld 8 8) d with
  | (true, s1) => s1.finish t.id 0 []
  | (false, s1) => s1.fail t 0x0504

/-- HBM_READ. -/
def hbmReadEff (t : Taken) (s : State) : State :=
  if !t.okBulk 1 (2 ^ 32) 16 [] || decide (t.bulkLen % 64 ≠ 0) || decide (t.fld 8 8 % 64 ≠ 0) then s.fail t 0x0201
  else
    match s.hubBytes (t.fld 8 8) t.bulkLen with
    | (some d, s1) => (s1.armOut t.id d).goesOn t
    | (none, s1) => s1.fail t 0x0504

/-- The meaning of HBM_READ. -/
def execHbmRead (s : State) : Host.Outcome State Fault Refusal := .next (s.hostCmd 0x0705 hbmReadEff)

/-! ## Rings, SUBMIT and FETCH (R425 to R427) -/

/-- RING_SETUP (R425). -/
def ringSetupEff (t : Taken) (s : State) : State :=
  let g : Ring := ⟨t.fld 4 8, t.fld 12 4, t.fld 16 2⟩
  if !t.ok 18 [(1, 3)] || decide (1 < t.fld 0 1) || decide (g.base % 64 ≠ 0) || decide (2 ^ 36 ≤ g.base) || decide (g.stride % 64 ≠ 0)
      || decide (16777216 < g.stride) || decide (g.count = 0) || decide (1024 < g.count) then s.fail t 0x0201
  else
    let s1 := if t.fld 0 1 = 0 then { s with job := { s.job with inRing := some g } } else { s with job := { s.job with outRing := some g } }
    s1.finish t.id 0 []

/-- The meaning of RING_SETUP. -/
def execRingSetup (s : State) : Host.Outcome State Fault Refusal := .next (s.hostCmd 0x0703 ringSetupEff)

/-- Address of a ring's entry for slot n. -/
def Ring.entry (g : Ring) (n : Nat) : Nat := g.base + (n % g.count) * g.stride

/-- The ADMIT event of slot n has fired: n has passed, or it is the current slot and its ADMIT has fired. -/
def State.admitPast (s : State) (n : Nat) : Bool :=
  let back := (s.slotNo + 2 ^ 48 - n) % 2 ^ 48
  if back = 0 then s.cad.fired.any (fun e => decide ((s.evRec e).kind = 1)) else decide (back < 2 ^ 47)

/-- The shape record of a SUBMIT: bytes 16 to 79, by default a record whose word 0 is 0. -/
def Taken.shape (t : Taken) : List Byte := if 80 ≤ t.par.length then slice t.par 16 64 else List.replicate 64 0

/-- The shape record of slot n recorded, while its ADMIT has not fired and hand-offs do not bring them (R426, R354). -/
def State.shapeIn (s : State) (n : Nat) (r : List Byte) : State :=
  if s.admitPast n || s.isF curShBase F.CUR_HANDOFF_RX_EN then s
  else { s with job := { s.job with shapes := SMap.set [] s.job.shapes n r } }

/-- The parameters of a SUBMIT are those of its form, with or without a bulk phase. -/
def Taken.okSubmit (t : Taken) (stride : Nat) : Bool :=
  if t.bulk then t.okBulk 0 stride 16 [(14, 2)] else t.ok 16 [(0, 8), (14, 2)]

/-- SUBMIT (R425, R426): with a bulk phase it keeps the address of its ring entry. -/
def submitEff (t : Taken) (s : State) : State :=
  let n := t.fld 8 6
  match s.job.inRing with
  | none => s.fail t 0x0301
  | some g =>
    if !t.okSubmit g.stride then s.fail t 0x0201
    else if s.admitPast n then s.fail t 0x0203
    else if 16 < (n + 2 ^ 48 - s.slotNo) % 2 ^ 48 then s.fail t 0x0301
    else if n ∈ s.job.submitted then s.fail t 0x0205
    else
      let live := s.job.submitted.filter (fun x => !s.admitPast x)
      let s1 := { s with job := { s.job with submitted := live ++ [n] } }
      if t.bulk then ((s1.armIn t.id t.bulkLen).setTaken { t with aux := [t.aux.getD 0 0, g.entry n] }).goesOn t
      else (s1.shapeIn n t.shape).finish t.id 0 []

/-- The meaning of SUBMIT. -/
def execSubmit (s : State) : Host.Outcome State Fault Refusal := .next (s.hostCmd 0x0701 submitEff)

/-- The bulk phase of SUBMIT has brought its last byte: its data, kept behind its parameters, is on its way to HBM. -/
def State.submitted (s : State) (t : Taken) (d : List Byte) : State := s.setTaken { t with stage := 2, par := t.par.take 80 ++ d }

/-- SUBMIT_DATA_VISIBLE (R426): the oldest submission on its way is in HBM, its shape record is recorded and it replies. -/
def submitVisible (s : State) : State :=
  match s.mail.taken.find? (fun t => decide (t.op = 0x0701 ∧ t.stage = 2)) with
  | some t =>
    let len := t.bulkLen
    let d := t.par.drop (t.par.length - len)
    let p := { t with par := t.par.take (t.par.length - len) }
    match s.hubPut (t.aux.getD 1 0) d with
    | (true, s1) => (s1.shapeIn (t.fld 8 6) p.shape).finish t.id 0 []
    | (false, s1) => s1.fail t 0x0504
  | none => s

/-- The meaning of SUBMIT_DATA_VISIBLE. -/
def execSubmitDataVisible (s : State) : Host.Outcome State Fault Refusal := .next (submitVisible s)

/-- FETCH (R425, R427): it keeps the address it reads from. -/
def fetchEff (t : Taken) (s : State) : State :=
  let n := t.fld 8 6
  match s.job.outRing with
  | none => s.fail t 0x0301
  | some g =>
    if !t.okBulk 1 (2 ^ 32) 20 [(14, 2)] || decide (g.stride < t.fld 16 4 + t.bulkLen) then s.fail t 0x0201
    else if s.fetchOld n then s.fail t 0x0203
    else if (s.slotRec n).isNone && s.admitPast n then s.fail t 0x0203
    else
      let t1 := { t with aux := [t.aux.getD 0 0, g.entry n + t.fld 16 4] }
      ((s.setTaken t1).serveFetch t1).goesOnIf t

/-- The meaning of FETCH. -/
def execFetch (s : State) : Host.Outcome State Fault Refusal := .next (s.hostCmd 0x0702 fetchEff)

/-! ## Courier (R430, R431) -/

/-- A register of port p as a register read returns it: 0 while the port's domain is off. -/
def State.portReg (s : State) (p off : Nat) : Nat :=
  let w := (s.reg (curBase p + off)).toNat
  if s.pdOn (portDomain p) then (if off = F.CUR_STAT_STATE.off then s.curStat p w else w) else 0

/-- LINK_STATUS. -/
def linkStatusEff (t : Taken) (s : State) : State :=
  if !t.ok 0 [] then s.fail t 0x0201
  else
    s.finish t.id 0 ((List.range 16).flatMap (fun (p : Nat) =>
      [F.CUR_STAT_STATE.off, F.CUR_PEER_COORD.off, F.CUR_FEAT_LO_FEAT.off, F.CUR_FEAT_HI_FEAT.off].flatMap (fun o => leBytes 4 (s.portReg p o))))

/-- The meaning of LINK_STATUS. -/
def execLinkStatus (s : State) : Host.Outcome State Fault Refusal := .next (s.hostCmd 0x0801 linkStatusEff)

/-- SET_COORD (R431). -/
def setCoordEff (t : Taken) (s : State) : State :=
  if !t.ok 2 [] || decide (4096 ≤ t.fld 0 2) then s.fail t 0x0201
  else (s.setF curShBase F.CUR_COORD_COORD (t.fld 0 2)).finish t.id 0 []

/-- The meaning of SET_COORD. -/
def execSetCoord (s : State) : Host.Outcome State Fault Refusal := .next (s.hostCmd 0x0802 setCoordEff)

/-- ROUTE_WRITE (R431): all of its entries or none. -/
def routeWriteEff (t : Taken) (s : State) : State :=
  let first := t.fld 0 2
  let n := t.fld 2 2
  if !t.ok (4 + 2 * n) [] || decide (n = 0) || decide (2030 < n) || decide (4096 < first + n) then s.fail t 0x0201
  else
    ((List.range n).foldl (fun st i => st.setF curShBase (F.CUR_ROUTE_PORTS.idx (4 * (first + i))) (t.fld (4 + 2 * i) 2)) s).finish t.id 0 []

/-- The meaning of ROUTE_WRITE. -/
def execRouteWrite (s : State) : Host.Outcome State Fault Refusal := .next (s.hostCmd 0x0803 routeWriteEff)

/-! ## Copies that end (R70, R71, R170, R222, R422) -/

/-- Regions whose macros have all retired the restores of their wake need no further wait, and their contexts go on (R499, R518, R521). -/
def State.wakeRestored (s : State) : State :=
  let run := fun r => (List.range 256).any (fun (i : Nat) => (s.mx (256 * r + i)).shop.isSome)
  let up := s.power.restoring.filter (fun r => !run r)
  let s1 := { s with power := { s.power with restoring := s.power.restoring.filter run } }
  (((planCtxs s.img).filter (fun e => decide (e.1 / 16 ∈ up))).foldl (fun st e => st.ctxTidy e.1 e.2) s1).wakeGo

/-- A restore of macro m is under way. -/
def State.restoringM (s : State) (m : Nat) : Bool := ((s.mx m).shop.map ShadowOp.restore).getD false

/-- MAC_RESTORE_RETIRE (R71): the restore of macro m retires where nothing older holds it; a wake, PLAN_ARM or SHADOW_SYNC that waits goes
on. -/
def restoreRetired (s : State) (m : Nat) : State :=
  if s.compOn (m / 16) && s.restoringM m then
    let s1 := s.restoreRetire m
    if s1.restoringM m then s1 else ((s1.wakeRestored).armGo (some m)).syncGo
  else s

/-- The meaning of MAC_RESTORE_RETIRE. -/
def execMacRestoreRetire (m : Nat) (s : State) : Host.Outcome State Fault Refusal := .next (restoreRetired s m)

/-- The meaning of SPD_SHADOW_DONE (R170). -/
def execSpdShadowDone (b : Nat) (s : State) : Host.Outcome State Fault Refusal :=
  .next (if s.spdOn b then (spdDone s b).syncGo else s)

end Sys2Proof.Machine
end

