-- ==== Sys2Proof/Machine/Sdio.lean ====
section
/-! DEFINITION. The SDIO attachment and the Pigeonhole mailbox as the host drives them (R363 to R388, R397 to R404): bus commands, the
function 0, 1 and 2 address spaces, doorbells, replies and events. -/

namespace Sys2Proof.Machine

/-- The card sees a command: the device is powered and the card is not in its inactive state (R366, Table 13.9; log entry 62). -/
def State.cardHears (s : State) : Bool := s.pins.pwrgood && !s.isIn [.off] && decide (s.sdio.bus ≠ 4)

/-- No response to a command. -/
def State.silent (s : State) : State := { s with sdio := { s.sdio with said := false, resp := [], oor := false, fnErr := false } }

/-- A response, or the data it brings. -/
def State.cardSays (s : State) (d : List Byte) : State := { s with sdio := { s.sdio with said := true, resp := d, oor := false, fnErr := false } }

/-- The bus commands: without a response unless the card hears them and is in one of these bus states. -/
def State.onBus (s : State) (states : List Nat) (f : State → State) : State :=
  if s.cardHears && decide (s.sdio.bus ∈ states) then f s else s.silent

/-- A command as it arrives: one with a bad CRC7 is counted and not answered (R406; log entry 91). -/
def State.onWire (s : State) (a : SdArg) (states : List Nat) (f : State → Nat → State) : State :=
  if a.crcBad then (if s.cardHears then s.silent.addF sdiBase F.SDI_CRC_ERR_CMD 1 else s.silent)
  else s.onBus states (fun t => f t a.value)

/-! ## Enumeration (R363 to R367) -/

/-- RES and CMD0 (R367, R388): power-up settings but the voltage, and a mailbox without session and indices; a FW_LOAD gives its scratchpads
back. -/
def State.sdReset (s : State) : State :=
  let i := Sdio.init s.power.strapIo18
  ({ s.fwDrop with sdio := { i with v18 := s.sdio.v18 } }).mailReset true

/-- The meaning of CMD0. -/
def execCmd0 (s : State) : Host.Outcome State Fault Refusal := .next (if s.cardHears then s.sdReset else s.silent)

/-- The meaning of RES. -/
def execRes (s : State) : Host.Outcome State Fault Refusal := .next (if s.cardHears then s.sdReset else s.silent)

/-- The OCR (R366): 3.2 V to 3.4 V. -/
def sdOcr : Nat := 0x300000

/-- CMD5 (R365, R366): ready, two functions, no memory, S18A as S18R. An OCR of 0 only inquires (log entry 62). -/
def cmd5 (s : State) (arg : Nat) : State :=
  let ocr := bits arg 0 24
  let s18 := bits arg 24 1
  let s1 := s.cardSays (leBytes 4 (sdOcr + s18 * 2 ^ 24 + 2 * 2 ^ 28 + 2 ^ 31))
  if ocr = 0 then s1
  else if ocr &&& sdOcr = 0 then { s.silent with sdio := { s.silent.sdio with bus := 4 } }
  else { s1 with sdio := { s1.sdio with bus := 1, swPend := decide (s18 = 1) } }

/-- The meaning of CMD5. -/
def execCmd5 (arg : SdArg) (s : State) : Host.Outcome State Fault Refusal := .next (s.onWire arg [0, 1] cmd5)

/-- CMD11 (R365): the voltage switch that CMD5 offered. -/
def cmd11 (s : State) : State :=
  let s1 := s.cardSays (leBytes 4 0)
  if s.sdio.swPend then { s1 with sdio := { s1.sdio with swPend := false, v18 := true } }
  else s.silent

/-- The meaning of CMD11. -/
def execCmd11 (s : State) : Host.Outcome State Fault Refusal := .next (s.onBus [1] cmd11)

/-- CMD3 (R366): the relative address 0x0001 is published. -/
def cmd3 (s : State) : State :=
  let s1 := s.cardSays (leBytes 4 0x10000)
  { s1 with sdio := { s1.sdio with bus := 2, rca := 1 } }

/-- The meaning of CMD3. -/
def execCmd3 (s : State) : Host.Outcome State Fault Refusal := .next (s.onBus [1, 2] cmd3)

/-- CMD7 (R366): the card's own address selects it, another deselects it. -/
def cmd7 (s : State) (arg : Nat) : State :=
  if bits arg 16 16 = s.sdio.rca then
    let s1 := s.cardSays (leBytes 4 0)
    { s1 with sdio := { s1.sdio with bus := 3 } }
  else
    let s1 := s.silent
    { s1 with sdio := { s1.sdio with bus := 2 } }

/-- The meaning of CMD7. -/
def execCmd7 (arg : SdArg) (s : State) : Host.Outcome State Fault Refusal := .next (s.onWire arg [2, 3] cmd7)

/-- CMD15 (R366): the addressed card goes inactive. -/
def cmd15 (s : State) (arg : Nat) : State :=
  let s1 := s.silent
  if bits arg 16 16 = s.sdio.rca then { s1 with sdio := { s1.sdio with bus := 4 } } else s1

/-- The meaning of CMD15. -/
def execCmd15 (arg : SdArg) (s : State) : Host.Outcome State Fault Refusal := .next (s.onWire arg [2, 3] cmd15)

/-- The standard tuning block for 4 data lines (R364; log entry 61). -/
def tuningBlock : List Byte :=
  [0xFF0FFF00, 0xFFCCC3CC, 0xC33CCCFF, 0xFEFFFEEF, 0xFFDFFFDD, 0xFFFBFFFB, 0xBFFF7FFF, 0x77F7BDEF,
    0xFFF0FFF0, 0x0FFCCC3C, 0xCC33CCCF, 0xFFEFFFEE, 0xFFFDFFFD, 0xDFFFBFFF, 0xBBFFF7FF, 0xF77F7BDE].flatMap (fun w => (leBytes 4 w).reverse)

/-- The meaning of CMD19: in SDR50 and SDR104 (R364). -/
def execCmd19 (s : State) : Host.Outcome State Fault Refusal :=
  .next (s.onBus [3] (fun t => if t.sdio.bss = 2 ∨ t.sdio.bss = 3 then t.cardSays tuningBlock else t.silent))

/-! ## Interrupts (R402) -/

/-- INT1. -/
def State.int1 (s : State) : Bool := decide (s.sdio.intStat &&& s.sdio.intEn ≠ 0)
/-- INT2. -/
def State.int2 (s : State) : Bool := decide (s.sdio.f2Stat &&& s.sdio.f2IntEn ≠ 0)
/-- An interrupt is signalled on DAT1: in an interrupt period of the running SD_CLK, and in 4-bit mode with EAI while it is stopped. -/
def State.dat1 (s : State) (clock : Bool) : Bool :=
  s.pins.pwrgood && !s.isIn [.off] && (clock || (s.sdio.eai && decide (s.sdio.width = 2)))
    && s.sdio.ien.testBit 0 && ((s.sdio.ien.testBit 1 && s.int1) || (s.sdio.ien.testBit 2 && s.int2))

/-! ## Function 0: CCCR, FBR and CIS (R368 to R371) -/

/-- The two bytes of a block size. -/
def bsByte (n i : Nat) : Nat := n / 256 ^ i % 256

/-- The common CIS chain (Table 13.4). -/
def cisCommon : List Byte :=
  nameBytes ([0x15, 0x18, 1, 0] ++ [0x42, 0x72, 0x75, 0x73, 0x65, 0x74, 0x69, 0x6C, 0] ++ [0x53, 0x48, 0x58, 0x2D, 0x34, 0x30, 0x39, 0x36, 0]
    ++ [0x42, 0x31, 0] ++ [0xFF] ++ [0x20, 4, 0x5E, 0x0B, 0x96, 0x40] ++ [0x21, 2, 0x0C, 0] ++ [0x22, 4, 0, 0, 2, 0x32] ++ [0xFF])

/-- The CIS chain of a function with an enable timeout (Table 13.4; log entry 61). -/
def cisFn (timeout : Nat) : List Byte :=
  nameBytes [0x21, 2, 0x0C, 0, 0x22, 0x2A, 1, 0, 0] ++ serialBytes.take 4 ++ List.replicate 5 0 ++ leBytes 2 512 ++ leBytes 4 sdOcr
    ++ List.replicate 10 0 ++ leBytes 2 timeout ++ List.replicate 12 0 ++ [0xFF]

/-- A byte of a CIS chain, 0xFF beyond it (R371). -/
def cisByte (l : List Byte) (i : Nat) : Nat := ((l[i]?).map BitVec.toNat).getD 0xFF

/-- A byte of the FBR of function n (R369). -/
def State.fbrByte (s : State) (n o : Nat) : Nat :=
  let bs := if n = 1 then s.sdio.bs1 else s.sdio.bs2
  if o = 0x0A then 0x10 + n else if o = 0x10 then bsByte bs 0 else if o = 0x11 then bsByte bs 1 else 0

/-- A byte of the CCCR (R368, Table 13.3). -/
def State.cccrByte (s : State) (a : Nat) : Nat :=
  let x := s.sdio
  match a with
  | 0x00 => 0x43
  | 0x01 => 0x03
  | 0x02 => 2 * x.ioe
  | 0x03 => 2 * b2n x.ior1 + 4 * b2n (x.ioe.testBit 1 && s.served)
  | 0x04 => x.ien
  | 0x05 => 2 * b2n s.int1 + 4 * b2n s.int2
  | 0x07 => x.width + 128 * b2n x.cdDis
  | 0x08 => 0x13 + 32 * b2n x.e4mi
  | 0x0A => 0x10
  | 0x10 => bsByte x.bs0 0
  | 0x11 => bsByte x.bs0 1
  | 0x13 => 1 + 2 * x.bss
  | 0x14 => 0x07
  | 0x15 => 0x07 + 16 * x.dts
  | 0x16 => 1 + 2 * b2n x.eai
  | _ => 0

/-- A byte of function 0. -/
def State.f0Byte (s : State) (a : Nat) : Nat :=
  if a < 0x100 then s.cccrByte a
  else if a < 0x300 then s.fbrByte (a / 0x100) (a % 0x100)
  else if a < 0x1000 then 0
  else if a < 0x1100 then cisByte cisCommon (a - 0x1000)
  else if a < 0x1200 then cisByte (cisFn 10) (a - 0x1100)
  else if a < 0x1300 then cisByte (cisFn 500) (a - 0x1200)
  else 0

/-- IO_ABORT (R401): it ends a CMD53 of the function that is under way; one of function 2 sets ABORTED, and the transfer stays armed. -/
def State.ioAbort (s : State) (fn : Nat) : State :=
  if s.sdio.under = some fn then
    let s1 := { s with sdio := { s.sdio with under := none } }
    if fn = 2 then s1.setF2 4 else s1
  else s

/-- The meaning of IO_ABORT. -/
def execIoAbort (fn : Nat) (s : State) : Host.Outcome State Fault Refusal := .next (if s.cardHears then s.ioAbort fn else s)

/-- A byte of a block size replaced. -/
def bsPut (n i v : Nat) : Nat := putBits n (8 * i) 8 v

/-- A byte written to function 0; block sizes take any value until the transfer ends. -/
def State.f0Put (s : State) (a v : Nat) : State :=
  let x := s.sdio
  match a with
  | 0x02 => { s with sdio := { x with ioe := bits v 1 2, ior1 := x.ior1 && v.testBit 1 } }
  | 0x04 => { s with sdio := { x with ien := bits v 0 3 } }
  | 0x06 => if v.testBit 3 then s.sdReset else s.ioAbort (bits v 0 3)
  | 0x07 => { s with sdio := { x with width := if bits v 0 2 = 0 ∨ bits v 0 2 = 2 then bits v 0 2 else x.width, cdDis := v.testBit 7 } }
  | 0x08 => { s with sdio := { x with e4mi := v.testBit 5 } }
  | 0x10 => { s with sdio := { x with bs0 := bsPut x.bs0 0 v } }
  | 0x11 => { s with sdio := { x with bs0 := bsPut x.bs0 1 v } }
  | 0x13 =>
    let b := bits v 1 3
    if b < 2 ∨ (b < 5 ∧ x.v18 = true ∧ x.width = 2) then { s with sdio := { x with bss := b } } else s
  | 0x15 => { s with sdio := { x with dts := bits v 4 2 } }
  | 0x16 => { s with sdio := { x with eai := v.testBit 1 } }
  | 0x110 => { s with sdio := { x with bs1 := bsPut x.bs1 0 v } }
  | 0x111 => { s with sdio := { x with bs1 := bsPut x.bs1 1 v } }
  | 0x210 => { s with sdio := { x with bs2 := bsPut x.bs2 0 v } }
  | 0x211 => { s with sdio := { x with bs2 := bsPut x.bs2 1 v } }
  | _ => s

/-- The block size a transfer leaves, kept as it was unless it is 1 to 512 (R368, R369; log entry 63). -/
def bsKeep (old new : Nat) : Nat := if 1 ≤ new ∧ new ≤ 512 then new else old

/-- Block sizes after a transfer that began with the interface x. -/
def State.bsSettle (s : State) (x : Sdio) : State :=
  { s with sdio := { s.sdio with bs0 := bsKeep x.bs0 s.sdio.bs0, bs1 := bsKeep x.bs1 s.sdio.bs1, bs2 := bsKeep x.bs2 s.sdio.bs2 } }

/-! ## Collisions of the SDIO engine with Casec (R378 to R380) -/

/-- Bytes of Pigeonhole that Casec may access while the SDIO engine does, as (offset, length): the reply slot it writes (kind 0, the engine
reads) or the command slot it reads (kind 1, the engine writes). -/
def State.casecBusy (s : State) (kind : Nat) : Nat × Nat :=
  if kind = 0 then
    if s.served ∧ (s.sdio.rplPi + 64 - s.sdio.rplDb) % 64 < 32 then
      (0x2000 * (s.sdio.rplPi % 32) + 0x1000, (s.mail.replies.map List.length).foldl max 0)
    else (0, 0)
  else if s.served ∧ s.sdio.cmdDb ≠ s.sdio.cmdCi then (0x2000 * (s.sdio.cmdCi % 32), 20 + min 4064 (s.packet).2.1)
  else (0, 0)

/-- The words of bytes (offset, length). -/
def wordsOf (a : Nat × Nat) : List Nat :=
  if a.2 = 0 then [] else (List.range ((a.1 + a.2 - 1) / 8 + 1 - a.1 / 8)).map (fun (i : Nat) => a.1 / 8 + i)

/-- A transfer of n bytes from aperture address a reaches this word of Pigeonhole. -/
def State.aperTouch (s : State) (a n : Nat) (incr : Bool) (w : Nat) : Bool :=
  let off := (s.sdio.aperBase * 4096 + a) % 262144
  if incr then (List.range 8).any (fun (j : Nat) => decide ((8 * w + j + 262144 - off) % 262144 < min n (0x10000 - a)))
  else decide (0 < n) && decide (off / 8 = w)

/-- The words in which an access of the SDIO engine collides with Casec: of those that Casec may be accessing, where both are granted their
access (R377), a free value decides which, and in each who is warned. -/
def State.collide (s : State) (touch : Nat → Bool) (kind : Nat) : List Nat × State :=
  let ws := (wordsOf (s.casecBusy kind)).filter (fun (w : Nat) =>
    touch w && s.pghMay 0 (8 * w) (29 - kind) && s.pghMay 1 (8 * w) (28 + kind))
  if ws.isEmpty then ([], s)
  else
    let (x, s1) := s.takeFree
    let hit := ws.zipIdx.filter (fun e => x.testBit (2 * e.2))
    (hit.map Prod.fst, hit.foldl (fun st e => if x.testBit (2 * e.2 + 1) then st.collCasec e.1 kind else st.collEngine e.1 kind) s1)

/-- The SDIO engine writes words that Casec reads at that time: Casec's copy of a collided word is undefined (R378, R380). -/
def State.collWrite (s : State) (touch : Nat → Bool) : State :=
  match s.collide touch 1 with
  | ([], s1) => s1
  | (ws, s1) =>
    let (y, s2) := s1.takeFree
    { s2 with sdio := { s2.sdio with clash := s2.sdio.clash ++ ws.zipIdx.map (fun e => (e.1, y / 2 ^ (64 * e.2) % 2 ^ 64)) } }

/-! ## Function 1 (R372 to R376, R385, R403) -/

/-- The Pigeonhole offset of an aperture address (Table 13.5). -/
def State.aperOff (s : State) (a : Nat) : Nat := (s.sdio.aperBase * 4096 + a) % 262144

/-- A byte read through the aperture, by the SDIO engine, master 1. -/
def State.aperRead (s : State) (a : Nat) : Nat × State := if !s.pdOn 2 then (0, s) else s.pghRead 1 s.sdio.aperView (s.aperOff a)

/-- A byte written through the aperture in its view. -/
def State.aperWrite (s : State) (a v : Nat) : State :=
  if !s.pdOn 2 then s else s.pghWrite 1 s.sdio.aperView (s.aperOff a) (BitVec.ofNat 8 v)

/-- DB_ERR (R385). -/
def State.dbErr (s : State) : State := s.setInt 6

/-- A write of SDI_CMD_DB. -/
def State.cmdDbWrite (s : State) (v : Nat) : State :=
  let d := v % 64
  let ci := s.sdio.cmdCi
  if 32 < (d + 64 - ci) % 64 ∨ (d + 64 - ci) % 64 < (s.sdio.cmdDb + 64 - ci) % 64 then s.dbErr
  else { s with sdio := { s.sdio with cmdDb := d } }

/-- A write of SDI_RPL_DB. -/
def State.rplDbWrite (s : State) (v : Nat) : State :=
  let d := v % 64
  let db := s.sdio.rplDb
  if (d + 64 - db) % 64 ≤ (s.sdio.rplPi + 64 - db) % 64 then { s with sdio := { s.sdio with rplDb := d } } else s.dbErr

/-- A write of SDI_EVT_DB. -/
def State.evtDbWrite (s : State) (v : Nat) : State :=
  let d := v % 128
  let db := s.sdio.evtDb
  if (d + 128 - db) % 128 ≤ (s.sdio.evtPi + 128 - db) % 128 then { s with sdio := { s.sdio with evtDb := d } } else s.dbErr

/-- The host reaches function 1 of a card that is selected. -/
def State.selected (s : State) : Bool := s.cardHears && decide (s.sdio.bus = 3)

/-- The meaning of SDI_CMD_DB_WRITE. -/
def execSdiCmdDbWrite (v : Nat) (s : State) : Host.Outcome State Fault Refusal := .next (if s.selected then s.cmdDbWrite v else s)
/-- The meaning of SDI_RPL_DB_WRITE. -/
def execSdiRplDbWrite (v : Nat) (s : State) : Host.Outcome State Fault Refusal := .next (if s.selected then s.rplDbWrite v else s)
/-- The meaning of SDI_EVT_DB_WRITE. -/
def execSdiEvtDbWrite (v : Nat) (s : State) : Host.Outcome State Fault Refusal := .next (if s.selected then s.evtDbWrite v else s)

/-- SDI_STATE (Table 13.10, R395). -/
def State.sdiState (s : State) : Nat := s.chip.st.code + 16 * b2n s.mail.sess + 32 * b2n (s.served && s.romServes)

/-- A function 1 register read (R403): SDI_COLL_ADDR latches, SDI_EVT_LOST clears. -/
def State.f1Reg (s : State) (o : Nat) : Nat × State :=
  let x := s.sdio
  match o with
  | 0x00 => (x.aperBase + 64 * x.aperView, s)
  | 0x01 => (x.cmdDb, s)
  | 0x02 => (x.cmdCi, s)
  | 0x03 => (x.rplPi, s)
  | 0x04 => (x.rplDb, s)
  | 0x05 => (x.evtPi, s)
  | 0x06 => (x.evtDb, s)
  | 0x07 => (s.sdiState, s)
  | 0x08 => (x.intStat, s)
  | 0x09 => (x.intEn, s)
  | 0x0B => (x.heart, s)
  | 0x0C => (x.collAddr % 256, { s with sdio := { x with collLatch := x.collAddr } })
  | 0x0D => (x.collLatch / 256 % 256, s)
  | 0x0E => (x.collLatch / 65536 % 256, s)
  | 0x0F => (x.evtLost, { s with sdio := { x with evtLost := 0 } })
  | 0x10 => (if s.mail.sess then 16 * (s.mail.ver / 256 % 16) + s.mail.ver % 16 else 0, s)
  | _ => (0, s)

/-- A function 1 register written. -/
def State.f1Put (s : State) (o v : Nat) : State :=
  let x := s.sdio
  match o with
  | 0x00 => { s with sdio := { x with aperBase := bits v 0 6, aperView := if bits v 6 2 = 3 then x.aperView else bits v 6 2 } }
  | 0x01 => s.cmdDbWrite v
  | 0x04 => s.rplDbWrite v
  | 0x06 => s.evtDbWrite v
  | 0x08 => { s with sdio := { x with intStat := x.intStat &&& (0x7F ^^^ (v % 128)) } }
  | 0x09 => { s with sdio := { x with intEn := v % 128 } }
  | 0x0A => if v.testBit 0 then s.wakeStart else s
  | _ => s

/-- A byte of function 1 read (R372). -/
def State.f1Byte (s : State) (a : Nat) : Nat × State :=
  if a < 0x10000 then s.aperRead a
  else if a < 0x10100 then s.f1Reg (a - 0x10000)
  else if 0x11000 ≤ a ∧ a < 0x11400 then s.hznRead 2 (0x7C00 + (a - 0x11000))
  else (0, s)

/-- A byte of function 1 written (R372). -/
def State.f1Write (s : State) (a v : Nat) : State :=
  if a < 0x10000 then s.aperWrite a v
  else if a < 0x10100 then s.f1Put (a - 0x10000) v
  else if 0x11000 ≤ a ∧ a < 0x11400 then s.hznPut 2 (0x7C00 + (a - 0x11000)) [BitVec.ofNat 8 v]
  else s

/-! ## Function 2 (R398 to R401, R404) -/

/-- An inbound transfer has brought its last byte: what its command does with the data (R400, R413). -/
def State.bulkIn (s : State) (x : Xfer) : State :=
  match s.takenBy x.cmd with
  | some t =>
    match t.op with
    | 0x0201 => s.fwLoaded t x.data
    | 0x0402 => s.imgWritten t x.data
    | 0x0501 => s.planLoaded t x.data
    | 0x0701 => s.submitted t x.data
    | 0x0704 => s.hbmWritten t x.data
    | _ => s
  | none => s

/-- Bytes written to the stream port (R400): what the current transfer expects, the rest discarded. -/
def State.streamIn (s : State) (d : List Byte) : State :=
  match s.mail.inq with
  | [] => if d.isEmpty then s else s.setF2 2
  | x :: q =>
    let n := min x.left d.length
    let y : Xfer := ⟨x.cmd, x.left - n, x.data ++ d.take n⟩
    let s1 := if n < d.length then s.setF2 2 else s
    if 0 < x.left ∧ y.left = 0 then ({ s1.setF2 0 with mail := { s1.mail with inq := q } }).bulkIn y
    else { s1 with mail := { s1.mail with inq := y :: q } }

/-- Bytes read from the stream port (R401, R413): what OUT_AVAIL counts, 0 beyond. The buffer refills behind a read that empties it, and with
its last byte read the transfer's command gets its final reply. -/
def State.streamOut (s : State) (n : Nat) : List Byte × State :=
  match s.mail.outq with
  | [] => (List.replicate n 0, if n = 0 then s else s.setF2 3)
  | x :: q =>
    let k := min s.outAvail n
    let d := padTo n (x.data.take k)
    let s1 := if k < n then s.setF2 3 else s
    let y : Xfer := ⟨x.cmd, x.left - k, x.data.drop k⟩
    let rest := if 0 < x.left ∧ y.left = 0 then q else y :: q
    let s2 := if k = s.outAvail then ({ s1 with mail := { s1.mail with outq := [] } }).setOutq rest
      else { s1 with mail := { s1.mail with outq := rest } }
    (d, if 0 < x.left ∧ y.left = 0 then s2.finish x.cmd 0 [] else s2)

/-- A function 2 register read (R404). -/
def State.f2Reg (s : State) (o : Nat) : Nat × State :=
  let x := s.sdio
  match o with
  | 0 => (s.inLeft % 256, { s with sdio := { x with inLatch := s.inLeft } })
  | 1 => (x.inLatch / 2 ^ 8 % 256, s)
  | 2 => (x.inLatch / 2 ^ 16 % 256, s)
  | 3 => (x.inLatch / 2 ^ 24 % 256, s)
  | 4 => (s.outAvail % 256, { s with sdio := { x with outLatch := s.outAvail } })
  | 5 => (x.outLatch / 2 ^ 8 % 256, s)
  | 6 => (x.outLatch / 2 ^ 16 % 256, s)
  | 7 => (x.outLatch / 2 ^ 24 % 256, s)
  | 8 => (x.f2Stat, s)
  | 9 => (x.f2IntEn, s)
  | _ => (0, s)

/-- A function 2 register written. -/
def State.f2Put (s : State) (o v : Nat) : State :=
  let x := s.sdio
  match o with
  | 8 => { s with sdio := { x with f2Stat := x.f2Stat &&& (0x1F ^^^ (v % 32)) } }
  | 9 => { s with sdio := { x with f2IntEn := v % 32 } }
  | _ => s

/-! ## Transfers (R366, R373) -/

/-- A byte outside the stream port read from a function. -/
def State.fnByte (s : State) (fn a : Nat) : Nat × State :=
  match fn with
  | 0 => (s.f0Byte a, s)
  | 1 => s.f1Byte a
  | _ => if 0x10000 ≤ a ∧ a < 0x10100 then s.f2Reg (a - 0x10000) else (0, s)

/-- A byte outside the stream port written to a function. -/
def State.fnPut (s : State) (fn a v : Nat) : State :=
  match fn with
  | 0 => s.f0Put a v
  | 1 => s.f1Write a v
  | _ => if 0x10000 ≤ a ∧ a < 0x10100 then s.f2Put (a - 0x10000) v else s

/-- The addresses of a transfer of n bytes, rising or fixed. -/
def xferAddrs (a n : Nat) (incr : Bool) : List Nat := (List.range n).map (fun (i : Nat) => if incr then a + i else a)

/-- Bytes at these addresses read, in order. -/
def State.fnRead (s : State) (fn : Nat) (as : List Nat) : List Byte × State :=
  as.foldl (fun (acc : List Byte × State) a =>
    let (v, t) := acc.2.fnByte fn a
    (acc.1 ++ [BitVec.ofNat 8 v], t)) ([], s)

/-- How many bytes of a transfer reach the stream port (R398): they come first. -/
def streamPart (fn a n : Nat) (incr : Bool) : Nat :=
  if fn = 2 ∧ a < 0x10000 then (if incr then min n (0x10000 - a) else n) else 0

/-- A transfer from address a reaches a word of Pigeonhole. -/
def State.touches (s : State) (fn a n : Nat) (incr : Bool) (w : Nat) : Bool :=
  decide (fn = 1) && decide (a < 0x10000) && s.pdOn 2 && s.aperTouch a n incr w

/-- A read of n bytes of a function (R378: collided words read as free values). -/
def State.xferRead (s : State) (fn a n : Nat) (incr : Bool) : List Byte × State :=
  let k := streamPart fn a n incr
  let (d, s1) := if k = 0 then ([], s) else s.streamOut k
  let (e, s2) := s1.fnRead fn ((xferAddrs a n incr).drop k)
  match s2.collide (s2.touches fn a n incr) 0 with
  | ([], s3) => (d ++ e, s3)
  | (ws, s3) =>
    let (y, s4) := s3.takeFree
    let seen := (List.range n).map (fun (i : Nat) =>
      let o := s.aperOff (if incr then a + i else a)
      match ws.zipIdx.find? (fun f => decide (f.1 = o / 8)) with
      | some f => BitVec.ofNat 8 (y / 2 ^ (64 * f.2 + 8 * (o % 8)))
      | none => e.getD i 0)
    (seen, s4)

/-- A write of bytes to a function. -/
def State.xferWrite (s : State) (fn a : Nat) (d : List Byte) (incr : Bool) : State :=
  let k := streamPart fn a d.length incr
  let s1 := if k = 0 then s else s.streamIn (d.take k)
  let s2 := s1.collWrite (s1.touches fn a d.length incr)
  (((xferAddrs a d.length incr).zip d).drop k).foldl (fun t e => t.fnPut fn e.1 e.2.toNat) s2

/-- A response without a transfer, OUT_OF_RANGE set (R373). -/
def State.outOfRange (s : State) : State := { s with sdio := { s.sdio with said := true, resp := [], oor := true, fnErr := false } }

/-- A response that reports a function the device does not have (R363, R366; log entry 90). -/
def State.noFunction (s : State) : State := { s with sdio := { s.sdio with said := true, resp := [], oor := false, fnErr := true } }

/-- CMD52 (R366; log entry 61): bit 31 writes, [30:28] function, bit 27 reads after the write, [25:9] address, [7:0] data. -/
def cmd52 (s : State) (arg : Nat) : State :=
  let fn := bits arg 28 3
  let a := bits arg 9 17
  if 2 < fn then s.noFunction
  else if arg.testBit 31 then
    let s1 := (s.xferWrite fn a [BitVec.ofNat 8 arg] true).bsSettle s.sdio
    if arg.testBit 27 then
      let (d, s2) := s1.xferRead fn a 1 true
      s2.cardSays d
    else s1.cardSays [BitVec.ofNat 8 arg]
  else
    let (d, s1) := s.xferRead fn a 1 true
    s1.cardSays d

/-- The meaning of CMD52. -/
def execCmd52 (arg : SdArg) (s : State) : Host.Outcome State Fault Refusal := .next (s.onWire arg [3] cmd52)

/-- The block size of a function. -/
def State.blockSize (s : State) (fn : Nat) : Nat := if fn = 0 then s.sdio.bs0 else if fn = 1 then s.sdio.bs1 else s.sdio.bs2

/-- Block i of a CMD53 write, stored only where its CRC16 checks (R380); one that does not is counted (R406). -/
def State.putBlock (s : State) (fn a size : Nat) (incr : Bool) (data : List Byte) (bad : List Nat) (i : Nat) : State :=
  if i ∈ bad then s.addF sdiBase F.SDI_CRC_ERR_DATA 1
  else (s.xferWrite fn (if incr then a + i * size else a) (slice data (i * size) size) incr).addF sdiBase F.SDI_XFER_BLOCKS 1

/-- CMD53 (R366, R373; log entry 61): bit 31 writes, [30:28] function, bit 27 block mode, bit 26 rising address, [25:9] address, [8:0] count.
A write stores the blocks that `data` brings whole, those listed in `bad` with a bad CRC16; where the host sends fewer than it announced, and
after a block count of 0, which moves as many blocks as `data` holds, the CMD53 stays under way; so does a block read with a count whose `data` holds
fewer blocks, those that the host clocks before it stops (log entry 91). -/
def cmd53 (s : State) (arg : Nat) (data : List Byte) (bad : List Nat) : State :=
  let fn := bits arg 28 3
  let a := bits arg 9 17
  let c := bits arg 0 9
  let blk := arg.testBit 27
  let incr := arg.testBit 26
  let size := if blk then s.blockSize fn else if c = 0 then 512 else c
  let here := data.length / size
  let units := if blk then (if c = 0 then here else c) else 1
  let n := units * size
  let moved := if arg.testBit 31 then min here units else if blk = true ∧ 0 < here then min here units else units
  if 2 < fn then s.noFunction
  else if (blk = true ∧ c = 0 ∧ fn ≠ 2) ∨ (incr = true ∧ (0x20000 < a + n ∨ (fn = 1 ∧ a < 0x10000 ∧ 0x10000 < a + n))) then s.outOfRange
  else
    let s0 := { s with sdio := { s.sdio with under := if (blk = true ∧ c = 0) ∨ moved < units then some fn else none } }
    if arg.testBit 31 then
      (((List.range moved).foldl (fun st i => st.putBlock fn a size incr data bad i) s0).bsSettle s.sdio).cardSays []
    else
      let (d, t) := s0.xferRead fn a (moved * size) incr
      (t.cardSays d).addF sdiBase F.SDI_XFER_BLOCKS moved

/-- The meaning of CMD53. -/
def execCmd53 (arg : SdArg) (data : SdData) (s : State) : Host.Outcome State Fault Refusal :=
  .next (s.onWire arg [3] (fun t a => cmd53 t a data.bytes data.bad))

/-! ## What the device does with the rings (R384, R386, R397) -/

/-- Two replies answer the same command: opcode, tag and sequence number agree. -/
def sameCmd (p q : List Byte) : Bool := decide (slice p 2 4 = slice q 2 4) && decide (slice p 10 4 = slice q 10 4)

/-- An event entry (Table 13.6). -/
def EvPost.image (p : EvPost) : List Byte :=
  leBytes 2 p.code ++ leBytes 1 p.source ++ leBytes 1 p.flags ++ leBytes 6 p.slot ++ leBytes 2 p.phase ++ leBytes 4 p.arg

/-- EVENT_APPEND (R386): the oldest post is appended by the SDIO engine, or dropped where the queue is full; it waits while Horizon's RAM is off
(log entry 89). -/
def eventAppend (s : State) : State :=
  match s.mail.posts with
  | [] => s
  | p :: q =>
    let s1 := { s with mail := { s.mail with posts := q } }
    if !s.pdOn 1 then s
    else if (s.sdio.evtPi + 128 - s.sdio.evtDb) % 128 = 64 then
      ({ s1 with sdio := { s1.sdio with evtLost := satCount 8 s1.sdio.evtLost 1 } }).setInt 5
    else
      let s2 := s1.hznPut 2 (0x7C00 + 16 * (s.sdio.evtPi % 64)) p.image
      ({ s2 with sdio := { s2.sdio with evtPi := (s.sdio.evtPi + 1) % 128 } }).setInt 1

/-- The meaning of EVENT_APPEND. -/
def execEventAppend (s : State) : Host.Outcome State Fault Refusal := .next (eventAppend s)

/-- The meaning of MBXBSY_PULSE_END (R379). -/
def execMbxbsyPulseEnd (s : State) : Host.Outcome State Fault Refusal := .next { s with pins := { s.pins with mbxbsy := false } }

/-- HEARTBEAT (R397): 1 ms, 100,000 REFCLK cycles, after the last, while the mailbox is served. -/
def heartbeat (s : State) : State :=
  if s.served && decide (s.sdio.heartAt + 100000 ≤ s.now) then
    { s with sdio := { s.sdio with heart := (s.sdio.heart + 1) % 256, heartAt := s.now } }
  else s

/-- The meaning of HEARTBEAT. -/
def execHeartbeat (t : Nat) (s : State) : Host.Outcome State Fault Refusal := .next (heartbeat (s.at t))

/-- The meaning of IO_READY (R370): while IOE1 is set, outside OFF. -/
def execIoReady (s : State) : Host.Outcome State Fault Refusal :=
  .next (if s.sdio.ioe.testBit 0 && !s.isIn [.off] then { s with sdio := { s.sdio with ior1 := true } } else s)

end Sys2Proof.Machine
end

