-- ==== Sys2Proof/Machine/Background.lean ====
section
/-! DEFINITION. What the device does of itself between commands: long writes of non-volatile stores, power switching that waits, a self-test slice; and the
replies that REPLY_WRITE puts into the ring, which such work may have to give first. -/

namespace Sys2Proof.Machine

/-- Work of Casec on a non-volatile store for which a command waits is in progress: a repair commit (R570), a firmware image being staged (R542). -/
def State.storeBusy (s : State) : Bool := s.bist.commit.isSome || s.store.staging.isSome

/-- That work goes on by one act each. -/
def State.storeStep (s : State) : State := s.fuseStep.fwStage

/-- That work runs to its end, in at most n acts. -/
def State.storesRun : Nat → State → State
  | 0, s => s
  | n + 1, s => if s.storeBusy then s.storeStep.storesRun n else s

/-- The acts of one REFCLK cycle in which no command is at hand (log entry 112): the stores go on, the writer of the Postmark Log begins a commit (R505),
power switching that waited for credits or a wake goes on (R514), and so does a self-test slice (R556). -/
def State.background (s : State) : State :=
  ((((s.storeStep.pmBegin).pwrGo).pwrSetGo).wakeGo).sliceGo

/-- One REFCLK cycle passes (log entry 2). -/
def State.tick (s : State) : State := { s with now := s.now + 1 }.background

/-- Replies that stand; where none does, the one of a command whose work on a store then ends (log entry 112), or SLEEP's (R411). -/
def State.replyReady (s : State) : State := (if s.mail.replies.isEmpty then s.storesRun 20000 else s).sleepReply

/-- REPLY_WRITE (R384, R392): waiting reply k, unless an earlier one answers the same command, into a free reply slot, by Casec, master 0. -/
def replyWrite (s0 : State) (k : Nat) : State :=
  let s := s0.replyReady
  match s.mail.replies[k]? with
  | some r =>
    if s.pdOn 2 ∧ (s.sdio.rplPi + 64 - s.sdio.rplDb) % 64 < 32 ∧ (s.mail.replies.take k).any (sameCmd r) = false then
      let s1 := s.pghPut 0 (0x2000 * (s.sdio.rplPi % 32) + 0x1000) r
      ({ s1 with
          sdio := { s1.sdio with rplPi := (s.sdio.rplPi + 1) % 64 },
          mail := { s1.mail with replies := dropAt s.mail.replies k } }).setInt 0
    else s
  | none => s

/-- The meaning of REPLY_WRITE. -/
def execReplyWrite (k : Nat) (s : State) : Host.Outcome State Fault Refusal := .next (replyWrite s k)

end Sys2Proof.Machine
end

