-- ==== Sys2Proof/Machine/Reads.lean ====
section
/-! DEFINITION. What an issue reads and stores, element by element (R177 to R192, R207 to R212, R223 to R227, R245 to R249), and how its
inputs are staged (R594, R97). -/

namespace Sys2Proof.Machine

/-! ## An issue's operands -/

/-- The result set of an issue. -/
def State.rsOf (s : State) (i : Issue) : ResultSet := (s.setOf i.j).getD ⟨i.j, i.slot, false, false, []⟩

/-- The descriptor of an issue's slot with the run-time extents of its result set (R215, R217). -/
def State.iDesc (s : State) (b : Nat) (i : Issue) (sl : Nat) : Desc :=
  bindDesc (loopRec s.img b (opLoop i.word)) (s.rsOf i) sl (descAt s.img b (opDesc i.word sl))

/-- The loop position of an issue's slot (R209). -/
def Issue.at (i : Issue) (sl : Nat) : List Int := i.pos.getD sl pos0

/-- The position of element e of tile row r in an operand (R211). -/
def tilePos (d : Desc) (p : List Int) (r e : Nat) : List Int := posAdd (posAdd p d.rowdim r) d.outdim e

/-- The precision of an operation: PREC of the CLAIMS record for the lowest macro of its mask (R201). -/
def opPrec (img : List Byte) (b w : Nat) : Nat :=
  leAt ((planRec img 1 b 1024 0).getD []) (2 * (maskMacros (opMacros w)).headD 0) 2 % 4

/-- The places of a PACKED record of n elements at position p of a descriptor; an element out of bounds has none. -/
def recKeys (img : List Byte) (own b : Nat) (d : Desc) (p : List Int) (n : Nat) : List Nat :=
  (List.range n).flatMap (fun (c : Nat) =>
    let q := posAdd p 0 c
    if inBounds d q then (elemKeys img own b d q).getD [] else [])

/-- The elements of a record at position p as codes. -/
def recRead (img : List Byte) (own b : Nat) (d : Desc) (m : SMap Byte) (p : List Int) (n : Nat) : List Nat :=
  (List.range n).map (fun (c : Nat) => elemRead img own b d m (posAdd p 0 c))

/-- The position of a row's companion record: dimensions 1 to 5 of the row (R187). -/
def sidePos (p : List Int) : List Int := posSet p 0 0

/-- One output of a tile row (R89, R118, R211, Table 7.7): its element index, its post unit and its number within the macro or group. -/
structure OutIdx where
  idx : Nat
  unit : Nat
  n : Nat
deriving DecidableEq, Repr

/-- The outputs of one tile row of an operation at a precision, in ascending post unit and output. -/
def opOuts (w prec : Nat) : List OutIdx :=
  let nn := precN prec
  let g := opG w
  let ms := maskMacros (opMacros w)
  if opKind w = 0x01 then
    ((List.range (16 / g)).filter (fun (q : Nat) => (opMacros w).testBit (q * g))).flatMap (fun q =>
      (List.range nn).map (fun (n : Nat) => OutIdx.mk (q * nn + n) (g * q + n * g / nn) n))
  else if opKind w = 0x02 then ms.flatMap (fun m => (List.range 512).map (fun (k : Nat) => OutIdx.mk (512 * m + k) m k))
  else if opKind w = 0x10 then (List.range nn).map (fun (n : Nat) => OutIdx.mk n (ms.headD 0) n)
  else if opKind w = 0x11 then (List.range 512).map (fun (k : Nat) => OutIdx.mk k (ms.headD 0) k)
  else if opKind w = 0x06 then
    (List.range ms.length).flatMap (fun (j : Nat) => (List.range 64).map (fun (e : Nat) => OutIdx.mk (64 * j + e) (ms.getD j 0) e))
  else []

/-- Does the operation run an epilogue over outputs: FWD, TRN, PASS, SFWD, STRN? -/
def opHasOut (w : Nat) : Bool := decide (opKind w ∈ [0x01, 0x02, 0x06, 0x10, 0x11])

/-- Is the output's entry formed in transposed mode (R89)? -/
def opTrans (w : Nat) : Bool := decide (opKind w = 0x02 ∨ opKind w = 0x11)

/-- Elements of one input row at loop position p that an operation reads (Table 7.7, R212): below the static extent in forward mode. -/
def inCount (w prec : Nat) (d : Desc) (p : List Int) : Nat :=
  let left := d.sexts.getD d.outdim 1 - (p.getD d.outdim 0).toNat
  if opKind w = 0x01 then min (512 * opG w) left
  else if opKind w = 0x10 then min 512 left
  else if opKind w = 0x02 then precN prec
  else if opKind w = 0x11 then min (precN prec) left
  else if opKind w = 0x06 then 64 * (maskMacros (opMacros w)).length
  else if opKind w = 0x03 ∨ opKind w = 0x04 then 1024 / fmtBits d.fmt * (maskMacros (opMacros w)).length
  else if opKind w = 0x07 then rowBytes d / 16 * 16 * 8 / fmtBits d.fmt
  else 0

/-- The weight of row k and channel n of macro m as an element of the operands of UPDATE, (row, channel) (Table 7.7), with the macro and channel
whose scale serves it (R136, R138). A twin's weight is that of the forward copy (Table 2.5). -/
def State.updElem (s : State) (b w m k n : Nat) : Nat × Nat × Nat × Nat :=
  let base := macBase (16 * b + m)
  let prec := s.getF base F.MAC_CFG_PREC
  let nn := precN prec
  let g := opG w
  if s.getF base F.MAC_CFG_TWIN_ROLE = 2 then
    let f := s.getF base F.MAC_CFG_TWIN_FIRST
    let own := s.getF (macBase (16 * b + f)) F.MAC_CFG_TWIN_FIRST
    let t := m - own
    let ch := if prec = 3 then 512 * t + k else k
    let kk := if prec = 3 then n else nn * t + n
    let mf := f + ch / nn
    (512 * (mf % g) + kk, mf / g * nn + ch % nn, mf, ch % nn)
  else (512 * (m % g) + k, m / g * nn + n, m, n)

/-- Channels of macro m that an UPDATE rewrites: at W1 a twin uses 512 of its columns (Table 2.5). -/
def State.updChannels (s : State) (b m : Nat) : Nat :=
  let base := macBase (16 * b + m)
  let prec := s.getF base F.MAC_CFG_PREC
  if prec = 3 ∧ s.getF base F.MAC_CFG_TWIN_ROLE = 2 then 512 else precN prec

/-- The positions of UPDATE's operands for macro m, in one descriptor. -/
def State.updPos (s : State) (b w : Nat) (d : Desc) (p : List Int) (m k n : Nat) : List Int :=
  let e := s.updElem b w m k n
  tilePos d p e.1 e.2.1

/-- Elements that one issue of a copy moves along source dimension 0: the run-time channel extent (R161). -/
def cpCount (sd : Desc) : Nat := sd.exts.getD 0 1

/-- Side of a TCOPY's tile (R162). -/
def cpSide (w : Nat) : Nat := 128 / 2 ^ cpEsize w

/-- The destination dimension that takes source dimension 0 (R161). -/
def cpDim (w : Nat) : Nat :=
  if opKind w = 0x22 then ((List.range 6).find? (fun (i : Nat) => decide (cpPerm w i = 0))).getD 0 else 0

/-- A copy's source elements as (source position, destination position) (R161, R162). -/
def copyPairs (w : Nat) (sd : Desc) (p q : List Int) : List (List Int × List Int) :=
  if opKind w = 0x21 then
    let n := cpSide w
    (List.range n).flatMap (fun (j : Nat) => (List.range n).map (fun (kk : Nat) => (posAdd (posAdd p 0 kk) 1 j, posAdd (posAdd q 0 j) 1 kk)))
  else (List.range (cpCount sd)).map (fun (c : Nat) => (posAdd p 0 c, posAdd q (cpDim w) c))

/-- A descriptor as a copy sees its elements: TCOPY moves units of ESIZE bits (R162). Its fill is that of its own format (R185), and its `OUTDIM` plays
no part (R161). -/
def cpDesc (w : Nat) (d : Desc) : Desc :=
  let f := if opKind w = 0x21 then (if cpEsize w = 0 then 1 else if cpEsize w = 1 then 11 else if cpEsize w = 2 then 7 else 10)
    else if d.fmt = 5 then 11 else d.fmt
  { d with fmt := f, outdim := 0, fill := if fmtBits f = fmtBits d.fmt then fillCode d else d.fill }

/-! ## Compressed tiles (R223, R224, Tables 8.1 to 8.3) -/

/-- x rounded up to a multiple of 64. -/
def pad64 (x : Nat) : Nat := (x + 63) / 64 * 64

/-- Fields of a tile header. -/
def tileFmt (t : List Byte) : Nat := leAt t 2 1
def tileEfmt (t : List Byte) : Nat := leAt t 3 1
def tileRows (t : List Byte) : Nat := leAt t 4 2
def tileCols (t : List Byte) : Nat := leAt t 6 2
def tileStored (t : List Byte) : Nat := leAt t 8 4
def tileDensity (t : List Byte) : Nat := leAt t 12 2
def tileLen (t : List Byte) : Nat := leAt t 16 4
def tileIdxLen (t : List Byte) : Nat := leAt t 20 4
def tileValCrc (t : List Byte) : Nat := leAt t 28 4

/-- Block edge of a tile format; 1 for CSR-64. -/
def tileEdge (f : Nat) : Nat := if f = 0 then 8 else if f = 2 then 16 else 1
/-- Units of a full tile. -/
def tileUnits (f r c : Nat) : Nat := r * c / (tileEdge f * tileEdge f)
/-- Bytes of a bitmap over n blocks. -/
def bitmapLen (n : Nat) : Nat := (n + 63) / 64 * 8
/-- The length of the index section (R224). -/
def idxLenOf (f r c stored : Nat) : Nat :=
  if f = 1 then r * c / 64 + stored
  else bitmapLen (tileUnits f r c) + (if f = 2 then 2 * stored else 0)
/-- Stored elements E. -/
def tileElems (t : List Byte) : Nat := tileStored t * (tileEdge (tileFmt t) * tileEdge (tileFmt t))
/-- VAL_LEN. -/
def tileValLen (t : List Byte) : Nat := ceilDiv (tileElems t * fmtBits (tileEfmt t)) 8
/-- Where the value section starts. -/
def tileValOff (t : List Byte) : Nat := 64 + pad64 (tileIdxLen t)

/-- Blocks stored, by bit number ascending. -/
def tileBlocks (t : List Byte) : List Nat :=
  (List.range (tileUnits (tileFmt t) (tileRows t) (tileCols t))).filter (fun (n : Nat) => (leAt t (64 + n / 8) 1).testBit (n % 8))

/-- Column-major rank of a block bit. -/
def colRank (t : List Byte) (n : Nat) : Nat :=
  let bc := tileCols t / tileEdge (tileFmt t)
  let br := tileRows t / tileEdge (tileFmt t)
  n % bc * br + n / bc

/-- Ordinals of the stored blocks in block-column-major order (Table 8.2): what the column-order table holds. -/
def colOrder (t : List Byte) : List Nat :=
  let bl := tileBlocks t
  let ord := bl.zip (List.range bl.length)
  (List.range (tileUnits (tileFmt t) (tileRows t) (tileCols t))).filterMap (fun (rank : Nat) => (ord.find? (fun e => decide (colRank t e.1 = rank))).map
    Prod.snd)

/-- Offsets of stored elements of a CSR tile as (row, column), in the order of the values. -/
def csrElems (t : List Byte) : List (Nat × Nat) :=
  let np := tileCols t / 64
  let counts := (List.range (tileRows t * np)).map (fun (k : Nat) => leAt t (64 + k) 1)
  let base := 64 + tileRows t * np
  (counts.zip (List.range counts.length)).foldl (fun (acc : Nat × List (Nat × Nat)) e =>
    (acc.1 + e.1, acc.2 ++ (List.range e.1).map (fun (x : Nat) => (e.2 / np, e.2 % np * 64 + leAt t (base + acc.1 + x) 1)))) (0, []) |>.2

/-- Every stored element of a tile as (row, column), in the order of the values. -/
def tileCells (t : List Byte) : List (Nat × Nat) :=
  if tileFmt t = 1 then csrElems t
  else
    let e := tileEdge (tileFmt t)
    let bc := tileCols t / e
    (tileBlocks t).flatMap (fun n => (List.range (e * e)).map (fun (x : Nat) => (n / bc * e + x / e, n % bc * e + x % e)))

/-- Code x of the value section. -/
def tileCode (t : List Byte) (x : Nat) : Nat :=
  let bitsW := fmtBits (tileEfmt t)
  bits (leAt t (tileValOff t + x * bitsW / 8) 1) (x * bitsW % 8) bitsW

/-- The stored elements with their codes, as (row, column, code). -/
def tileEntries (t : List Byte) : List (Nat × Nat × Nat) :=
  let cs := tileCells t
  (cs.zip (List.range cs.length)).map (fun e => (e.1.1, e.1.2, tileCode t e.2))

/-- A CSR index is well formed (cause 6). -/
def csrOk (t : List Byte) : Bool :=
  let np := tileCols t / 64
  let counts := (List.range (tileRows t * np)).map (fun (k : Nat) => leAt t (64 + k) 1)
  counts.all (fun c => decide (c ≤ 64)) && decide (counts.sum = tileStored t)
    && (let es := csrElems t
        (es.zip (es.drop 1)).all (fun p => decide (p.1.1 ≠ p.2.1 ∨ p.1.2 / 64 ≠ p.2.2 / 64 ∨ p.1.2 < p.2.2)))
    && (List.range (tileStored t)).all (fun (k : Nat) => decide (leAt t (64 + tileRows t * np + k) 1 < 64))

/-- A bitmap index is well formed (cause 6). -/
def bitmapOk (t : List Byte) : Bool :=
  let n := tileUnits (tileFmt t) (tileRows t) (tileCols t)
  let all := onesOf (8 * bitmapLen n) (leAt t 64 (bitmapLen n))
  decide (all.length = tileStored t) && all.all (fun k => decide (k < n))
    && (decide (tileFmt t ≠ 2)
      || decide ((List.range (tileStored t)).map (fun (k : Nat) => leAt t (64 + bitmapLen n + 2 * k) 2) = colOrder t))

/-- The geometry fits the format (cause 3). -/
def geomOk (t : List Byte) : Bool :=
  let r := tileRows t
  let c := tileCols t
  let e := tileEdge (tileFmt t)
  decide (1 ≤ r) && decide (r ≤ 512) && decide (1 ≤ c) && decide (c ≤ 512)
    && (if tileFmt t = 1 then decide (c % 64 = 0) else decide (r % e = 0) && decide (c % e = 0))

/-- The first cause of Table 8.3 that a staged header and index fail; `len` is LEN of the directory entry, (rows, cols, efmt) what the
operation needs, `fmts` the formats it allows. -/
def tileCause (t : List Byte) (len rows cols efmt : Nat) (fmts : List Nat) : Option Nat :=
  if leAt t 0 2 ≠ 0x5453 ∨ 2 < tileFmt t ∨ ¬ tileEfmt t ∈ [0, 1, 2, 4, 5] then some 1
  else if leAt t 60 4 ≠ crc32c (t.take 60) then some 2
  else if !geomOk t ∨ tileRows t ≠ rows ∨ tileCols t ≠ cols ∨ tileEfmt t ≠ efmt then some 3
  else if 81920 < tileLen t ∨ tileLen t ≠ 64 * len ∨ tileIdxLen t ≠ idxLenOf (tileFmt t) (tileRows t) (tileCols t) (tileStored t) then some 4
  else if leAt t 24 4 ≠ crc32c (slice t 64 (pad64 (tileIdxLen t))) then some 5
  else if (if tileFmt t = 1 then !csrOk t else !bitmapOk t) then some 6
  else if tileDensity t ≠ 65535 * tileStored t / tileUnits (tileFmt t) (tileRows t) (tileCols t) then some 7
  else if ¬ tileFmt t ∈ fmts then some 9
  else none

/-- VAL_CRC matches (cause 8). -/
def valOk (t : List Byte) : Bool := decide (tileValCrc t = crc32c (slice t (tileValOff t) (pad64 (tileValLen t))))

/-! ## Directories (R225, R226, R246) -/

/-- OFFSET and LEN of a directory entry. -/
def entOff (e : Nat) : Nat := bits e 0 30
def entLen (e : Nat) : Nat := bits e 32 16

/-- The entry at a directory position: 0, an absent tile, out of bounds. -/
def dirEntry (img : List Byte) (own b : Nat) (d : Desc) (m : SMap Byte) (p : List Int) : Nat :=
  if inBounds d p then leNat ((List.range 8).map (fun (c : Nat) => BitVec.ofNat 8 (elemRead img own b d m (posAdd p 0 c)))) else 0

/-- The place of byte k of a body at OFFSET `off`. -/
def bodyKey (img : List Byte) (own b : Nat) (d : Desc) (off k : Nat) : Option Nat :=
  resolve img own b d ((if d.loc = 3 then 0 else descBase d) + 64 * off + k)

/-- Bytes k to k + n - 1 of a staged body; an absent one reads as 0. -/
def bodyRead (img : List Byte) (own b : Nat) (d : Desc) (m : SMap Byte) (off k n : Nat) : List Byte :=
  (List.range n).map (fun (x : Nat) => ((bodyKey img own b d off (k + x)).map (fun y => SMap.get 0 m y)).getD 0)

/-- Lines of bytes k to k + n - 1 of a body. -/
def bodyLines (img : List Byte) (own b : Nat) (d : Desc) (off k n : Nat) : List Nat :=
  dedup ((List.range (ceilDiv n 64)).filterMap (fun (x : Nat) => (bodyKey img own b d off (k + 64 * x)).map lineOf))

/-- The valid binding of a dense descriptor index of block b (R245): its number. -/
def State.binding (s : State) (b desc : Nat) : Option Nat :=
  (List.range 16).find? (fun (i : Nat) =>
    let w := (s.reg (blkBase b + 0x20100 + 0x10 * i)).toNat
    w.testBit 15 && decide (w % 4096 = desc))

/-- Word k of binding i. -/
def State.bindWord (s : State) (b i k : Nat) : Nat := (s.reg (blkBase b + 0x20100 + 0x10 * i + 4 * k)).toNat
def State.bindFmt (s : State) (b i : Nat) : Nat := bits (s.bindWord b i 0) 12 2
def State.bindEfmt (s : State) (b i : Nat) : Nat := bits (s.bindWord b i 0) 28 4
def State.bindDir (s : State) (b i : Nat) : Desc := descAt s.img b (bits (s.bindWord b i 0) 16 12)
def State.bindTr (s : State) (b i : Nat) : Nat := bits (s.bindWord b i 1) 0 5 + 1
def State.bindTc (s : State) (b i : Nat) : Nat := 64 * 2 ^ bits (s.bindWord b i 1) 5 2

/-- The slot of a body in the directory's bodies (R246). -/
def State.bodySlot (s : State) (b i : Nat) (q : List Int) : Nat :=
  s.bindWord b i 2 + logicalIdx (s.bindDir b i) q / 8 * (s.bindWord b i 3 % 65536)

/-- The directory position of the tile that holds an element of a bound tensor (R246). -/
def State.tileDirPos (s : State) (b i : Nat) (d : Desc) (p : List Int) : List Int :=
  let g := fun k => p.getD k 0
  [0, g 0 / (s.bindTc b i : Nat), g 1 / (s.bindTr b i : Nat), g 2, g 3, g 4 + (d.exts.getD 4 1 : Nat) * g 5]

/-- Lines that reading an element of a bound tensor needs, as far as what is staged tells: the directory entry, then the body. -/
def State.boundLines (s : State) (b i : Nat) (d : Desc) (m : SMap Byte) (got : List Nat) (p : List Int) : List Nat :=
  if inBounds d p then
    let own := s.ownCoord
    let dd := s.bindDir b i
    let q := s.tileDirPos b i d p
    let dl := (recKeys s.img own b dd q 8).map lineOf
    if dl.all (fun l => decide (l ∈ got)) then
      let e := dirEntry s.img own b dd m q
      dl ++ (if entLen e = 0 then [] else bodyLines s.img own b dd (entOff e) 0 (64 * entLen e))
    else dl
  else []

/-- The staged tile that holds an element of a bound tensor with its LEN; none where it is absent. -/
def State.boundTile (s : State) (b i : Nat) (d : Desc) (m : SMap Byte) (p : List Int) : Option (List Byte × Nat) :=
  let own := s.ownCoord
  let dd := s.bindDir b i
  let e := dirEntry s.img own b dd m (s.tileDirPos b i d p)
  if entLen e = 0 then none else some (bodyRead s.img own b dd m (entOff e) 0 (64 * entLen e), entLen e)

/-- An element of a bound tensor (R249). -/
def State.boundRead (s : State) (b i : Nat) (d : Desc) (m : SMap Byte) (p : List Int) : Nat :=
  if !inBounds d p then fillCode d
  else
    match s.boundTile b i d m p with
    | some (t, _) =>
      let r := (p.getD 1 0).toNat % s.bindTr b i
      let c := (p.getD 0 0).toNat % s.bindTc b i
      let code := ((tileEntries t).find? (fun e => decide (e.1 = r ∧ e.2.1 = c))).map (fun e => e.2.2) |>.getD 0
      if d.fmt = 5 then code % 64 else code
    | none => 0

/-! ## Elements, side lists and scales of an operand -/

/-- An element's code through descriptor index desc, from staged bytes: through the expander where the index is bound (R183, R246, R249). -/
def State.tRead (s : State) (b desc : Nat) (d : Desc) (m : SMap Byte) (p : List Int) : Nat :=
  match s.binding b desc with
  | some k => s.boundRead b k d m p
  | none => elemRead s.img s.ownCoord b d m p

/-- Lines that an element's read through a descriptor index needs. -/
def State.tLines (s : State) (b desc : Nat) (d : Desc) (m : SMap Byte) (got : List Nat) (p : List Int) : List Nat :=
  match s.binding b desc with
  | some k => s.boundLines b k d m got p
  | none => elemLines s.img s.ownCoord b d p

/-- An element's code of an issue's slot. -/
def State.srcRead (s : State) (b : Nat) (i : Issue) (sl : Nat) (d : Desc) (p : List Int) : Nat := s.tRead b (opDesc i.word sl) d i.staged p

/-- Lines that an element of an issue's slot needs. -/
def State.srcLines (s : State) (b : Nat) (i : Issue) (sl : Nat) (d : Desc) (p : List Int) : List Nat :=
  s.tLines b (opDesc i.word sl) d i.staged i.got p

/-- The formats that carry a scale, or, INT32, the scale of a later epilogue (R105, R135, R181). -/
def Desc.scaled (d : Desc) : Bool := !decide (d.fmt = 7 ∨ d.fmt = 8 ∨ d.fmt = 9 ∨ d.fmt = 11)
/-- The operand has a scale stream that its reader or writer uses (R181, R188). -/
def Desc.streams (d : Desc) : Bool := decide (d.smode ≠ 0) && decide (d.sstream ≠ 0xFFF) && d.scaled

/-- The place in a packed base of slot sl's row counter. -/
def baseOf (packed sl : Nat) : Nat := packed / 2 ^ (32 * sl) % 2 ^ 32

/-- The scale record of row number j of a stream (R96, R188): scale and tag. -/
def State.scaleRec (s : State) (b : Nat) (d : Desc) (m : SMap Byte) (j : Nat) : Nat × Nat :=
  let sd := descAt s.img b d.sstream
  let c := recRead s.img s.ownCoord b sd m (rowPos sd j) 4
  (c.getD 0 0 % 256 + 256 * (c.getD 1 0 % 256), c.getD 2 0 % 256)

/-- Lines of the scale record of row number j. -/
def State.scaleLines (s : State) (b : Nat) (d : Desc) (j : Nat) : List Nat :=
  let sd := descAt s.img b d.sstream
  (recKeys s.img s.ownCoord b sd (rowPos sd j) 4).map lineOf

/-- Lines of the side-list record of a row (R187). -/
def State.sideLines (s : State) (b : Nat) (d : Desc) (p : List Int) : List Nat :=
  if d.side = 0xFFF ∨ fmtIsNq d.fmt = false then [] else (recKeys s.img s.ownCoord b (descAt s.img b d.side) (sidePos p) 32).map lineOf

/-- Entry n of the side list of a row; 0 without a list (R187). -/
def State.sideEntry (s : State) (b : Nat) (d : Desc) (m : SMap Byte) (p : List Int) (n : Nat) : Nat :=
  if d.side = 0xFFF then 0 else elemRead s.img s.ownCoord b (descAt s.img b d.side) m (posAdd (sidePos p) 0 n)

/-- Tile rows of an operand, as positions. -/
def tileRowsAt (w : Nat) (d : Desc) (p : List Int) : List (List Int) := (List.range (opRows w)).map (fun (r : Nat) => posAdd p d.rowdim r)

/-- A row of an UPDATE's operand: its name (a gradient row's is its tensor row, a row of moments' is that of the macro and macro row whose weights
it serves), its tensor row, and the channels taken in it. -/
structure UpdRowOf where
  name : Nat
  row : Nat
  chans : List Nat
deriving DecidableEq, Repr

/-- A channel of a row added to a list of rows. -/
def addUpdRow (l : List UpdRowOf) (name row c : Nat) : List UpdRowOf :=
  if l.any (fun x => decide (x.name = name)) then l.map (fun x => if x.name = name then { x with chans := x.chans ++ [c] } else x)
  else l ++ [⟨name, row, [c]⟩]

/-- Rows of an UPDATE's operand, in the order it takes them: macro row by macro row, and the macros of the mask within each (R136). -/
def State.updRows (s : State) (b w sl : Nat) : List UpdRowOf :=
  (List.range 512).foldl (fun acc k =>
    (maskMacros (opMacros w)).foldl (fun acc m =>
      (List.range (s.updChannels b m)).foldl (fun acc n =>
        let e := s.updElem b w m k n
        addUpdRow acc (if sl = 0 then e.1 else 512 * e.2.2.1 + e.1 % 512) e.1 e.2.1) acc) acc) []

/-- A row of an UPDATE's operand at loop position p holds an element in bounds. -/
def UpdRowOf.has (x : UpdRowOf) (d : Desc) (p : List Int) : Bool := rowHas d (posAdd p d.rowdim x.row) x.chans

/-- The number of a row of an UPDATE's operand at loop position p among those in bounds. -/
def updRowNo (rows : List UpdRowOf) (d : Desc) (p : List Int) (name : Nat) : Nat :=
  ((rows.takeWhile (fun q => decide (q.name ≠ name))).filter (fun q => q.has d p)).length

/-- The number of a row among the in-bounds rows of a list, each of elements es. -/
def rowCount (d : Desc) (es : List Nat) (rows : List (List Int)) (p : List Int) : Nat :=
  ((rows.takeWhile (fun q => decide (q ≠ p))).filter (fun q => rowHas d q es)).length

/-- Element indices of an issue's input rows. -/
def State.inIdx (s : State) (b : Nat) (i : Issue) (d : Desc) : List Nat := List.range (inCount i.word (opPrec s.img b i.word) d (i.at 0))

/-- The number of the row of position p in the scale stream of an issue's input (R97, R188). -/
def State.inRowNo (s : State) (b : Nat) (i : Issue) (d : Desc) (p : List Int) : Nat :=
  baseOf i.rdBase 0 + rowCount d (s.inIdx b i d) (tileRowsAt i.word d (i.at 0)) p

/-- The element positions that an operation reads in tile row r of slot sl; a ROWFIN takes the row from its first byte (R134). -/
def State.rdElems (s : State) (b : Nat) (i : Issue) (sl r : Nat) (d : Desc) : List (List Int) :=
  (List.range (inCount i.word (opPrec s.img b i.word) d (i.at sl))).map (fun (e : Nat) =>
    if opKind i.word = 0x07 then posSet (posAdd (i.at sl) d.rowdim r) 0 e else tilePos d (i.at sl) r e)

/-- The elements before position q in its tensor row. -/
def priorPos (q : List Int) : List (List Int) := (List.range (q.getD 0 0).toNat).map (fun (c : Nat) => posSet q 0 c)

/-- Does a reader of an operand in descriptor d take side-list entries? -/
def takesSide (d : Desc) : Bool := fmtIsNq d.fmt && decide (d.side ≠ 0xFFF)

/-- Earlier elements of the tensor rows that an input row takes elements of: an escape's entry is its number among the escapes of its whole
row (R85). -/
def priorOf (d : Desc) (es : List (List Int)) : List (List Int) :=
  if takesSide d then (if d.outdim = 0 then priorPos (es.headD pos0) else es.flatMap priorPos) else []

/-- The slots of an operation that carry data in a tensor format, and are read. -/
def rdSlots (w : Nat) : List Nat :=
  if opKind w = 0x05 then [0, 2, 3] else if opKind w ∈ [0x12, 0x13, 0x24] then [] else [0]

/-- Does the operation take its input rows with their scales and side lists? -/
def opScaled (w : Nat) : Bool := decide (opKind w ∈ [0x01, 0x02, 0x06, 0x10, 0x11])

/-- Lines of tile row r of an issue's input, with its side list and scale record (R594); with `all` also the earlier elements of its rows, which
R122 does not list. -/
def State.rowLines (s : State) (b : Nat) (i : Issue) (all : Bool) (r : Nat) : List Nat :=
  let d := s.iDesc b i 0
  let p := posAdd (i.at 0) d.rowdim r
  let es := s.rdElems b i 0 r d
  let dl := es.flatMap (s.srcLines b i 0 d)
  if opScaled i.word then
    let sc := if d.streams && rowHas d p (s.inIdx b i d) then s.scaleLines b d (s.inRowNo b i d p) else []
    let sd := if !takesSide d then []
      else if d.outdim = 0 then (if rowHas d p (s.inIdx b i d) then s.sideLines b d p else [])
      else (es.filter (inBounds d)).flatMap (s.sideLines b d)
    dedup (dl ++ (if all then (priorOf d es).flatMap (s.srcLines b i 0 d) else []) ++ sc ++ sd)
  else dedup dl

/-- Lines of the row parameters of tile row r (R130). -/
def State.parLines (s : State) (b : Nat) (i : Issue) (r : Nat) : List Nat :=
  if opHasOut i.word && (opRowSub i.word || opRowMul i.word) then
    let d := s.iDesc b i 2
    (List.range 2).flatMap (fun (e : Nat) => s.srcLines b i 2 d (tilePos d (i.at 2) r e))
  else []

/-- Positions of a record of n bytes whose first element lies at position p, along `OUTDIM`. -/
def recPos (d : Desc) (p : List Int) (n : Nat) : List (List Int) := (List.range (ceilDiv (8 * n) (fmtBits d.fmt))).map (fun (e : Nat) => posAdd p d.outdim e)

/-- Lines of the hyperparameters of an UPDATE. -/
def State.hypLines (s : State) (b : Nat) (i : Issue) : List Nat :=
  let d := s.iDesc b i 1
  (recPos d (i.at 1) 32).flatMap (s.srcLines b i 1 d)

/-- The positions of an operand of UPDATE in slot sl. -/
def State.updAll (s : State) (b : Nat) (i : Issue) (sl : Nat) (d : Desc) : List (List Int) :=
  (maskMacros (opMacros i.word)).flatMap (fun m => (List.range 512).flatMap (fun (k : Nat) =>
    (List.range (s.updChannels b m)).map (fun (n : Nat) => s.updPos b i.word d (i.at sl) m k n)))

/-- The highest channel that each row of an UPDATE's operand takes, as a position: what comes before it tells its escapes' entries (R85). -/
def UpdRowOf.tops (x : UpdRowOf) (d : Desc) (p : List Int) : List (List Int) :=
  let q := posAdd p d.rowdim x.row
  if d.outdim = 0 then [posAdd q 0 (x.chans.foldl max 0 : Nat)] else x.chans.map (fun (c : Nat) => posAdd q d.outdim c)

/-- Lines of an UPDATE's inputs (R136); with `all` also the earlier elements of their rows. -/
def State.updLines (s : State) (b : Nat) (i : Issue) (all : Bool) : List Nat :=
  dedup (s.hypLines b i ++ [0, 2, 3].flatMap (fun sl =>
    let d := s.iDesc b i sl
    let p := i.at sl
    let rows := (s.updRows b i.word sl).filter (fun x => x.has d p)
    let comp := rows.flatMap (fun x =>
      (if takesSide d then s.sideLines b d (posAdd p d.rowdim x.row) else [])
        ++ (if d.streams then s.scaleLines b d (baseOf i.rdBase sl + updRowNo rows d p x.name) else []))
    let prior := if all && takesSide d then rows.flatMap (fun x => (x.tops d p).flatMap priorPos) else []
    (s.updAll b i sl d ++ prior).flatMap (s.srcLines b i sl d) ++ comp))

/-- The elements of the bytes of a header area's first word (R134, R190). -/
def State.epsKeys (s : State) (b : Nat) (d : Desc) : Option (List Nat) :=
  if d.hdr = 0 then none
  else
    let o := ((elemOff d pos0).1 + 2 ^ 64 - 64 * d.hdr) % 2 ^ 64
    ((List.range 4).map (fun (k : Nat) => resolve s.img s.ownCoord b d (o + k))).mapM id

/-- ε of a ROWFIN: +0.0 without a header area or where its word is absent (R134). -/
def State.epsOf (s : State) (b : Nat) (d : Desc) (m : SMap Byte) : F32 :=
  match s.epsKeys b d with
  | some ks => BitVec.ofNat 32 (leNat (ks.map (fun k => SMap.get 0 m k)))
  | none => f32zero

/-! ## The tile of a sparse operation (R225, R230) -/

/-- The directory position of D4 or D5. -/
def Issue.dirPos (i : Issue) (sl : Nat) : List Int := posSet (i.at sl) 0 0

/-- The directory entry of an issue's slot from what is staged. -/
def State.sparseEnt (s : State) (b : Nat) (i : Issue) (sl : Nat) : Nat :=
  dirEntry s.img s.ownCoord b (s.iDesc b i sl) i.staged (i.dirPos sl)

/-- The staged bytes of the tile of slot sl; empty where it is absent. -/
def State.sparseTile (s : State) (b : Nat) (i : Issue) (sl : Nat) : List Byte :=
  let e := s.sparseEnt b i sl
  bodyRead s.img s.ownCoord b (s.iDesc b i sl) i.staged (entOff e) 0 (64 * entLen e)

/-- Lines of a slot's directory entry. -/
def State.dirLines (s : State) (b : Nat) (i : Issue) (sl : Nat) : List Nat :=
  (recKeys s.img s.ownCoord b (s.iDesc b i sl) (i.dirPos sl) 8).map lineOf

/-- Lines of a slot's header and index, as far as what is staged tells; `full` asks for the whole body. -/
def State.tileLines (s : State) (b : Nat) (i : Issue) (sl : Nat) (full : Bool) : List Nat :=
  let dl := s.dirLines b i sl
  if dl.all (fun l => decide (l ∈ i.got)) then
    let e := s.sparseEnt b i sl
    let d := s.iDesc b i sl
    if entLen e = 0 then dl
    else
      let hl := bodyLines s.img s.ownCoord b d (entOff e) 0 64
      if full then dl ++ bodyLines s.img s.ownCoord b d (entOff e) 0 (64 * entLen e)
      else if hl.all (fun l => decide (l ∈ i.got)) then
        let h := bodyRead s.img s.ownCoord b d i.staged (entOff e) 0 64
        dl ++ bodyLines s.img s.ownCoord b d (entOff e) 0 (min (64 * entLen e) (tileValOff h))
      else dl ++ hl
  else dl

/-- Is the record a sparse operation on a weight tile? -/
def opIsSparse (w : Nat) : Bool := decide (opKind w = 0x10 ∨ opKind w = 0x11 ∨ opKind w = 0x12)

/-- Lines of the value section that hold stored elements of these tile rows (R244, R273). -/
def State.valLines (s : State) (b : Nat) (i : Issue) (outs : List Nat) : List Nat :=
  let e := s.sparseEnt b i 4
  let t := s.sparseTile b i 4
  let es := tileEntries t
  let w := fmtBits (tileEfmt t)
  dedup ((es.zip (List.range es.length)).flatMap (fun x =>
    if x.1.1 ∈ outs then bodyLines s.img s.ownCoord b (s.iDesc b i 4) (entOff e) (tileValOff t + x.2 * w / 8) 1 else []))

/-! ## What an issue waits for -/

/-- The descriptor of the predictor input of block b (R262). -/
def State.predDesc (s : State) (b : Nat) : Desc := descAt s.img b (s.getF (blkBase b) F.CIR_PRED_DESC_DESC)
/-- The position of predictor row r of an issue: the loop position of D0 in dimensions 1 to 5 (R262). -/
def Issue.predPos (i : Issue) (d : Desc) (r : Nat) : List Int := posAdd (posSet (i.at 0) 0 0) d.rowdim r
/-- L, the elements of a predictor row. -/
def State.predLen (s : State) (b : Nat) : Nat := s.getF (blkBase b) F.CIR_CFG_ROWS

/-- The descriptor index of the predictor input. -/
def State.predIdx (s : State) (b : Nat) : Nat := s.getF (blkBase b) F.CIR_PRED_DESC_DESC
/-- The element positions of predictor row r. -/
def State.predElems (s : State) (b : Nat) (i : Issue) (r : Nat) : List (List Int) :=
  let d := s.predDesc b
  (List.range (s.predLen b)).map (fun (e : Nat) => posAdd (i.predPos d r) d.outdim e)
/-- The code of an element of the predictor input. -/
def State.predRead (s : State) (b : Nat) (i : Issue) (p : List Int) : Nat := s.tRead b (s.predIdx b) (s.predDesc b) i.staged p

/-- Lines of predictor row r with its side lists, and the earlier elements of the tensor rows that it takes elements of (R85, R262, R266). -/
def State.predLines (s : State) (b : Nat) (i : Issue) (r : Nat) : List Nat :=
  let d := s.predDesc b
  let es := s.predElems b i r
  dedup ((es ++ priorOf d es).flatMap (s.tLines b (s.predIdx b) d i.staged i.got)
    ++ (if takesSide d then (es.filter (inBounds d)).flatMap (s.sideLines b d) else []))

/-- Lines of a sparse operation's tiles. SPACK needs the mask, its destination's directory entry, and in a training plan the tile there, whose format
R251 judges (log entry 88); a present tile is fetched whole (R226). -/
def State.spLines (s : State) (b : Nat) (i : Issue) (probe : Bool) : List Nat :=
  let w := i.word
  if opKind w = 0x13 then
    (if planTraining s.img then s.tileLines b i 4 (!probe) else s.dirLines b i 4) ++ s.tileLines b i 5 (!probe)
  else if opIsSparse w then s.tileLines b i 4 (!probe && !opPred w && !(decide (i.path = 2) && i.eng.dealt))
  else []

/-- Lines of a copy's source row. -/
def State.copyLines (s : State) (b : Nat) (i : Issue) : List Nat :=
  if opKind i.word = 0x24 then []
  else
    let sd := s.iDesc b i 0
    dedup ((copyPairs i.word sd (i.at 0) (i.at 1)).flatMap (fun e => s.srcLines b i 0 (cpDesc i.word sd) e.1))

/-- Lines that an issue's operands and records take (R122); with `all` also the others that it reads. -/
def State.inLines (s : State) (b : Nat) (i : Issue) (all : Bool) : List Nat :=
  let w := i.word
  let k := opKind w
  if opIsCopy w then s.copyLines b i
  else if k = 0x05 then s.updLines b i all
  else if k = 0x12 ∨ k = 0x13 then []
  else
    let eps := if all && decide (k = 0x07) then ((s.epsKeys b (s.iDesc b i 0)).getD []).map lineOf else []
    dedup ((List.range (opRows w)).flatMap (s.rowLines b i all) ++ eps ++ (List.range (opRows w)).flatMap (s.parLines b i))

/-- Lines that Cirrus adds to an issue: predictor rows, and value lines of predicted and audited outputs (R244, R262, R279). -/
def State.cirLines (s : State) (b : Nat) (i : Issue) : List Nat :=
  let w := i.word
  if opPred w then
    let outs := fun (e : Engine) => if e.predOk then e.predicted ++ e.audits else []
    (if s.isF (blkBase b) F.CIR_CFG_EN then (List.range (if opKind w = 0x12 then 8 else opRows w)).flatMap (s.predLines b i) else [])
      ++ s.valLines b i (outs i.eng ++ outs i.nxt)
  else []

/-- Lines that an issue's inputs need, as far as what is staged tells (R594). A probe stages a sparse tile's entry, header and index alone. -/
def State.wants (s : State) (b : Nat) (i : Issue) (probe : Bool) : List Nat :=
  if probe then dedup (s.spLines b i true) else dedup (s.inLines b i true ++ s.spLines b i false ++ s.cirLines b i)

/-- Every line that an issue needs has arrived. -/
def State.staged (s : State) (b : Nat) (i : Issue) : Bool := (s.wants b i false).all (fun l => decide (l ∈ i.got))

end Sys2Proof.Machine
end

