-- ==== Sys2Proof/Machine/Stage.lean ====
section
/-! DEFINITION. How an issue's lines travel: staging of its inputs (R594), its stores and their credits (R153, R155, R320), slots of circular
regions (R158), and faults of work in flight (R124). -/

namespace Sys2Proof.Machine

/-! ## Issues in flight -/

/-- BLK_META_BAD of a tile (R227, R228, R249): its cause is recorded for the first failure since META_ERR was clear. -/
def State.metaErr (s : State) (b cause source desc : Nat) : State :=
  let base := blkBase b
  if s.isF base F.SPE_STAT_META_ERR then s
  else (((s.flagF base F.SPE_STAT_META_ERR).setF base F.SPE_META_ERR_CAUSE cause).setF base F.SPE_META_ERR_SOURCE source).setF base
    F.SPE_META_ERR_DESC desc

/-! ## Circular regions as the block's own issues use them (R158) -/

/-- HEAD passes every slot whose reads are complete, in the order they were taken. -/
def State.headRun (s : State) (b i : Nat) : Nat → State
  | 0 => s
  | n + 1 =>
    let h := s.circHead b i
    if SMap.get 0 (s.bx b).circRead (doneKey i h) = 1 then
      ((s.setBx b { s.bx b with circRead := SMap.set 0 (s.bx b).circRead (doneKey i h) 0 }).headAdvance b i).headRun b i n
    else s

/-- The reads of an issue's slots are complete. -/
def State.readsDone (s : State) (b id : Nat) : State :=
  match s.workOf b id with
  | some (i, _) =>
    let mine := i.uses.filter (fun u => !u.wr)
    let s1 := s.modIssue b id (fun x => { x with
      uses := x.uses.filter SlotUse.wr, claims := x.claims.filter (fun c => decide (c.space ≠ 0) || c.wr) })
    mine.foldl (fun st u =>
      (st.setBx b { st.bx b with circRead := SMap.set 0 (st.bx b).circRead (doneKey u.region u.slotNo) 1 }).headRun b u.region
        (2 * st.circSize b u.region)) s1
  | none => s

/-- The slots that an issue fills are complete: their bytes leave the gather buffer for their banks, and TAIL advances in order. -/
def State.writesDone (s : State) (b id : Nat) : State :=
  match s.workOf b id with
  | some (i, _) =>
    let mine := i.uses.filter (fun u => u.wr && !u.outbound)
    let s1 := s.modIssue b id (fun x => { x with uses := [] })
    mine.foldl (fun st u =>
      let lo := st.circBase b u.region
      let hi := lo + st.circSlot b u.region * st.circSize b u.region
      let t := (((st.bx b).gather.map GLine.line).filter (fun l => decide (lo ≤ l) && decide (l < hi))).foldl (fun z l => z.gatherFlush b l) st
      (t.setBx b { t.bx b with circBegun := SMap.set 0 (t.bx b).circBegun (doneKey u.region u.slotNo) 1 }).tailRun b u.region
        (2 * t.circSize b u.region)) s1
  | none => s

/-- An issue's last effect has been made: its slots are complete. -/
def State.issueDone (s : State) (b id : Nat) : State :=
  ((s.writesDone b id).readsDone b id).modIssue b id (fun x => { x with done := true, resv := 0 })

/-! ## HBM requests and their credits (R320) -/

/-- Requests that wait for a credit go out, in order at each pseudo-channel. -/
def State.outboxGo (s : State) (b : Nat) : State :=
  let r := (s.bx b).outbox.foldl (fun (acc : List Msg × List Nat × State) m =>
    let pc := m.dst - 1024
    if pc ∈ acc.2.1 ∨ pcCredits b ≤ acc.2.2.pcUsed b pc then (acc.1 ++ [m], pc :: acc.2.1, acc.2.2)
    else (acc.1, acc.2.1, acc.2.2.send b m.dst 256 m.body)) ([], [], s)
  r.2.2.setBx b { r.2.2.bx b with outbox := r.1 }

/-- A write or atomic add to HBM, as soon as a credit is free. -/
def State.hbmPost (s : State) (b a : Nat) (body : Body) : State :=
  (s.setBx b { s.bx b with outbox := (s.bx b).outbox ++ [⟨b, 1024 + hbmPc a, 256, body⟩] }).outboxGo b

/-! ## Lines and runs of lines (R313, R319, R594) -/

/-- The device and the place on it of a place that is not on this device. -/
def devCoord (k : Nat) : Nat := k / 0x20000000000 - 1
def devKey (k : Nat) : Nat := k % 0x20000000000

/-- Numbers ascending, each once. -/
def sortNat (l : List Nat) : List Nat := (l.foldl (fun m k => SMap.set 0 m k 1) []).map Prod.fst

/-- The place lies in block b's own scratchpad. -/
def ownLine (b k : Nat) : Bool := isSpd k && decide (spdBlk k = b)

/-- A run of n lines from k0 on takes line k too: consecutive lines of one target, up to four within a 256-byte granule of this device's HBM and up to
32 elsewhere. -/
def runJoins (k0 n k : Nat) : Bool :=
  let r0 := devKey k0
  let r := devKey k
  decide (k = k0 + 64 * n) && decide (k / 0x20000000000 = k0 / 0x20000000000)
    && (if isHbm k0 then decide (k / 256 = k0 / 256)
        else decide (n < 32) && (if isSpd r0 then isSpd r && decide (spdBlk r = spdBlk r0) else !isSpd r))

/-- Lines, ascending, as runs (first line, lines). -/
def lineRuns (l : List Nat) : List (Nat × Nat) :=
  (l.foldl (fun (acc : List (Nat × Nat)) k =>
    match acc with
    | (k0, n) :: r => if runJoins k0 n k then (k0, n + 1) :: r else (k, 1) :: acc
    | [] => [(k, 1)]) []).reverse

/-! ## Staging (R594) -/

/-- Lines of 64 bytes have arrived for an issue, from place k on. -/
def Issue.arrive (i : Issue) (k : Nat) (data : List Byte) : Issue :=
  let ls := (List.range (data.length / 64)).map (fun (x : Nat) => k + 64 * x)
  { i with
    need := i.need.filter (fun l => !decide (l ∈ ls)), got := i.got ++ ls,
    staged := (data.zip (List.range data.length)).foldl (fun m e => SMap.set 0 m (k + e.2) e.1) i.staged }

/-- A line of the block's own scratchpad fetched for an issue, through the gather buffer where the access is narrower than the line (R153), unless a
restore of the retained window holds it (R170). A line beyond the scratchpad has no bank (R145), and an uncorrectable word is not delivered
(R151). -/
def State.fetchOwn (s : State) (b id : Nat) (narrow : Bool) (k : Nat) : State :=
  let o := spdOff k
  if 0x60000 ≤ o then s.issueFault b id (unitBlk b) 0x13
  else if s.retHeld b o then s
  else
    match (if narrow then s.gatherRead b o else (s.gatherFlush b o).spdLine b o) with
    | (some d, s1) => s1.modIssue b id (fun x => x.arrive k d)
    | (none, s1) => s1.issueFault b id (unitBlk b) 0x34

/-- A run of lines asked for in one message: of another block, of HBM under one credit, or of another device (R155, R196, R319, R320). -/
def State.fetchRun (s : State) (b id : Nat) (e : Nat × Nat) : State :=
  let k := e.1
  let wait := s.modIssue b id (fun x => { x with need := x.need ++ (List.range e.2).map (fun (n : Nat) => k + 64 * n) })
  if isSpd k then wait.send b (spdBlk k) (spdBlk k) (.read (spdOff k) e.2 id)
  else if isHbm k then
    let a := k - keyHbm 0
    if pcCredits b ≤ s.pcUsed b (hbmPc a) then s else wait.send b (1024 + hbmPc a) 256 (.read a e.2 id)
  else
    let r := devKey k
    if isSpd r then wait.send b (4096 + devCoord k) (spdBlk r) (.read (spdOff r) e.2 id)
    else wait.send b (4096 + devCoord k) 256 (.read (r - keyHbm 0) e.2 id)

/-- Lines that an issue or probe wants and has neither got nor asked for, ascending. -/
def State.wanted (s : State) (b : Nat) (i : Issue) (probe : Bool) : List Nat :=
  sortNat ((s.wants b i probe).filter (fun k => !decide (k ∈ i.got) && !decide (k ∈ i.need)))

/-- The sides of a scale check: (slot, the numbers of the rows that the issue reads from its stream). -/
def State.scaleRows (s : State) (b : Nat) (i : Issue) : List (Nat × List Nat) :=
  let w := i.word
  let nos := fun (sl n : Nat) => (sl, (List.range n).map (fun (x : Nat) => baseOf i.rdBase sl + x))
  if opScaled w then
    let d := s.iDesc b i 0
    if d.streams then [nos 0 ((tileRowsAt w d (i.at 0)).filter (fun p => rowHas d p (s.inIdx b i d))).length] else []
  else if opKind w = 0x05 then
    [0, 2, 3].filterMap (fun sl =>
      let d := s.iDesc b i sl
      if d.streams then some (nos sl ((s.updRows b w sl).filter (fun q => q.has d (i.at sl))).length) else none)
  else []

/-- What an operation reads through descriptors that can be bound, as (descriptor index, descriptor, positions). -/
def State.boundSrc (s : State) (b : Nat) (i : Issue) : List (Nat × Desc × List (List Int)) :=
  let w := i.word
  let k := opKind w
  let at' := fun (sl : Nat) (f : Desc → List (List Int)) => let d := s.iDesc b i sl; (opDesc w sl, d, f d)
  let main := if opIsCopy w then
      (if k = 0x24 then [] else [at' 0 (fun d => (copyPairs w d (i.at 0) (i.at 1)).map Prod.fst)])
    else if k = 0x05 then
      at' 1 (fun d => recPos d (i.at 1) 32) :: [0, 2, 3].map (fun sl => at' sl (fun d =>
        let tops := if takesSide d then ((s.updRows b w sl).filter (fun x => x.has d (i.at sl))).flatMap (fun x => x.tops d (i.at sl)) else []
        s.updAll b i sl d ++ tops.flatMap priorPos))
    else if k = 0x12 ∨ k = 0x13 then []
    else [at' 0 (fun d => (List.range (opRows w)).flatMap (fun (r : Nat) => let es := s.rdElems b i 0 r d; es ++ priorOf d es))]
  let par := if opHasOut w && (opRowSub w || opRowMul w) then
      [at' 2 (fun d => (List.range (opRows w)).flatMap (fun (r : Nat) => [tilePos d (i.at 2) r 0, tilePos d (i.at 2) r 1]))]
    else []
  let pred := if opPred w && s.isF (blkBase b) F.CIR_CFG_EN then
      [(s.predIdx b, s.predDesc b, (List.range (if k = 0x12 then 8 else opRows w)).flatMap (fun (r : Nat) =>
        let es := s.predElems b i r; es ++ priorOf (s.predDesc b) es))]
    else []
  main ++ par ++ pred

/-- Element positions of an operation's bound inputs, with their binding and descriptor. -/
def State.boundPos (s : State) (b : Nat) (i : Issue) : List (Nat × Desc × List Int) :=
  (s.boundSrc b i).flatMap (fun e =>
    match s.binding b e.1 with
    | some k => (e.2.2.filter (inBounds e.2.1)).map (fun p => (k, e.2.1, p))
    | none => [])

/-- Lines narrower than 64 bytes are read through the gather buffer (R153; log entry 80): scale records, row parameters, hyperparameters, the epsilon
word and directory entries. -/
def State.recLines (s : State) (b : Nat) (i : Issue) : List Nat :=
  let w := i.word
  let d := s.iDesc b i 0
  let sc := (s.scaleRows b i).flatMap (fun e => e.2.flatMap (s.scaleLines b (s.iDesc b i e.1)))
  let eps := if opKind w = 0x07 then ((s.epsKeys b d).getD []).map lineOf else []
  let dirs := (if opIsSparse w ∨ opKind w = 0x13 then s.dirLines b i 4 else []) ++ (if opKind w = 0x13 then s.dirLines b i 5 else [])
  let bound := (s.boundPos b i).flatMap (fun e => (recKeys s.img s.ownCoord b (s.bindDir b e.1) (s.tileDirPos b e.1 e.2.1 e.2.2) 8).map lineOf)
  sc ++ (List.range (opRows w)).flatMap (s.parLines b i) ++ (if opKind w = 0x05 then s.hypLines b i else []) ++ eps ++ dirs ++ bound

/-- Every line that issue `id` wants and has not asked for is fetched; what arrives at once can name further lines. -/
def State.stageIssue (s : State) (b id : Nat) : Nat → State
  | 0 => s
  | n + 1 =>
    match s.workOf b id with
    | some (i, p) =>
      if i.faulted || i.done then s
      else
        let l := s.wanted b i p
        if l.isEmpty then s
        else
          let nar := s.recLines b i
          let s1 := (l.filter (ownLine b)).foldl (fun st k => st.fetchOwn b id (decide (k ∈ nar)) k) s
          ((lineRuns (l.filter (fun k => !ownLine b k))).foldl (fun st e => st.fetchRun b id e) s1).stageIssue b id n
    | none => s

/-- The staging of every issue and probe of block b goes on, oldest first. -/
def State.stageAll (s : State) (b : Nat) : State :=
  ((s.bx b).issues ++ (s.bx b).probes).foldl (fun st i => st.stageIssue b i.id 8) (s.outboxGo b)

/-- Context c of block b waits for an HBM credit: a line that an issue wants is not asked for, or a store of one has not left (R320). -/
def State.creditWaits (s : State) (b c : Nat) : Bool :=
  let mine := (s.bx b).issues.filter (fun i => decide (i.ctx = c) && !i.faulted)
  mine.any (fun i => !i.done && (s.wanted b i false).any isHbm)
    || (s.bx b).outbox.any (fun m => match m.body with
      | .write _ _ _ n => mine.any (fun i => decide (i.id = n))
      | .atomic _ _ _ _ n => mine.any (fun i => decide (i.id = n))
      | _ => false)

/-! ## Checks on what has arrived (R97, R249) -/

/-- A scale record that has arrived carries a tag other than its row number modulo 256 (R97). -/
def State.scaleBad (s : State) (b : Nat) (i : Issue) : Bool :=
  (s.scaleRows b i).any (fun e =>
    let d := s.iDesc b i e.1
    e.2.any (fun j => (s.scaleLines b d j).all (fun l => decide (l ∈ i.got)) && decide ((s.scaleRec b d i.staged j).2 ≠ j % 256)))

/-- Every scale record that an issue reads has arrived, and been checked: no data of the tile is used before (R97). -/
def State.scalesIn (s : State) (b : Nat) (i : Issue) : Bool :=
  (s.scaleRows b i).all (fun e => e.2.all (fun j => (s.scaleLines b (s.iDesc b i e.1) j).all (fun l => decide (l ∈ i.got))))

/-- The cause that a tile of a bound input fails with once it has arrived, and its directory descriptor (R249). -/
def State.boundBad (s : State) (b : Nat) (i : Issue) : Option (Nat × Nat) :=
  (s.boundPos b i).findSome? (fun e =>
    let (k, d, p) := e
    let dir := bits (s.bindWord b k 0) 16 12
    if (s.boundLines b k d i.staged i.got p).all (fun l => decide (l ∈ i.got)) then
      match s.boundTile b k d i.staged p with
      | some (t, len) =>
        match tileCause t len (s.bindTr b k) (s.bindTc b k) (s.bindEfmt b k) [0, 1, 2] with
        | some c => some (c, dir)
        | none => if valOk t then none else some (8, dir)
      | none => none
    else none)

/-- What has arrived for issue `id` is checked; complete reads release their slots and ranges. With PRED reads go on until the work ends. -/
def State.checkArrived (s : State) (b id : Nat) : State :=
  match s.issueOf b id with
  | some i =>
    if i.faulted || i.done then s
    else if s.scaleBad b i then s.issueFault b id (unitBlk b) 0x21
    else
      match s.boundBad b i with
      | some (c, d) => (s.metaErr b c 1 d).issueFault b id (unitBlk b) 0x16
      | none => if s.staged b i && !opPred i.word then s.readsDone b id else s
  | none => s

/-! ## Stores (R152, R153, R155, R177, R186, R196, R319) -/

/-- Cells as the view of their address makes them: the bit-set view ORs, the bit-clear view clears the bits written as 1 (R152). -/
def viewCells (view : Nat) (cells : List Cell) : List Cell :=
  if view = 1 then cells.map (fun c => (c.1, (0xFF#8 : Byte), c.2.1 &&& c.2.2))
  else if view = 2 then cells.map (fun c => (c.1, (0#8 : Byte), c.2.1 &&& c.2.2))
  else cells

/-- An acknowledgement is expected for issue `id`. -/
def State.expectAck (s : State) (b id : Nat) : State := s.modIssue b id (fun x => { x with acks := x.acks + 1 })

/-- Bytes of n lines from place l on, in the order of their cells. -/
def runData (cells : List Cell) (l n : Nat) : List (Nat × Byte × Byte) :=
  (cells.filter (fun c => decide (l ≤ c.1) && decide (c.1 < l + 64 * n))).foldl (fun acc c => gatherMerge acc (c.1 - l, c.2.1, c.2.2)) []

/-- Bytes that issue `id` stores at a local scratchpad address of 22 bits (R145): the view in [21:20], the offset of a line below it. An address in
view 3 or beyond the banks fails. An access to the whole line goes to its bank, unless it is made of narrow ones. -/
def State.storeLocal (s : State) (b id a : Nat) (narrow : Bool) (data : List (Nat × Byte × Byte)) : State :=
  let view := bits a 20 2
  if view = 3 ∨ 0x60000 ≤ a % 0x100000 then s.issueFault b id (unitBlk b) 0x13
  else s.lineWrite b id (a % 0x100000) (!narrow && fullLine data) (viewCells view data)

/-- The bytes that issue `id` stores into one line of its own scratchpad, at the plain offset that its descriptor gives (R177; log entry 64). -/
def State.storeOwn (s : State) (b id l : Nat) (narrow : Bool) (cells : List Cell) : State :=
  s.storeLocal b id (spdOff l) narrow (runData cells l 1)

/-- The bytes of a run of lines that lies elsewhere sent in one message, with the bytes stored on another device kept. -/
def State.storeRun (s : State) (b id : Nat) (narrow : Bool) (e : Nat × Nat) (cells : List Cell) : State :=
  let k := e.1
  let data := runData cells k e.2
  if isSpd k then s.send b (spdBlk k) (spdBlk k) (.write (spdOff k) narrow data id)
  else if isHbm k then (s.expectAck b id).hbmPost b (k - keyHbm 0) (.write (k - keyHbm 0) narrow data id)
  else
    let r := devKey k
    let x := s.bx b
    let far := data.foldl (fun m c =>
      let old := SMap.get ⟨0, 0⟩ m (k + c.1)
      SMap.set ⟨0, 0⟩ m (k + c.1) ⟨mergeByte old.val c.2.1 c.2.2, old.en ||| c.2.2⟩) x.far
    let s1 := (s.setBx b { x with far := far }).expectAck b id
    if isSpd r then s1.send b (4096 + devCoord k) (spdBlk r) (.write (spdOff r) narrow data id)
    else s1.send b (4096 + devCoord k) 256 (.write (r - keyHbm 0) narrow data id)

/-- Cells that issue `id` stores: line by line in its own scratchpad; elsewhere the whole lines in runs, the others one by one (log entry 82). With
`narrow` each element is a write of its own, narrower than a line (R191). -/
def State.storeCells (s : State) (b id : Nat) (narrow : Bool) (cells : List Cell) : State :=
  let ls := sortNat (cells.map (fun c => lineOf c.1))
  let away := ls.filter (fun l => !ownLine b l)
  let whole := if narrow then [] else away.filter (fun l => fullLine (runData cells l 1))
  let s1 := (ls.filter (ownLine b)).foldl (fun st l => st.storeOwn b id l narrow cells) s
  let s2 := (lineRuns whole).foldl (fun st e => st.storeRun b id false e cells) s1
  (away.filter (fun l => !decide (l ∈ whole))).foldl (fun st l => st.storeRun b id true (l, 1) cells) s2

/-- Elements stored through a descriptor as (position, code), each on its own where `narrow` holds. -/
def State.storeElems (s : State) (b id : Nat) (narrow : Bool) (d : Desc) (es : List (List Int × Nat)) : State :=
  s.storeCells b id narrow (es.flatMap (fun e => elemWrite s.img s.ownCoord b d e.1 e.2))

/-- Elements that issue i stores through its slot sl: where the descriptor is bound, their codes wait for their tiles (R248). With `OUTDIM` other than
0 every element lies in another row, and each is a narrow write (R191). -/
def State.storeSlot (s : State) (b : Nat) (i : Issue) (sl : Nat) (d : Desc) (es : List (List Int × Nat)) : State :=
  if (s.binding b (opDesc i.word sl)).isSome then
    let l := (es.filter (fun e => inBounds d e.1)).map (fun e => (sl, e.1, e.2))
    s.modIssue b i.id (fun x => { x with cmp := x.cmp ++ l })
  else s.storeElems b i.id (decide (d.outdim ≠ 0)) d es

/-- A record of bytes stored through slot sl from position p on along `OUTDIM`, element by element. -/
def State.storeRec (s : State) (b : Nat) (i : Issue) (sl : Nat) (d : Desc) (p : List Int) (data : List Byte) : State :=
  let w := fmtBits d.fmt
  let n := leNat data
  s.storeSlot b i sl d (((recPos d p data.length).zip (List.range (ceilDiv (8 * data.length) w))).map (fun e => (e.1, bits n (w * e.2) w)))

/-- The bytes of a record of n bytes at position p of a descriptor, as staged. -/
def State.readRec (s : State) (b desc : Nat) (d : Desc) (m : SMap Byte) (p : List Int) (n : Nat) : List Byte :=
  let w := fmtBits d.fmt
  let v := ((recPos d p n).zip (List.range (ceilDiv (8 * n) w))).foldl (fun acc e =>
    acc + s.tRead b desc d m e.1 % 2 ^ w * 2 ^ (w * e.2)) 0
  leBytes n v

/-! ## What a place holds (R85, R104; log entry 79) -/

/-- A byte over which some bytes from place l on are written. -/
def overByte (k : Nat) (v : Byte) (l : Nat) (data : List (Nat × Byte × Byte)) : Byte :=
  if l ≤ k then data.foldl (fun a d => if l + d.1 = k then mergeByte a d.2.1 d.2.2 else a) v else v

/-- A byte over which a message on its way to its place is written. -/
def overMsg (k : Nat) (v : Byte) (m : Msg) : Byte :=
  match m.body with
  | .write l _ d _ => if m.dst < 256 ∨ (1024 ≤ m.dst ∧ m.dst < 1088) then overByte k v (lineKey m.dst m.dst l) d else v
  | _ => v

/-- A byte as block b's stores leave it once all of them have arrived: a scratchpad byte with what its gather buffer and a restore hold of it, an HBM
byte with the writes queued for it, and the writes on their way; of another device what the block stored there, over a value left open. -/
def State.peek (s : State) (b k : Nat) : Byte :=
  if isSpd k then
    let t := spdBlk k
    let o := spdOff k
    let x := s.bx t
    let v := (x.gather.filter (fun g => decide (g.line = o / 64 * 64))).foldl (fun a g => overByte o a g.line g.data) (Mem.rd s.mem.spd (0x80000 * t + o))
    let v := x.heldW.foldl (fun a e => overByte o a e.line e.data) v
    s.net.foldl (overMsg k) v
  else if isHbm k then
    let a := k - keyHbm 0
    let v := (s.pcQueue (hbmPc a)).foldl (fun v r => if r.kind = 1 ∨ r.kind = 2 then overByte a v r.line r.data else v) (Mem.rd s.mem.hbm a)
    (s.bx b).outbox.foldl (overMsg k) (s.net.foldl (overMsg k) v)
  else
    let c := SMap.get ⟨0, 0⟩ (s.bx b).far k
    mergeByte (Config.heldByte s.free k) c.val c.en

/-- Lines as `peek` gives them. -/
def State.peekLines (s : State) (b : Nat) (m : SMap Byte) (l : List Nat) : SMap Byte :=
  l.foldl (fun acc k => (List.range 64).foldl (fun a j => SMap.set 0 a (k + j) (s.peek b (k + j))) acc) m

end Sys2Proof.Machine
end

