-- ==== Sys2Proof/Machine/Tile.lean ====
section
/-! DEFINITION. The lock-step tile: forward and transposed rows (R43 to R56), the governor's count of planes (R25 to R28), and the
correction path (R86, R87, R125 to R128). -/

namespace Sys2Proof.Machine

/-! ## Accumulator entries (R52, R53, R121) -/

/-- Bytes of an entry. -/
def accWidth (w : Nat) : Nat := if opAcc24 w then 3 else 4
/-- Entries per tile row of each macro: N, or 512 in transposed mode. -/
def accOuts (w prec : Nat) : Nat := if opTrans w then 512 else precN prec
/-- T, the bytes of a tile in each macro. -/
def accTile (w prec : Nat) : Nat := opRows w * accOuts w prec * accWidth w
/-- The place of entry n of tile row r in flat macro m. -/
def accAddr (w prec m r n : Nat) : Nat := 16384 * m + opTileIdx w * accTile w prec + (r * accOuts w prec + n) * accWidth w

/-- An entry. -/
def State.accRd (s : State) (w prec m r n : Nat) : Int := toSigned (8 * accWidth w) (leNat (Mem.rdN s.mem.acc (accAddr w prec m r n) (accWidth w)))
/-- An entry written. -/
def State.accWr (s : State) (w prec m r n : Nat) (v : Int) : State :=
  { s with mem := { s.mem with acc := Mem.wrN s.mem.acc (accAddr w prec m r n) (leBytes (accWidth w) (ofSigned (8 * accWidth w) v)) } }

/-! ## Input rows (R80, R86, R211, R212, R216) -/

/-- Input element e of tile row r: the position, and the value the macro receives. -/
def State.inPos (s : State) (b : Nat) (i : Issue) (r e : Nat) : List Int := tilePos (s.iDesc b i 0) (i.at 0) r e

/-- K of an issue: the run-time extent of D0's `OUTDIM` (R216). -/
def State.kOf (s : State) (b : Nat) (i : Issue) : Nat := let d := s.iDesc b i 0; d.exts.getD d.outdim 1

/-- The number of an escape among those of its whole tensor row (R85). -/
def State.escRank (s : State) (b : Nat) (i : Issue) (sl : Nat) (d : Desc) (q : List Int) : Nat :=
  ((priorPos q).filter (fun p => inBounds d p && decide (s.srcRead b i sl d p = nqEscape d.fmt))).length

/-- The codes that tile row r drives, by element index; elements beyond have none. -/
def State.inCodes (s : State) (b : Nat) (i : Issue) (r : Nat) : List Nat :=
  let d := s.iDesc b i 0
  if s.kOf b i = 0 then []
  else (List.range (inCount i.word (opPrec s.img b i.word) d (i.at 0))).map (fun (e : Nat) => s.srcRead b i 0 d (s.inPos b i r e))

/-- Is element e of a row an escape? A fill is none (R185). -/
def State.isEsc (s : State) (b : Nat) (i : Issue) (r : Nat) (codes : List Nat) (e : Nat) : Bool :=
  let d := s.iDesc b i 0
  fmtIsNq d.fmt && inBounds d (s.inPos b i r e) && decide (codes.getD e 0 = nqEscape d.fmt)

/-- The escapes of tile row r as (element, entry of the side list), with whether some row holds more than 32 (R85, R86, R187). -/
def State.escapesOf (s : State) (b : Nat) (i : Issue) (r : Nat) (codes : List Nat) : List (Nat × Nat) × Bool :=
  let d := s.iDesc b i 0
  let es := (List.range codes.length).filter (s.isEsc b i r codes)
  let ranked := es.map (fun e => (e, if takesSide d then s.escRank b i 0 d (s.inPos b i r e) else 0))
  (ranked.map (fun e => (e.1, s.sideEntry b d i.staged (s.inPos b i r e.1) e.2)), decide (32 < es.length) || ranked.any (fun e => decide (32 ≤ e.2)))

/-- The values of a row as macro m receives them: 512 in forward mode, one per channel in transposed mode. -/
def macInputs (w nn fmt : Nat) (codes : List Nat) (m : Nat) : List Int :=
  let get := fun e => if e < codes.length then inputValue fmt (opZp w) (codes.getD e 0) else 0
  if opTrans w then (List.range nn).map get else (List.range 512).map (fun (k : Nat) => get (512 * (m % opG w) + k))

/-- Plane p of a row of a-bit codes. -/
def planeOf (a p : Nat) (xs : List Int) : List Bool := xs.map (fun x => (ofSigned a x).testBit p)

/-- The 1 bits of a plane. -/
def onesIn (l : List Bool) : Nat := (l.filter id).length

/-! ## Partials (R45, R55) -/

/-- The weight of row k and channel n, from the bytes of the row. -/
def rowWeight (prec : Nat) (row : List Byte) (n : Nat) : Int :=
  let p := precBits prec
  weightValue prec (bits (leAt row (n * p / 8) 1) (n * p % 8) p)

/-- combine of R45 for channel n, as the dot product it equals. -/
def fwdPartial (prec : Nat) (rows : List (List Byte)) (plane : List Bool) (n : Nat) : Int :=
  (List.zipWith (fun (on : Bool) row => if on then rowWeight prec row n else 0) plane rows).sum

/-- The partial of row k in transposed mode (R56). -/
def trnPartial (prec : Nat) (row : List Byte) (plane : List Bool) : Int :=
  (List.zipWith (fun (on : Bool) n => if on then rowWeight prec row n else 0) plane (List.range plane.length)).sum

/-- The planes of a row applied in order to one entry (R46, R56): its partials by plane, those skipped absent. -/
def applyPlanes (acc24 signed : Bool) (a : Nat) (init : Int) (parts : List (Nat × Int)) : Int × Nat :=
  parts.foldl (fun (acc : Int × Nat) q =>
    let part := if signed && decide (q.1 + 1 = a) then -q.2 else q.2
    let r := satAdd acc24 acc.1 (part * 2 ^ q.1)
    (r.1, acc.2 + b2n r.2)) (init, 0)

/-- One macro's entries of tile row r after its planes, with the saturations; `planes` are the planes that issue. -/
def State.macRow (s : State) (w prec a : Nat) (signed : Bool) (m r : Nat) (planes : List (Nat × List Bool)) : State × Nat :=
  let rows := (List.range 512).map (s.rowRaw m)
  (List.range (accOuts w prec)).foldl (fun (acc : State × Nat) n =>
    let init := if opInit w then 0 else acc.1.accRd w prec m r n
    let parts := planes.map (fun q => (q.1, if opTrans w then trnPartial prec (rows.getD n []) q.2 else fwdPartial prec rows q.2 n))
    let v := applyPlanes (opAcc24 w) signed a init parts
    (acc.1.accWr w prec m r n v.1, acc.2 + v.2)) (s, 0)

/-! ## The governor (R25 to R28) -/

/-- The region of block b holds issue: the window's budget was reached (R26). -/
def State.regionHolds (s : State) (b : Nat) : Bool := (s.rx (b / 16)).hit.isSome

/-- The governor lets no plane of block b issue in cycle cyc (R26): the cycle is not one of the window, the budget was reached before it, or
planes of the block are held back. -/
def State.govHeld (s : State) (b cyc : Nat) : Bool :=
  let x := s.rx (b / 16)
  decide (cyc < x.winStart) || decide (x.winStart + 256 ≤ cyc) || x.hit.any (fun h => decide (h < cyc)) || !(x.heldOf b).isEmpty

/-- An idle block waits for the ramp with a tile row to issue (R27). -/
def State.rampWaits (s : State) (b : Nat) : Bool :=
  (s.bx b).rampHeld && (s.bx b).issues.any (fun i => !i.done && !i.faulted && decide (i.rowsDone < i.rows))

/-- An idle block's resumption at cycle cyc would pass the ramp, idle blocks of a lower number that wait coming first (R27). -/
def State.rampFull (s : State) (b cyc : Nat) : Bool :=
  s.idleAt b cyc && !rampRoom (s.ramp (b / 16) - ((List.range (b % 16)).filter (fun i => s.rampWaits (b / 16 * 16 + i))).length) cyc
    (s.rx (b / 16)).resumed

/-- A resumption delayed under R27, counted once. -/
def State.rampHold (s : State) (b : Nat) : State :=
  if (s.bx b).rampHeld then s
  else (s.setBx b { s.bx b with rampHeld := true }).addF (rgnBase (b / 16)) F.RGN_GOV_EVT_RAMP_HOLDS 1

/-- Block b issues planes of these activities, `step` cycles each, from cycle cyc on (R25, R27). -/
def State.blockPlanes (s : State) (b cyc step : Nat) (acts : List Nat) : State :=
  if acts.isEmpty then s
  else
    let s1 := if s.idleAt b cyc then s.noteResume (b / 16) cyc else s
    let s2 := (acts.zip (List.range acts.length)).foldl (fun st e => st.govPlane b (cyc + step * e.2) e.1) s1
    s2.setBx b { s2.bx b with lastPlane := some (cyc + step * acts.length - 1), rampHeld := false }

/-! ## A tile row (R46, R49, R50, R56) -/

/-- The oldest escape row first: escapes of a row enter the correction path (R87), as (row, element, q). -/
def State.enterEscapes (s : State) (b id r f : Nat) (es : List (Nat × Nat)) : State :=
  let qs := es.map (fun e => (e.1, escQ e.2 f))
  let fl := qs.foldl (fun acc e => acc.add e.2.2) Fl.zero
  let slot := ((s.issueOf b id).map Issue.slot).getD 0
  let s1 := (s.addFl b fl).recFl slot fl
  s1.modIssue b id (fun x => { x with corrPend := x.corrPend ++ qs.map (fun e => (r, e.1, e.2.1)) })

/-- Tile row r of issue i takes the row ports from cycle cyc on. -/
def State.tileRow (s : State) (b : Nat) (i : Issue) (r cyc : Nat) : State :=
  let w := i.word
  let d := s.iDesc b i 0
  let prec := opPrec s.img b w
  let a := fmtPlanes d.fmt
  let signed := inputSigned d.fmt (opZp w)
  let codes := s.inCodes b i r
  let (es, many) := s.escapesOf b i r codes
  if many then s.issueFault b i.id (unitBlk b) 0x22
  else
    let ms := maskMacros (opMacros w)
    let ins := ms.map (fun m => (16 * b + m, macInputs w (precN prec) d.fmt codes m))
    let live := (List.range a).filter (fun (p : Nat) => ins.any (fun e => (planeOf a p e.2).any id))
    let acts := live.map (fun p => (ins.map (fun e => 64 + onesIn (planeOf a p e.2))).sum)
    let s1 := s.blockPlanes b cyc (if opTrans w then 8 else 1) acts
    let (s2, sat) := ins.foldl (fun (acc : State × Nat) e =>
      let base := macBase e.1
      let t := (acc.1.addF base F.MAC_PLANES_COUNT live.length).addF base F.MAC_SKIPS_COUNT (a - live.length)
      let q := t.macRow w prec a signed e.1 r (live.map (fun p => (p, planeOf a p e.2)))
      (q.1, acc.2 + q.2)) (s1, 0)
    let fl : Fl := ⟨sat, 0, 0, 0⟩
    let s3 := ((s2.addFl b fl).recFl i.slot fl).enterEscapes b i.id r (opEscFrac w) es
    s3.modIssue b i.id (fun x => { x with
      rowsDone := r + 1,
      claims := if r + 1 = x.rows ∧ x.corrPend = [] then x.claims.filter (fun c => decide (c.space ≠ 2)) else x.claims })

/-- The issue is a tile on the row ports: FWD, TRN, or a sparse operation whose tile has been expanded (R233). -/
def onPorts (i : Issue) (trn : Bool) : Bool :=
  let k := opKind i.word
  (decide (k = if trn then 0x02 else 0x01)) || (decide (k = if trn then 0x11 else 0x10) && decide (i.path = 2) && i.eng.dealt)

/-- An issue's next tile row has every line of its inputs (R594). -/
def State.rowStaged (s : State) (b : Nat) (i : Issue) (r : Nat) : Bool := (s.rowLines b i true r).all (fun l => decide (l ∈ i.got))

/-- A restore of a macro of the mask is older than this issue: every request to the macro waits (R71, R120). -/
def State.maskRestores (s : State) (b mask age : Nat) : Bool := (maskMacros mask).any (fun m => s.restoreHolds (16 * b + m) age)

/-- A correction-path row read of a tile row already issued waits for the row ports and nothing else: it goes ahead of tile rows and row writes
(R117). -/
def State.corrDue (s : State) (b : Nat) : Bool :=
  (s.bx b).issues.any (fun i => !i.faulted && !i.corrPend.isEmpty && decide (i.path ≠ 1) && (!opTrans i.word || decide (i.rows ≤ i.rowsDone))
    && !s.maskRestores b (opMacros i.word) i.id)

/-- The row ports are free for a tile row of an issue of this age (R71, R117, R120). -/
def State.portsFree (s : State) (b mask age : Nat) : Bool := !s.portsDue b && !s.corrDue b && !s.maskRestores b mask age

/-- Tile row r of an issue holds a plane that issues. -/
def State.rowLive (s : State) (b : Nat) (i : Issue) (r : Nat) : Bool :=
  let codes := s.inCodes b i r
  let d := s.iDesc b i 0
  (maskMacros (opMacros i.word)).any (fun m =>
    (macInputs i.word (precN (opPrec s.img b i.word)) d.fmt codes m).any (fun x => decide (ofSigned (fmtPlanes d.fmt) x ≠ 0)))

/-- An operation of a chain that is not the last has no epilogue: its last row and correction retire its work (R121). Its correction entries stay
reserved. -/
def State.chainEnd (s : State) (b id : Nat) : State :=
  match s.issueOf b id with
  | some i =>
    if opChain i.word && decide (i.rowsDone = i.rows) && i.corrPend.isEmpty && !i.faulted && !i.done then
      ((s.modIssue b id (fun x => { x with claims := [] })).issueDone b id).modIssue b id (fun x => { x with resv := i.resv })
    else s
  | none => s

/-- FORWARD_ROW and TRANSPOSED_ROW. -/
def rowEff (s : State) (b id cyc : Nat) (trn : Bool) : State :=
  match s.issueOf b id with
  | some i =>
    if s.compOn b && onPorts i trn && !i.faulted && !i.done && decide (i.rowsDone < i.rows) && s.rowStaged b i i.rowsDone
        && s.scalesIn b i && !s.govHeld b cyc && s.planeBefore b cyc
        && s.portsFree b (opMacros i.word) id then
      if s.rowLive b i i.rowsDone && s.rampFull b cyc then s.rampHold b else (s.tileRow b i i.rowsDone cyc).chainEnd b id
    else s
  | none => s

/-- The meaning of FORWARD_ROW; `cyc` is the ACLK cycle of the row's first plane. -/
def execForwardRow (b i cyc : Nat) (s : State) : Host.Outcome State Fault Refusal := .next (rowEff s b i cyc false)
/-- The meaning of TRANSPOSED_ROW. -/
def execTransposedRow (b i cyc : Nat) (s : State) : Host.Outcome State Fault Refusal := .next (rowEff s b i cyc true)

/-! ## The correction path (R125 to R128) -/

/-- The key of a correction entry: tile row and output index. -/
def corrKey (r o : Nat) : Nat := 65536 * r + o

/-- Products added into correction entries, as (key, product), with the saturations (R106). -/
def addCorr (m : SMap Int) (l : List (Nat × Int)) : SMap Int × Nat :=
  l.foldl (fun (acc : SMap Int × Nat) e =>
    let r := sat48 (SMap.get 0 acc.1 e.1) e.2
    (SMap.set 0 acc.1 e.1 r.1, acc.2 + b2n r.2)) (m, 0)

/-- A block-wide row read of row k: the rows of the masked macros by macro number; none where one delivers nothing (R64, R126). -/
def State.blockRead (s : State) (b mask k : Nat) : Option (List (Nat × List Byte)) × State :=
  (maskMacros mask).foldl (fun (acc : Option (List (Nat × List Byte)) × State) m =>
    let (o, t) := acc.2.readRow (16 * b + m) k false
    (match acc.1, o.got with
      | some l, some d => some (l ++ [(m, d)])
      | _, _ => none, t)) (some [], s)

/-- Products of one escape of a forward row: element e is row e mod 512 of the macros m with m mod G = e / 512. -/
def fwdProducts (w prec r e : Nat) (q : Int) (rows : List (Nat × List Byte)) : List (Nat × Int) :=
  let nn := precN prec
  let g := opG w
  (rows.filter (fun x => decide (x.1 % g = e / 512))).flatMap (fun x =>
    (List.range nn).map (fun (n : Nat) => (corrKey r (x.1 / g * nn + n), q * rowWeight prec x.2 n)))

/-- Products of row k for every escape of a transposed tile (R128). -/
def trnProducts (prec k : Nat) (pend : List (Nat × Nat × Int)) (rows : List (Nat × List Byte)) : List (Nat × Int) :=
  rows.flatMap (fun x => pend.map (fun e => (corrKey e.1 (512 * x.1 + k), e.2.2 * rowWeight prec x.2 e.2.1)))

/-- The rows of a block-wide read by the macro number that their outputs count from: a sparse operation's tile counts from 0 (R211, R233). -/
def corrRows (w : Nat) (rows : List (Nat × List Byte)) : List (Nat × List Byte) :=
  if opPoint w = 1 then rows.map (fun x => (0, x.2)) else rows

/-- Correction entries of an issue raised, with their events. -/
def State.corrAdd (s : State) (b : Nat) (i : Issue) (l : List (Nat × Int)) (f : Issue → Issue) : State :=
  let (m, sat) := addCorr i.corr l
  let fl : Fl := ⟨sat, 0, 0, 0⟩
  ((s.addFl b fl).recFl i.slot fl).modIssue b i.id (fun x => f { x with corr := m })

/-- Rows are claimed no longer once the tile has read its last one. -/
def Issue.dropRows (i : Issue) : Issue := { i with claims := i.claims.filter (fun c => decide (c.space ≠ 2)) }

/-- CORRECTION_READ (R126, R128): the next block-wide row read of issue `id`. -/
def corrRead (s : State) (b id : Nat) : State :=
  match s.issueOf b id with
  | some i =>
    let w := i.word
    let prec := opPrec s.img b w
    let base := blkBase b
    if !s.compOn b || i.faulted || s.portsDue b || s.maskRestores b (opMacros w) id || decide (i.path = 1) then s
    else if opTrans w then
      if i.rowsDone < i.rows ∨ i.corrPend = [] ∨ 512 ≤ i.corrRow then s
      else
        match s.blockRead b (opMacros w) i.corrRow with
        | (some rows, s1) =>
          let last := decide (i.corrRow = 511)
          let s2 := s1.corrAdd b i (trnProducts prec i.corrRow i.corrPend (corrRows w rows)) (fun x =>
            if last then { x with corrRow := 512, corrPend := [] }.dropRows else { x with corrRow := x.corrRow + 1 })
          if last then s2.addF base F.BLK_CORR_STAT_ESCAPES i.corrPend.length else s2
        | (none, s1) => s1.issueFault b id (unitBlk b) 0x15
    else
      match i.corrPend with
      | (r, e, q) :: rest =>
        match s.blockRead b (opMacros w) (e % 512) with
        | (some rows, s1) =>
          (s1.corrAdd b i (fwdProducts w prec r e q (corrRows w rows)) (fun x =>
            let y := { x with corrPend := rest }
            if rest.isEmpty ∧ y.rowsDone = y.rows then y.dropRows else y)).addF base F.BLK_CORR_STAT_ESCAPES 1
        | (none, s1) => s1.issueFault b id (unitBlk b) 0x15
      | [] => s
  | none => s

end Sys2Proof.Machine
end

