-- ==== Sys2Proof/Machine/Post.lean ====
section
/-! DEFINITION. The post units: the epilogue (R89, R98, R99), the activation stage (R130 to R132), statistics and row finishing (R133,
R134), output scales and stores (R91, R92, R96, R103 to R105, R191, R192), the output compressor (R246, R248), PASS (R135). -/

namespace Sys2Proof.Machine

/-! ## Tables (R89, R143) -/

/-- The entry that serves an output (R89, R135). -/
def postEntry (w prec : Nat) (o : OutIdx) : Nat :=
  if opKind w = 0x06 then o.n
  else if opTrans w then o.n / 2
  else if prec = 2 then o.n / 2 else if prec = 3 then o.n / 4 else o.n

/-- A word of entry e of the rescale table of post unit u. -/
def State.rescale (s : State) (b u e k : Nat) : Nat := (s.reg (blkBase b + 0x40000 + 0x1000 * u + 12 * e + 4 * k)).toNat
/-- SCALE, BIAS and COLSUM of an entry. -/
def State.entScale (s : State) (b u e : Nat) : F32 := f32of16 (bits (s.rescale b u e 0) 0 16)
def State.entBias (s : State) (b u e : Nat) : Int := toSigned 32 (s.rescale b u e 1)
def State.entColsum (s : State) (b u e : Nat) : Int := toSigned 32 (s.rescale b u e 2)

/-- The value of a raw total before activation (R98). -/
def State.epiValue (s : State) (b w u e : Nat) (t : Int) (sIn : F32) : F32 :=
  let f := opEscFrac w
  let i := t + (s.entBias b u e - (opZp w : Int) * s.entColsum b u e) * 2 ^ f
  f32mul (f32mul (f32ofInt i f) (s.entScale b u e)) sIn

/-! ## The activation stage (R130, R131) -/

/-- max(v, +0), a NaN unchanged. -/
def relu (v : F32) : F32 := if f32isNan v then v else if f32lt f32zero v then v else f32zero

/-- Coefficient k of segment i of activation table j. -/
def State.actCoef (s : State) (b j i k : Nat) : F32 := s.reg (blkBase b + 0x50000 + 0x400 * j + 0x10 + 12 * i + 4 * k)

/-- The quadratic of segment i at t. -/
def State.actSeg (s : State) (b j i : Nat) (t : F32) : F32 :=
  f32add (s.actCoef b j i 0) (f32mul t (f32add (s.actCoef b j i 1) (f32mul t (s.actCoef b j i 2))))

/-- Linear mode: segment and offset. -/
def State.actLinear (s : State) (b j : Nat) (x : F32) : F32 :=
  let a := blkBase b + 0x50000 + 0x400 * j
  let u := f32mul (f32sub x (s.reg a)) (s.reg (a + 4))
  if f32isNan u then u
  else
    let i : Nat := if f32isFinite u then (min 63 (max 0 (f32floor u))).toNat else if u.msb then 0 else 63
    s.actSeg b j i (f32sub u (f32ofInt (i : Int) 0))

/-- Log2 mode: segment and offset of a magnitude. -/
def logSegment (lo : Int) (ax : F32) : Nat × F32 :=
  match f32v ax with
  | .fin _ m e =>
    if m = 0 then (0, f32zero)
    else
      let r := ratOf m e
      let l := ilog2Rat r.1 r.2
      if l < lo then (0, f32zero)
      else if lo + 16 ≤ l then (63, f32one)
      else
        let q := ratOf m (e + 2 - l)
        ((4 * (l - lo)).toNat + (q.1 / q.2 - 4), f32of (.fin false (q.1 % q.2) (-(Nat.log2 q.2 : Int))))
  | _ => (63, f32one)

/-- An activation table at a value (R131). -/
def State.actTable (s : State) (b j : Nat) (x : F32) : F32 :=
  let c := (s.reg (blkBase b + 0x50000 + 0x400 * j + 8)).toNat
  if bits c 0 2 ≠ 1 then s.actLinear b j x
  else if f32isNan x then x
  else
    let g := logSegment (toSigned 8 (bits c 8 8)) (f32abs x)
    let y := s.actSeg b j g.1 g.2
    if f32lt x f32zero then (if bits c 16 2 = 1 then f32neg y else if bits c 16 2 = 2 then y else f32nan) else y

/-- Row parameter k of tile row r: 0 for a, 1 for b (R130, R134). -/
def State.rowParam (s : State) (b : Nat) (i : Issue) (r k : Nat) : F32 :=
  let d := s.iDesc b i 2
  decodeReal d.fmt (s.srcRead b i 2 d (tilePos d (i.at 2) r k)) (f32of16 d.fixed) d.zp 0

/-- The row parameters of a tile row, as the operation's flags use them. -/
def State.rowParams (s : State) (b : Nat) (i : Issue) (r : Nat) : F32 × F32 :=
  (if opRowSub i.word then s.rowParam b i r 0 else f32zero, if opRowMul i.word then s.rowParam b i r 1 else f32one)

/-- activation of R130 for an output of post unit u with entry e. -/
def State.activate (s : State) (b w u e : Nat) (par : F32 × F32) (v : F32) : F32 :=
  let v := if opRowSub w then f32sub v par.1 else v
  let v := if opRowMul w then f32mul v par.2 else v
  let g := (s.reg (blkBase b + 0x40000 + 0x1000 * u + 0xC00 + 4 * e)).toNat
  let v := if opChAffine w then f32add (f32mul v (f32of16 (bits g 0 16))) (f32of16 (bits g 16 16)) else v
  if opFunc w = 1 then relu v else if 4 ≤ opFunc w then s.actTable b (opFunc w - 4) v else v

/-- Pooling of one output's values in row order (R132). -/
def poolValues (kind : Nat) (l : List F32) : F32 :=
  if kind = 1 then (match l with
    | v :: rest => rest.foldl f32max v
    | [] => f32zero)
  else f32mul (l.foldl f32add f32zero) (f32div f32one (f32ofInt (l.length : Int) 0))

/-! ## Statistics and row finishing (R133, R134) -/

/-- A record of row statistics. -/
structure RowStat where
  mx : F32
  sum : F32
  sq : F32
  cnt : Nat
deriving DecidableEq, Repr

/-- Statistics of no output. -/
def RowStat.init : RowStat := ⟨f32ninf, f32zero, f32zero, 0⟩
/-- One output more. -/
def RowStat.value (r : RowStat) (v : F32) : RowStat := ⟨f32max r.mx v, f32add r.sum v, f32add r.sq (f32mul v v), r.cnt + 1⟩
/-- Two records combined. -/
def RowStat.merge (r q : RowStat) : RowStat := ⟨f32max r.mx q.mx, f32add r.sum q.sum, f32add r.sq q.sq, (r.cnt + q.cnt) % 2 ^ 32⟩
/-- The 16 bytes of a record, and a record from them. -/
def RowStat.bytes (r : RowStat) : List Byte := leBytes 4 r.mx.toNat ++ leBytes 4 r.sum.toNat ++ leBytes 4 r.sq.toNat ++ leBytes 4 r.cnt
def rowStatOf (l : List Byte) : RowStat := ⟨BitVec.ofNat 32 (leAt l 0 4), BitVec.ofNat 32 (leAt l 4 4), BitVec.ofNat 32 (leAt l 8 4), leAt l 12 4⟩

/-- Statistics of a row's outputs as (post unit, value): partials by unit, then the 16 partials in ascending unit. -/
def rowStats (l : List (Nat × F32)) : RowStat :=
  ((List.range 16).map (fun (u : Nat) => (l.filter (fun e => decide (e.1 = u))).foldl (fun r e => r.value e.2) RowStat.init)).foldl RowStat.merge RowStat.init

/-- The larger of two FP32 values, for max(x, 0) of Table 4.6. -/
def finMax0 (x : F32) : F32 := relu x

/-- Table 4.6: (a, b) from combined statistics. -/
def rowFinish (mode : Nat) (r : RowStat) (eps : F32) : F32 × F32 :=
  let n := f32ofInt (r.cnt : Int) 0
  if mode = 0 then
    let mu := f32div r.sum n
    let var := finMax0 (f32sub (f32div r.sq n) (f32mul mu mu))
    (mu, f32div f32one (f32sqrt (f32add var eps)))
  else if mode = 1 then (f32zero, f32div f32one (f32sqrt (f32add (f32div r.sq n) eps)))
  else if mode = 2 then (r.mx, f32one)
  else (f32zero, f32div f32one r.sum)

/-! ## The output compressor (R246, R248) -/

/-- The blocks of a tile that hold a code other than 0, by bit number ascending; none for CSR-64. -/
def liveBlocks (f r c : Nat) (code : Nat → Nat → Nat) : List Nat :=
  let e := tileEdge f
  let bc := c / e
  (List.range (tileUnits f r c)).filter (fun (n : Nat) => (List.range (e * e)).any (fun (x : Nat) => decide (code (n / bc * e + x / e) (n % bc * e + x % e) ≠ 0)))

/-- Codes of w bits packed into bytes, the first in the low bits. -/
def packCodes (w : Nat) (l : List Nat) : List Byte :=
  leBytes (ceilDiv (l.length * w) 8) ((l.zip (List.range l.length)).foldl (fun (n : Nat) e => n + e.1 % 2 ^ w * 2 ^ (w * e.2)) 0)

/-- Bytes padded to a multiple of 64. -/
def padLines (l : List Byte) : List Byte := padTo (pad64 l.length) l

/-- A tile from its parts (Tables 8.1 and 8.2). -/
def tileBytes (f ef r c stored : Nat) (idx vals : List Byte) : List Byte :=
  let pi := padLines idx
  let pv := padLines vals
  let h := leBytes 2 0x5453 ++ leBytes 1 f ++ leBytes 1 ef ++ leBytes 2 r ++ leBytes 2 c ++ leBytes 4 stored
    ++ leBytes 2 (65535 * stored / tileUnits f r c) ++ leBytes 2 0 ++ leBytes 4 (64 + pi.length + pv.length) ++ leBytes 4 idx.length
    ++ leBytes 4 (crc32c pi) ++ leBytes 4 (crc32c pv) ++ List.replicate 28 0
  h ++ leBytes 4 (crc32c h) ++ pi ++ pv

/-- The bitmap of a list of bits over n. -/
def bitmapOf (n : Nat) (l : List Nat) : List Byte := leBytes (bitmapLen n) (l.foldl (fun (a k : Nat) => a + 2 ^ k) 0)

/-- The column-order table of blocks given by bit number ascending (Table 8.2). -/
def orderTable (r c : Nat) (bl : List Nat) : List Byte :=
  let bc := c / 16
  let br := r / 16
  let ord := bl.zip (List.range bl.length)
  ((List.range (br * bc)).filterMap (fun (rank : Nat) => (ord.find? (fun e => decide (e.1 % bc * br + e.1 / bc = rank))).map Prod.snd)).flatMap (leBytes 2)

/-- The tile that holds a matrix of codes; none where no unit is stored (R248). -/
def buildTile (f ef r c : Nat) (code : Nat → Nat → Nat) : Option (List Byte) :=
  let w := fmtBits ef
  if f = 1 then
    let cells := (List.range r).flatMap (fun (i : Nat) => ((List.range c).filter (fun (j : Nat) => decide (code i j ≠ 0))).map (fun j => (i, j)))
    if cells.isEmpty then none
    else
      let counts := (List.range r).flatMap (fun (i : Nat) => (List.range (c / 64)).map (fun (p : Nat) =>
        BitVec.ofNat 8 ((cells.filter (fun x => decide (x.1 = i ∧ x.2 / 64 = p))).length)))
      some (tileBytes f ef r c cells.length (counts ++ cells.map (fun x => BitVec.ofNat 8 (x.2 % 64)))
        (packCodes w (cells.map (fun x => code x.1 x.2))))
  else
    let bl := liveBlocks f r c code
    if bl.isEmpty then none
    else
      let e := tileEdge f
      let bc := c / e
      let vals := bl.flatMap (fun n => (List.range (e * e)).map (fun (x : Nat) => code (n / bc * e + x / e) (n % bc * e + x % e)))
      some (tileBytes f ef r c bl.length (bitmapOf (tileUnits f r c) bl ++ (if f = 2 then orderTable r c bl else [])) (packCodes w vals))

/-- Bytes of a body stored at OFFSET `off` of a directory. -/
def State.storeBody (s : State) (b id : Nat) (d : Desc) (off : Nat) (data : List Byte) : State :=
  s.storeCells b id false ((data.zip (List.range data.length)).filterMap (fun e =>
    (bodyKey s.img s.ownCoord b d off e.2).map (fun k => (k, e.1, (0xFF#8 : Byte)))))

/-- An 8-byte directory entry stored at a directory position (R225). -/
def State.storeEntry (s : State) (b id : Nat) (d : Desc) (p : List Int) (off len : Nat) : State :=
  let n := off % 2 ^ 30 + 2 ^ 32 * (len % 65536)
  s.storeElems b id false d ((List.range 8).map (fun (c : Nat) => (posAdd p 0 c, n / 256 ^ c % 256)))

/-- A present tile's body counted (Table 8.10). -/
def State.cmpCount (s : State) (b lines : Nat) : State :=
  (s.addF (blkBase b) F.SPE_CMP_TILES_COUNT 1).addF (blkBase b) F.SPE_CMP_LINES_COUNT lines

/-- The tile of binding k whose first element lies at p0, stored with its directory entry; `code` gives the codes by position. -/
def State.compressTile (s : State) (b id k : Nat) (d : Desc) (p0 : List Int) (code : List Int → Nat) : State :=
  let dd := s.bindDir b k
  let q := s.tileDirPos b k d p0
  let off := s.bodySlot b k q
  match buildTile (s.bindFmt b k) (s.bindEfmt b k) (s.bindTr b k) (s.bindTc b k) (fun r c => code (posAdd (posAdd p0 1 r) 0 c)) with
  | some t => (((s.storeBody b id dd off t).storeEntry b id dd q off (t.length / 64)).cmpCount b (t.length / 64))
  | none => s.storeEntry b id dd q off 0

/-- Tiles of a bound destination that positions lie in, by the position of their first element, in bounds or not (R248). A position beyond `EXT4` names
the directory entry of another tile (R246) and is left out (R193; log entry 105). -/
def State.tileBases (s : State) (b k : Nat) (d : Desc) (l : List (List Int)) : List (List Int) :=
  dedup ((l.filter (fun p => decide (0 ≤ p.getD 4 0) && decide (p.getD 4 0 < ((d.exts.getD 4 1 : Nat) : Int)))).map (fun p =>
    let f := fun (x : Int) (n : Nat) => x / (n : Int) * (n : Int)
    posSet (posSet p 0 (f (p.getD 0 0) (s.bindTc b k))) 1 (f (p.getD 1 0) (s.bindTr b k))))

/-- The tiles of positions `ps`, which issue `id` has stored through slot sl, are built of the codes that wait there and are stored; a code stored later
replaces an earlier one, and a position without one counts as code 0 (R248). -/
def State.cmpFlush (s : State) (b id sl : Nat) (d : Desc) (ps : List (List Int)) : State :=
  match s.issueOf b id with
  | some i =>
    match s.binding b (opDesc i.word sl) with
    | some k =>
      let l := ((i.cmp.filter (fun e => decide (e.1 = sl))).map Prod.snd).reverse
      let s1 := s.modIssue b id (fun x => { x with cmp := x.cmp.filter (fun e => decide (e.1 ≠ sl)) })
      (s.tileBases b k d ps).foldl (fun st p0 =>
        st.compressTile b id k d p0 (fun q => ((l.find? (fun e => decide (e.1 = q))).map Prod.snd).getD 0)) s1
    | none => s
  | none => s

/-- Output row r of an issue is complete in slot sl: a row that ends its tiles has them built. `row` gives the positions of a row. -/
def State.cmpBand (s : State) (b : Nat) (i : Issue) (sl r : Nat) (row : Nat → List (List Int)) : State :=
  match s.binding b (opDesc i.word sl) with
  | some k =>
    if (r + 1) % s.bindTr b k = 0 then
      s.cmpFlush b i.id sl (s.iDesc b i sl) ((List.range (s.bindTr b k)).flatMap (fun (q : Nat) => row (r - q)))
    else s
  | none => s

/-! ## What a row holds (R85, R104; log entry 79) -/

/-- The code that an element holds, through its tile where the tensor is bound, with the lines that it is taken from. -/
def State.peekElem (s : State) (b desc : Nat) (d : Desc) (p : List Int) : Nat × List Nat :=
  match s.binding b desc with
  | none =>
    let l := elemLines s.img s.ownCoord b d p
    (elemRead s.img s.ownCoord b d (s.peekLines b [] l) p, l)
  | some k =>
    let l1 := s.boundLines b k d [] [] p
    let m1 := s.peekLines b [] l1
    let l2 := s.boundLines b k d m1 l1 p
    (s.boundRead b k d (s.peekLines b m1 l2) p, l2)

/-- The code that an element of slot sl of issue i holds, also where its tile is not built yet. -/
def State.heldElem (s : State) (b : Nat) (i : Issue) (sl : Nat) (d : Desc) (p : List Int) : Nat × List Nat :=
  match (((s.issueOf b i.id).getD i).cmp.reverse).find? (fun e => decide (e.1 = sl) && decide (e.2.1 = p)) with
  | some e => (e.2.2, [])
  | none => s.peekElem b (opDesc i.word sl) d p

/-- Two positions lie in one tensor row, the first before the second. -/
def rowBefore (p q : List Int) : Bool := decide (posSet p 0 0 = posSet q 0 0) && decide (p.getD 0 0 < q.getD 0 0)

/-- The escapes that tensor rows hold before and between the elements that a store writes into them, as positions: those of a row have entries of its
side list in ascending order (R85). What other devices hold beyond this block's own stores is free. -/
def State.heldEscapes (s : State) (b : Nat) (i : Issue) (sl : Nat) (d : Desc) (ps : List (List Int)) : List (List Int) × State :=
  let tops := (dedup (ps.map sidePos)).map (fun q => posSet q 0 ((ps.filter (fun p => decide (sidePos p = q))).foldl (fun m p => max m (p.getD 0 0)) 0))
  let es := ((tops.flatMap priorPos).filter (fun p => inBounds d p && !decide (p ∈ ps))).map (fun p => (p, s.heldElem b i sl d p))
  let far := es.any (fun e => e.2.2.any (fun k => !isSpd k && !isHbm k))
  ((es.filter (fun e => decide (e.2.1 = nqEscape d.fmt))).map Prod.fst, if far then { s with free := s.free + 1 } else s)

/-! ## Stores of an output row (R92, R96, R101, R103 to R105, R191, R192) -/

/-- One value on its way to the store: its output, its position, v and the raw total t. -/
structure OutVal where
  o : OutIdx
  pos : List Int
  v : F32
  t : Int
deriving DecidableEq, Repr

/-- A value encoded in the destination's format. -/
def encodeOut (dr : Draw) (d : Desc) (margin used : Nat) (v s : F32) (t : Int) : NqOut :=
  if d.fmt = 10 then
    let r := satAdd false t 0
    ⟨ofSigned 32 r.1, none, if r.2 then Fl.saturated else Fl.zero⟩
  else if d.fmt = 7 then ⟨f16of32 v, none, Fl.zero⟩
  else if d.fmt = 8 then ⟨fB16of32 v, none, Fl.zero⟩
  else if d.fmt = 9 then ⟨if f32isNan v then fmt32.qnan else v.toNat, none, Fl.zero⟩
  else if d.fmt = 11 then (let r := encodeRaw8 v; ⟨r.1, none, r.2⟩)
  else if d.fmt = 3 then (let r := encodeBin dr v s; ⟨r.1, none, r.2⟩)
  else if fmtIsNq d.fmt then encodeNq dr d.fmt margin used v s
  else (let r := encodeInt dr v s (fmtBits d.fmt) d.zp; ⟨r.1, none, r.2⟩)

/-- A side-list entry: the escape's position, its place in the list of its row, and its value. -/
structure SideEnt where
  pos : List Int
  n : Nat
  val : Nat
deriving DecidableEq, Repr

/-- What the encoder makes of a row: elements as (position, code), side-list entries, and events. -/
structure RowCodes where
  elems : List (List Int × Nat)
  side : List SideEnt
  fl : Fl
deriving DecidableEq, Repr

/-- A store in this format appends side-list entries: with `OUTDIM` other than 0 it never does (R192). -/
def appendsSide (d : Desc) : Bool := takesSide d && decide (d.outdim = 0)

/-- A row encoded in ascending output; `held` are the escapes that stand among its tensor rows already. Where no entry is appended every row counts as
one of 32 escapes (R187, R192). -/
def encodeRow (draw : List Int → Draw) (d : Desc) (margin : Nat) (held : List (List Int)) (sc : F32) (vals : List OutVal) : RowCodes :=
  vals.foldl (fun acc x =>
    let n := if appendsSide d then (held.filter (fun p => rowBefore p x.pos)).length + (acc.side.filter (fun e => rowBefore e.pos x.pos)).length else 32
    let r := encodeOut (draw x.pos) d margin n x.v sc x.t
    ⟨acc.elems ++ [(x.pos, r.code)], acc.side ++ r.entry.toList.map (fun v => SideEnt.mk x.pos n v), acc.fl.add r.fl⟩) ⟨[], [], Fl.zero⟩

/-- The FP16 scale of a stored row (R91, R92, R192). -/
def outScale (d : Desc) (clip : F32) (vals : List OutVal) : Nat :=
  let mode := if d.smode = 1 ∧ d.outdim ≠ 0 then 2 else d.smode
  if mode = 0 ∨ 6 < d.fmt then d.fixed
  else
    let fin := (vals.map OutVal.v).filter f32isFinite
    let top := fin.foldl (fun a v => if f32lt a (f32abs v) then f32abs v else a) f32zero
    let m := if mode = 2 then clip else if d.clip ∧ f32lt clip top then clip else top
    rowScale d.fmt d.zp m (!fin.isEmpty)

/-- The scale record of row number j (R96). -/
def scaleRecBytes (sc j : Nat) : List Byte := leBytes 2 sc ++ leBytes 1 j ++ leBytes 1 0

/-- A scale record stored. -/
def State.storeScale (s : State) (b id : Nat) (d : Desc) (sc j : Nat) : State :=
  let sd := descAt s.img b d.sstream
  s.storeElems b id false sd ((scaleRecBytes sc j).zip (List.range 4) |>.map (fun e => (posAdd (rowPos sd j) 0 e.2, e.1.toNat)))

/-- Side-list entries stored (R85, R187). -/
def State.storeSide (s : State) (b id : Nat) (d : Desc) (l : List SideEnt) : State :=
  s.storeElems b id false (descAt s.img b d.side) (l.map (fun e => (posAdd (sidePos e.pos) 0 e.n, e.val)))

/-- The draw of an element that issue i stores through descriptor d (R101). -/
def State.drawAt (s : State) (i : Issue) (d : Desc) (p : List Int) : Draw :=
  drawOf (opNearest i.word) (planSeed s.img) (s.stepOf i.j i.slot) d.tid (logicalIdx d p)

/-- A row of values, at positions in bounds, encoded and stored through slot sl with its side-list entries and scale record j; a row of none writes
nothing (R184, R189). `raw` gives the scale that an INT32 row's record holds. -/
def State.storeRow (s : State) (b : Nat) (i : Issue) (sl : Nat) (d : Desc) (j : Nat) (vals : List OutVal) (raw : Nat) : State :=
  let sc := if d.fmt = 10 then raw else outScale d (BitVec.ofNat 32 (i.clip.getD sl 0)) vals
  let (held, s1) := if appendsSide d then s.heldEscapes b i sl d (vals.map OutVal.pos) else ([], s)
  let r := encodeRow (s.drawAt i d) d (opEscMargin i.word) held (f32of16 sc) vals
  let s2 := ((s1.addFl b r.fl).recFl i.slot r.fl).storeSlot b i sl d r.elems
  let s3 := if r.side.isEmpty then s2 else s2.storeSide b i.id d r.side
  if d.streams && !vals.isEmpty then s3.storeScale b i.id d sc j else s3

/-- Element indices of an issue's output rows. -/
def State.outIdx (s : State) (b : Nat) (i : Issue) : List Nat := (opOuts i.word (opPrec s.img b i.word)).map OutIdx.idx

/-- The number of output row R in the scale stream of the store: the rows before it that store something (R96, R189). -/
def State.outRowNo (s : State) (b : Nat) (i : Issue) (d : Desc) (r : Nat) : Nat :=
  baseOf i.wrBase 1 + ((List.range r).filter (fun (k : Nat) => rowHas d (posAdd (i.at 1) d.rowdim k) (s.outIdx b i))).length

/-- The range-monitor group of an output (R72, R135). -/
def monGroupOf (w prec : Nat) (o : OutIdx) : Nat :=
  if opKind w = 0x06 then o.n / 8 else if opTrans w then o.n / 64 else o.n * 8 / precN prec

/-- An output row R of an issue goes to the monitors, the statistics and the store; `outs` are the values of all its outputs. -/
def State.finishRow (s : State) (b : Nat) (i : Issue) (r : Nat) (outs : List (OutIdx × F32 × Int)) (raw : Nat) : State :=
  let w := i.word
  let prec := opPrec s.img b w
  let d := s.iDesc b i 1
  let p := posAdd (i.at 1) d.rowdim r
  let vals := (outs.map (fun o => OutVal.mk o.1 (posAdd p d.outdim o.1.idx) o.2.1 o.2.2)).filter (fun x => inBounds d x.pos)
  let s1 := if d.fmt = 10 then s else vals.foldl (fun st x => st.monSample (16 * b + x.o.unit) (monGroupOf w prec x.o) x.v) s
  let s2 := (s1.storeRow b i 1 d (s1.outRowNo b i d r) vals raw).cmpBand b i 1 r
    (fun q => (s.outIdx b i).map (tilePos d (i.at 1) q))
  if opStats w then
    let e := s2.iDesc b i 3
    (s2.storeRec b i 3 e (posAdd (i.at 3) e.rowdim r) (rowStats (vals.map (fun x => (x.o.unit, x.v)))).bytes).cmpBand b i 3 r
      (fun q => recPos e (posAdd (i.at 3) e.rowdim q) 16)
  else s2

/-! ## The epilogue of a tile row (R98, R129) -/

/-- The FP16 scale of input row r (R91, R188); the spec gives none for a row out of bounds, which is then free. -/
def State.inScale (s : State) (b : Nat) (i : Issue) (r : Nat) : Nat × State :=
  let d := s.iDesc b i 0
  let p := posAdd (i.at 0) d.rowdim r
  if d.streams then
    if rowHas d p (s.inIdx b i d) then ((s.scaleRec b d i.staged (s.inRowNo b i d p)).1, s)
    else (let (x, t) := s.takeFree; (x % 65536, t))
  else (d.fixed, s)

/-- Issues whose entries continue in issue i's tile: the earlier ones of its chain (R127, R210). -/
def sameTile (i x : Issue) : Bool := decide (x.ctx = i.ctx ∧ x.j = i.j ∧ opTileIdx x.word = opTileIdx i.word)

/-- The correction entry of output o of row r with those of the chain's earlier operations. -/
def State.corrOf (s : State) (b : Nat) (i : Issue) (r o : Nat) : Int × Nat :=
  ((s.bx b).chains.filter (sameTile i)).foldl (fun (acc : Int × Nat) x =>
    let q := sat48 acc.1 (SMap.get 0 x.corr (corrKey r o))
    (q.1, acc.2 + b2n q.2)) (SMap.get 0 i.corr (corrKey r o), 0)

/-- acc of R98 for an output: the entries of its group's macros, added in ascending order (R118). -/
def State.accOf (s : State) (b w prec r : Nat) (o : OutIdx) : Int :=
  if opKind w = 0x01 then
    let q := o.idx / precN prec
    sumI (opG w) (fun j => s.accRd w prec (16 * b + q * opG w + j) r (o.idx % precN prec))
  else s.accRd w prec (16 * b + o.unit) r o.n

/-- The values of tile row r after activation, with their raw totals, and the saturations of chained corrections. -/
def State.epiRow (s : State) (b : Nat) (i : Issue) (r : Nat) (sIn : Nat) : List (OutIdx × F32 × Int) × Nat :=
  let w := i.word
  let prec := opPrec s.img b w
  let par := s.rowParams b i r
  (opOuts w prec).foldl (fun (acc : List (OutIdx × F32 × Int) × Nat) o =>
    let c := s.corrOf b i r o.idx
    let t := s.accOf b w prec r o * 2 ^ opEscFrac w + c.1
    let e := postEntry w prec o
    (acc.1 ++ [(o, s.activate b w o.unit e par (s.epiValue b w o.unit e t (f32of16 sIn)), t)], acc.2 + c.2)) ([], 0)

/-- The output row that tile rows R × P to R × P + P - 1 give (R132): pooled values of each output. -/
def poolRow (kind : Nat) (rows : List (List (OutIdx × F32 × Int))) : List (OutIdx × F32 × Int) :=
  match rows with
  | [one] => one
  | first :: _ => (first.zip (List.range first.length)).map (fun e =>
      (e.1.1, poolValues kind (rows.map (fun l => ((l[e.2]?).map (fun x => x.2.1)).getD f32zero)), e.1.2.2))
  | [] => []

/-- Tile rows taken through the activation stage by f, pooled and stored as output row R; `f` gives the values of a tile row and events. -/
def State.outRow (s : State) (b : Nat) (i : Issue) (r : Nat) (f : State → Nat → Nat → List (OutIdx × F32 × Int) × Fl) : State :=
  let p := opPoolRows i.word
  let (rows, raw, fl, s1) := (List.range p).foldl (fun (acc : List (List (OutIdx × F32 × Int)) × Nat × Fl × State) k =>
    let (sc, t) := acc.2.2.2.inScale b i (r * p + k)
    let (l, fl) := f t (r * p + k) sc
    (acc.1 ++ [l], sc, acc.2.2.1.add fl, t)) ([], 0, Fl.zero, s)
  (((s1.addFl b fl).recFl i.slot fl)).finishRow b i r (poolRow (opPool i.word) rows) raw

/-- No row of an issue's tile can still be found to hold more than 32 escapes: a tile that faults so stores nothing (R86). -/
def State.escapesFit (s : State) (b : Nat) (i : Issue) : Bool :=
  !fmtIsNq (s.iDesc b i 0).fmt || (List.range i.rows).all (fun (q : Nat) => decide (q < i.rowsDone)
    || (s.rowStaged b i q && !(s.escapesOf b i q (s.inCodes b i q)).2))

/-- Row r of a tile may run its epilogue: its entries are readable, its corrections complete, its row parameters staged (R86, R129). -/
def State.epiReady (s : State) (b : Nat) (i : Issue) (r : Nat) : Bool :=
  !opChain i.word && opHasOut i.word && decide (opKind i.word ≠ 0x06) && decide (r < i.rowsDone) && s.escapesFit b i
    && (s.parLines b i r).all (fun l => decide (l ∈ i.got))
    && (if opTrans i.word then
          i.corrPend.isEmpty && (decide (i.path = 1) || (List.range i.rows).all (fun (q : Nat) => decide (q < i.rowsDone)
            || (s.rowStaged b i q && (s.escapesOf b i q (s.inCodes b i q)).1.isEmpty)))
        else !i.corrPend.any (fun e => decide (e.1 = r)))

/-- The tile of an issue has been read for the last time: its accumulator range and its chain's entries are free. -/
def State.tileRead (s : State) (b : Nat) (i : Issue) : State :=
  let s1 := s.setBx b { s.bx b with chains := (s.bx b).chains.filter (fun x => !sameTile i x) }
  (s1.modIssue b i.id (fun x => { x with claims := [] })).issueDone b i.id

/-- EPILOGUE: the next tile row of issue `id`. Of a pool group, the last row gives the output row. -/
def epilogueEff (s : State) (b id : Nat) : State :=
  match s.issueOf b id with
  | some i =>
    let r := i.epiDone
    if s.compOn b && !i.faulted && !i.done && s.epiReady b i r then
      let p := opPoolRows i.word
      let s1 := s.modIssue b id (fun x => { x with epiDone := r + 1 })
      let s2 := if (r + 1) % p = 0 then
          s1.outRow b i (r / p) (fun st q sc => let v := st.epiRow b i q sc; (v.1, ⟨v.2, 0, 0, 0⟩))
        else s1
      if r + 1 = i.rows then s2.tileRead b i else s2
    else s
  | none => s

/-- The meaning of EPILOGUE. -/
def execEpilogue (b i : Nat) (s : State) : Host.Outcome State Fault Refusal := .next (epilogueEff s b i)

/-! ## PASS and ROWFIN (R134, R135) -/

/-- The side-list entry of an escape that an operand's decoder meets: 0 without a list or for a code that is no escape; and beyond the 32 entries of the
row's list, where R86's fault is one of the macro input stage and the spec states neither a value nor a fault: a free value (log entry 102). -/
def State.srcEntry (s : State) (b : Nat) (i : Issue) (sl : Nat) (d : Desc) (q : List Int) (c : Nat) : Nat :=
  if takesSide d && inBounds d q && decide (c = nqEscape d.fmt) then
    let n := s.escRank b i sl d q
    if n < 32 then s.sideEntry b d i.staged q n else Config.lostEntry s.free n
  else 0

/-- The values of row r of a PASS. An INT32 element that is stored in another form than INT32 runs the epilogue; one stored as INT32 is its raw
total; what any other element gives as a raw total the spec does not state (R105, R135), and it is free. -/
def State.passRow (s : State) (b : Nat) (i : Issue) (r sIn : Nat) : List (OutIdx × F32 × Int) :=
  let w := i.word
  let d := s.iDesc b i 0
  let sc := f32of16 sIn
  let par := s.rowParams b i r
  (opOuts w 0).map (fun o =>
    let q := tilePos d (i.at 0) r o.idx
    let c := s.srcRead b i 0 d q
    let t := toSigned 32 c
    let free := toSigned 32 (Config.freeNat (s.free + 1024 * r + o.idx))
    let v := if d.fmt = 10 then s.epiValue b w o.unit o.n t sc
      else decodeReal d.fmt c sc (opZp w) (s.srcEntry b i 0 d q c)
    (o, s.activate b w o.unit o.n par v, if d.fmt = 10 then t else free))

/-- PASS as a whole. -/
def passEff (s : State) (b : Nat) (i : Issue) : State :=
  let s1 := (List.range (i.rows / opPoolRows i.word)).foldl (fun st r => st.outRow b i r (fun t q sc => (t.passRow b i q sc, Fl.zero))) s
  let s2 := if (s.iDesc b i 1).fmt = 10 ∧ (s.iDesc b i 0).fmt ≠ 10 then { s1 with free := s1.free + 1024 * 32 } else s1
  s2.issueDone b i.id

/-- The statistics records of row r of a ROWFIN, combined. -/
def State.finStat (s : State) (b : Nat) (i : Issue) (r : Nat) : RowStat :=
  let d := s.iDesc b i 0
  let w := fmtBits d.fmt
  let n := rowBytes d / 16 * 16
  let row := packCodes w ((List.range (n * 8 / w)).map (fun (e : Nat) => s.srcRead b i 0 d (posSet (posAdd (i.at 0) d.rowdim r) 0 (e : Nat)) % 2 ^ w))
  ((List.range (n / 16)).map (fun (k : Nat) => rowStatOf (slice row (16 * k) 16))).foldl RowStat.merge RowStat.init

/-- ROWFIN as a whole. -/
def rowfinEff (s : State) (b : Nat) (i : Issue) : State :=
  let eps := s.epsOf b (s.iDesc b i 0) i.staged
  let d := s.iDesc b i 1
  (((List.range i.rows).foldl (fun st r =>
    let v := rowFinish (opRfMode i.word) (s.finStat b i r) eps
    st.storeRec b i 1 d (posAdd (i.at 1) d.rowdim r) (leBytes 4 v.1.toNat ++ leBytes 4 v.2.toNat)) s).cmpFlush b i.id 1 d
      ((List.range i.rows).flatMap (fun (r : Nat) => recPos d (posAdd (i.at 1) d.rowdim r) 8))).issueDone b i.id

end Sys2Proof.Machine
end

