-- ==== Sys2Proof/Machine/RowOps.lean ====
section
/-! DEFINITION. Operations that write macro rows from tensors (R58, R59, R212), the optimiser update (R136 to R139), and copies (R161 to R167,
R326). -/

namespace Sys2Proof.Machine

/-! ## RES_WRITE and RES_MERGE (R58, R59, R211, R212) -/

/-- Elements per macro of a resident write. -/
def resCount (d : Desc) : Nat := 1024 / fmtBits d.fmt

/-- The bytes of the j-th macro's row from tile row r, with whether each is in bounds. -/
def State.resBytes (s : State) (b : Nat) (i : Issue) (r j : Nat) : List (Byte × Bool) :=
  let d := s.iDesc b i 0
  let w := fmtBits d.fmt
  let n := resCount d
  let es := (List.range n).map (fun (e : Nat) =>
    let p := tilePos d (i.at 0) r (n * j + e)
    (s.srcRead b i 0 d p, inBounds d p))
  let bytes := packCodes w (es.map Prod.fst)
  (bytes.zip (List.range bytes.length)).map (fun x =>
    (x.1, (List.range (max 1 (8 / w))).any (fun (k : Nat) => ((es[if w < 8 then x.2 * (8 / w) + k else x.2 / (w / 8)]?).map Prod.snd).getD false)))

/-- The macro row that tile row r goes to (Table 7.7). -/
def State.resRow (s : State) (b : Nat) (i : Issue) (r : Nat) : Nat :=
  let d := s.iDesc b i 0
  (((i.at 0).getD d.rowdim 0 + r) % 512).toNat

/-- One macro row of a resident write: words wholly in bounds are written, partly filled ones merged; a RES_MERGE merges all. -/
def State.resStore (s : State) (m row : Nat) (mergeAll : Bool) (l : List (Byte × Bool)) : State :=
  let inw := fun w => (slice l (16 * w) 16).all Prod.snd
  let full := if mergeAll then [] else (List.range 8).filter inw
  let parts := ((l.zip (List.range l.length)).filter (fun x => x.1.2 && !decide (x.2 / 16 ∈ full))).map (fun x => (x.2, x.1.1))
  let s1 := if full.isEmpty then s else s.writeRow m row (full.foldl (fun (a k : Nat) => a + 2 ^ k) 0) (l.map Prod.fst)
  if parts.isEmpty then s1 else s1.mergeRow m row parts

/-- A resident write as a whole. -/
def resEff (s : State) (b : Nat) (i : Issue) : State :=
  let ms := maskMacros (opMacros i.word)
  let s1 := (List.range i.rows).foldl (fun st r =>
    (ms.zip (List.range ms.length)).foldl (fun t m =>
      t.resStore (16 * b + m.1) (s.resRow b i r) (decide (opKind i.word = 0x04)) (s.resBytes b i r m.2)) st) s
  (s1.modIssue b i.id (fun x => { x with claims := [] })).issueDone b i.id

/-! ## UPDATE (R136 to R139) -/

/-- The hyperparameters of an UPDATE: lr, b1, b2, eps, wd, c1, c2 and whether ALGO is adaptive; an ALGO the spec does not name is free. -/
structure Hyper where
  lr : F32
  b1 : F32
  b2 : F32
  eps : F32
  wd : F32
  c1 : F32
  c2 : F32
  adaptive : Bool
deriving DecidableEq, Repr

/-- The record in D1. -/
def State.hyper (s : State) (b : Nat) (i : Issue) : Hyper :=
  let r := s.readRec b (opDesc i.word 1) (s.iDesc b i 1) i.staged (i.at 1) 32
  let f := fun k => (BitVec.ofNat 32 (leAt r (4 * k) 4) : F32)
  let a := leAt r 28 4
  ⟨f 0, f 1, f 2, f 3, f 4, f 5, f 6, if a ≤ 1 then decide (a = 1) else decide (Config.freeNat s.free % 2 = 1)⟩

/-- The scale of an UPDATE operand's row by its name; free for a row without an element in bounds. -/
def State.updScale (s : State) (b : Nat) (i : Issue) (sl : Nat) (rows : List UpdRowOf) (name : Nat) : F32 :=
  let d := s.iDesc b i sl
  if d.streams then
    if rows.any (fun x => decide (x.name = name) && x.has d (i.at sl)) then
      f32of16 (s.scaleRec b d i.staged (baseOf i.rdBase sl + updRowNo rows d (i.at sl) name)).1
    else f32of16 (Config.freeNat (s.free + 1 + 16384 * sl + name) % 65536)
  else f32of16 d.fixed

/-- An operand's value for weight (k, n) of macro m. -/
def State.updValue (s : State) (b : Nat) (i : Issue) (sl zp : Nat) (rows : List UpdRowOf) (m k n : Nat) : F32 :=
  let d := s.iDesc b i sl
  let e := s.updElem b i.word m k n
  let q := s.updPos b i.word d (i.at sl) m k n
  let c := s.srcRead b i sl d q
  decodeReal d.fmt c (s.updScale b i sl rows (if sl = 0 then e.1 else 512 * e.2.2.1 + e.1 % 512)) zp (s.srcEntry b i sl d q c)

/-- The new weight and moments of one weight (R136): (w, m, v). -/
def updateOne (h : Hyper) (w g mIn vIn : F32) : F32 × F32 × F32 :=
  let m := f32add (f32mul h.b1 mIn) (f32mul (f32sub f32one h.b1) g)
  let v := if h.adaptive then f32add (f32mul h.b2 vIn) (f32mul (f32sub f32one h.b2) (f32mul g g)) else f32zero
  let d := if h.adaptive then f32div (f32mul m h.c1) (f32add (f32sqrt (f32mul v h.c2)) h.eps) else m
  let d := f32add d (f32mul h.wd w)
  (f32sub w (f32mul h.lr d), m, v)

/-- The new code of a weight (R103, R137). -/
def weightEncode (dr : Draw) (prec : Nat) (w sc : F32) : Nat × Fl := if prec = 3 then encodeBin dr w sc else encodeInt dr w sc (precBits prec) 0

/-- The draw of a weight's code (R101): keyed by the weight tensor, a twin's by the forward copy. -/
def State.weightDraw (s : State) (b : Nat) (i : Issue) (m k n : Nat) : Draw :=
  let e := s.updElem b i.word m k n
  let key := Config.weightKey (16 * b + e.2.2.1) (e.1 % 512) e.2.2.2
  drawOf (opNearest i.word) (planSeed s.img) (s.stepOf i.j i.slot) (key.1 % 2 ^ 24) (key.2 % 2 ^ 40)

/-- What an UPDATE makes of one row: the codes, their events, and the moments as (element position row and channel, m, v). -/
structure UpdRow where
  codes : List Nat
  fl : Fl
  mom : List (Nat × Nat × F32 × F32)
deriving DecidableEq, Repr

/-- Row k of macro m, whose bytes are `row`. -/
def State.updCompute (s : State) (b : Nat) (i : Issue) (h : Hyper) (rows : List (List UpdRowOf)) (m k : Nat) (row : List Byte) : UpdRow :=
  let prec := s.getF (macBase (16 * b + m)) F.MAC_CFG_PREC
  let get := fun sl zp n => s.updValue b i sl zp (rows.getD sl []) m k n
  (List.range (s.updChannels b m)).foldl (fun acc n =>
    let e := s.updElem b i.word m k n
    let sc := s.entScale b e.2.2.1 (if prec = 2 then e.2.2.2 / 2 else if prec = 3 then e.2.2.2 / 4 else e.2.2.2)
    let w := f32mul (f32ofInt (rowWeight prec row n) 0) sc
    let r := updateOne h w (get 0 (opZp i.word) n) (get 2 (s.iDesc b i 2).zp n)
      (if h.adaptive then get 3 (s.iDesc b i 3).zp n else f32zero)
    let c := weightEncode (s.weightDraw b i m k n) prec r.1 sc
    ⟨acc.codes ++ [c.1], acc.fl.add c.2, acc.mom ++ [(e.1, e.2.1, r.2.1, r.2.2)]⟩) ⟨[], Fl.zero, []⟩

/-- Moments stored through slot sl under R104, ROW scale over the row (R136). -/
def State.momStore (s : State) (b : Nat) (i : Issue) (sl : Nat) (vals : List (Nat × Nat × F32)) : State :=
  let d := { s.iDesc b i sl with smode := 1 }
  let outs := (vals.map (fun x => OutVal.mk ⟨x.2.1, 0, 0⟩ (tilePos d (i.at sl) x.1 x.2.1) x.2.2 0)).filter (fun x => inBounds d x.pos)
  let j := SMap.get 0 (s.bx b).rowsWr d.sstream
  let s1 := s.storeRow b i sl d j outs 0
  if d.streams && !outs.isEmpty then s1.setBx b { s1.bx b with rowsWr := SMap.set 0 (s1.bx b).rowsWr d.sstream (j + 1) } else s1

/-- Row k of macro m, as it was read, updated: its moments stored, the row written back. A row whose read found an uncorrectable word is not written
(R139). -/
def State.updRow (s : State) (b : Nat) (i : Issue) (h : Hyper) (rows : List (List UpdRowOf)) (k : Nat) (e : Nat × Option (List Byte)) : State :=
  let m := e.1
  let fm := 16 * b + m
  match e.2 with
  | some row =>
    let u := s.updCompute b i h rows m k row
    let prec := s.getF (macBase fm) F.MAC_CFG_PREC
    let twin := decide (s.getF (macBase fm) F.MAC_CFG_TWIN_ROLE = 2)
    let s1 := if twin then s else s.momStore b i 4 (u.mom.map (fun x => (x.1, x.2.1, x.2.2.1)))
    let s2 := if twin || !h.adaptive then s1 else s1.momStore b i 5 (u.mom.map (fun x => (x.1, x.2.1, x.2.2.2)))
    let rest := (List.range (precN prec - u.codes.length)).map (fun (n : Nat) =>
      let c := u.codes.length + n
      bits (leAt row (c * precBits prec / 8) 1) (c * precBits prec % 8) (precBits prec))
    ((s2.writeRow fm k 255 (packCodes (precBits prec) (u.codes ++ rest))).addFl b u.fl).recFl i.slot u.fl
  | none => s

/-- Row k of every macro of the mask read. -/
def State.updReads (s : State) (b mask k : Nat) : List (Nat × Option (List Byte)) × State :=
  (maskMacros mask).foldl (fun (acc : List (Nat × Option (List Byte)) × State) m =>
    let (o, t) := acc.2.readRow (16 * b + m) k true
    (acc.1 ++ [(m, o.data)], t)) ([], s)

/-- The positions of the moments that an UPDATE stores through slot sl (R136, R138). -/
def State.momPos (s : State) (b w : Nat) (d : Desc) (p : List Int) : List (List Int) :=
  ((maskMacros (opMacros w)).filter (fun m => decide (s.getF (macBase (16 * b + m)) F.MAC_CFG_TWIN_ROLE ≠ 2))).flatMap (fun m =>
    (List.range 512).flatMap (fun (r : Nat) => (List.range (s.updChannels b m)).map (fun (n : Nat) => s.updPos b w d p m r n)))

/-- UPDATE as a whole: rows 0 to 511, each read over the mask, then updated macro by macro (R136; log entry 66). -/
def updateEff (s : State) (b : Nat) (i : Issue) : State :=
  let w := i.word
  let h := s.hyper b i
  let rows := (List.range 4).map (fun (sl : Nat) => s.updRows b w sl)
  let s1 := (List.range 512).foldl (fun st k =>
    let (l, t) := st.updReads b (opMacros w) k
    l.foldl (fun u e => u.updRow b i h rows k e) t) s
  let flush := fun (t : State) (sl : Nat) => let d := t.iDesc b i sl; t.cmpFlush b i.id sl d (t.momPos b w d (i.at sl))
  let s2 := if h.adaptive then flush (flush s1 4) 5 else flush s1 4
  let s3 := { s2 with free := s2.free + 65536 }
  (s3.modIssue b i.id (fun x => { x with claims := [] })).issueDone b i.id

/-! ## Copies (R161 to R167) -/

/-- The elements that a copy stores, as (position, code). -/
def State.copyElems (s : State) (b : Nat) (i : Issue) : List (List Int × Nat) :=
  let w := i.word
  let sd := s.iDesc b i 0
  (copyPairs w sd (i.at 0) (i.at 1)).map (fun e => (e.2, s.srcRead b i 0 (cpDesc w sd) e.1))

/-- COPY, TCOPY and PCOPY as a whole. -/
def copyEff (s : State) (b : Nat) (i : Issue) : State :=
  let d := s.iDesc b i 1
  ((s.storeSlot b i 1 (cpDesc i.word d) (s.copyElems b i)).cmpFlush b i.id 1 d ((s.copyElems b i).map Prod.fst)).issueDone b i.id

/-- The elements of an ATOMIC by the 64-byte line of the source that they lie in, as (position, code) of the destination: each line is one request
(R165). An element without a place in the source goes with the line before it (log entry 86). -/
def State.atomGroups (s : State) (b : Nat) (i : Issue) : List (List (List Int × Nat)) :=
  let w := i.word
  let sd := s.iDesc b i 0
  let place := fun (p : List Int) => if inBounds sd p then ((elemKeys s.img s.ownCoord b sd p).bind List.head?).map lineOf else none
  (((copyPairs w sd (i.at 0) (i.at 1)).map Prod.fst).zip (s.copyElems b i)).foldl (fun (acc : List (Option Nat × List (List Int × Nat))) e =>
    match acc, place e.1 with
    | (l, es) :: r, some k => if l = none ∨ l = some k then (some k, es ++ [e.2]) :: r else (some k, [e.2]) :: acc
    | (l, es) :: r, none => (l, es ++ [e.2]) :: r
    | [], k => [(k, [e.2])]) [] |>.reverse |>.map Prod.snd

/-- The request of an ATOMIC for bytes of the line at place k: to the atomic unit of the target's region, to HBM, where it counts nothing (R326), or to
another device. -/
def State.atomSend (s : State) (b : Nat) (i : Issue) (k : Nat) (data : List (Nat × Byte × Byte)) (cnt : Option Nat) : State :=
  let f := cpAfmt i.word
  if isSpd k then s.send b (spdBlk k) (spdBlk k) (.atomic (spdOff k) data f cnt i.id)
  else if isHbm k then (s.expectAck b i.id).hbmPost b (k - keyHbm 0) (.atomic (k - keyHbm 0) data f none i.id)
  else
    let r := devKey k
    let s1 := s.expectAck b i.id
    if isSpd r then s1.send b (4096 + devCoord k) (spdBlk r) (.atomic (spdOff r) data f cnt i.id)
    else s1.send b (4096 + devCoord k) 256 (.atomic (r - keyHbm 0) data f none i.id)

/-- One line of an ATOMIC's source: where its destination spans several lines each has a request, of which the last counts (log entry 86). -/
def State.atomLine1 (s : State) (b : Nat) (i : Issue) (es : List (List Int × Nat)) : State :=
  let d := s.iDesc b i 1
  let cells := es.flatMap (fun e => elemWrite s.img s.ownCoord b d e.1 e.2)
  let ls := dedup (cells.map (fun c => lineOf c.1))
  let cnt := if cpCntEn i.word then some (cpCnt i.word) else none
  ls.foldl (fun st l => st.atomSend b i l (runData cells l 1) (if ls.getLast? = some l then cnt else none)) s

/-- ATOMIC as a whole (R165, R326). -/
def atomicEff (s : State) (b : Nat) (i : Issue) : State := ((s.atomGroups b i).foldl (fun st es => st.atomLine1 b i es) s).issueDone b i.id

end Sys2Proof.Machine
end

