-- ==== Sys2Proof/Machine/Sparse.lean ====
section
/-! DEFINITION. Sparse operations: expansion and staging tags (R233 to R237), the sparse engine and its merge tree (R238 to R244), SPACK (R252),
and Cirrus predictions and audits (R259 to R273, R276 to R279). -/

namespace Sys2Proof.Machine

/-- The number in the block of a sparse operation's target macro. -/
def sparseMacro (w : Nat) : Nat := (maskMacros (opMacros w)).headD 0

/-- The bits of a macro row's code of channel n. -/
def rowCode (prec : Nat) (row : List Byte) (n : Nat) : Nat := bits (leAt row (n * precBits prec / 8) 1) (n * precBits prec % 8) (precBits prec)

/-! ## Expansion (R228, R233 to R237, R273) -/

/-- Rows of macro m overwritten with values the spec leaves undefined (R228). -/
def State.loseRows (s : State) (m : Nat) : State :=
  let f := s.free
  let s1 := { s with free := f + 65536 }
  (List.range 512).foldl (fun st r => st.writeRow m r 255 ((List.range 128).map (fun (x : Nat) => BitVec.ofNat 8 (Config.freeNat (f + 128 * r + x))))) s1

/-- All 512 rows of macro m written from a tile whose stored codes are `es`: row k takes column k of the tile. -/
def State.writeTile (s : State) (m prec : Nat) (es : List (Nat × Nat × Nat)) : State :=
  (List.range 512).foldl (fun st k =>
    let col := es.filter (fun e => decide (e.2.1 = k))
    st.writeRow m k 255 (packCodes (precBits prec) ((List.range (precN prec)).map (fun (n : Nat) =>
      ((col.find? (fun e => decide (e.1 = n))).map (fun e => e.2.2)).getD 0)))) s

/-- The staging tag of an issue's weight tile (R236); none of an absent tile. -/
def State.tagOf (s : State) (b : Nat) (i : Issue) : Option StageTag :=
  let t := s.sparseTile b i 4
  if t.isEmpty then none else some ⟨opDesc i.word 4, i.dirPos 4, tileValCrc t⟩

/-- The tile of issue i is expanded into its macro, or that is skipped (R233, R237, R273). -/
def State.expand (s : State) (b : Nat) (i : Issue) : State :=
  let w := i.word
  let mi := sparseMacro w
  let m := 16 * b + mi
  let prec := opPrec s.img b w
  let t := s.sparseTile b i 4
  let base := blkBase b
  if opPred w then
    let s1 := s.writeTile m prec ((tileEntries t).filter (fun e => decide (e.1 ∈ i.eng.predicted)))
    if t.isEmpty then s1 else s1.flagF base F.SPE_STAT_PRED_NOCRC
  else if !t.isEmpty && decide (SMap.get none (s.bx b).tags mi = s.tagOf b i) then s.addF base F.SPE_EXP_SKIP_COUNT 1
  else if !t.isEmpty && !valOk t then ((s.loseRows m).metaErr b 8 0 (opDesc w 4)).issueFault b i.id (unitBlk b) 0x16
  else (s.writeTile m prec (tileEntries t)).setTag m (s.tagOf b i)

/-- SEXPAND as a whole. -/
def sexpandEff (s : State) (b : Nat) (i : Issue) : State :=
  ((s.expand b i).modIssue b i.id (fun x => { x with claims := [] })).issueDone b i.id

/-- The expansion of a dense-path issue; its rows then run as a FWD or TRN, which reads the rows that the expansion has written (R120). -/
def denseExpand (s : State) (b : Nat) (i : Issue) : State :=
  (s.expand b i).modIssue b i.id (fun x => { x with
    eng := { x.eng with dealt := true }, claims := x.claims.map (fun c => if c.space = 2 then { c with wr := false } else c) })

/-! ## SPACK (R252) -/

/-- The rows of macro m read for SPACK; none where a row holds an uncorrectable word. -/
def State.packRows (s : State) (m : Nat) : Option (List (List Byte)) × State :=
  (List.range 512).foldl (fun (acc : Option (List (List Byte)) × State) k =>
    let (o, t) := acc.2.readRow m k false
    (match acc.1, o.data with
      | some l, some d => some (l ++ [d])
      | _, _ => none, t)) (some [], s)

/-- The tile that SPACK makes under a mask tile. -/
def packTile (prec : Nat) (mask : List Byte) (rows : List (List Byte)) : List Byte :=
  let idx := slice mask 64 (tileIdxLen mask)
  tileBytes 2 (tileEfmt mask) (tileRows mask) (tileCols mask) (tileStored mask) idx
    (packCodes (fmtBits (tileEfmt mask)) ((tileCells mask).map (fun c => rowCode prec (rows.getD c.2 []) c.1)))

/-- SPACK as a whole. D4's entry is tested first (R252); an absent mask then stores nothing. -/
def spackEff (s : State) (b : Nat) (i : Issue) : State :=
  let w := i.word
  let prec := opPrec s.img b w
  let mask := s.sparseTile b i 5
  let e := s.sparseEnt b i 4
  let d := s.iDesc b i 4
  let fin := fun (st : State) => (st.modIssue b i.id (fun x => { x with claims := [] })).issueDone b i.id
  if entLen e = 0 ∨ (mask.isEmpty = false ∧ entLen e < (packTile prec mask []).length / 64) then
    (s.flagF (blkBase b) F.SPE_STAT_SLOT_ERR).issueFault b i.id (unitBlk b) 0x42
  else if mask.isEmpty then fin s
  else
    match s.packRows (16 * b + sparseMacro w) with
    | (some rows, s1) =>
      let t := packTile prec mask rows
      let s2 := s1.storeBody b i.id d (entOff e) t
      let len := t.length / 64
      fin ((s2.storeElems b i.id false d [(posAdd (i.dirPos 4) 0 4, len % 256), (posAdd (i.dirPos 4) 0 5, len / 256 % 256)]).cmpCount b len)
    | (none, s1) => fin s1

/-! ## Cirrus predictions (R259 to R271) -/

/-- The weight of input row k and neuron j of block b's array (R258). -/
def State.cirWeight (s : State) (b k j : Nat) : Int :=
  toSigned 4 (bits (Mem.rd s.mem.cirrus (131072 * b + 128 * k + j / 2)).toNat (4 * (j % 2)) 4)

/-- The codes of predictor row r. -/
def State.predCodes (s : State) (b : Nat) (i : Issue) (r : Nat) : List Nat := (s.predElems b i r).map (s.predRead b i)

/-- The code at a position of the predictor input is an escape; a fill is none (R185). -/
def State.predEsc (s : State) (b : Nat) (i : Issue) (q : List Int) : Bool :=
  let d := s.predDesc b
  fmtIsNq d.fmt && inBounds d q && decide (s.predRead b i q = nqEscape d.fmt)

/-- The escapes of a predictor row, as (element, number among those of its tensor row, side-list entry), in order (R85, R266). -/
def State.predEscapes (s : State) (b : Nat) (i : Issue) (r : Nat) : List (Nat × Nat × Nat) :=
  let d := s.predDesc b
  let es := s.predElems b i r
  ((es.zip (List.range es.length)).filter (fun e => s.predEsc b i e.1)).map (fun e =>
    let n := if takesSide d then ((priorPos e.1).filter (s.predEsc b i)).length else 0
    (e.2, n, if n < 32 then s.sideEntry b d i.staged e.1 n else 0))

/-- A predictor row has more than 32 escapes (R86, R269). -/
def State.predMany (s : State) (b : Nat) (i : Issue) (r : Nat) : Bool :=
  let es := s.predEscapes b i r
  decide (32 < es.length) || es.any (fun e => decide (32 ≤ e.2.1))

/-- The rows of group g of an issue that are evaluated (R264, R273). -/
def State.predRows (s : State) (b : Nat) (i : Issue) (g : Nat) : List Nat :=
  if opKind i.word = 0x12 then List.range 8
  else
    let d := s.iDesc b i 0
    ((List.range 8).map (fun (k : Nat) => 8 * g + k)).filter (fun r =>
      decide (r < opRows i.word) && rowHas d (posAdd (i.at 0) d.rowdim r) (s.inIdx b i d))

/-- A group is predicted all active (R269), apart from its rows' escapes. -/
def State.allActive (s : State) (b : Nat) : Bool :=
  let base := blkBase b
  !s.isF base F.CIR_CFG_EN || !s.isF base F.CIR_STAT_CAL || s.isF base F.CIR_STAT_RECAL || !decide ((s.predDesc b).fmt ∈ [0, 1, 4, 5])

/-- The estimates hold within their bound (R260). -/
def State.cirTrusted (s : State) (b : Nat) : Bool :=
  let base := blkBase b
  s.isF base F.CIR_STAT_CAL &&
    decide ((s.regionTemp (b / 16) - toSigned 8 (s.getF base F.CIR_CAL_STAT_TEMP) * 256000).natAbs ≤ 2560000)

/-- The estimate of neuron j for a row: its sum and a deviation that is free within its bound (R259, R260); free index k. -/
def State.estimate (s : State) (b : Nat) (xs : List Int) (j k : Nat) : Int :=
  let ws := (List.range xs.length).map (fun (r : Nat) => s.cirWeight b r j)
  let sum := (List.zipWith (fun (x w : Int) => x * w) xs ws).sum
  let a := (List.zipWith (fun (x w : Int) => (x * w).natAbs) xs ws).sum
  let f := Config.freeNat k
  if s.cirTrusted b then
    let bound := a / 64 + 128
    sum + ((f % (2 * bound + 1) : Nat) : Int) - (bound : Int)
  else toSigned 24 f

/-- The corrected estimates of a row's 256 neurons (R266). -/
def State.rowEstimates (s : State) (b : Nat) (i : Issue) (r k : Nat) : List Int :=
  let d := s.predDesc b
  let codes := s.predCodes b i r
  let xs := codes.map (inputValue d.fmt 0)
  let f := s.getF (blkBase b) F.CIR_CFG_ESC_FRAC
  let qs := (s.predEscapes b i r).map (fun e => (e.1, (escQ e.2.2 f).1))
  (List.range 256).map (fun (j : Nat) =>
    let c := qs.foldl (fun acc e => (sat48 acc (e.2 * s.cirWeight b e.1 j)).1) (0 : Int)
    s.estimate b xs j (k + j) + c / 2 ^ f)

/-- The events of the escapes of a predictor row (R87, R266). -/
def State.predFl (s : State) (b : Nat) (i : Issue) (r : Nat) : Fl :=
  (s.predEscapes b i r).foldl (fun acc e => acc.add (escQ e.2.2 (s.getF (blkBase b) F.CIR_CFG_ESC_FRAC)).2) Fl.zero

/-- The class of neuron j: 2 predicted, 1 doubtful, 0 skipped otherwise, from the estimates of the evaluated rows (R268, R269). -/
def State.neuronClass (s : State) (b : Nat) (rows : List (List Int)) (j : Nat) : Nat :=
  let base := blkBase b
  if (s.reg (base + 0x30110 + 4 * (j / 32))).toNat.testBit (j % 32) then 2
  else
    let thr := s.cirThr b
    let es := rows.map (fun l => l.getD j 0)
    if es.any (fun e => decide (thr ≤ e)) then 2
    else if es.any (fun e => decide (thr - (s.getF base F.CIR_DOUBT_WIDTH : Nat) ≤ e)) then 1 else 0

/-- The class of output n of macro m (R270). -/
def State.outClass (s : State) (b mi : Nat) (rows : List (List Int)) (n : Nat) : Nat :=
  let base := blkBase b
  let o := 4 * mi
  if s.getF base (F.CIR_MAP_EN.idx o) = 1 then
    s.neuronClass b rows (s.getF base (F.CIR_MAP_BASE.idx o) + n / 2 ^ s.getF base (F.CIR_MAP_SHIFT.idx o))
  else 2

/-- pick_audit of R278: outputs of class below 2, at most `most`, from output o0 on. -/
def pickAudit (z nout most : Nat) (cls : List Nat) : List Nat :=
  (((List.range nout).map (fun (k : Nat) => (z % nout + k) % nout)).filter (fun o => decide (cls.getD o 2 < 2))).take most

/-- The result set of slot n is audited (R277). -/
def State.auditedSlot (s : State) (b n : Nat) : Bool :=
  let v := s.getF (blkBase b) F.CIR_CFG_AUDIT_LOG2
  decide (v < 15) && decide (n % 2 ^ v = 0)

/-- Counts of a prediction in the block's registers and its result set's record, which saturate (R276, R429, Table 9.6). -/
def State.cirCounts (s : State) (b slot evals pred skip doubt all : Nat) : State :=
  let base := blkBase b
  let s1 := ((((s.addF base F.CIR_EVAL_ROWS evals).addF base F.CIR_PREDICTED_COUNT pred).addF base F.CIR_SKIPPED_COUNT skip).addF base
    F.CIR_DOUBT_CNT_COUNT doubt).addF base F.CIR_ALLACT_GROUPS all
  s1.modRec slot (fun e => { e with
    allact := satCount 32 e.allact all, predicted := satCount 32 e.predicted pred, skipped := satCount 32 e.skipped skip,
    doubtful := satCount 32 e.doubtful doubt })

/-- FLAGS [5] of a result set: a group of it was audited (R277, Table 14.5; log entry 106). -/
def State.markAudited (s : State) (slot : Nat) (audited : Bool) : State :=
  if audited then s.modRec slot (fun e => { e with flags := e.flags ||| 32 }) else s

/-- The prediction of group g for issue i, in one of its two group records. -/
def State.predictGroup (s : State) (b : Nat) (i : Issue) (g : Nat) (put : (Engine → Engine) → Issue → Issue) : State :=
  let w := i.word
  let mi := sparseMacro w
  let nout := accOuts w (opPrec s.img b w)
  let base := blkBase b
  let rows := s.predRows b i g
  let bad := !decide ((s.predDesc b).fmt ∈ [0, 1, 4, 5])
  let evaluated := !s.allActive b
  let many := evaluated && rows.any (s.predMany b i)
  let gNo := SMap.get 0 (s.bx b).predG i.j
  let s0 := s.setBx b { s.bx b with predG := SMap.set 0 (s.bx b).predG i.j (gNo + 1) }
  let s1 := if bad then s0.flagF base F.CIR_STAT_BAD_FMT else s0
  if !evaluated || many then
    let s2 := s1.modIssue b i.id (put (fun e => { e with predOk := true, predicted := List.range nout }))
    s2.cirCounts b i.slot (if many then rows.length else 0) nout 0 0 1
  else
    let k := s.free
    let ests := (rows.zip (List.range rows.length)).map (fun r => s.rowEstimates b i r.1 (k + 256 * r.2))
    let cls := (List.range nout).map (s.outClass b mi ests)
    let sel := fun (c : Nat) => (List.range nout).filter (fun (o : Nat) => decide (cls.getD o 2 = c))
    let fl := rows.foldl (fun acc r => acc.add (s.predFl b i r)) Fl.zero
    let z := keyedMix (planSeed s.img) (i.slot % 2 ^ 32) 0xFFFFFF (b * 2 ^ 32 + gNo % 2 ^ 32)
    let audited := decide (opKind w = 0x10) && s.auditedSlot b i.slot
    let audits := if audited then pickAudit z nout (s.getF base F.CIR_MISS_CTL_AUDIT_N) cls else []
    let s2 := { ((s1.addFl b fl).recFl i.slot fl).markAudited i.slot audited with free := k + 2048 }
    let s3 := s2.modIssue b i.id (put (fun e => { e with predOk := true, predicted := sel 2, doubtful := sel 1, audits := audits }))
    s3.cirCounts b i.slot rows.length (sel 2).length (nout - (sel 2).length) (sel 1).length 0

/-- The engine record replaced by f, of the group being merged or of the one after it. -/
def putEng (f : Engine → Engine) (x : Issue) : Issue := { x with eng := f x.eng }
def putNxt (f : Engine → Engine) (x : Issue) : Issue := { x with nxt := f x.nxt }

/-- The predictor lines of a group's rows have arrived; with `CIR_CFG.EN` 0 none are needed. -/
def State.predStaged (s : State) (b : Nat) (i : Issue) (g : Nat) : Bool :=
  !s.isF (blkBase b) F.CIR_CFG_EN || (s.predRows b i g).all (fun r => (s.predLines b i r).all (fun l => decide (l ∈ i.got)))

/-- An issue has a group that the array has not predicted. -/
def Issue.unpredicted (i : Issue) : Bool :=
  opPred i.word && !i.done && !i.faulted && (!i.eng.predOk || (decide (opKind i.word = 0x10)
    && ((!i.nxt.predOk && decide (8 * i.nxt.grp < i.rows)) || decide (8 * (i.nxt.grp + 1) < i.rows))))

/-- The issue whose rows the array takes next: the oldest with a group to predict (R265). -/
def State.arrayHead (s : State) (b : Nat) : Option Nat := ((s.bx b).issues.find? Issue.unpredicted).map Issue.id

/-- CIRRUS_GROUP_PREDICTION: the next group of issue `id` is predicted, in the order in which the issues reach the array (R265). -/
def predictionEff (s : State) (b id : Nat) : State :=
  match s.issueOf b id with
  | some i =>
    if s.compOn b && opPred i.word && !i.faulted && !i.done && decide (s.arrayHead b = some id) then
      if !i.eng.predOk then (if s.predStaged b i i.eng.grp then s.predictGroup b i i.eng.grp putEng else s)
      else if opKind i.word = 0x10 ∧ i.nxt.predOk = false ∧ 8 * i.nxt.grp < i.rows then
        (if s.predStaged b i i.nxt.grp then s.predictGroup b i i.nxt.grp putNxt else s)
      else s
    else s
  | none => s

/-! ## The sparse engine (R238 to R243) -/

/-- The entries of output o of a tile, as (input index, weight), in ascending input index. -/
def outEntries (trans : Bool) (prec : Nat) (es : List (Nat × Nat × Nat)) (o : Nat) : List (Nat × Int) :=
  (es.filter (fun e => decide ((if trans then e.2.1 else e.1) = o))).map (fun e => (if trans then e.1 else e.2.1, weightValue prec e.2.2))

/-- Runs of 64 entries, the last holding the rest. -/
def runsOf (l : List (Nat × Int)) : List (List (Nat × Int)) := (List.range (ceilDiv l.length 64)).map (fun (k : Nat) => slice l (64 * k) 64)

/-- Free lanes take waiting pieces: 64 lanes for both groups. -/
def lanesTake (e : Engine) (others : Nat) : Engine :=
  let n := 64 - others - e.lanes.length
  { e with lanes := e.lanes ++ e.queue.take n, queue := e.queue.drop n }

/-- The key under which the totals of an audited output stand. -/
def auditKey (o : Nat) : Nat := 65536 + o

/-- An engine record with the pieces of a group dealt. -/
def engDeal (e : Engine) (outs : List (Nat × List (Nat × Int))) (audits : List (Nat × List (Nat × Int))) : Engine :=
  let ps := fun (a : Bool) (l : List (Nat × List (Nat × Int))) => l.flatMap (fun x => (runsOf x.2).map (fun r => Piece.mk x.1 r a))
  let pend := outs.foldl (fun m x => SMap.set 0 m x.1 (runsOf x.2).length) e.pend
  { e with
    nextOut := 1, queue := ps false outs ++ ps true audits,
    pend := audits.foldl (fun m x => SMap.set 0 m (auditKey x.1) (runsOf x.2).length) pend }

/-- The oldest issue on the sparse engine that has not finished. -/
def State.engineHead (s : State) (b : Nat) : Option Nat :=
  ((s.bx b).issues.find? (fun x => decide (x.path = 1) && !x.done && !x.faulted)).map Issue.id

/-- The rows of group g inside an issue's tile. -/
def grpRows (i : Issue) (g : Nat) : List Nat := ((List.range 8).map (fun (k : Nat) => 8 * g + k)).filter (fun r => decide (r < i.rows))

/-- An audited output is judged (R279): a miss where any row of the group reaches CIR_LIVE. -/
def State.judgeAudit (s : State) (b : Nat) (i : Issue) (e : Engine) (o : Nat) : State :=
  let base := blkBase b
  let live := toSigned 32 (s.getF base F.CIR_LIVE_LIVE)
  let f := opEscFrac i.word
  let miss := (List.range 8).any (fun (k : Nat) => decide (8 * e.grp + k < i.rows)
    && decide (live ≤ SMap.get 0 e.tot (8 * auditKey o + k) + SMap.get 0 e.totC (8 * auditKey o + k) / 2 ^ f))
  let doubt := miss && decide (o ∈ e.doubtful)
  let s1 := ((s.addF base F.CIR_AUDITED_COUNT 1).addF base F.CIR_MISS_COUNT (b2n miss)).addF base F.CIR_MISS_DOUBT_COUNT (b2n doubt)
  let s2 := s1.setBx b { s1.bx b with audA := (s1.bx b).audA + 1, audM := (s1.bx b).audM + b2n miss }
  s2.modRec i.slot (fun r => { r with audited := satCount 32 r.audited 1, missed := satCount 32 r.missed (b2n miss) })

/-- The escapes of a group's rows as (row, element, q), with their events and whether a row holds too many (R86, R87). -/
def State.grpEscapes (s : State) (b : Nat) (i : Issue) (g : Nat) : List (Nat × Nat × Int) × Fl × Bool :=
  (grpRows i g).foldl (fun (acc : List (Nat × Nat × Int) × Fl × Bool) r =>
    let (es, many) := s.escapesOf b i r (s.inCodes b i r)
    let qs := es.map (fun e => (e.1, escQ e.2 (opEscFrac i.word)))
    (acc.1 ++ qs.map (fun e => (r, e.1, e.2.1)), qs.foldl (fun a e => a.add e.2.2) acc.2.1, acc.2.2 || many)) ([], Fl.zero, false)

/-- A group is dealt (R240): its pieces queue, the first 64 on lanes. -/
def State.dealGroup (s : State) (b : Nat) (i : Issue) (e : Engine) (others : Nat) (put : (Engine → Engine) → Issue → Issue) : State :=
  let w := i.word
  let prec := opPrec s.img b w
  let base := blkBase b
  let (_, fl, many) := s.grpEscapes b i e.grp
  if many then s.issueFault b i.id (unitBlk b) 0x22
  else
    let t := s.sparseTile b i 4
    let es := if s.kOf b i = 0 then [] else tileEntries t
    let all := (List.range (accOuts w prec)).map (fun (o : Nat) => (o, outEntries (opTrans w) prec es o))
    let outs := if opPred w then all.filter (fun x => decide (x.1 ∈ e.predicted)) else all
    let audits := e.audits.map (fun o => (o, outEntries (opTrans w) prec es o))
    let splits := ((outs ++ audits).filter (fun x => decide (64 < x.2.length))).length
    let s1 := ((s.addFl b fl).recFl i.slot fl).addF base F.SPE_SPLITS_COUNT splits
    let s2 := if opPred w && !t.isEmpty then s1.flagF base F.SPE_STAT_PRED_NOCRC else s1
    let s3 := s2.modIssue b i.id (put (fun _ => lanesTake (engDeal e outs audits) others))
    (audits.filter (fun x => x.2.isEmpty)).foldl (fun st x => st.judgeAudit b i e x.1) s3

/-- What dealing a group needs has arrived: its input rows, the tile, and with PRED its prediction and value lines. -/
def State.dealReady (s : State) (b : Nat) (i : Issue) (e : Engine) : Bool :=
  let has := fun (l : List Nat) => l.all (fun x => decide (x ∈ i.got))
  (grpRows i e.grp).all (s.rowStaged b i) && s.scalesIn b i && has (s.tileLines b i 4 (!opPred i.word))
    && (!opPred i.word || (e.predOk && has (s.valLines b i (e.predicted ++ e.audits))))

/-- SPARSE_GROUP_DEAL: the next group of issue `id`, once the last piece of the group before it has been dealt. -/
def dealEff (s : State) (b id : Nat) : State :=
  match s.issueOf b id with
  | some i =>
    if s.compOn b && decide (i.path = 1) && !i.faulted && !i.done && decide (s.engineHead b = some id) then
      if i.eng.nextOut = 0 then (if 8 * i.eng.grp < i.rows ∧ s.dealReady b i i.eng = true then s.dealGroup b i i.eng 0 putEng else s)
      else if i.nxt.nextOut = 0 ∧ i.eng.queue.isEmpty = true ∧ 8 * i.nxt.grp < i.rows ∧ s.dealReady b i i.nxt = true then
        s.dealGroup b i i.nxt i.eng.lanes.length putNxt
      else s
    else s
  | none => s

/-- The meaning of SPARSE_GROUP_DEAL. -/
def execSparseGroupDeal (b i : Nat) (s : State) : Host.Outcome State Fault Refusal := .next (dealEff s b i)

/-- The exact sums of a piece for the 8 rows of its group (R239): (acc, cor) by row of the group. -/
def State.pieceSums (s : State) (b : Nat) (i : Issue) (g : Nat) (p : Piece) : List (Int × Int) :=
  let w := i.word
  let d := s.iDesc b i 0
  let qs := (s.grpEscapes b i g).1
  (List.range 8).map (fun (k : Nat) =>
    let r := 8 * g + k
    if r < i.rows then
      let codes := s.inCodes b i r
      let x := fun (j : Nat) => if j < codes.length then inputValue d.fmt (opZp w) (codes.getD j 0) else 0
      let q := fun (j : Nat) => ((qs.find? (fun e => decide (e.1 = r ∧ e.2.1 = j))).map (fun e => e.2.2)).getD 0
      p.entries.foldl (fun (acc : Int × Int) e => (acc.1 + e.2 * x e.1, acc.2 + q e.1 * e.2)) (0, 0)
    else (0, 0))

/-- An engine record with a piece's sums added (R242). -/
def engAdd (e : Engine) (p : Piece) (sums : List (Int × Int)) : Engine :=
  let key := if p.audit then auditKey p.out else p.out
  let rows := sums.zip (List.range sums.length)
  { e with
    pend := SMap.set 0 e.pend key (SMap.get 0 e.pend key - 1),
    tot := rows.foldl (fun m r => SMap.set 0 m (8 * key + r.2) (SMap.get 0 m (8 * key + r.2) + r.1.1)) e.tot,
    totC := rows.foldl (fun m r => SMap.set 0 m (8 * key + r.2) (SMap.get 0 m (8 * key + r.2) + r.1.2)) e.totC }

/-- The group that is merged has left the engine: the next one takes its place. -/
def Issue.promote (i : Issue) (nout : Nat) : Issue :=
  if i.eng.nextRel = nout ∧ i.eng.lanes.isEmpty = true ∧ i.eng.queue.isEmpty = true ∧ i.eng.nextOut = 1 then
    { i with eng := i.nxt, nxt := Engine.init (i.nxt.grp + 1) }
  else i

/-- PIECE_EMIT: the k-th piece on the lanes, those of the older group first, gives its sums; its lane takes the next one. Pieces of audited outputs can
stand on lanes after the tile's last output has been released (R279). -/
def pieceEff (s : State) (b id k : Nat) : State :=
  match s.issueOf b id with
  | some i =>
    let old := decide (k < i.eng.lanes.length)
    let e := if old then i.eng else i.nxt
    let n := if old then k else k - i.eng.lanes.length
    if s.compOn b && decide (i.path = 1) && !i.faulted then
      match e.lanes[n]? with
      | some p =>
        let e1 := engAdd { e with lanes := dropAt e.lanes n } p (s.pieceSums b i e.grp p)
        let others := if old then i.nxt.lanes.length else i.eng.lanes.length
        let s1 := s.addF (blkBase b) F.SPE_ENTRIES_COUNT p.entries.length
        let s2 := s1.modIssue b id ((if old then putEng else putNxt) (fun _ => lanesTake e1 others))
        let s3 := if p.audit && decide (SMap.get 0 e1.pend (auditKey p.out) = 0) then s2.judgeAudit b i e1 p.out else s2
        s3.modIssue b id (fun x => (putNxt (fun y => lanesTake y x.eng.lanes.length) x).promote (accOuts i.word (opPrec s.img b i.word)))
      | none => s
    else s
  | none => s

/-- The meaning of PIECE_EMIT. -/
def execPieceEmit (b i k : Nat) (s : State) : Host.Outcome State Fault Refusal := .next (pieceEff s b i k)

/-- One output of the group released into its entries (R242), with the saturations. -/
def State.releaseOut (s : State) (b : Nat) (i : Issue) (o : Nat) : State :=
  let w := i.word
  let prec := opPrec s.img b w
  let m := 16 * b + sparseMacro w
  let (s1, sat) := (grpRows i i.eng.grp).foldl (fun (acc : State × Nat) r =>
    let k := 8 * o + (r - 8 * i.eng.grp)
    let base := if opInit w then 0 else acc.1.accRd w prec m r o
    let v := satAdd (opAcc24 w) base (SMap.get 0 i.eng.tot k)
    let c := SMap.get 0 i.eng.totC k
    let t := acc.1.accWr w prec m r o v.1
    if c = 0 then (t, acc.2 + b2n v.2)
    else
      let old := ((t.issueOf b i.id).map (fun x => SMap.get 0 x.corr (corrKey r o))).getD 0
      let q := sat48 old c
      (t.modIssue b i.id (fun x => { x with corr := SMap.set 0 x.corr (corrKey r o) q.1 }), acc.2 + b2n v.2 + b2n q.2)) (s, 0)
  (s1.addFl b ⟨sat, 0, 0, 0⟩).recFl i.slot ⟨sat, 0, 0, 0⟩

/-- How many outputs a release takes: up to 16 whose pieces have all arrived. -/
def relCount (e : Engine) (nout : Nat) : Nat :=
  ((List.range 16).takeWhile (fun k => decide (e.nextRel + k < nout) && decide (SMap.get 0 e.pend (e.nextRel + k) = 0))).length

/-- MERGE_RELEASE: outputs of the group being merged, once every piece of it has been dealt and the value check passed (R228, R242). -/
def releaseEff (s : State) (b id : Nat) : State :=
  match s.issueOf b id with
  | some i =>
    let w := i.word
    let nout := accOuts w (opPrec s.img b w)
    let n := relCount i.eng nout
    if s.compOn b && decide (i.path = 1) && !i.faulted && !i.done && decide (i.eng.nextOut = 1) && i.eng.queue.isEmpty && decide (0 < n) then
      let t := s.sparseTile b i 4
      if !opPred w && !t.isEmpty && !valOk t then (s.metaErr b 8 0 (opDesc w 4)).issueFault b id (unitBlk b) 0x16
      else
        let s1 := (List.range n).foldl (fun st k => st.releaseOut b i (i.eng.nextRel + k)) s
        let fin := decide (i.eng.nextRel + n = nout)
        (s1.modIssue b id (fun x =>
          let y := { x with rowsDone := if fin then min x.rows (8 * x.eng.grp + 8) else x.rowsDone }
          (putEng (fun e => { e with nextRel := e.nextRel + n }) y).promote nout)).chainEnd b id
    else s
  | none => s

/-- The meaning of MERGE_RELEASE. -/
def execMergeRelease (b i : Nat) (s : State) : Host.Outcome State Fault Refusal := .next (releaseEff s b i)

end Sys2Proof.Machine
end

