-- ==== Sys2Proof/Machine/Issue.lean ====
section
/-! DEFINITION. Issuing (R113 to R124, R163, R164, R232, R247): what an issue reads, stores and claims, the checks of Tables 4.4 and 5.3, the wait
reasons of Table 4.3, arbitration, and the end of an issue; the operations as commands. -/

namespace Sys2Proof.Machine

/-! ## What an issue stores (R122, R191) -/

/-- Output rows of an issue. -/
def outRows (i : Issue) : Nat := i.rows / opPoolRows i.word

/-- Lines of the tiles that a store of these positions into a bound tensor writes: directory entries and body slots (R246, R247). -/
def State.cmpLines (s : State) (b k : Nat) (d : Desc) (ps : List (List Int)) : List Nat :=
  let dd := s.bindDir b k
  (s.tileBases b k d ps).flatMap (fun p0 =>
    let q := s.tileDirPos b k d p0
    (recKeys s.img s.ownCoord b dd q 8).map lineOf
      ++ bodyLines s.img s.ownCoord b dd (s.bodySlot b k q) 0 (64 * (s.bindWord b k 3 % 65536)))

/-- Lines of elements stored into slot sl, through its tiles where it is bound. -/
def State.dataLines (s : State) (b w sl : Nat) (d : Desc) (ps : List (List Int)) : List Nat :=
  match s.binding b (opDesc w sl) with
  | some k => s.cmpLines b k d ps
  | none => dedup (ps.flatMap (elemLines s.img s.ownCoord b d))

/-- A stored row: its position, its number in the scale stream, and the elements taken in it along `OUTDIM`. -/
structure StoredRow where
  pos : List Int
  no : Nat
  es : List Nat
deriving DecidableEq, Repr

/-- Lines of the side lists and scale records of stored rows (R122). -/
def State.compLines (s : State) (b : Nat) (d : Desc) (rows : List StoredRow) : List (List Nat) :=
  let inb := rows.filter (fun r => rowHas d r.pos r.es)
  let side := fun (r : StoredRow) =>
    if d.outdim = 0 then s.sideLines b d r.pos
    else ((r.es.map (fun (e : Nat) => posAdd r.pos d.outdim e)).filter (inBounds d)).flatMap (s.sideLines b d)
  [if takesSide d then dedup (inb.flatMap side) else [], if d.streams then dedup (inb.flatMap (fun r => s.scaleLines b d r.no)) else []]

/-- Macros of an UPDATE that store moments (R138). -/
def State.momMacros (s : State) (b w : Nat) : List Nat :=
  (maskMacros (opMacros w)).filter (fun m => decide (s.getF (macBase (16 * b + m)) F.MAC_CFG_TWIN_ROLE ≠ 2))

/-- The moment rows that an UPDATE stores through slot sl, in order. -/
def State.momRows (s : State) (b : Nat) (i : Issue) (sl : Nat) (d : Desc) : List StoredRow :=
  let ms := s.momMacros b i.word
  let rows := (s.updRows b i.word sl).filter (fun q => decide (q.name / 512 ∈ ms) && q.has d (i.at sl))
  (rows.zip (List.range rows.length)).map (fun q =>
    StoredRow.mk (posAdd (i.at sl) d.rowdim q.1.row) (SMap.get 0 (s.bx b).rowsWr d.sstream + q.2) q.1.chans)

/-- The lines that an issue may store, by operand or record; the destination of an ATOMIC apart (R122). -/
def State.storeGroups (s : State) (b : Nat) (i : Issue) : List (List Nat) :=
  let w := i.word
  let k := opKind w
  let recs := fun (sl rows n : Nat) =>
    let d := s.iDesc b i sl
    s.dataLines b w sl d ((List.range rows).flatMap (fun (r : Nat) => recPos d (posAdd (i.at sl) d.rowdim r) n))
  if opHasOut w && !opChain w then
    let d := s.iDesc b i 1
    let es := s.outIdx b i
    let ps := (List.range (outRows i)).flatMap (fun (r : Nat) => es.map (fun e => tilePos d (i.at 1) r e))
    let rows := (List.range (outRows i)).map (fun (r : Nat) => StoredRow.mk (posAdd (i.at 1) d.rowdim r) (s.outRowNo b i d r) es)
    s.dataLines b w 1 d ps :: (s.compLines b d rows ++ (if opStats w then [recs 3 (outRows i) 16] else []))
  else if k = 0x07 then [recs 1 i.rows 8]
  else if k = 0x05 then
    [4, 5].flatMap (fun sl =>
      let d := { s.iDesc b i sl with smode := 1 }
      s.dataLines b w sl d (s.momPos b w d (i.at sl)) :: s.compLines b d (s.momRows b i sl d))
  else if k = 0x13 then [s.dirLines b i 4]
  else if opIsCopy w && decide (k ≠ 0x24) && decide (k ≠ 0x23) then
    [s.dataLines b w 1 (cpDesc w (s.iDesc b i 1)) ((copyPairs w (s.iDesc b i 0) (i.at 0) (i.at 1)).map Prod.snd)]
  else []

/-- Lines of an ATOMIC's destination. -/
def State.atomLines (s : State) (b : Nat) (i : Issue) : List Nat :=
  if opKind i.word = 0x23 then
    let d := s.iDesc b i 1
    dedup ((copyPairs i.word (s.iDesc b i 0) (i.at 0) (i.at 1)).flatMap (fun e => elemLines s.img s.ownCoord b d e.2))
  else []

/-- Every line that an issue may store by its descriptors. -/
def State.storeLines (s : State) (b : Nat) (i : Issue) : List Nat := (s.storeGroups b i).flatten

/-- Every line that an issue writes: SPACK also the body at its directory entry (R252). -/
def State.writeLines (s : State) (b : Nat) (i : Issue) : List Nat :=
  let e := s.sparseEnt b i 4
  s.storeLines b i ++ (if opKind i.word = 0x13 then bodyLines s.img s.ownCoord b (s.iDesc b i 4) (entOff e) 0 (64 * entLen e) else [])

/-- The lines that check 5 takes an issue to read: its operands and records (R122). -/
def State.checkLines (s : State) (b : Nat) (i : Issue) : List Nat :=
  let j := { i with got := [], staged := [] }
  s.inLines b j false ++ (if opIsSparse i.word then s.dirLines b j 4 else if opKind i.word = 0x13 then s.dirLines b j 4 ++ s.dirLines b j 5 else [])

/-- An issue as it would stand with the lines it wants on this device staged, in n rounds: directory entries name bodies. -/
def State.foresee (s : State) (b : Nat) : Nat → Issue → Issue
  | 0, i => i
  | n + 1, i =>
    let l := (s.wants b i false).filter (fun k => !decide (k ∈ i.got) && (isSpd k || isHbm k))
    if l.isEmpty then i else s.foresee b n { i with got := i.got ++ l, staged := s.peekLines b i.staged l }

/-- Every line that an issue reads: those it wants once what it wants is staged; with PRED any value line of its tile (R119). -/
def State.readLines (s : State) (b : Nat) (i : Issue) : List Nat :=
  let j := s.foresee b 4 i
  s.wants b j false ++ (if opPred i.word then s.tileLines b j 4 true else [])

/-- The lines of the issuing block's own scratchpad, as offsets. -/
def localOf (b : Nat) (l : List Nat) : List Nat := (l.filter (ownLine b)).map spdOff

/-! ## Ranges (R119, R120) -/

/-- The smallest range that holds these lines: R119 gives an entry at most four ranges and does not say how scattered bytes are put into them, so one range
takes all local reads and one all local writes, gaps included (log entry 103). -/
def hullOf (l : List Nat) : Option (Nat × Nat) :=
  match l with
  | [] => none
  | x :: r => some (r.foldl min x, r.foldl max x + 64)

/-- Is a kind a tile that uses accumulator entries? -/
def opUsesAcc (w : Nat) : Bool := decide (opKind w ∈ [0x01, 0x02, 0x10, 0x11])

/-- The rows of the masked macros that an issue names, with whether it writes them. -/
def State.rowClaims (s : State) (b : Nat) (i : Issue) : List Claim :=
  let w := i.word
  let k := opKind w
  let m := opMacros w
  if k = 0x01 ∨ k = 0x02 then [⟨2, m, 0, 512, false⟩]
  else if k = 0x10 ∨ k = 0x11 then (if i.path = 2 then [⟨2, m, 0, 512, true⟩] else [])
  else if k = 0x05 ∨ k = 0x12 then [⟨2, m, 0, 512, true⟩]
  else if k = 0x13 then [⟨2, m, 0, 512, false⟩]
  else if k = 0x03 ∨ k = 0x04 then
    let r0 := s.resRow b i 0
    if r0 + i.rows ≤ 512 then [⟨2, m, r0, r0 + i.rows, true⟩] else [⟨2, m, r0, 512, true⟩, ⟨2, m, 0, r0 + i.rows - 512, true⟩]
  else []

/-- The ranges of an issue. -/
def State.claimsOf (s : State) (b : Nat) (i : Issue) : List Claim :=
  let w := i.word
  let rd := match hullOf (localOf b (s.readLines b i)) with
    | some h => [Claim.mk 0 0 h.1 h.2 false]
    | none => []
  let wr := match hullOf (localOf b (s.writeLines b i)) with
    | some h => [Claim.mk 0 0 h.1 h.2 true]
    | none => []
  let t := accTile w (opPrec s.img b w)
  let ac := if opUsesAcc w then [Claim.mk 1 (opMacros w) (opTileIdx w * t) ((opTileIdx w + 1) * t) true] else []
  rd ++ wr ++ ac ++ s.rowClaims b i

/-- Two ranges overlap in one space and one of them is written. -/
def Claim.hits (x y : Claim) : Bool :=
  decide (x.space = y.space) && (x.wr || y.wr) && decide (x.lo < y.hi) && decide (y.lo < x.hi) && (decide (x.space = 0) || decide (x.mask &&& y.mask ≠ 0))

/-- The wait reasons that older work gives these ranges (R113): 4 for a tile, 8 for a restore or a fill pass, else 2. A row write and a scrub step
run within one command, so that between commands none has started and not ended (log entry 73). -/
def State.hazards (s : State) (b : Nat) (cs : List Claim) : List Nat :=
  let hit := fun (m lo hi : Nat) (wr : Bool) => cs.any (fun d => d.hits ⟨2, 2 ^ (m % 16), lo, hi, wr⟩)
  let old := (s.bx b).issues.flatMap (fun i => i.claims.flatMap (fun c =>
    if cs.any (fun d => d.hits c) then [if c.space = 1 then 4 else 2] else []))
  let steps := (blkMacros b).flatMap (fun m =>
    let x := s.mx m
    let rb := s.getF (macBase m) F.MAC_RB_CTL_ROW
    let sr := s.getF (macBase m) F.MAC_SCRUB_POS_NEXT_ROW
    (if x.rb.isSome && hit m rb (rb + 1) false then [2] else [])
      ++ (if decide (0 < x.scrubReq) && hit m sr (sr + 1) true then [2] else [])
      ++ (if x.fill.any (fun e => hit m e.2 (e.2 + 1) true) then [8] else [])
      ++ (match x.shop with
        | some ⟨true, _, _⟩ => if hit m 0 512 true then [8] else []
        | some ⟨false, r :: _, _⟩ => if hit m r (r + 1) false then [2] else []
        | _ => []))
  let st := if s.bistClaimed b && cs.any (fun d => decide (d.space ≠ 0) || s.linesTested b d.lo d.hi) then [2] else []
  let fz := if s.late.any (fun e => decide (e.1 / 16 = b) && hit e.1 0 512 false) then [2] else []
  old ++ steps ++ st ++ fz

/-- Correction entries reserved. -/
def State.resvUsed (s : State) (b : Nat) : Nat := (((s.bx b).issues ++ (s.bx b).chains).map Issue.resv).sum

/-! ## Slots of circular regions (R158, R159) -/

/-- The next pointer of a count of slots kept by the block. -/
def ptrOf (m : SMap Nat) (i : Nat) : Nat := SMap.get 0 m i

/-- The outbound entry that a store to place k of another block feeds: of two valid entries that name the same place the first (log entry 104). -/
def State.outEntry (s : State) (b k : Nat) : Option Nat :=
  if isSpd k then
    (match s.circAt (spdBlk k) (spdOff k) with
    | some i => (List.range 16).find? (fun (j : Nat) => outFeeds s.img b j (spdBlk k) i none)
    | none => none)
  else if isHbm k then none
  else
    let r := devKey k
    if isSpd r then outTo s.img b (spdBlk r) (devCoord k) else none

/-- The region that the header of a message names in ADDR [23:20] (Table 11.2): that of the sender's outbound entry for a scratchpad write; the one atomic
window of a block is number 0 (log entry 113). -/
def State.wireRegion (s : State) (m : Msg) : Nat :=
  match m.body with
  | .write a _ _ _ =>
    if m.src < 256 ∧ (m.dst < 256 ∨ (4096 ≤ m.dst ∧ m.blk < 256)) then
      ((s.outEntry m.src (if m.dst < 256 then keySpd m.dst a else keyDev (m.dst - 4096) (keySpd m.blk a))).map (fun j =>
        bits (outWord s.img m.src j 0) 8 4)).getD 0
    else 0
  | _ => 0

/-- The flits of a message in flight (R313), as (control field, data field). -/
def State.wire (s : State) (m : Msg) : List (Nat × List Byte) := m.flits (s.wireRegion m)

/-- The slots that an issue takes: of regions it reads, of the block's own regions it fills, and credits of outbound entries. -/
def State.usesOf (s : State) (b : Nat) (i : Issue) : List SlotUse :=
  let rd := dedup ((localOf b (s.readLines b i)).filterMap (s.circAt b))
  let st := s.writeLines b i
  let wr := dedup ((localOf b st).filterMap (s.circAt b))
  let out := dedup ((st.filter (fun k => !(isSpd k && decide (spdBlk k = b)))).filterMap (s.outEntry b))
  rd.map (fun r => SlotUse.mk r (ptrOf (s.bx b).circRead r) false false)
    ++ (wr.filter (fun r => !s.circRemote b r)).map (fun r => SlotUse.mk r (ptrOf (s.bx b).circBegun r) true false)
    ++ out.map (fun j => SlotUse.mk j (ptrOf (s.bx b).outNext j) true true)

/-- The wait reasons of the slots: 7 for one not filled, 6 for one without a credit. -/
def State.slotWaits (s : State) (b : Nat) (us : List SlotUse) : List Nat :=
  us.flatMap (fun u =>
    if u.outbound then (if s.getF (blkBase b) (F.SPD_OUT_CRED_CREDITS.idx (4 * u.region)) = 0 then [6] else [])
    else
      let size := s.circSize b u.region
      if u.wr then (if size ≤ ptrDiff size u.slotNo (s.circHead b u.region) then [6] else [])
      else if ptrDiff size (s.circTail b u.region) u.slotNo = 0 then [7] else [])

/-- The slots and credits of an issue are taken. -/
def State.takeSlots (s : State) (b : Nat) (us : List SlotUse) : State :=
  us.foldl (fun st u =>
    let x := st.bx b
    let size := st.circSize b u.region
    if u.outbound then
      let f := F.SPD_OUT_CRED_CREDITS.idx (4 * u.region)
      let t := st.setBx b { x with outNext := SMap.set 0 x.outNext u.region (u.slotNo + 1) }
      t.setF (blkBase b) f (t.getF (blkBase b) f - 1)
    else if u.wr then st.setBx b { x with circBegun := SMap.set 0 x.circBegun u.region ((u.slotNo + 1) % (2 * size)) }
    else st.setBx b { x with circRead := SMap.set 0 x.circRead u.region ((u.slotNo + 1) % (2 * size)) }) s

/-! ## Checks (Tables 4.4 and 5.3, R247) -/

/-- The macros of the mask of block b. -/
def opFlat (b w : Nat) : List Nat := (maskMacros (opMacros w)).map (fun m => 16 * b + m)

/-- Check 2: every macro enabled with the operation's precision. -/
def State.checkCfg (s : State) (b w : Nat) : Bool :=
  opIsCopy w || decide (opKind w = 0x07) ||
    (opFlat b w).all (fun m => s.isF (macBase m) F.MAC_CFG_EN && decide (s.getF (macBase m) F.MAC_CFG_PREC = opPrec s.img b w))

/-- Every aligned group of G macros lies inside the mask or outside it (R118). -/
def groupsOk (w : Nat) : Bool :=
  let g := opG w
  (List.range (16 / g)).all (fun (q : Nat) =>
    let n := ((List.range g).filter (fun (j : Nat) => (opMacros w).testBit (g * q + j))).length
    decide (n = 0) || decide (n = g))

/-- Check 3: pool rows, mask, groups. -/
def State.checkTile (s : State) (b w : Nat) : Bool :=
  let k := opKind w
  opIsCopy w || decide (k = 0x07) ||
    ((decide (opPool w = 0) || decide (k = 0x12 ∨ k = 0x13) || decide (opRows w % opPoolRows w = 0))
      && decide (opMacros w ≠ 0) && groupsOk w && decide (opG w ≤ 16)
      && (decide (opKgroup w = 0) || !(decide (k = 0x02) || decide (2 ≤ opPrec s.img b w))))

/-- Check 4: the accumulator tile fits. -/
def State.checkAcc (s : State) (b w : Nat) : Bool :=
  !opUsesAcc w || decide ((opTileIdx w + 1) * accTile w (opPrec s.img b w) ≤ 16384)

/-- A line of the scratchpad lies in a claim window of context c (R142). -/
def State.inWindow (s : State) (b c o : Nat) : Bool :=
  (List.range 2).any (fun (w : Nat) =>
    let f := fun (x : Fld) => s.getF (blkBase b) (x.idx (8 * c + 4 * w))
    decide (f F.BLK_CTX_WIN_VALID = 1) && decide (f F.BLK_CTX_WIN_BASE ≤ o / 64) && decide (o / 64 ≤ f F.BLK_CTX_WIN_LIMIT))

/-- Correction entries that an issue reserves (R127). -/
def State.resvOf (s : State) (b : Nat) (i : Issue) : Nat :=
  let f := (s.iDesc b i 0).fmt
  if opUsesAcc i.word && decide (f = 4 ∨ f = 5) then i.rows * (opOuts i.word (opPrec s.img b i.word)).length else 0

/-- Check 5: claimed windows and the correction reservation. -/
def State.checkBuf (s : State) (b : Nat) (i : Issue) : Bool :=
  (localOf b (s.checkLines b i ++ s.storeLines b i)).all (fun o => decide (o < 0x60000) && s.inWindow b i.ctx o) && decide (s.resvOf b i ≤ 32768)

/-- R247 for a store into slot sl with these first position and counts. -/
def State.cmpOk (s : State) (b : Nat) (i : Issue) (sl rows chans : Nat) : Bool :=
  match s.binding b (opDesc i.word sl) with
  | some k =>
    let d := s.iDesc b i sl
    let p := i.at sl
    decide (d.fmt = s.bindEfmt b k) && decide (d.outdim = 0) && decide (d.rowdim = 1)
      && decide (p.getD 1 0 % (s.bindTr b k : Nat) = 0) && decide (rows % s.bindTr b k = 0)
      && decide (p.getD 0 0 % (s.bindTc b k : Nat) = 0) && decide (chans % s.bindTc b k = 0)
  | none => true

/-- R247 for every bound tensor that an issue stores into. A compressed tensor has no place that an ATOMIC could add to, and a bound destination of one
fails the check (log entry 105). -/
def State.checkCmp (s : State) (b : Nat) (i : Issue) : Bool :=
  let w := i.word
  let recLen := fun (sl n : Nat) => ceilDiv (8 * n) (fmtBits (s.iDesc b i sl).fmt)
  if opHasOut w && !opChain w then
    s.cmpOk b i 1 (outRows i) (opOuts w (opPrec s.img b w)).length && (!opStats w || s.cmpOk b i 3 (outRows i) (recLen 3 16))
  else if opKind w = 0x07 then s.cmpOk b i 1 i.rows (recLen 1 8)
  else if opKind w = 0x23 then (s.binding b (opDesc w 1)).isNone
  else if opKind w = 0x21 then s.cmpOk b i 1 (cpSide w) (cpSide w)
  else if opKind w = 0x20 ∨ opKind w = 0x22 then
    let n := cpCount (s.iDesc b i 0)
    s.cmpOk b i 1 (if cpDim w = 1 then n else 1) (if cpDim w = 0 then n else 1)
  else if opKind w = 0x05 then
    let rows := 512 * opG w
    let chans := (opFlat b w).length / opG w * precN (opPrec s.img b w)
    s.cmpOk b i 4 rows chans && s.cmpOk b i 5 rows chans
  else true

/-- The first and last byte of an operand's elements in each scratchpad, of this device or another, as (scratchpad, lowest, highest). -/
def spansOf (keys : List Nat) : List (Nat × Nat × Nat) :=
  let l := keys.filter (fun k => isSpd (devKey k))
  (dedup (l.map spdBlk)).map (fun t =>
    let os := (l.filter (fun k => decide (spdBlk k = t))).map spdOff
    (t, os.foldl min (os.headD 0), os.foldl max 0))

/-- The elements of a whole copy, over every iteration of its loop, as (source position, destination position): R163 judges the operands' spans and
R164 the copy, not one issue of it. -/
def State.copyAll (s : State) (b : Nat) (i : Issue) : List (List Int × List Int) :=
  let w := i.word
  let l := loopRec s.img b (opLoop w)
  let rs := s.rsOf i
  (List.range (loopTotal l rs)).flatMap (fun (q : Nat) => copyPairs w (s.iDesc b i 0) (loopPos l rs q 0) (loopPos l rs q 1))

/-- Places of the bytes that elements of a copy's slot address: their own; of a bound tensor the first and last of each line of the directory entries and
bodies that it is read from, or written to (R246, R247). -/
def State.copyKeys (s : State) (b : Nat) (i : Issue) (sl : Nat) (ps : List (List Int)) : List Nat :=
  let d := cpDesc i.word (s.iDesc b i sl)
  match s.binding b (opDesc i.word sl) with
  | none => ps.flatMap (fun p => if inBounds d p then (elemKeys s.img s.ownCoord b d p).getD [] else [])
  | some k =>
    let ls := if sl = 0 then (ps.filter (inBounds d)).flatMap (fun p => (s.peekElem b (opDesc i.word 0) d p).2) else s.cmpLines b k d ps
    (dedup ls).flatMap (fun l => [l, l + 63])

/-- An identity copy onto itself (R164): the same bytes in the same order. -/
def State.identityCopy (s : State) (b : Nat) (i : Issue) : Bool :=
  let w := i.word
  let k := opKind w
  let perm := decide (k = 0x20) || (decide (k = 0x22) && (List.range 6).all (fun (q : Nat) => decide (cpPerm w q = q)))
  let sd := cpDesc w (s.iDesc b i 0)
  let dd := cpDesc w (s.iDesc b i 1)
  perm && (s.binding b (opDesc w 0)).isNone && (s.binding b (opDesc w 1)).isNone && decide (fmtBits sd.fmt = fmtBits dd.fmt)
    && (s.copyAll b i).all (fun e =>
      (decide (inBounds sd e.1 = false) && decide (inBounds dd e.2 = false))
        || (inBounds sd e.1 && inBounds dd e.2 && decide (elemKeys s.img s.ownCoord b sd e.1 = elemKeys s.img s.ownCoord b dd e.2)
          && decide ((elemOff sd e.1).2 = (elemOff dd e.2).2)))

/-- First check of Table 5.3: the spans of source and destination do not meet in one scratchpad. -/
def State.checkOverlap (s : State) (b : Nat) (i : Issue) : Bool :=
  if opKind i.word ∈ [0x20, 0x21, 0x22] ∧ s.identityCopy b i = false then
    let ps := s.copyAll b i
    let src := spansOf (s.copyKeys b i 0 (ps.map Prod.fst))
    let dst := spansOf (s.copyKeys b i 1 (ps.map Prod.snd))
    !src.any (fun x => dst.any (fun y => decide (x.1 = y.1) && decide (x.2.1 ≤ y.2.2) && decide (y.2.1 ≤ x.2.2)))
  else true

/-- Second check of Table 5.3: a store that meets a valid region lies wholly in it and the block produces it. -/
def State.checkClash (s : State) (b : Nat) (i : Issue) : Bool :=
  (s.storeGroups b i).all (fun g =>
    let ls := localOf b g
    match ls.findSome? (s.circAt b) with
    | some r => !s.circRemote b r && ls.all (fun o => decide (s.circAt b o = some r))
    | none => true)

/-- Check 6: no poisoned row. -/
def State.checkPoison (s : State) (b : Nat) (i : Issue) : Bool :=
  opIsCopy i.word || decide (opKind i.word ∈ [0x07, 0x12]) || decide (i.path = 1) || (opFlat b i.word).all (fun m => !s.anyPoison m)

/-- Formats that an operation's weight or mask tile may have (R251). -/
def State.tileFmts (s : State) (w : Nat) : List Nat := if opKind w ∈ [0x11, 0x13] ∨ planTraining s.img = true then [2] else [0, 1, 2]

/-- The slot whose tile an operation reads: D4, or the mask of SPACK. -/
def tileSlot (w : Nat) : Nat := if opKind w = 0x13 then 5 else 4

/-- In a training plan the tile at SPACK's destination, where one is present, must be BLK-2x (R251; log entry 88). -/
def State.destBad (s : State) (b : Nat) (i : Issue) : Bool :=
  let e := s.sparseEnt b i 4
  decide (opKind i.word = 0x13) && planTraining s.img && decide (entLen e ≠ 0)
    && decide (tileFmt (bodyRead s.img s.ownCoord b (s.iDesc b i 4) i.staged (entOff e) 0 64) ≠ 2)

/-- The cause that an issue's staged tile fails with, and the slot of the tile (R227, R231); none of an absent tile. -/
def State.metaCause (s : State) (b : Nat) (i : Issue) : Option (Nat × Nat) :=
  let prec := opPrec s.img b i.word
  let sl := tileSlot i.word
  let t := s.sparseTile b i sl
  let c := if t.isEmpty then none else tileCause t (entLen (s.sparseEnt b i sl)) (precN prec) 512 prec (s.tileFmts i.word)
  match c with
  | some n => some (n, sl)
  | none => if s.destBad b i then some (9, 4) else none

/-- choose_path of R232: 1 the sparse engine, 2 the dense path. -/
def State.choosePath (s : State) (b : Nat) (i : Issue) : Nat :=
  let w := i.word
  let t := s.sparseTile b i 4
  let base := blkBase b
  let be := if tileFmt t = 0 then s.getF base F.SPE_BE0_BSR8 else if tileFmt t = 1 then s.getF base F.SPE_BE0_CSR64 else s.getF base F.SPE_BE1_BLK2X
  if opPred w then 1 else if opPath w = 1 then 2 else if opPath w = 2 then 1
  else if t.isEmpty then 1 else if be ≤ tileDensity t then 2 else 1

/-! ## The issue that a context would make -/

/-- Values packed 32 bits each by slot. -/
def packSlots (f : Nat → Nat) : Nat := (List.range 6).foldl (fun n sl => n + f sl % 2 ^ 32 * 2 ^ (32 * sl)) 0

/-- The issue of context c's next operation, before its ranges and slots are known; `pr` is what its probe has staged. -/
def State.draftIssue (s : State) (b c : Nat) (rs : ResultSet) (pr : Option Issue) : Issue :=
  let x := s.ctx b c
  let w := ctxOp s.img b c x.opn
  let l := loopRec s.img b (opLoop w)
  let bx := s.bx b
  let desc := fun sl => descAt s.img b (opDesc w sl)
  { id := bx.nextId, ctx := c, word := w, opIndex := x.opn, j := rs.j, slot := rs.slot,
    pos := (List.range 6).map (fun (sl : Nat) => loopPos l rs x.iter sl), claims := [], uses := [],
    need := [], got := (pr.map Issue.got).getD [], staged := (pr.map Issue.staged).getD [],
    rows := opRows w, rowsDone := 0, epiDone := 0, corr := [], corrPend := [], corrRow := 0, resv := 0, acks := 0, faulted := false,
    clip := (List.range 6).map (fun (sl : Nat) => (s.clipOf (desc sl).tid).toNat),
    rdBase := packSlots (fun sl => SMap.get 0 bx.rowsRd (desc sl).sstream),
    wrBase := packSlots (fun sl => SMap.get 0 bx.rowsWr (desc sl).sstream),
    cmp := [], path := 0, eng := Engine.init 0, nxt := Engine.init 1, done := false }

/-- What a context's next operation meets: nothing to do, a wait reason, a fault class with the cause and slot of a bad tile, an issue, a probe that
stages a sparse tile's header, or an operation that retires at once. -/
inductive Verdict where
  | idle
  | wait (r : Nat)
  | fault (cls cause slot : Nat)
  | go (i : Issue)
  | probe (i : Issue)
  | retire
deriving DecidableEq, Repr

/-- The lowest of some wait reasons. -/
def lowest (l : List Nat) : Option Nat := match l with
  | [] => none
  | x :: r => some (r.foldl min x)

/-- An issue has a group that is not predicted yet (R265). -/
def Issue.predicting (i : Issue) : Bool :=
  opPred i.word && (!i.eng.predOk || (decide (opKind i.word = 0x10) && !i.nxt.predOk && decide (8 * i.nxt.grp < i.rows)))

/-- The first row's inputs of an issue have arrived, and no group of it waits for its prediction (R265, R594). -/
def State.firstStaged (s : State) (b : Nat) (i : Issue) : Bool :=
  i.done || i.faulted
    || (!i.predicting && (decide (0 < i.rowsDone)
      || (if opScaled i.word || decide (opKind i.word ∈ [0x03, 0x04, 0x07]) then s.rowStaged b i 0 else s.staged b i)))

/-- An earlier issue of context c that stores to HBM has not retired, and this one leaves for another block or device (R323): its stores, the body of a
compressed tile among them (R252), or its atomic requests. -/
def State.ordered (s : State) (b : Nat) (i : Issue) : Bool :=
  let away := fun k => !isHbm k && !(isSpd k && decide (spdBlk k = b))
  let out := fun x => s.storeLines b x ++ s.writeLines b x ++ s.atomLines b x
  (out i).any away && (s.ctxIssues b i.ctx).any (fun x => (out x).any isHbm)

/-- The governor holds block b's contexts: the region's budget is reached, or the ramp has not admitted the idle block (R26, R27, R113). -/
def State.governed (s : State) (b : Nat) : Bool := s.regionHolds b || s.rampWaits b

/-- Reasons for which work of context c already issued holds the context: 7 for inputs, a prediction or an HBM credit (R265, R320, R594), and 9. -/
def State.workWaits (s : State) (b c : Nat) : List Nat :=
  (if (s.ctxIssues b c).any (fun x => !s.firstStaged b x) || s.creditWaits b c then [7] else []) ++ (if s.governed b then [9] else [])

/-- Waits of an issue that passed its checks (check 8, R159, R323, R594). -/
def State.waitsOf (s : State) (b : Nat) (i : Issue) : List Nat :=
  s.hazards b i.claims
    ++ (if 64 ≤ s.sbUsed b then [3] else [])
    ++ (if 32768 < s.resvUsed b + i.resv then [5] else [])
    ++ s.slotWaits b i.uses
    ++ (if s.ordered b i then [7] else [])
    ++ s.workWaits b i.ctx

/-- The checks of an issue from check 5 on, and its waits. -/
def State.judgeIssue (s : State) (b : Nat) (i : Issue) : Verdict :=
  if !s.checkBuf b i then .fault 0x13 0 0
  else if !s.checkCmp b i then .fault 0x41 0 0
  else if !s.checkOverlap b i then .fault 0x31 0 0
  else if !s.checkClash b i then .fault 0x32 0 0
  else if opIsCopy i.word && s.identityCopy b i then (if s.governed b then .wait 9 else .retire)
  else if !s.checkPoison b i then .fault 0x15 0 0
  else
    match (if opIsSparse i.word || decide (opKind i.word = 0x13) then s.metaCause b i else none) with
    | some (c, sl) => .fault 0x16 c sl
    | none =>
      let full := { i with claims := s.claimsOf b i, uses := s.usesOf b i, resv := s.resvOf b i }
      match lowest (s.waitsOf b full) with
      | some r => .wait r
      | none => .go full

/-- The probe of context c, with true where all it wants has arrived. -/
def State.probeOf (s : State) (b c : Nat) : Option (Issue × Bool) :=
  ((s.bx b).probes.find? (fun p => decide (p.ctx = c))).map (fun p => (p, (s.wants b p true).all (fun l => decide (l ∈ p.got))))

/-- What context c's next operation meets, its checks in the order of Table 4.4. -/
def State.verdict (s : State) (b c : Nat) : Verdict :=
  let x := s.ctx b c
  if !(x.running && decide (x.st = .ready ∨ x.st = .wait) && s.compOn b && s.ctxEnabled b c) || decide (b / 16 ∈ s.power.restoring) then .idle
  else
    match s.setOf (x.taken - 1) with
    | none => .idle
    | some rs =>
      let w := ctxOp s.img b c x.opn
      let k := opKind w
      if x.iter = 0 ∧ shapeOk s.img b w rs = false then .fault 0x17 0 0
      else if k = 0x24 then
        (if (s.getF (blkBase b) (F.SPD_ATOM_CNT_COUNT.idx (4 * cpCnt w)) + 2 ^ 32 - cpTarget w) % 2 ^ 32 < 2 ^ 31 then (if s.governed b then .wait 9 else .retire)
          else .wait 7)
      else if !s.checkCfg b w then .fault 0x14 0 0
      else if !s.checkTile b w then .fault 0x11 0 0
      else if !s.checkAcc b w then .fault 0x12 0 0
      else if opIsSparse w || decide (k = 0x13) then
        match s.probeOf b c with
        | some (p, true) =>
          let i := s.draftIssue b c rs (some p)
          s.judgeIssue b (if k = 0x10 ∨ k = 0x11 then { i with path := s.choosePath b i } else i)
        | some (_, false) => .wait 7
        | none =>
          let i := s.draftIssue b c rs none
          if s.checkBuf b i then .probe i else .fault 0x13 0 0
      else s.judgeIssue b (s.draftIssue b c rs none)

/-! ## Arbitration (R114) -/

/-- The issue point that context c's next operation targets. -/
def State.pointOf (s : State) (b c : Nat) : Nat :=
  match s.verdict b c with
  | .go i => if i.path = 2 then 0 else opPoint i.word
  | _ => opPoint (ctxOp s.img b c (s.ctx b c).opn)

/-- Context c's next operation can be taken: it issues, or faults. -/
def State.canIssue (s : State) (b c : Nat) : Bool :=
  match s.verdict b c with
  | .go _ => true
  | .fault _ _ _ => true
  | _ => false

/-- PRIO of context c. -/
def State.ctxPrio (s : State) (b c : Nat) : Nat := s.getF (blkBase b) (F.BLK_CTX_CFG_PRIO.idx (4 * c))

/-- Contexts in round-robin order after context `last`. -/
def ctxRound (last : Nat) : List Nat := (List.range 32).map (fun (k : Nat) => (last + 1 + k) % 32)

/-- The context that the sequencer selects at issue point p. -/
def State.chosen (s : State) (b p : Nat) : Option Nat :=
  ((ctxRound ((s.bx b).last.getD p 31)).filter (fun c => s.canIssue b c && decide (s.pointOf b c = p))).foldl (fun best c =>
    match best with
    | some q => if s.ctxPrio b q < s.ctxPrio b c then some c else some q
    | none => some c) none

/-! ## Issuing -/

/-- The counters of scale streams advanced past the rows that an issue reads and stores (R96, R97). An UPDATE counts its stored rows as it stores
them. -/
def State.countRows (s : State) (b : Nat) (i : Issue) : State :=
  let s1 := (s.scaleRows b i).foldl (fun st e =>
    let key := (s.iDesc b i e.1).sstream
    st.setBx b { st.bx b with rowsRd := SMap.set 0 (st.bx b).rowsRd key (SMap.get 0 (st.bx b).rowsRd key + e.2.length) }) s
  let d := s.iDesc b i 1
  if opHasOut i.word && !opChain i.word && d.streams then
    let n := ((List.range (outRows i)).filter (fun (r : Nat) => rowHas d (posAdd (i.at 1) d.rowdim r) (s.outIdx b i))).length
    s1.setBx b { s1.bx b with rowsWr := SMap.set 0 (s1.bx b).rowsWr d.sstream (SMap.get 0 (s1.bx b).rowsWr d.sstream + n) }
  else s1

/-- Context c moves past the operation it has just issued. -/
def State.ctxPast (s : State) (b c : Nat) : State :=
  let x := s.ctx b c
  match s.setOf (x.taken - 1) with
  | some rs => s.setCtx b c { ctxAdvance s.img b c rs x with st := .ready, reason := 0, stalled := [] }
  | none => s

/-- Correction entries of a tile that an operation with INIT starts again are given up. INIT is a field of the tile operations; SEXPAND and SPACK
ignore its bit (R229). -/
def BlockX.initTile (x : BlockX) (i : Issue) : BlockX :=
  if opUsesAcc i.word && opInit i.word then { x with chains := x.chains.filter (fun y => !sameTile i y) } else x

/-- Statistics registers of an issue: scoreboard and correction peaks, the last context, the path taken. -/
def State.issueStats (s : State) (b : Nat) (i : Issue) : State :=
  let base := blkBase b
  let s1 := s.sbPeak b
  let s2 := s1.setF base F.BLK_CORR_STAT_PEAK_KENT (max (s1.getF base F.BLK_CORR_STAT_PEAK_KENT) (ceilDiv (s1.resvUsed b) 1024))
  let s3 := if i.path = 2 ∨ opPoint i.word = 0 then s2.setF base F.BLK_SEQ_STAT_LAST_CTX i.ctx else s2
  if i.path = 1 then s3.addF base F.SPE_TILES_SPARSE_COUNT 1 else if i.path = 2 then s3.addF base F.SPE_TILES_DENSE_COUNT 1 else s3

/-- An issue takes its scoreboard entry, slots and reservation, at issue point p. -/
def State.makeIssue (s : State) (b p : Nat) (i : Issue) : State :=
  let x := (s.bx b).initTile i
  let s1 := s.setBx b { x with
    issues := x.issues ++ [i], nextId := x.nextId + 1, last := setAt x.last p i.ctx,
    probes := x.probes.filter (fun q => decide (q.ctx ≠ i.ctx)) }
  (((s1.takeSlots b i.uses).countRows b i).issueStats b i).ctxPast b i.ctx

/-- A fault at issue (R123, R124): nothing issues. A failed shape also ends the result set (R215). -/
def State.issueRefused (s : State) (b c cls cause sl : Nat) : State :=
  let x := s.ctx b c
  let w := ctxOp s.img b c x.opn
  let base := blkBase b
  let s0 := s.setBx b { s.bx b with probes := (s.bx b).probes.filter (fun q => decide (q.ctx ≠ c)) }
  let s1 := if cls = 0x41 then s0.flagF base F.SPE_STAT_CMP_ERR
    else if cls = 0x16 then s0.metaErr b cause 0 (opDesc w sl) else s0
  let s2 := if cls = 0x17 then
      (match s1.setOf (x.taken - 1) with
      | some rs => (s1.modRec rs.slot (fun e => if e.status = 1 then { e with status := 0x0412 } else e)).serveFetches
      | none => s1)
    else s1
  (s2.raiseBlock b (unitBlk b) cls c x.opn).faultCtx b c cls

/-- A context waits with reason r. -/
def State.ctxWait (s : State) (b c r : Nat) : State :=
  let x := s.ctx b c
  s.setCtx b c { x with st := .wait, reason := r }

/-- STALLS of the outbound entries without a credit that an issue waits for: it counts once at each of them (Table 5.5). -/
def State.countStalls (s : State) (b c : Nat) : State :=
  match s.setOf ((s.ctx b c).taken - 1) with
  | some rs =>
    (s.usesOf b (s.draftIssue b c rs ((s.probeOf b c).map Prod.fst))).foldl (fun st u =>
      let f := u.region
      let x := st.ctx b c
      if u.outbound && !decide (f ∈ x.stalled) && decide (st.getF (blkBase b) (F.SPD_OUT_CRED_CREDITS.idx (4 * f)) = 0) then
        (st.addF (blkBase b) (F.SPD_OUT_CRED_STALLS.idx (4 * f)) 1).setCtx b c { x with stalled := x.stalled ++ [f] }
      else st) s
  | none => s

/-! ## Work that runs once its inputs are staged -/

/-- An operation that runs as a whole once staged does so. -/
def State.runStaged (s : State) (b : Nat) (i : Issue) : State :=
  let k := opKind i.word
  if k = 0x03 ∨ k = 0x04 then resEff s b i
  else if k = 0x05 then updateEff s b i
  else if k = 0x06 then passEff s b i
  else if k = 0x07 then rowfinEff s b i
  else if k = 0x12 then (if opPred i.word && !i.eng.predOk then s else sexpandEff s b i)
  else if k = 0x13 then spackEff s b i
  else if k = 0x20 ∨ k = 0x21 ∨ k = 0x22 then copyEff s b i
  else if k = 0x23 then atomicEff s b i
  else s

/-- The row ports are taken by work that goes ahead of row writes (R117). -/
def State.portsTaken (s : State) (b : Nat) : Bool := s.portsDue b || s.corrDue b

/-- Operations that read or write macro rows as they run. -/
def opOnRows (w : Nat) : Bool := decide (opKind w ∈ [0x03, 0x04, 0x05, 0x12, 0x13])

/-- A dense-path tile whose body has arrived. -/
def State.bodyStaged (s : State) (b : Nat) (i : Issue) : Bool :=
  decide (i.path = 2) && !i.eng.dealt && (s.tileLines b i 4 true).all (fun l => decide (l ∈ i.got))

/-- One issue looked at after lines arrived. Work on macro rows waits while the row ports are taken (R117). -/
def State.settle1 (s : State) (b id : Nat) : State :=
  let s1 := s.checkArrived b id
  match s1.issueOf b id with
  | some i =>
    if i.faulted || i.done then s1
    else if s1.bodyStaged b i then (if s1.portsTaken b then s1 else (denseExpand s1 b i).stageIssue b id 8)
    else if s1.staged b i then (if opOnRows i.word && s1.portsTaken b then s1 else s1.runStaged b i)
    else s1
  | none => s1

/-- Block b's staging goes on, and what is staged runs. -/
def State.settleBlk (s : State) (b : Nat) : State :=
  let s1 := s.stageAll b
  ((s1.bx b).issues.map Issue.id).foldl (fun st id => st.settle1 b id) s1

/-! ## Steps on the row ports (R117): what they held back goes on -/

/-- The meaning of SCRUB_STEP. -/
def execScrubStep (b : Nat) (s : State) : Host.Outcome State Fault Refusal :=
  .next (if s.compOn b && s.scrubNextUp b then (scrubEff s b).settleBlk b else s)
/-- The meaning of FILL_STEP. -/
def execFillStep (b : Nat) (s : State) : Host.Outcome State Fault Refusal :=
  .next (if s.compOn b && s.fillNextUp b then (fillEff s b).settleBlk b else s)
/-- The meaning of READBACK. -/
def execReadback (b : Nat) (s : State) : Host.Outcome State Fault Refusal :=
  .next (if s.compOn b && (s.rbNext b).isSome then (readbackEff s b).settleBlk b else s)
/-- The meaning of CORRECTION_READ. -/
def execCorrectionRead (b i : Nat) (s : State) : Host.Outcome State Fault Refusal := .next (((corrRead s b i).chainEnd b i).settleBlk b)

/-- MAC_SYNC_ROW_COPIED (R70): the next dirty row of macro m reaches the shadow; a PLAN_ARM or SHADOW_SYNC that waits goes on. -/
def syncRowCopied (s : State) (m : Nat) : State :=
  if s.compOn (m / 16) && (s.syncDue m).isSome && s.syncNextUp (m / 16) then
    (((s.syncRow m).settleBlk (m / 16)).armGo none).syncGo
  else s

/-- The meaning of MAC_SYNC_ROW_COPIED. -/
def execMacSyncRowCopied (m : Nat) (s : State) : Host.Outcome State Fault Refusal := .next (syncRowCopied s m)

/-! ## The operations as commands -/

/-- An operation of kind k of context c is taken (R113, R114, R122): it issues, faults, waits, or stages its tile's header. -/
def issueEff (s : State) (b c k : Nat) : State :=
  let s0 := s.ctxTidy b c
  if opKind (ctxOp s0.img b c (s0.ctx b c).opn) ≠ k then s0
  else
    let p := s0.pointOf b c
    match s0.verdict b c with
    | .idle => s0
    | .wait r =>
      let s1 := if r = 6 then s0.countStalls b c else s0
      s1.ctxWait b c r
    | .fault cls cause sl => if s0.chosen b p = some c then s0.issueRefused b c cls cause sl else s0
    | .go i => if s0.chosen b p = some c then ((s0.makeIssue b p i).settleBlk b).ctxTidy b c else s0
    | .probe i =>
      let x := s0.bx b
      ((s0.setBx b { x with probes := x.probes ++ [i], nextId := x.nextId + 1 }).ctxWait b c 7).settleBlk b
    | .retire => ((s0.ctxPast b c).ctxTidy b c).afterRetire

/-- An operation command as it stands outside any plan: nothing happens. -/
def opCommand (s : State) (b c k : Nat) : State := if b < 256 ∧ c < 32 then issueEff s b c k else s

/-- The meaning of FWD. -/
def execFwd (b c : Nat) (s : State) : Host.Outcome State Fault Refusal := .next (opCommand s b c 0x01)
/-- The meaning of TRN. -/
def execTrn (b c : Nat) (s : State) : Host.Outcome State Fault Refusal := .next (opCommand s b c 0x02)
/-- The meaning of RES_WRITE. -/
def execResWrite (b c : Nat) (s : State) : Host.Outcome State Fault Refusal := .next (opCommand s b c 0x03)
/-- The meaning of RES_MERGE. -/
def execResMerge (b c : Nat) (s : State) : Host.Outcome State Fault Refusal := .next (opCommand s b c 0x04)
/-- The meaning of UPDATE. -/
def execUpdate (b c : Nat) (s : State) : Host.Outcome State Fault Refusal := .next (opCommand s b c 0x05)
/-- The meaning of PASS. -/
def execPass (b c : Nat) (s : State) : Host.Outcome State Fault Refusal := .next (opCommand s b c 0x06)
/-- The meaning of ROWFIN. -/
def execRowfin (b c : Nat) (s : State) : Host.Outcome State Fault Refusal := .next (opCommand s b c 0x07)
/-- The meaning of SFWD. -/
def execSfwd (b c : Nat) (s : State) : Host.Outcome State Fault Refusal := .next (opCommand s b c 0x10)
/-- The meaning of STRN. -/
def execStrn (b c : Nat) (s : State) : Host.Outcome State Fault Refusal := .next (opCommand s b c 0x11)
/-- The meaning of SEXPAND. -/
def execSexpand (b c : Nat) (s : State) : Host.Outcome State Fault Refusal := .next (opCommand s b c 0x12)
/-- The meaning of SPACK. -/
def execSpack (b c : Nat) (s : State) : Host.Outcome State Fault Refusal := .next (opCommand s b c 0x13)
/-- The meaning of COPY. -/
def execCopy (b c : Nat) (s : State) : Host.Outcome State Fault Refusal := .next (opCommand s b c 0x20)
/-- The meaning of TCOPY. -/
def execTcopy (b c : Nat) (s : State) : Host.Outcome State Fault Refusal := .next (opCommand s b c 0x21)
/-- The meaning of PCOPY. -/
def execPcopy (b c : Nat) (s : State) : Host.Outcome State Fault Refusal := .next (opCommand s b c 0x22)
/-- The meaning of ATOMIC. -/
def execAtomic (b c : Nat) (s : State) : Host.Outcome State Fault Refusal := .next (opCommand s b c 0x23)
/-- The meaning of WAITCNT. -/
def execWaitcnt (b c : Nat) (s : State) : Host.Outcome State Fault Refusal := .next (opCommand s b c 0x24)

/-- The meaning of CIRRUS_GROUP_PREDICTION. -/
def execCirrusGroupPrediction (b i : Nat) (s : State) : Host.Outcome State Fault Refusal := .next ((predictionEff s b i).settleBlk b)

/-! ## Arrivals and the end of an issue -/

/-- The message in flight that answers issue i of block b's read of a line, and that may be delivered (R315). -/
def State.answerFor (s : State) (b i line : Nat) : Option (Nat × Msg) :=
  (List.range s.net.length).findSome? (fun k =>
    match s.msgAt k with
    | some m => (match m.body with
      | .readRsp key d _ iss => if m.dst = b ∧ key ≤ line ∧ line < key + d.length ∧ iss = i then some (k, m) else none
      | _ => none)
    | none => none)

/-- READ_DATA (R594): a line arrives for issue or probe i of block b, from a message with the others that it carries, or from the block's own scratchpad where a restore of the
retained window held it. -/
def readDataEff (s : State) (b i line : Nat) : State :=
  match s.answerFor b i line with
  | some (k, m) =>
    let s1 := s.dropMsg k
    match m.body with
    | .readRsp key d e iss =>
      let s2 := if e ≠ 0 then s1.issueFault b iss (answerUnit m.src) e else s1
      (s2.modIssue b iss (fun x => if e = 0 then x.arrive key d
        else { x with need := x.need.filter (fun l => decide (l < key ∨ key + d.length ≤ l)) })).settleBlk b
    | _ => s1
  | none => s.settleBlk b

/-- The meaning of READ_DATA. -/
def execReadData (b i line : Nat) (s : State) : Host.Outcome State Fault Refusal := .next (if s.compOn b then readDataEff s b i line else s)

/-- An issue has nothing left in flight (R120): its work is done or it faulted, every line asked for has come, every acknowledgement too. -/
def State.mayRetire (s : State) (b : Nat) (i : Issue) : Bool :=
  (i.done || i.faulted) && decide (i.acks = 0) && i.need.isEmpty
    && (i.faulted || decide (i.path ≠ 1) || (i.eng.lanes.isEmpty && i.eng.queue.isEmpty))
    && !(s.bx b).outbox.any (fun m => match m.body with
      | .write _ _ _ n => decide (n = i.id)
      | .atomic _ _ _ _ n => decide (n = i.id)
      | _ => false) && !(s.bx b).heldW.any (fun h => decide (h.iss = i.id))

/-- ISSUE_RETIRE: issue `id` leaves the scoreboard; entries of a chain stay reserved; a result set can complete. -/
def retireEff (s : State) (b id : Nat) : State :=
  match s.issueOf b id with
  | some i =>
    if s.compOn b && s.mayRetire b i then
      let s1 := if i.faulted then s.readsDone b id else s
      let x := s1.bx b
      let keep := if opChain i.word && !i.faulted && decide (0 < i.resv) then [{ i with claims := [] }] else []
      (((s1.setBx b { x with issues := x.issues.filter (fun y => decide (y.id ≠ id)), chains := x.chains ++ keep }).ctxTidy b i.ctx)).afterRetire
    else s
  | none => s

/-- The meaning of ISSUE_RETIRE. -/
def execIssueRetire (b i : Nat) (s : State) : Host.Outcome State Fault Refusal := .next (retireEff s b i)

/-- The block that message k answers, if any. -/
def State.ackBlock (s : State) (k : Nat) : Option Nat :=
  match s.msgAt k with
  | some m => (match m.body with
    | .ack _ _ => if m.dst < 256 then some m.dst else none
    | _ => none)
  | none => none

/-- WRITE_ACKNOWLEDGEMENT with the credit that it returns to a block (R320, R322). -/
def ackEff (s : State) (k : Nat) : State :=
  match s.ackBlock k with
  | some b => (writeAck s k).settleBlk b
  | none => writeAck s k

/-- The meaning of WRITE_ACKNOWLEDGEMENT. -/
def execWriteAcknowledgement (k : Nat) (s : State) : Host.Outcome State Fault Refusal := .next (ackEff s k)

end Sys2Proof.Machine
end

