-- ==== Sys2Proof/Machine/RegAccess.lean ====
section
/-! DEFINITION. Register accesses (R9 to R12, R36, R37, R434): what a read returns where the register shows state held elsewhere, what a
write does where the register has behaviour of its own, and the register commands of the host. -/

namespace Sys2Proof.Machine

/-! ## Errors of accesses (R37) -/

/-- An access error of kind 0, a reserved range, or 1, a unit whose domain is off; the first since both bits were clear records its
address. -/
def State.accErr (s : State) (kind a : Nat) : State :=
  let old := (s.reg 0x20).toNat
  let f : Fld := ⟨0x20, kind, 1⟩
  if old % 4 = 0 then (s.flagF chipBase f).setReg 0x24 (BitVec.ofNat 32 a)
  else (s.flagF chipBase f).flagF chipBase F.CHIP_ACC_ERR_OVERRUN

/-- Where an access leads: the location and its row of the register tables, or the kind of its error. -/
def State.reach (s : State) (a : Nat) : Sum Nat (Loc × RegDesc) :=
  match locate a with
  | none => .inl 0
  | some l =>
    match l.desc with
    | none => .inl 0
    | some d => if s.pdOn l.domain then .inr (l, d) else .inl 1

/-! ## Reads -/

/-- What the activity field of macro m may show: idle, or any port operation that is under way on it (Table 2.8). -/
def State.macActs (s : State) (m : Nat) : List Nat :=
  let x := s.mx m
  let act := fun (i : Issue) =>
    let k := opKind i.word
    if k = 0x02 ∨ k = 0x11 then 2 else if k = 0x03 ∨ k = 0x04 ∨ k = 0x05 then 3 else 1
  let ops := ((s.bx (m / 16)).issues.filter (fun i =>
    !i.done && i.claims.any (fun c => decide (c.space ≠ 0) && c.mask.testBit (m % 16)))).map act
  0 :: (ops ++ (if x.rb.isSome then [4] else []) ++ (if 0 < x.scrubReq then [5] else []) ++ (if x.fill.isEmpty then [] else [6])
    ++ (match x.shop with
      | some o => [if o.restore then 7 else 4]
      | none => []))

/-- STATE and WAIT of context c (R113, Table 4.3); a region's contexts wait with reason 1 until its wake completes (R499). -/
def State.ctxShown (s : State) (b c : Nat) : Nat × Nat :=
  let x := s.ctx b c
  let free := match lowest (s.workWaits b c) with
    | some r => (2, r)
    | none => (1, 0)
  if !(s.reg (blkBase b)).toNat.testBit c then (0, 0)
  else match x.st with
    | .off => (0, 0)
    | .done => (3, 0)
    | .faulted => (4, 0)
    | .ready | .wait =>
      if decide (b / 16 ∈ s.power.restoring) then (2, 1)
      else if x.running then
        (match s.verdict b c with
        | .wait r => (2, r)
        | .probe _ => (2, 7)
        | _ => free)
      else if x.taken = 0 ∨ (ctxHdr s.img b c).rep = true then (2, 1)
      else free

/-- A mask of 40 domains, low or high word. -/
def halfOf (hi : Bool) (m : Nat) : Nat := if hi then m / 2 ^ 32 else m

/-- Word i of some bytes, its lowest byte first (R554). -/
def wordAt (l : List Byte) (i : Nat) : Nat := leNat (padTo 4 (slice l (4 * i) 4))

/-- Words of the chip and power units that show state held elsewhere (Tables 1.13, 17.9, 17.10). -/
def State.viewChip (s : State) (off : Nat) (w : Nat) : Nat :=
  match off with
  | 0x0 => Config.chipId
  | 0x8 => Config.serialFuse.toNat
  | 0xC => Config.serialFuse.toNat / 2 ^ 32
  | 0x10 => s.chip.st.code + 16 * s.chip.prev.code + 256 * b2n s.chip.jobEnded + 65536 * (s.chip.transitions % 65536)
  | _ => w

/-- A switch-off waits for credits (R514). -/
def State.creditWait (s : State) : Bool :=
  match s.power.plan with
  | (d, false) :: _ => decide (20 ≤ d ∧ d < 36) && s.creditsOut (d - 20)
  | _ => false

/-- Words of the power unit. -/
def State.viewPwr (s : State) (off : Nat) (w : Nat) : Nat :=
  match off with
  | 0x0 => s.onMask
  | 0x4 => s.onMask / 2 ^ 32
  | 0x10 => s.power.ret
  | 0x14 => s.power.ret / 2 ^ 32
  | 0x18 => putBits (putBits w 0 1 (b2n (!s.power.settling.isEmpty || !s.power.plan.isEmpty))) 2 1 (b2n s.creditWait)
  | _ => w

/-- SDI_BUS (Table 13.13). -/
def State.viewSdi (s : State) (off : Nat) (w : Nat) : Nat :=
  match off with
  | 0x0 =>
    b2n (decide (s.sdio.width ≠ 0)) + 2 * (s.sdio.bss % 8) + 16 * b2n s.sdio.v18 + 32 * (s.power.strapIo18 % 2) + 64 * (s.sdio.ioe % 4)
      + 65536 * (s.sdio.rca % 65536)
  | _ => w

/-- Words of the Postmark Log (Table 16.9). -/
def State.viewPml (s : State) (off : Nat) (w : Nat) : Nat :=
  match off with
  | 0x0 => putBits (putBits w 0 1 (b2n (!s.pml.queue.isEmpty || s.pml.clear.isSome))) 1 1 (b2n s.pmPrimary)
  | 0x4 => s.pml.newest
  | 0x8 => s.pml.slots.length + 65536 * s.pml.words.length
  | 0xC => (match s.pml.pinned with
    | some n => n + 2 ^ 31
    | none => 0)
  | 0x10 => s.pml.seq
  | 0x14 => s.pml.bootCount
  | 0x20 => s.wallTime
  | 0x24 => s.wallTime / 2 ^ 32
  | _ => w

/-- Words of Nimbus (Table 15.11). -/
def State.viewNim (s : State) (off : Nat) (w : Nat) : Nat :=
  match off with
  | 0x4 => s.nimStat w
  | 0x10 => s.curStep
  | _ => w

/-- Words of the security unit (Table 18.6). -/
def State.viewSec (s : State) (off : Nat) (w : Nat) : Nat :=
  let run := s.fwImage
  if 0x40 ≤ off ∧ off < 0x60 then wordAt s.fwSha ((off - 0x40) / 4)
  else if 0x60 ≤ off ∧ off < 0x80 then wordAt rootHashBytes ((off - 0x60) / 4)
  else match off with
    | 0x0 =>
      b2n (!run.isEmpty) + 2 * b2n (decide (rootHashBytes ≠ List.replicate 32 0)) + 4 * s.getF secBase F.SEC_DEBUG_UNLOCK
        + 8 * s.getF secBase F.SEC_STAT_SINCE_BOOT + 16 * b2n Config.permLockFuse + 32 * b2n s.store.advance.isSome
    | 0x8 => s.store.rollback + 256 * fwRoll run + 65536 * fwRoll s.store.staged
    | 0xC => fwVer run
    | 0x14 => s.store.idNext
    | _ => w

/-- Words of the self-test unit (Table 19.5). -/
def State.viewBst (s : State) (off : Nat) (w : Nat) : Nat :=
  let bad := SMap.get 0 s.bist.bad (s.getF bstBase F.BST_REP_SEL_UNIT)
  match off with
  | 0x4 => putBits (putBits (putBits w 0 1 (b2n s.sliceBusy)) 1 1 (b2n s.bistSmall)) 4 1 (b2n s.bist.commit.isSome)
  | 0x8 => Config.bistBootSel
  | 0xC => s.bist.newest % 1024 + 65536 * min s.bist.total 65535
  | 0x14 => s.bist.fuseFree
  | 0x84 => bad
  | 0x88 => bad / 2 ^ 32
  | _ => w

/-- Words of block b (Tables 4.8, 8.10). -/
def State.viewBlk (s : State) (b off : Nat) (w : Nat) : Nat :=
  let tag := fun m => SMap.get (none : Option StageTag) (s.bx b).tags m
  if 0x100 ≤ off ∧ off < 0x180 then
    let c := (off - 0x100) / 4
    let x := s.ctx b c
    let v := s.ctxShown b c
    v.1 + 16 * v.2 + 256 * (x.opn % 65536) + 2 ^ 24 * (x.faultClass % 256)
  else if off = F.CIR_THRESH_THR.off then (s.bx b).thrPend.getD w
  else if 0x20080 ≤ off ∧ off < 0x200C0 then ((tag ((off - 0x20080) / 4)).map StageTag.crc).getD 0
  else match off with
    | 0x8 => putBits w 0 7 (s.sbUsed b)
    | 0x20000 => putBits w 0 1 (b2n ((s.bx b).issues.any (fun i => decide (i.path = 1))))
    | 0x200C0 => (List.range 16).foldl (fun n m => n + b2n (tag m).isSome * 2 ^ m) 0
    | _ => w

/-- Words of macro m: ACT and the statistics of a slot without values are open (Table 2.8, R73; log entry 28). -/
def State.viewMac (s : State) (m off : Nat) (w : Nat) : Nat × State :=
  let g := (off - 0x200) / 0x80
  let o := off % 0x80
  if off = 4 then
    let l := s.macActs m
    let (x, s1) := if l.length = 1 then (0, s) else s.takeFree
    (putBits w 0 3 (l.getD (x % l.length) 0), s1)
  else if 0x200 ≤ off ∧ off < 0x600 ∧ o < 8 ∧ s.cad.monSeen.testBit (m / 256) = true
      ∧ s.getF (macBase m) (F.MAC_RMON_CNT_COUNT.idx (0x80 * g)) = 0 then
    ((Config.emptyStat (2 * (32768 * s.slotNo + 8 * m + g) + o / 4)).toNat, s)
  else (w, s)

/-- The offset of a register RGN_RTRb_FLITSp (Table 11.6). -/
def flitsOff (off : Nat) : Bool := decide (0x1100 ≤ off) && decide (off < 0x1500) && decide (off % 0x40 < 0x14)
/-- The key of its count. -/
def flitsKey (r off : Nat) : Nat := 8 * (16 * r + (off - 0x1100) / 0x40) + off % 0x40 / 4

/-- The mark of the mesh for the cycle count at this offset of region r's window: that of its crossings, or of a router output (Table 11.6). -/
def waitKey (r off : Nat) : Nat := if off = 0x1000 then 4096 + r else 8 * (16 * r + (off - 0x1100) / 0x40) + (off % 0x40 - 0x14) / 4

/-- Counts of clock cycles in which something waited or idled: the model gives its effects no cycles, so that any count is possible (R149, R256, R333,
Table 4.8; log entry 25). On the mesh none has passed where no flit has used the output or crossing since the last read or reset. -/
def cycleCount (l : Loc) : Bool :=
  let o := l.off
  match l.win with
  | .blk => (decide (0x44 ≤ o) && decide (o < 0x68)) || (decide (0x10400 ≤ o) && decide (o < 0x10440)) || decide (o = 0x20024)
  | .rgn => decide (o = 0x1000) || (decide (0x1100 ≤ o) && decide (o < 0x1500) && decide (0x14 ≤ o % 0x40) && decide (o % 0x40 < 0x28))
  | _ => false

/-- RGN_LDO_STAT while the output ramps: a free value in VOUT_MV (log entry 42). -/
def State.viewRgn (s : State) (r off : Nat) (w : Nat) : Nat × State :=
  if off = 4 ∧ s.pdOn (4 + r) = true ∧ bits w 10 1 = 0 then
    let (x, s1) := s.takeFree
    (putBits w 0 10 x, s1)
  else if flitsOff off then (SMap.get 0 s.mesh.flits (flitsKey r off), s)
  else (w, s)

/-- What the fields of a register show before WO fields are masked: state held elsewhere in place of the stored word. -/
def State.shown (s : State) (l : Loc) (w : Nat) : Nat × State :=
  if cycleCount l then
    (if l.win = .rgn ∧ SMap.get 0 s.mesh.waits (waitKey l.idx l.off) = 0 then (0, s) else (let (x, s1) := s.takeFree; (x % 2 ^ 32, s1)))
  else match l.win with
  | .chip => (s.viewChip l.off w, s)
  | .pwr => (s.viewPwr l.off w, s)
  | .cad => (if l.off = 0x1C then putBits w 0 16 s.phase else w, s)
  | .sdi => (s.viewSdi l.off w, s)
  | .pml => (s.viewPml l.off w, s)
  | .nim => (s.viewNim l.off w, s)
  | .sec => (s.viewSec l.off w, s)
  | .bst => (s.viewBst l.off w, s)
  | .blk => (s.viewBlk l.idx l.off w, s)
  | .mac => s.viewMac l.idx l.off w
  | .rgn => s.viewRgn l.idx l.off w
  | .cur => (if l.off = 4 then s.curStat l.idx w else w, s)
  | .hbm | .pgh | .hzn | .curShared => (w, s)

/-- A word as it is read: WO fields and reserved bits read 0 (R10, R12). -/
def RegDesc.readWord (d : RegDesc) (w : Nat) : Nat :=
  d.fields.foldl (fun n f => if f.acc = .wo then n else putBits n f.lo f.width (bits w f.lo f.width)) 0

/-- A word after a read: RC fields cleared (R12). -/
def RegDesc.afterRead (d : RegDesc) (w : Nat) : Nat :=
  d.fields.foldl (fun n f => if f.acc = .rc then putBits n f.lo f.width 0 else n) w

/-- The low words of the 64-bit quantities that are read under R9 (log entry 38), by window and offset. -/
def pairLow (l : Loc) : Bool :=
  match l.win with
  | .chip => decide (l.off = 0x8)
  | .pwr => decide (l.off ∈ [0x0, 0x8, 0x10, 0x20])
  | .hzn => decide (l.off ∈ [0x18, 0x20, 0x38])
  | .bst => decide (l.off = 0x84)
  | .cad => decide (l.off = 0x8 ∨ l.off = 0x10)
  | .hbm => decide (l.off = 0x10)
  | .cur => decide (l.off = 0x10 ∨ l.off = 0x18)
  | .curShared => decide (0x8000 ≤ l.off) && decide (l.off < 0x8800) && decide (l.off % 0x20 = 8 ∨ l.off % 0x20 = 0x10)
  | .rgn => decide (l.off = 0x100)
  | .pml => decide (l.off = 0x20)
  | .nim =>
    decide (l.off = 0x20) || (decide (0x40 ≤ l.off) && decide (l.off < 0xC0) && decide (l.off % 0x10 = 4))
      || decide (l.off ∈ [0x110, 0x118, 0x120, 0x128])
  | _ => false

/-- The low half is 4 bytes before this address, and the pair is read under R9. -/
def pairHigh (a : Nat) : Bool := decide (4 ≤ a) && ((locate (a - 4)).map pairLow).getD false

/-- The value of a register that can be reached, as a read shows it now. -/
def State.readNow (s : State) (l : Loc) (d : RegDesc) (a : Nat) : Nat × State :=
  let (w, s1) := s.shown l (s.reg a).toNat
  (d.readWord w, s1)

/-- What a read of the high word of a pair returns until its low word has been read (R9): its reset value, which for SERIAL is the fuse. -/
def latchReset (a : Nat) : Word := if a = 0xC then BitVec.ofNat 32 (Config.serialFuse.toNat / 2 ^ 32) else regReset a

/-- What a clearing read leaves in a count held elsewhere: no flits, and in SB_PEAK the entries now in use. -/
def State.afterRc (s : State) (l : Loc) : State :=
  match l.win with
  | .blk => if l.off = 8 then s.sbPeak l.idx else s
  | .rgn =>
    if flitsOff l.off then { s with mesh := { s.mesh with flits := SMap.set 0 s.mesh.flits (flitsKey l.idx l.off) 0 } }
    else if cycleCount l then { s with mesh := { s.mesh with waits := SMap.set 0 s.mesh.waits (waitKey l.idx l.off) 0 } }
    else s
  | _ => s

/-- A register read (R9, R12, R37): its value and what the read changes. -/
def State.readReg (s : State) (a : Nat) : Nat × State :=
  match s.reach a with
  | .inl k => (0, s.accErr k a)
  | .inr (l, d) =>
    if pairHigh a then ((SMap.get (latchReset a) s.latch a).toNat, s)
    else
      let (v, s1) := s.readNow l d a
      let s2 : State := if pairLow l then
          (match (locate (a + 4)).bind (fun h => h.desc.map (fun e => (h, e))) with
          | some (h, e) =>
            let (x, t) := s1.readNow h e (a + 4)
            { t with latch := SMap.set (latchReset (a + 4)) t.latch (a + 4) (BitVec.ofNat 32 x) }
          | none => s1)
        else s1
      (v, if d.fields.any (fun f => decide (f.acc = .rc)) then (s2.setReg a (BitVec.ofNat 32 (d.afterRead (s2.reg a).toNat))).afterRc l else s2)

/-! ## Writes -/

/-- Post unit m works for an issue's epilogue, PASS or update (R140). -/
def postHeld (m : Nat) (i : Issue) : Bool :=
  ((opHasOut i.word && !opChain i.word) || decide (opKind i.word = 0x05)) && (opMacros i.word).testBit m

/-- The table at this offset is in use (R140): rescale or channel affine table of a post unit, or an activation table. -/
def State.tableHeld (s : State) (b off : Nat) : Bool :=
  let live := (s.bx b).issues
  if off < 0x50000 then
    let m := (off - 0x40000) / 0x1000
    live.any (fun i => postHeld m i && (decide (off % 0x1000 < 0xC00) || (opHasOut i.word && opChAffine i.word)))
  else
    let t := (off - 0x50000) / 0x400
    live.any (fun i => opHasOut i.word && decide (opFunc i.word = 4 + t))

/-- A write of v to CUR_CTL of port p: its fields, then EN and TRAIN. -/
def State.curCtl (s : State) (p v : Nat) : State :=
  let base := curBase p
  let was := s.getF base F.CUR_CTL_EN
  let s1 := (s.plainWrite base v).setF base F.CUR_CTL_EN was
  let s2 := if v.testBit 0 then (if was = 0 then enSet s1 p else s1) else (if was = 1 then enClear s1 p else s1)
  if v.testBit 1 then trainWrite s2 p else s2

/-- A write to CUR_VCv_BUF (R361): not applied where the sum would pass 1,024 or the field fall below 16. -/
def State.curBuf (s : State) (p off v : Nat) : State :=
  let base := curBase p
  let n := bits v 0 11
  let rest := ((List.range 8).map (fun (i : Nat) =>
    if 0x20 + 4 * i = off then 0 else s.getF base (F.CUR_VC_BUF_FLITS.idx (4 * i)))).sum
  if n < 16 ∨ 1024 < rest + n then s else s.plainWrite (base + off) v

/-- T1 to T7 as the two threshold registers hold them, ascending or not (R511). -/
def levelsAscend (lo hi : Nat) : Bool :=
  let t := (List.range 7).map (fun (i : Nat) => bits (lo + 2 ^ 32 * hi) (8 * i) 8)
  (List.range 6).all (fun (i : Nat) => decide (t.getD i 0 < t.getD (i + 1) 0))

/-- A write to the Horizon unit. -/
def State.writeHzn (s : State) (off v : Nat) : State :=
  match off with
  | 0x30 => if v.testBit 0 then ruleCommit s else s
  | 0x8 => if levelsAscend (v % 2 ^ 32) (s.reg (hznBase + 0xC)).toNat then s.plainWrite (hznBase + 8) v else s
  | 0xC => if levelsAscend (s.reg (hznBase + 8)).toNat (v % 2 ^ 24) then s.plainWrite (hznBase + 0xC) v else s
  | 0x14 => (s.plainWrite (hznBase + 0x14) v).alertSync
  | 0x18 => (s.plainWrite (hznBase + 0x18) v).alertSync
  | 0x1C => (s.plainWrite (hznBase + 0x1C) v).alertSync
  | _ => s.plainWrite (hznBase + off) v

/-- A write to RGN_GOV_CTL (Table 1.8): a budget above the fuse stores the fuse value, and 0 stores 1. -/
def State.govCtl (s : State) (r v : Nat) : State :=
  (s.plainWrite (rgnBase r + 0x10) v).setF (rgnBase r) F.RGN_GOV_CTL_BUDGET (max 1 (min (bits v 0 20) Config.govBudgetFuse))

/-- A write to RGN_ERR_STAT: clearing VALID frees the slot, and with it R446. -/
def State.rgnErrWrite (s : State) (r v : Nat) : State :=
  let s1 := s.plainWrite (rgnBase r + 0x108) v
  if v.testBit 0 then s1.setF (rgnBase r) F.RGN_ERR_STAT_THROTTLE 0 else s1

/-- A write to SPD_RET of block b (R168), kept in the retained-window directory while valid (R519). -/
def State.retWrite (s : State) (b v : Nat) : State :=
  let a := blkBase b + 0x10380
  if (s.bx b).shop.isSome then s
  else
    let s1 := s.plainWrite a v
    s1.keepRet b (s1.reg a).toNat

/-- A write of v to a register with SYNC, RESTORE and STALE: one that sets SYNC and RESTORE together is ignored as a whole (R70, R71, R170). -/
def shadowBits (v : Nat) (sync restore : State → State) (a : Nat) (s : State) : State :=
  if v.testBit 0 && v.testBit 1 then s
  else
    let s1 := s.plainWrite a v
    if v.testBit 0 then sync s1 else if v.testBit 1 then restore s1 else s1

/-- The claims and configuration of a block that a plan fixes: not writable while the chip is RUNNING or DRAINING (R172, R256, R289). -/
def blkPlanned (off : Nat) : Bool :=
  (decide (0x10100 ≤ off) && decide (off < 0x10200)) || decide (off = 0x10300) || decide (off = 0x20040) || decide (off = 0x20044)
    || (decide (0x20100 ≤ off) && decide (off < 0x20200)) || (decide (0x30000 ≤ off) && decide (off < 0x30020))
    || (decide (0x30040 ≤ off) && decide (off < 0x30080))

/-- A write to block b's window. -/
def State.writeBlk (s : State) (b off v : Nat) : State :=
  let a := blkBase b + off
  if 0x40000 ≤ off then
    (if s.tableHeld b off then s.flagF (blkBase b) F.BLK_SEQ_STAT_TBL_REJ else s.plainWrite a v)
  else if off = 0x34 then
    let s1 := s.plainWrite a v
    if v.testBit 0 then s1.setBx b { s1.bx b with eslot := none } else s1
  else if off = 0x10380 then s.retWrite b v
  else if off = 0x10384 then shadowBits v (fun t => spdSync t b) (fun t => spdRestore t b) a s
  else if off = 0x30008 then cirThrWrite s b v
  else if blkPlanned off && s.isIn [.running, .draining] then s
  else if s.fwHolds b && (decide (0x10100 ≤ off) && decide (off < 0x10200) && decide (off % 16 = 0)) then
    s.plainWrite a (putBits v F.SPD_CIRC_BASE_VALID.lo 1 0)
  else if s.fwHolds b && decide (off = 0x10300) then s.plainWrite a (putBits v F.SPD_ATOM_WIN_VALID.lo 1 0)
  else s.plainWrite a v

/-- A write to macro m's window. -/
def State.writeMac (s : State) (m off v : Nat) : State :=
  let a := macBase m + off
  if off = 0 then macCfg s m v
  else if 0x40 ≤ off ∧ off < 0x80 then remapWrite s m ((off - 0x40) / 4) v
  else if off = 0x90 then shadowBits v (fun t => shadowSync t m) (fun t => shadowRestore t m) a s
  else if off = 0x800 then rbWrite s m v
  else s.plainWrite a v

/-- A write to the shared Courier registers (R350, R362). -/
def State.writeShared (s : State) (off v : Nat) : State :=
  let a := curShBase + off
  if off = 0 ∨ (0x4000 ≤ off ∧ off < 0x8000) then
    (if s.isIn [.running, .draining, .securing] then s else s.plainWrite a v)
  else if 0x8000 ≤ off ∧ off < 0x8800 then
    let cfg := s.reg (curShBase + 0x8000 + 0x20 * ((off - 0x8000) / 0x20))
    if cfg.getLsbD 31 && s.isIn [.running, .draining] then s else s.plainWrite a v
  else s.plainWrite a v

/-- A write of v to the register at a location that can be reached. -/
def State.writeAt (s : State) (l : Loc) (a v : Nat) : State :=
  match l.win with
  | .chip =>
    if l.off = 0x30 then chipRstWrite s v
    else if l.off = 0x10 then (if v.testBit 8 then { s with chip := { s.chip with jobEnded := false } } else s)
    else s.plainWrite a v
  | .pwr => if l.off = 8 then pwrReqEff s false v else if l.off = 0xC then pwrReqEff s true v else s.plainWrite a v
  | .cad =>
    if l.off = 0x18 then (if v.testBit 0 then cadSet s else s) else if l.off = 0 then (s.plainWrite a v).outHeld else s.plainWrite a v
  | .hbm => if 0x100 ≤ l.off ∧ l.off < 0x200 ∧ s.isIn [.running, .draining, .securing] = true then s else s.plainWrite a v
  | .hzn => s.writeHzn l.off v
  | .nim => if l.off ≠ 4 ∧ s.isIn [.running, .draining, .securing, .restoring] = true then s else s.plainWrite a v
  | .sec => if l.off = 4 then secDebugWrite s v else s.plainWrite a v
  | .cur => if l.off = 0 then s.curCtl l.idx v else if 0x20 ≤ l.off ∧ l.off < 0x40 then s.curBuf l.idx l.off v else s.plainWrite a v
  | .curShared => s.writeShared l.off v
  | .rgn =>
    if l.off = 0 then aclkWrite s l.idx v
    else if l.off = 0x10 then s.govCtl l.idx v
    else if l.off = 0x108 then s.rgnErrWrite l.idx v
    else s.plainWrite a v
  | .blk => s.writeBlk l.idx l.off v
  | .mac => s.writeMac l.idx l.off v
  | .sdi | .pgh | .pml | .bst => s.plainWrite a v

/-- A register write (R10 to R12, R37). -/
def State.writeReg (s : State) (a v : Nat) : State :=
  match s.reach a with
  | .inl k => s.accErr k a
  | .inr (l, _) => s.writeAt l a (v % 2 ^ 32)

/-! ## Accesses over the register bus -/

/-- The meaning of REGISTER_WRITE: the bus carries it while PD03 is on (R39). -/
def execRegisterWrite (addr v : Nat) (s : State) : Host.Outcome State Fault Refusal := .next (if s.pdOn 3 then s.writeReg addr v else s)

/-- One access over the bus: a write, or a read whose value the bus returns. -/
def busAccess (s : State) (wr : Bool) (addr v : Nat) : State :=
  if wr then s.writeReg addr v
  else
    let (x, s1) := s.readReg addr
    { s1 with busRead := BitVec.ofNat 32 x }

/-- The meaning of REGISTER_ACCESS. -/
def execRegisterAccess (wr : Bool) (addr v : Nat) (s : State) : Host.Outcome State Fault Refusal :=
  .next (if s.pdOn 3 then busAccess s wr addr v else s)

/-! ## REG_READ and REG_WRITE (R434, R410) -/

/-- The commands behind which a register command waits. -/
def regHolders : List Nat := [0x0503, 0x0902, 0x0903, 0x0904]

/-- A reply that waits is the final one of such a command: neither PENDING nor that of a command turned away before it was in progress. -/
def finalOfHolder (r : List Byte) : Bool :=
  decide (leAt r 2 2 ∈ regHolders) && !decide (leAt r 6 2 ∈ [0x1, 0x101, 0x102, 0x103, 0x104, 0x105, 0x106, 0x302, 0x303])

/-- Such a command is in progress, or its final reply is not in its slot yet (R410). -/
def State.regHeld (s : State) : Bool := s.inProgress regHolders || s.mail.replies.any finalOfHolder

/-- Words read from consecutive addresses, in order. -/
def State.readRun (s : State) (a : Nat) : Nat → List Byte × State
  | 0 => ([], s)
  | n + 1 =>
    let (v, s1) := s.readReg a
    let (r, s2) := s1.readRun (a + 4) n
    (leBytes 4 v ++ r, s2)

/-- REG_READ executes. -/
def State.regReadRun (s : State) (t : Taken) : State :=
  let (d, s1) := s.readRun (t.fld 0 4) (t.fld 4 2)
  s1.finish t.id 0 d

/-- A register that a host command may not write (R405, R554). -/
def hostLocked (a : Nat) : Bool :=
  match locate a with
  | some l => (decide (l.win = .pgh) && decide (l.off < 0x80)) || (decide (l.win = .sec) && l.desc.isSome)
  | none => false

/-- The word that an entry with a mask writes (R434): what is read, the masked bits replaced, and W1C and WO fields outside the mask 0. -/
def RegDesc.masked (d : RegDesc) (old v mask : Nat) : Nat :=
  let w := (old &&& (2 ^ 32 - 1 - mask)) ||| (v &&& mask)
  d.fields.foldl (fun n f =>
    if f.acc = .w1c ∨ f.acc = .wo then putBits n f.lo f.width (bits v f.lo f.width &&& bits mask f.lo f.width) else n) w

/-- One entry of REG_WRITE. PWR_REQ entries act as PWR_SET with the same mask (R534). -/
def State.regEntry (s : State) (a v mask : Nat) : State :=
  match locate a with
  | some ⟨.pwr, _, 8⟩ | some ⟨.pwr, _, 0xC⟩ =>
    let k := if a % 16 = 8 then 0 else 32
    let m := ((if k = 0 then mask &&& 0xFFFFFFF0 else mask &&& 0xFF)) * 2 ^ k
    if s.isIn [.boot, .ready] then
      (match s.pwrPlan m (v * 2 ^ k) s.power.cmd with
      | some u => u
      | none => s.flagF pwrBase F.PWR_STAT_DEP_ERR)
    else s
  | _ =>
    if mask = 0xFFFFFFFF then s.writeReg a v
    else
      let (old, s1) := s.readReg a
      match regDesc a with
      | some d => s1.writeReg a (d.masked old v mask)
      | none => s1.writeReg a 0

/-- The end of REG_WRITE: its reply, or none where an entry has caused a soft reset (R526). -/
def State.regEnd (s : State) (t : Taken) (rst : Bool) (status k : Nat) : State :=
  if rst then { s with mail := { s.mail with taken := s.mail.taken.filter (fun x => decide (x.id ≠ t.id)) } }
  else s.finish t.id status (leBytes 2 k)

/-- The entries of REG_WRITE from entry k on; `rst` says whether one has caused a soft reset. -/
def State.regEntries (s : State) (t : Taken) (k : Nat) (rst : Bool) : Nat → State
  | 0 => s.regEnd t rst 0 k
  | n + 1 =>
    let a := t.fld (12 * k) 4
    if hostLocked a then s.regEnd t rst 0x0701 k
    else
      let s1 := s.regEntry a (t.fld (12 * k + 4) 4) (t.fld (12 * k + 8) 4)
      s1.regEntries t (k + 1) (rst || decide (s.power.pulse = 0 ∧ s1.power.pulse = 1)) n

/-- REG_WRITE executes. -/
def State.regWriteRun (s : State) (t : Taken) : State := s.regEntries t 0 false (t.par.length / 12)

/-- A register command taken: it executes, or waits (R410). -/
def regTake (bad : Taken → Bool) (run : State → Taken → State) (t : Taken) (s : State) : State :=
  if bad t then s.fail t 0x0201 else if s.regHeld then s.goesOn t else run s t

/-- A register command looked at: the oldest that waits executes once nothing holds it, else one is taken. -/
def State.regCommand (s : State) (op : Nat) (bad : Taken → Bool) (run : State → Taken → State) : State :=
  match s.takenOp op with
  | some t => if s.regHeld then s.hostCmd op (regTake bad run) else run s t
  | none => s.hostCmd op (regTake bad run)

/-- Parameters of REG_READ that are refused. -/
def regReadBad (t : Taken) : Bool :=
  !t.ok 6 [] || decide (t.fld 0 4 % 4 ≠ 0) || decide (t.fld 4 2 = 0) || decide (1016 < t.fld 4 2)

/-- Parameters of REG_WRITE that are refused. -/
def regWriteBad (t : Taken) : Bool := !t.ok 12 [] || decide (t.par.length % 12 ≠ 0) || decide (338 < t.par.length / 12)

/-- The meaning of REG_READ. -/
def execRegRead (s : State) : Host.Outcome State Fault Refusal := .next (s.regCommand 0x0C01 regReadBad State.regReadRun)

/-- The meaning of REG_WRITE. -/
def execRegWrite (s : State) : Host.Outcome State Fault Refusal := .next (s.regCommand 0x0C02 regWriteBad State.regWriteRun)

end Sys2Proof.Machine
end

