-- ==== Sys2Proof/Machine/Dispatch.lean ====
section
/-! DEFINITION. The dispatch: one arm per command, each a direct call of its meaning. -/

namespace Sys2Proof.Machine

/-- What a command does to everything but the queue. -/
def exec (i : Instr) (s : State) : Host.Outcome State Fault Refusal :=
  match i with
  | .pwrgoodRise strapBoot strapIo18 feedtag => Sys2Proof.Machine.execPwrgoodRise strapBoot strapIo18 feedtag s
  | .pwrgoodFall => Sys2Proof.Machine.execPwrgoodFall s
  | .resetNLow => Sys2Proof.Machine.execResetNLow s
  | .resetNRise strapBoot strapIo18 feedtag => Sys2Proof.Machine.execResetNRise strapBoot strapIo18 feedtag s
  | .chipRstSoft v => Sys2Proof.Machine.execChipRstSoft v s
  | .softResetPulse => Sys2Proof.Machine.execSoftResetPulse s
  | .trstNLow => Sys2Proof.Machine.execTrstNLow s
  | .startUpStage ok => Sys2Proof.Machine.execStartUpStage ok s
  | .domainSettled d => Sys2Proof.Machine.execDomainSettled d s
  | .pwrSet => Sys2Proof.Machine.execPwrSet s
  | .pwrReqWrite hi v => Sys2Proof.Machine.execPwrReqWrite hi v s
  | .sleep => Sys2Proof.Machine.execSleep s
  | .sleepEntry => Sys2Proof.Machine.execSleepEntry s
  | .sdiHostctlWake => Sys2Proof.Machine.execSdiHostctlWake s
  | .regionPowerDown r => Sys2Proof.Machine.execRegionPowerDown r s
  | .rgnAclkStepWrite r v => Sys2Proof.Machine.execRgnAclkStepWrite r v s
  | .synthesizerLocked r => Sys2Proof.Machine.execSynthesizerLocked r s
  | .ldoSettled r => Sys2Proof.Machine.execLdoSettled r s
  | .rgnLdoOor r => Sys2Proof.Machine.execRgnLdoOor r s
  | .governorWindowEnd r => Sys2Proof.Machine.execGovernorWindowEnd r s
  | .fwd b c => Sys2Proof.Machine.execFwd b c s
  | .trn b c => Sys2Proof.Machine.execTrn b c s
  | .resWrite b c => Sys2Proof.Machine.execResWrite b c s
  | .resMerge b c => Sys2Proof.Machine.execResMerge b c s
  | .update b c => Sys2Proof.Machine.execUpdate b c s
  | .pass b c => Sys2Proof.Machine.execPass b c s
  | .rowfin b c => Sys2Proof.Machine.execRowfin b c s
  | .sfwd b c => Sys2Proof.Machine.execSfwd b c s
  | .strn b c => Sys2Proof.Machine.execStrn b c s
  | .sexpand b c => Sys2Proof.Machine.execSexpand b c s
  | .spack b c => Sys2Proof.Machine.execSpack b c s
  | .copy b c => Sys2Proof.Machine.execCopy b c s
  | .tcopy b c => Sys2Proof.Machine.execTcopy b c s
  | .pcopy b c => Sys2Proof.Machine.execPcopy b c s
  | .atomic b c => Sys2Proof.Machine.execAtomic b c s
  | .waitcnt b c => Sys2Proof.Machine.execWaitcnt b c s
  | .forwardRow b id cyc => Sys2Proof.Machine.execForwardRow b id cyc s
  | .transposedRow b id cyc => Sys2Proof.Machine.execTransposedRow b id cyc s
  | .correctionRead b id => Sys2Proof.Machine.execCorrectionRead b id s
  | .epilogue b id => Sys2Proof.Machine.execEpilogue b id s
  | .issueRetire b id => Sys2Proof.Machine.execIssueRetire b id s
  | .remoteRead k => Sys2Proof.Machine.execRemoteRead k s
  | .remoteWrite k => Sys2Proof.Machine.execRemoteWrite k s
  | .atomicAddRequest k => Sys2Proof.Machine.execAtomicAddRequest k s
  | .atomicApply r => Sys2Proof.Machine.execAtomicApply r s
  | .readData b id line => Sys2Proof.Machine.execReadData b id line s
  | .writeAcknowledgement k => Sys2Proof.Machine.execWriteAcknowledgement k s
  | .creditReturn k => Sys2Proof.Machine.execCreditReturn k s
  | .registerAccess wr addr v => Sys2Proof.Machine.execRegisterAccess wr addr v s
  | .flitCrcMismatch r b p => Sys2Proof.Machine.execFlitCrcMismatch r b p s
  | .hbmReadService pc k => Sys2Proof.Machine.execHbmReadService pc k s
  | .hbmWriteService pc k => Sys2Proof.Machine.execHbmWriteService pc k s
  | .hbmNarrowWrite pc k => Sys2Proof.Machine.execHbmNarrowWrite pc k s
  | .hbmAtomicAdd pc k => Sys2Proof.Machine.execHbmAtomicAdd pc k s
  | .hbmScrubStep pc => Sys2Proof.Machine.execHbmScrubStep pc s
  | .hbmRefresh pc bank => Sys2Proof.Machine.execHbmRefresh pc bank s
  | .hbmTemperatureRead st temp => Sys2Proof.Machine.execHbmTemperatureRead st temp s
  | .scrubStep b => Sys2Proof.Machine.execScrubStep b s
  | .scrub e t => Sys2Proof.Machine.execScrub e t s
  | .macRemapValidWrite m id v => Sys2Proof.Machine.execMacRemapValidWrite m id v s
  | .fillStep b => Sys2Proof.Machine.execFillStep b s
  | .macCfgWrite m v => Sys2Proof.Machine.execMacCfgWrite m v s
  | .macRbGo m v => Sys2Proof.Machine.execMacRbGo m v s
  | .readback b => Sys2Proof.Machine.execReadback b s
  | .macShadowSync m => Sys2Proof.Machine.execMacShadowSync m s
  | .macSyncRowCopied m => Sys2Proof.Machine.execMacSyncRowCopied m s
  | .macShadowRestore m => Sys2Proof.Machine.execMacShadowRestore m s
  | .macRestoreRetire m => Sys2Proof.Machine.execMacRestoreRetire m s
  | .spdShadowSync b => Sys2Proof.Machine.execSpdShadowSync b s
  | .spdShadowRestore b => Sys2Proof.Machine.execSpdShadowRestore b s
  | .spdShadowDone b => Sys2Proof.Machine.execSpdShadowDone b s
  | .gatherLineFlush b line => Sys2Proof.Machine.execGatherLineFlush b line s
  | .cirrusGroupPrediction b id => Sys2Proof.Machine.execCirrusGroupPrediction b id s
  | .cirThreshWrite b v => Sys2Proof.Machine.execCirThreshWrite b v s
  | .recalibrationChain b ok => Sys2Proof.Machine.execRecalibrationChain b ok s
  | .recalOpen e t => Sys2Proof.Machine.execRecalOpen e t s
  | .recalClose e t => Sys2Proof.Machine.execRecalClose e t s
  | .sparseGroupDeal b id => Sys2Proof.Machine.execSparseGroupDeal b id s
  | .pieceEmit b id k => Sys2Proof.Machine.execPieceEmit b id k s
  | .mergeRelease b id => Sys2Proof.Machine.execMergeRelease b id s
  | .cadenceInEdge t => Sys2Proof.Machine.execCadenceInEdge t s
  | .coastedBoundary t => Sys2Proof.Machine.execCoastedBoundary t s
  | .cadLost t => Sys2Proof.Machine.execCadLost t s
  | .cadCmdSet => Sys2Proof.Machine.execCadCmdSet s
  | .admitRecord e t => Sys2Proof.Machine.execAdmit e t s
  | .deadline e t => Sys2Proof.Machine.execDeadline e t s
  | .tracker e t => Sys2Proof.Machine.execTracker e t s
  | .bistRecord e t => Sys2Proof.Machine.execBistRecord e t s
  | .secureRecord e t => Sys2Proof.Machine.execSecureRecord e t s
  | .wakeRecord e t => Sys2Proof.Machine.execWakeRecord e t s
  | .restRecord e t => Sys2Proof.Machine.execRestRecord e t s
  | .cadenceOutPulse t => Sys2Proof.Machine.execCadenceOutPulse t s
  | .beacon p f t => Sys2Proof.Machine.execBeacon p f t s
  | .laneSignal p lane => Sys2Proof.Machine.execLaneSignal p lane s
  | .equalizeComplete p => Sys2Proof.Machine.execEqualizeComplete p s
  | .alignComplete p lanes => Sys2Proof.Machine.execAlignComplete p lanes s
  | .ts1 p f => Sys2Proof.Machine.execTs1 p f s
  | .ts2 p f => Sys2Proof.Machine.execTs2 p f s
  | .negotiateTimeout p => Sys2Proof.Machine.execNegotiateTimeout p s
  | .messageFlit p f => Sys2Proof.Machine.execMessageFlit p f s
  | .idleFlit p f => Sys2Proof.Machine.execIdleFlit p f s
  | .retry p f => Sys2Proof.Machine.execRetry p f s
  | .retryRepeat p => Sys2Proof.Machine.execRetryRepeat p s
  | .ackTimeout p => Sys2Proof.Machine.execAckTimeout p s
  | .lockLoss p => Sys2Proof.Machine.execLockLoss p s
  | .curCtlTrain p => Sys2Proof.Machine.execCurCtlTrain p s
  | .curCtlEnClear p => Sys2Proof.Machine.execCurCtlEnClear p s
  | .messageRoute k => Sys2Proof.Machine.execMessageRoute k s
  | .handoff k => Sys2Proof.Machine.execHandoff k s
  | .collAdd k => Sys2Proof.Machine.execCollAdd k s
  | .collBcast k => Sys2Proof.Machine.execCollBcast k s
  | .curTimeout k => Sys2Proof.Machine.execCurTimeout k s
  | .cmd0 => Sys2Proof.Machine.execCmd0 s
  | .cmd3 => Sys2Proof.Machine.execCmd3 s
  | .cmd5 arg => Sys2Proof.Machine.execCmd5 arg s
  | .cmd7 arg => Sys2Proof.Machine.execCmd7 arg s
  | .cmd11 => Sys2Proof.Machine.execCmd11 s
  | .cmd15 arg => Sys2Proof.Machine.execCmd15 arg s
  | .cmd19 => Sys2Proof.Machine.execCmd19 s
  | .cmd52 arg => Sys2Proof.Machine.execCmd52 arg s
  | .cmd53 arg data => Sys2Proof.Machine.execCmd53 arg data s
  | .res => Sys2Proof.Machine.execRes s
  | .ioAbort fn => Sys2Proof.Machine.execIoAbort fn s
  | .sdiCmdDbWrite v => Sys2Proof.Machine.execSdiCmdDbWrite v s
  | .sdiRplDbWrite v => Sys2Proof.Machine.execSdiRplDbWrite v s
  | .sdiEvtDbWrite v => Sys2Proof.Machine.execSdiEvtDbWrite v s
  | .replyWrite k => Sys2Proof.Machine.execReplyWrite k s
  | .eventAppend => Sys2Proof.Machine.execEventAppend s
  | .mbxbsyPulseEnd => Sys2Proof.Machine.execMbxbsyPulseEnd s
  | .heartbeat t => Sys2Proof.Machine.execHeartbeat t s
  | .ioReady => Sys2Proof.Machine.execIoReady s
  | .hello => Sys2Proof.Machine.execHello s
  | .negotiate => Sys2Proof.Machine.execNegotiate s
  | .bye => Sys2Proof.Machine.execBye s
  | .identify => Sys2Proof.Machine.execIdentify s
  | .getIdKey => Sys2Proof.Machine.execGetIdKey s
  | .quote => Sys2Proof.Machine.execQuote s
  | .fwLoad => Sys2Proof.Machine.execFwLoad s
  | .fwActivate => Sys2Proof.Machine.execFwActivate s
  | .fwInfo => Sys2Proof.Machine.execFwInfo s
  | .pwrState => Sys2Proof.Machine.execPwrState s
  | .imgList => Sys2Proof.Machine.execImgList s
  | .imgWrite => Sys2Proof.Machine.execImgWrite s
  | .imgPull => Sys2Proof.Machine.execImgPull s
  | .imgDelete => Sys2Proof.Machine.execImgDelete s
  | .imgRead => Sys2Proof.Machine.execImgRead s
  | .shadowSync => Sys2Proof.Machine.execShadowSync s
  | .planLoad => Sys2Proof.Machine.execPlanLoad s
  | .planVerify => Sys2Proof.Machine.execPlanVerify s
  | .planArm => Sys2Proof.Machine.execPlanArm s
  | .planStart => Sys2Proof.Machine.execPlanStart s
  | .planStop => Sys2Proof.Machine.execPlanStop s
  | .planDrain => Sys2Proof.Machine.execPlanDrain s
  | .planStatus => Sys2Proof.Machine.execPlanStatus s
  | .trackerRead => Sys2Proof.Machine.execTrackerRead s
  | .cadStatus => Sys2Proof.Machine.execCadStatus s
  | .cadSetSlot => Sys2Proof.Machine.execCadSetSlot s
  | .slotStatus => Sys2Proof.Machine.execSlotStatus s
  | .submit => Sys2Proof.Machine.execSubmit s
  | .submitDataVisible => Sys2Proof.Machine.execSubmitDataVisible s
  | .fetch => Sys2Proof.Machine.execFetch s
  | .ringSetup => Sys2Proof.Machine.execRingSetup s
  | .hbmWrite => Sys2Proof.Machine.execHbmWrite s
  | .hbmRead => Sys2Proof.Machine.execHbmRead s
  | .linkStatus => Sys2Proof.Machine.execLinkStatus s
  | .setCoord => Sys2Proof.Machine.execSetCoord s
  | .routeWrite => Sys2Proof.Machine.execRouteWrite s
  | .setTag => Sys2Proof.Machine.execSetTag s
  | .groupForm => Sys2Proof.Machine.execGroupForm s
  | .secure => Sys2Proof.Machine.execSecure s
  | .restore => Sys2Proof.Machine.execRestore s
  | .rejoin => Sys2Proof.Machine.execRejoin s
  | .adopt => Sys2Proof.Machine.execAdopt s
  | .secureStatus => Sys2Proof.Machine.execSecureStatus s
  | .bistRun => Sys2Proof.Machine.execBistRun s
  | .bistResult => Sys2Proof.Machine.execBistResult s
  | .repairCommit => Sys2Proof.Machine.execRepairCommit s
  | .pmlRead => Sys2Proof.Machine.execPmlRead s
  | .pmlStatus => Sys2Proof.Machine.execPmlStatus s
  | .pmlClear => Sys2Proof.Machine.execPmlClear s
  | .setTime => Sys2Proof.Machine.execSetTime s
  | .regRead => Sys2Proof.Machine.execRegRead s
  | .regWrite => Sys2Proof.Machine.execRegWrite s
  | .hznRuleWrite => Sys2Proof.Machine.execHznRuleWrite s
  | .hznRuleRead => Sys2Proof.Machine.execHznRuleRead s
  | .hznStatus => Sys2Proof.Machine.execHznStatus s
  | .horizonSample t raw => Sys2Proof.Machine.execHorizonSample t raw s
  | .hznRuleCmdCommit => Sys2Proof.Machine.execHznRuleCmdCommit s
  | .activeRuleCopy => Sys2Proof.Machine.execActiveRuleCopy s
  | .postmarkCommit => Sys2Proof.Machine.execPostmarkCommit s
  | .faultSlotService => Sys2Proof.Machine.execFaultSlotService s
  | .freeze => Sys2Proof.Machine.execFreeze s
  | .freezeCopyComplete => Sys2Proof.Machine.execFreezeCopyComplete s
  | .digestsFormed => Sys2Proof.Machine.execDigestsFormed s
  | .reductionStart => Sys2Proof.Machine.execReductionStart s
  | .ping k => Sys2Proof.Machine.execPing k s
  | .pong k => Sys2Proof.Machine.execPong k s
  | .lost k => Sys2Proof.Machine.execLost k s
  | .statusReq k => Sys2Proof.Machine.execStatusReq k s
  | .status k => Sys2Proof.Machine.execStatus k s
  | .decide k => Sys2Proof.Machine.execDecide k s
  | .zeroed k => Sys2Proof.Machine.execZeroed k s
  | .go k => Sys2Proof.Machine.execGo k s
  | .added k => Sys2Proof.Machine.execAdded k s
  | .pushed k => Sys2Proof.Machine.execPushed k s
  | .ready k => Sys2Proof.Machine.execReady k s
  | .commit k => Sys2Proof.Machine.execCommit k s
  | .secureReq k => Sys2Proof.Machine.execSecureReq k s
  | .parity k => Sys2Proof.Machine.execParity k s
  | .digests k => Sys2Proof.Machine.execDigests k s
  | .secured k => Sys2Proof.Machine.execSecured k s
  | .epochDone k => Sys2Proof.Machine.execEpochDone k s
  | .members k => Sys2Proof.Machine.execMembers k s
  | .adopted k => Sys2Proof.Machine.execAdopted k s
  | .rebuildComplete => Sys2Proof.Machine.execRebuildComplete s
  | .peerPingTimeout c => Sys2Proof.Machine.execPeerPingTimeout c s
  | .statusTimeout c => Sys2Proof.Machine.execStatusTimeout c s
  | .decideTimeout => Sys2Proof.Machine.execDecideTimeout s
  | .bistUnitClaim u => Sys2Proof.Machine.execBistUnitClaim u s
  | .bistUnitComplete u ok => Sys2Proof.Machine.execBistUnitComplete u ok s
  | .bypass => Sys2Proof.Machine.execBypass s
  | .idcode => Sys2Proof.Machine.execIdcode s
  | .samplePreload v => Sys2Proof.Machine.execSamplePreload v s
  | .extest v => Sys2Proof.Machine.execExtest v s
  | .extestPulse v => Sys2Proof.Machine.execExtestPulse v s
  | .extestTrain v => Sys2Proof.Machine.execExtestTrain v s
  | .privateInstruction code => Sys2Proof.Machine.execPrivateInstruction code s
  | .secDebugUnlock v => Sys2Proof.Machine.execSecDebugUnlock v s
  | .registerWrite addr v => Sys2Proof.Machine.execRegisterWrite addr v s
  | .softResetPulseEnd strapBoot strapIo18 feedtag => Sys2Proof.Machine.execSoftResetPulseEnd strapBoot strapIo18 feedtag s
  | .cadenceOutPulseEnd t => Sys2Proof.Machine.execCadenceOutPulseEnd t s
  | .curCtlEnSet p => Sys2Proof.Machine.execCurCtlEnSet p s
  | .hbmRequest k => Sys2Proof.Machine.execHbmRequest k s
  | .spdSyncKibCopied b => Sys2Proof.Machine.execSpdSyncKibCopied b s
  | .restoreComplete => Sys2Proof.Machine.execRestoreComplete s
  | .firmwareVerifiedAtWake => Sys2Proof.Machine.execFirmwareVerifiedAtWake s
  | .badOpcode => Sys2Proof.Machine.execBadOpcode s

end Sys2Proof.Machine
end

