-- ==== Sys2Proof/Safety.lean ====
section
/-! DEFINITION. What counts as a safe state, and the premises that statements about host commands share. -/

namespace Sys2Proof.Machine

/-- Every array has its canonical form (addresses strictly rising, no byte listed that reads as unlisted). -/
def Mems.wf (m : Mems) : Bool :=
  Mem.wf m.rows && Mem.wf m.acc && Mem.wf m.spd && Mem.wf m.wshadow && Mem.wf m.sshadow && Mem.wf m.cirrus && Mem.wf m.hbm
    && Mem.wf m.pigeon && Mem.wf m.hznRam && keysRise m.cirTrim && m.cirTrim.all (fun e => decide (e.2 ≠ (0, 0)))

/-- The state is safe: its arrays have their canonical form. -/
def State.safe (s : State) : Bool := s.mem.wf

/-- Commands in progress, and the bulk transfers of commands, bear numbers that the next command does not take, and no two commands the same. -/
def Mail.fresh (m : Mail) : Bool :=
  m.taken.all (fun x => decide (x.id < m.nextId)) && decide ((m.taken.map Taken.id).Nodup)
    && (m.inq ++ m.outq).all (fun x => decide (x.cmd < m.nextId))

/-- The command at the front of the command ring (R383, R389). -/
def State.front (s : State) : Taken := s.packet.1

/-- The command at the front of the ring has this opcode, Casec takes it (R383) and is granted its reads of the Pigeonhole (R377), it passes the
checks of Table 13.8, and its row of Tables 14.2 to 14.6 accepts the chip state (R407, R409). -/
def State.runs (s : State) (op : Nat) : Bool :=
  decide (s.front.op = op) && s.cmdReady op && s.pghWhole 0 28 && decide (s.cmdCheck s.front s.packet.2.1 s.packet.2.2 = none)
    && decide (s.cmdAccept s.front = none) && s.mail.fresh

/-- The state in which the command at the front is in progress (R383, R391). -/
def State.took (s : State) : State :=
  { s with
      sdio := { s.sdio with cmdCi := (s.sdio.cmdCi + 1) % 64, clash := [] },
      mail := { s.mail with
        nextId := s.mail.nextId + 1, expSeq := (s.mail.expSeq + 1) % 2 ^ 32, taken := s.mail.taken ++ [s.front] } }

/-- From s to t the command at the front of the ring was consumed and answered: one final reply with its opcode, TAG and SEQ waits behind those that
waited, and it is not in progress (R384, R390 to R392). -/
def State.answered (s t : State) (status : Nat) (res : List Byte) : Prop :=
  t.sdio.cmdCi = (s.sdio.cmdCi + 1) % 64 ∧ t.mail.taken = s.mail.taken
    ∧ t.mail.replies = s.mail.replies ++ [replyBytes s.replyVer s.front.op s.front.tag s.front.seq status res]

/-- From s to t the command at the front of the ring was consumed and is in progress, without its final reply (R383, R392). -/
def State.underway (s t : State) : Prop :=
  t.sdio.cmdCi = (s.sdio.cmdCi + 1) % 64 ∧ t.mail.taken.map Taken.id = s.mail.taken.map Taken.id ++ [s.mail.nextId]

/-- A version that a HELLO offers (R393). -/
def Taken.offers (t : Taken) (v : Nat) : Prop := ∃ i, i < t.fld 0 1 ∧ 256 * t.fld (4 + 2 * i) 1 + t.fld (5 + 2 * i) 1 = v

/-- The FETCH at the front of the ring with the address it reads from noted (R427). -/
def State.fetching (s : State) (g : Ring) : Taken :=
  { s.front with aux := [s.front.aux.getD 0 0, g.base + (s.front.fld 8 6 % g.count) * g.stride + s.front.fld 16 4] }

/-- No link on the route from one end of the mesh to another is isolated (R316). -/
def State.pathOpen (s : State) (src dst : Nat) : Bool := !s.cutRoute src dst

/-- A flit is a good control frame with this CTYPE (R340, R341). -/
def goodFrame (f : Flit) (ty : Nat) : Prop := flitBad f = false ∧ flitKind f = 2 ∧ flitCtype f = ty

/-- From s to t no Courier port but p has changed. -/
def State.portsKept (s t : State) (p : Nat) : Prop := ∀ q, q ≠ p → t.port q = s.port q

/-- No pseudo-channel's queue has changed from s to t. -/
def State.queuesKept (s t : State) : Prop := ∀ q, t.pcQueue q = s.pcQueue q

/-- A line of HBM exists, its requester may reach it and no bit of it is flipped (R318, R328, R330). -/
def State.lineGood (s : State) (a src : Nat) (wr : Bool) : Bool :=
  decide (a < hbmTop) && s.hbmAllowed a src wr && (List.range 8).all (fun (i : Nat) => decide (flipsIn s.flips.hbm (a / 8 + i) = 0))

/-- Event e, of kind k, is the next of its slot and its phase has come (R297). -/
def State.dueNow (u : State) (e k : Nat) : Bool :=
  u.cadLive && !u.slotLost && decide ((firstEv u.unfired).map Prod.snd = some e) && decide ((u.evRec e).kind = k)
    && decide ((u.evRec e).phase ≤ u.phase)

/-- Event e noted as fired. -/
def State.noted (u : State) (e : Nat) : State := { u with cad := { u.cad with fired := u.cad.fired ++ [e] } }

/-- The parameters of a PML_CLEAR hold the current nonce and its signature, with SERIAL, under the root key in effect (R433). -/
def State.clearGood (s : State) (t : Taken) : Bool :=
  decide (slice t.par 0 16 = s.clearNonce) && (match s.rootKey with
    | some k => lmsVerify k (t.par.drop 16) (slice t.par 0 16 ++ serialBytes)
    | none => false)

/-- From s to t no register changes but those at the addresses listed. -/
def State.regsKept (s t : State) (as : List Nat) : Prop := ∀ a, a ∉ as → t.reg a = s.reg a

/-- From s to t nothing stands otherwise behind the registers of any block but b. -/
def State.othersKept (s t : State) (b : Nat) : Prop := ∀ q, q ≠ b → t.bx q = s.bx q

/-- No line of block b's gather buffer begins in the n bytes from o on. -/
def State.ungathered (s : State) (b o n : Nat) : Prop := ∀ g ∈ (s.bx b).gather, g.line < o ∨ o + n ≤ g.line

/-- No bit is flipped in the n SEC-DED words of block b's scratchpad from byte o on. -/
def State.spdClean (s : State) (b o n : Nat) : Prop := ∀ i < n, flipsIn s.flips.spd (65536 * b + o / 8 + i) = 0

/-- A Nimbus message with operation op, which the engine takes (R456), stands at position k of the inbox. -/
def State.nimGets (s : State) (k op : Nat) (m : CMsg) : Prop :=
  (s.ownMsg k 7).map Prod.snd = some m ∧ leAt m.data 0 1 = op ∧ s.nimEn = true ∧ leAt m.data 2 2 = s.nimGroup

/-- The state in which message m at position k has left the inbox and, where another device sent it, is acknowledged (R456). -/
def State.nimTook (s : State) (k : Nat) (m : CMsg) : State :=
  if m.src = s.ownCoord then s.takeInbox k else (s.takeInbox k).originate (answerOf s.ownCoord m [] false)

/-- From s to t one message more waits for its routing: a Nimbus message with operation op to the device at coordinate c. -/
def State.nimSent (s t : State) (c op : Nat) : Prop :=
  ∃ x : CMsg, t.cour.inbox = s.cour.inbox ++ [(255, x)] ∧ x.dst = c ∧ x.mtype = 7 ∧ leAt x.data 0 1 = op

/-- A line of HBM that the chip hub reaches at once: no isolated link lies between the two, either way, and no request waits at the pseudo-channel that
holds it (R316, R321). -/
def State.hubFree (s : State) (a : Nat) : Prop :=
  s.pathOpen 272 (1024 + hbmPc a) = true ∧ s.pathOpen (1024 + hbmPc a) 272 = true ∧ s.pcQueue (hbmPc a) = []

/-- Every line of the n bytes from a on, a multiple of 64, can be read and written through the hub, which reaches it at once, and no chunk of a
collective is due. -/
def State.hubGood (s : State) (a n : Nat) : Prop :=
  s.collDue = none ∧ ∀ i < ceilDiv n 64, s.lineGood (a + 64 * i) 272 true = true ∧ s.lineGood (a + 64 * i) 272 false = true ∧ s.hubFree (a + 64 * i)

/-- The operations of Tables 4.2 and 5.2 as commands, each with its OP code. -/
def opRowsOfTable : List (Nat × (Nat → Nat → Instr)) :=
  [(0x01, Instr.fwd), (0x02, Instr.trn), (0x03, Instr.resWrite), (0x04, Instr.resMerge), (0x05, Instr.update), (0x06, Instr.pass), (0x07, Instr.rowfin),
    (0x10, Instr.sfwd), (0x11, Instr.strn), (0x12, Instr.sexpand), (0x13, Instr.spack), (0x20, Instr.copy), (0x21, Instr.tcopy), (0x22, Instr.pcopy),
    (0x23, Instr.atomic), (0x24, Instr.waitcnt)]

/-- Context c of block b has its pass up to date, and the operation that it issues next is of kind k. -/
def State.opNext (s : State) (b c k : Nat) : Prop :=
  b < 256 ∧ c < 32 ∧ s.ctxTidy b c = s ∧ opKind (ctxOp s.img b c (s.ctx b c).opn) = k

/-- Context c of block b may take its next operation, for result set rs: it has a pass under way, its block runs, and the shape of rs fits (R113, R215). -/
def State.opReady (s : State) (b c : Nat) (rs : ResultSet) : Prop :=
  (s.ctx b c).running = true ∧ ((s.ctx b c).st = .ready ∨ (s.ctx b c).st = .wait) ∧ s.compOn b = true ∧ s.ctxEnabled b c = true
    ∧ b / 16 ∉ s.power.restoring ∧ s.setOf ((s.ctx b c).taken - 1) = some rs
    ∧ ((s.ctx b c).iter = 0 → shapeOk s.img b (ctxOp s.img b c (s.ctx b c).opn) rs = true)

/-- Issue i is the only work of block b, nothing of block b's stores or requests waits, and i has every line of its inputs and no bad one; it
waits for no prediction or expansion. -/
def State.lone (s : State) (b : Nat) (i : Issue) : Prop :=
  b < 256 ∧ s.compOn b = true ∧ (s.bx b).issues = [i] ∧ (s.bx b).probes = [] ∧ (s.bx b).outbox = [] ∧ (s.bx b).gather = [] ∧ i.faulted = false
    ∧ i.done = false ∧ i.path = 0 ∧ opPred i.word = false ∧ s.staged b i = true ∧ s.scaleBad b i = false ∧ s.boundBad b i = none

/-- The bytes that storing a record at position p of descriptor d sets, as cells (R186). -/
def State.recCells (s : State) (b : Nat) (d : Desc) (p : List Int) (data : List Byte) : List Cell :=
  (((recPos d p data.length).zip (List.range (ceilDiv (8 * data.length) (fmtBits d.fmt)))).map (fun e =>
    (e.1, bits (leNat data) (fmtBits d.fmt * e.2) (fmtBits d.fmt)))).flatMap (fun e => elemWrite s.img s.ownCoord b d e.1 e.2)

/-- The bytes that a copy or an ATOMIC sets, as cells: its elements in destination descriptor d (R161, R165). -/
def State.copyCells (s : State) (b : Nat) (i : Issue) (d : Desc) : List Cell :=
  (s.copyElems b i).flatMap (fun e => elemWrite s.img s.ownCoord b d e.1 e.2)

/-- The tile that a sparse operation of its own needs is good: SEXPAND names a macro and the value section of the tile that it stores matches its CRC,
and the body slot of SPACK holds the tile it makes (R228, R252). -/
def State.tileGood (s : State) (b : Nat) (i : Issue) : Prop :=
  (opKind i.word = 0x12 → opMacros i.word ≠ 0 ∧ (s.sparseTile b i 4 = [] ∨ valOk (s.sparseTile b i 4) = true))
    ∧ (opKind i.word = 0x13 → entLen (s.sparseEnt b i 4) ≠ 0 ∧ (s.sparseTile b i 5 = []
      ∨ (packTile (opPrec s.img b i.word) (s.sparseTile b i 5) []).length / 64 ≤ entLen (s.sparseEnt b i 4)))

/-- Every byte of descriptor d's elements that lies in block b's own scratchpad has a bank (R145). -/
def State.banked (s : State) (b : Nat) (d : Desc) : Prop :=
  ∀ p ks k, inBounds d p = true → elemKeys s.img s.ownCoord b d p = some ks → k ∈ ks → ownLine b (lineOf k) = true → spdOff (lineOf k) < 0x60000

/-- Byte x of a body at OFFSET `off` of directory d has a bank, if it lies in block b's own scratchpad (R145). -/
def State.bodyBanked (s : State) (b : Nat) (d : Desc) (off x : Nat) : Prop :=
  ∀ k, bodyKey s.img s.ownCoord b d off x = some k → ownLine b (lineOf k) = true → spdOff (lineOf k) < 0x60000

/-- What issue i stores in block b's own scratchpad has a bank: its results, their side lists and scale records, the tiles of bound ones, and the body
of SPACK. -/
def State.banksAll (s : State) (b : Nat) (i : Issue) : Prop :=
  (∀ sl ∈ [1, 3, 4, 5], s.banked b (s.iDesc b i sl) ∧ s.banked b (cpDesc i.word (s.iDesc b i sl))
      ∧ s.banked b (descAt s.img b (s.iDesc b i sl).side) ∧ s.banked b (descAt s.img b (s.iDesc b i sl).sstream)
      ∧ ∀ k, s.binding b (opDesc i.word sl) = some k → s.banked b (s.bindDir b k) ∧ ∀ q x, s.bodyBanked b (s.bindDir b k) (s.bodySlot b k q) x)
    ∧ (opKind i.word = 0x13 → ∀ x < 64 * entLen (s.sparseEnt b i 4), s.bodyBanked b (s.iDesc b i 4) (entOff (s.sparseEnt b i 4)) x)

/-- The messages that an ATOMIC sends for the elements of one line of its source: one for each line of its destination, of which the last counts (R165;
log entry 86). -/
def State.atomMsgs (s : State) (b : Nat) (i : Issue) (es : List (List Int × Nat)) : List Msg :=
  let cells := es.flatMap (fun e => elemWrite s.img s.ownCoord b (s.iDesc b i 1) e.1 e.2)
  let ls := dedup (cells.map (fun c => lineOf c.1))
  ls.map (fun l => ⟨b, spdBlk l, spdBlk l, .atomic (spdOff l) (runData cells l 1) (cpAfmt i.word)
    (if ls.getLast? = some l then (if cpCntEn i.word then some (cpCnt i.word) else none) else none) i.id⟩)

end Sys2Proof.Machine
end

