-- ==== Sys2Proof/Certificates/Slice0/Obligations.lean ====
section
/-! DEFINITION. The statements for the provers. -/

open Sys2Proof Sys2Proof.Machine

/-- A step takes the command at the front of the queue and answers what that command does to the state with the rest of the queue. -/
def Obligations.StepRunsFrontCommand : Prop :=
  ∀ (c : Instr) (q : List Instr) (s : State), s.pending = c :: q → step s = exec c { s with pending := q }

/-- Every array keeps its canonical form through every step (the form is the model's own; log entries 3, 4). -/
def Obligations.EveryStepKeepsArraysCanonical : Prop :=
  ∀ s t : State, s.safe = true → step s = .next t → t.safe = true

/-- Commands in progress keep numbers of their own through every step: the premise `Mail.fresh` of the statements about host commands (the numbers are the
model's own). -/
def Obligations.CommandNumbersStayFresh : Prop :=
  ∀ s t : State, s.mail.fresh = true → step s = .next t → t.mail.fresh = true

/-- What reset leaves: BOOT from OFF with the transition posted (R387), only PD00 on (R524), start-up at stage 1 (R528), no session, empty rings (R388),
every array in canonical form and no command in progress. -/
def Obligations.ResetLeavesBootAtStageOne : Prop :=
  State.reset.chip.st = .boot ∧ State.reset.chip.prev = .off ∧ State.reset.on = 1
    ∧ State.reset.getF chipBase F.CHIP_BOOT_STAGE = 1 ∧ State.reset.mail.sess = false ∧ State.reset.sdio.cmdDb = State.reset.sdio.cmdCi
    ∧ State.reset.mail.posts.map (fun p => (p.code, p.source, p.arg)) = [(1, 2, 1)] ∧ State.reset.safe = true ∧ State.reset.mail.fresh = true ∧ State.reset.pending = []

/-- BYE answers OK and then closes the session; commands in progress stay, and the final reply of each then carries version 1.0 (R416). -/
def Obligations.ByeClosesTheSession : Prop :=
  ∀ s : State, s.runs 0x0003 = true → s.front.ok 0 [] = true →
    ∃ t, exec .bye s = .next t ∧ s.answered t 0 [] ∧ t.mail.sess = false ∧ { t with sdio := s.sdio, mail := s.mail } = s
      ∧ ∀ x ∈ s.mail.taken, ∀ (status : Nat) (res : List Byte),
          (t.finish x.id status res).mail.replies = t.mail.replies ++ [replyBytes 0x100 x.op x.tag x.seq status res]

/-- A predictor row with more than 32 escapes raises no fault: its group is predicted all active and counted as such (R267), when the array has
predicted the groups of the issues that reached it before (R265). -/
def Obligations.CrowdedPredictorRowsAreAllActive : Prop :=
  ∀ (s : State) (b id r : Nat) (i : Issue), s.issueOf b id = some i → s.arrayHead b = some id → s.compOn b = true → opPred i.word = true → i.faulted = false → i.done = false →
    i.eng.predOk = false → s.predStaged b i i.eng.grp = true → r ∈ s.predRows b i i.eng.grp → 32 < (s.predEscapes b i r).length →
    ∃ (u : State) (x : Issue), exec (.cirrusGroupPrediction b id) s = .next (u.settleBlk b) ∧ u.issueOf b id = some x ∧ x.faulted = false
      ∧ x.eng.predOk = true ∧ x.eng.predicted = List.range (accOuts i.word (opPrec s.img b i.word))
      ∧ u.getF (blkBase b) F.CIR_ALLACT_GROUPS = satCount F.CIR_ALLACT_GROUPS.width (s.getF (blkBase b) F.CIR_ALLACT_GROUPS) 1
      ∧ (u.bx b).ctxs = (s.bx b).ctxs ∧ (u.bx b).eslot = (s.bx b).eslot ∧ u.errs = s.errs ∧ u.chip = s.chip
      ∧ u.isF (blkBase b) F.BLK_FAULT_STAT_VALID = s.isF (blkBase b) F.BLK_FAULT_STAT_VALID

/-- HELLO opens a session at the highest version that both sides speak (R393); NEGOTIATE changes version and event mask, whose bit 1 stays 1 (R415); a
command whose opcode the session version does not define is answered BAD_OPCODE, and the expected SEQ advances (R391). None touches anything but the
mailbox. -/
def Obligations.SessionCommands : Prop :=
  (∀ (s : State) (v : Nat), s.runs 0x0001 = true → s.front.ok (4 + 2 * s.front.fld 0 1) [(1, 3)] = true → 0 < s.front.fld 0 1 →
      s.front.fld 0 1 ≤ 8 → v ∈ [0x100, 0x101, 0x200] → s.front.offers v →
      (∀ w ∈ [0x100, 0x101, 0x200], s.front.offers w → w ≤ v) →
      ∃ t, exec .hello s = .next t ∧ t.mail.sess = true ∧ t.mail.ver = v ∧ t.mail.expSeq = (s.front.seq + 1) % 2 ^ 32
        ∧ t.mail.mask = 0xFFFFFFFF ∧ t.mail.taken = s.mail.taken ∧ t.mail.replies.length = s.mail.replies.length + 1
        ∧ { t with sdio := s.sdio, mail := s.mail } = s)
  ∧ (∀ s : State, s.runs 0x0002 = true → s.front.ok 4 [(2, 2)] = true → 256 * s.front.fld 0 1 + s.front.fld 1 1 ∈ [0x100, 0x101, 0x200] →
      ∃ t, exec .negotiate s = .next t ∧ t.mail.sess = true ∧ t.mail.ver = 256 * s.front.fld 0 1 + s.front.fld 1 1
        ∧ t.mail.mask = (if 0x101 ≤ s.front.ver ∧ 8 ≤ s.front.par.length then s.front.fld 4 4 else 0xFFFFFFFF) ||| 2
        ∧ t.mail.taken = s.mail.taken ∧ t.mail.replies.length = s.mail.replies.length + 1 ∧ { t with sdio := s.sdio, mail := s.mail } = s)
  ∧ (∀ s : State, s.cmdReady s.front.op = true → s.pghWhole 0 28 = true → s.packet.2.1 ≤ 4064 → s.packet.2.2 = true → s.mail.sess = true → s.front.op ≠ 1 →
    s.front.ver = s.mail.ver → s.front.seq = s.mail.expSeq → opDefined s.front.op s.mail.ver = false →
    ∃ t, exec .badOpcode s = .next t ∧ s.answered t 0x0102 [] ∧ t.mail.expSeq = (s.mail.expSeq + 1) % 2 ^ 32
      ∧ { t with sdio := s.sdio, mail := s.mail } = s)

/-- Readings by the host are answered OK with the bytes that Tables 14.2 to 14.6, 14.5 and 19.4 lay out, and change nothing but the mailbox (R414, R418,
R423, R429, R430, R510, R568): identity, firmware and power; plans, slots and images; links, securing, self-test, postmarks and Horizon. The units'
registers that IDENTIFY and LINK_STATUS show read 0 while their domain is off. That PML_READ returns zeros for a record of the primary store while PD03 is
off, and for a slot without a record, is log entry 43. -/
def Obligations.HostReadings : Prop :=
  (∀ s : State, s.runs 0x0101 = true → s.front.ok 0 [] = true →
      ∃ t, exec .identify s = .next t ∧ { t with sdio := s.sdio, mail := s.mail } = s
        ∧ s.answered t 0 (leBytes 8 0x363930342D584853 ++ leBytes 8 0 ++ leBytes 2 0x3142 ++ leBytes 2 0 ++ leBytes 8 Config.serialFuse.toNat
            ++ leBytes 4 s.pml.bootCount ++ leBytes 4 (if s.romServes = true then 0 else s.fwVersion) ++ leBytes 4 s.store.rollback
            ++ leBytes 2 (if s.pdOn 3 = true then s.getF curShBase F.CUR_COORD_COORD else 0)
            ++ leBytes 1 (if s.pdOn 3 = true then s.getF nimBase F.NIM_TAG_TAG + 16 * s.getF nimBase F.NIM_TAG_BY_CMD else 0)
            ++ leBytes 1 s.straps ++ padTo 32 Config.rootHashFuse))
  ∧ (∀ s : State, s.runs 0x0102 = true → s.front.ok 0 [] = true →
      ∃ t, exec .getIdKey s = .next t ∧ { t with sdio := s.sdio, mail := s.mail } = s
        ∧ s.answered t 0 (beBytes 4 7 ++ beBytes 4 3 ++ idIdent ++ idNode 15 1 ++ leBytes 4 (32768 - s.store.idNext)))
  ∧ (∀ s : State, s.runs 0x0203 = true → s.front.ok 0 [] = true →
      ∃ t, exec .fwInfo s = .next t ∧ { t with sdio := s.sdio, mail := s.mail } = s
        ∧ s.answered t 0 (leBytes 4 s.fwVersion ++ leBytes 4 (leAt s.store.staged 4 4) ++ leBytes 4 (leAt s.store.active 4 4)
            ++ (if s.fwImage = [] then List.replicate 32 0 else sha256 s.fwImage)))
  ∧ (∀ s : State, s.runs 0x0301 = true → s.front.ok 0 [] = true →
      ∃ t x, exec .pwrState s = .next t ∧ { t with sdio := s.sdio, mail := s.mail } = s ∧ s.answered t 0 (leBytes 8 s.onMask ++ leBytes 8 x)
        ∧ ∀ d, x.testBit d = true ↔ d < 40 ∧ (d ∈ s.power.settling ∨ ∃ e ∈ s.power.plan, e.1 = d))
  ∧ (∀ s : State, s.runs 0x0507 = true → s.front.ok 0 [] = true →
      ∃ t, exec .planStatus s = .next t ∧ { t with sdio := s.sdio, mail := s.mail } = s
        ∧ s.answered t 0 (leBytes 4 (leAt s.img 12 4) ++ leBytes 4 (leAt (s.job.staged.getD []) 12 4)
            ++ leBytes 1 (b2n s.job.staged.isSome + 2 * b2n (s.job.staged.isSome && s.job.verified) + 4 * b2n (!s.img.isEmpty)) ++ leBytes 3 0
            ++ leBytes 4 (if s.job.j = 0 then 0 else s.stepOf (s.job.j - 1) s.job.lastAdmit) ++ leBytes 6 s.job.lastAdmit
            ++ leBytes 6 s.job.lastDone ++ (if s.img = [] then List.replicate 32 0 else sha256 s.img)))
  ∧ (∀ s : State, s.runs 0x0508 = true → s.front.ok 4 [] = true → 0 < s.front.fld 2 2 → s.front.fld 2 2 ≤ 508 →
      s.front.fld 0 2 + s.front.fld 2 2 ≤ s.job.trk.length →
      ∃ t, exec .trackerRead s = .next t ∧ { t with sdio := s.sdio, mail := s.mail } = s
        ∧ s.answered t 0 ((List.range (s.front.fld 2 2)).flatMap (fun (i : Nat) =>
            let e := s.job.trk.getD (s.front.fld 0 2 + i) ⟨[], 0, 0⟩
            leBytes 3 (trkTid (trkRec s.img (s.front.fld 0 2 + i))) ++ leBytes 1 e.win.length ++ leBytes 4 e.clip.toNat)))
  ∧ (∀ s : State, s.runs 0x0601 = true → s.front.ok 0 [] = true →
      ∃ t, exec .cadStatus s = .next t ∧ { t with sdio := s.sdio, mail := s.mail } = s
        ∧ s.answered t 0 (leBytes 6 s.slotNo ++ leBytes 2 s.phase ++ leBytes 4 s.meanPeriod
            ++ leBytes 1 (s.getF cadBase F.CAD_PHASE_COAST + 2 * s.getF cadBase F.CAD_PHASE_LOST) ++ leBytes 3 0))
  ∧ (∀ s : State, s.runs 0x0603 = true → s.front.ok 8 [] = true → 0 < s.front.fld 6 2 → s.front.fld 6 2 ≤ 63 →
      ∃ (t : State) (rec : Nat → List Byte), exec .slotStatus s = .next t ∧ { t with sdio := s.sdio, mail := s.mail } = s
        ∧ s.answered t 0 ((List.range (s.front.fld 6 2)).flatMap (fun (i : Nat) => rec ((s.front.fld 0 6 + i) % 2 ^ 48)))
        ∧ (∀ n, (s.slotRec n = none ∨ 1024 ≤ (s.slotNo + 2 ^ 48 - n) % 2 ^ 48) → rec n = leBytes 6 n ++ leBytes 2 0x0202 ++ List.replicate 56 0)
        ∧ (∀ n e, s.slotRec n = some e → (s.slotNo + 2 ^ 48 - n) % 2 ^ 48 < 1024 →
            rec n = leBytes 6 e.slot ++ leBytes 2 e.status ++ leBytes 1 e.flags ++ leBytes 1 e.late ++ leBytes 2 0 ++ leBytes 4 e.step
              ++ leBytes 4 e.allact ++ leBytes 4 e.predicted ++ leBytes 4 e.skipped ++ leBytes 4 e.doubtful ++ leBytes 4 e.audited
              ++ leBytes 4 e.missed ++ leBytes 6 (if e.status = 1 then 0 else e.doneSlot) ++ leBytes 2 (if e.status = 1 then 0 else e.donePhase)
              ++ List.replicate 16 0))
  ∧ (∀ s : State, s.runs 0x0401 = true → s.front.ok 4 [] = true →
      ∃ t, exec .imgList s = .next t ∧ { t with sdio := s.sdio, mail := s.mail } = s
        ∧ s.answered t 0 (leBytes 4 s.store.imgs.length ++ leBytes 4 (min 84 (s.store.imgs.length - s.front.fld 0 4))
            ++ ((s.store.imgs.drop (s.front.fld 0 4)).take 84).flatMap (fun r => leBytes 4 r.id ++ leBytes 1 r.kind ++ leBytes 1 0 ++ leBytes 2 r.first
                ++ leBytes 2 r.count ++ leBytes 2 0 ++ leBytes 4 r.len ++ padTo 32 r.sha)))
  ∧ (∀ s : State, s.runs 0x0801 = true → s.front.ok 0 [] = true →
      ∃ t, exec .linkStatus s = .next t ∧ { t with sdio := s.sdio, mail := s.mail } = s
        ∧ s.answered t 0 ((List.range 16).flatMap (fun (p : Nat) =>
            [F.CUR_STAT_STATE.off, F.CUR_PEER_COORD.off, F.CUR_FEAT_LO_FEAT.off, F.CUR_FEAT_HI_FEAT.off].flatMap (fun o =>
              let w := (s.reg (curBase p + o)).toNat
              leBytes 4 (if s.pdOn (if p < 8 then 38 else 39) = true then (if o = F.CUR_STAT_STATE.off then s.curStat p w else w) else 0)))))
  ∧ (∀ s : State, s.runs 0x0905 = true → s.front.ok 0 [] = true →
      ∃ t, exec .secureStatus s = .next t ∧ { t with sdio := s.sdio, mail := s.mail } = s
        ∧ s.answered t 0 (leBytes 4 (s.getF nimBase F.NIM_EPOCH_EPOCH) ++ leBytes 6 s.nim.epochSlot
            ++ leBytes 2 (s.getF nimBase F.NIM_GROUP_GROUP_ID) ++ leBytes 1 s.ownIdx ++ leBytes 1 (s.getF nimBase F.NIM_GROUP_K) ++ leBytes 2 0
            ++ padTo 32 s.nim.root))
  ∧ (∀ s : State, s.runs 0x0A02 = true → s.front.ok 4 [] = true → 0 < s.front.fld 2 2 → s.front.fld 2 2 ≤ 127 → s.front.fld 0 2 < 1024 →
      ∃ t, exec .bistResult s = .next t ∧ { t with sdio := s.sdio, mail := s.mail } = s
        ∧ s.answered t 0 ((List.range (s.front.fld 2 2)).flatMap (fun (i : Nat) =>
            padTo 32 (SMap.get [] s.bist.results ((s.front.fld 0 2 + i) % 1024)))))
  ∧ (∀ s : State, s.runs 0x0B01 = true → s.front.ok 4 [] = true → 0 < s.front.fld 2 1 → s.front.fld 2 1 ≤ 15 → s.front.fld 3 1 = 0 →
      s.front.fld 0 2 + s.front.fld 2 1 ≤ 8192 →
      ∃ t, exec .pmlRead s = .next t ∧ { t with sdio := s.sdio, mail := s.mail } = s
        ∧ s.answered t 0 ((List.range (s.front.fld 2 1)).flatMap (fun (i : Nat) =>
            if s.pdOn 3 = true then padTo 256 (SMap.get [] s.pml.slots (s.front.fld 0 2 + i)) else List.replicate 256 0)))
  ∧ (∀ s : State, s.runs 0x0B01 = true → s.front.ok 4 [] = true → 0 < s.front.fld 2 1 → s.front.fld 2 1 ≤ 15 → s.front.fld 3 1 = 1 →
      s.front.fld 0 2 + s.front.fld 2 1 ≤ 64 →
      ∃ t, exec .pmlRead s = .next t ∧ { t with sdio := s.sdio, mail := s.mail } = s
        ∧ s.answered t 0 ((List.range (s.front.fld 2 1)).flatMap (fun (i : Nat) =>
            padTo 256 (((s.pml.words.find? (fun w => decide (w.1 = s.front.fld 0 2 + i))).map Prod.snd).getD []))))
  ∧ (∀ s : State, s.runs 0x0B02 = true → s.front.ok 0 [] = true →
      ∃ t, exec .pmlStatus s = .next t ∧ { t with sdio := s.sdio, mail := s.mail } = s
        ∧ s.answered t 0 (leBytes 2 s.pml.slots.length ++ leBytes 2 s.pml.newest ++ leBytes 2 (s.pml.pinned.getD 0xFFFF)
            ++ leBytes 1 s.pml.words.length ++ leBytes 1 0 ++ leBytes 4 s.pml.bootCount ++ s.clearNonce))
  ∧ (∀ s : State, s.runs 0x0D02 = true → s.front.ok 2 [] = true → 0 < s.front.fld 1 1 → s.front.fld 0 1 + s.front.fld 1 1 ≤ 64 →
      ∃ t, exec .hznRuleRead s = .next t ∧ { t with sdio := s.sdio, mail := s.mail } = s
        ∧ s.answered t 0 ((List.range (s.front.fld 1 1)).flatMap (fun (i : Nat) => (List.range 4).flatMap (fun (w : Nat) =>
            leBytes 4 (s.reg (hznBase + 0x800 + 0x10 * (s.front.fld 0 1 + i) + 4 * w)).toNat))))
  ∧ (∀ s : State, s.runs 0x0D03 = true → s.front.ok 0 [] = true →
      ∃ t, exec .hznStatus s = .next t ∧ { t with sdio := s.sdio, mail := s.mail } = s
        ∧ s.answered t 0 (leBytes 1 (s.getF hznBase F.HZN_RISK_RISK) ++ leBytes 1 (s.getF hznBase F.HZN_RISK_LEVEL) ++ leBytes 2 0
            ++ (List.range 64).flatMap (fun (c : Nat) => leBytes 4 (s.getF hznBase (F.HZN_CH_VAL_F.idx (0x10 * c))))))

/-- PLAN_LOAD arms its bulk phase (R436); PLAN_VERIFY runs the loader checks on the staged plan and answers OK or the failure (R220, R436), and notes
whether the plan is verified; neither touches the installed plan. -/
def Obligations.PlanLoadAndVerify : Prop :=
  (∀ s : State, s.runs 0x0501 = true → s.front.okBulk 0 67108864 8 [] = true → s.front.bulkLen % 64 = 0 →
      ∃ t, exec .planLoad s = .next t ∧ s.underway t ∧ t.mail.inq = s.mail.inq ++ [⟨s.mail.nextId, s.front.bulkLen, []⟩]
        ∧ { t with sdio := s.sdio, mail := s.mail, free := s.free } = s)
  ∧ (∀ (s : State) (img : List Byte), s.runs 0x0502 = true → s.front.ok 0 [] = true → s.job.staged = some img →
      (s.took.verifyPlan img).1 = none →
      ∃ t, exec .planVerify s = .next t ∧ s.answered t 0 [] ∧ t.job = { s.job with verified := true }
        ∧ { t with sdio := s.sdio, mail := s.mail, job := s.job } = s)
  ∧ (∀ (s : State) (img : List Byte) (code : Nat) (f : PlanFail), s.runs 0x0502 = true → s.front.ok 0 [] = true → s.job.staged = some img →
      (s.took.verifyPlan img).1 = some (code, f) →
      ∃ t, exec .planVerify s = .next t ∧ s.answered t code (leBytes 2 f.1 ++ leBytes 2 f.2.1 ++ leBytes 4 f.2.2)
        ∧ t.job = { s.job with verified := false } ∧ { t with sdio := s.sdio, mail := s.mail, job := s.job, free := s.free } = s)

/-- PLAN_ARM installs the staged plan, verified before or by the command itself, and with none staged arms the installed plan again without a
verification (R200, R222, R436): slot-status records are cleared, and a plan newly installed has no rings (R425). Where every macro that a WEIGHTS
record names and whose domain is on holds its image, the device is ARMED and the command answered; else it stays READY with a restore running on each
macro that does not. A plan that fails its verification is not installed. PLAN_START, and in RUNNING PLAN_STOP, reply PENDING and keep their command for the
next slot boundary (R437). PLAN_STOP in ARMED discards the plan and leads to READY; in FAULTED it leaves the installed plan, and the pinned fault no
longer stands (Table 1.12, R437, R439; the last is a reading of the model's); both discard the result sets not complete. PLAN_DRAIN, while no FETCH
waits, leads to DRAINING and keeps its command, or, with every result set complete, on to ARMED with its reply (R437). -/
def Obligations.PlanRuns : Prop :=
  (∀ (s : State) (img : List Byte), s.runs 0x0503 = true → s.front.ok 0 [] = true → s.job.staged = some img →
      (s.job.verified = true ∨ (s.took.verifyPlan img).1 = none) →
      ∃ t, exec .planArm s = .next t ∧ t.img = img ∧ t.job.staged = none ∧ t.job.verified = false ∧ t.job.inRing = none ∧ t.job.outRing = none
        ∧ t.job.recs = [] ∧ t.sets = []
        ∧ (({ s with img := img } : State).unheld = [] → t.chip.st = .armed ∧ t.chip.prev = .ready
            ∧ s.answered t 0 (leBytes 4 (planIdOf img) ++ leBytes 2 0))
        ∧ (({ s with img := img } : State).unheld ≠ [] → t.chip = s.chip ∧ s.underway t
            ∧ ∀ m ∈ ({ s with img := img } : State).unheld, (t.mx m).shop.isSome = true))
  ∧ (∀ s : State, s.runs 0x0503 = true → s.front.ok 0 [] = true → s.job.staged = none → s.img ≠ [] →
      ∃ t, exec .planArm s = .next t ∧ t.img = s.img ∧ t.job.inRing = s.job.inRing ∧ t.job.outRing = s.job.outRing ∧ t.job.recs = []
        ∧ (s.unheld = [] → t.chip.st = .armed ∧ t.chip.prev = .ready ∧ s.answered t 0 (leBytes 4 (planIdOf s.img) ++ leBytes 2 0))
        ∧ (s.unheld ≠ [] → t.chip = s.chip ∧ s.underway t ∧ ∀ m ∈ s.unheld, (t.mx m).shop.isSome = true))
  ∧ (∀ (s : State) (img : List Byte) (code : Nat) (f : PlanFail), s.runs 0x0503 = true → s.front.ok 0 [] = true → s.job.staged = some img →
      s.job.verified = false → (s.took.verifyPlan img).1 = some (code, f) →
      ∃ t, exec .planArm s = .next t ∧ s.answered t code (leBytes 2 f.1 ++ leBytes 2 f.2.1 ++ leBytes 4 f.2.2)
        ∧ { t with sdio := s.sdio, mail := s.mail, free := s.free } = s)
  ∧ (∀ s : State, s.runs 0x0504 = true → s.front.ok 0 [] = true →
      ∃ t, exec .planStart s = .next t ∧ s.underway t ∧ t.job = { s.job with startCmd := some s.mail.nextId } ∧ t.chip = s.chip
        ∧ t.mail.replies = s.mail.replies ++ [replyBytes s.replyVer 0x0504 s.front.tag s.front.seq 1 []]
        ∧ { t with sdio := s.sdio, mail := s.mail, job := s.job } = s)
  ∧ (∀ s : State, s.runs 0x0505 = true → s.front.ok 0 [] = true → s.chip.st = .running →
      ∃ t, exec .planStop s = .next t ∧ s.underway t ∧ t.job = { s.job with stopCmd := some s.mail.nextId } ∧ t.chip = s.chip
        ∧ t.mail.replies = s.mail.replies ++ [replyBytes s.replyVer 0x0505 s.front.tag s.front.seq 1 []]
        ∧ { t with sdio := s.sdio, mail := s.mail, job := s.job } = s)
  ∧ (∀ s : State, s.runs 0x0505 = true → s.front.ok 0 [] = true → s.chip.st = .armed →
      ∃ t, exec .planStop s = .next t ∧ t.chip.st = .ready ∧ t.chip.prev = .armed ∧ t.img = [] ∧ t.sets = []
        ∧ (∀ e ∈ t.job.recs, e.status ≠ 1) ∧ (∀ x ∈ t.mail.taken, x.id ≠ s.mail.nextId)
        ∧ (∃ l, t.mail.replies = l ++ [replyBytes s.replyVer 0x0505 s.front.tag s.front.seq 0 (leBytes 2 2)]))
  ∧ (∀ s : State, s.runs 0x0505 = true → s.front.ok 0 [] = true → s.chip.st = .faulted →
      ∃ t, exec .planStop s = .next t ∧ t.chip.st = .ready ∧ t.chip.prev = .faulted ∧ t.img = s.img ∧ t.sets = [] ∧ t.errs.pin = none
        ∧ t.errs.slot = none ∧ (∀ e ∈ t.job.recs, e.status ≠ 1) ∧ (∀ x ∈ t.mail.taken, x.id ≠ s.mail.nextId)
        ∧ (∃ l, t.mail.replies = l ++ [replyBytes s.replyVer 0x0505 s.front.tag s.front.seq 0 (leBytes 2 2)]))
  ∧ (∀ s : State, s.runs 0x0506 = true → s.front.ok 0 [] = true → (∀ x ∈ s.mail.taken, x.op ≠ 0x0702) →
      ∃ t, exec .planDrain s = .next t ∧ t.img = s.img ∧ t.mem = s.mem ∧ t.regs = s.regs
        ∧ ((∃ r ∈ s.sets, s.setComplete r.j = false) → t.chip.st = .draining ∧ t.chip.prev = .running ∧ s.underway t
            ∧ t.job.drainCmd = some s.mail.nextId)
        ∧ ((∀ r ∈ s.sets, s.setComplete r.j = true) → t.chip.st = .armed ∧ t.chip.prev = .draining ∧ t.job.drainCmd = none
            ∧ s.answered t 0 (leBytes 6 s.job.lastAdmit)))

/-- RING_SETUP keeps the ring it is given (R425); SUBMIT without a bulk phase records its shape record for its slot unless hand-offs bring them, and with
one it arms it (R426); what it refuses is in R425 and R426. -/
def Obligations.RingsAndSubmissions : Prop :=
  (∀ s : State, s.runs 0x0703 = true → s.front.ok 18 [(1, 3)] = true → s.front.fld 0 1 ≤ 1 → s.front.fld 4 8 % 64 = 0 →
      s.front.fld 4 8 < 2 ^ 36 → s.front.fld 12 4 % 64 = 0 → s.front.fld 12 4 ≤ 16777216 → 0 < s.front.fld 16 2 → s.front.fld 16 2 ≤ 1024 →
      ∃ t, exec .ringSetup s = .next t ∧ s.answered t 0 []
        ∧ (if s.front.fld 0 1 = 0 then t.job.inRing else t.job.outRing) = some ⟨s.front.fld 4 8, s.front.fld 12 4, s.front.fld 16 2⟩
        ∧ (if s.front.fld 0 1 = 0 then t.job.outRing = s.job.outRing else t.job.inRing = s.job.inRing)
        ∧ t.mem = s.mem ∧ t.regs = s.regs)
  ∧ (∀ (s : State) (g : Ring), s.runs 0x0701 = true → s.job.inRing = some g → s.front.bulk = false →
      s.front.ok 16 [(0, 8), (14, 2)] = true → s.admitPast (s.front.fld 8 6) = false →
      (s.front.fld 8 6 + 2 ^ 48 - s.slotNo) % 2 ^ 48 ≤ 16 → s.front.fld 8 6 ∉ s.job.submitted →
      ∃ t, exec .submit s = .next t ∧ s.answered t 0 [] ∧ s.front.fld 8 6 ∈ t.job.submitted
        ∧ (s.isF curShBase F.CUR_HANDOFF_RX_EN = false → SMap.get [] t.job.shapes (s.front.fld 8 6) = s.front.shape)
        ∧ (s.isF curShBase F.CUR_HANDOFF_RX_EN = true → t.job.shapes = s.job.shapes) ∧ t.mem = s.mem ∧ t.regs = s.regs)
  ∧ (∀ (s : State) (g : Ring), s.runs 0x0701 = true → s.job.inRing = some g → s.front.bulk = true →
      s.front.okBulk 0 g.stride 16 [(14, 2)] = true → s.admitPast (s.front.fld 8 6) = false →
      (s.front.fld 8 6 + 2 ^ 48 - s.slotNo) % 2 ^ 48 ≤ 16 → s.front.fld 8 6 ∉ s.job.submitted →
      ∃ t, exec .submit s = .next t ∧ s.underway t ∧ s.front.fld 8 6 ∈ t.job.submitted
        ∧ t.mail.inq = s.mail.inq ++ [⟨s.mail.nextId, s.front.bulkLen, []⟩] ∧ t.job.shapes = s.job.shapes ∧ t.mem = s.mem)
  ∧ (∀ (s u : State) (t0 : Taken), s.mail.taken.find? (fun t => decide (t.op = 0x0701 ∧ t.stage = 2)) = some t0 → s.mail.fresh = true →
      s.hubPut (t0.aux.getD 1 0) (t0.par.drop (t0.par.length - t0.bulkLen)) = (true, u) →
      ∃ t, exec .submitDataVisible s = .next t ∧ t.mem = u.mem ∧ (∀ x ∈ t.mail.taken, x.id ≠ t0.id)
        ∧ t.mail.replies.length = s.mail.replies.length + 1)

/-- HBM_WRITE arms its bulk phase; HBM_READ and FETCH of a complete result set send the bytes of HBM that they name over function 2; FETCH of a result set
in progress waits and keeps its place among the outbound transfers (R399, R427, R428). -/
def Obligations.HbmCommandsAndFetch : Prop :=
  (∀ s : State, s.runs 0x0704 = true → s.front.okBulk 0 (2 ^ 32) 16 [] = true → s.front.bulkLen % 64 = 0 → s.front.fld 8 8 % 64 = 0 →
      ∃ t, exec .hbmWrite s = .next t ∧ s.underway t ∧ t.mail.inq = s.mail.inq ++ [⟨s.mail.nextId, s.front.bulkLen, []⟩] ∧ t.mem = s.mem
        ∧ t.regs = s.regs)
  ∧ (∀ (s u : State) (d : List Byte), s.runs 0x0705 = true → s.front.okBulk 1 (2 ^ 32) 16 [] = true → s.front.bulkLen % 64 = 0 →
      s.front.fld 8 8 % 64 = 0 → s.took.hubBytes (s.front.fld 8 8) s.front.bulkLen = (some d, u) →
      ∃ t, exec .hbmRead s = .next t ∧ t.mail.outq = xferPut u.mail.outq ⟨s.mail.nextId, d.length, d⟩ ∧ t.mem = u.mem ∧ t.regs = u.regs)
  ∧ (∀ (s : State) (g : Ring) (e : SlotRec), s.runs 0x0702 = true → s.job.outRing = some g → s.front.okBulk 1 (2 ^ 32) 20 [(14, 2)] = true →
      s.front.fld 16 4 + s.front.bulkLen ≤ g.stride →
      ¬((s.slotNo + 2 ^ 48 - s.front.fld 8 6) % 2 ^ 48 < 2 ^ 47 ∧ g.count ≤ (s.slotNo + 2 ^ 48 - s.front.fld 8 6) % 2 ^ 48) →
      s.slotRec (s.front.fld 8 6) = some e → e.status = 1 →
      ∃ t, exec .fetch s = .next t ∧ s.underway t ∧ t.mail.outq = s.mail.outq ++ [⟨s.mail.nextId, 0, []⟩] ∧ t.mem = s.mem ∧ t.regs = s.regs)
  ∧ (∀ (s u : State) (g : Ring) (e : SlotRec) (d : List Byte), s.runs 0x0702 = true → s.job.outRing = some g →
      s.front.okBulk 1 (2 ^ 32) 20 [(14, 2)] = true → s.front.fld 16 4 + s.front.bulkLen ≤ g.stride →
      ¬((s.slotNo + 2 ^ 48 - s.front.fld 8 6) % 2 ^ 48 < 2 ^ 47 ∧ g.count ≤ (s.slotNo + 2 ^ 48 - s.front.fld 8 6) % 2 ^ 48) →
      s.slotRec (s.front.fld 8 6) = some e → e.status = 0 →
      (s.took.setTaken (s.fetching g)).hubBytes (g.base + (s.front.fld 8 6 % g.count) * g.stride + s.front.fld 16 4) s.front.bulkLen
        = (some d, u) →
      ∃ t, exec .fetch s = .next t ∧ t.mail.outq = xferPut u.mail.outq ⟨s.mail.nextId, d.length, d⟩ ∧ t.mem = u.mem ∧ t.regs = u.regs)

/-- Images: IMG_WRITE and IMG_PULL whose range is quiet and free begin their transfers and touch nothing but the mailbox and Courier's requests (R420,
R531, R359); a pull first reads the directory of the peer's image space, in eight parts (where it lies is log entry 57); IMG_READ sends what the shadow holds (R421); IMG_DELETE removes every record with its ID and the holding tags of their macros, and
nothing else (R421, R533); SHADOW_SYNC of a range without dirty rows answers the digest of what the shadow holds for it (R422). -/
def Obligations.ImagesInTheShadow : Prop :=
  (∀ s : State, s.takenOp 0x0402 = none → s.runs 0x0402 = true → s.front.okBulk 0 (2 ^ 32) 52 [(13, 1), (18, 2)] = true →
      s.front.imgRec.fits = true → s.front.bulkLen = s.front.imgRec.len → s.imgRefuse s.front.imgRec = none →
      s.imgBusy s.front.imgRec = false →
      ∃ t, exec .imgWrite s = .next t ∧ s.underway t ∧ t.mail.inq = s.mail.inq ++ [⟨s.mail.nextId, s.front.bulkLen, []⟩]
        ∧ { t with sdio := s.sdio, mail := s.mail, free := s.free } = s)
  ∧ (∀ s : State, s.takenOp 0x0403 = none → s.runs 0x0403 = true → s.front.ok 48 [(2, 2), (9, 1), (14, 2)] = true →
      s.front.imgRec.fits = true → s.front.fld 0 2 < 4096 → s.front.fld 0 2 ≠ s.ownCoord → s.front.imgRec.kind ≠ 2 →
      s.imgRefuse s.front.imgRec = none → s.imgBusy s.front.imgRec = false →
      ∃ t, exec .imgPull s = .next t ∧ s.underway t ∧ t.cour.outst.length = s.cour.outst.length + 8
        ∧ (t.takenBy s.mail.nextId).map (fun x => x.aux.drop 1) = some [0, 8, 0, 0]
        ∧ { t with sdio := s.sdio, mail := s.mail, free := s.free, cour := s.cour } = s)
  ∧ (∀ (s : State) (r : ImgRec), s.runs 0x0405 = true → s.front.okBulk 1 (2 ^ 32) 12 [] = true →
      s.store.imgs.find? (fun r => decide (r.id = s.front.fld 8 4)) = some r → s.front.bulkLen ≤ r.len →
      ∃ t, exec .imgRead s = .next t ∧ s.underway t
        ∧ t.mail.outq = s.mail.outq
            ++ [⟨s.mail.nextId, s.front.bulkLen, s.shadowRd r.kind (unitSize r.kind * r.first) s.front.bulkLen⟩]
        ∧ { t with sdio := s.sdio, mail := s.mail, free := s.free } = s)
  ∧ (∀ s : State, s.runs 0x0404 = true → s.front.ok 4 [] = true → (s.store.imgs.any (fun r => decide (r.id = s.front.fld 0 4))) = true →
      (s.planWeights.any (fun w => decide (w.1 = s.front.fld 0 4))) = false →
      ∃ t, exec .imgDelete s = .next t ∧ s.answered t 0 []
        ∧ t.store.imgs = s.store.imgs.filter (fun r => !decide (r.id = s.front.fld 0 4))
        ∧ (∀ m, (t.mx m).held = (if s.store.imgs.any (fun r => decide (r.id = s.front.fld 0 4) && decide (r.kind = 0) && decide (r.first ≤ m)
            && decide (m < r.first + r.count)) then 0 else (s.mx m).held))
        ∧ { t with sdio := s.sdio, mail := s.mail, store := s.store, macros := s.macros } = s)
  ∧ (∀ s : State, s.takenOp 0x0406 = none → s.runs 0x0406 = true → s.front.ok 12 [(5, 3)] = true → s.front.fld 4 1 = 0 →
      0 < s.front.fld 2 2 → s.front.fld 0 2 + s.front.fld 2 2 ≤ 4096 → s.front.fld 8 4 = 0 →
      (∀ m ∈ s.front.syncMacros, (s.mx m).shop = none ∧ s.dirtyRows m = []) →
      ∃ t, exec .shadowSync s = .next t ∧ s.answered t 0 (sha256 (s.shadowRd 0 (65536 * s.front.fld 0 2) (65536 * s.front.fld 2 2)))
        ∧ { t with sdio := s.sdio, mail := s.mail } = s)
  ∧ (∀ s : State, s.takenOp 0x0406 = none → s.runs 0x0406 = true → s.front.ok 12 [(5, 3)] = true → s.front.fld 4 1 = 0 →
      0 < s.front.fld 2 2 → s.front.fld 0 2 + s.front.fld 2 2 ≤ 4096 → s.front.fld 8 4 ≠ 0 → s.store.imgs.length < 256 →
      (∀ m ∈ s.front.syncMacros, (s.mx m).shop = none ∧ s.dirtyRows m = []) →
      ∃ t d, exec .shadowSync s = .next t ∧ d = sha256 (s.shadowRd 0 (65536 * s.front.fld 0 2) (65536 * s.front.fld 2 2))
        ∧ s.answered t 0 d ∧ t.mem = s.mem
        ∧ t.store.imgs = s.store.imgs.filter (fun r => !r.over 0 (s.front.fld 0 2) (s.front.fld 2 2))
            ++ [imgOf (s.front.fld 8 4) 0 (s.front.fld 0 2) (s.front.fld 2 2) d])

/-- A row read of a macro (R61 to R64): without a flipped column it delivers the row and changes nothing; a corrected row is counted in CE_COUNT and
delivered; an uncorrectable clean row is restored from the shadow and the repeated read delivers it, or, where that read is uncorrectable too, poisons it;
an uncorrectable dirty one becomes poisoned and delivers nothing. SCRUB_STEP reads the next row of every macro of the block that is due (R63), where
nothing older waits for the row ports (R117); FILL_STEP rewrites the next row of the lowest remap entry being filled, which ends filled (R66; of several
entries the lowest is log entry 99); there no row that is read has a flipped column, and after the step what it held back goes on (`settleBlk`). That a
repeated read which fails raises no MAC_UE_RESTORED is log entry 100. -/
def Obligations.RowReadsAndScrub : Prop :=
  (∀ (s : State) (m r : Nat) (back : Bool), s.logFlips m r = [] → s.readRow m r back = (⟨some (s.rowRd m r), false, false, none⟩, s))
  ∧ (∀ (s : State) (m r c : Nat), s.logFlips m r = [c] → s.isF (macBase m) F.MAC_ECC_CTL_AUTO_REMAP = false →
      ∃ t, s.readRow m r false = (⟨some (s.rowRd m r), true, false, none⟩, t)
        ∧ t.getF (macBase m) F.MAC_ECC_STAT_CE_COUNT
            = satCount F.MAC_ECC_STAT_CE_COUNT.width (s.getF (macBase m) F.MAC_ECC_STAT_CE_COUNT) 1
        ∧ t.getF (macBase m) F.MAC_ECC_ADDR_KIND = 0 ∧ t.mem = s.mem ∧ t.flips = s.flips)
  ∧ (∀ (s u : State) (m r : Nat), (s.rowCheck m r).1.ue = true → s.rowDirty m r = false →
      u = ((s.rowCheck m r).2.noteUe m r).restoreRow m r → u.logFlips m r = [] →
      ∃ t, s.readRow m r false = (⟨none, false, true, some (s.shadowRow m r)⟩, t) ∧ t.rowRd m r = s.shadowRow m r
        ∧ t.isF (macBase m) F.MAC_ECC_STAT_RESTORED = true)
  ∧ (∀ (s u : State) (m r : Nat), (s.rowCheck m r).1.ue = true → s.rowDirty m r = false →
      u = ((s.rowCheck m r).2.noteUe m r).restoreRow m r → (u.rowCheck m r).1.ue = true →
      (s.readRow m r false).1 = ⟨none, false, true, none⟩ ∧ (s.readRow m r false).2.rowPoisoned m r = true)
  ∧ (∀ (s : State) (m r : Nat), (s.rowCheck m r).1.ue = true → s.rowDirty m r = true →
      (s.readRow m r false).1 = ⟨none, false, true, none⟩ ∧ (s.readRow m r false).2.rowPoisoned m r = true
        ∧ (s.readRow m r false).2.mem.rows = s.mem.rows)
  ∧ (∀ (s : State) (b : Nat), s.compOn b = true → (∀ m ∈ blkMacros b, s.logFlips m (s.getF (macBase m) F.MAC_SCRUB_POS_NEXT_ROW) = []) →
      s.scrubNextUp b = true →
      ∃ t : State, exec (.scrubStep b) s = .next (t.settleBlk b)
        ∧ (∀ m ∈ blkMacros b,
            if (s.scrubDue m).isSome = true then
              (t.mx m).scrubReq = (s.mx m).scrubReq - 1
                ∧ t.getF (macBase m) F.MAC_SCRUB_POS_NEXT_ROW = (s.getF (macBase m) F.MAC_SCRUB_POS_NEXT_ROW + 1) % 512
            else t.mx m = s.mx m ∧ t.getF (macBase m) F.MAC_SCRUB_POS_NEXT_ROW = s.getF (macBase m) F.MAC_SCRUB_POS_NEXT_ROW)
        ∧ (∀ m, m ∉ blkMacros b → t.mx m = s.mx m)
        ∧ (∀ a, (∀ m ∈ blkMacros b, a ≠ macBase m + F.MAC_SCRUB_POS_NEXT_ROW.off) → t.reg a = s.reg a)
        ∧ { t with regs := s.regs, macros := s.macros } = s)
  ∧ (∀ (s : State) (b : Nat),
      s.scrubNextUp b = false →
      exec (.scrubStep b) s = .next s)
  ∧ (∀ (s : State) (m i r : Nat) (l : SMap Nat), m < 4096 → s.compOn (m / 16) = true → (s.mx m).fill = (i, r) :: l → r < 511 →
      (∀ k ∈ blkMacros (m / 16), k ≠ m → (s.mx k).fill = []) → s.stepFree m r true (s.mx m).fillAge = true → s.logFlips m r = [] →
      s.fillNextUp (m / 16) = true →
      ∃ t : State, exec (.fillStep (m / 16)) s = .next (t.settleBlk (m / 16)) ∧ SMap.get 512 (t.mx m).fill i = r + 1 ∧ (∀ k, k ≠ m → t.mx k = s.mx k)
        ∧ (∀ a, Mem.rd t.mem.rows a = Mem.rd s.mem.rows a) ∧ { t.mem with rows := s.mem.rows } = s.mem
        ∧ { t with macros := s.macros, flips := s.flips, mem := s.mem, free := s.free } = s)
  ∧ (∀ (s : State) (m i : Nat), m < 4096 → i < 16 → s.compOn (m / 16) = true → (s.mx m).fill = [(i, 511)] →
      (∀ k ∈ blkMacros (m / 16), k ≠ m → (s.mx k).fill = []) → s.stepFree m 511 true (s.mx m).fillAge = true → s.logFlips m 511 = [] →
      s.fillNextUp (m / 16) = true →
      ∃ t : State, exec (.fillStep (m / 16)) s = .next (t.settleBlk (m / 16)) ∧ (t.mx m).fill = [] ∧ (t.remap m i).testBit 16 = true ∧ (∀ k, k ≠ m → t.mx k = s.mx k)
        ∧ (∀ a, Mem.rd t.mem.rows a = Mem.rd s.mem.rows a) ∧ { t.mem with rows := s.mem.rows } = s.mem
        ∧ (∀ a, a ≠ macBase m + 0x40 + 4 * i → t.reg a = s.reg a)
        ∧ { t with regs := s.regs, macros := s.macros, flips := s.flips, mem := s.mem, free := s.free } = s)

/-- A write of MAC_REMAPi (R65, R66, R68): VALID 0 ends the use of the spare, VALID 1 with a new column
begins its fill pass, which has its place on the scoreboard (R119; for an entry that is valid already log entry 74); a reserved COL leaves the field as
it is (R11), a column that another valid entry names leaves the register as it is (R65), VALID with the entry's own column changes nothing, and a FUSED
entry keeps its word (R68). MAC_CFG takes a write while the macro is idle and else reports CFG_REJ (R76; that the claim of a self-test unit is no work in
progress is log entry 75); MAC_RB_GO enters a readback on the scoreboard (R117), and READBACK delivers the row into the readback registers with DONE, after
which what it held back goes on. -/
def Obligations.MacroRegisters : Prop :=
  (∀ (s : State) (m i v : Nat), m < 4096 → i < 16 → s.compOn (m / 16) = true → (s.remap m i).testBit 17 = false → v.testBit 15 = false →
      v % 2048 < 1096 →
      ∃ t, exec (.macRemapValidWrite m i v) s = .next t ∧ t.remap m i = v % 2048 ∧ SMap.get 512 (t.mx m).fill i = 512
        ∧ (∀ a, a ≠ macBase m + 0x40 + 4 * i → t.reg a = s.reg a) ∧ { t with regs := s.regs, macros := s.macros } = s)
  ∧ (∀ (s : State) (m i v : Nat), m < 4096 → i < 16 → s.compOn (m / 16) = true → (s.remap m i).testBit 17 = false → v.testBit 15 = true →
      v % 2048 < 1096 → ¬((s.remap m i).testBit 15 = true ∧ s.remap m i % 2048 = v % 2048) →
      (∀ j < 16, j ≠ i → ¬((s.remap m j).testBit 15 = true ∧ s.remap m j % 2048 = v % 2048)) →
      ∃ t, exec (.macRemapValidWrite m i v) s = .next t ∧ t.remap m i = v % 2048 + 0x8000 ∧ SMap.get 512 (t.mx m).fill i = 0
        ∧ (∀ a, a ≠ macBase m + 0x40 + 4 * i → a ≠ blkBase (m / 16) + F.BLK_SEQ_STAT_SB_PEAK.off → t.reg a = s.reg a)
        ∧ (∀ k, k ≠ m → t.mx k = s.mx k) ∧ s.othersKept t (m / 16)
        ∧ { t with regs := s.regs, macros := s.macros, blocks := s.blocks } = s)
  ∧ (∀ (s : State) (m i v : Nat), 1096 ≤ v % 2048 → s.remap m i % 2048 < 1096 →
      exec (.macRemapValidWrite m i v) s = exec (.macRemapValidWrite m i (s.remap m i % 2048 + (if v.testBit 15 then 0x8000 else 0))) s)
  ∧ (∀ (s : State) (m i j v : Nat), v % 2048 < 1096 → v.testBit 15 = true → j < 16 → j ≠ i → (s.remap m j).testBit 15 = true →
      s.remap m j % 2048 = v % 2048 → exec (.macRemapValidWrite m i v) s = .next s)
  ∧ (∀ (s : State) (m i v : Nat), v % 2048 < 1096 → v.testBit 15 = true → (s.remap m i).testBit 15 = true → s.remap m i % 2048 = v % 2048 →
      exec (.macRemapValidWrite m i v) s = .next s)
  ∧ (∀ (s : State) (m i v : Nat), (s.remap m i).testBit 17 = true → exec (.macRemapValidWrite m i v) s = .next s)
  ∧ (∀ (s : State) (m v : Nat), s.compOn (m / 16) = true → s.macroBusy m = false → exec (.macCfgWrite m v) s = .next (s.plainWrite (macBase m) v))
  ∧ (∀ (s : State) (m v : Nat), s.compOn (m / 16) = true → s.macroBusy m = true →
      ∃ t, exec (.macCfgWrite m v) s = .next t ∧ t.isF (macBase m) F.MAC_STAT_CFG_REJ = true ∧ t.reg (macBase m) = s.reg (macBase m)
        ∧ { t with regs := s.regs } = s)
  ∧ (∀ (s : State) (m v : Nat), s.compOn (m / 16) = true → v.testBit 16 = true →
      ∃ t, exec (.macRbGo m v) s = .next t ∧ (t.mx m).rb = some (s.bx (m / 16)).nextId ∧ (t.bx (m / 16)).nextId = (s.bx (m / 16)).nextId + 1
        ∧ t.getF (macBase m) F.MAC_RB_CTL_DONE = 0 ∧ t.getF (macBase m) F.MAC_RB_CTL_ROW = bits v F.MAC_RB_CTL_ROW.lo F.MAC_RB_CTL_ROW.width
        ∧ { t with regs := s.regs, macros := s.macros, blocks := s.blocks } = s)
  ∧ (∀ (s : State) (b a m : Nat), s.compOn b = true → s.rbNext b = some (a, m) → s.logFlips m (s.getF (macBase m) F.MAC_RB_CTL_ROW) = [] →
      ∃ t : State, exec (.readback b) s = .next (t.settleBlk b) ∧ (t.mx m).rb = none ∧ t.getF (macBase m) F.MAC_RB_CTL_DONE = 1
        ∧ (∀ i, i < 32 → (t.reg (macBase m + 0x840 + 4 * i)).toNat = leAt (s.rowRd m (s.getF (macBase m) F.MAC_RB_CTL_ROW)) (4 * i) 4)
        ∧ { t with regs := s.regs, macros := s.macros } = s)

/-- The shadow port of a macro (R69 to R71): SYNC takes the dirty rows, each copied row leaves them and stands in the shadow, in its turn on the row ports
(R117), after which what it held back goes on; RESTORE takes all rows (the rows of a SYNC and STALE are judged at the write: log entry 76), and its retirement, once nothing older stands on the scoreboard, makes every row equal the shadow, with no row dirty or poisoned. -/
def Obligations.ShadowPort : Prop :=
  (∀ (s : State) (m : Nat), s.compOn (m / 16) = true → (s.mx m).shop = none → s.dirtyRows m ≠ [] →
      ∃ t, exec (.macShadowSync m) s = .next t ∧ (t.mx m).shop = some ⟨false, s.dirtyRows m, (s.bx (m / 16)).nextId⟩
        ∧ t.getF (macBase m) F.MAC_SHADOW_CTL_BUSY = 1 ∧ s.othersKept t (m / 16)
        ∧ { t with regs := s.regs, macros := s.macros, blocks := s.blocks } = s)
  ∧ (∀ (s : State) (m : Nat), s.compOn (m / 16) = true → (s.mx m).shop = none →
      ∃ t, exec (.macShadowRestore m) s = .next t ∧ (t.mx m).shop = some ⟨true, List.range 512, (s.bx (m / 16)).nextId⟩
        ∧ t.getF (macBase m) F.MAC_SHADOW_CTL_BUSY = 1
        ∧ (s.anyDirty m = true → t.getF (macBase m) F.MAC_SHADOW_CTL_STALE = 1)
        ∧ s.othersKept t (m / 16) ∧ { t with regs := s.regs, macros := s.macros, blocks := s.blocks } = s)
  ∧ (∀ (s : State) (m r k age : Nat) (l : List Nat), s.compOn (m / 16) = true → r < 512 → (s.mx m).shop = some ⟨false, r :: k :: l, age⟩ →
      s.stepFree m r false age = true → s.syncNextUp (m / 16) = true → s.logFlips m r = [] →
      ∃ t : State, exec (.macSyncRowCopied m) s = .next (((t.settleBlk (m / 16)).armGo none).syncGo) ∧ (t.mx m).shop = some ⟨false, k :: l, age⟩ ∧ t.rowDirty m r = false
        ∧ t.shadowRow m r = s.rowRd m r
        ∧ (∀ a, (a < 65536 * m + 128 * r ∨ 65536 * m + 128 * r + 128 ≤ a) → Mem.rd t.mem.wshadow a = Mem.rd s.mem.wshadow a)
        ∧ { t.mem with wshadow := s.mem.wshadow } = s.mem ∧ { t with regs := s.regs, macros := s.macros, mem := s.mem } = s)
  ∧ (∀ (s : State) (m age : Nat) (l : List Nat), m < 4096 → s.compOn (m / 16) = true → (s.mx m).shop = some ⟨true, l, age⟩ →
      s.rowHeld (m / 16) (m % 16) 0 512 true age = false → s.rbHeld m 0 512 age = false → (0 < (s.mx m).scrubReq → age ≤ (s.mx m).scrubAge) →
      ((s.mx m).fill ≠ [] → age ≤ (s.mx m).fillAge) → s.takenOp 0x0503 = none → s.takenOp 0x0406 = none →
      s.power.wake = 0 →
      ∃ t, exec (.macRestoreRetire m) s = .next t ∧ (t.mx m).shop = none ∧ t.getF (macBase m) F.MAC_SHADOW_CTL_BUSY = 0
        ∧ t.anyDirty m = false ∧ t.anyPoison m = false ∧ (t.mx m).held = s.holdTag m ∧ t.mem.wshadow = s.mem.wshadow
        ∧ (∀ o, o < 65536 → Mem.rd t.mem.rows (65536 * m + o) = Mem.rd s.mem.wshadow (65536 * m + o))
        ∧ (∀ a, (a < 65536 * m ∨ 65536 * (m + 1) ≤ a) → Mem.rd t.mem.rows a = Mem.rd s.mem.rows a))

/-- HBM_REQUEST moves a request that no earlier one of its flow precedes from the mesh into its pseudo-channel's queue and keeps the largest queue length
(R315, R319, R320). A queued read that no earlier request of one of its lines precedes leaves the queue and is answered with its lines, on a route
without an isolated link (R316, R318, R321, R330); beyond the populated range or against a protection window it is answered with POISON. No byte of
memory changes. -/
def Obligations.HbmReadsAreAnswered : Prop :=
  (∀ (s : State) (k pc : Nat) (m : Msg) (r : HbmReq), s.msgAt k = some m → m.dst = 1024 + pc → pc < 64 → s.pcOn pc = true → m.hbmReq = some r →
    (s.pcQueue pc).length < 704 →
    ∃ t, exec (.hbmRequest k) s = .next t ∧ t.net = dropAt s.net k ∧ t.pcQueue pc = s.pcQueue pc ++ [r]
      ∧ (∀ q, q ≠ pc → t.pcQueue q = s.pcQueue q)
      ∧ t.getF (hbmBase (pc / 32)) (F.HBM_PC_QPEAK_ENTRIES.idx (0x10 * (pc % 32)))
          = max (s.getF (hbmBase (pc / 32)) (F.HBM_PC_QPEAK_ENTRIES.idx (0x10 * (pc % 32)))) ((s.pcQueue pc).length + 1)
      ∧ t.mesh.flits = s.mesh.flits ∧ { t with net := s.net, mesh := s.mesh, hbmQ := s.hbmQ, regs := s.regs } = s)
  ∧ (∀ (s : State) (pc k : Nat) (r : HbmReq), s.reqAt pc k = some r → s.pcOn pc = true → r.kind = 0 → s.pathOpen (1024 + pc) r.src = true →
      (∀ i < r.lines, s.lineGood (r.line + 64 * i) r.src false = true) → 0 < r.lines →
      ∃ t, exec (.hbmReadService pc k) s = .next t ∧ t.pcQueue pc = dropAt (s.pcQueue pc) k ∧ (∀ q, q ≠ pc → t.pcQueue q = s.pcQueue q)
        ∧ t.net = s.net ++ [⟨1024 + pc, r.src, 256, .readRsp (keyHbm r.line) (s.hbmRd r.line (64 * r.lines)) 0 r.iss⟩]
        ∧ t.mesh.tries = s.mesh.tries ∧ { t with net := s.net, mesh := s.mesh, hbmQ := s.hbmQ, regs := s.regs } = s)
  ∧ (∀ (s : State) (pc k : Nat) (r : HbmReq), s.reqAt pc k = some r → s.pcOn pc = true → r.kind = 0 → s.pathOpen (1024 + pc) r.src = true →
      hbmTop ≤ r.line →
      ∃ t, exec (.hbmReadService pc k) s = .next t ∧ t.pcQueue pc = dropAt (s.pcQueue pc) k
        ∧ t.net = s.net ++ [⟨1024 + pc, r.src, 256, .readRsp (keyHbm r.line) (List.replicate (64 * r.lines) 0) 0x63 r.iss⟩]
        ∧ t.isF (hbmBase (hbmPc r.line / 32)) F.HBM_STAT_RANGE = true ∧ t.mem = s.mem)
  ∧ (∀ (s : State) (pc k : Nat) (r : HbmReq), s.reqAt pc k = some r → s.pcOn pc = true → r.kind = 0 → s.pathOpen (1024 + pc) r.src = true →
      r.line < hbmTop → s.hbmAllowed r.line r.src false = false → r.src < 256 →
      ∃ t, exec (.hbmReadService pc k) s = .next t ∧ t.pcQueue pc = dropAt (s.pcQueue pc) k
        ∧ t.net = s.net ++ [⟨1024 + pc, r.src, 256, .readRsp (keyHbm r.line) (List.replicate (64 * r.lines) 0) 0x64 r.iss⟩]
        ∧ t.isF (hbmBase (hbmPc r.line / 32)) F.HBM_STAT_PROT = true ∧ t.mem = s.mem)

/-- Writes of HBM (R322, R324): a write of full lines replaces them, a narrow write merges its enabled bits into its line, an atomic add adds element by
element to it (R325); each is acknowledged, on a route without an isolated link (R316), and every byte outside its lines keeps its value. For the
atomic add no collective is due, and one of a block meets none in use. One element of an INT32 atomic add is the sum of the signed values, saturated
at the ends of the range, and says so (R166). -/
def Obligations.HbmWritesLand : Prop :=
  (∀ (s : State) (pc k : Nat) (r : HbmReq), s.reqAt pc k = some r → s.pcOn pc = true → r.kind = 1 → r.line < hbmTop →
      s.hbmAllowed r.line r.src true = true → s.pathOpen (1024 + pc) r.src = true →
      ∃ t, exec (.hbmWriteService pc k) s = .next t ∧ t.pcQueue pc = dropAt (s.pcQueue pc) k ∧ (∀ q, q ≠ pc → t.pcQueue q = s.pcQueue q)
        ∧ t.net = s.net ++ [⟨1024 + pc, r.src, 256, .ack 0 r.iss⟩]
        ∧ t.hbmRd r.line (64 * r.lines) = mergeLine (List.replicate (64 * r.lines) 0) r.data
        ∧ (∀ a, (a < r.line ∨ r.line + 64 * r.lines ≤ a) → Mem.rd t.mem.hbm a = Mem.rd s.mem.hbm a)
        ∧ { t.mem with hbm := s.mem.hbm } = s.mem ∧ t.mesh.tries = s.mesh.tries
        ∧ { t with net := s.net, mesh := s.mesh, hbmQ := s.hbmQ, regs := s.regs, mem := s.mem, flips := s.flips } = s)
  ∧ (∀ (s : State) (pc k : Nat) (r : HbmReq), s.reqAt pc k = some r → s.pcOn pc = true → r.kind = 2 →
      s.lineGood r.line r.src true = true → s.pathOpen (1024 + pc) r.src = true →
      ∃ t, exec (.hbmNarrowWrite pc k) s = .next t ∧ t.pcQueue pc = dropAt (s.pcQueue pc) k ∧ (∀ q, q ≠ pc → t.pcQueue q = s.pcQueue q)
        ∧ t.net = s.net ++ [⟨1024 + pc, r.src, 256, .ack 0 r.iss⟩] ∧ t.hbmRd r.line 64 = mergeLine (s.hbmRd r.line 64) r.data
        ∧ (∀ a, (a < r.line ∨ r.line + 64 ≤ a) → Mem.rd t.mem.hbm a = Mem.rd s.mem.hbm a)
        ∧ { t.mem with hbm := s.mem.hbm } = s.mem ∧ t.mesh.tries = s.mesh.tries
        ∧ { t with net := s.net, mesh := s.mesh, hbmQ := s.hbmQ, regs := s.regs, mem := s.mem, flips := s.flips } = s)
  ∧ (∀ (s : State) (pc k : Nat) (r : HbmReq), s.reqAt pc k = some r → s.pcOn pc = true → r.kind = 3 →
      (256 ≤ r.src ∨ ∀ e < 64, s.collValid e = false) → s.collDue = none →
      s.lineGood r.line r.src true = true → s.pathOpen (1024 + pc) r.src = true →
      ∃ t, exec (.hbmAtomicAdd pc k) s = .next t ∧ t.pcQueue pc = dropAt (s.pcQueue pc) k ∧ (∀ q, q ≠ pc → t.pcQueue q = s.pcQueue q)
        ∧ t.net = s.net ++ [⟨1024 + pc, r.src, 256, .ack 0 r.iss⟩] ∧ t.hbmRd r.line 64 = (atomLine r.fmt (s.hbmRd r.line 64) r.data).1
        ∧ (∀ a, (a < r.line ∨ r.line + 64 ≤ a) → Mem.rd t.mem.hbm a = Mem.rd s.mem.hbm a)
        ∧ { t.mem with hbm := s.mem.hbm } = s.mem ∧ t.mesh.tries = s.mesh.tries
        ∧ { t with net := s.net, mesh := s.mesh, hbmQ := s.hbmQ, regs := s.regs, mem := s.mem, flips := s.flips } = s)
  ∧ (∀ a b : Nat,
    toSigned 32 (atomElem 0 a b).1 = max (-2147483648) (min 2147483647 (toSigned 32 a + toSigned 32 b))
      ∧ (atomElem 0 a b).2.1 = decide (toSigned 32 a + toSigned 32 b < -2147483648 ∨ 2147483647 < toSigned 32 a + toSigned 32 b)
      ∧ (atomElem 0 a b).2.2 = false)

/-- Upkeep of HBM (R327, R329): a scrub step, which takes its place in the request queue and there meets no request for its line, passes a clean line
and rewrites one with one flipped bit; refresh changes nothing; a temperature reading is kept, doubles refresh above 85 °C and sets HOT at the limit. A
flit whose CRC fails at a router is replayed and counted; the third failure in a row isolates the link at both of its ends (R316). That a scrub step is served in the command that makes it enter the queue is log entry 83, that a refresh
changes nothing log entry 59. -/
def Obligations.HbmUpkeepAndRouters : Prop :=
  (∀ (s : State) (pc a : Nat), s.pcOn pc = true → s.isF (hbmBase (pc / 32)) F.HBM_CTL_SCRUB_EN = true →
      a = hbmAddr pc (64 * SMap.get 0 s.hbmPos pc) → (s.pcQueue pc).length < 704 →
      (∀ r ∈ s.pcQueue pc, r.kind ≠ 4 ∧ r.meets ⟨0, a, 1, 4, [], 0, 0⟩ = false) → (∀ i < 8, flipsIn s.flips.hbm (a / 8 + i) = 0) →
      ∃ t, exec (.hbmScrubStep pc) s = .next t ∧ SMap.get 0 t.hbmPos pc = (SMap.get 0 s.hbmPos pc + 1) % hbmLines
        ∧ (∀ q, q ≠ pc → SMap.get 0 t.hbmPos q = SMap.get 0 s.hbmPos q) ∧ (∀ q, t.pcQueue q = s.pcQueue q)
        ∧ t.getF (hbmBase (pc / 32)) (F.HBM_PC_QPEAK_ENTRIES.idx (0x10 * (pc % 32)))
            = max (s.getF (hbmBase (pc / 32)) (F.HBM_PC_QPEAK_ENTRIES.idx (0x10 * (pc % 32)))) ((s.pcQueue pc).length + 1)
        ∧ { t with hbmPos := s.hbmPos, hbmQ := s.hbmQ, regs := s.regs } = s)
  ∧ (∀ (s : State) (pc a j : Nat), s.pcOn pc = true → s.isF (hbmBase (pc / 32)) F.HBM_CTL_SCRUB_EN = true →
      a = hbmAddr pc (64 * SMap.get 0 s.hbmPos pc) → (s.pcQueue pc).length < 704 →
      (∀ r ∈ s.pcQueue pc, r.kind ≠ 4 ∧ r.meets ⟨0, a, 1, 4, [], 0, 0⟩ = false) → j < 8 → flipsIn s.flips.hbm (a / 8 + j) = 1 →
      (∀ i < 8, i ≠ j → flipsIn s.flips.hbm (a / 8 + i) = 0) →
      ∃ t, exec (.hbmScrubStep pc) s = .next t ∧ SMap.get 0 t.hbmPos pc = (SMap.get 0 s.hbmPos pc + 1) % hbmLines
        ∧ (∀ i < 8, flipsIn t.flips.hbm (a / 8 + i) = 0) ∧ (∀ x, Mem.rd t.mem.hbm x = Mem.rd s.mem.hbm x)
        ∧ t.getF (hbmBase (pc / 32)) F.HBM_CE_CNT_COUNT = satCount 32 (s.getF (hbmBase (pc / 32)) F.HBM_CE_CNT_COUNT) 1)
  ∧ (∀ (s : State) (pc bank : Nat), exec (.hbmRefresh pc bank) s = .next s)
  ∧ (∀ (s : State) (st : Nat) (temp : Int), st < 2 → s.pdOn (36 + st) = true → -128 ≤ temp → temp ≤ 127 →
      ∃ t, exec (.hbmTemperatureRead st temp) s = .next t ∧ toSigned 8 (t.getF (hbmBase st) F.HBM_TEMP_TEMP) = temp
        ∧ t.getF (hbmBase st) F.HBM_TEMP_DOUBLE = (if 85 < temp then 1 else 0)
        ∧ (toSigned 8 (s.getF (hbmBase st) F.HBM_TEMP_HOT_LIMIT) ≤ temp → t.isF (hbmBase st) F.HBM_STAT_HOT = true)
        ∧ (temp < toSigned 8 (s.getF (hbmBase st) F.HBM_TEMP_HOT_LIMIT) → { t with regs := s.regs } = s) ∧ t.mem = s.mem)
  ∧ (∀ (s : State) (r b p : Nat), r < 16 → b < 16 → p < 5 → s.pdOn 3 = true → SMap.get 0 s.mesh.tries ((16 * r + b) * 8 + p) ≠ 2 →
      ∃ t, exec (.flitCrcMismatch r b p) s = .next t
        ∧ t.getF (rgnBase r) (F.RGN_RTR_ERR_REPLAYS.idx (0x40 * b))
            = satCount 16 (s.getF (rgnBase r) (F.RGN_RTR_ERR_REPLAYS.idx (0x40 * b))) 1
        ∧ SMap.get 0 t.mesh.tries ((16 * r + b) * 8 + p) = (SMap.get 0 s.mesh.tries ((16 * r + b) * 8 + p) + 1) % 3
        ∧ t.mesh.flits = s.mesh.flits ∧ { t with regs := s.regs, mesh := s.mesh } = s)
  ∧ (∀ (s : State) (r b p : Nat), r < 16 → b < 16 → p < 5 → s.pdOn 3 = true → SMap.get 0 s.mesh.tries ((16 * r + b) * 8 + p) = 2 →
      ∃ t, exec (.flitCrcMismatch r b p) s = .next t ∧ (t.getF (rgnBase r) (F.RGN_RTR_ERR_ISOLATED.idx (0x40 * b))).testBit p = true
        ∧ SMap.get 0 t.mesh.tries ((16 * r + b) * 8 + p) = 0
        ∧ (∀ q pq, meshNbr (16 * r + b) p = some (q, pq) →
            (t.getF (rgnBase (q / 16)) (F.RGN_RTR_ERR_ISOLATED.idx (0x40 * (q % 16)))).testBit pq = true))

/-- Training (R351, R352; Table 12.7), of a port whose domain is on: a lane signal, the equalised lanes, and lanes good in both directions lead it from
DETECT to NEGOTIATE; too few lanes good at the peer fail it. TS1 frames are counted while they are identical, and the eighth agrees on the highest common
version and the common features; eight TS2 frames in a row that repeat the agreement, with eight sent, make the port ACTIVE; one that differs ends the
attempt, as the timeout does, and the third failed attempt fails the port. That AXIS is sampled at the entry to NEGOTIATE is log
entry 23, and that a TS2 frame is sent for each that comes log entry 84. -/
def Obligations.CourierTrainsAndNegotiates : Prop :=
  (∀ (s : State) (p lane : Nat), lane < 8 → s.portIs p 1 = true →
      ∃ t, exec (.laneSignal p lane) s = .next t ∧ t.portSt p = 2 ∧ { t with regs := s.regs } = s)
  ∧ (∀ (s : State) (p : Nat), s.portIs p 2 = true →
      ∃ t, exec (.equalizeComplete p) s = .next t ∧ t.portSt p = 3 ∧ { t with regs := s.regs } = s)
  ∧ (∀ (s : State) (p lanes : Nat), s.portIs p 3 = true → SMap.get 0 s.bist.lanes p = 0 → lanes % 256 = 255 → bits lanes 8 8 = 255 →
      bits lanes 16 8 = 255 →
      ∃ t, exec (.alignComplete p lanes) s = .next t ∧ t.portSt p = 4 ∧ t.getF (curBase p) F.CUR_STAT_LANES_GOOD = 255
        ∧ (t.port p).txLanes = 8 ∧ (t.port p).axis = s.getF (curBase p) F.CUR_CTL_AXIS ∧ s.portsKept t p
        ∧ { t with regs := s.regs, cour := s.cour } = s)
  ∧ (∀ (s : State) (p lanes : Nat), s.portIs p 3 = true → bits lanes 16 8 % 16 ≠ 15 → bits lanes 16 8 / 16 ≠ 15 →
      ∃ t, exec (.alignComplete p lanes) s = .next t ∧ t.portSt p = 6 ∧ t.isF (curBase p) F.CUR_STAT_TRAIN_FAIL = true ∧ t.mem = s.mem)
  ∧ (∀ (s : State) (p : Nat) (f : Flit), s.portIs p 4 = true → goodFrame f 1 → ((s.port p).ts1 = some (tsOf f) → (s.port p).ts1n ≠ 7) →
      ∃ t, exec (.ts1 p f) s = .next t ∧ (t.port p).ts1 = some (tsOf f)
        ∧ (t.port p).ts1n = (if (s.port p).ts1 = some (tsOf f) then (s.port p).ts1n + 1 else 1)
        ∧ (t.port p).agreed = (s.port p).agreed ∧ t.portSt p = 4 ∧ s.portsKept t p
        ∧ { t with regs := s.regs, cour := s.cour, hzn := s.hzn } = s)
  ∧ (∀ (s : State) (p v : Nat) (f : Flit), s.portIs p 4 = true → goodFrame f 1 → (s.port p).ts1 = some (tsOf f) → (s.port p).ts1n = 7 →
      (s.port p).agreed = none → topVersion ((tsOf f).vers % 8 &&& s.getF (curBase p) F.CUR_CTL_VERS_EN) = some v → (s.port p).txLanes = 8 →
      (tsOf f).lanes % 16 ≠ 4 →
      ∃ t, exec (.ts1 p f) s = .next t
        ∧ (t.port p).agreed = some (v, s.getF (curBase p) F.CUR_FEAT_EN_LO_FEAT &&& (tsOf f).featLo &&& versionFeatures v)
        ∧ t.getF (curBase p) F.CUR_STAT_VER = v ∧ t.getF (curBase p) F.CUR_PEER_COORD = (tsOf f).coord ∧ t.portSt p = 4 ∧ s.portsKept t p
        ∧ { t with regs := s.regs, cour := s.cour, hzn := s.hzn } = s)
  ∧ (∀ (s : State) (p v feat : Nat) (f : Flit), s.portIs p 4 = true → goodFrame f 2 → (s.port p).agreed = some (v, feat) →
      (tsOf f).vers = (s.ownTs p).vers → (tsOf f).featLo = feat → (tsOf f).featHi = 0 → ((s.port p).ts2n < 7 ∨ (s.port p).sent2 < 8) →
      ∃ t, exec (.ts2 p f) s = .next t ∧ (t.port p).ts2n = (s.port p).ts2n + 1 ∧ (t.port p).ts1n = 0 ∧ (t.port p).agreed = some (v, feat)
        ∧ t.portSt p = 4 ∧ s.portsKept t p ∧ { t with regs := s.regs, cour := s.cour, hzn := s.hzn } = s)
  ∧ (∀ (s : State) (p v feat : Nat) (f : Flit), s.portIs p 4 = true → goodFrame f 2 → (s.port p).agreed = some (v, feat) → 7 ≤ (s.port p).ts2n →
      8 ≤ (s.port p).sent2 → (tsOf f).vers = (s.ownTs p).vers → (tsOf f).featLo = feat → (tsOf f).featHi = 0 → (s.port p).txLanes = 8 →
      (tsOf f).lanes % 16 ≠ 4 →
      ∃ t, exec (.ts2 p f) s = .next t ∧ t.portSt p = 5 ∧ t.getF (curBase p) F.CUR_STAT_DEGRADED = 0
        ∧ (t.port p).agreed = some (v, feat) ∧ (t.port p).peerBufs = (tsOf f).bufs ∧ (t.port p).txSeq = 0 ∧ (t.port p).rxNext = 0
        ∧ s.portsKept t p ∧ { t with regs := s.regs, cour := s.cour, hzn := s.hzn } = s)
  ∧ (∀ (s : State) (p v feat : Nat) (f : Flit), s.portIs p 4 = true → goodFrame f 2 → (s.port p).agreed = some (v, feat) →
      ((tsOf f).vers ≠ (s.ownTs p).vers ∨ (tsOf f).featLo ≠ feat ∨ (tsOf f).featHi ≠ 0) → (s.port p).attempt < 2 →
      ∃ t, exec (.ts2 p f) s = .next t ∧ (t.port p).attempt = (s.port p).attempt + 1 ∧ (t.port p).agreed = none ∧ t.portSt p = 4)
  ∧ (∀ (s : State) (p : Nat), s.portIs p 4 = true → (s.port p).attempt < 2 →
      ∃ t, exec (.negotiateTimeout p) s = .next t ∧ t.portSt p = 4 ∧ (t.port p).attempt = (s.port p).attempt + 1 ∧ (t.port p).agreed = none
        ∧ s.portsKept t p ∧ { t with cour := s.cour } = s)
  ∧ (∀ (s : State) (p : Nat), s.portIs p 4 = true → 2 ≤ (s.port p).attempt →
      ∃ t, exec (.negotiateTimeout p) s = .next t ∧ t.portSt p = 6 ∧ t.isF (curBase p) F.CUR_STAT_TRAIN_FAIL = true)

/-- What software and the line do to a port (R351, R355): EN set starts training, EN cleared disables, an active port going down as well, TRAIN retrains a
failed port, and the loss of lock takes an active link down, to training again where AUTO_RETRAIN allows and else to FAILED. -/
def Obligations.CourierPortControl : Prop :=
  (∀ (s : State) (p : Nat), s.portOn p = true → s.portSt p = 0 →
      ∃ t, exec (.curCtlEnSet p) s = .next t ∧ t.getF (curBase p) F.CUR_CTL_EN = 1 ∧ t.portSt p = 1
        ∧ { t with regs := s.regs, cour := s.cour } = s)
  ∧ (∀ (s : State) (p : Nat), s.portOn p = true → s.portSt p ≠ 5 →
      ∃ t, exec (.curCtlEnClear p) s = .next t ∧ t.getF (curBase p) F.CUR_CTL_EN = 0 ∧ t.portSt p = 0
        ∧ { t with regs := s.regs, cour := s.cour } = s)
  ∧ (∀ (s : State) (p : Nat), s.portActive p = true →
      ∃ t, exec (.curCtlEnClear p) s = .next t ∧ t.getF (curBase p) F.CUR_CTL_EN = 0 ∧ t.portSt p = 0 ∧ t.isF (curBase p) F.CUR_STAT_DOWN = true
        ∧ (t.port p).replay = [] ∧ (t.port p).txq = [] ∧ t.mem = s.mem ∧ t.chip = s.chip)
  ∧ (∀ (s : State) (p : Nat), s.portOn p = true → s.portSt p = 6 →
      ∃ t, exec (.curCtlTrain p) s = .next t ∧ t.portSt p = 1 ∧ { t with regs := s.regs, cour := s.cour } = s)
  ∧ (∀ (s : State) (p : Nat), s.portActive p = true → s.isF (curBase p) F.CUR_CTL_EN = true →
      ∃ t, exec (.lockLoss p) s = .next t ∧ t.portSt p = (if s.isF (curBase p) F.CUR_CTL_AUTO_RETRAIN = true then 1 else 6)
        ∧ t.isF (curBase p) F.CUR_STAT_DOWN = true
        ∧ (t.port p).replay = [] ∧ (t.port p).txq = [] ∧ t.mem = s.mem ∧ t.chip = s.chip)

/-- Flits (R341 to R343): a damaged flit is counted and only a message flit asks for a retry; every good flit delivers its acknowledgement, which drops
the flits that it covers from the replay buffer, and the count of one channel, and an idle flit no more than that: a port with nothing to send answers
it with one of its own (log entry 84). A good message flit in sequence advances the sequence and RX_FLITS and joins the message under way on its
channel, which with TAIL joins those that wait; one out of sequence is refused once. A RETRY that acknowledges nothing new sends the flits again from the one it names and counts a
replay, the timeout from the oldest; a further RETRY frame goes out while a refused flit is awaited; the eighth replay without progress takes the link
down. -/
def Obligations.CourierFlitsAndRetries : Prop :=
  (∀ (s : State) (p : Nat) (f : Flit), s.portActive p = true → flitBad f = true →
      ∃ t, exec (.idleFlit p f) s = .next t ∧ (t.port p).bad = (s.port p).bad + 1 ∧ (t.port p).retries = (s.port p).retries
        ∧ (t.port p).rxNext = (s.port p).rxNext ∧ s.portsKept t p ∧ { t with regs := s.regs, cour := s.cour, hzn := s.hzn } = s)
  ∧ (∀ (s : State) (p : Nat) (f : Flit), s.portActive p = true → flitBad f = false → flitKind f = 0 →
      ∃ t, exec (.idleFlit p f) s = .next t ∧ (t.port p).ccount = setAt (s.port p).ccount (flitCvc f) (flitCcount f)
        ∧ (t.port p).rxNext = (s.port p).rxNext ∧ (t.port p).bad = (s.port p).bad ∧ (t.port p).retries = (s.port p).retries
        ∧ ((s.port p).txq = [] →
            (t.port p).replay = (ackReplay (s.port p).replay (flitAck f)).getD (s.port p).replay
              ∧ (t.port p).txq = [] ∧ (t.port p).cvc = ((s.port p).cvc + 1) % 8
              ∧ (t.port p).out = flitBytes (linkHeader 0 0 0 ((s.port p).rxNext + 4095) (s.port p).cvc
                  ((s.port p).freed.getD (s.port p).cvc 0)) [])
        ∧ s.portsKept t p ∧ t.cour.inbox = s.cour.inbox ∧ { t with regs := s.regs, cour := s.cour, hzn := s.hzn } = s)
  ∧ (∀ (s : State) (p : Nat) (f : Flit), s.portActive p = true → flitBad f = true → (s.port p).refused = false →
      ∃ t, exec (.messageFlit p f) s = .next t ∧ (t.port p).refused = true ∧ (t.port p).retries = (s.port p).retries + 1
        ∧ (t.port p).rxNext = (s.port p).rxNext ∧ t.cour.inbox = s.cour.inbox
        ∧ s.portsKept t p ∧ { t with regs := s.regs, cour := s.cour, hzn := s.hzn } = s)
  ∧ (∀ (s : State) (p : Nat) (f : Flit), s.portActive p = true → flitBad f = false → flitKind f = 1 → flitSeq f ≠ (s.port p).rxNext →
      (s.port p).refused = false →
      ∃ t, exec (.messageFlit p f) s = .next t ∧ (t.port p).refused = true ∧ (t.port p).retries = (s.port p).retries + 1
        ∧ (t.port p).rxNext = (s.port p).rxNext ∧ t.cour.inbox = s.cour.inbox
        ∧ s.portsKept t p ∧ { t with regs := s.regs, cour := s.cour, hzn := s.hzn } = s)
  ∧ (∀ (s : State) (p : Nat) (f : Flit) (l : List Byte), s.portActive p = true → flitBad f = false → flitKind f = 1 →
      flitSeq f = (s.port p).rxNext → l = (if flitHead f = true then [] else SMap.get [] (s.port p).part (flitVc f)) ++ flitData f →
      ∃ t, exec (.messageFlit p f) s = .next t ∧ (t.port p).rxNext = ((s.port p).rxNext + 1) % 4096 ∧ (t.port p).refused = false
        ∧ t.cour.inbox = s.cour.inbox ++ (if flitTail f = true then [(p, cmsgOf l)] else [])
        ∧ SMap.get [] (t.port p).part (flitVc f) = (if flitTail f = true then [] else l)
        ∧ t.getF (curBase p) F.CUR_RX_FLITS_COUNT = satCount 32 (s.getF (curBase p) F.CUR_RX_FLITS_COUNT) 1
        ∧ s.portsKept t p ∧ { t with regs := s.regs, cour := s.cour, hzn := s.hzn } = s)
  ∧ (∀ (s : State) (p i : Nat) (f : Flit), s.portActive p = true → goodFrame f 3 → (s.port p).txq = [] →
      (s.port p).replay.findIdx? (fun e => decide (e.seq = leAt f.bytes 9 2 % 4096)) = some i →
      ackReplay (s.port p).replay (flitAck f) = none → (s.port p).stalls < 7 →
      ∃ t, exec (.retry p f) s = .next t ∧ (t.port p).stalls = (s.port p).stalls + 1 ∧ (t.port p).replay = (s.port p).replay
        ∧ t.getF (curBase p) F.CUR_RETRY_REPLAYS
            = satCount F.CUR_RETRY_REPLAYS.width (s.getF (curBase p) F.CUR_RETRY_REPLAYS) 1
        ∧ t.getF (curBase p) F.CUR_TX_FLITS_COUNT = satCount 32 (s.getF (curBase p) F.CUR_TX_FLITS_COUNT) ((s.port p).replay.length - i)
        ∧ s.portsKept t p ∧ { t with regs := s.regs, cour := s.cour, hzn := s.hzn } = s)
  ∧ (∀ (s : State) (p : Nat), s.portActive p = true → (s.port p).refused = true →
      ∃ t, exec (.retryRepeat p) s = .next t ∧ (t.port p).retries = (s.port p).retries + 1 ∧ s.portsKept t p ∧ { t with cour := s.cour } = s)
  ∧ (∀ (s : State) (p : Nat), s.portActive p = true → (s.port p).replay ≠ [] → (s.port p).stalls < 7 →
      ∃ t, exec (.ackTimeout p) s = .next t ∧ (t.port p).stalls = (s.port p).stalls + 1 ∧ (t.port p).replay = (s.port p).replay
        ∧ t.getF (curBase p) F.CUR_RETRY_TIMEOUTS
            = satCount F.CUR_RETRY_TIMEOUTS.width (s.getF (curBase p) F.CUR_RETRY_TIMEOUTS) 1
        ∧ t.getF (curBase p) F.CUR_TX_FLITS_COUNT = satCount 32 (s.getF (curBase p) F.CUR_TX_FLITS_COUNT) (s.port p).replay.length
        ∧ s.portsKept t p ∧ { t with regs := s.regs, cour := s.cour, hzn := s.hzn } = s)
  ∧ (∀ (s : State) (p : Nat), s.portActive p = true → (s.port p).replay ≠ [] → (s.port p).stalls = 7 →
      s.isF (curBase p) F.CUR_CTL_EN = true → s.isF (curBase p) F.CUR_CTL_AUTO_RETRAIN = true →
      ∃ t, exec (.ackTimeout p) s = .next t ∧ t.portSt p = 1 ∧ (t.port p).replay = [] ∧ t.isF (curBase p) F.CUR_STAT_DOWN = true)

/-- Routing (R346 to R349): a message for another device leaves by its route's only active port, across the mesh to it where it starts here; a request or
write of another device without such a port is discarded, counted and answered with POISON, a message of another class discarded and counted; and a
read from another device for a scratchpad or for HBM begins to be served by its port on the mesh. -/
def Obligations.CourierRouting : Prop :=
  (∀ (s : State) (k p q : Nat) (m : CMsg), s.pdOn 3 = true → s.inboxAt k = some (p, m) → m.dst ≠ s.ownCoord →
      s.activePorts (s.getF curShBase (F.CUR_ROUTE_PORTS.idx (4 * m.dst))) = [q] → s.linkHas q m = true →
      (p < 80 ∨ s.pathOpen (epEnd m.srcEp) (256 + q) = true) →
      ∃ t, exec (.messageRoute k) s = .next t ∧ t.cour.inbox = dropAt s.cour.inbox k
        ∧ (t.port q).replay.length + (t.port q).txq.length = (s.port q).replay.length + (s.port q).txq.length + m.flits
        ∧ (p < 80 → t.mesh = s.mesh) ∧ { t with regs := s.regs, cour := s.cour, mesh := s.mesh } = s)
  ∧ (∀ (s : State) (k p : Nat) (m : CMsg), s.pdOn 3 = true → s.inboxAt k = some (p, m) → m.dst ≠ s.ownCoord →
      s.activePorts (s.getF curShBase (F.CUR_ROUTE_PORTS.idx (4 * m.dst))) = [] → (2 ≤ mtypeClass m.mtype ∨ m.src ≠ s.ownCoord) →
      ∃ t, exec (.messageRoute k) s = .next t
        ∧ t.cour.inbox = dropAt s.cour.inbox k ++ (if mtypeClass m.mtype ≤ 1 then [(255, answerOf s.ownCoord m [] true)] else [])
        ∧ t.getF curShBase F.CUR_CNT_UNDELIVERED = satCount 16 (s.getF curShBase F.CUR_CNT_UNDELIVERED) 1
        ∧ t.isF curShBase F.CUR_ERR_UNDELIVERABLE = true ∧ t.mem = s.mem ∧ t.net = s.net)
  ∧ (∀ (s : State) (k p : Nat) (m : CMsg), s.pdOn 3 = true → s.inboxAt k = some (p, m) → m.dst = s.ownCoord → m.mtype = 0 → m.dstEp < 256 →
      0 < m.lines → (∀ v ∈ s.cour.serving, v.port ≠ p % 16 ∧ v.tok ≠ s.cour.nextTok) → s.pathOpen (256 + p % 16) m.dstEp = true →
      ∃ t, exec (.messageRoute k) s = .next t ∧ t.cour.inbox = dropAt s.cour.inbox k
        ∧ t.cour.serving = s.cour.serving ++ [⟨s.cour.nextTok, p % 16, m, 1, [], [], 0, false⟩]
        ∧ t.net = s.net ++ [⟨256 + p % 16, m.dstEp, m.dstEp, .read m.addr m.lines s.cour.nextTok⟩]
        ∧ { t with cour := s.cour, net := s.net, mesh := s.mesh } = s)
  ∧ (∀ (s : State) (k p pc : Nat) (m : CMsg), s.pdOn 3 = true → s.inboxAt k = some (p, m) → m.dst = s.ownCoord → m.mtype = 0 → 256 ≤ m.dstEp →
      m.dstEp ≠ 0x130 → 0 < m.lines → m.addr / 64 % 4 + m.lines ≤ 4 → pc = hbmPc (m.addr % 2 ^ 36) →
      (∀ v ∈ s.cour.serving, v.port ≠ p % 16 ∧ v.tok ≠ s.cour.nextTok) → s.pathOpen (256 + p % 16) (1024 + pc) = true →
      s.pcUsed (256 + p % 16) pc < 8 →
      ∃ t, exec (.messageRoute k) s = .next t ∧ t.cour.inbox = dropAt s.cour.inbox k
        ∧ t.cour.serving = s.cour.serving ++ [⟨s.cour.nextTok, p % 16, m, 1, [], [], 0, false⟩]
        ∧ t.net = s.net ++ [⟨256 + p % 16, 1024 + pc, 256, .read m.addr m.lines s.cour.nextTok⟩]
        ∧ { t with cour := s.cour, net := s.net, mesh := s.mesh } = s)

/-- Collectives and timeouts (R347, R356): a COLL message that fits no entry is discarded with COLL; while no other chunk is due and the hub reaches its
lines at once, a child's line is added into STAGE and counted, and the parent's lines are written to RESULT; a request without an
answer ends with POISON and TIMEOUT. -/
def Obligations.CourierCollectivesAndTimeouts : Prop :=
  (∀ (s : State) (k p : Nat) (m : CMsg), s.ownMsg k 9 = some (p, m) → (64 ≤ m.tree ∨ s.collValid m.tree = false) →
      ∃ t, exec (.collAdd k) s = .next t ∧ t.cour.inbox = dropAt s.cour.inbox k ∧ t.isF curShBase F.CUR_ERR_COLL = true
        ∧ { t with regs := s.regs, cour := s.cour, mesh := s.mesh } = s)
  ∧ (∀ (s : State) (k p : Nat) (m : CMsg), s.ownMsg k 9 = some (p, m) → m.tree < 64 → s.collValid m.tree = true →
      (s.coll m.tree F.CUR_COLL_CFG_CHILDREN).testBit (p % 16) = true → m.lines = 1 → m.addr % 64 = 0 →
      m.addr / 64 + 1 ≤ s.coll m.tree F.CUR_COLL_LINES_LINES → s.lineGood (s.collStage m.tree + m.addr) 272 true = true →
      s.hubFree (s.collStage m.tree + m.addr) → s.collDue = none →
      SMap.get 0 s.cour.collCnt (2 ^ 20 * m.tree + m.addr / 4096) + 1 < s.collC m.tree * s.chunkLines m.tree (m.addr / 4096) →
      ∃ t, exec (.collAdd k) s = .next t ∧ t.cour.inbox = dropAt s.cour.inbox k
        ∧ t.hbmRd (s.collStage m.tree + m.addr) 64
            = (atomLine (s.coll m.tree F.CUR_COLL_CFG_FMT) (s.hbmRd (s.collStage m.tree + m.addr) 64) (wholeLine (slice m.data 0 64))).1
        ∧ (∀ a, (a < s.collStage m.tree + m.addr ∨ s.collStage m.tree + m.addr + 64 ≤ a) → Mem.rd t.mem.hbm a = Mem.rd s.mem.hbm a)
        ∧ { t.mem with hbm := s.mem.hbm } = s.mem ∧ s.queuesKept t
        ∧ SMap.get 0 t.cour.collCnt (2 ^ 20 * m.tree + m.addr / 4096) = SMap.get 0 s.cour.collCnt (2 ^ 20 * m.tree + m.addr / 4096) + 1
        ∧ { t with regs := s.regs, cour := s.cour, mem := s.mem, flips := s.flips, mesh := s.mesh, hbmQ := s.hbmQ } = s)
  ∧ (∀ (s : State) (k p : Nat) (m : CMsg), s.ownMsg k 10 = some (p, m) → m.tree < 64 → s.collValid m.tree = true →
      s.coll m.tree F.CUR_COLL_CFG_ROOT = 0 → s.coll m.tree F.CUR_COLL_CFG_PARENT = p % 16 → m.data.length = 64 * m.lines →
      m.addr / 64 + m.lines ≤ s.coll m.tree F.CUR_COLL_LINES_LINES → s.coll m.tree F.CUR_COLL_CFG_CHILDREN = 0 →
      s.coll m.tree F.CUR_COLL_DONE_DONE_EN = 0 → s.collDue = none →
      (∀ i < m.lines, s.lineGood (s.collResult m.tree + m.addr + 64 * i) 272 true = true
        ∧ s.hubFree (s.collResult m.tree + m.addr + 64 * i)) →
      ∃ t, exec (.collBcast k) s = .next t ∧ t.cour.inbox = dropAt s.cour.inbox k
        ∧ t.hbmRd (s.collResult m.tree + m.addr) (64 * m.lines) = m.data
        ∧ (∀ a, (a < s.collResult m.tree + m.addr ∨ s.collResult m.tree + m.addr + 64 * m.lines ≤ a) → Mem.rd t.mem.hbm a = Mem.rd s.mem.hbm a)
        ∧ { t.mem with hbm := s.mem.hbm } = s.mem ∧ s.queuesKept t
        ∧ { t with regs := s.regs, cour := s.cour, mem := s.mem, flips := s.flips, mesh := s.mesh, hbmQ := s.hbmQ } = s)
  ∧ (∀ (s : State) (k : Nat) (o : Outst), s.cour.outst[k]? = some o → s.watches o.coord = false →
      ∃ t, exec (.curTimeout k) s = .next t ∧ o ∉ t.cour.outst
        ∧ t.net = s.net ++ [⟨4096 + o.coord, o.who, 256,
            if o.isRead then .readRsp o.key (if o.who = 272 then [] else List.replicate (64 * o.lines) 0) 0x86 o.iss else .ack 0x86 o.iss⟩]
        ∧ t.isF curShBase F.CUR_ERR_TIMEOUT = true ∧ t.mem = s.mem)

/-- An edge of CADENCE_IN (R290, R291, R293): while IN_EN is 0 or within 11,250 cycles of the last boundary it is a runt, counted and ignored; else it
begins the next slot, and the measured period enters the history. Without an edge a slot coasts at its limit, at most four in a row (R294); the fifth
limit is CAD_LOST: no slot runs and the history is empty (R295). CAD_CMD.SET has the next slot take the number in CAD_SLOT_SET (R293), and
CAD_SET_SLOT writes that number (R424). -/
def Obligations.CadenceEdgesAndCoasting : Prop :=
  (∀ (s u : State) (n : Nat), u = s.at n → u.cadLive = true → ¬(u.isF cadBase F.CAD_CTL_IN_EN = true ∧ 11250 ≤ u.now - u.cad.base) →
      ∃ t, exec (.cadenceInEdge n) s = .next t ∧ t.isF cadBase F.CAD_STAT_RUNT = true
        ∧ t.getF cadBase F.CAD_COUNTS_RUNT = satCount F.CAD_COUNTS_RUNT.width (u.getF cadBase F.CAD_COUNTS_RUNT) 1
        ∧ t.slotNo = u.slotNo ∧ { t with regs := u.regs } = u)
  ∧ (∀ (s u : State) (n : Nat), u = s.at n → u.cadLive = true → u.isF cadBase F.CAD_CTL_IN_EN = true → 11250 ≤ u.now - u.cad.base →
      (u.slotLost = true ∨ u.unfired = []) →
      ∃ t, exec (.cadenceInEdge n) s = .next t ∧ t.slotNo = u.nextSlot % 2 ^ 48 ∧ t.cad.base = u.now ∧ t.cad.seen = true ∧ t.cad.edge = true
        ∧ t.cad.fired = [] ∧ t.cad.setPend = false ∧ t.cad.resync = none ∧ t.slotLost = false ∧ t.getF cadBase F.CAD_PHASE_COAST = 0
        ∧ t.cad.hist = (if u.cad.seen && u.cad.edge && decide (u.now - u.cad.base ≤ 6400000)
            then ((u.now - u.cad.base) :: u.cad.hist).take 8 else u.cad.hist))
  ∧ (∀ (s u : State) (n : Nat), u = s.at n → u.cadLive = true → u.cad.seen = true → u.slotLost = false → u.cad.coasts < 4 →
      u.coastLimit ≤ u.now - u.cad.base → u.unfired = [] →
      ∃ t, exec (.coastedBoundary n) s = .next t ∧ t.slotNo = u.nextSlot % 2 ^ 48 ∧ t.cad.base = u.now ∧ t.cad.edge = false
        ∧ t.cad.coasts = u.cad.coasts + 1 ∧ t.cad.fired = [] ∧ t.cad.hist = u.cad.hist ∧ t.getF cadBase F.CAD_PHASE_COAST = 1)
  ∧ (∀ (s u : State) (n : Nat), u = s.at n → u.cadLive = true → u.cad.seen = true → u.slotLost = false → u.cad.coasts = 4 →
      u.coastLimit ≤ u.now - u.cad.base → u.unfired = [] →
      ∃ t, exec (.cadLost n) s = .next t ∧ t.slotLost = true ∧ t.isF cadBase F.CAD_STAT_LOST = true ∧ t.cad.hist = [] ∧ t.cad.coasts = 5
        ∧ t.slotNo = u.slotNo ∧ (u.pdOn 1 = true → t.pins.alertN = false) ∧ t.mem = u.mem ∧ t.chip = u.chip)
  ∧ (∀ s : State, s.cadLive = true → exec .cadCmdSet s = .next { s with cad := { s.cad with setPend := true } })
  ∧ (∀ s : State, s.runs 0x0602 = true → s.front.ok 6 [] = true → s.cadLive = true →
      ∃ t, exec .cadSetSlot s = .next t ∧ s.underway t ∧ t.cad = { s.cad with setPend := true } ∧ t.nextSlot = s.front.fld 0 6
        ∧ t.slotNo = s.slotNo ∧ { t with sdio := s.sdio, mail := s.mail, regs := s.regs, cad := s.cad, free := s.free } = s)

/-- Schedule events (R297, R298, R300 to R302, R94, R63, R498, R556; Table 10.2): ADMIT in RUNNING admits the slot's result set; DEADLINE of a result set that its
contexts have finished, or of none, does nothing, and of another sets LATE, also where STOP or an entry to FAULTED ended the result set; TRACKER sets clip values; SCRUB asks for a slot's scrub steps; RECAL records open and close windows; SECURE in ARMED
raises the request; BIST begins a slice while SVC_EN is 1 and the state allows one, and else does nothing, nor while a slice is in progress (log entry 96); WAKE withdraws
Horizon's REST requests of its regions and has those that Horizon powered off switched on, at once or in their turn (R516), REST raises requests. That j
of R207 counts every ADMIT, of rejected and void result sets too, is log entry 29. -/
def Obligations.ScheduleEvents : Prop :=
  (∀ (s u : State) (e n : Nat), u = s.at n → u.dueNow e 1 = true → u.chip.st = .running → u.admissionHeld = false →
      ∃ t, exec (.admitRecord e n) s = .next t ∧ t.job.j = u.job.j + 1 ∧ t.job.lastAdmit = u.slotNo ∧ (t.slotRec u.slotNo).isSome = true
        ∧ t.cad = { u.cad with fired := u.cad.fired ++ [e] })
  ∧ (∀ (s u : State) (e n : Nat), u = s.at n → u.dueNow e 2 = true →
      u.lateCtx ((u.evRec e).arg0 % 256) (u.evRec e).arg1 ((u.slotNo + 2 ^ 48 - (u.evRec e).lag) % 2 ^ 48) = none → exec (.deadline e n) s = .next (u.noted e))
  ∧ (∀ (s u : State) (e n k : Nat) (r : ResultSet), u = s.at n → u.dueNow e 2 = true → k = (u.slotNo + 2 ^ 48 - (u.evRec e).lag) % 2 ^ 48 →
      u.sets.find? (fun r => decide (r.slot = k)) = some r →
      (∃ c ∈ onesOf 32 (u.evRec e).arg1, u.ctxFinished ((u.evRec e).arg0 % 256) c r.j = false) →
      ∃ t, exec (.deadline e n) s = .next t ∧ t.isF cadBase F.CAD_STAT_LATE = true
        ∧ t.getF cadBase F.CAD_LATE_CNT_COUNT = satCount F.CAD_LATE_CNT_COUNT.width (u.getF cadBase F.CAD_LATE_CNT_COUNT) 1
        ∧ (t.slotRec k).map SlotRec.flags = (u.slotRec k).map (fun x => x.flags ||| 1) ∧ t.sets = u.sets ∧ t.mem = u.mem)
  ∧ (∀ (s u : State) (e n k : Nat) (x : Nat × List Nat), u = s.at n → u.dueNow e 2 = true → k = (u.slotNo + 2 ^ 48 - (u.evRec e).lag) % 2 ^ 48 →
      u.sets.find? (fun r => decide (r.slot = k)) = none → u.job.ended.find? (fun y => decide (y.1 = k)) = some x →
      (∃ c ∈ onesOf 32 (u.evRec e).arg1, ¬ 32 * ((u.evRec e).arg0 % 256) + c ∈ x.2) →
      ∃ t, exec (.deadline e n) s = .next t ∧ t.isF cadBase F.CAD_STAT_LATE = true ∧ t.sets = u.sets ∧ t.mem = u.mem)
  ∧ (∀ (s u : State) (e n : Nat), u = s.at n → u.dueNow e 3 = true →
      ∃ t, exec (.tracker e n) s = .next t ∧ t.job.trk.map TrkEnt.win = u.job.trk.map TrkEnt.win
        ∧ (∀ i, i < u.job.trk.length → (t.job.trk[i]?).map TrkEnt.clip = (u.job.trk[i]?).map (fun x =>
            match x.win with
            | m :: l => f32mul (l.foldl (fun a v => if f32lt a v then v else a) m) (trkMargin (trkRec u.img i))
            | [] => trkC0 (trkRec u.img i)))
        ∧ { t.job with trk := u.job.trk } = u.job ∧ { t with job := u.job, cad := u.cad } = u)
  ∧ (∀ (s u : State) (e n : Nat), u = s.at n → u.dueNow e 4 = true →
      ∃ t, exec (.scrub e n) s = .next t
        ∧ (∀ r i, r < 16 → i < 256 → u.pdOn (4 + r) = true → (u.evRec e).arg0.testBit r = true →
            u.isF (macBase (256 * r + i)) F.MAC_ECC_CTL_SCRUB_EN = true → (u.mx (256 * r + i)).scrubReq = 0 →
            (t.mx (256 * r + i)).scrubReq = ceilDiv 512 (u.getF (macBase (256 * r + i)) F.MAC_ECC_CTL_SCRUB_PERIOD))
        ∧ (∀ m, ((u.evRec e).arg0.testBit (m / 256) = false ∨ u.pdOn (4 + m / 256) = false) → t.mx m = u.mx m)
        ∧ { t with macros := u.macros, regs := u.regs, cad := u.cad, blocks := u.blocks } = u)
  ∧ (∀ (s u : State) (e n : Nat), u = s.at n → u.dueNow e 5 = true → u.compOn ((u.evRec e).arg0 % 256) = true →
      ∃ t, exec (.recalOpen e n) s = .next t ∧ t.isF (blkBase ((u.evRec e).arg0 % 256)) F.CIR_STAT_RECAL = true
        ∧ { t with regs := u.regs, cad := u.cad } = u)
  ∧ (∀ (s u : State) (e n : Nat), u = s.at n → u.dueNow e 6 = true → u.compOn ((u.evRec e).arg0 % 256) = true →
      ∃ t, exec (.recalClose e n) s = .next t ∧ t.isF (blkBase ((u.evRec e).arg0 % 256)) F.CIR_STAT_RECAL = false
        ∧ { t with regs := u.regs, cad := u.cad } = u)
  ∧ (∀ (s u : State) (e n : Nat), u = s.at n → u.dueNow e 8 = true → u.chip.st = .armed → u.pdOn 3 = true → u.isF nimBase F.NIM_STAT_REQ = false →
      ∃ t, exec (.secureRecord e n) s = .next t ∧ t.isF nimBase F.NIM_STAT_REQ = true ∧ { t with regs := u.regs, cad := u.cad } = u)
  ∧ (∀ (s u : State) (e n : Nat), u = s.at n → u.dueNow e 7 = true →
      (u.isF bstBase F.BST_CTL_SVC_EN = false ∨ u.bistStateOk = false ∨ u.sliceBusy = true ∨ u.pdOn 3 = false) →
      exec (.bistRecord e n) s = .next (u.noted e))
  ∧ (∀ (s u : State) (e n : Nat), u = s.at n → u.dueNow e 7 = true → u.isF bstBase F.BST_CTL_SVC_EN = true → u.pdOn 3 = true →
      u.bistStateOk = true → u.sliceBusy = false →
      exec (.bistRecord e n) s = .next ((u.noted e).sliceStart 2 (u.evRec e).arg1 (u.evRec e).arg0 none))
  ∧ (∀ (s u : State) (e n : Nat), u = s.at n → u.dueNow e 9 = true → u.chip.st ≠ .sleep → u.pdOn 1 = true →
      ∃ t, exec (.wakeRecord e n) s = .next t
        ∧ t.getF hznBase F.HZN_REST_REQ = u.getF hznBase F.HZN_REST_REQ &&& (0xFFFF ^^^ ((u.evRec e).arg0 % 65536))
        ∧ t.getF hznBase F.HZN_REST_OFF = u.getF hznBase F.HZN_REST_OFF &&& (0xFFFF ^^^ ((u.evRec e).arg0 % 65536))
        ∧ (∀ r < 16, (u.getF hznBase F.HZN_REST_OFF).testBit r = true → (u.evRec e).arg0.testBit r = true → u.pdPow (4 + r) = false →
            4 + r ∈ t.power.settling ∨ (4 + r, true) ∈ t.power.plan)
        ∧ { t with regs := u.regs, cad := u.cad, power := u.power } = u)
  ∧ (∀ (s u : State) (e n : Nat), u = s.at n → u.dueNow e 10 = true → u.chip.st ≠ .sleep → u.pdOn 1 = true →
      ∃ t, exec (.restRecord e n) s = .next t
        ∧ t.getF hznBase F.HZN_REST_REQ = u.getF hznBase F.HZN_REST_REQ ||| (u.evRec e).arg0 % 65536
        ∧ { t with regs := u.regs, cad := u.cad } = u)

/-- CADENCE_OUT (R304): a due pulse drives the pin, with OUT_MODE 0 it stays low, and it falls 100 cycles later; a beacon of the watched port that names
another slot leaves its difference for the next boundary (R306). A hand-off for one of the next 16 slots, or for the current one while its ADMIT
has not fired, is held with its shape record; one for another slot, for the current one after its ADMIT, or for a slot that a hand-off is held for, is
discarded with HANDOFF_STALE (R354). That one is discarded so while RX_EN is 0 is log entry 115. -/
def Obligations.PulsesBeaconsAndHandoffs : Prop :=
  (∀ (s u : State) (p n : Nat) (l : List Nat), u = s.at n → u.cad.pulses = p :: l → u.cadLive = true → p ≤ u.now →
      u.getF cadBase F.CAD_CTL_OUT_MODE ≠ 0 →
      ∃ t, exec (.cadenceOutPulse n) s = .next t ∧ t.pins = { u.pins with cadenceOut := true }
        ∧ t.cad = { u.cad with pulses := l, pulseEnd := some (u.now + 100) } ∧ { t with pins := u.pins, cad := u.cad } = u)
  ∧ (∀ (s u : State) (p n : Nat) (l : List Nat), u = s.at n → u.cad.pulses = p :: l → u.cadLive = true → p ≤ u.now →
      u.getF cadBase F.CAD_CTL_OUT_MODE = 0 → exec (.cadenceOutPulse n) s = .next { u with cad := { u.cad with pulses := l } })
  ∧ (∀ (s u : State) (e n : Nat), u = s.at n → u.cad.pulseEnd = some e → e ≤ u.now →
      exec (.cadenceOutPulseEnd n) s = .next { u with pins := { u.pins with cadenceOut := false }, cad := { u.cad with pulseEnd := none } })
  ∧ (∀ (s u : State) (p slot n w : Nat) (f : Flit), u = s.at n → u.cadLive = true → u.portActive p = true → goodFrame f 4 → slot = leAt f.bytes 9 6 →
      u.isF cadBase F.CAD_CTL_BEACON_RX = true →
      u.getF cadBase F.CAD_CTL_BEACON_PORT = p → w = (if u.phase < 32768 then u.slotNo else (u.slotNo + 1) % 2 ^ 48) → slot ≠ w →
      ∃ t, exec (.beacon p f n) s = .next t ∧ t.cad = { u.cad with resync := some (toSigned 48 (slot + 2 ^ 48 - w)) }
        ∧ t.isF cadBase F.CAD_STAT_RESYNC = true ∧ t.slotNo = u.slotNo ∧ t.mem = u.mem)
  ∧ (∀ (s : State) (k p : Nat) (m : CMsg), s.ownMsg k 8 = some (p, m) → s.isF curShBase F.CUR_HANDOFF_RX_EN = true →
      (m.addr % 2 ^ 48 + 2 ^ 48 - s.slotNo) % 2 ^ 48 ≤ 16 →
      ((m.addr % 2 ^ 48 + 2 ^ 48 - s.slotNo) % 2 ^ 48 = 0 → ∀ e ∈ s.cad.fired, (s.evRec e).kind ≠ 1) →
      (∀ e ∈ s.job.handoffs, e.1 ≠ m.addr % 2 ^ 48) →
      ∃ t, exec (.handoff k) s = .next t ∧ t.job.handoffs = s.job.handoffs ++ [(m.addr % 2 ^ 48, (m.attr % 4, padTo 64 m.data))]
        ∧ t.cour.inbox = dropAt s.cour.inbox k ∧ { t with job := s.job, cour := s.cour, mesh := s.mesh } = s)
  ∧ (∀ (s : State) (k p : Nat) (m : CMsg), s.ownMsg k 8 = some (p, m) →
      (s.isF curShBase F.CUR_HANDOFF_RX_EN = false ∨ 16 < (m.addr % 2 ^ 48 + 2 ^ 48 - s.slotNo) % 2 ^ 48
        ∨ ((m.addr % 2 ^ 48 + 2 ^ 48 - s.slotNo) % 2 ^ 48 = 0 ∧ ∃ e ∈ s.cad.fired, (s.evRec e).kind = 1)
        ∨ ∃ e ∈ s.job.handoffs, e.1 = m.addr % 2 ^ 48) →
      ∃ t, exec (.handoff k) s = .next t ∧ t.job.handoffs = s.job.handoffs ∧ t.isF curShBase F.CUR_ERR_HANDOFF_STALE = true
        ∧ t.cour.inbox = dropAt s.cour.inbox k ∧ t.mem = s.mem)

/-- Power (R508, R514, R516, R419, R524, R527; Table 1.12): PWRGOOD_RISE brings the device from OFF to BOOT with only PD00 on, its straps sampled and MRAM
as it was; PWRGOOD_FALL leaves a last-words record and the device OFF. A power request that breaks the dependency rule switches nothing and sets
DEP_ERR; one that switches on at most four domains begins their wake latencies, and PWR_SET does the same and waits for them; PWR_SET of a compute domain that is on
switches it off and replies; a domain that settles is on, but a compute domain whose scratchpad domain has no power is held in reset until that one
settles too (R514; it then no longer counts among the four that settle: log entry 108). That HBM reads as empty after PWRGOOD is log entry 4. -/
def Obligations.PowerSwitching : Prop :=
  (∀ (s : State) (b i f : Nat), s.pins.pwrgood = false → s.pins.resetN = true →
      ∃ t, exec (.pwrgoodRise b i f) s = .next t ∧ t.chip = ⟨.boot, .off, false, 0⟩ ∧ t.on = 1 ∧ t.getF chipBase F.CHIP_BOOT_STAGE = 1
        ∧ t.getF chipBase F.CHIP_RST_CAUSE_CAUSE = 0 ∧ t.power.strapBoot = b % 4 ∧ t.power.feedtag = f % 16 ∧ t.power.strapIo18 = i % 2
        ∧ t.pins.pwrgood = true ∧ t.mail.sess = false ∧ t.mem.hbm = [] ∧ t.mem.wshadow = s.mem.wshadow ∧ t.mem.cirrus = s.mem.cirrus
        ∧ t.pml.slots = s.pml.slots ∧ t.store.imgs = s.store.imgs ∧ t.store.active = s.store.active)
  ∧ (∀ s : State, s.pins.pwrgood = true → s.chip.st ≠ .off →
      ∃ t, exec .pwrgoodFall s = .next t ∧ t.chip.st = .off ∧ t.chip.prev = s.chip.st ∧ t.on = 0 ∧ t.pins.pwrgood = false
        ∧ t.pins.resetN = s.pins.resetN ∧ t.mail.sess = false ∧ t.pml.words ≠ [] ∧ t.pml.slots = s.pml.slots ∧ t.mem.wshadow = s.mem.wshadow
        ∧ t.mem.hbm = [] ∧ t.store.imgs = s.store.imgs)
  ∧ (∀ (s : State) (hi : Bool) (v : Nat), s.isIn [.boot, .ready] = true →
      s.pwrPlan (if hi then 0xFF * 2 ^ 32 else 0xFFFFFFF0) (if hi then v * 2 ^ 32 else v) s.power.cmd = none →
      ∃ t, exec (.pwrReqWrite hi v) s = .next t ∧ t.isF pwrBase F.PWR_STAT_DEP_ERR = true ∧ t.reg (pwrBase + 8) = s.reg (pwrBase + 8)
        ∧ { t with regs := s.regs } = s)
  ∧ (∀ (s : State) (v : Nat) (new : List Nat), s.isIn [.boot, .ready] = true → s.power.plan = [] → s.power.settling = [] →
      (∀ d, 4 ≤ d → d < 32 → s.pdPow d = true → v.testBit d = true) →
      new = (List.range 32).filter (fun (d : Nat) => decide (4 ≤ d) && v.testBit d && !s.pdPow d) → 0 < new.length → new.length ≤ 4 →
      (s.pwrPlan 0xFFFFFFF0 v s.power.cmd).isSome = true →
      ∃ t, exec (.pwrReqWrite false v) s = .next t ∧ t.power.settling = new ∧ t.power.plan = [] ∧ t.on = s.on
        ∧ (∀ d, 4 ≤ d → d < 32 → (t.reg (pwrBase + 8)).toNat.testBit d = v.testBit d)
        ∧ { t with regs := s.regs, power := s.power } = s)
  ∧ (∀ s : State, s.runs 0x0302 = true → s.front.ok 16 [] = true → s.front.fld 0 8 % 16 = 0 → s.front.fld 0 8 < 2 ^ 40 →
      s.power.settling = [] → s.power.plan = [] → s.took.pwrPlan (s.front.fld 0 8) (s.front.fld 8 8) (some s.mail.nextId) = none →
      ∃ t, exec .pwrSet s = .next t ∧ s.answered t 0x0201 [] ∧ t.isF pwrBase F.PWR_STAT_DEP_ERR = true ∧ t.on = s.on ∧ t.power = s.power)
  ∧ (∀ s : State, s.runs 0x0302 = true → s.front.ok 16 [] = true → s.front.fld 0 8 % 16 = 0 → s.front.fld 0 8 < 2 ^ 40 →
      s.power.settling = [] → s.power.plan = [] → (∀ d, d < 40 → (s.front.fld 0 8).testBit d = true → (s.front.fld 8 8).testBit d = s.pdPow d) →
      (s.took.pwrPlan (s.front.fld 0 8) (s.front.fld 8 8) (some s.mail.nextId)).isSome = true →
      ∃ t, exec .pwrSet s = .next t ∧ s.answered t 0 (leBytes 8 s.onMask) ∧ t.on = s.on ∧ t.power.settling = [] ∧ t.power.plan = []
        ∧ { t with sdio := s.sdio, mail := s.mail, regs := s.regs, power := s.power } = s)
  ∧ (∀ (s : State) (new : List Nat), s.runs 0x0302 = true → s.front.ok 16 [] = true → s.front.fld 0 8 % 16 = 0 → s.front.fld 0 8 < 2 ^ 40 →
      s.power.settling = [] → s.power.plan = [] →
      (∀ d, d < 40 → (s.front.fld 0 8).testBit d = true → s.pdPow d = true → (s.front.fld 8 8).testBit d = true) →
      new = (List.range 40).filter (fun (d : Nat) => (s.front.fld 0 8).testBit d && (s.front.fld 8 8).testBit d && !s.pdPow d) →
      0 < new.length → new.length ≤ 4 → (s.took.pwrPlan (s.front.fld 0 8) (s.front.fld 8 8) (some s.mail.nextId)).isSome = true →
      ∃ t, exec .pwrSet s = .next t ∧ s.underway t ∧ t.power.settling = new ∧ t.power.plan = [] ∧ t.power.cmd = some s.mail.nextId ∧ t.on = s.on
        ∧ { t with sdio := s.sdio, mail := s.mail, regs := s.regs, power := s.power, free := s.free } = s)
  ∧ (∀ (s : State) (d : Nat), s.runs 0x0302 = true → s.front.ok 16 [] = true → 4 ≤ d → d < 20 → s.front.fld 0 8 = 2 ^ d →
      (s.front.fld 8 8).testBit d = false → s.pdPow d = true → s.power.settling = [] → s.power.plan = [] → s.bist.slice = none →
      (s.took.pwrPlan (s.front.fld 0 8) (s.front.fld 8 8) (some s.mail.nextId)).isSome = true →
      ∃ t, exec .pwrSet s = .next t ∧ s.answered t 0 (leBytes 8 t.onMask) ∧ t.pdPow d = false ∧ (∀ q, q ≠ d → t.pdPow q = s.pdPow q)
        ∧ t.chip = s.chip ∧ t.mem.spd = s.mem.spd ∧ t.mem.hbm = s.mem.hbm ∧ t.mem.wshadow = s.mem.wshadow)
  ∧ (∀ (s : State) (d : Nat), 4 ≤ d → d < 20 → d ∈ s.power.settling → d ∉ s.power.held → s.pdPow (d + 16) = false → s.power.plan = [] →
      exec (.domainSettled d) s = .next { s with power := { s.power with held := s.power.held ++ [d] } })
  ∧ (∀ (s : State) (d : Nat), d < 40 → d ∈ s.power.settling → (4 ≤ d ∧ d < 20 → s.pdPow (d + 16) = true) →
      (20 ≤ d ∧ d < 36 → d - 16 ∉ s.power.held) → s.power.plan = [] → s.power.wake = 0 → s.takenOp 0x0302 = none → s.takenOp 0x0201 = none →
      ∃ t, exec (.domainSettled d) s = .next t ∧ t.pdOn d = true ∧ t.power.settling = s.power.settling.filter (fun x => decide (x ≠ d))
        ∧ (∀ q, q ≠ d → t.pdOn q = s.pdOn q) ∧ t.chip = s.chip ∧ t.mem.hbm = s.mem.hbm ∧ t.mem.wshadow = s.mem.wshadow)

/-- The other resets (R525 to R527): RESET_N low and the soft reset pulse return everything but MRAM, fuses and HBM to reset, with only PD00 on; their
ends sample the straps and record the cause; TRST_N resets the test port alone. That a low RESET_N
lasts at least 100 ns (R582) is log entry 109, that macro rows and scratchpads read 0 after a reset log entry 4. -/
def Obligations.ChipResets : Prop :=
  (∀ s : State, s.pins.resetN = true → s.chip.st ≠ .off →
      ∃ t, exec .resetNLow s = .next t ∧ t.chip.st = .boot ∧ t.on = 1 ∧ t.pins.resetN = false ∧ t.mail.sess = false ∧ t.img = []
        ∧ t.power.selfRef = true ∧ t.mem.hbm = s.mem.hbm ∧ t.mem.wshadow = s.mem.wshadow ∧ t.mem.rows = [] ∧ t.mem.spd = []
        ∧ t.getF chipBase F.CHIP_RST_CAUSE_PREV_STATE = s.chip.st.code ∧ t.pml.slots = s.pml.slots ∧ t.tap = s.tap)
  ∧ (∀ (s : State) (b i f : Nat), s.pins.resetN = false → s.chip.st ≠ .off →
      ∃ t, exec (.resetNRise b i f) s = .next t ∧ t.pins = { s.pins with resetN := true } ∧ t.getF chipBase F.CHIP_RST_CAUSE_CAUSE = 1
        ∧ t.power.strapBoot = b % 4 ∧ t.power.strapIo18 = i % 2 ∧ t.power.feedtag = f % 16 ∧ t.power.pulse = 0
        ∧ { t with pins := s.pins, power := s.power, cad := s.cad, regs := s.regs } = s)
  ∧ (∀ (s : State) (v : Nat), s.chip.st ≠ .off → s.power.pulse = 0 → bits v 0 16 = 0xB007 → v.testBit 16 = true →
      exec (.chipRstSoft v) s = .next { s with power := { s.power with pulse := 1 } })
  ∧ (∀ (s : State) (v : Nat), (bits v 0 16 ≠ 0xB007 ∨ v.testBit 16 = false) → exec (.chipRstSoft v) s = .next s)
  ∧ (∀ s : State, s.power.pulse = 1 →
      ∃ t, exec .softResetPulse s = .next t ∧ t.chip.st = .boot ∧ t.on = 1 ∧ t.power.pulse = 2 ∧ t.mail.sess = false ∧ t.img = []
        ∧ t.mem.hbm = s.mem.hbm ∧ t.mem.wshadow = s.mem.wshadow ∧ t.pins.resetN = s.pins.resetN)
  ∧ (∀ (s : State) (b i f : Nat), s.power.pulse = 2 →
      ∃ t, exec (.softResetPulseEnd b i f) s = .next t ∧ t.getF chipBase F.CHIP_RST_CAUSE_CAUSE = 2 ∧ t.power.pulse = 0
        ∧ t.power.strapBoot = b % 4 ∧ { t with power := s.power, cad := s.cad, regs := s.regs } = s)
  ∧ (∀ s : State, exec .trstNLow s = .next { s with tap := Tap.init })

/-- Step changes of a region clock (R19 to R24): a step within reach of its powered neighbours becomes the target, another sets LIMIT_ERR; a rise takes
effect when the LDO has settled, a fall when the synthesizer has locked. An LDO out of its band while settled sets OOR, fills the region's slot and
throttles it (Table 1.7, R446). The planes of a region count toward its governor's window (R25): the cycle in which the budget is reached counts one hit and
stands whole, planes after it are held, and the window's end restarts the count and issues what was held from the next window's first cycle on (R26; where
windows lie, and that held planes issue from that cycle on, is log entry 78). -/
def Obligations.RegionClocksAndSupplies : Prop :=
  (∀ (s : State) (r v : Nat), r < 16 → s.pdOn 3 = true → v % 16 ≤ 10 → s.stepOk r (min (v % 16) (s.getF (rgnBase r) F.RGN_ACLK_CAP)) = true →
      s.pdOn (4 + r) = true → (s.rx r).chg = none → min (v % 16) (s.getF (rgnBase r) F.RGN_ACLK_CAP) ≠ s.eff r →
      ∃ t, exec (.rgnAclkStepWrite r v) s = .next t ∧ t.getF (rgnBase r) F.RGN_ACLK_STEP = v % 16
        ∧ (t.rx r).chg = some ⟨s.eff r, min (v % 16) (s.getF (rgnBase r) F.RGN_ACLK_CAP), 0⟩ ∧ t.eff r = s.eff r
        ∧ t.getF (rgnBase r) F.RGN_ACLK_PENDING = 1 ∧ { t with regs := s.regs, regions := s.regions } = s)
  ∧ (∀ (s : State) (r v : Nat), r < 16 → s.pdOn 3 = true → v % 16 ≤ 10 → s.stepOk r (min (v % 16) (s.getF (rgnBase r) F.RGN_ACLK_CAP)) = false →
      ∃ t, exec (.rgnAclkStepWrite r v) s = .next t ∧ t.isF (rgnBase r) F.RGN_ACLK_LIMIT_ERR = true
        ∧ t.getF (rgnBase r) F.RGN_ACLK_STEP = s.getF (rgnBase r) F.RGN_ACLK_STEP ∧ t.eff r = s.eff r ∧ { t with regs := s.regs } = s)
  ∧ (∀ (s : State) (r a n : Nat), (s.rx r).chg = some ⟨a, n, 0⟩ → a ≤ n →
      ∃ t, exec (.synthesizerLocked r) s = .next t ∧ (t.rx r).chg = some ⟨a, n, 1⟩ ∧ { t with regions := s.regions } = s)
  ∧ (∀ (s : State) (r a n : Nat), (s.rx r).chg = some ⟨a, n, 0⟩ → n < a → n ≤ 10 →
      ∃ t, exec (.synthesizerLocked r) s = .next t ∧ (t.rx r).chg = some ⟨a, n, 1⟩ ∧ t.eff r = n
        ∧ t.getF (rgnBase r) F.RGN_LDO_STAT_SETTLED = 0 ∧ { t with regs := s.regs, regions := s.regions } = s)
  ∧ (∀ (s : State) (r a n : Nat), (s.rx r).chg = some ⟨a, n, 1⟩ → (s.rx r).queued = none → n ≤ 10 →
      ∃ t, exec (.ldoSettled r) s = .next t ∧ (t.rx r).chg = none ∧ t.eff r = n ∧ t.getF (rgnBase r) F.RGN_LDO_STAT_SETTLED = 1
        ∧ t.getF (rgnBase r) F.RGN_ACLK_PENDING = 0 ∧ 590 + 20 * n ≤ t.getF (rgnBase r) F.RGN_LDO_STAT_VOUT_MV
        ∧ t.getF (rgnBase r) F.RGN_LDO_STAT_VOUT_MV ≤ 610 + 20 * n
        ∧ { t with regs := s.regs, regions := s.regions, free := s.free } = s)
  ∧ (∀ (s : State) (r : Nat), r < 16 → s.pdOn (4 + r) = true → s.isF (rgnBase r) F.RGN_LDO_STAT_SETTLED = true →
      s.isF (rgnBase r) F.RGN_ERR_STAT_VALID = false →
      ∃ t, exec (.rgnLdoOor r) s = .next t ∧ t.isF (rgnBase r) F.RGN_LDO_STAT_OOR = true ∧ t.isF (rgnBase r) F.RGN_ERR_STAT_VALID = true
        ∧ t.isF (rgnBase r) F.RGN_ERR_STAT_THROTTLE = true ∧ bits (t.getF (rgnBase r) F.RGN_ERR_REC_LO_ID) 16 8 = 0x9A
        ∧ { t with regs := s.regs } = s)
  ∧ (∀ (s : State) (r : Nat), r < 16 → s.pdOn (4 + r) = true → (s.rx r).hit = none →
      (∀ p ∈ (s.rx r).planes, p.1 < (s.rx r).winStart + 256) →
      ∃ t, exec (.governorWindowEnd r) s = .next t ∧ t.rx r = { s.rx r with win := (s.rx r).win + 1, planes := [] } ∧ (t.rx r).act = 0
        ∧ (∀ q, q ≠ r → t.rx q = s.rx q) ∧ { t with regions := s.regions } = s)
  ∧ (∀ (s : State) (r h : Nat), r < 16 → s.pdOn (4 + r) = true → (s.rx r).hit = some h → h < (s.rx r).winStart + 256 →
      (∀ p ∈ (s.rx r).planes, p.1 ≤ h) →
      ∃ t, exec (.governorWindowEnd r) s = .next t ∧ t.rx r = { s.rx r with win := (s.rx r).win + 1, planes := [], hit := none }
        ∧ (∃ k ≤ 256, t.getF (rgnBase r) F.RGN_GOV_STAT_STRETCH
            = satCount F.RGN_GOV_STAT_STRETCH.width (s.getF (rgnBase r) F.RGN_GOV_STAT_STRETCH) k)
        ∧ (∀ q, q ≠ r → t.rx q = s.rx q) ∧ { t with regions := s.regions, regs := s.regs, free := s.free } = s)
  ∧ (∀ (s : State) (b h c a : Nat) (l : List (Nat × Nat × Nat)), b < 256 → s.pdOn (4 + b / 16) = true → (s.rx (b / 16)).hit = some h →
      (s.rx (b / 16)).planes = l ++ [(c, b, a)] → (∀ p ∈ l, p.1 ≤ h) → h < c → c < (s.rx (b / 16)).winStart + 256 →
      (s.rx (b / 16)).winStart + 256 ≤ c + 63 → a < s.budget (b / 16) →
      ∃ t, exec (.governorWindowEnd (b / 16)) s = .next t ∧ (t.rx (b / 16)).planes = [((s.rx (b / 16)).winStart + 256, b, a)]
        ∧ (t.rx (b / 16)).hit = none ∧ (t.rx (b / 16)).act = a ∧ (t.bx b).lastPlane = some ((s.rx (b / 16)).winStart + 256) ∧ s.othersKept t b
        ∧ t.mem = s.mem ∧ t.macros = s.macros)
  ∧ (∀ (s : State) (b c a : Nat), (s.rx (b / 16)).hit = none → c < (s.rx (b / 16)).winStart + 256 →
      (s.rx (b / 16)).act + a < s.budget (b / 16) →
      (s.govPlane b c a).rx (b / 16) = { s.rx (b / 16) with planes := (s.rx (b / 16)).planes ++ [(c, b, a)] }
        ∧ ((s.govPlane b c a).rx (b / 16)).act = (s.rx (b / 16)).act + a ∧ { s.govPlane b c a with regions := s.regions } = s)
  ∧ (∀ (s : State) (b c a : Nat), (s.rx (b / 16)).hit = none → c < (s.rx (b / 16)).winStart + 256 →
      (∀ p ∈ (s.rx (b / 16)).planes, p.1 ≤ c) → (s.rx (b / 16)).act < s.budget (b / 16) → s.budget (b / 16) ≤ (s.rx (b / 16)).act + a →
      (s.govPlane b c a).rx (b / 16) = { s.rx (b / 16) with planes := (s.rx (b / 16)).planes ++ [(c, b, a)], hit := some c }
        ∧ ((s.govPlane b c a).rx (b / 16)).act = (s.rx (b / 16)).act + a ∧ ((s.govPlane b c a).rx (b / 16)).heldOf b = []
        ∧ (s.govPlane b c a).getF (rgnBase (b / 16)) F.RGN_GOV_EVT_BUDGET_HITS
            = satCount F.RGN_GOV_EVT_BUDGET_HITS.width (s.getF (rgnBase (b / 16)) F.RGN_GOV_EVT_BUDGET_HITS) 1
        ∧ { s.govPlane b c a with regions := s.regions, regs := s.regs, hzn := s.hzn } = s)
  ∧ (∀ (s : State) (b h c a : Nat), (s.rx (b / 16)).hit = some h → h < c →
      hitCycle (s.budget (b / 16)) (s.rx (b / 16)).issued = some h →
      ((s.govPlane b c a).rx (b / 16)).heldOf b = (s.rx (b / 16)).heldOf b ++ [(c, b, a)]
        ∧ ((s.govPlane b c a).rx (b / 16)).hit = some h ∧ ((s.govPlane b c a).rx (b / 16)).act = (s.rx (b / 16)).act
        ∧ { s.govPlane b c a with regions := s.regions } = s)

/-- SLEEP and its wake (R411, R520, R521): SLEEP replies once nothing else is in progress and no reply waits; the entry records what is on, switches PD02 to PD39 off and
discards the plan; the wake command begins with PD03 and keeps the session; a firmware that fails its check leads to FAULTED under the boot ROM. -/
def Obligations.SleepAndWake : Prop :=
  (∀ s : State, s.runs 0x0303 = true → s.front.ok 0 [] = true → s.mail.taken = [] → s.mail.replies = [] →
      ∃ t, exec .sleep s = .next t ∧ t.mail.taken = [{ s.front with stage := 1 }] ∧ t.sdio.cmdCi = (s.sdio.cmdCi + 1) % 64
        ∧ t.mail.replies = [replyBytes s.replyVer 0x0303 s.front.tag s.front.seq 0 []]
        ∧ { t with sdio := s.sdio, mail := s.mail } = s)
  ∧ (∀ s : State, s.runs 0x0303 = true → s.front.ok 0 [] = true → (s.mail.taken ≠ [] ∨ s.mail.replies ≠ []) →
      ∃ t, exec .sleep s = .next t ∧ s.underway t ∧ { t with sdio := s.sdio, mail := s.mail, free := s.free } = s)
  ∧ (∀ (s : State) (x : Taken), s.mail.taken = [x] → x.op = 0x0303 → x.stage = 1 → s.mail.replies = [] → s.chip.st = .ready →
      s.power.settling = [] → s.power.plan = [] → s.creditsHome = true →
      ∃ t, exec .sleepEntry s = .next t ∧ t.chip.st = .sleep ∧ t.chip.prev = .ready ∧ (∀ d, 2 ≤ d → d < 40 → t.pdOn d = false)
        ∧ t.pdPow 0 = s.pdPow 0 ∧ t.pdPow 1 = s.pdPow 1 ∧ t.img = [] ∧ t.mail.taken = [] ∧ t.mail.sess = s.mail.sess ∧ t.power.selfRef = true
        ∧ t.getF pwrBase F.PWR_SLEEP_LO_ON = s.on % 2 ^ 32 ∧ t.mem.hbm = s.mem.hbm ∧ t.mem.wshadow = s.mem.wshadow)
  ∧ (∀ s : State, s.chip.st = .sleep → s.power.wake = 0 → s.pdPow 3 = false →
      ∃ t, exec .sdiHostctlWake s = .next t ∧ t.power.wake = 1 ∧ 3 ∈ t.power.settling ∧ t.mail.sess = s.mail.sess ∧ t.mail.taken = []
        ∧ t.sdio.cmdDb = 0 ∧ t.sdio.cmdCi = 0 ∧ { t with power := s.power, mail := s.mail, sdio := s.sdio, job := s.job } = s)
  ∧ (∀ s : State, s.chip.st = .sleep → s.power.wake = 3 → s.power.settling = [] → s.power.restoring = [] →
      s.getF pwrBase F.PWR_SLEEP_LO_ON < 16 → s.getF pwrBase F.PWR_SLEEP_HI_ON = 0 →
      ∃ t, exec .firmwareVerifiedAtWake s = .next t ∧ t.power.wake = 0 ∧ t.chip.prev = .sleep
        ∧ (match s.fwFails s.store.running with
          | some (c, _) => t.chip.st = .faulted ∧ t.errs.rom = true ∧ t.getF secBase F.SEC_VERIFY_FAIL_CHECK = c
          | none => t.chip.st = .ready))

/-- The stages of start-up (R528; Table 17.6): they switch PD01, PD02, PD03, the HBM stacks and Courier on in turn and count the start; STRAP_BOOT 2 leads
to FAULTED, STRAP_BOOT 1 to READY with firmware alone; a failed firmware check ends start-up in FAULTED. The boot ROM completes an advance record
that it finds, firmware makes one where its own ROLLBACK is above the counter, and stage 6 blows the counter up to it and clears it (R544). -/
def Obligations.StartUpStages : Prop :=
  (∀ (s : State) (ok : Bool), s.chip.st = .boot → s.cadLive = true → s.getF chipBase F.CHIP_BOOT_STAGE = 1 →
      ∃ t, exec (.startUpStage ok) s = .next t ∧ t.getF chipBase F.CHIP_BOOT_STAGE = 2 ∧ { t with regs := s.regs } = s)
  ∧ (∀ (s : State) (ok : Bool) (n d : Nat), s.chip.st = .boot → s.cadLive = true → s.getF chipBase F.CHIP_BOOT_STAGE = n →
      (n, d) ∈ [(2, 1), (3, 2), (8, 38), (8, 39)] →
      ∃ t, exec (.startUpStage ok) s = .next t ∧ t.getF chipBase F.CHIP_BOOT_STAGE = n + 1 ∧ t.pdOn d = true ∧ t.chip = s.chip
        ∧ t.mem.wshadow = s.mem.wshadow)
  ∧ (∀ (s : State) (ok : Bool), s.chip.st = .boot → s.cadLive = true → s.getF chipBase F.CHIP_BOOT_STAGE = 4 →
      ∃ t, exec (.startUpStage ok) s = .next t ∧ t.pdOn 3 = true ∧ t.pml.bootCount = (s.pml.bootCount + 1) % 2 ^ 32
        ∧ (if s.power.strapBoot = 2 then t.chip.st = .faulted ∧ t.errs.rom = true
          else t.chip = s.chip ∧ t.getF chipBase F.CHIP_BOOT_STAGE = 5))
  ∧ (∀ (s : State) (ok : Bool), s.chip.st = .boot → s.cadLive = true → s.getF chipBase F.CHIP_BOOT_STAGE = 5 → s.store.advance = none →
      ∃ t, exec (.startUpStage ok) s = .next t
        ∧ (match s.fwFails s.store.active with
          | some (c, _) => t.chip.st = .faulted ∧ t.errs.rom = true ∧ t.getF secBase F.SEC_VERIFY_FAIL_CHECK = c
          | none => t.chip = s.chip ∧ t.store.running = s.store.active ∧ t.getF chipBase F.CHIP_BOOT_STAGE = 6
            ∧ t.store.rollback = s.store.rollback
            ∧ t.store.advance = (if s.store.rollback < fwRoll s.store.active then some (fwRoll s.store.active) else none)))
  ∧ (∀ (s : State) (ok : Bool) (r : Nat), s.chip.st = .boot → s.cadLive = true → s.getF chipBase F.CHIP_BOOT_STAGE = 5 → s.store.advance = some r →
      ∃ t, exec (.startUpStage ok) s = .next t ∧ t.store.rollback = max s.store.rollback r ∧ t.store.advance ≠ some r)
  ∧ (∀ (s : State) (ok : Bool), s.chip.st = .boot → s.cadLive = true → s.getF chipBase F.CHIP_BOOT_STAGE = 6 →
      ∃ t, exec (.startUpStage ok) s = .next t ∧ t.store.rollback = max s.store.rollback (s.store.advance.getD 0) ∧ t.store.advance = none
        ∧ (if s.power.strapBoot = 1 then t.chip.st = .ready ∧ t.getF chipBase F.CHIP_BOOT_STAGE = 15
          else t.chip = s.chip ∧ t.getF chipBase F.CHIP_BOOT_STAGE = 7))
  ∧ (∀ s : State, s.chip.st = .boot → s.cadLive = true → s.getF chipBase F.CHIP_BOOT_STAGE = 7 →
      (∃ t, exec (.startUpStage true) s = .next t ∧ t.pdOn 36 = true ∧ t.pdOn 37 = true ∧ t.getF chipBase F.CHIP_BOOT_STAGE = 8
        ∧ t.chip = s.chip)
      ∧ (∃ t, exec (.startUpStage false) s = .next t ∧ t.chip.st = .faulted ∧ t.errs.rom = false ∧ t.getF chipBase F.CHIP_BOOT_FAIL = 7))
  ∧ (∀ (s : State) (ok : Bool), s.chip.st = .boot → s.cadLive = true → s.getF chipBase F.CHIP_BOOT_STAGE = 10 → s.bist.slice = none →
      ∃ t, exec (.startUpStage ok) s = .next t ∧ t.chip.st = .ready ∧ t.chip.prev = .boot ∧ t.getF chipBase F.CHIP_BOOT_STAGE = 15)

/-- Firmware, quotes and debug (R417, R542, R543, R546 to R548, R552): FW_LOAD arms its phase, and
keeps its place among the phases until PD20 is on; an image that passes is staged in a write of its own, while which the staged slot is empty, with the
reply at its end; FW_ACTIVATE makes the staged image
active; a QUOTE commits the next signature index first; UNLOCK is set only for an image that may, without PERM_LOCK. -/
def Obligations.FirmwareQuotesAndDebug : Prop :=
  (∀ s : State, s.runs 0x0201 = true → s.front.okBulk 0 4194304 16 [(8, 8)] = true → s.pdOn 20 = true → (∀ b < 16, s.dirtyKib b = []) →
      ∃ t, exec .fwLoad s = .next t ∧ s.underway t ∧ t.mail.inq = s.mail.inq ++ [⟨s.mail.nextId, s.front.bulkLen, []⟩]
        ∧ (∀ b < 16, t.getF (blkBase b) F.SPD_ATOM_WIN_VALID = 0)
        ∧ { t with sdio := s.sdio, mail := s.mail, free := s.free, regs := s.regs, blocks := s.blocks } = s)
  ∧ (∀ s : State, s.runs 0x0201 = true → s.front.okBulk 0 4194304 16 [(8, 8)] = true → s.pdPow 20 = false →
      ∃ t, exec .fwLoad s = .next t ∧ s.underway t ∧ 20 ∈ t.power.settling ∧ t.mail.inq = s.mail.inq ++ [⟨s.mail.nextId, 0, []⟩]
        ∧ { t with sdio := s.sdio, mail := s.mail, free := s.free, power := s.power } = s)
  ∧ (∀ (s : State) (k id : Nat) (img : List Byte), s.mail.replies = [] → s.bist.commit = none → s.store.staging = some (id, img) →
      ∃ t, exec (.replyWrite k) s = .next t ∧ t.store = { s.store with staged := img, staging := none })
  ∧ (∀ s : State, s.runs 0x0202 = true → s.front.ok 0 [] = true → s.store.staged ≠ [] → s.store.rollback ≤ fwRoll s.store.staged →
      ∃ t, exec .fwActivate s = .next t ∧ s.answered t 0 (leBytes 4 (fwVer s.store.staged))
        ∧ t.store = { s.store with active := s.store.staged, staged := [] }
        ∧ { t with sdio := s.sdio, mail := s.mail, store := s.store, pml := s.pml, regs := s.regs } = s)
  ∧ (∀ s : State, s.takenOp 0x0103 = none → s.runs 0x0103 = true → s.front.ok 32 [] = true → s.quoteHeld = false → s.store.idNext < 32768 →
      ∃ t res, exec .quote s = .next t ∧ s.answered t 0 res ∧ res.length = 2924 ∧ leAt res 0 4 = 0x544F5551
        ∧ t.store = { s.store with idNext := s.store.idNext + 1 }
        ∧ t.getF secBase F.SEC_QUOTES_COUNT = satCount F.SEC_QUOTES_COUNT.width (s.getF secBase F.SEC_QUOTES_COUNT) 1
        ∧ { t with sdio := s.sdio, mail := s.mail, store := s.store, regs := s.regs } = s)
  ∧ (∀ (s : State) (v : Nat), s.pdOn 3 = true → s.fwImage ≠ [] →
      ∃ t, exec (.secDebugUnlock v) s = .next t ∧ { t with regs := s.regs } = s
        ∧ (v.testBit 0 = false → t.getF secBase F.SEC_DEBUG_UNLOCK = 0)
        ∧ (v.testBit 0 = true → (fwDebug s.fwImage && !Config.permLockFuse) = true → t.getF secBase F.SEC_DEBUG_UNLOCK = 1
            ∧ t.getF secBase F.SEC_STAT_SINCE_BOOT = 1)
        ∧ (v.testBit 0 = true → (fwDebug s.fwImage && !Config.permLockFuse) = false → t = s))

/-- The test access port (R566, R552): BYPASS, IDCODE with 0x94096BCF, the boundary instructions with what they load, and a private instruction, which is
BYPASS while debug is locked and to which the spec gives no effect while it is unlocked. -/
def Obligations.TestAccessPort : Prop :=
  (∀ s : State, s.pins.pwrgood = true → exec .bypass s = .next { s with tap := ⟨0, s.tap.boundary, 0⟩ })
  ∧ (∀ s : State, s.pins.pwrgood = true → exec .idcode s = .next { s with tap := ⟨1, s.tap.boundary, 0x94096BCF⟩ })
  ∧ (∀ (s : State) (v k : Nat) (c : Instr), s.pins.pwrgood = true →
      (c, k) ∈ [(Instr.samplePreload v, 2), (.extest v, 3), (.extestPulse v, 4), (.extestTrain v, 5)] →
      ∃ t, exec c s = .next t ∧ t.tap.ir = k ∧ t.tap.boundary = v ∧ { t with tap := s.tap, free := s.free } = s)
  ∧ (∀ (s : State) (code : Nat), s.pins.pwrgood = true → s.unlocked = false →
      exec (.privateInstruction code) s = .next { s with tap := ⟨0, s.tap.boundary, 0⟩ })
  ∧ (∀ (s : State) (code : Nat), s.unlocked = true → exec (.privateInstruction code) s = .refused .privateInstruction)

/-- The Postmark Log (R433, R502 to R509): the oldest queued record takes the next slot that is not pinned, or the last-words store while PD03 is off;
the first FATAL record of the primary
store is pinned; when PD03 comes on, the last-words records are copied into the primary store in their order, sealed anew, and freed; SET_TIME keeps the
wall time; PML_CLEAR erases both stores and writes one record where its signature is good, and else changes nothing. -/
def Obligations.PostmarkLog : Prop :=
  (∀ (s : State) (p : PmSub) (q : List PmSub) (slot : Nat), s.chip.st ≠ .off → s.pml.queue = p :: q → s.pdOn 3 = true → s.pml.clear = none →
      slot = (if s.pml.pinned = some s.pml.next then (s.pml.next + 1) % 8192 else s.pml.next) →
      ∃ t, exec .postmarkCommit s = .next t ∧ t.pml.queue = q ∧ t.pml.newest = slot ∧ t.pml.seq = (s.pml.seq + 1) % 2 ^ 32
        ∧ SMap.get [] t.pml.slots slot = s.pmForm p false (s.pml.pinned.isNone && p.fatal)
        ∧ (∀ i, i ≠ slot → SMap.get [] t.pml.slots i = SMap.get [] s.pml.slots i)
        ∧ (∀ i, s.pml.pinned = some i → t.pml.pinned = some i ∧ slot ≠ i)
        ∧ (s.pml.pinned = none → t.pml.pinned = (if p.fatal = true then some slot else none))
        ∧ { t with pml := s.pml, mail := s.mail } = s)
  ∧ (∀ (s : State) (p : PmSub) (q : List PmSub), s.chip.st ≠ .off → s.pml.queue = p :: q → s.pdOn 3 = false → s.pml.clear = none →
      s.pml.words.length < 64 →
      ∃ t, exec .postmarkCommit s = .next t ∧ t.pml.queue = q ∧ t.pml.slots = s.pml.slots
        ∧ t.pml.words = s.pml.words ++ [(s.pml.wordNext, s.pmForm p true false)] ∧ { t with pml := s.pml, mail := s.mail } = s)
  ∧ (∀ s : State, 3 ∈ s.power.settling → s.power.plan = [] → s.power.wake = 0 → s.takenOp 0x0302 = none → s.takenOp 0x0201 = none →
      s.pml.pinned = none → s.pml.next < 8192 → s.pml.words.length ≤ 64 → (∀ w ∈ s.pml.words, (leAt w.2 3 1).testBit 0 = false) →
      ∃ t, exec (.domainSettled 3) s = .next t ∧ t.pml.words = [] ∧ t.pml.pinned = none
        ∧ (∀ k w, s.pml.words[k]? = some w → SMap.get [] t.pml.slots ((s.pml.next + k) % 8192) = pmReseal w.2 false)
        ∧ (∀ i, (∀ k < s.pml.words.length, i ≠ (s.pml.next + k) % 8192) → SMap.get [] t.pml.slots i = SMap.get [] s.pml.slots i))
  ∧ (∀ (s : State) (i : Nat) (r : List Byte), 3 ∈ s.power.settling → s.power.plan = [] → s.power.wake = 0 → s.takenOp 0x0302 = none →
      s.takenOp 0x0201 = none → s.pml.pinned = none → s.pml.words = [(i, r)] → (leAt r 3 1).testBit 0 = true →
      ∃ t, exec (.domainSettled 3) s = .next t ∧ t.pml.words = [] ∧ t.pml.pinned = some s.pml.next
        ∧ SMap.get [] t.pml.slots s.pml.next = pmReseal r true)
  ∧ (∀ s : State, s.runs 0x0B04 = true → s.front.ok 8 [] = true →
      ∃ t, exec .setTime s = .next t ∧ s.answered t 0 [] ∧ t.pml = { s.pml with wall := some (s.front.fld 0 8, s.now) }
        ∧ { t with sdio := s.sdio, mail := s.mail, pml := s.pml } = s)
  ∧ (∀ s : State, s.runs 0x0B03 = true → s.front.ok 16 [] = true → s.pml.queue = [] → s.pdOn 3 = true →
      ∃ t, exec .pmlClear s = .next t
        ∧ (if s.clearGood s.front = true then
            s.answered t 0 [] ∧ t.pml.slots.length = 1 ∧ t.pml.words = [] ∧ t.pml.pinned = none ∧ t.pml.nonce = s.pml.nonce + 1
          else s.answered t 0x0702 [] ∧ t.pml = s.pml)
        ∧ { t with sdio := s.sdio, mail := s.mail, pml := s.pml } = s)

/-- The SDIO card (R363 to R367, R388, R403; the layouts of the SD commands are presumed, log entry 61): CMD0 and RES return it to its power-up settings
but the voltage and end the session; CMD5 answers ready with two functions, CMD11 switches the voltage, CMD3 publishes address 1, CMD7 selects, CMD15
retires the card, CMD19 sends the tuning block. CMD52 of function 1: a read answers the register's byte; a write of SDI_INT_EN keeps the seven
enables; a function that the device does not have is answered with an error (log entry 90). A command whose CRC7 is bad is counted (R406) and, by log entry 91, not
answered. The bus states in which commands are answered, and that a retired card hears nothing, are log entry 62. -/
def Obligations.SdioCardCommands : Prop :=
  (∀ (s : State) (c : Instr), c ∈ [Instr.cmd0, .res] → s.cardHears = true →
      ∃ t, exec c s = .next t ∧ t.sdio.bus = 0 ∧ t.sdio.v18 = s.sdio.v18 ∧ t.mail.sess = false ∧ t.mail.taken = [] ∧ t.mail.replies = []
        ∧ t.sdio.cmdDb = 0 ∧ t.sdio.cmdCi = 0 ∧ t.sdio.rplPi = 0 ∧ t.sdio.rplDb = 0
        ∧ ((∀ x ∈ s.mail.taken, x.op ≠ 0x0201) → { t with sdio := s.sdio, mail := s.mail, job := s.job } = s))
  ∧ (∀ (s : State) (arg : Nat), s.cardHears = true → s.sdio.bus ∈ [0, 1] → bits arg 0 24 &&& sdOcr ≠ 0 →
      ∃ t, exec (.cmd5 ⟨arg, false⟩) s = .next t ∧ t.sdio.bus = 1 ∧ t.sdio.swPend = arg.testBit 24 ∧ leAt t.sdio.resp 0 4 / 2 ^ 31 = 1
        ∧ bits (leAt t.sdio.resp 0 4) 28 3 = 2 ∧ (leAt t.sdio.resp 0 4).testBit 24 = arg.testBit 24 ∧ { t with sdio := s.sdio } = s)
  ∧ (∀ s : State, s.cardHears = true → s.sdio.bus = 1 → s.sdio.swPend = true →
      ∃ t, exec .cmd11 s = .next t ∧ t.sdio.v18 = true ∧ t.sdio.swPend = false ∧ { t with sdio := s.sdio } = s)
  ∧ (∀ s : State, s.cardHears = true → s.sdio.bus ∈ [1, 2] →
      ∃ t, exec .cmd3 s = .next t ∧ t.sdio.bus = 2 ∧ t.sdio.rca = 1 ∧ leAt t.sdio.resp 2 2 = 1 ∧ { t with sdio := s.sdio } = s)
  ∧ (∀ (s : State) (arg : Nat), s.cardHears = true → s.sdio.bus ∈ [2, 3] →
      ∃ t, exec (.cmd7 ⟨arg, false⟩) s = .next t ∧ t.sdio.bus = (if bits arg 16 16 = s.sdio.rca then 3 else 2) ∧ { t with sdio := s.sdio } = s)
  ∧ (∀ (s : State) (arg : Nat), s.cardHears = true → s.sdio.bus ∈ [2, 3] → bits arg 16 16 = s.sdio.rca →
      ∃ t, exec (.cmd15 ⟨arg, false⟩) s = .next t ∧ t.sdio.bus = 4 ∧ t.cardHears = false ∧ { t with sdio := s.sdio } = s)
  ∧ (∀ s : State, s.cardHears = true → s.sdio.bus = 3 → s.sdio.bss ∈ [2, 3] →
      ∃ t, exec .cmd19 s = .next t ∧ t.sdio.resp = tuningBlock ∧ { t with sdio := s.sdio } = s)
  ∧ (∀ (s : State) (arg o : Nat), s.cardHears = true → s.sdio.bus = 3 → bits arg 28 3 = 1 → arg.testBit 31 = false → bits arg 9 17 = 0x10000 + o →
      o < 0x100 →
      ∃ t, exec (.cmd52 ⟨arg, false⟩) s = .next t ∧ t.sdio.resp = [BitVec.ofNat 8 (s.f1Reg o).1] ∧ { t with sdio := s.sdio } = s)
  ∧ (∀ (s : State) (arg : Nat), s.cardHears = true → s.sdio.bus = 3 → bits arg 28 3 = 1 → arg.testBit 31 = true → arg.testBit 27 = false →
      bits arg 9 17 = 0x10009 →
      ∃ t, exec (.cmd52 ⟨arg, false⟩) s = .next t ∧ t.sdio.intEn = arg % 128 ∧ t.sdio.intStat = s.sdio.intStat
        ∧ t.sdio.resp = [BitVec.ofNat 8 arg] ∧ { t with sdio := s.sdio } = s)
  ∧ (∀ (s : State) (arg : Nat), s.cardHears = true → s.sdio.bus = 3 → 2 < bits arg 28 3 →
      ∃ t, exec (.cmd52 ⟨arg, false⟩) s = .next t ∧ t.sdio.said = true ∧ t.sdio.fnErr = true ∧ { t with sdio := s.sdio } = s)
  ∧ (∀ (s : State) (arg : Nat) (d : List Byte) (l : List Nat) (c : Instr), s.cardHears = true →
      c ∈ [Instr.cmd5 ⟨arg, true⟩, .cmd7 ⟨arg, true⟩, .cmd15 ⟨arg, true⟩, .cmd52 ⟨arg, true⟩, .cmd53 ⟨arg, true⟩ ⟨d, l⟩] →
      ∃ t, exec c s = .next t ∧ t.sdio.said = false ∧ t.sdio.bus = s.sdio.bus
        ∧ t.getF sdiBase F.SDI_CRC_ERR_CMD = satCount F.SDI_CRC_ERR_CMD.width (s.getF sdiBase F.SDI_CRC_ERR_CMD) 1
        ∧ { t with sdio := s.sdio, regs := s.regs } = s)

/-- Transfers of CMD53 (R366, R372, R377, R400, R401, R413; in the command state of the bus, log entry 62): bytes written through the aperture land in Pigeonhole and nowhere else,
none of a block with a bad CRC16 (R380, R406), and none that the engine's regions refuse, which sets REFUSED and PROT; a write that brings fewer bytes than it
announced stays under way, and so does a block read that the host cuts short (log entry 91); bytes read through the aperture are those of Pigeonhole; bytes written to the stream port join the current inbound transfer; a read of the stream port takes bytes of the current
outbound one, whose last byte brings its command's final reply, and with none sets UNDERRUN and reads 0. -/
def Obligations.SdioTransfers : Prop :=
  (∀ (s : State) (arg a n : Nat) (data : List Byte) (bad : List Nat), s.cardHears = true → s.sdio.bus = 3 → bits arg 28 3 = 1 → arg.testBit 31 = true →
      arg.testBit 27 = false → arg.testBit 26 = true → a = bits arg 9 17 → n = bits arg 0 9 → 0 < n → a + n ≤ 0x10000 → s.pdOn 2 = true →
      s.sdio.aperView = 0 → (∀ i < n, s.pghMay 1 (s.aperOff (a + i)) 29 = true) → s.sdio.cmdDb = s.sdio.cmdCi → n ≤ data.length → 0 ∉ bad →
      ∃ t, exec (.cmd53 ⟨arg, false⟩ ⟨data, bad⟩) s = .next t ∧ t.sdio.resp = [] ∧ t.sdio.oor = false ∧ t.sdio.under = none
        ∧ t.getF sdiBase F.SDI_XFER_BLOCKS = satCount F.SDI_XFER_BLOCKS.width (s.getF sdiBase F.SDI_XFER_BLOCKS) 1
        ∧ (∀ i < n, Mem.rd t.mem.pigeon (s.aperOff (a + i)) = data.getD i 0)
        ∧ (∀ o, (∀ i < n, o ≠ s.aperOff (a + i)) → Mem.rd t.mem.pigeon o = Mem.rd s.mem.pigeon o)
        ∧ { t.mem with pigeon := s.mem.pigeon } = s.mem ∧ { t with mem := s.mem, sdio := s.sdio, regs := s.regs } = s)
  ∧ (∀ (s : State) (arg n : Nat) (data : List Byte) (bad : List Nat), s.cardHears = true → s.sdio.bus = 3 → bits arg 28 3 ≤ 2 →
      arg.testBit 31 = true → arg.testBit 27 = false → arg.testBit 26 = true → bits arg 9 17 + n ≤ 0x10000 → n = bits arg 0 9 → 0 < n →
      (n ≤ data.length → 0 ∈ bad → ∃ t, exec (.cmd53 ⟨arg, false⟩ ⟨data, bad⟩) s = .next t ∧ t.sdio.said = true
        ∧ t.getF sdiBase F.SDI_CRC_ERR_DATA = satCount F.SDI_CRC_ERR_DATA.width (s.getF sdiBase F.SDI_CRC_ERR_DATA) 1
        ∧ { t with sdio := s.sdio, regs := s.regs } = s)
      ∧ (data.length < n → ∃ t, exec (.cmd53 ⟨arg, false⟩ ⟨data, bad⟩) s = .next t ∧ t.sdio.said = true ∧ t.sdio.under = some (bits arg 28 3)
        ∧ { t with sdio := s.sdio } = s))
  ∧ (∀ (s : State) (arg a n : Nat) (data : List Byte) (bad : List Nat), s.cardHears = true → s.sdio.bus = 3 → bits arg 28 3 = 1 →
      arg.testBit 31 = false → arg.testBit 27 = false → arg.testBit 26 = true → a = bits arg 9 17 → n = bits arg 0 9 → 0 < n → a + n ≤ 0x10000 →
      s.pdOn 2 = true → s.sdio.aperView < 3 → (∀ i < n, s.pghMay 1 (s.aperOff (a + i)) 28 = true) → s.mail.replies = [] →
      ∃ t, exec (.cmd53 ⟨arg, false⟩ ⟨data, bad⟩) s = .next t
        ∧ t.sdio.resp = (List.range n).map (fun (i : Nat) => Mem.rd s.mem.pigeon (s.aperOff (a + i)))
        ∧ t.sdio.oor = false ∧ t.sdio.under = none ∧ { t with sdio := s.sdio, regs := s.regs } = s)
  ∧ (∀ (s : State) (arg c k : Nat) (data : List Byte) (bad : List Nat), s.cardHears = true → s.sdio.bus = 3 → bits arg 28 3 = 2 →
      arg.testBit 31 = false → arg.testBit 27 = true → arg.testBit 26 = false → bits arg 9 17 < 0x10000 → c = bits arg 0 9 → 0 < s.sdio.bs2 →
      k = data.length / s.sdio.bs2 → 0 < k → k < c →
      ∃ t, exec (.cmd53 ⟨arg, false⟩ ⟨data, bad⟩) s = .next t ∧ t.sdio.resp.length = k * s.sdio.bs2 ∧ t.sdio.under = some 2)
  ∧ (∀ (s : State) (arg a : Nat), s.cardHears = true → s.sdio.bus = 3 → bits arg 28 3 = 1 → arg.testBit 31 = true → arg.testBit 27 = false →
      a = bits arg 9 17 → a < 0x10000 → s.pdOn 2 = true → s.pghMay 1 (s.aperOff a) 29 = false → s.sdio.cmdDb = s.sdio.cmdCi →
      ∃ t, exec (.cmd52 ⟨arg, false⟩) s = .next t ∧ (t.getF pghBase F.PGH_PROT_STAT_REFUSED).testBit 1 = true ∧ t.sdio.intStat.testBit 3 = true
        ∧ { t with sdio := s.sdio, regs := s.regs } = s)
  ∧ (∀ (s : State) (arg n : Nat) (data : List Byte) (bad : List Nat) (x : Xfer) (q : List Xfer), s.cardHears = true → s.sdio.bus = 3 → bits arg 28 3 = 2 →
      arg.testBit 31 = true → arg.testBit 27 = false → bits arg 9 17 = 0 → n = bits arg 0 9 → 0 < n → s.mail.inq = x :: q → n < x.left →
      n ≤ data.length → 0 ∉ bad →
      ∃ t, exec (.cmd53 ⟨arg, false⟩ ⟨data, bad⟩) s = .next t ∧ t.mail.inq = ⟨x.cmd, x.left - n, x.data ++ data.take n⟩ :: q
        ∧ t.mail.replies = s.mail.replies ∧ t.mem = s.mem ∧ { t with sdio := s.sdio, mail := s.mail, regs := s.regs } = s)
  ∧ (∀ (s : State) (arg n : Nat) (data : List Byte) (bad : List Nat) (x : Xfer) (q : List Xfer), s.cardHears = true → s.sdio.bus = 3 → bits arg 28 3 = 2 →
      arg.testBit 31 = false → arg.testBit 27 = false → bits arg 9 17 = 0 → n = bits arg 0 9 → 0 < n → s.mail.outq = x :: q → n < x.left →
      ∃ t, exec (.cmd53 ⟨arg, false⟩ ⟨data, bad⟩) s = .next t ∧ t.sdio.resp = padTo n (x.data.take n)
        ∧ t.mail.outq = ⟨x.cmd, x.left - n, x.data.drop n⟩ :: q ∧ t.mail.replies = s.mail.replies
        ∧ { t with sdio := s.sdio, mail := s.mail, regs := s.regs } = s)
  ∧ (∀ (s : State) (arg n : Nat) (data : List Byte) (bad : List Nat) (x : Xfer) (q : List Xfer) (c : Taken), s.cardHears = true → s.sdio.bus = 3 →
      bits arg 28 3 = 2 → arg.testBit 31 = false → arg.testBit 27 = false → bits arg 9 17 = 0 → n = bits arg 0 9 → 0 < n →
      s.mail.outq = x :: q → n = x.left → s.takenBy x.cmd = some c →
      ∃ t, exec (.cmd53 ⟨arg, false⟩ ⟨data, bad⟩) s = .next t ∧ t.sdio.resp = padTo n (x.data.take n) ∧ (∀ y ∈ t.mail.taken, y.id ≠ x.cmd)
        ∧ t.mail.replies = s.mail.replies ++ [replyBytes s.replyVer c.op c.tag c.seq 0 []] ∧ t.mem = s.mem)
  ∧ (∀ (s : State) (arg n : Nat) (data : List Byte) (bad : List Nat), s.cardHears = true → s.sdio.bus = 3 → bits arg 28 3 = 2 →
      arg.testBit 31 = false → arg.testBit 27 = false → bits arg 9 17 = 0 → n = bits arg 0 9 → 0 < n → s.mail.outq = [] →
      ∃ t, exec (.cmd53 ⟨arg, false⟩ ⟨data, bad⟩) s = .next t ∧ t.sdio.resp = List.replicate n 0 ∧ t.sdio.f2Stat = s.sdio.f2Stat ||| 8
        ∧ { t with sdio := s.sdio, regs := s.regs } = s)

/-- Doorbells and interrupts of the interface (R370, R379, R385, R397, R401): a doorbell that its ring allows takes effect, another sets DB_ERR alone;
HEARTBEAT counts once a millisecond while the mailbox is served; IO_READY, the end of the MBXBSY pulse and an abort act on their bits, the abort
only where a CMD53 of its function is under way (log entry 91). -/
def Obligations.SdioDoorbellsAndSignals : Prop :=
  (∀ (s : State) (v : Nat), s.selected = true →
      ∃ t, exec (.sdiCmdDbWrite v) s = .next t ∧ { t with sdio := s.sdio } = s
        ∧ (if (v % 64 + 64 - s.sdio.cmdCi) % 64 ≤ 32 ∧ (s.sdio.cmdDb + 64 - s.sdio.cmdCi) % 64 ≤ (v % 64 + 64 - s.sdio.cmdCi) % 64 then
            t.sdio = { s.sdio with cmdDb := v % 64 }
          else t.sdio = { s.sdio with intStat := s.sdio.intStat ||| 64 }))
  ∧ (∀ (s : State) (v : Nat), s.selected = true →
      ∃ t, exec (.sdiRplDbWrite v) s = .next t ∧ { t with sdio := s.sdio } = s
        ∧ (if (v % 64 + 64 - s.sdio.rplDb) % 64 ≤ (s.sdio.rplPi + 64 - s.sdio.rplDb) % 64 then t.sdio = { s.sdio with rplDb := v % 64 }
          else t.sdio = { s.sdio with intStat := s.sdio.intStat ||| 64 }))
  ∧ (∀ (s : State) (v : Nat), s.selected = true →
      ∃ t, exec (.sdiEvtDbWrite v) s = .next t ∧ { t with sdio := s.sdio } = s
        ∧ (if (v % 128 + 128 - s.sdio.evtDb) % 128 ≤ (s.sdio.evtPi + 128 - s.sdio.evtDb) % 128 then t.sdio = { s.sdio with evtDb := v % 128 }
          else t.sdio = { s.sdio with intStat := s.sdio.intStat ||| 64 }))
  ∧ (∀ (s : State) (n : Nat), (s.at n).served = true → s.sdio.heartAt + 100000 ≤ (s.at n).now →
      ∃ t, exec (.heartbeat n) s = .next t ∧ t.sdio = { s.sdio with heart := (s.sdio.heart + 1) % 256, heartAt := (s.at n).now }
        ∧ { t with sdio := s.sdio } = s.at n)
  ∧ (∀ s : State, s.sdio.ioe.testBit 0 = true → s.chip.st ≠ .off → exec .ioReady s = .next { s with sdio := { s.sdio with ior1 := true } })
  ∧ (∀ s : State, exec .mbxbsyPulseEnd s = .next { s with pins := { s.pins with mbxbsy := false } })
  ∧ (∀ (s : State) (fn : Nat), s.cardHears = true → s.sdio.under = some fn →
      exec (.ioAbort fn) s = .next { s with sdio := { s.sdio with
        under := none, f2Stat := if fn = 2 then s.sdio.f2Stat ||| 16 else s.sdio.f2Stat } })
  ∧ (∀ (s : State) (fn : Nat), s.sdio.under ≠ some fn → exec (.ioAbort fn) s = .next s)

/-- The device's side of the rings (R384, R386): REPLY_WRITE puts a waiting reply into the free slot at RPL_PI, and EVENT_APPEND the oldest post at
EVT_PI, or counts it lost where the queue of 64 is full; no other byte changes, and none where the protection regions refuse Casec's writes (R377). With no reply
waiting, and none that a store or SLEEP still has to give, REPLY_WRITE does nothing. That a post waits while PD01 is off is log entry 89. -/
def Obligations.RepliesAndEventsReachTheRings : Prop :=
  (∀ (s : State) (k o : Nat) (r : List Byte), s.mail.replies[k]? = some r → s.pdOn 2 = true →
      (s.sdio.rplPi + 64 - s.sdio.rplDb) % 64 < 32 → (s.mail.replies.take k).any (sameCmd r) = false →
      o = 0x2000 * (s.sdio.rplPi % 32) + 0x1000 → s.pghWhole 0 29 = true →
      ∃ t, exec (.replyWrite k) s = .next t ∧ Mem.rdN t.mem.pigeon o r.length = r
        ∧ (∀ a, (a < o ∨ o + r.length ≤ a) → Mem.rd t.mem.pigeon a = Mem.rd s.mem.pigeon a)
        ∧ t.sdio = { s.sdio with rplPi := (s.sdio.rplPi + 1) % 64, intStat := s.sdio.intStat ||| 1 }
        ∧ t.mail = { s.mail with replies := dropAt s.mail.replies k } ∧ { t.mem with pigeon := s.mem.pigeon } = s.mem
        ∧ { t with mem := s.mem, sdio := s.sdio, mail := s.mail } = s)
  ∧ (∀ (s : State) (k o : Nat) (r : List Byte), s.mail.replies[k]? = some r → r ≠ [] → s.pdOn 2 = true →
      (s.sdio.rplPi + 64 - s.sdio.rplDb) % 64 < 32 → (s.mail.replies.take k).any (sameCmd r) = false →
      o = 0x2000 * (s.sdio.rplPi % 32) + 0x1000 → (∀ i < r.length, s.pghMay 0 (o + i) 29 = false) → s.pghWhole 0 29 = false →
      ∃ t, exec (.replyWrite k) s = .next t ∧ (t.getF pghBase F.PGH_PROT_STAT_REFUSED).testBit 0 = true
        ∧ t.sdio = { s.sdio with rplPi := (s.sdio.rplPi + 1) % 64, intStat := s.sdio.intStat ||| 1 }
        ∧ t.mail = { s.mail with replies := dropAt s.mail.replies k } ∧ { t with sdio := s.sdio, mail := s.mail, regs := s.regs } = s)
  ∧ (∀ (s : State) (p : EvPost) (q : List EvPost) (o : Nat), s.pdOn 1 = true → s.hznMay 2 o 29 = true → s.mail.posts = p :: q → (s.sdio.evtPi + 128 - s.sdio.evtDb) % 128 ≠ 64 →
      o = 0x7C00 + 16 * (s.sdio.evtPi % 64) →
      ∃ t, exec .eventAppend s = .next t ∧ Mem.rdN t.mem.hznRam o 16 = p.image
        ∧ (∀ a, (a < o ∨ o + 16 ≤ a) → Mem.rd t.mem.hznRam a = Mem.rd s.mem.hznRam a)
        ∧ t.sdio = { s.sdio with evtPi := (s.sdio.evtPi + 1) % 128, intStat := s.sdio.intStat ||| 2 }
        ∧ t.mail = { s.mail with posts := q } ∧ { t.mem with hznRam := s.mem.hznRam } = s.mem
        ∧ { t with mem := s.mem, sdio := s.sdio, mail := s.mail } = s)
  ∧ (∀ (s : State) (p : EvPost) (q : List EvPost), s.pdOn 1 = true → s.mail.posts = p :: q → (s.sdio.evtPi + 128 - s.sdio.evtDb) % 128 = 64 →
      ∃ t, exec .eventAppend s = .next t
        ∧ t.sdio = { s.sdio with evtLost := satCount 8 s.sdio.evtLost 1, intStat := s.sdio.intStat ||| 32 }
        ∧ t.mail = { s.mail with posts := q } ∧ { t with sdio := s.sdio, mail := s.mail } = s)
  ∧ (∀ (s : State) (k : Nat), s.mail.replies = [] → s.storeBusy = false → s.takenOp 0x0303 = none → exec (.replyWrite k) s = .next s)
  ∧ (∀ s : State, s.pdOn 1 = false → exec .eventAppend s = .next s)

/-- Accesses of other units to a scratchpad (R155, R158, R592; Table 5.3), each answered on a route without an isolated link (R316): a read is answered
with its lines; a write lands in the slot of a circular region whose source is the writer and is acknowledged, and the slot whose last byte it writes
passes TAIL; an access elsewhere is dropped with CREDIT_ERR, a fenced block answers with POISON (R445); a credit is counted; a dirty gather line is merged
into its bank and stays in the buffer (R153). That a slot is complete at its highest byte is log entry 34. The region atomic unit (R165 to R167): a request inside the window enters the queue, one outside is dropped
with CREDIT_ERR; the oldest is added element by element to its line, raises its counter and is acknowledged. -/
def Obligations.ScratchpadsFromElsewhere : Prop :=
  (∀ (s : State) (k l n i : Nat) (m : Msg), s.msgAt k = some m → m.body = .read l n i → m.dst < 256 → s.spdOn m.dst = true →
      s.linesHeld m.dst l n = false → s.fenced m.dst = false → l + 64 * n ≤ 0x60000 → s.ungathered m.dst l (64 * n) → s.spdClean m.dst l (8 * n) →
      s.pathOpen m.dst m.src = true →
      ∃ t, exec (.remoteRead k) s = .next t
        ∧ t.net = dropAt s.net k ++ [⟨m.dst, m.src, 256, .readRsp (keySpd m.dst l) (s.spdRd m.dst l (64 * n)) 0 i⟩]
        ∧ { t with net := s.net, mesh := s.mesh } = s)
  ∧ (∀ (s : State) (k l n i : Nat) (m : Msg), s.msgAt k = some m → m.body = .read l n i → m.dst < 256 → s.spdOn m.dst = true →
      s.linesHeld m.dst l n = false → s.fenced m.dst = false → 0x60000 < l + 64 * n → s.pathOpen m.dst m.src = true →
      ∃ t, exec (.remoteRead k) s = .next t ∧ t.isF (blkBase m.dst) F.SPD_STAT_CREDIT_ERR = true
        ∧ t.net = dropAt s.net k ++ [⟨m.dst, m.src, 256, .readRsp (keySpd m.dst l) (List.replicate (64 * n) 0) 0x35 i⟩]
        ∧ { t with net := s.net, mesh := s.mesh, regs := s.regs, errs := s.errs, pml := s.pml, mail := s.mail } = s)
  ∧ (∀ (s : State) (k l n i : Nat) (nw : Bool) (d : List (Nat × Byte × Byte)) (m : Msg), s.msgAt k = some m → m.dst < 256 → s.spdOn m.dst = true →
      s.fenced m.dst = true → s.pathOpen m.dst m.src = true →
      (m.body = .read l n i → s.linesHeld m.dst l n = false →
        ∃ t, exec (.remoteRead k) s = .next t
          ∧ t.net = dropAt s.net k ++ [⟨m.dst, m.src, 256, .readRsp (keySpd m.dst l) (List.replicate (64 * n) 0) 0x69 i⟩]
          ∧ { t with net := s.net, mesh := s.mesh } = s)
      ∧ (m.body = .write l nw d i → s.linesHeld m.dst l (dataLines d) = false →
        ∃ t, exec (.remoteWrite k) s = .next t ∧ t.net = dropAt s.net k ++ [⟨m.dst, m.src, 256, .ack 0x69 i⟩]
          ∧ { t with net := s.net, mesh := s.mesh } = s))
  ∧ (∀ (s : State) (k l i c j ptr taken : Nat) (nw : Bool) (d : List (Nat × Byte × Byte)) (m : Msg), s.msgAt k = some m →
      m.body = .write l nw d i → m.dst < 256 → s.spdOn m.dst = true → s.linesHeld m.dst l (dataLines d) = false → s.fenced m.dst = false → d ≠ [] →
      (∀ x ∈ d, s.circAt m.dst (l + x.1) = some c ∧ (l + x.1 - s.circBase m.dst c) / s.circSlot m.dst c = j) →
      (∀ x ∈ d, flipsIn s.flips.spd (65536 * m.dst + (l + x.1) / 8) = 0 ∧ ∀ g ∈ (s.bx m.dst).gather, g.line ≠ (l + x.1) / 64 * 64) →
      s.circRemote m.dst c = true → s.circ m.dst c F.SPD_CIRC_SRC_SRC = m.src → s.slotFor m.dst c j = some (ptr, taken) →
      s.pathOpen m.dst m.src = true →
      ∃ t, exec (.remoteWrite k) s = .next t ∧ t.net = dropAt s.net k ++ [⟨m.dst, m.src, 256, .ack 0 i⟩]
        ∧ (∀ a, Mem.rd t.mem.spd a = Mem.rd (Mem.merge s.mem.spd (0x80000 * m.dst + l) d) a) ∧ { t.mem with spd := s.mem.spd } = s.mem
        ∧ SMap.get 0 (t.bx m.dst).circTaken c = taken ∧ s.othersKept t m.dst
        ∧ { t.bx m.dst with circTaken := (s.bx m.dst).circTaken, circBegun := (s.bx m.dst).circBegun } = s.bx m.dst
        ∧ { t.flips with spd := s.flips.spd } = s.flips
        ∧ { t with net := s.net, mesh := s.mesh, regs := s.regs, mem := s.mem, flips := s.flips, blocks := s.blocks } = s
        ∧ (ptr = s.circTail m.dst c → ptr < 2 * s.circSize m.dst c →
            (∃ x ∈ d, l + x.1 = s.circBase m.dst c + j * s.circSlot m.dst c + s.circSlot m.dst c - 1) →
            SMap.get 0 (s.bx m.dst).circBegun (doneKey c ((ptr + 1) % (2 * s.circSize m.dst c))) ≠ 1 →
            t.circTail m.dst c = (ptr + 1) % (2 * s.circSize m.dst c) ∧ t.circHead m.dst c = s.circHead m.dst c))
  ∧ (∀ (s : State) (k l i : Nat) (nw : Bool) (d : List (Nat × Byte × Byte)) (m : Msg), s.msgAt k = some m → m.body = .write l nw d i →
      m.dst < 256 → s.spdOn m.dst = true → s.linesHeld m.dst l (dataLines d) = false → s.fenced m.dst = false → d ≠ [] →
      (∀ x ∈ d, s.circAt m.dst (l + x.1) = none) →
      ∃ t, exec (.remoteWrite k) s = .next t ∧ t.isF (blkBase m.dst) F.SPD_STAT_CREDIT_ERR = true ∧ t.net = dropAt s.net k
        ∧ { t with net := s.net, mesh := s.mesh, regs := s.regs, errs := s.errs, pml := s.pml, mail := s.mail } = s)
  ∧ (∀ (s : State) (k i j : Nat) (m : Msg), s.msgAt k = some m → m.body = .credit i → m.dst < 256 → m.blk < 65536 → j < 16 →
      outFeeds s.img m.dst j m.blk i none = true → (∀ q < j, outFeeds s.img m.dst q m.blk i none = false) → s.spdOn m.dst = true →
      ∃ t, exec (.creditReturn k) s = .next t ∧ t.net = dropAt s.net k
        ∧ t.getF (blkBase m.dst) (F.SPD_OUT_CRED_CREDITS.idx (4 * j))
            = satCount 11 (s.getF (blkBase m.dst) (F.SPD_OUT_CRED_CREDITS.idx (4 * j))) 1
        ∧ s.regsKept t [blkBase m.dst + 0x10200 + 4 * j] ∧ { t with net := s.net, mesh := s.mesh, regs := s.regs } = s)
  ∧ (∀ (s : State) (b l : Nat) (g : GLine), s.spdOn b = true → (s.bx b).gather.find? (fun x => decide (x.line = l)) = some g → g.data ≠ [] →
      s.retHeld b l = false → (∀ x ∈ g.data, flipsIn s.flips.spd (65536 * b + (l + x.1) / 8) = 0) →
      ∃ t, exec (.gatherLineFlush b l) s = .next t
        ∧ (∀ a, Mem.rd t.mem.spd a = Mem.rd (Mem.merge s.mem.spd (0x80000 * b + l) g.data) a) ∧ { t.mem with spd := s.mem.spd } = s.mem
        ∧ (t.bx b).gather = (s.bx b).gather.map (fun x => if x.line = l then { x with data := [], clean := x.clean.map x.over } else x)
        ∧ { t.bx b with gather := (s.bx b).gather } = s.bx b ∧ s.othersKept t b
        ∧ { t with regs := s.regs, mem := s.mem, flips := s.flips, blocks := s.blocks } = s)
  ∧ (∀ (s : State) (k l f i : Nat) (c : Option Nat) (d : List (Nat × Byte × Byte)) (m : Msg), s.msgAt k = some m → m.body = .atomic l d f c i →
      m.dst < 256 → s.spdOn m.dst = true → (s.rx (m.dst / 16)).atoms.length < 32 → s.fenced m.dst = false → s.inAtomWin m.dst l = true →
      ∃ t, exec (.atomicAddRequest k) s = .next t ∧ t.net = dropAt s.net k
        ∧ t.rx (m.dst / 16) = { s.rx (m.dst / 16) with atoms := (s.rx (m.dst / 16)).atoms ++ [⟨m.dst, l, d, f, c, m.src, i⟩] }
        ∧ (∀ r, r ≠ m.dst / 16 → t.rx r = s.rx r) ∧ { t with net := s.net, mesh := s.mesh, regions := s.regions } = s)
  ∧ (∀ (s : State) (k l f i : Nat) (c : Option Nat) (d : List (Nat × Byte × Byte)) (m : Msg), s.msgAt k = some m → m.body = .atomic l d f c i →
      m.dst < 256 → s.spdOn m.dst = true → (s.rx (m.dst / 16)).atoms.length < 32 → s.fenced m.dst = false → s.inAtomWin m.dst l = false →
      ∃ t, exec (.atomicAddRequest k) s = .next t ∧ t.net = dropAt s.net k ∧ t.isF (blkBase m.dst) F.SPD_STAT_CREDIT_ERR = true
        ∧ { t with net := s.net, mesh := s.mesh, regs := s.regs, errs := s.errs, pml := s.pml, mail := s.mail } = s)
  ∧ (∀ (s : State) (r : Nat) (q : AtomReq) (rest : List AtomReq), (s.rx r).atoms = q :: rest → s.spdOn q.blk = true →
      s.retHeld q.blk q.line = false → (∀ g ∈ (s.bx q.blk).gather, g.line ≠ q.line) → s.spdClean q.blk q.line 8 → q.line % 8 = 0 →
      s.pathOpen q.blk q.src = true →
      ∃ t, exec (.atomicApply r) s = .next t ∧ t.rx r = { s.rx r with atoms := rest }
        ∧ t.net = s.net ++ [⟨q.blk, q.src, 256, .ack 0 q.iss⟩]
        ∧ (∀ j < 64, Mem.rd t.mem.spd (0x80000 * q.blk + q.line + j) = (atomLine q.fmt (s.spdRd q.blk q.line 64) q.data).1.getD j 0)
        ∧ (∀ a, (a < 0x80000 * q.blk + q.line ∨ 0x80000 * q.blk + q.line + 64 ≤ a) → Mem.rd t.mem.spd a = Mem.rd s.mem.spd a)
        ∧ { t.mem with spd := s.mem.spd } = s.mem
        ∧ ((atomLine q.fmt (s.spdRd q.blk q.line 64) q.data).2.1 = true → t.isF (blkBase q.blk) F.SPD_STAT_ATOM_SAT = true)
        ∧ ((atomLine q.fmt (s.spdRd q.blk q.line 64) q.data).2.2 = true → t.isF (blkBase q.blk) F.SPD_STAT_ATOM_NONFINITE = true)
        ∧ (∀ c < 16, q.cnt = some c → t.getF (blkBase q.blk) (F.SPD_ATOM_CNT_COUNT.idx (4 * c))
            = (s.getF (blkBase q.blk) (F.SPD_ATOM_CNT_COUNT.idx (4 * c)) + 1) % 2 ^ 32)
        ∧ (∀ b, t.bx b = s.bx b)
        ∧ { t with net := s.net, mesh := s.mesh, regs := s.regs, mem := s.mem, flips := s.flips, regions := s.regions, blocks := s.blocks } = s)

/-- The retained window (R168 to R170): SYNC notes the dirty KiB and copies them one by one to the shadow, RESTORE rewrites the window from it with STALE
where KiB were dirty; a request while either runs has no effect; BUSY falls at the end. A restore holds stores into the window, which
proceed when it ends. -/
def Obligations.RetainedWindow : Prop :=
  (∀ (s : State) (b : Nat), s.spdOn b = true → (s.bx b).shop = none →
      ∃ t, exec (.spdShadowSync b) s = .next t ∧ (t.bx b).shop = some ⟨false, s.dirtyKib b, 0⟩
        ∧ t.isF (blkBase b) F.SPD_SHADOW_CTL_BUSY = true ∧ { t.bx b with shop := none } = s.bx b ∧ s.othersKept t b
        ∧ s.regsKept t [blkBase b + 0x10384] ∧ { t with regs := s.regs, blocks := s.blocks } = s)
  ∧ (∀ (s : State) (b : Nat), s.spdOn b = true → (s.bx b).shop ≠ none →
      exec (.spdShadowSync b) s = .next s ∧ exec (.spdShadowRestore b) s = .next s)
  ∧ (∀ (s : State) (b : Nat), s.spdOn b = true → (s.bx b).shop = none →
      (∀ g ∈ (s.bx b).gather, s.retKib b g.line = none) →
      ∃ t, exec (.spdShadowRestore b) s = .next t ∧ (t.bx b).shop = some ⟨true, [], 0⟩
        ∧ t.isF (blkBase b) F.SPD_SHADOW_CTL_BUSY = true ∧ (s.dirtyKib b ≠ [] → t.isF (blkBase b) F.SPD_SHADOW_CTL_STALE = true)
        ∧ (s.dirtyKib b = [] → t.isF (blkBase b) F.SPD_SHADOW_CTL_STALE = s.isF (blkBase b) F.SPD_SHADOW_CTL_STALE)
        ∧ { t.bx b with shop := none } = s.bx b ∧ s.othersKept t b ∧ s.regsKept t [blkBase b + 0x10384]
        ∧ { t with regs := s.regs, blocks := s.blocks } = s)
  ∧ (∀ (s : State) (b k o age : Nat) (rest : List Nat), s.spdOn b = true → (s.bx b).shop = some ⟨false, k :: rest, age⟩ →
      o = (s.retWin b).1 + 1024 * k → s.ungathered b o 1024 → s.spdClean b o 128 →
      ∃ t, exec (.spdSyncKibCopied b) s = .next t ∧ Mem.rdN t.mem.sshadow (65536 * b + 1024 * k) 1024 = s.spdRd b o 1024
        ∧ (∀ a, (a < 65536 * b + 1024 * k ∨ 65536 * b + 1024 * k + 1024 ≤ a) → Mem.rd t.mem.sshadow a = Mem.rd s.mem.sshadow a)
        ∧ { t.mem with sshadow := s.mem.sshadow } = s.mem ∧ t.kibDirty b k = false ∧ (t.bx b).shop = some ⟨false, rest, age⟩
        ∧ t.isF (blkBase b) F.SPD_SHADOW_CTL_BUSY = true ∧ s.othersKept t b
        ∧ { t with regs := s.regs, mem := s.mem, blocks := s.blocks } = s)
  ∧ (∀ (s : State) (b age : Nat), s.spdOn b = true → (s.bx b).shop = some ⟨false, [], age⟩ → s.takenOp 0x0406 = none →
      ∃ t, exec (.spdShadowDone b) s = .next t ∧ (t.bx b).shop = none ∧ t.isF (blkBase b) F.SPD_SHADOW_CTL_BUSY = false
        ∧ s.othersKept t b ∧ s.regsKept t [blkBase b + 0x10384] ∧ { t with regs := s.regs, blocks := s.blocks } = s)
  ∧ (∀ (s : State) (b age : Nat) (l : List Nat), s.spdOn b = true → (s.bx b).shop = some ⟨true, l, age⟩ → s.takenOp 0x0406 = none →
      (s.bx b).heldW = [] →
      ∃ t, exec (.spdShadowDone b) s = .next t ∧ (t.bx b).shop = none ∧ t.isF (blkBase b) F.SPD_SHADOW_CTL_BUSY = false
        ∧ t.spdRd b (s.retWin b).1 (s.retWin b).2 = Mem.rdN s.mem.sshadow (65536 * b) (s.retWin b).2
        ∧ (∀ a, (a < 0x80000 * b + (s.retWin b).1 ∨ 0x80000 * b + (s.retWin b).1 + (s.retWin b).2 ≤ a) →
            Mem.rd t.mem.spd a = Mem.rd s.mem.spd a)
        ∧ { t.mem with spd := s.mem.spd } = s.mem ∧ s.othersKept t b
        ∧ { t with regs := s.regs, mem := s.mem, flips := s.flips, blocks := s.blocks } = s)
  ∧ (∀ (s : State) (b age : Nat) (l : List Nat), s.spdOn b = true → (s.bx b).shop = some ⟨true, l, age⟩ → s.takenOp 0x0406 = none →
      ∃ t, exec (.spdShadowDone b) s = .next t ∧ (t.bx b).shop = none ∧ (t.bx b).heldW = [])
  ∧ (∀ (s : State) (b id o : Nat) (full : Bool) (d : List (Nat × Byte × Byte)), s.retHeld b o = true →
      ((s.lineWrite b id o full d).bx b).heldW = (s.bx b).heldW ++ [⟨id, o, full, d⟩] ∧ { s.lineWrite b id o full d with blocks := s.blocks } = s)

/-- Accesses over the register bus (R9 to R12, R37, R39): a write gives each field what its access code allows; a read returns the fields with WO fields 0
and clears RC fields; the low word of a 64-bit pair latches the high word; a count of flits is read and
cleared (R333); CUR_STAT shows a lane that its last test failed as bad (R565); an access that leads nowhere has no effect but CHIP_ACC_ERR and reads 0;
without the bus nothing happens. Register commands of the host (R434, R410, R405, R554): REG_READ answers with the words of consecutive addresses;
REG_WRITE writes each entry and answers how many it wrote, and stops with DENIED at one the host may not write; both wait behind the commands of
R410. -/
def Obligations.RegisterAccesses : Prop :=
  (∀ (f : FieldDesc) (old v : Nat), f.acc = .rw → f.allows (bits v f.lo f.width) = true → bits (f.write old v) f.lo f.width = bits v f.lo f.width)
  ∧ (∀ (f : FieldDesc) (old v i : Nat), f.acc = .w1c → i < f.width →
      (f.write old v).testBit (f.lo + i) = (old.testBit (f.lo + i) && !v.testBit (f.lo + i)))
  ∧ (∀ (f : FieldDesc) (old v : Nat), (f.acc = .ro ∨ f.acc = .rc) → f.write old v = old)
  ∧ (∀ (f : FieldDesc) (old v : Nat), f.acc = .rw → f.allows (bits v f.lo f.width) = false → f.write old v = old)
  ∧ (∀ (s : State) (a v : Nat) (l : Loc) (d : RegDesc), s.pdOn 3 = true → s.reach a = .inr (l, d) →
      (l.win ∈ [.sdi, .pgh, .pml, .bst] ∨ (l.win = .cad ∧ l.off ≠ 0x18 ∧ l.off ≠ 0) ∨ (l.win = .pwr ∧ l.off ≠ 8 ∧ l.off ≠ 0xC)
        ∨ (l.win = .hbm ∧ s.isIn [.running, .draining, .securing] = false)
        ∨ (l.win = .nim ∧ s.isIn [.running, .draining, .securing, .restoring] = false)) →
      exec (.registerWrite a v) s = .next (s.setReg a (BitVec.ofNat 32 (d.write (s.reg a).toNat (v % 2 ^ 32)))))
  ∧ (∀ (s : State) (a v k : Nat), s.pdOn 3 = true → s.reach a = .inl k → (s.reg 0x20).toNat % 4 = 0 →
      ∃ t, exec (.registerWrite a v) s = .next t ∧ t.reg 0x24 = BitVec.ofNat 32 a ∧ (t.reg 0x20).toNat.testBit k = true
        ∧ s.regsKept t [0x20, 0x24] ∧ { t with regs := s.regs } = s)
  ∧ (∀ (s : State) (a v k : Nat), s.pdOn 3 = true → s.reach a = .inl k → (s.reg 0x20).toNat % 4 ≠ 0 →
      ∃ t, exec (.registerWrite a v) s = .next t ∧ (t.reg 0x20).toNat.testBit k = true ∧ t.isF chipBase F.CHIP_ACC_ERR_OVERRUN = true
        ∧ s.regsKept t [0x20] ∧ { t with regs := s.regs } = s)
  ∧ (∀ (s : State) (a v k : Nat), s.pdOn 3 = true → s.reach a = .inl k →
      ∃ t, exec (.registerAccess false a v) s = .next t ∧ t.busRead = 0 ∧ (t.reg 0x20).toNat.testBit k = true
        ∧ { t with regs := s.regs, busRead := s.busRead } = s)
  ∧ (∀ (s : State) (a v : Nat), exec (.registerAccess true a v) s = exec (.registerWrite a v) s)
  ∧ (∀ (s : State) (a v : Nat) (l : Loc) (d : RegDesc), s.pdOn 3 = true → s.reach a = .inr (l, d) → (l.win ∈ [.hbm, .pgh, .hzn, .curShared] ∨ (l.win = .cur ∧ l.off ≠ 4)) →
      pairHigh a = false → pairLow l = false → (∀ f ∈ d.fields, f.acc ≠ .rc) →
      exec (.registerAccess false a v) s = .next { s with busRead := BitVec.ofNat 32 (d.readWord (s.reg a).toNat) })
  ∧ (∀ (s : State) (a v : Nat) (l : Loc) (d : RegDesc), s.pdOn 3 = true → s.reach a = .inr (l, d) → (l.win ∈ [.hbm, .pgh, .hzn, .curShared] ∨ (l.win = .cur ∧ l.off ≠ 4)) →
      pairHigh a = false → pairLow l = false → (∃ f ∈ d.fields, f.acc = .rc) →
      exec (.registerAccess false a v) s
        = .next { s.setReg a (BitVec.ofNat 32 (d.afterRead (s.reg a).toNat)) with busRead := BitVec.ofNat 32 (d.readWord (s.reg a).toNat) })
  ∧ (∀ (s : State) (a v : Nat) (l : Loc) (d : RegDesc), s.pdOn 3 = true → s.reach a = .inr (l, d) → l.win = .cur → l.off = 4 → pairHigh a = false →
      exec (.registerAccess false a v) s = .next { s with busRead := BitVec.ofNat 32 (d.readWord
        (putBits (s.reg a).toNat 8 8 (bits (s.reg a).toNat 8 8 &&& (255 ^^^ SMap.get 0 s.bist.lanes l.idx)))) })
  ∧ (∀ (s : State) (a v : Nat) (l h : Loc) (d e : RegDesc), s.pdOn 3 = true → s.reach a = .inr (l, d) → l.win ∈ [.hbm, .hzn, .cur, .curShared] →
      pairHigh a = false → pairLow l = true → locate (a + 4) = some h → h.win = l.win → h.desc = some e → (∀ f ∈ d.fields, f.acc ≠ .rc) →
      ∃ t, exec (.registerAccess false a v) s = .next t ∧ t.busRead = BitVec.ofNat 32 (d.readWord (s.reg a).toNat)
        ∧ SMap.get (latchReset (a + 4)) t.latch (a + 4) = BitVec.ofNat 32 (e.readWord (s.reg (a + 4)).toNat)
        ∧ { t with latch := s.latch, busRead := s.busRead } = s)
  ∧ (∀ (s : State) (a v : Nat) (l : Loc) (d : RegDesc), s.pdOn 3 = true → s.reach a = .inr (l, d) → pairHigh a = true →
      exec (.registerAccess false a v) s = .next { s with busRead := SMap.get (latchReset a) s.latch a })
  ∧ (∀ (s : State) (a v : Nat) (l : Loc) (d : RegDesc), s.pdOn 3 = true → s.reach a = .inr (l, d) → l.win = .rgn → flitsOff l.off = true →
      pairHigh a = false → (∃ f ∈ d.fields, f.acc = .rc) →
      ∃ t, exec (.registerAccess false a v) s = .next t
        ∧ t.busRead = BitVec.ofNat 32 (d.readWord (SMap.get 0 s.mesh.flits (flitsKey l.idx l.off)))
        ∧ SMap.get 0 t.mesh.flits (flitsKey l.idx l.off) = 0 ∧ { t with regs := s.regs, mesh := s.mesh, busRead := s.busRead } = s)
  ∧ (∀ (s : State) (a v : Nat) (wr : Bool), s.pdOn 3 = false →
      exec (.registerWrite a v) s = .next s ∧ exec (.registerAccess wr a v) s = .next s)
  ∧ (∀ s : State, s.runs 0x0C01 = true → regReadBad s.front = false → s.regHeld = false → s.takenOp 0x0C01 = none →
      ∃ t, exec .regRead s = .next t ∧ s.answered t 0 (s.took.readRun (s.front.fld 0 4) (s.front.fld 4 2)).1
        ∧ (s.took.readRun (s.front.fld 0 4) (s.front.fld 4 2)).1.length = 4 * s.front.fld 4 2 ∧ t.mem = s.mem ∧ t.chip = s.chip
        ∧ t.net = s.net ∧ t.blocks = s.blocks ∧ t.macros = s.macros)
  ∧ (∀ (s : State) (l : Loc) (d : RegDesc), s.runs 0x0C02 = true → s.front.ok 12 [] = true → s.front.par.length = 12 → s.regHeld = false →
      s.takenOp 0x0C02 = none → s.reach (s.front.fld 0 4) = .inr (l, d) → l.win ∈ [.sdi, .pml, .bst] → s.front.fld 8 4 = 0xFFFFFFFF →
      ∃ t, exec .regWrite s = .next t ∧ s.answered t 0 (leBytes 2 1)
        ∧ t.reg (s.front.fld 0 4) = BitVec.ofNat 32 (d.write (s.reg (s.front.fld 0 4)).toNat (s.front.fld 4 4))
        ∧ s.regsKept t [s.front.fld 0 4] ∧ { t with sdio := s.sdio, mail := s.mail, regs := s.regs } = s)
  ∧ (∀ s : State, s.runs 0x0C02 = true → regWriteBad s.front = false → s.regHeld = false → s.takenOp 0x0C02 = none →
      hostLocked (s.front.fld 0 4) = true →
      ∃ t, exec .regWrite s = .next t ∧ s.answered t 0x0701 (leBytes 2 0) ∧ { t with sdio := s.sdio, mail := s.mail } = s)
  ∧ (∀ s : State, s.runs 0x0C02 = true → regWriteBad s.front = false → s.regHeld = true →
      ∃ t, exec .regWrite s = .next t ∧ s.underway t ∧ { t with sdio := s.sdio, mail := s.mail, free := s.free } = s)
  ∧ (∀ s : State, s.runs 0x0C01 = true → regReadBad s.front = false → s.regHeld = true →
      ∃ t, exec .regRead s = .next t ∧ s.underway t ∧ { t with sdio := s.sdio, mail := s.mail, free := s.free } = s)

/-- Cirrus between predictions (R281 to R284): a threshold write waits for the boundary; a chain is trimmed while the window is open, no other chain with
it, and a trim out of range sets its FAIL bit and leaves the trims as they were; the 256th sets CAL, records the temperature and counts the pass; without
the window nothing happens. -/
def Obligations.CirrusUpkeep : Prop :=
  (∀ (s : State) (b v : Nat), s.compOn b = true →
      ∃ t, exec (.cirThreshWrite b v) s = .next t ∧ t.bx b = { s.bx b with thrPend := some (v % 2 ^ 24) } ∧ s.othersKept t b
        ∧ { t with blocks := s.blocks } = s)
  ∧ (∀ (s : State) (b n : Nat), s.compOn b = true → s.isF (blkBase b) F.CIR_STAT_RECAL = true →
      n = s.getF (blkBase b) F.CIR_CAL_STAT_NEXT_CHAIN → n < 255 →
      ∃ t, exec (.recalibrationChain b true) s = .next t ∧ t.getF (blkBase b) F.CIR_CAL_STAT_NEXT_CHAIN = n + 1
        ∧ (t.reg (blkBase b + 0x30110 + 4 * (n / 32))).toNat.testBit (n % 32) = false
        ∧ s.regsKept t [blkBase b + 0x30104, blkBase b + 0x30110 + 4 * (n / 32)]
        ∧ (∀ k, k ≠ 256 * b + n → SMap.get (0, 0) t.mem.cirTrim k = SMap.get (0, 0) s.mem.cirTrim k)
        ∧ { t.mem with cirTrim := s.mem.cirTrim } = s.mem ∧ { t with regs := s.regs, mem := s.mem, free := s.free } = s)
  ∧ (∀ (s : State) (b n : Nat), s.compOn b = true → s.isF (blkBase b) F.CIR_STAT_RECAL = true →
      n = s.getF (blkBase b) F.CIR_CAL_STAT_NEXT_CHAIN → n < 255 →
      ∃ t, exec (.recalibrationChain b false) s = .next t ∧ t.getF (blkBase b) F.CIR_CAL_STAT_NEXT_CHAIN = n + 1
        ∧ (t.reg (blkBase b + 0x30110 + 4 * (n / 32))).toNat.testBit (n % 32) = true
        ∧ { t with regs := s.regs, errs := s.errs, pml := s.pml, mail := s.mail } = s)
  ∧ (∀ (s : State) (b : Nat) (c : Int), s.compOn b = true → s.isF (blkBase b) F.CIR_STAT_RECAL = true →
      s.getF (blkBase b) F.CIR_CAL_STAT_NEXT_CHAIN = 255 → s.regionTemp (b / 16) = 256000 * c → -128 ≤ c → c ≤ 127 →
      ∃ t, exec (.recalibrationChain b true) s = .next t ∧ t.isF (blkBase b) F.CIR_STAT_CAL = true
        ∧ t.getF (blkBase b) F.CIR_CAL_STAT_NEXT_CHAIN = 0 ∧ toSigned 8 (t.getF (blkBase b) F.CIR_CAL_STAT_TEMP) = c
        ∧ t.getF (blkBase b) F.CIR_CAL_STAT_PASSES = (s.getF (blkBase b) F.CIR_CAL_STAT_PASSES + 1) % 2 ^ 16
        ∧ s.regsKept t [blkBase b + 0x30100, blkBase b + 0x30104, blkBase b + 0x3012C]
        ∧ { t.mem with cirTrim := s.mem.cirTrim } = s.mem ∧ { t with regs := s.regs, mem := s.mem, free := s.free } = s)
  ∧ (∀ (s : State) (b : Nat) (ok : Bool), s.isF (blkBase b) F.CIR_STAT_RECAL = false → exec (.recalibrationChain b ok) s = .next s)

/-- A sample of Horizon in which no rule is evaluated and no step time falls, while Horizon reaches its own RAM (R486 to R491, R501): every channel is valid exactly where it has a raw value, an
unfiltered channel shows it in 1/256 units, and risk and level follow from the channels and thresholds. Rule commits and resting regions (R435, R492,
R498, R500): records written are staged and committed; the copy makes each changed staged record that may stand active with its state restarted, and
clears BUSY; a requested region whose blocks all rest is switched off, its contexts kept and its rows lost. That the active record is kept where the
staged one may not stand is log entry 41, and that lost rows read 0 is log entry 4. -/
def Obligations.HorizonSamplesAndRules : Prop :=
  (∀ (s : State) (time : Nat) (raw : List Int), s.pdOn 1 = true → s.isF hznBase F.HZN_CTL_RULES_EN = false → (s.hzn.tick + 1) % 10 ≠ 0 →
    s.hznOwn = true →
    ∃ t, exec (.horizonSample time raw) s = .next t ∧ t.now = max s.now time
      ∧ (∀ c < 64, t.hzValid c = ((s.at time).hzRaw raw (Config.freeNat s.free) c).isSome)
      ∧ (∀ c < 64, ∀ x, (s.at time).hzRaw raw (Config.freeNat s.free) c = some x → s.getF hznBase (F.HZN_CH_CFG_FILT.idx (0x10 * c)) = 0 →
          t.hzF c = sat32 (256 * sat32 x))
      ∧ t.getF hznBase F.HZN_RISK_RISK = (max 0 (min (t.riskSum / 2 ^ t.getF hznBase F.HZN_CTL_RISK_SHIFT) 255)).toNat
      ∧ t.getF hznBase F.HZN_RISK_LEVEL
          = ((List.range 7).filter (fun (i : Nat) => decide (t.levelThr (i + 1) ≤ t.getF hznBase F.HZN_RISK_RISK))).length
      ∧ { t with now := s.now, free := s.free, regs := s.regs, hzn := s.hzn, mail := s.mail } = s)
  ∧ (∀ s : State, s.pdOn 3 = true → s.pdOn 1 = true →
      ∃ t, exec .hznRuleCmdCommit s = .next t ∧ t.isF hznBase F.HZN_RULE_CMD_BUSY = true ∧ s.regsKept t [hznBase + 0x30]
        ∧ { t with regs := s.regs } = s)
  ∧ (∀ s : State, s.runs 0x0D01 = true → s.front.ok (4 + 16 * s.front.fld 1 1) [(2, 2)] = true → 0 < s.front.fld 1 1 →
      s.front.fld 0 1 + s.front.fld 1 1 ≤ 64 → (∀ i < s.front.fld 1 1, hzRecOk (slice s.front.par (4 + 16 * i) 16) = true) → s.pdOn 1 = true →
      ∃ t, exec .hznRuleWrite s = .next t ∧ s.underway t
        ∧ (∀ i < s.front.fld 1 1, t.stagedBytes (s.front.fld 0 1 + i) = slice s.front.par (4 + 16 * i) 16)
        ∧ (∀ i, i < 64 → (i < s.front.fld 0 1 ∨ s.front.fld 0 1 + s.front.fld 1 1 ≤ i) → t.stagedBytes i = s.stagedBytes i)
        ∧ (∀ i, t.ruleBytes i = s.ruleBytes i ∨ 64 ≤ i) ∧ t.isF hznBase F.HZN_RULE_CMD_BUSY = true
        ∧ { t with sdio := s.sdio, mail := s.mail, regs := s.regs, free := s.free } = s)
  ∧ (∀ s : State, s.pdOn 1 = true → s.isF hznBase F.HZN_RULE_CMD_BUSY = true → s.takenOp 0x0D01 = none →
      ∃ t, exec .activeRuleCopy s = .next t ∧ t.isF hznBase F.HZN_RULE_CMD_BUSY = false
        ∧ (∀ i < 64, hzRecOk (s.stagedBytes i) = true → t.ruleBytes i = s.stagedBytes i)
        ∧ (∀ i < 64, hzRecOk (s.stagedBytes i) = true → s.stagedBytes i ≠ s.ruleBytes i → (t.hzRule i).fired = false ∧ (t.hzRule i).cnt = 0)
        ∧ (∀ i < 64, hzRecOk (s.stagedBytes i) = false → t.ruleBytes i = s.ruleBytes i)
        ∧ (∀ i < 64, s.stagedBytes i = s.ruleBytes i → t.hzRule i = s.hzRule i)
        ∧ { t with regs := s.regs, hzn := s.hzn } = s)
  ∧ (∀ (s : State) (r : Nat), r < 16 → s.pdOn 1 = true → s.pdOn (4 + r) = true → (s.getF hznBase F.HZN_REST_REQ).testBit r = true →
      s.isIn [.armed, .running, .draining] = true → s.bistHolds r = false → (∀ i < 16, s.blockRests (16 * r + i) = true) →
      ∃ t, exec (.regionPowerDown r) s = .next t ∧ (∀ d, t.pdOn d = (s.pdOn d && !decide (d = 4 + r)))
        ∧ (t.getF hznBase F.HZN_REST_OFF).testBit r = true
        ∧ (∀ i < 16, (SMap.get ⟨[], []⟩ t.power.saved (16 * r + i)).ctxs = (s.bx (16 * r + i)).ctxs)
        ∧ (∀ a, Mem.rd t.mem.rows a = if 65536 * 256 * r ≤ a ∧ a < 65536 * 256 * (r + 1) then 0 else Mem.rd s.mem.rows a)
        ∧ t.mem.spd = s.mem.spd ∧ t.mem.hbm = s.mem.hbm ∧ t.mem.wshadow = s.mem.wshadow ∧ t.chip = s.chip)

/-- Self-test (R555 to R559, R562, R568 to R570): BIST_RUN starts a slice that bears its command, or answers at once with no failure where nothing remains
to test; a claim whose block is free and whose unit fits starts it, and one that no longer fits is counted and released; a unit that passes leaves no
result, one of a kind that only passes or fails leaves a record and FAIL. REPAIR_COMMIT begins to fuse every soft repair and every newly bad spare,
or nothing where too few entries are left, and has fused each of them when it replies. Which cells fail is free (log entry 37), the units of a block
are one result (110), what `ok` stands for in Table 19.3 is log entry 111, and when the commit ends log entry 112. -/
def Obligations.SelfTestAndRepair : Prop :=
  (∀ s : State, s.runs 0x0A01 = true → s.front.ok 6 [] = true → bits (s.front.fld 0 4) 10 6 = 0 → s.bist.slice = none →
      bits (s.front.fld 0 4) 0 10 = 0 →
      ∃ t, exec .bistRun s = .next t ∧ s.answered t 0 (leBytes 4 0) ∧ t.bist.slice = none ∧ t.mem = s.mem)
  ∧ (∀ s : State, s.runs 0x0A01 = true → s.front.ok 6 [] = true → bits (s.front.fld 0 4) 10 6 = 0 →
      ∃ t, exec .bistRun s = .next t ∧ t.mem = s.mem ∧ t.chip = s.chip
        ∧ (s.answered t 0 (leBytes 4 0)
          ∨ (s.underway t ∧ ∃ q, t.bist.slice = some q ∧ q.cmd = some s.mail.nextId ∧ q.source = 1 ∧ q.fails = 0)))
  ∧ (∀ (s : State) (k u : Nat) (q : Slice) (x : TestUnit), s.bist.slice = some q → u < 65536 →
      q.claimed.find? (fun y => decide (y.kind = k ∧ y.unit = u)) = some x → s.claimFree x = true → s.bistLive k u = true →
      s.bistStateOk = true → s.sliceFits q k u = true →
      ∃ t, exec (.bistUnitClaim (65536 * k + u)) s = .next t ∧ (∃ q2, t.bist.slice = some q2 ∧ x ∈ q2.running ∧ q2.cmd = q.cmd)
        ∧ t.mem = s.mem ∧ t.chip = s.chip)
  ∧ (∀ (s : State) (k u : Nat) (q : Slice) (x : TestUnit), s.bist.slice = some q → u < 65536 →
      q.claimed.find? (fun y => decide (y.kind = k ∧ y.unit = u)) = some x → s.claimFree x = true → s.bistLive k u = true →
      s.bistStateOk = true → s.sliceFits q k u = false →
      ∃ t, exec (.bistUnitClaim (65536 * k + u)) s = .next t
        ∧ t.getF bstBase F.BST_COUNTS_DEFERRED = satCount 16 (s.getF bstBase F.BST_COUNTS_DEFERRED) 1 ∧ t.mem = s.mem ∧ t.chip = s.chip)
  ∧ (∀ (s : State) (code : Nat) (q : Slice) (x : TestUnit), s.bist.slice = some q →
      q.running.find? (fun y => decide (65536 * y.kind + y.unit = code)) = some x →
      (x.kind = 9 → s.ldoInBand x.unit = true) → (x.kind = 0 → ∀ m ∈ blkMacros x.unit, s.hardCols m = 0) →
      ∃ t, exec (.bistUnitComplete code true) s = .next t ∧ t.bist.results = s.bist.results ∧ t.bist.total = s.bist.total ∧ t.chip = s.chip)
  ∧ (∀ (s : State) (code : Nat) (q : Slice) (x : TestUnit), s.bist.slice = some q →
      q.running.find? (fun y => decide (65536 * y.kind + y.unit = code)) = some x → x.kind ∈ [3, 7, 8, 9] → s.bistLive x.kind x.unit = true →
      ∃ t, exec (.bistUnitComplete code false) s = .next t ∧ t.bist.total = min (s.bist.total + 1) 65535
        ∧ t.bist.newest = (if s.bist.total = 0 then 0 else (s.bist.newest + 1) % 1024)
        ∧ (SMap.get [] t.bist.results t.bist.newest).length = 32 ∧ leAt (SMap.get [] t.bist.results t.bist.newest) 0 2 = x.kind % 256 + 512
        ∧ t.isF bstBase F.BST_STAT_FAIL = true ∧ t.mem = s.mem ∧ t.chip = s.chip)
  ∧ (∀ s : State, s.runs 0x0A03 = true → s.front.ok 0 [] = true → s.fuseItems ≠ [] → s.fuseItems.length ≤ s.bist.fuseFree →
      ∃ t, exec .repairCommit s = .next t ∧ s.underway t
        ∧ t.bist = { s.bist with commit := some ⟨s.mail.nextId, s.fuseItems.length, s.fuseItems, false⟩ }
        ∧ { t with sdio := s.sdio, mail := s.mail, bist := s.bist, free := s.free } = s)
  ∧ (∀ s : State, s.runs 0x0A03 = true → s.front.ok 0 [] = true → s.fuseItems = [] →
      ∃ t, exec .repairCommit s = .next t ∧ s.answered t 0 (leBytes 2 0) ∧ { t with sdio := s.sdio, mail := s.mail } = s)
  ∧ (∀ (s : State) (k : Nat) (c : FuseRun), s.mail.replies = [] → s.store.staging = none → s.bist.commit = some c → c.begun = false →
      c.left.length ≤ 9999 →
      ∃ t, exec (.replyWrite k) s = .next t ∧ t.bist.commit = none ∧ t.bist.fuseFree = s.bist.fuseFree - c.left.length
        ∧ (∀ a w, FuseItem.entry a ∈ c.left → (a, w) ∈ t.regs → softRepair a w = false)
        ∧ (∀ code i, FuseItem.spare code i ∈ c.left → (SMap.get 0 t.bist.badFused code).testBit i = true))
  ∧ (∀ s : State, s.runs 0x0A03 = true → s.front.ok 0 [] = true → s.bist.fuseFree < s.fuseItems.length →
      ∃ t, exec .repairCommit s = .next t ∧ s.answered t 0x0301 [] ∧ { t with sdio := s.sdio, mail := s.mail } = s)

/-- Coordinate, routes, tag and group (R431, R432, R454, R455): each takes what its command gives, all of it or nothing. -/
def Obligations.CoordinateRoutesAndGroup : Prop :=
  (∀ s : State, s.runs 0x0802 = true → s.front.ok 2 [] = true → s.front.fld 0 2 < 4096 →
      ∃ t, exec .setCoord s = .next t ∧ s.answered t 0 [] ∧ t.ownCoord = s.front.fld 0 2 ∧ s.regsKept t [curShBase]
        ∧ { t with sdio := s.sdio, mail := s.mail, regs := s.regs } = s)
  ∧ (∀ s : State, s.runs 0x0803 = true → s.front.ok (4 + 2 * s.front.fld 2 2) [] = true → 0 < s.front.fld 2 2 → s.front.fld 2 2 ≤ 2030 →
      s.front.fld 0 2 + s.front.fld 2 2 ≤ 4096 →
      ∃ t, exec .routeWrite s = .next t ∧ s.answered t 0 []
        ∧ (∀ i < s.front.fld 2 2, t.getF curShBase (F.CUR_ROUTE_PORTS.idx (4 * (s.front.fld 0 2 + i))) = s.front.fld (4 + 2 * i) 2)
        ∧ (∀ a, (∀ i < s.front.fld 2 2, a ≠ curShBase + 0x4000 + 4 * (s.front.fld 0 2 + i)) → t.reg a = s.reg a)
        ∧ { t with sdio := s.sdio, mail := s.mail, regs := s.regs } = s)
  ∧ (∀ s : State, s.runs 0x0804 = true → s.front.ok 1 [] = true → s.front.fld 0 1 < 16 →
      ∃ t, exec .setTag s = .next t ∧ s.answered t 0 (leBytes 1 (s.front.fld 0 1)) ∧ t.getF nimBase F.NIM_TAG_TAG = s.front.fld 0 1
        ∧ t.getF nimBase F.NIM_TAG_BY_CMD = 1 ∧ s.regsKept t [nimBase + 0x18] ∧ { t with sdio := s.sdio, mail := s.mail, regs := s.regs } = s)
  ∧ (∀ s : State, s.runs 0x0804 = true → s.front.ok 1 [] = true → 128 ≤ s.front.fld 0 1 → s.front.fld 0 1 < 144 →
      ∃ t, exec .setTag s = .next t ∧ s.answered t 0 (leBytes 1 (s.getF nimBase F.NIM_TAG_FEEDTAG))
        ∧ t.getF nimBase F.NIM_TAG_TAG = s.getF nimBase F.NIM_TAG_FEEDTAG ∧ t.getF nimBase F.NIM_TAG_BY_CMD = 0
        ∧ s.regsKept t [nimBase + 0x18] ∧ { t with sdio := s.sdio, mail := s.mail, regs := s.regs } = s)
  ∧ (∀ (s : State) (k own : Nat) (es : List (Nat × Nat)), s.runs 0x0805 = true → s.front.ok 8 [(4, 4)] = true → k = s.front.fld 0 1 → 2 ≤ k → k ≤ 14 →
      s.front.fld 1 1 ≤ 1 → s.front.par.length = 8 + 4 * (k + 2) → es = groupEntries s.front.par (k + 2) → (∀ e ∈ es, e.1 < 4096 ∧ e.2 < 16) →
      (∀ i < k + 2, leAt s.front.par (11 + 4 * i) 1 = 0) → es.findIdx? (fun e => decide (e.1 = s.ownCoord)) = some own →
      (tagClash es = false ∨ s.front.fld 1 1 = 1) →
      ∃ t, exec .groupForm s = .next t ∧ s.answered t 0 (leBytes 1 own ++ leBytes 1 (s.front.fld 1 1)) ∧ t.inGroup = true
        ∧ t.getF nimBase F.NIM_GROUP_GROUP_ID = s.front.fld 2 2 ∧ t.grpN = k + 2 ∧ t.ownIdx = own
        ∧ t.getF nimBase F.NIM_GROUP_SHARED_FEED = s.front.fld 1 1 ∧ t.epoch = 0 ∧ t.live = List.range (k + 2)
        ∧ (∀ m e, es[m]? = some e → t.coordOf m = e.1 ∧ t.member m F.NIM_MEMBER_TAG = e.2) ∧ t.mem = s.mem ∧ t.chip = s.chip ∧ t.cour = s.cour)
  ∧ (∀ (s : State) (k own : Nat) (es : List (Nat × Nat)), s.runs 0x0805 = true → s.front.ok 8 [(4, 4)] = true → k = s.front.fld 0 1 → 2 ≤ k → k ≤ 14 →
      s.front.fld 1 1 = 0 → s.front.par.length = 8 + 4 * (k + 2) → es = groupEntries s.front.par (k + 2) → (∀ e ∈ es, e.1 < 4096 ∧ e.2 < 16) →
      (∀ i < k + 2, leAt s.front.par (11 + 4 * i) 1 = 0) → es.findIdx? (fun e => decide (e.1 = s.ownCoord)) = some own → tagClash es = true →
      ∃ t, exec .groupForm s = .next t ∧ s.answered t 0x0602 [] ∧ { t with sdio := s.sdio, mail := s.mail } = s)

/-- Securing and recovery asked for by the host (R459, R474, R478; Table 1.12): SECURE in ARMED leaves a request, in RUNNING outside a group it makes a
freeze due; RESTORE, REJOIN and ADOPT enter RESTORING with their command. Without an installed plan they are answered NO_PLAN, and RESTORE of 0xFFFF_FFFE without P1DONE
NO_EPOCH: the rules name no status for either (log entry 97). -/
def Obligations.RecoveryCommands : Prop :=
  (∀ s : State, s.runs 0x0901 = true → s.front.ok 0 [] = true → s.chip.st = .armed →
      ∃ t, exec .secure s = .next t ∧ s.underway t ∧ t.isF nimBase F.NIM_STAT_REQ = true ∧ t.nim = { s.nim with secCmd := s.nim.secCmd ++ [s.mail.nextId] }
        ∧ s.regsKept t [nimBase + 4] ∧ { t with sdio := s.sdio, mail := s.mail, regs := s.regs, nim := s.nim, free := s.free } = s)
  ∧ (∀ s : State, s.runs 0x0901 = true → s.front.ok 0 [] = true → s.chip.st = .running → s.inGroup = false → s.isF nimBase F.NIM_STAT_REQ = false →
      ∃ t, exec .secure s = .next t ∧ s.underway t ∧ t.isF nimBase F.NIM_STAT_REQ = true ∧ t.nim.due = true
        ∧ t.nim.dueStep = (if planTraining s.img then some s.curStep else none) ∧ t.nim.secCmd = s.nim.secCmd ++ [s.mail.nextId]
        ∧ s.regsKept t [nimBase + 4] ∧ { t with sdio := s.sdio, mail := s.mail, regs := s.regs, nim := s.nim, free := s.free } = s)
  ∧ (∀ s : State, s.runs 0x0902 = true → s.front.ok 4 [] = true → s.img ≠ [] →
      (s.front.fld 0 4 = 0xFFFFFFFE → s.isF nimBase F.NIM_STAT_P1DONE = true) → (∀ q, s.bist.slice = some q → q.cmd = none) →
      ∃ t, exec .restore s = .next t ∧ s.underway t ∧ t.chip.st = .restoring ∧ t.chip.prev = s.chip.st
        ∧ t.nim = { s.nim with restore := some (s.mail.nextId, s.front.fld 0 4) } ∧ t.getF hznBase F.HZN_REST_OFF = 0 ∧ t.mem = s.mem ∧ t.img = s.img)
  ∧ (∀ s : State, s.runs 0x0903 = true → s.front.ok 8 [(2, 2)] = true → s.img ≠ [] →
      (∀ q, s.bist.slice = some q → q.cmd = none) →
      ∃ t r, exec .rejoin s = .next t ∧ s.underway t ∧ t.chip.st = .restoring ∧ t.nim = { s.nim with rebuild := some r } ∧ r.cmd = s.mail.nextId
        ∧ r.adopt = false ∧ r.coord = s.ownCoord ∧ r.group = s.front.fld 0 2 ∧ r.asked = s.front.fld 4 4 ∧ r.table = false ∧ r.wait = 0 ∧ t.mem = s.mem)
  ∧ (∀ s : State, s.runs 0x0904 = true → s.front.ok 8 [] = true → s.front.fld 0 2 < 4096 → s.img ≠ [] →
      (∀ q, s.bist.slice = some q → q.cmd = none) →
      ∃ t r, exec .adopt s = .next t ∧ s.underway t ∧ t.chip.st = .restoring ∧ t.nim = { s.nim with rebuild := some r } ∧ r.cmd = s.mail.nextId
        ∧ r.adopt = true ∧ r.coord = s.front.fld 0 2 ∧ r.group = s.front.fld 2 2 ∧ r.asked = s.front.fld 4 4 ∧ r.table = false ∧ r.wait = 0 ∧ t.mem = s.mem)
  ∧ (∀ s : State, s.runs 0x0902 = true → s.front.ok 4 [] = true → s.img = [] →
      ∃ t, exec .restore s = .next t ∧ s.answered t 0x0410 [] ∧ { t with sdio := s.sdio, mail := s.mail } = s)
  ∧ (∀ s : State, s.runs 0x0903 = true → s.front.ok 8 [(2, 2)] = true → s.img = [] →
      ∃ t, exec .rejoin s = .next t ∧ s.answered t 0x0410 [] ∧ { t with sdio := s.sdio, mail := s.mail } = s)
  ∧ (∀ s : State, s.runs 0x0904 = true → s.front.ok 8 [] = true → s.front.fld 0 2 < 4096 → s.img = [] →
      ∃ t, exec .adopt s = .next t ∧ s.answered t 0x0410 [] ∧ { t with sdio := s.sdio, mail := s.mail } = s)
  ∧ (∀ s : State, s.runs 0x0902 = true → s.front.ok 4 [] = true → s.img ≠ [] → s.front.fld 0 4 = 0xFFFFFFFE →
      s.isF nimBase F.NIM_STAT_P1DONE = false →
      ∃ t, exec .restore s = .next t ∧ s.answered t 0x0603 [] ∧ { t with sdio := s.sdio, mail := s.mail } = s)

/-- Nimbus messages about peers and the exchange (R456, R457, R470 to R473; Table 15.7): one for another group, or while the engine is off, is only
discarded; PING is answered with PONG, PONG ends the wait, STATUS_REQ is answered with STATUS, STATUS is noted, LOST loses its member, and the
coordinator notes a securing request. The decision: path 1 keeps the step to be completed, path 2 clears STAGE and answers ZEROED, a restore ends the
exchange, and no recovery raises NIM_UNRECOVERABLE; the coordinator sends GO when every survivor has cleared, and GO ends the exchange. -/
def Obligations.NimbusPeersAndDecisions : Prop :=
  (∀ (s : State) (k op p : Nat) (m : CMsg) (c : Nat → Instr),
      (op, c) ∈ [(1, Instr.ping), (2, Instr.pong), (3, Instr.lost), (4, Instr.statusReq), (5, Instr.status), (6, Instr.decide), (7, Instr.zeroed),
        (8, Instr.go), (9, Instr.added), (0xA, Instr.pushed), (0xB, Instr.ready), (0xC, Instr.commit), (0xD, Instr.secureReq), (0xE, Instr.parity),
        (0xF, Instr.digests), (0x10, Instr.secured), (0x11, Instr.epochDone), (0x12, Instr.members), (0x13, Instr.adopted)] →
      s.ownMsg k 7 = some (p, m) → leAt m.data 0 1 = op → (s.nimEn = false ∨ leAt m.data 2 2 ≠ s.nimGroup) →
      exec (c k) s = .next (s.takeInbox k))
  ∧ (∀ (s : State) (k : Nat) (m : CMsg), s.nimGets k 1 m →
      ∃ t, exec (.ping k) s = .next t ∧ (s.nimTook k m).nimSent t m.src 2 ∧ { t with mesh := s.mesh, cour := s.cour } = s)
  ∧ (∀ (s : State) (k : Nat) (m : CMsg), s.nimGets k 2 m →
      ∃ t, exec (.pong k) s = .next t ∧ t.nim = { s.nim with pings := s.nim.pings.filter (fun c => decide (c ≠ m.src)) }
        ∧ t.cour = (s.nimTook k m).cour ∧ { t with mesh := s.mesh, cour := s.cour, nim := s.nim } = s)
  ∧ (∀ (s : State) (k : Nat) (m : CMsg), s.nimGets k 4 m →
      ∃ t, exec (.statusReq k) s = .next t ∧ (s.nimTook k m).nimSent t (s.coordOf (m.nSender % 16)) 5
        ∧ t.nim = { s.nim with exch := { s.nim.exch with active := true, coord := m.nSender } } ∧ { t with mesh := s.mesh, cour := s.cour, nim := s.nim } = s)
  ∧ (∀ (s : State) (k x : Nat) (m : CMsg), s.nimGets k 5 m → s.nim.exch.active = true → s.nim.exch.coord = s.ownIdx → x ∈ s.live → x ≠ m.nSender →
      (∀ e ∈ s.nim.exch.status, e.member ≠ x) →
      ∃ t, exec (.status k) s = .next t ∧ (⟨m.nSender, m.nArg, m.nEpoch, m.nStep⟩ : NimStatus) ∈ t.nim.exch.status
        ∧ (∀ e ∈ t.nim.exch.status, e.member = m.nSender → e = ⟨m.nSender, m.nArg, m.nEpoch, m.nStep⟩)
        ∧ t.cour = (s.nimTook k m).cour ∧ { t with mesh := s.mesh, cour := s.cour, nim := s.nim } = s)
  ∧ (∀ (s : State) (k : Nat) (m : CMsg), s.nimGets k 5 m → s.nim.exch.active = true → s.nim.exch.coord = s.ownIdx →
      (∀ x ∈ s.live, x = m.nSender ∨ ∃ e ∈ s.nim.exch.status, e.member = x) →
      ∃ t, exec (.status k) s = .next t ∧ t.cour.inbox.length = (s.nimTook k m).cour.inbox.length + s.live.length
        ∧ { t with mesh := s.mesh, cour := s.cour, nim := s.nim } = s)
  ∧ (∀ (s : State) (k i : Nat) (m : CMsg), s.nimGets k 3 m → s.isLive m.nSender = true → i = bits m.nArg 0 4 → s.isLive i = true → i ≠ s.ownIdx →
      ∃ t, exec (.lost k) s = .next t ∧ t.isLive i = false ∧ t.nim.exch.active = true ∧ i ∈ t.nim.exch.lost ∧ s.coordOf i ∉ t.nim.pings
        ∧ t.mem = s.mem ∧ t.chip = s.chip)
  ∧ (∀ (s : State) (k : Nat) (m : CMsg), s.nimGets k 0xD m → s.inGroup = true → s.ownIdx = s.coordinator →
      ∃ t, exec (.secureReq k) s = .next t ∧ t.nim = { s.nim with secReq := true } ∧ t.cour = (s.nimTook k m).cour
        ∧ { t with mesh := s.mesh, cour := s.cour, nim := s.nim } = s)
  ∧ (∀ (s : State) (k i : Nat) (m : CMsg), s.nimGets k 0x13 m → i = bits m.nArg 0 4 →
      ∃ t, exec (.adopted k) s = .next t ∧ t.member i F.NIM_MEMBER_LIVE = 1 ∧ t.member i F.NIM_MEMBER_TAG = bits m.nArg 4 4
        ∧ t.coordOf i = s.coordOf i ∧ s.regsKept t [nimBase + 0x200 + 4 * i] ∧ t.cour = (s.nimTook k m).cour
        ∧ { t with mesh := s.mesh, cour := s.cour, regs := s.regs } = s)
  ∧ (∀ (s : State) (c i : Nat), c ∈ s.nim.pings → s.nimEn = true → s.inGroup = true → s.memberAt c = some i → s.isLive i = true → i ≠ s.ownIdx →
      ∃ t, exec (.peerPingTimeout c) s = .next t ∧ c ∉ t.nim.pings ∧ t.isLive i = false ∧ t.nim.exch.active = true ∧ i ∈ t.nim.exch.lost
        ∧ t.mem = s.mem ∧ t.chip = s.chip)
  ∧ (∀ (s : State) (c i : Nat), s.memberAt c = some i → s.nimEn = true → s.nim.exch.active = true → s.nim.exch.coord = s.ownIdx →
      s.nim.exch.decision = none → (∀ e ∈ s.nim.exch.status, e.member ≠ i) → s.isLive i = true → i ≠ s.ownIdx →
      ∃ t, exec (.statusTimeout c) s = .next t ∧ t.isLive i = false ∧ i ∈ t.nim.exch.lost ∧ t.mem = s.mem ∧ t.chip = s.chip)
  ∧ (∀ (s : State) (x : Nat), s.nimEn = true → s.nim.exch.active = true → s.nim.exch.decision = none → s.nim.exch.coord ≠ s.ownIdx →
      (s.live.filter (fun m => decide (s.nim.exch.coord < m))).head? = some x → x ≠ s.ownIdx →
      exec .decideTimeout s = .next { s with nim := { s.nim with exch := { s.nim.exch with coord := x, status := [] } } })
  ∧ (∀ (s : State) (k : Nat) (m : CMsg), s.nimGets k 6 m → bits m.nArg 0 2 = 0 → s.nim.sec = none → s.nim.committed = some m.nStep → s.stepEnded m.nStep = false →
      ∃ t, exec (.decide k) s = .next t
        ∧ t.nim = { s.nim with path1 := some m.nStep, exch := { s.nim.exch with decision := some 0, active := false } }
        ∧ t.cour = (s.nimTook k m).cour ∧ { t with mesh := s.mesh, cour := s.cour, nim := s.nim } = s)
  ∧ (∀ (s : State) (k : Nat) (m : CMsg), s.nimGets k 6 m → bits m.nArg 0 2 = 1 → s.nim.sec = none → s.hubGood s.gStage (64 * s.gLines) →
      ∃ t, exec (.decide k) s = .next t ∧ t.nim.path1 = some m.nStep ∧ t.nim.goWait = true ∧ t.nim.exch.active = true ∧ t.nim.exch.decision = some 1
        ∧ (s.nimTook k m).nimSent t (s.coordOf s.nim.exch.coord) 7 ∧ t.hbmRd s.gStage (64 * s.gLines) = List.replicate (64 * s.gLines) 0
        ∧ (∀ a, (a < s.gStage ∨ s.gStage + 64 * s.gLines ≤ a) → Mem.rd t.mem.hbm a = Mem.rd s.mem.hbm a)
        ∧ { t.mem with hbm := s.mem.hbm } = s.mem ∧ t.chip = s.chip)
  ∧ (∀ (s : State) (k x : Nat) (m : CMsg), s.nimGets k 6 m → bits m.nArg 0 2 = 2 → s.nim.sec = none → s.nim.exch.now = [x] → s.errs.slot = none →
      s.isIn [.armed, .running, .draining, .securing] = true →
      ∃ t, exec (.decide k) s = .next t ∧ t.nim.exch.active = false ∧ t.nim.exch.decision = some 2 ∧ t.nim.exch.now = []
        ∧ t.errs.slot = some (s.faultId 3 (unitDev (s.coordOf x)) 0x91) ∧ t.mem = s.mem ∧ t.chip = s.chip)
  ∧ (∀ (s : State) (k : Nat) (m : CMsg), s.nimGets k 6 m → bits m.nArg 0 2 = 3 → s.nim.sec = none → s.errs.slot = none →
      s.isIn [.armed, .running, .draining, .securing] = true →
      ∃ t, exec (.decide k) s = .next t ∧ t.isF nimBase F.NIM_STAT_UNRECOV = true ∧ t.nim.exch.active = false
        ∧ t.errs.slot = some (s.faultId 3 (unitChip 9) 0x93) ∧ t.mem = s.mem ∧ t.chip = s.chip)
  ∧ (∀ (s : State) (k x : Nat) (m : CMsg), s.nimGets k 7 m → x ∈ s.live → x ≠ m.nSender → x ∉ s.nim.exch.zeroed →
      ∃ t, exec (.zeroed k) s = .next t ∧ m.nSender ∈ t.nim.exch.zeroed ∧ t.cour = (s.nimTook k m).cour
        ∧ { t with mesh := s.mesh, cour := s.cour, nim := s.nim } = s)
  ∧ (∀ (s : State) (k : Nat) (m : CMsg), s.nimGets k 7 m → s.nim.exch.coord = s.ownIdx → (∀ x ∈ s.live, x = m.nSender ∨ x ∈ s.nim.exch.zeroed) →
      ∃ t, exec (.zeroed k) s = .next t ∧ t.cour.inbox.length = (s.nimTook k m).cour.inbox.length + s.live.length
        ∧ { t with mesh := s.mesh, cour := s.cour, nim := s.nim } = s)
  ∧ (∀ (s : State) (k : Nat) (m : CMsg), s.nimGets k 8 m → (s.grad = 0 ∨ s.grad = 3) →
      ∃ t, exec (.go k) s = .next t ∧ t.nim = { s.nim with goWait := false, exch := { s.nim.exch with active := false } }
        ∧ t.cour = (s.nimTook k m).cour ∧ { t with mesh := s.mesh, cour := s.cour, nim := s.nim } = s)

/-- The gradient phase (R466, R467, R479): the ready counter starts a reduction over the live members; a member that rejoined commits its first step
without one; ADDED, PUSHED and READY are gathered, the last of each clears the own STAGE stripe, reports READY, or commits for the group; COMMIT
writes the AVG word and counts, and where the step ended before it under PATH1, NIM_PEER_LOST and P1DONE follow (R473). -/
def Obligations.NimbusGradient : Prop :=
  (∀ s : State, s.nimEn = true → s.isF nimBase F.NIM_GRAD_CTL_EN = true → planTraining s.img = true → s.isIn [.running, .draining, .securing] = true →
      (s.grad = 0 ∨ s.grad = 3) → 0 < s.job.j → s.nim.committed ≠ some s.curStep → s.nim.noReduce = false → s.inGroup = true →
      s.getF nimBase F.NIM_GRAD_CTL_READY_INC ≤ (s.readyCount + 2 ^ 32 - s.nim.gradBase) % 2 ^ 32 → s.nim.goWait = false →
      ∃ t, exec .reductionStart s = .next t ∧ t.grad = 1 ∧ t.nim.gradLive = s.live ∧ t.nim.gradStep = s.curStep ∧ t.nim.gradBase = s.readyCount
        ∧ t.chip = s.chip)
  ∧ (∀ s : State, s.nimEn = true → s.isF nimBase F.NIM_GRAD_CTL_EN = true → planTraining s.img = true → s.isIn [.running, .draining, .securing] = true →
      (s.grad = 0 ∨ s.grad = 3) → 0 < s.job.j → s.nim.committed ≠ some s.curStep → s.nim.noReduce = true →
      s.pathOpen 272 (s.getF nimBase F.NIM_GRAD_COMMIT_COMMIT_BLK) = true →
      ∃ t, exec .reductionStart s = .next t ∧ t.grad = 3 ∧ t.nim.committed = some s.curStep ∧ t.nim.noReduce = false
        ∧ t.net = s.net ++ [⟨272, s.getF nimBase F.NIM_GRAD_COMMIT_COMMIT_BLK, s.getF nimBase F.NIM_GRAD_COMMIT_COMMIT_BLK,
            .atomic 0 [] 0 (some (s.getF nimBase F.NIM_GRAD_COMMIT_COMMIT_CNT)) 0⟩]
        ∧ s.regsKept t [nimBase + 4] ∧ { t with mesh := s.mesh, regs := s.regs, nim := s.nim, net := s.net } = s)
  ∧ (∀ (s : State) (k : Nat) (m : CMsg), s.nimGets k 9 m → s.grad ≠ 1 →
      ∃ t, exec (.added k) s = .next t ∧ t.nim = { s.nim with added := s.nim.added ++ [(m.nStep, m.nSender)] }
        ∧ t.cour = (s.nimTook k m).cour ∧ { t with mesh := s.mesh, cour := s.cour, nim := s.nim } = s)
  ∧ (∀ (s : State) (k i a n : Nat) (m : CMsg), s.nimGets k 9 m → s.grad = 1 → s.gradPos = some i → 0x100 ∉ s.nim.told →
      (∀ x ∈ s.nim.gradLive, x = m.nSender ∨ (s.nim.gradStep, x) ∈ s.nim.added) → m.nStep = s.nim.gradStep →
      a = s.gStage + 64 * (stripeOf s.gLines s.nim.gradLive.length i).1 → n = 64 * (stripeOf s.gLines s.nim.gradLive.length i).2 → s.hubGood a n →
      s.hubGood (s.gResult + 64 * (stripeOf s.gLines s.nim.gradLive.length i).1) n →
      ∃ t, exec (.added k) s = .next t ∧ 0x100 ∈ t.nim.told ∧ t.hbmRd a n = List.replicate n 0 ∧ { t.mem with hbm := s.mem.hbm } = s.mem
        ∧ t.chip = s.chip)
  ∧ (∀ (s : State) (k : Nat) (m : CMsg), s.nimGets k 0xA m → s.grad ≠ 1 →
      ∃ t, exec (.pushed k) s = .next t ∧ t.nim = { s.nim with pushed := s.nim.pushed ++ [(m.nStep, bits m.nArg 0 4)] }
        ∧ t.cour = (s.nimTook k m).cour ∧ { t with mesh := s.mesh, cour := s.cour, nim := s.nim } = s)
  ∧ (∀ (s : State) (k : Nat) (m : CMsg), s.nimGets k 0xA m → s.grad = 1 → s.nim.gradLive ≠ [] → m.nStep = s.nim.gradStep →
      (∀ q < s.nim.gradLive.length, q = bits m.nArg 0 4 ∨ (s.nim.gradStep, q) ∈ s.nim.pushed) →
      ∃ t, exec (.pushed k) s = .next t ∧ t.grad = 2 ∧ (s.nimTook k m).nimSent t (s.coordOf s.coordinator) 0xB ∧ s.regsKept t [nimBase + 4]
        ∧ { t with mesh := s.mesh, cour := s.cour, nim := s.nim, regs := s.regs } = s)
  ∧ (∀ (s : State) (k : Nat) (m : CMsg), s.nimGets k 0xB m → s.ownIdx ≠ s.coordinator →
      ∃ t, exec (.ready k) s = .next t ∧ t.nim = { s.nim with ready := s.nim.ready ++ [(m.nStep, m.nSender)] }
        ∧ t.cour = (s.nimTook k m).cour ∧ { t with mesh := s.mesh, cour := s.cour, nim := s.nim } = s)
  ∧ (∀ (s : State) (k : Nat) (m : CMsg), s.nimGets k 0xB m → s.ownIdx = s.coordinator → (∀ x ∈ s.live, x = m.nSender ∨ (m.nStep, x) ∈ s.nim.ready) →
      ∃ t, exec (.ready k) s = .next t ∧ t.cour.inbox.length = (s.nimTook k m).cour.inbox.length + s.live.length ∧ t.nim.secReq = false
        ∧ (∀ e ∈ t.nim.ready, e.1 ≠ m.nStep) ∧ { t with mesh := s.mesh, cour := s.cour, nim := s.nim } = s)
  ∧ (∀ (s : State) (k : Nat) (m : CMsg), s.nimGets k 0xC m → s.gAvg % 64 ≤ 60 → s.lineGood (s.gAvg / 64 * 64) 272 true = true →
      s.hubFree (s.gAvg / 64 * 64) → s.collDue = none → s.pathOpen 272 (s.getF nimBase F.NIM_GRAD_COMMIT_COMMIT_BLK) = true → s.nim.path1 = none →
      ∃ t, exec (.commit k) s = .next t ∧ t.grad = 3 ∧ t.nim.committed = some m.nStep ∧ t.nim.gradStep = m.nStep
        ∧ t.hbmRd s.gAvg 4 = leBytes 4 (f32div (f32ofInt 1 0) (f32ofInt ((m.nArg % 32 : Nat) : Int) 0)).toNat
        ∧ (∀ a, (a < s.gAvg ∨ s.gAvg + 4 ≤ a) → Mem.rd t.mem.hbm a = Mem.rd s.mem.hbm a) ∧ { t.mem with hbm := s.mem.hbm } = s.mem
        ∧ t.net = s.net ++ [⟨272, s.getF nimBase F.NIM_GRAD_COMMIT_COMMIT_BLK, s.getF nimBase F.NIM_GRAD_COMMIT_COMMIT_BLK,
            .atomic 0 [] 0 (some (s.getF nimBase F.NIM_GRAD_COMMIT_COMMIT_CNT)) 0⟩]
        ∧ (m.nArg.testBit 5 = true → t.isF nimBase F.NIM_STAT_REQ = true ∧ t.nim.due = true ∧ t.nim.dueStep = some m.nStep
            ∧ t.nim.epochNext = some m.nEpoch)
        ∧ (m.nArg.testBit 5 = false → t.nim.due = s.nim.due ∧ t.nim.epochNext = s.nim.epochNext)
        ∧ t.cour = (s.nimTook k m).cour ∧ t.chip = s.chip)
  ∧ (∀ (s : State) (k x : Nat) (m : CMsg), s.nimGets k 0xC m → s.gAvg % 64 ≤ 60 → s.lineGood (s.gAvg / 64 * 64) 272 true = true →
      s.hubFree (s.gAvg / 64 * 64) → s.collDue = none → s.pathOpen 272 (s.getF nimBase F.NIM_GRAD_COMMIT_COMMIT_BLK) = true →
      s.nim.path1 = some m.nStep → s.stepEnded m.nStep = true → s.nim.exch.now = [x] → s.errs.slot = none →
      s.isIn [.armed, .running, .draining, .securing] = true →
      ∃ t, exec (.commit k) s = .next t ∧ t.grad = 3 ∧ t.isF nimBase F.NIM_STAT_P1DONE = true ∧ t.nim.path1 = none ∧ t.nim.p1step = m.nStep
        ∧ t.nim.exch.now = [] ∧ t.errs.slot = some (s.faultId 3 (unitDev (s.coordOf x)) 0x91) ∧ t.chip = s.chip)

/-- Securing (R461 to R465): a freeze that is due enters SECURING once Horizon's regions are awake, the copy ends when no older work holds a macro of the image, with the rows that had waited, and
returns to the state it came from, the
digests give the device root, parity and digests of peers are stored, and SECURED of every member, by EPOCH_DONE, makes the epoch the last secured
one. -/
def Obligations.NimbusSecuring : Prop :=
  (∀ s : State, s.nimEn = true → s.isSecuring = false →
      ((s.chip.st = .running ∧ s.nim.atEdge = true) ∨ (s.chip.st = .armed ∧ s.isF nimBase F.NIM_STAT_REQ = true)) → s.getF hznBase F.HZN_REST_OFF = 0 →
      s.power.settling = [] → s.power.plan = [] → s.power.restoring = [] →
      ((∀ k < 8, s.shard k F.NIM_SHARD_KIND_KIND ≠ 1) ∨ (s.flips.mac = [] ∧ s.flips.hard = [])) →
      ∃ t v, exec .freeze s = .next t ∧ t.chip.st = .securing ∧ t.chip.prev = s.chip.st ∧ t.nim.sec = some v ∧ v.epoch = s.nim.epochNext.getD (s.epoch + 1)
        ∧ v.frozen = true ∧ v.step = s.lastStep ∧ (s.power.ret = 0 → s.bist.slice = none → v.late = s.lateMacros) ∧ t.nim.fromSt = s.chip.st.code ∧ t.nim.due = false ∧ t.isF nimBase F.NIM_STAT_REQ = false
        ∧ t.epoch = s.epoch)
  ∧ (∀ s : State, s.nimEn = true → s.isSecuring = false → s.chip.st = .running → s.nim.atEdge = true → s.getF hznBase F.HZN_REST_OFF ≠ 0 →
      ∃ t, exec .freeze s = .next t ∧ t.getF hznBase F.HZN_REST_OFF = 0 ∧ s.regsKept t [hznBase + 0x28]
        ∧ { t with regs := s.regs, power := s.power } = s)
  ∧ (∀ (s : State) (v : Securing), s.nim.sec = some v → v.frozen = true → s.chip.st = .securing → v.late = [] →
      (s.inGroup = true → s.hubGood (s.nimBuf v.epoch) (s.nimC * mib)) →
      ∃ t, exec .freezeCopyComplete s = .next t ∧ t.chip.st = (if s.nim.fromSt = 4 then .running else .armed) ∧ t.chip.prev = .securing
        ∧ t.nim = { s.nim with sec := some { v with copied := true } } ∧ t.mem = s.mem)
  ∧ (∀ (s : State) (v : Securing), s.nim.sec = some v → (∃ e ∈ v.late, s.macroHeld e.1 e.2 = true) → exec .freezeCopyComplete s = .next s)
  ∧ (∀ (s : State) (v : Securing), s.nim.sec = some v → v.frozen = true → s.chip.st = .securing → (∀ e ∈ v.late, s.macroHeld e.1 e.2 = false) →
      s.flips.mac = [] → s.flips.hard = [] →
      ∃ t, exec .freezeCopyComplete s = .next t ∧ t.chip.st = (if s.nim.fromSt = 4 then .running else .armed)
        ∧ t.nim = { s.nim with sec := some { v with copied := true, late := [] } } ∧ { t.mem with hbm := s.mem.hbm } = s.mem)
  ∧ (∀ (s : State) (v : Securing), s.nim.sec = some v → v.copied = true → v.digests = false → s.hubGood (s.nimBuf v.epoch) (s.nimC * mib) →
      ∃ t, exec .digestsFormed s = .next t ∧ t.chip = s.chip
        ∧ (s.inGroup = false → t.nim.sec = none ∧ t.epoch = v.epoch % 2 ^ 32 ∧ t.nim.epochSlot = v.slot
            ∧ t.nim.root = merkle (s.shardRoots (chunkDigests s.nimC (s.hbmRd (s.nimBuf v.epoch) (s.nimC * mib)))))
        ∧ (s.inGroup = true → t.epoch = s.epoch ∧ ∃ x, t.nim.sec = some x ∧ x.digests = true
            ∧ x.root = merkle (s.shardRoots (chunkDigests s.nimC (s.hbmRd (s.nimBuf v.epoch) (s.nimC * mib))))))
  ∧ (∀ (s : State) (k st q i a : Nat) (m : CMsg) (v : Securing), s.nimGets k 0xE m → s.inGroup = true → m.nEpoch = s.epoch + 1 → s.nim.sec = some v →
      v.epoch = m.nEpoch → st = bits m.nArg 0 20 → i = bits m.nArg 20 9 → q = bits m.nArg 29 1 → s.ownIdx = (st + q) % s.grpN →
      st < stripes s.grpN s.nimC → a = s.nimBuf m.nEpoch + s.parOff + parityNo s.grpN s.ownIdx st * mib + 2048 * i → s.hubGood a 2048 →
      ∃ t, exec (.parity k) s = .next t ∧ t.hbmRd a 2048 = xorBytes (s.hbmRd a 2048) (padTo 2048 (m.data.drop 64))
        ∧ (∀ x, (x < a ∨ a + 2048 ≤ x) → Mem.rd t.mem.hbm x = Mem.rd s.mem.hbm x) ∧ { t.mem with hbm := s.mem.hbm } = s.mem
        ∧ (∃ x, t.nim.sec = some x ∧ SMap.get 0 x.parity (1024 * st + 2 * i + q) = SMap.get 0 v.parity (1024 * st + 2 * i + q) + 1) ∧ t.chip = s.chip)
  ∧ (∀ (s : State) (k d first n a : Nat) (m : CMsg) (v : Securing), s.nimGets k 0xF m → s.inGroup = true → m.nEpoch = s.epoch + 1 → s.nim.sec = some v →
      v.epoch = m.nEpoch → d = (s.ownIdx + s.grpN - m.nSender % 16) % s.grpN → (d = 1 ∨ d = 2) → first = bits m.nArg 0 14 → first < s.nimC →
      m.data.length = 64 + 64 * n → a = s.nimBuf m.nEpoch + s.digOff + 0x80000 * d + 32 * first → s.hubGood a (64 * n) →
      ∃ t, exec (.digests k) s = .next t ∧ t.hbmRd a (64 * n) = m.data.drop 64
        ∧ (∀ x, (x < a ∨ a + 64 * n ≤ x) → Mem.rd t.mem.hbm x = Mem.rd s.mem.hbm x) ∧ { t.mem with hbm := s.mem.hbm } = s.mem
        ∧ t.nim = s.nim ∧ t.cour = (s.nimTook k m).cour ∧ t.chip = s.chip)
  ∧ (∀ (s : State) (k x : Nat) (m : CMsg) (v : Securing), s.nimGets k 0x10 m → s.inGroup = true → s.ownIdx = s.coordinator → m.nEpoch = s.epoch + 1 →
      s.nim.sec = some v → v.epoch = m.nEpoch → x ∈ s.live → x ≠ m.nSender → (∀ g ∈ v.got, g.1 ≠ x) →
      ∃ t, exec (.secured k) s = .next t ∧ t.nim = { s.nim with sec := some { v with
            got := v.got.filter (fun g => decide (g.1 ≠ m.nSender)) ++ [(m.nSender, slice m.data 20 32)] } }
        ∧ t.cour = (s.nimTook k m).cour ∧ { t with mesh := s.mesh, cour := s.cour, nim := s.nim } = s)
  ∧ (∀ (s : State) (k : Nat) (m : CMsg) (v : Securing), s.nimGets k 0x10 m → s.inGroup = true → s.ownIdx = s.coordinator → m.nEpoch = s.epoch + 1 →
      s.nim.sec = some v → v.epoch = m.nEpoch → (∀ x ∈ s.live, x = m.nSender ∨ ∃ g ∈ v.got, g.1 = x) →
      ∃ t, exec (.secured k) s = .next t ∧ t.cour.inbox.length = (s.nimTook k m).cour.inbox.length + s.live.length
        ∧ { t with mesh := s.mesh, cour := s.cour, nim := s.nim } = s)
  ∧ (∀ (s : State) (k : Nat) (m : CMsg) (v : Securing), s.nimGets k 0x11 m → s.nim.sec = some v → v.epoch = m.nEpoch → v.frozen = true →
      ∃ t, exec (.epochDone k) s = .next t ∧ t.nim.sec = none ∧ t.epoch = v.epoch % 2 ^ 32 ∧ t.getF nimBase F.NIM_EPOCH_STEP_STEP = v.step % 2 ^ 32
        ∧ t.nim.root = v.root ∧ t.nim.epochSlot = v.slot ∧ t.nim.secCmd = [] ∧ t.nim.exch.lost = []
        ∧ t.getF nimBase F.NIM_COUNTS_SECURED = satCount 16 (s.getF nimBase F.NIM_COUNTS_SECURED) 1 ∧ t.chip = s.chip)

/-- Restoring and rebuilding (R474, R475, R477, R478; Table 15.8): a restore that may run ends in ARMED with the step base after the restored step, one
that may not ends in FAULTED; MEMBERS brings the member table to a device that rebuilds, and the rebuild ends likewise. -/
def Obligations.NimbusRestores : Prop :=
  (∀ (s : State) (cmd : Nat), s.nim.restore = some (cmd, 0xFFFFFFFE) → s.chip.st = .restoring → s.power.settling = [] →
      s.isF nimBase F.NIM_STAT_P1DONE = true →
      ∃ t, exec .restoreComplete s = .next t ∧ t.chip.st = .armed ∧ t.chip.jobEnded = s.chip.jobEnded ∧ t.job.stepBase = (s.nim.p1step + 1) % 2 ^ 32 ∧ t.job.j = 0
        ∧ t.sets = [] ∧ t.isF nimBase F.NIM_STAT_P1DONE = false ∧ t.nim.restore = none ∧ t.errs.slot = s.errs.slot ∧ t.mem.hbm = s.mem.hbm)
  ∧ (∀ (s : State) (cmd e : Nat), s.nim.restore = some (cmd, e) → s.chip.st = .restoring → s.power.settling = [] → e ≠ 0xFFFFFFFE →
      s.epoch ≠ 0 → (e = 0xFFFFFFFF ∨ e = s.epoch) → (s.digestsMatch s.epoch).1 = true →
      ∃ t, exec .restoreComplete s = .next t ∧ t.chip.st = .armed ∧ t.job.j = 0 ∧ t.sets = [] ∧ t.nim.restore = none
        ∧ t.errs.slot = s.errs.slot ∧ t.isF nimBase F.NIM_STAT_P1DONE = false)
  ∧ (∀ (s : State) (cmd e : Nat), s.nim.restore = some (cmd, e) → s.chip.st = .restoring → s.power.settling = [] →
      ((e = 0xFFFFFFFE ∧ s.isF nimBase F.NIM_STAT_P1DONE = false) ∨ (e ≠ 0xFFFFFFFE ∧ (s.epoch = 0 ∨ (e ≠ 0xFFFFFFFF ∧ e ≠ s.epoch)))) →
      ∃ t, exec .restoreComplete s = .next t ∧ t.chip.st = .faulted ∧ t.chip.prev = .restoring ∧ t.nim.restore = none
        ∧ t.errs.pin = (if s.errs.slot.isSome then s.errs.pin else some (s.faultId 3 (unitChip 9) 0x94, 1)) ∧ t.mem = s.mem)
  ∧ (∀ (s : State) (k own : Nat) (m : CMsg) (r : Rebuild), s.nimGets k 0x12 m → s.nim.rebuild = some r → r.table = false → r.err = 0 →
      (List.range 16).find? (fun (i : Nat) =>
        (leAt m.data (64 + 4 * i) 4).testBit 17 && decide (leAt m.data (64 + 4 * i) 4 % 4096 = r.coord)) = some own → s.rebuildCheck r m own = 0 →
      ∃ t x, exec (.members k) s = .next t ∧ t.nim.rebuild = some x ∧ x.table = true ∧ x.member = own ∧ x.epoch = m.nEpoch ∧ x.eStep = m.nStep
        ∧ (∀ i < 16, t.reg (nimBase + 0x200 + 4 * i) = BitVec.ofNat 32 (bits (leAt m.data (64 + 4 * i) 4) 0 18))
        ∧ t.inGroup = true ∧ t.ownIdx = own ∧ t.getF nimBase F.NIM_GROUP_GROUP_ID = r.group % 2 ^ 16
        ∧ t.getF nimBase F.NIM_GROUP_SHARED_FEED = bits m.nArg 0 1 ∧ t.mem = s.mem ∧ t.chip = s.chip)
  ∧ (∀ (s : State) (k own : Nat) (m : CMsg) (r : Rebuild), s.nimGets k 0x12 m → s.nim.rebuild = some r → r.table = false → r.err = 0 →
      (List.range 16).find? (fun (i : Nat) =>
        (leAt m.data (64 + 4 * i) 4).testBit 17 && decide (leAt m.data (64 + 4 * i) 4 % 4096 = r.coord)) = some own → s.rebuildCheck r m own ≠ 0 →
      ∃ t, exec (.members k) s = .next t ∧ t.nim = { s.nim with rebuild := some { r with err := s.rebuildCheck r m own } }
        ∧ t.cour = (s.nimTook k m).cour ∧ { t with mesh := s.mesh, cour := s.cour, nim := s.nim } = s)
  ∧ (∀ (s : State) (k : Nat) (m : CMsg) (r : Rebuild), s.nimGets k 0x12 m → s.nim.rebuild = some r → r.table = false → r.err = 0 →
      (List.range 16).find? (fun (i : Nat) =>
        (leAt m.data (64 + 4 * i) 4).testBit 17 && decide (leAt m.data (64 + 4 * i) 4 % 4096 = r.coord)) = none →
      ∃ t, exec (.members k) s = .next t ∧ t.nim = { s.nim with rebuild := some { r with err := 0x0605 } }
        ∧ t.cour = (s.nimTook k m).cour ∧ { t with mesh := s.mesh, cour := s.cour, nim := s.nim } = s)
  ∧ (∀ (s : State) (k : Nat), s.ownMsg k 7 = none → s.nimEn = true → s.inGroup = true → s.nim.rebuild = none →
      ∃ t, exec (.members k) s = .next t ∧ s.nimSent t (k % 4096) 0x12 ∧ { t with mesh := s.mesh, cour := s.cour } = s)
  ∧ (∀ (s : State) (r : Rebuild), s.nim.rebuild = some r → (r.err ≠ 0 ∨ r.table = false) → s.chip.st = .restoring → s.power.settling = [] →
      ∃ t, exec .rebuildComplete s = .next t ∧ t.chip.st = .faulted ∧ t.chip.prev = .restoring ∧ t.nim.rebuild = none
        ∧ t.errs.pin = (if s.errs.slot.isSome then s.errs.pin else some (s.faultId 3 (unitChip 9) 0x94, 1)) ∧ t.mem = s.mem)
  ∧ (∀ (s : State) (r : Rebuild), s.nim.rebuild = some r → r.err = 0 → s.chip.st = .restoring → s.power.settling = [] → r.table = true → r.wait = 0 →
      (chunkDigests s.nimC (s.rebuiltImage r)).flatten = s.rebuiltDigests r →
      s.rootDiffers r (merkle (s.shardRoots (chunkDigests s.nimC (s.rebuiltImage r)))) = false →
      ∃ t, exec .rebuildComplete s = .next t ∧ t.chip.st = .armed ∧ t.job.stepBase = (r.eStep + 1) % 2 ^ 32 ∧ t.job.j = 0 ∧ t.epoch = r.epoch % 2 ^ 32
        ∧ t.nim.rebuild = none ∧ t.nim.noReduce = r.path1 ∧ t.nim.root = merkle (s.shardRoots (chunkDigests s.nimC (s.rebuiltImage r))))

/-- Errors (R443 to R446, R448, R450, R451; Table 1.12): at a block a free slot takes the error, the same ID merges, another escalates to the region,
which fences the block; the service frees every slot. At the chip, in a job, the first takes Casec's slot, the same ID merges there, and another ends
the job in FAULTED with every context stopped; outside a job it is only recorded. -/
def Obligations.ErrorsAtEveryLevel : Prop :=
  (∀ (s : State) (b fid c n : Nat), b < 256 → s.isF (blkBase b) F.BLK_FAULT_STAT_VALID = false → c < 32 → n < 65536 →
      (s.raiseBlockId b fid c n).getF (blkBase b) F.BLK_FAULT_CLASS = bits fid 16 8
        ∧ (s.raiseBlockId b fid c n).getF (blkBase b) F.BLK_FAULT_CTX = c ∧ (s.raiseBlockId b fid c n).getF (blkBase b) F.BLK_FAULT_OP_INDEX = n
        ∧ (s.raiseBlockId b fid c n).isF (blkBase b) F.BLK_FAULT_STAT_VALID = true ∧ ((s.raiseBlockId b fid c n).bx b).eslot = some (fid, 1)
        ∧ (s.raiseBlockId b fid c n).chip = s.chip ∧ (s.raiseBlockId b fid c n).mem = s.mem)
  ∧ (∀ (s : State) (b fid c n k : Nat), s.isF (blkBase b) F.BLK_FAULT_STAT_VALID = true → (s.bx b).eslot = some (fid, k) →
      ((s.raiseBlockId b fid c n).bx b).eslot = some (fid, k + 1) ∧ { s.raiseBlockId b fid c n with blocks := s.blocks } = s)
  ∧ (∀ (s : State) (b fid f c n k : Nat), b < 256 → s.isF (blkBase b) F.BLK_FAULT_STAT_VALID = true → (s.bx b).eslot = some (f, k) → f ≠ fid →
      s.isF (rgnBase (b / 16)) F.RGN_ERR_STAT_VALID = false → fid < 2 ^ 64 →
      (s.raiseBlockId b fid c n).isF (blkBase b) F.BLK_FAULT_STAT_ESCALATED = true
        ∧ (s.raiseBlockId b fid c n).getF (rgnBase (b / 16)) F.RGN_ERR_REC_LO_ID
            + 2 ^ 32 * (s.raiseBlockId b fid c n).getF (rgnBase (b / 16)) F.RGN_ERR_REC_HI_ID = fid
        ∧ (s.raiseBlockId b fid c n).isF (rgnBase (b / 16)) F.RGN_ERR_STAT_VALID = true ∧ (s.raiseBlockId b fid c n).fenced b = true
        ∧ (∀ x < 32, (s.getF (blkBase b) F.BLK_SEQ_CTL_CTX_EN).testBit x = true → ((s.raiseBlockId b fid c n).ctx b x).st = .faulted)
        ∧ (s.raiseBlockId b fid c n).chip = s.chip)
  ∧ (∀ s : State, s.isIn [.off, .sleep] = false →
      ∃ t, exec .faultSlotService s = .next t ∧ (∀ b < 256, t.isF (blkBase b) F.BLK_FAULT_STAT_VALID = false)
        ∧ (∀ b < 256, s.isF (blkBase b) F.BLK_FAULT_STAT_VALID = true → (t.bx b).eslot = none)
        ∧ (∀ r < 16, t.isF (rgnBase r) F.RGN_ERR_STAT_VALID = false ∧ (t.rx r).reports = [])
        ∧ { t with regs := s.regs, blocks := s.blocks, regions := s.regions, errs := s.errs, pml := s.pml, mail := s.mail } = s)
  ∧ (∀ (s : State) (fid : Nat), s.isIn [.armed, .running, .draining, .securing, .restoring] = true → s.errs.slot = none →
      (s.raiseChip fid).errs.slot = some fid ∧ (s.raiseChip fid).errs.pin = some (fid, 1) ∧ (s.raiseChip fid).chip = s.chip
        ∧ (s.raiseChip fid).blocks = s.blocks ∧ (s.raiseChip fid).mem = s.mem)
  ∧ (∀ (s : State) (fid n : Nat), s.isIn [.armed, .running, .draining, .securing, .restoring] = true → s.errs.slot = some fid →
      s.errs.pin = some (fid, n) → (s.raiseChip fid).errs.pin = some (fid, n + 1) ∧ (s.raiseChip fid).chip = s.chip)
  ∧ (∀ (s : State) (fid f : Nat), s.isIn [.armed, .running, .draining, .securing, .restoring] = true → s.errs.slot = some f → f ≠ fid →
      (s.raiseChip fid).chip.st = .faulted ∧ (s.raiseChip fid).chip.jobEnded = true ∧ (s.raiseChip fid).chip.prev = s.chip.st
        ∧ (s.raiseChip fid).errs.slot = none ∧ (s.raiseChip fid).errs.pin = s.errs.pin ∧ (s.raiseChip fid).sets = []
        ∧ (∀ b, ((s.raiseChip fid).bx b).issues = [])
        ∧ (∀ b c, ((s.raiseChip fid).ctx b c).st ∈ [CtxSt.off, CtxSt.faulted, CtxSt.done]) ∧ (s.raiseChip fid).mem = s.mem)
  ∧ (∀ (s : State) (fid : Nat), s.isIn [.armed, .running, .draining, .securing, .restoring] = false →
      (s.raiseChip fid).errs.slot = s.errs.slot ∧ (s.raiseChip fid).errs.pin = s.errs.pin ∧ (s.raiseChip fid).chip = s.chip
        ∧ (s.raiseChip fid).blocks = s.blocks)

/-- An operation of any kind that a context takes (R113, R114, R119 to R124): the checks come in the order of Table 4.4; one that passes them issues on
its scoreboard entry and the context moves on, one that meets a wait reason waits with it, a sparse one first stages its tile's header, one that has
nothing to do retires at once, and one that fails a check faults its context and issues nothing. While the governor holds the block, none issues or
retires at once (R26, R27). -/
def Obligations.OperationsIssueWaitAndFault : Prop :=
  (∀ (s : State) (b c k : Nat) (cmd : Nat → Nat → Instr) (i : Issue) (rs : ResultSet), (k, cmd) ∈ opRowsOfTable → s.opNext b c k → s.opReady b c rs →
      s.verdict b c = .go i → s.chosen b (s.pointOf b c) = some c →
      ∃ u : State, exec (cmd b c) s = .next ((u.settleBlk b).ctxTidy b c)
        ∧ (u.bx b).issues = (s.bx b).issues ++ [i] ∧ (u.bx b).nextId = (s.bx b).nextId + 1
        ∧ (u.bx b).last = setAt (s.bx b).last (s.pointOf b c) c
        ∧ u.ctx b c = { ctxAdvance s.img b c rs (s.ctx b c) with st := .ready, reason := 0, stalled := [] }
        ∧ i.id = (s.bx b).nextId ∧ i.ctx = c ∧ i.word = ctxOp s.img b c (s.ctx b c).opn ∧ i.j = rs.j ∧ i.slot = rs.slot ∧ i.rows = opRows i.word
        ∧ i.rowsDone = 0 ∧ i.done = false ∧ i.faulted = false ∧ i.need = [] ∧ i.claims = s.claimsOf b i
        ∧ s.othersKept u b ∧ { u with blocks := s.blocks, regs := s.regs } = s)
  ∧ (∀ (s : State) (b c k r : Nat) (cmd : Nat → Nat → Instr), (k, cmd) ∈ opRowsOfTable → s.opNext b c k → s.verdict b c = .wait r →
      ∃ t l, exec (cmd b c) s = .next t ∧ t.ctx b c = { s.ctx b c with st := .wait, reason := r, stalled := l } ∧ (r ≠ 6 → l = (s.ctx b c).stalled) ∧ (t.bx b).issues = (s.bx b).issues
        ∧ (r ≠ 6 → t.regs = s.regs) ∧ s.othersKept t b ∧ { t with blocks := s.blocks, regs := s.regs } = s)
  ∧ (∀ (s : State) (b c k : Nat) (cmd : Nat → Nat → Instr) (i : Issue), (k, cmd) ∈ opRowsOfTable → s.opNext b c k → s.verdict b c = .probe i →
      ∃ u : State, exec (cmd b c) s = .next (u.settleBlk b) ∧ (u.bx b).probes = (s.bx b).probes ++ [i] ∧ (u.bx b).issues = (s.bx b).issues
        ∧ u.ctx b c = { s.ctx b c with st := .wait, reason := 7 } ∧ s.othersKept u b ∧ { u with blocks := s.blocks } = s)
  ∧ (∀ (s : State) (b c k : Nat) (cmd : Nat → Nat → Instr) (rs : ResultSet), (k, cmd) ∈ opRowsOfTable → s.opNext b c k → s.opReady b c rs →
      s.verdict b c = .retire →
      ∃ u : State, exec (cmd b c) s = .next ((u.ctxTidy b c).afterRetire)
        ∧ u = s.setCtx b c { ctxAdvance s.img b c rs (s.ctx b c) with st := .ready, reason := 0, stalled := [] })
  ∧ (∀ (s : State) (b c k cls cause sl : Nat) (cmd : Nat → Nat → Instr), (k, cmd) ∈ opRowsOfTable → s.opNext b c k →
      s.verdict b c = .fault cls cause sl →
      cls ≠ 0x17 → s.chosen b (s.pointOf b c) = some c → s.isF (blkBase b) F.BLK_FAULT_STAT_VALID = false →
      ∃ t, exec (cmd b c) s = .next t ∧ (t.ctx b c).st = .faulted ∧ (t.ctx b c).faultClass = cls ∧ t.getF (blkBase b) F.BLK_FAULT_CLASS = cls
        ∧ t.getF (blkBase b) F.BLK_FAULT_CTX = c ∧ (t.bx b).issues = (s.bx b).issues ∧ s.othersKept t b ∧ t.mem = s.mem ∧ t.net = s.net
        ∧ t.chip = s.chip)
  ∧ (∀ (s : State) (b c k cause sl : Nat) (cmd : Nat → Nat → Instr) (rs : ResultSet) (e : SlotRec), (k, cmd) ∈ opRowsOfTable → s.opNext b c k →
      s.verdict b c = .fault 0x17 cause sl → s.chosen b (s.pointOf b c) = some c → s.isF (blkBase b) F.BLK_FAULT_STAT_VALID = false →
      s.setOf ((s.ctx b c).taken - 1) = some rs → s.slotRec rs.slot = some e → e.status = 1 → (∀ x ∈ s.mail.taken, x.op ≠ 0x0702) →
      ∃ t, exec (cmd b c) s = .next t ∧ (t.ctx b c).st = .faulted ∧ (t.ctx b c).faultClass = 0x17 ∧ t.getF (blkBase b) F.BLK_FAULT_CLASS = 0x17
        ∧ t.slotRec rs.slot = some { e with status := 0x0412 } ∧ (t.bx b).issues = (s.bx b).issues ∧ t.mem = s.mem ∧ t.chip = s.chip)
  ∧ (∀ (s : State) (b c : Nat) (rs : ResultSet) (w : Nat), w = ctxOp s.img b c (s.ctx b c).opn → s.opReady b c rs → opKind w ≠ 0x24 →
      (s.checkCfg b w = false → s.verdict b c = .fault 0x14 0 0)
        ∧ (s.checkCfg b w = true → s.checkTile b w = false → s.verdict b c = .fault 0x11 0 0)
        ∧ (s.checkCfg b w = true → s.checkTile b w = true → s.checkAcc b w = false → s.verdict b c = .fault 0x12 0 0))
  ∧ (∀ (s : State) (b c : Nat) (rs : ResultSet) (w : Nat), w = ctxOp s.img b c (s.ctx b c).opn → s.opReady b c rs → opKind w = 0x24 → s.governed b = false →
      (s.verdict b c = .retire ↔
        (s.getF (blkBase b) (F.SPD_ATOM_CNT_COUNT.idx (4 * cpCnt w)) + 2 ^ 32 - cpTarget w) % 2 ^ 32 < 2 ^ 31)
        ∧ (s.verdict b c ≠ .retire → s.verdict b c = .wait 7))
  ∧ (∀ (s : State) (b c : Nat) (i : Issue), s.governed b = true → s.verdict b c ≠ .go i ∧ s.verdict b c ≠ .retire)

/-- An operation that runs as a whole runs once it has every line of its inputs (R58, R59, R136, R161, R165, R233, R594): it ends done, and leaves
other blocks, HBM, accumulators and the rows of other macros as they were; what it stores in its own scratchpad has a bank. A resident write or merge writes the bytes in bounds of each row it names and no other (R58, R59, R189); an expansion writes every row of
its macro from the tile (R233), and is skipped where the macro holds that tile already (R237); a full line of a copy into the block's own
scratchpad takes its bytes (R161); work on macro rows waits while steps, readbacks or correction reads are due on the row ports (R117); an ATOMIC sends one request for each line of its source, whose last message counts (R165; how a line of the source that spans several destination lines is
sent is log entry 86, and that an operation such as UPDATE runs whole is log entry 66). -/
def Obligations.StagedOperationsRun : Prop :=
  (∀ (s : State) (b line : Nat) (i : Issue), s.lone b i → s.answerFor b i.id line = none → s.flips.mac = [] → s.flips.hard = [] → s.flips.spd = [] → s.banksAll b i →
      opKind i.word ∈ [0x03, 0x04, 0x05, 0x06, 0x07, 0x12, 0x13, 0x20, 0x21, 0x22, 0x23] → s.tileGood b i →
      opOnRows i.word = false ∨ s.portsTaken b = false →
      ∃ (t : State) (x : Issue), exec (.readData b i.id line) s = .next t ∧ (t.bx b).issues = [x] ∧ x.id = i.id ∧ x.word = i.word ∧ x.done = true
        ∧ x.faulted = false ∧ x.resv = 0 ∧ s.othersKept t b
        ∧ (∀ m r, r < 512 → m / 16 ≠ b ∨ (opMacros i.word).testBit (m % 16) = false → t.rowRaw m r = s.rowRaw m r)
        ∧ (opKind i.word = 0x05 → ∀ m ∈ maskMacros (opMacros i.word), ∀ r < 512, t.rowDirty (16 * b + m) r = true)
        ∧ (opKind i.word ∉ [0x03, 0x04, 0x05, 0x12] → t.mem.rows = s.mem.rows)
        ∧ (∀ a, a / 0x80000 ≠ b → Mem.rd t.mem.spd a = Mem.rd s.mem.spd a)
        ∧ t.mem.hbm = s.mem.hbm ∧ t.mem.acc = s.mem.acc ∧ t.mem.wshadow = s.mem.wshadow ∧ t.mem.cirrus = s.mem.cirrus
        ∧ { t with blocks := s.blocks, regs := s.regs, mem := s.mem, flips := s.flips, macros := s.macros, mesh := s.mesh, net := s.net, job := s.job, free := s.free } = s)
  ∧ (∀ (s : State) (b line : Nat) (i : Issue), s.lone b i → s.answerFor b i.id line = none → s.flips.mac = [] → s.flips.hard = [] →
      opKind i.word = 0x03 ∨ opKind i.word = 0x04 → i.rows ≤ 512 → s.portsTaken b = false →
      ∃ t, exec (.readData b i.id line) s = .next t
        ∧ (∀ r j m x, r < i.rows → (maskMacros (opMacros i.word))[j]? = some m → x < 128 →
            (t.rowRaw (16 * b + m) (s.resRow b i r)).getD x 0 = (if ((s.resBytes b i r j).getD x (0, false)).2 then ((s.resBytes b i r j).getD x (0, false)).1
              else (s.rowRaw (16 * b + m) (s.resRow b i r)).getD x 0))
        ∧ (∀ m q, q < 512 → (∀ r < i.rows, s.resRow b i r ≠ q) → t.rowRaw m q = s.rowRaw m q))
  ∧ (∀ (s : State) (b line m : Nat) (i : Issue), s.lone b i → s.answerFor b i.id line = none → s.flips.mac = [] → s.flips.hard = [] → opKind i.word = 0x12 →
      s.tileGood b i → m = sparseMacro i.word → m < 16 → s.portsTaken b = false →
      (s.sparseTile b i 4 = [] ∨ SMap.get none (s.bx b).tags m ≠ s.tagOf b i →
        ∃ t, exec (.readData b i.id line) s = .next t ∧ SMap.get none (t.bx b).tags m = s.tagOf b i
          ∧ ∀ k < 512, ∀ n < precN (opPrec s.img b i.word), rowCode (opPrec s.img b i.word) (t.rowRaw (16 * b + m) k) n =
              (((tileEntries (s.sparseTile b i 4)).find? (fun e => decide (e.1 = n) && decide (e.2.1 = k))).map (fun e => e.2.2)).getD 0
                % 2 ^ precBits (opPrec s.img b i.word))
        ∧ (s.sparseTile b i 4 ≠ [] → SMap.get none (s.bx b).tags m = s.tagOf b i →
          ∃ t, exec (.readData b i.id line) s = .next t ∧ t.mem.rows = s.mem.rows))
  ∧ (∀ (s : State) (b line : Nat) (i : Issue), s.lone b i → s.answerFor b i.id line = none → opOnRows i.word = true → s.portsTaken b = true →
      ∃ (t : State) (x : Issue), exec (.readData b i.id line) s = .next t ∧ (t.bx b).issues = [x] ∧ x.id = i.id ∧ x.done = false ∧ t.mem.rows = s.mem.rows
        ∧ t.flips.mac = s.flips.mac)
  ∧ (∀ (s : State) (b line l : Nat) (i : Issue) (d : Desc), s.lone b i → s.answerFor b i.id line = none → opKind i.word ∈ [0x20, 0x21, 0x22] →
      s.binding b (opDesc i.word 1) = none → d = cpDesc i.word (s.iDesc b i 1) → s.flips.spd = [] →
      isSpd l = true → spdBlk l = b →
      spdOff l < 0x60000 → s.retHeld b (spdOff l) = false → l ∈ (s.copyCells b i d).map (fun c => lineOf c.1) →
      fullLine (runData (s.copyCells b i d) l 1) = true →
      ∃ t, exec (.readData b i.id line) s = .next t ∧ ∀ x ∈ runData (s.copyCells b i d) l 1, Mem.rd t.mem.spd (l + x.1) = x.2.1)
  ∧ (∀ (s : State) (b line : Nat) (i : Issue), s.lone b i → s.answerFor b i.id line = none → opKind i.word = 0x23 → i.uses = [] →
      (∀ es ∈ s.atomGroups b i, ∀ e ∈ es, ∀ c ∈ elemWrite s.img s.ownCoord b (s.iDesc b i 1) e.1 e.2,
        isSpd (lineOf c.1) = true ∧ s.pathOpen b (spdBlk (lineOf c.1)) = true) →
      ∃ t, exec (.readData b i.id line) s = .next t ∧ t.net = s.net ++ (s.atomGroups b i).flatMap (s.atomMsgs b i) ∧ t.mem = s.mem ∧ t.regs = s.regs)
  ∧ (∀ (s : State) (b line l : Nat) (i : Issue) (d : Desc) (v : F32 × F32) (cs : List Cell), s.lone b i → s.answerFor b i.id line = none →
      opKind i.word = 0x07 → i.rows = 1 → i.uses = [] → d = s.iDesc b i 1 →
      s.binding b (opDesc i.word 1) = none → v = rowFinish (opRfMode i.word) (s.finStat b i 0) (s.epsOf b (s.iDesc b i 0) i.staged) →
      cs = s.recCells b d (posAdd (i.at 1) d.rowdim 0) (leBytes 4 v.1.toNat ++ leBytes 4 v.2.toNat) →
      dedup (cs.map (fun c => lineOf c.1)) = [l] → isSpd l = true → spdBlk l = b → spdOff l < 0x60000 →
      s.retHeld b (spdOff l) = false → fullLine (runData cs l 1) = false →
      ∃ t, exec (.readData b i.id line) s = .next t ∧ (t.bx b).gather = [⟨spdOff l, runData cs l 1, none, i.id⟩] ∧ t.mem = s.mem)

/-- The planes of a row, applied one by one, make the dot product of its inputs with the weights (R43, R45, R46, R56), and planes without a 1 bit can be
left out (R49): where no addition saturates, the entry grows by the exact sum of input times weight. -/
def Obligations.PlanesMakeTheDotProduct : Prop :=
  (∀ (prec a n : Nat) (acc24 signed : Bool) (init : Int) (rows : List (List Byte)) (xs : List Int), 1 ≤ a →
      (∀ x ∈ xs, if signed then -(2 ^ (a - 1) : Int) ≤ x ∧ x < 2 ^ (a - 1) else 0 ≤ x ∧ x < 2 ^ a) →
      (applyPlanes acc24 signed a init ((List.range a).map (fun p => (p, fwdPartial prec rows (planeOf a p xs) n)))).2 = 0 →
      (applyPlanes acc24 signed a init ((List.range a).map (fun p => (p, fwdPartial prec rows (planeOf a p xs) n)))).1
        = init + (List.zipWith (fun (x : Int) row => x * rowWeight prec row n) xs rows).sum)
  ∧ (∀ (prec a : Nat) (acc24 signed : Bool) (init : Int) (row : List Byte) (xs : List Int), 1 ≤ a →
      (∀ x ∈ xs, if signed then -(2 ^ (a - 1) : Int) ≤ x ∧ x < 2 ^ (a - 1) else 0 ≤ x ∧ x < 2 ^ a) →
      (applyPlanes acc24 signed a init ((List.range a).map (fun p => (p, trnPartial prec row (planeOf a p xs))))).2 = 0 →
      (applyPlanes acc24 signed a init ((List.range a).map (fun p => (p, trnPartial prec row (planeOf a p xs))))).1
        = init + (List.zipWith (fun (x : Int) n => x * rowWeight prec row n) xs (List.range xs.length)).sum)
  ∧ (∀ (prec a n : Nat) (acc24 signed : Bool) (init : Int) (rows : List (List Byte)) (xs : List Int), accMin acc24 ≤ init → init ≤ accMax acc24 →
      applyPlanes acc24 signed a init (((List.range a).filter (fun p => (planeOf a p xs).any id)).map (fun p => (p, fwdPartial prec rows (planeOf a p xs) n)))
        = applyPlanes acc24 signed a init ((List.range a).map (fun p => (p, fwdPartial prec rows (planeOf a p xs) n))))

/-- Tile rows and corrections (R46, R49, R52, R53, R56, R86, R121, R125 to R128): a row applies its planes to the entries of each macro of the mask and to
no other entry, its escapes enter the correction path, a correction read adds the products of the oldest escape, or of a whole row in transposed mode;
a row that may not issue yet, for the governor, older work due on the row ports or a scale record that has not come (R26, R97, R117), changes nothing;
one that the ramp holds only notes that (R27). -/
def Obligations.TileRowsAndCorrections : Prop :=
  (∀ (s : State) (b id cyc prec w : Nat) (i : Issue) (codes : List Nat) (trn : Bool), s.issueOf b id = some i → w = i.word → prec = opPrec s.img b w →
      codes = s.inCodes b i i.rowsDone → s.compOn b = true → onPorts i trn = true → i.faulted = false → i.done = false →
      i.rowsDone < i.rows → i.rows ≤ opRows w → s.rowStaged b i i.rowsDone = true → s.scalesIn b i = true →
      s.govHeld b cyc = false →
      s.planeBefore b cyc = true → s.portsFree b (opMacros w) id = true →
      (s.rowLive b i i.rowsDone = true → s.rampFull b cyc = false) →
      (s.escapesOf b i i.rowsDone codes).2 = false → s.checkAcc b w = true →
      ∃ (u : State) (x : Issue), exec (if trn then .transposedRow b id cyc else .forwardRow b id cyc) s = .next (u.chainEnd b id)
        ∧ u.issueOf b id = some x ∧ x.rowsDone = i.rowsDone + 1
        ∧ x.corrPend = i.corrPend ++ (s.escapesOf b i i.rowsDone codes).1.map (fun e => (i.rowsDone, e.1, (escQ e.2 (opEscFrac w)).1))
        ∧ (∀ m ∈ maskMacros (opMacros w), ∀ n < accOuts w prec, u.accRd w prec (16 * b + m) i.rowsDone n =
            (applyPlanes (opAcc24 w) (inputSigned (s.iDesc b i 0).fmt (opZp w)) (fmtPlanes (s.iDesc b i 0).fmt)
              (if opInit w then 0 else s.accRd w prec (16 * b + m) i.rowsDone n)
              (((List.range (fmtPlanes (s.iDesc b i 0).fmt)).filter (fun p => (maskMacros (opMacros w)).any (fun q =>
                (planeOf (fmtPlanes (s.iDesc b i 0).fmt) p (macInputs w (precN prec) (s.iDesc b i 0).fmt codes q)).any id))).map (fun p => (p,
                  if opTrans w then trnPartial prec (((List.range 512).map (s.rowRaw (16 * b + m))).getD n [])
                      (planeOf (fmtPlanes (s.iDesc b i 0).fmt) p (macInputs w (precN prec) (s.iDesc b i 0).fmt codes m))
                    else fwdPartial prec ((List.range 512).map (s.rowRaw (16 * b + m)))
                      (planeOf (fmtPlanes (s.iDesc b i 0).fmt) p (macInputs w (precN prec) (s.iDesc b i 0).fmt codes m)) n)))).1)
        ∧ (∀ a, (∀ m ∈ maskMacros (opMacros w), ∀ n < accOuts w prec, a < accAddr w prec (16 * b + m) i.rowsDone n
              ∨ accAddr w prec (16 * b + m) i.rowsDone n + accWidth w ≤ a) → Mem.rd u.mem.acc a = Mem.rd s.mem.acc a)
        ∧ u.mem.rows = s.mem.rows ∧ u.mem.spd = s.mem.spd ∧ u.mem.hbm = s.mem.hbm
        ∧ s.othersKept u b ∧ { u with blocks := s.blocks, regs := s.regs, regions := s.regions, job := s.job, hzn := s.hzn, mem := s.mem } = s)
  ∧ (∀ (s : State) (b id cyc : Nat) (i : Issue) (trn : Bool), s.issueOf b id = some i →
      onPorts i trn = false ∨ i.faulted = true ∨ i.done = true ∨ i.rows ≤ i.rowsDone ∨ s.rowStaged b i i.rowsDone = false
        ∨ s.scalesIn b i = false ∨ s.govHeld b cyc = true ∨ s.portsFree b (opMacros i.word) id = false →
      exec (if trn then .transposedRow b id cyc else .forwardRow b id cyc) s = .next s)
  ∧ (∀ (s : State) (b id cyc : Nat) (i : Issue) (trn : Bool), s.issueOf b id = some i →
      s.rowLive b i i.rowsDone = true → s.rampFull b cyc = true →
      ∃ t, exec (if trn then .transposedRow b id cyc else .forwardRow b id cyc) s = .next t ∧ t.issueOf b id = some i ∧ t.mem = s.mem
        ∧ s.othersKept t b ∧ { t with blocks := s.blocks, regs := s.regs } = s)
  ∧ (∀ (s : State) (b id r e : Nat) (q : Int) (i : Issue) (rest : List (Nat × Nat × Int)), s.issueOf b id = some i → s.compOn b = true →
      i.faulted = false → i.path ≠ 1 → s.portsDue b = false → s.maskRestores b (opMacros i.word) id = false → opTrans i.word = false →
      i.corrPend = (r, e, q) :: rest →
      s.flips.mac = [] → s.flips.hard = [] →
      ∃ (u : State) (x : Issue), exec (.correctionRead b id) s = .next ((u.chainEnd b id).settleBlk b) ∧ u.issueOf b id = some x ∧ x.corrPend = rest
        ∧ x.corr = (addCorr i.corr (fwdProducts i.word (opPrec s.img b i.word) r e q
            (corrRows i.word ((maskMacros (opMacros i.word)).map (fun m => (m, s.rowRd (16 * b + m) (e % 512))))))).1
        ∧ x.rowsDone = i.rowsDone ∧ u.getF (blkBase b) F.BLK_CORR_STAT_ESCAPES = satCount F.BLK_CORR_STAT_ESCAPES.width (s.getF (blkBase b) F.BLK_CORR_STAT_ESCAPES) 1
        ∧ s.othersKept u b ∧ u.mem = s.mem)
  ∧ (∀ (s : State) (b id : Nat) (i : Issue), s.issueOf b id = some i → s.compOn b = true → i.faulted = false → i.path ≠ 1 →
      s.portsDue b = false → s.maskRestores b (opMacros i.word) id = false → opTrans i.word = true → i.rowsDone = i.rows → i.corrPend ≠ [] → i.corrRow < 512 → s.flips.mac = [] → s.flips.hard = [] →
      ∃ (u : State) (x : Issue), exec (.correctionRead b id) s = .next ((u.chainEnd b id).settleBlk b) ∧ u.issueOf b id = some x
        ∧ x.corr = (addCorr i.corr (trnProducts (opPrec s.img b i.word) i.corrRow i.corrPend
            (corrRows i.word ((maskMacros (opMacros i.word)).map (fun m => (m, s.rowRd (16 * b + m) i.corrRow)))))).1
        ∧ x.corrRow = i.corrRow + 1 ∧ x.corrPend = (if i.corrRow = 511 then [] else i.corrPend) ∧ s.othersKept u b ∧ u.mem = s.mem)

/-- The epilogue, and the end of an issue (R98, R103, R120, R121, R129, R132): a row that may run it is taken through it and the last one ends the tile's
use of its entries; the rows of a pool group before its last store nothing; a full line of the row holds the encoded values, and where OUTDIM puts
its outputs into different rows, they are narrow writes through the gather buffer and append nothing to a side list (R153, R191, R192); an issue leaves the
scoreboard when nothing of it is in flight, not before. -/
def Obligations.EpiloguesAndRetirement : Prop :=
  (∀ (s : State) (b id : Nat) (i : Issue), s.issueOf b id = some i → s.compOn b = true → i.faulted = false → i.done = false →
      s.epiReady b i i.epiDone = true → (i.epiDone + 1) % opPoolRows i.word ≠ 0 → i.epiDone + 1 ≠ i.rows →
      ∃ t, exec (.epilogue b id) s = .next t ∧ t.issueOf b id = some { i with epiDone := i.epiDone + 1 } ∧ s.othersKept t b
        ∧ { t with blocks := s.blocks } = s)
  ∧ (∀ (s : State) (b id : Nat) (i : Issue), s.issueOf b id = some i → s.compOn b = true → i.faulted = false → i.done = false →
      s.epiReady b i i.epiDone = true →
      s.flips.spd = [] → s.banksAll b i →
      ∃ (t : State) (x : Issue), exec (.epilogue b id) s = .next t ∧ t.issueOf b id = some x ∧ x.epiDone = i.epiDone + 1 ∧ x.rowsDone = i.rowsDone
        ∧ (x.done = true ↔ i.epiDone + 1 = i.rows) ∧ (i.epiDone + 1 = i.rows → x.claims = [] ∧ x.resv = 0 ∧ ∀ y ∈ (t.bx b).chains, sameTile i y = false)
        ∧ t.mem.acc = s.mem.acc ∧ t.mem.rows = s.mem.rows ∧ t.mem.hbm = s.mem.hbm ∧ s.othersKept t b ∧ t.chip = s.chip)
  ∧ (∀ (s : State) (b id sc l j : Nat) (i : Issue) (d : Desc) (cs : List Cell), s.issueOf b id = some i → s.compOn b = true → i.faulted = false →
      i.done = false → s.epiReady b i i.epiDone = true → opPoolRows i.word = 1 → opPool i.word = 0 → (s.bx b).gather = [] → s.flips.spd = [] →
      d = s.iDesc b i 1 →
      s.inScale b i i.epiDone = (sc, s) → s.binding b (opDesc i.word 1) = none → d.outdim = 0 → takesSide d = false → d.streams = false → opStats i.word = false →
      d.fmt ≠ 10 →
      j = outScale d (BitVec.ofNat 32 (i.clip.getD 1 0)) ((((s.epiRow b i i.epiDone sc).1.map (fun o => OutVal.mk o.1
        (posAdd (posAdd (i.at 1) d.rowdim i.epiDone) d.outdim o.1.idx) o.2.1 o.2.2))).filter (fun x => inBounds d x.pos)) →
      cs = (encodeRow (s.drawAt i d) d (opEscMargin i.word) [] (f32of16 j) ((((s.epiRow b i i.epiDone sc).1.map (fun o => OutVal.mk o.1
        (posAdd (posAdd (i.at 1) d.rowdim i.epiDone) d.outdim o.1.idx) o.2.1 o.2.2))).filter (fun x => inBounds d x.pos))).elems.flatMap (fun e =>
          elemWrite s.img s.ownCoord b d e.1 e.2) →
      isSpd l = true → spdBlk l = b → l ∈ cs.map (fun c => lineOf c.1) → spdOff l < 0x60000 → s.retHeld b (spdOff l) = false →
      fullLine (runData cs l 1) = true →
      ∃ t, exec (.epilogue b id) s = .next t ∧ ∀ x ∈ runData cs l 1, Mem.rd t.mem.spd (l + x.1) = x.2.1)
  ∧ (∀ (s : State) (b id sc j : Nat) (ls : List Nat) (i : Issue) (d : Desc) (cs : List Cell), s.issueOf b id = some i → s.compOn b = true → i.faulted = false →
      i.done = false → s.epiReady b i i.epiDone = true → opPoolRows i.word = 1 → opPool i.word = 0 → (s.bx b).gather = [] → i.uses = [] →
      d = s.iDesc b i 1 →
      s.inScale b i i.epiDone = (sc, s) → s.binding b (opDesc i.word 1) = none → d.outdim ≠ 0 → d.streams = false → opStats i.word = false →
      d.fmt ≠ 10 →
      j = outScale d (BitVec.ofNat 32 (i.clip.getD 1 0)) ((((s.epiRow b i i.epiDone sc).1.map (fun o => OutVal.mk o.1
        (posAdd (posAdd (i.at 1) d.rowdim i.epiDone) d.outdim o.1.idx) o.2.1 o.2.2))).filter (fun x => inBounds d x.pos)) →
      cs = (encodeRow (s.drawAt i d) d (opEscMargin i.word) [] (f32of16 j) ((((s.epiRow b i i.epiDone sc).1.map (fun o => OutVal.mk o.1
        (posAdd (posAdd (i.at 1) d.rowdim i.epiDone) d.outdim o.1.idx) o.2.1 o.2.2))).filter (fun x => inBounds d x.pos))).elems.flatMap (fun e =>
          elemWrite s.img s.ownCoord b d e.1 e.2) →
      ls = sortNat (cs.map (fun c => lineOf c.1)) → ls.length ≤ 8 →
      (∀ l ∈ ls, isSpd l = true ∧ spdBlk l = b ∧ spdOff l < 0x60000 ∧ s.retHeld b (spdOff l) = false) →
      ∃ t, exec (.epilogue b id) s = .next t ∧ (t.bx b).gather = ls.map (fun l => ⟨spdOff l, runData cs l 1, none, id⟩) ∧ t.mem = s.mem)
  ∧ (∀ (s : State) (b id : Nat) (i : Issue), s.issueOf b id = some i →
      i.done = true ∨ i.faulted = true ∨ s.epiReady b i i.epiDone = false → exec (.epilogue b id) s = .next s)
  ∧ (∀ (s : State) (b id : Nat) (i : Issue), s.issueOf b id = some i → s.compOn b = true → s.mayRetire b i = true → i.faulted = false ∨ i.uses = [] →
      ∃ u : State, exec (.issueRetire b id) s = .next ((u.ctxTidy b i.ctx).afterRetire)
        ∧ (u.bx b).issues = (s.bx b).issues.filter (fun y => decide (y.id ≠ id))
        ∧ (u.bx b).chains = (s.bx b).chains ++ (if opChain i.word && !i.faulted && decide (0 < i.resv) then [{ i with claims := [] }] else [])
        ∧ s.othersKept u b ∧ { u with blocks := s.blocks } = s)
  ∧ (∀ (s : State) (b id : Nat) (i : Issue), s.issueOf b id = some i →
      (i.done = false ∧ i.faulted = false) ∨ i.acks ≠ 0 ∨ i.need ≠ [] ∨ (∃ h ∈ (s.bx b).heldW, h.iss = id) → exec (.issueRetire b id) s = .next s)

/-- What arrives for an issue (R120, R124, R320, R322, R594): the lines that a message carries are kept and staging goes on, one with POISON faults the operation and
its context, an acknowledgement is counted (one from a scratchpad is not waited for: log entry 35), and those of a port or the hub go to the message
that they answer, whose last answer completes it. -/
def Obligations.ReadDataAndAcknowledgements : Prop :=
  (∀ (s : State) (b id line k key : Nat) (d : List Byte) (m : Msg), s.compOn b = true → s.answerFor b id line = some (k, m) → m.body = .readRsp key d 0 id →
      ∃ u : State, exec (.readData b id line) s = .next (u.settleBlk b) ∧ u = (s.dropMsg k).modIssue b id (fun x => x.arrive key d))
  ∧ (∀ (i : Issue) (key : Nat) (d : List Byte),
      (∀ x < d.length / 64, key + 64 * x ∈ (i.arrive key d).got ∧ key + 64 * x ∉ (i.arrive key d).need)
        ∧ (∀ j < d.length, SMap.get 0 (i.arrive key d).staged (key + j) = d.getD j 0)
        ∧ ∀ a, (a < key ∨ key + d.length ≤ a) → SMap.get 0 (i.arrive key d).staged a = SMap.get 0 i.staged a)
  ∧ (∀ (s : State) (b id line k key e : Nat) (d : List Byte) (m : Msg) (i : Issue), s.compOn b = true → s.answerFor b id line = some (k, m) →
      m.body = .readRsp key d e id → e ≠ 0 → e < 256 → s.issueOf b id = some i → i.faulted = false → (s.ctx b i.ctx).st ≠ .faulted →
      s.isF (blkBase b) F.BLK_FAULT_STAT_VALID = false →
      ∃ (u : State) (x : Issue), exec (.readData b id line) s = .next (u.settleBlk b) ∧ u.issueOf b id = some x ∧ x.faulted = true ∧ (∀ l ∈ x.need, l < key ∨ key + d.length ≤ l)
        ∧ (u.ctx b i.ctx).st = .faulted ∧ (u.ctx b i.ctx).faultClass = e ∧ u.getF (blkBase b) F.BLK_FAULT_CLASS = e ∧ u.mem = s.mem
        ∧ u.net = dropAt s.net k)
  ∧ (∀ (s : State) (k b id : Nat) (m : Msg) (i : Issue), s.msgAt k = some m → m.body = .ack 0 id → m.dst = b → b < 256 → s.issueOf b id = some i →
      ∃ u : State, exec (.writeAcknowledgement k) s = .next (u.settleBlk b)
        ∧ u.issueOf b id = some { i with acks := if m.src < 256 then i.acks else i.acks - 1 }
        ∧ u.net = dropAt s.net k ∧ s.othersKept u b ∧ { u with blocks := s.blocks, net := s.net, mesh := s.mesh } = s)
  ∧ (∀ (s : State) (k b id e : Nat) (m : Msg) (i : Issue), s.msgAt k = some m → m.body = .ack e id → e ≠ 0 → e < 256 → m.dst = b → b < 256 →
      s.issueOf b id = some i → (s.ctx b i.ctx).st ≠ .faulted → s.isF (blkBase b) F.BLK_FAULT_STAT_VALID = false →
      ∃ (u : State) (x : Issue), exec (.writeAcknowledgement k) s = .next (u.settleBlk b) ∧ u.issueOf b id = some x ∧ x.faulted = true
        ∧ (u.ctx b i.ctx).st = .faulted ∧ (u.ctx b i.ctx).faultClass = e ∧ u.mem = s.mem)
  ∧ (∀ (s : State) (k tok key e : Nat) (d : List Byte) (m : Msg), s.msgAt k = some m → 256 ≤ m.dst → m.dst < 272 →
      (m.body = .ack e tok → exec (.writeAcknowledgement k) s = .next ((s.dropMsg k).served1 tok none e))
        ∧ (m.body = .readRsp key d e tok → exec (.writeAcknowledgement k) s = .next ((s.dropMsg k).served1 tok (some (key, d)) e)))
  ∧ (∀ (s : State) (tok e : Nat) (line : Option (Nat × List Byte)) (v : Serv), s.cour.serving.find? (fun x => decide (x.tok = tok)) = some v →
      1 < v.left →
      ∃ w, (s.served1 tok line e).cour.serving.find? (fun x => decide (x.tok = tok)) = some w ∧ w.left = v.left - 1
        ∧ w.data = v.data ++ line.toList ∧ (w.poison = 0 ↔ v.poison = 0 ∧ e = 0) ∧ { s.served1 tok line e with cour := s.cour, net := s.net, mesh := s.mesh } = s)

/-- Cirrus predictions (R264, R265, R268 to R271, R273, R276), of the issue whose rows the array takes next: a group whose estimates are not usable is predicted all active; another predicts the
outputs whose neurons reach the threshold, and both count. -/
def Obligations.CirrusPredictsGroups : Prop :=
  (∀ (s : State) (b id : Nat) (i : Issue), s.issueOf b id = some i → s.compOn b = true → opPred i.word = true → i.faulted = false → i.done = false →
      i.eng.predOk = false → s.predStaged b i i.eng.grp = true → s.allActive b = true → s.arrayHead b = some id →
      ∃ (u : State) (x : Issue), exec (.cirrusGroupPrediction b id) s = .next (u.settleBlk b) ∧ u.issueOf b id = some x ∧ x.eng.predOk = true
        ∧ x.eng.predicted = List.range (accOuts i.word (opPrec s.img b i.word))
        ∧ SMap.get 0 (u.bx b).predG i.j = SMap.get 0 (s.bx b).predG i.j + 1
        ∧ u.getF (blkBase b) F.CIR_ALLACT_GROUPS = satCount F.CIR_ALLACT_GROUPS.width (s.getF (blkBase b) F.CIR_ALLACT_GROUPS) 1
        ∧ ((s.predDesc b).fmt ∉ [0, 1, 4, 5] → u.isF (blkBase b) F.CIR_STAT_BAD_FMT = true)
        ∧ s.othersKept u b ∧ { u with blocks := s.blocks, regs := s.regs, job := s.job } = s)
  ∧ (∀ (s : State) (b id : Nat) (i : Issue) (rows : List Nat) (ests : List (List Int)), s.issueOf b id = some i → s.compOn b = true →
      opPred i.word = true → i.faulted = false → i.done = false → i.eng.predOk = false → s.predStaged b i i.eng.grp = true → s.allActive b = false → s.arrayHead b = some id →
      rows = s.predRows b i i.eng.grp → (∀ r ∈ rows, s.predMany b i r = false) →
      ests = (rows.zip (List.range rows.length)).map (fun r => s.rowEstimates b i r.1 (s.free + 256 * r.2)) →
      ∃ (u : State) (x : Issue), exec (.cirrusGroupPrediction b id) s = .next (u.settleBlk b) ∧ u.issueOf b id = some x ∧ x.eng.predOk = true
        ∧ (∀ o, o ∈ x.eng.predicted ↔ o < accOuts i.word (opPrec s.img b i.word) ∧ s.outClass b (sparseMacro i.word) ests o = 2)
        ∧ (∀ o, o ∈ x.eng.doubtful ↔ o < accOuts i.word (opPrec s.img b i.word) ∧ s.outClass b (sparseMacro i.word) ests o = 1)
        ∧ (∀ o ∈ x.eng.audits, o < accOuts i.word (opPrec s.img b i.word) ∧ s.outClass b (sparseMacro i.word) ests o < 2
            ∧ opKind i.word = 0x10 ∧ s.auditedSlot b i.slot = true)
        ∧ x.eng.audits.length ≤ s.getF (blkBase b) F.CIR_MISS_CTL_AUDIT_N
        ∧ u.getF (blkBase b) F.CIR_PREDICTED_COUNT
            = satCount F.CIR_PREDICTED_COUNT.width (s.getF (blkBase b) F.CIR_PREDICTED_COUNT) x.eng.predicted.length
        ∧ u.free = s.free + 2048 ∧ s.othersKept u b ∧ { u with blocks := s.blocks, regs := s.regs, job := s.job, free := s.free } = s)
  ∧ (∀ (s : State) (b j k : Nat) (xs : List Int), s.cirTrusted b = true →
        (s.estimate b xs j k - (List.zipWith (fun (x w : Int) => x * w) xs ((List.range xs.length).map (fun r => s.cirWeight b r j))).sum).natAbs
          ≤ (List.zipWith (fun (x w : Int) => (x * w).natAbs) xs ((List.range xs.length).map (fun r => s.cirWeight b r j))).sum / 64 + 128)
  ∧ (∀ (s : State) (b j : Nat) (rows : List (List Int)), (∃ l ∈ rows, s.cirThr b ≤ l.getD j 0) → s.neuronClass b rows j = 2)

/-- The sparse engine (R238 to R244): a group is dealt as runs of at most 64 entries of one output on at most 64 lanes, each piece adds the exact sums of
its entries, and outputs whose pieces have all arrived are released in order into their entries; the last piece of an audited output judges it, also
after the tile's last release (R279). -/
def Obligations.SparseEngineDealsAndMerges : Prop :=
  (∀ (s : State) (b id : Nat) (i : Issue) (outs : List (Nat × List (Nat × Int))), s.issueOf b id = some i → s.compOn b = true → i.path = 1 →
      i.faulted = false → i.done = false → s.engineHead b = some id → i.eng.nextOut = 0 → i.eng.lanes = [] → i.eng.audits = [] → 8 * i.eng.grp < i.rows →
      s.dealReady b i i.eng = true → (s.grpEscapes b i i.eng.grp).2.2 = false → s.kOf b i ≠ 0 →
      outs = ((List.range (accOuts i.word (opPrec s.img b i.word))).map (fun o =>
        (o, outEntries (opTrans i.word) (opPrec s.img b i.word) (tileEntries (s.sparseTile b i 4)) o))).filter (fun x =>
          !opPred i.word || decide (x.1 ∈ i.eng.predicted)) →
      ∃ (t : State) (x : Issue), exec (.sparseGroupDeal b id) s = .next t ∧ t.issueOf b id = some x ∧ x.eng.nextOut = 1 ∧ x.eng.lanes.length ≤ 64
        ∧ x.eng.lanes ++ x.eng.queue = outs.flatMap (fun y => (runsOf y.2).map (fun r => ⟨y.1, r, false⟩))
        ∧ (x.eng.queue ≠ [] → x.eng.lanes.length = 64)
        ∧ (∀ y ∈ outs, SMap.get 0 x.eng.pend y.1 = ceilDiv y.2.length 64)
        ∧ t.getF (blkBase b) F.SPE_SPLITS_COUNT
            = satCount F.SPE_SPLITS_COUNT.width (s.getF (blkBase b) F.SPE_SPLITS_COUNT) (outs.filter (fun y => decide (64 < y.2.length))).length
        ∧ s.othersKept t b ∧ { t with blocks := s.blocks, regs := s.regs, job := s.job } = s)
  ∧ (∀ l : List (Nat × Int), (runsOf l).flatten = l ∧ ∀ r ∈ runsOf l, r ≠ [] ∧ r.length ≤ 64)
  ∧ (∀ (s : State) (b id k : Nat) (i : Issue) (p : Piece), s.issueOf b id = some i → s.compOn b = true → i.path = 1 → i.faulted = false → i.done = false →
      i.eng.lanes[k]? = some p → p.audit = false → i.eng.nextRel ≠ accOuts i.word (opPrec s.img b i.word) →
      ∃ (t : State) (x : Issue), exec (.pieceEmit b id k) s = .next t ∧ t.issueOf b id = some x
        ∧ SMap.get 0 x.eng.pend p.out = SMap.get 0 i.eng.pend p.out - 1
        ∧ (∀ r < 8, SMap.get 0 x.eng.tot (8 * p.out + r) = SMap.get 0 i.eng.tot (8 * p.out + r) + ((s.pieceSums b i i.eng.grp p).getD r (0, 0)).1
            ∧ SMap.get 0 x.eng.totC (8 * p.out + r) = SMap.get 0 i.eng.totC (8 * p.out + r) + ((s.pieceSums b i i.eng.grp p).getD r (0, 0)).2)
        ∧ (∀ q, q / 8 ≠ p.out → SMap.get 0 x.eng.tot q = SMap.get 0 i.eng.tot q ∧ SMap.get 0 x.eng.totC q = SMap.get 0 i.eng.totC q)
        ∧ x.eng.lanes ++ x.eng.queue = dropAt i.eng.lanes k ++ i.eng.queue
        ∧ t.getF (blkBase b) F.SPE_ENTRIES_COUNT
            = satCount F.SPE_ENTRIES_COUNT.width (s.getF (blkBase b) F.SPE_ENTRIES_COUNT) p.entries.length
        ∧ s.othersKept t b ∧ { t with blocks := s.blocks, regs := s.regs } = s)
  ∧ (∀ (s : State) (b id n nout prec : Nat) (i : Issue), s.issueOf b id = some i → prec = opPrec s.img b i.word → nout = accOuts i.word prec →
      n = relCount i.eng nout → s.compOn b = true → i.path = 1 → i.faulted = false → i.done = false → i.eng.nextOut = 1 → i.eng.queue = [] → 0 < n →
      i.eng.nextRel + n ≠ nout → i.rows ≤ opRows i.word →
      opPred i.word = true ∨ s.sparseTile b i 4 = [] ∨ valOk (s.sparseTile b i 4) = true →
      ∃ (u : State) (x : Issue), exec (.mergeRelease b id) s = .next (u.chainEnd b id) ∧ u.issueOf b id = some x ∧ x.eng.nextRel = i.eng.nextRel + n
        ∧ n ≤ 16 ∧ (∀ q < n, SMap.get 0 i.eng.pend (i.eng.nextRel + q) = 0)
        ∧ (∀ r ∈ grpRows i i.eng.grp, ∀ q < n, u.accRd i.word prec (16 * b + sparseMacro i.word) r (i.eng.nextRel + q) =
            (satAdd (opAcc24 i.word) (if opInit i.word then 0 else s.accRd i.word prec (16 * b + sparseMacro i.word) r (i.eng.nextRel + q))
              (SMap.get 0 i.eng.tot (8 * (i.eng.nextRel + q) + (r - 8 * i.eng.grp)))).1)
        ∧ (∀ r ∈ grpRows i i.eng.grp, ∀ q < n, SMap.get 0 x.corr (corrKey r (i.eng.nextRel + q)) =
            (if SMap.get 0 i.eng.totC (8 * (i.eng.nextRel + q) + (r - 8 * i.eng.grp)) = 0 then SMap.get 0 i.corr (corrKey r (i.eng.nextRel + q))
              else (sat48 (SMap.get 0 i.corr (corrKey r (i.eng.nextRel + q)))
                (SMap.get 0 i.eng.totC (8 * (i.eng.nextRel + q) + (r - 8 * i.eng.grp)))).1))
        ∧ (∀ a, (∀ r ∈ grpRows i i.eng.grp, ∀ q < n, a < accAddr i.word prec (16 * b + sparseMacro i.word) r (i.eng.nextRel + q)
              ∨ accAddr i.word prec (16 * b + sparseMacro i.word) r (i.eng.nextRel + q) + accWidth i.word ≤ a) → Mem.rd u.mem.acc a = Mem.rd s.mem.acc a)
        ∧ s.othersKept u b ∧ { u with blocks := s.blocks, regs := s.regs, job := s.job, mem := s.mem } = s)
  ∧ (∀ (s : State) (b id k : Nat) (i : Issue) (p : Piece), s.issueOf b id = some i → s.compOn b = true → i.path = 1 → i.faulted = false →
      i.eng.lanes[k]? = some p → p.audit = true → SMap.get 0 i.eng.pend (auditKey p.out) = 1 →
      ∃ t, exec (.pieceEmit b id k) s = .next t
        ∧ t.getF (blkBase b) F.CIR_AUDITED_COUNT = satCount F.CIR_AUDITED_COUNT.width (s.getF (blkBase b) F.CIR_AUDITED_COUNT) 1
        ∧ s.othersKept t b ∧ { t with blocks := s.blocks, regs := s.regs, job := s.job } = s)
  ∧ (∀ (s : State) (b id : Nat) (i : Issue), s.issueOf b id = some i → i.path ≠ 1 ∨ i.faulted = true →
      exec (.sparseGroupDeal b id) s = .next s ∧ exec (.mergeRelease b id) s = .next s ∧ ∀ k, exec (.pieceEmit b id k) s = .next s)
  ∧ (∀ (s : State) (b id : Nat) (i : Issue), s.issueOf b id = some i → i.done = true →
      exec (.sparseGroupDeal b id) s = .next s ∧ exec (.mergeRelease b id) s = .next s)
end

