-- ==== Sys2Proof/Laws/Map.lean ====
section
/-! SUPPORT. Laws of the sparse maps and of memory: what a read after a write gives, and that every operation keeps the canonical form. -/

namespace Sys2Proof.Machine

variable {α : Type}

theorem SMap.get_erase (d : α) (m : SMap α) (x y : Nat) : SMap.get d (SMap.erase m x) y = if x = y then d else SMap.get d m y := by
  induction m with
  | nil => simp [SMap.erase, SMap.get]
  | cons p r ih =>
    obtain ⟨k, v⟩ := p
    simp only [SMap.erase, SMap.get]
    split_ifs <;> simp_all [SMap.get]

theorem SMap.get_insert (d : α) (m : SMap α) (x y : Nat) (a : α) (h : x ∉ m.map Prod.fst) :
    SMap.get d (SMap.insert m x a) y = if x = y then a else SMap.get d m y := by
  induction m with
  | nil => simp [SMap.insert, SMap.get]
  | cons p r ih =>
    obtain ⟨k, v⟩ := p
    simp only [List.map_cons, List.mem_cons, not_or] at h
    simp only [SMap.insert]
    split
    · simp [SMap.get]
    · simp only [SMap.get, ih h.2]
      split_ifs <;> simp_all

theorem SMap.notMem_erase (m : SMap α) (x : Nat) : x ∉ (SMap.erase m x).map Prod.fst := by
  induction m with
  | nil => simp [SMap.erase]
  | cons p r ih =>
    obtain ⟨k, v⟩ := p
    simp only [SMap.erase]
    split_ifs with hk
    · exact ih
    · simp only [List.map_cons, List.mem_cons, not_or]
      exact ⟨fun h => hk h.symm, ih⟩

/-- A read after a write: at the key written the value, elsewhere what stood there. -/
theorem SMap.get_set [DecidableEq α] (d : α) (m : SMap α) (x y : Nat) (a : α) :
    SMap.get d (SMap.set d m x a) y = if x = y then a else SMap.get d m y := by
  unfold SMap.set
  split
  · rename_i h
    rw [SMap.get_erase, h]
  · rw [SMap.get_insert _ _ _ _ _ (SMap.notMem_erase m x), SMap.get_erase]
    split_ifs <;> rfl

@[simp] theorem SMap.get_set_self [DecidableEq α] (d : α) (m : SMap α) (x : Nat) (a : α) : SMap.get d (SMap.set d m x a) x = a := by
  simp [SMap.get_set]

theorem SMap.get_set_ne [DecidableEq α] (d : α) (m : SMap α) {x y : Nat} (a : α) (h : x ≠ y) :
    SMap.get d (SMap.set d m x a) y = SMap.get d m y := by
  simp [SMap.get_set, h]

theorem SMap.get_dropKeys (d : α) (p : Nat → Bool) (m : SMap α) (y : Nat) :
    SMap.get d (SMap.dropKeys p m) y = if p y then d else SMap.get d m y := by
  unfold SMap.dropKeys
  induction m with
  | nil => simp [SMap.get]
  | cons q r ih =>
    obtain ⟨k, v⟩ := q
    by_cases hp : p k = true
    · simp only [List.filter_cons, hp, Bool.not_true, Bool.false_eq_true, if_false, ih, SMap.get]
      split_ifs <;> simp_all
    · simp only [List.filter_cons, hp, Bool.not_false, if_true, SMap.get, ih]
      split_ifs <;> simp_all

/-! ## The canonical form -/

theorem keysRise_iff (m : SMap α) : keysRise m = true ↔ (m.map Prod.fst).Pairwise (· < ·) := by
  induction m with
  | nil => simp [keysRise]
  | cons p r ih =>
    obtain ⟨k, v⟩ := p
    cases r with
    | nil => simp [keysRise]
    | cons q t =>
      obtain ⟨b, y⟩ := q
      simp only [keysRise, Bool.and_eq_true, decide_eq_true_eq, ih]
      simp only [List.map_cons, List.pairwise_cons, List.mem_cons, List.mem_map]
      constructor
      · rintro ⟨h, h2, h3⟩
        refine ⟨?_, h2, h3⟩
        rintro a (rfl | ⟨e, he, rfl⟩)
        · exact h
        · exact h.trans (h2 _ ⟨e, he, rfl⟩)
      · rintro ⟨h, h2, h3⟩
        exact ⟨h _ (Or.inl rfl), h2, h3⟩

theorem SMap.erase_sublist (m : SMap α) (x : Nat) : (SMap.erase m x).Sublist m := by
  induction m with
  | nil => simp [SMap.erase]
  | cons p r ih =>
    obtain ⟨k, v⟩ := p
    simp only [SMap.erase]
    split_ifs
    · exact ih.cons _
    · exact ih.cons_cons _

theorem keysRise_sublist {m n : SMap α} (h : n.Sublist m) (hm : keysRise m = true) : keysRise n = true := by
  rw [keysRise_iff] at *
  exact hm.sublist (h.map _)

theorem SMap.mem_insert (m : SMap α) (x : Nat) (a : α) (e : Nat × α) : e ∈ SMap.insert m x a ↔ e = (x, a) ∨ e ∈ m := by
  induction m with
  | nil => simp [SMap.insert]
  | cons p r ih =>
    obtain ⟨k, v⟩ := p
    simp only [SMap.insert]
    split_ifs
    · simp
    · simp only [List.mem_cons, ih]
      tauto

theorem keysRise_insert (m : SMap α) (x : Nat) (a : α) (hx : x ∉ m.map Prod.fst) (hm : keysRise m = true) :
    keysRise (SMap.insert m x a) = true := by
  rw [keysRise_iff] at *
  induction m with
  | nil => simp [SMap.insert]
  | cons p r ih =>
    obtain ⟨k, v⟩ := p
    simp only [List.map_cons, List.mem_cons, not_or, List.pairwise_cons] at hx hm
    simp only [SMap.insert]
    split_ifs with h
    · simp only [List.map_cons, List.pairwise_cons, List.mem_cons]
      refine ⟨?_, hm.1, hm.2⟩
      rintro b (rfl | hb)
      · exact h
      · exact h.trans (hm.1 b hb)
    · simp only [List.map_cons, List.pairwise_cons]
      refine ⟨?_, ih hx.2 hm.2⟩
      intro b hb
      obtain ⟨e, he, rfl⟩ := List.mem_map.1 hb
      rcases (SMap.mem_insert r x a e).1 he with rfl | he
      · simp only
        omega
      · exact hm.1 _ (List.mem_map_of_mem he)

/-- Setting a key keeps the keys rising. -/
theorem keysRise_set [DecidableEq α] (d : α) (m : SMap α) (x : Nat) (a : α) (hm : keysRise m = true) : keysRise (SMap.set d m x a) = true := by
  unfold SMap.set
  have he := keysRise_sublist (SMap.erase_sublist m x) hm
  split
  · exact he
  · exact keysRise_insert _ _ _ (SMap.notMem_erase m x) he

theorem keysRise_dropKeys (p : Nat → Bool) (m : SMap α) (hm : keysRise m = true) : keysRise (SMap.dropKeys p m) = true :=
  keysRise_sublist List.filter_sublist hm

theorem Mem.wf_iff (m : Mem) : Mem.wf m = true ↔ keysRise m = true ∧ ∀ e ∈ m, e.2 ≠ 0 := by
  simp [Mem.wf]

/-- Writing a byte keeps the canonical form. -/
theorem Mem.wf_wr (m : Mem) (a : Nat) (b : Byte) (h : Mem.wf m = true) : Mem.wf (Mem.wr m a b) = true := by
  rw [Mem.wf_iff] at *
  refine ⟨keysRise_set _ _ _ _ h.1, ?_⟩
  unfold Mem.wr SMap.set
  intro e he
  split at he
  · exact h.2 e ((SMap.erase_sublist m a).mem he)
  · rcases (SMap.mem_insert _ _ _ _).1 he with rfl | he
    · assumption
    · exact h.2 e ((SMap.erase_sublist m a).mem he)

/-- Writing bytes keeps the canonical form. -/
theorem Mem.wf_wrN (m : Mem) (a : Nat) (bs : List Byte) (h : Mem.wf m = true) : Mem.wf (Mem.wrN m a bs) = true := by
  induction bs generalizing m a with
  | nil => exact h
  | cons b r ih => exact ih _ _ (Mem.wf_wr m a b h)

/-- Dropping addresses keeps the canonical form. -/
theorem Mem.wf_dropKeys (p : Nat → Bool) (m : Mem) (h : Mem.wf m = true) : Mem.wf (SMap.dropKeys p m) = true := by
  rw [Mem.wf_iff] at *
  exact ⟨keysRise_dropKeys p m h.1, fun e he => h.2 e (List.mem_of_mem_filter he)⟩

/-- Clearing a range keeps the canonical form. -/
theorem Mem.wf_clear (m : Mem) (lo hi : Nat) (h : Mem.wf m = true) : Mem.wf (Mem.clear m lo hi) = true := Mem.wf_dropKeys _ m h

/-- Writing the enabled bytes of a line keeps the canonical form. -/
theorem Mem.wf_merge (m : Mem) (base : Nat) (data : List (Nat × Byte × Byte)) (h : Mem.wf m = true) : Mem.wf (Mem.merge m base data) = true := by
  unfold Mem.merge
  induction data generalizing m with
  | nil => exact h
  | cons x r ih => exact ih _ (Mem.wf_wr _ _ _ h)

@[simp] theorem Mem.wf_nil : Mem.wf [] = true := rfl

/-- A read of a byte after a write of one. -/
theorem Mem.rd_wr (m : Mem) (a x : Nat) (b : Byte) : Mem.rd (Mem.wr m a b) x = if a = x then b else Mem.rd m x := SMap.get_set 0 m a x b

/-- A read of a byte after a write of several. -/
theorem Mem.rd_wrN (m : Mem) (a : Nat) (bs : List Byte) (x : Nat) :
    Mem.rd (Mem.wrN m a bs) x = if a ≤ x ∧ x < a + bs.length then bs.getD (x - a) 0 else Mem.rd m x := by
  induction bs generalizing m a with
  | nil =>
    have : ¬ (a ≤ x ∧ x < a + ([] : List Byte).length) := by simp
    rw [if_neg this]
    rfl
  | cons b r ih =>
    simp only [Mem.wrN, ih, Mem.rd_wr, List.length_cons]
    by_cases h1 : a + 1 ≤ x ∧ x < a + 1 + r.length
    · have h2 : a ≤ x ∧ x < a + (r.length + 1) := by omega
      obtain ⟨k, rfl⟩ : ∃ k, x = a + 1 + k := ⟨x - (a + 1), by omega⟩
      rw [if_pos h1, if_pos h2, show a + 1 + k - (a + 1) = k by omega, show a + 1 + k - a = k + 1 by omega]
      rfl
    · rw [if_neg h1]
      by_cases h3 : a = x
      · subst h3
        simp
      · have h2 : ¬ (a ≤ x ∧ x < a + (r.length + 1)) := by omega
        simp [h3, h2]

/-- A write leaves every other byte alone. -/
theorem Mem.rd_wrN_of_outside (m : Mem) (a : Nat) (bs : List Byte) (x : Nat) (h : x < a ∨ a + bs.length ≤ x) :
    Mem.rd (Mem.wrN m a bs) x = Mem.rd m x := by
  rw [Mem.rd_wrN, if_neg (by omega)]

theorem Mem.rd_clear (m : Mem) (lo hi x : Nat) : Mem.rd (Mem.clear m lo hi) x = if lo ≤ x ∧ x < hi then 0 else Mem.rd m x := by
  unfold Mem.clear Mem.rd
  rw [SMap.get_dropKeys]
  simp

end Sys2Proof.Machine
end

