-- ==== Sys2Proof/Laws/State.lean ====
section
/-! SUPPORT. What the plain updates of the state leave alone: one law for each field and update, so that no proof unfolds a record update. -/

namespace Sys2Proof.Machine

/-! ## setReg -/

@[simp] theorem State.setReg_pending (s : State) (a : Nat) (w : Word) : (s.setReg a w).pending = s.pending := rfl
@[simp] theorem State.setReg_free (s : State) (a : Nat) (w : Word) : (s.setReg a w).free = s.free := rfl
@[simp] theorem State.setReg_now (s : State) (a : Nat) (w : Word) : (s.setReg a w).now = s.now := rfl
@[simp] theorem State.setReg_regs (s : State) (a : Nat) (w : Word) : (s.setReg a w).regs = SMap.set (regReset a) s.regs a w := rfl
@[simp] theorem State.setReg_latch (s : State) (a : Nat) (w : Word) : (s.setReg a w).latch = s.latch := rfl
@[simp] theorem State.setReg_busRead (s : State) (a : Nat) (w : Word) : (s.setReg a w).busRead = s.busRead := rfl
@[simp] theorem State.setReg_pins (s : State) (a : Nat) (w : Word) : (s.setReg a w).pins = s.pins := rfl
@[simp] theorem State.setReg_chip (s : State) (a : Nat) (w : Word) : (s.setReg a w).chip = s.chip := rfl
@[simp] theorem State.setReg_mem (s : State) (a : Nat) (w : Word) : (s.setReg a w).mem = s.mem := rfl
@[simp] theorem State.setReg_flips (s : State) (a : Nat) (w : Word) : (s.setReg a w).flips = s.flips := rfl
@[simp] theorem State.setReg_macros (s : State) (a : Nat) (w : Word) : (s.setReg a w).macros = s.macros := rfl
@[simp] theorem State.setReg_blocks (s : State) (a : Nat) (w : Word) : (s.setReg a w).blocks = s.blocks := rfl
@[simp] theorem State.setReg_regions (s : State) (a : Nat) (w : Word) : (s.setReg a w).regions = s.regions := rfl
@[simp] theorem State.setReg_net (s : State) (a : Nat) (w : Word) : (s.setReg a w).net = s.net := rfl
@[simp] theorem State.setReg_mesh (s : State) (a : Nat) (w : Word) : (s.setReg a w).mesh = s.mesh := rfl
@[simp] theorem State.setReg_img (s : State) (a : Nat) (w : Word) : (s.setReg a w).img = s.img := rfl
@[simp] theorem State.setReg_sets (s : State) (a : Nat) (w : Word) : (s.setReg a w).sets = s.sets := rfl
@[simp] theorem State.setReg_on (s : State) (a : Nat) (w : Word) : (s.setReg a w).on = s.on := rfl
@[simp] theorem State.setReg_power (s : State) (a : Nat) (w : Word) : (s.setReg a w).power = s.power := rfl
@[simp] theorem State.setReg_errs (s : State) (a : Nat) (w : Word) : (s.setReg a w).errs = s.errs := rfl
@[simp] theorem State.setReg_pml (s : State) (a : Nat) (w : Word) : (s.setReg a w).pml = s.pml := rfl
@[simp] theorem State.setReg_cad (s : State) (a : Nat) (w : Word) : (s.setReg a w).cad = s.cad := rfl
@[simp] theorem State.setReg_job (s : State) (a : Nat) (w : Word) : (s.setReg a w).job = s.job := rfl
@[simp] theorem State.setReg_hbmQ (s : State) (a : Nat) (w : Word) : (s.setReg a w).hbmQ = s.hbmQ := rfl
@[simp] theorem State.setReg_hbmPos (s : State) (a : Nat) (w : Word) : (s.setReg a w).hbmPos = s.hbmPos := rfl
@[simp] theorem State.setReg_cour (s : State) (a : Nat) (w : Word) : (s.setReg a w).cour = s.cour := rfl
@[simp] theorem State.setReg_sdio (s : State) (a : Nat) (w : Word) : (s.setReg a w).sdio = s.sdio := rfl
@[simp] theorem State.setReg_mail (s : State) (a : Nat) (w : Word) : (s.setReg a w).mail = s.mail := rfl
@[simp] theorem State.setReg_store (s : State) (a : Nat) (w : Word) : (s.setReg a w).store = s.store := rfl
@[simp] theorem State.setReg_nim (s : State) (a : Nat) (w : Word) : (s.setReg a w).nim = s.nim := rfl
@[simp] theorem State.setReg_hzn (s : State) (a : Nat) (w : Word) : (s.setReg a w).hzn = s.hzn := rfl
@[simp] theorem State.setReg_bist (s : State) (a : Nat) (w : Word) : (s.setReg a w).bist = s.bist := rfl
@[simp] theorem State.setReg_tap (s : State) (a : Nat) (w : Word) : (s.setReg a w).tap = s.tap := rfl
@[simp] theorem State.setReg_bx (s : State) (a : Nat) (w : Word) (q : Nat) : (s.setReg a w).bx q = s.bx q := rfl
@[simp] theorem State.setReg_mx (s : State) (a : Nat) (w : Word) (q : Nat) : (s.setReg a w).mx q = s.mx q := rfl
@[simp] theorem State.setReg_rx (s : State) (a : Nat) (w : Word) (q : Nat) : (s.setReg a w).rx q = s.rx q := rfl
@[simp] theorem State.setReg_pdOn (s : State) (a : Nat) (w : Word) (q : Nat) : (s.setReg a w).pdOn q = s.pdOn q := rfl
@[simp] theorem State.setReg_compOn (s : State) (a : Nat) (w : Word) (q : Nat) : (s.setReg a w).compOn q = s.compOn q := rfl
@[simp] theorem State.setReg_spdOn (s : State) (a : Nat) (w : Word) (q : Nat) : (s.setReg a w).spdOn q = s.spdOn q := rfl

/-! ## setF -/

@[simp] theorem State.setF_pending (s : State) (base : Nat) (f : Fld) (v : Nat) : (s.setF base f v).pending = s.pending := rfl
@[simp] theorem State.setF_free (s : State) (base : Nat) (f : Fld) (v : Nat) : (s.setF base f v).free = s.free := rfl
@[simp] theorem State.setF_now (s : State) (base : Nat) (f : Fld) (v : Nat) : (s.setF base f v).now = s.now := rfl
@[simp] theorem State.setF_latch (s : State) (base : Nat) (f : Fld) (v : Nat) : (s.setF base f v).latch = s.latch := rfl
@[simp] theorem State.setF_busRead (s : State) (base : Nat) (f : Fld) (v : Nat) : (s.setF base f v).busRead = s.busRead := rfl
@[simp] theorem State.setF_pins (s : State) (base : Nat) (f : Fld) (v : Nat) : (s.setF base f v).pins = s.pins := rfl
@[simp] theorem State.setF_chip (s : State) (base : Nat) (f : Fld) (v : Nat) : (s.setF base f v).chip = s.chip := rfl
@[simp] theorem State.setF_mem (s : State) (base : Nat) (f : Fld) (v : Nat) : (s.setF base f v).mem = s.mem := rfl
@[simp] theorem State.setF_flips (s : State) (base : Nat) (f : Fld) (v : Nat) : (s.setF base f v).flips = s.flips := rfl
@[simp] theorem State.setF_macros (s : State) (base : Nat) (f : Fld) (v : Nat) : (s.setF base f v).macros = s.macros := rfl
@[simp] theorem State.setF_blocks (s : State) (base : Nat) (f : Fld) (v : Nat) : (s.setF base f v).blocks = s.blocks := rfl
@[simp] theorem State.setF_regions (s : State) (base : Nat) (f : Fld) (v : Nat) : (s.setF base f v).regions = s.regions := rfl
@[simp] theorem State.setF_net (s : State) (base : Nat) (f : Fld) (v : Nat) : (s.setF base f v).net = s.net := rfl
@[simp] theorem State.setF_mesh (s : State) (base : Nat) (f : Fld) (v : Nat) : (s.setF base f v).mesh = s.mesh := rfl
@[simp] theorem State.setF_img (s : State) (base : Nat) (f : Fld) (v : Nat) : (s.setF base f v).img = s.img := rfl
@[simp] theorem State.setF_sets (s : State) (base : Nat) (f : Fld) (v : Nat) : (s.setF base f v).sets = s.sets := rfl
@[simp] theorem State.setF_on (s : State) (base : Nat) (f : Fld) (v : Nat) : (s.setF base f v).on = s.on := rfl
@[simp] theorem State.setF_power (s : State) (base : Nat) (f : Fld) (v : Nat) : (s.setF base f v).power = s.power := rfl
@[simp] theorem State.setF_errs (s : State) (base : Nat) (f : Fld) (v : Nat) : (s.setF base f v).errs = s.errs := rfl
@[simp] theorem State.setF_pml (s : State) (base : Nat) (f : Fld) (v : Nat) : (s.setF base f v).pml = s.pml := rfl
@[simp] theorem State.setF_cad (s : State) (base : Nat) (f : Fld) (v : Nat) : (s.setF base f v).cad = s.cad := rfl
@[simp] theorem State.setF_job (s : State) (base : Nat) (f : Fld) (v : Nat) : (s.setF base f v).job = s.job := rfl
@[simp] theorem State.setF_hbmQ (s : State) (base : Nat) (f : Fld) (v : Nat) : (s.setF base f v).hbmQ = s.hbmQ := rfl
@[simp] theorem State.setF_hbmPos (s : State) (base : Nat) (f : Fld) (v : Nat) : (s.setF base f v).hbmPos = s.hbmPos := rfl
@[simp] theorem State.setF_cour (s : State) (base : Nat) (f : Fld) (v : Nat) : (s.setF base f v).cour = s.cour := rfl
@[simp] theorem State.setF_sdio (s : State) (base : Nat) (f : Fld) (v : Nat) : (s.setF base f v).sdio = s.sdio := rfl
@[simp] theorem State.setF_mail (s : State) (base : Nat) (f : Fld) (v : Nat) : (s.setF base f v).mail = s.mail := rfl
@[simp] theorem State.setF_store (s : State) (base : Nat) (f : Fld) (v : Nat) : (s.setF base f v).store = s.store := rfl
@[simp] theorem State.setF_nim (s : State) (base : Nat) (f : Fld) (v : Nat) : (s.setF base f v).nim = s.nim := rfl
@[simp] theorem State.setF_hzn (s : State) (base : Nat) (f : Fld) (v : Nat) : (s.setF base f v).hzn = s.hzn := rfl
@[simp] theorem State.setF_bist (s : State) (base : Nat) (f : Fld) (v : Nat) : (s.setF base f v).bist = s.bist := rfl
@[simp] theorem State.setF_tap (s : State) (base : Nat) (f : Fld) (v : Nat) : (s.setF base f v).tap = s.tap := rfl
@[simp] theorem State.setF_bx (s : State) (base : Nat) (f : Fld) (v : Nat) (q : Nat) : (s.setF base f v).bx q = s.bx q := rfl
@[simp] theorem State.setF_mx (s : State) (base : Nat) (f : Fld) (v : Nat) (q : Nat) : (s.setF base f v).mx q = s.mx q := rfl
@[simp] theorem State.setF_rx (s : State) (base : Nat) (f : Fld) (v : Nat) (q : Nat) : (s.setF base f v).rx q = s.rx q := rfl
@[simp] theorem State.setF_pdOn (s : State) (base : Nat) (f : Fld) (v : Nat) (q : Nat) : (s.setF base f v).pdOn q = s.pdOn q := rfl
@[simp] theorem State.setF_compOn (s : State) (base : Nat) (f : Fld) (v : Nat) (q : Nat) : (s.setF base f v).compOn q = s.compOn q := rfl
@[simp] theorem State.setF_spdOn (s : State) (base : Nat) (f : Fld) (v : Nat) (q : Nat) : (s.setF base f v).spdOn q = s.spdOn q := rfl

/-! ## addF -/

@[simp] theorem State.addF_pending (s : State) (base : Nat) (f : Fld) (v : Nat) : (s.addF base f v).pending = s.pending := rfl
@[simp] theorem State.addF_free (s : State) (base : Nat) (f : Fld) (v : Nat) : (s.addF base f v).free = s.free := rfl
@[simp] theorem State.addF_now (s : State) (base : Nat) (f : Fld) (v : Nat) : (s.addF base f v).now = s.now := rfl
@[simp] theorem State.addF_latch (s : State) (base : Nat) (f : Fld) (v : Nat) : (s.addF base f v).latch = s.latch := rfl
@[simp] theorem State.addF_busRead (s : State) (base : Nat) (f : Fld) (v : Nat) : (s.addF base f v).busRead = s.busRead := rfl
@[simp] theorem State.addF_pins (s : State) (base : Nat) (f : Fld) (v : Nat) : (s.addF base f v).pins = s.pins := rfl
@[simp] theorem State.addF_chip (s : State) (base : Nat) (f : Fld) (v : Nat) : (s.addF base f v).chip = s.chip := rfl
@[simp] theorem State.addF_mem (s : State) (base : Nat) (f : Fld) (v : Nat) : (s.addF base f v).mem = s.mem := rfl
@[simp] theorem State.addF_flips (s : State) (base : Nat) (f : Fld) (v : Nat) : (s.addF base f v).flips = s.flips := rfl
@[simp] theorem State.addF_macros (s : State) (base : Nat) (f : Fld) (v : Nat) : (s.addF base f v).macros = s.macros := rfl
@[simp] theorem State.addF_blocks (s : State) (base : Nat) (f : Fld) (v : Nat) : (s.addF base f v).blocks = s.blocks := rfl
@[simp] theorem State.addF_regions (s : State) (base : Nat) (f : Fld) (v : Nat) : (s.addF base f v).regions = s.regions := rfl
@[simp] theorem State.addF_net (s : State) (base : Nat) (f : Fld) (v : Nat) : (s.addF base f v).net = s.net := rfl
@[simp] theorem State.addF_mesh (s : State) (base : Nat) (f : Fld) (v : Nat) : (s.addF base f v).mesh = s.mesh := rfl
@[simp] theorem State.addF_img (s : State) (base : Nat) (f : Fld) (v : Nat) : (s.addF base f v).img = s.img := rfl
@[simp] theorem State.addF_sets (s : State) (base : Nat) (f : Fld) (v : Nat) : (s.addF base f v).sets = s.sets := rfl
@[simp] theorem State.addF_on (s : State) (base : Nat) (f : Fld) (v : Nat) : (s.addF base f v).on = s.on := rfl
@[simp] theorem State.addF_power (s : State) (base : Nat) (f : Fld) (v : Nat) : (s.addF base f v).power = s.power := rfl
@[simp] theorem State.addF_errs (s : State) (base : Nat) (f : Fld) (v : Nat) : (s.addF base f v).errs = s.errs := rfl
@[simp] theorem State.addF_pml (s : State) (base : Nat) (f : Fld) (v : Nat) : (s.addF base f v).pml = s.pml := rfl
@[simp] theorem State.addF_cad (s : State) (base : Nat) (f : Fld) (v : Nat) : (s.addF base f v).cad = s.cad := rfl
@[simp] theorem State.addF_job (s : State) (base : Nat) (f : Fld) (v : Nat) : (s.addF base f v).job = s.job := rfl
@[simp] theorem State.addF_hbmQ (s : State) (base : Nat) (f : Fld) (v : Nat) : (s.addF base f v).hbmQ = s.hbmQ := rfl
@[simp] theorem State.addF_hbmPos (s : State) (base : Nat) (f : Fld) (v : Nat) : (s.addF base f v).hbmPos = s.hbmPos := rfl
@[simp] theorem State.addF_cour (s : State) (base : Nat) (f : Fld) (v : Nat) : (s.addF base f v).cour = s.cour := rfl
@[simp] theorem State.addF_sdio (s : State) (base : Nat) (f : Fld) (v : Nat) : (s.addF base f v).sdio = s.sdio := rfl
@[simp] theorem State.addF_mail (s : State) (base : Nat) (f : Fld) (v : Nat) : (s.addF base f v).mail = s.mail := rfl
@[simp] theorem State.addF_store (s : State) (base : Nat) (f : Fld) (v : Nat) : (s.addF base f v).store = s.store := rfl
@[simp] theorem State.addF_nim (s : State) (base : Nat) (f : Fld) (v : Nat) : (s.addF base f v).nim = s.nim := rfl
@[simp] theorem State.addF_hzn (s : State) (base : Nat) (f : Fld) (v : Nat) : (s.addF base f v).hzn = s.hzn := rfl
@[simp] theorem State.addF_bist (s : State) (base : Nat) (f : Fld) (v : Nat) : (s.addF base f v).bist = s.bist := rfl
@[simp] theorem State.addF_tap (s : State) (base : Nat) (f : Fld) (v : Nat) : (s.addF base f v).tap = s.tap := rfl
@[simp] theorem State.addF_bx (s : State) (base : Nat) (f : Fld) (v : Nat) (q : Nat) : (s.addF base f v).bx q = s.bx q := rfl
@[simp] theorem State.addF_mx (s : State) (base : Nat) (f : Fld) (v : Nat) (q : Nat) : (s.addF base f v).mx q = s.mx q := rfl
@[simp] theorem State.addF_rx (s : State) (base : Nat) (f : Fld) (v : Nat) (q : Nat) : (s.addF base f v).rx q = s.rx q := rfl
@[simp] theorem State.addF_pdOn (s : State) (base : Nat) (f : Fld) (v : Nat) (q : Nat) : (s.addF base f v).pdOn q = s.pdOn q := rfl
@[simp] theorem State.addF_compOn (s : State) (base : Nat) (f : Fld) (v : Nat) (q : Nat) : (s.addF base f v).compOn q = s.compOn q := rfl
@[simp] theorem State.addF_spdOn (s : State) (base : Nat) (f : Fld) (v : Nat) (q : Nat) : (s.addF base f v).spdOn q = s.spdOn q := rfl

/-! ## flagF -/

@[simp] theorem State.flagF_pending (s : State) (base : Nat) (f : Fld) : (s.flagF base f).pending = s.pending := rfl
@[simp] theorem State.flagF_free (s : State) (base : Nat) (f : Fld) : (s.flagF base f).free = s.free := rfl
@[simp] theorem State.flagF_now (s : State) (base : Nat) (f : Fld) : (s.flagF base f).now = s.now := rfl
@[simp] theorem State.flagF_latch (s : State) (base : Nat) (f : Fld) : (s.flagF base f).latch = s.latch := rfl
@[simp] theorem State.flagF_busRead (s : State) (base : Nat) (f : Fld) : (s.flagF base f).busRead = s.busRead := rfl
@[simp] theorem State.flagF_pins (s : State) (base : Nat) (f : Fld) : (s.flagF base f).pins = s.pins := rfl
@[simp] theorem State.flagF_chip (s : State) (base : Nat) (f : Fld) : (s.flagF base f).chip = s.chip := rfl
@[simp] theorem State.flagF_mem (s : State) (base : Nat) (f : Fld) : (s.flagF base f).mem = s.mem := rfl
@[simp] theorem State.flagF_flips (s : State) (base : Nat) (f : Fld) : (s.flagF base f).flips = s.flips := rfl
@[simp] theorem State.flagF_macros (s : State) (base : Nat) (f : Fld) : (s.flagF base f).macros = s.macros := rfl
@[simp] theorem State.flagF_blocks (s : State) (base : Nat) (f : Fld) : (s.flagF base f).blocks = s.blocks := rfl
@[simp] theorem State.flagF_regions (s : State) (base : Nat) (f : Fld) : (s.flagF base f).regions = s.regions := rfl
@[simp] theorem State.flagF_net (s : State) (base : Nat) (f : Fld) : (s.flagF base f).net = s.net := rfl
@[simp] theorem State.flagF_mesh (s : State) (base : Nat) (f : Fld) : (s.flagF base f).mesh = s.mesh := rfl
@[simp] theorem State.flagF_img (s : State) (base : Nat) (f : Fld) : (s.flagF base f).img = s.img := rfl
@[simp] theorem State.flagF_sets (s : State) (base : Nat) (f : Fld) : (s.flagF base f).sets = s.sets := rfl
@[simp] theorem State.flagF_on (s : State) (base : Nat) (f : Fld) : (s.flagF base f).on = s.on := rfl
@[simp] theorem State.flagF_power (s : State) (base : Nat) (f : Fld) : (s.flagF base f).power = s.power := rfl
@[simp] theorem State.flagF_errs (s : State) (base : Nat) (f : Fld) : (s.flagF base f).errs = s.errs := rfl
@[simp] theorem State.flagF_pml (s : State) (base : Nat) (f : Fld) : (s.flagF base f).pml = s.pml := rfl
@[simp] theorem State.flagF_cad (s : State) (base : Nat) (f : Fld) : (s.flagF base f).cad = s.cad := rfl
@[simp] theorem State.flagF_job (s : State) (base : Nat) (f : Fld) : (s.flagF base f).job = s.job := rfl
@[simp] theorem State.flagF_hbmQ (s : State) (base : Nat) (f : Fld) : (s.flagF base f).hbmQ = s.hbmQ := rfl
@[simp] theorem State.flagF_hbmPos (s : State) (base : Nat) (f : Fld) : (s.flagF base f).hbmPos = s.hbmPos := rfl
@[simp] theorem State.flagF_cour (s : State) (base : Nat) (f : Fld) : (s.flagF base f).cour = s.cour := rfl
@[simp] theorem State.flagF_sdio (s : State) (base : Nat) (f : Fld) : (s.flagF base f).sdio = s.sdio := rfl
@[simp] theorem State.flagF_mail (s : State) (base : Nat) (f : Fld) : (s.flagF base f).mail = s.mail := rfl
@[simp] theorem State.flagF_store (s : State) (base : Nat) (f : Fld) : (s.flagF base f).store = s.store := rfl
@[simp] theorem State.flagF_nim (s : State) (base : Nat) (f : Fld) : (s.flagF base f).nim = s.nim := rfl
@[simp] theorem State.flagF_hzn (s : State) (base : Nat) (f : Fld) : (s.flagF base f).hzn = s.hzn := rfl
@[simp] theorem State.flagF_bist (s : State) (base : Nat) (f : Fld) : (s.flagF base f).bist = s.bist := rfl
@[simp] theorem State.flagF_tap (s : State) (base : Nat) (f : Fld) : (s.flagF base f).tap = s.tap := rfl
@[simp] theorem State.flagF_bx (s : State) (base : Nat) (f : Fld) (q : Nat) : (s.flagF base f).bx q = s.bx q := rfl
@[simp] theorem State.flagF_mx (s : State) (base : Nat) (f : Fld) (q : Nat) : (s.flagF base f).mx q = s.mx q := rfl
@[simp] theorem State.flagF_rx (s : State) (base : Nat) (f : Fld) (q : Nat) : (s.flagF base f).rx q = s.rx q := rfl
@[simp] theorem State.flagF_pdOn (s : State) (base : Nat) (f : Fld) (q : Nat) : (s.flagF base f).pdOn q = s.pdOn q := rfl
@[simp] theorem State.flagF_compOn (s : State) (base : Nat) (f : Fld) (q : Nat) : (s.flagF base f).compOn q = s.compOn q := rfl
@[simp] theorem State.flagF_spdOn (s : State) (base : Nat) (f : Fld) (q : Nat) : (s.flagF base f).spdOn q = s.spdOn q := rfl

/-! ## setBx -/

@[simp] theorem State.setBx_pending (s : State) (b : Nat) (x : BlockX) : (s.setBx b x).pending = s.pending := rfl
@[simp] theorem State.setBx_free (s : State) (b : Nat) (x : BlockX) : (s.setBx b x).free = s.free := rfl
@[simp] theorem State.setBx_now (s : State) (b : Nat) (x : BlockX) : (s.setBx b x).now = s.now := rfl
@[simp] theorem State.setBx_regs (s : State) (b : Nat) (x : BlockX) : (s.setBx b x).regs = s.regs := rfl
@[simp] theorem State.setBx_latch (s : State) (b : Nat) (x : BlockX) : (s.setBx b x).latch = s.latch := rfl
@[simp] theorem State.setBx_busRead (s : State) (b : Nat) (x : BlockX) : (s.setBx b x).busRead = s.busRead := rfl
@[simp] theorem State.setBx_pins (s : State) (b : Nat) (x : BlockX) : (s.setBx b x).pins = s.pins := rfl
@[simp] theorem State.setBx_chip (s : State) (b : Nat) (x : BlockX) : (s.setBx b x).chip = s.chip := rfl
@[simp] theorem State.setBx_mem (s : State) (b : Nat) (x : BlockX) : (s.setBx b x).mem = s.mem := rfl
@[simp] theorem State.setBx_flips (s : State) (b : Nat) (x : BlockX) : (s.setBx b x).flips = s.flips := rfl
@[simp] theorem State.setBx_macros (s : State) (b : Nat) (x : BlockX) : (s.setBx b x).macros = s.macros := rfl
@[simp] theorem State.setBx_blocks (s : State) (b : Nat) (x : BlockX) : (s.setBx b x).blocks = SMap.set BlockX.init s.blocks b x := rfl
@[simp] theorem State.setBx_regions (s : State) (b : Nat) (x : BlockX) : (s.setBx b x).regions = s.regions := rfl
@[simp] theorem State.setBx_net (s : State) (b : Nat) (x : BlockX) : (s.setBx b x).net = s.net := rfl
@[simp] theorem State.setBx_mesh (s : State) (b : Nat) (x : BlockX) : (s.setBx b x).mesh = s.mesh := rfl
@[simp] theorem State.setBx_img (s : State) (b : Nat) (x : BlockX) : (s.setBx b x).img = s.img := rfl
@[simp] theorem State.setBx_sets (s : State) (b : Nat) (x : BlockX) : (s.setBx b x).sets = s.sets := rfl
@[simp] theorem State.setBx_on (s : State) (b : Nat) (x : BlockX) : (s.setBx b x).on = s.on := rfl
@[simp] theorem State.setBx_power (s : State) (b : Nat) (x : BlockX) : (s.setBx b x).power = s.power := rfl
@[simp] theorem State.setBx_errs (s : State) (b : Nat) (x : BlockX) : (s.setBx b x).errs = s.errs := rfl
@[simp] theorem State.setBx_pml (s : State) (b : Nat) (x : BlockX) : (s.setBx b x).pml = s.pml := rfl
@[simp] theorem State.setBx_cad (s : State) (b : Nat) (x : BlockX) : (s.setBx b x).cad = s.cad := rfl
@[simp] theorem State.setBx_job (s : State) (b : Nat) (x : BlockX) : (s.setBx b x).job = s.job := rfl
@[simp] theorem State.setBx_hbmQ (s : State) (b : Nat) (x : BlockX) : (s.setBx b x).hbmQ = s.hbmQ := rfl
@[simp] theorem State.setBx_hbmPos (s : State) (b : Nat) (x : BlockX) : (s.setBx b x).hbmPos = s.hbmPos := rfl
@[simp] theorem State.setBx_cour (s : State) (b : Nat) (x : BlockX) : (s.setBx b x).cour = s.cour := rfl
@[simp] theorem State.setBx_sdio (s : State) (b : Nat) (x : BlockX) : (s.setBx b x).sdio = s.sdio := rfl
@[simp] theorem State.setBx_mail (s : State) (b : Nat) (x : BlockX) : (s.setBx b x).mail = s.mail := rfl
@[simp] theorem State.setBx_store (s : State) (b : Nat) (x : BlockX) : (s.setBx b x).store = s.store := rfl
@[simp] theorem State.setBx_nim (s : State) (b : Nat) (x : BlockX) : (s.setBx b x).nim = s.nim := rfl
@[simp] theorem State.setBx_hzn (s : State) (b : Nat) (x : BlockX) : (s.setBx b x).hzn = s.hzn := rfl
@[simp] theorem State.setBx_bist (s : State) (b : Nat) (x : BlockX) : (s.setBx b x).bist = s.bist := rfl
@[simp] theorem State.setBx_tap (s : State) (b : Nat) (x : BlockX) : (s.setBx b x).tap = s.tap := rfl
@[simp] theorem State.setBx_reg (s : State) (b : Nat) (x : BlockX) (q : Nat) : (s.setBx b x).reg q = s.reg q := rfl
@[simp] theorem State.setBx_getF (s : State) (b : Nat) (x : BlockX) (q : Nat) (g : Fld) : (s.setBx b x).getF q g = s.getF q g := rfl
@[simp] theorem State.setBx_isF (s : State) (b : Nat) (x : BlockX) (q : Nat) (g : Fld) : (s.setBx b x).isF q g = s.isF q g := rfl
@[simp] theorem State.setBx_mx (s : State) (b : Nat) (x : BlockX) (q : Nat) : (s.setBx b x).mx q = s.mx q := rfl
@[simp] theorem State.setBx_rx (s : State) (b : Nat) (x : BlockX) (q : Nat) : (s.setBx b x).rx q = s.rx q := rfl
@[simp] theorem State.setBx_pdOn (s : State) (b : Nat) (x : BlockX) (q : Nat) : (s.setBx b x).pdOn q = s.pdOn q := rfl
@[simp] theorem State.setBx_compOn (s : State) (b : Nat) (x : BlockX) (q : Nat) : (s.setBx b x).compOn q = s.compOn q := rfl
@[simp] theorem State.setBx_spdOn (s : State) (b : Nat) (x : BlockX) (q : Nat) : (s.setBx b x).spdOn q = s.spdOn q := rfl

/-! ## setMx -/

@[simp] theorem State.setMx_pending (s : State) (m : Nat) (x : MacroX) : (s.setMx m x).pending = s.pending := rfl
@[simp] theorem State.setMx_free (s : State) (m : Nat) (x : MacroX) : (s.setMx m x).free = s.free := rfl
@[simp] theorem State.setMx_now (s : State) (m : Nat) (x : MacroX) : (s.setMx m x).now = s.now := rfl
@[simp] theorem State.setMx_regs (s : State) (m : Nat) (x : MacroX) : (s.setMx m x).regs = s.regs := rfl
@[simp] theorem State.setMx_latch (s : State) (m : Nat) (x : MacroX) : (s.setMx m x).latch = s.latch := rfl
@[simp] theorem State.setMx_busRead (s : State) (m : Nat) (x : MacroX) : (s.setMx m x).busRead = s.busRead := rfl
@[simp] theorem State.setMx_pins (s : State) (m : Nat) (x : MacroX) : (s.setMx m x).pins = s.pins := rfl
@[simp] theorem State.setMx_chip (s : State) (m : Nat) (x : MacroX) : (s.setMx m x).chip = s.chip := rfl
@[simp] theorem State.setMx_mem (s : State) (m : Nat) (x : MacroX) : (s.setMx m x).mem = s.mem := rfl
@[simp] theorem State.setMx_flips (s : State) (m : Nat) (x : MacroX) : (s.setMx m x).flips = s.flips := rfl
@[simp] theorem State.setMx_macros (s : State) (m : Nat) (x : MacroX) : (s.setMx m x).macros = SMap.set MacroX.init s.macros m x := rfl
@[simp] theorem State.setMx_blocks (s : State) (m : Nat) (x : MacroX) : (s.setMx m x).blocks = s.blocks := rfl
@[simp] theorem State.setMx_regions (s : State) (m : Nat) (x : MacroX) : (s.setMx m x).regions = s.regions := rfl
@[simp] theorem State.setMx_net (s : State) (m : Nat) (x : MacroX) : (s.setMx m x).net = s.net := rfl
@[simp] theorem State.setMx_mesh (s : State) (m : Nat) (x : MacroX) : (s.setMx m x).mesh = s.mesh := rfl
@[simp] theorem State.setMx_img (s : State) (m : Nat) (x : MacroX) : (s.setMx m x).img = s.img := rfl
@[simp] theorem State.setMx_sets (s : State) (m : Nat) (x : MacroX) : (s.setMx m x).sets = s.sets := rfl
@[simp] theorem State.setMx_on (s : State) (m : Nat) (x : MacroX) : (s.setMx m x).on = s.on := rfl
@[simp] theorem State.setMx_power (s : State) (m : Nat) (x : MacroX) : (s.setMx m x).power = s.power := rfl
@[simp] theorem State.setMx_errs (s : State) (m : Nat) (x : MacroX) : (s.setMx m x).errs = s.errs := rfl
@[simp] theorem State.setMx_pml (s : State) (m : Nat) (x : MacroX) : (s.setMx m x).pml = s.pml := rfl
@[simp] theorem State.setMx_cad (s : State) (m : Nat) (x : MacroX) : (s.setMx m x).cad = s.cad := rfl
@[simp] theorem State.setMx_job (s : State) (m : Nat) (x : MacroX) : (s.setMx m x).job = s.job := rfl
@[simp] theorem State.setMx_hbmQ (s : State) (m : Nat) (x : MacroX) : (s.setMx m x).hbmQ = s.hbmQ := rfl
@[simp] theorem State.setMx_hbmPos (s : State) (m : Nat) (x : MacroX) : (s.setMx m x).hbmPos = s.hbmPos := rfl
@[simp] theorem State.setMx_cour (s : State) (m : Nat) (x : MacroX) : (s.setMx m x).cour = s.cour := rfl
@[simp] theorem State.setMx_sdio (s : State) (m : Nat) (x : MacroX) : (s.setMx m x).sdio = s.sdio := rfl
@[simp] theorem State.setMx_mail (s : State) (m : Nat) (x : MacroX) : (s.setMx m x).mail = s.mail := rfl
@[simp] theorem State.setMx_store (s : State) (m : Nat) (x : MacroX) : (s.setMx m x).store = s.store := rfl
@[simp] theorem State.setMx_nim (s : State) (m : Nat) (x : MacroX) : (s.setMx m x).nim = s.nim := rfl
@[simp] theorem State.setMx_hzn (s : State) (m : Nat) (x : MacroX) : (s.setMx m x).hzn = s.hzn := rfl
@[simp] theorem State.setMx_bist (s : State) (m : Nat) (x : MacroX) : (s.setMx m x).bist = s.bist := rfl
@[simp] theorem State.setMx_tap (s : State) (m : Nat) (x : MacroX) : (s.setMx m x).tap = s.tap := rfl
@[simp] theorem State.setMx_reg (s : State) (m : Nat) (x : MacroX) (q : Nat) : (s.setMx m x).reg q = s.reg q := rfl
@[simp] theorem State.setMx_getF (s : State) (m : Nat) (x : MacroX) (q : Nat) (g : Fld) : (s.setMx m x).getF q g = s.getF q g := rfl
@[simp] theorem State.setMx_isF (s : State) (m : Nat) (x : MacroX) (q : Nat) (g : Fld) : (s.setMx m x).isF q g = s.isF q g := rfl
@[simp] theorem State.setMx_bx (s : State) (m : Nat) (x : MacroX) (q : Nat) : (s.setMx m x).bx q = s.bx q := rfl
@[simp] theorem State.setMx_rx (s : State) (m : Nat) (x : MacroX) (q : Nat) : (s.setMx m x).rx q = s.rx q := rfl
@[simp] theorem State.setMx_pdOn (s : State) (m : Nat) (x : MacroX) (q : Nat) : (s.setMx m x).pdOn q = s.pdOn q := rfl
@[simp] theorem State.setMx_compOn (s : State) (m : Nat) (x : MacroX) (q : Nat) : (s.setMx m x).compOn q = s.compOn q := rfl
@[simp] theorem State.setMx_spdOn (s : State) (m : Nat) (x : MacroX) (q : Nat) : (s.setMx m x).spdOn q = s.spdOn q := rfl

/-! ## setRx -/

@[simp] theorem State.setRx_pending (s : State) (r : Nat) (x : RegionX) : (s.setRx r x).pending = s.pending := rfl
@[simp] theorem State.setRx_free (s : State) (r : Nat) (x : RegionX) : (s.setRx r x).free = s.free := rfl
@[simp] theorem State.setRx_now (s : State) (r : Nat) (x : RegionX) : (s.setRx r x).now = s.now := rfl
@[simp] theorem State.setRx_regs (s : State) (r : Nat) (x : RegionX) : (s.setRx r x).regs = s.regs := rfl
@[simp] theorem State.setRx_latch (s : State) (r : Nat) (x : RegionX) : (s.setRx r x).latch = s.latch := rfl
@[simp] theorem State.setRx_busRead (s : State) (r : Nat) (x : RegionX) : (s.setRx r x).busRead = s.busRead := rfl
@[simp] theorem State.setRx_pins (s : State) (r : Nat) (x : RegionX) : (s.setRx r x).pins = s.pins := rfl
@[simp] theorem State.setRx_chip (s : State) (r : Nat) (x : RegionX) : (s.setRx r x).chip = s.chip := rfl
@[simp] theorem State.setRx_mem (s : State) (r : Nat) (x : RegionX) : (s.setRx r x).mem = s.mem := rfl
@[simp] theorem State.setRx_flips (s : State) (r : Nat) (x : RegionX) : (s.setRx r x).flips = s.flips := rfl
@[simp] theorem State.setRx_macros (s : State) (r : Nat) (x : RegionX) : (s.setRx r x).macros = s.macros := rfl
@[simp] theorem State.setRx_blocks (s : State) (r : Nat) (x : RegionX) : (s.setRx r x).blocks = s.blocks := rfl
@[simp] theorem State.setRx_regions (s : State) (r : Nat) (x : RegionX) : (s.setRx r x).regions = SMap.set RegionX.init s.regions r x := rfl
@[simp] theorem State.setRx_net (s : State) (r : Nat) (x : RegionX) : (s.setRx r x).net = s.net := rfl
@[simp] theorem State.setRx_mesh (s : State) (r : Nat) (x : RegionX) : (s.setRx r x).mesh = s.mesh := rfl
@[simp] theorem State.setRx_img (s : State) (r : Nat) (x : RegionX) : (s.setRx r x).img = s.img := rfl
@[simp] theorem State.setRx_sets (s : State) (r : Nat) (x : RegionX) : (s.setRx r x).sets = s.sets := rfl
@[simp] theorem State.setRx_on (s : State) (r : Nat) (x : RegionX) : (s.setRx r x).on = s.on := rfl
@[simp] theorem State.setRx_power (s : State) (r : Nat) (x : RegionX) : (s.setRx r x).power = s.power := rfl
@[simp] theorem State.setRx_errs (s : State) (r : Nat) (x : RegionX) : (s.setRx r x).errs = s.errs := rfl
@[simp] theorem State.setRx_pml (s : State) (r : Nat) (x : RegionX) : (s.setRx r x).pml = s.pml := rfl
@[simp] theorem State.setRx_cad (s : State) (r : Nat) (x : RegionX) : (s.setRx r x).cad = s.cad := rfl
@[simp] theorem State.setRx_job (s : State) (r : Nat) (x : RegionX) : (s.setRx r x).job = s.job := rfl
@[simp] theorem State.setRx_hbmQ (s : State) (r : Nat) (x : RegionX) : (s.setRx r x).hbmQ = s.hbmQ := rfl
@[simp] theorem State.setRx_hbmPos (s : State) (r : Nat) (x : RegionX) : (s.setRx r x).hbmPos = s.hbmPos := rfl
@[simp] theorem State.setRx_cour (s : State) (r : Nat) (x : RegionX) : (s.setRx r x).cour = s.cour := rfl
@[simp] theorem State.setRx_sdio (s : State) (r : Nat) (x : RegionX) : (s.setRx r x).sdio = s.sdio := rfl
@[simp] theorem State.setRx_mail (s : State) (r : Nat) (x : RegionX) : (s.setRx r x).mail = s.mail := rfl
@[simp] theorem State.setRx_store (s : State) (r : Nat) (x : RegionX) : (s.setRx r x).store = s.store := rfl
@[simp] theorem State.setRx_nim (s : State) (r : Nat) (x : RegionX) : (s.setRx r x).nim = s.nim := rfl
@[simp] theorem State.setRx_hzn (s : State) (r : Nat) (x : RegionX) : (s.setRx r x).hzn = s.hzn := rfl
@[simp] theorem State.setRx_bist (s : State) (r : Nat) (x : RegionX) : (s.setRx r x).bist = s.bist := rfl
@[simp] theorem State.setRx_tap (s : State) (r : Nat) (x : RegionX) : (s.setRx r x).tap = s.tap := rfl
@[simp] theorem State.setRx_reg (s : State) (r : Nat) (x : RegionX) (q : Nat) : (s.setRx r x).reg q = s.reg q := rfl
@[simp] theorem State.setRx_getF (s : State) (r : Nat) (x : RegionX) (q : Nat) (g : Fld) : (s.setRx r x).getF q g = s.getF q g := rfl
@[simp] theorem State.setRx_isF (s : State) (r : Nat) (x : RegionX) (q : Nat) (g : Fld) : (s.setRx r x).isF q g = s.isF q g := rfl
@[simp] theorem State.setRx_bx (s : State) (r : Nat) (x : RegionX) (q : Nat) : (s.setRx r x).bx q = s.bx q := rfl
@[simp] theorem State.setRx_mx (s : State) (r : Nat) (x : RegionX) (q : Nat) : (s.setRx r x).mx q = s.mx q := rfl
@[simp] theorem State.setRx_pdOn (s : State) (r : Nat) (x : RegionX) (q : Nat) : (s.setRx r x).pdOn q = s.pdOn q := rfl
@[simp] theorem State.setRx_compOn (s : State) (r : Nat) (x : RegionX) (q : Nat) : (s.setRx r x).compOn q = s.compOn q := rfl
@[simp] theorem State.setRx_spdOn (s : State) (r : Nat) (x : RegionX) (q : Nat) : (s.setRx r x).spdOn q = s.spdOn q := rfl

/-! ## setCtx -/

@[simp] theorem State.setCtx_pending (s : State) (b c : Nat) (x : Ctx) : (s.setCtx b c x).pending = s.pending := rfl
@[simp] theorem State.setCtx_free (s : State) (b c : Nat) (x : Ctx) : (s.setCtx b c x).free = s.free := rfl
@[simp] theorem State.setCtx_now (s : State) (b c : Nat) (x : Ctx) : (s.setCtx b c x).now = s.now := rfl
@[simp] theorem State.setCtx_regs (s : State) (b c : Nat) (x : Ctx) : (s.setCtx b c x).regs = s.regs := rfl
@[simp] theorem State.setCtx_latch (s : State) (b c : Nat) (x : Ctx) : (s.setCtx b c x).latch = s.latch := rfl
@[simp] theorem State.setCtx_busRead (s : State) (b c : Nat) (x : Ctx) : (s.setCtx b c x).busRead = s.busRead := rfl
@[simp] theorem State.setCtx_pins (s : State) (b c : Nat) (x : Ctx) : (s.setCtx b c x).pins = s.pins := rfl
@[simp] theorem State.setCtx_chip (s : State) (b c : Nat) (x : Ctx) : (s.setCtx b c x).chip = s.chip := rfl
@[simp] theorem State.setCtx_mem (s : State) (b c : Nat) (x : Ctx) : (s.setCtx b c x).mem = s.mem := rfl
@[simp] theorem State.setCtx_flips (s : State) (b c : Nat) (x : Ctx) : (s.setCtx b c x).flips = s.flips := rfl
@[simp] theorem State.setCtx_macros (s : State) (b c : Nat) (x : Ctx) : (s.setCtx b c x).macros = s.macros := rfl
@[simp] theorem State.setCtx_regions (s : State) (b c : Nat) (x : Ctx) : (s.setCtx b c x).regions = s.regions := rfl
@[simp] theorem State.setCtx_net (s : State) (b c : Nat) (x : Ctx) : (s.setCtx b c x).net = s.net := rfl
@[simp] theorem State.setCtx_mesh (s : State) (b c : Nat) (x : Ctx) : (s.setCtx b c x).mesh = s.mesh := rfl
@[simp] theorem State.setCtx_img (s : State) (b c : Nat) (x : Ctx) : (s.setCtx b c x).img = s.img := rfl
@[simp] theorem State.setCtx_sets (s : State) (b c : Nat) (x : Ctx) : (s.setCtx b c x).sets = s.sets := rfl
@[simp] theorem State.setCtx_on (s : State) (b c : Nat) (x : Ctx) : (s.setCtx b c x).on = s.on := rfl
@[simp] theorem State.setCtx_power (s : State) (b c : Nat) (x : Ctx) : (s.setCtx b c x).power = s.power := rfl
@[simp] theorem State.setCtx_errs (s : State) (b c : Nat) (x : Ctx) : (s.setCtx b c x).errs = s.errs := rfl
@[simp] theorem State.setCtx_pml (s : State) (b c : Nat) (x : Ctx) : (s.setCtx b c x).pml = s.pml := rfl
@[simp] theorem State.setCtx_cad (s : State) (b c : Nat) (x : Ctx) : (s.setCtx b c x).cad = s.cad := rfl
@[simp] theorem State.setCtx_job (s : State) (b c : Nat) (x : Ctx) : (s.setCtx b c x).job = s.job := rfl
@[simp] theorem State.setCtx_hbmQ (s : State) (b c : Nat) (x : Ctx) : (s.setCtx b c x).hbmQ = s.hbmQ := rfl
@[simp] theorem State.setCtx_hbmPos (s : State) (b c : Nat) (x : Ctx) : (s.setCtx b c x).hbmPos = s.hbmPos := rfl
@[simp] theorem State.setCtx_cour (s : State) (b c : Nat) (x : Ctx) : (s.setCtx b c x).cour = s.cour := rfl
@[simp] theorem State.setCtx_sdio (s : State) (b c : Nat) (x : Ctx) : (s.setCtx b c x).sdio = s.sdio := rfl
@[simp] theorem State.setCtx_mail (s : State) (b c : Nat) (x : Ctx) : (s.setCtx b c x).mail = s.mail := rfl
@[simp] theorem State.setCtx_store (s : State) (b c : Nat) (x : Ctx) : (s.setCtx b c x).store = s.store := rfl
@[simp] theorem State.setCtx_nim (s : State) (b c : Nat) (x : Ctx) : (s.setCtx b c x).nim = s.nim := rfl
@[simp] theorem State.setCtx_hzn (s : State) (b c : Nat) (x : Ctx) : (s.setCtx b c x).hzn = s.hzn := rfl
@[simp] theorem State.setCtx_bist (s : State) (b c : Nat) (x : Ctx) : (s.setCtx b c x).bist = s.bist := rfl
@[simp] theorem State.setCtx_tap (s : State) (b c : Nat) (x : Ctx) : (s.setCtx b c x).tap = s.tap := rfl
@[simp] theorem State.setCtx_reg (s : State) (b c : Nat) (x : Ctx) (q : Nat) : (s.setCtx b c x).reg q = s.reg q := rfl
@[simp] theorem State.setCtx_getF (s : State) (b c : Nat) (x : Ctx) (q : Nat) (g : Fld) : (s.setCtx b c x).getF q g = s.getF q g := rfl
@[simp] theorem State.setCtx_isF (s : State) (b c : Nat) (x : Ctx) (q : Nat) (g : Fld) : (s.setCtx b c x).isF q g = s.isF q g := rfl
@[simp] theorem State.setCtx_mx (s : State) (b c : Nat) (x : Ctx) (q : Nat) : (s.setCtx b c x).mx q = s.mx q := rfl
@[simp] theorem State.setCtx_rx (s : State) (b c : Nat) (x : Ctx) (q : Nat) : (s.setCtx b c x).rx q = s.rx q := rfl
@[simp] theorem State.setCtx_pdOn (s : State) (b c : Nat) (x : Ctx) (q : Nat) : (s.setCtx b c x).pdOn q = s.pdOn q := rfl
@[simp] theorem State.setCtx_compOn (s : State) (b c : Nat) (x : Ctx) (q : Nat) : (s.setCtx b c x).compOn q = s.compOn q := rfl
@[simp] theorem State.setCtx_spdOn (s : State) (b c : Nat) (x : Ctx) (q : Nat) : (s.setCtx b c x).spdOn q = s.spdOn q := rfl

/-! ## modIssue -/

@[simp] theorem State.modIssue_pending (s : State) (b id : Nat) (f : Issue → Issue) : (s.modIssue b id f).pending = s.pending := rfl
@[simp] theorem State.modIssue_free (s : State) (b id : Nat) (f : Issue → Issue) : (s.modIssue b id f).free = s.free := rfl
@[simp] theorem State.modIssue_now (s : State) (b id : Nat) (f : Issue → Issue) : (s.modIssue b id f).now = s.now := rfl
@[simp] theorem State.modIssue_regs (s : State) (b id : Nat) (f : Issue → Issue) : (s.modIssue b id f).regs = s.regs := rfl
@[simp] theorem State.modIssue_latch (s : State) (b id : Nat) (f : Issue → Issue) : (s.modIssue b id f).latch = s.latch := rfl
@[simp] theorem State.modIssue_busRead (s : State) (b id : Nat) (f : Issue → Issue) : (s.modIssue b id f).busRead = s.busRead := rfl
@[simp] theorem State.modIssue_pins (s : State) (b id : Nat) (f : Issue → Issue) : (s.modIssue b id f).pins = s.pins := rfl
@[simp] theorem State.modIssue_chip (s : State) (b id : Nat) (f : Issue → Issue) : (s.modIssue b id f).chip = s.chip := rfl
@[simp] theorem State.modIssue_mem (s : State) (b id : Nat) (f : Issue → Issue) : (s.modIssue b id f).mem = s.mem := rfl
@[simp] theorem State.modIssue_flips (s : State) (b id : Nat) (f : Issue → Issue) : (s.modIssue b id f).flips = s.flips := rfl
@[simp] theorem State.modIssue_macros (s : State) (b id : Nat) (f : Issue → Issue) : (s.modIssue b id f).macros = s.macros := rfl
@[simp] theorem State.modIssue_regions (s : State) (b id : Nat) (f : Issue → Issue) : (s.modIssue b id f).regions = s.regions := rfl
@[simp] theorem State.modIssue_net (s : State) (b id : Nat) (f : Issue → Issue) : (s.modIssue b id f).net = s.net := rfl
@[simp] theorem State.modIssue_mesh (s : State) (b id : Nat) (f : Issue → Issue) : (s.modIssue b id f).mesh = s.mesh := rfl
@[simp] theorem State.modIssue_img (s : State) (b id : Nat) (f : Issue → Issue) : (s.modIssue b id f).img = s.img := rfl
@[simp] theorem State.modIssue_sets (s : State) (b id : Nat) (f : Issue → Issue) : (s.modIssue b id f).sets = s.sets := rfl
@[simp] theorem State.modIssue_on (s : State) (b id : Nat) (f : Issue → Issue) : (s.modIssue b id f).on = s.on := rfl
@[simp] theorem State.modIssue_power (s : State) (b id : Nat) (f : Issue → Issue) : (s.modIssue b id f).power = s.power := rfl
@[simp] theorem State.modIssue_errs (s : State) (b id : Nat) (f : Issue → Issue) : (s.modIssue b id f).errs = s.errs := rfl
@[simp] theorem State.modIssue_pml (s : State) (b id : Nat) (f : Issue → Issue) : (s.modIssue b id f).pml = s.pml := rfl
@[simp] theorem State.modIssue_cad (s : State) (b id : Nat) (f : Issue → Issue) : (s.modIssue b id f).cad = s.cad := rfl
@[simp] theorem State.modIssue_job (s : State) (b id : Nat) (f : Issue → Issue) : (s.modIssue b id f).job = s.job := rfl
@[simp] theorem State.modIssue_hbmQ (s : State) (b id : Nat) (f : Issue → Issue) : (s.modIssue b id f).hbmQ = s.hbmQ := rfl
@[simp] theorem State.modIssue_hbmPos (s : State) (b id : Nat) (f : Issue → Issue) : (s.modIssue b id f).hbmPos = s.hbmPos := rfl
@[simp] theorem State.modIssue_cour (s : State) (b id : Nat) (f : Issue → Issue) : (s.modIssue b id f).cour = s.cour := rfl
@[simp] theorem State.modIssue_sdio (s : State) (b id : Nat) (f : Issue → Issue) : (s.modIssue b id f).sdio = s.sdio := rfl
@[simp] theorem State.modIssue_mail (s : State) (b id : Nat) (f : Issue → Issue) : (s.modIssue b id f).mail = s.mail := rfl
@[simp] theorem State.modIssue_store (s : State) (b id : Nat) (f : Issue → Issue) : (s.modIssue b id f).store = s.store := rfl
@[simp] theorem State.modIssue_nim (s : State) (b id : Nat) (f : Issue → Issue) : (s.modIssue b id f).nim = s.nim := rfl
@[simp] theorem State.modIssue_hzn (s : State) (b id : Nat) (f : Issue → Issue) : (s.modIssue b id f).hzn = s.hzn := rfl
@[simp] theorem State.modIssue_bist (s : State) (b id : Nat) (f : Issue → Issue) : (s.modIssue b id f).bist = s.bist := rfl
@[simp] theorem State.modIssue_tap (s : State) (b id : Nat) (f : Issue → Issue) : (s.modIssue b id f).tap = s.tap := rfl
@[simp] theorem State.modIssue_reg (s : State) (b id : Nat) (f : Issue → Issue) (q : Nat) : (s.modIssue b id f).reg q = s.reg q := rfl
@[simp] theorem State.modIssue_getF (s : State) (b id : Nat) (f : Issue → Issue) (q : Nat) (g : Fld) : (s.modIssue b id f).getF q g = s.getF q g := rfl
@[simp] theorem State.modIssue_isF (s : State) (b id : Nat) (f : Issue → Issue) (q : Nat) (g : Fld) : (s.modIssue b id f).isF q g = s.isF q g := rfl
@[simp] theorem State.modIssue_mx (s : State) (b id : Nat) (f : Issue → Issue) (q : Nat) : (s.modIssue b id f).mx q = s.mx q := rfl
@[simp] theorem State.modIssue_rx (s : State) (b id : Nat) (f : Issue → Issue) (q : Nat) : (s.modIssue b id f).rx q = s.rx q := rfl
@[simp] theorem State.modIssue_pdOn (s : State) (b id : Nat) (f : Issue → Issue) (q : Nat) : (s.modIssue b id f).pdOn q = s.pdOn q := rfl
@[simp] theorem State.modIssue_compOn (s : State) (b id : Nat) (f : Issue → Issue) (q : Nat) : (s.modIssue b id f).compOn q = s.compOn q := rfl
@[simp] theorem State.modIssue_spdOn (s : State) (b id : Nat) (f : Issue → Issue) (q : Nat) : (s.modIssue b id f).spdOn q = s.spdOn q := rfl

/-! ## dropMsg -/

theorem dropAt_of_none {α : Type} (l : List α) (k : Nat) (h : l[k]? = none) : dropAt l k = l := by
  induction l generalizing k with
  | nil => rfl
  | cons x r ih =>
    cases k with
    | zero => simp at h
    | succ k => exact congrArg (x :: ·) (ih k (by simpa using h))

@[simp] theorem State.dropMsg_pending (s : State) (k : Nat) : (s.dropMsg k).pending = s.pending := by
  unfold State.dropMsg; split <;> rfl
@[simp] theorem State.dropMsg_free (s : State) (k : Nat) : (s.dropMsg k).free = s.free := by
  unfold State.dropMsg; split <;> rfl
@[simp] theorem State.dropMsg_now (s : State) (k : Nat) : (s.dropMsg k).now = s.now := by
  unfold State.dropMsg; split <;> rfl
@[simp] theorem State.dropMsg_regs (s : State) (k : Nat) : (s.dropMsg k).regs = s.regs := by
  unfold State.dropMsg; split <;> rfl
@[simp] theorem State.dropMsg_latch (s : State) (k : Nat) : (s.dropMsg k).latch = s.latch := by
  unfold State.dropMsg; split <;> rfl
@[simp] theorem State.dropMsg_busRead (s : State) (k : Nat) : (s.dropMsg k).busRead = s.busRead := by
  unfold State.dropMsg; split <;> rfl
@[simp] theorem State.dropMsg_pins (s : State) (k : Nat) : (s.dropMsg k).pins = s.pins := by
  unfold State.dropMsg; split <;> rfl
@[simp] theorem State.dropMsg_chip (s : State) (k : Nat) : (s.dropMsg k).chip = s.chip := by
  unfold State.dropMsg; split <;> rfl
@[simp] theorem State.dropMsg_mem (s : State) (k : Nat) : (s.dropMsg k).mem = s.mem := by
  unfold State.dropMsg; split <;> rfl
@[simp] theorem State.dropMsg_flips (s : State) (k : Nat) : (s.dropMsg k).flips = s.flips := by
  unfold State.dropMsg; split <;> rfl
@[simp] theorem State.dropMsg_macros (s : State) (k : Nat) : (s.dropMsg k).macros = s.macros := by
  unfold State.dropMsg; split <;> rfl
@[simp] theorem State.dropMsg_blocks (s : State) (k : Nat) : (s.dropMsg k).blocks = s.blocks := by
  unfold State.dropMsg; split <;> rfl
@[simp] theorem State.dropMsg_regions (s : State) (k : Nat) : (s.dropMsg k).regions = s.regions := by
  unfold State.dropMsg; split <;> rfl
@[simp] theorem State.dropMsg_net (s : State) (k : Nat) : (s.dropMsg k).net = dropAt s.net k := by
  unfold State.dropMsg
  split
  · rfl
  · rename_i h
    exact (dropAt_of_none _ _ h).symm
@[simp] theorem State.dropMsg_img (s : State) (k : Nat) : (s.dropMsg k).img = s.img := by
  unfold State.dropMsg; split <;> rfl
@[simp] theorem State.dropMsg_sets (s : State) (k : Nat) : (s.dropMsg k).sets = s.sets := by
  unfold State.dropMsg; split <;> rfl
@[simp] theorem State.dropMsg_on (s : State) (k : Nat) : (s.dropMsg k).on = s.on := by
  unfold State.dropMsg; split <;> rfl
@[simp] theorem State.dropMsg_power (s : State) (k : Nat) : (s.dropMsg k).power = s.power := by
  unfold State.dropMsg; split <;> rfl
@[simp] theorem State.dropMsg_errs (s : State) (k : Nat) : (s.dropMsg k).errs = s.errs := by
  unfold State.dropMsg; split <;> rfl
@[simp] theorem State.dropMsg_pml (s : State) (k : Nat) : (s.dropMsg k).pml = s.pml := by
  unfold State.dropMsg; split <;> rfl
@[simp] theorem State.dropMsg_cad (s : State) (k : Nat) : (s.dropMsg k).cad = s.cad := by
  unfold State.dropMsg; split <;> rfl
@[simp] theorem State.dropMsg_job (s : State) (k : Nat) : (s.dropMsg k).job = s.job := by
  unfold State.dropMsg; split <;> rfl
@[simp] theorem State.dropMsg_hbmQ (s : State) (k : Nat) : (s.dropMsg k).hbmQ = s.hbmQ := by
  unfold State.dropMsg; split <;> rfl
@[simp] theorem State.dropMsg_hbmPos (s : State) (k : Nat) : (s.dropMsg k).hbmPos = s.hbmPos := by
  unfold State.dropMsg; split <;> rfl
@[simp] theorem State.dropMsg_cour (s : State) (k : Nat) : (s.dropMsg k).cour = s.cour := by
  unfold State.dropMsg; split <;> rfl
@[simp] theorem State.dropMsg_sdio (s : State) (k : Nat) : (s.dropMsg k).sdio = s.sdio := by
  unfold State.dropMsg; split <;> rfl
@[simp] theorem State.dropMsg_mail (s : State) (k : Nat) : (s.dropMsg k).mail = s.mail := by
  unfold State.dropMsg; split <;> rfl
@[simp] theorem State.dropMsg_store (s : State) (k : Nat) : (s.dropMsg k).store = s.store := by
  unfold State.dropMsg; split <;> rfl
@[simp] theorem State.dropMsg_nim (s : State) (k : Nat) : (s.dropMsg k).nim = s.nim := by
  unfold State.dropMsg; split <;> rfl
@[simp] theorem State.dropMsg_hzn (s : State) (k : Nat) : (s.dropMsg k).hzn = s.hzn := by
  unfold State.dropMsg; split <;> rfl
@[simp] theorem State.dropMsg_bist (s : State) (k : Nat) : (s.dropMsg k).bist = s.bist := by
  unfold State.dropMsg; split <;> rfl
@[simp] theorem State.dropMsg_tap (s : State) (k : Nat) : (s.dropMsg k).tap = s.tap := by
  unfold State.dropMsg; split <;> rfl
@[simp] theorem State.dropMsg_reg (s : State) (k : Nat) (q : Nat) : (s.dropMsg k).reg q = s.reg q := by
  unfold State.dropMsg; split <;> rfl
@[simp] theorem State.dropMsg_getF (s : State) (k : Nat) (q : Nat) (g : Fld) : (s.dropMsg k).getF q g = s.getF q g := by
  unfold State.dropMsg; split <;> rfl
@[simp] theorem State.dropMsg_isF (s : State) (k : Nat) (q : Nat) (g : Fld) : (s.dropMsg k).isF q g = s.isF q g := by
  unfold State.dropMsg; split <;> rfl
@[simp] theorem State.dropMsg_bx (s : State) (k : Nat) (q : Nat) : (s.dropMsg k).bx q = s.bx q := by
  unfold State.dropMsg; split <;> rfl
@[simp] theorem State.dropMsg_mx (s : State) (k : Nat) (q : Nat) : (s.dropMsg k).mx q = s.mx q := by
  unfold State.dropMsg; split <;> rfl
@[simp] theorem State.dropMsg_rx (s : State) (k : Nat) (q : Nat) : (s.dropMsg k).rx q = s.rx q := by
  unfold State.dropMsg; split <;> rfl
@[simp] theorem State.dropMsg_pdOn (s : State) (k : Nat) (q : Nat) : (s.dropMsg k).pdOn q = s.pdOn q := by
  unfold State.dropMsg; split <;> rfl
@[simp] theorem State.dropMsg_compOn (s : State) (k : Nat) (q : Nat) : (s.dropMsg k).compOn q = s.compOn q := by
  unfold State.dropMsg; split <;> rfl
@[simp] theorem State.dropMsg_spdOn (s : State) (k : Nat) (q : Nat) : (s.dropMsg k).spdOn q = s.spdOn q := by
  unfold State.dropMsg; split <;> rfl

/-! ## send -/

@[simp] theorem State.send_pending (s : State) (src dst blk : Nat) (m : Body) : (s.send src dst blk m).pending = s.pending := by
  unfold State.send; dsimp only; split <;> (try split) <;> rfl
@[simp] theorem State.send_free (s : State) (src dst blk : Nat) (m : Body) : (s.send src dst blk m).free = s.free := by
  unfold State.send; dsimp only; split <;> (try split) <;> rfl
@[simp] theorem State.send_now (s : State) (src dst blk : Nat) (m : Body) : (s.send src dst blk m).now = s.now := by
  unfold State.send; dsimp only; split <;> (try split) <;> rfl
@[simp] theorem State.send_regs (s : State) (src dst blk : Nat) (m : Body) : (s.send src dst blk m).regs = s.regs := by
  unfold State.send; dsimp only; split <;> (try split) <;> rfl
@[simp] theorem State.send_latch (s : State) (src dst blk : Nat) (m : Body) : (s.send src dst blk m).latch = s.latch := by
  unfold State.send; dsimp only; split <;> (try split) <;> rfl
@[simp] theorem State.send_busRead (s : State) (src dst blk : Nat) (m : Body) : (s.send src dst blk m).busRead = s.busRead := by
  unfold State.send; dsimp only; split <;> (try split) <;> rfl
@[simp] theorem State.send_pins (s : State) (src dst blk : Nat) (m : Body) : (s.send src dst blk m).pins = s.pins := by
  unfold State.send; dsimp only; split <;> (try split) <;> rfl
@[simp] theorem State.send_chip (s : State) (src dst blk : Nat) (m : Body) : (s.send src dst blk m).chip = s.chip := by
  unfold State.send; dsimp only; split <;> (try split) <;> rfl
@[simp] theorem State.send_mem (s : State) (src dst blk : Nat) (m : Body) : (s.send src dst blk m).mem = s.mem := by
  unfold State.send; dsimp only; split <;> (try split) <;> rfl
@[simp] theorem State.send_flips (s : State) (src dst blk : Nat) (m : Body) : (s.send src dst blk m).flips = s.flips := by
  unfold State.send; dsimp only; split <;> (try split) <;> rfl
@[simp] theorem State.send_macros (s : State) (src dst blk : Nat) (m : Body) : (s.send src dst blk m).macros = s.macros := by
  unfold State.send; dsimp only; split <;> (try split) <;> rfl
@[simp] theorem State.send_blocks (s : State) (src dst blk : Nat) (m : Body) : (s.send src dst blk m).blocks = s.blocks := by
  unfold State.send; dsimp only; split <;> (try split) <;> rfl
@[simp] theorem State.send_regions (s : State) (src dst blk : Nat) (m : Body) : (s.send src dst blk m).regions = s.regions := by
  unfold State.send; dsimp only; split <;> (try split) <;> rfl
/-- A message whose way uses no isolated link waits behind those in flight. -/
theorem State.send_net (s : State) (src dst blk : Nat) (m : Body) (h : s.cutRoute src dst = false) :
    (s.send src dst blk m).net = s.net ++ [⟨src, dst, blk, m⟩] := by
  simp [State.send, h, State.countFlits]
/-- One whose path does is answered, where it asks for an answer (R316). -/
theorem State.send_net_cut (s : State) (src dst blk : Nat) (m : Body) (h : s.cutRoute src dst = true) :
    (s.send src dst blk m).net = s.net ++ (cutAnswer ⟨src, dst, blk, m⟩).toList := by
  simp only [State.send, h, if_true]; split <;> simp [State.countFlits]
@[simp] theorem State.send_tries (s : State) (src dst blk : Nat) (m : Body) : (s.send src dst blk m).mesh.tries = s.mesh.tries := by
  unfold State.send; dsimp only; split <;> (try split) <;> rfl
@[simp] theorem State.send_img (s : State) (src dst blk : Nat) (m : Body) : (s.send src dst blk m).img = s.img := by
  unfold State.send; dsimp only; split <;> (try split) <;> rfl
@[simp] theorem State.send_sets (s : State) (src dst blk : Nat) (m : Body) : (s.send src dst blk m).sets = s.sets := by
  unfold State.send; dsimp only; split <;> (try split) <;> rfl
@[simp] theorem State.send_on (s : State) (src dst blk : Nat) (m : Body) : (s.send src dst blk m).on = s.on := by
  unfold State.send; dsimp only; split <;> (try split) <;> rfl
@[simp] theorem State.send_power (s : State) (src dst blk : Nat) (m : Body) : (s.send src dst blk m).power = s.power := by
  unfold State.send; dsimp only; split <;> (try split) <;> rfl
@[simp] theorem State.send_errs (s : State) (src dst blk : Nat) (m : Body) : (s.send src dst blk m).errs = s.errs := by
  unfold State.send; dsimp only; split <;> (try split) <;> rfl
@[simp] theorem State.send_pml (s : State) (src dst blk : Nat) (m : Body) : (s.send src dst blk m).pml = s.pml := by
  unfold State.send; dsimp only; split <;> (try split) <;> rfl
@[simp] theorem State.send_cad (s : State) (src dst blk : Nat) (m : Body) : (s.send src dst blk m).cad = s.cad := by
  unfold State.send; dsimp only; split <;> (try split) <;> rfl
@[simp] theorem State.send_job (s : State) (src dst blk : Nat) (m : Body) : (s.send src dst blk m).job = s.job := by
  unfold State.send; dsimp only; split <;> (try split) <;> rfl
@[simp] theorem State.send_hbmQ (s : State) (src dst blk : Nat) (m : Body) : (s.send src dst blk m).hbmQ = s.hbmQ := by
  unfold State.send; dsimp only; split <;> (try split) <;> rfl
@[simp] theorem State.send_hbmPos (s : State) (src dst blk : Nat) (m : Body) : (s.send src dst blk m).hbmPos = s.hbmPos := by
  unfold State.send; dsimp only; split <;> (try split) <;> rfl
@[simp] theorem State.send_cour (s : State) (src dst blk : Nat) (m : Body) : (s.send src dst blk m).cour = s.cour := by
  unfold State.send; dsimp only; split <;> (try split) <;> rfl
@[simp] theorem State.send_sdio (s : State) (src dst blk : Nat) (m : Body) : (s.send src dst blk m).sdio = s.sdio := by
  unfold State.send; dsimp only; split <;> (try split) <;> rfl
@[simp] theorem State.send_mail (s : State) (src dst blk : Nat) (m : Body) : (s.send src dst blk m).mail = s.mail := by
  unfold State.send; dsimp only; split <;> (try split) <;> rfl
@[simp] theorem State.send_store (s : State) (src dst blk : Nat) (m : Body) : (s.send src dst blk m).store = s.store := by
  unfold State.send; dsimp only; split <;> (try split) <;> rfl
@[simp] theorem State.send_nim (s : State) (src dst blk : Nat) (m : Body) : (s.send src dst blk m).nim = s.nim := by
  unfold State.send; dsimp only; split <;> (try split) <;> rfl
@[simp] theorem State.send_hzn (s : State) (src dst blk : Nat) (m : Body) : (s.send src dst blk m).hzn = s.hzn := by
  unfold State.send; dsimp only; split <;> (try split) <;> rfl
@[simp] theorem State.send_bist (s : State) (src dst blk : Nat) (m : Body) : (s.send src dst blk m).bist = s.bist := by
  unfold State.send; dsimp only; split <;> (try split) <;> rfl
@[simp] theorem State.send_tap (s : State) (src dst blk : Nat) (m : Body) : (s.send src dst blk m).tap = s.tap := by
  unfold State.send; dsimp only; split <;> (try split) <;> rfl
@[simp] theorem State.send_reg (s : State) (src dst blk : Nat) (m : Body) (q : Nat) : (s.send src dst blk m).reg q = s.reg q := by
  unfold State.send; dsimp only; split <;> (try split) <;> rfl
@[simp] theorem State.send_getF (s : State) (src dst blk : Nat) (m : Body) (q : Nat) (g : Fld) : (s.send src dst blk m).getF q g = s.getF q g := by
  unfold State.send; dsimp only; split <;> (try split) <;> rfl
@[simp] theorem State.send_isF (s : State) (src dst blk : Nat) (m : Body) (q : Nat) (g : Fld) : (s.send src dst blk m).isF q g = s.isF q g := by
  unfold State.send; dsimp only; split <;> (try split) <;> rfl
@[simp] theorem State.send_bx (s : State) (src dst blk : Nat) (m : Body) (q : Nat) : (s.send src dst blk m).bx q = s.bx q := by
  unfold State.send; dsimp only; split <;> (try split) <;> rfl
@[simp] theorem State.send_mx (s : State) (src dst blk : Nat) (m : Body) (q : Nat) : (s.send src dst blk m).mx q = s.mx q := by
  unfold State.send; dsimp only; split <;> (try split) <;> rfl
@[simp] theorem State.send_rx (s : State) (src dst blk : Nat) (m : Body) (q : Nat) : (s.send src dst blk m).rx q = s.rx q := by
  unfold State.send; dsimp only; split <;> (try split) <;> rfl
@[simp] theorem State.send_pdOn (s : State) (src dst blk : Nat) (m : Body) (q : Nat) : (s.send src dst blk m).pdOn q = s.pdOn q := by
  unfold State.send; dsimp only; split <;> (try split) <;> rfl
@[simp] theorem State.send_compOn (s : State) (src dst blk : Nat) (m : Body) (q : Nat) : (s.send src dst blk m).compOn q = s.compOn q := by
  unfold State.send; dsimp only; split <;> (try split) <;> rfl
@[simp] theorem State.send_spdOn (s : State) (src dst blk : Nat) (m : Body) (q : Nat) : (s.send src dst blk m).spdOn q = s.spdOn q := by
  unfold State.send; dsimp only; split <;> (try split) <;> rfl

/-! ## originate -/

@[simp] theorem State.originate_pending (s : State) (m : CMsg) : (s.originate m).pending = s.pending := rfl
@[simp] theorem State.originate_free (s : State) (m : CMsg) : (s.originate m).free = s.free := rfl
@[simp] theorem State.originate_now (s : State) (m : CMsg) : (s.originate m).now = s.now := rfl
@[simp] theorem State.originate_regs (s : State) (m : CMsg) : (s.originate m).regs = s.regs := rfl
@[simp] theorem State.originate_latch (s : State) (m : CMsg) : (s.originate m).latch = s.latch := rfl
@[simp] theorem State.originate_busRead (s : State) (m : CMsg) : (s.originate m).busRead = s.busRead := rfl
@[simp] theorem State.originate_pins (s : State) (m : CMsg) : (s.originate m).pins = s.pins := rfl
@[simp] theorem State.originate_chip (s : State) (m : CMsg) : (s.originate m).chip = s.chip := rfl
@[simp] theorem State.originate_mem (s : State) (m : CMsg) : (s.originate m).mem = s.mem := rfl
@[simp] theorem State.originate_flips (s : State) (m : CMsg) : (s.originate m).flips = s.flips := rfl
@[simp] theorem State.originate_macros (s : State) (m : CMsg) : (s.originate m).macros = s.macros := rfl
@[simp] theorem State.originate_blocks (s : State) (m : CMsg) : (s.originate m).blocks = s.blocks := rfl
@[simp] theorem State.originate_regions (s : State) (m : CMsg) : (s.originate m).regions = s.regions := rfl
@[simp] theorem State.originate_net (s : State) (m : CMsg) : (s.originate m).net = s.net := rfl
@[simp] theorem State.originate_mesh (s : State) (m : CMsg) : (s.originate m).mesh = s.mesh := rfl
@[simp] theorem State.originate_img (s : State) (m : CMsg) : (s.originate m).img = s.img := rfl
@[simp] theorem State.originate_sets (s : State) (m : CMsg) : (s.originate m).sets = s.sets := rfl
@[simp] theorem State.originate_on (s : State) (m : CMsg) : (s.originate m).on = s.on := rfl
@[simp] theorem State.originate_power (s : State) (m : CMsg) : (s.originate m).power = s.power := rfl
@[simp] theorem State.originate_errs (s : State) (m : CMsg) : (s.originate m).errs = s.errs := rfl
@[simp] theorem State.originate_pml (s : State) (m : CMsg) : (s.originate m).pml = s.pml := rfl
@[simp] theorem State.originate_cad (s : State) (m : CMsg) : (s.originate m).cad = s.cad := rfl
@[simp] theorem State.originate_job (s : State) (m : CMsg) : (s.originate m).job = s.job := rfl
@[simp] theorem State.originate_hbmQ (s : State) (m : CMsg) : (s.originate m).hbmQ = s.hbmQ := rfl
@[simp] theorem State.originate_hbmPos (s : State) (m : CMsg) : (s.originate m).hbmPos = s.hbmPos := rfl
@[simp] theorem State.originate_sdio (s : State) (m : CMsg) : (s.originate m).sdio = s.sdio := rfl
@[simp] theorem State.originate_mail (s : State) (m : CMsg) : (s.originate m).mail = s.mail := rfl
@[simp] theorem State.originate_store (s : State) (m : CMsg) : (s.originate m).store = s.store := rfl
@[simp] theorem State.originate_nim (s : State) (m : CMsg) : (s.originate m).nim = s.nim := rfl
@[simp] theorem State.originate_hzn (s : State) (m : CMsg) : (s.originate m).hzn = s.hzn := rfl
@[simp] theorem State.originate_bist (s : State) (m : CMsg) : (s.originate m).bist = s.bist := rfl
@[simp] theorem State.originate_tap (s : State) (m : CMsg) : (s.originate m).tap = s.tap := rfl
@[simp] theorem State.originate_reg (s : State) (m : CMsg) (q : Nat) : (s.originate m).reg q = s.reg q := rfl
@[simp] theorem State.originate_getF (s : State) (m : CMsg) (q : Nat) (g : Fld) : (s.originate m).getF q g = s.getF q g := rfl
@[simp] theorem State.originate_isF (s : State) (m : CMsg) (q : Nat) (g : Fld) : (s.originate m).isF q g = s.isF q g := rfl
@[simp] theorem State.originate_bx (s : State) (m : CMsg) (q : Nat) : (s.originate m).bx q = s.bx q := rfl
@[simp] theorem State.originate_mx (s : State) (m : CMsg) (q : Nat) : (s.originate m).mx q = s.mx q := rfl
@[simp] theorem State.originate_rx (s : State) (m : CMsg) (q : Nat) : (s.originate m).rx q = s.rx q := rfl
@[simp] theorem State.originate_pdOn (s : State) (m : CMsg) (q : Nat) : (s.originate m).pdOn q = s.pdOn q := rfl
@[simp] theorem State.originate_compOn (s : State) (m : CMsg) (q : Nat) : (s.originate m).compOn q = s.compOn q := rfl
@[simp] theorem State.originate_spdOn (s : State) (m : CMsg) (q : Nat) : (s.originate m).spdOn q = s.spdOn q := rfl

/-! ## setInt -/

@[simp] theorem State.setInt_pending (s : State) (b : Nat) : (s.setInt b).pending = s.pending := rfl
@[simp] theorem State.setInt_free (s : State) (b : Nat) : (s.setInt b).free = s.free := rfl
@[simp] theorem State.setInt_now (s : State) (b : Nat) : (s.setInt b).now = s.now := rfl
@[simp] theorem State.setInt_regs (s : State) (b : Nat) : (s.setInt b).regs = s.regs := rfl
@[simp] theorem State.setInt_latch (s : State) (b : Nat) : (s.setInt b).latch = s.latch := rfl
@[simp] theorem State.setInt_busRead (s : State) (b : Nat) : (s.setInt b).busRead = s.busRead := rfl
@[simp] theorem State.setInt_pins (s : State) (b : Nat) : (s.setInt b).pins = s.pins := rfl
@[simp] theorem State.setInt_chip (s : State) (b : Nat) : (s.setInt b).chip = s.chip := rfl
@[simp] theorem State.setInt_mem (s : State) (b : Nat) : (s.setInt b).mem = s.mem := rfl
@[simp] theorem State.setInt_flips (s : State) (b : Nat) : (s.setInt b).flips = s.flips := rfl
@[simp] theorem State.setInt_macros (s : State) (b : Nat) : (s.setInt b).macros = s.macros := rfl
@[simp] theorem State.setInt_blocks (s : State) (b : Nat) : (s.setInt b).blocks = s.blocks := rfl
@[simp] theorem State.setInt_regions (s : State) (b : Nat) : (s.setInt b).regions = s.regions := rfl
@[simp] theorem State.setInt_net (s : State) (b : Nat) : (s.setInt b).net = s.net := rfl
@[simp] theorem State.setInt_mesh (s : State) (b : Nat) : (s.setInt b).mesh = s.mesh := rfl
@[simp] theorem State.setInt_img (s : State) (b : Nat) : (s.setInt b).img = s.img := rfl
@[simp] theorem State.setInt_sets (s : State) (b : Nat) : (s.setInt b).sets = s.sets := rfl
@[simp] theorem State.setInt_on (s : State) (b : Nat) : (s.setInt b).on = s.on := rfl
@[simp] theorem State.setInt_power (s : State) (b : Nat) : (s.setInt b).power = s.power := rfl
@[simp] theorem State.setInt_errs (s : State) (b : Nat) : (s.setInt b).errs = s.errs := rfl
@[simp] theorem State.setInt_pml (s : State) (b : Nat) : (s.setInt b).pml = s.pml := rfl
@[simp] theorem State.setInt_cad (s : State) (b : Nat) : (s.setInt b).cad = s.cad := rfl
@[simp] theorem State.setInt_job (s : State) (b : Nat) : (s.setInt b).job = s.job := rfl
@[simp] theorem State.setInt_hbmQ (s : State) (b : Nat) : (s.setInt b).hbmQ = s.hbmQ := rfl
@[simp] theorem State.setInt_hbmPos (s : State) (b : Nat) : (s.setInt b).hbmPos = s.hbmPos := rfl
@[simp] theorem State.setInt_cour (s : State) (b : Nat) : (s.setInt b).cour = s.cour := rfl
@[simp] theorem State.setInt_mail (s : State) (b : Nat) : (s.setInt b).mail = s.mail := rfl
@[simp] theorem State.setInt_store (s : State) (b : Nat) : (s.setInt b).store = s.store := rfl
@[simp] theorem State.setInt_nim (s : State) (b : Nat) : (s.setInt b).nim = s.nim := rfl
@[simp] theorem State.setInt_hzn (s : State) (b : Nat) : (s.setInt b).hzn = s.hzn := rfl
@[simp] theorem State.setInt_bist (s : State) (b : Nat) : (s.setInt b).bist = s.bist := rfl
@[simp] theorem State.setInt_tap (s : State) (b : Nat) : (s.setInt b).tap = s.tap := rfl
@[simp] theorem State.setInt_reg (s : State) (b : Nat) (q : Nat) : (s.setInt b).reg q = s.reg q := rfl
@[simp] theorem State.setInt_getF (s : State) (b : Nat) (q : Nat) (g : Fld) : (s.setInt b).getF q g = s.getF q g := rfl
@[simp] theorem State.setInt_isF (s : State) (b : Nat) (q : Nat) (g : Fld) : (s.setInt b).isF q g = s.isF q g := rfl
@[simp] theorem State.setInt_bx (s : State) (b : Nat) (q : Nat) : (s.setInt b).bx q = s.bx q := rfl
@[simp] theorem State.setInt_mx (s : State) (b : Nat) (q : Nat) : (s.setInt b).mx q = s.mx q := rfl
@[simp] theorem State.setInt_rx (s : State) (b : Nat) (q : Nat) : (s.setInt b).rx q = s.rx q := rfl
@[simp] theorem State.setInt_pdOn (s : State) (b : Nat) (q : Nat) : (s.setInt b).pdOn q = s.pdOn q := rfl
@[simp] theorem State.setInt_compOn (s : State) (b : Nat) (q : Nat) : (s.setInt b).compOn q = s.compOn q := rfl
@[simp] theorem State.setInt_spdOn (s : State) (b : Nat) (q : Nat) : (s.setInt b).spdOn q = s.spdOn q := rfl

/-! ## modRec -/

@[simp] theorem State.modRec_pending (s : State) (n : Nat) (f : SlotRec → SlotRec) : (s.modRec n f).pending = s.pending := rfl
@[simp] theorem State.modRec_free (s : State) (n : Nat) (f : SlotRec → SlotRec) : (s.modRec n f).free = s.free := rfl
@[simp] theorem State.modRec_now (s : State) (n : Nat) (f : SlotRec → SlotRec) : (s.modRec n f).now = s.now := rfl
@[simp] theorem State.modRec_regs (s : State) (n : Nat) (f : SlotRec → SlotRec) : (s.modRec n f).regs = s.regs := rfl
@[simp] theorem State.modRec_latch (s : State) (n : Nat) (f : SlotRec → SlotRec) : (s.modRec n f).latch = s.latch := rfl
@[simp] theorem State.modRec_busRead (s : State) (n : Nat) (f : SlotRec → SlotRec) : (s.modRec n f).busRead = s.busRead := rfl
@[simp] theorem State.modRec_pins (s : State) (n : Nat) (f : SlotRec → SlotRec) : (s.modRec n f).pins = s.pins := rfl
@[simp] theorem State.modRec_chip (s : State) (n : Nat) (f : SlotRec → SlotRec) : (s.modRec n f).chip = s.chip := rfl
@[simp] theorem State.modRec_mem (s : State) (n : Nat) (f : SlotRec → SlotRec) : (s.modRec n f).mem = s.mem := rfl
@[simp] theorem State.modRec_flips (s : State) (n : Nat) (f : SlotRec → SlotRec) : (s.modRec n f).flips = s.flips := rfl
@[simp] theorem State.modRec_macros (s : State) (n : Nat) (f : SlotRec → SlotRec) : (s.modRec n f).macros = s.macros := rfl
@[simp] theorem State.modRec_blocks (s : State) (n : Nat) (f : SlotRec → SlotRec) : (s.modRec n f).blocks = s.blocks := rfl
@[simp] theorem State.modRec_regions (s : State) (n : Nat) (f : SlotRec → SlotRec) : (s.modRec n f).regions = s.regions := rfl
@[simp] theorem State.modRec_net (s : State) (n : Nat) (f : SlotRec → SlotRec) : (s.modRec n f).net = s.net := rfl
@[simp] theorem State.modRec_mesh (s : State) (n : Nat) (f : SlotRec → SlotRec) : (s.modRec n f).mesh = s.mesh := rfl
@[simp] theorem State.modRec_img (s : State) (n : Nat) (f : SlotRec → SlotRec) : (s.modRec n f).img = s.img := rfl
@[simp] theorem State.modRec_sets (s : State) (n : Nat) (f : SlotRec → SlotRec) : (s.modRec n f).sets = s.sets := rfl
@[simp] theorem State.modRec_on (s : State) (n : Nat) (f : SlotRec → SlotRec) : (s.modRec n f).on = s.on := rfl
@[simp] theorem State.modRec_power (s : State) (n : Nat) (f : SlotRec → SlotRec) : (s.modRec n f).power = s.power := rfl
@[simp] theorem State.modRec_errs (s : State) (n : Nat) (f : SlotRec → SlotRec) : (s.modRec n f).errs = s.errs := rfl
@[simp] theorem State.modRec_pml (s : State) (n : Nat) (f : SlotRec → SlotRec) : (s.modRec n f).pml = s.pml := rfl
@[simp] theorem State.modRec_cad (s : State) (n : Nat) (f : SlotRec → SlotRec) : (s.modRec n f).cad = s.cad := rfl
@[simp] theorem State.modRec_hbmQ (s : State) (n : Nat) (f : SlotRec → SlotRec) : (s.modRec n f).hbmQ = s.hbmQ := rfl
@[simp] theorem State.modRec_hbmPos (s : State) (n : Nat) (f : SlotRec → SlotRec) : (s.modRec n f).hbmPos = s.hbmPos := rfl
@[simp] theorem State.modRec_cour (s : State) (n : Nat) (f : SlotRec → SlotRec) : (s.modRec n f).cour = s.cour := rfl
@[simp] theorem State.modRec_sdio (s : State) (n : Nat) (f : SlotRec → SlotRec) : (s.modRec n f).sdio = s.sdio := rfl
@[simp] theorem State.modRec_mail (s : State) (n : Nat) (f : SlotRec → SlotRec) : (s.modRec n f).mail = s.mail := rfl
@[simp] theorem State.modRec_store (s : State) (n : Nat) (f : SlotRec → SlotRec) : (s.modRec n f).store = s.store := rfl
@[simp] theorem State.modRec_nim (s : State) (n : Nat) (f : SlotRec → SlotRec) : (s.modRec n f).nim = s.nim := rfl
@[simp] theorem State.modRec_hzn (s : State) (n : Nat) (f : SlotRec → SlotRec) : (s.modRec n f).hzn = s.hzn := rfl
@[simp] theorem State.modRec_bist (s : State) (n : Nat) (f : SlotRec → SlotRec) : (s.modRec n f).bist = s.bist := rfl
@[simp] theorem State.modRec_tap (s : State) (n : Nat) (f : SlotRec → SlotRec) : (s.modRec n f).tap = s.tap := rfl
@[simp] theorem State.modRec_reg (s : State) (n : Nat) (f : SlotRec → SlotRec) (q : Nat) : (s.modRec n f).reg q = s.reg q := rfl
@[simp] theorem State.modRec_getF (s : State) (n : Nat) (f : SlotRec → SlotRec) (q : Nat) (g : Fld) : (s.modRec n f).getF q g = s.getF q g := rfl
@[simp] theorem State.modRec_isF (s : State) (n : Nat) (f : SlotRec → SlotRec) (q : Nat) (g : Fld) : (s.modRec n f).isF q g = s.isF q g := rfl
@[simp] theorem State.modRec_bx (s : State) (n : Nat) (f : SlotRec → SlotRec) (q : Nat) : (s.modRec n f).bx q = s.bx q := rfl
@[simp] theorem State.modRec_mx (s : State) (n : Nat) (f : SlotRec → SlotRec) (q : Nat) : (s.modRec n f).mx q = s.mx q := rfl
@[simp] theorem State.modRec_rx (s : State) (n : Nat) (f : SlotRec → SlotRec) (q : Nat) : (s.modRec n f).rx q = s.rx q := rfl
@[simp] theorem State.modRec_pdOn (s : State) (n : Nat) (f : SlotRec → SlotRec) (q : Nat) : (s.modRec n f).pdOn q = s.pdOn q := rfl
@[simp] theorem State.modRec_compOn (s : State) (n : Nat) (f : SlotRec → SlotRec) (q : Nat) : (s.modRec n f).compOn q = s.compOn q := rfl
@[simp] theorem State.modRec_spdOn (s : State) (n : Nat) (f : SlotRec → SlotRec) (q : Nat) : (s.modRec n f).spdOn q = s.spdOn q := rfl

/-! ## setTaken -/

@[simp] theorem State.setTaken_pending (s : State) (t : Taken) : (s.setTaken t).pending = s.pending := rfl
@[simp] theorem State.setTaken_free (s : State) (t : Taken) : (s.setTaken t).free = s.free := rfl
@[simp] theorem State.setTaken_now (s : State) (t : Taken) : (s.setTaken t).now = s.now := rfl
@[simp] theorem State.setTaken_regs (s : State) (t : Taken) : (s.setTaken t).regs = s.regs := rfl
@[simp] theorem State.setTaken_latch (s : State) (t : Taken) : (s.setTaken t).latch = s.latch := rfl
@[simp] theorem State.setTaken_busRead (s : State) (t : Taken) : (s.setTaken t).busRead = s.busRead := rfl
@[simp] theorem State.setTaken_pins (s : State) (t : Taken) : (s.setTaken t).pins = s.pins := rfl
@[simp] theorem State.setTaken_chip (s : State) (t : Taken) : (s.setTaken t).chip = s.chip := rfl
@[simp] theorem State.setTaken_mem (s : State) (t : Taken) : (s.setTaken t).mem = s.mem := rfl
@[simp] theorem State.setTaken_flips (s : State) (t : Taken) : (s.setTaken t).flips = s.flips := rfl
@[simp] theorem State.setTaken_macros (s : State) (t : Taken) : (s.setTaken t).macros = s.macros := rfl
@[simp] theorem State.setTaken_blocks (s : State) (t : Taken) : (s.setTaken t).blocks = s.blocks := rfl
@[simp] theorem State.setTaken_regions (s : State) (t : Taken) : (s.setTaken t).regions = s.regions := rfl
@[simp] theorem State.setTaken_net (s : State) (t : Taken) : (s.setTaken t).net = s.net := rfl
@[simp] theorem State.setTaken_mesh (s : State) (t : Taken) : (s.setTaken t).mesh = s.mesh := rfl
@[simp] theorem State.setTaken_img (s : State) (t : Taken) : (s.setTaken t).img = s.img := rfl
@[simp] theorem State.setTaken_sets (s : State) (t : Taken) : (s.setTaken t).sets = s.sets := rfl
@[simp] theorem State.setTaken_on (s : State) (t : Taken) : (s.setTaken t).on = s.on := rfl
@[simp] theorem State.setTaken_power (s : State) (t : Taken) : (s.setTaken t).power = s.power := rfl
@[simp] theorem State.setTaken_errs (s : State) (t : Taken) : (s.setTaken t).errs = s.errs := rfl
@[simp] theorem State.setTaken_pml (s : State) (t : Taken) : (s.setTaken t).pml = s.pml := rfl
@[simp] theorem State.setTaken_cad (s : State) (t : Taken) : (s.setTaken t).cad = s.cad := rfl
@[simp] theorem State.setTaken_job (s : State) (t : Taken) : (s.setTaken t).job = s.job := rfl
@[simp] theorem State.setTaken_hbmQ (s : State) (t : Taken) : (s.setTaken t).hbmQ = s.hbmQ := rfl
@[simp] theorem State.setTaken_hbmPos (s : State) (t : Taken) : (s.setTaken t).hbmPos = s.hbmPos := rfl
@[simp] theorem State.setTaken_cour (s : State) (t : Taken) : (s.setTaken t).cour = s.cour := rfl
@[simp] theorem State.setTaken_sdio (s : State) (t : Taken) : (s.setTaken t).sdio = s.sdio := rfl
@[simp] theorem State.setTaken_store (s : State) (t : Taken) : (s.setTaken t).store = s.store := rfl
@[simp] theorem State.setTaken_nim (s : State) (t : Taken) : (s.setTaken t).nim = s.nim := rfl
@[simp] theorem State.setTaken_hzn (s : State) (t : Taken) : (s.setTaken t).hzn = s.hzn := rfl
@[simp] theorem State.setTaken_bist (s : State) (t : Taken) : (s.setTaken t).bist = s.bist := rfl
@[simp] theorem State.setTaken_tap (s : State) (t : Taken) : (s.setTaken t).tap = s.tap := rfl
@[simp] theorem State.setTaken_reg (s : State) (t : Taken) (q : Nat) : (s.setTaken t).reg q = s.reg q := rfl
@[simp] theorem State.setTaken_getF (s : State) (t : Taken) (q : Nat) (g : Fld) : (s.setTaken t).getF q g = s.getF q g := rfl
@[simp] theorem State.setTaken_isF (s : State) (t : Taken) (q : Nat) (g : Fld) : (s.setTaken t).isF q g = s.isF q g := rfl
@[simp] theorem State.setTaken_bx (s : State) (t : Taken) (q : Nat) : (s.setTaken t).bx q = s.bx q := rfl
@[simp] theorem State.setTaken_mx (s : State) (t : Taken) (q : Nat) : (s.setTaken t).mx q = s.mx q := rfl
@[simp] theorem State.setTaken_rx (s : State) (t : Taken) (q : Nat) : (s.setTaken t).rx q = s.rx q := rfl
@[simp] theorem State.setTaken_pdOn (s : State) (t : Taken) (q : Nat) : (s.setTaken t).pdOn q = s.pdOn q := rfl
@[simp] theorem State.setTaken_compOn (s : State) (t : Taken) (q : Nat) : (s.setTaken t).compOn q = s.compOn q := rfl
@[simp] theorem State.setTaken_spdOn (s : State) (t : Taken) (q : Nat) : (s.setTaken t).spdOn q = s.spdOn q := rfl

/-! ## queueReply -/

@[simp] theorem State.queueReply_pending (s : State) (op tag seq status : Nat) (res : List Byte) : (s.queueReply op tag seq status res).pending = s.pending := rfl
@[simp] theorem State.queueReply_free (s : State) (op tag seq status : Nat) (res : List Byte) : (s.queueReply op tag seq status res).free = s.free := rfl
@[simp] theorem State.queueReply_now (s : State) (op tag seq status : Nat) (res : List Byte) : (s.queueReply op tag seq status res).now = s.now := rfl
@[simp] theorem State.queueReply_regs (s : State) (op tag seq status : Nat) (res : List Byte) : (s.queueReply op tag seq status res).regs = s.regs := rfl
@[simp] theorem State.queueReply_latch (s : State) (op tag seq status : Nat) (res : List Byte) : (s.queueReply op tag seq status res).latch = s.latch := rfl
@[simp] theorem State.queueReply_busRead (s : State) (op tag seq status : Nat) (res : List Byte) : (s.queueReply op tag seq status res).busRead = s.busRead := rfl
@[simp] theorem State.queueReply_pins (s : State) (op tag seq status : Nat) (res : List Byte) : (s.queueReply op tag seq status res).pins = s.pins := rfl
@[simp] theorem State.queueReply_chip (s : State) (op tag seq status : Nat) (res : List Byte) : (s.queueReply op tag seq status res).chip = s.chip := rfl
@[simp] theorem State.queueReply_mem (s : State) (op tag seq status : Nat) (res : List Byte) : (s.queueReply op tag seq status res).mem = s.mem := rfl
@[simp] theorem State.queueReply_flips (s : State) (op tag seq status : Nat) (res : List Byte) : (s.queueReply op tag seq status res).flips = s.flips := rfl
@[simp] theorem State.queueReply_macros (s : State) (op tag seq status : Nat) (res : List Byte) : (s.queueReply op tag seq status res).macros = s.macros := rfl
@[simp] theorem State.queueReply_blocks (s : State) (op tag seq status : Nat) (res : List Byte) : (s.queueReply op tag seq status res).blocks = s.blocks := rfl
@[simp] theorem State.queueReply_regions (s : State) (op tag seq status : Nat) (res : List Byte) : (s.queueReply op tag seq status res).regions = s.regions := rfl
@[simp] theorem State.queueReply_net (s : State) (op tag seq status : Nat) (res : List Byte) : (s.queueReply op tag seq status res).net = s.net := rfl
@[simp] theorem State.queueReply_mesh (s : State) (op tag seq status : Nat) (res : List Byte) : (s.queueReply op tag seq status res).mesh = s.mesh := rfl
@[simp] theorem State.queueReply_img (s : State) (op tag seq status : Nat) (res : List Byte) : (s.queueReply op tag seq status res).img = s.img := rfl
@[simp] theorem State.queueReply_sets (s : State) (op tag seq status : Nat) (res : List Byte) : (s.queueReply op tag seq status res).sets = s.sets := rfl
@[simp] theorem State.queueReply_on (s : State) (op tag seq status : Nat) (res : List Byte) : (s.queueReply op tag seq status res).on = s.on := rfl
@[simp] theorem State.queueReply_power (s : State) (op tag seq status : Nat) (res : List Byte) : (s.queueReply op tag seq status res).power = s.power := rfl
@[simp] theorem State.queueReply_errs (s : State) (op tag seq status : Nat) (res : List Byte) : (s.queueReply op tag seq status res).errs = s.errs := rfl
@[simp] theorem State.queueReply_pml (s : State) (op tag seq status : Nat) (res : List Byte) : (s.queueReply op tag seq status res).pml = s.pml := rfl
@[simp] theorem State.queueReply_cad (s : State) (op tag seq status : Nat) (res : List Byte) : (s.queueReply op tag seq status res).cad = s.cad := rfl
@[simp] theorem State.queueReply_job (s : State) (op tag seq status : Nat) (res : List Byte) : (s.queueReply op tag seq status res).job = s.job := rfl
@[simp] theorem State.queueReply_hbmQ (s : State) (op tag seq status : Nat) (res : List Byte) : (s.queueReply op tag seq status res).hbmQ = s.hbmQ := rfl
@[simp] theorem State.queueReply_hbmPos (s : State) (op tag seq status : Nat) (res : List Byte) : (s.queueReply op tag seq status res).hbmPos = s.hbmPos := rfl
@[simp] theorem State.queueReply_cour (s : State) (op tag seq status : Nat) (res : List Byte) : (s.queueReply op tag seq status res).cour = s.cour := rfl
@[simp] theorem State.queueReply_sdio (s : State) (op tag seq status : Nat) (res : List Byte) : (s.queueReply op tag seq status res).sdio = s.sdio := rfl
@[simp] theorem State.queueReply_store (s : State) (op tag seq status : Nat) (res : List Byte) : (s.queueReply op tag seq status res).store = s.store := rfl
@[simp] theorem State.queueReply_nim (s : State) (op tag seq status : Nat) (res : List Byte) : (s.queueReply op tag seq status res).nim = s.nim := rfl
@[simp] theorem State.queueReply_hzn (s : State) (op tag seq status : Nat) (res : List Byte) : (s.queueReply op tag seq status res).hzn = s.hzn := rfl
@[simp] theorem State.queueReply_bist (s : State) (op tag seq status : Nat) (res : List Byte) : (s.queueReply op tag seq status res).bist = s.bist := rfl
@[simp] theorem State.queueReply_tap (s : State) (op tag seq status : Nat) (res : List Byte) : (s.queueReply op tag seq status res).tap = s.tap := rfl
@[simp] theorem State.queueReply_reg (s : State) (op tag seq status : Nat) (res : List Byte) (q : Nat) : (s.queueReply op tag seq status res).reg q = s.reg q := rfl
@[simp] theorem State.queueReply_getF (s : State) (op tag seq status : Nat) (res : List Byte) (q : Nat) (g : Fld) : (s.queueReply op tag seq status res).getF q g = s.getF q g := rfl
@[simp] theorem State.queueReply_isF (s : State) (op tag seq status : Nat) (res : List Byte) (q : Nat) (g : Fld) : (s.queueReply op tag seq status res).isF q g = s.isF q g := rfl
@[simp] theorem State.queueReply_bx (s : State) (op tag seq status : Nat) (res : List Byte) (q : Nat) : (s.queueReply op tag seq status res).bx q = s.bx q := rfl
@[simp] theorem State.queueReply_mx (s : State) (op tag seq status : Nat) (res : List Byte) (q : Nat) : (s.queueReply op tag seq status res).mx q = s.mx q := rfl
@[simp] theorem State.queueReply_rx (s : State) (op tag seq status : Nat) (res : List Byte) (q : Nat) : (s.queueReply op tag seq status res).rx q = s.rx q := rfl
@[simp] theorem State.queueReply_pdOn (s : State) (op tag seq status : Nat) (res : List Byte) (q : Nat) : (s.queueReply op tag seq status res).pdOn q = s.pdOn q := rfl
@[simp] theorem State.queueReply_compOn (s : State) (op tag seq status : Nat) (res : List Byte) (q : Nat) : (s.queueReply op tag seq status res).compOn q = s.compOn q := rfl
@[simp] theorem State.queueReply_spdOn (s : State) (op tag seq status : Nat) (res : List Byte) (q : Nat) : (s.queueReply op tag seq status res).spdOn q = s.spdOn q := rfl

/-! ## hbmWr -/

@[simp] theorem State.hbmWr_pending (s : State) (a : Nat) (bs : List Byte) : (s.hbmWr a bs).pending = s.pending := rfl
@[simp] theorem State.hbmWr_free (s : State) (a : Nat) (bs : List Byte) : (s.hbmWr a bs).free = s.free := rfl
@[simp] theorem State.hbmWr_now (s : State) (a : Nat) (bs : List Byte) : (s.hbmWr a bs).now = s.now := rfl
@[simp] theorem State.hbmWr_regs (s : State) (a : Nat) (bs : List Byte) : (s.hbmWr a bs).regs = s.regs := rfl
@[simp] theorem State.hbmWr_latch (s : State) (a : Nat) (bs : List Byte) : (s.hbmWr a bs).latch = s.latch := rfl
@[simp] theorem State.hbmWr_busRead (s : State) (a : Nat) (bs : List Byte) : (s.hbmWr a bs).busRead = s.busRead := rfl
@[simp] theorem State.hbmWr_pins (s : State) (a : Nat) (bs : List Byte) : (s.hbmWr a bs).pins = s.pins := rfl
@[simp] theorem State.hbmWr_chip (s : State) (a : Nat) (bs : List Byte) : (s.hbmWr a bs).chip = s.chip := rfl
@[simp] theorem State.hbmWr_flips (s : State) (a : Nat) (bs : List Byte) : (s.hbmWr a bs).flips = s.flips := rfl
@[simp] theorem State.hbmWr_macros (s : State) (a : Nat) (bs : List Byte) : (s.hbmWr a bs).macros = s.macros := rfl
@[simp] theorem State.hbmWr_blocks (s : State) (a : Nat) (bs : List Byte) : (s.hbmWr a bs).blocks = s.blocks := rfl
@[simp] theorem State.hbmWr_regions (s : State) (a : Nat) (bs : List Byte) : (s.hbmWr a bs).regions = s.regions := rfl
@[simp] theorem State.hbmWr_net (s : State) (a : Nat) (bs : List Byte) : (s.hbmWr a bs).net = s.net := rfl
@[simp] theorem State.hbmWr_mesh (s : State) (a : Nat) (bs : List Byte) : (s.hbmWr a bs).mesh = s.mesh := rfl
@[simp] theorem State.hbmWr_img (s : State) (a : Nat) (bs : List Byte) : (s.hbmWr a bs).img = s.img := rfl
@[simp] theorem State.hbmWr_sets (s : State) (a : Nat) (bs : List Byte) : (s.hbmWr a bs).sets = s.sets := rfl
@[simp] theorem State.hbmWr_on (s : State) (a : Nat) (bs : List Byte) : (s.hbmWr a bs).on = s.on := rfl
@[simp] theorem State.hbmWr_power (s : State) (a : Nat) (bs : List Byte) : (s.hbmWr a bs).power = s.power := rfl
@[simp] theorem State.hbmWr_errs (s : State) (a : Nat) (bs : List Byte) : (s.hbmWr a bs).errs = s.errs := rfl
@[simp] theorem State.hbmWr_pml (s : State) (a : Nat) (bs : List Byte) : (s.hbmWr a bs).pml = s.pml := rfl
@[simp] theorem State.hbmWr_cad (s : State) (a : Nat) (bs : List Byte) : (s.hbmWr a bs).cad = s.cad := rfl
@[simp] theorem State.hbmWr_job (s : State) (a : Nat) (bs : List Byte) : (s.hbmWr a bs).job = s.job := rfl
@[simp] theorem State.hbmWr_hbmQ (s : State) (a : Nat) (bs : List Byte) : (s.hbmWr a bs).hbmQ = s.hbmQ := rfl
@[simp] theorem State.hbmWr_hbmPos (s : State) (a : Nat) (bs : List Byte) : (s.hbmWr a bs).hbmPos = s.hbmPos := rfl
@[simp] theorem State.hbmWr_cour (s : State) (a : Nat) (bs : List Byte) : (s.hbmWr a bs).cour = s.cour := rfl
@[simp] theorem State.hbmWr_sdio (s : State) (a : Nat) (bs : List Byte) : (s.hbmWr a bs).sdio = s.sdio := rfl
@[simp] theorem State.hbmWr_mail (s : State) (a : Nat) (bs : List Byte) : (s.hbmWr a bs).mail = s.mail := rfl
@[simp] theorem State.hbmWr_store (s : State) (a : Nat) (bs : List Byte) : (s.hbmWr a bs).store = s.store := rfl
@[simp] theorem State.hbmWr_nim (s : State) (a : Nat) (bs : List Byte) : (s.hbmWr a bs).nim = s.nim := rfl
@[simp] theorem State.hbmWr_hzn (s : State) (a : Nat) (bs : List Byte) : (s.hbmWr a bs).hzn = s.hzn := rfl
@[simp] theorem State.hbmWr_bist (s : State) (a : Nat) (bs : List Byte) : (s.hbmWr a bs).bist = s.bist := rfl
@[simp] theorem State.hbmWr_tap (s : State) (a : Nat) (bs : List Byte) : (s.hbmWr a bs).tap = s.tap := rfl
@[simp] theorem State.hbmWr_reg (s : State) (a : Nat) (bs : List Byte) (q : Nat) : (s.hbmWr a bs).reg q = s.reg q := rfl
@[simp] theorem State.hbmWr_getF (s : State) (a : Nat) (bs : List Byte) (q : Nat) (g : Fld) : (s.hbmWr a bs).getF q g = s.getF q g := rfl
@[simp] theorem State.hbmWr_isF (s : State) (a : Nat) (bs : List Byte) (q : Nat) (g : Fld) : (s.hbmWr a bs).isF q g = s.isF q g := rfl
@[simp] theorem State.hbmWr_bx (s : State) (a : Nat) (bs : List Byte) (q : Nat) : (s.hbmWr a bs).bx q = s.bx q := rfl
@[simp] theorem State.hbmWr_mx (s : State) (a : Nat) (bs : List Byte) (q : Nat) : (s.hbmWr a bs).mx q = s.mx q := rfl
@[simp] theorem State.hbmWr_rx (s : State) (a : Nat) (bs : List Byte) (q : Nat) : (s.hbmWr a bs).rx q = s.rx q := rfl
@[simp] theorem State.hbmWr_pdOn (s : State) (a : Nat) (bs : List Byte) (q : Nat) : (s.hbmWr a bs).pdOn q = s.pdOn q := rfl
@[simp] theorem State.hbmWr_compOn (s : State) (a : Nat) (bs : List Byte) (q : Nat) : (s.hbmWr a bs).compOn q = s.compOn q := rfl
@[simp] theorem State.hbmWr_spdOn (s : State) (a : Nat) (bs : List Byte) (q : Nat) : (s.hbmWr a bs).spdOn q = s.spdOn q := rfl

/-! ## spdWr -/

@[simp] theorem State.spdWr_pending (s : State) (b o : Nat) (bs : List Byte) : (s.spdWr b o bs).pending = s.pending := rfl
@[simp] theorem State.spdWr_free (s : State) (b o : Nat) (bs : List Byte) : (s.spdWr b o bs).free = s.free := rfl
@[simp] theorem State.spdWr_now (s : State) (b o : Nat) (bs : List Byte) : (s.spdWr b o bs).now = s.now := rfl
@[simp] theorem State.spdWr_regs (s : State) (b o : Nat) (bs : List Byte) : (s.spdWr b o bs).regs = s.regs := rfl
@[simp] theorem State.spdWr_latch (s : State) (b o : Nat) (bs : List Byte) : (s.spdWr b o bs).latch = s.latch := rfl
@[simp] theorem State.spdWr_busRead (s : State) (b o : Nat) (bs : List Byte) : (s.spdWr b o bs).busRead = s.busRead := rfl
@[simp] theorem State.spdWr_pins (s : State) (b o : Nat) (bs : List Byte) : (s.spdWr b o bs).pins = s.pins := rfl
@[simp] theorem State.spdWr_chip (s : State) (b o : Nat) (bs : List Byte) : (s.spdWr b o bs).chip = s.chip := rfl
@[simp] theorem State.spdWr_flips (s : State) (b o : Nat) (bs : List Byte) : (s.spdWr b o bs).flips = s.flips := rfl
@[simp] theorem State.spdWr_macros (s : State) (b o : Nat) (bs : List Byte) : (s.spdWr b o bs).macros = s.macros := rfl
@[simp] theorem State.spdWr_blocks (s : State) (b o : Nat) (bs : List Byte) : (s.spdWr b o bs).blocks = s.blocks := rfl
@[simp] theorem State.spdWr_regions (s : State) (b o : Nat) (bs : List Byte) : (s.spdWr b o bs).regions = s.regions := rfl
@[simp] theorem State.spdWr_net (s : State) (b o : Nat) (bs : List Byte) : (s.spdWr b o bs).net = s.net := rfl
@[simp] theorem State.spdWr_mesh (s : State) (b o : Nat) (bs : List Byte) : (s.spdWr b o bs).mesh = s.mesh := rfl
@[simp] theorem State.spdWr_img (s : State) (b o : Nat) (bs : List Byte) : (s.spdWr b o bs).img = s.img := rfl
@[simp] theorem State.spdWr_sets (s : State) (b o : Nat) (bs : List Byte) : (s.spdWr b o bs).sets = s.sets := rfl
@[simp] theorem State.spdWr_on (s : State) (b o : Nat) (bs : List Byte) : (s.spdWr b o bs).on = s.on := rfl
@[simp] theorem State.spdWr_power (s : State) (b o : Nat) (bs : List Byte) : (s.spdWr b o bs).power = s.power := rfl
@[simp] theorem State.spdWr_errs (s : State) (b o : Nat) (bs : List Byte) : (s.spdWr b o bs).errs = s.errs := rfl
@[simp] theorem State.spdWr_pml (s : State) (b o : Nat) (bs : List Byte) : (s.spdWr b o bs).pml = s.pml := rfl
@[simp] theorem State.spdWr_cad (s : State) (b o : Nat) (bs : List Byte) : (s.spdWr b o bs).cad = s.cad := rfl
@[simp] theorem State.spdWr_job (s : State) (b o : Nat) (bs : List Byte) : (s.spdWr b o bs).job = s.job := rfl
@[simp] theorem State.spdWr_hbmQ (s : State) (b o : Nat) (bs : List Byte) : (s.spdWr b o bs).hbmQ = s.hbmQ := rfl
@[simp] theorem State.spdWr_hbmPos (s : State) (b o : Nat) (bs : List Byte) : (s.spdWr b o bs).hbmPos = s.hbmPos := rfl
@[simp] theorem State.spdWr_cour (s : State) (b o : Nat) (bs : List Byte) : (s.spdWr b o bs).cour = s.cour := rfl
@[simp] theorem State.spdWr_sdio (s : State) (b o : Nat) (bs : List Byte) : (s.spdWr b o bs).sdio = s.sdio := rfl
@[simp] theorem State.spdWr_mail (s : State) (b o : Nat) (bs : List Byte) : (s.spdWr b o bs).mail = s.mail := rfl
@[simp] theorem State.spdWr_store (s : State) (b o : Nat) (bs : List Byte) : (s.spdWr b o bs).store = s.store := rfl
@[simp] theorem State.spdWr_nim (s : State) (b o : Nat) (bs : List Byte) : (s.spdWr b o bs).nim = s.nim := rfl
@[simp] theorem State.spdWr_hzn (s : State) (b o : Nat) (bs : List Byte) : (s.spdWr b o bs).hzn = s.hzn := rfl
@[simp] theorem State.spdWr_bist (s : State) (b o : Nat) (bs : List Byte) : (s.spdWr b o bs).bist = s.bist := rfl
@[simp] theorem State.spdWr_tap (s : State) (b o : Nat) (bs : List Byte) : (s.spdWr b o bs).tap = s.tap := rfl
@[simp] theorem State.spdWr_reg (s : State) (b o : Nat) (bs : List Byte) (q : Nat) : (s.spdWr b o bs).reg q = s.reg q := rfl
@[simp] theorem State.spdWr_getF (s : State) (b o : Nat) (bs : List Byte) (q : Nat) (g : Fld) : (s.spdWr b o bs).getF q g = s.getF q g := rfl
@[simp] theorem State.spdWr_isF (s : State) (b o : Nat) (bs : List Byte) (q : Nat) (g : Fld) : (s.spdWr b o bs).isF q g = s.isF q g := rfl
@[simp] theorem State.spdWr_bx (s : State) (b o : Nat) (bs : List Byte) (q : Nat) : (s.spdWr b o bs).bx q = s.bx q := rfl
@[simp] theorem State.spdWr_mx (s : State) (b o : Nat) (bs : List Byte) (q : Nat) : (s.spdWr b o bs).mx q = s.mx q := rfl
@[simp] theorem State.spdWr_rx (s : State) (b o : Nat) (bs : List Byte) (q : Nat) : (s.spdWr b o bs).rx q = s.rx q := rfl
@[simp] theorem State.spdWr_pdOn (s : State) (b o : Nat) (bs : List Byte) (q : Nat) : (s.spdWr b o bs).pdOn q = s.pdOn q := rfl
@[simp] theorem State.spdWr_compOn (s : State) (b o : Nat) (bs : List Byte) (q : Nat) : (s.spdWr b o bs).compOn q = s.compOn q := rfl
@[simp] theorem State.spdWr_spdOn (s : State) (b o : Nat) (bs : List Byte) (q : Nat) : (s.spdWr b o bs).spdOn q = s.spdOn q := rfl

/-! ## rowWr -/

@[simp] theorem State.rowWr_pending (s : State) (m r o : Nat) (bs : List Byte) : (s.rowWr m r o bs).pending = s.pending := rfl
@[simp] theorem State.rowWr_free (s : State) (m r o : Nat) (bs : List Byte) : (s.rowWr m r o bs).free = s.free := rfl
@[simp] theorem State.rowWr_now (s : State) (m r o : Nat) (bs : List Byte) : (s.rowWr m r o bs).now = s.now := rfl
@[simp] theorem State.rowWr_regs (s : State) (m r o : Nat) (bs : List Byte) : (s.rowWr m r o bs).regs = s.regs := rfl
@[simp] theorem State.rowWr_latch (s : State) (m r o : Nat) (bs : List Byte) : (s.rowWr m r o bs).latch = s.latch := rfl
@[simp] theorem State.rowWr_busRead (s : State) (m r o : Nat) (bs : List Byte) : (s.rowWr m r o bs).busRead = s.busRead := rfl
@[simp] theorem State.rowWr_pins (s : State) (m r o : Nat) (bs : List Byte) : (s.rowWr m r o bs).pins = s.pins := rfl
@[simp] theorem State.rowWr_chip (s : State) (m r o : Nat) (bs : List Byte) : (s.rowWr m r o bs).chip = s.chip := rfl
@[simp] theorem State.rowWr_flips (s : State) (m r o : Nat) (bs : List Byte) : (s.rowWr m r o bs).flips = s.flips := rfl
@[simp] theorem State.rowWr_macros (s : State) (m r o : Nat) (bs : List Byte) : (s.rowWr m r o bs).macros = s.macros := rfl
@[simp] theorem State.rowWr_blocks (s : State) (m r o : Nat) (bs : List Byte) : (s.rowWr m r o bs).blocks = s.blocks := rfl
@[simp] theorem State.rowWr_regions (s : State) (m r o : Nat) (bs : List Byte) : (s.rowWr m r o bs).regions = s.regions := rfl
@[simp] theorem State.rowWr_net (s : State) (m r o : Nat) (bs : List Byte) : (s.rowWr m r o bs).net = s.net := rfl
@[simp] theorem State.rowWr_mesh (s : State) (m r o : Nat) (bs : List Byte) : (s.rowWr m r o bs).mesh = s.mesh := rfl
@[simp] theorem State.rowWr_img (s : State) (m r o : Nat) (bs : List Byte) : (s.rowWr m r o bs).img = s.img := rfl
@[simp] theorem State.rowWr_sets (s : State) (m r o : Nat) (bs : List Byte) : (s.rowWr m r o bs).sets = s.sets := rfl
@[simp] theorem State.rowWr_on (s : State) (m r o : Nat) (bs : List Byte) : (s.rowWr m r o bs).on = s.on := rfl
@[simp] theorem State.rowWr_power (s : State) (m r o : Nat) (bs : List Byte) : (s.rowWr m r o bs).power = s.power := rfl
@[simp] theorem State.rowWr_errs (s : State) (m r o : Nat) (bs : List Byte) : (s.rowWr m r o bs).errs = s.errs := rfl
@[simp] theorem State.rowWr_pml (s : State) (m r o : Nat) (bs : List Byte) : (s.rowWr m r o bs).pml = s.pml := rfl
@[simp] theorem State.rowWr_cad (s : State) (m r o : Nat) (bs : List Byte) : (s.rowWr m r o bs).cad = s.cad := rfl
@[simp] theorem State.rowWr_job (s : State) (m r o : Nat) (bs : List Byte) : (s.rowWr m r o bs).job = s.job := rfl
@[simp] theorem State.rowWr_hbmQ (s : State) (m r o : Nat) (bs : List Byte) : (s.rowWr m r o bs).hbmQ = s.hbmQ := rfl
@[simp] theorem State.rowWr_hbmPos (s : State) (m r o : Nat) (bs : List Byte) : (s.rowWr m r o bs).hbmPos = s.hbmPos := rfl
@[simp] theorem State.rowWr_cour (s : State) (m r o : Nat) (bs : List Byte) : (s.rowWr m r o bs).cour = s.cour := rfl
@[simp] theorem State.rowWr_sdio (s : State) (m r o : Nat) (bs : List Byte) : (s.rowWr m r o bs).sdio = s.sdio := rfl
@[simp] theorem State.rowWr_mail (s : State) (m r o : Nat) (bs : List Byte) : (s.rowWr m r o bs).mail = s.mail := rfl
@[simp] theorem State.rowWr_store (s : State) (m r o : Nat) (bs : List Byte) : (s.rowWr m r o bs).store = s.store := rfl
@[simp] theorem State.rowWr_nim (s : State) (m r o : Nat) (bs : List Byte) : (s.rowWr m r o bs).nim = s.nim := rfl
@[simp] theorem State.rowWr_hzn (s : State) (m r o : Nat) (bs : List Byte) : (s.rowWr m r o bs).hzn = s.hzn := rfl
@[simp] theorem State.rowWr_bist (s : State) (m r o : Nat) (bs : List Byte) : (s.rowWr m r o bs).bist = s.bist := rfl
@[simp] theorem State.rowWr_tap (s : State) (m r o : Nat) (bs : List Byte) : (s.rowWr m r o bs).tap = s.tap := rfl
@[simp] theorem State.rowWr_reg (s : State) (m r o : Nat) (bs : List Byte) (q : Nat) : (s.rowWr m r o bs).reg q = s.reg q := rfl
@[simp] theorem State.rowWr_getF (s : State) (m r o : Nat) (bs : List Byte) (q : Nat) (g : Fld) : (s.rowWr m r o bs).getF q g = s.getF q g := rfl
@[simp] theorem State.rowWr_isF (s : State) (m r o : Nat) (bs : List Byte) (q : Nat) (g : Fld) : (s.rowWr m r o bs).isF q g = s.isF q g := rfl
@[simp] theorem State.rowWr_bx (s : State) (m r o : Nat) (bs : List Byte) (q : Nat) : (s.rowWr m r o bs).bx q = s.bx q := rfl
@[simp] theorem State.rowWr_mx (s : State) (m r o : Nat) (bs : List Byte) (q : Nat) : (s.rowWr m r o bs).mx q = s.mx q := rfl
@[simp] theorem State.rowWr_rx (s : State) (m r o : Nat) (bs : List Byte) (q : Nat) : (s.rowWr m r o bs).rx q = s.rx q := rfl
@[simp] theorem State.rowWr_pdOn (s : State) (m r o : Nat) (bs : List Byte) (q : Nat) : (s.rowWr m r o bs).pdOn q = s.pdOn q := rfl
@[simp] theorem State.rowWr_compOn (s : State) (m r o : Nat) (bs : List Byte) (q : Nat) : (s.rowWr m r o bs).compOn q = s.compOn q := rfl
@[simp] theorem State.rowWr_spdOn (s : State) (m r o : Nat) (bs : List Byte) (q : Nat) : (s.rowWr m r o bs).spdOn q = s.spdOn q := rfl

/-! ## setHzRule -/

@[simp] theorem State.setHzRule_pending (s : State) (i : Nat) (x : HzRule) : (s.setHzRule i x).pending = s.pending := rfl
@[simp] theorem State.setHzRule_free (s : State) (i : Nat) (x : HzRule) : (s.setHzRule i x).free = s.free := rfl
@[simp] theorem State.setHzRule_now (s : State) (i : Nat) (x : HzRule) : (s.setHzRule i x).now = s.now := rfl
@[simp] theorem State.setHzRule_regs (s : State) (i : Nat) (x : HzRule) : (s.setHzRule i x).regs = s.regs := rfl
@[simp] theorem State.setHzRule_latch (s : State) (i : Nat) (x : HzRule) : (s.setHzRule i x).latch = s.latch := rfl
@[simp] theorem State.setHzRule_busRead (s : State) (i : Nat) (x : HzRule) : (s.setHzRule i x).busRead = s.busRead := rfl
@[simp] theorem State.setHzRule_pins (s : State) (i : Nat) (x : HzRule) : (s.setHzRule i x).pins = s.pins := rfl
@[simp] theorem State.setHzRule_chip (s : State) (i : Nat) (x : HzRule) : (s.setHzRule i x).chip = s.chip := rfl
@[simp] theorem State.setHzRule_mem (s : State) (i : Nat) (x : HzRule) : (s.setHzRule i x).mem = s.mem := rfl
@[simp] theorem State.setHzRule_flips (s : State) (i : Nat) (x : HzRule) : (s.setHzRule i x).flips = s.flips := rfl
@[simp] theorem State.setHzRule_macros (s : State) (i : Nat) (x : HzRule) : (s.setHzRule i x).macros = s.macros := rfl
@[simp] theorem State.setHzRule_blocks (s : State) (i : Nat) (x : HzRule) : (s.setHzRule i x).blocks = s.blocks := rfl
@[simp] theorem State.setHzRule_regions (s : State) (i : Nat) (x : HzRule) : (s.setHzRule i x).regions = s.regions := rfl
@[simp] theorem State.setHzRule_net (s : State) (i : Nat) (x : HzRule) : (s.setHzRule i x).net = s.net := rfl
@[simp] theorem State.setHzRule_mesh (s : State) (i : Nat) (x : HzRule) : (s.setHzRule i x).mesh = s.mesh := rfl
@[simp] theorem State.setHzRule_img (s : State) (i : Nat) (x : HzRule) : (s.setHzRule i x).img = s.img := rfl
@[simp] theorem State.setHzRule_sets (s : State) (i : Nat) (x : HzRule) : (s.setHzRule i x).sets = s.sets := rfl
@[simp] theorem State.setHzRule_on (s : State) (i : Nat) (x : HzRule) : (s.setHzRule i x).on = s.on := rfl
@[simp] theorem State.setHzRule_power (s : State) (i : Nat) (x : HzRule) : (s.setHzRule i x).power = s.power := rfl
@[simp] theorem State.setHzRule_errs (s : State) (i : Nat) (x : HzRule) : (s.setHzRule i x).errs = s.errs := rfl
@[simp] theorem State.setHzRule_pml (s : State) (i : Nat) (x : HzRule) : (s.setHzRule i x).pml = s.pml := rfl
@[simp] theorem State.setHzRule_cad (s : State) (i : Nat) (x : HzRule) : (s.setHzRule i x).cad = s.cad := rfl
@[simp] theorem State.setHzRule_job (s : State) (i : Nat) (x : HzRule) : (s.setHzRule i x).job = s.job := rfl
@[simp] theorem State.setHzRule_hbmQ (s : State) (i : Nat) (x : HzRule) : (s.setHzRule i x).hbmQ = s.hbmQ := rfl
@[simp] theorem State.setHzRule_hbmPos (s : State) (i : Nat) (x : HzRule) : (s.setHzRule i x).hbmPos = s.hbmPos := rfl
@[simp] theorem State.setHzRule_cour (s : State) (i : Nat) (x : HzRule) : (s.setHzRule i x).cour = s.cour := rfl
@[simp] theorem State.setHzRule_sdio (s : State) (i : Nat) (x : HzRule) : (s.setHzRule i x).sdio = s.sdio := rfl
@[simp] theorem State.setHzRule_mail (s : State) (i : Nat) (x : HzRule) : (s.setHzRule i x).mail = s.mail := rfl
@[simp] theorem State.setHzRule_store (s : State) (i : Nat) (x : HzRule) : (s.setHzRule i x).store = s.store := rfl
@[simp] theorem State.setHzRule_nim (s : State) (i : Nat) (x : HzRule) : (s.setHzRule i x).nim = s.nim := rfl
@[simp] theorem State.setHzRule_bist (s : State) (i : Nat) (x : HzRule) : (s.setHzRule i x).bist = s.bist := rfl
@[simp] theorem State.setHzRule_tap (s : State) (i : Nat) (x : HzRule) : (s.setHzRule i x).tap = s.tap := rfl
@[simp] theorem State.setHzRule_reg (s : State) (i : Nat) (x : HzRule) (q : Nat) : (s.setHzRule i x).reg q = s.reg q := rfl
@[simp] theorem State.setHzRule_getF (s : State) (i : Nat) (x : HzRule) (q : Nat) (g : Fld) : (s.setHzRule i x).getF q g = s.getF q g := rfl
@[simp] theorem State.setHzRule_isF (s : State) (i : Nat) (x : HzRule) (q : Nat) (g : Fld) : (s.setHzRule i x).isF q g = s.isF q g := rfl
@[simp] theorem State.setHzRule_bx (s : State) (i : Nat) (x : HzRule) (q : Nat) : (s.setHzRule i x).bx q = s.bx q := rfl
@[simp] theorem State.setHzRule_mx (s : State) (i : Nat) (x : HzRule) (q : Nat) : (s.setHzRule i x).mx q = s.mx q := rfl
@[simp] theorem State.setHzRule_rx (s : State) (i : Nat) (x : HzRule) (q : Nat) : (s.setHzRule i x).rx q = s.rx q := rfl
@[simp] theorem State.setHzRule_pdOn (s : State) (i : Nat) (x : HzRule) (q : Nat) : (s.setHzRule i x).pdOn q = s.pdOn q := rfl
@[simp] theorem State.setHzRule_compOn (s : State) (i : Nat) (x : HzRule) (q : Nat) : (s.setHzRule i x).compOn q = s.compOn q := rfl
@[simp] theorem State.setHzRule_spdOn (s : State) (i : Nat) (x : HzRule) (q : Nat) : (s.setHzRule i x).spdOn q = s.spdOn q := rfl

/-! ## at -/

@[simp] theorem State.at_pending (s : State) (t : Nat) : (s.at t).pending = s.pending := rfl
@[simp] theorem State.at_free (s : State) (t : Nat) : (s.at t).free = s.free := rfl
@[simp] theorem State.at_now (s : State) (t : Nat) : (s.at t).now = max s.now t := rfl
@[simp] theorem State.at_regs (s : State) (t : Nat) : (s.at t).regs = s.regs := rfl
@[simp] theorem State.at_latch (s : State) (t : Nat) : (s.at t).latch = s.latch := rfl
@[simp] theorem State.at_busRead (s : State) (t : Nat) : (s.at t).busRead = s.busRead := rfl
@[simp] theorem State.at_pins (s : State) (t : Nat) : (s.at t).pins = s.pins := rfl
@[simp] theorem State.at_chip (s : State) (t : Nat) : (s.at t).chip = s.chip := rfl
@[simp] theorem State.at_mem (s : State) (t : Nat) : (s.at t).mem = s.mem := rfl
@[simp] theorem State.at_flips (s : State) (t : Nat) : (s.at t).flips = s.flips := rfl
@[simp] theorem State.at_macros (s : State) (t : Nat) : (s.at t).macros = s.macros := rfl
@[simp] theorem State.at_blocks (s : State) (t : Nat) : (s.at t).blocks = s.blocks := rfl
@[simp] theorem State.at_regions (s : State) (t : Nat) : (s.at t).regions = s.regions := rfl
@[simp] theorem State.at_net (s : State) (t : Nat) : (s.at t).net = s.net := rfl
@[simp] theorem State.at_mesh (s : State) (t : Nat) : (s.at t).mesh = s.mesh := rfl
@[simp] theorem State.at_img (s : State) (t : Nat) : (s.at t).img = s.img := rfl
@[simp] theorem State.at_sets (s : State) (t : Nat) : (s.at t).sets = s.sets := rfl
@[simp] theorem State.at_on (s : State) (t : Nat) : (s.at t).on = s.on := rfl
@[simp] theorem State.at_power (s : State) (t : Nat) : (s.at t).power = s.power := rfl
@[simp] theorem State.at_errs (s : State) (t : Nat) : (s.at t).errs = s.errs := rfl
@[simp] theorem State.at_pml (s : State) (t : Nat) : (s.at t).pml = s.pml := rfl
@[simp] theorem State.at_cad (s : State) (t : Nat) : (s.at t).cad = s.cad := rfl
@[simp] theorem State.at_job (s : State) (t : Nat) : (s.at t).job = s.job := rfl
@[simp] theorem State.at_hbmQ (s : State) (t : Nat) : (s.at t).hbmQ = s.hbmQ := rfl
@[simp] theorem State.at_hbmPos (s : State) (t : Nat) : (s.at t).hbmPos = s.hbmPos := rfl
@[simp] theorem State.at_cour (s : State) (t : Nat) : (s.at t).cour = s.cour := rfl
@[simp] theorem State.at_sdio (s : State) (t : Nat) : (s.at t).sdio = s.sdio := rfl
@[simp] theorem State.at_mail (s : State) (t : Nat) : (s.at t).mail = s.mail := rfl
@[simp] theorem State.at_store (s : State) (t : Nat) : (s.at t).store = s.store := rfl
@[simp] theorem State.at_nim (s : State) (t : Nat) : (s.at t).nim = s.nim := rfl
@[simp] theorem State.at_hzn (s : State) (t : Nat) : (s.at t).hzn = s.hzn := rfl
@[simp] theorem State.at_bist (s : State) (t : Nat) : (s.at t).bist = s.bist := rfl
@[simp] theorem State.at_tap (s : State) (t : Nat) : (s.at t).tap = s.tap := rfl
@[simp] theorem State.at_reg (s : State) (t : Nat) (q : Nat) : (s.at t).reg q = s.reg q := rfl
@[simp] theorem State.at_getF (s : State) (t : Nat) (q : Nat) (g : Fld) : (s.at t).getF q g = s.getF q g := rfl
@[simp] theorem State.at_isF (s : State) (t : Nat) (q : Nat) (g : Fld) : (s.at t).isF q g = s.isF q g := rfl
@[simp] theorem State.at_bx (s : State) (t : Nat) (q : Nat) : (s.at t).bx q = s.bx q := rfl
@[simp] theorem State.at_mx (s : State) (t : Nat) (q : Nat) : (s.at t).mx q = s.mx q := rfl
@[simp] theorem State.at_rx (s : State) (t : Nat) (q : Nat) : (s.at t).rx q = s.rx q := rfl
@[simp] theorem State.at_pdOn (s : State) (t : Nat) (q : Nat) : (s.at t).pdOn q = s.pdOn q := rfl
@[simp] theorem State.at_compOn (s : State) (t : Nat) (q : Nat) : (s.at t).compOn q = s.compOn q := rfl
@[simp] theorem State.at_spdOn (s : State) (t : Nat) (q : Nat) : (s.at t).spdOn q = s.spdOn q := rfl

end Sys2Proof.Machine
end

