-- ==== Sys2Proof/Tests/Base.lean ====
section
/-! SUPPORT. Small states for the tests: builders over the state after reset. -/

namespace Sys2Proof.Tests

open Sys2Proof Sys2Proof.Machine

/-- Bytes stored from an address upward. -/
def cells (a : Nat) (l : List Byte) : Mem := Mem.wrN [] a l

/-- A command packet (R389): version 2.0, TAG 7, SEQ 0. -/
def packetOf (op : Nat) (flags : Nat) (par : List Byte) : List Byte :=
  let p := [2, 0] ++ leBytes 2 op ++ leBytes 2 7 ++ leBytes 2 flags ++ leBytes 2 par.length ++ leBytes 4 0 ++ leBytes 2 0 ++ par
  p ++ leBytes 4 (crc32c p)

/-- The state after reset with other chip state and powered domains. -/
def inState (st : ChipSt) (on : Nat) : State := { State.reset with chip := { State.reset.chip with st := st }, on := on }

/-- A state with one command waiting at the front of the command ring in an open session of version 2.0. -/
def hostState (s : State) (op flags : Nat) (par : List Byte) : State :=
  { s with
    mem := { s.mem with pigeon := cells 0 (packetOf op flags par) },
    sdio := { s.sdio with cmdDb := 1, cmdCi := 0 },
    mail := { s.mail with sess := true, ver := 0x200, expSeq := 0 } }

/-- A ready device with its spine on. -/
def ready : State := inState .ready 15

/-- A ready device with every domain on. -/
def full : State := inState .ready (2 ^ 40 - 1)

/-- A pair from its first part. -/
theorem pair_of_fst {α β : Type} {p : α × β} {x : α} (h : p.1 = x) : p = (x, p.2) := by
  rw [← h]

/-- Bytes padded to a multiple of 64. -/
def padded (l : List Byte) : List Byte := padTo ((l.length + 63) / 64 * 64) l

/-- A plan image (R198, R199) without its CRC, with STEP_SETS 1 and these sections, as (type, scope, records, bytes). -/
def planRaw (sects : List (Nat × Nat × Nat × List Byte)) : List Byte :=
  let first := (64 + 16 * sects.length + 63) / 64 * 64
  let body := sects.foldl (fun (a : List Byte × List Byte) e =>
    (a.1 ++ leBytes 2 e.1 ++ leBytes 2 e.2.1 ++ leBytes 4 (first + a.2.length) ++ leBytes 4 e.2.2.2.length ++ leBytes 4 e.2.2.1,
      a.2 ++ padded e.2.2.2)) ([], [])
  let n := first + body.2.length + 64
  let h := leBytes 4 0x4E414C50 ++ leBytes 2 1 ++ leBytes 2 sects.length ++ leBytes 4 n ++ leBytes 4 0x77 ++ leBytes 8 5 ++ leBytes 4 0 ++ leBytes 4 1
  padTo (n - 4) (padTo 64 h ++ padTo (first - 64) body.1 ++ body.2)

/-- With its CRC. -/
def planOf (sects : List (Nat × Nat × Nat × List Byte)) : List Byte := planRaw sects ++ leBytes 4 (crc32c (planRaw sects))

/-- A plan with a SHAPES section of one record alone. -/
def smallPlan : List Byte := planOf [(0x11, 0xFFFF, 1, leBytes 8 0)]

/-- Group 9 of four live members at coordinates 0, 5, 10 and 15, of which the device is member `own`. -/
def grouped (s : State) (own : Nat) : State :=
  let f := fun (s : State) (f : Fld) (v : Nat) => s.setF nimBase f v
  let s1 := f (f (f (f (f s F.NIM_CTL_EN 1) F.NIM_GROUP_VALID 1) F.NIM_GROUP_K 2) F.NIM_GROUP_MEMBER own) F.NIM_GROUP_GROUP_ID 9
  (List.range 4).foldl (fun st m => st.setReg (nimBase + 0x200 + 4 * m) (BitVec.ofNat 32 (5 * m + 4096 * m + 0x30000))) s1

/-- A Nimbus message of a member of group 9 to the device at coordinate 0. -/
def nimMsgOf (op sender epoch step arg : Nat) (d : List Byte) : CMsg :=
  ⟨0, 5 * sender, 0x130, 0x130, 7, 0, d.length / 64, 0, 0, 0, 0, nimHeader op sender 9 epoch step arg 0 [] ++ d⟩

/-- A message from another device waits for its routing or handling. -/
def gets (s : State) (m : CMsg) : State := { s with cour := { s.cour with inbox := [(255, m)] } }

/-- Member 0 of group 9 runs. -/
def running4 : State := grouped (inState .running (2 ^ 40 - 1)) 0

/-- A tensor descriptor (Table 6.2): format, packed, place, address, extents and strides, with OUTDIM 0 and ROWDIM 1. -/
def descB (fmt : Nat) (packed : Bool) (loc addr : Nat) (exts strides : List Nat) : List Byte :=
  padTo 128 (padTo 64 (padTo 32 (leBytes 3 0 ++ leBytes 1 (fmt + 16 * b2n packed) ++ leBytes 1 loc ++ [0, 0, 0] ++ leBytes 8 addr ++ List.replicate 8 0 ++ leBytes 1 8)
    ++ exts.flatMap (leBytes 4)) ++ strides.flatMap (leBytes 8))

/-- A plan whose last block has its first context run these operations once. -/
def opsPlan (ops : List Nat) (loops descs : List (List Byte)) : List Byte :=
  planRaw ([(2, 255, 1, leBytes 4 0 ++ leBytes 2 ops.length ++ leBytes 10 4), (3, 255, ops.length, ops.flatMap (leBytes 32))]
    ++ (if descs = [] then [] else [(5, 255, descs.length, descs.flatten)]) ++ (if loops = [] then [] else [(4, 255, loops.length, loops.flatten)]))

/-- That context at its first operation for a result set with V1 = 2; the last macro is enabled, and a claim window over all banks is open. -/
def opAt (img : List Byte) : State :=
  { inState .running (2 ^ 40 - 1) with
    img := img, sets := [⟨0, 9, false, false, [2]⟩], job := { Job.init with j := 1, recs := [⟨9, 1, 0, 0, 0, 0, 0, 0, 0, 0, 0, 0, 0⟩] },
    regs := [(0x2FF00000, 1), (0x2FF00400, 0x97FF0000), (0x2FFBC000, 0x100)],
    blocks := [(255, { BlockX.init with ctxs := [(0, ⟨.ready, 0, 0, 1, true, 0, 0, 0, []⟩)] })] }

/-- An issue of a block with nothing in flight. -/
def someIssue : Issue :=
  ⟨1, 0, 0, 0, 0, 9, [], [], [], [], [], [], 1, 0, 0, [], [], 0, 0, 0, false, [], [], 0, 0, 0, Engine.init 0, Engine.init 1, false⟩

/-- The issue of a verdict. -/
def goOf (v : Verdict) : Issue :=
  match v with
  | .go i => i
  | .probe i => i
  | _ => someIssue

/-- A context with a pass under way is up to date. -/
theorem tidy_running (s : State) (b c : Nat) (h : (s.ctx b c).running = true) : s.ctxTidy b c = s := by
  unfold State.ctxTidy
  split
  · simp [State.ctxTidyN, h]
  · rfl

/-- Without scale streams the input scale of a row is the descriptor's. -/
theorem inScale_plain (s : State) (b r sc : Nat) (i : Issue) (h : (s.iDesc b i 0).streams = false) (hf : (s.iDesc b i 0).fixed = sc) :
    s.inScale b i r = (sc, s) := by
  unfold State.inScale
  simp [h, hf]

/-- One issue is all that the last block works on. -/
def holding (s : State) (i : Issue) : State := s.setBx 255 { s.bx 255 with issues := [i], nextId := 9 }

/-- The issue of the first operation of a plan. -/
def drafted (img : List Byte) : Issue := (opAt img).draftIssue 255 0 ⟨0, 9, false, false, [2]⟩ none

/-- The last block in the midst of an issue of the first operation of a plan. -/
def amid (img : List Byte) (i : Issue) : State := holding (opAt img) i

/-- No isolated link lies between the chip hub and a pseudo-channel, either way. -/
def hubOpen (s : State) : Bool := (List.range 64).all (fun pc => s.pathOpen 272 (1024 + pc) && s.pathOpen (1024 + pc) 272)

/-- Without protection windows, flipped bits, queued requests, isolated links or a chunk due, the chip hub reads and writes any bytes below the end of
HBM. -/
theorem hubGood_plain (s : State) (a n : Nat) (ho : hubOpen s = true) (hc : s.collDue = none) (hf : s.flips.hbm = []) (hq : s.hbmQ = [])
    (hw : ∀ st < 2, ∀ w < 8, s.isF (hbmBase st) (F.HBM_PROT_BASE_VALID.idx (0x10 * w)) = false) (hn : a + n + 64 ≤ hbmTop) : s.hubGood a n := by
  have hlt64 : ∀ x, hbmPc x < 64 := by
    intro x
    have h1 : bits x 8 6 < 2 ^ 6 := by unfold bits; exact Nat.mod_lt _ (by decide)
    have h2 : bits x 14 6 < 2 ^ 6 := by unfold bits; exact Nat.mod_lt _ (by decide)
    exact Nat.xor_lt_two_pow h1 h2
  have hpc : ∀ x, hbmPc x / 32 < 2 := fun x => by have := hlt64 x; omega
  have hall : ∀ x src wr, s.hbmAllowed x src wr = true := by
    intro x src wr
    have hno : (List.range 8).find? (fun w => s.isF (hbmBase (hbmPc x / 32)) (F.HBM_PROT_BASE_VALID.idx (0x10 * w))
        && decide (s.getF (hbmBase (hbmPc x / 32)) (F.HBM_PROT_BASE_BASE.idx (0x10 * w)) ≤ x / 16384)
        && decide (x / 16384 ≤ s.getF (hbmBase (hbmPc x / 32)) (F.HBM_PROT_LIMIT_LIMIT.idx (0x10 * w)))) = none := by
      rw [List.find?_eq_none]
      intro w h
      simp [hw _ (hpc x) w (List.mem_range.mp h)]
    unfold State.hbmAllowed
    simp only [hno]
  refine ⟨hc, fun i hi => ?_⟩
  have hlt : a + 64 * i < hbmTop := by
    have : 64 * i ≤ n + 63 := by
      unfold ceilDiv at hi
      omega
    omega
  have hp := List.all_eq_true.mp ho _ (List.mem_range.mpr (hlt64 (a + 64 * i)))
  rw [Bool.and_eq_true] at hp
  refine ⟨?_, ?_, hp.1, hp.2, ?_⟩
  · simp [State.lineGood, hall, hf, flipsIn, hlt]
  · simp [State.lineGood, hall, hf, flipsIn, hlt]
  · simp [State.pcQueue, hq, SMap.get]

/-- A descriptor of the block's own scratchpad of two dimensions whose elements all lie below the end of the banks. -/
def inBanks (d : Desc) : Bool :=
  decide (d.loc = 0) && (match d.exts with
    | [e0, e1, 1, 1, 1, 1] => (List.range e0).all (fun c => (List.range e1).all (fun r =>
        decide ((elemOff d [(c : Int), (r : Int), 0, 0, 0, 0]).1 + elemLen d ≤ 0x60000)))
    | _ => false)

theorem mapM_some {α : Type} (f : Nat → α) (l : List Nat) : (l.map (fun x => some (f x))).mapM id = some (l.map f) := by
  induction l with
  | nil => rfl
  | cons a l ih => simp [List.mapM_cons, ih]

theorem banked_of (s : State) (b : Nat) (d : Desc) (h : inBanks d = true) : s.banked b d := by
  intro p ks k hin hks hk _
  unfold inBanks at h
  split at h
  · rename_i e0 e1 hx
    simp only [Bool.and_eq_true, decide_eq_true_eq, List.all_eq_true, List.mem_range] at h
    obtain ⟨hl, hall⟩ := h
    simp only [inBounds, List.all_eq_true, List.mem_range, Bool.and_eq_true, decide_eq_true_eq, hx] at hin
    have h0 := hin 0 (by decide)
    have h1 := hin 1 (by decide)
    have h2 := hin 2 (by decide)
    have h3 := hin 3 (by decide)
    have h4 := hin 4 (by decide)
    have h5 := hin 5 (by decide)
    simp only [List.getD_cons_zero, List.getD_cons_succ] at h0 h1 h2 h3 h4 h5
    have hp : elemOff d p = elemOff d [((p.getD 0 0).toNat : Int), ((p.getD 1 0).toNat : Int), 0, 0, 0, 0] := by
      have e2 : p.getD 2 0 = 0 := by omega
      have e3 : p.getD 3 0 = 0 := by omega
      have e4 : p.getD 4 0 = 0 := by omega
      have e5 : p.getD 5 0 = 0 := by omega
      have e1' : (((p.getD 1 0).toNat : Nat) : Int) = p.getD 1 0 := by omega
      have hg : ∀ i ∈ List.range 5, p.getD (i + 1) 0 * d.strides.getD (i + 1) 0
          = ([((p.getD 0 0).toNat : Int), ((p.getD 1 0).toNat : Int), 0, 0, 0, 0] : List Int).getD (i + 1) 0 * d.strides.getD (i + 1) 0 := by
        intro i hi
        have : i = 0 ∨ i = 1 ∨ i = 2 ∨ i = 3 ∨ i = 4 := by
          have := List.mem_range.mp hi
          omega
        obtain rfl | rfl | rfl | rfl | rfl := this <;>
          simp only [List.getD_cons_zero, List.getD_cons_succ, Nat.zero_add, Nat.reduceAdd, e1', e2, e3, e4, e5]
      unfold elemOff
      simp only [List.map_congr_left hg, List.getD_cons_zero, Int.toNat_natCast]
    have hb := hall (p.getD 0 0).toNat (by omega) (p.getD 1 0).toNat (by omega)
    rw [← hp] at hb
    have hr : elemKeys s.img s.ownCoord b d p = some ((List.range (elemLen d)).map (fun i => keySpd b ((elemOff d p).1 + i))) := by
      unfold elemKeys
      simp only [resolve, hl, if_true]
      exact mapM_some _ _
    rw [hr] at hks
    cases hks
    simp only [List.mem_map, List.mem_range] at hk
    obtain ⟨i, hi, rfl⟩ := hk
    unfold spdOff lineOf keySpd
    omega
  · simp at h

/-- Bytes 1 to 64. -/
def count64 : List Byte := (List.range 64).map (fun j => BitVec.ofNat 8 (j + 1))

end Sys2Proof.Tests
end

