-- ==== Sys2Proof/WellFormed.lean ====
section
/-! DEFINITION. Well-formed commands: each operand lies in the range of what it names. A command that is not well formed names a unit, a
register or a value that does not exist; its meaning leaves the state as it is. -/

namespace Sys2Proof

/-- The operand lies below a bound. -/
def below (n k : Nat) : Bool := decide (n < k)

/-- A flit has 256 bytes (R340). -/
def Flit.whole (f : Flit) : Bool := decide (f.bytes.length = 256)

/-- The command is well formed. -/
def Instr.wf : Instr → Bool
  | .pwrgoodRise strapBoot strapIo18 feedtag => below strapBoot 4 && below strapIo18 2 && below feedtag 16
  | .pwrgoodFall => true
  | .resetNLow => true
  | .resetNRise strapBoot strapIo18 feedtag => below strapBoot 4 && below strapIo18 2 && below feedtag 16
  | .chipRstSoft v => below v (2 ^ 32)
  | .softResetPulse => true
  | .trstNLow => true
  | .startUpStage _ => true
  | .domainSettled d => below d 40
  | .pwrSet => true
  | .pwrReqWrite _ v => below v (2 ^ 32)
  | .sleep => true
  | .sleepEntry => true
  | .sdiHostctlWake => true
  | .regionPowerDown r => below r 16
  | .rgnAclkStepWrite r v => below r 16 && below v (2 ^ 32)
  | .synthesizerLocked r => below r 16
  | .ldoSettled r => below r 16
  | .rgnLdoOor r => below r 16
  | .governorWindowEnd r => below r 16
  | .fwd b c => below b 256 && below c 32
  | .trn b c => below b 256 && below c 32
  | .resWrite b c => below b 256 && below c 32
  | .resMerge b c => below b 256 && below c 32
  | .update b c => below b 256 && below c 32
  | .pass b c => below b 256 && below c 32
  | .rowfin b c => below b 256 && below c 32
  | .sfwd b c => below b 256 && below c 32
  | .strn b c => below b 256 && below c 32
  | .sexpand b c => below b 256 && below c 32
  | .spack b c => below b 256 && below c 32
  | .copy b c => below b 256 && below c 32
  | .tcopy b c => below b 256 && below c 32
  | .pcopy b c => below b 256 && below c 32
  | .atomic b c => below b 256 && below c 32
  | .waitcnt b c => below b 256 && below c 32
  | .forwardRow b _ _ => below b 256
  | .transposedRow b _ _ => below b 256
  | .correctionRead b _ => below b 256
  | .epilogue b _ => below b 256
  | .issueRetire b _ => below b 256
  | .remoteRead _ => true
  | .remoteWrite _ => true
  | .atomicAddRequest _ => true
  | .atomicApply r => below r 16
  | .readData b _ _ => below b 256
  | .writeAcknowledgement _ => true
  | .creditReturn _ => true
  | .registerAccess _ addr v => below addr (2 ^ 32) && below v (2 ^ 32)
  | .flitCrcMismatch r b p => below r 16 && below b 16 && below p 5
  | .hbmReadService pc _ => below pc 64
  | .hbmWriteService pc _ => below pc 64
  | .hbmNarrowWrite pc _ => below pc 64
  | .hbmAtomicAdd pc _ => below pc 64
  | .hbmScrubStep pc => below pc 64
  | .hbmRefresh pc bank => below pc 64 && below bank 64
  | .hbmTemperatureRead st _ => below st 2
  | .scrubStep b => below b 256
  | .scrub e _ => below e 1027
  | .macRemapValidWrite m i v => below m 4096 && below i 16 && below v (2 ^ 32)
  | .fillStep b => below b 256
  | .macCfgWrite m v => below m 4096 && below v (2 ^ 32)
  | .macRbGo m v => below m 4096 && below v (2 ^ 32)
  | .readback b => below b 256
  | .macShadowSync m => below m 4096
  | .macSyncRowCopied m => below m 4096
  | .macShadowRestore m => below m 4096
  | .macRestoreRetire m => below m 4096
  | .spdShadowSync b => below b 256
  | .spdShadowRestore b => below b 256
  | .spdShadowDone b => below b 256
  | .gatherLineFlush b _ => below b 256
  | .cirrusGroupPrediction b _ => below b 256
  | .cirThreshWrite b v => below b 256 && below v (2 ^ 32)
  | .recalibrationChain b _ => below b 256
  | .recalOpen e _ => below e 1027
  | .recalClose e _ => below e 1027
  | .sparseGroupDeal b _ => below b 256
  | .pieceEmit b _ _ => below b 256
  | .mergeRelease b _ => below b 256
  | .cadenceInEdge _ => true
  | .coastedBoundary _ => true
  | .cadLost _ => true
  | .cadCmdSet => true
  | .admitRecord e _ => below e 1027
  | .deadline e _ => below e 1027
  | .tracker e _ => below e 1027
  | .bistRecord e _ => below e 1027
  | .secureRecord e _ => below e 1027
  | .wakeRecord e _ => below e 1027
  | .restRecord e _ => below e 1027
  | .cadenceOutPulse _ => true
  | .beacon p f _ => below p 16 && f.whole
  | .laneSignal p lane => below p 16 && below lane 8
  | .equalizeComplete p => below p 16
  | .alignComplete p lanes => below p 16 && below lanes (2 ^ 24)
  | .ts1 p f => below p 16 && f.whole
  | .ts2 p f => below p 16 && f.whole
  | .negotiateTimeout p => below p 16
  | .messageFlit p f => below p 16 && f.whole
  | .idleFlit p f => below p 16 && f.whole
  | .retry p f => below p 16 && f.whole
  | .retryRepeat p => below p 16
  | .ackTimeout p => below p 16
  | .lockLoss p => below p 16
  | .curCtlTrain p => below p 16
  | .curCtlEnClear p => below p 16
  | .messageRoute _ => true
  | .handoff _ => true
  | .collAdd _ => true
  | .collBcast _ => true
  | .curTimeout _ => true
  | .cmd0 => true
  | .cmd3 => true
  | .cmd5 arg => below arg.value (2 ^ 32)
  | .cmd7 arg => below arg.value (2 ^ 32)
  | .cmd11 => true
  | .cmd15 arg => below arg.value (2 ^ 32)
  | .cmd19 => true
  | .cmd52 arg => below arg.value (2 ^ 32)
  | .cmd53 arg _ => below arg.value (2 ^ 32)
  | .res => true
  | .ioAbort fn => below fn 8
  | .sdiCmdDbWrite v => below v (2 ^ 32)
  | .sdiRplDbWrite v => below v (2 ^ 32)
  | .sdiEvtDbWrite v => below v (2 ^ 32)
  | .replyWrite _ => true
  | .eventAppend => true
  | .mbxbsyPulseEnd => true
  | .heartbeat _ => true
  | .ioReady => true
  | .hello => true
  | .negotiate => true
  | .bye => true
  | .identify => true
  | .getIdKey => true
  | .quote => true
  | .fwLoad => true
  | .fwActivate => true
  | .fwInfo => true
  | .pwrState => true
  | .imgList => true
  | .imgWrite => true
  | .imgPull => true
  | .imgDelete => true
  | .imgRead => true
  | .shadowSync => true
  | .planLoad => true
  | .planVerify => true
  | .planArm => true
  | .planStart => true
  | .planStop => true
  | .planDrain => true
  | .planStatus => true
  | .trackerRead => true
  | .cadStatus => true
  | .cadSetSlot => true
  | .slotStatus => true
  | .submit => true
  | .submitDataVisible => true
  | .fetch => true
  | .ringSetup => true
  | .hbmWrite => true
  | .hbmRead => true
  | .linkStatus => true
  | .setCoord => true
  | .routeWrite => true
  | .setTag => true
  | .groupForm => true
  | .secure => true
  | .restore => true
  | .rejoin => true
  | .adopt => true
  | .secureStatus => true
  | .bistRun => true
  | .bistResult => true
  | .repairCommit => true
  | .pmlRead => true
  | .pmlStatus => true
  | .pmlClear => true
  | .setTime => true
  | .regRead => true
  | .regWrite => true
  | .hznRuleWrite => true
  | .hznRuleRead => true
  | .hznStatus => true
  | .horizonSample _ raw => Decidable.decide (raw.length = 64)
  | .hznRuleCmdCommit => true
  | .activeRuleCopy => true
  | .postmarkCommit => true
  | .faultSlotService => true
  | .freeze => true
  | .freezeCopyComplete => true
  | .digestsFormed => true
  | .reductionStart => true
  | .ping _ => true
  | .pong _ => true
  | .lost _ => true
  | .statusReq _ => true
  | .status _ => true
  | .decide _ => true
  | .zeroed _ => true
  | .go _ => true
  | .added _ => true
  | .pushed _ => true
  | .ready _ => true
  | .commit _ => true
  | .secureReq _ => true
  | .parity _ => true
  | .digests _ => true
  | .secured _ => true
  | .epochDone _ => true
  | .members _ => true
  | .adopted _ => true
  | .rebuildComplete => true
  | .peerPingTimeout c => below c 4096
  | .statusTimeout c => below c 4096
  | .decideTimeout => true
  | .bistUnitClaim _ => true
  | .bistUnitComplete _ _ => true
  | .bypass => true
  | .idcode => true
  | .samplePreload v => below v (2 ^ 32)
  | .extest v => below v (2 ^ 32)
  | .extestPulse v => below v (2 ^ 32)
  | .extestTrain v => below v (2 ^ 32)
  | .privateInstruction _ => true
  | .secDebugUnlock v => below v (2 ^ 32)
  | .registerWrite addr v => below addr (2 ^ 32) && below v (2 ^ 32)
  | .softResetPulseEnd strapBoot strapIo18 feedtag => below strapBoot 4 && below strapIo18 2 && below feedtag 16
  | .cadenceOutPulseEnd _ => true
  | .curCtlEnSet p => below p 16
  | .hbmRequest _ => true
  | .spdSyncKibCopied b => below b 256
  | .restoreComplete => true
  | .firmwareVerifiedAtWake => true
  | .badOpcode => true

end Sys2Proof
end

