-- ==== Sys2Proof/Tests/Slice0.lean ====
section
/-! SUPPORT. Tests of single commands and functions: ill-formed commands refused by each kind of check, one-step tests with results from the spec, and the
published check values of the hash functions. The witnesses of the statements stand in the other test files. -/

namespace Sys2Proof.Tests

open Sys2Proof Sys2Proof.Machine
set_option Elab.async false

/-- A flit of 256 zero bytes, and one that is too short. -/
def zeros : Flit := ⟨List.replicate 256 0, none, 0⟩
def stub : Flit := ⟨List.replicate 255 0, none, 0⟩

/-- Each check of WellFormed refuses the first value beyond its bound. -/
theorem test_wf_refuses : ∀ c ∈ [Instr.pwrgoodRise 4 0 0, .pwrgoodRise 0 2 0, .pwrgoodRise 0 0 16, .resetNRise 4 0 0, .resetNRise 0 2 0, .resetNRise 0 0 16,
    .softResetPulseEnd 4 0 0, .chipRstSoft (2 ^ 32), .domainSettled 40, .pwrReqWrite false (2 ^ 32), .regionPowerDown 16, .rgnAclkStepWrite 16 0,
    .rgnAclkStepWrite 0 (2 ^ 32), .fwd 256 0, .fwd 0 32, .waitcnt 256 0, .forwardRow 256 0 0, .atomicApply 16, .registerAccess true (2 ^ 32) 0,
    .registerWrite 0 (2 ^ 32), .flitCrcMismatch 0 16 0, .flitCrcMismatch 0 0 5, .hbmReadService 64 0, .hbmRefresh 0 64, .hbmTemperatureRead 2 0,
    .scrub 1027 0, .admitRecord 1027 0, .macRemapValidWrite 4096 0 0, .macRemapValidWrite 0 16 0, .macCfgWrite 0 (2 ^ 32), .beacon 16 zeros 0, .beacon 0 stub 0,
    .laneSignal 0 8, .alignComplete 0 (2 ^ 24), .retry 16 zeros, .idleFlit 0 stub, .cmd52 ⟨2 ^ 32, false⟩, .cmd53 ⟨2 ^ 32, false⟩ ⟨[], []⟩, .ioAbort 8, .horizonSample 0 [], .peerPingTimeout 4096, .extest (2 ^ 32)],
    c.wf = false := by decide +kernel

/-- The last value within each bound is accepted. -/
theorem test_wf_accepts : ∀ c ∈ [Instr.pwrgoodRise 3 1 15, .resetNRise 3 1 15, .softResetPulseEnd 3 1 15, .chipRstSoft (2 ^ 32 - 1), .domainSettled 39,
    .regionPowerDown 15, .fwd 255 31, .atomicApply 15, .registerAccess true (2 ^ 32 - 1) (2 ^ 32 - 1), .flitCrcMismatch 15 15 4, .hbmRefresh 63 63,
    .hbmTemperatureRead 1 127, .admitRecord 1026 0, .macRemapValidWrite 4095 15 (2 ^ 32 - 1), .beacon 15 zeros 0, .laneSignal 15 7,
    .alignComplete 15 (2 ^ 24 - 1), .retry 15 zeros, .cmd52 ⟨2 ^ 32 - 1, true⟩, .ioAbort 7, .horizonSample 0 (List.replicate 64 0), .peerPingTimeout 4095], c.wf = true := by
  decide +kernel

/-- The state that an outcome answers. -/
def nextOf (o : Host.Outcome State Fault Refusal) : State :=
  match o with
  | .next t => t
  | _ => State.reset

/-- The queue is first in, first out: the first command acts, the second waits (log entry 24). -/
theorem test_queue_order : (nextOf (step { ready with pending := [.idcode, .bypass] })).pending = [.bypass] := by decide +kernel
/-- IDCODE reads 0x94096BCF (R566). -/
theorem test_idcode : (nextOf (step { ready with pending := [.idcode] })).tap.out = 0x94096BCF := by decide +kernel
/-- PWRGOOD_FALL leads to OFF with no domain on (R508, R524). -/
theorem test_pwrgood_fall : (nextOf (step { ready with pending := [.pwrgoodFall] })).chip.st = .off
    ∧ (nextOf (step { ready with pending := [.pwrgoodFall] })).on = 0 := by decide +kernel
/-- A private instruction acts as BYPASS while debug is locked (R552). -/
theorem test_private_locked : (nextOf (step { ready with pending := [.privateInstruction 7] })).tap.ir = 0 := by decide +kernel
/-- Step 0 of a region clock targets 600 mV and step 10 targets 800 mV (R17). -/
theorem test_ldo_target : ldoTarget 0 = 600 ∧ ldoTarget 10 = 800 := by decide
/-- CRC-32C of "123456789", the check value published with the polynomial. -/
theorem test_crc32c : crc32c [0x31, 0x32, 0x33, 0x34, 0x35, 0x36, 0x37, 0x38, 0x39] = 0xE3069283 := by decide +kernel
/-- SHA-256 of "abc", from FIPS 180. -/
theorem test_sha256 : sha256 [0x61, 0x62, 0x63] = [0xBA, 0x78, 0x16, 0xBF, 0x8F, 0x01, 0xCF, 0xEA, 0x41, 0x41, 0x40, 0xDE, 0x5D, 0xAE, 0x22, 0x23,
    0xB0, 0x03, 0x61, 0xA3, 0x96, 0x17, 0x7A, 0x9C, 0xB4, 0x10, 0xFF, 0x61, 0xF2, 0x00, 0x15, 0xAD] := by decide +kernel
/-- Output channels of precisions 0 to 3 (R42, Table 2.1): 128, 256, 512 and 1,024. -/
theorem test_precisions : [0, 1, 2, 3].map precN = [128, 256, 512, 1024] := by decide
/-- An INT32 sum saturates at both ends (R166). -/
theorem test_atomic_saturates : (atomElem 0 0x7FFFFFFF 1).1 = 0x7FFFFFFF ∧ (atomElem 0 0x80000000 0xFFFFFFFF).1 = 0x80000000 := by decide +kernel

end Sys2Proof.Tests
end

