-- ==== Sys2Proof/Tests/WitnessAccess.lean ====
section
/-! SUPPORT. Witnesses: concrete states and operands that meet the hypotheses of the statements about scratchpads, registers, Cirrus upkeep, Horizon,
self-test and commands of the host to them, clause by clause. -/

namespace Sys2Proof.Tests

open Sys2Proof Sys2Proof.Machine
set_option Elab.async false

/-- A message in flight, and a command of the host at a device with every domain on. -/
def flying (s : State) (m : Msg) : State := { s with net := [m] }
def cmdS (op : Nat) (par : List Byte) : State := hostState full op 0 par
/-- What stands behind the last block, with a field of its circular region 15. -/
def bx255 (x : BlockX) : State := full.setBx 255 x
def circ15 (s : State) (f : Fld) (v : Nat) : State := s.setF (blkBase 255) (f.idx (0x10 * 15)) v
/-- Circular region 15 of the last block: two slots of one line at 0x5FF80, fed by block 3. -/
def circular : State :=
  circ15 (circ15 (circ15 (circ15 (circ15 full F.SPD_CIRC_BASE_VALID 1) F.SPD_CIRC_BASE_BASE (0x5FF80 / 64)) F.SPD_CIRC_CFG_SLOT 1)
    F.SPD_CIRC_CFG_SIZE 2) F.SPD_CIRC_CFG_REMOTE 1 |>.setF (blkBase 255) (F.SPD_CIRC_SRC_SRC.idx (0x10 * 15)) 3
/-- The atomic window of the last block up to its last line. -/
def windowed : State :=
  ((full.setF (blkBase 255) F.SPD_ATOM_WIN_BASE 4).setF (blkBase 255) F.SPD_ATOM_WIN_LIMIT (0x60000 / 64 - 1)).setF (blkBase 255) F.SPD_ATOM_WIN_VALID 1

/-- The block's region fenced. -/
def fencedIn (s : State) : State := s.setF (rgnBase 15) F.RGN_ERR_FENCE_BLOCKS 0x8000

/-- O40: reads of one and of 32 lines up to the end of a bank and beyond it, and at a fenced block. -/
theorem witness_scratch_reads :
    (∀ e ∈ [(0x5FFC0, 1), (0x5F800, 32), (0x5FFC0, 2)], let m : Msg := ⟨3, 255, 256, .read e.1 e.2 9⟩; let s := flying full m;
      s.msgAt 0 = some m ∧ s.spdOn m.dst = true ∧ s.linesHeld m.dst e.1 e.2 = false ∧ s.fenced m.dst = false ∧ s.ungathered m.dst e.1 (64 * e.2)
        ∧ s.spdClean m.dst e.1 (8 * e.2) ∧ s.pathOpen m.dst m.src = true)
    ∧ (∀ b ∈ [Body.read 0 1 9, Body.write 0 true [(5, 1, 255)] 9], let m : Msg := ⟨3, 255, 256, b⟩; let s := fencedIn (flying full m);
      s.msgAt 0 = some m ∧ s.spdOn m.dst = true ∧ s.linesHeld m.dst 0 1 = false ∧ s.fenced m.dst = true ∧ s.pathOpen m.dst m.src = true) := by
  unfold State.ungathered State.spdClean; decide +kernel

/-- O40: a write of the whole slot of a circular region, one of its last byte, and one outside. -/
theorem witness_scratch_writes :
    (∀ d ∈ [wholeLine (List.replicate 64 7), [(63, 7, 255)]], let l := 0x5FF80; let m : Msg := ⟨3, 255, 256, .write l false d 9⟩; let s := flying circular m;
      s.msgAt 0 = some m ∧ s.spdOn m.dst = true ∧ s.linesHeld m.dst l (dataLines d) = false ∧ s.fenced m.dst = false ∧ d ≠ []
        ∧ (∀ x ∈ d, s.circAt m.dst (l + x.1) = some 15 ∧ (l + x.1 - s.circBase m.dst 15) / s.circSlot m.dst 15 = 0)
        ∧ (∀ x ∈ d, flipsIn s.flips.spd (65536 * m.dst + (l + x.1) / 8) = 0) ∧ (s.bx m.dst).gather = []
        ∧ s.circRemote m.dst 15 = true ∧ s.circ m.dst 15 F.SPD_CIRC_SRC_SRC = m.src ∧ s.slotFor m.dst 15 0 = some (0, 1)
        ∧ s.pathOpen m.dst m.src = true ∧ s.circTail m.dst 15 = 0 ∧ 0 < 2 * s.circSize m.dst 15
        ∧ (∃ x ∈ d, l + x.1 = s.circBase m.dst 15 + 0 * s.circSlot m.dst 15 + s.circSlot m.dst 15 - 1)
        ∧ SMap.get 0 (s.bx m.dst).circBegun (doneKey 15 ((0 + 1) % (2 * s.circSize m.dst 15))) ≠ 1)
    ∧ (let m : Msg := ⟨3, 255, 256, .write 0x5FF40 true [(63, 7, 255)] 9⟩; let s := flying circular m;
        s.msgAt 0 = some m ∧ s.linesHeld m.dst 0x5FF40 (dataLines [(63, 7, 255)]) = false ∧ ∀ x ∈ [(63, (7 : Byte), (255 : Byte))], s.circAt m.dst (0x5FF40 + x.1) = none) := by
  decide +kernel

/-- The installed plan gives output 15 of block 255 to region 15 of block 3. -/
def creditState : State :=
  { flying full ⟨3, 255, 3, .credit 15⟩ with
      img := planRaw [(1, 255, 1, padTo 1024 (List.replicate (232 + 8 * 15) 0 ++ leBytes 4 (2 ^ 31 + 256 * 15 + 3)))] }
theorem witness_credit : creditState.msgAt 0 = some ⟨3, 255, 3, .credit 15⟩ ∧ outFeeds creditState.img 255 15 3 15 none = true
    ∧ (∀ q < 15, outFeeds creditState.img 255 q 3 15 none = false) ∧ creditState.spdOn 255 = true := by decide +kernel

theorem witness_atomics :
    (let g : GLine := ⟨64, [(0, 1, 255)], some (List.replicate 64 0), 9⟩; let s := bx255 { BlockX.init with gather := [g] };
      s.spdOn 255 = true ∧ (s.bx 255).gather.find? (fun x => decide (x.line = 64)) = some g ∧ g.data ≠ [] ∧ s.retHeld 255 64 = false
        ∧ ∀ x ∈ g.data, flipsIn s.flips.spd (65536 * 255 + (64 + x.1) / 8) = 0)
    ∧ (∀ e ∈ [(0x100, true), (0x5FFC0, true), (0xC0, false)], let m : Msg := ⟨3, 255, 255, .atomic e.1 [(0, 1, 255)] 0 none 9⟩; let s := flying windowed m;
      s.msgAt 0 = some m ∧ s.spdOn m.dst = true ∧ (s.rx (m.dst / 16)).atoms.length < 32 ∧ s.fenced m.dst = false ∧ s.inAtomWin m.dst e.1 = e.2)
    ∧ (∀ q ∈ [(⟨255, 0x100, [(0, 1, 255)], 0, none, 3, 9⟩ : AtomReq), ⟨255, 0x100, [], 0, some 15, 3, 9⟩],
      let s := windowed.setRx 15 { RegionX.init with atoms := [q] };
      (s.rx 15).atoms = q :: [] ∧ s.spdOn q.blk = true ∧ s.retHeld q.blk q.line = false ∧ (s.bx q.blk).gather = [] ∧ s.spdClean q.blk q.line 8
        ∧ q.line % 8 = 0 ∧ s.pathOpen q.blk q.src = true) := by unfold State.spdClean; decide +kernel

/-- The retained window of the last block: its last 64 KiB, the first KiB dirty; the shadow copy in a state. -/
def retained (sh : Option ShadowOp) : State :=
  (((bx255 { BlockX.init with shop := sh }).setF (blkBase 255) F.SPD_RET_BASE (0x50000 / 64)).setF (blkBase 255) F.SPD_RET_SIZE_KIB 64).setF (blkBase 255)
    F.SPD_RET_VALID 1 |>.setF (blkBase 255) (dirtyFld 0) 1

/-- O41. -/
theorem witness_retained : (retained none).spdOn 255 = true ∧ ((retained none).bx 255).shop = none ∧ (retained none).dirtyKib 255 ≠ []
    ∧ full.dirtyKib 255 = [] ∧ ((retained none).bx 255).gather = [] ∧ ((retained (some ⟨false, [63], 0⟩)).bx 255).shop ≠ none
    ∧ (let s := retained (some ⟨false, [63], 0⟩); let o := (s.retWin 255).1 + 1024 * 63;
        s.spdOn 255 = true ∧ (s.bx 255).shop = some ⟨false, 63 :: [], 0⟩ ∧ s.ungathered 255 o 1024
          ∧ s.spdClean 255 o 128 ∧ s.takenOp 0x0406 = none)
    ∧ ((retained (some ⟨false, [], 0⟩)).bx 255).shop = some ⟨false, [], 0⟩ ∧ (retained (some ⟨false, [], 0⟩)).takenOp 0x0406 = none
    ∧ ((retained (some ⟨true, [3], 0⟩)).bx 255).shop = some ⟨true, [3], 0⟩ ∧ (retained (some ⟨true, [3], 0⟩)).takenOp 0x0406 = none
    ∧ ((retained (some ⟨true, [3], 0⟩)).bx 255).heldW = [] ∧ (retained (some ⟨true, [3], 0⟩)).retHeld 255 0x50000 = true := by
  unfold State.ungathered State.spdClean; decide +kernel

/-- The register at an address can be reached and has a property. -/
def reaches (s : State) (a : Nat) (p : Loc → RegDesc → Bool) : Bool :=
  match s.reach a with
  | .inr (l, d) => p l d
  | .inl _ => false
theorem reaches_some {s : State} {a : Nat} {p : Loc → RegDesc → Bool} (h : reaches s a p = true) : ∃ l d, s.reach a = .inr (l, d) ∧ p l d = true := by
  unfold reaches at h
  split at h
  · exact ⟨_, _, ‹_›, h⟩
  · cases h

/-- O42: fields of each access code; registers that an address reaches. -/
theorem witness_fields : (⟨0, 5, .rw, 4, [(1, 16)]⟩ : FieldDesc).allows (bits 16 0 5) = true ∧ (⟨0, 5, .rw, 4, [(1, 16)]⟩ : FieldDesc).allows (bits 17 0 5) = false
    ∧ (⟨16, 1, .w1c, 0, []⟩ : FieldDesc).acc = .w1c ∧ (⟨0, 16, .rc, 0, []⟩ : FieldDesc).acc = .rc ∧ (⟨0, 16, .ro, 0, []⟩ : FieldDesc).acc = .ro := by
  decide +kernel
theorem witness_register_write : full.pdOn 3 = true ∧ (∃ l d, full.reach 0xB0000 = .inr (l, d) ∧ decide (l.win = .bst) = true)
    ∧ (∃ l d, full.reach 0x30000 = .inr (l, d) ∧ decide (l.win = .hbm) = true) ∧ full.isIn [.running, .draining, .securing] = false
    ∧ (full.reg 0x20).toNat % 4 = 0 ∧ ((full.setReg 0x20 1).reg 0x20).toNat % 4 ≠ 0 ∧ (inState .ready 7).pdOn 3 = false :=
  ⟨by decide +kernel, reaches_some (p := fun l _ => decide (l.win = .bst)) (by decide +kernel),
    reaches_some (p := fun l _ => decide (l.win = .hbm)) (by decide +kernel), by decide +kernel, by decide +kernel, by decide +kernel, by decide +kernel⟩
theorem witness_register_nowhere : (match full.reach 0xC0000 with
      | .inl k => k = 0
      | .inr _ => False)
    ∧ (match ready.reach 0x30000 with
      | .inl k => k = 1
      | .inr _ => False) := ⟨rfl, rfl⟩
theorem witness_register_read :
    (∃ l d, full.reach 0x60004 = .inr (l, d) ∧ (decide (l.win = .pgh) && !pairLow l && d.fields.all (fun f => decide (f.acc ≠ .rc))) = true)
    ∧ pairHigh 0x60004 = false
    ∧ (∃ l d, full.reach 0x60110 = .inr (l, d) ∧ (decide (l.win = .pgh) && !pairLow l && d.fields.any (fun f => decide (f.acc = .rc))) = true)
    ∧ pairHigh 0x60110 = false
    ∧ (∃ l d, full.reach 0x30010 = .inr (l, d) ∧ (decide (l.win = .hbm) && pairLow l && d.fields.all (fun f => decide (f.acc ≠ .rc))
        && ((locate 0x30014).map (fun h => decide (h.win = l.win) && h.desc.isSome)).getD false) = true)
    ∧ pairHigh 0x30010 = false ∧ (∃ l d, full.reach 0x30014 = .inr (l, d) ∧ true = true) ∧ pairHigh 0x30014 = true :=
  ⟨reaches_some (by decide +kernel), by decide +kernel, reaches_some (by decide +kernel), by decide +kernel, reaches_some (by decide +kernel), by decide +kernel,
    reaches_some (p := fun _ _ => true) (by decide +kernel), by decide +kernel⟩

/-- O42: the count of the flits of port 4 of the last router of the last region. -/
theorem witness_flits_count : (∃ l d, full.reach (rgnBase 15 + 0x1100 + 0x40 * 15 + 0x10) = .inr (l, d)
      ∧ (decide (l.win = .rgn) && flitsOff l.off && d.fields.any (fun f => decide (f.acc = .rc))) = true)
    ∧ pairHigh (rgnBase 15 + 0x1100 + 0x40 * 15 + 0x10) = false :=
  ⟨reaches_some (by decide +kernel), by decide +kernel⟩

/-- O42: CUR_STAT of the last port. -/
theorem witness_port_lanes : (∃ l d, full.reach (curBase 15 + 4) = .inr (l, d) ∧ (decide (l.win = .cur) && decide (l.off = 4)) = true)
    ∧ pairHigh (curBase 15 + 4) = false :=
  ⟨reaches_some (by decide +kernel), by decide +kernel⟩

/-- The same command while a PLAN_ARM is in progress. -/
def held (s : State) : State := { s with mail := { s.mail with nextId := 10, taken := [⟨9, 0x0503, 3, 0, 0x200, [], 0, []⟩] } }
def rdReg (n : Nat) : State := cmdS 0x0C01 (leBytes 4 0x30000 ++ leBytes 2 n)
def wrReg (a : Nat) : State := cmdS 0x0C02 (leBytes 4 a ++ leBytes 4 5 ++ leBytes 4 0xFFFFFFFF)
theorem witness_register_commands :
    (∀ n ∈ [1, 1016], (rdReg n).runs 0x0C01 = true ∧ regReadBad (rdReg n).front = false ∧ (rdReg n).regHeld = false ∧ (rdReg n).takenOp 0x0C01 = none)
    ∧ (held (rdReg 1)).runs 0x0C01 = true ∧ regReadBad (held (rdReg 1)).front = false ∧ (held (rdReg 1)).regHeld = true
    ∧ (wrReg 0xB0000).runs 0x0C02 = true ∧ (wrReg 0xB0000).front.ok 12 [] = true ∧ (wrReg 0xB0000).front.par.length = 12 ∧ (wrReg 0xB0000).regHeld = false
    ∧ (wrReg 0xB0000).takenOp 0x0C02 = none ∧ (wrReg 0xB0000).front.fld 0 4 = 0xB0000 ∧ (wrReg 0xB0000).front.fld 8 4 = 0xFFFFFFFF
    ∧ reaches (wrReg 0xB0000) 0xB0000 (fun l _ => decide (l.win = .bst)) = true
    ∧ (wrReg 0x60000).runs 0x0C02 = true ∧ regWriteBad (wrReg 0x60000).front = false ∧ (wrReg 0x60000).regHeld = false
    ∧ (wrReg 0x60000).takenOp 0x0C02 = none ∧ hostLocked ((wrReg 0x60000).front.fld 0 4) = true
    ∧ (held (wrReg 0xB0000)).runs 0x0C02 = true ∧ regWriteBad (held (wrReg 0xB0000)).front = false ∧ (held (wrReg 0xB0000)).regHeld = true := by
  decide +kernel

/-- The recalibration window of the last block open, at chain n, the region at 25 degrees. -/
def trimming (n : Nat) : State :=
  ((full.setF (blkBase 255) F.CIR_STAT_RECAL 1).setF (blkBase 255) F.CIR_CAL_STAT_NEXT_CHAIN n).setF hznBase (F.HZN_CH_VAL_F.idx (0x10 * 15)) (256000 * 25)

/-- O43. -/
theorem witness_cirrus_upkeep : full.compOn 255 = true ∧ full.isF (blkBase 255) F.CIR_STAT_RECAL = false
    ∧ (∀ n ∈ [0, 254, 255], (trimming n).compOn 255 = true ∧ (trimming n).isF (blkBase 255) F.CIR_STAT_RECAL = true
        ∧ (trimming n).getF (blkBase 255) F.CIR_CAL_STAT_NEXT_CHAIN = n)
    ∧ (trimming 255).regionTemp (255 / 16) = 256000 * 25 := by decide +kernel

/-- A rule that stands: channel 3, hold and rearm 1. -/
def rule1 : List Byte := [3, 0] ++ leBytes 2 1 ++ leBytes 4 100 ++ [0, 0, 1, 0, 1, 0, 0, 0]
def ruleCmd : State := cmdS 0x0D01 ([63, 1, 0, 0] ++ rule1)
/-- A requested region in a running job. -/
def resting : State := (inState .running (2 ^ 40 - 1)).setF hznBase F.HZN_REST_REQ 0x8000

/-- O44. -/
theorem witness_horizon : (full.setF hznBase F.HZN_CTL_RULES_EN 0).pdOn 1 = true ∧ (full.setF hznBase F.HZN_CTL_RULES_EN 0).isF hznBase F.HZN_CTL_RULES_EN = false
    ∧ ((full.setF hznBase F.HZN_CTL_RULES_EN 0).hzn.tick + 1) % 10 ≠ 0 ∧ (full.setF hznBase F.HZN_CTL_RULES_EN 0).hznOwn = true ∧ full.pdOn 3 = true
    ∧ ruleCmd.runs 0x0D01 = true ∧ ruleCmd.front.ok (4 + 16 * ruleCmd.front.fld 1 1) [(2, 2)] = true ∧ 0 < ruleCmd.front.fld 1 1
    ∧ ruleCmd.front.fld 0 1 + ruleCmd.front.fld 1 1 = 64 ∧ (∀ i < 1, hzRecOk (slice ruleCmd.front.par (4 + 16 * i) 16) = true) ∧ ruleCmd.front.fld 1 1 = 1
    ∧ ruleCmd.pdOn 1 = true ∧ (full.setF hznBase F.HZN_RULE_CMD_BUSY 1).isF hznBase F.HZN_RULE_CMD_BUSY = true
    ∧ (full.setF hznBase F.HZN_RULE_CMD_BUSY 1).takenOp 0x0D01 = none
    ∧ resting.pdOn 1 = true ∧ resting.pdOn (4 + 15) = true ∧ (resting.getF hznBase F.HZN_REST_REQ).testBit 15 = true
    ∧ resting.isIn [.armed, .running, .draining] = true ∧ resting.bistHolds 15 = false := by
  decide +kernel

/-- O44: every block of the resting region rests. -/
theorem witness_horizon_blocks : ∀ i < 16, resting.blockRests (16 * 15 + i) = true := by
  decide +kernel

/-- A slice whose one unit, of a kind and a number, is claimed or running, with a budget in µs. -/
def slicing (claimed running : List TestUnit) (budget : Nat) : State :=
  { full with bist := { Bist.init with slice := some ⟨0, 0, budget, 0, [], [], [], claimed, running, none, 0, false⟩ } }
def unit3 : TestUnit := ⟨3, 255, 0, 0, 0, false, 0⟩
def someSlice (c r : List TestUnit) (b : Nat) : Slice := ⟨0, 0, b, 0, [], [], [], c, r, none, 0, false⟩
/-- A soft repair of the last macro. -/
def repaired (free : Nat) : State :=
  let s := (cmdS 0x0A03 []).setReg (macBase 4095 + 0x40) 0x8005
  { s with bist := { s.bist with fuseFree := free } }

/-- O45: BIST_RUN of nothing, units of a slice, and repairs that fit and do not. -/
theorem witness_self_test :
    (cmdS 0x0A01 (leBytes 6 0)).runs 0x0A01 = true ∧ (cmdS 0x0A01 (leBytes 6 0)).front.ok 6 [] = true
    ∧ bits ((cmdS 0x0A01 (leBytes 6 0)).front.fld 0 4) 10 6 = 0 ∧ (cmdS 0x0A01 (leBytes 6 0)).bist.slice = none
    ∧ bits ((cmdS 0x0A01 (leBytes 6 0)).front.fld 0 4) 0 10 = 0
    ∧ (∀ b ∈ [0, 1000000000], let s := slicing [unit3] [] b;
        s.bist.slice = some (someSlice [unit3] [] b) ∧ (someSlice [unit3] [] b).claimed.find? (fun y => decide (y.kind = 3 ∧ y.unit = 255)) = some unit3
          ∧ s.claimFree unit3 = true ∧ s.bistLive 3 255 = true ∧ s.bistStateOk = true ∧ s.sliceFits (someSlice [unit3] [] b) 3 255 = decide (b ≠ 0))
    ∧ (slicing [] [unit3] 1).bist.slice = some (someSlice [] [unit3] 1)
    ∧ (someSlice [] [unit3] 1).running.find? (fun y => decide (65536 * y.kind + y.unit = 65536 * 3 + 255)) = some unit3 ∧ unit3.kind ∈ [3, 7, 8, 9]
    ∧ (slicing [] [unit3] 1).bistLive 3 255 = true
    ∧ (∀ k ∈ [0, 9], let x : TestUnit := ⟨k, 15, 0, 0, 0, false, 0⟩; let s := slicing [] [x] 1;
        s.bist.slice = some (someSlice [] [x] 1) ∧ (someSlice [] [x] 1).running.find? (fun y => decide (65536 * y.kind + y.unit = 65536 * k + 15)) = some x
          ∧ s.ldoInBand 15 = true ∧ ∀ m ∈ blkMacros 15, s.hardCols m = 0) := by decide +kernel

/-- A repair commit of an entry of the last macro and of a bad spare, no step of which has run. -/
def fusing : State :=
  let s := full.setReg (macBase 4095 + 0x40) 0x8005
  { s with bist := { s.bist with fuseFree := 2, bad := [(5, 1)], commit := some ⟨0, 2, [.entry (macBase 4095 + 0x40), .spare 5 0], false⟩ } }

/-- O45: repairs that fit and do not, none at all, and their commit. -/
theorem witness_repairs :
    (∀ n ∈ [0, 1], (repaired n).runs 0x0A03 = true ∧ (repaired n).front.ok 0 [] = true ∧ (repaired n).bist.fuseFree = n
        ∧ (repaired n).fuseItems = [.entry (macBase 4095 + 0x40)])
    ∧ (cmdS 0x0A03 []).runs 0x0A03 = true ∧ (cmdS 0x0A03 []).front.ok 0 [] = true ∧ (cmdS 0x0A03 []).fuseItems = []
    ∧ fusing.mail.replies = [] ∧ fusing.store.staging = none
    ∧ fusing.bist.commit = some ⟨0, 2, [.entry (macBase 4095 + 0x40), .spare 5 0], false⟩ ∧ fusing.fuseItems = [.entry (macBase 4095 + 0x40), .spare 5 0] := by
  decide +kernel

/-- Parameters of a GROUP_FORM of four members at 0, 1, 2 and 3. -/
def groupPar (shared : Nat) (tags : List Nat) : List Byte :=
  [2, BitVec.ofNat 8 shared] ++ leBytes 2 9 ++ leBytes 4 0 ++ (List.range 4).flatMap (fun i => leBytes 2 i ++ leBytes 1 (tags.getD i 0) ++ [0])

/-- O46. -/
theorem witness_group : (cmdS 0x0802 (leBytes 2 4095)).runs 0x0802 = true ∧ (cmdS 0x0802 (leBytes 2 4095)).front.ok 2 [] = true
    ∧ (cmdS 0x0802 (leBytes 2 4095)).front.fld 0 2 = 4095
    ∧ (let s := cmdS 0x0803 (leBytes 2 4094 ++ leBytes 2 2 ++ leBytes 4 7); s.runs 0x0803 = true ∧ s.front.ok (4 + 2 * s.front.fld 2 2) [] = true
        ∧ s.front.fld 2 2 = 2 ∧ s.front.fld 0 2 + s.front.fld 2 2 = 4096)
    ∧ (∀ v ∈ [15, 128, 143], (cmdS 0x0804 [BitVec.ofNat 8 v]).runs 0x0804 = true ∧ (cmdS 0x0804 [BitVec.ofNat 8 v]).front.ok 1 [] = true
        ∧ (cmdS 0x0804 [BitVec.ofNat 8 v]).front.fld 0 1 = v)
    ∧ (∀ e ∈ [(0, [0, 1, 2, 3], false), (1, [0, 0, 2, 3], true), (0, [0, 0, 2, 3], true)], let s := cmdS 0x0805 (groupPar e.1 e.2.1);
        s.runs 0x0805 = true ∧ s.front.ok 8 [(4, 4)] = true ∧ s.front.fld 0 1 = 2 ∧ s.front.fld 1 1 = e.1 ∧ s.front.par.length = 8 + 4 * (2 + 2)
          ∧ (∀ x ∈ groupEntries s.front.par (2 + 2), x.1 < 4096 ∧ x.2 < 16) ∧ (∀ i < 2 + 2, leAt s.front.par (11 + 4 * i) 1 = 0)
          ∧ (groupEntries s.front.par (2 + 2)).findIdx? (fun x => decide (x.1 = s.ownCoord)) = some 0 ∧ tagClash (groupEntries s.front.par (2 + 2)) = e.2.2) := by
  decide +kernel

/-- A command at a device in a state with a plan. -/
def planned (st : ChipSt) (op : Nat) (par : List Byte) : State := { hostState (inState st (2 ^ 40 - 1)) op 0 par with img := List.replicate 64 0 }

/-- The same without one, in FAULTED. -/
def unplanned (op : Nat) (par : List Byte) : State := { planned .faulted op par with img := [] }

/-- O47. -/
theorem witness_recovery : (planned .armed 0x0901 []).runs 0x0901 = true ∧ (planned .armed 0x0901 []).front.ok 0 [] = true
    ∧ (planned .armed 0x0901 []).chip.st = .armed ∧ (planned .running 0x0901 []).runs 0x0901 = true ∧ (planned .running 0x0901 []).front.ok 0 [] = true
    ∧ (planned .running 0x0901 []).inGroup = false ∧ (planned .running 0x0901 []).isF nimBase F.NIM_STAT_REQ = false
    ∧ (planned .faulted 0x0902 (leBytes 4 3)).runs 0x0902 = true ∧ (planned .faulted 0x0902 (leBytes 4 3)).front.ok 4 [] = true
    ∧ (planned .faulted 0x0902 (leBytes 4 3)).img ≠ [] ∧ (planned .faulted 0x0902 (leBytes 4 3)).front.fld 0 4 ≠ 0xFFFFFFFE
    ∧ (planned .faulted 0x0902 (leBytes 4 3)).bist.slice = none
    ∧ (∀ p1 ∈ [0, 1], let s := (planned .faulted 0x0902 (leBytes 4 0xFFFFFFFE)).setF nimBase F.NIM_STAT_P1DONE p1;
        s.runs 0x0902 = true ∧ s.front.ok 4 [] = true ∧ s.img ≠ [] ∧ s.front.fld 0 4 = 0xFFFFFFFE ∧ s.isF nimBase F.NIM_STAT_P1DONE = decide (p1 = 1)
          ∧ s.bist.slice = none)
    ∧ (∀ e ∈ [(0x0902, leBytes 4 3, 4, []), (0x0903, leBytes 8 3, 8, [(2, 2)]), (0x0904, leBytes 8 4095, 8, [])], let s := unplanned e.1 e.2.1;
        s.runs e.1 = true ∧ s.front.ok e.2.2.1 e.2.2.2 = true ∧ s.front.fld 0 2 < 4096 ∧ s.img = [])
    ∧ (planned .faulted 0x0903 (leBytes 8 3)).runs 0x0903 = true ∧ (planned .faulted 0x0903 (leBytes 8 3)).front.ok 8 [(2, 2)] = true
    ∧ (planned .faulted 0x0904 (leBytes 8 4095)).runs 0x0904 = true ∧ (planned .faulted 0x0904 (leBytes 8 4095)).front.ok 8 [] = true
    ∧ (planned .faulted 0x0904 (leBytes 8 4095)).front.fld 0 2 < 4096 := by decide +kernel

end Sys2Proof.Tests
end

