-- ==== Sys2Proof/Tests/WitnessControl.lean ====
section
/-! SUPPORT. Witnesses: concrete states and operands that meet the hypotheses of the statements about cadence, power, resets, trust and the host
interface, clause by clause. -/

namespace Sys2Proof.Tests

open Sys2Proof Sys2Proof.Machine
set_option Elab.async false

/-- An armed or other state whose slot began at 0, with the events of the slot that have fired and the periods measured. -/
def cadAt (st : ChipSt) (fired hist : List Nat) (coasts : Nat) : State :=
  { (inState st (2 ^ 40 - 1)).setF cadBase F.CAD_PHASE_LOST 0 with cad := { Cad.init 0 with seen := true, edge := true, fired := fired, hist := hist, coasts := coasts } }

/-- O25: a runt, an edge at the first cycle that is none, boundaries and loss at the limit. -/
theorem witness_cadence :
    (let u := (cadAt .ready [1026] [64000] 0).at 11249;
      u.cadLive = true ∧ ¬(u.isF cadBase F.CAD_CTL_IN_EN = true ∧ 11250 ≤ u.now - u.cad.base))
    ∧ (let u := ((cadAt .ready [1026] [64000] 0).setF cadBase F.CAD_CTL_IN_EN 1).at 11250;
      u.cadLive = true ∧ u.isF cadBase F.CAD_CTL_IN_EN = true ∧ 11250 ≤ u.now - u.cad.base ∧ u.unfired = [])
    ∧ (let u := (cadAt .ready [1026] [64000] 3).at 64000;
      u.cadLive = true ∧ u.cad.seen = true ∧ u.slotLost = false ∧ u.cad.coasts < 4 ∧ u.coastLimit ≤ u.now - u.cad.base ∧ u.unfired = [])
    ∧ (let u := (cadAt .ready [1026] [64000] 4).at 64000;
      u.cadLive = true ∧ u.cad.seen = true ∧ u.slotLost = false ∧ u.cad.coasts = 4 ∧ u.coastLimit ≤ u.now - u.cad.base ∧ u.unfired = [])
    ∧ full.cadLive = true
    ∧ (let s := hostState full 0x0602 0 (leBytes 6 (2 ^ 48 - 1)); s.runs 0x0602 = true ∧ s.front.ok 6 [] = true ∧ s.cadLive = true) := by decide +kernel

/-- A slot whose schedule record 0 of kind k, due in every slot at phase 0, has still to fire. -/
def schedAt (st : ChipSt) (k arg0 arg1 lag : Nat) : State :=
  { cadAt st [1024, 1025, 1026] [64000] 0 with
      img := planRaw [(0x14, 0xFFFF, 1, leBytes 1 k ++ leBytes 5 0 ++ leBytes 2 arg0 ++ leBytes 4 arg1 ++ leBytes 4 lag)] }

/-- A slice whose claimed unit has still to run. -/
def sliced (s : State) : State := { s with bist := { s.bist with slice := some ⟨2, 0, 1000, 0, [], [], [], [⟨3, 255, 0, 0, 0, false, 0⟩], [], none, 0, false⟩ } }

/-- O26: a record of every kind is due; the further conditions of each. -/
theorem witness_schedule :
    (∀ e ∈ [(1, 0, 0), (2, 255, 1), (3, 0, 0), (4, 0xFFFF, 0), (5, 255, 0), (6, 255, 0), (7, 10, 0), (9, 0xFFFF, 0), (10, 0xFFFF, 0)],
      ((schedAt .running e.1 e.2.1 e.2.2 0).at 0).dueNow 0 e.1 = true)
    ∧ ((schedAt .running 1 0 0 0).at 0).admissionHeld = false
    ∧ (let u := (schedAt .running 2 255 1 1).at 0;
        u.dueNow 0 2 = true ∧ u.lateCtx ((u.evRec 0).arg0 % 256) (u.evRec 0).arg1 ((u.slotNo + 2 ^ 48 - (u.evRec 0).lag) % 2 ^ 48) = none)
    ∧ (let u := { (schedAt .running 2 255 1 0).at 0 with sets := [⟨0, 0, false, false, []⟩] };
        u.dueNow 0 2 = true ∧ (u.slotNo + 2 ^ 48 - (u.evRec 0).lag) % 2 ^ 48 = 0 ∧ u.sets.find? (fun r => decide (r.slot = 0)) = some ⟨0, 0, false, false, []⟩
          ∧ 0 ∈ onesOf 32 (u.evRec 0).arg1 ∧ u.ctxFinished ((u.evRec 0).arg0 % 256) 0 0 = false)
    ∧ (let u := { (schedAt .running 2 255 1 0).at 0 with job := { Job.init with ended := [(0, [32 * 255 + 1])] } };
        u.dueNow 0 2 = true ∧ u.sets.find? (fun r => decide (r.slot = 0)) = none ∧ u.job.ended.find? (fun y => decide (y.1 = 0)) = some (0, [32 * 255 + 1])
          ∧ 0 ∈ onesOf 32 (u.evRec 0).arg1 ∧ ¬ 32 * ((u.evRec 0).arg0 % 256) + 0 ∈ [32 * 255 + 1])
    ∧ ((schedAt .running 5 255 0 0).at 0).compOn (((schedAt .running 5 255 0 0).at 0).evRec 0).arg0 = true
    ∧ ((schedAt .armed 8 0 0 0).at 0).dueNow 0 8 = true ∧ ((schedAt .armed 8 0 0 0).at 0).chip.st = .armed ∧ ((schedAt .armed 8 0 0 0).at 0).pdOn 3 = true
    ∧ ((schedAt .armed 8 0 0 0).at 0).isF nimBase F.NIM_STAT_REQ = false
    ∧ (∀ b : Bool, let u := ((schedAt .running 7 10 0 0).setF bstBase F.BST_CTL_SVC_EN (b2n b)).at 0;
        u.dueNow 0 7 = true ∧ u.isF bstBase F.BST_CTL_SVC_EN = b ∧ u.pdOn 3 = true ∧ u.bistStateOk = true ∧ u.sliceBusy = false)
    ∧ (let u := (schedAt .securing 7 10 0 0).at 0; u.dueNow 0 7 = true ∧ u.bistStateOk = false)
    ∧ (let u := (sliced (schedAt .running 7 10 0 0)).at 0; u.dueNow 0 7 = true ∧ u.sliceBusy = true)
    ∧ (let u := ({ schedAt .running 7 10 0 0 with on := 2 ^ 40 - 1 - 8 } : State).at 0; u.dueNow 0 7 = true ∧ u.pdOn 3 = false)
    ∧ ((schedAt .running 9 0xFFFF 0 0).at 0).chip.st ≠ .sleep ∧ ((schedAt .running 9 0xFFFF 0 0).at 0).pdOn 1 = true
    ∧ (let u := ({ (schedAt .running 9 0xFFFF 0 0).setF hznBase F.HZN_REST_OFF 0x8000 with on := 2 ^ 40 - 1 - 2 ^ 19 } : State).at 0;
        u.dueNow 0 9 = true ∧ u.pdOn 1 = true ∧ (u.getF hznBase F.HZN_REST_OFF).testBit 15 = true ∧ (u.evRec 0).arg0.testBit 15 = true
          ∧ u.pdPow (4 + 15) = false) := by decide +kernel

/-- A message of another device waits in Courier's inbox. -/
def handed (m : CMsg) (en : Nat) : State :=
  let s := (inState .running (2 ^ 40 - 1)).setF curShBase F.CUR_HANDOFF_RX_EN en
  { s with cour := { s.cour with inbox := [(3, m)] } }
/-- A hand-off for a slot. -/
def handMsg (slot : Nat) : CMsg := ⟨0, 9, 0, 0, 8, 0, 1, 0, 1, 0, slot, count64⟩

/-- O27. -/
theorem witness_pulses :
    (∀ m ∈ [0, 1], let u := (({ full with cad := { Cad.init 0 with pulses := [100, 200] } } : State).setF cadBase F.CAD_CTL_OUT_MODE m).at 100;
      u.cad.pulses = 100 :: [200] ∧ u.cadLive = true ∧ 100 ≤ u.now ∧ u.getF cadBase F.CAD_CTL_OUT_MODE = m)
    ∧ (let u := ({ full with cad := { Cad.init 0 with pulseEnd := some 200 } } : State).at 200; u.cad.pulseEnd = some 200 ∧ 200 ≤ u.now)
    ∧ (let u := (((full.setF (curBase 15) F.CUR_STAT_STATE 5).setF cadBase F.CAD_CTL_BEACON_RX 1).setF cadBase F.CAD_CTL_BEACON_PORT 15).at 5;
        u.cadLive = true ∧ u.portActive 15 = true ∧ u.isF cadBase F.CAD_CTL_BEACON_RX = true ∧ u.getF cadBase F.CAD_CTL_BEACON_PORT = 15
          ∧ (if u.phase < 32768 then u.slotNo else (u.slotNo + 1) % 2 ^ 48) = 0)
    ∧ (let f : Flit := ⟨flitBytes (linkHeader 0 2 0 4095 0 0) (4 :: leBytes 6 9), none, false⟩;
        flitBad f = false ∧ flitKind f = 2 ∧ flitCtype f = 4 ∧ leAt f.bytes 9 6 ≠ 0)
    ∧ (∀ k ∈ [0, 1, 16], (handed (handMsg k) 1).ownMsg 0 8 = some (3, handMsg k) ∧ (handed (handMsg k) 1).isF curShBase F.CUR_HANDOFF_RX_EN = true
        ∧ ((handMsg k).addr % 2 ^ 48 + 2 ^ 48 - (handed (handMsg k) 1).slotNo) % 2 ^ 48 = k
        ∧ (∀ e ∈ (handed (handMsg k) 1).cad.fired, ((handed (handMsg k) 1).evRec e).kind ≠ 1)
        ∧ ((handMsg k).addr % 2 ^ 48 + 2 ^ 48 - (handed (handMsg k) 1).slotNo) % 2 ^ 48 ≤ 16
        ∧ ∀ e ∈ (handed (handMsg k) 1).job.handoffs, e.1 ≠ (handMsg k).addr % 2 ^ 48)
    ∧ (handed (handMsg 17) 1).ownMsg 0 8 = some (3, handMsg 17)
    ∧ 16 < ((handMsg 17).addr % 2 ^ 48 + 2 ^ 48 - (handed (handMsg 17) 1).slotNo) % 2 ^ 48
    ∧ (handed (handMsg 1) 0).isF curShBase F.CUR_HANDOFF_RX_EN = false
    ∧ (let s : State := { schedAt .running 1 0 0 0 with cad := { Cad.init 0 with fired := [0] }, cour := (handed (handMsg 0) 1).cour };
        s.ownMsg 0 8 = some (3, handMsg 0) ∧ ((handMsg 0).addr % 2 ^ 48 + 2 ^ 48 - s.slotNo) % 2 ^ 48 = 0 ∧ ∃ e ∈ s.cad.fired, (s.evRec e).kind = 1)
    ∧ (let s : State := { handed (handMsg 16) 1 with job := { Job.init with handoffs := [(16, (1, count64))] } };
        s.ownMsg 0 8 = some (3, handMsg 16) ∧ ∃ e ∈ s.job.handoffs, e.1 = (handMsg 16).addr % 2 ^ 48) := by decide +kernel

/-- PWR_SET with these domains and these settings, on a device with the spine and the compute domain of region 0 on. -/
def pwrCmd (mask val : Nat) : State := hostState (inState .ready (15 + 2 ^ 4 + 2 ^ 20)) 0x0302 0 (leBytes 8 mask ++ leBytes 8 val)

/-- O28. -/
theorem witness_power :
    ({ State.reset with pins := ⟨false, true, false, true, false⟩, chip := ⟨.off, .off, false, 0⟩, on := 0 } : State).pins.pwrgood = false
    ∧ full.pins.pwrgood = true ∧ full.chip.st ≠ .off
    ∧ (∀ e ∈ [(false, 2 ^ 4, 15), (true, 0, 15 + 2 ^ 16 + 2 ^ 32)], let s := inState .ready e.2.2;
        s.isIn [.boot, .ready] = true
          ∧ s.pwrPlan (if e.1 then 0xFF * 2 ^ 32 else 0xFFFFFFF0) (if e.1 then e.2.1 * 2 ^ 32 else e.2.1) s.power.cmd = none)
    ∧ (∀ v ∈ [2 ^ 20, 2 ^ 4 + 2 ^ 5 + 2 ^ 20 + 2 ^ 21], ready.isIn [.boot, .ready] = true ∧ ready.power.plan = [] ∧ ready.power.settling = []
        ∧ (∀ d < 32, 4 ≤ d → ready.pdPow d = true → v.testBit d = true)
        ∧ 0 < ((List.range 32).filter (fun (d : Nat) => decide (4 ≤ d) && v.testBit d && !ready.pdPow d)).length
        ∧ ((List.range 32).filter (fun (d : Nat) => decide (4 ≤ d) && v.testBit d && !ready.pdPow d)).length ≤ 4
        ∧ (ready.pwrPlan 0xFFFFFFF0 v ready.power.cmd).isSome = true)
    ∧ (∀ e ∈ [(2 ^ 20, 0), (2 ^ 4, 2 ^ 4)], let s := pwrCmd e.1 e.2;
        s.runs 0x0302 = true ∧ s.front.ok 16 [] = true ∧ s.front.fld 0 8 % 16 = 0 ∧ s.front.fld 0 8 < 2 ^ 40 ∧ s.power.settling = [] ∧ s.power.plan = []
          ∧ (s.took.pwrPlan (s.front.fld 0 8) (s.front.fld 8 8) (some s.mail.nextId)).isSome = decide (e.2 ≠ 0)
          ∧ (e.2 ≠ 0 → ∀ d < 40, (s.front.fld 0 8).testBit d = true → (s.front.fld 8 8).testBit d = s.pdPow d)) := by decide +kernel

/-- O28: PWR_SET that switches domains on and off, and domains that settle. -/
theorem witness_power_switches :
    (∀ v ∈ [2 ^ 39, 2 ^ 5 + 2 ^ 21 + 2 ^ 38 + 2 ^ 39], let s := pwrCmd v v;
        s.runs 0x0302 = true ∧ s.front.ok 16 [] = true ∧ s.front.fld 0 8 % 16 = 0 ∧ s.front.fld 0 8 < 2 ^ 40 ∧ s.power.settling = [] ∧ s.power.plan = []
          ∧ (∀ d < 40, (s.front.fld 0 8).testBit d = true → s.pdPow d = true → (s.front.fld 8 8).testBit d = true)
          ∧ 0 < ((List.range 40).filter (fun (d : Nat) => (s.front.fld 0 8).testBit d && (s.front.fld 8 8).testBit d && !s.pdPow d)).length
          ∧ ((List.range 40).filter (fun (d : Nat) => (s.front.fld 0 8).testBit d && (s.front.fld 8 8).testBit d && !s.pdPow d)).length ≤ 4
          ∧ (s.took.pwrPlan (s.front.fld 0 8) (s.front.fld 8 8) (some s.mail.nextId)).isSome = true)
    ∧ (∀ d ∈ [4, 19], let s := hostState (inState .ready (15 + 2 ^ 4 + 2 ^ 19 + 2 ^ 20 + 2 ^ 35)) 0x0302 0 (leBytes 8 (2 ^ d) ++ leBytes 8 0);
        s.runs 0x0302 = true ∧ s.front.ok 16 [] = true ∧ s.front.fld 0 8 = 2 ^ d ∧ (s.front.fld 8 8).testBit d = false ∧ s.pdPow d = true
          ∧ s.power.settling = [] ∧ s.power.plan = [] ∧ s.bist.slice = none
          ∧ (s.took.pwrPlan (s.front.fld 0 8) (s.front.fld 8 8) (some s.mail.nextId)).isSome = true)
    ∧ (let s := { inState .ready 15 with power := { Power.init 0 0 0 0 with settling := [19, 35] } };
        19 ∈ s.power.settling ∧ 19 ∉ s.power.held ∧ s.pdPow (19 + 16) = false ∧ s.power.plan = [])
    ∧ (∀ d ∈ [4, 21, 39], let s := { inState .ready (15 + 2 ^ 20) with power := { Power.init 0 0 0 0 with settling := [d] } };
        d ∈ s.power.settling ∧ (4 ≤ d ∧ d < 20 → s.pdPow (d + 16) = true) ∧ (20 ≤ d ∧ d < 36 → d - 16 ∉ s.power.held) ∧ s.power.plan = []
          ∧ s.power.wake = 0 ∧ s.takenOp 0x0302 = none ∧ s.takenOp 0x0201 = none) := by decide +kernel

/-- O29. -/
theorem witness_resets : full.pins.resetN = true ∧ full.chip.st ≠ .off
    ∧ ({ full with pins := { full.pins with resetN := false } } : State).pins.resetN = false ∧ full.power.pulse = 0 ∧ bits 0x1B007 0 16 = 0xB007
    ∧ (0x1B007 : Nat).testBit 16 = true ∧ (0xB007 : Nat).testBit 16 = false ∧ bits 0x1B008 0 16 ≠ 0xB007
    ∧ (∀ n ∈ [1, 2], ({ full with power := { full.power with pulse := n } } : State).power.pulse = n) := by decide +kernel

/-- O30: steps that neighbours at step 10 allow and forbid; changes in their stages; the governor. -/
theorem witness_region_clocks :
    (let s := full; s.pdOn 3 = true ∧ s.stepOk 15 (min (5 % 16) (s.getF (rgnBase 15) F.RGN_ACLK_CAP)) = true ∧ s.pdOn (4 + 15) = true
      ∧ (s.rx 15).chg = none ∧ min (5 % 16) (s.getF (rgnBase 15) F.RGN_ACLK_CAP) ≠ s.eff 15)
    ∧ (let s := full; s.stepOk 15 (min (3 % 16) (s.getF (rgnBase 15) F.RGN_ACLK_CAP)) = false)
    ∧ (∀ e ∈ [(0, 10, 0), (10, 0, 0), (0, 10, 1)], let s := full.setRx 15 { RegionX.init with chg := some ⟨e.1, e.2.1, e.2.2⟩ };
        (s.rx 15).chg = some ⟨e.1, e.2.1, e.2.2⟩ ∧ (s.rx 15).queued = none)
    ∧ (let s := full.setF (rgnBase 15) F.RGN_LDO_STAT_SETTLED 1;
        s.isF (rgnBase 15) F.RGN_LDO_STAT_SETTLED = true ∧ s.isF (rgnBase 15) F.RGN_ERR_STAT_VALID = false)
    ∧ full.pdOn (4 + 15) = true ∧ (full.rx 15).hit = none ∧ (full.rx 15).planes = [] := by decide +kernel

/-- Region 15 in the window of cycles 768 to 1023, with these planes and the cycle of its hit. -/
def governed (l : List (Nat × Nat × Nat)) (h : Option Nat) : State := full.setRx 15 { RegionX.init with win := 3, planes := l, hit := h }

/-- O30, the governor: below the budget, at it, a hit alone, one with a plane held to the end of the window, and a plane after the hit. -/
theorem witness_governor :
    0 < full.budget 15
    ∧ (let s := governed [(900, 240, 1)] none; (s.rx 15).hit = none ∧ (∀ p ∈ (s.rx 15).planes, p.1 < (s.rx 15).winStart + 256)
        ∧ 1023 < (s.rx (255 / 16)).winStart + 256 ∧ (s.rx (255 / 16)).act + 1 < s.budget (255 / 16))
    ∧ (let s := governed [(900, 240, full.budget 15 - 1)] none; (s.rx (255 / 16)).hit = none ∧ (∀ p ∈ (s.rx (255 / 16)).planes, p.1 ≤ 1023)
        ∧ (s.rx (255 / 16)).act < s.budget (255 / 16) ∧ s.budget (255 / 16) ≤ (s.rx (255 / 16)).act + 1)
    ∧ (let s := governed [(900, 240, full.budget 15)] (some 900); (s.rx 15).hit = some 900 ∧ 900 < (s.rx 15).winStart + 256
        ∧ (∀ p ∈ (s.rx 15).planes, p.1 ≤ 900) ∧ hitCycle (s.budget (255 / 16)) (s.rx (255 / 16)).issued = some 900)
    ∧ (let s := governed [(900, 240, full.budget 15), (1000, 255, 5)] (some 900); (s.rx (255 / 16)).hit = some 900 ∧ s.pdOn (4 + 255 / 16) = true
        ∧ (s.rx (255 / 16)).planes = [(900, 240, full.budget 15)] ++ [(1000, 255, 5)] ∧ 900 < 1000 ∧ 1000 < (s.rx (255 / 16)).winStart + 256
        ∧ (s.rx (255 / 16)).winStart + 256 ≤ 1000 + 63 ∧ 5 < s.budget (255 / 16)) := by decide +kernel

/-- A SLEEP command under way. -/
def sleeper : Taken := ⟨0, 0x0303, 7, 0, 0x200, [], 1, []⟩

/-- SLEEP taken while another command is in progress. -/
def busySleep : State :=
  { hostState full 0x0303 0 [] with mail := { (hostState full 0x0303 0 []).mail with nextId := 10, taken := [⟨9, 0x0705, 3, 0, 0x200, [], 0, []⟩] } }
/-- The device about to sleep, and the last part of its wake. -/
def sleepy : State := { full with mail := { Mail.init with sess := true, ver := 0x200, nextId := 1, taken := [sleeper] } }
def waking : State := ({ inState .sleep 15 with power := { Power.init 0 0 0 0 with wake := 3 } } : State).setF pwrBase F.PWR_SLEEP_LO_ON 15

/-- O31. -/
theorem witness_sleep : (hostState full 0x0303 0 []).runs 0x0303 = true ∧ (hostState full 0x0303 0 []).front.ok 0 [] = true
    ∧ (hostState full 0x0303 0 []).mail.taken = [] ∧ (hostState full 0x0303 0 []).mail.replies = []
    ∧ (let h := hostState full 0x0303 0 []; let s : State := { h with mail := { h.mail with replies := [List.replicate 20 1] } };
        s.runs 0x0303 = true ∧ s.front.ok 0 [] = true ∧ s.mail.replies ≠ [])
    ∧ busySleep.runs 0x0303 = true ∧ busySleep.front.ok 0 [] = true ∧ busySleep.mail.taken ≠ []
    ∧ sleepy.mail.taken = [sleeper] ∧ sleeper.op = 0x0303 ∧ sleeper.stage = 1 ∧ sleepy.mail.replies = [] ∧ sleepy.chip.st = .ready
    ∧ sleepy.power.settling = [] ∧ sleepy.power.plan = [] ∧ sleepy.creditsHome = true
    ∧ (inState .sleep 3).chip.st = .sleep ∧ (inState .sleep 3).power.wake = 0 ∧ (inState .sleep 3).pdPow 3 = false
    ∧ waking.chip.st = .sleep ∧ waking.power.wake = 3 ∧ waking.power.settling = [] ∧ waking.power.restoring = []
    ∧ waking.getF pwrBase F.PWR_SLEEP_LO_ON < 16 ∧ waking.getF pwrBase F.PWR_SLEEP_HI_ON = 0 := by decide +kernel

/-- Start-up at a stage. -/
def startAt (n : Nat) : State := (inState .boot 15).setF chipBase F.CHIP_BOOT_STAGE n

/-- O32. -/
theorem witness_start_up : (∀ n ∈ [1, 2, 3, 4, 5, 6, 7, 8, 10], (startAt n).chip.st = .boot ∧ (startAt n).cadLive = true
      ∧ (startAt n).getF chipBase F.CHIP_BOOT_STAGE = n ∧ (startAt n).store.advance = none ∧ (startAt n).bist.slice = none)
    ∧ (let s : State := { startAt 5 with store := { (startAt 5).store with advance := some 64 } };
        s.chip.st = .boot ∧ s.cadLive = true ∧ s.getF chipBase F.CHIP_BOOT_STAGE = 5 ∧ s.store.advance = some 64) := by decide +kernel

/-- Eight zero bytes. -/
def zs8 : List Byte := List.replicate 8 0

/-- Firmware without the DEBUG flag runs. -/
def withFw : State := { full with store := { full.store with running := List.replicate 128 0 } }

/-- O33. -/
theorem witness_firmware :
    (∀ on ∈ [2 ^ 40 - 1, 15], let s := hostState (inState .ready on) 0x0201 1 (leBytes 4 4194304 ++ leBytes 4 0 ++ zs8);
      s.runs 0x0201 = true ∧ s.front.okBulk 0 4194304 16 [(8, 8)] = true ∧ s.pdOn 20 = decide (on ≠ 15) ∧ s.pdPow 20 = decide (on ≠ 15)
        ∧ ∀ b < 16, s.dirtyKib b = [])
    ∧ (let s : State := { full with store := { full.store with staging := some (0, List.replicate 64 0) } };
        s.mail.replies = [] ∧ s.bist.commit = none ∧ s.store.staging = some (0, List.replicate 64 0))
    ∧ (let h := hostState full 0x0202 0 []; let s := { h with store := { h.store with staged := List.replicate 64 0 } };
        s.runs 0x0202 = true ∧ s.front.ok 0 [] = true ∧ s.store.staged ≠ [] ∧ s.store.rollback ≤ fwRoll s.store.staged)
    ∧ (let h := hostState full 0x0103 0 (List.replicate 32 1); let s := { h with store := { h.store with idNext := 32767 } };
        s.takenOp 0x0103 = none ∧ s.runs 0x0103 = true ∧ s.front.ok 32 [] = true ∧ s.quoteHeld = false ∧ s.store.idNext < 32768)
    ∧ withFw.pdOn 3 = true ∧ withFw.fwImage ≠ [] ∧ fwDebug withFw.fwImage = false ∧ (3 : Nat).testBit 0 = true ∧ (2 : Nat).testBit 0 = false := by decide +kernel

/-- O34. -/
theorem witness_tap : full.pins.pwrgood = true ∧ full.unlocked = false ∧ (full.setF secBase F.SEC_DEBUG_UNLOCK 1).unlocked = true
    ∧ (Instr.extestTrain 5, 5) ∈ [(Instr.samplePreload 5, 2), (.extest 5, 3), (.extestPulse 5, 4), (.extestTrain 5, 5)] := by decide +kernel

/-- A queued postmark. -/
def pm1 : PmSub := ⟨2, 1, true, 0x80, 1, 0, []⟩
/-- The log with its pinned record in the slot that is next, the last one. -/
def logged (on : Nat) : State := { inState .ready on with pml := { Pml.init with queue := [pm1], next := 8191, pinned := some 8191 } }

/-- A record of the last-words store with FATAL as given, and a device that PD03 comes on for while it holds that record. -/
def wordRec (fatal : Nat) : List Byte := [0, 0, 0, BitVec.ofNat 8 fatal] ++ List.replicate 252 0
def wordy (fatal : Nat) : State :=
  { inState .ready 7 with power := { Power.init 0 0 0 0 with settling := [3] }, pml := { Pml.init with words := [(63, wordRec fatal)], next := 8191 } }

/-- O35. -/
theorem witness_postmarks : (logged 15).chip.st ≠ .off ∧ (logged 15).pml.queue = pm1 :: [] ∧ (logged 15).pdOn 3 = true ∧ (logged 15).pml.clear = none
    ∧ (if (logged 15).pml.pinned = some (logged 15).pml.next then ((logged 15).pml.next + 1) % 8192 else (logged 15).pml.next) = 0
    ∧ (logged 7).pml.queue = pm1 :: [] ∧ (logged 7).pdOn 3 = false ∧ (logged 7).pml.words.length < 64
    ∧ ({ logged 15 with pml := { (logged 15).pml with pinned := none } } : State).pml.pinned = none ∧ pm1.fatal = true
    ∧ (∀ b ∈ [0, 1], let s := wordy b;
        3 ∈ s.power.settling ∧ s.power.plan = [] ∧ s.power.wake = 0 ∧ s.takenOp 0x0302 = none ∧ s.takenOp 0x0201 = none ∧ s.pml.pinned = none
          ∧ s.pml.next < 8192 ∧ s.pml.words.length ≤ 64 ∧ s.pml.words = [(63, wordRec b)] ∧ (leAt (wordRec b) 3 1).testBit 0 = decide (b = 1))
    ∧ (hostState full 0x0B04 0 zs8).runs 0x0B04 = true ∧ (hostState full 0x0B04 0 zs8).front.ok 8 [] = true
    ∧ (hostState full 0x0B03 0 (zs8 ++ zs8)).runs 0x0B03 = true ∧ (hostState full 0x0B03 0 (zs8 ++ zs8)).front.ok 16 [] = true
    ∧ (hostState full 0x0B03 0 (zs8 ++ zs8)).pml.queue = [] ∧ (hostState full 0x0B03 0 (zs8 ++ zs8)).pdOn 3 = true := by decide +kernel

/-- The card in a bus state. -/
def card (b : Nat) : State := { full with sdio := { full.sdio with bus := b, swPend := true, bss := 2, rca := 1, ioe := 6 } }

/-- O36: CMD52 of the last register of function 1, and a write of SDI_INT_EN. -/
theorem witness_card : (card 0).cardHears = true ∧ (card 0).sdio.bus ∈ [0, 1] ∧ bits 0x01FFFFFF 0 24 &&& sdOcr ≠ 0 ∧ (card 1).sdio.bus = 1
    ∧ (card 1).sdio.swPend = true ∧ (card 2).sdio.bus ∈ [1, 2] ∧ (card 3).sdio.bus ∈ [2, 3] ∧ bits 0x10000 16 16 = (card 3).sdio.rca
    ∧ (card 3).cardHears = true ∧ (card 3).sdio.bus = 3 ∧ (card 3).sdio.bss ∈ [2, 3]
    ∧ (let arg := 2 ^ 28 + 512 * 0x100FF; bits arg 28 3 = 1 ∧ arg.testBit 31 = false ∧ bits arg 9 17 = 0x10000 + 0xFF)
    ∧ (let arg := 2 ^ 31 + 2 ^ 28 + 512 * 0x10009 + 255; bits arg 28 3 = 1 ∧ arg.testBit 31 = true ∧ arg.testBit 27 = false ∧ bits arg 9 17 = 0x10009)
    ∧ 2 < bits (7 * 2 ^ 28) 28 3 := by
  decide +kernel

/-- A card with bulk transfers of 8 bytes under way. -/
def bulky : State :=
  let s := card 3
  { s with mail := { s.mail with sess := true, ver := 0x200, nextId := 1, taken := [⟨0, 0x0701, 7, 0, 0x200, [], 1, []⟩], inq := [⟨0, 8, []⟩], outq := [⟨0, 8, count64⟩] } }

/-- Protection regions that grant nothing, to Casec and to the SDIO engine. -/
def closed (s : State) : State := (List.range 16).foldl (fun st i => st.setReg (pghBase + 4 * i) 0) s
def refusing : State := closed (card 3)

/-- O37: a byte-mode write through the last bytes of the aperture, and transfers of part and all of the bytes left. -/
theorem witness_transfers :
    (let arg := 2 ^ 31 + 2 ^ 28 + 2 ^ 26 + 512 * 0xFFFC + 4; (card 3).cardHears = true ∧ (card 3).sdio.bus = 3 ∧ bits arg 28 3 = 1 ∧ arg.testBit 31 = true
      ∧ arg.testBit 27 = false ∧ arg.testBit 26 = true ∧ bits arg 9 17 = 0xFFFC ∧ bits arg 0 9 = 4 ∧ (card 3).pdOn 2 = true ∧ (card 3).sdio.aperView = 0
      ∧ (∀ i < 4, (card 3).pghMay 1 ((card 3).aperOff (0xFFFC + i)) 29 = true) ∧ (card 3).sdio.cmdDb = (card 3).sdio.cmdCi)
    ∧ (let arg := 2 ^ 31 + 2 ^ 28 + 512 * 0xFFFF; bits arg 28 3 = 1 ∧ arg.testBit 31 = true ∧ arg.testBit 27 = false ∧ bits arg 9 17 = 0xFFFF
      ∧ refusing.cardHears = true ∧ refusing.sdio.bus = 3 ∧ refusing.pdOn 2 = true ∧ refusing.sdio.cmdDb = refusing.sdio.cmdCi
      ∧ refusing.pghMay 1 (refusing.aperOff 0xFFFF) 29 = false)
    ∧ (let arg := 2 ^ 28 + 2 ^ 26 + 512 * 0xFFFC + 4; bits arg 28 3 = 1 ∧ arg.testBit 31 = false ∧ arg.testBit 27 = false ∧ arg.testBit 26 = true
      ∧ bits arg 9 17 = 0xFFFC ∧ bits arg 0 9 = 4 ∧ (card 3).mail.replies = []
      ∧ ∀ v ∈ [0, 2], let s : State := { card 3 with sdio := { (card 3).sdio with aperView := v } };
          s.cardHears = true ∧ s.sdio.bus = 3 ∧ s.pdOn 2 = true ∧ s.sdio.aperView < 3 ∧ ∀ i < 4, s.pghMay 1 (s.aperOff (0xFFFC + i)) 28 = true)
    ∧ (let arg := 2 ^ 29 + 2 ^ 27 + 3; let s : State := { card 3 with sdio := { (card 3).sdio with bs2 := 16 } };
      s.cardHears = true ∧ s.sdio.bus = 3 ∧ bits arg 28 3 = 2 ∧ arg.testBit 31 = false ∧ arg.testBit 27 = true ∧ arg.testBit 26 = false
        ∧ bits arg 9 17 < 0x10000 ∧ bits arg 0 9 = 3 ∧ 0 < s.sdio.bs2 ∧ ∀ n ∈ [16, 47], 0 < n / s.sdio.bs2 ∧ n / s.sdio.bs2 < 3)
    ∧ (card 3).mail.outq = []
    ∧ (∀ b ∈ [0, 2 ^ 31], ∀ n ∈ [7, 8], let arg := b + 2 ^ 29 + n; bits arg 28 3 = 2 ∧ arg.testBit 31 = decide (b ≠ 0) ∧ arg.testBit 27 = false
      ∧ bits arg 9 17 = 0 ∧ bits arg 0 9 = n)
    ∧ bulky.cardHears = true ∧ bulky.sdio.bus = 3 ∧ bulky.mail.inq = ⟨0, 8, []⟩ :: [] ∧ bulky.mail.outq = ⟨0, 8, count64⟩ :: []
    ∧ bulky.takenBy 0 = some ⟨0, 0x0701, 7, 0, 0x200, [], 1, []⟩ := by decide +kernel

/-- O38. -/
theorem witness_doorbells : (card 3).selected = true ∧ ({ full with sdio := { (card 3).sdio with under := some 2 } } : State).sdio.under = some 2 ∧ (card 3).sdio.under ≠ some 2
    ∧ ({ full with sdio := { (card 3).sdio with under := some 2 } } : State).cardHears = true ∧ ((card 3).at 100000).served = true ∧ (card 3).sdio.heartAt + 100000 ≤ ((card 3).at 100000).now
    ∧ ({ full with sdio := { full.sdio with ioe := 1 } } : State).sdio.ioe.testBit 0 = true ∧ full.chip.st ≠ .off ∧ (card 3).cardHears = true := by
  decide +kernel

/-- Replies and posts wait at full and nearly full rings. -/
def ringing (rpl evt : Nat) : State :=
  let s := card 3
  { s with mail := { s.mail with replies := [List.replicate 20 1], posts := [⟨1, 2, 0, 0, 0, 1⟩] }, sdio := { s.sdio with rplPi := rpl, evtPi := evt } }

/-- O39. -/
theorem witness_rings_out : (card 3).mail.replies = [] ∧ (card 3).storeBusy = false ∧ (card 3).takenOp 0x0303 = none
    ∧ (ringing 31 63).takenOp 0x0303 = none ∧ (ringing 31 63).mail.replies[0]? = some (List.replicate 20 1) ∧ (ringing 31 63).pdOn 2 = true
    ∧ ((ringing 31 63).sdio.rplPi + 64 - (ringing 31 63).sdio.rplDb) % 64 < 32
    ∧ (ringing 31 63).pghWhole 0 29 = true ∧ (closed (ringing 31 63)).pghWhole 0 29 = false
    ∧ (∀ i < 20, (closed (ringing 31 63)).pghMay 0 (0x2000 * 31 + 0x1000 + i) 29 = false)
    ∧ (closed (ringing 31 63)).mail.replies[0]? = some (List.replicate 20 1) ∧ (ringing 31 63).pdOn 1 = true
    ∧ (ringing 31 63).hznMay 2 (0x7C00 + 16 * 63) 29 = true ∧ ready.pdOn 1 = true ∧ (inState .sleep 1).pdOn 1 = false
    ∧ ((ringing 31 63).mail.replies.take 0).any (sameCmd (List.replicate 20 1)) = false ∧ (ringing 31 63).mail.posts = ⟨1, 2, 0, 0, 0, 1⟩ :: []
    ∧ ((ringing 31 63).sdio.evtPi + 128 - (ringing 31 63).sdio.evtDb) % 128 ≠ 64
    ∧ ((ringing 31 64).sdio.evtPi + 128 - (ringing 31 64).sdio.evtDb) % 128 = 64 := by decide +kernel

end Sys2Proof.Tests
end

