-- ==== Sys2Proof/Tests/WitnessHost.lean ====
section
/-! SUPPORT. Witnesses: concrete states and operands that meet the hypotheses of the statements about host commands, clause by clause. -/

namespace Sys2Proof.Tests

open Sys2Proof Sys2Proof.Machine
set_option Elab.async false

/-- The host command `op` with these parameters waits at a device with every domain on, in READY. -/
def hc (op : Nat) (par : List Byte) : State := hostState full op 0 par

/-- The same with a function 2 phase. -/
def hb (op : Nat) (par : List Byte) : State := hostState full op 1 par

/-- The same in another chip state. -/
def hi (st : ChipSt) (op : Nat) (par : List Byte) : State := hostState (inState st (2 ^ 40 - 1)) op 0 par

/-- The same with a function 2 phase. -/
def hbi (st : ChipSt) (op : Nat) (par : List Byte) : State := hostState (inState st (2 ^ 40 - 1)) op 1 par

/-- Parameters of a function 2 phase of n bytes in direction dir. -/
def bulkPar (n dir : Nat) : List Byte := leBytes 4 n ++ leBytes 4 dir

/-- Zero bytes. -/
def zs (n : Nat) : List Byte := List.replicate n 0

/-- O1: a command waits at the front of the queue. -/
theorem witness_step : ({ ready with pending := [.cmd0, .bypass] } : State).pending = .cmd0 :: [.bypass] := rfl

/-- O2, O3: the state after reset is safe and fresh, and steps. -/
theorem witness_safe : State.reset.safe = true ∧ State.reset.mail.fresh = true ∧ (hc 0x0003 []).safe = true ∧ (hc 0x0003 []).mail.fresh = true := by
  decide +kernel

/-- O5. -/
theorem witness_bye : (hc 0x0003 []).runs 0x0003 = true ∧ (hc 0x0003 []).front.ok 0 [] = true := by decide +kernel

/-- The HELLO that offers version 2.0 alone, and the one that offers eight versions. -/
def hello1 : State := hc 0x0001 [1, 0, 0, 0, 2, 0]
def hello8 : State := hc 0x0001 ([8, 0, 0, 0] ++ [1, 0, 1, 1] ++ [3, 0, 3, 1, 3, 2, 3, 3, 3, 4, 3, 5])

/-- O7. -/
theorem witness_session : hello1.runs 0x0001 = true ∧ hello1.front.ok (4 + 2 * hello1.front.fld 0 1) [(1, 3)] = true ∧ 0 < hello1.front.fld 0 1
    ∧ hello1.front.fld 0 1 ≤ 8 ∧ hello1.front.offers 0x200 ∧ (∀ w ∈ [0x100, 0x101, 0x200], hello1.front.offers w → w ≤ 0x200)
    ∧ hello8.runs 0x0001 = true ∧ hello8.front.ok (4 + 2 * hello8.front.fld 0 1) [(1, 3)] = true ∧ hello8.front.fld 0 1 = 8
    ∧ hello8.front.offers 0x101 ∧ (∀ w ∈ [0x100, 0x101, 0x200], hello8.front.offers w → w ≤ 0x101)
    ∧ (hc 0x0002 [1, 1, 0, 0]).runs 0x0002 = true ∧ (hc 0x0002 [1, 1, 0, 0]).front.ok 4 [(2, 2)] = true
    ∧ 256 * (hc 0x0002 [1, 1, 0, 0]).front.fld 0 1 + (hc 0x0002 [1, 1, 0, 0]).front.fld 1 1 ∈ [0x100, 0x101, 0x200]
    ∧ (hc 0x0EFF []).cmdReady (hc 0x0EFF []).front.op = true ∧ (hc 0x0EFF []).pghWhole 0 28 = true ∧ (hc 0x0EFF []).packet.2.1 ≤ 4064 ∧ (hc 0x0EFF []).packet.2.2 = true
    ∧ (hc 0x0EFF []).mail.sess = true ∧ (hc 0x0EFF []).front.op ≠ 1 ∧ (hc 0x0EFF []).front.ver = (hc 0x0EFF []).mail.ver
    ∧ (hc 0x0EFF []).front.seq = (hc 0x0EFF []).mail.expSeq ∧ opDefined (hc 0x0EFF []).front.op (hc 0x0EFF []).mail.ver = false := by
  unfold Taken.offers; decide +kernel

/-- O8: commands with their parameters, each at the ends of their ranges. -/
theorem witness_readings :
    (∀ e ∈ [(0x0101, 0, []), (0x0102, 0, []), (0x0203, 0, []), (0x0301, 0, []), (0x0507, 0, []), (0x0601, 0, []), (0x0801, 0, []), (0x0905, 0, []),
        (0x0B02, 0, []), (0x0D03, 0, []), (0x0401, 4, leBytes 4 0), (0x0603, 8, leBytes 6 (2 ^ 48 - 1) ++ leBytes 2 63),
        (0x0A02, 4, leBytes 2 1023 ++ leBytes 2 127), (0x0B01, 4, leBytes 2 8177 ++ [15, 0]), (0x0B01, 4, leBytes 2 49 ++ [15, 1]),
        (0x0D02, 2, [0, 64])],
      (hc e.1 e.2.2).runs e.1 = true ∧ (hc e.1 e.2.2).front.ok e.2.1 [] = true)
    ∧ (hc 0x0603 (leBytes 6 (2 ^ 48 - 1) ++ leBytes 2 63)).front.fld 6 2 = 63
    ∧ (hc 0x0A02 (leBytes 2 1023 ++ leBytes 2 127)).front.fld 2 2 = 127 ∧ (hc 0x0A02 (leBytes 2 1023 ++ leBytes 2 127)).front.fld 0 2 < 1024
    ∧ (∀ e ∈ [(8177, 0, 8192), (49, 1, 64)], let t := (hc 0x0B01 (leBytes 2 e.1 ++ [15, BitVec.ofNat 8 e.2.1])).front
        t.fld 2 1 = 15 ∧ t.fld 3 1 = e.2.1 ∧ t.fld 0 2 + t.fld 2 1 = e.2.2)
    ∧ (hc 0x0D02 [0, 64]).front.fld 0 1 + (hc 0x0D02 [0, 64]).front.fld 1 1 = 64 := by decide +kernel

/-- O8, TRACKER_READ of all of 508 entries. -/
def trackerState : State :=
  { hc 0x0508 (leBytes 2 0 ++ leBytes 2 508) with job := { Job.init with trk := List.replicate 508 ⟨[], 0, 0⟩ } }
theorem witness_tracker_read : trackerState.runs 0x0508 = true ∧ trackerState.front.ok 4 [] = true ∧ 0 < trackerState.front.fld 2 2
    ∧ trackerState.front.fld 2 2 ≤ 508 ∧ trackerState.front.fld 0 2 + trackerState.front.fld 2 2 ≤ trackerState.job.trk.length := by decide +kernel

/-- A device with a staged plan and a waiting command. -/
def stagedState (op : Nat) (img : List Byte) (v : Bool) : State := { hc op [] with job := { Job.init with staged := some img, verified := v } }

/-- O9: the largest PLAN_LOAD; a staged plan that passes, and one that fails its first check. -/
theorem witness_plan_load : (hb 0x0501 (bulkPar 67108864 0)).runs 0x0501 = true
    ∧ (hb 0x0501 (bulkPar 67108864 0)).front.okBulk 0 67108864 8 [] = true ∧ (hb 0x0501 (bulkPar 67108864 0)).front.bulkLen % 64 = 0
    ∧ (stagedState 0x0502 smallPlan false).runs 0x0502 = true ∧ (stagedState 0x0502 smallPlan false).front.ok 0 [] = true
    ∧ (stagedState 0x0502 smallPlan false).job.staged = some smallPlan
    ∧ ((stagedState 0x0502 smallPlan false).took.verifyPlan smallPlan).1 = none :=
  ⟨by decide +kernel, by decide +kernel, by decide +kernel, by decide +kernel, by decide +kernel, rfl, by decide +kernel⟩

theorem witness_plan_verify_fails : (stagedState 0x0502 (zs 128) false).runs 0x0502 = true ∧ (stagedState 0x0502 (zs 128) false).front.ok 0 [] = true
    ∧ (stagedState 0x0502 (zs 128) false).job.staged = some (zs 128)
    ∧ ∃ code f, ((stagedState 0x0502 (zs 128) false).took.verifyPlan (zs 128)).1 = some (code, f) := by
  refine ⟨by decide +kernel, by decide +kernel, rfl, ?_⟩
  obtain ⟨x, h⟩ := Option.isSome_iff_exists.mp
    (by decide +kernel : ((stagedState 0x0502 (zs 128) false).took.verifyPlan (zs 128)).1.isSome = true)
  exact ⟨x.1, x.2, h⟩

/-- O10: a verified plan, one that the command verifies itself, the installed plan again, and a plan that fails. -/
def rearmState : State := { hc 0x0503 [] with img := smallPlan }
theorem witness_plan_arm_itself : (stagedState 0x0503 smallPlan false).runs 0x0503 = true ∧ (stagedState 0x0503 smallPlan false).front.ok 0 [] = true
    ∧ (stagedState 0x0503 smallPlan false).job.staged = some smallPlan ∧ ((stagedState 0x0503 smallPlan false).took.verifyPlan smallPlan).1 = none :=
  ⟨by decide +kernel, by decide +kernel, rfl, by decide +kernel⟩
theorem witness_plan_arm_again : rearmState.runs 0x0503 = true ∧ rearmState.front.ok 0 [] = true ∧ rearmState.job.staged = none
    ∧ rearmState.img ≠ [] ∧ rearmState.unheld = [] := by decide +kernel
/-- With a WEIGHTS record whose macro does not hold its image, and with a result set in progress. -/
def weightsPlan : List Byte := planOf [(0x11, 0xFFFF, 1, leBytes 8 0), (0x13, 0xFFFF, 1, leBytes 4 5 ++ leBytes 2 0 ++ leBytes 2 1 ++ zs 56)]
def drainState : State := { hi .running 0x0506 [] with regs := [(0x2FF00000, 1)], img := opsPlan [0x2000000] [] [], job := { Job.init with j := 1 }, sets := [⟨0, 9, false, false, []⟩] }
theorem witness_plan_waits : ({ stagedState 0x0503 weightsPlan true with img := weightsPlan } : State).unheld = [0]
    ∧ (stagedState 0x0503 weightsPlan true).runs 0x0503 = true ∧ drainState.runs 0x0506 = true ∧ drainState.front.ok 0 [] = true
    ∧ (∃ r ∈ drainState.sets, drainState.setComplete r.j = false) := by decide +kernel
theorem witness_plan_arm_fails : (stagedState 0x0503 (zs 128) false).runs 0x0503 = true ∧ (stagedState 0x0503 (zs 128) false).front.ok 0 [] = true
    ∧ (stagedState 0x0503 (zs 128) false).job.staged = some (zs 128) ∧ (stagedState 0x0503 (zs 128) false).job.verified = false
    ∧ ∃ code f, ((stagedState 0x0503 (zs 128) false).took.verifyPlan (zs 128)).1 = some (code, f) := by
  refine ⟨by decide +kernel, by decide +kernel, rfl, rfl, ?_⟩
  obtain ⟨x, h⟩ := Option.isSome_iff_exists.mp
    (by decide +kernel : ((stagedState 0x0503 (zs 128) false).took.verifyPlan (zs 128)).1.isSome = true)
  exact ⟨x.1, x.2, h⟩
theorem witness_plan_arm : (stagedState 0x0503 smallPlan true).runs 0x0503 = true ∧ (stagedState 0x0503 smallPlan true).front.ok 0 [] = true
    ∧ (stagedState 0x0503 smallPlan true).job.staged = some smallPlan ∧ (stagedState 0x0503 smallPlan true).job.verified = true :=
  ⟨by decide +kernel, by decide +kernel, rfl, rfl⟩
theorem witness_plan_runs : (∀ e ∈ [(ChipSt.armed, 0x0504), (.running, 0x0505), (.armed, 0x0505), (.faulted, 0x0505), (.running, 0x0506)],
      (hi e.1 e.2 []).runs e.2 = true ∧ (hi e.1 e.2 []).front.ok 0 [] = true ∧ (hi e.1 e.2 []).chip.st = e.1)
    ∧ (∀ x ∈ (hi .running 0x0506 []).mail.taken, x.op ≠ 0x0702) ∧ (hi .running 0x0506 []).sets = [] := by decide +kernel

/-- O11: a ring setup at the ends of its ranges; a SUBMIT of a slot 16 ahead, without and with a bulk phase. -/
def ringState : State := hc 0x0703 ([1, 0, 0, 0] ++ leBytes 8 (2 ^ 36 - 64) ++ leBytes 4 16777216 ++ leBytes 2 1024)
def ring64 : Ring := ⟨0x1000, 64, 4⟩
def submitState (b : Bool) : State :=
  { (if b then hbi .armed 0x0701 (bulkPar 64 0 ++ leBytes 8 16) else hi .armed 0x0701 (zs 8 ++ leBytes 8 16)) with
      job := { Job.init with inRing := some ring64 } }
theorem witness_rings : ringState.runs 0x0703 = true ∧ ringState.front.ok 18 [(1, 3)] = true ∧ ringState.front.fld 0 1 ≤ 1
    ∧ ringState.front.fld 4 8 % 64 = 0 ∧ ringState.front.fld 4 8 < 2 ^ 36 ∧ ringState.front.fld 12 4 % 64 = 0
    ∧ ringState.front.fld 12 4 ≤ 16777216 ∧ 0 < ringState.front.fld 16 2 ∧ ringState.front.fld 16 2 ≤ 1024
    ∧ (submitState false).runs 0x0701 = true ∧ (submitState false).job.inRing = some ring64 ∧ (submitState false).front.bulk = false
    ∧ (submitState false).front.ok 16 [(0, 8), (14, 2)] = true
    ∧ (submitState true).runs 0x0701 = true ∧ (submitState true).job.inRing = some ring64 ∧ (submitState true).front.bulk = true
    ∧ (submitState true).front.okBulk 0 64 16 [(14, 2)] = true
    ∧ (∀ b : Bool, (submitState b).admitPast ((submitState b).front.fld 8 6) = false
      ∧ ((submitState b).front.fld 8 6 + 2 ^ 48 - (submitState b).slotNo) % 2 ^ 48 ≤ 16
      ∧ (submitState b).front.fld 8 6 ∉ (submitState b).job.submitted) := by decide +kernel

/-- A submission of 64 bytes on its way to HBM. -/
def submitted1 : Taken := ⟨0, 0x0701, 7, 0, 0x200, bulkPar 64 0 ++ leBytes 8 16 ++ zs 64, 2, [1, 0x1000]⟩
def submittingState : State := { inState .armed (2 ^ 40 - 1) with mail := { Mail.init with sess := true, ver := 0x200, nextId := 1, taken := [submitted1] } }
theorem witness_submit_visible : ∃ u, submittingState.mail.taken.find? (fun t => decide (t.op = 0x0701 ∧ t.stage = 2)) = some submitted1
    ∧ submittingState.mail.fresh = true
    ∧ submittingState.hubPut (submitted1.aux.getD 1 0) (submitted1.par.drop (submitted1.par.length - submitted1.bulkLen)) = (true, u) :=
  ⟨_, by decide +kernel, by decide +kernel, pair_of_fst (by decide +kernel)⟩

/-- O12. -/
def fetchState (status : Nat) : State :=
  { hbi .armed 0x0702 (bulkPar 64 1 ++ leBytes 8 0 ++ leBytes 4 0) with
      job := { Job.init with outRing := some ring64, recs := [⟨0, status, 0, 0, 0, 0, 0, 0, 0, 0, 0, 0, 0⟩] } }
def slot0 (status : Nat) : SlotRec := ⟨0, status, 0, 0, 0, 0, 0, 0, 0, 0, 0, 0, 0⟩
theorem witness_hbm_write : (hb 0x0704 (bulkPar 64 0 ++ zs 8)).runs 0x0704 = true
    ∧ (hb 0x0704 (bulkPar 64 0 ++ zs 8)).front.okBulk 0 (2 ^ 32) 16 [] = true ∧ (hb 0x0704 (bulkPar 64 0 ++ zs 8)).front.bulkLen % 64 = 0
    ∧ (hb 0x0704 (bulkPar 64 0 ++ zs 8)).front.fld 8 8 % 64 = 0 := by decide +kernel
theorem witness_hbm_read : ∃ d u, (hb 0x0705 (bulkPar 64 1 ++ zs 8)).runs 0x0705 = true
    ∧ (hb 0x0705 (bulkPar 64 1 ++ zs 8)).front.okBulk 1 (2 ^ 32) 16 [] = true ∧ (hb 0x0705 (bulkPar 64 1 ++ zs 8)).front.bulkLen % 64 = 0
    ∧ (hb 0x0705 (bulkPar 64 1 ++ zs 8)).front.fld 8 8 % 64 = 0
    ∧ (hb 0x0705 (bulkPar 64 1 ++ zs 8)).took.hubBytes ((hb 0x0705 (bulkPar 64 1 ++ zs 8)).front.fld 8 8)
        (hb 0x0705 (bulkPar 64 1 ++ zs 8)).front.bulkLen = (some d, u) :=
  ⟨zs 64, _, by decide +kernel, by decide +kernel, by decide +kernel, by decide +kernel, pair_of_fst (by decide +kernel)⟩
theorem witness_fetch : (∀ st ∈ [0, 1], (fetchState st).runs 0x0702 = true ∧ (fetchState st).job.outRing = some ring64
      ∧ (fetchState st).front.okBulk 1 (2 ^ 32) 20 [(14, 2)] = true ∧ (fetchState st).front.fld 16 4 + (fetchState st).front.bulkLen ≤ ring64.stride
      ∧ ¬(((fetchState st).slotNo + 2 ^ 48 - (fetchState st).front.fld 8 6) % 2 ^ 48 < 2 ^ 47
          ∧ ring64.count ≤ ((fetchState st).slotNo + 2 ^ 48 - (fetchState st).front.fld 8 6) % 2 ^ 48)
      ∧ (fetchState st).slotRec ((fetchState st).front.fld 8 6) = some (slot0 st) ∧ (slot0 st).status = st)
    ∧ ∃ d u, ((fetchState 0).took.setTaken ((fetchState 0).fetching ring64)).hubBytes
        (ring64.base + ((fetchState 0).front.fld 8 6 % ring64.count) * ring64.stride + (fetchState 0).front.fld 16 4) (fetchState 0).front.bulkLen
          = (some d, u) :=
  ⟨by decide +kernel, zs 64, _, pair_of_fst (by decide +kernel)⟩

/-- O13. -/
def imgWriteState : State := hb 0x0402 (bulkPar 65536 0 ++ leBytes 4 5 ++ leBytes 2 0 ++ leBytes 2 4095 ++ leBytes 4 1 ++ zs 32)
def imgPullState : State := hc 0x0403 (leBytes 4 1 ++ leBytes 4 5 ++ leBytes 2 1 ++ leBytes 2 255 ++ leBytes 4 1 ++ zs 32)
def someImg : ImgRec := imgOf 5 0 3 1 (zs 32)
def imgReadState : State :=
  { hb 0x0405 (bulkPar 65536 1 ++ leBytes 4 5) with store := { Store.init with imgs := [someImg] } }
def imgDeleteState : State := { hc 0x0404 (leBytes 4 5) with store := { Store.init with imgs := [someImg] } }
def syncState (id : Nat) : State := hc 0x0406 (leBytes 2 4095 ++ leBytes 2 1 ++ leBytes 4 0 ++ leBytes 4 id)
theorem witness_images : imgWriteState.takenOp 0x0402 = none ∧ imgWriteState.runs 0x0402 = true
    ∧ imgWriteState.front.okBulk 0 (2 ^ 32) 52 [(13, 1), (18, 2)] = true ∧ imgWriteState.front.imgRec.fits = true
    ∧ imgWriteState.front.bulkLen = imgWriteState.front.imgRec.len ∧ imgWriteState.imgRefuse imgWriteState.front.imgRec = none
    ∧ imgWriteState.imgBusy imgWriteState.front.imgRec = false
    ∧ imgPullState.takenOp 0x0403 = none ∧ imgPullState.runs 0x0403 = true ∧ imgPullState.front.ok 48 [(2, 2), (9, 1), (14, 2)] = true
    ∧ imgPullState.front.imgRec.fits = true ∧ imgPullState.front.fld 0 2 < 4096 ∧ imgPullState.front.fld 0 2 ≠ imgPullState.ownCoord
    ∧ imgPullState.front.imgRec.kind ≠ 2 ∧ imgPullState.imgRefuse imgPullState.front.imgRec = none
    ∧ imgPullState.imgBusy imgPullState.front.imgRec = false
    ∧ imgReadState.runs 0x0405 = true ∧ imgReadState.front.okBulk 1 (2 ^ 32) 12 [] = true
    ∧ imgReadState.store.imgs.find? (fun r => decide (r.id = imgReadState.front.fld 8 4)) = some someImg ∧ imgReadState.front.bulkLen ≤ someImg.len
    ∧ imgDeleteState.runs 0x0404 = true ∧ imgDeleteState.front.ok 4 [] = true
    ∧ imgDeleteState.store.imgs.any (fun r => decide (r.id = imgDeleteState.front.fld 0 4)) = true
    ∧ imgDeleteState.planWeights.any (fun w => decide (w.1 = imgDeleteState.front.fld 0 4)) = false
    ∧ (∀ id ∈ [0, 9], (syncState id).takenOp 0x0406 = none ∧ (syncState id).runs 0x0406 = true ∧ (syncState id).front.ok 12 [(5, 3)] = true
      ∧ (syncState id).front.fld 4 1 = 0 ∧ 0 < (syncState id).front.fld 2 2 ∧ (syncState id).front.fld 0 2 + (syncState id).front.fld 2 2 ≤ 4096
      ∧ (syncState id).front.fld 8 4 = id ∧ (syncState id).store.imgs.length < 256
      ∧ (∀ m ∈ (syncState id).front.syncMacros, ((syncState id).mx m).shop = none ∧ (syncState id).dirtyRows m = [])) := by decide +kernel

end Sys2Proof.Tests
end

