-- ==== Sys2Proof/Tests/WitnessNimbus.lean ====
section
/-! SUPPORT. Witnesses: concrete states and operands that meet the hypotheses of the statements about Nimbus and errors, clause by clause. -/

namespace Sys2Proof.Tests

open Sys2Proof Sys2Proof.Machine
set_option Elab.async false

/-- Member 0 of group 9 gets Nimbus message `op` of a member with an argument. -/
def nm (op sender arg : Nat) : CMsg := nimMsgOf op sender 1 0 arg []
def withNim (f : Nim → Nim) : State := { running4 with nim := f running4.nim }
/-- An exchange runs that member c coordinates, with answers and cleared members. -/
def exchanging (c : Nat) (st : List NimStatus) (z : List Nat) : State :=
  withNim (fun n => { n with exch := { n.exch with active := true, coord := c, status := st, zeroed := z } })

/-- O48: every kind of message that the clauses name reaches member 0 of group 9. -/
theorem witness_nimbus_gets : ∀ e ∈ [(1, 3, 0), (2, 3, 0), (3, 1, 2), (4, 1, 0), (5, 3, 0), (6, 1, 0), (7, 3, 0), (8, 1, 0), (9, 3, 0), (0xA, 3, 0), (0xB, 3, 0),
      (0xC, 1, 0), (0xD, 3, 0), (0xE, 3, 0), (0xF, 3, 0), (0x10, 3, 0), (0x11, 1, 0), (0x13, 1, 0xF3)],
    (gets running4 (nm e.1 e.2.1 e.2.2)).nimGets 0 e.1 (nm e.1 e.2.1 e.2.2) := by
  unfold State.nimGets; decide +kernel

/-- O48: a message for another group. -/
theorem witness_nimbus_other : (gets running4 (nimMsgOf 1 3 1 0 0 [])).ownMsg 0 7 = some (255, nimMsgOf 1 3 1 0 0 [])
    ∧ (gets (running4.setF nimBase F.NIM_GROUP_GROUP_ID 8) (nm 1 3 0)).ownMsg 0 7 = some (255, nm 1 3 0)
    ∧ leAt (nm 1 3 0).data 2 2 ≠ (gets (running4.setF nimBase F.NIM_GROUP_GROUP_ID 8) (nm 1 3 0)).nimGroup
    ∧ (gets (running4.setF nimBase F.NIM_CTL_EN 0) (nm 1 3 0)).nimEn = false := by decide +kernel

/-- O48: the exchange, from its first answer to its last; peers that are lost. -/
theorem witness_nimbus_exchange :
    (let s := gets (exchanging 0 [] []) (nm 5 3 0); s.nimEn = true ∧ s.nim.exch.active = true ∧ s.nim.exch.coord = s.ownIdx ∧ 1 ∈ s.live ∧ 1 ≠ (nm 5 3 0).nSender
      ∧ ∀ e ∈ s.nim.exch.status, e.member ≠ 1)
    ∧ (let s := gets (exchanging 0 [⟨0, 0, 0, 0⟩, ⟨1, 0, 0, 0⟩, ⟨2, 0, 0, 0⟩] []) (nm 5 3 0);
        s.nim.exch.active = true ∧ s.nim.exch.coord = s.ownIdx
          ∧ ∀ x ∈ s.live, x = (nm 5 3 0).nSender ∨ ∃ e ∈ s.nim.exch.status, e.member = x)
    ∧ (let s := gets running4 (nm 3 1 2); s.isLive (nm 3 1 2).nSender = true ∧ bits (nm 3 1 2).nArg 0 4 = 2 ∧ s.isLive 2 = true ∧ 2 ≠ s.ownIdx)
    ∧ running4.inGroup = true ∧ running4.ownIdx = running4.coordinator
    ∧ (let s := withNim (fun n => { n with pings := [15] });
        15 ∈ s.nim.pings ∧ s.nimEn = true ∧ s.inGroup = true ∧ s.memberAt 15 = some 3 ∧ s.isLive 3 = true ∧ 3 ≠ s.ownIdx)
    ∧ (let s := exchanging 0 [] []; s.memberAt 15 = some 3 ∧ s.nimEn = true ∧ s.nim.exch.active = true ∧ s.nim.exch.coord = s.ownIdx
        ∧ s.nim.exch.decision = none ∧ (∀ e ∈ s.nim.exch.status, e.member ≠ 3) ∧ s.isLive 3 = true ∧ 3 ≠ s.ownIdx)
    ∧ (let s := exchanging 1 [] []; s.nimEn = true ∧ s.nim.exch.active = true ∧ s.nim.exch.decision = none ∧ s.nim.exch.coord ≠ s.ownIdx
        ∧ (s.live.filter (fun m => decide (s.nim.exch.coord < m))).head? = some 2 ∧ 2 ≠ s.ownIdx) := by decide +kernel

/-- O48: the four decisions, and their ends. -/
theorem witness_nimbus_decisions :
    (∀ d ∈ [0, 1, 2, 3], bits (nm 6 1 d).nArg 0 2 = d)
    ∧ (let s := gets { withNim (fun n => { n with committed := some 0 }) with img := padTo 64 (List.replicate 28 0 ++ [1]) } (nm 6 1 0);
        s.nim.sec = none ∧ s.nim.committed = some (nm 6 1 0).nStep ∧ s.stepEnded (nm 6 1 0).nStep = false)
    ∧ (let s := gets ((running4.setF nimBase F.NIM_GRAD_LINES_LINES 4).setF nimBase F.NIM_GRAD_STAGE_LO_ADDR 0x100000) (nm 6 1 1);
        s.nim.sec = none ∧ s.hubGood s.gStage (64 * s.gLines))
    ∧ (let s := gets (withNim (fun n => { n with exch := { n.exch with now := [2] } })) (nm 6 1 2);
        s.nim.exch.now = [2] ∧ s.errs.slot = none ∧ s.isIn [.armed, .running, .draining, .securing] = true)
    ∧ (let s := gets running4 (nm 7 3 0); 1 ∈ s.live ∧ 1 ≠ (nm 7 3 0).nSender ∧ 1 ∉ s.nim.exch.zeroed)
    ∧ (let s := gets (exchanging 0 [] [0, 1, 2]) (nm 7 3 0); s.nim.exch.coord = s.ownIdx ∧ ∀ x ∈ s.live, x = (nm 7 3 0).nSender ∨ x ∈ s.nim.exch.zeroed)
    ∧ running4.grad = 0 := by unfold State.hubGood State.hubFree; decide +kernel

/-- The gradient phase of a training plan whose first set runs. -/
def training (n : Nim → Nim) (g : Nat) : State :=
  let s := (running4.setF nimBase F.NIM_GRAD_CTL_EN 1).setF nimBase F.NIM_STAT_GRAD g
  { (s.setF nimBase F.NIM_GRAD_LINES_LINES 4).setF nimBase F.NIM_GRAD_STAGE_LO_ADDR 0x100000 with
      img := padTo 64 (List.replicate 28 0 ++ [1, 0, 1]), job := { Job.init with j := 1 }, nim := n s.nim }

/-- O49. -/
theorem witness_gradient :
    (∀ b : Bool, let s := training (fun n => { n with noReduce := b }) 0;
      s.nimEn = true ∧ s.isF nimBase F.NIM_GRAD_CTL_EN = true ∧ planTraining s.img = true ∧ s.isIn [.running, .draining, .securing] = true
        ∧ s.grad = 0 ∧ 0 < s.job.j ∧ s.nim.committed ≠ some s.curStep ∧ s.nim.noReduce = b ∧ s.inGroup = true
        ∧ s.getF nimBase F.NIM_GRAD_CTL_READY_INC ≤ (s.readyCount + 2 ^ 32 - s.nim.gradBase) % 2 ^ 32 ∧ s.nim.goWait = false
        ∧ s.pathOpen 272 (s.getF nimBase F.NIM_GRAD_COMMIT_COMMIT_BLK) = true)
    ∧ (gets running4 (nm 9 3 0)).grad ≠ 1
    ∧ (let s := gets (training (fun n => { n with gradLive := [0, 1, 2, 3], added := [(0, 0), (0, 1), (0, 2)], pushed := [(0, 1), (0, 2), (0, 3)] }) 1) (nm 9 3 0);
        s.grad = 1 ∧ s.gradPos = some 0 ∧ 0x100 ∉ s.nim.told ∧ (∀ x ∈ s.nim.gradLive, x = (nm 9 3 0).nSender ∨ (s.nim.gradStep, x) ∈ s.nim.added)
          ∧ (nm 9 3 0).nStep = s.nim.gradStep
          ∧ s.nim.gradLive ≠ [] ∧ ∀ q < s.nim.gradLive.length, q = bits (nm 0xA 3 0).nArg 0 4 ∨ (s.nim.gradStep, q) ∈ s.nim.pushed)
    ∧ (gets (grouped (inState .running (2 ^ 40 - 1)) 1) (nm 0xB 3 0)).ownIdx ≠ (gets (grouped (inState .running (2 ^ 40 - 1)) 1) (nm 0xB 3 0)).coordinator
    ∧ (let s := gets (withNim (fun n => { n with ready := [(0, 0), (0, 1), (0, 2)] })) (nm 0xB 3 0);
        s.ownIdx = s.coordinator ∧ ∀ x ∈ s.live, x = (nm 0xB 3 0).nSender ∨ ((nm 0xB 3 0).nStep, x) ∈ s.nim.ready) := by decide +kernel

/-- O49: COMMIT, and one under PATH1 whose step has ended. -/
theorem witness_commit : running4.gAvg % 64 ≤ 60 ∧ running4.lineGood (running4.gAvg / 64 * 64) 272 true = true
    ∧ running4.hubFree (running4.gAvg / 64 * 64) ∧ running4.collDue = none ∧ running4.nim.path1 = none
    ∧ running4.pathOpen 272 (running4.getF nimBase F.NIM_GRAD_COMMIT_COMMIT_BLK) = true
    ∧ (let s := gets { withNim (fun n => { n with path1 := some 0, exch := { n.exch with now := [2] } }) with
            img := padTo 64 (List.replicate 28 0 ++ [1]), job := { Job.init with j := 1 } } (nm 0xC 1 0);
        s.nim.path1 = some (nm 0xC 1 0).nStep ∧ s.stepEnded (nm 0xC 1 0).nStep = true ∧ s.nim.exch.now = [2] ∧ s.errs.slot = none
          ∧ s.isIn [.armed, .running, .draining, .securing] = true ∧ s.gAvg % 64 ≤ 60 ∧ s.lineGood (s.gAvg / 64 * 64) 272 true = true ∧ s.hubFree (s.gAvg / 64 * 64) ∧ s.collDue = none
          ∧ s.pathOpen 272 (s.getF nimBase F.NIM_GRAD_COMMIT_COMMIT_BLK) = true ∧ s.nimGets 0 0xC (nm 0xC 1 0)) := by
  unfold State.hubFree State.nimGets; decide +kernel

/-- O49: the own stripe in STAGE and in RESULT. -/
theorem witness_gradient_stripe : let s := gets (training (fun n => { n with gradLive := [0, 1, 2, 3] }) 1) (nm 9 3 0);
    s.hubGood (s.gStage + 64 * (stripeOf s.gLines s.nim.gradLive.length 0).1) (64 * (stripeOf s.gLines s.nim.gradLive.length 0).2)
      ∧ s.hubGood (s.gResult + 64 * (stripeOf s.gLines s.nim.gradLive.length 0).1) (64 * (stripeOf s.gLines s.nim.gradLive.length 0).2) := by
  unfold State.hubGood State.hubFree; decide +kernel

/-- A securing of epoch 1. -/
def sec1 : Securing := ⟨1, 0, 0, true, true, false, [], [], [], [], false, [], []⟩
/-- The same with a macro of the image that work older than its block's number 1 held at the freeze. -/
def secLate : Securing := { sec1 with late := [(4095, 1)] }
/-- Member 0 of group 9 in a securing, with one chunk. -/
def securing1 (st : ChipSt) (v : Securing) : State :=
  let s := (grouped (inState st (2 ^ 40 - 1)) 0).setF nimBase F.NIM_CHUNKS_C 1
  { s with nim := { s.nim with sec := some v } }

/-- O50. -/
theorem witness_securing :
    (∀ st ∈ [ChipSt.running, .armed], let s := (inState st (2 ^ 40 - 1) |>.setF nimBase F.NIM_CTL_EN 1).setF nimBase F.NIM_STAT_REQ 1;
      let t : State := { s with nim := { s.nim with atEdge := true } };
      t.nimEn = true ∧ t.isSecuring = false ∧ ((t.chip.st = .running ∧ t.nim.atEdge = true) ∨ (t.chip.st = .armed ∧ t.isF nimBase F.NIM_STAT_REQ = true))
        ∧ t.getF hznBase F.HZN_REST_OFF = 0 ∧ t.power.settling = [] ∧ t.power.plan = [] ∧ t.power.restoring = []
        ∧ (∀ k < 8, t.shard k F.NIM_SHARD_KIND_KIND ≠ 1) ∧ t.flips.mac = [] ∧ t.flips.hard = [] ∧ t.power.ret = 0 ∧ t.bist.slice = none
        ∧ (t.setF hznBase F.HZN_REST_OFF 1).getF hznBase F.HZN_REST_OFF ≠ 0)
    ∧ (let s := securing1 .securing sec1; s.nim.sec = some sec1 ∧ sec1.frozen = true ∧ s.chip.st = .securing ∧ sec1.copied = true ∧ sec1.digests = false
        ∧ sec1.late = [])
    ∧ (∀ x ∈ [none, some ⟨true, [], 0⟩], let s := (securing1 .securing secLate).setMx 4095 { MacroX.init with shop := x };
        s.nim.sec = some secLate ∧ secLate.frozen = true ∧ s.chip.st = .securing ∧ s.flips.mac = [] ∧ s.flips.hard = []
          ∧ ∀ e ∈ secLate.late, s.macroHeld e.1 e.2 = x.isSome)
    ∧ (∀ e ∈ [(0xE, 0), (0xF, 0), (0x10, 0), (0x11, 0)], let m := nimMsgOf e.1 3 1 0 e.2 (List.replicate 64 1); let s := gets (securing1 .running sec1) m;
        m.nEpoch = s.epoch + 1 ∧ s.nim.sec = some sec1 ∧ sec1.epoch = m.nEpoch ∧ s.inGroup = true ∧ s.ownIdx = s.coordinator) := by decide +kernel

/-- O50: parity, digests and roots of peers. -/
theorem witness_secured_peers : (let s := securing1 .running sec1; s.ownIdx = (0 + 0) % s.grpN ∧ 0 < stripes s.grpN s.nimC
        ∧ (s.ownIdx + s.grpN - 3 % 16) % s.grpN = 1 ∧ 0 < s.nimC
        ∧ s.hubGood (s.nimBuf 1 + s.parOff + parityNo s.grpN s.ownIdx 0 * mib + 2048 * 0) 2048
        ∧ s.hubGood (s.nimBuf 1 + s.digOff + 0x80000 * 1 + 32 * 0) (64 * 0) ∧ (nimMsgOf 0xF 3 1 0 0 []).data.length = 64 + 64 * 0 ∧ 1 ∈ s.live ∧ (∀ g ∈ sec1.got, g.1 ≠ 1))
    ∧ (let v := { sec1 with got := [(0, []), (1, []), (2, [])] }; let s := securing1 .running v;
        s.nim.sec = some v ∧ ∀ x ∈ s.live, x = 3 ∨ ∃ g ∈ v.got, g.1 = x) := by unfold State.hubGood State.hubFree; decide +kernel

/-- O50: the copy in a group, of one chunk of an image in HBM. -/
theorem witness_secured_image : ∀ st ∈ [ChipSt.securing, .running],
    (securing1 st sec1).inGroup = true ∧ 0 < (securing1 st sec1).nimC
      ∧ (securing1 st sec1).hubGood ((securing1 st sec1).nimBuf sec1.epoch) ((securing1 st sec1).nimC * mib) := by
  intro st h
  simp only [List.mem_cons, List.not_mem_nil, or_false] at h
  obtain rfl | rfl := h <;>
    exact ⟨by decide +kernel, by decide +kernel,
      hubGood_plain _ _ _ (by decide +kernel) (by decide +kernel) (by decide +kernel) (by decide +kernel) (by decide +kernel) (by decide +kernel)⟩

/-- A device that restores or rebuilds, with what it is asked for. -/
def restoringOf (p1 e : Nat) (r : Option (Nat × Nat)) : State :=
  let s := ((inState .restoring (2 ^ 40 - 1)).setF nimBase F.NIM_STAT_P1DONE p1).setF nimBase F.NIM_EPOCH_EPOCH e
  { s with nim := { s.nim with restore := r } }
/-- The member table of a group of which the device at coordinate 0 was member 2. -/
def tableOf (tag : Nat) : CMsg :=
  nimMsgOf 0x12 3 1 0 0 ((List.range 16).flatMap (fun i => leBytes 4 (if i = 2 then 0x20000 else if i < 4 then 0x30000 + 4096 * tag + 5 * i + 1 else 0)))
def tableMsg : CMsg := tableOf 1
def rebuild1 (err : Nat) : Rebuild := ⟨0, false, 0, 9, 0xFFFFFFFF, 0, false, 0, 0, false, [], 0, err⟩
def rebuilding (err : Nat) : State :=
  let s := (inState .restoring (2 ^ 40 - 1)).setF nimBase F.NIM_CTL_EN 1
  { s with nim := { s.nim with rebuild := some (rebuild1 err) } }

/-- O51. -/
theorem witness_restores :
    (let s := restoringOf 1 0 (some (0, 0xFFFFFFFE));
      s.nim.restore = some (0, 0xFFFFFFFE) ∧ s.chip.st = .restoring ∧ s.power.settling = [] ∧ s.isF nimBase F.NIM_STAT_P1DONE = true)
    ∧ (restoringOf 0 0 (some (0, 0xFFFFFFFE))).isF nimBase F.NIM_STAT_P1DONE = false ∧ (restoringOf 0 0 (some (0, 3))).epoch = 0
    ∧ (restoringOf 0 5 (some (0, 5))).epoch = 5 ∧ ((restoringOf 0 5 (some (0, 5))).digestsMatch 5).1 = true
    ∧ (gets (rebuilding 0) tableMsg).nim.rebuild = some (rebuild1 0) ∧ (rebuild1 0).table = false ∧ (rebuild1 0).err = 0
    ∧ (∀ tag ∈ [0, 1], let s := gets (rebuilding 0) (tableOf tag);
        (List.range 16).find? (fun (i : Nat) => (leAt (tableOf tag).data (64 + 4 * i) 4).testBit 17
            && decide (leAt (tableOf tag).data (64 + 4 * i) 4 % 4096 = (rebuild1 0).coord)) = some 2
          ∧ s.rebuildCheck (rebuild1 0) (tableOf tag) 2 = (if tag = 0 then 0x0602 else 0))
    ∧ (let r := { rebuild1 0 with coord := 4095 }; let s0 := rebuilding 0; let s := gets { s0 with nim := { s0.nim with rebuild := some r } } tableMsg;
        s.nim.rebuild = some r ∧ s.ownMsg 0 7 = some (255, tableMsg) ∧ (List.range 16).find? (fun (i : Nat) =>
          (leAt tableMsg.data (64 + 4 * i) 4).testBit 17 && decide (leAt tableMsg.data (64 + 4 * i) 4 % 4096 = r.coord)) = none)
    ∧ running4.ownMsg 4095 7 = none ∧ running4.nimEn = true ∧ running4.inGroup = true ∧ running4.nim.rebuild = none
    ∧ (rebuilding 0).nim.rebuild = some (rebuild1 0) ∧ (rebuilding 0).chip.st = .restoring ∧ (rebuilding 0).power.settling = []
    ∧ (rebuilding 0x0603).nim.rebuild = some (rebuild1 0x0603) ∧ (rebuild1 0x0603).err ≠ 0 ∧ (rebuilding 0x0603).chip.st = .restoring
    ∧ (rebuilding 0x0603).power.settling = [] := by decide +kernel
/-- A rebuild in a group without chunks and without other members that is complete. -/
def alone : State := let s := (inState .restoring (2 ^ 40 - 1)).setF nimBase F.NIM_CTL_EN 1
  { s with nim := { s.nim with rebuild := some { rebuild1 0 with table := true } } }
theorem witness_rebuild_ends : alone.nim.rebuild = some { rebuild1 0 with table := true } ∧ alone.chip.st = .restoring ∧ alone.power.settling = []
    ∧ (let r := { rebuild1 0 with table := true }; r.err = 0 ∧ r.table = true ∧ r.wait = 0
      ∧ (chunkDigests alone.nimC (alone.rebuiltImage r)).flatten = alone.rebuiltDigests r
      ∧ alone.rootDiffers r (merkle (alone.shardRoots (chunkDigests alone.nimC (alone.rebuiltImage r)))) = false) := by decide +kernel
theorem witness_members : ∀ tag ∈ [0, 1], (gets (rebuilding 0) (tableOf tag)).nimGets 0 0x12 (tableOf tag) := by unfold State.nimGets; decide +kernel

/-- The last block with an error in its slot; a job with an error in Casec's. -/
def errBlock (f : Nat) : State := (full.setBx 255 { BlockX.init with eslot := some (f, 1) }).setF (blkBase 255) F.BLK_FAULT_STAT_VALID 1
def errJob (f : Option Nat) : State := let s := inState .running (2 ^ 40 - 1); { s with errs := { s.errs with slot := f, pin := f.map (fun x => (x, 1)) } }

/-- O52. -/
theorem witness_errors : full.isF (blkBase 255) F.BLK_FAULT_STAT_VALID = false ∧ (errBlock 7).isF (blkBase 255) F.BLK_FAULT_STAT_VALID = true
    ∧ ((errBlock 7).bx 255).eslot = some (7, 1) ∧ (errBlock 7).isF (rgnBase (255 / 16)) F.RGN_ERR_STAT_VALID = false ∧ full.isIn [.off, .sleep] = false
    ∧ (errJob none).isIn [.armed, .running, .draining, .securing, .restoring] = true ∧ (errJob none).errs.slot = none
    ∧ (errJob (some 7)).errs.slot = some 7 ∧ (errJob (some 7)).errs.pin = some (7, 1)
    ∧ full.isIn [.armed, .running, .draining, .securing, .restoring] = false := by decide +kernel

end Sys2Proof.Tests
end

