-- ==== Sys2Proof/Tests/WitnessOps.lean ====
section
/-! SUPPORT. Witnesses: concrete states and operands that meet the hypotheses of the statements about operations, clause by clause. -/

namespace Sys2Proof.Tests

open Sys2Proof Sys2Proof.Machine
set_option Elab.async false

/-- Tensors of the last block's scratchpad: two rows of 32 elements, and two rows of n elements of a format. -/
def dIn : List Byte := descB 0 false 0 0x10000 [32, 2, 1, 1, 1, 1] [64, 32, 0, 0]
def dOut (n : Nat) : List Byte := descB 0 false 0 0x20000 [n, 2, 1, 1, 1, 1] [64, n, 0, 0]

/-- A plan of one operation of a kind on the last macro, input in descriptor 0, output in descriptor 1, INIT set, with these further bits. -/
def opImg (k x : Nat) : List Byte := opsPlan [k + 2 ^ 31 + 2 ^ 44 + 2 ^ 84 + x] [] [dIn, dOut 2048]
/-- A plan of one copy from descriptor 0 to descriptor 1. -/
def cpImg (k x : Nat) : List Byte := opsPlan [k + 2 ^ 28 + x] [] [dIn, dOut 32]

/-- The issue of a plan's operation, all of its inputs arrived. -/
def ripe (img : List Byte) (f : Issue → Issue) : Issue :=
  let i := drafted img
  f { i with got := (amid img i).wants 255 i false }

/-- A verdict that is an issue, a probe. -/
def isGo (v : Verdict) : Bool :=
  match v with
  | .go _ => true
  | _ => false
def isProbe (v : Verdict) : Bool :=
  match v with
  | .probe _ => true
  | _ => false
theorem go_of {v : Verdict} (h : isGo v = true) : v = .go (goOf v) := by
  cases v <;> first | rfl | cases h
theorem probe_of {v : Verdict} (h : isProbe v = true) : v = .probe (goOf v) := by
  cases v <;> first | rfl | cases h
def set9 : ResultSet := ⟨0, 9, false, false, [2]⟩

/-- O53: operations that issue. -/
theorem witness_issue (k : Nat) (h : k ∈ [0x01, 0x07]) : (opAt (opImg k 0)).opNext 255 0 k ∧ (opAt (opImg k 0)).opReady 255 0 set9
    ∧ (opAt (opImg k 0)).verdict 255 0 = .go (goOf ((opAt (opImg k 0)).verdict 255 0))
    ∧ (opAt (opImg k 0)).chosen 255 ((opAt (opImg k 0)).pointOf 255 0) = some 0 := by
  simp only [List.mem_cons, List.not_mem_nil, or_false] at h
  rcases h with rfl | rfl <;>
    exact ⟨⟨by decide, by decide, tidy_running _ _ _ (by decide +kernel), by decide +kernel⟩, by unfold State.opReady; decide +kernel,
      go_of (by decide +kernel), by decide +kernel⟩
theorem witness_issue_copy (k : Nat) (h : k ∈ [0x20, 0x23]) : (opAt (cpImg k 0)).opNext 255 0 k ∧ (opAt (cpImg k 0)).opReady 255 0 set9
    ∧ (opAt (cpImg k 0)).verdict 255 0 = .go (goOf ((opAt (cpImg k 0)).verdict 255 0))
    ∧ (opAt (cpImg k 0)).chosen 255 ((opAt (cpImg k 0)).pointOf 255 0) = some 0 := by
  simp only [List.mem_cons, List.not_mem_nil, or_false] at h
  rcases h with rfl | rfl <;>
    exact ⟨⟨by decide, by decide, tidy_running _ _ _ (by decide +kernel), by decide +kernel⟩, by unfold State.opReady; decide +kernel,
      go_of (by decide +kernel), by decide +kernel⟩

/-- O53: a sparse operation that probes. -/
theorem witness_probe : (opAt (opImg 0x12 0)).opNext 255 0 0x12 ∧ (opAt (opImg 0x12 0)).opReady 255 0 set9
    ∧ (opAt (opImg 0x12 0)).verdict 255 0 = .probe (goOf ((opAt (opImg 0x12 0)).verdict 255 0)) :=
  ⟨⟨by decide, by decide, tidy_running _ _ _ (by decide +kernel), by decide +kernel⟩, by unfold State.opReady; decide +kernel,
    probe_of (by decide +kernel)⟩

/-- O53: WAITCNT for a count that has come and one that has not. -/
theorem witness_waitcnt (n : Nat) (h : n ∈ [0, 1]) : (opAt (cpImg 0x24 (2 ^ 88 * n))).opNext 255 0 0x24 ∧ (opAt (cpImg 0x24 (2 ^ 88 * n))).opReady 255 0 set9
    ∧ (opAt (cpImg 0x24 (2 ^ 88 * n))).governed 255 = false
    ∧ (opAt (cpImg 0x24 (2 ^ 88 * n))).verdict 255 0 = (if n = 0 then .retire else .wait 7) := by
  simp only [List.mem_cons, List.not_mem_nil, or_false] at h
  rcases h with rfl | rfl <;>
    exact ⟨⟨by decide, by decide, tidy_running _ _ _ (by decide +kernel), by decide +kernel⟩, by unfold State.opReady; decide +kernel,
      by decide +kernel, by decide +kernel⟩

/-- O53: faults: a shape beyond its bound, a macro that is off, no macro, a tile beyond the accumulators. -/
def boundLoop : List Byte := padTo 128 ([0, 1] ++ List.replicate 14 0 ++ leBytes 2 (2 ^ 6 + 2 ^ 8))
def shapeImg : List Byte := opsPlan [1 + 2 ^ 31 + 2 ^ 84] [boundLoop] [dIn, dOut 2048]
def offMac (s : State) : State := s.setF (macBase 4095) F.MAC_CFG_EN 0
/-- The last macro off; no macro named; a tile beyond the accumulators. -/
def offState : State := offMac (opAt (opImg 1 0))
def noMacro : State := opAt (opsPlan [1] [] [dIn, dOut 2048])
def farTile : State := opAt (opImg 1 (2 ^ 40 * 15 + 2 ^ 35 * 31))
theorem witness_op_faults :
    (∀ e ∈ [(opAt shapeImg, 0x17), (offState, 0x14), (noMacro, 0x11), (farTile, 0x12)],
      (e.1.ctx 255 0).running = true ∧ opKind (ctxOp e.1.img 255 0 (e.1.ctx 255 0).opn) = 1 ∧ e.1.verdict 255 0 = .fault e.2 0 0
        ∧ e.1.chosen 255 (e.1.pointOf 255 0) = some 0 ∧ e.1.isF (blkBase 255) F.BLK_FAULT_STAT_VALID = false)
    ∧ (opAt shapeImg).setOf (((opAt shapeImg).ctx 255 0).taken - 1) = some set9
    ∧ (opAt shapeImg).slotRec 9 = some ⟨9, 1, 0, 0, 0, 0, 0, 0, 0, 0, 0, 0, 0⟩ ∧ (∀ x ∈ (opAt shapeImg).mail.taken, x.op ≠ 0x0702) := by decide +kernel

/-- O53: the first three checks. -/
theorem witness_op_checks : (∀ s ∈ [offState, noMacro, farTile], s.opReady 255 0 set9)
    ∧ offState.checkCfg 255 (ctxOp offState.img 255 0 (offState.ctx 255 0).opn) = false
    ∧ noMacro.checkCfg 255 (ctxOp noMacro.img 255 0 (noMacro.ctx 255 0).opn) = true
    ∧ noMacro.checkTile 255 (ctxOp noMacro.img 255 0 (noMacro.ctx 255 0).opn) = false
    ∧ farTile.checkCfg 255 (ctxOp farTile.img 255 0 (farTile.ctx 255 0).opn) = true
    ∧ farTile.checkTile 255 (ctxOp farTile.img 255 0 (farTile.ctx 255 0).opn) = true
    ∧ farTile.checkAcc 255 (ctxOp farTile.img 255 0 (farTile.ctx 255 0).opn) = false := by
  unfold State.opReady
  decide +kernel

/-- O53: a block that the governor holds: its region's budget was reached in cycle 5. -/
def heldGov (s : State) : State := s.setRx 15 { RegionX.init with hit := some 5 }
theorem witness_governed : (heldGov (opAt (opImg 1 0))).governed 255 = true := by decide +kernel

/-- What an issue of the last block stores there has a bank, where its results are dense and their descriptors lie in the banks. -/
theorem banksAll_of (s : State) (i : Issue)
    (h : ∀ sl ∈ [1, 3, 4, 5], inBanks (s.iDesc 255 i sl) = true ∧ inBanks (cpDesc i.word (s.iDesc 255 i sl)) = true
      ∧ inBanks (descAt s.img 255 (s.iDesc 255 i sl).side) = true ∧ inBanks (descAt s.img 255 (s.iDesc 255 i sl).sstream) = true
      ∧ s.binding 255 (opDesc i.word sl) = none)
    (hb : opKind i.word = 0x13 → ∀ x < 64 * entLen (s.sparseEnt 255 i 4), 
      (bodyKey s.img s.ownCoord 255 (s.iDesc 255 i 4) (entOff (s.sparseEnt 255 i 4)) x).all (fun k => decide (spdOff (lineOf k) < 0x60000)) = true) : s.banksAll 255 i := by
  refine ⟨fun sl hs => ?_, fun hk x hx k h1 _ => ?_⟩
  · obtain ⟨h1, h2, h3, h4, h5⟩ := h sl hs
    exact ⟨banked_of s 255 _ h1, banked_of s 255 _ h2, banked_of s 255 _ h3, banked_of s 255 _ h4, fun k hk => by simp [h5] at hk⟩
  · have h2 := hb hk x hx
    rw [h1] at h2
    exact of_decide_eq_true h2

/-- A SPACK whose destination's directory entry names one line, its mask absent. -/
def spackImg : List Byte := opsPlan [0x13 + 2 ^ 31 + 2 ^ 44 + 2 ^ 84 + 2 ^ 120 * 2 + 2 ^ 132 * 3] []
  [dIn, dOut 64, descB 0 false 0 0x40000 [8, 1, 1, 1, 1, 1] [64, 8, 0, 0], descB 0 false 0 0x50000 [8, 1, 1, 1, 1, 1] [64, 8, 0, 0]]
def allIn (img : List Byte) (i : Issue) : Issue := { i with got := (amid img i).wants 255 i false }
/-- The issue of a staged operation of a kind, with its image. -/
def loneImg (k : Nat) : List Byte := if k = 0x13 then spackImg else opsPlan [k + 2 ^ 31 + 2 ^ 44 + 2 ^ 84] [] [dIn, dOut 64]
def loneIssue (k : Nat) : Issue :=
  if k = 0x13 then allIn spackImg (allIn spackImg { drafted spackImg with staged := [(0x80000 * 255 + 0x40000, 4), (0x80000 * 255 + 0x40004, 1)] })
  else ripe (loneImg k) id
def loneState (k : Nat) : State := amid (loneImg k) (loneIssue k)

/-- O54: a lone operation of each kind has every line of its inputs. -/
theorem witness_lone (k : Nat) (h : k ∈ [0x03, 0x06, 0x07, 0x12, 0x13]) : (loneState k).lone 255 (loneIssue k)
    ∧ (loneState k).answerFor 255 (loneIssue k).id 0 = none
    ∧ opKind (loneIssue k).word = k ∧ (loneState k).tileGood 255 (loneIssue k)
    ∧ (loneIssue k).rows ≤ 512 ∧ (loneState k).flips.mac = [] ∧ (loneState k).flips.hard = [] ∧ (loneState k).flips.spd = []
    ∧ (loneState k).portsTaken 255 = false := by
  simp only [List.mem_cons, List.not_mem_nil, or_false] at h
  rcases h with rfl | rfl | rfl | rfl | rfl <;> unfold State.lone State.tileGood <;> decide +kernel
/-- O54: a resident write that waits for a scrub step that is due. -/
def scrubWaits : State := (loneState 0x03).setMx 4080 { MacroX.init with scrubReq := 1 }
theorem witness_lone_waits : scrubWaits.lone 255 (loneIssue 0x03) ∧ opOnRows (loneIssue 0x03).word = true ∧ scrubWaits.portsTaken 255 = true
    ∧ scrubWaits.answerFor 255 (loneIssue 0x03).id 0 = none := by
  unfold State.lone; decide +kernel
theorem witness_lone_banks (k : Nat) (h : k ∈ [0x03, 0x06, 0x07, 0x12, 0x13]) : (loneState k).banksAll 255 (loneIssue k) := by
  simp only [List.mem_cons, List.not_mem_nil, or_false] at h
  rcases h with rfl | rfl | rfl | rfl | rfl <;> apply banksAll_of
  all_goals decide +kernel

/-- The copy of 32 bytes of the last block's scratchpad to another line pair of it, and as an ATOMIC. -/
def cpIssue (k x : Nat) : Issue := ripe (cpImg k x) id
/-- A copy of 64 bytes to one whole line. -/
def cp64 : List Byte :=
  opsPlan [0x20 + 2 ^ 28] [] [descB 0 false 0 0x10000 [64, 1, 1, 1, 1, 1] [64, 64, 0, 0], descB 0 false 0 0x20000 [64, 1, 1, 1, 1, 1] [64, 64, 0, 0]]
def lineOut : Nat := 0x80000 * 255 + 0x20000

/-- O54: a copy whose output fills a line, an ATOMIC of one line, the record of a row. -/
theorem witness_copies :
    (let i := ripe cp64 id; let s := amid cp64 i; let d := cpDesc i.word (s.iDesc 255 i 1);
      opKind i.word ∈ [0x20, 0x21, 0x22] ∧ s.binding 255 (opDesc i.word 1) = none ∧ s.flips.spd = [] ∧ isSpd lineOut = true ∧ spdBlk lineOut = 255
        ∧ spdOff lineOut < 0x60000 ∧ s.retHeld 255 (spdOff lineOut) = false
        ∧ lineOut ∈ (s.copyCells 255 i d).map (fun c => lineOf c.1) ∧ fullLine (runData (s.copyCells 255 i d) lineOut 1) = true)
    ∧ (let i := cpIssue 0x23 0; let s := amid (cpImg 0x23 0) i;
        opKind i.word = 0x23 ∧ i.uses = [] ∧ (∀ es ∈ s.atomGroups 255 i, ∀ e ∈ es, ∀ c ∈ elemWrite s.img s.ownCoord 255 (s.iDesc 255 i 1) e.1 e.2,
          isSpd (lineOf c.1) = true ∧ s.pathOpen 255 (spdBlk (lineOf c.1)) = true) ∧ s.atomGroups 255 i ≠ [])
    ∧ (let i := loneIssue 7; let s := loneState 7; let d := s.iDesc 255 i 1;
        let v := rowFinish (opRfMode i.word) (s.finStat 255 i 0) (s.epsOf 255 (s.iDesc 255 i 0) i.staged);
        let cs := s.recCells 255 d (posAdd (i.at 1) d.rowdim 0) (leBytes 4 v.1.toNat ++ leBytes 4 v.2.toNat);
        i.rows = 1 ∧ i.uses = [] ∧ s.binding 255 (opDesc i.word 1) = none ∧ dedup (cs.map (fun c => lineOf c.1)) = [lineOut]
          ∧ s.retHeld 255 (spdOff lineOut) = false ∧ fullLine (runData cs lineOut 1) = false) := by
  decide +kernel
theorem witness_lone_copy (k : Nat) (h : k ∈ [0x20, 0x23]) : (amid (cpImg k 0) (cpIssue k 0)).lone 255 (cpIssue k 0)
    ∧ (amid (cpImg k 0) (cpIssue k 0)).answerFor 255 (cpIssue k 0).id 0 = none ∧ opKind (cpIssue k 0).word = k := by
  simp only [List.mem_cons, List.not_mem_nil, or_false] at h
  rcases h with rfl | rfl <;> unfold State.lone <;> decide +kernel

/-- O55: planes of inputs at the ends of their range that saturate nothing. -/
theorem witness_planes : (1 ≤ 8) ∧ (∀ x ∈ [(-128 : Int), 127], -(2 ^ (8 - 1) : Int) ≤ x ∧ x < 2 ^ (8 - 1))
    ∧ (applyPlanes false true 8 0 ((List.range 8).map (fun p => (p, fwdPartial 0 [[1], [2]] (planeOf 8 p [-128, 127]) 0)))).2 = 0
    ∧ (applyPlanes false true 8 0 ((List.range 8).map (fun p => (p, trnPartial 0 [1, 2] (planeOf 8 p [-128, 127]))))).2 = 0
    ∧ accMin false ≤ 0 ∧ 0 ≤ accMax false := by decide +kernel

/-- A row that may issue, forward or transposed, in a window in which block 255 has issued none. -/
def rowIssue (t : Bool) : Issue := ripe (opImg (if t then 2 else 1) 0) id
def rowState (t : Bool) : State := amid (opImg (if t then 2 else 1) 0) (rowIssue t)
/-- The same with a 1 in the row's inputs. -/
def liveIssue (t : Bool) : Issue := { rowIssue t with staged := [(0x80000 * 255 + 0x10000, 1)] }
def liveState (t : Bool) : State := amid (opImg (if t then 2 else 1) 0) (liveIssue t)
/-- The ramp of region 15 has admitted as many resumptions as it may in cycle 1. -/
def ramped (s : State) : State := s.setRx 15 { RegionX.init with resumed := List.replicate 16 1 }
/-- O56. -/
theorem witness_rows (t : Bool) : (let i := rowIssue t; let s := rowState t;
    s.issueOf 255 i.id = some i ∧ s.compOn 255 = true ∧ onPorts i t = true ∧ i.faulted = false ∧ i.done = false ∧ i.rowsDone < i.rows ∧ i.rows ≤ opRows i.word
      ∧ s.rowStaged 255 i i.rowsDone = true ∧ s.scalesIn 255 i = true ∧ s.govHeld 255 1 = false ∧ s.planeBefore 255 1 = true ∧ s.portsFree 255 (opMacros i.word) i.id = true
      ∧ s.rowLive 255 i i.rowsDone = false ∧ (s.escapesOf 255 i i.rowsDone (s.inCodes 255 i i.rowsDone)).2 = false ∧ s.checkAcc 255 i.word = true) := by
  cases t <;> decide +kernel
theorem witness_live_rows (t : Bool) : (let i := liveIssue t; let s := liveState t;
    s.issueOf 255 i.id = some i ∧ s.rowLive 255 i i.rowsDone = true ∧ s.rampFull 255 1 = false ∧ (ramped s).rampFull 255 1 = true
      ∧ (ramped s).issueOf 255 i.id = some i ∧ (ramped s).rowLive 255 i i.rowsDone = true ∧ onPorts i t = true) := by
  cases t <;> decide +kernel
theorem witness_corrections (t : Bool) : (let i := { rowIssue t with corrPend := [(0, 5, 7)], rowsDone := 1, corrRow := 511 }; let s := amid (opImg (if t then 2 else 1) 0) i;
    s.issueOf 255 i.id = some i ∧ s.compOn 255 = true ∧ i.faulted = false ∧ i.path ≠ 1 ∧ s.portsDue 255 = false ∧ s.maskRestores 255 (opMacros i.word) i.id = false
      ∧ opTrans i.word = t ∧ i.corrPend = (0, 5, 7) :: [] ∧ i.rowsDone = i.rows ∧ i.corrRow < 512 ∧ s.flips.mac = [] ∧ s.flips.hard = []) := by
  cases t <;> decide +kernel
/-- O56: rows that wait: the inputs have not arrived, the budget of the window was reached, a correction read is due, the window is over. -/
theorem witness_row_waits : (let i := drafted (opImg 1 0); let s := amid (opImg 1 0) i;
      s.issueOf 255 i.id = some i ∧ s.rowStaged 255 i i.rowsDone = false)
    ∧ (heldGov (rowState false)).govHeld 255 6 = true ∧ (rowState false).govHeld 255 256 = true
    ∧ (heldGov (rowState false)).issueOf 255 (rowIssue false).id = some (rowIssue false)
    ∧ (let i := { rowIssue false with corrPend := [(0, 5, 7)] }; let s := amid (opImg 1 0) i;
        s.issueOf 255 i.id = some i ∧ s.portsFree 255 (opMacros i.word) i.id = false) := by decide +kernel

/-- O56: a row whose scale record has not arrived: its input's scales come from a stream. -/
def streamImg : List Byte := opsPlan [1 + 2 ^ 31 + 2 ^ 44 + 2 ^ 84] []
  [setAt (setAt dIn 3 0x20) 22 2, dOut 2048, descB 0 false 0 0x40000 [64, 8, 1, 1, 1, 1] [64, 64, 0, 0]]
theorem witness_scale_waits : (let i := drafted streamImg; let s := amid streamImg i; s.issueOf 255 i.id = some i ∧ s.scalesIn 255 i = false) := by
  decide +kernel

/-- A row that may run its epilogue, of a tile and of a pool group of two rows. -/
def epiIssue (x : Nat) : Issue := ripe (opImg 1 x) (fun i => { i with rowsDone := 1 })
def poolBits : Nat := 2 ^ 35 * 3 + 2 ^ 59
/-- O57. -/
theorem witness_epilogues :
    (∀ x ∈ [0, poolBits], let i := epiIssue x; let s := amid (opImg 1 x) i;
      s.issueOf 255 i.id = some i ∧ s.compOn 255 = true ∧ i.faulted = false ∧ i.done = false ∧ s.epiReady 255 i i.epiDone = true ∧ s.flips.spd = [])
    ∧ (0 + 1) % opPoolRows (epiIssue poolBits).word ≠ 0 ∧ (epiIssue poolBits).epiDone + 1 ≠ (epiIssue poolBits).rows
    ∧ (let i := drafted (opImg 1 0); let s := amid (opImg 1 0) i; s.issueOf 255 i.id = some i ∧ s.epiReady 255 i i.epiDone = false)
    ∧ (let i := { epiIssue 0 with done := true }; let s := amid (opImg 1 0) i;
        s.issueOf 255 i.id = some i ∧ s.compOn 255 = true ∧ s.mayRetire 255 i = true ∧ i.faulted = false)
    ∧ (drafted (opImg 1 0)).done = false ∧ (drafted (opImg 1 0)).faulted = false := by decide +kernel
theorem witness_epilogue_banks : (amid (opImg 1 0) (epiIssue 0)).banksAll 255 (epiIssue 0) := by
  apply banksAll_of <;> decide +kernel
/-- O57: an issue with a store that a restore of the window holds. -/
theorem witness_held_store : (let i := { epiIssue 0 with done := true };
    let s := (amid (opImg 1 0) i).setBx 255 { (amid (opImg 1 0) i).bx 255 with heldW := [⟨i.id, 0x60000, true, []⟩] };
    s.issueOf 255 i.id = some i ∧ ∃ h ∈ (s.bx 255).heldW, h.iss = i.id) := by decide +kernel
/-- What the row of O57's third clause stores. -/
def epiState : State := amid (opImg 1 0) (epiIssue 0)
def epiVals : List OutVal :=
  (((epiState.epiRow 255 (epiIssue 0) 0 0).1.map (fun o => OutVal.mk o.1
    (posAdd (posAdd ((epiIssue 0).at 1) (epiState.iDesc 255 (epiIssue 0) 1).rowdim 0) (epiState.iDesc 255 (epiIssue 0) 1).outdim o.1.idx) o.2.1 o.2.2))).filter
      (fun x => inBounds (epiState.iDesc 255 (epiIssue 0) 1) x.pos)
theorem witness_epilogue_line : (let i := epiIssue 0; let s := epiState; let d := s.iDesc 255 i 1;
    let j := outScale d (BitVec.ofNat 32 (i.clip.getD 1 0)) epiVals;
    let cs := (encodeRow (s.drawAt i d) d (opEscMargin i.word) [] (f32of16 j) epiVals).elems.flatMap (fun e => elemWrite s.img s.ownCoord 255 d e.1 e.2);
    opPoolRows i.word = 1 ∧ opPool i.word = 0 ∧ (s.bx 255).gather = [] ∧ s.binding 255 (opDesc i.word 1) = none ∧ d.outdim = 0 ∧ takesSide d = false ∧ d.streams = false
      ∧ opStats i.word = false ∧ d.fmt ≠ 10 ∧ isSpd (lineOut + 1984) = true ∧ spdBlk (lineOut + 1984) = 255 ∧ lineOut + 1984 ∈ cs.map (fun c => lineOf c.1)
      ∧ spdOff (lineOut + 1984) < 0x60000 ∧ s.retHeld 255 (spdOff (lineOut + 1984)) = false
      ∧ fullLine (runData cs (lineOut + 1984) 1) = true) := by decide +kernel
/-- O57: a tile stored with OUTDIM 1 and ROWDIM 0, the first 8 outputs of the last macro in bounds. -/
def turnImg : List Byte :=
  opsPlan [1 + 2 ^ 31 + 2 ^ 44 + 2 ^ 84] [] [dIn, setAt (descB 0 false 0 0x20000 [1, 1928, 1, 1, 1, 1] [64, 64, 0, 0]) 24 1]
def turnIssue : Issue := ripe turnImg (fun i => { i with rowsDone := 1 })
def turnState : State := amid turnImg turnIssue
def turnVals : List OutVal :=
  (((turnState.epiRow 255 turnIssue 0 0).1.map (fun o => OutVal.mk o.1
    (posAdd (posAdd (turnIssue.at 1) (turnState.iDesc 255 turnIssue 1).rowdim 0) (turnState.iDesc 255 turnIssue 1).outdim o.1.idx) o.2.1 o.2.2))).filter
      (fun x => inBounds (turnState.iDesc 255 turnIssue 1) x.pos)
theorem witness_epilogue_rows : (let i := turnIssue; let s := turnState; let d := s.iDesc 255 i 1;
    let j := outScale d (BitVec.ofNat 32 (i.clip.getD 1 0)) turnVals;
    let cs := (encodeRow (s.drawAt i d) d (opEscMargin i.word) [] (f32of16 j) turnVals).elems.flatMap (fun e => elemWrite s.img s.ownCoord 255 d e.1 e.2);
    s.issueOf 255 i.id = some i ∧ s.compOn 255 = true ∧ i.faulted = false ∧ i.done = false ∧ s.epiReady 255 i i.epiDone = true
      ∧ opPoolRows i.word = 1 ∧ opPool i.word = 0 ∧ (s.bx 255).gather = [] ∧ i.uses = [] ∧ s.binding 255 (opDesc i.word 1) = none ∧ d.outdim ≠ 0
      ∧ d.streams = false ∧ opStats i.word = false ∧ d.fmt ≠ 10 ∧ (sortNat (cs.map (fun c => lineOf c.1))).length = 8
      ∧ ∀ l ∈ sortNat (cs.map (fun c => lineOf c.1)), isSpd l = true ∧ spdBlk l = 255 ∧ spdOff l < 0x60000 ∧ s.retHeld 255 (spdOff l) = false) := by decide +kernel
theorem witness_turned_scale : turnState.inScale 255 turnIssue 0 = (0, turnState) := inScale_plain _ _ _ _ _ (by decide +kernel) (by decide +kernel)
theorem witness_epilogue_scale : epiState.inScale 255 (epiIssue 0) 0 = (0, epiState) := inScale_plain _ _ _ _ _ (by decide +kernel) (by decide +kernel)

/-- An issue that waits for a line of its inputs, and a message of the mesh for the last block. -/
def needy : Issue := { drafted (opImg 1 0) with need := [lineOut], acks := 3 }
def answered (b : Body) : State := { amid (opImg 1 0) needy with net := [⟨1027, 255, 256, b⟩] }
def serving (n : Nat) : State := { full with cour := { Cour.init with serving := [⟨5, 3, ⟨0, 9, 3, 3, 0, 0, 2, 0, 0, 0, 0, []⟩, n, [], [], 0, false⟩] } }

/-- O58: a line with and without POISON, an acknowledgement with and without, and what answers a port. -/
theorem witness_read_data :
    (∀ e ∈ [0, 0x86], let m : Msg := ⟨1027, 255, 256, .readRsp lineOut (List.replicate 64 1) e needy.id⟩; let s := answered m.body;
      s.compOn 255 = true ∧ s.answerFor 255 needy.id lineOut = some (0, m) ∧ s.issueOf 255 needy.id = some needy ∧ needy.faulted = false
        ∧ (s.ctx 255 needy.ctx).st ≠ .faulted ∧ s.isF (blkBase 255) F.BLK_FAULT_STAT_VALID = false)
    ∧ (∀ e ∈ [0, 0x86], let m : Msg := ⟨1027, 255, 256, .ack e needy.id⟩; let s := answered m.body;
        s.msgAt 0 = some m ∧ m.dst = 255 ∧ s.issueOf 255 needy.id = some needy ∧ (s.ctx 255 needy.ctx).st ≠ .faulted
          ∧ s.isF (blkBase 255) F.BLK_FAULT_STAT_VALID = false)
    ∧ (∀ b ∈ [Body.ack 0 5, Body.readRsp lineOut (List.replicate 64 1) 0 5], let m : Msg := ⟨1027, 271, 256, b⟩; let s : State := { full with net := [m] };
        s.msgAt 0 = some m ∧ 256 ≤ m.dst ∧ m.dst < 272)
    ∧ ((serving 2).cour.serving.find? (fun x => decide (x.tok = 5))).map Serv.left = some 2 := by decide +kernel

/-- A sparse operation with a prediction under way; Cirrus of the last block calibrated, with a predictor of n inputs in descriptor 2, in a format. -/
def predBits : Nat := 2 ^ 168
def predImg (fmt n : Nat) : List Byte := opsPlan [0x10 + 2 ^ 31 + 2 ^ 44 + 2 ^ 84 + predBits] []
  [dIn, dOut 2048, setAt (setAt (descB fmt false 0 0x30000 [n, 2, 1, 1, 1, 1] [64, 64, 0, 0]) 20 0xFF) 21 0x0F]
def cirOn (s : State) (rows : Nat) : State :=
  (((s.setF (blkBase 255) F.CIR_CFG_EN 1).setF (blkBase 255) F.CIR_CFG_ROWS rows).setF (blkBase 255) F.CIR_STAT_CAL 1).setF (blkBase 255) F.CIR_PRED_DESC_DESC 2
def predicting (fmt n : Nat) (code : Byte) : Issue :=
  let i := { drafted (predImg fmt n) with path := 1 }
  { i with got := (cirOn (amid (predImg fmt n) i) n).predLines 255 i 0, staged := ((List.range n).map (fun k => (0x80000 * 255 + 0x30000 + k, code))) }

/-- O59: a group without Cirrus and one with it. -/
theorem witness_predictions :
    (let i := predicting 5 3 0; let s := amid (predImg 5 3) i; s.issueOf 255 i.id = some i ∧ s.compOn 255 = true ∧ opPred i.word = true ∧ i.faulted = false
      ∧ i.done = false ∧ i.eng.predOk = false ∧ s.predStaged 255 i i.eng.grp = true ∧ s.allActive 255 = true ∧ s.arrayHead 255 = some i.id)
    ∧ (let i := predicting 6 3 0; let s := cirOn (amid (predImg 6 3) i) 3; s.issueOf 255 i.id = some i ∧ s.predStaged 255 i i.eng.grp = true
        ∧ s.allActive 255 = true ∧ s.arrayHead 255 = some i.id ∧ (s.predDesc 255).fmt ∉ [0, 1, 4, 5])
    ∧ (let i := predicting 5 3 0; let s := cirOn (amid (predImg 5 3) i) 3; s.issueOf 255 i.id = some i ∧ s.compOn 255 = true ∧ s.predStaged 255 i i.eng.grp = true
        ∧ s.allActive 255 = false ∧ s.arrayHead 255 = some i.id ∧ (∀ r ∈ s.predRows 255 i i.eng.grp, s.predMany 255 i r = false) ∧ s.predRows 255 i i.eng.grp ≠ [])
    ∧ (let s := (cirOn full 33).setF hznBase (F.HZN_CH_VAL_F.idx (0x10 * 15)) 0; s.cirTrusted 255 = true)
    ∧ (∃ l ∈ [[full.cirThr 255]], full.cirThr 255 ≤ l.getD 0 0) := by decide +kernel

/-- O6: 33 escapes in a row. -/
theorem witness_crowded : (let i := predicting 5 33 0x20; let s := cirOn (amid (predImg 5 33) i) 33;
    s.issueOf 255 i.id = some i ∧ s.compOn 255 = true ∧ opPred i.word = true ∧ i.faulted = false ∧ i.done = false ∧ i.eng.predOk = false
      ∧ s.predStaged 255 i i.eng.grp = true ∧ s.arrayHead 255 = some i.id ∧ 0 ∈ s.predRows 255 i i.eng.grp ∧ 32 < (s.predEscapes 255 i 0).length) := by decide +kernel

/-- A sparse operation on the engine. -/
def spImg : List Byte := opImg 0x10 0
def engineOf (f : Engine → Engine) : Issue := ripe spImg (fun i => { i with path := 1, eng := f i.eng })

/-- O60: a group to deal, a piece to emit, outputs to release, the last piece of an audited output, and what waits. -/
theorem witness_sparse_engine :
    (let i := engineOf id; let s := amid spImg i; s.issueOf 255 i.id = some i ∧ s.compOn 255 = true ∧ i.path = 1 ∧ i.faulted = false ∧ i.done = false
      ∧ s.engineHead 255 = some i.id ∧ i.eng.nextOut = 0 ∧ i.eng.lanes = [] ∧ i.eng.audits = [] ∧ 8 * i.eng.grp < i.rows ∧ s.dealReady 255 i i.eng = true
      ∧ (s.grpEscapes 255 i i.eng.grp).2.2 = false ∧ s.kOf 255 i ≠ 0)
    ∧ (let p : Piece := ⟨127, [(0, 3)], false⟩; let i := engineOf (fun e => { e with nextOut := 1, lanes := [p], pend := [(127, 1)] }); let s := amid spImg i;
        s.issueOf 255 i.id = some i ∧ i.eng.lanes[0]? = some p ∧ p.audit = false ∧ i.eng.nextRel ≠ accOuts i.word (opPrec s.img 255 i.word))
    ∧ (let i := engineOf (fun e => { e with nextOut := 1, pend := [(127, 1)] }); let s := amid spImg i;
        s.issueOf 255 i.id = some i ∧ i.eng.queue = [] ∧ 0 < relCount i.eng 128 ∧ i.eng.nextRel + relCount i.eng 128 ≠ 128
          ∧ accOuts i.word (opPrec s.img 255 i.word) = 128 ∧ i.rows ≤ opRows i.word ∧ s.sparseTile 255 i 4 = [])
    ∧ (let p : Piece := ⟨127, [(0, 3)], true⟩; let i := engineOf (fun e => { e with nextOut := 1, lanes := [p], pend := [(auditKey 127, 1)] }); let s := amid spImg i;
        s.issueOf 255 i.id = some i ∧ s.compOn 255 = true ∧ i.path = 1 ∧ i.faulted = false ∧ i.eng.lanes[0]? = some p ∧ p.audit = true
          ∧ SMap.get 0 i.eng.pend (auditKey p.out) = 1)
    ∧ (let i := ripe spImg id; let s := amid spImg i; s.issueOf 255 i.id = some i ∧ i.path ≠ 1)
    ∧ (let i := { engineOf id with done := true }; let s := amid spImg i; s.issueOf 255 i.id = some i) := by decide +kernel

end Sys2Proof.Tests
end

