-- ==== Sys2Proof/Tests/WitnessUnits.lean ====
section
/-! SUPPORT. Witnesses: concrete states and operands that meet the hypotheses of the statements about macros, HBM, routers and Courier, clause by
clause. -/

namespace Sys2Proof.Tests

open Sys2Proof Sys2Proof.Machine
set_option Elab.async false

/-- The device with every domain on and these bits of the macro rows flipped; the last macro makes no remaps of its own. -/
def flipped (l : List Nat) : State := { full.setF (macBase 4095) F.MAC_ECC_CTL_AUTO_REMAP 0 with flips := ⟨l, [], [], []⟩ }

/-- The same with what stands behind macro m. -/
def macroAt (m : Nat) (x : MacroX) : State := full.setMx m x

/-- Row r of macro m made dirty. -/
def dirtyRow (s : State) (m r : Nat) : State := s.setF (macBase m) (rowBitFld 0xA0 r) 1

/-- Two flipped columns of the last row, of which the second is of the cells themselves and stays, the row dirty or not. -/
def twice : State := flipped [1112 * (512 * 4095 + 511), 1112 * (512 * 4095 + 511) + 1]
def stuckTwice : State := { twice with flips := { twice.flips with hard := twice.flips.mac } }

/-- O14: the last row of the last macro with no, one and two flipped columns. -/
theorem witness_row_reads : full.logFlips 4095 511 = []
    ∧ (flipped [1112 * (512 * 4095 + 511) + 1095]).logFlips 4095 511 = [1095]
    ∧ (flipped [1112 * (512 * 4095 + 511) + 1095]).isF (macBase 4095) F.MAC_ECC_CTL_AUTO_REMAP = false
    ∧ (twice.rowCheck 4095 511).1.ue = true
    ∧ twice.rowDirty 4095 511 = false
    ∧ (((twice.rowCheck 4095 511).2.noteUe 4095 511).restoreRow 4095 511).logFlips 4095 511 = []
    ∧ (stuckTwice.rowCheck 4095 511).1.ue = true ∧ stuckTwice.rowDirty 4095 511 = false
    ∧ ((((stuckTwice.rowCheck 4095 511).2.noteUe 4095 511).restoreRow 4095 511).rowCheck 4095 511).1.ue = true
    ∧ ((dirtyRow twice 4095 511).rowCheck 4095 511).1.ue = true
    ∧ (dirtyRow twice 4095 511).rowDirty 4095 511 = true := by decide +kernel

/-- O14: scrub steps and fill steps. -/
theorem witness_scrub_fill : (macroAt 4095 { MacroX.init with scrubReq := 3 }).compOn 255 = true
    ∧ (∀ m ∈ blkMacros 255, (macroAt 4095 { MacroX.init with scrubReq := 3 }).logFlips m
        ((macroAt 4095 { MacroX.init with scrubReq := 3 }).getF (macBase m) F.MAC_SCRUB_POS_NEXT_ROW) = [])
    ∧ (macroAt 4095 { MacroX.init with scrubReq := 3 }).scrubNextUp 255 = true ∧ full.scrubNextUp 255 = false
    ∧ (∀ r ∈ [0, 510, 511], let s := macroAt 4095 { MacroX.init with fill := [(15, r)] };
        s.compOn (4095 / 16) = true ∧ (s.mx 4095).fill = [(15, r)] ∧ (∀ k ∈ blkMacros (4095 / 16), k ≠ 4095 → (s.mx k).fill = [])
          ∧ s.stepFree 4095 r true (s.mx 4095).fillAge = true ∧ s.logFlips 4095 r = []
          ∧ s.fillNextUp (4095 / 16) = true) := by decide +kernel

/-- A valid entry of the remap table of macro 4095, fused or not. -/
def remapped (v : Nat) : State := full.setReg (macBase 4095 + 0x40 + 60) (BitVec.ofNat 32 v)

/-- O15. -/
theorem witness_remap : full.compOn (4095 / 16) = true ∧ (remapped 0x8005).compOn (4095 / 16) = true ∧ ((remapped 0x8005).remap 4095 15).testBit 17 = false
    ∧ (1095 : Nat).testBit 15 = false ∧ 1095 % 2048 < 1096 ∧ (full.remap 4095 15).testBit 17 = false ∧ (0x8447 : Nat).testBit 15 = true
    ∧ 0x8447 % 2048 < 1096 ∧ (full.remap 4095 15).testBit 15 = false
    ∧ (∀ j < 16, j ≠ 15 → ¬((full.remap 4095 j).testBit 15 = true ∧ full.remap 4095 j % 2048 = 0x8447 % 2048))
    ∧ ((remapped 0x38005).remap 4095 15).testBit 17 = true
    ∧ 1096 ≤ 0x8448 % 2048 ∧ (remapped 0x8005).remap 4095 15 % 2048 = 0x8005 % 2048 ∧ ((remapped 0x8005).remap 4095 15).testBit 15 = true
    ∧ (0x8005 : Nat).testBit 15 = true ∧ 0x8005 % 2048 < 1096 := by decide +kernel
theorem witness_macro_registers : full.macroBusy 4095 = false ∧ (macroAt 4095 { MacroX.init with rb := some 0 }).compOn (4095 / 16) = true
    ∧ (macroAt 4095 { MacroX.init with rb := some 0 }).macroBusy 4095 = true ∧ (0x101FF : Nat).testBit 16 = true
    ∧ (macroAt 4095 { MacroX.init with rb := some 0 }).rbNext 255 = some (0, 4095)
    ∧ (macroAt 4095 { MacroX.init with rb := some 0 }).logFlips 4095
        ((macroAt 4095 { MacroX.init with rb := some 0 }).getF (macBase 4095) F.MAC_RB_CTL_ROW) = [] := by decide +kernel

/-- O16. -/
theorem witness_shadow_port : (dirtyRow full 4095 511).compOn (4095 / 16) = true ∧ ((dirtyRow full 4095 511).mx 4095).shop = none
    ∧ (dirtyRow full 4095 511).dirtyRows 4095 ≠ [] ∧ (dirtyRow full 4095 511).anyDirty 4095 = true
    ∧ (let s := macroAt 4095 { MacroX.init with shop := some ⟨false, [510, 511], 0⟩ };
        s.compOn (4095 / 16) = true ∧ (s.mx 4095).shop = some ⟨false, 510 :: 511 :: [], 0⟩ ∧ s.stepFree 4095 510 false 0 = true ∧ s.logFlips 4095 510 = []
          ∧ s.syncNextUp (4095 / 16) = true)
    ∧ (let s := macroAt 4095 { MacroX.init with shop := some ⟨true, [], 0⟩ };
        s.compOn (4095 / 16) = true ∧ (s.mx 4095).shop = some ⟨true, [], 0⟩
          ∧ s.rowHeld (4095 / 16) (4095 % 16) 0 512 true 0 = false ∧ s.rbHeld 4095 0 512 0 = false ∧ (s.mx 4095).scrubReq = 0 ∧ (s.mx 4095).fill = []
          ∧ s.takenOp 0x0503 = none ∧ s.takenOp 0x0406 = none
          ∧ s.power.wake = 0)
    ∧ (let s := macroAt 4095 { MacroX.init with shop := some ⟨true, [], 0⟩, scrubReq := 1, scrubAge := 1, fill := [(3, 0)], fillAge := 1 };
        (s.mx 4095).shop = some ⟨true, [], 0⟩ ∧ s.rowHeld (4095 / 16) (4095 % 16) 0 512 true 0 = false ∧ s.rbHeld 4095 0 512 0 = false
          ∧ 0 ≤ (s.mx 4095).scrubAge ∧ 0 ≤ (s.mx 4095).fillAge ∧ (s.mx 4095).fill ≠ []) := by decide +kernel

/-- A message in flight; a request in the queue of the last pseudo-channel. -/
def withMsg (m : Msg) : State := { full with net := [m] }
def withReq (s : State) (r : HbmReq) : State := { s with hbmQ := [(63, [r])] }
/-- A line whose bits are all written. -/
def whole64 : List (Nat × Byte × Byte) := wholeLine (List.replicate 64 7)
/-- The last line of HBM. -/
def lastLine : Nat := hbmTop - 64
/-- A protection window from the start of HBM that lets nobody in. -/
def guarded : State := full.setF (hbmBase 0) F.HBM_PROT_BASE_VALID 1
/-- A read by block 3. -/
def readOf (l n : Nat) : HbmReq := ⟨3, l, n, 0, [], 0, 9⟩

/-- O17: a read of the last line and of the last granule, beyond the end, and of a line in a protection window. -/
theorem witness_hbm_reads : (withMsg ⟨3, 1024 + 63, 256, .read lastLine 1 9⟩).msgAt 0 = some ⟨3, 1024 + 63, 256, .read lastLine 1 9⟩
    ∧ (withMsg ⟨3, 1024 + 63, 256, .read lastLine 1 9⟩).pcOn 63 = true
    ∧ (⟨3, 1024 + 63, 256, .read lastLine 1 9⟩ : Msg).hbmReq = some (readOf lastLine 1)
    ∧ ((withMsg ⟨3, 1024 + 63, 256, .read lastLine 1 9⟩).pcQueue 63).length < 704
    ∧ (∀ n ∈ [1, 4], let r := readOf (hbmTop - 64 * n) n;
        (withReq full r).reqAt 63 0 = some r ∧ (withReq full r).pcOn 63 = true ∧ (withReq full r).pathOpen (1024 + 63) r.src = true
          ∧ (∀ i < r.lines, (withReq full r).lineGood (r.line + 64 * i) r.src false = true) ∧ 0 < r.lines)
    ∧ (let r := readOf hbmTop 1; (withReq full r).reqAt 63 0 = some r ∧ (withReq full r).pathOpen (1024 + 63) r.src = true ∧ hbmTop ≤ r.line)
    ∧ (let r := readOf 0 1; (withReq guarded r).reqAt 63 0 = some r ∧ (withReq guarded r).pcOn 63 = true
        ∧ (withReq guarded r).pathOpen (1024 + 63) r.src = true ∧ r.line < hbmTop ∧ (withReq guarded r).hbmAllowed r.line r.src false = false) := by
  decide +kernel

/-- O18. -/
theorem witness_hbm_writes :
    (∀ e ∈ [(1, whole64), (2, [(5, 1, 255)]), (3, [(0, 1, 255), (1, 0, 255), (2, 0, 255), (3, 0, 255)])], ∀ src ∈ [272, 3],
      let r : HbmReq := ⟨src, lastLine, 1, e.1, e.2, 0, 9⟩;
      (withReq full r).reqAt 63 0 = some r ∧ (withReq full r).pcOn 63 = true ∧ r.line < hbmTop ∧ (withReq full r).hbmAllowed r.line r.src true = true
        ∧ (withReq full r).lineGood lastLine r.src true = true ∧ (withReq full r).pathOpen (1024 + 63) r.src = true
        ∧ (∀ t < 64, (withReq full r).collValid t = false) ∧ (withReq full r).collDue = none) := by decide +kernel

/-- O19. -/
theorem witness_hbm_upkeep :
    (∀ fl ∈ [[], [72 * (hbmAddr 63 0 / 8 + 7)]], let s : State := { withReq full (readOf 0 1) with flips := ⟨[], [], [], fl⟩ };
      s.pcOn 63 = true ∧ s.isF (hbmBase (63 / 32)) F.HBM_CTL_SCRUB_EN = true ∧ hbmAddr 63 0 = hbmAddr 63 (64 * SMap.get 0 s.hbmPos 63)
        ∧ (s.pcQueue 63).length < 704 ∧ (∀ r ∈ s.pcQueue 63, r.kind ≠ 4 ∧ r.meets ⟨0, hbmAddr 63 0, 1, 4, [], 0, 0⟩ = false)
        ∧ (∀ i < 7, flipsIn s.flips.hbm (hbmAddr 63 0 / 8 + i) = 0) ∧ flipsIn s.flips.hbm (hbmAddr 63 0 / 8 + 7) = fl.length)
    ∧ full.pdOn (36 + 1) = true ∧ full.pdOn 3 = true
    ∧ SMap.get 0 full.mesh.tries ((16 * 15 + 15) * 8 + 4) ≠ 2
    ∧ SMap.get 0 ({ full with mesh := ⟨[], [((16 * 15 + 15) * 8 + 4, 2)], []⟩ } : State).mesh.tries ((16 * 15 + 15) * 8 + 4) = 2 := by decide +kernel

/-- Port 15 in link state st, with its part of the state. -/
def linkAt (st : Nat) (q : Port) : State :=
  { ((full.setF (curBase 15) F.CUR_STAT_STATE st).setF (curBase 15) F.CUR_CTL_EN 1).setF (curBase 15) F.CUR_CTL_AUTO_RETRAIN 1 with
      cour := { Cour.init with ports := [(15, q)] } }

/-- A control frame of a type (R341), and a training frame of coordinate 5 on eight lanes. -/
def ctlFlit (ty : Nat) (l : List Byte) : Flit := ⟨flitBytes (linkHeader 0 2 0 4095 0 0) (BitVec.ofNat 8 ty :: l), none, false⟩
def ts5 (vers feat : Nat) : Ts := ⟨vers, 5, 0, 0, 8, feat, 0, List.replicate 8 128⟩
def tsFlit (ty vers feat : Nat) : Flit := ctlFlit ty (tsBytes (ts5 vers feat))

/-- A message flit of sequence seq, HEAD and TAIL in `ctl`, of a memory read of one line, damaged or not. -/
def flit0 (ctl seq : Nat) (b : Bool) : Flit := ⟨flitBytes (linkHeader ctl 1 seq 4095 0 0) (leBytes 2 0 ++ leBytes 2 5), none, b⟩
/-- An idle flit with CVC 7 and CCOUNT 9 that acknowledges sequence 4095. -/
def idle7 : Flit := ⟨flitBytes (linkHeader 0 0 0 4095 7 9) [], none, false⟩

/-- O20: the last port in every link state that training passes. -/
theorem witness_training :
    (linkAt 1 Port.init).portIs 15 1 = true ∧ (linkAt 2 Port.init).portIs 15 2 = true ∧ (linkAt 3 Port.init).portIs 15 3 = true
    ∧ SMap.get 0 (linkAt 3 Port.init).bist.lanes 15 = 0 ∧ 0xFFFFFF % 256 = 255 ∧ bits 0xFFFFFF 8 8 = 255 ∧ bits 0xFFFFFF 16 8 = 255
    ∧ bits 0x77FFFF 16 8 % 16 ≠ 15 ∧ bits 0x77FFFF 16 8 / 16 ≠ 15
    ∧ (∀ n ∈ [1, 2], (linkAt 4 { Port.init with attempt := n }).portIs 15 4 = true
        ∧ ((linkAt 4 { Port.init with attempt := n }).port 15).attempt = n) := by decide +kernel
theorem witness_ts1 : goodFrame (tsFlit 1 7 7) 1 ∧ tsOf (tsFlit 1 7 7) = ts5 7 7
    ∧ (let s := linkAt 4 { Port.init with ts1 := some (ts5 4 7), ts1n := 7 };
        s.portIs 15 4 = true ∧ (s.port 15).ts1 ≠ some (tsOf (tsFlit 1 7 7)))
    ∧ (let s := linkAt 4 { Port.init with ts1 := some (ts5 7 7), ts1n := 6 };
        s.portIs 15 4 = true ∧ (s.port 15).ts1 = some (tsOf (tsFlit 1 7 7)) ∧ (s.port 15).ts1n ≠ 7)
    ∧ (let s := linkAt 4 { Port.init with ts1 := some (ts5 7 7), ts1n := 7, txLanes := 8 };
        s.portIs 15 4 = true ∧ (s.port 15).ts1 = some (tsOf (tsFlit 1 7 7)) ∧ (s.port 15).ts1n = 7 ∧ (s.port 15).agreed = none
          ∧ topVersion ((tsOf (tsFlit 1 7 7)).vers % 8 &&& s.getF (curBase 15) F.CUR_CTL_VERS_EN) = some 2 ∧ (s.port 15).txLanes = 8
          ∧ (tsOf (tsFlit 1 7 7)).lanes % 16 ≠ 4) := by unfold goodFrame; decide +kernel
theorem witness_ts2 : (∀ fl ∈ [tsFlit 2 0x20 7, tsFlit 2 0x11 7], goodFrame fl 2)
    ∧ (∀ n ∈ [6, 7], let s := linkAt 4 { Port.init with agreed := some (2, 7), ts2n := n, sent2 := 8, txLanes := 8 };
        s.portIs 15 4 = true ∧ (s.port 15).agreed = some (2, 7) ∧ (s.port 15).ts2n = n ∧ (s.port 15).sent2 = 8 ∧ (s.port 15).txLanes = 8
          ∧ (tsOf (tsFlit 2 0x20 7)).vers = (s.ownTs 15).vers ∧ (tsOf (tsFlit 2 0x20 7)).featLo = 7 ∧ (tsOf (tsFlit 2 0x20 7)).featHi = 0
          ∧ (tsOf (tsFlit 2 0x20 7)).lanes % 16 ≠ 4 ∧ (tsOf (tsFlit 2 0x11 7)).vers ≠ (s.ownTs 15).vers ∧ (s.port 15).attempt < 2) := by
  unfold goodFrame; decide +kernel

/-- O21: a port disabled, training, failed and active. -/
theorem witness_port_control : (linkAt 0 Port.init).portOn 15 = true ∧ (linkAt 0 Port.init).portSt 15 = 0 ∧ (linkAt 3 Port.init).portOn 15 = true
    ∧ (linkAt 3 Port.init).portSt 15 ≠ 5 ∧ (linkAt 6 Port.init).portOn 15 = true ∧ (linkAt 6 Port.init).portSt 15 = 6
    ∧ (linkAt 5 Port.init).portActive 15 = true ∧ (linkAt 5 Port.init).isF (curBase 15) F.CUR_CTL_EN = true
    ∧ (linkAt 5 Port.init).isF (curBase 15) F.CUR_CTL_AUTO_RETRAIN = true := by decide +kernel

/-- O22: a damaged flit, an idle one, messages whole, in part and out of sequence, and a port with a flit to replay before and at the limit. -/
theorem witness_flits :
    (linkAt 5 Port.init).portActive 15 = true ∧ flitBad (flit0 24 0 true) = true ∧ flitBad idle7 = false ∧ flitKind idle7 = 0
    ∧ ((linkAt 5 Port.init).port 15).txq = [] ∧ ((linkAt 5 Port.init).port 15).refused = false
    ∧ flitBad (flit0 24 9 false) = false ∧ flitKind (flit0 24 9 false) = 1 ∧ flitSeq (flit0 24 9 false) ≠ ((linkAt 5 Port.init).port 15).rxNext
    ∧ (∀ ctl ∈ [8, 16, 24], flitBad (flit0 ctl 0 false) = false ∧ flitKind (flit0 ctl 0 false) = 1
        ∧ flitSeq (flit0 ctl 0 false) = ((linkAt 5 Port.init).port 15).rxNext ∧ flitHead (flit0 ctl 0 false) = decide (ctl % 16 = 8)
        ∧ flitTail (flit0 ctl 0 false) = decide (16 ≤ ctl)) := by decide +kernel
theorem witness_replays : goodFrame (ctlFlit 3 (leBytes 2 9)) 3 ∧ (∀ n ∈ [6, 7], let s := linkAt 5 { Port.init with replay := [⟨9, 0, []⟩], stalls := n, refused := true };
        s.portActive 15 = true ∧ (s.port 15).txq = [] ∧ (s.port 15).stalls = n
          ∧ (s.port 15).replay.findIdx? (fun e => decide (e.seq = leAt (ctlFlit 3 (leBytes 2 9)).bytes 9 2 % 4096)) = some 0
          ∧ ackReplay (s.port 15).replay (flitAck (ctlFlit 3 (leBytes 2 9))) = none
          ∧ (s.port 15).refused = true ∧ (s.port 15).replay ≠ [] ∧ s.isF (curBase 15) F.CUR_CTL_EN = true
          ∧ s.isF (curBase 15) F.CUR_CTL_AUTO_RETRAIN = true) := by unfold goodFrame; decide +kernel

/-- A message waits in Courier's inbox, port 15 active and of coordinate 5's route. -/
def inboxOf (p : Nat) (m : CMsg) : State :=
  let s := (linkAt 5 Port.init).setF curShBase (F.CUR_ROUTE_PORTS.idx (4 * 5)) 0x8000
  { s with cour := { s.cour with inbox := [(p, m)] } }

/-- A message of a type from coordinate 9 to an endpoint of a coordinate. -/
def msgTo (dst ep ty : Nat) : CMsg := ⟨dst, 9, ep, 3, ty, 0, 1, 0, 0, 0, 0, []⟩

/-- O23: through traffic with a port, of the mesh too, and without one, and requests for a scratchpad and for HBM of this device. -/
theorem witness_routing :
    (∀ p ∈ [3, 255], let s := inboxOf p (msgTo 5 3 0); s.pdOn 3 = true ∧ s.inboxAt 0 = some (p, msgTo 5 3 0) ∧ (msgTo 5 3 0).dst ≠ s.ownCoord
      ∧ s.activePorts (s.getF curShBase (F.CUR_ROUTE_PORTS.idx (4 * (msgTo 5 3 0).dst))) = [15] ∧ s.linkHas 15 (msgTo 5 3 0) = true
      ∧ s.pathOpen (epEnd (msgTo 5 3 0).srcEp) (256 + 15) = true)
    ∧ (∀ ty ∈ [0, 9, 4], let s := inboxOf 3 (msgTo 6 3 ty); s.inboxAt 0 = some (3, msgTo 6 3 ty) ∧ (msgTo 6 3 ty).dst ≠ s.ownCoord
      ∧ s.activePorts (s.getF curShBase (F.CUR_ROUTE_PORTS.idx (4 * (msgTo 6 3 ty).dst))) = [] ∧ (msgTo 6 3 ty).src ≠ s.ownCoord)
    ∧ (∀ ep ∈ [3, 256], let m := msgTo 0 ep 0; let s := inboxOf 3 m; s.inboxAt 0 = some (3, m) ∧ m.dst = s.ownCoord ∧ m.mtype = 0 ∧ m.dstEp ≠ 0x130
      ∧ 0 < m.lines ∧ m.addr / 64 % 4 + m.lines ≤ 4 ∧ s.cour.serving = [] ∧ s.pathOpen (256 + 3 % 16) 3 = true
      ∧ s.pathOpen (256 + 3 % 16) (1024 + hbmPc (m.addr % 2 ^ 36)) = true ∧ s.pcUsed (256 + 3 % 16) (hbmPc (m.addr % 2 ^ 36)) < 8) := by decide +kernel

/-- Collective entry 63 of four lines, children c, parent port 15; a message of the inbox. -/
def collOf (c : Nat) (m : CMsg) : State :=
  let f := fun (s : State) (f : Fld) (v : Nat) => s.setF curShBase (f.idx (0x20 * 63)) v
  let s := f (f (f (f (f (f (inboxOf 15 m) F.CUR_COLL_CFG_VALID 1) F.CUR_COLL_CFG_CHILDREN c) F.CUR_COLL_CFG_PARENT 15) F.CUR_COLL_CFG_LOCAL 0)
    F.CUR_COLL_LINES_LINES 4) F.CUR_COLL_RESULT_LO_ADDR 0x10000
  s

/-- A collective message of entry t at byte a. -/
def collMsg (ty t a n : Nat) : CMsg := ⟨0, 9, 0, 0, ty, 0, n, 0, 0, t, a, List.replicate (64 * n) 1⟩

/-- O24. -/
theorem witness_collectives :
    (inboxOf 3 (collMsg 9 64 0 1)).ownMsg 0 9 = some (3, collMsg 9 64 0 1) ∧ 64 ≤ (collMsg 9 64 0 1).tree
    ∧ (inboxOf 3 (collMsg 9 63 0 1)).collValid 63 = false
    ∧ (let m := collMsg 9 63 192 1; let s := collOf 0xC000 m;
        s.ownMsg 0 9 = some (15, m) ∧ m.tree < 64 ∧ s.collValid m.tree = true ∧ (s.coll m.tree F.CUR_COLL_CFG_CHILDREN).testBit (15 % 16) = true
          ∧ m.lines = 1 ∧ m.addr % 64 = 0 ∧ m.addr / 64 + 1 ≤ s.coll m.tree F.CUR_COLL_LINES_LINES
          ∧ s.lineGood (s.collStage m.tree + m.addr) 272 true = true
          ∧ s.hubFree (s.collStage m.tree + m.addr) ∧ s.collDue = none
          ∧ SMap.get 0 s.cour.collCnt (2 ^ 20 * m.tree + m.addr / 4096) + 1 < s.collC m.tree * s.chunkLines m.tree (m.addr / 4096))
    ∧ (let m := collMsg 10 63 64 3; let s := collOf 0 m;
        s.ownMsg 0 10 = some (15, m) ∧ m.tree < 64 ∧ s.collValid m.tree = true ∧ s.coll m.tree F.CUR_COLL_CFG_ROOT = 0
          ∧ s.coll m.tree F.CUR_COLL_CFG_PARENT = 15 % 16 ∧ m.data.length = 64 * m.lines
          ∧ m.addr / 64 + m.lines ≤ s.coll m.tree F.CUR_COLL_LINES_LINES ∧ s.coll m.tree F.CUR_COLL_CFG_CHILDREN = 0
          ∧ s.coll m.tree F.CUR_COLL_DONE_DONE_EN = 0 ∧ s.collDue = none
          ∧ ∀ i < m.lines, s.lineGood (s.collResult m.tree + m.addr + 64 * i) 272 true = true
            ∧ s.hubFree (s.collResult m.tree + m.addr + 64 * i))
    ∧ (let s : State := { full with cour := { Cour.init with outst := [⟨7, 5, 272, 3, 0, true, 1⟩] } };
        s.cour.outst[0]? = some ⟨7, 5, 272, 3, 0, true, 1⟩ ∧ s.watches 5 = false) := by unfold State.hubFree; decide +kernel

end Sys2Proof.Tests
end

section
/-! SUPPORT. Register fields after a write: what a read of the same field and of a field of another register gives. -/

namespace Sys2Proof.Machine

/-- A read with one default of a map written with another, at another key. -/
theorem SMap.get_set_ne_of_other_default {α : Type} [DecidableEq α] (d e : α) (m : SMap α) {x y : Nat} (a : α) (h : x ≠ y) :
    SMap.get d (SMap.set e m x a) y = SMap.get d m y := by
  unfold SMap.set
  split
  · rw [SMap.get_erase, if_neg h]
  · rw [SMap.get_insert _ _ _ _ _ (SMap.notMem_erase m x), if_neg h, SMap.get_erase, if_neg h]

/-- The field just put reads as the value put, cut to its width. -/
theorem bits_putBits (n lo w v : Nat) : bits (putBits n lo w v) lo w = v % 2 ^ w := by
  have hsum : putBits n lo w v = n % 2 ^ lo + (v % 2 ^ w + n >>> (lo + w) * 2 ^ w) * 2 ^ lo := by
    unfold putBits
    ring
  have hlow : n % 2 ^ lo / 2 ^ lo = 0 := Nat.div_eq_of_lt (Nat.mod_lt _ (Nat.two_pow_pos lo))
  rw [bits, hsum, Nat.shiftRight_eq_div_pow, Nat.add_mul_div_right _ _ (Nat.two_pow_pos lo), hlow, Nat.zero_add,
    Nat.add_mul_mod_self_right, Nat.mod_mod]

/-- Bits inside the low m are those of the number cut to m bits. -/
theorem bits_mod_two_pow (n lo w m : Nat) (h : lo + w ≤ m) : bits (n % 2 ^ m) lo w = bits n lo w := by
  refine Nat.eq_of_testBit_eq fun k => ?_
  simp only [bits, Nat.testBit_mod_two_pow, Nat.testBit_shiftRight]
  by_cases hk : k < w
  · simp [hk, show lo + k < m by omega]
  · simp [hk]

/-- A field of a word reads back the value written, cut to its width. -/
theorem State.getF_setF_self (s : State) (base : Nat) (f : Fld) (v : Nat) (hf : f.lo + f.width ≤ 32) :
    (s.setF base f v).getF base f = v % 2 ^ f.width := by
  simp only [State.getF, State.setF, State.reg, State.setReg_regs, SMap.get_set_self, BitVec.toNat_ofNat,
    bits_mod_two_pow _ _ _ _ hf, bits_putBits]

/-- A write of a field leaves the unit's other registers alone. -/
theorem State.getF_setF_of_off_ne (s : State) (base : Nat) {f g : Fld} (v : Nat) (h : f.off ≠ g.off) :
    (s.setF base f v).getF base g = s.getF base g := by
  have ha : base + f.off ≠ base + g.off := fun he => h (Nat.add_left_cancel he)
  simp only [State.getF, State.setF, State.reg, State.setReg_regs, SMap.get_set_ne_of_other_default _ _ _ _ ha]

theorem State.getF_addF_of_off_ne (s : State) (base : Nat) {f g : Fld} (k : Nat) (h : f.off ≠ g.off) :
    (s.addF base f k).getF base g = s.getF base g := s.getF_setF_of_off_ne base _ h

theorem State.getF_flagF_of_off_ne (s : State) (base : Nat) {f g : Fld} (h : f.off ≠ g.off) :
    (s.flagF base f).getF base g = s.getF base g := s.getF_setF_of_off_ne base _ h

/-- A counter raised by k reads the saturated sum. -/
theorem State.getF_addF_self (s : State) (base : Nat) (f : Fld) (k : Nat) (hf : f.lo + f.width ≤ 32) :
    (s.addF base f k).getF base f = satCount f.width (s.getF base f) k := by
  have hlt : satCount f.width (s.getF base f) k < 2 ^ f.width :=
    lt_of_le_of_lt (min_le_right _ _) (Nat.sub_lt (Nat.two_pow_pos _) Nat.one_pos)
  rw [State.addF, s.getF_setF_self base f _ hf, Nat.mod_eq_of_lt hlt]

end Sys2Proof.Machine
end

section
/-! SUPPORT. A block's issues after one of them is changed. -/

namespace Sys2Proof.Machine

@[simp] theorem State.setBx_bx_self (s : State) (b : Nat) (x : BlockX) : (s.setBx b x).bx b = x := SMap.get_set_self _ _ _ _

@[simp] theorem State.modIssue_bx_self (s : State) (b id : Nat) (f : Issue → Issue) :
    (s.modIssue b id f).bx b = (s.bx b).modIssue id f := s.setBx_bx_self b _

@[simp] theorem BlockX.modIssue_ctxs (x : BlockX) (id : Nat) (f : Issue → Issue) : (x.modIssue id f).ctxs = x.ctxs := rfl
@[simp] theorem BlockX.modIssue_eslot (x : BlockX) (id : Nat) (f : Issue → Issue) : (x.modIssue id f).eslot = x.eslot := rfl

/-- Which issue has a number is a matter of the block's issues alone. -/
theorem State.issueOf_eq_of_issues_eq {s t : State} {b : Nat} (id : Nat) (h : (t.bx b).issues = (s.bx b).issues) :
    t.issueOf b id = s.issueOf b id := by
  rw [State.issueOf, h, State.issueOf]

theorem State.issueOf_id {s : State} {b id : Nat} {i : Issue} (h : s.issueOf b id = some i) : i.id = id := by
  simpa using List.find?_some h

/-- A change that keeps an issue's number is found under that number. -/
theorem State.issueOf_modIssue {s : State} {b id : Nat} {i : Issue} {f : Issue → Issue} (hf : ∀ x, (f x).id = x.id)
    (h : s.issueOf b id = some i) : (s.modIssue b id f).issueOf b id = some (f i) := by
  have hid := State.issueOf_id h
  have hkeep : (fun x : Issue => decide (x.id = id)) ∘ (fun x => if x.id = id then f x else x) = fun x => decide (x.id = id) := by
    funext x
    by_cases hx : x.id = id <;> simp [hx, hf]
  unfold State.issueOf at h
  rw [State.issueOf, State.modIssue_bx_self, BlockX.modIssue, List.find?_map, hkeep, h, Option.map_some, if_pos hid]

end Sys2Proof.Machine
end

section
/-! PROOFS. The prediction of a group that is all active (R267, R269), and what it leaves alone. -/

namespace Sys2Proof.Machine

/-! ## The counts of a prediction -/

@[simp] theorem State.cirCounts_bx (s : State) (b slot evals pred skip doubt all q : Nat) :
    (s.cirCounts b slot evals pred skip doubt all).bx q = s.bx q := by
  rw [State.cirCounts, State.modRec_bx]
  iterate 5 rw [State.addF_bx]
@[simp] theorem State.cirCounts_errs (s : State) (b slot evals pred skip doubt all : Nat) :
    (s.cirCounts b slot evals pred skip doubt all).errs = s.errs := by
  rw [State.cirCounts, State.modRec_errs]
  iterate 5 rw [State.addF_errs]
@[simp] theorem State.cirCounts_chip (s : State) (b slot evals pred skip doubt all : Nat) :
    (s.cirCounts b slot evals pred skip doubt all).chip = s.chip := by
  rw [State.cirCounts, State.modRec_chip]
  iterate 5 rw [State.addF_chip]

/-- The all-active count rises by the groups counted, whatever else is counted with them (R276). -/
theorem State.cirCounts_getF_allact (s : State) (b slot evals pred skip doubt all : Nat) :
    (s.cirCounts b slot evals pred skip doubt all).getF (blkBase b) F.CIR_ALLACT_GROUPS
      = satCount F.CIR_ALLACT_GROUPS.width (s.getF (blkBase b) F.CIR_ALLACT_GROUPS) all := by
  rw [State.cirCounts, State.modRec_getF, State.getF_addF_self _ _ _ _ (by decide)]
  iterate 4 rw [State.getF_addF_of_off_ne _ _ _ (by decide)]

/-- The counts lie in five registers of Cirrus. -/
theorem State.cirCounts_getF_of_off_ne (s : State) (b slot evals pred skip doubt all : Nat) (g : Fld)
    (hg : g.off ∉ [0x30140, 0x30144, 0x30148, 0x3014c, 0x3015c]) :
    (s.cirCounts b slot evals pred skip doubt all).getF (blkBase b) g = s.getF (blkBase b) g := by
  simp only [List.mem_cons, List.not_mem_nil, or_false, not_or] at hg
  obtain ⟨heval, hpred, hskip, hdoubt, hall⟩ := hg
  rw [State.cirCounts, State.modRec_getF, State.getF_addF_of_off_ne _ _ _ (Ne.symm hall),
    State.getF_addF_of_off_ne _ _ _ (Ne.symm hdoubt), State.getF_addF_of_off_ne _ _ _ (Ne.symm hskip),
    State.getF_addF_of_off_ne _ _ _ (Ne.symm hpred), State.getF_addF_of_off_ne _ _ _ (Ne.symm heval)]

/-! ## An all-active group -/

/-- The block before a group of issue i is predicted: the group takes its number, and a predictor format out of the list is noted. -/
def State.predictStart (s : State) (b : Nat) (i : Issue) : State :=
  let x := s.bx b
  let t := s.setBx b { x with predG := SMap.set 0 x.predG i.j (SMap.get 0 x.predG i.j + 1) }
  if (s.predDesc b).fmt ∉ [0, 1, 4, 5] then t.flagF (blkBase b) F.CIR_STAT_BAD_FMT else t

/-- The engine record of a group with all its outputs predicted. -/
def Engine.predictAll (outs : Nat) (e : Engine) : Engine := { e with predOk := true, predicted := List.range outs }

theorem Engine.predictAll_eq (outs : Nat) : Engine.predictAll outs = fun e => { e with predOk := true, predicted := List.range outs } := rfl

/-- A group of issue i with all outputs predicted, counted as all active with `evals` rows evaluated. -/
def State.predictAllActive (s : State) (b : Nat) (i : Issue) (put : (Engine → Engine) → Issue → Issue) (evals : Nat) : State :=
  let outs := accOuts i.word (opPrec s.img b i.word)
  ((s.predictStart b i).modIssue b i.id (put (Engine.predictAll outs))).cirCounts b i.slot evals outs 0 0 1

/-- Unusable estimates, or an evaluated row with more than 32 escapes, make the group all active. -/
theorem State.predictGroup_eq_predictAllActive (s : State) (b : Nat) (i : Issue) (g : Nat) (put : (Engine → Engine) → Issue → Issue)
    (h : s.allActive b = true ∨ (s.predRows b i g).any (s.predMany b i) = true) :
    ∃ evals, s.predictGroup b i g put = s.predictAllActive b i put evals := by
  cases hact : s.allActive b with
  | true =>
    refine ⟨0, ?_⟩
    simp [State.predictGroup, State.predictAllActive, State.predictStart, Engine.predictAll_eq, hact]
  | false =>
    have hmany : (s.predRows b i g).any (s.predMany b i) = true := h.resolve_left (by simp [hact])
    refine ⟨(s.predRows b i g).length, ?_⟩
    simp [State.predictGroup, State.predictAllActive, State.predictStart, Engine.predictAll_eq, hact, hmany]

/-- More than 32 escapes in a row are too many (R86). -/
theorem State.predMany_of_escapes {s : State} {b r : Nat} {i : Issue} (h : 32 < (s.predEscapes b i r).length) :
    s.predMany b i r = true := by
  simp [State.predMany, h]

theorem exec_cirrusGroupPrediction (b id : Nat) (s : State) :
    exec (.cirrusGroupPrediction b id) s = .next ((predictionEff s b id).settleBlk b) := rfl

/-- The issue at the head of the array with its lines staged has its group predicted (R265). -/
theorem predictionEff_of_arrayHead {s : State} {b id : Nat} {i : Issue} (hi : s.issueOf b id = some i) (hon : s.compOn b = true)
    (hpred : opPred i.word = true) (hfault : i.faulted = false) (hdone : i.done = false) (hhead : s.arrayHead b = some id)
    (hok : i.eng.predOk = false) (hstaged : s.predStaged b i i.eng.grp = true) :
    predictionEff s b id = s.predictGroup b i i.eng.grp putEng := by
  simp [predictionEff, hi, hon, hpred, hfault, hdone, hhead, hok, hstaged]

/-! ## What an all-active prediction leaves alone -/

theorem State.predictStart_bx (s : State) (b : Nat) (i : Issue) :
    (s.predictStart b i).bx b = { s.bx b with predG := SMap.set 0 (s.bx b).predG i.j (SMap.get 0 (s.bx b).predG i.j + 1) } := by
  rw [State.predictStart]
  split
  · rw [State.flagF_bx, State.setBx_bx_self]
  · rw [State.setBx_bx_self]

theorem State.predictStart_errs (s : State) (b : Nat) (i : Issue) : (s.predictStart b i).errs = s.errs := by
  rw [State.predictStart]
  split
  · rw [State.flagF_errs, State.setBx_errs]
  · rw [State.setBx_errs]

theorem State.predictStart_chip (s : State) (b : Nat) (i : Issue) : (s.predictStart b i).chip = s.chip := by
  rw [State.predictStart]
  split
  · rw [State.flagF_chip, State.setBx_chip]
  · rw [State.setBx_chip]

theorem State.predictStart_getF_of_off_ne (s : State) (b : Nat) (i : Issue) (g : Fld) (hg : g.off ≠ 0x30100) :
    (s.predictStart b i).getF (blkBase b) g = s.getF (blkBase b) g := by
  rw [State.predictStart]
  split
  · rw [State.getF_flagF_of_off_ne _ _ (Ne.symm hg), State.setBx_getF]
  · rw [State.setBx_getF]

section
variable (s : State) (b : Nat) (i : Issue) (put : (Engine → Engine) → Issue → Issue) (evals : Nat)

theorem State.predictAllActive_bx : (s.predictAllActive b i put evals).bx b
    = ((s.predictStart b i).bx b).modIssue i.id (put (Engine.predictAll (accOuts i.word (opPrec s.img b i.word)))) := by
  rw [State.predictAllActive, State.cirCounts_bx, State.modIssue_bx_self]

theorem State.predictAllActive_ctxs : ((s.predictAllActive b i put evals).bx b).ctxs = (s.bx b).ctxs := by
  rw [State.predictAllActive_bx, BlockX.modIssue_ctxs, State.predictStart_bx]

theorem State.predictAllActive_eslot : ((s.predictAllActive b i put evals).bx b).eslot = (s.bx b).eslot := by
  rw [State.predictAllActive_bx, BlockX.modIssue_eslot, State.predictStart_bx]

theorem State.predictAllActive_errs : (s.predictAllActive b i put evals).errs = s.errs := by
  rw [State.predictAllActive, State.cirCounts_errs, State.modIssue_errs, State.predictStart_errs]

theorem State.predictAllActive_chip : (s.predictAllActive b i put evals).chip = s.chip := by
  rw [State.predictAllActive, State.cirCounts_chip, State.modIssue_chip, State.predictStart_chip]

/-- The group counts once as all active (R276). -/
theorem State.predictAllActive_getF_allact : (s.predictAllActive b i put evals).getF (blkBase b) F.CIR_ALLACT_GROUPS
    = satCount F.CIR_ALLACT_GROUPS.width (s.getF (blkBase b) F.CIR_ALLACT_GROUPS) 1 := by
  rw [State.predictAllActive, State.cirCounts_getF_allact, State.modIssue_getF, State.predictStart_getF_of_off_ne _ _ _ _ (by decide)]

/-- No fault of the block is noted (R267). -/
theorem State.predictAllActive_faultValid : (s.predictAllActive b i put evals).isF (blkBase b) F.BLK_FAULT_STAT_VALID
    = s.isF (blkBase b) F.BLK_FAULT_STAT_VALID := by
  rw [State.isF, State.predictAllActive, State.cirCounts_getF_of_off_ne _ _ _ _ _ _ _ _ _ (by decide), State.modIssue_getF,
    State.predictStart_getF_of_off_ne _ _ _ _ (by decide), State.isF]

end

theorem State.predictAllActive_issueOf {s : State} {b id : Nat} {i : Issue} {put : (Engine → Engine) → Issue → Issue} (evals : Nat)
    (hput : ∀ f x, (put f x).id = x.id) (hi : s.issueOf b id = some i) :
    (s.predictAllActive b i put evals).issueOf b id = some (put (Engine.predictAll (accOuts i.word (opPrec s.img b i.word))) i) := by
  have hstart : (s.predictStart b i).issueOf b id = some i :=
    (State.issueOf_eq_of_issues_eq id (by rw [State.predictStart_bx])).trans hi
  rw [State.predictAllActive, State.issueOf_id hi]
  exact (State.issueOf_eq_of_issues_eq id (by rw [State.cirCounts_bx])).trans (State.issueOf_modIssue (hput _) hstart)

/-- Settles O6: the crowded row makes the group all active whether or not the estimates are usable otherwise, and an all-active prediction
touches the group's engine record, the group number and Cirrus's own registers only. -/
theorem crowdedPredictorRowsAreAllActive : Obligations.CrowdedPredictorRowsAreAllActive := by
  unfold Obligations.CrowdedPredictorRowsAreAllActive
  intro s b id r i hi hhead hon hpred hfault hdone hok hstaged hr hesc
  have hmany : (s.predRows b i i.eng.grp).any (s.predMany b i) = true := List.any_eq_true.2 ⟨r, hr, State.predMany_of_escapes hesc⟩
  obtain ⟨evals, hgroup⟩ := s.predictGroup_eq_predictAllActive b i i.eng.grp putEng (.inr hmany)
  have heff : predictionEff s b id = s.predictAllActive b i putEng evals :=
    (predictionEff_of_arrayHead hi hon hpred hfault hdone hhead hok hstaged).trans hgroup
  refine ⟨s.predictAllActive b i putEng evals, putEng (Engine.predictAll (accOuts i.word (opPrec s.img b i.word))) i, ?_,
    State.predictAllActive_issueOf evals (fun _ _ => rfl) hi, hfault, rfl, rfl, s.predictAllActive_getF_allact b i putEng evals,
    s.predictAllActive_ctxs b i putEng evals, s.predictAllActive_eslot b i putEng evals, s.predictAllActive_errs b i putEng evals,
    s.predictAllActive_chip b i putEng evals, s.predictAllActive_faultValid b i putEng evals⟩
  rw [exec_cirrusGroupPrediction, heff]

end Sys2Proof.Machine
end

section
/-! SUPPORT. Commands in progress are told apart by their numbers, and what a final reply changes (R384, R390 to R392). -/

namespace Sys2Proof.Machine

/-! ## Commands in progress by number -/

theorem Mail.fresh_iff (m : Mail) : m.fresh = true ↔
    (∀ x ∈ m.taken, x.id < m.nextId) ∧ (m.taken.map Taken.id).Nodup ∧ ∀ x ∈ m.inq ++ m.outq, x.cmd < m.nextId := by
  simp only [Mail.fresh, Bool.and_eq_true, List.all_eq_true, decide_eq_true_eq, and_assoc]

/-- With distinct numbers a command in progress is found under its own. -/
theorem State.takenBy_of_mem {s : State} {x : Taken} (hnodup : (s.mail.taken.map Taken.id).Nodup) (hx : x ∈ s.mail.taken) :
    s.takenBy x.id = some x := by
  have hsome : (s.takenBy x.id).isSome = true := List.find?_isSome.2 ⟨x, hx, decide_eq_true rfl⟩
  obtain ⟨y, hy⟩ := Option.isSome_iff_exists.1 hsome
  have hid : y.id = x.id := by simpa using List.find?_some hy
  rw [hy, List.inj_on_of_nodup_map hnodup (List.mem_of_find?_eq_some hy) hx hid]

/-- Commands in progress have numbers below the next one's, so the command just taken is the one found under it. -/
theorem State.takenBy_took {s : State} (h : ∀ x ∈ s.mail.taken, x.id < s.mail.nextId) : s.took.takenBy s.mail.nextId = some s.front := by
  have hnone : s.mail.taken.find? (fun x => decide (x.id = s.mail.nextId)) = none :=
    List.find?_eq_none.2 fun x hx => by simpa using (h x hx).ne
  have hfront : s.front.id = s.mail.nextId := rfl
  simp [State.takenBy, State.took, List.find?_append, hnone, hfront]

/-- Without the command just taken, those in progress before remain. -/
theorem State.took_taken_filter {s : State} (h : ∀ x ∈ s.mail.taken, x.id < s.mail.nextId) :
    s.took.mail.taken.filter (fun x => decide (x.id ≠ s.mail.nextId)) = s.mail.taken := by
  have hkeep : s.mail.taken.filter (fun x => decide (x.id ≠ s.mail.nextId)) = s.mail.taken :=
    List.filter_eq_self.2 fun x hx => decide_eq_true (h x hx).ne
  have hfront : s.front.id = s.mail.nextId := rfl
  rw [State.took, List.filter_append, hkeep]
  simp [hfront]

/-! ## The final reply of a command in progress -/

/-- New outbound transfers: the mailbox's list is replaced, and OUT_READY may rise (R401). -/
theorem State.setOutq_cases (s : State) (q : List Xfer) : let u : State := { s with mail := { s.mail with outq := q } }
    s.setOutq q = u ∨ s.setOutq q = u.setF2 1 := (ite_eq_or_eq _ _ _).symm

@[simp] theorem State.setOutq_mail (s : State) (q : List Xfer) : (s.setOutq q).mail = { s.mail with outq := q } :=
  (s.setOutq_cases q).elim (congrArg State.mail) (congrArg State.mail)

@[simp] theorem State.setOutq_cmdCi (s : State) (q : List Xfer) : (s.setOutq q).sdio.cmdCi = s.sdio.cmdCi :=
  (s.setOutq_cases q).elim (congrArg fun u : State => u.sdio.cmdCi) (congrArg fun u : State => u.sdio.cmdCi)

/-- New outbound transfers touch the mailbox and the SDIO interface only. -/
theorem State.setOutq_only_mailbox (s : State) (q : List Xfer) (d : Sdio) (m : Mail) :
    { s.setOutq q with sdio := d, mail := m } = { s with sdio := d, mail := m } :=
  (s.setOutq_cases q).elim (congrArg fun u : State => { u with sdio := d, mail := m })
    (congrArg fun u : State => { u with sdio := d, mail := m })

section
variable (s : State) (id status : Nat) (res : List Byte)

/-- A final reply touches the mailbox and the SDIO interface only. -/
theorem State.finish_only_mailbox (d : Sdio) (m : Mail) :
    { s.finish id status res with sdio := d, mail := m } = { s with sdio := d, mail := m } := by
  unfold State.finish
  split
  · rw [State.setOutq_only_mailbox]
    rfl
  · rfl

@[simp] theorem State.finish_cmdCi : (s.finish id status res).sdio.cmdCi = s.sdio.cmdCi := by
  unfold State.finish
  split
  · rw [State.setOutq_cmdCi, State.queueReply_sdio]
  · rfl

variable {s id} {x : Taken}

theorem State.finish_replies (h : s.takenBy id = some x) :
    (s.finish id status res).mail.replies = s.mail.replies ++ [replyBytes s.replyVer x.op x.tag x.seq status res] := by
  simp [State.finish, h, State.queueReply]

theorem State.finish_taken (h : s.takenBy id = some x) :
    (s.finish id status res).mail.taken = s.mail.taken.filter (fun y => decide (y.id ≠ id)) := by
  simp [State.finish, h, State.queueReply]

end

/-! ## The command at the front of the ring -/

/-- What `State.runs` says: the opcode is the one named, Casec takes the command and may read its packet, and no check of Table 13.8 and no
chip state refuses it. -/
theorem State.runs_iff (s : State) (op : Nat) : s.runs op = true ↔
    s.front.op = op ∧ s.cmdReady op = true ∧ s.pghWhole 0 28 = true ∧ s.cmdCheck s.front s.packet.2.1 s.packet.2.2 = none
      ∧ s.cmdAccept s.front = none ∧ s.mail.fresh = true := by
  simp only [State.runs, Bool.and_eq_true, decide_eq_true_eq, and_assoc]

/-- A read of Pigeonhole by a master that may read the whole of it meets no refusal. -/
theorem State.pghNote_of_whole {s : State} {m : Nat} (off n : Nat) (h : s.pghWhole m 28 = true) : s.pghNote m off n = s := if_pos h

/-- The state in which the command at the front has left the ring and is not answered yet (R383). -/
def State.popped (s : State) : State :=
  { s with sdio := { s.sdio with cmdCi := (s.sdio.cmdCi + 1) % 64, clash := [] }, mail := { s.mail with nextId := s.mail.nextId + 1 } }

theorem State.popped_cmdCheck (s : State) (t : Taken) (plen : Nat) (crcOk : Bool) :
    s.popped.cmdCheck t plen crcOk = s.cmdCheck t plen crcOk := rfl
theorem State.popped_advSeq_cmdAccept (s : State) (t : Taken) : s.popped.advSeq.cmdAccept t = s.cmdAccept t := rfl

/-- A command of the row's own that no check refuses is executed as the last of those in progress. -/
theorem State.hostTake_of_accepted {s : State} {own : Taken → Bool} (f : Taken → State → State) (hready : s.cmdReady s.front.op = true)
    (hown : own s.front = true) (hwhole : s.pghWhole 0 28 = true) (hcheck : s.cmdCheck s.front s.packet.2.1 s.packet.2.2 = none)
    (haccept : s.cmdAccept s.front = none) : s.hostTake own f = f s.front s.took := by
  rw [← s.popped_cmdCheck, State.popped, State.front] at hcheck
  rw [← s.popped_advSeq_cmdAccept, State.popped, State.front] at haccept
  have hgo : (s.cmdReady s.packet.1.op && own s.packet.1) = true := Bool.and_eq_true_iff.2 ⟨hready, hown⟩
  simp only [State.hostTake, State.pghNote_of_whole _ _ hwhole, hgo, hcheck, haccept]
  rfl

theorem State.hostCmd_of_runs {s : State} {op : Nat} (f : Taken → State → State) (h : s.runs op = true) :
    s.hostCmd op f = f s.front s.took := by
  obtain ⟨hop, hready, hwhole, hcheck, haccept, -⟩ := (s.runs_iff op).1 h
  exact State.hostTake_of_accepted f (hop ▸ hready) (decide_eq_true hop) hwhole hcheck haccept

end Sys2Proof.Machine
end

section
/-! PROOFS. BYE (R416). -/

namespace Sys2Proof.Machine

/-- The state after a BYE without fault: its reply queued, and then the session closed. -/
def State.afterBye (s : State) : State :=
  let u := s.took.finish s.mail.nextId 0 []
  { u with mail := { u.mail with sess := false, ver := 0 } }

theorem exec_bye_of_runs {s : State} (hruns : s.runs 0x0003 = true) (hok : s.front.ok 0 [] = true) : exec .bye s = .next s.afterBye := by
  have hexec : exec .bye s = .next (s.hostCmd 0x0003 byeEff) := rfl
  rw [hexec, State.hostCmd_of_runs _ hruns, byeEff, hok]
  rfl

/-- BYE's own reply still carries the session version (R416). -/
theorem State.afterBye_answered {s : State} (h : ∀ x ∈ s.mail.taken, x.id < s.mail.nextId) : s.answered s.afterBye 0 [] := by
  have htaken := State.takenBy_took h
  refine ⟨State.finish_cmdCi _ _ _ _, ?_, State.finish_replies _ _ htaken⟩
  exact (State.finish_taken _ _ htaken).trans (State.took_taken_filter h)

theorem State.afterBye_only_mailbox (s : State) : { s.afterBye with sdio := s.sdio, mail := s.mail } = s :=
  s.took.finish_only_mailbox s.mail.nextId 0 [] s.sdio s.mail

theorem State.afterBye_replyVer (s : State) : s.afterBye.replyVer = 0x100 := rfl

/-- Settles O5: the reply is queued before the session closes, and with no session every later final reply carries version 1.0. -/
theorem byeClosesTheSession : Obligations.ByeClosesTheSession := by
  unfold Obligations.ByeClosesTheSession
  intro s hruns hok
  obtain ⟨-, -, -, -, -, hfresh⟩ := (s.runs_iff _).1 hruns
  obtain ⟨hbelow, hnodup, -⟩ := (Mail.fresh_iff _).1 hfresh
  obtain ⟨hci, htaken, hreplies⟩ := State.afterBye_answered hbelow
  refine ⟨s.afterBye, exec_bye_of_runs hruns hok, ⟨hci, htaken, hreplies⟩, rfl, s.afterBye_only_mailbox, fun x hx status res => ?_⟩
  have hfind : s.afterBye.takenBy x.id = some x := State.takenBy_of_mem (htaken ▸ hnodup) (htaken ▸ hx)
  rw [State.finish_replies _ _ hfind, State.afterBye_replyVer]

end Sys2Proof.Machine
end

section
/-! SUPPORT. What a step keeps: the canonical form of the arrays, and numbers of commands in progress below the next one. -/

namespace Sys2Proof.Machine

/-- From s₀ to s the arrays keep their canonical form and commands in progress keep numbers of their own, all of them below a next one that has not fallen. -/
structure State.Keeps (s₀ s : State) : Prop where
  arrays : s₀.safe = true → s.safe = true
  numbers : s₀.mail.fresh = true → s.mail.fresh = true
  next : s₀.mail.nextId ≤ s.mail.nextId

/-- A number that commands in progress of s₀ may bear. -/
def State.Owns (s₀ : State) (id : Nat) : Prop := s₀.mail.fresh = true → id < s₀.mail.nextId

section
variable {s₀ s t u : State}

theorem State.Keeps.refl (s : State) : s.Keeps s := ⟨id, id, le_rfl⟩

theorem State.Keeps.trans (h : s₀.Keeps s) (g : s.Keeps t) : s₀.Keeps t :=
  ⟨g.arrays ∘ h.arrays, g.numbers ∘ h.numbers, h.next.trans g.next⟩

theorem Mail.fresh_congr {m n : Mail} (htaken : n.taken = m.taken) (hin : n.inq = m.inq) (hout : n.outq = m.outq) (hnext : n.nextId = m.nextId) :
    n.fresh = m.fresh := by
  rw [Mail.fresh, Mail.fresh, htaken, hin, hout, hnext]

theorem State.Keeps.ite {c : Prop} [Decidable c] (h : s₀.Keeps s) (g : s₀.Keeps t) : s₀.Keeps (if c then s else t) := by
  split
  · exact h
  · exact g

section
variable {α β : Type} {c : Prop} [Decidable c]

theorem State.Keeps.ite_fst {x y : State × α} (h : s₀.Keeps x.1) (g : s₀.Keeps y.1) : s₀.Keeps (if c then x else y).1 := by
  split
  · exact h
  · exact g

theorem State.Keeps.ite_snd {x y : α × State} (h : s₀.Keeps x.2) (g : s₀.Keeps y.2) : s₀.Keeps (if c then x else y).2 := by
  split
  · exact h
  · exact g

theorem State.Keeps.ite_snd_snd {x y : α × β × State} (h : s₀.Keeps x.2.2) (g : s₀.Keeps y.2.2) : s₀.Keeps (if c then x else y).2.2 := by
  split
  · exact h
  · exact g

theorem State.Keeps.foldl {l : List α} {f : State → α → State} (h : s₀.Keeps s) (hf : ∀ t x, s₀.Keeps t → s₀.Keeps (f t x)) : s₀.Keeps (l.foldl f s) := by
  induction l generalizing s with
  | nil => exact h
  | cons x r ih => exact ih (hf s x h)

theorem State.Keeps.foldl_of_mem {l : List α} {f : State → α → State} (h : s₀.Keeps s) (hf : ∀ t, ∀ x ∈ l, s₀.Keeps t → s₀.Keeps (f t x)) :
    s₀.Keeps (l.foldl f s) := by
  induction l generalizing s with
  | nil => exact h
  | cons x r ih => exact ih (hf s x List.mem_cons_self h) fun t y hy => hf t y (List.mem_cons_of_mem _ hy)

theorem State.Keeps.foldl_fst {l : List α} {f : State × β → α → State × β} {a : State × β} (h : s₀.Keeps a.1)
    (hf : ∀ b x, s₀.Keeps b.1 → s₀.Keeps (f b x).1) : s₀.Keeps (l.foldl f a).1 := by
  induction l generalizing a with
  | nil => exact h
  | cons x r ih => exact ih (hf a x h)

theorem State.Keeps.foldl_snd {l : List α} {f : β × State → α → β × State} {a : β × State} (h : s₀.Keeps a.2)
    (hf : ∀ b x, s₀.Keeps b.2 → s₀.Keeps (f b x).2) : s₀.Keeps (l.foldl f a).2 := by
  induction l generalizing a with
  | nil => exact h
  | cons x r ih => exact ih (hf a x h)

theorem State.Keeps.foldl_snd_snd_snd {γ δ : Type} {l : List α} {f : β × γ × δ × State → α → β × γ × δ × State} {a : β × γ × δ × State}
    (h : s₀.Keeps a.2.2.2) (hf : ∀ b x, s₀.Keeps b.2.2.2 → s₀.Keeps (f b x).2.2.2) : s₀.Keeps (l.foldl f a).2.2.2 := by
  induction l generalizing a with
  | nil => exact h
  | cons x r ih => exact ih (hf a x h)

theorem State.Keeps.foldl_snd_snd {γ : Type} {l : List α} {f : β × γ × State → α → β × γ × State} {a : β × γ × State} (h : s₀.Keeps a.2.2)
    (hf : ∀ b x, s₀.Keeps b.2.2 → s₀.Keeps (f b x).2.2) : s₀.Keeps (l.foldl f a).2.2 := by
  induction l generalizing a with
  | nil => exact h
  | cons x r ih => exact ih (hf a x h)

end

/-- Commands that stay in progress, and transfers of commands that had some, keep their numbers. -/
theorem Mail.fresh_of_subset {m n : Mail} (hnext : n.nextId = m.nextId) (htaken : (n.taken.map Taken.id).Sublist (m.taken.map Taken.id))
    (hin : n.inq.map Xfer.cmd ⊆ m.inq.map Xfer.cmd) (hout : n.outq.map Xfer.cmd ⊆ m.outq.map Xfer.cmd) (h : m.fresh = true) : n.fresh = true := by
  obtain ⟨hbelow, hnodup, hcmds⟩ := (Mail.fresh_iff m).1 h
  refine (Mail.fresh_iff n).2 ⟨fun x hx => ?_, htaken.nodup hnodup, fun x hx => ?_⟩
  · obtain ⟨y, hy, hid⟩ := List.mem_map.1 (htaken.subset (List.mem_map_of_mem hx))
    exact hnext ▸ hid ▸ hbelow y hy
  · have hmem : x.cmd ∈ m.inq.map Xfer.cmd ++ m.outq.map Xfer.cmd := by
      rcases List.mem_append.1 hx with hx | hx
      · exact List.mem_append_left _ (hin (List.mem_map_of_mem hx))
      · exact List.mem_append_right _ (hout (List.mem_map_of_mem hx))
    obtain ⟨y, hy, hcmd⟩ := List.mem_map.1 (List.map_append.symm ▸ hmem)
    exact hnext ▸ hcmd ▸ hcmds y hy

/-- A command in progress has a number below the next one's. -/
theorem State.owns_of_mem {x : Taken} (hx : x ∈ s.mail.taken) : s.Owns x.id := fun hs => ((Mail.fresh_iff _).1 hs).1 x hx

theorem State.owns_of_takenOp {x : Taken} {op : Nat} (hx : s.takenOp op = some x) : s.Owns x.id := State.owns_of_mem (List.mem_of_find?_eq_some hx)

/-- A number that s₀'s commands may bear is still below the next one. -/
theorem State.Keeps.owns (h : s₀.Keeps s) {id : Nat} (ht : s₀.Owns id) (ho : s₀.mail.fresh = true) : id < s.mail.nextId := (ht ho).trans_le h.next

/-- The state of a pair that a call returned. -/
theorem State.Keeps.of_snd {α : Type} {p : α × State} {a : α} (h : s₀.Keeps p.2) (e : p = (a, s)) : s₀.Keeps s := by
  rw [e] at h
  exact h

theorem State.Keeps.of_fst {α : Type} {p : State × α} {a : α} (h : s₀.Keeps p.1) (e : p = (s, a)) : s₀.Keeps s := by
  rw [e] at h
  exact h

theorem State.Keeps.of_snd_snd {α β : Type} {p : α × β × State} {a : α} {b : β} (h : s₀.Keeps p.2.2) (e : p = (a, b, s)) : s₀.Keeps s := by
  rw [e] at h
  exact h

theorem State.Keeps.getD {x : Option State} (h : s₀.Keeps s) (g : ∀ t, x = some t → s₀.Keeps t) : s₀.Keeps (x.getD s) := by
  cases x with
  | none => exact h
  | some t => exact g t rfl

theorem State.Keeps.option_map_getD {x : Option State} {f : State → State} (h : s₀.Keeps s) (g : ∀ t, x = some t → s₀.Keeps (f t)) :
    s₀.Keeps ((x.map f).getD s) := by
  cases x with
  | none => exact h
  | some t => exact g t rfl

/-- A higher next number leaves the numbers in use below it. -/
theorem Mail.fresh_of_next {m : Mail} {n : Nat} (hn : m.nextId ≤ n) (h : m.fresh = true) : { m with nextId := n }.fresh = true := by
  obtain ⟨hbelow, hnodup, hcmds⟩ := (Mail.fresh_iff m).1 h
  exact (Mail.fresh_iff _).2 ⟨fun x hx => (hbelow x hx).trans_le hn, hnodup, fun x hx => (hcmds x hx).trans_le hn⟩

/-- The command that takes the next number. -/
theorem Mail.fresh_of_taken {m : Mail} {t : Taken} (ht : t.id = m.nextId) (h : m.fresh = true) :
    { m with nextId := m.nextId + 1, taken := m.taken ++ [t] }.fresh = true := by
  obtain ⟨hbelow, hnodup, hcmds⟩ := (Mail.fresh_iff m).1 h
  refine (Mail.fresh_iff _).2 ⟨fun x hx => ?_, ?_, fun x hx => (hcmds x hx).trans (Nat.lt_succ_self _)⟩
  · rcases List.mem_append.1 hx with hx | hx
    · exact (hbelow x hx).trans (Nat.lt_succ_self _)
    · rw [List.mem_singleton.1 hx, ht]
      exact Nat.lt_succ_self _
  · rw [List.map_append, List.nodup_append']
    refine ⟨hnodup, by simp, fun id hid hn => ?_⟩
    obtain ⟨x, hx, rfl⟩ := List.mem_map.1 hid
    have hlt := hbelow x hx
    simp only [List.map_cons, List.map_nil, List.mem_singleton] at hn
    omega

/-- Replacing a command in progress by one with its number keeps the numbers. -/
theorem Taken.ids_replace (l : List Taken) (t : Taken) : (l.map (fun x => if x.id = t.id then t else x)).map Taken.id = l.map Taken.id := by
  rw [List.map_map]
  refine List.map_congr_left fun x _ => ?_
  by_cases hx : x.id = t.id <;> simp [hx]

/-- A transfer armed belongs to its command, the others to those they had. -/
theorem xferPut_cmds (q : List Xfer) (x : Xfer) : (xferPut q x).map Xfer.cmd ⊆ x.cmd :: q.map Xfer.cmd := by
  unfold xferPut
  intro c hc
  obtain ⟨y, hy, rfl⟩ := List.mem_map.1 hc
  split at hy
  · obtain ⟨z, hz, rfl⟩ := List.mem_map.1 hy
    split
    · exact List.mem_cons_self
    · exact List.mem_cons_of_mem _ (List.mem_map_of_mem hz)
  · rcases List.mem_append.1 hy with hy | hy
    · exact List.mem_cons_of_mem _ (List.mem_map_of_mem hy)
    · exact List.mem_singleton.1 hy ▸ List.mem_cons_self

/-- Transfers armed for a command that s₀'s commands may bear the number of. -/
theorem State.Keeps.of_arm {id : Nat} {qi qo : List Xfer} (h : s₀.Keeps s) (ht : s₀.Owns id) (hin : qi.map Xfer.cmd ⊆ id :: s.mail.inq.map Xfer.cmd)
    (hout : qo.map Xfer.cmd ⊆ id :: s.mail.outq.map Xfer.cmd) : s₀.Keeps { s with mail := { s.mail with inq := qi, outq := qo } } := by
  refine ⟨h.arrays, fun ho => ?_, h.next⟩
  obtain ⟨hbelow, hnodup, hcmds⟩ := (Mail.fresh_iff _).1 (h.numbers ho)
  have hid := h.owns ht ho
  refine (Mail.fresh_iff _).2 ⟨hbelow, hnodup, fun x hx => ?_⟩
  rcases List.mem_append.1 hx with hx | hx
  · rcases List.mem_cons.1 (hin (List.mem_map_of_mem hx)) with hc | hc
    · exact hc ▸ hid
    · obtain ⟨y, hy, hc⟩ := List.mem_map.1 hc
      exact hc ▸ hcmds y (List.mem_append_left _ hy)
  · rcases List.mem_cons.1 (hout (List.mem_map_of_mem hx)) with hc | hc
    · exact hc ▸ hid
    · obtain ⟨y, hy, hc⟩ := List.mem_map.1 hc
      exact hc ▸ hcmds y (List.mem_append_right _ hy)

/-- Writing byte after byte keeps the canonical form. -/
theorem Mem.wf_foldl {α : Type} (l : List α) (f : Mem → α → Mem) (m : Mem) (hf : ∀ m x, Mem.wf m = true → Mem.wf (f m x) = true)
    (h : Mem.wf m = true) : Mem.wf (l.foldl f m) = true := by
  induction l generalizing m with
  | nil => exact h
  | cons x r ih => exact ih _ (hf m x h)

/-! ## The arrays -/

/-- What the canonical form of the arrays says, array by array. -/
theorem Mems.wf_iff (m : Mems) : m.wf = true ↔ (Mem.wf m.rows = true ∧ Mem.wf m.acc = true ∧ Mem.wf m.spd = true ∧ Mem.wf m.wshadow = true
    ∧ Mem.wf m.sshadow = true ∧ Mem.wf m.cirrus = true ∧ Mem.wf m.hbm = true ∧ Mem.wf m.pigeon = true ∧ Mem.wf m.hznRam = true)
      ∧ keysRise m.cirTrim = true ∧ ∀ e ∈ m.cirTrim, e.2 ≠ (0, 0) := by
  simp only [Mems.wf, Bool.and_eq_true, and_assoc, List.all_eq_true, decide_eq_true_eq]

section
variable {m : Mems} {x : Mem}

theorem Mems.wf_rows (hx : Mem.wf m.rows = true → Mem.wf x = true) (h : m.wf = true) : { m with rows := x }.wf = true := by
  simp only [Mems.wf_iff] at h ⊢
  grind

theorem Mems.wf_acc (hx : Mem.wf m.acc = true → Mem.wf x = true) (h : m.wf = true) : { m with acc := x }.wf = true := by
  simp only [Mems.wf_iff] at h ⊢
  grind

theorem Mems.wf_spd (hx : Mem.wf m.spd = true → Mem.wf x = true) (h : m.wf = true) : { m with spd := x }.wf = true := by
  simp only [Mems.wf_iff] at h ⊢
  grind

theorem Mems.wf_wshadow (hx : Mem.wf m.wshadow = true → Mem.wf x = true) (h : m.wf = true) : { m with wshadow := x }.wf = true := by
  simp only [Mems.wf_iff] at h ⊢
  grind

theorem Mems.wf_sshadow (hx : Mem.wf m.sshadow = true → Mem.wf x = true) (h : m.wf = true) : { m with sshadow := x }.wf = true := by
  simp only [Mems.wf_iff] at h ⊢
  grind

theorem Mems.wf_cirrus (hx : Mem.wf m.cirrus = true → Mem.wf x = true) (h : m.wf = true) : { m with cirrus := x }.wf = true := by
  simp only [Mems.wf_iff] at h ⊢
  grind

theorem Mems.wf_hbm (hx : Mem.wf m.hbm = true → Mem.wf x = true) (h : m.wf = true) : { m with hbm := x }.wf = true := by
  simp only [Mems.wf_iff] at h ⊢
  grind

theorem Mems.wf_pigeon (hx : Mem.wf m.pigeon = true → Mem.wf x = true) (h : m.wf = true) : { m with pigeon := x }.wf = true := by
  simp only [Mems.wf_iff] at h ⊢
  grind

theorem Mems.wf_hznRam (hx : Mem.wf m.hznRam = true → Mem.wf x = true) (h : m.wf = true) : { m with hznRam := x }.wf = true := by
  simp only [Mems.wf_iff] at h ⊢
  grind

end

/-- Leaving out entries keeps the canonical form. -/
theorem Mem.wf_filter (p : Nat × Byte → Bool) (m : Mem) (h : Mem.wf m = true) : Mem.wf (m.filter p) = true := by
  rw [Mem.wf_iff] at *
  exact ⟨keysRise_sublist List.filter_sublist h.1, fun e he => h.2 e (List.mem_of_mem_filter he)⟩

/-- The two RAMs of the host's side, each cleared or kept when a domain wakes. -/
theorem Mems.wf_wake {m : Mems} {x y : Mem} (hx : Mem.wf m.hznRam = true → Mem.wf x = true) (hy : Mem.wf m.pigeon = true → Mem.wf y = true)
    (h : m.wf = true) : { m with hznRam := x, pigeon := y }.wf = true := by
  simp only [Mems.wf_iff] at h ⊢
  grind

/-- What a reset leaves of the arrays: MRAM, HBM, and the part of Horizon's RAM that keeps the event queue. -/
theorem Mems.wf_reset {m : Mems} {p : Nat × Byte → Bool} (h : m.wf = true) :
    { m with rows := [], acc := [], spd := [], pigeon := [], hznRam := m.hznRam.filter p }.wf = true := by
  simp only [Mems.wf_iff] at h ⊢
  obtain ⟨⟨-, -, -, hwsh, hssh, hcir, hhbm, -, hhzn⟩, htrim⟩ := h
  exact ⟨⟨Mem.wf_nil, Mem.wf_nil, Mem.wf_nil, hwsh, hssh, hcir, hhbm, Mem.wf_nil, Mem.wf_filter _ _ hhzn⟩, htrim⟩

/-- Setting a chain's trims keeps the canonical form: trims of 0 are left out. -/
theorem Mems.wf_cirTrim {m : Mems} {a : Nat} {v : Nat × Nat} (h : m.wf = true) : { m with cirTrim := SMap.set (0, 0) m.cirTrim a v }.wf = true := by
  simp only [Mems.wf_iff] at h ⊢
  obtain ⟨hmem, hrise, hne⟩ := h
  refine ⟨hmem, keysRise_set _ _ _ _ hrise, fun e he => ?_⟩
  unfold SMap.set at he
  split at he
  · exact hne e ((SMap.erase_sublist _ _).mem he)
  · rcases (SMap.mem_insert _ _ _ _).1 he with rfl | he
    · assumption
    · exact hne e ((SMap.erase_sublist _ _).mem he)

end

section
variable {s₀ s : State} {pending : List Instr} {free : Nat} {now : Nat} {regs : SMap Word} {latch : SMap Word} {busRead : Word} {pins : Pins} {chip : Chip}
    {flips : Flips}
    {macros : SMap MacroX} {blocks : SMap BlockX} {regions : SMap RegionX} {net : List Msg} {mesh : Mesh} {img : List Byte} {sets : List ResultSet} {on :
    Nat} {power : Power} {errs : Errs} {pml : Pml} {cad : Cad} {job : Job} {hbmQ : SMap (List HbmReq)} {hbmPos : SMap Nat} {cour : Cour} {sdio : Sdio}
    {store : Store} {nim : Nim} {hzn : Hzn} {bist : Bist} {tap : Tap}

/-- A state with the same arrays and the same mailbox, whatever else has changed. -/
theorem State.Keeps.frame (h : s₀.Keeps s) : s₀.Keeps
    { s with
      pending := pending, free := free, now := now, regs := regs, latch := latch, busRead := busRead, pins := pins, chip := chip, flips := flips,
      macros := macros, blocks := blocks, regions := regions, net := net, mesh := mesh, img := img, sets := sets, on := on, power := power, errs := errs,
      pml := pml, cad := cad, job := job, hbmQ := hbmQ, hbmPos := hbmPos, cour := cour, sdio := sdio, store := store, nim := nim, hzn := hzn, bist := bist,
      tap := tap } :=
  ⟨h.arrays, h.numbers, h.next⟩

/-- A state whose mailbox has the same commands in progress, the same transfers and the same next number. -/
theorem State.Keeps.frameMail {sess : Bool} {ver expSeq mask : Nat} {replies : List (List Byte)} {posts : List EvPost} (h : s₀.Keeps s) : s₀.Keeps
    { s with
      pending := pending, free := free, now := now, regs := regs, latch := latch, busRead := busRead, pins := pins, chip := chip, flips := flips,
      macros := macros, blocks := blocks, regions := regions, net := net, mesh := mesh, img := img, sets := sets, on := on, power := power, errs := errs,
      pml := pml, cad := cad, job := job, hbmQ := hbmQ, hbmPos := hbmPos, cour := cour, sdio := sdio, store := store, nim := nim, hzn := hzn, bist := bist,
      tap := tap, mail := { s.mail with sess := sess, ver := ver, expSeq := expSeq, mask := mask, replies := replies, posts := posts } } :=
  ⟨h.arrays, h.numbers, h.next⟩

/-- A state whose arrays keep the canonical form. -/
theorem State.Keeps.setMem {mem : Mems} (h : s₀.Keeps s) (hmem : s.mem.wf = true → mem.wf = true) : s₀.Keeps
    { s with
      pending := pending, free := free, now := now, regs := regs, latch := latch, busRead := busRead, pins := pins, chip := chip, flips := flips,
      macros := macros, blocks := blocks, regions := regions, net := net, mesh := mesh, img := img, sets := sets, on := on, power := power, errs := errs,
      pml := pml, cad := cad, job := job, hbmQ := hbmQ, hbmPos := hbmPos, cour := cour, sdio := sdio, store := store, nim := nim, hzn := hzn, bist := bist,
      tap := tap, mem := mem } :=
  ⟨hmem ∘ h.arrays, h.numbers, h.next⟩

/-- A state whose commands in progress keep numbers of their own. -/
theorem State.Keeps.setMail {mail : Mail} (h : s₀.Keeps s) (hnum : s.mail.fresh = true → mail.fresh = true)
    (hnext : s.mail.nextId ≤ mail.nextId) : s₀.Keeps
    { s with
      pending := pending, free := free, now := now, regs := regs, latch := latch, busRead := busRead, pins := pins, chip := chip, flips := flips,
      macros := macros, blocks := blocks, regions := regions, net := net, mesh := mesh, img := img, sets := sets, on := on, power := power, errs := errs,
      pml := pml, cad := cad, job := job, hbmQ := hbmQ, hbmPos := hbmPos, cour := cour, sdio := sdio, store := store, nim := nim, hzn := hzn, bist := bist,
      tap := tap, mail := mail } :=
  ⟨h.arrays, hnum ∘ h.numbers, h.next.trans hnext⟩

end

end Sys2Proof.Machine
end

section
/-! SUPPORT. What every function of the registers and their flags keeps. -/

namespace Sys2Proof.Machine

section
variable {s₀ s : State}

theorem State.Keeps.setReg {a : ℕ} {w : Word} (h : s₀.Keeps s) : s₀.Keeps (s.setReg a w) := h.frame

theorem State.Keeps.setF {base : ℕ} {f : Fld} {v : ℕ} (h : s₀.Keeps s) : s₀.Keeps (s.setF base f v) := h.setReg

theorem State.Keeps.addF {base : ℕ} {f : Fld} {k : ℕ} (h : s₀.Keeps s) : s₀.Keeps (s.addF base f k) := h.setF

theorem State.Keeps.flagF {base : ℕ} {f : Fld} (h : s₀.Keeps s) : s₀.Keeps (s.flagF base f) := h.setF

theorem State.Keeps.plainWrite {a v : ℕ} (h : s₀.Keeps s) : s₀.Keeps (s.plainWrite a v) := by
  unfold State.plainWrite
  split
  · exact h.setReg
  · exact h

theorem State.Keeps.setBx {b : ℕ} {x : BlockX} (h : s₀.Keeps s) : s₀.Keeps (s.setBx b x) := h.frame

theorem State.Keeps.setMx {m : ℕ} {x : MacroX} (h : s₀.Keeps s) : s₀.Keeps (s.setMx m x) := h.frame

theorem State.Keeps.setRx {r : ℕ} {x : RegionX} (h : s₀.Keeps s) : s₀.Keeps (s.setRx r x) := h.frame

theorem State.Keeps.takeFree (h : s₀.Keeps s) : s₀.Keeps (s.takeFree).2 := h.frame

theorem State.Keeps.addFl {b : ℕ} {f : Fl} (h : s₀.Keeps s) : s₀.Keeps (s.addFl b f) :=
  .ite (.ite (.ite (.ite h h.flagF.addF) (.addF (.flagF (.ite h h.flagF.addF)))) (.addF (.flagF (.ite (.ite h h.flagF.addF) (.addF (.flagF (.ite h
    h.flagF.addF))))))) (.addF (.flagF (.ite (.ite (.ite h h.flagF.addF) (.addF (.flagF (.ite h h.flagF.addF)))) (.addF (.flagF (.ite (.ite h h.flagF.addF)
      (.addF (.flagF (.ite h h.flagF.addF)))))))))

end

end Sys2Proof.Machine
end

section
/-! SUPPORT. What every function of the shared operations on a state keeps. -/

namespace Sys2Proof.Machine

section
variable {s₀ s : State}

theorem State.Keeps.at {t : ℕ} (h : s₀.Keeps s) : s₀.Keeps (s.at t) := h.frame

theorem State.Keeps.setSlot {n : ℕ} (h : s₀.Keeps s) : s₀.Keeps (s.setSlot n) := h.setF.setF

theorem State.Keeps.postEvent {code source arg : ℕ} {pm : Bool} (h : s₀.Keeps s) : s₀.Keeps (s.postEvent code source arg pm) := .ite h.frameMail h

theorem State.Keeps.setInt {b : ℕ} (h : s₀.Keeps s) : s₀.Keeps (s.setInt b) := h.frame

theorem State.Keeps.tally {ch k : ℕ} (h : s₀.Keeps s) : s₀.Keeps (s.tally ch k) := h.frame

theorem State.Keeps.pmDrop (h : s₀.Keeps s) : s₀.Keeps (s.pmDrop) := h.frame.addF.flagF

theorem State.Keeps.pmSubmit {p : PmSub} (h : s₀.Keeps s) : s₀.Keeps (s.pmSubmit p) := .ite h.pmDrop h.frame

theorem State.Keeps.pmPosted {slot store source : ℕ} (h : s₀.Keeps s) : s₀.Keeps (s.pmPosted slot store source) := h.postEvent

theorem State.Keeps.pmAbort (h : s₀.Keeps s) : s₀.Keeps (s.pmAbort) := h.frame

theorem State.Keeps.pmPlace {rec : List Byte} {fatal : Bool} {source : ℕ} (h : s₀.Keeps s) : s₀.Keeps (s.pmPlace rec fatal source) := h.frame.pmPosted

theorem State.Keeps.pmCount (h : s₀.Keeps s) : s₀.Keeps (s.pmCount) := h.frame

theorem State.Keeps.pmCommit {p : PmSub} (h : s₀.Keeps s) : s₀.Keeps (s.pmCommit p) := h.pmPlace.pmCount

theorem State.Keeps.pmWord {p : PmSub} (h : s₀.Keeps s) : s₀.Keeps (s.pmWord p) := .pmPosted (.frame (.ite h.pmCount.pmDrop h.pmCount))

theorem State.Keeps.pmCopyWords (h : s₀.Keeps s) : s₀.Keeps (s.pmCopyWords) := .ite ((h.foldl fun _ _ h => h.pmPlace).frame) h

theorem State.Keeps.setCtx {b c : ℕ} {x : Ctx} (h : s₀.Keeps s) : s₀.Keeps (s.setCtx b c x) := h.setBx

theorem State.Keeps.faultCtx {b c cls : ℕ} (h : s₀.Keeps s) : s₀.Keeps (s.faultCtx b c cls) := .ite h h.setBx.setCtx

theorem State.Keeps.noteEnded {l : List ResultSet} (h : s₀.Keeps s) : s₀.Keeps (s.noteEnded l) := h.frame

theorem State.Keeps.stopContexts {keep : Bool} (h : s₀.Keeps s) : s₀.Keeps (s.stopContexts keep) := h.frame

theorem State.Keeps.powerUp {d : ℕ} (h : s₀.Keeps s) : s₀.Keeps (s.powerUp d) := .ite h h.frame

theorem State.Keeps.powerAsk {d : ℕ} (h : s₀.Keeps s) : s₀.Keeps (s.powerAsk d) := .ite h.powerUp (.ite h h.frame)

theorem State.Keeps.hznWake {mask : ℕ} (h : s₀.Keeps s) : s₀.Keeps (s.hznWake mask).1 := (h.foldl fun _ _ h => h.powerAsk).setF

theorem State.Keeps.hbmWr {a : Nat} {bs : List Byte} (h : s₀.Keeps s) : s₀.Keeps (s.hbmWr a bs) :=
  h.setMem (Mems.wf_hbm (Mem.wf_wrN _ _ _))

theorem State.Keeps.spdWr {b p : Nat} {bs : List Byte} (h : s₀.Keeps s) : s₀.Keeps (s.spdWr b p bs) :=
  h.setMem (Mems.wf_spd (Mem.wf_wrN _ _ _))

theorem State.Keeps.rowWr {m r p : Nat} {bs : List Byte} (h : s₀.Keeps s) : s₀.Keeps (s.rowWr m r p bs) :=
  h.setMem (Mems.wf_rows (Mem.wf_wrN _ _ _))

end

end Sys2Proof.Machine
end

section
/-! SUPPORT. What every function of Pigeonhole keeps. -/

namespace Sys2Proof.Machine

section
variable {s₀ s : State}

theorem State.Keeps.pghRefuse {m off wr : ℕ} (h : s₀.Keeps s) : s₀.Keeps (s.pghRefuse m off wr) :=
  .ite (.setInt (.setF (.ite h.setF.setF.setF h))) (.setF (.ite h.setF.setF.setF h))

theorem State.Keeps.hznRefuse {m off wr : ℕ} (h : s₀.Keeps s) : s₀.Keeps (s.hznRefuse m off wr) :=
  .ite (.setInt (.setF (.ite h.setF.setF.setF h))) (.setF (.ite h.setF.setF.setF h))

theorem State.Keeps.pghRead {m view off : ℕ} (h : s₀.Keeps s) : s₀.Keeps (s.pghRead m view off).2 := .ite_snd h h.pghRefuse

theorem State.Keeps.pghWrite {m view off : Nat} {x : Byte} (h : s₀.Keeps s) : s₀.Keeps (s.pghWrite m view off x) :=
  .ite (h.setMem (Mems.wf_pigeon (Mem.wf_wr _ _ _))) h.pghRefuse

theorem State.Keeps.pghNote {m off n : ℕ} (h : s₀.Keeps s) : s₀.Keeps (s.pghNote m off n) := by
  unfold State.pghNote
  refine .ite h ?_
  split
  · exact h.pghRefuse
  · exact h

theorem State.Keeps.pghPut {m off : Nat} {d : List Byte} (h : s₀.Keeps s) : s₀.Keeps (s.pghPut m off d) :=
  .ite (h.setMem (Mems.wf_pigeon (Mem.wf_wrN _ _ _))) (h.foldl fun _ _ h => h.pghWrite)

theorem State.Keeps.hznRead {m off : ℕ} (h : s₀.Keeps s) : s₀.Keeps (s.hznRead m off).2 := .ite_snd h (.ite_snd h h.hznRefuse)

theorem State.Keeps.hznPut {m off : Nat} {d : List Byte} (h : s₀.Keeps s) : s₀.Keeps (s.hznPut m off d) :=
  .ite h (.ite (h.setMem (Mems.wf_hznRam (Mem.wf_wrN _ _ _))) h.hznRefuse)

theorem State.Keeps.collEngine {word kind : ℕ} (h : s₀.Keeps s) : s₀.Keeps (s.collEngine word kind) := h.frame.setInt

theorem State.Keeps.collCasec {word kind : ℕ} (h : s₀.Keeps s) : s₀.Keeps (s.collCasec word kind) := .addF (.setF (.ite h h.setF.setF.setF))

end

end Sys2Proof.Machine
end

section
/-! SUPPORT. What every function of the mailbox keeps. -/

namespace Sys2Proof.Machine

section
variable {s₀ s : State}

theorem State.Keeps.setF2 {b : ℕ} (h : s₀.Keeps s) : s₀.Keeps (s.setF2 b) := h.frame

theorem State.Keeps.setOutq {q : List Xfer} (h : s₀.Keeps { s with mail := { s.mail with outq := q } }) : s₀.Keeps (s.setOutq q) := .ite h.setF2 h

theorem State.Keeps.armIn {id len : Nat} (h : s₀.Keeps s) (ht : s₀.Owns id) : s₀.Keeps (s.armIn id len) :=
  h.of_arm ht (xferPut_cmds _ _) (List.subset_cons_self _ _)

theorem State.Keeps.armOut {id : Nat} {data : List Byte} (h : s₀.Keeps s) (ht : s₀.Owns id) : s₀.Keeps (s.armOut id data) :=
  State.Keeps.setOutq (h.of_arm ht (List.subset_cons_self _ _) (xferPut_cmds _ _))

theorem State.Keeps.holdIn {id : ℕ} (h : s₀.Keeps s) (ht : s₀.Owns id) : s₀.Keeps (s.holdIn id) := h.armIn ht

theorem State.Keeps.holdOut {id : ℕ} (h : s₀.Keeps s) (ht : s₀.Owns id) : s₀.Keeps (s.holdOut id) := h.armOut ht

theorem State.Keeps.queueReply {op tag seq status : ℕ} {res : List Byte} (h : s₀.Keeps s) : s₀.Keeps (s.queueReply op tag seq status res) := h.frameMail

theorem State.Keeps.finish {id status : Nat} {res : List Byte} (h : s₀.Keeps s) : s₀.Keeps (s.finish id status res) := by
  unfold State.finish
  split
  · refine .setOutq (.setMail (.setMail h.queueReply (Mail.fresh_of_subset rfl (List.filter_sublist.map _) (List.filter_sublist.map _).subset
      (List.Subset.refl _)) le_rfl) (Mail.fresh_of_subset rfl (.refl _) (List.Subset.refl _) (List.filter_sublist.map _).subset) le_rfl)
  · exact h

theorem State.Keeps.finishOpt {id : Option ℕ} {status : ℕ} {res : List Byte} (h : s₀.Keeps s) : s₀.Keeps (s.finishOpt id status res) := by
  unfold State.finishOpt
  split
  · exact h.finish
  · exact h

theorem State.Keeps.replyPending {t : Taken} (h : s₀.Keeps s) : s₀.Keeps (s.replyPending t) := h.queueReply

theorem State.Keeps.setTaken {t : Taken} (h : s₀.Keeps s) : s₀.Keeps (s.setTaken t) :=
  h.setMail (Mail.fresh_of_subset rfl (by rw [Taken.ids_replace]) (List.Subset.refl _) (List.Subset.refl _)) le_rfl

theorem State.Keeps.noStaged (h : s₀.Keeps s) : s₀.Keeps (s.noStaged) := h.frame

theorem State.Keeps.endRefused (h : s₀.Keeps s) : s₀.Keeps (s.endRefused) := h.foldl fun _ _ h => .finish (.ite h.noStaged h)

theorem State.Keeps.mailReset {closeSession : Bool} {s0 : State} (h : s₀.Keeps s0) : s₀.Keeps (s0.mailReset closeSession) := by
  have hjob : s₀.Keeps (if s0.mail.taken.any (fun t => decide (t.op = 0x0501)) then s0.noStaged else s0) := .ite h.noStaged h
  exact hjob.setMail (Mail.fresh_of_subset rfl (List.nil_sublist _) (List.nil_subset _) (List.nil_subset _)) le_rfl

end

end Sys2Proof.Machine
end

section
/-! SUPPORT. What every function of the end of a self-test slice keeps. -/

namespace Sys2Proof.Machine

section
variable {s₀ s : State}

theorem State.Keeps.setSlice {q : Option Slice} (h : s₀.Keeps s) : s₀.Keeps (s.setSlice q) := h.frame

theorem State.Keeps.moveCursors {q : Slice} (h : s₀.Keeps s) : s₀.Keeps (s.moveCursors q) := h.frame

theorem State.Keeps.sliceDrop (h : s₀.Keeps s) : s₀.Keeps (s.sliceDrop) := by
  unfold State.sliceDrop
  split
  · exact h.setSlice
  · exact h

theorem State.Keeps.sliceLeave {answer : Bool} (h : s₀.Keeps s) : s₀.Keeps (s.sliceLeave answer) := by
  unfold State.sliceLeave
  split
  · exact .ite h.moveCursors.setSlice (.ite h.moveCursors.setSlice.finishOpt h.moveCursors.setSlice)
  · exact h

theorem State.Keeps.goChip {st : ChipSt} (h : s₀.Keeps s) : s₀.Keeps (s.goChip st) := .setInt (.postEvent (.frame (.ite h h.sliceLeave)))

end

end Sys2Proof.Machine
end

section
/-! SUPPORT. What every function of errors keeps. -/

namespace Sys2Proof.Machine

section
variable {s₀ s : State}

theorem State.Keeps.faultLeave {e : FaultEnt} (h : s₀.Keeps s) : s₀.Keeps (s.faultLeave e) := .ite h.pmSubmit h

theorem State.Keeps.casecRecord {fid n : Nat} (h : s₀.Keeps s) : s₀.Keeps (s.casecRecord fid n) := by
  unfold State.casecRecord
  split
  · exact h.frame
  · extract_lets _ s1 _ s2
    have h1 : s₀.Keeps s1 := by
      unfold s1
      split
      · exact .ite h.faultLeave.frame h
      · exact h
    have h2 : s₀.Keeps s2 := h1.frame
    exact .ite h h2.pmSubmit.postEvent

theorem State.Keeps.faultFlush (h : s₀.Keeps s) : s₀.Keeps (s.faultFlush) := (h.foldl fun _ _ h => h.faultLeave).frame

theorem State.Keeps.reportUp {r fid : ℕ} (h : s₀.Keeps s) : s₀.Keeps (s.reportUp r fid) := .ite h.setRx (.ite h.setRx.casecRecord h.addF)

theorem State.Keeps.abandonSecuring (h : s₀.Keeps s) : s₀.Keeps (s.abandonSecuring) := .ite h.frame.flagF.addF.casecRecord h.frame

theorem State.Keeps.dropRequest (h : s₀.Keeps s) : s₀.Keeps (s.dropRequest) := by
  unfold State.dropRequest
  extract_lets s1
  have h1 : s₀.Keeps s1 := h.setF
  exact h1.frame

theorem State.Keeps.endSets {status : ℕ} (h : s₀.Keeps s) : s₀.Keeps (s.endSets status) := h.frame

theorem State.Keeps.cancelFetches (h : s₀.Keeps s) : s₀.Keeps (s.cancelFetches) := by
  unfold State.cancelFetches
  refine h.foldl fun _ _ h => ?_
  split
  · exact .ite h h.finish
  · exact h

theorem State.Keeps.enterFaulted {ended : Bool} (h : s₀.Keeps s) : s₀.Keeps (s.enterFaulted ended) := by
  unfold State.enterFaulted
  extract_lets s1 _ _ s2 p s3 _ s4 _ s5
  have h1 : s₀.Keeps s1 := h.noteEnded.stopContexts.endSets.abandonSecuring.dropRequest.goChip
  have h2 : s₀.Keeps s2 := h1.frame
  have h3 : s₀.Keeps s3 := h2.pmSubmit.faultFlush
  have h4 : s₀.Keeps s4 := h3.frame
  have h5 : s₀.Keeps s5 := h4.frame.foldl fun _ _ h => h.finishOpt
  exact h5.cancelFetches.endRefused.hznWake

theorem State.Keeps.raiseChip {fid : ℕ} (h : s₀.Keeps s) : s₀.Keeps (s.raiseChip fid) := by
  unfold State.raiseChip
  refine .ite ?_ h.casecRecord
  split
  · exact h.casecRecord.frame
  · exact .ite h.casecRecord.frame h.casecRecord.enterFaulted

theorem State.Keeps.fence {b cls : ℕ} (h : s₀.Keeps s) : s₀.Keeps (s.fence b cls) := ((h.foldl fun _ _ h => .ite h.faultCtx h).setF).setF

theorem State.Keeps.raiseRegion {r fid : ℕ} {blk : Option ℕ} (h : s₀.Keeps s) : s₀.Keeps (s.raiseRegion r fid blk) := by
  unfold State.raiseRegion
  refine .ite (.ite h.addF h.flagF.raiseChip) ?_
  dsimp only
  split
  · exact .fence (.ite h.setF.setF.flagF.setF.flagF h.setF.setF.flagF.setF)
  · exact .ite h.setF.setF.flagF.setF.flagF h.setF.setF.flagF.setF

theorem State.Keeps.raiseBlockId {b fid ctx opIndex : ℕ} (h : s₀.Keeps s) : s₀.Keeps (s.raiseBlockId b fid ctx opIndex) := by
  unfold State.raiseBlockId
  refine .ite ?_ h.setF.setF.setF.flagF.setBx.reportUp
  split
  · exact .ite h.setBx h.flagF.raiseRegion
  · exact h.flagF.raiseRegion

theorem State.Keeps.raiseBlock {b unit cls ctx opIndex : ℕ} (h : s₀.Keeps s) : s₀.Keeps (s.raiseBlock b unit cls ctx opIndex) := h.raiseBlockId

theorem State.Keeps.raiseMacro {m cls : ℕ} (h : s₀.Keeps s) : s₀.Keeps (s.raiseMacro m cls) := by
  unfold State.raiseMacro
  dsimp only
  split
  · exact .ite h.setMx (.ite (h.raiseBlockId.foldl fun _ _ h => h.faultCtx) h.raiseBlockId)
  · exact .reportUp (.ite h.setMx h)

theorem State.Keeps.chipEvent {level unit cls : ℕ} (h : s₀.Keeps s) : s₀.Keeps (s.chipEvent level unit cls) := h.casecRecord

theorem State.Keeps.serviceBlock {b : ℕ} (h : s₀.Keeps s) : s₀.Keeps (s.serviceBlock b) := by
  unfold State.serviceBlock
  refine .ite (.setBx (.setF ?_)) h
  split
  · exact h.casecRecord
  · exact h

theorem State.Keeps.serviceRegion {r : ℕ} (h : s₀.Keeps s) : s₀.Keeps (s.serviceRegion r) :=
  .setRx (.foldl (.ite h.casecRecord.setF.setF h) fun _ _ h => h.casecRecord)

theorem State.Keeps.faultService (h : s₀.Keeps s) : s₀.Keeps (faultService s) :=
  .ite h (h.foldl fun _ _ h => (h.foldl fun _ _ h => h.serviceBlock).serviceRegion)

end

end Sys2Proof.Machine
end

section
/-! SUPPORT. What every function of the clocks of the regions keeps. -/

namespace Sys2Proof.Machine

section
variable {s₀ s : State}

theorem State.Keeps.measureLdo {r n : ℕ} (h : s₀.Keeps s) : s₀.Keeps (s.measureLdo r n) := h.takeFree.setF

theorem State.Keeps.startStep {r n : ℕ} (h : s₀.Keeps s) : s₀.Keeps (s.startStep r n) := .ite h (.ite h.setRx.setF.setF h.setRx.setF)

theorem State.Keeps.aimStep {r n : ℕ} (h : s₀.Keeps s) : s₀.Keeps (s.aimStep r n) := .ite h (.ite h.setRx h.startStep)

theorem State.Keeps.aclkWrite {r v : ℕ} (h : s₀.Keeps s) : s₀.Keeps (aclkWrite s r v) :=
  .ite (.ite (.setF (.ite h.setF h)) (.ite h.setF h)) (.ite (.aimStep (.setF (.ite (.setF (.ite h.setF h)) (.ite h.setF h)))) (.flagF (.ite (.setF (.ite
    h.setF h)) (.ite h.setF h))))

theorem State.Keeps.synthLocked {r : ℕ} (h : s₀.Keeps s) : s₀.Keeps (synthLocked s r) := by
  unfold Machine.synthLocked
  split
  · exact .ite h.setRx.setF.setF h.setRx
  · exact h

theorem State.Keeps.ldoSettledEff {r : ℕ} (h : s₀.Keeps s) : s₀.Keeps (ldoSettledEff s r) := by
  unfold Machine.ldoSettledEff
  split
  · dsimp only
    split
    · exact h.setF.setF.setF.measureLdo.setRx.startStep
    · exact h.setF.setF.setF.measureLdo.setRx
  · exact h

theorem State.Keeps.wakeClock {r : ℕ} (h : s₀.Keeps s) : s₀.Keeps (s.wakeClock r) := .measureLdo (.setF (.setRx (.ite h.setF.setF h.setF.setF.flagF)))

theorem State.Keeps.stopClock {r : ℕ} (h : s₀.Keeps s) : s₀.Keeps (s.stopClock r) := h.setRx.setF.setF

theorem State.Keeps.govPlane {b cyc activity : ℕ} (h : s₀.Keeps s) : s₀.Keeps (s.govPlane b cyc activity) := by
  unfold State.govPlane
  dsimp only
  split
  · exact .ite h.setRx.addF.tally h.setRx
  · exact h.setRx

theorem State.Keeps.noteResume {r cyc : ℕ} (h : s₀.Keeps s) : s₀.Keeps (s.noteResume r cyc) := h.setRx

theorem State.Keeps.resumeHeld {b : ℕ} {l : List (ℕ × ℕ × ℕ)} (h : s₀.Keeps s) : s₀.Keeps (s.resumeHeld b l) := by
  unfold State.resumeHeld
  dsimp only
  split
  · exact h
  · exact .foldl (.ite (.addF (.ite h.noteResume h)) (.ite h.noteResume h)) fun _ _ h => h.govPlane.setBx

theorem State.Keeps.windowEnd {r : ℕ} (h : s₀.Keeps s) : s₀.Keeps (windowEnd s r) :=
  .foldl (.foldl (.setRx (.ite h.takeFree.addF h)) fun _ _ h => h.govPlane) fun _ _ h => h.resumeHeld

theorem State.Keeps.ldoOor {r : ℕ} (h : s₀.Keeps s) : s₀.Keeps (ldoOor s r) := .ite h.flagF.raiseRegion h

end

end Sys2Proof.Machine
end

section
/-! SUPPORT. What every function of power and resets keeps. -/

namespace Sys2Proof.Machine

section
variable {s₀ s : State}

theorem State.Keeps.dropRegs {d : ℕ} (h : s₀.Keeps s) : s₀.Keeps (s.dropRegs d) := h.frame

theorem State.Keeps.saveBlock {b : ℕ} (h : s₀.Keeps s) : s₀.Keeps (s.saveBlock b) := h.frame

theorem State.Keeps.loadBlock {b : ℕ} (h : s₀.Keeps s) : s₀.Keeps (s.loadBlock b) := h.setBx.foldl fun _ _ h => .ite h h.setReg

theorem State.Keeps.dropMacros {r : Nat} (h : s₀.Keeps s) : s₀.Keeps (s.dropMacros r) :=
  h.setMem fun hm => Mems.wf_acc (m := { s.mem with rows := _ }) (Mem.wf_clear _ _ _) (Mems.wf_rows (Mem.wf_clear _ _ _) hm)

theorem State.Keeps.portStart {p : ℕ} (h : s₀.Keeps s) : s₀.Keeps (s.portStart p) := h.frame.setF

theorem State.Keeps.inboxLeft {p : ℕ} (h : s₀.Keeps s) : s₀.Keeps (s.inboxLeft p) := h.frame

theorem State.Keeps.portOff {p : ℕ} {s0 : State} (h : s₀.Keeps s0) : s₀.Keeps (s0.portOff p) := by
  unfold State.portOff
  extract_lets s
  have h : s₀.Keeps s := h.inboxLeft
  exact h.frame.setF

theorem State.Keeps.domainCut {d : Nat} (h : s₀.Keeps s) : s₀.Keeps (s.domainCut d) := by
  unfold State.domainCut
  have h1 : s₀.Keeps (if 4 ≤ d ∧ d < 20 then ((rgnBlocks (d - 4)).foldl State.saveBlock s).stopClock (d - 4) else s) :=
    .ite (h.foldl fun _ _ h => h.saveBlock).stopClock h
  extract_lets s1 _ _ s2 s3 r s4
  have h2 : s₀.Keeps s2 := h1.frame
  have h4 : s₀.Keeps s4 := h2.foldl fun _ _ h => h.setBx
  exact .ite (h2.dropMacros.foldl fun _ _ h => h.setBx) (.ite (h4.setMem (Mems.wf_spd (Mem.wf_clear _ _ _)))
    (.ite (h2.setMem (Mems.wf_pigeon fun _ => Mem.wf_nil)) (.ite h2.frame (.ite (h2.foldl fun _ _ h => h.portOff) (.ite h2.pmAbort.frame h2)))))

theorem State.Keeps.domainOff {d : ℕ} (h : s₀.Keeps s) : s₀.Keeps (s.domainOff d) := .ite h.domainCut.sliceDrop h

theorem State.Keeps.domainOn {d : Nat} (h : s₀.Keeps s) : s₀.Keeps (s.domainOn d) := by
  unfold State.domainOn
  extract_lets _ _ s0 s1 _ s2 s3
  have h0 : s₀.Keeps s0 := h.dropRegs.frame
  have h1 : s₀.Keeps s1 := h0.setF.setF
  have h2 : s₀.Keeps s2 := h1.setF.setF
  have h3 : s₀.Keeps s3 := .ite h2.flagF h2
  refine .ite (h1.setMem fun hm => ?_) (.ite h3.frame.pmCopyWords (.ite h1.setF (.ite (h1.foldl fun _ _ h => h.portStart)
    (.ite h1.wakeClock.addF (.ite h1.addF h1)))))
  refine Mems.wf_wake (fun hz => ?_) (fun hp => ?_) hm
  · split
    · exact Mem.wf_filter _ _ hz
    · exact hz
  · split
    · exact Mem.wf_nil
    · exact hp

theorem State.Keeps.pwrRun {n : Nat} (h : s₀.Keeps s) : s₀.Keeps (s.pwrRun n) := by
  induction n generalizing s with
  | zero => exact h
  | succ n ih =>
    unfold State.pwrRun
    split
    · exact .ite h.finishOpt.frame h
    · exact .ite h (ih (State.Keeps.powerUp h.frame))
    · exact .ite h (ih (State.Keeps.domainOff h.frame))

theorem State.Keeps.pwrGo (h : s₀.Keeps s) : s₀.Keeps (s.pwrGo) := h.pwrRun

theorem State.Keeps.pwrPlan {mask value : Nat} {cmd : Option Nat} {t : State} (h : s₀.Keeps s) (e : s.pwrPlan mask value cmd = some t) : s₀.Keeps t := by
  unfold State.pwrPlan at e
  dsimp only at e
  split at e
  · cases e
    exact h.setReg.setReg.frame.pwrGo
  · cases e

theorem State.Keeps.pwrReqEff {hi : Bool} {v : Nat} (h : s₀.Keeps s) : s₀.Keeps (pwrReqEff s hi v) := by
  unfold Machine.pwrReqEff
  split
  · dsimp only
    split
    · next e => exact h.pwrPlan e
    · exact h.flagF
  · exact h

theorem State.Keeps.chipReset (h : s₀.Keeps s) : s₀.Keeps s.chipReset := by
  unfold State.chipReset
  extract_lets keepReg _ _ _ _ _ _ _ s1 s2 s3
  have h1 : s₀.Keeps s1 := h.setMem Mems.wf_reset
  have h3 : s₀.Keeps s3 := (State.Keeps.mailReset (closeSession := true) h1).frame
  exact .setF (.ite h3 (.setInt h3.postEvent))

theorem State.Keeps.chipRise {cause strapBoot strapIo18 feedtag : ℕ} (h : s₀.Keeps s) : s₀.Keeps (s.chipRise cause strapBoot strapIo18 feedtag) :=
  h.frame.setF.setF.setF

theorem State.Keeps.chipRstWrite {v : ℕ} (h : s₀.Keeps s) : s₀.Keeps (chipRstWrite s v) := .ite h.frame h

end

end Sys2Proof.Machine
end

section
/-! SUPPORT. What every function of the mesh keeps. -/

namespace Sys2Proof.Machine

section
variable {s₀ s : State}

theorem State.Keeps.dropMsg {k : ℕ} (h : s₀.Keeps s) : s₀.Keeps (s.dropMsg k) := by
  unfold State.dropMsg
  split
  · exact h.frame
  · exact h

theorem State.Keeps.countFlits {path : List (ℕ × ℕ)} {n : ℕ} (h : s₀.Keeps s) : s₀.Keeps (s.countFlits path n) := h.frame

theorem State.Keeps.send {src dst blk : Nat} {b : Body} (h : s₀.Keeps s) : s₀.Keeps (s.send src dst blk b) := by
  unfold State.send
  extract_lets path m s1 s2
  have h1 : s₀.Keeps s1 := .ite h h.countFlits
  have h2 : s₀.Keeps s2 := h.countFlits
  exact .ite h1.frame h2.frame

theorem State.Keeps.cutNet (h : s₀.Keeps s) : s₀.Keeps (s.cutNet) := h.frame

theorem State.Keeps.eccWord {fl : List ℕ} {w : ℕ} {data : List Byte} (h : s₀.Keeps s) : s₀.Keeps (s.eccWord fl w data).2 := .ite_snd h (.ite_snd h h.takeFree)

theorem State.Keeps.eccLine {fl : List ℕ} {word0 : ℕ} {data : List Byte} (h : s₀.Keeps s) : s₀.Keeps (s.eccLine fl word0 data).2 :=
  h.foldl_snd fun _ _ h => h.eccWord

theorem State.Keeps.hbmErr {a kind src : ℕ} (h : s₀.Keeps s) : s₀.Keeps (s.hbmErr a kind src) := .flagF (.ite h.setF.setF.setF.setF h)

theorem State.Keeps.hbmGate {a src : ℕ} {wr : Bool} (h : s₀.Keeps s) : s₀.Keeps (s.hbmGate a src wr).2 :=
  .ite_snd h.hbmErr (.ite_snd (.ite h.hbmErr h.hbmErr.chipEvent) h)

theorem State.Keeps.hbmReadLine {a src : ℕ} (h : s₀.Keeps s) : s₀.Keeps (s.hbmReadLine a src).2.2 :=
  .ite_snd_snd (.ite (.hbmErr (.ite h.eccLine.addF.tally h.eccLine)) (.chipEvent (.hbmErr (.ite h.eccLine.addF.tally h.eccLine)))) (.ite h.eccLine.addF.tally
    h.eccLine)

theorem State.Keeps.hbmWriteLine {a : ℕ} {bs : List Byte} (h : s₀.Keeps s) : s₀.Keeps (s.hbmWriteLine a bs) := h.hbmWr.frame

theorem State.Keeps.pcCount {pc : ℕ} {f : Fld} {n : ℕ} (h : s₀.Keeps s) : s₀.Keeps (s.pcCount pc f n) := h.addF

theorem State.Keeps.hbmReadLines {a n src : Nat} (h : s₀.Keeps s) : s₀.Keeps (s.hbmReadLines a n src).2.2 := by
  unfold State.hbmReadLines
  refine .foldl_snd_snd h fun _ _ h => ?_
  split
  next e => exact h.hbmReadLine.of_snd_snd e

theorem State.Keeps.hbmServeRead {a n src : ℕ} (h : s₀.Keeps s) : s₀.Keeps (s.hbmServeRead a n src).2.2 :=
  .ite_snd_snd h.hbmGate h.hbmGate.hbmReadLines.pcCount

theorem State.Keeps.hbmServeFull {a n src : ℕ} {data : List (ℕ × Byte × Byte)} (h : s₀.Keeps s) : s₀.Keeps (s.hbmServeFull a n src data).2 :=
  .ite_snd h.hbmGate ((h.hbmGate.foldl fun _ _ h => h.hbmWriteLine).pcCount)

theorem State.Keeps.hbmServeNarrow {a src : Nat} {data : List (Nat × Byte × Byte)} (h : s₀.Keeps s) : s₀.Keeps (s.hbmServeNarrow a src data).2 := by
  unfold State.hbmServeNarrow
  have h1 : s₀.Keeps (s.hbmGate a src true).2 := h.hbmGate
  generalize s.hbmGate a src true = r at h1 ⊢
  have h2 : s₀.Keeps (r.2.hbmReadLine a src).2.2 := h1.hbmReadLine
  generalize hq : r.2.hbmReadLine a src = q at h2
  refine .ite_snd h1 ?_
  rw [hq]
  exact .ite_snd h2 h2.hbmWriteLine.pcCount

theorem State.Keeps.hbmServeAtomic {a src fmt : Nat} {data : List (Nat × Byte × Byte)} (h : s₀.Keeps s) :
    s₀.Keeps (s.hbmServeAtomic a src fmt data).2 := by
  unfold State.hbmServeAtomic
  have h1 : s₀.Keeps (s.hbmGate a src true).2 := h.hbmGate
  generalize s.hbmGate a src true = r at h1 ⊢
  have h2 : s₀.Keeps (r.2.hbmReadLine a src).2.2 := h1.hbmReadLine
  generalize hq : r.2.hbmReadLine a src = q at h2
  refine .ite_snd h1 ?_
  rw [hq]
  have h3 : s₀.Keeps ((q.2.2.hbmWriteLine a (atomLine fmt q.1 data).1).pcCount (hbmPc a) F.HBM_PC_ATOM_LINES 1) := h2.hbmWriteLine.pcCount
  exact .ite_snd h2 (.ite (.flagF (.ite h3.flagF h3)) (.ite h3.flagF h3))

theorem State.Keeps.setQueue {pc : ℕ} {q : List HbmReq} (h : s₀.Keeps s) : s₀.Keeps (s.setQueue pc q) := h.frame

theorem State.Keeps.enqueue {pc : ℕ} {r : HbmReq} (h : s₀.Keeps s) : s₀.Keeps (s.enqueue pc r) := h.setQueue.setF

theorem State.Keeps.hbmEnqueue {k : ℕ} (h : s₀.Keeps s) : s₀.Keeps (hbmEnqueue s k) := by
  unfold Machine.hbmEnqueue
  split
  · refine .ite ?_ h
    split
    · exact .ite h h.dropMsg.enqueue
    · exact h
  · exact h

theorem State.Keeps.dequeue {pc k : ℕ} (h : s₀.Keeps s) : s₀.Keeps (s.dequeue pc k) := h.setQueue

theorem State.Keeps.scrubServe {pc a : ℕ} (h : s₀.Keeps s) : s₀.Keeps (s.scrubServe pc a) :=
  .ite (.chipEvent (.hbmErr (.takeFree (.ite h.eccLine.addF.tally h.eccLine)))) (.ite (.hbmWriteLine (.ite h.eccLine.addF.tally h.eccLine)) (.ite
    h.eccLine.addF.tally h.eccLine))

theorem State.Keeps.scrubNext {pc : ℕ} (h : s₀.Keeps s) : s₀.Keeps (s.scrubNext pc) := .ite h.frame.setF h.frame

theorem State.Keeps.hbmServe {pc : Nat} {r : HbmReq} (h : s₀.Keeps s) : s₀.Keeps (s.hbmServe pc r).2 := by
  have hread : s₀.Keeps (s.hbmServeRead r.line r.lines r.src).2.2 := h.hbmServeRead
  have hfull : s₀.Keeps (s.hbmServeFull r.line r.lines r.src r.data).2 := h.hbmServeFull
  have hnarrow : s₀.Keeps (s.hbmServeNarrow r.line r.src r.data).2 := h.hbmServeNarrow
  have hatomic : s₀.Keeps (s.hbmServeAtomic r.line r.src r.fmt r.data).2 := h.hbmServeAtomic
  have hscrub : s₀.Keeps ((s.scrubServe pc r.line).scrubNext pc) := h.scrubServe.scrubNext
  unfold State.hbmServe
  generalize s.hbmServeRead r.line r.lines r.src = x at hread ⊢
  generalize s.hbmServeFull r.line r.lines r.src r.data = y at hfull ⊢
  generalize s.hbmServeNarrow r.line r.src r.data = z at hnarrow ⊢
  generalize s.hbmServeAtomic r.line r.src r.fmt r.data = w at hatomic ⊢
  generalize (s.scrubServe pc r.line).scrubNext pc = v at hscrub ⊢
  split_ifs
  · exact hread
  · exact hfull
  · exact hnarrow
  · exact hatomic
  · exact hscrub

theorem State.Keeps.collBump {t j : ℕ} (h : s₀.Keeps s) : s₀.Keeps (s.collBump t j) := h.frame

theorem State.Keeps.collNote {a : ℕ} (h : s₀.Keeps s) : s₀.Keeps (s.collNote a) := h.foldl fun _ _ h => .ite h.collBump h

theorem State.Keeps.hbmAnswer {pc : Nat} {r : HbmReq} (h : s₀.Keeps s) : s₀.Keeps (s.hbmAnswer pc r) := by
  unfold State.hbmAnswer
  split
  · next e => exact .ite (h.hbmServe.of_snd e).send.collNote (h.hbmServe.of_snd e).send
  · next e => exact h.hbmServe.of_snd e

theorem State.Keeps.hubTurn {a : ℕ} (h : s₀.Keeps s) : s₀.Keeps (s.hubTurn a) := h.setF.setQueue.foldl fun _ _ h => h.hbmAnswer

theorem State.Keeps.hubCross {a out back : Nat} {t : State} (h : s₀.Keeps s) (e : s.hubCross a out back = some t) : s₀.Keeps t := by
  unfold State.hubCross at e
  dsimp only at e
  split at e
  · cases e
  · cases e
    exact h.countFlits.countFlits

theorem State.Keeps.hubFetch {a : Nat} (h : s₀.Keeps s) : s₀.Keeps (s.hubFetch a).2.2 := by
  unfold State.hubFetch
  split
  · next e => exact (h.hubCross e).hubTurn.hbmServeRead
  · exact h

theorem State.Keeps.hubLine {a : Nat} {data : List (Nat × Byte × Byte)} (h : s₀.Keeps s) : s₀.Keeps (s.hubLine a data).2 := by
  unfold State.hubLine
  split
  · next e => exact .ite_snd (h.hubCross e).hubTurn.hbmServeFull (h.hubCross e).hubTurn.hbmServeNarrow
  · exact h

theorem State.Keeps.hubAtomic {a fmt : Nat} {data : List (Nat × Byte × Byte)} (h : s₀.Keeps s) : s₀.Keeps (s.hubAtomic a fmt data).2 := by
  unfold State.hubAtomic
  split
  · next e => exact (h.hubCross e).hubTurn.hbmServeAtomic
  · exact h

theorem State.Keeps.hbmSvc {pc k kind : ℕ} (h : s₀.Keeps s) : s₀.Keeps (hbmSvc s pc k kind) := by
  unfold Machine.hbmSvc
  split
  · exact .ite h.dequeue.hbmAnswer h
  · exact h

theorem State.Keeps.hbmScrub {pc : ℕ} (h : s₀.Keeps s) : s₀.Keeps (hbmScrub s pc) := by
  unfold Machine.hbmScrub
  refine .ite ?_ h
  dsimp only
  split
  · split
    · exact .hbmAnswer (.dequeue (.ite h h.enqueue))
    · exact .ite h h.enqueue
  · exact .ite h h.enqueue

theorem State.Keeps.hbmTempRead {st : ℕ} {temp : ℤ} (h : s₀.Keeps s) : s₀.Keeps (hbmTempRead s st temp) :=
  .ite (.ite h.setF.setF.flagF.chipEvent h.setF.setF) h

theorem State.Keeps.isolate1 {b p : ℕ} (h : s₀.Keeps s) : s₀.Keeps (s.isolate1 b p) := h.setF

theorem State.Keeps.isolateLink {b p : ℕ} (h : s₀.Keeps s) : s₀.Keeps (s.isolateLink b p) := by
  unfold State.isolateLink
  refine .raiseRegion (.cutNet ?_)
  split
  · exact h.isolate1.isolate1
  · exact h.isolate1

theorem State.Keeps.flitMismatch {r b p : ℕ} (h : s₀.Keeps s) : s₀.Keeps (flitMismatch s r b p) := by
  unfold Machine.flitMismatch
  extract_lets base key n s1 _ s2
  have h1 : s₀.Keeps s1 := h.addF
  have h2 : s₀.Keeps s2 := h1.frame
  exact .ite h2.isolateLink h2

end

end Sys2Proof.Machine
end

section
/-! SUPPORT. What every function of the ports of Courier keeps. -/

namespace Sys2Proof.Machine

section
variable {s₀ s : State}

theorem State.Keeps.setPort {p : ℕ} {x : Port} (h : s₀.Keeps s) : s₀.Keeps (s.setPort p x) := h.frame

theorem State.Keeps.portTo {p st : ℕ} (h : s₀.Keeps s) : s₀.Keeps (s.portTo p st) := .ite h.setF.setPort h.setF

theorem State.Keeps.portFail {p : ℕ} (h : s₀.Keeps s) : s₀.Keeps (s.portFail p) := h.setF.flagF.chipEvent

theorem State.Keeps.linkDown {p : ℕ} (h : s₀.Keeps s) : s₀.Keeps (s.linkDown p) :=
  .ite h.inboxLeft.flagF.setF.setPort.chipEvent.postEvent.setF (.ite h.inboxLeft.flagF.setF.setPort.chipEvent.postEvent.portTo
    h.inboxLeft.flagF.setF.setPort.chipEvent.postEvent.portFail)

theorem State.Keeps.sendTs {p : ℕ} (h : s₀.Keeps s) : s₀.Keeps (s.sendTs p) := h.setPort

theorem State.Keeps.portNegotiate {p rx tx : ℕ} (h : s₀.Keeps s) : s₀.Keeps (s.portNegotiate p rx tx) := h.setF.setPort.sendTs

theorem State.Keeps.alignDone {p lanes : ℕ} (h : s₀.Keeps s) : s₀.Keeps (alignDone s p lanes) := by
  unfold Machine.alignDone
  refine .ite ?_ h
  dsimp only
  split
  · exact .ite h.setF.setPort.portNegotiate h.setF.setPort.portFail
  · exact h.setF.setPort.portFail

theorem State.Keeps.attemptFail {p : ℕ} (h : s₀.Keeps s) : s₀.Keeps (s.attemptFail p) := .ite h.portFail h.setPort

theorem State.Keeps.agree {p : ℕ} {f : Ts} (h : s₀.Keeps s) : s₀.Keeps (s.agree p f) := by
  unfold State.agree
  dsimp only
  split
  · exact h.setF.setF.setF.setF.attemptFail
  · exact .ite h.setF.setF.setF.setF.attemptFail h.setF.setF.setF.setF.setF.setF.setF.setPort

theorem State.Keeps.pump {p : ℕ} (h : s₀.Keeps s) : s₀.Keeps (s.pump p) := h.setPort.addF

theorem State.Keeps.flitTake {p : ℕ} {f : Flit} (h : s₀.Keeps s) : s₀.Keeps (s.flitTake p f) := h.setPort

theorem State.Keeps.flitBack {p : ℕ} {f : Flit} (h : s₀.Keeps s) : s₀.Keeps (s.flitBack p f) := h.flitTake.pump

theorem State.Keeps.flitFec {p : ℕ} {f : Flit} (h : s₀.Keeps s) : s₀.Keeps (s.flitFec p f) := by
  unfold State.flitFec
  dsimp only
  split
  · exact h
  · exact .ite h.addF.addF.tally h.addF.addF.tally

theorem State.Keeps.noteBad {p : ℕ} (h : s₀.Keeps s) : s₀.Keeps (s.noteBad p) := h.setPort

theorem State.Keeps.frameIn {p ty : Nat} {f : Flit} {act : State → State} (h : s₀.Keeps s) (hact : ∀ u, s₀.Keeps u → s₀.Keeps (act u)) :
    s₀.Keeps (s.frameIn p f ty act) := .ite h.flitFec.noteBad (.ite (hact _ h.flitFec.flitTake).pump h.flitFec)

theorem State.Keeps.flitAt {p st : Nat} {f : Flit} {act : State → State} (h : s₀.Keeps s) (hact : ∀ u, s₀.Keeps u → s₀.Keeps (act u)) :
    s₀.Keeps (s.flitAt p st f act) := .ite (hact _ h) (.ite (.ite h.flitFec.noteBad h.flitFec) h)

theorem State.Keeps.takeTs1 {p : ℕ} {f : Ts} (h : s₀.Keeps s) : s₀.Keeps (s.takeTs1 p f) := .sendTs (.ite h.setPort.agree h.setPort)

theorem State.Keeps.ts1In {p : ℕ} {f : Flit} (h : s₀.Keeps s) : s₀.Keeps (ts1In s p f) := h.flitAt (fun _ h => h.frameIn (fun _ h => h.takeTs1))

theorem State.Keeps.portUp {p : ℕ} {f : Ts} (h : s₀.Keeps s) : s₀.Keeps (s.portUp p f) := .ite h.setF.setF.setPort.chipEvent h.setF.setF.setPort

theorem State.Keeps.takeTs2 {p : ℕ} {f : Ts} (h : s₀.Keeps s) : s₀.Keeps (s.takeTs2 p f) := by
  unfold State.takeTs2
  dsimp only
  split
  · exact h.setPort.sendTs
  · exact .ite (.ite h.portUp h.setPort.sendTs) h.attemptFail

theorem State.Keeps.ts2In {p : ℕ} {f : Flit} (h : s₀.Keeps s) : s₀.Keeps (ts2In s p f) := h.flitAt (fun _ h => h.frameIn (fun _ h => h.takeTs2))

theorem State.Keeps.trainWrite {p : ℕ} (h : s₀.Keeps s) : s₀.Keeps (trainWrite s p) := .ite h.portTo h

theorem State.Keeps.enClear {p : ℕ} (h : s₀.Keeps s) : s₀.Keeps (enClear s p) := .ite (.ite h.setF.linkDown h.setF.setPort.setF) h

theorem State.Keeps.enSet {p : ℕ} (h : s₀.Keeps s) : s₀.Keeps (enSet s p) := .ite (.ite h.setF.portTo h.setF) h

theorem State.Keeps.txMsg {p : ℕ} {m : CMsg} (h : s₀.Keeps s) : s₀.Keeps (s.txMsg p m) := h.setPort.pump

theorem State.Keeps.freeFlits {p : ℕ} {m : CMsg} (h : s₀.Keeps s) : s₀.Keeps (s.freeFlits p m) := .ite h.setPort h

theorem State.Keeps.idleIn {p : ℕ} {f : Flit} (h : s₀.Keeps s) : s₀.Keeps (idleIn s p f) :=
  .ite h.flitFec.noteBad (.ite (.ite h.flitFec.flitBack.setPort h.flitFec.flitBack) h.flitFec)

theorem State.Keeps.flitRefuse {p : ℕ} (h : s₀.Keeps s) : s₀.Keeps (s.flitRefuse p) := .ite h h.setPort

theorem State.Keeps.flitAccept {p : ℕ} {f : Flit} (h : s₀.Keeps s) : s₀.Keeps (s.flitAccept p f) := by
  unfold State.flitAccept
  extract_lets x v bytes s1
  have h1 : s₀.Keeps s1 := h.setPort.addF
  exact .ite h1.frame h1

theorem State.Keeps.flitIn {p : ℕ} {f : Flit} (h : s₀.Keeps s) : s₀.Keeps (flitIn s p f) :=
  .ite h.flitFec.noteBad.flitRefuse (.ite (.ite h.flitFec.flitBack.flitAccept h.flitFec.flitBack.flitRefuse) h.flitFec)

theorem State.Keeps.replayFrom {p i : ℕ} {timeout : Bool} (h : s₀.Keeps s) : s₀.Keeps (s.replayFrom p i timeout) :=
  .ite (.linkDown (.ite h.addF.addF.tally.addF h.addF.addF.tally)) (.setPort (.ite h.addF.addF.tally.addF h.addF.addF.tally))

theorem State.Keeps.retryIn {p seq : ℕ} (h : s₀.Keeps s) : s₀.Keeps (retryIn s p seq) := by
  unfold Machine.retryIn
  split
  · exact h.replayFrom
  · exact h

theorem State.Keeps.undeliverable {dst : ℕ} (h : s₀.Keeps s) : s₀.Keeps (s.undeliverable dst) := .ite h.addF h.addF.flagF.chipEvent

theorem State.Keeps.originate {m : CMsg} (h : s₀.Keeps s) : s₀.Keeps (s.originate m) := h.frame

theorem State.Keeps.handBack {o : Outst} {from_ : ℕ} {data : List Byte} {e : ℕ} (h : s₀.Keeps s) : s₀.Keeps (s.handBack o from_ data e) := h.frame.send

theorem State.Keeps.discard {m : CMsg} (h : s₀.Keeps s) : s₀.Keeps (s.discard m) := by
  unfold State.discard
  refine .ite (.ite ?_ h.undeliverable.originate) h.undeliverable
  split
  · exact h.undeliverable.handBack
  · exact h.undeliverable

theorem State.Keeps.leaveBy {from_ q : ℕ} {m : CMsg} (h : s₀.Keeps s) : s₀.Keeps (s.leaveBy from_ q m) := h.txMsg

theorem State.Keeps.crossMesh {src dst lines : Nat} {t : State} (h : s₀.Keeps s) (e : s.crossMesh src dst lines = some t) : s₀.Keeps t := by
  unfold State.crossMesh at e
  split at e
  · cases e
  · cases e
    exact h.countFlits

theorem State.Keeps.forward {from_ : Nat} {m : CMsg} (h : s₀.Keeps s) : s₀.Keeps (s.forward from_ m) := by
  unfold State.forward
  split
  · exact h.discard
  · refine .ite h.discard (.ite h.leaveBy ?_)
    split
    · next e => exact (h.crossMesh e).leaveBy
    · exact h.discard

theorem State.Keeps.sendParts {p blk : Nat} {qs : List (Nat × Body)} (h : s₀.Keeps s) : s₀.Keeps (s.sendParts p blk qs).2 := by
  induction qs generalizing s with
  | nil => exact h
  | cons q r ih => exact .ite_snd h (ih h.send)

theorem State.Keeps.portServe {p : ℕ} (h : s₀.Keeps s) : s₀.Keeps (s.portServe p) :=
  h.foldl_fst fun _ _ h => .ite_fst h (.frame (.ite h.sendParts.freeFlits h.sendParts))

theorem State.Keeps.serve {p : ℕ} {m : CMsg} (h : s₀.Keeps s) : s₀.Keeps (s.serve p m) := h.frame.portServe

theorem State.Keeps.serveImage {p : ℕ} {m : CMsg} (h : s₀.Keeps s) : s₀.Keeps (s.serveImage p m) := .ite h.originate h.originate

theorem State.Keeps.respond {p : ℕ} {m : CMsg} (h : s₀.Keeps s) : s₀.Keeps (s.respond p m) := by
  unfold State.respond
  split
  · exact h.handBack
  · exact h

theorem State.Keeps.deliver {p : ℕ} {m : CMsg} (h : s₀.Keeps s) : s₀.Keeps (s.deliver p m) :=
  .ite (.ite (.ite h.serveImage h) h.serve) (.ite h.send (.ite h.respond h))

theorem State.Keeps.takeInbox {k : Nat} (h : s₀.Keeps s) : s₀.Keeps (s.takeInbox k) := by
  unfold State.takeInbox
  split
  · next e _ =>
    have hdrop : s₀.Keeps { s with cour := { s.cour with inbox := dropAt s.cour.inbox k } } := h.frame
    have hflits : s₀.Keeps (if e.2.servedHere s.ownCoord then { s with cour := { s.cour with inbox := dropAt s.cour.inbox k } }
        else State.freeFlits { s with cour := { s.cour with inbox := dropAt s.cour.inbox k } } e.1 e.2) := .ite hdrop hdrop.freeFlits
    exact .ite (hflits.getD fun t e => hflits.crossMesh e) hflits
  · exact h

theorem State.Keeps.record {m : Msg} {t : ℕ} (h : s₀.Keeps s) : s₀.Keeps (s.record m t) := by
  unfold State.record
  dsimp only
  split
  · exact h.frame
  · exact h.frame
  · exact h.frame
  · exact h

theorem State.Keeps.routeMsg {k : ℕ} (h : s₀.Keeps s) : s₀.Keeps (routeMsg s k) := by
  unfold Machine.routeMsg
  refine .ite ?_ ?_
  · split
    · exact .ite (.ite (.ite (.ite h.takeInbox.originate h.takeInbox) h) h.takeInbox.deliver) h.takeInbox.forward
    · exact h
  · dsimp only
    split
    · split
      · exact .ite h.dropMsg.record.deliver h.dropMsg.record.forward
      · exact h
    · exact h

theorem State.Keeps.served1 {tok : ℕ} {part : Option (ℕ × List Byte)} {e : ℕ} (h : s₀.Keeps s) : s₀.Keeps (s.served1 tok part e) := by
  unfold State.served1
  split
  · exact .portServe (.ite h.frame.originate h.frame)
  · exact h

theorem State.Keeps.ackIssue {b i src e : ℕ} (h : s₀.Keeps s) : s₀.Keeps (s.ackIssue b i src e) := by
  unfold State.ackIssue
  split
  · exact .ite h.setBx h.setBx.raiseBlock.faultCtx
  · exact h

theorem State.Keeps.hubCount {b c : ℕ} (h : s₀.Keeps s) : s₀.Keeps (s.hubCount b c) := h.send

theorem State.Keeps.hubPutLines {a : ℕ} {bs : List Byte} (h : s₀.Keeps s) : s₀.Keeps (s.hubPutLines a bs) := h.foldl fun _ _ h => h.hubLine

theorem State.Keeps.hubGetLines {a n : ℕ} (h : s₀.Keeps s) : s₀.Keeps (s.hubGetLines a n).2 := h.foldl_snd fun _ _ h => h.hubFetch

theorem State.Keeps.collSend {p ty t off : Nat} {data : List Byte} (h : s₀.Keeps s) : s₀.Keeps (s.collSend p ty t off data) := by
  refine h.foldl fun st i h => .ite ?_ h.undeliverable.send
  exact State.Keeps.option_map_getD h fun t e => (h.crossMesh e).leaveBy

theorem State.Keeps.collPut {t off : ℕ} {data : List Byte} {bcast : Bool} (h : s₀.Keeps s) : s₀.Keeps (s.collPut t off data bcast) :=
  .ite (.hubCount (.ite (h.hubPutLines.foldl fun _ _ h => h.collSend) h.hubPutLines)) (.ite (h.hubPutLines.foldl fun _ _ h => h.collSend) h.hubPutLines)

theorem State.Keeps.chunkDone {t j : ℕ} (h : s₀.Keeps s) : s₀.Keeps (s.chunkDone t j) :=
  .setF (.hubPutLines (.ite h.hubGetLines.collPut h.hubGetLines.collSend))

theorem State.Keeps.collRun {n : Nat} (h : s₀.Keeps s) : s₀.Keeps (s.collRun n) := by
  induction n generalizing s with
  | zero => exact h
  | succ n ih =>
    unfold State.collRun
    split
    · exact ih (State.Keeps.chunkDone h.frame)
    · exact h

theorem State.Keeps.collSettle (h : s₀.Keeps s) : s₀.Keeps (s.collSettle) := h.collRun

theorem State.Keeps.hubWrite {a : ℕ} {bs : List Byte} (h : s₀.Keeps s) : s₀.Keeps (s.hubWrite a bs) := h.hubPutLines.collSettle

theorem State.Keeps.hubRead {a n : Nat} (h : s₀.Keeps s) : s₀.Keeps (s.hubRead a n).2 := h.hubGetLines.collSettle

/-- The hub's reads under a name that stands for them: a proof about one of many lines is then checked without evaluating it. -/
theorem State.Keeps.exists_hubRead (s₀ : State) : ∃ read : State → Nat → Nat → List Byte × State, read = State.hubRead
    ∧ ∀ s a n, s₀.Keeps s → s₀.Keeps (read s a n).2 := ⟨_, rfl, fun _ _ _ h => h.hubRead⟩

theorem State.Keeps.hubStore {a : ℕ} {data : List (ℕ × Byte × Byte)} (h : s₀.Keeps s) : s₀.Keeps (s.hubStore a data).2 := h.hubLine.collSettle

theorem State.Keeps.hubAdd {a fmt : ℕ} {data : List (ℕ × Byte × Byte)} (h : s₀.Keeps s) : s₀.Keeps (s.hubAdd a fmt data) := h.hubAtomic.collSettle

theorem State.Keeps.collErr (h : s₀.Keeps s) : s₀.Keeps (s.collErr) := h.flagF

theorem State.Keeps.collAddEff {p : ℕ} {m : CMsg} (h : s₀.Keeps s) : s₀.Keeps (collAddEff s p m) :=
  .ite ((h.foldl fun _ _ h => h.hubAtomic.collBump).collSettle) h.collErr

theorem State.Keeps.collBcastEff {p : ℕ} {m : CMsg} (h : s₀.Keeps s) : s₀.Keeps (collBcastEff s p m) := .ite h.collPut.collSettle h.collErr

end

end Sys2Proof.Machine
end

section
/-! SUPPORT. What every function of MacroMaint (scrub, fill, remap, readback, shadow) keeps. -/

namespace Sys2Proof.Machine

section
variable {s₀ s : State}

theorem State.Keeps.rowCheck {m r : ℕ} (h : s₀.Keeps s) : s₀.Keeps (s.rowCheck m r).2 :=
  .ite_snd h (h.foldl_snd fun _ _ h => .ite_snd h (.ite_snd h (.ite_snd h (.ite_snd h.takeFree (.ite_snd h.takeFree h.takeFree)))))

theorem State.Keeps.putRow {m r words : ℕ} {data : List Byte} (h : s₀.Keeps s) : s₀.Keeps (s.putRow m r words data) := (h.foldl fun _ _ h => h.rowWr).frame

theorem State.Keeps.setTag {m : ℕ} {g : Option StageTag} (h : s₀.Keeps s) : s₀.Keeps (s.setTag m g) := h.setBx

theorem State.Keeps.writeRow {m r words : ℕ} {data : List Byte} (h : s₀.Keeps s) : s₀.Keeps (s.writeRow m r words data) :=
  .ite h.putRow.setMx.setTag.setF.setF h.putRow.setMx.setTag.setF

theorem State.Keeps.restoreRow {m r : ℕ} (h : s₀.Keeps s) : s₀.Keeps (s.restoreRow m r) := h.putRow

theorem State.Keeps.sbPeak {b : ℕ} (h : s₀.Keeps s) : s₀.Keeps (s.sbPeak b) := h.setF

theorem State.Keeps.takeAge {b : ℕ} (h : s₀.Keeps s) : s₀.Keeps (s.takeAge b).2 := h.setBx

theorem State.Keeps.fillStart {m i : ℕ} (h : s₀.Keeps s) : s₀.Keeps (s.fillStart m i) := h.takeAge.setMx.sbPeak

theorem State.Keeps.freeMacroSlot {m : ℕ} (h : s₀.Keeps s) : s₀.Keeps (s.freeMacroSlot m) := .ite h.setMx h

theorem State.Keeps.autoRemap {m c : ℕ} (h : s₀.Keeps s) : s₀.Keeps (s.autoRemap m c) := by
  unfold State.autoRemap
  refine .ite h ?_
  split
  · exact h.setReg.fillStart
  · exact h.flagF.raiseBlockId

theorem State.Keeps.remapRequest {m c : ℕ} (h : s₀.Keeps s) : s₀.Keeps (s.remapRequest m c) := h.raiseMacro.autoRemap.freeMacroSlot

theorem State.Keeps.noteColumn {m c : ℕ} (h : s₀.Keeps s) : s₀.Keeps (s.noteColumn m c) := .ite (.ite h.setMx.remapRequest h.setMx) h

theorem State.Keeps.noteCe {m r : ℕ} {cols : List ℕ} (h : s₀.Keeps s) : s₀.Keeps (s.noteCe m r cols) :=
  .foldl (.setF (.setF (.setF (.addF (.ite_snd h h.takeFree))))) fun _ _ h => h.noteColumn

theorem State.Keeps.noteUe {m r : ℕ} (h : s₀.Keeps s) : s₀.Keeps (s.noteUe m r) := h.setF.setF.setF

theorem State.Keeps.poisonRow {m r : ℕ} (h : s₀.Keeps s) : s₀.Keeps (s.poisonRow m r) := h.setF.flagF.raiseBlockId

theorem State.Keeps.readRow {m r : ℕ} {back : Bool} (h : s₀.Keeps s) : s₀.Keeps (s.readRow m r back).2 :=
  .ite_snd (.ite_snd h.rowCheck.noteUe.poisonRow (.ite_snd h.rowCheck.noteUe.restoreRow.rowCheck.flagF.noteUe.poisonRow (.ite
    h.rowCheck.noteUe.restoreRow.rowCheck.flagF.raiseMacro h.rowCheck.noteUe.restoreRow.rowCheck.flagF.raiseMacro.noteCe))) (.ite_snd h.rowCheck (.noteCe
      (.ite h.rowCheck.putRow h.rowCheck)))

theorem State.Keeps.mergeRow {m r : ℕ} {bytes : List (ℕ × Byte)} (h : s₀.Keeps s) : s₀.Keeps (s.mergeRow m r bytes) := by
  unfold State.mergeRow
  dsimp only
  split
  · exact h.readRow.writeRow.setF
  · exact h.readRow

theorem State.Keeps.scrubEvent {m : ℕ} (h : s₀.Keeps s) : s₀.Keeps (s.scrubEvent m) := .ite (.ite h.flagF h.takeAge.setMx.sbPeak) h

theorem State.Keeps.scrubMacro {m : ℕ} (h : s₀.Keeps s) : s₀.Keeps (s.scrubMacro m) :=
  .ite (.ite (.setF (.setF (.setMx (.readRow (.ite h.setMx h))))) (.setF (.setMx (.readRow (.ite h.setMx h))))) h

theorem State.Keeps.scrubEff {b : ℕ} (h : s₀.Keeps s) : s₀.Keeps (scrubEff s b) := h.foldl fun _ _ h => h.scrubMacro

theorem State.Keeps.remapWrite {m i v : ℕ} (h : s₀.Keeps s) : s₀.Keeps (remapWrite s m i v) :=
  .ite h (.ite h (.ite h.setReg.setMx.freeMacroSlot (.ite h h.setReg.fillStart)))

theorem State.Keeps.openSpare {m i r : ℕ} (h : s₀.Keeps s) : s₀.Keeps (s.openSpare m i r) := h.takeFree.frame

theorem State.Keeps.fillMacro {m : Nat} (h : s₀.Keeps s) : s₀.Keeps (s.fillMacro m) := by
  have hput : ∀ (u : State) (x : Option (List Byte)) (i r : Nat), s₀.Keeps u →
      s₀.Keeps (match x with | some d => u.putRow m r 255 d | none => u.openSpare m i r) := by
    intro u x i r hu
    split
    · exact hu.putRow
    · exact hu.openSpare
  unfold State.fillMacro
  split
  · exact .ite (.ite (hput _ _ _ _ h.readRow).setReg.setMx.freeMacroSlot (hput _ _ _ _ h.readRow).setMx) h
  · exact h

theorem State.Keeps.fillEff {b : ℕ} (h : s₀.Keeps s) : s₀.Keeps (fillEff s b) := h.foldl fun _ _ h => h.fillMacro

theorem State.Keeps.macCfg {m v : ℕ} (h : s₀.Keeps s) : s₀.Keeps (macCfg s m v) := .ite h.flagF h.plainWrite

theorem State.Keeps.rbWrite {m v : ℕ} (h : s₀.Keeps s) : s₀.Keeps (rbWrite s m v) := .ite h.plainWrite.setF.takeAge.setMx.sbPeak h.plainWrite

theorem State.Keeps.readbackEff {b : ℕ} (h : s₀.Keeps s) : s₀.Keeps (readbackEff s b) := by
  unfold Machine.readbackEff
  split
  · dsimp only
    split
    · exact (((h.readRow.setMx.foldl fun _ _ h => h.setReg).setF).setF).setF
    · exact h.readRow.setMx.setF.setF
  · exact h

theorem State.Keeps.setShop {m : ℕ} {o : Option ShadowOp} (h : s₀.Keeps s) : s₀.Keeps (s.setShop m o) := h.setMx.setF

theorem State.Keeps.shopStart {m : ℕ} {restore : Bool} {left : List ℕ} (h : s₀.Keeps s) : s₀.Keeps (s.shopStart m restore left) := h.takeAge.setShop.sbPeak

theorem State.Keeps.shadowSync {m : ℕ} (h : s₀.Keeps s) : s₀.Keeps (shadowSync s m) := .ite h (.ite h h.shopStart)

theorem State.Keeps.shadowRestore {m : ℕ} (h : s₀.Keeps s) : s₀.Keeps (shadowRestore s m) := .ite h (.shopStart (.ite h.flagF h))

theorem State.Keeps.syncRow {m : Nat} (h : s₀.Keeps s) : s₀.Keeps (s.syncRow m) := by
  unfold State.syncRow
  split
  · dsimp only
    split
    · refine State.Keeps.setShop ?_
      split
      · exact .setF (h.readRow.setMem (Mems.wf_wshadow (Mem.wf_wrN _ _ _)))
      · exact h.readRow
    · exact h
  · exact h

theorem State.Keeps.restoreAll {m : Nat} (h : s₀.Keeps s) : s₀.Keeps (s.restoreAll m) := by
  refine State.Keeps.foldl (.setTag (.setMx ?_)) fun _ _ h => h.setReg.setReg
  exact h.setMem (Mems.wf_rows fun hm => Mem.wf_wrN _ _ _ (Mem.wf_clear _ _ _ hm))

theorem State.Keeps.restoreRetire {m : ℕ} (h : s₀.Keeps s) : s₀.Keeps (s.restoreRetire m) := by
  unfold State.restoreRetire
  split
  · exact .ite h h.restoreAll.setShop
  · exact h

theorem State.Keeps.monSample {m g : ℕ} {v : F32} (h : s₀.Keeps s) : s₀.Keeps (s.monSample m g v) := .ite h.setMx h

theorem State.Keeps.monGroup {m g : ℕ} {q : RGrp} (h : s₀.Keeps s) : s₀.Keeps (s.monGroup m g q) :=
  .ite ((h.foldl fun _ _ h => h.setReg).setMx) (.setMx (.ite ((((((h.foldl fun _ _ h => h.setReg).setReg).setReg).setReg).setReg).setF) (.ite ((((((h.foldl
    fun _ _ h => h.setReg).setReg).setReg).setReg).setReg).setF) (((((h.foldl fun _ _ h => h.setReg).setReg).setReg).setReg).setReg))))

theorem State.Keeps.monDrift {m : ℕ} (h : s₀.Keeps s) : s₀.Keeps (s.monDrift m) := .ite h.flagF.raiseMacro h

theorem State.Keeps.monBoundary (h : s₀.Keeps s) : s₀.Keeps (s.monBoundary) :=
  (h.frame.foldl fun _ _ h => h.foldl fun _ _ h => h.monGroup).foldl fun _ _ h => h.monDrift

end

end Sys2Proof.Machine
end

section
/-! SUPPORT. What every function of jobs and result sets keeps. -/

namespace Sys2Proof.Machine

section
variable {s₀ s : State}

theorem State.Keeps.setCtxNow {b c : ℕ} {x : Ctx} (h : s₀.Keeps s) : s₀.Keeps (s.setCtxNow b c x) := .ite h.setCtx h.frame

theorem State.Keeps.ctxTidyN {b c n : Nat} (h : s₀.Keeps s) : s₀.Keeps (s.ctxTidyN b c n) := by
  induction n generalizing s with
  | zero => exact h
  | succ n ih =>
    have hfin : s₀.Keeps (if (s.ctxIssues b c).isEmpty then s.setCtx b c { s.ctx b c with st := .done, reason := 0 } else s) := .ite h.setCtx h
    unfold State.ctxTidyN
    dsimp only
    split
    · exact h
    · split
      · exact hfin
      · split
        · exact ih h.setCtx
        · exact .ite h.setCtx h.setCtx

theorem State.Keeps.ctxTidy {b c : ℕ} (h : s₀.Keeps s) : s₀.Keeps (s.ctxTidy b c) := .ite h.ctxTidyN h

theorem State.Keeps.tidyAll (h : s₀.Keeps s) : s₀.Keeps (s.tidyAll) := h.foldl fun _ _ h => h.ctxTidy

theorem State.Keeps.modRec {n : ℕ} {f : SlotRec → SlotRec} (h : s₀.Keeps s) : s₀.Keeps (s.modRec n f) := h.frame

theorem State.Keeps.recFl {n : ℕ} {f : Fl} (h : s₀.Keeps s) : s₀.Keeps (s.recFl n f) := h.modRec

theorem State.Keeps.hubBytes {a n : Nat} (h : s₀.Keeps s) : s₀.Keeps (s.hubBytes a n).2 := by
  refine State.Keeps.collSettle (.foldl_snd h fun acc _ h => ?_)
  split
  · exact .ite_snd_snd h.hubFetch h
  · exact h

theorem State.Keeps.serveFetch {t : Taken} (h : s₀.Keeps s) (ht : s₀.Owns t.id) : s₀.Keeps (s.serveFetch t) := by
  unfold State.serveFetch
  dsimp only
  split
  · refine .ite h.finish (.ite (h.holdOut ht) (.ite ?_ h.finish))
    split
    · next e => exact ((h.hubBytes.of_snd e).armOut ht).setTaken
    · next e => exact (h.hubBytes.of_snd e).finish
  · exact .ite h.finish (h.holdOut ht)

theorem State.Keeps.serveFetches (h : s₀.Keeps s) : s₀.Keeps s.serveFetches :=
  h.trans (State.Keeps.foldl_of_mem (.refl s) fun _ _ hx h => h.serveFetch (State.owns_of_mem (List.mem_of_mem_filter hx)))

theorem State.Keeps.passFetches {n : ℕ} (h : s₀.Keeps s) : s₀.Keeps (s.passFetches n) := h.foldl fun _ _ h => .ite h.finish h

theorem State.Keeps.completeSets (h : s₀.Keeps s) : s₀.Keeps (s.completeSets) := by
  unfold State.completeSets
  extract_lets done s1 leaves _ s2 s3
  have h1 : s₀.Keeps s1 := by
    unfold s1
    refine h.foldl fun _ _ h => ?_
    split
    · exact .ite h.modRec.frame h
    · exact h
  have h2 : s₀.Keeps s2 := h1.noteEnded.frame
  have h3 : s₀.Keeps s3 := h2.serveFetches
  exact .ite h3.goChip.finishOpt.frame h3

theorem State.Keeps.sendHandoff {n marks : ℕ} {r : List Byte} (h : s₀.Keeps s) : s₀.Keeps (s.sendHandoff n marks r) := .ite h.originate h

theorem State.Keeps.demandWake (h : s₀.Keeps s) : s₀.Keeps (s.demandWake) := .ite h h.hznWake.addF

theorem State.Keeps.admitSet (h : s₀.Keeps s) : s₀.Keeps (s.admitSet) := by
  unfold State.admitSet
  extract_lets n j rx got marks vs rejected void status flags r keep _ s1 s2 s3
  have h1 : s₀.Keeps s1 := h.frame
  have h2 : s₀.Keeps s2 := .ite h1.postEvent (.ite h1.postEvent h1)
  have h3 : s₀.Keeps s3 := h2.sendHandoff
  exact h3.tidyAll.completeSets

theorem State.Keeps.takeHandoff {m : CMsg} {fired : Bool} (h : s₀.Keeps s) : s₀.Keeps (s.takeHandoff m fired) := .ite h.frame h.flagF.chipEvent

theorem State.Keeps.deadlineFire {e blk mask lag : ℕ} (h : s₀.Keeps s) : s₀.Keeps (s.deadlineFire e blk mask lag) := by
  unfold State.deadlineFire
  dsimp only
  split
  · exact .tally (.addF (.flagF (.ite (.setF (.setF (.setF (.chipEvent (.ite h.modRec h.modRec.postEvent))))) (.ite h.modRec h.modRec.postEvent))))
  · exact h

theorem State.Keeps.trkReset (h : s₀.Keeps s) : s₀.Keeps (s.trkReset) := h.frame

theorem State.Keeps.trkMap {f : List Byte → TrkEnt → TrkEnt} (h : s₀.Keeps s) : s₀.Keeps (s.trkMap f) := h.frame

theorem State.Keeps.trkPush (h : s₀.Keeps s) : s₀.Keeps (s.trkPush) := h.trkMap

theorem State.Keeps.trkEvent (h : s₀.Keeps s) : s₀.Keeps (s.trkEvent) := h.trkMap

theorem State.Keeps.giveCredits {b : ℕ} (h : s₀.Keeps s) : s₀.Keeps (s.giveCredits b) := h.foldl fun _ _ h => h.setF

theorem State.Keeps.jobReset {s0 : State} (h : s₀.Keeps s0) : s₀.Keeps (s0.jobReset) := by
  unfold State.jobReset
  extract_lets s _ s1
  have h : s₀.Keeps s := h.noteEnded
  have h1 : s₀.Keeps s1 := h.frame
  exact (h1.foldl fun _ _ h => .ite h.giveCredits h).trkReset

theorem State.Keeps.startJob (h : s₀.Keeps s) : s₀.Keeps (s.startJob) := ((h.jobReset.foldl fun _ _ h => h.setCtxNow).goChip).tidyAll

theorem State.Keeps.liftFences (h : s₀.Keeps s) : s₀.Keeps (s.liftFences) := h.foldl fun _ _ h => .ite h h.setF

theorem State.Keeps.emptyRegions (h : s₀.Keeps s) : s₀.Keeps (s.emptyRegions) := h.foldl fun _ _ h => .ite (h.foldl fun _ _ h => h.setF.setF) h

theorem State.Keeps.endPath1 (h : s₀.Keeps s) : s₀.Keeps (s.endPath1) := by
  unfold State.endPath1
  extract_lets s1
  have h1 : s₀.Keeps s1 := h.setF
  exact h1.frame

theorem State.Keeps.stopJob (h : s₀.Keeps s) : s₀.Keeps (s.stopJob) := h.noteEnded.stopContexts.endSets.serveFetches.emptyRegions.liftFences.endPath1

theorem State.Keeps.discardPlan (h : s₀.Keeps s) : s₀.Keeps (s.discardPlan) := h.frame

end

end Sys2Proof.Machine
end

section
/-! SUPPORT. What every function of Cirrus keeps. -/

namespace Sys2Proof.Machine

section
variable {s₀ s : State}

theorem State.Keeps.cirThrWrite {b v : ℕ} (h : s₀.Keeps s) : s₀.Keeps (cirThrWrite s b v) := h.setBx

theorem State.Keeps.judge {b : ℕ} (h : s₀.Keeps s) : s₀.Keeps (s.judge b) :=
  .ite h (.ite (.chipEvent (.flagF (.ite (.ite (.ite h.setBx h.setBx.flagF.chipEvent) h.setBx.setF) h.setBx))) (.ite (.ite (.ite h.setBx
    h.setBx.flagF.chipEvent) h.setBx.setF) h.setBx))

theorem State.Keeps.applyThr {b : ℕ} (h : s₀.Keeps s) : s₀.Keeps (s.applyThr b) := by
  unfold State.applyThr
  split
  · exact h.setF.setBx
  · exact h

theorem State.Keeps.cirBoundary (h : s₀.Keeps s) : s₀.Keeps (s.cirBoundary) := h.foldl fun _ _ h => h.judge.applyThr

theorem State.Keeps.wholeDeg {f : ℤ} (h : s₀.Keeps s) : s₀.Keeps (s.wholeDeg f).2 := .ite_snd h h.takeFree

theorem State.Keeps.setTrim {b n : Nat} (h : s₀.Keeps s) : s₀.Keeps (s.setTrim b n) := h.takeFree.takeFree.setMem Mems.wf_cirTrim

theorem State.Keeps.recalChain {b : Nat} {ok : Bool} (h : s₀.Keeps s) : s₀.Keeps (recalChain s b ok) := by
  unfold Machine.recalChain
  extract_lets base n f s1 s2
  have h1 : s₀.Keeps s1 := .ite h.setTrim.setF h.flagF.chipEvent
  have h2 : s₀.Keeps s2 := h1.setF
  refine .ite (.ite ?_ h2) h
  split
  next e => exact (h2.wholeDeg.of_snd e).flagF.setF.setF

theorem State.Keeps.recalWindow {b : ℕ} {isOpen : Bool} (h : s₀.Keeps s) : s₀.Keeps (s.recalWindow b isOpen) := .ite h.setF h

end

end Sys2Proof.Machine
end

section
/-! SUPPORT. What every function of the scratchpads keeps. -/

namespace Sys2Proof.Machine

section
variable {s₀ s : State}

theorem State.Keeps.modIssue {b id : ℕ} {f : Issue → Issue} (h : s₀.Keeps s) : s₀.Keeps (s.modIssue b id f) := h.setBx

theorem State.Keeps.issueFault {b id unit cls : ℕ} (h : s₀.Keeps s) : s₀.Keeps (s.issueFault b id unit cls) := by
  unfold State.issueFault
  split
  · exact .ite h h.modIssue.raiseBlock.faultCtx.setBx
  · exact h

theorem State.Keeps.kibRestore {b k : ℕ} (h : s₀.Keeps s) : s₀.Keeps (s.kibRestore b k) := by
  unfold State.kibRestore
  extract_lets o s1
  have h1 : s₀.Keeps s1 := h.spdWr
  exact h1.frame

theorem State.Keeps.spdErr {b o w kind : ℕ} (h : s₀.Keeps s) : s₀.Keeps (s.spdErr b o w kind) := h.setF.setF.setF

theorem State.Keeps.spdNote {b o w : ℕ} {q : WordRead} (h : s₀.Keeps s) : s₀.Keeps (s.spdNote b o w q) := by
  unfold State.spdNote
  extract_lets word
  exact .ite h (.ite h.spdErr h.addF.spdErr.spdWr.frame)

theorem State.Keeps.spdRepair {b o : ℕ} (h : s₀.Keeps s) : s₀.Keeps (s.spdRepair b o).2 := by
  unfold State.spdRepair
  split
  · exact .ite_snd h.flagF h.kibRestore
  · exact h.flagF

theorem State.Keeps.spdLine {b o : ℕ} (h : s₀.Keeps s) : s₀.Keeps (s.spdLine b o).2 :=
  .ite_snd (h.eccLine.foldl fun _ _ h => h.spdNote) ((h.eccLine.foldl fun _ _ h => h.spdNote).spdRepair)

theorem State.Keeps.spdByte {b o : Nat} {v en : Byte} (h : s₀.Keeps s) : s₀.Keeps (s.spdByte b o v en) := by
  unfold State.spdByte
  extract_lets old new _ s1
  have h1 : s₀.Keeps s1 := h.setMem (Mems.wf_spd (Mem.wf_wr _ _ _))
  refine .ite h ?_
  split
  · exact h1.setF
  · exact h1

theorem State.Keeps.spdWordPut {b w : ℕ} {cells : List (ℕ × Byte × Byte)} (h : s₀.Keeps s) : s₀.Keeps (s.spdWordPut b w cells).2 :=
  .ite_snd ((h.foldl fun _ _ h => h.spdByte).frame) (.ite_snd (.ite_snd ((h.eccWord.spdNote.spdRepair.foldl fun _ _ h => h.spdByte).frame)
    h.eccWord.spdNote.spdRepair) ((h.eccWord.spdNote.spdWr.foldl fun _ _ h => h.spdByte).frame))

theorem State.Keeps.spdMerge {b : ℕ} {cells : List (ℕ × Byte × Byte)} (h : s₀.Keeps s) : s₀.Keeps (s.spdMerge b cells).2 :=
  .ite_snd (h.foldl fun _ _ h => h.spdByte) (h.foldl_snd fun _ _ h => h.spdWordPut)

theorem State.Keeps.spdPut {b : ℕ} {cells : List (ℕ × Byte × Byte)} (h : s₀.Keeps s) : s₀.Keeps (s.spdPut b cells) := h.spdMerge

theorem State.Keeps.spdPutBy {b id : ℕ} {cells : List (ℕ × Byte × Byte)} (h : s₀.Keeps s) : s₀.Keeps (s.spdPutBy b id cells) :=
  .ite h.spdMerge.issueFault h.spdMerge

theorem State.Keeps.gatherFlush {b o : ℕ} (h : s₀.Keeps s) : s₀.Keeps (s.gatherFlush b o) := by
  unfold State.gatherFlush
  split
  · exact .ite h h.setBx.spdPutBy
  · exact h

theorem State.Keeps.gatherDrop {b o : ℕ} (h : s₀.Keeps s) : s₀.Keeps (s.gatherDrop b o) := h.setBx

theorem State.Keeps.gatherYield {b o : ℕ} (h : s₀.Keeps s) : s₀.Keeps (s.gatherYield b o) := h.gatherFlush.gatherDrop

theorem State.Keeps.gatherEvict {b : ℕ} (h : s₀.Keeps s) : s₀.Keeps (s.gatherEvict b) := by
  unfold State.gatherEvict
  refine .ite ?_ h
  split
  · exact h.gatherYield
  · exact h

theorem State.Keeps.gatherUse {b o : ℕ} {f : GLine → GLine} (h : s₀.Keeps s) : s₀.Keeps (s.gatherUse b o f) := h.setBx.gatherEvict

theorem State.Keeps.gatherWrite {b id o : ℕ} {data : List (ℕ × Byte × Byte)} (h : s₀.Keeps s) : s₀.Keeps (s.gatherWrite b id o data) := h.gatherUse

theorem State.Keeps.gatherRead {b o : Nat} (h : s₀.Keeps s) : s₀.Keeps (s.gatherRead b o).2 := by
  unfold State.gatherRead
  extract_lets g
  split
  · exact h.gatherUse
  · split
    next e =>
      dsimp only
      exact (h.spdLine.of_snd e).gatherUse
    next e => exact h.spdLine.of_snd e

theorem State.Keeps.setPtr {b i : ℕ} {f : Fld} {v : ℕ} (h : s₀.Keeps s) : s₀.Keeps (s.setPtr b i f v) := h.setF

theorem State.Keeps.tailRun {b i n : Nat} (h : s₀.Keeps s) : s₀.Keeps (s.tailRun b i n) := by
  induction n generalizing s with
  | zero => exact h
  | succ n ih => exact .ite (ih h.setBx.setPtr) h

theorem State.Keeps.creditErr {b : ℕ} (h : s₀.Keeps s) : s₀.Keeps (s.creditErr b) := h.flagF.chipEvent

theorem State.Keeps.slotWrite {b src i : ℕ} {cells : List (ℕ × Byte × Byte)} {iss : ℕ} (h : s₀.Keeps s) : s₀.Keeps (s.slotWrite b src i cells iss).2 := by
  unfold State.slotWrite
  refine .ite_snd ?_ h.creditErr
  split
  · exact .ite (((((h.foldl fun _ _ h => h.gatherYield).spdMerge).setBx).setBx).tailRun) (((h.foldl fun _ _ h => h.gatherYield).spdMerge).setBx)
  · exact h.creditErr

theorem State.Keeps.remoteParts {b src line : ℕ} {data : List (ℕ × Byte × Byte)} {iss : ℕ} (h : s₀.Keeps s) : s₀.Keeps (s.remoteParts b src line data iss).2
    :=
  h.foldl_snd fun _ _ h => .ite_snd h.creditErr h.slotWrite

theorem State.Keeps.remoteWrite1 {b src line : ℕ} {data : List (ℕ × Byte × Byte)} {iss : ℕ} (h : s₀.Keeps s) : s₀.Keeps (s.remoteWrite1 b src line data iss)
    :=
  .ite h.remoteParts.send h.remoteParts

theorem State.Keeps.fenceAnswer {m : Msg} (h : s₀.Keeps s) : s₀.Keeps (s.fenceAnswer m) := h.frame

theorem State.Keeps.spdLines {b o n : Nat} (h : s₀.Keeps s) : s₀.Keeps (s.spdLines b o n).2 := by
  unfold State.spdLines
  refine .foldl_snd h fun _ _ h => ?_
  split
  next e => exact h.gatherFlush.spdLine.of_snd e

theorem State.Keeps.remoteReadEff {k : Nat} (h : s₀.Keeps s) : s₀.Keeps (remoteReadEff s k) := by
  unfold Machine.remoteReadEff
  split
  · split
    · dsimp only
      split
      · split
        · exact h.dropMsg.fenceAnswer
        · split
          · exact h.dropMsg.creditErr.send
          · split
            · next e => exact (h.dropMsg.spdLines.of_snd e).send
            · next e => exact (h.dropMsg.spdLines.of_snd e).send
      · exact h
    · exact h
  · exact h

theorem State.Keeps.remoteWriteEff {k : ℕ} (h : s₀.Keeps s) : s₀.Keeps (remoteWriteEff s k) := by
  unfold Machine.remoteWriteEff
  split
  · split
    · exact .ite (.ite h.dropMsg.fenceAnswer h.dropMsg.remoteWrite1) h
    · exact h
  · exact h

theorem State.Keeps.headAdvance {b i : ℕ} (h : s₀.Keeps s) : s₀.Keeps (s.headAdvance b i) := .ite (.ite h.setPtr.send (.ite h.setPtr h.setPtr.send)) h.setPtr

theorem State.Keeps.creditReturnEff {k : ℕ} (h : s₀.Keeps s) : s₀.Keeps (creditReturnEff s k) := by
  unfold Machine.creditReturnEff
  split
  · split
    · refine .ite ?_ h
      dsimp only
      split
      · exact .ite h.dropMsg.addF h.dropMsg
      · exact h.dropMsg
    · exact h
  · exact h

theorem State.Keeps.atomRequest {k : ℕ} (h : s₀.Keeps s) : s₀.Keeps (atomRequest s k) := by
  unfold Machine.atomRequest
  split
  · split
    · exact .ite (.ite h.dropMsg.fenceAnswer (.ite h.dropMsg.setRx h.dropMsg.creditErr)) h
    · exact h
  · exact h

theorem State.Keeps.countUp {b c : ℕ} (h : s₀.Keeps s) : s₀.Keeps (s.countUp b c) := h.setF

theorem State.Keeps.atomApply1 {q : AtomReq} (h : s₀.Keeps s) : s₀.Keeps (s.atomApply1 q) := by
  have hline : s₀.Keeps ((s.gatherYield q.blk q.line).spdLine q.blk q.line).2 := h.gatherYield.spdLine
  have hcount : ∀ p : Nat × State, s₀.Keeps p.2 → s₀.Keeps (if p.1 = 0 then (match q.cnt with | some c => p.2.countUp q.blk c | none => p.2) else p.2) := by
    intro p hp
    refine .ite ?_ hp
    split
    · exact hp.countUp
    · exact hp
  have hflags : ∀ (u : State) (sa nf : Bool), s₀.Keeps u →
      s₀.Keeps (if nf then (if sa then u.flagF (blkBase q.blk) F.SPD_STAT_ATOM_SAT else u).flagF (blkBase q.blk) F.SPD_STAT_ATOM_NONFINITE
        else (if sa then u.flagF (blkBase q.blk) F.SPD_STAT_ATOM_SAT else u)) :=
    fun u sa nf hu => .ite (.flagF (.ite hu.flagF hu)) (.ite hu.flagF hu)
  unfold State.atomApply1
  dsimp only
  refine State.Keeps.send (hcount _ ?_)
  split
  · next e => exact hflags _ _ _ (hline.of_snd e).spdPut
  · next e => exact hline.of_snd e

theorem State.Keeps.atomApply {r : ℕ} (h : s₀.Keeps s) : s₀.Keeps (atomApply s r) := by
  unfold Machine.atomApply
  split
  · exact .ite h.setRx.atomApply1 h
  · exact h

theorem State.Keeps.setSpdShop {b : ℕ} {o : Option ShadowOp} (h : s₀.Keeps s) : s₀.Keeps (s.setSpdShop b o) := h.setBx.setF

theorem State.Keeps.spdSync {b : ℕ} (h : s₀.Keeps s) : s₀.Keeps (spdSync s b) := .ite h h.setSpdShop

theorem State.Keeps.gatherWindow {b : ℕ} (h : s₀.Keeps s) : s₀.Keeps (s.gatherWindow b) := h.foldl fun _ _ h => h.gatherYield

theorem State.Keeps.spdRestore {b : ℕ} (h : s₀.Keeps s) : s₀.Keeps (spdRestore s b) := .ite h (.setSpdShop (.ite h.gatherWindow h.gatherWindow.flagF))

theorem State.Keeps.kibCopied {b : Nat} (h : s₀.Keeps s) : s₀.Keeps (kibCopied s b) := by
  unfold Machine.kibCopied
  split
  · split
    next e =>
    have h1 := h.spdLines.of_snd e
    refine State.Keeps.setSpdShop ?_
    split
    · exact .setF (h1.setMem (Mems.wf_sshadow (Mem.wf_wrN _ _ _)))
    · exact h1
  · exact h

theorem State.Keeps.windowRestore {b : ℕ} (h : s₀.Keeps s) : s₀.Keeps (s.windowRestore b) := ((h.setBx.foldl fun _ _ h => h.kibRestore).setReg).setReg

theorem State.Keeps.lineWrite {b id o : ℕ} {full : Bool} {data : List (ℕ × Byte × Byte)} (h : s₀.Keeps s) : s₀.Keeps (s.lineWrite b id o full data) :=
  .ite h.setBx (.ite h.gatherYield.spdPutBy h.gatherWrite)

theorem State.Keeps.heldGo {b : ℕ} (h : s₀.Keeps s) : s₀.Keeps (s.heldGo b) := h.setBx.foldl fun _ _ h => h.lineWrite

theorem State.Keeps.spdDone {b : ℕ} (h : s₀.Keeps s) : s₀.Keeps (spdDone s b) := by
  unfold Machine.spdDone
  split
  · exact h.windowRestore.setSpdShop.heldGo
  · exact h.setSpdShop
  · exact h

end

end Sys2Proof.Machine
end

section
/-! SUPPORT. What every function of host commands keeps. -/

namespace Sys2Proof.Machine

section
variable {s₀ s : State}

theorem State.Keeps.advSeq (h : s₀.Keeps s) : s₀.Keeps (s.advSeq) := h.frameMail

theorem State.pghRefuse_mail (s : State) (m off wr : Nat) : (s.pghRefuse m off wr).mail = s.mail := by
  unfold State.pghRefuse
  extract_lets stat s1 s2
  have h1 : s1.mail = s.mail := by
    unfold s1
    split
    · rw [State.setF_mail, State.setF_mail, State.setF_mail]
    · rfl
  have h2 : s2.mail = s.mail := (State.setF_mail _ _ _ _).trans h1
  split
  · exact (State.setInt_mail _ _).trans h2
  · exact h2

theorem State.pghNote_mail (s : State) (m off n : Nat) : (s.pghNote m off n).mail = s.mail := by
  unfold State.pghNote
  split
  · rfl
  · split
    · exact State.pghRefuse_mail _ _ _ _
    · rfl

theorem State.Keeps.hostTake {own : Taken → Bool} {f : Taken → State → State} (h : s₀.Keeps s)
    (hf : ∀ {s₀ u : State} {t : Taken}, s₀.Keeps u → s₀.Owns t.id → s₀.Keeps (f t u)) : s₀.Keeps (s.hostTake own f) := by
  have hid : s.packet.1.id = s.mail.nextId := rfl
  unfold State.hostTake
  generalize hp : s.packet = p at hid ⊢
  obtain ⟨t, plen, crcOk⟩ := p
  dsimp only at hid ⊢
  split
  · have h0 : s₀.Keeps (s.pghNote 0 (0x2000 * (s.sdio.cmdCi % 32)) (20 + min plen 4064)) := h.pghNote
    have hm : (s.pghNote 0 (0x2000 * (s.sdio.cmdCi % 32)) (20 + min plen 4064)).mail = s.mail := s.pghNote_mail _ _ _
    generalize s.pghNote 0 (0x2000 * (s.sdio.cmdCi % 32)) (20 + min plen 4064) = s0 at h0 hm ⊢
    have h1 : s₀.Keeps { s0 with
        sdio := { s0.sdio with cmdCi := (s.sdio.cmdCi + 1) % 64, clash := [] }, mail := { s0.mail with nextId := s.mail.nextId + 1 } } :=
      h0.setMail (Mail.fresh_of_next (hm ▸ Nat.le_succ _)) (hm ▸ Nat.le_succ _)
    split
    · exact .queueReply (.ite h1.advSeq h1)
    · split
      · exact h1.advSeq.queueReply
      · refine h0.trans (State.Keeps.trans (.setMail (.refl _) (fun hs => ?_) (hm ▸ Nat.le_succ _)) (hf (.refl _) fun _ => ?_))
        · rw [hm] at hs ⊢
          exact Mail.fresh_of_taken hid hs
        · rw [hid]
          exact Nat.lt_succ_self _
  · exact h

theorem State.Keeps.hostCmd {op : Nat} {f : Taken → State → State} (h : s₀.Keeps s)
    (hf : ∀ {s₀ u : State} {t : Taken}, s₀.Keeps u → s₀.Owns t.id → s₀.Keeps (f t u)) : s₀.Keeps (s.hostCmd op f) := h.hostTake hf

theorem State.Keeps.fail {t : Taken} {status : ℕ} (h : s₀.Keeps s) : s₀.Keeps (s.fail t status) := h.finish

theorem State.Keeps.goesOn {t : Taken} (h : s₀.Keeps s) : s₀.Keeps (s.goesOn t) := .ite h.takeFree.replyPending h.takeFree

theorem State.Keeps.goesOnIf {t : Taken} (h : s₀.Keeps s) : s₀.Keeps (s.goesOnIf t) := .ite h.goesOn h

end

end Sys2Proof.Machine
end

section
/-! SUPPORT. What every function of securing and collectives keeps. -/

namespace Sys2Proof.Machine

section
variable {s₀ s : State}

theorem State.Keeps.hubSend {m : CMsg} {tok : ℕ} {rd : Bool} (h : s₀.Keeps s) : s₀.Keeps (s.hubSend m tok rd) := .ite h.originate h.frame.originate

theorem State.Keeps.nimSend {c op epoch step arg : ℕ} {digest data : List Byte} {tok : ℕ} (h : s₀.Keeps s) : s₀.Keeps (s.nimSend c op epoch step arg digest
    data tok) := h.hubSend

theorem State.Keeps.nimTo {m op epoch step arg : ℕ} (h : s₀.Keeps s) : s₀.Keeps (s.nimTo m op epoch step arg) := h.nimSend

theorem State.Keeps.nimAll {op epoch step arg : ℕ} {data : List Byte} (h : s₀.Keeps s) : s₀.Keeps (s.nimAll op epoch step arg data) :=
  h.foldl fun _ _ h => h.nimSend

theorem State.Keeps.nimMsg {k op : Nat} {f : CMsg → State → State} (h : s₀.Keeps s) (hf : ∀ m u, s₀.Keeps u → s₀.Keeps (f m u)) :
    s₀.Keeps (s.nimMsg k op f) := by
  unfold State.nimMsg
  split
  · exact .ite (.ite (hf _ _ (.ite h.takeInbox h.takeInbox.originate)) h.takeInbox) h
  · exact h

theorem State.Keeps.macImage {m : ℕ} (h : s₀.Keeps s) : s₀.Keeps (s.macImage m).2 := h.foldl_snd fun _ _ h => .ite_snd h.readRow h

theorem State.Keeps.winImage {b : Nat} (h : s₀.Keeps s) : s₀.Keeps (s.winImage b).2 := by
  unfold State.winImage
  refine State.Keeps.foldl_snd h fun _ _ h => ?_
  split
  next e => exact h.spdLines.of_snd e

theorem State.Keeps.shardBytes {k : Nat} (h : s₀.Keeps s) : s₀.Keeps (s.shardBytes k).2 := by
  unfold State.shardBytes
  extract_lets base n
  split
  · refine State.Keeps.foldl_snd h fun _ _ h => ?_
    split
    next e => exact h.macImage.of_snd e
  · exact h.hubRead
  · refine State.Keeps.foldl_snd h fun _ _ h => ?_
    split
    next e => exact h.winImage.of_snd e
  · exact h

theorem State.Keeps.imageBytes (h : s₀.Keeps s) : s₀.Keeps (s.imageBytes).2 := h.foldl_snd fun _ _ h => h.shardBytes

theorem State.Keeps.newSec {e : ℕ} (h : s₀.Keeps s) : s₀.Keeps (s.newSec e) := by
  unfold State.newSec
  extract_lets t
  have ht : s₀.Keeps t := h.hubWrite
  exact ht.frame

theorem State.Keeps.secFor {e : ℕ} (h : s₀.Keeps s) : s₀.Keeps (s.secFor e) := by
  unfold State.secFor
  split
  · exact .ite h h.newSec
  · exact h.newSec

theorem State.Keeps.modSec {f : Securing → Securing} (h : s₀.Keeps s) : s₀.Keeps (s.modSec f) := h.frame

theorem State.Keeps.sendParity {e st : ℕ} {d : List Byte} (h : s₀.Keeps s) : s₀.Keeps (s.sendParity e st d) := h.foldl fun _ _ h => h.nimSend.nimSend

theorem State.Keeps.sendAllParity {e : Nat} (h : s₀.Keeps s) : s₀.Keeps (s.sendAllParity e) := by
  unfold State.sendAllParity
  extract_lets n own
  refine h.foldl fun _ _ h => .ite ?_ h
  split
  next e => exact (h.hubRead.of_snd e).sendParity

theorem State.Keeps.sendDigests {e : ℕ} {dig : List (List Byte)} (h : s₀.Keeps s) : s₀.Keeps (s.sendDigests e dig) :=
  h.foldl fun _ _ h => h.foldl fun _ _ h => h.nimSend

theorem State.Keeps.finishEpoch {roots : List Byte} (h : s₀.Keeps s) : s₀.Keeps (s.finishEpoch roots) := by
  unfold State.finishEpoch
  split
  · exact .frame (.foldl (.postEvent (.addF (.setF (.setF (.faultFlush (.ite h.hubWrite h)))))) fun _ _ h => h.finish)
  · exact h

theorem State.Keeps.trySecured (h : s₀.Keeps s) : s₀.Keeps (s.trySecured) := by
  unfold State.trySecured
  split
  · exact .ite h.modSec.nimSend h
  · exact h

theorem State.Keeps.freezeEff (h : s₀.Keeps s) : s₀.Keeps (freezeEff s) := by
  unfold Machine.freezeEff
  extract_lets want e step s1 s2
  have h2 : s₀.Keeps s2 := h.dropRequest.goChip.secFor.modSec
  refine .ite h (.ite h.hznWake (.ite h ?_))
  split
  next e => exact (h2.imageBytes.of_snd e).hubWrite.modSec.frame

theorem State.Keeps.lateCopy {v : Securing} (h : s₀.Keeps s) : s₀.Keeps (s.lateCopy v) := by
  unfold State.lateCopy
  dsimp only
  exact h.modSec.foldl fun _ _ h => h.macImage.foldl fun _ _ h => h.hubWrite

theorem State.Keeps.freezeCopied (h : s₀.Keeps s) : s₀.Keeps (freezeCopied s) := by
  unfold Machine.freezeCopied
  split
  · exact .ite (.ite h.lateCopy.modSec.goChip.sendAllParity h.lateCopy.modSec.goChip) h
  · exact h

theorem State.Keeps.digestsFormed (h : s₀.Keeps s) : s₀.Keeps (digestsFormed s) := by
  unfold Machine.digestsFormed
  split
  · refine .ite ?_ h
    split
    next e =>
    have h1 := h.hubRead.of_snd e
    exact .ite h1.hubWrite.hubWrite.modSec.sendDigests.trySecured h1.hubWrite.hubWrite.modSec.finishEpoch
  · exact h

theorem State.Keeps.parityIn {m : CMsg} (h : s₀.Keeps s) : s₀.Keeps (parityIn m s) := by
  unfold Machine.parityIn
  refine .ite ?_ h
  extract_lets s1 a
  have h1 : s₀.Keeps s1 := h.secFor
  split
  next e => exact (h1.hubRead.of_snd e).hubWrite.modSec.trySecured

theorem State.Keeps.digestsIn {m : CMsg} (h : s₀.Keeps s) : s₀.Keeps (digestsIn m s) := .ite h.secFor.hubWrite h

theorem State.Keeps.securedIn {m : CMsg} (h : s₀.Keeps s) : s₀.Keeps (securedIn m s) := by
  unfold Machine.securedIn
  refine .ite ?_ h
  dsimp only
  split
  · exact .ite h.secFor.modSec.nimAll h.secFor.modSec
  · exact h.secFor.modSec

theorem State.Keeps.epochDoneIn {m : CMsg} (h : s₀.Keeps s) : s₀.Keeps (epochDoneIn m s) := by
  unfold Machine.epochDoneIn
  split
  · exact .ite h.finishEpoch h
  · exact h

theorem State.Keeps.secureRequest (h : s₀.Keeps s) : s₀.Keeps (s.secureRequest) := by
  unfold State.secureRequest
  dsimp only
  refine .ite h ?_
  split
  · exact h.flagF
  · exact h.flagF
  · exact .ite h.flagF.nimTo h.flagF.frame
  · exact h

theorem State.Keeps.nimEdge (h : s₀.Keeps s) : s₀.Keeps (s.nimEdge) := .ite h.frame h

theorem State.Keeps.formGroup {k gid own : ℕ} {shared : Bool} {es : List (ℕ × ℕ)} (h : s₀.Keeps s) : s₀.Keeps (s.formGroup k gid own shared es) := by
  unfold State.formGroup
  refine (h.abandonSecuring.dropRequest.faultFlush.setF.setF.setF.setF.setF.setF.setF.setF.foldl fun _ _ h => ?_).frame
  split <;> exact h.setReg

end

end Sys2Proof.Machine
end

section
/-! SUPPORT. What every function of images keeps. -/

namespace Sys2Proof.Machine

section
variable {s₀ s : State}

theorem State.Keeps.imgDrop {p : ImgRec → Bool} (h : s₀.Keeps s) : s₀.Keeps (s.imgDrop p) := h.frame

theorem State.Keeps.imgAdd {r : ImgRec} (h : s₀.Keeps s) : s₀.Keeps (s.imgAdd r) := by
  unfold State.imgAdd
  extract_lets s1
  have h1 : s₀.Keeps s1 := h.imgDrop
  exact h1.frame

theorem State.Keeps.shadowWr {kind o : Nat} {d : List Byte} (h : s₀.Keeps s) : s₀.Keeps (s.shadowWr kind o d) :=
  .ite (h.setMem (Mems.wf_wshadow (Mem.wf_wrN _ _ _))) (.ite (h.setMem (Mems.wf_cirrus (Mem.wf_wrN _ _ _)))
    (h.setMem (Mems.wf_sshadow (Mem.wf_wrN _ _ _))))

theorem State.Keeps.imgListEff {t : Taken} (h : s₀.Keeps s) : s₀.Keeps (imgListEff t s) := .ite h.fail h.finish

theorem State.Keeps.imgEnd {t : Taken} {sha : List Byte} (h : s₀.Keeps s) : s₀.Keeps (s.imgEnd t sha) := .ite h.imgAdd.finish h.imgDrop.fail

theorem State.Keeps.imgWriteGo {t : Taken} (h : s₀.Keeps s) (ht : s₀.Owns t.id) : s₀.Keeps (s.imgWriteGo t) := (h.armIn ht).setTaken

theorem State.Keeps.imgWriteEff {t : Taken} (h : s₀.Keeps s) (ht : s₀.Owns t.id) : s₀.Keeps (imgWriteEff t s) := by
  unfold Machine.imgWriteEff
  refine .ite h.fail ?_
  split
  · exact h.fail
  · exact .goesOn (.ite (h.holdIn ht) (h.imgWriteGo ht))

theorem State.Keeps.imgWritten {t : Taken} {d : List Byte} (h : s₀.Keeps s) : s₀.Keeps (s.imgWritten t d) := h.shadowWr.imgEnd

theorem State.Keeps.imgAsk {t : Taken} {a tok : ℕ} (h : s₀.Keeps s) : s₀.Keeps (s.imgAsk t a tok) := h.hubSend

theorem State.Keeps.pullAsk {t : Taken} {i : ℕ} (h : s₀.Keeps s) : s₀.Keeps (s.pullAsk t i) := h.imgAsk

theorem State.Keeps.imgPullGo {t : Taken} (h : s₀.Keeps s) : s₀.Keeps (s.imgPullGo t) := .ite h.fail (h.setTaken.foldl fun _ _ h => h.imgAsk)

theorem State.Keeps.pullGo {t : Taken} (h : s₀.Keeps s) : s₀.Keeps (s.pullGo t) := h.setTaken.foldl fun _ _ h => h.pullAsk

theorem State.Keeps.dirPart {d : List Byte} {e : ℕ} (h : s₀.Keeps s) : s₀.Keeps (s.dirPart d e) := by
  unfold State.dirPart
  split
  · exact .ite h (.ite h.setTaken (.ite h.pullGo h.fail))
  · exact h

theorem State.Keeps.imgPullEff {t : Taken} (h : s₀.Keeps s) : s₀.Keeps (imgPullEff t s) := by
  unfold Machine.imgPullEff
  refine .ite h.fail ?_
  split
  · exact h.fail
  · exact .goesOnIf (.ite h h.imgPullGo)

theorem State.Keeps.pullPart {i : ℕ} {d : List Byte} {e : ℕ} (h : s₀.Keeps s) : s₀.Keeps (s.pullPart i d e) := by
  unfold State.pullPart
  split
  · exact .ite h (.ite (.pullAsk (.setTaken (.ite h.shadowWr h))) (.ite (.ite (.fail (.imgDrop (.setTaken (.ite h.shadowWr h)))) (.imgEnd (.setTaken (.ite
    h.shadowWr h)))) (.setTaken (.ite h.shadowWr h))))
  · exact h

theorem State.Keeps.imgDeleteEff {t : Taken} (h : s₀.Keeps s) : s₀.Keeps (imgDeleteEff t s) := .ite h.fail (.ite h.fail (.ite h.fail h.imgDrop.finish))

theorem State.Keeps.imgReadEff {t : Taken} (h : s₀.Keeps s) (ht : s₀.Owns t.id) : s₀.Keeps (imgReadEff t s) := by
  unfold Machine.imgReadEff
  refine .ite h.fail ?_
  split
  · exact .ite h.fail ((h.armOut ht).goesOn)
  · exact h.fail

theorem State.Keeps.syncGo (h : s₀.Keeps s) : s₀.Keeps (s.syncGo) := by
  unfold State.syncGo
  split
  · exact .ite h (.ite h.finish (.ite h.fail h.imgAdd.finish))
  · exact h

theorem State.Keeps.shadowSyncEff {t : Taken} (h : s₀.Keeps s) : s₀.Keeps (shadowSyncEff t s) :=
  .ite h.fail (.goesOnIf (.syncGo (.ite ((h.foldl fun _ _ h => .ite h.shadowSync h).foldl fun _ _ h => .ite h.spdSync h) (h.foldl fun _ _ h => .ite
    h.shadowSync h))))

end

end Sys2Proof.Machine
end

section
/-! SUPPORT. What every function of recovery keeps. -/

namespace Sys2Proof.Machine

section
variable {s₀ s : State}

theorem State.Keeps.setGrad {g : ℕ} (h : s₀.Keeps s) : s₀.Keeps (s.setGrad g) := h.setF

theorem State.Keeps.gradReset (h : s₀.Keeps s) : s₀.Keeps (s.gradReset) := by
  unfold State.gradReset
  extract_lets s1
  have h1 : s₀.Keeps s1 := h.setGrad.setF
  exact h1.frame

theorem State.Keeps.addStripe {q m : ℕ} (h : s₀.Keeps s) : s₀.Keeps (s.addStripe q m) := by
  unfold State.addStripe
  dsimp only
  exact h.foldl fun _ _ h => .ite h.hubRead.hubAdd h.hubRead.hubSend

theorem State.Keeps.tellAdded (h : s₀.Keeps s) : s₀.Keeps (s.tellAdded) := h.foldl fun _ _ h => .ite h h.nimTo.frame

theorem State.Keeps.startReduce (h : s₀.Keeps s) : s₀.Keeps (s.startReduce) := by
  unfold State.startReduce
  extract_lets s1 _ s2
  have h1 : s₀.Keeps s1 := h.setGrad
  have h2 : s₀.Keeps s2 := h1.frame
  exact (h2.foldl_fst fun _ _ h => h.addStripe).tellAdded

theorem State.Keeps.commitStep {step contrib : ℕ} (h : s₀.Keeps s) : s₀.Keeps (s.commitStep step contrib) := h.hubStore.setGrad.hubCount.frame

theorem State.Keeps.reductionStart (h : s₀.Keeps s) : s₀.Keeps (reductionStart s) := .ite h (.ite h.frame.setGrad.hubCount (.ite h.frame.startReduce h))

theorem State.Keeps.tellPushed (h : s₀.Keeps s) : s₀.Keeps (s.tellPushed) := by
  unfold State.tellPushed
  split
  · exact .ite ((h.foldl fun _ _ h => h.nimTo).frame) h
  · exact h

theorem State.Keeps.pushStripe {i : ℕ} (h : s₀.Keeps s) : s₀.Keeps (s.pushStripe i) :=
  (((h.hubRead.foldl fun _ _ h => .ite h.hubWrite (h.foldl fun _ _ h => h.hubSend)).hubWrite).frame).tellPushed

theorem State.Keeps.tryPush (h : s₀.Keeps s) : s₀.Keeps (s.tryPush) := by
  unfold State.tryPush
  split
  · exact .ite h.pushStripe h
  · exact h

theorem State.Keeps.tryReady (h : s₀.Keeps s) : s₀.Keeps (s.tryReady) := .ite h.setGrad.nimTo h

theorem State.Keeps.readyIn {m : CMsg} (h : s₀.Keeps s) : s₀.Keeps (readyIn m s) := by
  unfold Machine.readyIn
  extract_lets _ s1
  have h1 : s₀.Keeps s1 := h.frame
  exact .ite h1.nimAll.frame h1

theorem State.Keeps.peerLostErr {c : ℕ} (h : s₀.Keeps s) : s₀.Keeps (s.peerLostErr c) := h.raiseChip

theorem State.Keeps.askStatus (h : s₀.Keeps s) : s₀.Keeps (s.askStatus) := h.frame.foldl fun _ _ h => h.nimTo

theorem State.Keeps.tryDecide (h : s₀.Keeps s) : s₀.Keeps (s.tryDecide) := .ite h.nimAll h

theorem State.Keeps.loseMember {m : ℕ} (h : s₀.Keeps s) : s₀.Keeps (s.loseMember m) :=
  .ite h (.ite (.tryDecide (.askStatus (.foldl (.frame (.ite h.setF.postEvent h.setF.postEvent.abandonSecuring)) fun _ _ h => h.nimTo))) (.foldl (.frame
    (.ite h.setF.postEvent h.setF.postEvent.abandonSecuring)) fun _ _ h => h.nimTo))

theorem State.Keeps.losePeer {c : ℕ} (h : s₀.Keeps s) : s₀.Keeps (s.losePeer c) := by
  unfold State.losePeer
  split
  · exact .ite h.loseMember h
  · exact h.postEvent.peerLostErr

theorem State.Keeps.pingPeer {c : ℕ} (h : s₀.Keeps s) : s₀.Keeps (s.pingPeer c) := .ite h.nimSend.frame h

theorem State.Keeps.settle {e : ℕ} (h : s₀.Keeps s) : s₀.Keeps (s.settle e) := by
  unfold State.settle
  split
  · exact .ite h.finishEpoch.frame h.abandonSecuring
  · exact h

theorem State.Keeps.raiseLost (h : s₀.Keeps s) : s₀.Keeps (s.raiseLost) := h.frame.foldl fun _ _ h => h.peerLostErr

theorem State.Keeps.tryPath1 (h : s₀.Keeps s) : s₀.Keeps (s.tryPath1) := by
  unfold State.tryPath1
  dsimp only
  split
  · exact .ite h.flagF.frame.raiseLost h
  · exact h

theorem State.Keeps.commitIn {m : CMsg} (h : s₀.Keeps s) : s₀.Keeps (commitIn m s) := by
  unfold Machine.commitIn
  extract_lets step s1 _ s2 s3
  have h1 : s₀.Keeps s1 := h.commitStep
  have h2 : s₀.Keeps s2 := h1.frame
  have h3 : s₀.Keeps s3 := h2.flagF
  exact .tryPath1 (.ite h3.frame h2)

theorem State.Keeps.decideIn {m : CMsg} (h : s₀.Keeps s) : s₀.Keeps (decideIn m s) := by
  unfold Machine.decideIn
  extract_lets d S lostNow _ _ s0 s1
  have h0 : s₀.Keeps s0 := h.frame
  have h1 : s₀.Keeps s1 := h0.settle
  exact .ite (.tryPath1 (.frame (.ite h1 h1.commitStep))) (.ite h1.hubWrite.frame.nimTo (.ite h1.raiseLost h1.flagF.raiseChip))

theorem State.Keeps.putMacros {base : ℕ} {img : List Byte} {n : ℕ} (h : s₀.Keeps s) : s₀.Keeps (s.putMacros base img n) :=
  h.foldl fun _ _ h => .ite (h.foldl fun _ _ h => h.writeRow) h

theorem State.Keeps.putWindows {base : ℕ} {img : List Byte} {n : ℕ} (h : s₀.Keeps s) : s₀.Keeps (s.putWindows base img n) :=
  h.foldl fun _ _ h => .ite h.spdPut h

theorem State.Keeps.putImage {e : Nat} (h : s₀.Keeps s) : s₀.Keeps (s.putImage e) := by
  obtain ⟨read, hr, hread⟩ := State.Keeps.exists_hubRead s₀
  generalize hF : State.putImage = F
  delta State.putImage at hF
  rw [← hr] at hF
  clear hr
  subst hF
  refine State.Keeps.foldl_fst h fun acc k h => ?_
  dsimp only
  have h1 := hread acc.1 (acc.1.nimBuf e + acc.2 * mib) (acc.1.shardChunks k * mib / 64) h
  split
  · exact h1.putMacros
  · exact h1.hubWrite
  · exact h1.putWindows
  · exact h1

theorem State.Keeps.restored {base : ℕ} (h : s₀.Keeps s) : s₀.Keeps (s.restored base) := h.noteEnded.stopContexts.jobReset.gradReset.liftFences.frame.goChip

theorem State.Keeps.restoreFail {cmd status : ℕ} (h : s₀.Keeps s) : s₀.Keeps (s.restoreFail cmd status) := h.finish.chipEvent.frame.enterFaulted

theorem State.Keeps.goRestoring (h : s₀.Keeps s) : s₀.Keeps (s.goRestoring) := h.frame.goChip.hznWake

theorem State.Keeps.digestsMatch {e : Nat} (h : s₀.Keeps s) : s₀.Keeps (s.digestsMatch e).2 := by
  obtain ⟨read, hr, hread⟩ := State.Keeps.exists_hubRead s₀
  generalize hF : State.digestsMatch = F
  delta State.digestsMatch at hF
  rw [← hr] at hF
  clear hr
  subst hF
  exact hread _ _ _ (hread _ _ _ h)

theorem State.Keeps.restoreDone (h : s₀.Keeps s) : s₀.Keeps (restoreDone s) := by
  unfold Machine.restoreDone
  split
  · refine .ite h (.ite (.ite h.restored.finish h.restoreFail) (.ite h.restoreFail ?_))
    split
    next e =>
    have h1 := h.digestsMatch.of_snd e
    exact .ite h1.putImage.restored.finish h1.restoreFail
  · exact h

theorem State.Keeps.beginRebuild {t : Taken} {adopt : Bool} {coord group epoch : ℕ} (h : s₀.Keeps s) : s₀.Keeps (s.beginRebuild t adopt coord group epoch) :=
  h.goRestoring.frame.goesOn

theorem State.Keeps.rebuildErr {e : ℕ} (h : s₀.Keeps s) : s₀.Keeps (s.rebuildErr e) := h.frame

theorem State.Keeps.askPart {m a lines i : ℕ} (h : s₀.Keeps s) : s₀.Keeps (s.askPart m a lines i) := h.hubSend.frame

theorem State.Keeps.askAll {r : Rebuild} (h : s₀.Keeps s) : s₀.Keeps (s.askAll r) :=
  .ite (((h.foldl_fst fun _ _ h => h.foldl fun _ _ h => h.askPart).foldl fun _ _ h => h.askPart).askPart) (h.foldl_fst fun _ _ h => h.foldl fun _ _ h =>
    h.askPart)

theorem State.Keeps.sendMembers {c : ℕ} (h : s₀.Keeps s) : s₀.Keeps (s.sendMembers c) := .ite h.nimSend h

theorem State.Keeps.takeMembers {r : Rebuild} {m : CMsg} {own : ℕ} (h : s₀.Keeps s) : s₀.Keeps (s.takeMembers r m own) :=
  .frame (.ite (((((((h.foldl fun _ _ h => h.setReg).setF).setF).setF).setF).setF).setF) ((((((h.foldl fun _ _ h => h.setReg).setF).setF).setF).setF).setF))

theorem State.Keeps.membersIn {m : CMsg} (h : s₀.Keeps s) : s₀.Keeps (membersIn m s) := by
  unfold Machine.membersIn
  split
  · refine .ite h ?_
    split
    · exact h.rebuildErr
    · exact .ite h.rebuildErr h.takeMembers.takeFree.frame.askAll
  · exact h

theorem State.Keeps.rebuildPart {i : ℕ} {d : List Byte} {e : ℕ} (h : s₀.Keeps s) : s₀.Keeps (s.rebuildPart i d e) := .ite h.frame h.frame.rebuildErr

theorem State.Keeps.putDigests {r : Rebuild} {dig : List (List Byte)} {devRoots : List Byte} (h : s₀.Keeps s) : s₀.Keeps (s.putDigests r dig devRoots) :=
  h.hubWrite.hubWrite.hubWrite.hubWrite.hubWrite

theorem State.Keeps.putResult {r : Rebuild} (h : s₀.Keeps s) : s₀.Keeps (s.putResult r) := (h.foldl fun _ _ h => h.hubWrite).hubStore

theorem State.Keeps.rebuildDone (h : s₀.Keeps s) : s₀.Keeps (rebuildDone s) := by
  unfold Machine.rebuildDone
  split
  · exact .ite h (.ite h.restoreFail (.ite h.restoreFail (.ite h (.ite h.restoreFail (.finish (.foldl (.frame (.restored (.setReg (.ite (.putResult
    (.putImage (.setF (.setF (.setF (.putDigests (.ite h.hubWrite.hubWrite h.hubWrite.hubWrite.faultFlush))))))) (.putImage (.setF (.setF (.setF (.putDigests
      (.ite h.hubWrite.hubWrite h.hubWrite.hubWrite.faultFlush)))))))))) fun _ _ h => h.nimTo))))))
  · exact h

theorem State.Keeps.hubAnswer {tok : ℕ} {d : List Byte} {e : ℕ} (h : s₀.Keeps s) : s₀.Keeps (s.hubAnswer tok d e) :=
  .ite h.dirPart (.ite h.pullPart (.ite h.rebuildPart (.ite h (.ite (.ite (.tellAdded (.ite h h.frame)) (.ite h h.frame)) (.ite (.tellPushed (.ite h
    h.frame)) (.trySecured (.ite h h.frame)))))))

theorem State.Keeps.writeAck {k : ℕ} (h : s₀.Keeps s) : s₀.Keeps (writeAck s k) := by
  unfold Machine.writeAck
  split
  · split
    · exact .ite h.dropMsg.ackIssue (.ite h.dropMsg.served1 h.dropMsg.hubAnswer)
    · exact .ite h (.ite h.dropMsg.served1 h.dropMsg.hubAnswer)
    · exact h
  · exact h

theorem State.Keeps.timeoutEff {k : ℕ} (h : s₀.Keeps s) : s₀.Keeps (timeoutEff s k) := by
  unfold Machine.timeoutEff
  split
  · exact h.handBack.addF.flagF.pingPeer
  · exact h

theorem State.Keeps.afterRetire (h : s₀.Keeps s) : s₀.Keeps (s.afterRetire) := h.completeSets.tryPath1

end

end Sys2Proof.Machine
end

section
/-! SUPPORT. What every function of self-test keeps. -/

namespace Sys2Proof.Machine

section
variable {s₀ s : State}

theorem State.Keeps.bistTake {k : ℕ} (h : s₀.Keeps s) : s₀.Keeps (s.bistTake k) := .ite h.setF.setF h.setF

theorem State.Keeps.testUnit {k u : ℕ} (h : s₀.Keeps s) : s₀.Keeps (s.testUnit k u).2 := .ite_snd h.takeAge h

theorem State.Keeps.sliceFillR {r n : Nat} (h : s₀.Keeps s) : s₀.Keeps (s.sliceFillR r n) := by
  induction n generalizing s with
  | zero => exact h
  | succ n ih =>
    unfold State.sliceFillR
    dsimp only
    split
    · refine .ite h ?_
      split
      · exact .ite h (.ite (ih h.testUnit.setSlice.sbPeak) (ih h.testUnit.setSlice.bistTake))
      · exact h
    · exact h

theorem State.Keeps.sliceRet (h : s₀.Keeps s) : s₀.Keeps (s.sliceRet) := by
  unfold State.sliceRet
  split <;> exact h.frame

theorem State.Keeps.sliceEnd {n : Nat} (h : s₀.Keeps s) : s₀.Keeps (s.sliceEnd n) := by
  induction n generalizing s with
  | zero => exact h.sliceRet
  | succ n ih =>
    have hfill : s₀.Keeps ((List.range 17).foldl (fun st r => st.sliceFillR r 40) s) := h.foldl fun _ _ h => h.sliceFillR
    unfold State.sliceEnd
    dsimp only
    split
    · split
      · exact hfill.sliceRet
      · split
        · exact ih hfill.moveCursors.setSlice
        · split
          · exact hfill.moveCursors.setSlice.sliceRet
          · exact hfill.moveCursors.setSlice.sliceRet.finishOpt
    · exact hfill.sliceRet

theorem State.Keeps.sliceGo (h : s₀.Keeps s) : s₀.Keeps (s.sliceGo) := .ite (.ite h.sliceDrop.sliceEnd h) h.sliceDrop.sliceLeave

theorem State.Keeps.sliceStart {source sel budget : ℕ} {cmd : Option ℕ} (h : s₀.Keeps s) : s₀.Keeps (s.sliceStart source sel budget cmd) := by
  unfold State.sliceStart
  refine .sliceGo (.setSlice (.addF ?_))
  split
  · exact h.moveCursors
  · exact h

theorem State.Keeps.sliceRecord {budget sel : ℕ} (h : s₀.Keeps s) : s₀.Keeps (s.sliceRecord budget sel) := .ite h.sliceStart h

theorem State.Keeps.bistClaim {code : ℕ} (h : s₀.Keeps s) : s₀.Keeps (bistClaim s code) := by
  unfold Machine.bistClaim
  dsimp only
  split
  · split
    · exact .ite h.sliceGo (.ite (.ite (.sliceGo (.ite h.setSlice.bistTake.recalWindow h.setSlice.bistTake)) h.addF.setSlice.sliceGo) h)
    · exact h
  · exact h

theorem State.Keeps.bistNote {t : TestUnit} {f : Found} (h : s₀.Keeps s) : s₀.Keeps (s.bistNote t f) :=
  .ite h (.ite h.frame.flagF.chipEvent h.frame.flagF.chipEvent)

theorem State.Keeps.errorsOf {n per : ℕ} (h : s₀.Keeps s) : s₀.Keeps (s.errorsOf n per).2 := .ite_snd h h.takeFree

theorem State.Keeps.failMask {ok : Bool} (h : s₀.Keeps s) : s₀.Keeps (s.failMask ok).2 := .ite_snd h h.takeFree

theorem State.Keeps.bistColumn {m c : ℕ} (h : s₀.Keeps s) : s₀.Keeps (s.bistColumn m c).2 := by
  unfold State.bistColumn
  split
  · exact h.setReg
  · exact h

theorem State.Keeps.markBad {code mask : ℕ} (h : s₀.Keeps s) : s₀.Keeps (s.markBad code mask) := h.frame

theorem State.Keeps.marchZero {m : Nat} (h : s₀.Keeps s) : s₀.Keeps (s.marchZero m) :=
  h.setMem fun hm => Mems.wf_acc (m := { s.mem with rows := _ }) (Mem.wf_clear _ _ _) (Mems.wf_rows (Mem.wf_clear _ _ _) hm)

theorem State.Keeps.bistMacro {m x0 : Nat} (h : s₀.Keeps s) : s₀.Keeps (s.bistMacro m x0).2 := by
  unfold State.bistMacro
  extract_lets x s1 bad
  have h2 : s₀.Keeps (bad.foldl (fun (acc : Nat × State) c =>
      if (List.range 16).any (fun (i : Nat) => (acc.2.remap m i).testBit 15 && decide (acc.2.remap m i % 2048 = c)) then acc
      else
        let (ok, st) := acc.2.bistColumn m c
        (if ok then acc.1 + 1 else acc.1, st)) (0, s1)).2 :=
    State.Keeps.foldl_snd h.markBad fun _ _ h => .ite_snd h h.bistColumn
  split
  next e =>
  extract_lets s3 failed s4 any
  have h3 : s₀.Keeps s3 := (h2.of_snd e).marchZero.restoreAll
  have h4 : s₀.Keeps s4 := .ite h3.setF h3
  exact h4.errorsOf

theorem State.Keeps.bistMacros {t : TestUnit} {ok : Bool} (h : s₀.Keeps s) : s₀.Keeps (s.bistMacros t ok) := by
  unfold State.bistMacros
  split
  next e =>
  refine State.Keeps.bistNote (.of_snd ?_ e)
  refine .foldl_snd h fun _ _ h => .ite_snd h.addF ?_
  split
  next e =>
  split
  next e' => exact (h.failMask.of_snd e).bistMacro.of_snd e'

theorem State.Keeps.bistLine {b l : ℕ} (h : s₀.Keeps s) : s₀.Keeps (s.bistLine b l).2 := by
  unfold State.bistLine
  dsimp only
  split
  · exact h.setReg
  · exact h

theorem State.Keeps.bistLines {t : TestUnit} {ls : List Nat} {x : Nat} (h : s₀.Keeps s) : s₀.Keeps (s.bistLines t ls x) := by
  refine State.Keeps.bistNote (.errorsOf (.foldl (.foldl_snd h.markBad fun _ _ h => h.bistLine) fun _ _ h => ?_))
  exact h.setMem (Mems.wf_spd (Mem.wf_clear _ _ _))

theorem State.Keeps.bistFull {t : TestUnit} {x : ℕ} {s0 : State} (h : s₀.Keeps s0) : s₀.Keeps (s0.bistFull t x) :=
  ((((((h.foldl fun _ _ h => h.gatherYield).setSpdShop).foldl fun _ _ h => h.kibCopied).setSpdShop).setBx).bistLines).windowRestore

theorem State.Keeps.bistMesh {t : TestUnit} {x : ℕ} (h : s₀.Keeps s) : s₀.Keeps (s.bistMesh t x) := ((h.foldl fun _ _ h => h.isolateLink).errorsOf).bistNote

theorem State.Keeps.bistPort {t : TestUnit} {x : Nat} (h : s₀.Keeps s) : s₀.Keeps (s.bistPort t x) := by
  unfold State.bistPort
  extract_lets _ _ _ _ s1
  have h1 : s₀.Keeps s1 := h.frame
  split
  next e => exact (h1.errorsOf.of_snd e).bistNote

theorem State.Keeps.bistCirrus {t : TestUnit} {x : ℕ} (h : s₀.Keeps s) : s₀.Keeps (s.bistCirrus t x) :=
  .bistNote (.errorsOf (.recalWindow (.ite ((h.foldl fun _ _ h => h.recalChain).foldl fun _ _ h => h.setReg) (h.foldl fun _ _ h => h.recalChain))))

theorem State.Keeps.bistDone {t : TestUnit} {ok0 : Bool} (h : s₀.Keeps s) : s₀.Keeps (s.bistDone t ok0) :=
  .ite h.bistMacros (.ite h.failMask.bistLines (.ite h.failMask.bistFull (.ite h.failMask.bistMesh (.ite h.failMask.bistPort (.ite h.failMask.bistCirrus
    (.bistNote (.ite h.failMask.setBx h.failMask)))))))

theorem State.Keeps.bistComplete {code : ℕ} {ok : Bool} (h : s₀.Keeps s) : s₀.Keeps (bistComplete s code ok) := by
  unfold Machine.bistComplete
  split
  · split
    · exact .sliceGo (.setSlice (.ite h.bistDone h))
    · exact h
  · exact h

theorem State.Keeps.bistRunEff {t : Taken} (h : s₀.Keeps s) : s₀.Keeps (bistRunEff t s) := .ite h.fail h.sliceStart.goesOnIf

theorem State.Keeps.bistResultEff {t : Taken} (h : s₀.Keeps s) : s₀.Keeps (bistResultEff t s) := .ite h.fail h.finish

theorem State.Keeps.fuseItem {x : FuseItem} (h : s₀.Keeps s) : s₀.Keeps (s.fuseItem x) := by
  unfold State.fuseItem
  split <;> exact h.frame

theorem State.Keeps.fuseStep (h : s₀.Keeps s) : s₀.Keeps (s.fuseStep) := by
  unfold State.fuseStep
  split
  · split
    · exact h.frame.finish
    · exact .ite h.fuseItem.frame h.frame
  · exact h

theorem State.Keeps.repairCommitEff {t : Taken} (h : s₀.Keeps s) : s₀.Keeps (repairCommitEff t s) := .ite h.fail (.ite h.fail (.ite h.finish h.frame.goesOn))

end

end Sys2Proof.Machine
end

section
/-! SUPPORT. What every function of the slot timer and the schedule keeps. -/

namespace Sys2Proof.Machine

section
variable {s₀ s : State}

theorem State.Keeps.schedMark (h : s₀.Keeps s) : s₀.Keeps (s.schedMark) := h.frame

theorem State.Keeps.admitFire (h : s₀.Keeps s) : s₀.Keeps (s.admitFire) :=
  .passFetches (.ite (.ite h.demandWake.frame (.admitSet (.ite h.demandWake.setGrad h.demandWake))) h)

theorem State.Keeps.scrubFire {mask : ℕ} (h : s₀.Keeps s) : s₀.Keeps (s.scrubFire mask) := h.foldl fun _ _ h => h.foldl fun _ _ h => h.scrubEvent

theorem State.Keeps.wakeFire {mask : ℕ} (h : s₀.Keeps s) : s₀.Keeps (s.wakeFire mask) := .ite h h.setF.hznWake

theorem State.Keeps.restFire {mask : ℕ} (h : s₀.Keeps s) : s₀.Keeps (s.restFire mask) := .ite h h.setF

theorem State.Keeps.secureFire (h : s₀.Keeps s) : s₀.Keeps (s.secureFire) := .ite (.ite h h.secureRequest) h

theorem State.Keeps.fireEv {e : ℕ} (h : s₀.Keeps s) : s₀.Keeps (s.fireEv e) :=
  .ite h.frame.admitFire (.ite h.frame.deadlineFire (.ite h.frame.trkEvent (.ite h.frame.scrubFire (.ite h.frame.recalWindow (.ite h.frame.recalWindow (.ite
    h.frame.sliceRecord (.ite h.frame.secureFire (.ite h.frame.wakeFire (.ite h.frame.restFire h.frame)))))))))

theorem State.Keeps.fireRest {n : Nat} (h : s₀.Keeps s) : s₀.Keeps (s.fireRest n) := by
  induction n generalizing s with
  | zero => exact h
  | succ n ih =>
    unfold State.fireRest
    split
    · exact ih h.fireEv
    · exact h

theorem State.Keeps.fireCmd {k e t : ℕ} {s0 : State} (h : s₀.Keeps s0) : s₀.Keeps (fireCmd s0 k e t) := by
  unfold Machine.fireCmd
  refine .ite ?_ h.at
  split
  · exact .ite h.at.fireEv h.at
  · exact h.at

theorem State.Keeps.showPeriod (h : s₀.Keeps s) : s₀.Keeps (s.showPeriod) := h.setF.setF

theorem State.Keeps.edgeTransitions (h : s₀.Keeps s) : s₀.Keeps (s.edgeTransitions) := by
  unfold State.edgeTransitions
  dsimp only
  refine .ite h.enterFaulted ?_
  split
  · exact h.startJob.gradReset.finish.frame
  · exact h.stopJob.dropRequest.goChip.finish.frame
  · exact h

theorem State.Keeps.beaconOut {p : ℕ} (h : s₀.Keeps s) : s₀.Keeps (s.beaconOut p) := .ite h.setPort h

theorem State.Keeps.slotReply (h : s₀.Keeps s) : s₀.Keeps (s.slotReply) := h.foldl fun _ _ h => h.finish

theorem State.Keeps.slotBoundary {edge : Bool} (h : s₀.Keeps s) : s₀.Keeps (s.slotBoundary edge) := by
  unfold State.slotBoundary
  extract_lets s1 s2 mode pulse start _ cad s3 s4 s5
  have h1 : s₀.Keeps s1 := .ite h h.fireRest
  have h2 : s₀.Keeps s2 := h1.setSlot
  have h3 : s₀.Keeps s3 := h2.frame.setF.setF.slotReply
  have h4 : s₀.Keeps s4 := h3.monBoundary.trkPush.cirBoundary
  have h5 : s₀.Keeps s5 := h4.edgeTransitions.nimEdge
  exact h5.serveFetches.foldl fun _ _ h => h.beaconOut

theorem State.Keeps.acceptEdge (h : s₀.Keeps s) : s₀.Keeps (s.acceptEdge) := by
  unfold State.acceptEdge
  extract_lets g measured _ s1 coasts
  have h1 : s₀.Keeps s1 := .ite h.frame.setF h
  exact h1.frame.showPeriod.slotBoundary

theorem State.Keeps.cadEdge {t : ℕ} {s0 : State} (h : s₀.Keeps s0) : s₀.Keeps (cadEdge s0 t) := .ite h.at (.ite h.at.acceptEdge h.at.flagF.addF)

theorem State.Keeps.coast {t : ℕ} {s0 : State} (h : s₀.Keeps s0) : s₀.Keeps (coast s0 t) := by
  unfold Machine.coast
  extract_lets s
  have h : s₀.Keeps s := h.at
  exact .ite h.frame.addF.slotBoundary h

theorem State.Keeps.alertSync (h : s₀.Keeps s) : s₀.Keeps (s.alertSync) := by
  unfold State.alertSync
  extract_lets on src
  have hrc : s₀.Keeps src := h.setF
  exact hrc.frame

theorem State.Keeps.cadLostEff {t : ℕ} {s0 : State} (h : s₀.Keeps s0) : s₀.Keeps (cadLostEff s0 t) :=
  .ite (.ite h.at.fireRest.frame.showPeriod.flagF.flagF.chipEvent.postEvent.flagF.alertSync.postEvent
    h.at.fireRest.frame.showPeriod.flagF.flagF.chipEvent.postEvent) h.at

theorem State.Keeps.cadSet (h : s₀.Keeps s) : s₀.Keeps (cadSet s) := .ite h.frame h

theorem State.Keeps.pulseOut {t : ℕ} {s0 : State} (h : s₀.Keeps s0) : s₀.Keeps (pulseOut s0 t) := by
  unfold Machine.pulseOut
  extract_lets s
  have h : s₀.Keeps s := h.at
  split
  · exact .ite (.ite h.frame h.frame.frame) h
  · exact h

theorem State.Keeps.outHeld (h : s₀.Keeps s) : s₀.Keeps (s.outHeld) := .ite h.frame h

theorem State.Keeps.pulseEnd {t : ℕ} {s0 : State} (h : s₀.Keeps s0) : s₀.Keeps (pulseEnd s0 t) := by
  unfold Machine.pulseEnd
  dsimp only
  split
  · exact .ite h.at.frame h.at
  · exact h.at

theorem State.Keeps.takeBeacon {p slot : ℕ} (h : s₀.Keeps s) : s₀.Keeps (s.takeBeacon p slot) := .ite (.ite h h.frame.flagF.setF.chipEvent) h

theorem State.Keeps.beaconIn {p : ℕ} {f : Flit} {t : ℕ} {s0 : State} (h : s₀.Keeps s0) : s₀.Keeps (beaconIn s0 p f t) :=
  .ite (h.at.frameIn (fun _ h => h.takeBeacon)) h.at

theorem State.Keeps.handoffIn {k : ℕ} (h : s₀.Keeps s) : s₀.Keeps (handoffIn s k) := by
  unfold Machine.handoffIn
  split
  · exact h.takeInbox.takeHandoff
  · exact h

end

end Sys2Proof.Machine
end

section
/-! SUPPORT. What every function of Horizon keeps. -/

namespace Sys2Proof.Machine

section
variable {s₀ s : State}

theorem State.Keeps.setHznI {f : Fld} {v : ℤ} (h : s₀.Keeps s) : s₀.Keeps (s.setHznI f v) := h.setF

theorem State.Keeps.hzSample {raw : Option ℤ} {c : ℕ} (h : s₀.Keeps s) : s₀.Keeps (s.hzSample raw c) := by
  unfold State.hzSample
  dsimp only
  split
  · exact h.frame.setHznI.setHznI.setF
  · exact h.frame.setF

theorem State.Keeps.formRisk (h : s₀.Keeps s) : s₀.Keeps (s.formRisk) := .ite h.setF.setF.setF h.setF.setF.setF.postEvent

theorem State.Keeps.putRule {at_ i : ℕ} {l : List Byte} (h : s₀.Keeps s) : s₀.Keeps (s.putRule at_ i l) := h.foldl fun _ _ h => h.setReg

theorem State.Keeps.setHzRule {i : ℕ} {x : HzRule} (h : s₀.Keeps s) : s₀.Keeps (s.setHzRule i x) := h.frame

theorem State.Keeps.showFired (h : s₀.Keeps s) : s₀.Keeps (s.showFired) := h.setF.setF

theorem State.Keeps.setHzA {r v : ℕ} (h : s₀.Keeps s) : s₀.Keeps (s.setHzA r v) := h.setF.setF

theorem State.Keeps.riseDepth {i mask : ℕ} (h : s₀.Keeps s) : s₀.Keeps (s.riseDepth i mask) := h.setHzRule

theorem State.Keeps.moveOld {i : ℕ} (h : s₀.Keeps s) : s₀.Keeps (s.moveOld i) := .ite h h.setHzRule

theorem State.Keeps.moveDepth {i : ℕ} {fresh : Bool} (h : s₀.Keeps s) : s₀.Keeps (s.moveDepth i fresh) :=
  .ite h (.ite (.ite (.ite h.setHzRule.riseDepth h.setHzRule) h.setHzRule.setHzRule) h.setHzRule)

theorem State.Keeps.rulePostmark {i : ℕ} (h : s₀.Keeps s) : s₀.Keeps (s.rulePostmark i) := h.pmSubmit

theorem State.Keeps.wakeStart (h : s₀.Keeps s) : s₀.Keeps (s.wakeStart) := .ite h.mailReset.frame.powerUp h

theorem State.Keeps.hznSecure (h : s₀.Keeps s) : s₀.Keeps (s.hznSecure) := .ite h.secureFire.addF h

theorem State.Keeps.fireRule {i : ℕ} (h : s₀.Keeps s) : s₀.Keeps (s.fireRule i) :=
  .ite (.rulePostmark (.ite h.rulePostmark h)) (.ite (.rulePostmark (.postEvent (.alertSync (.setF (.ite h.rulePostmark h))))) (.ite (.riseDepth (.ite
    h.rulePostmark h)) (.ite (.hznSecure (.ite h.rulePostmark h)) (.ite (.wakeFire (.ite h.rulePostmark h)) (.ite (.restFire (.ite h.rulePostmark h)) (.ite
      (.wakeStart (.ite h.rulePostmark h)) (.ite h.rulePostmark h)))))))

theorem State.Keeps.evalRules (h : s₀.Keeps s) : s₀.Keeps s.evalRules.1 :=
  (State.Keeps.foldl_fst (a := (s, [])) h fun _ _ h => h.setHzRule).showFired

theorem State.Keeps.runRules (h : s₀.Keeps s) : s₀.Keeps (s.runRules) :=
  .foldl (.foldl (.ite_fst h.evalRules h) fun _ _ h => h.fireRule) fun _ _ h => h.moveDepth.moveOld

theorem State.Keeps.balOver (h : s₀.Keeps s) : s₀.Keeps (s.balOver) := by
  unfold State.balOver
  dsimp only
  split
  · exact h.setF.frame
  · exact .frame (.ite (.ite h.takeFree.setF.flagF.alertSync.postEvent h.takeFree.setF.flagF.alertSync) (.pmSubmit (.ite
    h.takeFree.setF.flagF.alertSync.postEvent h.takeFree.setF.flagF.alertSync)))

theorem State.Keeps.balance (h : s₀.Keeps s) : s₀.Keeps (s.balance) := h.balOver.frame

theorem State.Keeps.setCap {r c n : ℕ} (h : s₀.Keeps s) : s₀.Keeps (s.setCap r c n) := h.setF.aimStep

theorem State.Keeps.throttleStep {r : ℕ} (h : s₀.Keeps s) : s₀.Keeps (s.throttleStep r) :=
  .ite (.ite h.setCap.setHzA (.ite h.setF.setHzA h)) (.ite (.ite h.setHzA.setF (.setCap (.ite h.setHzA.flagF h.setHzA))) h)

theorem State.Keeps.sleepStep {r : ℕ} (h : s₀.Keeps s) : s₀.Keeps (s.sleepStep r) := .ite h.setHzA h

theorem State.Keeps.stepTime (h : s₀.Keeps s) : s₀.Keeps s.stepTime := by
  refine h.balance.foldl fun t r h => ?_
  split
  · exact h.throttleStep
  · exact h.sleepStep

theorem State.Keeps.hznHists (h : s₀.Keeps s) : s₀.Keeps (s.hznHists) := .ite h (.ite h.takeFree.hznRefuse.takeFree.frame h.takeFree)

theorem State.Keeps.hznSample {t : ℕ} {raw : List ℤ} {s0 : State} (h : s₀.Keeps s0) : s₀.Keeps (hznSample s0 t raw) :=
  .ite (.ite ((((h.at.hznHists.takeFree.frame.foldl fun _ _ h => h.hzSample).formRisk).runRules).stepTime) (((h.at.hznHists.takeFree.frame.foldl fun _ _ h =>
    h.hzSample).formRisk).runRules)) h.at

theorem State.Keeps.regionRest {r : ℕ} (h : s₀.Keeps s) : s₀.Keeps (regionRest s r) := .ite h.domainOff.setF h

theorem State.Keeps.ruleCommit (h : s₀.Keeps s) : s₀.Keeps (ruleCommit s) := .ite h.setF h

theorem State.Keeps.commitRule {i : ℕ} (h : s₀.Keeps s) : s₀.Keeps (s.commitRule i) := .ite h (.ite h.putRule.setHzRule h.putRule)

theorem State.Keeps.ruleCopy (h : s₀.Keeps s) : s₀.Keeps (ruleCopy s) := by
  unfold Machine.ruleCopy
  refine .ite ?_ h
  dsimp only
  split
  · exact (((h.foldl fun _ _ h => h.commitRule).showFired).setF).finish
  · exact ((h.foldl fun _ _ h => h.commitRule).showFired).setF

theorem State.Keeps.ruleWriteEff {t : Taken} (h : s₀.Keeps s) : s₀.Keeps (ruleWriteEff t s) :=
  .ite h.fail (((h.foldl fun _ _ h => h.putRule).ruleCommit).goesOn)

theorem State.Keeps.ruleReadEff {t : Taken} (h : s₀.Keeps s) : s₀.Keeps (ruleReadEff t s) := .ite h.fail h.finish

theorem State.Keeps.hznStatusEff {t : Taken} (h : s₀.Keeps s) : s₀.Keeps (hznStatusEff t s) := .ite h.fail h.finish

end

end Sys2Proof.Machine
end

section
/-! SUPPORT. What every function of the Postmark Log keeps. -/

namespace Sys2Proof.Machine

section
variable {s₀ s : State}

theorem State.Keeps.pmWrite {p : PmSub} (h : s₀.Keeps s) : s₀.Keeps (s.pmWrite p) := .ite h.pmCommit h.pmWord

theorem State.Keeps.pmClearRun (h : s₀.Keeps s) : s₀.Keeps (s.pmClearRun) := by
  unfold State.pmClearRun
  split
  · exact .ite h.frame.pmWrite.finish h
  · exact h

theorem State.Keeps.pmBegin (h : s₀.Keeps s) : s₀.Keeps (s.pmBegin) := .ite h h.frame

theorem State.Keeps.pmStep (h : s₀.Keeps s) : s₀.Keeps (pmStep s) := by
  unfold Machine.pmStep
  split
  · exact h.frame.pmWrite.pmClearRun
  · exact h.pmClearRun

theorem State.Keeps.pmlReadEff {t : Taken} (h : s₀.Keeps s) : s₀.Keeps (pmlReadEff t s) := .ite h.fail h.finish

theorem State.Keeps.pmlStatusEff {t : Taken} (h : s₀.Keeps s) : s₀.Keeps (pmlStatusEff t s) := .ite h.fail h.finish

theorem State.Keeps.pmlClearEff {t : Taken} (h : s₀.Keeps s) : s₀.Keeps (pmlClearEff t s) :=
  .ite h.fail (.ite (.pmClearRun (.ite h.frame h.frame.goesOn)) h.fail)

theorem State.Keeps.setTimeEff {t : Taken} (h : s₀.Keeps s) : s₀.Keeps (setTimeEff t s) := .ite h.fail h.frame.finish

end

end Sys2Proof.Machine
end

section
/-! SUPPORT. What every function of the plan keeps. -/

namespace Sys2Proof.Machine

section
variable {s₀ s : State}

theorem State.Keeps.verifyPlan {img : List Byte} (h : s₀.Keeps s) : s₀.Keeps (s.verifyPlan img).2 := by
  unfold State.verifyPlan
  split
  · exact h.takeFree
  · exact h

theorem State.Keeps.writeAll {l : List (ℕ × ℕ)} (h : s₀.Keeps s) : s₀.Keeps (s.writeAll l) := h.foldl fun _ _ h => h.plainWrite

theorem State.Keeps.keepRet {b v : ℕ} (h : s₀.Keeps s) : s₀.Keeps (s.keepRet b v) := .ite h.frame h

theorem State.Keeps.armSpd {b : ℕ} (h : s₀.Keeps s) : s₀.Keeps (s.armSpd b) := by
  unfold State.armSpd
  split
  · exact .ite (.giveCredits (.ite h.writeAll h.writeAll.plainWrite.keepRet)) h
  · exact h

theorem State.Keeps.armCompute {b : Nat} (h : s₀.Keeps s) : s₀.Keeps (s.armCompute b) := by
  unfold State.armCompute
  extract_lets base n en s1 s2 s3 s4 envs s5 s6
  have h2 : s₀.Keeps s2 := by
    unfold s2
    split
    · exact h.setReg.writeAll
    · exact h.setReg
  have h3 : s₀.Keeps s3 := h2.writeAll
  have h4 : s₀.Keeps s4 := by
    unfold s4
    split
    · exact h3.writeAll
    · exact h3
  have h5 : s₀.Keeps s5 := by
    refine h4.foldl fun u m h => ?_
    dsimp only
    split
    · exact h.writeAll.writeAll
    · exact h.foldl fun _ _ h => h.setReg
  have h6 : s₀.Keeps s6 := by
    unfold s6
    split
    · exact h5.writeAll
    · exact h5.setF
  refine .ite ?_ h
  split
  · exact h6.writeAll
  · exact h6.foldl fun _ _ h => h.setReg

theorem State.Keeps.armWrite (h : s₀.Keeps s) : s₀.Keeps (s.armWrite) := h.foldl fun _ _ h => h.armSpd.armCompute

end

end Sys2Proof.Machine
end

section
/-! SUPPORT. What every function of firmware and quotes keeps. -/

namespace Sys2Proof.Machine

section
variable {s₀ s : State}

theorem State.Keeps.fwNote {check status : ℕ} {boot : Bool} (h : s₀.Keeps s) : s₀.Keeps (s.fwNote check status boot) := h.setF.setF.setF

theorem State.Keeps.windowSync {b : ℕ} (h : s₀.Keeps s) : s₀.Keeps (s.windowSync b) := (h.setSpdShop.foldl fun _ _ h => h.kibCopied).setSpdShop

theorem State.Keeps.unclaim {b : ℕ} (h : s₀.Keeps s) : s₀.Keeps (s.unclaim b) := (h.foldl fun _ _ h => h.setPtr).setF

theorem State.Keeps.reclaim {b : ℕ} (h : s₀.Keeps s) : s₀.Keeps (s.reclaim b) := by
  unfold State.reclaim
  split
  · exact h.writeAll
  · exact h

theorem State.Keeps.fwBegin {t : Taken} (h : s₀.Keeps s) (ht : s₀.Owns t.id) : s₀.Keeps (s.fwBegin t) :=
  ((h.foldl fun _ _ h => h.windowSync.unclaim).armIn ht).setTaken

theorem State.Keeps.fwLoadEff {t : Taken} (h : s₀.Keeps s) (ht : s₀.Owns t.id) : s₀.Keeps (fwLoadEff t s) :=
  .ite h.fail (.ite ((h.fwBegin ht).goesOn) ((h.powerUp.holdIn ht).goesOn))

theorem State.Keeps.lostRegion (h : s₀.Keeps s) : s₀.Keeps s.lostRegion := by
  refine State.Keeps.foldl ?_ fun _ _ h => h.setBx
  refine h.takeFree.setMem (Mems.wf_spd fun hm => ?_)
  exact Mem.wf_foldl _ _ _ (fun m b hm => Mem.wf_foldl _ _ m (fun m o hm => Mem.wf_wr _ _ _ hm) hm) hm

theorem State.Keeps.fwRestore (h : s₀.Keeps s) : s₀.Keeps (s.fwRestore) := h.lostRegion.foldl fun _ _ h => h.windowRestore.reclaim

theorem State.Keeps.fwDrop (h : s₀.Keeps s) : s₀.Keeps (s.fwDrop) := by
  unfold State.fwDrop
  split
  · exact .ite h.fwRestore h
  · exact h

theorem State.Keeps.fwLoaded {t : Taken} {img : List Byte} (h : s₀.Keeps s) : s₀.Keeps (s.fwLoaded t img) := by
  unfold State.fwLoaded
  split
  · exact h.fwNote.fail.fwRestore
  · exact h.frame.setTaken

theorem State.Keeps.fwStage (h : s₀.Keeps s) : s₀.Keeps (s.fwStage) := by
  unfold State.fwStage
  split
  · exact h.frame.finish.fwRestore
  · exact h

theorem State.Keeps.fwActivateEff {t : Taken} (h : s₀.Keeps s) : s₀.Keeps (fwActivateEff t s) :=
  .ite h.fail (.ite h.fail (.ite h.fwNote.fail h.frame.pmSubmit.finish))

theorem State.Keeps.fwInfoEff {t : Taken} (h : s₀.Keeps s) : s₀.Keeps (fwInfoEff t s) := .ite h.fail h.finish

theorem State.Keeps.getIdKeyEff {t : Taken} (h : s₀.Keeps s) : s₀.Keeps (getIdKeyEff t s) := .ite h.fail h.finish

theorem State.Keeps.quoteRun {t : Taken} (h : s₀.Keeps s) : s₀.Keeps (s.quoteRun t) := .ite h.fail h.frame.addF.finish

theorem State.Keeps.quoteEff {t : Taken} (h : s₀.Keeps s) : s₀.Keeps (quoteEff t s) := .ite h.fail (.ite h.goesOn h.quoteRun)

theorem State.Keeps.secDebugWrite {v : ℕ} (h : s₀.Keeps s) : s₀.Keeps (secDebugWrite s v) := .ite (.ite h.flagF.flagF h) h.setF

theorem State.Keeps.tapTake {ir boundary out : ℕ} (h : s₀.Keeps s) : s₀.Keeps (s.tapTake ir boundary out) := .ite h.frame h

theorem State.Keeps.tapBypass (h : s₀.Keeps s) : s₀.Keeps (s.tapBypass) := h.tapTake

theorem State.Keeps.tapLoad {ir v : ℕ} (h : s₀.Keeps s) : s₀.Keeps (s.tapLoad ir v) := h.takeFree.tapTake

end

end Sys2Proof.Machine
end

section
/-! SUPPORT. What every function of the plan commands keeps. -/

namespace Sys2Proof.Machine

section
variable {s₀ s : State}

theorem State.Keeps.planLoadEff {t : Taken} (h : s₀.Keeps s) (ht : s₀.Owns t.id) : s₀.Keeps (planLoadEff t s) := .ite h.fail ((h.armIn ht).goesOn)

theorem State.Keeps.planLoaded {t : Taken} {img : List Byte} (h : s₀.Keeps s) : s₀.Keeps (s.planLoaded t img) := h.frame.finish

theorem State.Keeps.planCheck {t : Taken} {img : List Byte} (h : s₀.Keeps s) :
    s₀.Keeps (s.planCheck t img).2 ∧ ∀ u, (s.planCheck t img).1 = some u → s₀.Keeps u := by
  unfold State.planCheck
  split
  · next e =>
    have h1 := h.verifyPlan.of_snd e
    exact ⟨h1.frame, fun u hu => Option.some.inj hu ▸ h1.frame.finish⟩
  · next e =>
    have h1 := h.verifyPlan.of_snd e
    exact ⟨h1.frame, fun u hu => (Option.some_ne_none u hu.symm).elim⟩

theorem State.Keeps.planVerifyEff {t : Taken} (h : s₀.Keeps s) : s₀.Keeps (planVerifyEff t s) := by
  refine .ite h.fail ?_
  split
  · exact h.fail
  · split
    · next e => exact h.planCheck.2 _ (by rw [e])
    · next e => exact (h.planCheck.1.of_snd e).finish

theorem State.Keeps.armed {t : Taken} (h : s₀.Keeps s) : s₀.Keeps (s.armed t) := .ite h.goChip.finish.frame.schedMark h.goChip.finish

theorem State.Keeps.armGo {retired : Option ℕ} (h : s₀.Keeps s) : s₀.Keeps (s.armGo retired) := by
  unfold State.armGo
  split
  · exact .ite h.setTaken.armed (h.setTaken.foldl fun _ _ h => h.shadowRestore)
  · exact h

theorem State.Keeps.install {img : List Byte} (h : s₀.Keeps s) : s₀.Keeps (s.install img) := h.discardPlan.frame

theorem State.Keeps.armPlan {t : Taken} {fresh : Bool} (h : s₀.Keeps s) : s₀.Keeps (s.armPlan t fresh) := h.frame.trkReset.armWrite.setTaken.armGo.goesOnIf

theorem State.Keeps.planArmEff {t : Taken} (h : s₀.Keeps s) : s₀.Keeps (planArmEff t s) := by
  refine .ite h.fail ?_
  split
  · refine .ite h.install.armPlan ?_
    split
    · next e => exact h.planCheck.2 _ (by rw [e])
    · next e => exact (h.planCheck.1.of_snd e).install.armPlan
  · exact .ite h.fail h.armPlan

theorem State.Keeps.planStartEff {t : Taken} (h : s₀.Keeps s) : s₀.Keeps (planStartEff t s) := .ite h.fail h.frame.replyPending

theorem State.Keeps.goReady (h : s₀.Keeps s) : s₀.Keeps (s.goReady) := h.goChip.hznWake

theorem State.Keeps.stopNow (h : s₀.Keeps s) : s₀.Keeps (s.stopNow) := by
  unfold State.stopNow
  extract_lets s1
  have h1 : s₀.Keeps s1 := h.stopJob.dropRequest
  exact .ite h1.discardPlan.goReady h1.frame.goReady

theorem State.Keeps.planStopEff {t : Taken} (h : s₀.Keeps s) : s₀.Keeps (planStopEff t s) := .ite h.fail (.ite h.frame.replyPending h.stopNow.finish)

theorem State.Keeps.planDrainEff {t : Taken} (h : s₀.Keeps s) : s₀.Keeps (planDrainEff t s) := .ite h.fail h.frame.goChip.completeSets.goesOnIf

theorem State.Keeps.planStatusEff {t : Taken} (h : s₀.Keeps s) : s₀.Keeps (planStatusEff t s) := .ite h.fail h.finish

theorem State.Keeps.trackerReadEff {t : Taken} (h : s₀.Keeps s) : s₀.Keeps (trackerReadEff t s) := .ite h.fail h.finish

end

end Sys2Proof.Machine
end

section
/-! SUPPORT. What every function of start-up and sleep keeps. -/

namespace Sys2Proof.Machine

section
variable {s₀ s : State}

theorem State.Keeps.spdWake {b : ℕ} (h : s₀.Keeps s) : s₀.Keeps (s.spdWake b) := h.setReg.windowRestore.armSpd

theorem State.Keeps.compWake {b : ℕ} (h : s₀.Keeps s) : s₀.Keeps (s.compWake b) := h.armCompute.loadBlock.foldl fun _ _ h => h.shopStart

theorem State.Keeps.domainReady {d : ℕ} (h : s₀.Keeps s) : s₀.Keeps (s.domainReady d) := by
  unfold State.domainReady
  extract_lets s1
  have h1 : s₀.Keeps s1 := h.domainOn
  exact .ite ((h1.foldl fun _ _ h => h.compWake).frame) (.ite (h1.foldl fun _ _ h => h.spdWake) (.ite h1.frame h1))

theorem State.Keeps.wakeGo (h : s₀.Keeps s) : s₀.Keeps (s.wakeGo) := .ite h.frame.powerUp (.ite h.frame (.ite h.frame.goReady h))

theorem State.Keeps.pwrSetGo (h : s₀.Keeps s) : s₀.Keeps s.pwrSetGo := by
  unfold State.pwrSetGo
  split
  · split
    · split
      · next e => exact (h.pwrPlan e).setTaken
      · exact h.flagF.fail
    · exact h
  · exact h

theorem State.Keeps.domainUsable {d : ℕ} (h : s₀.Keeps s) : s₀.Keeps (s.domainUsable d) := .ite h.domainReady.domainReady h.domainReady

theorem State.Keeps.domainSettled {d : Nat} (h : s₀.Keeps s) : s₀.Keeps (domainSettled s d) := by
  refine .ite (.ite (.pwrGo (.ite h h.frame)) (.wakeGo (.pwrSetGo (.pwrGo ?_)))) h
  split
  · next e => exact .ite (h.domainUsable.trans ((State.Keeps.refl _).fwBegin (State.owns_of_takenOp e))) h.domainUsable
  · exact h.domainUsable

theorem State.Keeps.bootMs (h : s₀.Keeps s) : s₀.Keeps (s.bootMs) := h.setF

theorem State.Keeps.romFault {cls : ℕ} (h : s₀.Keeps s) : s₀.Keeps (s.romFault cls) := h.frame.enterFaulted

theorem State.Keeps.bootFail {stage status : ℕ} (h : s₀.Keeps s) : s₀.Keeps (s.bootFail stage status) := h.setF.pmSubmit.bootMs

theorem State.Keeps.testFail {stage : ℕ} (h : s₀.Keeps s) : s₀.Keeps (s.testFail stage) := h.bootFail.takeFree.frame.enterFaulted

theorem State.Keeps.rollTo {r : ℕ} (h : s₀.Keeps s) : s₀.Keeps (s.rollTo r) := h.frame

theorem State.Keeps.protPigeon (h : s₀.Keeps s) : s₀.Keeps (s.protPigeon) := h.setReg.setReg.foldl fun _ _ h => h.setReg

theorem State.Keeps.protHzn (h : s₀.Keeps s) : s₀.Keeps (s.protHzn) := h.setReg.foldl fun _ _ h => h.setReg

theorem State.Keeps.bootVerify (h : s₀.Keeps s) : (∀ t, s.bootVerify.1 = some t → s₀.Keeps t) ∧ s₀.Keeps s.bootVerify.2 := by
  unfold State.bootVerify
  extract_lets s1
  have h1 : s₀.Keeps s1 := by
    unfold s1
    split
    · exact h.rollTo
    · exact h
  split
  · exact ⟨fun t e => Option.some.inj e ▸ h1.fwNote.bootFail.romFault, h1⟩
  · exact ⟨fun t e => (Option.some_ne_none t e.symm).elim, h1.frame⟩

theorem State.Keeps.bootFirmware (h : s₀.Keeps s) : s₀.Keeps (s.bootFirmware) := by
  unfold State.bootFirmware
  refine .pmSubmit (.protHzn (.protPigeon ?_))
  split
  · exact h.rollTo
  · exact h

theorem State.Keeps.bootRegions (h : s₀.Keeps s) : s₀.Keeps (s.bootRegions) :=
  ((h.foldl fun _ _ h => h.domainOn.foldl fun _ _ h => h.spdWake).foldl fun _ _ h => h.domainOn).foldl fun _ _ h => h.restoreAll

theorem State.Keeps.bootDone (h : s₀.Keeps s) : s₀.Keeps (s.bootDone) := h.setF.bootMs.goReady

theorem State.Keeps.stageEnd {ok : Bool} (h : s₀.Keeps s) : s₀.Keeps (s.stageEnd ok) := by
  have h4 : s₀.Keeps ({ s with pml := { s.pml with bootCount := (s.pml.bootCount + 1) % 2 ^ 32 } }.domainOn 3) := State.Keeps.domainOn h.frame
  unfold State.stageEnd
  refine .ite h.setF (.ite h.domainOn.setF (.ite h.domainOn.setF (.ite (.ite h4.setF.bootMs.romFault h4.setF) (.ite ?_ (.ite
    (.ite h.bootFirmware.bootDone h.bootFirmware.setF) (.ite (.ite h.domainReady.domainReady.setF h.testFail) (.ite h.domainOn.domainOn.setF
    (.ite h.bootRegions.setF.sliceStart (.ite (.ite h.setSlice.testFail h.setSlice.bootDone) h)))))))))
  split
  · next e => exact h.bootVerify.1 _ (by rw [e])
  · next e => exact (h.bootVerify.2.of_snd e).setF

theorem State.Keeps.sleepReply (h : s₀.Keeps s) : s₀.Keeps (s.sleepReply) := by
  unfold State.sleepReply
  split
  · exact .ite h.queueReply.setTaken h
  · exact h

theorem State.Keeps.sleepEff {t : Taken} (h : s₀.Keeps s) : s₀.Keeps (sleepEff t s) := .ite h.fail (.ite h.sleepReply.goesOn h.sleepReply)

theorem State.Keeps.sleepIn (h : s₀.Keeps s) : s₀.Keeps s.sleepIn := by
  unfold State.sleepIn
  extract_lets s1 s2 s3 _ _ _ s4
  have h3 : s₀.Keeps s3 := h.setF.setF.setF.addF.discardPlan
  have h4 : s₀.Keeps s4 := h3.setMail (Mail.fresh_of_subset rfl (List.nil_sublist _) (List.Subset.refl _) (List.Subset.refl _)) le_rfl
  exact (h4.foldl fun _ _ h => h.domainOff).goChip

theorem State.Keeps.wakeVerified (h : s₀.Keeps s) : s₀.Keeps (wakeVerified s) := by
  unfold Machine.wakeVerified
  refine .ite ?_ h
  split
  · exact h.frame.fwNote.pmSubmit.romFault
  · exact h.frame.protPigeon.pwrGo.wakeGo

theorem State.Keeps.pwrSetEff {t : Taken} (h : s₀.Keeps s) : s₀.Keeps (pwrSetEff t s) := by
  refine .ite h.fail (.ite ?_ h.goesOn)
  split
  · next e => exact (h.pwrPlan e).setTaken.goesOnIf
  · exact h.flagF.fail

theorem State.Keeps.pwrStateEff {t : Taken} (h : s₀.Keeps s) : s₀.Keeps (pwrStateEff t s) := .ite h.fail h.finish

end

end Sys2Proof.Machine
end

section
/-! SUPPORT. What every function of the other host commands keeps. -/

namespace Sys2Proof.Machine

section
variable {s₀ s : State}

theorem State.Keeps.helloEff {t : Taken} (h : s₀.Keeps s) : s₀.Keeps (helloEff t s) := .ite h.fail (.ite h.finish h.frameMail.finish)

theorem State.Keeps.negotiateEff {t : Taken} (h : s₀.Keeps s) : s₀.Keeps (negotiateEff t s) := .ite h.fail (.ite h.fail h.frameMail.finish)

theorem State.Keeps.byeEff {t : Taken} (h : s₀.Keeps s) : s₀.Keeps (byeEff t s) := .ite h.fail h.finish.frameMail

theorem State.Keeps.identifyEff {t : Taken} (h : s₀.Keeps s) : s₀.Keeps (identifyEff t s) := .ite h.fail h.finish

theorem State.Keeps.cadStatusEff {t : Taken} (h : s₀.Keeps s) : s₀.Keeps (cadStatusEff t s) := .ite h.fail h.finish

theorem State.Keeps.cadSetSlotEff {t : Taken} (h : s₀.Keeps s) : s₀.Keeps (cadSetSlotEff t s) := .ite h.fail h.setF.setF.cadSet.goesOn

theorem State.Keeps.slotStatusEff {t : Taken} (h : s₀.Keeps s) : s₀.Keeps (slotStatusEff t s) := .ite h.fail h.finish

theorem State.Keeps.hubPut {a : ℕ} {d : List Byte} (h : s₀.Keeps s) : s₀.Keeps (s.hubPut a d).2 := h.foldl_snd fun _ _ h => .ite_snd (.ite_snd h.hubStore h) h

theorem State.Keeps.hbmWriteEff {t : Taken} (h : s₀.Keeps s) (ht : s₀.Owns t.id) : s₀.Keeps (hbmWriteEff t s) := .ite h.fail ((h.armIn ht).goesOn)

theorem State.Keeps.hbmWritten {t : Taken} {d : List Byte} (h : s₀.Keeps s) : s₀.Keeps (s.hbmWritten t d) := by
  unfold State.hbmWritten
  split
  · next e => exact (h.hubPut.of_snd e).finish
  · next e => exact (h.hubPut.of_snd e).fail

theorem State.Keeps.hbmReadEff {t : Taken} (h : s₀.Keeps s) (ht : s₀.Owns t.id) : s₀.Keeps (hbmReadEff t s) := by
  refine .ite h.fail ?_
  split
  · next e => exact ((h.hubBytes.of_snd e).armOut ht).goesOn
  · next e => exact (h.hubBytes.of_snd e).fail

theorem State.Keeps.ringSetupEff {t : Taken} (h : s₀.Keeps s) : s₀.Keeps (ringSetupEff t s) := .ite h.fail (.finish (.ite h.frame h.frame))

theorem State.Keeps.shapeIn {n : ℕ} {r : List Byte} (h : s₀.Keeps s) : s₀.Keeps (s.shapeIn n r) := .ite h h.frame

theorem State.Keeps.submitEff {t : Taken} (h : s₀.Keeps s) (ht : s₀.Owns t.id) : s₀.Keeps (submitEff t s) := by
  unfold Machine.submitEff
  dsimp only
  split
  · exact h.fail
  · exact .ite h.fail (.ite h.fail (.ite h.fail (.ite h.fail (.ite (((h.frame.armIn ht).setTaken).goesOn) h.frame.shapeIn.finish))))

theorem State.Keeps.submitted {t : Taken} {d : List Byte} (h : s₀.Keeps s) : s₀.Keeps (s.submitted t d) := h.setTaken

theorem State.Keeps.submitVisible (h : s₀.Keeps s) : s₀.Keeps (submitVisible s) := by
  unfold Machine.submitVisible
  split
  · dsimp only
    split
    · next e => exact (h.hubPut.of_snd e).shapeIn.finish
    · next e => exact (h.hubPut.of_snd e).fail
  · exact h

theorem State.Keeps.fetchEff {t : Taken} (h : s₀.Keeps s) (ht : s₀.Owns t.id) : s₀.Keeps (fetchEff t s) := by
  unfold Machine.fetchEff
  extract_lets n
  split
  · exact h.fail
  · extract_lets t1
    refine .ite h.fail (.ite h.fail (.ite h.fail (State.Keeps.goesOnIf ?_)))
    exact State.Keeps.serveFetch h.setTaken ht

theorem State.Keeps.linkStatusEff {t : Taken} (h : s₀.Keeps s) : s₀.Keeps (linkStatusEff t s) := .ite h.fail h.finish

theorem State.Keeps.setCoordEff {t : Taken} (h : s₀.Keeps s) : s₀.Keeps (setCoordEff t s) := .ite h.fail h.setF.finish

theorem State.Keeps.routeWriteEff {t : Taken} (h : s₀.Keeps s) : s₀.Keeps (routeWriteEff t s) := .ite h.fail ((h.foldl fun _ _ h => h.setF).finish)

theorem State.Keeps.wakeRestored (h : s₀.Keeps s) : s₀.Keeps (s.wakeRestored) := (h.frame.foldl fun _ _ h => h.ctxTidy).wakeGo

theorem State.Keeps.restoreRetired {m : ℕ} (h : s₀.Keeps s) : s₀.Keeps (restoreRetired s m) :=
  .ite (.ite h.restoreRetire h.restoreRetire.wakeRestored.armGo.syncGo) h

end

end Sys2Proof.Machine
end

section
/-! SUPPORT. What every function of the SDIO card keeps. -/

namespace Sys2Proof.Machine

section
variable {s₀ s : State}

theorem State.Keeps.silent (h : s₀.Keeps s) : s₀.Keeps (s.silent) := h.frame

theorem State.Keeps.cardSays {d : List Byte} (h : s₀.Keeps s) : s₀.Keeps (s.cardSays d) := h.frame

theorem State.Keeps.onBus {states : List Nat} {f : State → State} (h : s₀.Keeps s) (hf : ∀ u, s₀.Keeps u → s₀.Keeps (f u)) : s₀.Keeps (s.onBus states f) :=
  .ite (hf _ h) h.silent

theorem State.Keeps.onWire {a : SdArg} {states : List Nat} {f : State → Nat → State} (h : s₀.Keeps s) (hf : ∀ u v, s₀.Keeps u → s₀.Keeps (f u v)) :
    s₀.Keeps (s.onWire a states f) := .ite (.ite h.silent.addF h.silent) (h.onBus fun _ h => hf _ _ h)

theorem State.Keeps.sdReset (h : s₀.Keeps s) : s₀.Keeps (s.sdReset) := h.fwDrop.frame.mailReset

theorem State.Keeps.cmd5 {arg : ℕ} (h : s₀.Keeps s) : s₀.Keeps (cmd5 s arg) := by
  unfold Machine.cmd5
  extract_lets ocr s18 s1
  have h1 : s₀.Keeps s1 := h.cardSays
  exact .ite h1 (.ite h.silent.frame h1.frame)

theorem State.Keeps.cmd11 (h : s₀.Keeps s) : s₀.Keeps (cmd11 s) := by
  unfold Machine.cmd11
  extract_lets s1
  have h1 : s₀.Keeps s1 := h.cardSays
  exact .ite h1.frame h.silent

theorem State.Keeps.cmd3 (h : s₀.Keeps s) : s₀.Keeps (cmd3 s) := by
  unfold Machine.cmd3
  extract_lets s1
  have h1 : s₀.Keeps s1 := h.cardSays
  exact h1.frame

theorem State.Keeps.cmd7 {arg : ℕ} (h : s₀.Keeps s) : s₀.Keeps (cmd7 s arg) := by
  unfold Machine.cmd7
  dsimp only
  exact .ite h.cardSays.frame h.silent.frame

theorem State.Keeps.cmd15 {arg : ℕ} (h : s₀.Keeps s) : s₀.Keeps (cmd15 s arg) := .ite h.silent.frame h.silent

theorem State.Keeps.ioAbort {fn : ℕ} (h : s₀.Keeps s) : s₀.Keeps (s.ioAbort fn) := .ite (.ite h.frame.setF2 h.frame) h

theorem State.Keeps.f0Put {a v : ℕ} (h : s₀.Keeps s) : s₀.Keeps (s.f0Put a v) := by
  unfold State.f0Put
  dsimp only
  split
  · exact h.frame
  · exact h.frame
  · exact .ite h.sdReset h.ioAbort
  · exact h.frame
  · exact h.frame
  · exact h.frame
  · exact h.frame
  · exact .ite h.frame h
  · exact h.frame
  · exact h.frame
  · exact h.frame
  · exact h.frame
  · exact h.frame
  · exact h.frame
  · exact h

theorem State.Keeps.bsSettle {x : Sdio} (h : s₀.Keeps s) : s₀.Keeps (s.bsSettle x) := h.frame

theorem State.Keeps.collide {touch : ℕ → Bool} {kind : ℕ} (h : s₀.Keeps s) : s₀.Keeps (s.collide touch kind).2 :=
  .ite_snd h (h.takeFree.foldl fun _ _ h => .ite h.collCasec h.collEngine)

theorem State.Keeps.collWrite {touch : Nat → Bool} (h : s₀.Keeps s) : s₀.Keeps (s.collWrite touch) := by
  unfold State.collWrite
  split
  · next e => exact h.collide.of_snd e
  · next e => exact ((h.collide.of_snd e).takeFree).frame

theorem State.Keeps.aperRead {a : ℕ} (h : s₀.Keeps s) : s₀.Keeps (s.aperRead a).2 := .ite_snd h h.pghRead

theorem State.Keeps.aperWrite {a v : ℕ} (h : s₀.Keeps s) : s₀.Keeps (s.aperWrite a v) := .ite h h.pghWrite

theorem State.Keeps.dbErr (h : s₀.Keeps s) : s₀.Keeps (s.dbErr) := h.setInt

theorem State.Keeps.cmdDbWrite {v : ℕ} (h : s₀.Keeps s) : s₀.Keeps (s.cmdDbWrite v) := .ite h.dbErr h.frame

theorem State.Keeps.rplDbWrite {v : ℕ} (h : s₀.Keeps s) : s₀.Keeps (s.rplDbWrite v) := .ite h.frame h.dbErr

theorem State.Keeps.evtDbWrite {v : ℕ} (h : s₀.Keeps s) : s₀.Keeps (s.evtDbWrite v) := .ite h.frame h.dbErr

theorem State.Keeps.f1Reg {o : ℕ} (h : s₀.Keeps s) : s₀.Keeps (s.f1Reg o).2 := by
  unfold State.f1Reg
  dsimp only
  split
  · exact h
  · exact h
  · exact h
  · exact h
  · exact h
  · exact h
  · exact h
  · exact h
  · exact h
  · exact h
  · exact h
  · exact h.frame
  · exact h
  · exact h
  · exact h.frame
  · exact h
  · exact h

theorem State.Keeps.f1Put {o v : ℕ} (h : s₀.Keeps s) : s₀.Keeps (s.f1Put o v) := by
  unfold State.f1Put
  dsimp only
  split
  · exact h.frame
  · exact h.cmdDbWrite
  · exact h.rplDbWrite
  · exact h.evtDbWrite
  · exact h.frame
  · exact h.frame
  · exact .ite h.wakeStart h
  · exact h

theorem State.Keeps.f1Byte {a : ℕ} (h : s₀.Keeps s) : s₀.Keeps (s.f1Byte a).2 := .ite_snd h.aperRead (.ite_snd h.f1Reg (.ite_snd h.hznRead h))

theorem State.Keeps.f1Write {a v : ℕ} (h : s₀.Keeps s) : s₀.Keeps (s.f1Write a v) := .ite h.aperWrite (.ite h.f1Put (.ite h.hznPut h))

theorem State.Keeps.bulkIn {x : Xfer} (h : s₀.Keeps s) : s₀.Keeps (s.bulkIn x) := by
  unfold State.bulkIn
  split
  · split
    · exact h.fwLoaded
    · exact h.imgWritten
    · exact h.planLoaded
    · exact h.submitted
    · exact h.hbmWritten
    · exact h
  · exact h

theorem State.Keeps.streamIn {d : List Byte} (h : s₀.Keeps s) : s₀.Keeps (s.streamIn d) := by
  unfold State.streamIn
  split
  · exact .ite h h.setF2
  · next x q e =>
    have hs : ∀ u : State, s₀.Keeps u → u.mail = s.mail → ∀ r : List Xfer, r.map Xfer.cmd ⊆ (x :: q).map Xfer.cmd →
        s₀.Keeps { u with mail := { u.mail with inq := r } } := fun u hu hm r hr => by
      refine hu.setMail (Mail.fresh_of_subset rfl (.refl _) ?_ (List.Subset.refl _)) le_rfl
      rw [hm, e]
      exact hr
    dsimp only
    have h1 : s₀.Keeps (if min x.left d.length < d.length then s.setF2 2 else s) := .ite h.setF2 h
    have hm1 : (if min x.left d.length < d.length then s.setF2 2 else s).mail = s.mail := by split <;> rfl
    split
    · exact (hs _ h1.setF2 hm1 q (List.subset_cons_self _ _)).bulkIn
    · exact hs _ h1 hm1 _ (List.Subset.refl _)

theorem State.Keeps.streamOut {n : Nat} (h : s₀.Keeps s) : s₀.Keeps (s.streamOut n).2 := by
  unfold State.streamOut
  split
  · exact .ite h h.setF2
  · next x q e =>
    dsimp only
    have h1 : s₀.Keeps (if min s.outAvail n < n then s.setF2 3 else s) := .ite h.setF2 h
    have hm1 : (if min s.outAvail n < n then s.setF2 3 else s).mail = s.mail := by split <;> rfl
    generalize (if min s.outAvail n < n then s.setF2 3 else s) = s1 at h1 hm1 ⊢
    have hs : ∀ r : List Xfer, r.map Xfer.cmd ⊆ (x :: q).map Xfer.cmd → s₀.Keeps { s1 with mail := { s1.mail with outq := r } } := fun r hr => by
      refine h1.setMail (Mail.fresh_of_subset rfl (.refl _) (List.Subset.refl _) ?_) le_rfl
      rw [hm1, e]
      exact hr
    have hrest : ∀ (c : Prop) [Decidable c] (y : Xfer), y.cmd = x.cmd → (if c then q else y :: q).map Xfer.cmd ⊆ (x :: q).map Xfer.cmd := by
      intro c _ y hy
      split
      · exact List.subset_cons_self _ _
      · rw [List.map_cons, List.map_cons, hy]
        exact List.Subset.refl _
    have h2 := hs _ (hrest (0 < x.left ∧ x.left - min s.outAvail n = 0) ⟨x.cmd, x.left - min s.outAvail n, x.data.drop (min s.outAvail n)⟩ rfl)
    have h3 := State.Keeps.ite (c := min s.outAvail n = s.outAvail)
      (State.Keeps.setOutq (s := { s1 with mail := { s1.mail with outq := [] } }) h2) h2
    exact .ite h3.finish h3

theorem State.Keeps.f2Reg {o : ℕ} (h : s₀.Keeps s) : s₀.Keeps (s.f2Reg o).2 := by
  unfold State.f2Reg
  dsimp only
  split
  · exact h.frame
  · exact h
  · exact h
  · exact h
  · exact h.frame
  · exact h
  · exact h
  · exact h
  · exact h
  · exact h
  · exact h

theorem State.Keeps.f2Put {o v : ℕ} (h : s₀.Keeps s) : s₀.Keeps (s.f2Put o v) := by
  unfold State.f2Put
  dsimp only
  split
  · exact h.frame
  · exact h.frame
  · exact h

theorem State.Keeps.fnByte {fn a : ℕ} (h : s₀.Keeps s) : s₀.Keeps (s.fnByte fn a).2 := by
  unfold State.fnByte
  split
  · exact h
  · exact h.f1Byte
  · exact .ite_snd h.f2Reg h

theorem State.Keeps.fnPut {fn a v : ℕ} (h : s₀.Keeps s) : s₀.Keeps (s.fnPut fn a v) := by
  unfold State.fnPut
  split
  · exact h.f0Put
  · exact h.f1Write
  · exact .ite h.f2Put h

theorem State.Keeps.fnRead {fn : ℕ} {as : List ℕ} (h : s₀.Keeps s) : s₀.Keeps (s.fnRead fn as).2 := h.foldl_snd fun _ _ h => h.fnByte

theorem State.Keeps.xferRead {fn a n : Nat} {incr : Bool} (h : s₀.Keeps s) : s₀.Keeps (s.xferRead fn a n incr).2 := by
  have hout : s₀.Keeps (if streamPart fn a n incr = 0 then (([] : List Byte), s) else s.streamOut (streamPart fn a n incr)).2 := .ite_snd h h.streamOut
  unfold State.xferRead
  dsimp only
  split
  · next e => exact hout.fnRead.collide.of_snd e
  · next e => exact (hout.fnRead.collide.of_snd e).takeFree

theorem State.Keeps.xferWrite {fn a : ℕ} {d : List Byte} {incr : Bool} (h : s₀.Keeps s) : s₀.Keeps (s.xferWrite fn a d incr) :=
  .foldl (.collWrite (.ite h h.streamIn)) fun _ _ h => h.fnPut

theorem State.Keeps.outOfRange (h : s₀.Keeps s) : s₀.Keeps (s.outOfRange) := h.frame

theorem State.Keeps.noFunction (h : s₀.Keeps s) : s₀.Keeps (s.noFunction) := h.frame

theorem State.Keeps.cmd52 {arg : ℕ} (h : s₀.Keeps s) : s₀.Keeps (cmd52 s arg) :=
  .ite h.noFunction (.ite (.ite h.xferWrite.bsSettle.xferRead.cardSays h.xferWrite.bsSettle.cardSays) h.xferRead.cardSays)

theorem State.Keeps.putBlock {fn a size : ℕ} {incr : Bool} {data : List Byte} {bad : List ℕ} {i : ℕ} (h : s₀.Keeps s) : s₀.Keeps (s.putBlock fn a size incr
    data bad i) := .ite h.addF h.xferWrite.addF

theorem State.Keeps.cmd53 {arg : ℕ} {data : List Byte} {bad : List ℕ} (h : s₀.Keeps s) : s₀.Keeps (cmd53 s arg data bad) :=
  .ite h.noFunction (.ite h.outOfRange (.ite (((h.frame.foldl fun _ _ h => h.putBlock).bsSettle).cardSays) h.frame.xferRead.cardSays.addF))

theorem State.Keeps.eventAppend (h : s₀.Keeps s) : s₀.Keeps (eventAppend s) := by
  unfold Machine.eventAppend
  split
  · exact h
  · extract_lets _ s1 _ s2
    have h1 : s₀.Keeps s1 := h.frameMail
    have h2 : s₀.Keeps s2 := h1.hznPut
    exact .ite h (.ite h1.frame.setInt h2.frame.setInt)

theorem State.Keeps.heartbeat (h : s₀.Keeps s) : s₀.Keeps (heartbeat s) := .ite h.frame h

end

end Sys2Proof.Machine
end

section
/-! SUPPORT. What every function of what runs in the background keeps. -/

namespace Sys2Proof.Machine

section
variable {s₀ s : State}

theorem State.Keeps.storeStep (h : s₀.Keeps s) : s₀.Keeps (s.storeStep) := h.fuseStep.fwStage

theorem State.Keeps.storesRun {n : Nat} (h : s₀.Keeps s) : s₀.Keeps (State.storesRun n s) := by
  induction n generalizing s with
  | zero => exact h
  | succ n ih => exact .ite (ih h.storeStep) h

theorem State.Keeps.background (h : s₀.Keeps s) : s₀.Keeps (s.background) := h.storeStep.pmBegin.pwrGo.pwrSetGo.wakeGo.sliceGo

theorem State.Keeps.tick (h : s₀.Keeps s) : s₀.Keeps (s.tick) := h.frame.background

theorem State.Keeps.replyReady (h : s₀.Keeps s) : s₀.Keeps (s.replyReady) := .sleepReply (.ite h.storesRun h)

theorem State.Keeps.replyWrite {k : ℕ} {s0 : State} (h : s₀.Keeps s0) : s₀.Keeps (replyWrite s0 k) := by
  unfold Machine.replyWrite
  dsimp only
  split
  · exact .ite h.replyReady.pghPut.frameMail.setInt h.replyReady
  · exact h.replyReady

end

end Sys2Proof.Machine
end

section
/-! SUPPORT. What every function of staging keeps. -/

namespace Sys2Proof.Machine

section
variable {s₀ s : State}

theorem State.Keeps.metaErr {b cause source desc : ℕ} (h : s₀.Keeps s) : s₀.Keeps (s.metaErr b cause source desc) := .ite h h.flagF.setF.setF.setF

theorem State.Keeps.headRun {b i n : Nat} (h : s₀.Keeps s) : s₀.Keeps (s.headRun b i n) := by
  induction n generalizing s with
  | zero => exact h
  | succ n ih => exact .ite (ih h.setBx.headAdvance) h

theorem State.Keeps.readsDone {b id : ℕ} (h : s₀.Keeps s) : s₀.Keeps (s.readsDone b id) := by
  unfold State.readsDone
  split
  · exact h.modIssue.foldl fun _ _ h => h.setBx.headRun
  · exact h

theorem State.Keeps.writesDone {b id : ℕ} (h : s₀.Keeps s) : s₀.Keeps (s.writesDone b id) := by
  unfold State.writesDone
  split
  · exact h.modIssue.foldl fun _ _ h => ((h.foldl fun _ _ h => h.gatherFlush).setBx).tailRun
  · exact h

theorem State.Keeps.issueDone {b id : ℕ} (h : s₀.Keeps s) : s₀.Keeps (s.issueDone b id) := h.writesDone.readsDone.modIssue

theorem State.Keeps.outboxGo {b : Nat} (h : s₀.Keeps s) : s₀.Keeps (s.outboxGo b) := by
  have hrest := State.Keeps.foldl_snd_snd (l := (s.bx b).outbox) (f := fun (acc : List Msg × List Nat × State) m =>
    if m.dst - 1024 ∈ acc.2.1 ∨ pcCredits b ≤ acc.2.2.pcUsed b (m.dst - 1024) then (acc.1 ++ [m], (m.dst - 1024) :: acc.2.1, acc.2.2)
    else (acc.1, acc.2.1, acc.2.2.send b m.dst 256 m.body)) (a := ([], [], s)) h fun _ _ h => .ite_snd_snd h h.send
  exact hrest.setBx

theorem State.Keeps.hbmPost {b a : ℕ} {body : Body} (h : s₀.Keeps s) : s₀.Keeps (s.hbmPost b a body) := h.setBx.outboxGo

theorem State.Keeps.fetchOwn {b id k : Nat} {narrow : Bool} (h : s₀.Keeps s) : s₀.Keeps (s.fetchOwn b id narrow k) := by
  have hread : s₀.Keeps (if narrow then s.gatherRead b (spdOff k) else (s.gatherFlush b (spdOff k)).spdLine b (spdOff k)).2 :=
    .ite_snd h.gatherRead h.gatherFlush.spdLine
  refine .ite h.issueFault (.ite h ?_)
  split
  · next e => exact (hread.of_snd e).modIssue
  · next e => exact (hread.of_snd e).issueFault

theorem State.Keeps.fetchRun {b id : ℕ} {e : ℕ × ℕ} (h : s₀.Keeps s) : s₀.Keeps (s.fetchRun b id e) :=
  .ite h.modIssue.send (.ite (.ite h h.modIssue.send) (.ite h.modIssue.send h.modIssue.send))

theorem State.Keeps.stageIssue {b id n : Nat} (h : s₀.Keeps s) : s₀.Keeps (s.stageIssue b id n) := by
  induction n generalizing s with
  | zero => exact h
  | succ n ih =>
    unfold State.stageIssue
    split
    · exact .ite h (.ite h (ih ((h.foldl fun _ _ h => h.fetchOwn).foldl fun _ _ h => h.fetchRun)))
    · exact h

theorem State.Keeps.stageAll {b : ℕ} (h : s₀.Keeps s) : s₀.Keeps (s.stageAll b) := h.outboxGo.foldl fun _ _ h => h.stageIssue

theorem State.Keeps.checkArrived {b id : ℕ} (h : s₀.Keeps s) : s₀.Keeps (s.checkArrived b id) := by
  unfold State.checkArrived
  split
  · refine .ite h (.ite h.issueFault ?_)
    split
    · exact h.metaErr.issueFault
    · exact .ite h.readsDone h
  · exact h

theorem State.Keeps.expectAck {b id : ℕ} (h : s₀.Keeps s) : s₀.Keeps (s.expectAck b id) := h.modIssue

theorem State.Keeps.storeLocal {b id a : ℕ} {narrow : Bool} {data : List (ℕ × Byte × Byte)} (h : s₀.Keeps s) : s₀.Keeps (s.storeLocal b id a narrow data) :=
  .ite h.issueFault h.lineWrite

theorem State.Keeps.storeOwn {b id l : ℕ} {narrow : Bool} {cells : List Cell} (h : s₀.Keeps s) : s₀.Keeps (s.storeOwn b id l narrow cells) := h.storeLocal

theorem State.Keeps.storeRun {b id : ℕ} {narrow : Bool} {e : ℕ × ℕ} {cells : List Cell} (h : s₀.Keeps s) : s₀.Keeps (s.storeRun b id narrow e cells) :=
  .ite h.send (.ite h.expectAck.hbmPost (.ite h.setBx.expectAck.send h.setBx.expectAck.send))

theorem State.Keeps.storeCells {b id : ℕ} {narrow : Bool} {cells : List Cell} (h : s₀.Keeps s) : s₀.Keeps (s.storeCells b id narrow cells) :=
  ((h.foldl fun _ _ h => h.storeOwn).foldl fun _ _ h => h.storeRun).foldl fun _ _ h => h.storeRun

theorem State.Keeps.storeElems {b id : ℕ} {narrow : Bool} {d : Desc} {es : List (List ℤ × ℕ)} (h : s₀.Keeps s) : s₀.Keeps (s.storeElems b id narrow d es) :=
  h.storeCells

theorem State.Keeps.storeSlot {b : ℕ} {i : Issue} {sl : ℕ} {d : Desc} {es : List (List ℤ × ℕ)} (h : s₀.Keeps s) : s₀.Keeps (s.storeSlot b i sl d es) :=
  .ite h.modIssue h.storeElems

theorem State.Keeps.storeRec {b : ℕ} {i : Issue} {sl : ℕ} {d : Desc} {p : List ℤ} {data : List Byte} (h : s₀.Keeps s) : s₀.Keeps (s.storeRec b i sl d p data)
    :=
  h.storeSlot

end

end Sys2Proof.Machine
end

section
/-! SUPPORT. What every function of tile rows keeps. -/

namespace Sys2Proof.Machine

section
variable {s₀ s : State}

theorem State.Keeps.accWr {w prec m r n : Nat} {v : Int} (h : s₀.Keeps s) : s₀.Keeps (s.accWr w prec m r n v) :=
  h.setMem (Mems.wf_acc (Mem.wf_wrN _ _ _))

theorem State.Keeps.macRow {w prec a : ℕ} {signed : Bool} {m r : ℕ} {planes : List (ℕ × List Bool)} (h : s₀.Keeps s) : s₀.Keeps (s.macRow w prec a signed m r
    planes).1 := h.foldl_fst fun _ _ h => h.accWr

theorem State.Keeps.rampHold {b : ℕ} (h : s₀.Keeps s) : s₀.Keeps (s.rampHold b) := .ite h h.setBx.addF

theorem State.Keeps.blockPlanes {b cyc step : ℕ} {acts : List ℕ} (h : s₀.Keeps s) : s₀.Keeps (s.blockPlanes b cyc step acts) :=
  .ite h (.setBx (.foldl (.ite h.noteResume h) fun _ _ h => h.govPlane))

theorem State.Keeps.enterEscapes {b id r f : ℕ} {es : List (ℕ × ℕ)} (h : s₀.Keeps s) : s₀.Keeps (s.enterEscapes b id r f es) := h.addFl.recFl.modIssue

theorem State.Keeps.tileRow {b r cyc : Nat} {i : Issue} (h : s₀.Keeps s) : s₀.Keeps (s.tileRow b i r cyc) := by
  unfold State.tileRow
  extract_lets _ _ _ _ _ _ _ _ _ _ s1
  split
  refine .ite h.issueFault ?_
  have h1 : s₀.Keeps s1 := h.blockPlanes
  split
  next e =>
  refine .modIssue (.enterEscapes (.recFl (.addFl (.of_fst ?_ e))))
  exact .foldl_fst h1 fun _ _ h => h.addF.addF.macRow

theorem State.Keeps.chainEnd {b id : ℕ} (h : s₀.Keeps s) : s₀.Keeps (s.chainEnd b id) := by
  unfold State.chainEnd
  split
  · exact .ite h.modIssue.issueDone.modIssue h
  · exact h

theorem State.Keeps.rowEff {b id cyc : ℕ} {trn : Bool} (h : s₀.Keeps s) : s₀.Keeps (rowEff s b id cyc trn) := by
  unfold Machine.rowEff
  split
  · exact .ite (.ite h.rampHold h.tileRow.chainEnd) h
  · exact h

theorem State.Keeps.blockRead {b mask k : ℕ} (h : s₀.Keeps s) : s₀.Keeps (s.blockRead b mask k).2 := h.foldl_snd fun _ _ h => h.readRow

theorem State.Keeps.corrAdd {b : ℕ} {i : Issue} {l : List (ℕ × ℤ)} {f : Issue → Issue} (h : s₀.Keeps s) : s₀.Keeps (s.corrAdd b i l f) :=
  h.addFl.recFl.modIssue

theorem State.Keeps.corrRead {b id : Nat} (h : s₀.Keeps s) : s₀.Keeps (corrRead s b id) := by
  unfold Machine.corrRead
  split
  · dsimp only
    split
    · exact h
    · split
      · split
        · exact h
        · split
          · next e => exact .ite (h.blockRead.of_snd e).corrAdd.addF (h.blockRead.of_snd e).corrAdd
          · next e => exact (h.blockRead.of_snd e).issueFault
      · split
        · split
          · next e => exact (h.blockRead.of_snd e).corrAdd.addF
          · next e => exact (h.blockRead.of_snd e).issueFault
        · exact h
  · exact h

end

end Sys2Proof.Machine
end

section
/-! SUPPORT. What every function of stores and streams keeps. -/

namespace Sys2Proof.Machine

section
variable {s₀ s : State}

theorem State.Keeps.storeBody {b id : ℕ} {d : Desc} {off : ℕ} {data : List Byte} (h : s₀.Keeps s) : s₀.Keeps (s.storeBody b id d off data) := h.storeCells

theorem State.Keeps.storeEntry {b id : ℕ} {d : Desc} {p : List ℤ} {off len : ℕ} (h : s₀.Keeps s) : s₀.Keeps (s.storeEntry b id d p off len) := h.storeElems

theorem State.Keeps.cmpCount {b lines : ℕ} (h : s₀.Keeps s) : s₀.Keeps (s.cmpCount b lines) := h.addF.addF

theorem State.Keeps.compressTile {b id k : ℕ} {d : Desc} {p0 : List ℤ} {code : List ℤ → ℕ} (h : s₀.Keeps s) : s₀.Keeps (s.compressTile b id k d p0 code) := by
  unfold State.compressTile
  dsimp only
  split
  · exact h.storeBody.storeEntry.cmpCount
  · exact h.storeEntry

theorem State.Keeps.cmpFlush {b id sl : ℕ} {d : Desc} {ps : List (List ℤ)} (h : s₀.Keeps s) : s₀.Keeps (s.cmpFlush b id sl d ps) := by
  unfold State.cmpFlush
  split
  · split
    · exact h.modIssue.foldl fun _ _ h => h.compressTile
    · exact h
  · exact h

theorem State.Keeps.cmpBand {b : ℕ} {i : Issue} {sl r : ℕ} {row : ℕ → List (List ℤ)} (h : s₀.Keeps s) : s₀.Keeps (s.cmpBand b i sl r row) := by
  unfold State.cmpBand
  split
  · exact .ite h.cmpFlush h
  · exact h

theorem State.Keeps.heldEscapes {b : ℕ} {i : Issue} {sl : ℕ} {d : Desc} {ps : List (List ℤ)} (h : s₀.Keeps s) : s₀.Keeps (s.heldEscapes b i sl d ps).2 :=
  .ite h.frame h

theorem State.Keeps.storeScale {b id : ℕ} {d : Desc} {sc j : ℕ} (h : s₀.Keeps s) : s₀.Keeps (s.storeScale b id d sc j) := h.storeElems

theorem State.Keeps.storeSide {b id : ℕ} {d : Desc} {l : List SideEnt} (h : s₀.Keeps s) : s₀.Keeps (s.storeSide b id d l) := h.storeElems

theorem State.Keeps.storeRow {b : ℕ} {i : Issue} {sl : ℕ} {d : Desc} {j : ℕ} {vals : List OutVal} {raw : ℕ} (h : s₀.Keeps s) : s₀.Keeps (s.storeRow b i sl d
    j vals raw) := .ite (.storeScale (.ite (.storeSlot (.recFl (.addFl (.ite_snd h.heldEscapes h)))) (.storeSide (.storeSlot (.recFl (.addFl (.ite_snd
      h.heldEscapes h))))))) (.ite (.storeSlot (.recFl (.addFl (.ite_snd h.heldEscapes h)))) (.storeSide (.storeSlot (.recFl (.addFl (.ite_snd h.heldEscapes
        h))))))

theorem State.Keeps.finishRow {b : ℕ} {i : Issue} {r : ℕ} {outs : List (OutIdx × F32 × ℤ)} {raw : ℕ} (h : s₀.Keeps s) : s₀.Keeps (s.finishRow b i r outs raw)
    :=
  .ite (.cmpBand (.storeRec (.cmpBand (.storeRow (.ite h (h.foldl fun _ _ h => h.monSample)))))) (.cmpBand (.storeRow (.ite h (h.foldl fun _ _ h =>
    h.monSample))))

theorem State.Keeps.inScale {b : ℕ} {i : Issue} {r : ℕ} (h : s₀.Keeps s) : s₀.Keeps (s.inScale b i r).2 := .ite_snd (.ite_snd h h.takeFree) h

theorem State.Keeps.outRow {b r : Nat} {i : Issue} {f : State → Nat → Nat → List (OutIdx × F32 × Int) × Fl} (h : s₀.Keeps s) :
    s₀.Keeps (s.outRow b i r f) := by
  unfold State.outRow
  refine .finishRow (.recFl (.addFl ?_))
  exact State.Keeps.foldl_snd_snd_snd (a := ([], 0, Fl.zero, s)) h fun _ _ h => h.inScale

theorem State.Keeps.tileRead {b : ℕ} {i : Issue} (h : s₀.Keeps s) : s₀.Keeps (s.tileRead b i) := h.setBx.modIssue.issueDone

theorem State.Keeps.epilogueEff {b id : ℕ} (h : s₀.Keeps s) : s₀.Keeps (epilogueEff s b id) := by
  unfold Machine.epilogueEff
  split
  · exact .ite (.ite (.tileRead (.ite h.modIssue.outRow h.modIssue)) (.ite h.modIssue.outRow h.modIssue)) h
  · exact h

theorem State.Keeps.passEff {b : ℕ} {i : Issue} (h : s₀.Keeps s) : s₀.Keeps (passEff s b i) :=
  .issueDone (.ite ((h.foldl fun _ _ h => h.outRow).frame) (h.foldl fun _ _ h => h.outRow))

theorem State.Keeps.rowfinEff {b : ℕ} {i : Issue} (h : s₀.Keeps s) : s₀.Keeps (rowfinEff s b i) := ((h.foldl fun _ _ h => h.storeRec).cmpFlush).issueDone

end

end Sys2Proof.Machine
end

section
/-! SUPPORT. What every function of RowOps (work on rows of weights) keeps. -/

namespace Sys2Proof.Machine

section
variable {s₀ s : State}

theorem State.Keeps.resStore {m row : ℕ} {mergeAll : Bool} {l : List (Byte × Bool)} (h : s₀.Keeps s) : s₀.Keeps (s.resStore m row mergeAll l) :=
  .ite (.ite h h.writeRow) (.mergeRow (.ite h h.writeRow))

theorem State.Keeps.resEff {b : ℕ} {i : Issue} (h : s₀.Keeps s) : s₀.Keeps (resEff s b i) :=
  ((h.foldl fun _ _ h => h.foldl fun _ _ h => h.resStore).modIssue).issueDone

theorem State.Keeps.momStore {b : ℕ} {i : Issue} {sl : ℕ} {vals : List (ℕ × ℕ × F32)} (h : s₀.Keeps s) : s₀.Keeps (s.momStore b i sl vals) :=
  .ite h.storeRow.setBx h.storeRow

theorem State.Keeps.updRow {b : Nat} {i : Issue} {y : Hyper} {rows : List (List UpdRowOf)} {k : Nat} {e : Nat × Option (List Byte)} (h : s₀.Keeps s) :
    s₀.Keeps (s.updRow b i y rows k e) := by
  unfold State.updRow
  dsimp only
  split
  · have h1 : ∀ c : Prop, ∀ _ : Decidable c, ∀ x, s₀.Keeps (if c then s else s.momStore b i 4 x) := fun _ _ _ => .ite h h.momStore
    exact .recFl (.addFl (.writeRow (.ite (h1 _ _ _) (h1 _ _ _).momStore)))
  · exact h

theorem State.Keeps.updReads {b mask k : ℕ} (h : s₀.Keeps s) : s₀.Keeps (s.updReads b mask k).2 := h.foldl_snd fun _ _ h => h.readRow

theorem State.Keeps.updateEff {b : ℕ} {i : Issue} (h : s₀.Keeps s) : s₀.Keeps (updateEff s b i) := by
  unfold Machine.updateEff
  extract_lets w h' rows s1 flush s2 s3
  have h1 : s₀.Keeps s1 := h.foldl fun _ _ h => h.updReads.foldl fun _ _ h => h.updRow
  have h2 : s₀.Keeps s2 := .ite h1.cmpFlush.cmpFlush h1.cmpFlush
  have h3 : s₀.Keeps s3 := h2.frame
  exact h3.modIssue.issueDone

theorem State.Keeps.copyEff {b : ℕ} {i : Issue} (h : s₀.Keeps s) : s₀.Keeps (copyEff s b i) := h.storeSlot.cmpFlush.issueDone

theorem State.Keeps.atomSend {b : ℕ} {i : Issue} {k : ℕ} {data : List (ℕ × Byte × Byte)} {cnt : Option ℕ} (h : s₀.Keeps s) : s₀.Keeps (s.atomSend b i k data
    cnt) := .ite h.send (.ite h.expectAck.hbmPost (.ite h.expectAck.send h.expectAck.send))

theorem State.Keeps.atomLine1 {b : ℕ} {i : Issue} {es : List (List ℤ × ℕ)} (h : s₀.Keeps s) : s₀.Keeps (s.atomLine1 b i es) := h.foldl fun _ _ h => h.atomSend

theorem State.Keeps.atomicEff {b : ℕ} {i : Issue} (h : s₀.Keeps s) : s₀.Keeps (atomicEff s b i) := (h.foldl fun _ _ h => h.atomLine1).issueDone

end

end Sys2Proof.Machine
end

section
/-! SUPPORT. What every function of the sparse engine keeps. -/

namespace Sys2Proof.Machine

section
variable {s₀ s : State}

theorem State.Keeps.loseRows {m : ℕ} (h : s₀.Keeps s) : s₀.Keeps (s.loseRows m) := h.frame.foldl fun _ _ h => h.writeRow

theorem State.Keeps.writeTile {m prec : ℕ} {es : List (ℕ × ℕ × ℕ)} (h : s₀.Keeps s) : s₀.Keeps (s.writeTile m prec es) := h.foldl fun _ _ h => h.writeRow

theorem State.Keeps.expand {b : ℕ} {i : Issue} (h : s₀.Keeps s) : s₀.Keeps (s.expand b i) :=
  .ite (.ite h.writeTile h.writeTile.flagF) (.ite h.addF (.ite h.loseRows.metaErr.issueFault h.writeTile.setTag))

theorem State.Keeps.sexpandEff {b : ℕ} {i : Issue} (h : s₀.Keeps s) : s₀.Keeps (sexpandEff s b i) := h.expand.modIssue.issueDone

theorem State.Keeps.denseExpand {b : ℕ} {i : Issue} (h : s₀.Keeps s) : s₀.Keeps (denseExpand s b i) := h.expand.modIssue

theorem State.Keeps.packRows {m : ℕ} (h : s₀.Keeps s) : s₀.Keeps (s.packRows m).2 := h.foldl_snd fun _ _ h => h.readRow

theorem State.Keeps.spackEff {b : Nat} {i : Issue} (h : s₀.Keeps s) : s₀.Keeps (spackEff s b i) := by
  refine .ite h.flagF.issueFault (.ite h.modIssue.issueDone ?_)
  split
  · next e => exact (h.packRows.of_snd e).storeBody.storeElems.cmpCount.modIssue.issueDone
  · next e => exact (h.packRows.of_snd e).modIssue.issueDone

theorem State.Keeps.cirCounts {b slot evals pred skip doubt all : ℕ} (h : s₀.Keeps s) : s₀.Keeps (s.cirCounts b slot evals pred skip doubt all) :=
  h.addF.addF.addF.addF.addF.modRec

theorem State.Keeps.markAudited {slot : ℕ} {audited : Bool} (h : s₀.Keeps s) : s₀.Keeps (s.markAudited slot audited) := .ite h.modRec h

theorem State.Keeps.predictGroup {b : ℕ} {i : Issue} {g : ℕ} {put : (Engine → Engine) → Issue → Issue} (h : s₀.Keeps s) : s₀.Keeps (s.predictGroup b i g put)
    :=
  .ite (.cirCounts (.modIssue (.ite h.setBx.flagF h.setBx))) (.cirCounts (.modIssue (.frame (.markAudited (.recFl (.addFl (.ite h.setBx.flagF h.setBx)))))))

theorem State.Keeps.predictionEff {b id : ℕ} (h : s₀.Keeps s) : s₀.Keeps (predictionEff s b id) := by
  unfold Machine.predictionEff
  split
  · exact .ite (.ite (.ite h.predictGroup h) (.ite (.ite h.predictGroup h) h)) h
  · exact h

theorem State.Keeps.judgeAudit {b : ℕ} {i : Issue} {e : Engine} {o : ℕ} (h : s₀.Keeps s) : s₀.Keeps (s.judgeAudit b i e o) := h.addF.addF.addF.setBx.modRec

theorem State.Keeps.dealGroup {b : ℕ} {i : Issue} {e : Engine} {others : ℕ} {put : (Engine → Engine) → Issue → Issue} (h : s₀.Keeps s) : s₀.Keeps
    (s.dealGroup b i e others put) := .ite h.issueFault (.foldl (.modIssue (.ite h.addFl.recFl.addF.flagF h.addFl.recFl.addF)) fun _ _ h => h.judgeAudit)

theorem State.Keeps.dealEff {b id : ℕ} (h : s₀.Keeps s) : s₀.Keeps (dealEff s b id) := by
  unfold Machine.dealEff
  split
  · exact .ite (.ite (.ite h.dealGroup h) (.ite h.dealGroup h)) h
  · exact h

theorem State.Keeps.pieceEff {b id k : ℕ} (h : s₀.Keeps s) : s₀.Keeps (pieceEff s b id k) := by
  unfold Machine.pieceEff
  split
  · refine .ite ?_ h
    split
    · exact .modIssue (.ite h.addF.modIssue.judgeAudit h.addF.modIssue)
    · exact h
  · exact h

theorem State.Keeps.releaseOut {b : ℕ} {i : Issue} {o : ℕ} (h : s₀.Keeps s) : s₀.Keeps (s.releaseOut b i o) :=
  ((h.foldl_fst fun _ _ h => .ite_fst h.accWr h.accWr.modIssue).addFl).recFl

theorem State.Keeps.releaseEff {b id : ℕ} (h : s₀.Keeps s) : s₀.Keeps (releaseEff s b id) := by
  unfold Machine.releaseEff
  split
  · exact .ite (.ite h.metaErr.issueFault (((h.foldl fun _ _ h => h.releaseOut).modIssue).chainEnd)) h
  · exact h

end

end Sys2Proof.Machine
end

section
/-! SUPPORT. What every function of issues keeps. -/

namespace Sys2Proof.Machine

section
variable {s₀ s : State}

theorem State.Keeps.takeSlots {b : ℕ} {us : List SlotUse} (h : s₀.Keeps s) : s₀.Keeps (s.takeSlots b us) :=
  h.foldl fun _ _ h => .ite h.setBx.setF (.ite h.setBx h.setBx)

theorem State.Keeps.countRows {b : ℕ} {i : Issue} (h : s₀.Keeps s) : s₀.Keeps (s.countRows b i) :=
  .ite ((h.foldl fun _ _ h => h.setBx).setBx) (h.foldl fun _ _ h => h.setBx)

theorem State.Keeps.ctxPast {b c : ℕ} (h : s₀.Keeps s) : s₀.Keeps (s.ctxPast b c) := by
  unfold State.ctxPast
  dsimp only
  split
  · exact h.setCtx
  · exact h

theorem State.Keeps.issueStats {b : ℕ} {i : Issue} (h : s₀.Keeps s) : s₀.Keeps (s.issueStats b i) :=
  .ite (.addF (.ite h.sbPeak.setF.setF h.sbPeak.setF)) (.ite (.addF (.ite h.sbPeak.setF.setF h.sbPeak.setF)) (.ite h.sbPeak.setF.setF h.sbPeak.setF))

theorem State.Keeps.makeIssue {b p : ℕ} {i : Issue} (h : s₀.Keeps s) : s₀.Keeps (s.makeIssue b p i) := h.setBx.takeSlots.countRows.issueStats.ctxPast

theorem State.Keeps.issueRefused {b c cls cause sl : ℕ} (h : s₀.Keeps s) : s₀.Keeps (s.issueRefused b c cls cause sl) := by
  unfold State.issueRefused
  refine .faultCtx (.raiseBlock (.ite ?_ (.ite h.setBx.flagF (.ite h.setBx.metaErr h.setBx))))
  split
  · exact .serveFetches (.modRec (.ite h.setBx.flagF (.ite h.setBx.metaErr h.setBx)))
  · exact .ite h.setBx.flagF (.ite h.setBx.metaErr h.setBx)

theorem State.Keeps.ctxWait {b c r : ℕ} (h : s₀.Keeps s) : s₀.Keeps (s.ctxWait b c r) := h.setCtx

theorem State.Keeps.countStalls {b c : ℕ} (h : s₀.Keeps s) : s₀.Keeps (s.countStalls b c) := by
  unfold State.countStalls
  split
  · exact h.foldl fun _ _ h => .ite h.addF.setCtx h
  · exact h

theorem State.Keeps.runStaged {b : ℕ} {i : Issue} (h : s₀.Keeps s) : s₀.Keeps (s.runStaged b i) :=
  .ite h.resEff (.ite h.updateEff (.ite h.passEff (.ite h.rowfinEff (.ite (.ite h h.sexpandEff) (.ite h.spackEff (.ite h.copyEff (.ite h.atomicEff h)))))))

theorem State.Keeps.settle1 {b id : ℕ} (h : s₀.Keeps s) : s₀.Keeps (s.settle1 b id) := by
  unfold State.settle1
  dsimp only
  split
  · exact .ite h.checkArrived (.ite (.ite h.checkArrived h.checkArrived.denseExpand.stageIssue) (.ite (.ite h.checkArrived h.checkArrived.runStaged)
    h.checkArrived))
  · exact h.checkArrived

theorem State.Keeps.settleBlk {b : ℕ} (h : s₀.Keeps s) : s₀.Keeps (s.settleBlk b) := h.stageAll.foldl fun _ _ h => h.settle1

theorem State.Keeps.syncRowCopied {m : ℕ} (h : s₀.Keeps s) : s₀.Keeps (syncRowCopied s m) := .ite h.syncRow.settleBlk.armGo.syncGo h

theorem State.Keeps.issueEff {b c k : ℕ} (h : s₀.Keeps s) : s₀.Keeps (issueEff s b c k) := by
  unfold Machine.issueEff
  refine .ite h.ctxTidy ?_
  dsimp only
  split
  · exact h.ctxTidy
  · exact .ctxWait (.ite h.ctxTidy.countStalls h.ctxTidy)
  · exact .ite h.ctxTidy.issueRefused h.ctxTidy
  · exact .ite h.ctxTidy.makeIssue.settleBlk.ctxTidy h.ctxTidy
  · exact h.ctxTidy.setBx.ctxWait.settleBlk
  · exact h.ctxTidy.ctxPast.ctxTidy.afterRetire

theorem State.Keeps.opCommand {b c k : ℕ} (h : s₀.Keeps s) : s₀.Keeps (opCommand s b c k) := .ite h.issueEff h

theorem State.Keeps.readDataEff {b i line : ℕ} (h : s₀.Keeps s) : s₀.Keeps (readDataEff s b i line) := by
  unfold Machine.readDataEff
  split
  · dsimp only
    split
    · exact .settleBlk (.modIssue (.ite h.dropMsg.issueFault h.dropMsg))
    · exact h.dropMsg
  · exact h.settleBlk

theorem State.Keeps.retireEff {b id : ℕ} (h : s₀.Keeps s) : s₀.Keeps (retireEff s b id) := by
  unfold Machine.retireEff
  split
  · exact .ite (.afterRetire (.ctxTidy (.setBx (.ite h.readsDone h)))) h
  · exact h

theorem State.Keeps.ackEff {k : ℕ} (h : s₀.Keeps s) : s₀.Keeps (ackEff s k) := by
  unfold Machine.ackEff
  split
  · exact h.writeAck.settleBlk
  · exact h.writeAck

end

end Sys2Proof.Machine
end

section
/-! SUPPORT. What every function of register accesses keeps. -/

namespace Sys2Proof.Machine

section
variable {s₀ s : State}

theorem State.Keeps.accErr {kind a : ℕ} (h : s₀.Keeps s) : s₀.Keeps (s.accErr kind a) := .ite h.flagF.setReg h.flagF.flagF

theorem State.Keeps.viewMac {m off w : ℕ} (h : s₀.Keeps s) : s₀.Keeps (s.viewMac m off w).2 := .ite_snd (.ite_snd h h.takeFree) (.ite_snd h h)

theorem State.Keeps.viewRgn {r off w : ℕ} (h : s₀.Keeps s) : s₀.Keeps (s.viewRgn r off w).2 := .ite_snd h.takeFree (.ite_snd h h)

theorem State.Keeps.shown {l : Loc} {w : ℕ} (h : s₀.Keeps s) : s₀.Keeps (s.shown l w).2 := by
  unfold State.shown
  refine .ite_snd (.ite_snd h h.takeFree) ?_
  split
  · exact h
  · exact h
  · exact h
  · exact h
  · exact h
  · exact h
  · exact h
  · exact h
  · exact h
  · exact h.viewMac
  · exact h.viewRgn
  · exact h
  · exact h
  · exact h
  · exact h
  · exact h

theorem State.Keeps.readNow {l : Loc} {d : RegDesc} {a : ℕ} (h : s₀.Keeps s) : s₀.Keeps (s.readNow l d a).2 := h.shown

theorem State.Keeps.afterRc {l : Loc} (h : s₀.Keeps s) : s₀.Keeps (s.afterRc l) := by
  unfold State.afterRc
  split
  · exact .ite h.sbPeak h
  · exact .ite h.frame (.ite h.frame h)
  · exact h

theorem State.Keeps.readReg {a : Nat} (h : s₀.Keeps s) : s₀.Keeps (s.readReg a).2 := by
  unfold State.readReg
  split
  · exact h.accErr
  · refine .ite_snd h ?_
    split
    next e =>
    have h1 := h.readNow.of_snd e
    extract_lets s2
    have h2 : s₀.Keeps s2 := by
      unfold s2
      refine .ite ?_ h1
      split
      · split
        next e => exact (h1.readNow.of_snd e).frame
      · exact h1
    exact .ite h2.setReg.afterRc h2

theorem State.Keeps.curCtl {p v : ℕ} (h : s₀.Keeps s) : s₀.Keeps (s.curCtl p v) :=
  .ite (.trainWrite (.ite (.ite h.plainWrite.setF.enSet h.plainWrite.setF) (.ite h.plainWrite.setF.enClear h.plainWrite.setF))) (.ite (.ite
    h.plainWrite.setF.enSet h.plainWrite.setF) (.ite h.plainWrite.setF.enClear h.plainWrite.setF))

theorem State.Keeps.curBuf {p off v : ℕ} (h : s₀.Keeps s) : s₀.Keeps (s.curBuf p off v) := .ite h h.plainWrite

theorem State.Keeps.writeHzn {off v : ℕ} (h : s₀.Keeps s) : s₀.Keeps (s.writeHzn off v) := by
  unfold State.writeHzn
  split
  · exact .ite h.ruleCommit h
  · exact .ite h.plainWrite h
  · exact .ite h.plainWrite h
  · exact h.plainWrite.alertSync
  · exact h.plainWrite.alertSync
  · exact h.plainWrite.alertSync
  · exact h.plainWrite

theorem State.Keeps.govCtl {r v : ℕ} (h : s₀.Keeps s) : s₀.Keeps (s.govCtl r v) := h.plainWrite.setF

theorem State.Keeps.rgnErrWrite {r v : ℕ} (h : s₀.Keeps s) : s₀.Keeps (s.rgnErrWrite r v) := .ite h.plainWrite.setF h.plainWrite

theorem State.Keeps.retWrite {b v : ℕ} (h : s₀.Keeps s) : s₀.Keeps (s.retWrite b v) := .ite h h.plainWrite.keepRet

theorem State.Keeps.shadowBits {v a : Nat} {sync restore : State → State} (h : s₀.Keeps s) (hsync : ∀ u, s₀.Keeps u → s₀.Keeps (sync u))
    (hrestore : ∀ u, s₀.Keeps u → s₀.Keeps (restore u)) : s₀.Keeps (shadowBits v sync restore a s) :=
  .ite h (.ite (hsync _ h.plainWrite) (.ite (hrestore _ h.plainWrite) h.plainWrite))

theorem State.Keeps.writeBlk {b off v : ℕ} (h : s₀.Keeps s) : s₀.Keeps (s.writeBlk b off v) :=
  .ite (.ite h.flagF h.plainWrite) (.ite (.ite h.plainWrite.setBx h.plainWrite) (.ite h.retWrite (.ite (h.shadowBits (fun _ h => h.spdSync) (fun _ h =>
    h.spdRestore)) (.ite h.cirThrWrite (.ite h (.ite h.plainWrite (.ite h.plainWrite h.plainWrite)))))))

theorem State.Keeps.writeMac {m off v : ℕ} (h : s₀.Keeps s) : s₀.Keeps (s.writeMac m off v) :=
  .ite h.macCfg (.ite h.remapWrite (.ite (h.shadowBits (fun _ h => h.shadowSync) (fun _ h => h.shadowRestore)) (.ite h.rbWrite h.plainWrite)))

theorem State.Keeps.writeShared {off v : ℕ} (h : s₀.Keeps s) : s₀.Keeps (s.writeShared off v) :=
  .ite (.ite h h.plainWrite) (.ite (.ite h h.plainWrite) h.plainWrite)

theorem State.Keeps.writeAt {l : Loc} {a v : ℕ} (h : s₀.Keeps s) : s₀.Keeps (s.writeAt l a v) := by
  unfold State.writeAt
  split
  · exact .ite h.chipRstWrite (.ite (.ite h.frame h) h.plainWrite)
  · exact .ite h.pwrReqEff (.ite h.pwrReqEff h.plainWrite)
  · exact .ite (.ite h.cadSet h) (.ite h.plainWrite.outHeld h.plainWrite)
  · exact .ite h h.plainWrite
  · exact h.writeHzn
  · exact .ite h h.plainWrite
  · exact .ite h.secDebugWrite h.plainWrite
  · exact .ite h.curCtl (.ite h.curBuf h.plainWrite)
  · exact h.writeShared
  · exact .ite h.aclkWrite (.ite h.govCtl (.ite h.rgnErrWrite h.plainWrite))
  · exact h.writeBlk
  · exact h.writeMac
  · exact h.plainWrite
  · exact h.plainWrite
  · exact h.plainWrite
  · exact h.plainWrite

theorem State.Keeps.writeReg {a v : ℕ} (h : s₀.Keeps s) : s₀.Keeps (s.writeReg a v) := by
  unfold State.writeReg
  split
  · exact h.accErr
  · exact h.writeAt

theorem State.Keeps.busAccess {wr : Bool} {addr v : ℕ} (h : s₀.Keeps s) : s₀.Keeps (busAccess s wr addr v) := .ite h.writeReg h.readReg.frame

theorem State.Keeps.readRun {a n : Nat} (h : s₀.Keeps s) : s₀.Keeps (s.readRun a n).2 := by
  induction n generalizing s a with
  | zero => exact h
  | succ n ih => exact ih h.readReg

theorem State.Keeps.regReadRun {t : Taken} (h : s₀.Keeps s) : s₀.Keeps (s.regReadRun t) := h.readRun.finish

theorem State.Keeps.regEntry {a v mask : Nat} (h : s₀.Keeps s) : s₀.Keeps (s.regEntry a v mask) := by
  unfold State.regEntry
  split
  iterate 2
    · dsimp only
      split
      · split
        · next e => exact h.pwrPlan e
        · exact h.flagF
      · exact h
  · split
    · exact h.writeReg
    · dsimp only
      split
      · exact h.readReg.writeReg
      · exact h.readReg.writeReg

theorem State.Keeps.regEnd {t : Taken} {rst : Bool} {status k : Nat} (h : s₀.Keeps s) : s₀.Keeps (s.regEnd t rst status k) :=
  .ite (h.setMail (Mail.fresh_of_subset rfl (List.filter_sublist.map _) (List.Subset.refl _) (List.Subset.refl _)) le_rfl) h.finish

theorem State.Keeps.regEntries {t : Taken} {k n : Nat} {rst : Bool} (h : s₀.Keeps s) : s₀.Keeps (s.regEntries t k rst n) := by
  induction n generalizing s k rst with
  | zero => exact h.regEnd
  | succ n ih => exact .ite h.regEnd (ih h.regEntry)

theorem State.Keeps.regWriteRun {t : Taken} (h : s₀.Keeps s) : s₀.Keeps (s.regWriteRun t) := h.regEntries

theorem State.Keeps.regTake {bad : Taken → Bool} {run : State → Taken → State} {t : Taken} (h : s₀.Keeps s) (hrun : ∀ u t, s₀.Keeps u → s₀.Keeps (run u t)) :
    s₀.Keeps (regTake bad run t s) := .ite h.fail (.ite h.goesOn (hrun _ _ h))

theorem State.Keeps.regCommand {op : Nat} {bad : Taken → Bool} {run : State → Taken → State} (h : s₀.Keeps s)
    (hrun : ∀ {s₀ : State} u t, s₀.Keeps u → s₀.Keeps (run u t)) : s₀.Keeps (s.regCommand op bad run) := by
  unfold State.regCommand
  split
  · exact .ite (h.hostCmd fun h _ => h.regTake hrun) (hrun _ _ h)
  · exact h.hostCmd fun h _ => h.regTake hrun

end

end Sys2Proof.Machine
end

section
/-! SUPPORT. What every command keeps. -/

namespace Sys2Proof.Machine

/-- What an outcome keeps of the state s before it: the canonical form of the arrays, and numbers of their own of the commands in progress. -/
def State.Kept (s : State) : Host.Outcome State Fault Refusal → Prop
  | .next t => (s.safe = true → t.safe = true) ∧ (s.mail.fresh = true → t.mail.fresh = true)
  | _ => True

theorem State.Kept.next {s t : State} (h : s.Keeps t) : s.Kept (.next t) := ⟨h.arrays, h.numbers⟩

theorem State.Kept.of_keeps {s t u : State} (h : s.Kept (.next t)) (g : t.Keeps u) : s.Kept (.next u) := ⟨g.arrays ∘ h.1, g.numbers ∘ h.2⟩

theorem Mems.wf_withoutHbm {m : Mems} (h : m.wf = true) : { m with hbm := [], hznRam := [] }.wf = true := by
  simp only [Mems.wf_iff] at h ⊢
  exact ⟨by tauto, h.2⟩

/-- A power-on reset: HBM is empty and the mailbox new, so no command is in progress. -/
theorem State.Keeps.kept_unpowered {s t u : State} (h : s.Keeps t) (hmem : u.mem = { t.mem with hbm := [], hznRam := [] }) (hmail : u.mail = Mail.init) :
    s.Kept (.next u) := by
  refine ⟨fun ho => ?_, fun _ => ?_⟩
  · rw [State.safe, hmem]
    exact Mems.wf_withoutHbm (h.arrays ho)
  · rw [hmail]
    rfl

theorem State.powerOn_kept {strapBoot strapIo18 feedtag : Nat} {s t : State} (h : s.Keeps t) : s.Kept (.next (t.powerOn strapBoot strapIo18 feedtag)) := by
  unfold State.powerOn
  exact State.Kept.of_keeps (h.chipReset.kept_unpowered rfl rfl) (.setInt (.postEvent (.chipRise (.refl _))))

theorem State.Kept.ite {c : Prop} [Decidable c] {s t u : State} (h : s.Kept (.next t)) (g : s.Kept (.next u)) : s.Kept (.next (if c then t else u)) := by
  split
  · exact h
  · exact g

theorem execPwrgoodRise_kept (strapBoot strapIo18 feedtag : Nat) (s : State) : s.Kept (execPwrgoodRise strapBoot strapIo18 feedtag s) :=
  have h := State.Keeps.refl s
  .ite (.next h) (.ite (State.powerOn_kept h) (.next h.frame))

theorem execResetNRise_kept (strapBoot strapIo18 feedtag : Nat) (s : State) : s.Kept (execResetNRise strapBoot strapIo18 feedtag s) :=
  have h := State.Keeps.refl s
  .ite (.next h) (.ite (.ite (State.powerOn_kept h.frame) (.next h.frame)) (.next h.frame.chipRise))

theorem execPwrgoodFall_kept (s : State) : s.Kept (execPwrgoodFall s) := by
  have h := State.Keeps.refl s
  refine .ite (.next h) (.ite (.next h.frame) (State.Keeps.kept_unpowered (.chipReset (.pmWord ?_)) rfl rfl))
  split
  · exact .ite h.pmAbort.frame.pmWord h
  · exact h

theorem execSleepEntry_kept (s : State) : s.Kept (execSleepEntry s) := by
  have h := State.Keeps.refl s
  unfold execSleepEntry
  split
  · exact .next (.ite h.sleepIn h)
  · exact .next h

theorem execCollAdd_kept (k : Nat) (s : State) : s.Kept (execCollAdd k s) := by
  have h := State.Keeps.refl s
  unfold execCollAdd
  split
  · exact .next h.takeInbox.collAddEff
  · exact .next h

theorem execCollBcast_kept (k : Nat) (s : State) : s.Kept (execCollBcast k s) := by
  have h := State.Keeps.refl s
  unfold execCollBcast
  split
  · exact .next h.takeInbox.collBcastEff
  · exact .next h

theorem execQuote_kept (s : State) : s.Kept (execQuote s) := by
  have h := State.Keeps.refl s
  unfold execQuote
  split
  · exact .next (.ite (h.hostCmd fun h _ => h.quoteEff) h.quoteRun)
  · exact .next (h.hostCmd fun h _ => h.quoteEff)

theorem execImgWrite_kept (s : State) : s.Kept (execImgWrite s) := by
  have h := State.Keeps.refl s
  unfold execImgWrite
  split
  next e => exact .next (.ite (h.imgWriteGo (State.owns_of_takenOp e)) (h.hostCmd fun h ht => h.imgWriteEff ht))
  · exact .next (h.hostCmd fun h ht => h.imgWriteEff ht)

theorem execImgPull_kept (s : State) : s.Kept (execImgPull s) := by
  have h := State.Keeps.refl s
  unfold execImgPull
  split
  · exact .next (.ite h.imgPullGo (h.hostCmd fun h _ => h.imgPullEff))
  · exact .next (h.hostCmd fun h _ => h.imgPullEff)

theorem execShadowSync_kept (s : State) : s.Kept (execShadowSync s) := by
  have h := State.Keeps.refl s
  unfold execShadowSync
  split
  · exact .next (.ite (h.hostCmd fun h _ => h.shadowSyncEff) h.syncGo)
  · exact .next (h.hostCmd fun h _ => h.shadowSyncEff)

theorem execGroupForm_kept (s : State) : s.Kept (execGroupForm s) := by
  refine .next ((State.Keeps.refl s).hostCmd fun h _ => ?_)
  dsimp only
  split
  · exact .ite h.fail (.ite h.fail h.formGroup.finish)
  · exact h.fail

theorem execMembers_kept (k : Nat) (s : State) : s.Kept (execMembers k s) := by
  have h := State.Keeps.refl s
  unfold execMembers
  split
  · exact .next (.ite (h.nimMsg fun _ _ h => h.membersIn) h.sendMembers)
  · exact .next h.sendMembers

theorem execStatusTimeout_kept (c : Nat) (s : State) : s.Kept (execStatusTimeout c s) := by
  have h := State.Keeps.refl s
  unfold execStatusTimeout
  split
  · exact .next (.ite h.loseMember h)
  · exact .next h

theorem execPrivateInstruction_kept (code : Nat) (s : State) : s.Kept (execPrivateInstruction code s) := by
  unfold execPrivateInstruction
  split
  · trivial
  · exact .next (State.Keeps.refl s).tapBypass

/-- Each command's functions keep both; a power-on reset starts with an empty mailbox. -/
theorem exec_kept (c : Instr) (s : State) : s.Kept (exec c s) := by
  have h := State.Keeps.refl s
  cases c with
  | pwrgoodRise _ _ _ => exact execPwrgoodRise_kept _ _ _ s
  | pwrgoodFall => exact execPwrgoodFall_kept s
  | resetNLow => exact .next (.ite h (.ite h.frame h.chipReset.frame))
  | resetNRise _ _ _ => exact execResetNRise_kept _ _ _ s
  | chipRstSoft _ => exact .next (.ite h h.chipRstWrite)
  | softResetPulse => exact .next (.ite h.chipReset.frame h)
  | trstNLow => exact .next h.frame
  | startUpStage _ => exact .next (.ite h.stageEnd h)
  | domainSettled _ => exact .next h.domainSettled
  | pwrSet => exact .next (h.hostCmd fun h _ => h.pwrSetEff)
  | pwrReqWrite _ _ => exact .next h.pwrReqEff
  | sleep => exact .next (h.hostCmd fun h _ => h.sleepEff)
  | sleepEntry => exact execSleepEntry_kept s
  | sdiHostctlWake => exact .next h.wakeStart
  | regionPowerDown _ => exact .next h.regionRest
  | rgnAclkStepWrite _ _ => exact .next (.ite h.aclkWrite h)
  | synthesizerLocked _ => exact .next h.synthLocked
  | ldoSettled _ => exact .next h.ldoSettledEff
  | rgnLdoOor _ => exact .next (.ite h.ldoOor h)
  | governorWindowEnd _ => exact .next (.ite h.windowEnd h)
  | fwd _ _ => exact .next h.opCommand
  | trn _ _ => exact .next h.opCommand
  | resWrite _ _ => exact .next h.opCommand
  | resMerge _ _ => exact .next h.opCommand
  | update _ _ => exact .next h.opCommand
  | pass _ _ => exact .next h.opCommand
  | rowfin _ _ => exact .next h.opCommand
  | sfwd _ _ => exact .next h.opCommand
  | strn _ _ => exact .next h.opCommand
  | sexpand _ _ => exact .next h.opCommand
  | spack _ _ => exact .next h.opCommand
  | copy _ _ => exact .next h.opCommand
  | tcopy _ _ => exact .next h.opCommand
  | pcopy _ _ => exact .next h.opCommand
  | atomic _ _ => exact .next h.opCommand
  | waitcnt _ _ => exact .next h.opCommand
  | forwardRow _ _ _ => exact .next h.rowEff
  | transposedRow _ _ _ => exact .next h.rowEff
  | correctionRead _ _ => exact .next h.corrRead.chainEnd.settleBlk
  | epilogue _ _ => exact .next h.epilogueEff
  | issueRetire _ _ => exact .next h.retireEff
  | remoteRead _ => exact .next h.remoteReadEff
  | remoteWrite _ => exact .next h.remoteWriteEff
  | atomicAddRequest _ => exact .next h.atomRequest
  | atomicApply _ => exact .next h.atomApply
  | readData _ _ _ => exact .next (.ite h.readDataEff h)
  | writeAcknowledgement _ => exact .next h.ackEff
  | creditReturn _ => exact .next h.creditReturnEff
  | registerAccess _ _ _ => exact .next (.ite h.busAccess h)
  | flitCrcMismatch _ _ _ => exact .next (.ite h.flitMismatch h)
  | hbmReadService _ _ => exact .next h.hbmSvc
  | hbmWriteService _ _ => exact .next h.hbmSvc
  | hbmNarrowWrite _ _ => exact .next h.hbmSvc
  | hbmAtomicAdd _ _ => exact .next h.hbmSvc.collSettle
  | hbmScrubStep _ => exact .next h.hbmScrub
  | hbmRefresh _ _ => exact .next h
  | hbmTemperatureRead _ _ => exact .next h.hbmTempRead
  | scrubStep _ => exact .next (.ite h.scrubEff.settleBlk h)
  | scrub _ _ => exact .next h.fireCmd
  | macRemapValidWrite _ _ _ => exact .next (.ite h.remapWrite h)
  | fillStep _ => exact .next (.ite h.fillEff.settleBlk h)
  | macCfgWrite _ _ => exact .next (.ite h.macCfg h)
  | macRbGo _ _ => exact .next (.ite h.rbWrite h)
  | readback _ => exact .next (.ite h.readbackEff.settleBlk h)
  | macShadowSync _ => exact .next (.ite h.shadowSync h)
  | macSyncRowCopied _ => exact .next h.syncRowCopied
  | macShadowRestore _ => exact .next (.ite h.shadowRestore h)
  | macRestoreRetire _ => exact .next h.restoreRetired
  | spdShadowSync _ => exact .next (.ite h.spdSync h)
  | spdShadowRestore _ => exact .next (.ite h.spdRestore h)
  | spdShadowDone _ => exact .next (.ite h.spdDone.syncGo h)
  | gatherLineFlush _ _ => exact .next (.ite h.gatherFlush h)
  | cirrusGroupPrediction _ _ => exact .next h.predictionEff.settleBlk
  | cirThreshWrite _ _ => exact .next (.ite h.cirThrWrite h)
  | recalibrationChain _ _ => exact .next h.recalChain
  | recalOpen _ _ => exact .next h.fireCmd
  | recalClose _ _ => exact .next h.fireCmd
  | sparseGroupDeal _ _ => exact .next h.dealEff
  | pieceEmit _ _ _ => exact .next h.pieceEff
  | mergeRelease _ _ => exact .next h.releaseEff
  | cadenceInEdge _ => exact .next h.cadEdge
  | coastedBoundary _ => exact .next h.coast
  | cadLost _ => exact .next h.cadLostEff
  | cadCmdSet => exact .next h.cadSet
  | admitRecord _ _ => exact .next h.fireCmd
  | deadline _ _ => exact .next h.fireCmd
  | tracker _ _ => exact .next h.fireCmd
  | bistRecord _ _ => exact .next h.fireCmd
  | secureRecord _ _ => exact .next h.fireCmd
  | wakeRecord _ _ => exact .next h.fireCmd
  | restRecord _ _ => exact .next h.fireCmd
  | cadenceOutPulse _ => exact .next h.pulseOut
  | beacon _ _ _ => exact .next h.beaconIn
  | laneSignal _ _ => exact .next (.ite h.portTo h)
  | equalizeComplete _ => exact .next (.ite h.portTo h)
  | alignComplete _ _ => exact .next h.alignDone
  | ts1 _ _ => exact .next h.ts1In
  | ts2 _ _ => exact .next h.ts2In
  | negotiateTimeout _ => exact .next (.ite h.attemptFail h)
  | messageFlit _ _ => exact .next (h.flitAt fun _ h => h.flitIn)
  | idleFlit _ _ => exact .next (h.flitAt fun _ h => h.idleIn)
  | retry _ _ => exact .next (h.flitAt fun _ h => h.frameIn fun _ h => h.retryIn)
  | retryRepeat _ => exact .next (.ite h.setPort h)
  | ackTimeout _ => exact .next (.ite h.replayFrom h)
  | lockLoss _ => exact .next (.ite h.linkDown h)
  | curCtlTrain _ => exact .next h.trainWrite
  | curCtlEnClear _ => exact .next h.enClear
  | messageRoute _ => exact .next (.ite h.routeMsg h)
  | handoff _ => exact .next h.handoffIn
  | collAdd _ => exact execCollAdd_kept _ s
  | collBcast _ => exact execCollBcast_kept _ s
  | curTimeout _ => exact .next h.timeoutEff
  | cmd0 => exact .next (.ite h.sdReset h.silent)
  | cmd3 => exact .next (h.onBus fun _ h => h.cmd3)
  | cmd5 _ => exact .next (h.onWire fun _ _ h => h.cmd5)
  | cmd7 _ => exact .next (h.onWire fun _ _ h => h.cmd7)
  | cmd11 => exact .next (h.onBus fun _ h => h.cmd11)
  | cmd15 _ => exact .next (h.onWire fun _ _ h => h.cmd15)
  | cmd19 => exact .next (h.onBus fun _ h => .ite h.cardSays h.silent)
  | cmd52 _ => exact .next (h.onWire fun _ _ h => h.cmd52)
  | cmd53 _ _ => exact .next (h.onWire fun _ _ h => h.cmd53)
  | res => exact .next (.ite h.sdReset h.silent)
  | ioAbort _ => exact .next (.ite h.ioAbort h)
  | sdiCmdDbWrite _ => exact .next (.ite h.cmdDbWrite h)
  | sdiRplDbWrite _ => exact .next (.ite h.rplDbWrite h)
  | sdiEvtDbWrite _ => exact .next (.ite h.evtDbWrite h)
  | replyWrite _ => exact .next h.replyWrite
  | eventAppend => exact .next h.eventAppend
  | mbxbsyPulseEnd => exact .next h.frame
  | heartbeat _ => exact .next h.at.heartbeat
  | ioReady => exact .next (.ite h.frame h)
  | hello => exact .next (h.hostCmd fun h _ => h.helloEff)
  | negotiate => exact .next (h.hostCmd fun h _ => h.negotiateEff)
  | bye => exact .next (h.hostCmd fun h _ => h.byeEff)
  | identify => exact .next (h.hostCmd fun h _ => h.identifyEff)
  | getIdKey => exact .next (h.hostCmd fun h _ => h.getIdKeyEff)
  | quote => exact execQuote_kept s
  | fwLoad => exact .next (h.hostCmd fun h ht => h.fwLoadEff ht)
  | fwActivate => exact .next (h.hostCmd fun h _ => h.fwActivateEff)
  | fwInfo => exact .next (h.hostCmd fun h _ => h.fwInfoEff)
  | pwrState => exact .next (h.hostCmd fun h _ => h.pwrStateEff)
  | imgList => exact .next (h.hostCmd fun h _ => h.imgListEff)
  | imgWrite => exact execImgWrite_kept s
  | imgPull => exact execImgPull_kept s
  | imgDelete => exact .next (h.hostCmd fun h _ => h.imgDeleteEff)
  | imgRead => exact .next (h.hostCmd fun h ht => h.imgReadEff ht)
  | shadowSync => exact execShadowSync_kept s
  | planLoad => exact .next (h.hostCmd fun h ht => h.planLoadEff ht)
  | planVerify => exact .next (h.hostCmd fun h _ => h.planVerifyEff)
  | planArm => exact .next (h.hostCmd fun h _ => h.planArmEff)
  | planStart => exact .next (h.hostCmd fun h _ => h.planStartEff)
  | planStop => exact .next (h.hostCmd fun h _ => h.planStopEff)
  | planDrain => exact .next (h.hostCmd fun h _ => h.planDrainEff)
  | planStatus => exact .next (h.hostCmd fun h _ => h.planStatusEff)
  | trackerRead => exact .next (h.hostCmd fun h _ => h.trackerReadEff)
  | cadStatus => exact .next (h.hostCmd fun h _ => h.cadStatusEff)
  | cadSetSlot => exact .next (h.hostCmd fun h _ => h.cadSetSlotEff)
  | slotStatus => exact .next (h.hostCmd fun h _ => h.slotStatusEff)
  | submit => exact .next (h.hostCmd fun h ht => h.submitEff ht)
  | submitDataVisible => exact .next h.submitVisible
  | fetch => exact .next (h.hostCmd fun h ht => h.fetchEff ht)
  | ringSetup => exact .next (h.hostCmd fun h _ => h.ringSetupEff)
  | hbmWrite => exact .next (h.hostCmd fun h ht => h.hbmWriteEff ht)
  | hbmRead => exact .next (h.hostCmd fun h ht => h.hbmReadEff ht)
  | linkStatus => exact .next (h.hostCmd fun h _ => h.linkStatusEff)
  | setCoord => exact .next (h.hostCmd fun h _ => h.setCoordEff)
  | routeWrite => exact .next (h.hostCmd fun h _ => h.routeWriteEff)
  | setTag => exact .next (h.hostCmd fun h _ => .ite h.fail h.setF.setF.finish)
  | groupForm => exact execGroupForm_kept s
  | secure => exact .next (h.hostCmd fun h _ => .ite h.fail (.goesOn (.frame (.ite h h.secureRequest))))
  | restore => exact .next (h.hostCmd fun h _ => .ite h.fail (.ite h.fail (.ite h.fail h.goRestoring.frame.goesOn)))
  | rejoin => exact .next (h.hostCmd fun h _ => .ite h.fail (.ite h.fail h.beginRebuild))
  | adopt => exact .next (h.hostCmd fun h _ => .ite h.fail (.ite h.fail h.beginRebuild))
  | secureStatus => exact .next (h.hostCmd fun h _ => .ite h.fail h.finish)
  | bistRun => exact .next (h.hostCmd fun h _ => h.bistRunEff)
  | bistResult => exact .next (h.hostCmd fun h _ => h.bistResultEff)
  | repairCommit => exact .next (h.hostCmd fun h _ => h.repairCommitEff)
  | pmlRead => exact .next (h.hostCmd fun h _ => h.pmlReadEff)
  | pmlStatus => exact .next (h.hostCmd fun h _ => h.pmlStatusEff)
  | pmlClear => exact .next (h.hostCmd fun h _ => h.pmlClearEff)
  | setTime => exact .next (h.hostCmd fun h _ => h.setTimeEff)
  | regRead => exact .next (h.regCommand fun _ _ h => h.regReadRun)
  | regWrite => exact .next (h.regCommand fun _ _ h => h.regWriteRun)
  | hznRuleWrite => exact .next (h.hostCmd fun h _ => h.ruleWriteEff)
  | hznRuleRead => exact .next (h.hostCmd fun h _ => h.ruleReadEff)
  | hznStatus => exact .next (h.hostCmd fun h _ => h.hznStatusEff)
  | horizonSample _ _ => exact .next h.hznSample
  | hznRuleCmdCommit => exact .next (.ite h.ruleCommit h)
  | activeRuleCopy => exact .next h.ruleCopy
  | postmarkCommit => exact .next (.ite h h.pmStep)
  | faultSlotService => exact .next h.faultService
  | freeze => exact .next h.freezeEff
  | freezeCopyComplete => exact .next h.freezeCopied
  | digestsFormed => exact .next h.digestsFormed
  | reductionStart => exact .next h.reductionStart
  | ping _ => exact .next (h.nimMsg fun _ _ h => h.nimSend)
  | pong _ => exact .next (h.nimMsg fun _ _ h => h.frame)
  | lost _ => exact .next (h.nimMsg fun _ _ h => .ite h.loseMember h)
  | statusReq _ => exact .next (h.nimMsg fun _ _ h => h.frame.nimTo)
  | status _ => exact .next (h.nimMsg fun _ _ h => .ite h.frame.tryDecide h)
  | decide _ => exact .next (h.nimMsg fun _ _ h => h.decideIn)
  | zeroed _ => exact .next (h.nimMsg fun _ _ h => .ite h.frame.nimAll h.frame)
  | go _ => exact .next (h.nimMsg fun _ _ h => .ite h.frame.frame.startReduce.tryPush h.frame)
  | added _ => exact .next (h.nimMsg fun _ _ h => h.frame.tryPush)
  | pushed _ => exact .next (h.nimMsg fun _ _ h => h.frame.tryReady)
  | ready _ => exact .next (h.nimMsg fun _ _ h => h.readyIn)
  | commit _ => exact .next (h.nimMsg fun _ _ h => h.commitIn)
  | secureReq _ => exact .next (h.nimMsg fun _ _ h => .ite h.frame h)
  | parity _ => exact .next (h.nimMsg fun _ _ h => h.parityIn)
  | digests _ => exact .next (h.nimMsg fun _ _ h => h.digestsIn)
  | secured _ => exact .next (h.nimMsg fun _ _ h => h.securedIn)
  | epochDone _ => exact .next (h.nimMsg fun _ _ h => h.epochDoneIn)
  | members _ => exact execMembers_kept _ s
  | adopted _ => exact .next (h.nimMsg fun _ _ h => h.setF.setF)
  | rebuildComplete => exact .next h.rebuildDone
  | peerPingTimeout _ => exact .next (.ite h.frame.losePeer h)
  | statusTimeout _ => exact execStatusTimeout_kept _ s
  | decideTimeout => exact .next (.ite (.ite h.frame.askStatus.tryDecide h.frame) h)
  | bistUnitClaim _ => exact .next h.bistClaim
  | bistUnitComplete _ _ => exact .next h.bistComplete
  | bypass => exact .next h.tapBypass
  | idcode => exact .next h.tapTake
  | samplePreload _ => exact .next h.tapLoad
  | extest _ => exact .next h.tapLoad
  | extestPulse _ => exact .next h.tapLoad
  | extestTrain _ => exact .next h.tapLoad
  | privateInstruction code => exact execPrivateInstruction_kept code s
  | secDebugUnlock _ => exact .next (.ite h.secDebugWrite h)
  | registerWrite _ _ => exact .next (.ite h.writeReg h)
  | softResetPulseEnd _ _ _ => exact .next (.ite h.chipRise h)
  | cadenceOutPulseEnd _ => exact .next h.pulseEnd
  | curCtlEnSet _ => exact .next h.enSet
  | hbmRequest _ => exact .next h.hbmEnqueue
  | spdSyncKibCopied _ => exact .next (.ite h.kibCopied h)
  | restoreComplete => exact .next h.restoreDone
  | firmwareVerifiedAtWake => exact .next h.wakeVerified
  | badOpcode => exact .next (h.hostTake fun h _ => h.finish)

theorem step_kept (s : State) : s.Kept (step s) := by
  unfold step
  split
  · exact .next (State.Keeps.refl s).tick
  next c q _ => exact exec_kept c { s with pending := q }

end Sys2Proof.Machine
end

section
/-! PROOFS. Every step keeps the canonical form of the arrays and the numbers of the commands in progress. -/

namespace Sys2Proof.Machine

/-- Settles O2: every function of a step keeps the arrays canonical. -/
theorem everyStepKeepsArraysCanonical : Obligations.EveryStepKeepsArraysCanonical := by
  intro s t hsafe hstep
  have h := step_kept s
  rw [hstep] at h
  exact h.1 hsafe

/-- Settles O3: a command that is taken gets the next number, and no transfer names another one. -/
theorem commandNumbersStayFresh : Obligations.CommandNumbersStayFresh := by
  intro s t hfresh hstep
  have h := step_kept s
  rw [hstep] at h
  exact h.2 hfresh

end Sys2Proof.Machine
end

section
/-! PROOFS. The step and the state after reset. -/

namespace Sys2Proof.Machine

/-- Settles O1. -/
theorem stepRunsFrontCommand : Obligations.StepRunsFrontCommand := by
  intro c q s hpending
  simp only [step, hpending]

/-- Settles O4: every part of the reset state is a closed term. -/
theorem resetLeavesBootAtStageOne : Obligations.ResetLeavesBootAtStageOne := by
  refine ⟨rfl, rfl, rfl, ?_, rfl, rfl, rfl, rfl, rfl, rfl⟩
  decide

end Sys2Proof.Machine
end

section
/-! SUPPORT. A command whose meaning is known to be a state. -/

namespace Sys2Proof.Machine

theorem exec_eq_next {c : Instr} {s u t : State} (heq : u = t) (h : exec c s = .next u := by rfl) : exec c s = .next t := heq ▸ h

end Sys2Proof.Machine
end

section
/-! SUPPORT. Registers after a field is written: the fields beside it, other registers, and the writes of shared operations. -/

namespace Sys2Proof.Machine

/-- Bit k of a number with a field put into it. -/
theorem testBit_putBits (n lo w v k : Nat) :
    (putBits n lo w v).testBit k = if k < lo then n.testBit k else if k < lo + w then v.testBit (k - lo) else n.testBit k := by
  have hlow : n % 2 ^ lo < 2 ^ lo := Nat.mod_lt _ (Nat.two_pow_pos lo)
  have hmid : v % 2 ^ w < 2 ^ w := Nat.mod_lt _ (Nat.two_pow_pos w)
  have hsum : putBits n lo w v = 2 ^ lo * (2 ^ w * (n >>> (lo + w)) + v % 2 ^ w) + n % 2 ^ lo := by
    unfold putBits
    ring
  rw [hsum, Nat.testBit_two_pow_mul_add _ hlow]
  split
  next h => simp [Nat.testBit_mod_two_pow, h]
  next h =>
    rw [Nat.testBit_two_pow_mul_add _ hmid]
    by_cases hk : k < lo + w
    · simp [hk, Nat.testBit_mod_two_pow, show k - lo < w by omega]
    · simp [hk, show ¬ k - lo < w by omega, show lo + w + (k - lo - w) = k by omega]

theorem bits_putBits_of_apart {n lo w v lo' w' : Nat} (h : lo + w ≤ lo' ∨ lo' + w' ≤ lo) : bits (putBits n lo w v) lo' w' = bits n lo' w' := by
  refine Nat.eq_of_testBit_eq fun k => ?_
  simp only [bits, Nat.testBit_mod_two_pow, Nat.testBit_shiftRight, testBit_putBits]
  by_cases hk : k < w'
  · rcases h with h | h
    · rw [if_neg (by omega), if_neg (by omega)]
    · rw [if_pos (by omega)]
  · simp [hk]

section
variable (s : State) (base : Nat) {f g : Fld} (v : Nat)

/-- A write of a field leaves the fields beside it alone. -/
theorem State.getF_setF_of_apart (h : f.off ≠ g.off ∨ f.lo + f.width ≤ g.lo ∨ g.lo + g.width ≤ f.lo) (hg : g.lo + g.width ≤ 32) :
    (s.setF base f v).getF base g = s.getF base g := by
  by_cases hoff : f.off = g.off
  · have hbits := h.resolve_left (not_not.2 hoff)
    simp only [State.getF, State.setF, State.reg, State.setReg_regs, hoff, SMap.get_set_self, BitVec.toNat_ofNat,
      bits_mod_two_pow _ _ _ _ hg, bits_putBits_of_apart hbits]
  · exact s.getF_setF_of_off_ne base v hoff

theorem State.getF_flagF_of_apart (h : f.off ≠ g.off ∨ f.lo + f.width ≤ g.lo ∨ g.lo + g.width ≤ f.lo) (hg : g.lo + g.width ≤ 32) :
    (s.flagF base f).getF base g = s.getF base g := s.getF_setF_of_apart base 1 h hg

theorem State.getF_addF_of_apart (h : f.off ≠ g.off ∨ f.lo + f.width ≤ g.lo ∨ g.lo + g.width ≤ f.lo) (hg : g.lo + g.width ≤ 32) :
    (s.addF base f v).getF base g = s.getF base g := s.getF_setF_of_apart base _ h hg

theorem State.isF_setF_of_apart (h : f.off ≠ g.off ∨ f.lo + f.width ≤ g.lo ∨ g.lo + g.width ≤ f.lo) (hg : g.lo + g.width ≤ 32) :
    (s.setF base f v).isF base g = s.isF base g := by
  rw [State.isF, s.getF_setF_of_apart base v h hg, State.isF]

theorem State.reg_setReg_self (a : Nat) (w : Word) : (s.setReg a w).reg a = w := by
  rw [State.reg, State.setReg_regs, SMap.get_set_self]

theorem State.reg_setReg_of_ne {a b : Nat} (w : Word) (h : a ≠ b) : (s.setReg a w).reg b = s.reg b := by
  rw [State.reg, State.setReg_regs, SMap.get_set_ne_of_other_default _ _ _ _ h, State.reg]

/-- A write of a field leaves every other register alone. -/
theorem State.reg_setF_of_ne {a : Nat} (f : Fld) (h : base + f.off ≠ a) : (s.setF base f v).reg a = s.reg a := s.reg_setReg_of_ne _ h

theorem State.getF_setF_of_ne {base' : Nat} (f g : Fld) (h : base + f.off ≠ base' + g.off) : (s.setF base f v).getF base' g = s.getF base' g := by
  rw [State.getF, s.reg_setF_of_ne base v f h, State.getF]

theorem State.isF_setF_self (hf : f.lo + f.width ≤ 32) (hw : f.width = 1) : (s.setF base f v).isF base f = decide (v % 2 = 1) := by
  rw [State.isF, s.getF_setF_self base f v hf, hw, pow_one]

theorem State.isF_flagF_self (hf : f.lo + f.width ≤ 32) (hw : f.width = 1) : (s.flagF base f).isF base f = true := s.isF_setF_self base 1 hf hw

/-- A flag set stays set whatever flag beside it is set, itself included. -/
theorem State.isF_flagF_of_isF (hf : f.lo + f.width ≤ 32) (hw : f.width = 1) (hg : g.lo + g.width ≤ 32)
    (h : f = g ∨ f.off ≠ g.off ∨ f.lo + f.width ≤ g.lo ∨ g.lo + g.width ≤ f.lo) (hs : s.isF base g = true) : (s.flagF base f).isF base g = true := by
  rcases h with rfl | h
  · exact s.isF_flagF_self base hf hw
  · rwa [State.flagF, s.isF_setF_of_apart base 1 h hg]

end

end Sys2Proof.Machine
end

section
/-! SUPPORT. What a chip event leaves alone: everything but the fault table, the Postmark Log's queue and registers, and the posts of events (R451, R505). -/

namespace Sys2Proof.Machine

/-- t differs from s at most in the fault records, the Postmark Log, the mailbox and the registers. -/
structure State.OnlyRecords (s t : State) : Prop where
  frame : { t with errs := s.errs, pml := s.pml, mail := s.mail, regs := s.regs } = s

section
variable {s t u : State}

theorem State.OnlyRecords.refl (s : State) : s.OnlyRecords s := ⟨rfl⟩

theorem State.OnlyRecords.trans (h : s.OnlyRecords t) (g : t.OnlyRecords u) : s.OnlyRecords u :=
  ⟨by rw [← h.frame, ← g.frame]⟩

theorem State.OnlyRecords.of_records (s : State) (e : Errs) : s.OnlyRecords { s with errs := e } := ⟨rfl⟩

theorem State.OnlyRecords.of_queue (s : State) (p : Pml) : s.OnlyRecords { s with pml := p } := ⟨rfl⟩

theorem State.OnlyRecords.of_setF (s : State) (base : Nat) (f : Fld) (v : Nat) : s.OnlyRecords (s.setF base f v) := ⟨rfl⟩

theorem State.OnlyRecords.mem (h : s.OnlyRecords t) : t.mem = s.mem := (congrArg State.mem h.frame : _)
theorem State.OnlyRecords.chip (h : s.OnlyRecords t) : t.chip = s.chip := (congrArg State.chip h.frame : _)
theorem State.OnlyRecords.cour (h : s.OnlyRecords t) : t.cour = s.cour := (congrArg State.cour h.frame : _)

end

section
variable (s : State)

theorem State.pmDrop_onlyRecords : s.OnlyRecords s.pmDrop :=
  ((State.OnlyRecords.of_queue s _).trans (.of_setF _ _ _ _)).trans (.of_setF _ _ _ _)

theorem State.pmSubmit_onlyRecords (p : PmSub) : s.OnlyRecords (s.pmSubmit p) := by
  unfold State.pmSubmit
  split
  · exact s.pmDrop_onlyRecords
  · exact .of_queue s _

theorem State.faultLeave_onlyRecords (e : FaultEnt) : s.OnlyRecords (s.faultLeave e) := by
  unfold State.faultLeave
  split
  · exact s.pmSubmit_onlyRecords _
  · exact .refl s

theorem State.postEvent_onlyRecords (code source arg : Nat) (pm : Bool) : s.OnlyRecords (s.postEvent code source arg pm) := by
  unfold State.postEvent
  split
  · exact ⟨rfl⟩
  · exact .refl s

theorem State.casecRecord_onlyRecords (fid n : Nat) : s.OnlyRecords (s.casecRecord fid n) := by
  unfold State.casecRecord
  split
  · exact .of_records s _
  · split
    · exact .refl s
    · refine .trans (.trans (.trans ?_ (.of_records _ _)) (State.pmSubmit_onlyRecords _ _)) (State.postEvent_onlyRecords _ _ _ _ _)
      split
      · split
        · exact (s.faultLeave_onlyRecords _).trans (.of_records _ _)
        · exact .refl s
      · exact .refl s

theorem State.chipEvent_onlyRecords (level unit cls : Nat) : s.OnlyRecords (s.chipEvent level unit cls) := s.casecRecord_onlyRecords _ _

end

/-! ## The registers -/

/-- No register of the Postmark Log. -/
def notPml (a : Nat) : Prop := a < pmlBase ∨ nimBase ≤ a

section
variable (s : State) {a : Nat} (ha : notPml a)
include ha

theorem State.pmDrop_reg : s.pmDrop.reg a = s.reg a := by
  have hne : pmlBase + F.PML_DROPS_COUNT.off ≠ a ∧ pmlBase + F.PML_STAT_DROPPED.off ≠ a := by
    simp only [notPml, pmlBase, nimBase] at ha ⊢
    omega
  exact (State.reg_setF_of_ne _ _ _ _ hne.2).trans (State.reg_setF_of_ne _ _ _ _ hne.1)

theorem State.pmSubmit_reg (p : PmSub) : (s.pmSubmit p).reg a = s.reg a := by
  unfold State.pmSubmit
  split
  · exact s.pmDrop_reg ha
  · rfl

theorem State.faultLeave_reg (e : FaultEnt) : (s.faultLeave e).reg a = s.reg a := by
  unfold State.faultLeave
  split
  · exact s.pmSubmit_reg ha _
  · rfl

theorem State.casecRecord_reg (fid n : Nat) : (s.casecRecord fid n).reg a = s.reg a := by
  have hpost : ∀ (u : State) (code source arg : Nat) (pm : Bool), (u.postEvent code source arg pm).reg a = u.reg a := fun u code source arg pm => by
    unfold State.postEvent
    split <;> rfl
  unfold State.casecRecord
  split
  · rfl
  · split
    · rfl
    · refine (hpost _ _ _ _ _).trans ((State.pmSubmit_reg _ ha _).trans ?_)
      show State.reg (match s.errs.table with
        | e :: r => if 256 ≤ s.errs.table.length then { s.faultLeave e with errs := { s.errs with table := r } } else s
        | _ => s) a = s.reg a
      split
      · split
        · exact s.faultLeave_reg ha _
        · rfl
      · rfl

theorem State.chipEvent_reg (level unit cls : Nat) : (s.chipEvent level unit cls).reg a = s.reg a := s.casecRecord_reg ha _ _

end

@[simp] theorem State.postEvent_reg (s : State) (code source arg : Nat) (pm : Bool) (a : Nat) : (s.postEvent code source arg pm).reg a = s.reg a := by
  unfold State.postEvent
  split <;> rfl

theorem State.chipEvent_getF (s : State) {base : Nat} {f : Fld} (h : notPml (base + f.off)) (level unit cls : Nat) :
    (s.chipEvent level unit cls).getF base f = s.getF base f := by
  rw [State.getF, s.chipEvent_reg h, State.getF]

@[simp] theorem State.postEvent_getF (s : State) (code source arg : Nat) (pm : Bool) (base : Nat) (f : Fld) :
    (s.postEvent code source arg pm).getF base f = s.getF base f := by
  rw [State.getF, State.postEvent_reg, State.getF]

end Sys2Proof.Machine
end

section
/-! SUPPORT. The answer of a host command: its bytes, and that only the mailbox changed (R384, R390). -/

namespace Sys2Proof.Machine

theorem State.taken_below_of_runs {s : State} {op : Nat} (h : s.runs op = true) : ∀ x ∈ s.mail.taken, x.id < s.mail.nextId :=
  ((Mail.fresh_iff _).1 ((s.runs_iff op).1 h).2.2.2.2.2).1

section
variable {s u : State} {op status : Nat} {res : List Byte}

/-- The final reply to the command just taken, from a state with the same commands in progress and replies. -/
theorem State.finish_took (hruns : s.runs op = true) (hci : u.sdio.cmdCi = s.took.sdio.cmdCi := by rfl)
    (htaken : u.mail.taken = s.took.mail.taken := by rfl) (hreplies : u.mail.replies = s.mail.replies := by rfl) :
    (u.finish s.front.id status res).sdio.cmdCi = (s.sdio.cmdCi + 1) % 64 ∧ (u.finish s.front.id status res).mail.taken = s.mail.taken
      ∧ (u.finish s.front.id status res).mail.replies = s.mail.replies ++ [replyBytes u.replyVer s.front.op s.front.tag s.front.seq status res] := by
  have hbelow := State.taken_below_of_runs hruns
  have hfind : u.takenBy s.mail.nextId = some s.front := by
    rw [State.takenBy, htaken]
    exact State.takenBy_took hbelow
  refine ⟨?_, ?_, ?_⟩
  · rw [State.finish_cmdCi, hci]
    rfl
  · refine (State.finish_taken _ _ hfind).trans ?_
    rw [htaken]
    exact State.took_taken_filter hbelow
  · exact (State.finish_replies _ _ hfind).trans (by rw [hreplies])

/-- A state that differs from the one after taking the command in other things than the mailbox answers it with a final reply. -/
theorem State.finish_answered (hruns : s.runs op = true) (hci : u.sdio.cmdCi = s.took.sdio.cmdCi := by rfl)
    (htaken : u.mail.taken = s.took.mail.taken := by rfl) (hreplies : u.mail.replies = s.mail.replies := by rfl)
    (hver : u.replyVer = s.replyVer := by rfl) : s.answered (u.finish s.front.id status res) status res := by
  have hdone := State.finish_took (status := status) (res := res) hruns hci htaken hreplies
  rwa [hver] at hdone

theorem State.answered_length {t : State} (h : s.answered t status res) : t.mail.replies.length = s.mail.replies.length + 1 := by
  rw [h.2.2, List.length_append, List.length_singleton]

/-- A command whose whole meaning is a final reply answers it and touches the mailbox only. -/
theorem exec_of_answer {c : Instr} {eff : Taken → State → State} (hexec : exec c s = .next (s.hostCmd op eff)) (hruns : s.runs op = true)
    (heff : eff s.front s.took = s.took.finish s.front.id status res) :
    ∃ t, exec c s = .next t ∧ { t with sdio := s.sdio, mail := s.mail } = s ∧ s.answered t status res := by
  refine ⟨s.took.finish s.front.id status res, ?_, State.finish_only_mailbox _ _ _ _ _ _, State.finish_answered hruns⟩
  rw [hexec, State.hostCmd_of_runs _ hruns, heff]

end

@[simp] theorem State.setOutq_sess (s : State) (q : List Xfer) : (s.setOutq q).mail.sess = s.mail.sess := by rw [State.setOutq_mail]
@[simp] theorem State.setOutq_ver (s : State) (q : List Xfer) : (s.setOutq q).mail.ver = s.mail.ver := by rw [State.setOutq_mail]

/-- A final reply leaves the session alone. -/
theorem State.finish_session (s : State) (id status : Nat) (res : List Byte) : let m := (s.finish id status res).mail
    m.sess = s.mail.sess ∧ m.ver = s.mail.ver ∧ m.expSeq = s.mail.expSeq ∧ m.mask = s.mail.mask := by
  unfold State.finish
  split
  · simp [State.queueReply]
  · simp

end Sys2Proof.Machine
end

section
/-! PROOFS. HELLO, NEGOTIATE and undefined opcodes (R391, R393, R415). -/

namespace Sys2Proof.Machine

/-- The greatest version that the device speaks and the host offers is the highest common one (R393). -/
theorem highestCommon_eq {l : List Nat} {v : Nat} (hv : v ∈ spoken) (hmem : v ∈ l) (hmax : ∀ w ∈ spoken, w ∈ l → w ≤ v) : highestCommon l = v := by
  have hle : ∀ (m : List Nat) (a : Nat), m.foldl max a ≤ v ↔ a ≤ v ∧ ∀ w ∈ m, w ≤ v := by
    intro m
    induction m with
    | nil => simp
    | cons x r ih => intro a; simp [ih, and_assoc]
  have hge : ∀ (m : List Nat) (a : Nat), a ≤ m.foldl max a ∧ ∀ w ∈ m, w ≤ m.foldl max a := by
    intro m
    induction m with
    | nil => simp
    | cons x r ih =>
      intro a
      obtain ⟨hacc, hrest⟩ := ih (max a x)
      refine ⟨(le_max_left _ _).trans hacc, fun w hw => ?_⟩
      rcases List.mem_cons.1 hw with rfl | hw
      · exact (le_max_right _ _).trans hacc
      · exact hrest w hw
  refine le_antisymm ((hle _ _).2 ⟨v.zero_le, fun w hw => ?_⟩) ((hge _ _).2 v (List.mem_filter.2 ⟨hv, by simpa using hmem⟩))
  obtain ⟨hspoken, hoffered⟩ := List.mem_filter.1 hw
  exact hmax w hspoken (by simpa using hoffered)

/-- The versions that HELLO's packet lists. -/
def Taken.offered (t : Taken) : List Nat := (List.range (t.fld 0 1)).map (fun (i : Nat) => 256 * t.fld (4 + 2 * i) 1 + t.fld (5 + 2 * i) 1)

theorem Taken.mem_offered (t : Taken) (v : Nat) : v ∈ t.offered ↔ t.offers v := by
  simp [Taken.offered, Taken.offers]

/-- The state in which HELLO answers: a session at version v, its SEQ after the command's, with every event on. -/
def State.hello (s : State) (v : Nat) : State :=
  { s.took with mail := { s.took.mail with sess := true, ver := v, expSeq := (s.front.seq + 1) % 2 ^ 32, mask := 0xFFFFFFFF } }

theorem exec_hello_of_runs {s : State} {v : Nat} (hruns : s.runs 0x0001 = true) (hok : s.front.ok (4 + 2 * s.front.fld 0 1) [(1, 3)] = true)
    (hpos : 0 < s.front.fld 0 1) (hle : s.front.fld 0 1 ≤ 8) (hv : highestCommon s.front.offered = v) (hv0 : v ≠ 0) :
    exec .hello s = .next ((s.hello v).finish s.front.id 0 (leBytes 1 3 ++ verBytes v ++ leBytes 1 0 ++ spoken.flatMap verBytes)) := by
  have hexec : exec .hello s = .next (s.hostCmd 0x0001 helloEff) := rfl
  rw [Taken.offered] at hv
  rw [hexec, State.hostCmd_of_runs _ hruns]
  simp [helloEff, hok, hpos.ne', hle, hv, hv0, State.hello]

/-- The state in which NEGOTIATE answers: the version and the event mask of the command. -/
def State.negotiated (s : State) : State :=
  { s.took with mail := { s.took.mail with
      ver := 256 * s.front.fld 0 1 + s.front.fld 1 1, mask := s.front.fldFrom 4 4 0x101 0xFFFFFFFF ||| 2 } }

theorem State.negotiated_mask (s : State) :
    s.negotiated.mail.mask = (if 0x101 ≤ s.front.ver ∧ 8 ≤ s.front.par.length then s.front.fld 4 4 else 0xFFFFFFFF) ||| 2 := by
  simp only [State.negotiated, Taken.fldFrom, Taken.fld, Nat.reduceAdd]

/-- A command other than HELLO that no check refuses finds a session. -/
theorem State.sess_of_runs {s : State} {op : Nat} (h : s.runs op = true) (hop : op ≠ 1) : s.mail.sess = true := by
  obtain ⟨hfront, -, -, hcheck, -, -⟩ := (s.runs_iff op).1 h
  by_contra hsess
  rw [State.cmdCheck, hfront] at hcheck
  simp only [hop, hsess] at hcheck
  split_ifs at hcheck
  simp_all

section
variable (s : State) (op tag seq status : Nat) (res : List Byte)

theorem State.popped_advSeq_queueReply_answered : s.answered (s.popped.advSeq.queueReply s.front.op s.front.tag s.front.seq status []) status [] :=
  ⟨rfl, rfl, rfl⟩

theorem State.popped_advSeq_queueReply_expSeq :
    (s.popped.advSeq.queueReply op tag seq status res).mail.expSeq = (s.mail.expSeq + 1) % 2 ^ 32 := rfl

theorem State.popped_advSeq_queueReply_only_mailbox :
    { s.popped.advSeq.queueReply op tag seq status res with sdio := s.sdio, mail := s.mail } = s := by
  simp only [State.queueReply, State.advSeq, State.popped]

end

/-- A command that the session version does not define is answered at once (R391). -/
theorem exec_badOpcode_of_undefined {s : State} (hready : s.cmdReady s.front.op = true) (hwhole : s.pghWhole 0 28 = true)
    (hlen : s.packet.2.1 ≤ 4064) (hcrc : s.packet.2.2 = true) (hsess : s.mail.sess = true) (hop : s.front.op ≠ 1) (hver : s.front.ver = s.mail.ver)
    (hseq : s.front.seq = s.mail.expSeq) (hundef : opDefined s.front.op s.mail.ver = false) :
    exec .badOpcode s = .next (s.popped.advSeq.queueReply s.front.op s.front.tag s.front.seq 0x0102 []) := by
  have hexec : exec .badOpcode s = .next (s.hostTake (fun t => !opDefined t.op (if s.mail.sess then s.mail.ver else 0x200))
    (fun t st => st.finish t.id 0x0102 [])) := rfl
  have hcheck : s.popped.cmdCheck s.front s.packet.2.1 s.packet.2.2 = some (0x0102, [], true) := by
    rw [State.popped_cmdCheck]
    simp [State.cmdCheck, Nat.not_lt.2 hlen, hcrc, hsess, hop, hver, hseq, hundef]
  have hgo : (s.cmdReady s.packet.1.op && !opDefined s.packet.1.op (if s.mail.sess then s.mail.ver else 0x200)) = true := by
    rw [hsess, if_pos rfl]
    exact Bool.and_eq_true_iff.2 ⟨hready, by simpa [State.front] using hundef⟩
  rw [State.popped, State.front] at hcheck
  simp only [hexec, State.hostTake, State.pghNote_of_whole _ _ hwhole, hgo, hcheck]
  rfl

/-- Settles O7: the three commands change the session's fields, and queue one reply. -/
theorem sessionCommands : Obligations.SessionCommands := by
  unfold Obligations.SessionCommands
  refine ⟨fun s v hruns hok hpos hle hv hoffers hmax => ?_, fun s hruns hok hv => ?_,
    fun s hready hwhole hlen hcrc hsess hop hver hseq hundef => ?_⟩
  · have hhigh : highestCommon s.front.offered = v :=
      highestCommon_eq hv ((Taken.mem_offered _ _).2 hoffers) fun w hw hmem => hmax w hw ((Taken.mem_offered _ _).1 hmem)
    have hv0 : v ≠ 0 := by rintro rfl; simp at hv
    obtain ⟨-, htaken, hreplies⟩ := State.finish_took (u := s.hello v) (status := 0)
      (res := leBytes 1 3 ++ verBytes v ++ leBytes 1 0 ++ spoken.flatMap verBytes) hruns
    obtain ⟨hsess, hver, hseq, hmask⟩ := (s.hello v).finish_session s.front.id 0 (leBytes 1 3 ++ verBytes v ++ leBytes 1 0 ++ spoken.flatMap verBytes)
    refine ⟨_, exec_hello_of_runs hruns hok hpos hle hhigh hv0, hsess, hver, hseq, hmask, htaken, ?_, State.finish_only_mailbox _ _ _ _ _ _⟩
    rw [hreplies, List.length_append, List.length_singleton]
  · have hexec : exec .negotiate s = .next (s.hostCmd 0x0002 negotiateEff) := rfl
    have hdone : exec .negotiate s = .next (s.negotiated.finish s.front.id 0 (verBytes (256 * s.front.fld 0 1 + s.front.fld 1 1))) := by
      rw [hexec, State.hostCmd_of_runs _ hruns]
      simp [negotiateEff, hok, spoken, hv, State.negotiated]
    obtain ⟨-, htaken, hreplies⟩ := State.finish_took (u := s.negotiated) (status := 0) (res := verBytes (256 * s.front.fld 0 1 + s.front.fld 1 1)) hruns
    obtain ⟨hsess, hver, -, hmask⟩ := s.negotiated.finish_session s.front.id 0 (verBytes (256 * s.front.fld 0 1 + s.front.fld 1 1))
    have hopen : s.mail.sess = true := State.sess_of_runs hruns (by decide)
    refine ⟨_, hdone, hsess.trans hopen, hver, ?_, htaken, ?_, State.finish_only_mailbox _ _ _ _ _ _⟩
    · exact hmask.trans s.negotiated_mask
    · rw [hreplies, List.length_append, List.length_singleton]
  · exact ⟨_, exec_badOpcode_of_undefined hready hwhole hlen hcrc hsess hop hver hseq hundef, s.popped_advSeq_queueReply_answered _, s.popped_advSeq_queueReply_expSeq _ _ _ _ _,
      s.popped_advSeq_queueReply_only_mailbox _ _ _ _ _⟩

end Sys2Proof.Machine
end

section
/-! PROOFS. The readings of the host (Tables 14.2 to 14.6, 19.4). -/

namespace Sys2Proof.Machine

theorem identifyName_eq : padTo 16 (nameBytes [0x53, 0x48, 0x58, 0x2D, 0x34, 0x30, 0x39, 0x36]) = leBytes 8 0x363930342D584853 ++ leBytes 8 0 := by decide

theorem identifyStep_eq : nameBytes [0x42, 0x31] = leBytes 2 0x3142 := by decide

theorem identifyEff_took {s : State} (hok : s.front.ok 0 [] = true) : identifyEff s.front s.took = s.took.finish s.front.id 0
    (leBytes 8 0x363930342D584853 ++ leBytes 8 0 ++ leBytes 2 0x3142 ++ leBytes 2 0 ++ leBytes 8 Config.serialFuse.toNat
      ++ leBytes 4 s.pml.bootCount ++ leBytes 4 (if s.romServes = true then 0 else s.fwVersion) ++ leBytes 4 s.store.rollback
      ++ leBytes 2 (if s.pdOn 3 = true then s.getF curShBase F.CUR_COORD_COORD else 0)
      ++ leBytes 1 (if s.pdOn 3 = true then s.getF nimBase F.NIM_TAG_TAG + 16 * s.getF nimBase F.NIM_TAG_BY_CMD else 0)
      ++ leBytes 1 s.straps ++ padTo 32 Config.rootHashFuse) := by
  have htag : s.spineF nimBase F.NIM_TAG_TAG + 16 * s.spineF nimBase F.NIM_TAG_BY_CMD
      = if s.pdOn 3 = true then s.getF nimBase F.NIM_TAG_TAG + 16 * s.getF nimBase F.NIM_TAG_BY_CMD else 0 := by
    unfold State.spineF
    split <;> rfl
  rw [← htag, ← identifyName_eq, ← identifyStep_eq, identifyEff, hok]
  rfl

theorem getIdKeyEff_took {s : State} (hok : s.front.ok 0 [] = true) : getIdKeyEff s.front s.took = s.took.finish s.front.id 0
    (beBytes 4 7 ++ beBytes 4 3 ++ idIdent ++ idNode 15 1 ++ leBytes 4 (32768 - s.store.idNext)) := by
  rw [getIdKeyEff, hok]
  rfl

theorem fwMeasure_eq (img : List Byte) : fwMeasure img = if img = [] then List.replicate 32 0 else sha256 img := by
  simp only [fwMeasure, List.isEmpty_iff]

theorem fwInfoEff_took {s : State} (hok : s.front.ok 0 [] = true) : fwInfoEff s.front s.took = s.took.finish s.front.id 0
    (leBytes 4 s.fwVersion ++ leBytes 4 (leAt s.store.staged 4 4) ++ leBytes 4 (leAt s.store.active 4 4)
      ++ (if s.fwImage = [] then List.replicate 32 0 else sha256 s.fwImage)) := by
  rw [← fwMeasure_eq, fwInfoEff, hok]
  rfl

/-- The sum of the powers of two of the numbers below n that p holds of. -/
theorem testBit_foldl_two_pow (p : Nat → Prop) [DecidablePred p] (n d : Nat) :
    ((List.range n).foldl (fun m k => if p k then m + 2 ^ k else m) 0).testBit d = true ↔ d < n ∧ p d := by
  suffices h : (List.range n).foldl (fun m k => if p k then m + 2 ^ k else m) 0 < 2 ^ n
      ∧ (((List.range n).foldl (fun m k => if p k then m + 2 ^ k else m) 0).testBit d = true ↔ d < n ∧ p d) from h.2
  induction n with
  | zero => simp
  | succ n ih =>
    obtain ⟨hlt, hbit⟩ := ih
    rw [List.range_succ, List.foldl_append]
    simp only [List.foldl_cons, List.foldl_nil]
    generalize (List.range n).foldl (fun m k => if p k then m + 2 ^ k else m) 0 = x at hlt hbit
    split
    next hp =>
      refine ⟨by omega, ?_⟩
      rcases lt_trichotomy d n with hd | rfl | hd
      · rw [Nat.add_comm, Nat.testBit_two_pow_add_gt hd, hbit]
        simp [hd, hd.trans (Nat.lt_succ_self n)]
      · simp [Nat.add_comm x, Nat.testBit_two_pow_add_eq, Nat.testBit_lt_two_pow hlt, hp]
      · have hle : x + 2 ^ n < 2 ^ d := lt_of_lt_of_le (by omega) (Nat.pow_le_pow_right two_pos hd)
        simp [Nat.testBit_lt_two_pow hle, show ¬ d < n + 1 by omega]
    next hp =>
      refine ⟨by omega, hbit.trans ?_⟩
      constructor
      · exact fun h => ⟨by omega, h.2⟩
      · refine fun h => ⟨?_, h.2⟩
        have hne : d ≠ n := fun he => hp (he ▸ h.2)
        omega

theorem State.changing_testBit (s : State) (d : Nat) :
    s.changing.testBit d = true ↔ d < 40 ∧ (d ∈ s.power.settling ∨ ∃ e ∈ s.power.plan, e.1 = d) := by
  rw [State.changing, testBit_foldl_two_pow]
  simp only [List.any_eq_true, decide_eq_true_eq]

theorem pwrStateEff_took {s : State} (hok : s.front.ok 0 [] = true) :
    pwrStateEff s.front s.took = s.took.finish s.front.id 0 (leBytes 8 s.onMask ++ leBytes 8 s.changing) := by
  rw [pwrStateEff, hok]
  rfl

theorem planStatusEff_took {s : State} (hok : s.front.ok 0 [] = true) : planStatusEff s.front s.took = s.took.finish s.front.id 0
    (leBytes 4 (leAt s.img 12 4) ++ leBytes 4 (leAt (s.job.staged.getD []) 12 4)
      ++ leBytes 1 (b2n s.job.staged.isSome + 2 * b2n (s.job.staged.isSome && s.job.verified) + 4 * b2n (!s.img.isEmpty)) ++ leBytes 3 0
      ++ leBytes 4 (if s.job.j = 0 then 0 else s.stepOf (s.job.j - 1) s.job.lastAdmit) ++ leBytes 6 s.job.lastAdmit
      ++ leBytes 6 s.job.lastDone ++ (if s.img = [] then List.replicate 32 0 else sha256 s.img)) := by
  rw [← fwMeasure_eq, planStatusEff, hok]
  rfl

theorem trackerReadEff_took {s : State} (hok : s.front.ok 4 [] = true) (hpos : 0 < s.front.fld 2 2) (hle : s.front.fld 2 2 ≤ 508)
    (hin : s.front.fld 0 2 + s.front.fld 2 2 ≤ s.job.trk.length) : trackerReadEff s.front s.took = s.took.finish s.front.id 0
    ((List.range (s.front.fld 2 2)).flatMap (fun (i : Nat) =>
      let e := s.job.trk.getD (s.front.fld 0 2 + i) ⟨[], 0, 0⟩
      leBytes 3 (trkTid (trkRec s.img (s.front.fld 0 2 + i))) ++ leBytes 1 e.win.length ++ leBytes 4 e.clip.toNat)) := by
  have hlen : s.took.job.trk.length = s.job.trk.length := rfl
  rw [trackerReadEff, if_neg (by simp [hok, hpos.ne', hle, hin, hlen])]
  rfl

theorem cadStatusEff_took {s : State} (hok : s.front.ok 0 [] = true) : cadStatusEff s.front s.took = s.took.finish s.front.id 0
    (leBytes 6 s.slotNo ++ leBytes 2 s.phase ++ leBytes 4 s.meanPeriod
      ++ leBytes 1 (s.getF cadBase F.CAD_PHASE_COAST + 2 * s.getF cadBase F.CAD_PHASE_LOST) ++ leBytes 3 0) := by
  rw [cadStatusEff, hok]
  rfl

theorem slotStatusEff_took {s : State} (hok : s.front.ok 8 [] = true) (hpos : 0 < s.front.fld 6 2) (hle : s.front.fld 6 2 ≤ 63) :
    slotStatusEff s.front s.took = s.took.finish s.front.id 0
      ((List.range (s.front.fld 6 2)).flatMap (fun (i : Nat) => s.slotImage ((s.front.fld 0 6 + i) % 2 ^ 48))) := by
  rw [slotStatusEff, if_neg (by simp [hok, hpos.ne', hle])]
  rfl

/-- A slot without a record, or more than 1,023 slots back, has the image of none (R423). -/
theorem State.slotImage_of_none {s : State} {n : Nat} (h : s.slotRec n = none ∨ 1024 ≤ (s.slotNo + 2 ^ 48 - n) % 2 ^ 48) :
    s.slotImage n = leBytes 6 n ++ leBytes 2 0x0202 ++ List.replicate 56 0 := by
  unfold State.slotImage
  split
  next e he =>
    rw [he] at h
    exact if_neg (Nat.not_lt.2 (h.resolve_left (by simp)))
  · rfl

theorem State.slotImage_of_some {s : State} {n : Nat} {e : SlotRec} (h : s.slotRec n = some e) (hnear : (s.slotNo + 2 ^ 48 - n) % 2 ^ 48 < 1024) :
    s.slotImage n = e.image := by
  rw [State.slotImage, h]
  exact if_pos hnear

theorem imgListEff_took {s : State} (hok : s.front.ok 4 [] = true) : imgListEff s.front s.took = s.took.finish s.front.id 0
    (leBytes 4 s.store.imgs.length ++ leBytes 4 (min 84 (s.store.imgs.length - s.front.fld 0 4))
      ++ ((s.store.imgs.drop (s.front.fld 0 4)).take 84).flatMap ImgRec.entry) := by
  rw [← List.length_drop, ← List.length_take, imgListEff, hok]
  rfl

theorem linkStatusEff_took {s : State} (hok : s.front.ok 0 [] = true) : linkStatusEff s.front s.took = s.took.finish s.front.id 0
    ((List.range 16).flatMap (fun (p : Nat) =>
      [F.CUR_STAT_STATE.off, F.CUR_PEER_COORD.off, F.CUR_FEAT_LO_FEAT.off, F.CUR_FEAT_HI_FEAT.off].flatMap (fun o => leBytes 4 (s.portReg p o)))) := by
  rw [linkStatusEff, hok]
  rfl

theorem bistResultEff_took {s : State} (hok : s.front.ok 4 [] = true) (hpos : 0 < s.front.fld 2 2) (hle : s.front.fld 2 2 ≤ 127)
    (hfirst : s.front.fld 0 2 < 1024) : bistResultEff s.front s.took = s.took.finish s.front.id 0
      ((List.range (s.front.fld 2 2)).flatMap (fun (i : Nat) => padTo 32 (SMap.get [] s.bist.results ((s.front.fld 0 2 + i) % 1024)))) := by
  rw [bistResultEff, if_neg (by simp [hok, hpos.ne', hle, hfirst])]
  rfl

theorem pmlReadEff_took {s : State} (hok : s.front.ok 4 [] = true) (hpos : 0 < s.front.fld 2 1) (hle : s.front.fld 2 1 ≤ 15)
    (hstore : s.front.fld 3 1 ≤ 1) (hin : s.front.fld 0 2 + s.front.fld 2 1 ≤ if s.front.fld 3 1 = 0 then 8192 else 64) :
    pmlReadEff s.front s.took = s.took.finish s.front.id 0
      ((List.range (s.front.fld 2 1)).flatMap (fun (i : Nat) => s.pmRecord (s.front.fld 3 1) (s.front.fld 0 2 + i))) := by
  rw [pmlReadEff, if_neg (by simp [hok, hpos.ne', hle, hstore, hin])]
  rfl

theorem padTo_nil (n : Nat) : padTo n [] = List.replicate n 0 := by simp [padTo]

theorem State.pmRecord_primary (s : State) (i : Nat) :
    s.pmRecord 0 i = if s.pdOn 3 = true then padTo 256 (SMap.get [] s.pml.slots i) else List.replicate 256 0 := by
  rw [State.pmRecord, if_pos rfl, State.pmPrimary]
  split
  · rfl
  · exact padTo_nil 256

theorem pmlStatusEff_took {s : State} (hok : s.front.ok 0 [] = true) : pmlStatusEff s.front s.took = s.took.finish s.front.id 0
    (leBytes 2 s.pml.slots.length ++ leBytes 2 s.pml.newest ++ leBytes 2 (s.pml.pinned.getD 0xFFFF)
      ++ leBytes 1 s.pml.words.length ++ leBytes 1 0 ++ leBytes 4 s.pml.bootCount ++ s.clearNonce) := by
  rw [pmlStatusEff, hok]
  rfl

theorem ruleReadEff_took {s : State} (hok : s.front.ok 2 [] = true) (hpos : 0 < s.front.fld 1 1) (hin : s.front.fld 0 1 + s.front.fld 1 1 ≤ 64) :
    ruleReadEff s.front s.took = s.took.finish s.front.id 0
      ((List.range (s.front.fld 1 1)).flatMap (fun (i : Nat) => s.ruleBytes (s.front.fld 0 1 + i))) := by
  rw [ruleReadEff, if_neg (by simp [hok, hpos.ne', hin])]
  rfl

theorem hznStatusEff_took {s : State} (hok : s.front.ok 0 [] = true) : hznStatusEff s.front s.took = s.took.finish s.front.id 0
    (leBytes 1 (s.getF hznBase F.HZN_RISK_RISK) ++ leBytes 1 (s.getF hznBase F.HZN_RISK_LEVEL) ++ leBytes 2 0
      ++ (List.range 64).flatMap (fun (c : Nat) => leBytes 4 (s.getF hznBase (F.HZN_CH_VAL_F.idx (0x10 * c))))) := by
  rw [hznStatusEff, hok]
  rfl

theorem exec_secureStatus_of_runs {s : State} (hruns : s.runs 0x0905 = true) (hok : s.front.ok 0 [] = true) :
    exec .secureStatus s = .next (s.took.finish s.front.id 0 (leBytes 4 (s.getF nimBase F.NIM_EPOCH_EPOCH) ++ leBytes 6 s.nim.epochSlot
      ++ leBytes 2 (s.getF nimBase F.NIM_GROUP_GROUP_ID) ++ leBytes 1 s.ownIdx ++ leBytes 1 (s.getF nimBase F.NIM_GROUP_K) ++ leBytes 2 0
      ++ padTo 32 s.nim.root)) := by
  unfold exec execSecureStatus
  rw [State.hostCmd_of_runs _ hruns, hok]
  rfl

/-- Settles O8: each reading queues its answer, and its bytes are the fields of the tables. -/
theorem hostReadings : Obligations.HostReadings := by
  unfold Obligations.HostReadings
  refine ⟨?_, ?_, ?_, ?_, ?_, ?_, ?_, ?_, ?_, ?_, ?_, ?_, ?_, ?_, ?_, ?_, ?_⟩
  · exact fun s hruns hok => exec_of_answer rfl hruns (identifyEff_took hok)
  · exact fun s hruns hok => exec_of_answer rfl hruns (getIdKeyEff_took hok)
  · exact fun s hruns hok => exec_of_answer rfl hruns (fwInfoEff_took hok)
  · intro s hruns hok
    obtain ⟨t, hexec, hmail, hanswer⟩ := exec_of_answer (c := .pwrState) rfl hruns (pwrStateEff_took hok)
    exact ⟨t, s.changing, hexec, hmail, hanswer, s.changing_testBit⟩
  · exact fun s hruns hok => exec_of_answer rfl hruns (planStatusEff_took hok)
  · exact fun s hruns hok hpos hle hin => exec_of_answer rfl hruns (trackerReadEff_took hok hpos hle hin)
  · exact fun s hruns hok => exec_of_answer rfl hruns (cadStatusEff_took hok)
  · intro s hruns hok hpos hle
    obtain ⟨t, hexec, hmail, hanswer⟩ := exec_of_answer (c := .slotStatus) rfl hruns (slotStatusEff_took hok hpos hle)
    exact ⟨t, s.slotImage, hexec, hmail, hanswer, fun n => State.slotImage_of_none, fun n e => State.slotImage_of_some⟩
  · exact fun s hruns hok => exec_of_answer rfl hruns (imgListEff_took hok)
  · exact fun s hruns hok => exec_of_answer rfl hruns (linkStatusEff_took hok)
  · exact fun s hruns hok => ⟨_, exec_secureStatus_of_runs hruns hok, State.finish_only_mailbox _ _ _ _ _ _, State.finish_answered hruns⟩
  · exact fun s hruns hok hpos hle hfirst => exec_of_answer rfl hruns (bistResultEff_took hok hpos hle hfirst)
  · intro s hruns hok hpos hle hstore hin
    have heff := pmlReadEff_took hok hpos hle (by omega) (by rw [if_pos hstore]; exact hin)
    simp only [hstore, State.pmRecord_primary] at heff
    exact exec_of_answer rfl hruns heff
  · intro s hruns hok hpos hle hstore hin
    have heff := pmlReadEff_took hok hpos hle (by omega) (by rw [if_neg (by omega)]; exact hin)
    rw [hstore] at heff
    exact exec_of_answer rfl hruns heff
  · exact fun s hruns hok => exec_of_answer rfl hruns (pmlStatusEff_took hok)
  · exact fun s hruns hok hpos hin => exec_of_answer rfl hruns (ruleReadEff_took hok hpos hin)
  · exact fun s hruns hok => exec_of_answer rfl hruns (hznStatusEff_took hok)

end Sys2Proof.Machine
end

section
/-! SUPPORT. A Courier port: its registers, its record, and the ends of a link (R351, R355). -/

namespace Sys2Proof.Machine

theorem curBase_notPml (p : Nat) (f : Fld) : notPml (curBase p + f.off) := by
  simp only [notPml, curBase, pmlBase, nimBase]
  omega

@[simp] theorem State.setPort_port_self (s : State) (p : Nat) (x : Port) : (s.setPort p x).port p = x := SMap.get_set_self _ _ _ _

theorem State.setPort_portsKept (s : State) (p : Nat) (x : Port) : s.portsKept (s.setPort p x) p :=
  fun _ hq => SMap.get_set_ne _ _ _ (Ne.symm hq)

@[simp] theorem State.setPort_mem (s : State) (p : Nat) (x : Port) : (s.setPort p x).mem = s.mem := rfl
@[simp] theorem State.setPort_chip (s : State) (p : Nat) (x : Port) : (s.setPort p x).chip = s.chip := rfl
@[simp] theorem State.setPort_regs (s : State) (p : Nat) (x : Port) : (s.setPort p x).regs = s.regs := rfl
@[simp] theorem State.setPort_getF (s : State) (p : Nat) (x : Port) (base : Nat) (f : Fld) : (s.setPort p x).getF base f = s.getF base f := rfl
@[simp] theorem State.setPort_portSt (s : State) (p : Nat) (x : Port) (q : Nat) : (s.setPort p x).portSt q = s.portSt q := rfl
@[simp] theorem State.setF_port (s : State) (base : Nat) (f : Fld) (v p : Nat) : (s.setF base f v).port p = s.port p := rfl
@[simp] theorem State.flagF_port (s : State) (base : Nat) (f : Fld) (p : Nat) : (s.flagF base f).port p = s.port p := rfl

/-- A port whose link is up is on, in state ACTIVE. -/
theorem State.portIs_iff (s : State) (p st : Nat) : s.portIs p st = true ↔ s.portOn p = true ∧ s.portSt p = st := by
  rw [State.portIs, Bool.and_eq_true, decide_eq_true_eq]

theorem State.portActive_iff (s : State) (p : Nat) : s.portActive p = true ↔ s.portOn p = true ∧ s.portSt p = 5 := by
  rw [State.portActive, Bool.and_eq_true, decide_eq_true_eq]

/-- A write of another field of a port leaves its state alone. -/
theorem State.portSt_setF_of_apart (s : State) (p : Nat) {f : Fld} (v : Nat) (h : f.off ≠ 4 ∨ f.lo + f.width ≤ 0 ∨ 3 ≤ f.lo) :
    (s.setF (curBase p) f v).portSt p = s.portSt p := s.getF_setF_of_apart _ v h (by decide)

theorem State.portSt_setF_self (s : State) (p st : Nat) (h : st < 8) : (s.setF (curBase p) F.CUR_STAT_STATE st).portSt p = st :=
  (s.getF_setF_self _ _ _ (by decide)).trans (Nat.mod_eq_of_lt h)

/-! ## A port enters a state -/

/-- t differs from s at most in the registers and in Courier's record. -/
structure State.OnlyPorts (s t : State) : Prop where
  frame : { t with regs := s.regs, cour := s.cour } = s

theorem State.OnlyPorts.trans {s t u : State} (h : s.OnlyPorts t) (g : t.OnlyPorts u) : s.OnlyPorts u := ⟨by rw [← h.frame, ← g.frame]⟩

theorem State.OnlyPorts.mem {s t : State} (h : s.OnlyPorts t) : t.mem = s.mem := (congrArg State.mem h.frame : _)
theorem State.OnlyPorts.chip {s t : State} (h : s.OnlyPorts t) : t.chip = s.chip := (congrArg State.chip h.frame : _)

theorem State.setF_onlyPorts (s : State) (base : Nat) (f : Fld) (v : Nat) : s.OnlyPorts (s.setF base f v) := ⟨rfl⟩
theorem State.setPort_onlyPorts (s : State) (p : Nat) (x : Port) : s.OnlyPorts (s.setPort p x) := ⟨rfl⟩

section
variable (s : State) (p st : Nat)

theorem State.portTo_onlyPorts : s.OnlyPorts (s.portTo p st) := by
  unfold State.portTo
  split
  · exact (s.setF_onlyPorts _ _ _).trans (State.setPort_onlyPorts _ _ _)
  · exact s.setF_onlyPorts _ _ _

theorem State.portTo_portSt (h : st < 8) : (s.portTo p st).portSt p = st := by
  unfold State.portTo
  split
  · exact (State.setPort_portSt _ _ _ _).trans (s.portSt_setF_self p st h)
  · exact s.portSt_setF_self p st h

theorem State.portTo_port (hst : st = 1) : (s.portTo p st).port p = (s.port p).fresh := by
  rw [State.portTo, if_pos hst, State.setPort_port_self]

theorem State.portTo_getF {f : Fld} (h : f.off ≠ 4 ∨ f.lo + f.width ≤ 0 ∨ 3 ≤ f.lo) (hf : f.lo + f.width ≤ 32) :
    (s.portTo p st).getF (curBase p) f = s.getF (curBase p) f := by
  have hset : (s.setF (curBase p) F.CUR_STAT_STATE st).getF (curBase p) f = s.getF (curBase p) f := by
    refine s.getF_setF_of_apart _ _ ?_ hf
    rcases h with h | h | h
    · exact .inl (Ne.symm h)
    · exact .inr (.inr (by omega))
    · exact .inr (.inl h)
  unfold State.portTo
  split
  · exact (State.setPort_getF _ _ _ _ _).trans hset
  · exact hset

/-! ## A port fails -/

theorem State.portFail_onlyRecords : ((s.setF (curBase p) F.CUR_STAT_STATE 6).flagF (curBase p) F.CUR_STAT_TRAIN_FAIL).OnlyRecords (s.portFail p) :=
  State.chipEvent_onlyRecords _ _ _ _

theorem State.portFail_port (q : Nat) : (s.portFail p).port q = s.port q := by
  rw [State.port, (s.portFail_onlyRecords p).cour, State.flagF_cour, State.setF_cour, State.port]

theorem State.portFail_mem : (s.portFail p).mem = s.mem := by
  rw [(s.portFail_onlyRecords p).mem, State.flagF_mem, State.setF_mem]

theorem State.portFail_chip : (s.portFail p).chip = s.chip := by
  rw [(s.portFail_onlyRecords p).chip, State.flagF_chip, State.setF_chip]

theorem State.portFail_getF (f : Fld) : (s.portFail p).getF (curBase p) f
    = ((s.setF (curBase p) F.CUR_STAT_STATE 6).flagF (curBase p) F.CUR_STAT_TRAIN_FAIL).getF (curBase p) f :=
  State.chipEvent_getF _ (curBase_notPml p f) _ _ _

theorem State.portFail_portSt : (s.portFail p).portSt p = 6 := by
  rw [State.portSt, State.portFail_getF, State.getF_flagF_of_apart _ _ (by decide) (by decide)]
  exact s.portSt_setF_self p 6 (by decide)

theorem State.portFail_trainFail : (s.portFail p).isF (curBase p) F.CUR_STAT_TRAIN_FAIL = true := by
  rw [State.isF, State.portFail_getF]
  exact State.isF_flagF_self _ _ (by decide) (by decide)

theorem State.portFail_down (h : s.isF (curBase p) F.CUR_STAT_DOWN = true) : (s.portFail p).isF (curBase p) F.CUR_STAT_DOWN = true := by
  rw [State.isF, State.portFail_getF, State.getF_flagF_of_apart _ _ (by decide) (by decide), State.getF_setF_of_apart _ _ _ (by decide) (by decide)]
  exact h

end

/-! ## A link goes down -/

/-- A port whose link goes down starts afresh, with DOWN set (R355). -/
def State.downing (s : State) (p : Nat) : State :=
  (((s.inboxLeft p).flagF (curBase p) F.CUR_STAT_DOWN).setF (curBase p) F.CUR_STAT_DEGRADED 0).setPort p (s.port p).fresh

/-- The end of the link is recorded and posted, before the port enters its next state. -/
def State.downed (s : State) (p : Nat) : State := ((s.downing p).chipEvent 3 (unitPort p) 0x83).postEvent 0x8 0 p true

section
variable (s : State) (p : Nat)

theorem State.linkDown_eq : s.linkDown p = if !(s.downed p).isF (curBase p) F.CUR_CTL_EN then (s.downed p).setF (curBase p) F.CUR_STAT_STATE 0
    else if (s.downed p).isF (curBase p) F.CUR_CTL_AUTO_RETRAIN then (s.downed p).portTo p 1 else (s.downed p).portFail p := rfl

theorem State.inboxLeft_getF (base : Nat) (f : Fld) : (s.inboxLeft p).getF base f = s.getF base f := rfl
theorem State.inboxLeft_mem : (s.inboxLeft p).mem = s.mem := rfl
theorem State.inboxLeft_chip : (s.inboxLeft p).chip = s.chip := rfl

theorem State.downed_getF (f : Fld) : (s.downed p).getF (curBase p) f = (s.downing p).getF (curBase p) f := by
  rw [State.downed, State.postEvent_getF, State.chipEvent_getF _ (curBase_notPml p f)]

/-- Of CUR_STAT, only DOWN and DEGRADED change before the port's next state. -/
theorem State.downing_getF_of_off {f : Fld} (h : f.off ≠ 4) : (s.downing p).getF (curBase p) f = s.getF (curBase p) f := by
  rw [State.downing, State.setPort_getF, State.getF_setF_of_off_ne _ _ _ (Ne.symm h), State.getF_flagF_of_off_ne _ _ (Ne.symm h), State.inboxLeft_getF]

theorem State.downed_isF_of_off {f : Fld} (h : f.off ≠ 4) : (s.downed p).isF (curBase p) f = s.isF (curBase p) f := by
  rw [State.isF, State.downed_getF, State.downing_getF_of_off _ _ h, State.isF]

theorem State.downed_down : (s.downed p).isF (curBase p) F.CUR_STAT_DOWN = true := by
  rw [State.isF, State.downed_getF, State.downing, State.setPort_getF, State.getF_setF_of_apart _ _ _ (by decide) (by decide)]
  exact State.isF_flagF_self _ _ (by decide) (by decide)

theorem State.downed_onlyRecords : (s.downing p).OnlyRecords (s.downed p) := by
  rw [State.downed]
  exact (State.chipEvent_onlyRecords _ _ _ _).trans (State.postEvent_onlyRecords _ _ _ _ _)

theorem State.downed_port : (s.downed p).port p = (s.port p).fresh := by
  rw [State.port, (s.downed_onlyRecords p).cour, State.downing]
  exact State.setPort_port_self _ _ _

theorem State.downed_mem : (s.downed p).mem = s.mem := by
  rw [(s.downed_onlyRecords p).mem, State.downing, State.setPort_mem, State.setF_mem, State.flagF_mem, State.inboxLeft_mem]

theorem State.downed_chip : (s.downed p).chip = s.chip := by
  rw [(s.downed_onlyRecords p).chip, State.downing, State.setPort_chip, State.setF_chip, State.flagF_chip, State.inboxLeft_chip]

/-- A write of EN is not undone by the link's end. -/
theorem State.linkDown_en : (s.linkDown p).getF (curBase p) F.CUR_CTL_EN = s.getF (curBase p) F.CUR_CTL_EN := by
  have hdowned : (s.downed p).getF (curBase p) F.CUR_CTL_EN = s.getF (curBase p) F.CUR_CTL_EN := by
    rw [State.downed_getF, State.downing_getF_of_off _ _ (by decide)]
  rw [State.linkDown_eq]
  split
  · rw [State.getF_setF_of_off_ne _ _ _ (by decide), hdowned]
  · split
    · rw [State.portTo_getF _ _ _ (by decide) (by decide), hdowned]
    · rw [State.portFail_getF, State.getF_flagF_of_off_ne _ _ (by decide), State.getF_setF_of_off_ne _ _ _ (by decide), hdowned]

/-- What every end of a link leaves: DOWN set, nothing to send or to send again, memory and chip state as they were. -/
theorem State.linkDown_keeps : (s.linkDown p).isF (curBase p) F.CUR_STAT_DOWN = true ∧ ((s.linkDown p).port p).replay = []
    ∧ ((s.linkDown p).port p).txq = [] ∧ (s.linkDown p).mem = s.mem ∧ (s.linkDown p).chip = s.chip := by
  have hdown := s.downed_down p
  have hport := s.downed_port p
  rw [State.linkDown_eq]
  split
  · refine ⟨?_, ?_, ?_, (State.setF_mem _ _ _ _).trans (s.downed_mem p), (State.setF_chip _ _ _ _).trans (s.downed_chip p)⟩
    · rwa [State.isF_setF_of_apart _ _ _ (by decide) (by decide)]
    · rw [State.setF_port, hport]
      rfl
    · rw [State.setF_port, hport]
      rfl
  · split
    · have hto := (s.downed p).portTo_onlyPorts p 1
      refine ⟨?_, ?_, ?_, hto.mem.trans (s.downed_mem p), hto.chip.trans (s.downed_chip p)⟩
      · rwa [State.isF, State.portTo_getF _ _ _ (by decide) (by decide)]
      · rw [State.portTo_port _ _ _ rfl]
        rfl
      · rw [State.portTo_port _ _ _ rfl]
        rfl
    · refine ⟨State.portFail_down _ _ hdown, ?_, ?_, (State.portFail_mem _ _).trans (s.downed_mem p), (State.portFail_chip _ _).trans (s.downed_chip p)⟩
      · rw [State.portFail_port, hport]
        rfl
      · rw [State.portFail_port, hport]
        rfl

theorem State.linkDown_portSt : (s.linkDown p).portSt p
    = if s.isF (curBase p) F.CUR_CTL_EN = true then (if s.isF (curBase p) F.CUR_CTL_AUTO_RETRAIN = true then 1 else 6) else 0 := by
  rw [State.linkDown_eq, State.downed_isF_of_off _ _ (by decide), State.downed_isF_of_off _ _ (by decide)]
  by_cases hen : s.isF (curBase p) F.CUR_CTL_EN = true
  · rw [if_neg (by simp [hen]), if_pos hen]
    split
    · exact State.portTo_portSt _ p 1 (by decide)
    · exact State.portFail_portSt _ p
  · rw [if_pos (by simpa using hen), if_neg hen]
    exact State.portSt_setF_self _ p 0 (by decide)

end

end Sys2Proof.Machine
end

section
/-! PROOFS. What software and the line do to a Courier port (R351, R355). -/

namespace Sys2Proof.Machine

/-- Settles O21: each write and the loss of lock lead the port to its next state. -/
theorem courierPortControl : Obligations.CourierPortControl := by
  unfold Obligations.CourierPortControl
  refine ⟨fun s p hon hst => ?_, fun s p hon hst => ?_, fun s p hactive => ?_, fun s p hon hst => ?_, fun s p hactive hen => ?_⟩
  · have heff : enSet s p = (s.setF (curBase p) F.CUR_CTL_EN 1).portTo p 1 := by simp [enSet, hon, hst]
    refine ⟨_, exec_eq_next heff, ?_, State.portTo_portSt _ _ _ (by decide), ((s.setF_onlyPorts _ _ _).trans (State.portTo_onlyPorts _ _ _)).frame⟩
    rw [State.portTo_getF _ _ _ (by decide) (by decide), State.getF_setF_self _ _ _ _ (by decide)]
    rfl
  · have heff : enClear s p = ((s.setF (curBase p) F.CUR_CTL_EN 0).setPort p (s.port p).fresh).setF (curBase p) F.CUR_STAT_STATE 0 := by
      simp [enClear, hon, hst]
    refine ⟨_, exec_eq_next heff, ?_, State.portSt_setF_self _ _ _ (by decide), ?_⟩
    · rw [State.getF_setF_of_apart _ _ _ (by decide) (by decide), State.setPort_getF, State.getF_setF_self _ _ _ _ (by decide)]
      rfl
    · exact (((s.setF_onlyPorts _ _ _).trans (State.setPort_onlyPorts _ _ _)).trans (State.setF_onlyPorts _ _ _ _)).frame
  · obtain ⟨hon, hst⟩ := (s.portActive_iff p).1 hactive
    have heff : enClear s p = (s.setF (curBase p) F.CUR_CTL_EN 0).linkDown p := by simp [enClear, hon, hst]
    have hen : (s.setF (curBase p) F.CUR_CTL_EN 0).isF (curBase p) F.CUR_CTL_EN = false := State.isF_setF_self _ _ _ (by decide) (by decide)
    obtain ⟨hdown, hreplay, htxq, hmem, hchip⟩ := (s.setF (curBase p) F.CUR_CTL_EN 0).linkDown_keeps p
    refine ⟨_, exec_eq_next heff, ?_, ?_, hdown, hreplay, htxq, hmem.trans (State.setF_mem _ _ _ _), hchip.trans (State.setF_chip _ _ _ _)⟩
    · rw [State.linkDown_en, State.getF_setF_self _ _ _ _ (by decide)]
      rfl
    · rw [State.linkDown_portSt, hen]
      rfl
  · have heff : trainWrite s p = s.portTo p 1 := if_pos ⟨hon, hst⟩
    exact ⟨_, exec_eq_next heff, State.portTo_portSt _ _ _ (by decide), (State.portTo_onlyPorts _ _ _).frame⟩
  · obtain ⟨hdown, hreplay, htxq, hmem, hchip⟩ := s.linkDown_keeps p
    refine ⟨s.linkDown p, exec_eq_next (if_pos hactive), ?_, hdown, hreplay, htxq, hmem, hchip⟩
    rw [State.linkDown_portSt, if_pos hen]

end Sys2Proof.Machine
end

section
/-! SUPPORT. Flits of a Courier port: what the receipt of one and the sending of queued ones leave alone (R341 to R343). -/

namespace Sys2Proof.Machine

/-! ## The record of the port -/

/-- y differs from x at most in what is queued, sent and not acknowledged. -/
structure Port.OnlySent (x y : Port) : Prop where
  frame : { y with
    txSeq := x.txSeq, sent := x.sent, replay := x.replay, cvc := x.cvc, out := x.out, txq := x.txq, txBits := x.txBits, txLen := x.txLen,
    txCw := x.txCw, wire := x.wire } = x

theorem Port.OnlySent.refl (x : Port) : x.OnlySent x := ⟨rfl⟩
theorem Port.OnlySent.trans {x y z : Port} (h : x.OnlySent y) (g : y.OnlySent z) : x.OnlySent z := ⟨by rw [← h.frame, ← g.frame]⟩

theorem Port.OnlySent.of_queues (x : Port) (sent : List Nat) (replay : List SentFlit) (n : Nat) :
    x.OnlySent { x with sent := sent, replay := replay, txSeq := n } := ⟨rfl⟩

theorem Port.OnlySent.of_out (x : Port) (c : Nat) (b : List Byte) : x.OnlySent { x with cvc := c, out := b } := ⟨rfl⟩

theorem Port.OnlySent.of_txq (x : Port) (q : List (Nat × List Byte)) : x.OnlySent { x with txq := q } := ⟨rfl⟩

section
variable {x y : Port} (h : x.OnlySent y)
include h

theorem Port.OnlySent.attempt : y.attempt = x.attempt := (congrArg Port.attempt h.frame : _)
theorem Port.OnlySent.ts1 : y.ts1 = x.ts1 := (congrArg Port.ts1 h.frame : _)
theorem Port.OnlySent.ts1n : y.ts1n = x.ts1n := (congrArg Port.ts1n h.frame : _)
theorem Port.OnlySent.ts2n : y.ts2n = x.ts2n := (congrArg Port.ts2n h.frame : _)
theorem Port.OnlySent.agreed : y.agreed = x.agreed := (congrArg Port.agreed h.frame : _)
theorem Port.OnlySent.peerBufs : y.peerBufs = x.peerBufs := (congrArg Port.peerBufs h.frame : _)
theorem Port.OnlySent.rxNext : y.rxNext = x.rxNext := (congrArg Port.rxNext h.frame : _)
theorem Port.OnlySent.refused : y.refused = x.refused := (congrArg Port.refused h.frame : _)
theorem Port.OnlySent.part : y.part = x.part := (congrArg Port.part h.frame : _)
theorem Port.OnlySent.retries : y.retries = x.retries := (congrArg Port.retries h.frame : _)
theorem Port.OnlySent.stalls : y.stalls = x.stalls := (congrArg Port.stalls h.frame : _)
theorem Port.OnlySent.bad : y.bad = x.bad := (congrArg Port.bad h.frame : _)
theorem Port.OnlySent.ccount : y.ccount = x.ccount := (congrArg Port.ccount h.frame : _)
theorem Port.OnlySent.sent2 : y.sent2 = x.sent2 := (congrArg Port.sent2 h.frame : _)
theorem Port.OnlySent.txLanes : y.txLanes = x.txLanes := (congrArg Port.txLanes h.frame : _)
theorem Port.OnlySent.axis : y.axis = x.axis := (congrArg Port.axis h.frame : _)
theorem Port.OnlySent.bufs : y.bufs = x.bufs := (congrArg Port.bufs h.frame : _)

end

theorem Port.stream_onlySent (x : Port) (b : List Byte) : x.OnlySent (x.stream b) := by
  unfold Port.stream
  dsimp only
  split <;> exact ⟨rfl⟩

/-- A flit sent changes what was sent last, and the bits under way. -/
theorem Port.sendFlit_onlySent (x : Port) (ctl kind seq : Nat) (d : List Byte) : x.OnlySent (x.sendFlit ctl kind seq d) := by
  unfold Port.sendFlit
  exact (x.stream_onlySent _).trans (.of_out _ _ _)

/-- A flit sent leaves the queues and the numbers as they were. -/
theorem Port.sendFlit_queues (x : Port) (ctl kind seq : Nat) (d : List Byte) : (x.sendFlit ctl kind seq d).replay = x.replay
    ∧ (x.sendFlit ctl kind seq d).txq = x.txq ∧ (x.sendFlit ctl kind seq d).txSeq = x.txSeq := by
  unfold Port.sendFlit Port.stream
  dsimp only
  split <;> exact ⟨rfl, rfl, rfl⟩

/-- What is sent from the queue, what stays, and how many flits went out. -/
theorem pumpPort_onlySent (q : List (Nat × List Byte)) (x : Port) (blocked : List Nat) : x.OnlySent (pumpPort x q blocked).1 := by
  induction q generalizing x blocked with
  | nil => exact .refl x
  | cons e r ih =>
    obtain ⟨c, d⟩ := e
    simp only [pumpPort]
    split
    · exact ((x.sendFlit_onlySent _ _ _ _).trans (.of_queues _ _ _ _)).trans (ih _ _)
    · exact ih _ _

/-! ## The state -/

/-- t differs from s at most in registers, in Horizon's counts and in the record of port p. -/
structure State.OnlyLink (s t : State) (p : Nat) : Prop where
  frame : { t with regs := s.regs, cour := s.cour, hzn := s.hzn } = s
  courier : { t.cour with ports := s.cour.ports } = s.cour
  ports : s.portsKept t p

section
variable {s t u : State} {p : Nat}

theorem State.OnlyLink.refl (s : State) (p : Nat) : s.OnlyLink s p := ⟨rfl, rfl, fun _ _ => rfl⟩

theorem State.OnlyLink.trans (h : s.OnlyLink t p) (g : t.OnlyLink u p) : s.OnlyLink u p :=
  ⟨by rw [← h.frame, ← g.frame], by rw [← h.courier, ← g.courier], fun q hq => (g.ports q hq).trans (h.ports q hq)⟩

theorem State.OnlyLink.inbox (h : s.OnlyLink t p) : t.cour.inbox = s.cour.inbox := (congrArg Cour.inbox h.courier : _)

theorem State.setF_onlyLink (s : State) (base : Nat) (f : Fld) (v p : Nat) : s.OnlyLink (s.setF base f v) p := ⟨rfl, rfl, fun _ _ => rfl⟩
theorem State.addF_onlyLink (s : State) (base : Nat) (f : Fld) (k p : Nat) : s.OnlyLink (s.addF base f k) p := s.setF_onlyLink _ _ _ _
theorem State.tally_onlyLink (s : State) (ch k p : Nat) : s.OnlyLink (s.tally ch k) p := ⟨rfl, rfl, fun _ _ => rfl⟩
theorem State.setPort_onlyLink (s : State) (p : Nat) (x : Port) : s.OnlyLink (s.setPort p x) p := ⟨rfl, rfl, s.setPort_portsKept p x⟩

end

section
variable (s : State) (p : Nat) (f : Flit)

theorem State.flitFec_onlyLink : s.OnlyLink (s.flitFec p f) p := by
  unfold State.flitFec
  split
  · exact .refl s p
  · dsimp only
    split <;> exact ((s.addF_onlyLink _ _ _ _).trans (State.addF_onlyLink _ _ _ _ _)).trans (State.tally_onlyLink _ _ _ _)

theorem State.flitTake_onlyLink : s.OnlyLink (s.flitTake p f) p := s.setPort_onlyLink p _

theorem State.sendTs_onlyLink : s.OnlyLink (s.sendTs p) p := s.setPort_onlyLink p _

theorem State.noteBad_onlyLink : s.OnlyLink (s.noteBad p) p := s.setPort_onlyLink p _

theorem State.pump_onlyLink : s.OnlyLink (s.pump p) p := (s.setPort_onlyLink p _).trans (State.addF_onlyLink _ _ _ _ _)

/-! ## The registers and the port record after each of them -/

@[simp] theorem State.tally_port (ch k q : Nat) : (s.tally ch k).port q = s.port q := rfl
@[simp] theorem State.addF_port (base : Nat) (g : Fld) (k q : Nat) : (s.addF base g k).port q = s.port q := rfl
@[simp] theorem State.tally_getF (ch k base : Nat) (g : Fld) : (s.tally ch k).getF base g = s.getF base g := rfl

theorem State.flitFec_port (q : Nat) : (s.flitFec p f).port q = s.port q := by
  unfold State.flitFec
  split
  · rfl
  · dsimp only
    split <;> rw [State.tally_port, State.addF_port, State.addF_port]

/-- The counters of corrections lie in three registers of the port. -/
theorem State.flitFec_getF {g : Fld} (hg : g.off ∉ [0x40, 0x44, 0x48]) : (s.flitFec p f).getF (curBase p) g = s.getF (curBase p) g := by
  simp only [List.mem_cons, List.not_mem_nil, or_false, not_or] at hg
  obtain ⟨hcw, hcorr, huncorr⟩ := hg
  unfold State.flitFec
  split
  · rfl
  · dsimp only
    split
    · rw [State.tally_getF, State.getF_addF_of_off_ne _ _ _ (Ne.symm huncorr), State.getF_addF_of_off_ne _ _ _ (Ne.symm hcw)]
    · rw [State.tally_getF, State.getF_addF_of_off_ne _ _ _ (Ne.symm hcorr), State.getF_addF_of_off_ne _ _ _ (Ne.symm hcw)]

theorem State.pump_port : (s.port p).OnlySent ((s.pump p).port p) := by
  have hport : (s.pump p).port p = { (pumpPort (s.port p) (s.port p).txq []).1 with txq := (pumpPort (s.port p) (s.port p).txq []).2.1 } := by
    rw [State.pump, State.addF_port, State.setPort_port_self]
  rw [hport]
  exact (pumpPort_onlySent _ _ _).trans (.of_txq _ _)

/-- With nothing queued nothing is sent. -/
theorem State.pump_port_of_nil (h : (s.port p).txq = []) : (s.pump p).port p = s.port p := by
  rw [State.pump, State.addF_port, State.setPort_port_self, h, pumpPort, ← h]

theorem State.pump_getF {g : Fld} (hg : g.off ≠ 0x50) : (s.pump p).getF (curBase p) g = s.getF (curBase p) g := by
  rw [State.pump, State.getF_addF_of_off_ne _ _ _ (Ne.symm hg), State.setPort_getF]

theorem State.flitTake_getF (base : Nat) (g : Fld) : (s.flitTake p f).getF base g = s.getF base g := rfl
theorem State.sendTs_getF (base : Nat) (g : Fld) : (s.sendTs p).getF base g = s.getF base g := rfl

/-! ## A good control frame -/

/-- The state in which a good frame's content is taken: its corrections are counted, its acknowledgement and its count are taken. -/
def State.received : State := (s.flitFec p f).flitTake p f

theorem State.received_onlyLink : s.OnlyLink (s.received p f) p := (s.flitFec_onlyLink p f).trans (State.flitTake_onlyLink _ _ _)

theorem State.received_getF {g : Fld} (hg : g.off ∉ [0x40, 0x44, 0x48]) : (s.received p f).getF (curBase p) g = s.getF (curBase p) g := by
  rw [State.received, State.flitTake_getF, s.flitFec_getF p f hg]

/-- Only the replay buffer, the progress of acknowledgements and the count of one channel may change. -/
theorem State.received_port : { (s.received p f).port p with
    replay := (s.port p).replay, acked := (s.port p).acked, stalls := (s.port p).stalls, ccount := (s.port p).ccount } = s.port p := by
  rw [State.received, State.flitTake, State.setPort_port_self, State.flitFec_port]
  split <;> rfl

theorem State.frameIn_of_good {ty : Nat} (act : State → State) (h : goodFrame f ty) : s.frameIn p f ty act = (act (s.received p f)).pump p := by
  obtain ⟨hbad, hkind, htype⟩ := h
  simp [State.frameIn, hbad, hkind, htype, State.received]

theorem State.flitAt_of_portIs {st : Nat} (act : State → State) (h : s.portIs p st = true) : s.flitAt p st f act = act s := if_pos h

end

end Sys2Proof.Machine
end

section
/-! PROOFS. Courier training and negotiation (R351, R352; Table 12.7). -/

namespace Sys2Proof.Machine

section
variable {s : State} {p : Nat}

theorem State.portTo_of_ne {st : Nat} (h : st ≠ 1) : s.portTo p st = s.setF (curBase p) F.CUR_STAT_STATE st := if_neg h

theorem State.setF_only_regs (s : State) (base : Nat) (f : Fld) (v : Nat) : { s.setF base f v with regs := s.regs } = s := rfl

/-! ## Lanes -/

/-- The state in which the lanes' test is judged: what this side found good is shown and kept. -/
def State.noteLanes (s : State) (p shown rx : Nat) : State := (s.setF (curBase p) F.CUR_STAT_LANES_GOOD shown).setPort p { s.port p with goodRx := rx }

theorem alignDone_of_all {lanes : Nat} (h3 : s.portIs p 3 = true) (hmask : SMap.get 0 s.bist.lanes p = 0) (hown : lanes % 256 = 255)
    (hrx : bits lanes 8 8 = 255) (htx : bits lanes 16 8 = 255) : alignDone s p lanes = (s.noteLanes p 255 255).portNegotiate p 255 8 := by
  have hchoice : laneChoice 255 = some 8 := rfl
  have hgood : popcount 8 255 ≤ popcount 8 (255 &&& (255 ^^^ 0)) := by decide
  simp only [alignDone, if_pos h3, hmask, hown, hrx, htx, if_pos hgood, hchoice, and_self, true_or, if_true, State.noteLanes]

theorem laneChoice_eq_none {n : Nat} (hlt : n < 256) (hlow : n % 16 ≠ 15) (hhigh : n / 16 ≠ 15) : laneChoice n = none := by
  rw [laneChoice, if_neg (by omega), if_neg hlow, if_neg (by omega)]

theorem alignDone_of_few {lanes : Nat} (h3 : s.portIs p 3 = true) (hlow : bits lanes 16 8 % 16 ≠ 15) (hhigh : bits lanes 16 8 / 16 ≠ 15) :
    ∃ rx, alignDone s p lanes = (s.noteLanes p (lanes % 256) rx).portFail p := by
  have hnone : laneChoice (bits lanes 16 8) = none := laneChoice_eq_none (Nat.mod_lt _ (by decide)) hlow hhigh
  refine ⟨if popcount 8 (bits lanes 8 8) ≤ popcount 8 ((lanes % 256) &&& (255 ^^^ (SMap.get 0 s.bist.lanes p))) then bits lanes 8 8 else 0, ?_⟩
  rw [alignDone, if_pos h3, hnone]
  dsimp only
  split
  next h => exact absurd h (by simp)
  · rfl

theorem State.noteLanes_onlyPorts (s : State) (p shown rx : Nat) : s.OnlyPorts (s.noteLanes p shown rx) :=
  (s.setF_onlyPorts _ _ _).trans (State.setPort_onlyPorts _ _ _)

/-! ## Training sequences -/

theorem Port.OnlySent.with_sent2 {x y : Port} (h : x.OnlySent y) : x.OnlySent { y with sent2 := x.sent2 } :=
  ⟨(congrArg (fun z : Port => { z with sent2 := x.sent2 }) h.frame : _)⟩

theorem Port.OnlySent.with_sent2_ite {x y z : Port} {n : Nat} {c : Prop} [Decidable c] (h : x.OnlySent y) (g : x.OnlySent z) :
    x.OnlySent { (if c then { z with sent2 := n } else y) with sent2 := x.sent2 } := by
  split
  · exact g.with_sent2
  · exact h.with_sent2

theorem Port.OnlySent.put_sent2 {x y : Port} {n : Nat} (h : x.OnlySent y) : Port.OnlySent { x with sent2 := n } { y with sent2 := n } :=
  ⟨(congrArg (fun z : Port => { z with sent2 := n }) h.frame : _)⟩

/-- Sending one changes what was sent and the count of TS2 frames. -/
theorem State.sendTs_port (s : State) (p : Nat) : (s.port p).OnlySent { (s.sendTs p).port p with sent2 := (s.port p).sent2 } := by
  have hctl : ∀ c, (s.port p).OnlySent ((s.port p).sendControl c (tsBytes (s.ownTs p))) := fun c => (s.port p).sendFlit_onlySent _ _ _ _
  rw [State.sendTs, State.setPort_port_self]
  exact (hctl 1).with_sent2_ite (hctl 2)

/-- A training sequence goes out, and what is queued with it: the port keeps its record, and the registers but one. -/
theorem State.exists_sendTs_pump {u : State} {x : Port} (hlink : s.OnlyLink u p) (hx : u.port p = x) : ∃ t, (u.sendTs p).pump p = t
    ∧ x.OnlySent { t.port p with sent2 := x.sent2 } ∧ s.OnlyLink t p ∧ ∀ g : Fld, g.off ≠ 0x50 → t.getF (curBase p) g = u.getF (curBase p) g := by
  refine ⟨_, rfl, ?_, hlink.trans ((u.sendTs_onlyLink p).trans (State.pump_onlyLink _ _)), fun g hg => ?_⟩
  · rw [← hx]
    exact (u.sendTs_port p).trans ((u.sendTs p).pump_port p).put_sent2
  · rw [State.pump_getF _ _ hg, State.sendTs_getF]

/-! ## What a training sequence makes of the received port -/

section
variable {f : Flit} (s p f)

theorem State.received_ts1 : ((s.received p f).port p).ts1 = (s.port p).ts1 := (congrArg Port.ts1 (s.received_port p f) : _)
theorem State.received_ts1n : ((s.received p f).port p).ts1n = (s.port p).ts1n := (congrArg Port.ts1n (s.received_port p f) : _)
theorem State.received_ts2n : ((s.received p f).port p).ts2n = (s.port p).ts2n := (congrArg Port.ts2n (s.received_port p f) : _)
theorem State.received_sent2 : ((s.received p f).port p).sent2 = (s.port p).sent2 := (congrArg Port.sent2 (s.received_port p f) : _)
theorem State.received_agreed : ((s.received p f).port p).agreed = (s.port p).agreed := (congrArg Port.agreed (s.received_port p f) : _)
theorem State.received_attempt : ((s.received p f).port p).attempt = (s.port p).attempt := (congrArg Port.attempt (s.received_port p f) : _)
theorem State.received_txLanes : ((s.received p f).port p).txLanes = (s.port p).txLanes := (congrArg Port.txLanes (s.received_port p f) : _)
theorem State.received_bufs : ((s.received p f).port p).bufs = (s.port p).bufs := (congrArg Port.bufs (s.received_port p f) : _)

theorem State.received_portSt : (s.received p f).portSt p = s.portSt p := s.received_getF p f (by decide)

end

theorem exec_ts1_of_good {f : Flit} (h4 : s.portIs p 4 = true) (hgood : goodFrame f 1) :
    exec (.ts1 p f) s = .next (((s.received p f).takeTs1 p (tsOf f)).pump p) := by
  refine exec_eq_next (u := ts1In s p f) ?_
  rw [ts1In, State.flitAt_of_portIs _ _ _ _ h4, State.frameIn_of_good _ _ _ _ hgood]

theorem exec_ts2_of_good {f : Flit} (h4 : s.portIs p 4 = true) (hgood : goodFrame f 2) :
    exec (.ts2 p f) s = .next (((s.received p f).takeTs2 p (tsOf f)).pump p) := by
  refine exec_eq_next (u := ts2In s p f) ?_
  rw [ts2In, State.flitAt_of_portIs _ _ _ _ h4, State.frameIn_of_good _ _ _ _ hgood]

/-- The port with one more TS1 frame like those before, or with the first of a new kind. -/
def Port.countTs1 (x : Port) (f : Ts) : Port :=
  { x with ts1 := some f, ts1n := if x.ts1 = some f then x.ts1n + 1 else 1, ts2n := 0, ts2 := none }

/-- The eighth identical TS1 frame agrees where nothing is agreed yet; every one is answered (R352). -/
theorem State.takeTs1_eq (s : State) (p : Nat) (f : Ts) : s.takeTs1 p f = (if ((s.port p).countTs1 f).ts1n = 8 ∧ (s.port p).agreed = none
    then (s.setPort p ((s.port p).countTs1 f)).agree p f else s.setPort p ((s.port p).countTs1 f)).sendTs p := rfl

theorem State.takeTs1_of_counted (s : State) (p : Nat) (f : Ts) (h : (s.port p).ts1 = some f → (s.port p).ts1n ≠ 7) :
    s.takeTs1 p f = (s.setPort p ((s.port p).countTs1 f)).sendTs p := by
  have hn : ((s.port p).countTs1 f).ts1n ≠ 8 := by
    simp only [Port.countTs1]
    split
    next h1 =>
      have := h h1
      omega
    · decide
  rw [State.takeTs1_eq, if_neg fun hand => hn hand.1]

/-- What agreeing shows of the peer, and of the version and features agreed (R351). -/
def State.noteAgreed (s : State) (p : Nat) (f : Ts) (v feat : Nat) : State :=
  ((((((s.setF (curBase p) F.CUR_PEER_COORD f.coord).setF (curBase p) F.CUR_PEER_PORT f.port).setF (curBase p) F.CUR_PEER_TAG f.tag).setF
    (curBase p) F.CUR_PEER_VERS (f.vers % 8)).setF (curBase p) F.CUR_FEAT_LO_FEAT feat).setF (curBase p) F.CUR_FEAT_HI_FEAT 0).setF
    (curBase p) F.CUR_STAT_VER v

theorem State.agree_of_version {f : Ts} {v : Nat} (hv : topVersion (f.vers % 8 &&& s.getF (curBase p) F.CUR_CTL_VERS_EN) = some v)
    (hwide : (s.port p).txLanes = 8) (hlanes : f.lanes % 16 ≠ 4) : ∃ feat u, feat = s.getF (curBase p) F.CUR_FEAT_EN_LO_FEAT &&& f.featLo &&& versionFeatures v
      ∧ u = s.noteAgreed p f v feat ∧ s.agree p f = u.setPort p { u.port p with agreed := some (v, feat) } := by
  refine ⟨_, _, rfl, rfl, ?_⟩
  simp only [State.agree, hv]
  rw [if_neg (by simp [hwide, hlanes])]
  rfl

theorem State.noteAgreed_onlyLink (s : State) (p : Nat) (f : Ts) (v feat : Nat) : s.OnlyLink (s.noteAgreed p f v feat) p :=
  ((((((s.setF_onlyLink _ _ _ _).trans (State.setF_onlyLink _ _ _ _ _)).trans (State.setF_onlyLink _ _ _ _ _)).trans
    (State.setF_onlyLink _ _ _ _ _)).trans (State.setF_onlyLink _ _ _ _ _)).trans (State.setF_onlyLink _ _ _ _ _)).trans (State.setF_onlyLink _ _ _ _ _)

theorem State.noteAgreed_portSt (s : State) (p : Nat) (f : Ts) (v feat : Nat) : (s.noteAgreed p f v feat).portSt p = s.portSt p := by
  rw [State.noteAgreed]
  iterate 7 rw [State.portSt_setF_of_apart _ _ _ (by decide)]

theorem State.noteAgreed_ver (s : State) (p : Nat) (f : Ts) (v feat : Nat) (hv : v < 4) : (s.noteAgreed p f v feat).getF (curBase p) F.CUR_STAT_VER = v := by
  rw [State.noteAgreed, State.getF_setF_self _ _ _ _ (by decide)]
  exact Nat.mod_eq_of_lt hv

theorem State.noteAgreed_coord (s : State) (p : Nat) (f : Ts) (v feat : Nat) (hc : f.coord < 4096) :
    (s.noteAgreed p f v feat).getF (curBase p) F.CUR_PEER_COORD = f.coord := by
  rw [State.noteAgreed]
  iterate 6 rw [State.getF_setF_of_apart _ _ _ (by decide) (by decide)]
  rw [State.getF_setF_self _ _ _ _ (by decide)]
  exact Nat.mod_eq_of_lt hc

theorem topVersion_lt {m v : Nat} (h : topVersion m = some v) : v < 4 := by
  unfold topVersion at h
  split_ifs at h <;> simp_all <;> omega

/-! ## The clauses -/

theorem ts1_counted {f : Flit} (h4 : s.portIs p 4 = true) (hgood : goodFrame f 1) (hn : (s.port p).ts1 = some (tsOf f) → (s.port p).ts1n ≠ 7) :
    ∃ t, exec (.ts1 p f) s = .next t ∧ (t.port p).ts1 = some (tsOf f)
      ∧ (t.port p).ts1n = (if (s.port p).ts1 = some (tsOf f) then (s.port p).ts1n + 1 else 1)
      ∧ (t.port p).agreed = (s.port p).agreed ∧ t.portSt p = 4 ∧ s.portsKept t p
      ∧ { t with regs := s.regs, cour := s.cour, hzn := s.hzn } = s := by
  have hcount : ((s.received p f).port p).ts1 = some (tsOf f) → ((s.received p f).port p).ts1n ≠ 7 := by
    rwa [s.received_ts1, s.received_ts1n]
  obtain ⟨u, hu⟩ : ∃ u, (s.received p f).setPort p (((s.received p f).port p).countTs1 (tsOf f)) = u := ⟨_, rfl⟩
  have hlink : s.OnlyLink u p := hu ▸ (s.received_onlyLink p f).trans (State.setPort_onlyLink _ _ _)
  have hx : u.port p = ((s.received p f).port p).countTs1 (tsOf f) := hu ▸ State.setPort_port_self _ _ _
  have hst : u.portSt p = 4 := hu ▸ (State.setPort_portSt _ _ _ _).trans ((s.received_portSt p f).trans ((s.portIs_iff _ _).1 h4).2)
  obtain ⟨t, ht, hport, hlink, hget⟩ := State.exists_sendTs_pump hlink hx
  refine ⟨t, ?_, hport.ts1, ?_, hport.agreed.trans (s.received_agreed p f), (hget _ (by decide)).trans hst, hlink.ports, hlink.frame⟩
  · rw [exec_ts1_of_good h4 hgood, State.takeTs1_of_counted _ _ _ hcount, hu, ht]
  · exact hport.ts1n.trans (by rw [Port.countTs1, s.received_ts1, s.received_ts1n])

theorem ts1_agrees {v : Nat} {f : Flit} (h4 : s.portIs p 4 = true) (hgood : goodFrame f 1) (hts : (s.port p).ts1 = some (tsOf f))
    (hn : (s.port p).ts1n = 7) (hnone : (s.port p).agreed = none)
    (hv : topVersion ((tsOf f).vers % 8 &&& s.getF (curBase p) F.CUR_CTL_VERS_EN) = some v) (hwide : (s.port p).txLanes = 8)
    (hlanes : (tsOf f).lanes % 16 ≠ 4) :
    ∃ t, exec (.ts1 p f) s = .next t
      ∧ (t.port p).agreed = some (v, s.getF (curBase p) F.CUR_FEAT_EN_LO_FEAT &&& (tsOf f).featLo &&& versionFeatures v)
      ∧ t.getF (curBase p) F.CUR_STAT_VER = v ∧ t.getF (curBase p) F.CUR_PEER_COORD = (tsOf f).coord ∧ t.portSt p = 4 ∧ s.portsKept t p
      ∧ { t with regs := s.regs, cour := s.cour, hzn := s.hzn } = s := by
  obtain ⟨r, hr⟩ : ∃ r, (s.received p f).setPort p (((s.received p f).port p).countTs1 (tsOf f)) = r := ⟨_, rfl⟩
  have hrlink : s.OnlyLink r p := hr ▸ (s.received_onlyLink p f).trans (State.setPort_onlyLink _ _ _)
  have hrport : r.port p = ((s.received p f).port p).countTs1 (tsOf f) := hr ▸ State.setPort_port_self _ _ _
  have hrget : ∀ g : Fld, g.off ∉ [0x40, 0x44, 0x48] → r.getF (curBase p) g = s.getF (curBase p) g := fun g hg =>
    hr ▸ (State.setPort_getF _ _ _ _ _).trans (s.received_getF p f hg)
  have h8 : (((s.received p f).port p).countTs1 (tsOf f)).ts1n = 8 ∧ ((s.received p f).port p).agreed = none := by
    refine ⟨?_, (s.received_agreed p f).trans hnone⟩
    simp only [Port.countTs1, s.received_ts1, s.received_ts1n, hts, hn, if_true]
  have hrv : topVersion ((tsOf f).vers % 8 &&& r.getF (curBase p) F.CUR_CTL_VERS_EN) = some v := by rwa [hrget _ (by decide)]
  have hrwide : (r.port p).txLanes = 8 := by
    rw [hrport]
    exact (s.received_txLanes p f).trans hwide
  obtain ⟨feat, u, hfeat, hu, hagree⟩ := State.agree_of_version hrv hrwide hlanes
  rw [hrget _ (by decide)] at hfeat
  have hulink : s.OnlyLink (u.setPort p { u.port p with agreed := some (v, feat) }) p :=
    (hrlink.trans (hu ▸ State.noteAgreed_onlyLink _ _ _ _ _)).trans (State.setPort_onlyLink _ _ _)
  obtain ⟨t, ht, hport, hlink, hget⟩ := State.exists_sendTs_pump hulink (State.setPort_port_self _ _ _)
  have hget' : ∀ g : Fld, g.off ≠ 0x50 → t.getF (curBase p) g = (r.noteAgreed p (tsOf f) v feat).getF (curBase p) g := fun g hg => by
    rw [hget g hg, State.setPort_getF, hu]
  refine ⟨t, ?_, hfeat ▸ hport.agreed, ?_, ?_, ?_, hlink.ports, hlink.frame⟩
  · rw [exec_ts1_of_good h4 hgood, State.takeTs1_eq, if_pos h8, hr, hagree, ht]
  · rw [hget' _ (by decide), State.noteAgreed_ver _ _ _ _ _ (topVersion_lt hv)]
  · rw [hget' _ (by decide), State.noteAgreed_coord _ _ _ _ _ (Nat.mod_lt _ (by decide))]
  · refine (hget' _ (by decide)).trans ((State.noteAgreed_portSt _ _ _ _ _).trans ((hrget _ (by decide)).trans ((s.portIs_iff _ _).1 h4).2))

/-- What TS2 frames repeat: the agreed version and features. -/
theorem State.ownTs_vers_received (s : State) (p : Nat) (f : Flit) {v feat : Nat} (h : (s.port p).agreed = some (v, feat)) :
    ((s.received p f).ownTs p).vers = (s.ownTs p).vers := by
  simp only [State.ownTs, s.received_agreed, h]

theorem State.takeTs2_of_repeat {f : Ts} {v feat : Nat} (h : (s.port p).agreed = some (v, feat)) (hvers : f.vers = (s.ownTs p).vers)
    (hlo : f.featLo = feat) (hhi : f.featHi = 0) (hfew : ¬(8 ≤ (s.port p).ts2n + 1 ∧ 8 ≤ (s.port p).sent2)) : s.takeTs2 p f
      = (s.setPort p { s.port p with ts2 := some f, ts2n := (s.port p).ts2n + 1, ts1n := 0, ts1 := none }).sendTs p := by
  simp only [State.takeTs2, h]
  rw [if_pos ⟨hvers, hlo, hhi⟩, if_neg hfew]

theorem State.takeTs2_of_last {f : Ts} {v feat : Nat} (h : (s.port p).agreed = some (v, feat)) (hvers : f.vers = (s.ownTs p).vers)
    (hlo : f.featLo = feat) (hhi : f.featHi = 0) (hn : 8 ≤ (s.port p).ts2n + 1 ∧ 8 ≤ (s.port p).sent2) : s.takeTs2 p f = s.portUp p f := by
  simp only [State.takeTs2, h]
  rw [if_pos ⟨hvers, hlo, hhi⟩, if_pos hn]

theorem State.takeTs2_of_other {f : Ts} {v feat : Nat} (h : (s.port p).agreed = some (v, feat))
    (hne : f.vers ≠ (s.ownTs p).vers ∨ f.featLo ≠ feat ∨ f.featHi ≠ 0) : s.takeTs2 p f = s.attemptFail p := by
  simp only [State.takeTs2, h]
  rw [if_neg fun hand => ?_]
  obtain ⟨hvers, hlo, hhi⟩ := hand
  simp_all

/-- The port after a failed attempt that is not the last. -/
def Port.nextAttempt (x : Port) : Port :=
  { x with attempt := x.attempt + 1, ts1n := 0, ts1 := none, ts2n := 0, ts2 := none, agreed := none, sent2 := 0 }

theorem State.attemptFail_of_few (h : (s.port p).attempt < 2) : s.attemptFail p = s.setPort p (s.port p).nextAttempt := if_neg (Nat.not_le.2 h)

theorem State.attemptFail_of_last (h : 2 ≤ (s.port p).attempt) : s.attemptFail p = s.portFail p := if_pos h

/-- The record of a port as its link comes up, at full width. -/
def Port.up (x : Port) (f : Ts) : Port :=
  { x.fresh with
      agreed := x.agreed, goodRx := x.goodRx, txLanes := x.txLanes, axis := x.axis, dateline := x.dateline, bufs := x.bufs,
      peerBufs := f.bufs, txBits := x.txBits, txLen := x.txLen, txCw := x.txCw, wire := x.wire }

theorem State.portUp_of_wide {f : Ts} (hwide : (s.port p).txLanes = 8) (hlanes : f.lanes % 16 ≠ 4) : s.portUp p f
    = ((s.setF (curBase p) F.CUR_STAT_STATE 5).setF (curBase p) F.CUR_STAT_DEGRADED 0).setPort p ((s.port p).up f) := by
  have hnarrow : decide ((s.port p).txLanes ≠ 8 ∨ f.lanes % 16 = 4) = false := decide_eq_false (by simp [hwide, hlanes])
  simp only [State.portUp, hnarrow]
  rfl

theorem ts2_counted {v feat : Nat} {f : Flit} (h4 : s.portIs p 4 = true) (hgood : goodFrame f 2) (hag : (s.port p).agreed = some (v, feat))
    (hvers : (tsOf f).vers = (s.ownTs p).vers) (hlo : (tsOf f).featLo = feat) (hhi : (tsOf f).featHi = 0)
    (hfew : (s.port p).ts2n < 7 ∨ (s.port p).sent2 < 8) :
    ∃ t, exec (.ts2 p f) s = .next t ∧ (t.port p).ts2n = (s.port p).ts2n + 1 ∧ (t.port p).ts1n = 0 ∧ (t.port p).agreed = some (v, feat)
      ∧ t.portSt p = 4 ∧ s.portsKept t p ∧ { t with regs := s.regs, cour := s.cour, hzn := s.hzn } = s := by
  obtain ⟨r, hr⟩ : ∃ r, s.received p f = r := ⟨_, rfl⟩
  have hrlink : s.OnlyLink r p := hr ▸ s.received_onlyLink p f
  have hrag : (r.port p).agreed = some (v, feat) := hr ▸ (s.received_agreed p f).trans hag
  have hrn : (r.port p).ts2n = (s.port p).ts2n := hr ▸ s.received_ts2n p f
  have hrsent : (r.port p).sent2 = (s.port p).sent2 := hr ▸ s.received_sent2 p f
  have hrvers : (tsOf f).vers = (r.ownTs p).vers := by rw [← hr, s.ownTs_vers_received p f hag, hvers]
  have hrst : r.portSt p = 4 := hr ▸ (s.received_portSt p f).trans ((s.portIs_iff _ _).1 h4).2
  obtain ⟨t, ht, hport, hlink, hget⟩ := State.exists_sendTs_pump
    (hrlink.trans (r.setPort_onlyLink p { r.port p with ts2 := some (tsOf f), ts2n := (r.port p).ts2n + 1, ts1n := 0, ts1 := none }))
    (State.setPort_port_self _ _ _)
  refine ⟨t, ?_, hport.ts2n.trans (congrArg (· + 1) hrn), hport.ts1n, hport.agreed.trans hrag, ?_, hlink.ports, hlink.frame⟩
  · rw [exec_ts2_of_good h4 hgood, hr, State.takeTs2_of_repeat hrag hrvers hlo hhi (by omega), ht]
  · exact (hget _ (by decide)).trans ((State.setPort_portSt _ _ _ _).trans hrst)

theorem ts2_last {v feat : Nat} {f : Flit} (h4 : s.portIs p 4 = true) (hgood : goodFrame f 2) (hag : (s.port p).agreed = some (v, feat))
    (hn : 7 ≤ (s.port p).ts2n) (hsent : 8 ≤ (s.port p).sent2) (hvers : (tsOf f).vers = (s.ownTs p).vers) (hlo : (tsOf f).featLo = feat)
    (hhi : (tsOf f).featHi = 0) (hwide : (s.port p).txLanes = 8) (hlanes : (tsOf f).lanes % 16 ≠ 4) :
    ∃ t, exec (.ts2 p f) s = .next t ∧ t.portSt p = 5 ∧ t.getF (curBase p) F.CUR_STAT_DEGRADED = 0
      ∧ (t.port p).agreed = some (v, feat) ∧ (t.port p).peerBufs = (tsOf f).bufs ∧ (t.port p).txSeq = 0 ∧ (t.port p).rxNext = 0
      ∧ s.portsKept t p ∧ { t with regs := s.regs, cour := s.cour, hzn := s.hzn } = s := by
  obtain ⟨r, hr⟩ : ∃ r, s.received p f = r := ⟨_, rfl⟩
  have hrlink : s.OnlyLink r p := hr ▸ s.received_onlyLink p f
  have hrag : (r.port p).agreed = some (v, feat) := hr ▸ (s.received_agreed p f).trans hag
  have hrn : (r.port p).ts2n = (s.port p).ts2n := hr ▸ s.received_ts2n p f
  have hrsent : (r.port p).sent2 = (s.port p).sent2 := hr ▸ s.received_sent2 p f
  have hrvers : (tsOf f).vers = (r.ownTs p).vers := by rw [← hr, s.ownTs_vers_received p f hag, hvers]
  have hrwide : (r.port p).txLanes = 8 := hr ▸ (s.received_txLanes p f).trans hwide
  obtain ⟨w, hw⟩ : ∃ w, (r.setF (curBase p) F.CUR_STAT_STATE 5).setF (curBase p) F.CUR_STAT_DEGRADED 0 = w := ⟨_, rfl⟩
  have hwlink : s.OnlyLink w p := hw ▸ (hrlink.trans (State.setF_onlyLink _ _ _ _ _)).trans (State.setF_onlyLink _ _ _ _ _)
  have hwst : w.portSt p = 5 := by
    rw [← hw, State.portSt_setF_of_apart _ _ _ (by decide), State.portSt_setF_self _ _ _ (by decide)]
  have hwdeg : w.getF (curBase p) F.CUR_STAT_DEGRADED = 0 := by
    rw [← hw, State.getF_setF_self _ _ _ _ (by decide)]
    rfl
  obtain ⟨u, hu⟩ : ∃ u, w.setPort p ((r.port p).up (tsOf f)) = u := ⟨_, rfl⟩
  have huport : u.port p = (r.port p).up (tsOf f) := hu ▸ State.setPort_port_self _ _ _
  have huget : ∀ g : Fld, u.getF (curBase p) g = w.getF (curBase p) g := fun g => hu ▸ State.setPort_getF _ _ _ _ _
  have hulink : s.OnlyLink u p := hu ▸ hwlink.trans (State.setPort_onlyLink _ _ _)
  have hport : (u.pump p).port p = (r.port p).up (tsOf f) := (u.pump_port_of_nil p (by rw [huport]; rfl)).trans huport
  have hlink := hulink.trans (u.pump_onlyLink p)
  refine ⟨u.pump p, ?_, ?_, ?_, ?_, ?_, ?_, ?_, hlink.ports, hlink.frame⟩
  · rw [exec_ts2_of_good h4 hgood, hr, State.takeTs2_of_last hrag hrvers hlo hhi (by omega), State.portUp_of_wide hrwide hlanes, hw, hu]
  · exact (u.pump_getF p (by decide)).trans ((huget _).trans hwst)
  · exact (u.pump_getF p (by decide)).trans ((huget _).trans hwdeg)
  · rw [hport]
    exact hrag
  · rw [hport, Port.up]
  · rw [hport]
    rfl
  · rw [hport]
    rfl

theorem ts2_differs {v feat : Nat} {f : Flit} (h4 : s.portIs p 4 = true) (hgood : goodFrame f 2) (hag : (s.port p).agreed = some (v, feat))
    (hne : (tsOf f).vers ≠ (s.ownTs p).vers ∨ (tsOf f).featLo ≠ feat ∨ (tsOf f).featHi ≠ 0) (hfew : (s.port p).attempt < 2) :
    ∃ t, exec (.ts2 p f) s = .next t ∧ (t.port p).attempt = (s.port p).attempt + 1 ∧ (t.port p).agreed = none ∧ t.portSt p = 4 := by
  obtain ⟨r, hr⟩ : ∃ r, s.received p f = r := ⟨_, rfl⟩
  have hrag : (r.port p).agreed = some (v, feat) := hr ▸ (s.received_agreed p f).trans hag
  have hrat : (r.port p).attempt = (s.port p).attempt := hr ▸ s.received_attempt p f
  have hrvers : (r.ownTs p).vers = (s.ownTs p).vers := by rw [← hr, s.ownTs_vers_received p f hag]
  have hrst : r.portSt p = 4 := hr ▸ (s.received_portSt p f).trans ((s.portIs_iff _ _).1 h4).2
  obtain ⟨u, hu⟩ : ∃ u, r.setPort p (r.port p).nextAttempt = u := ⟨_, rfl⟩
  have hport := u.pump_port p
  rw [show u.port p = (r.port p).nextAttempt from hu ▸ State.setPort_port_self _ _ _] at hport
  refine ⟨u.pump p, ?_, hport.attempt.trans (congrArg (· + 1) hrat), hport.agreed, ?_⟩
  · rw [exec_ts2_of_good h4 hgood, hr, State.takeTs2_of_other hrag (by rwa [hrvers]), State.attemptFail_of_few (by omega), hu]
  · exact (u.pump_getF p (by decide)).trans (hu ▸ (State.setPort_portSt _ _ _ _).trans hrst)

theorem exec_negotiateTimeout (h4 : s.portIs p 4 = true) : exec (.negotiateTimeout p) s = .next (s.attemptFail p) := exec_eq_next (if_pos h4)

/-- The record of a port as it enters NEGOTIATE (log entry 23). -/
def State.negotiating (s : State) (p rx tx : Nat) : Port :=
  { (s.port p).fresh with
      goodRx := rx, txLanes := tx, axis := s.getF (curBase p) F.CUR_CTL_AXIS, dateline := s.isF (curBase p) F.CUR_CTL_DATELINE,
      bufs := (List.range 8).map (fun (v : Nat) => s.getF (curBase p) (F.CUR_VC_BUF_FLITS.idx (4 * v))) }

theorem State.portNegotiate_eq (s : State) (p rx tx : Nat) :
    s.portNegotiate p rx tx = ((s.setF (curBase p) F.CUR_STAT_STATE 4).setPort p (s.negotiating p rx tx)).sendTs p := rfl

theorem State.sendTs_onlyPorts (s : State) (p : Nat) : s.OnlyPorts (s.sendTs p) := s.setPort_onlyPorts p _

/-- Lanes good at both ends lead to NEGOTIATE with the record of a fresh port, its first TS1 frame sent (log entry 23). -/
theorem alignComplete_all {lanes : Nat} (h3 : s.portIs p 3 = true) (hmask : SMap.get 0 s.bist.lanes p = 0) (hown : lanes % 256 = 255)
    (hrx : bits lanes 8 8 = 255) (htx : bits lanes 16 8 = 255) :
    ∃ t, exec (.alignComplete p lanes) s = .next t ∧ t.portSt p = 4 ∧ t.getF (curBase p) F.CUR_STAT_LANES_GOOD = 255
      ∧ (t.port p).txLanes = 8 ∧ (t.port p).axis = s.getF (curBase p) F.CUR_CTL_AXIS ∧ s.portsKept t p
      ∧ { t with regs := s.regs, cour := s.cour } = s := by
  obtain ⟨r, hr⟩ : ∃ r, s.noteLanes p 255 255 = r := ⟨_, rfl⟩
  have hrports : s.OnlyPorts r := hr ▸ s.noteLanes_onlyPorts p _ _
  have hrlink : s.OnlyLink r p := hr ▸ (s.setF_onlyLink _ _ _ _).trans (State.setPort_onlyLink _ _ _)
  have hrget : ∀ g : Fld, r.getF (curBase p) g = (s.setF (curBase p) F.CUR_STAT_LANES_GOOD 255).getF (curBase p) g := fun g =>
    hr ▸ State.setPort_getF _ _ _ _ _
  have hraxis : r.getF (curBase p) F.CUR_CTL_AXIS = s.getF (curBase p) F.CUR_CTL_AXIS := by
    rw [hrget, State.getF_setF_of_off_ne _ _ _ (by decide)]
  have hrlanes : r.getF (curBase p) F.CUR_STAT_LANES_GOOD = 255 := by
    rw [hrget, State.getF_setF_self _ _ _ _ (by decide)]
    rfl
  obtain ⟨w, hw⟩ : ∃ w, r.setF (curBase p) F.CUR_STAT_STATE 4 = w := ⟨_, rfl⟩
  have hwst : w.portSt p = 4 := hw ▸ State.portSt_setF_self _ _ _ (by decide)
  have hwlanes : w.getF (curBase p) F.CUR_STAT_LANES_GOOD = 255 := by
    rw [← hw, State.getF_setF_of_apart _ _ _ (by decide) (by decide), hrlanes]
  obtain ⟨x, hx, hxlanes, hxaxis⟩ : ∃ x, r.portNegotiate p 255 8 = (w.setPort p x).sendTs p ∧ x.txLanes = 8
      ∧ x.axis = r.getF (curBase p) F.CUR_CTL_AXIS := ⟨r.negotiating p 255 8, by rw [State.portNegotiate_eq, hw], rfl, rfl⟩
  have hport := (w.setPort p x).sendTs_port p
  rw [State.setPort_port_self] at hport
  have hwports : s.OnlyPorts w := hw ▸ hrports.trans (State.setF_onlyPorts _ _ _ _)
  have hframe := (hwports.trans (State.setPort_onlyPorts _ p x)).trans (State.sendTs_onlyPorts _ p)
  have hwlink : s.OnlyLink w p := hw ▸ hrlink.trans (State.setF_onlyLink _ _ _ _ _)
  have hlink := (hwlink.trans (State.setPort_onlyLink _ _ x)).trans (State.sendTs_onlyLink _ _)
  refine ⟨(w.setPort p x).sendTs p, ?_, ?_, ?_, hport.txLanes.trans hxlanes, ?_, hlink.ports, hframe.frame⟩
  · exact exec_eq_next ((alignDone_of_all h3 hmask hown hrx htx).trans (hr ▸ hx))
  · exact (State.sendTs_getF _ _ _ _).trans ((State.setPort_portSt _ _ _ _).trans hwst)
  · rw [State.sendTs_getF, State.setPort_getF, hwlanes]
  · exact hport.axis.trans (hxaxis.trans hraxis)

/-- Settles O20: each step of training leads the port on, and each way to fail ends its attempt. -/
theorem courierTrainsAndNegotiates : Obligations.CourierTrainsAndNegotiates := by
  unfold Obligations.CourierTrainsAndNegotiates
  refine ⟨fun s p lane hlane h1 => ?_, fun s p h2 => ?_, fun s p lanes => alignComplete_all, fun s p lanes h3 hlow hhigh => ?_,
    fun s p f => ts1_counted, fun s p v f => ts1_agrees, fun s p v feat f => ts2_counted, fun s p v feat f => ts2_last,
    fun s p v feat f => ts2_differs, fun s p h4 hfew => ?_, fun s p h4 hlast => ?_⟩
  · have heff := (if_pos ⟨hlane, h1⟩ : (if lane < 8 ∧ s.portIs p 1 = true then s.portTo p 2 else s) = _).trans (State.portTo_of_ne (by decide))
    exact ⟨_, exec_eq_next heff, State.portSt_setF_self _ _ _ (by decide), State.setF_only_regs _ _ _ _⟩
  · have heff := (if_pos h2 : (if s.portIs p 2 then s.portTo p 3 else s) = _).trans (State.portTo_of_ne (by decide))
    exact ⟨_, exec_eq_next heff, State.portSt_setF_self _ _ _ (by decide), State.setF_only_regs _ _ _ _⟩
  · obtain ⟨rx, heff⟩ := alignDone_of_few h3 hlow hhigh
    refine ⟨_, exec_eq_next heff, State.portFail_portSt _ _, State.portFail_trainFail _ _, ?_⟩
    rw [State.portFail_mem, (s.noteLanes_onlyPorts p _ _).mem]
  · refine ⟨_, (exec_negotiateTimeout h4).trans (congrArg _ (State.attemptFail_of_few hfew)), (State.setPort_portSt _ _ _ _).trans ((s.portIs_iff _ _).1 h4).2,
      ?_, ?_, s.setPort_portsKept p _, rfl⟩
    · rw [State.setPort_port_self, Port.nextAttempt]
    · rw [State.setPort_port_self, Port.nextAttempt]
  · exact ⟨_, (exec_negotiateTimeout h4).trans (congrArg _ (State.attemptFail_of_last hlast)), State.portFail_portSt _ _, State.portFail_trainFail _ _⟩

end

end Sys2Proof.Machine
end

section
/-! SUPPORT. Flits refused, accepted and sent again (R342, R343). -/

namespace Sys2Proof.Machine

theorem State.setPort_only_cour (s : State) (p : Nat) (x : Port) : { s.setPort p x with cour := s.cour } = s := rfl

theorem State.portIs_of_active {s : State} {p : Nat} (h : s.portActive p = true) : s.portIs p 5 = true := h

theorem exec_idleFlit {s : State} {p : Nat} (f : Flit) (h : s.portActive p = true) : exec (.idleFlit p f) s = .next (idleIn s p f) :=
  exec_eq_next (s.flitAt_of_portIs p f _ h)

theorem exec_messageFlit {s : State} {p : Nat} (f : Flit) (h : s.portActive p = true) : exec (.messageFlit p f) s = .next (flitIn s p f) :=
  exec_eq_next (s.flitAt_of_portIs p f _ h)

theorem exec_retry_of_good {s : State} {p : Nat} {f : Flit} (h : s.portActive p = true) (hgood : goodFrame f 3) :
    exec (.retry p f) s = .next ((retryIn (s.received p f) p (leAt f.bytes 9 2 % 4096)).pump p) := by
  refine exec_eq_next (u := s.flitAt p 5 f (fun u => u.frameIn p f 3 (fun t => retryIn t p (leAt f.bytes 9 2 % 4096)))) ?_
  rw [State.flitAt_of_portIs _ _ _ _ h, State.frameIn_of_good _ _ _ _ hgood]

section
variable (s : State) (p : Nat) (f : Flit)

theorem State.received_rxNext : ((s.received p f).port p).rxNext = (s.port p).rxNext := (congrArg Port.rxNext (s.received_port p f) : _)
theorem State.received_refused : ((s.received p f).port p).refused = (s.port p).refused := (congrArg Port.refused (s.received_port p f) : _)
theorem State.received_retries : ((s.received p f).port p).retries = (s.port p).retries := (congrArg Port.retries (s.received_port p f) : _)
theorem State.received_bad : ((s.received p f).port p).bad = (s.port p).bad := (congrArg Port.bad (s.received_port p f) : _)
theorem State.received_part : ((s.received p f).port p).part = (s.port p).part := (congrArg Port.part (s.received_port p f) : _)
theorem State.received_txq : ((s.received p f).port p).txq = (s.port p).txq := (congrArg Port.txq (s.received_port p f) : _)
theorem State.received_cvc : ((s.received p f).port p).cvc = (s.port p).cvc := (congrArg Port.cvc (s.received_port p f) : _)
theorem State.received_freed : ((s.received p f).port p).freed = (s.port p).freed := (congrArg Port.freed (s.received_port p f) : _)

theorem State.received_port_eq : (s.received p f).port p = { (match ackReplay (s.port p).replay (flitAck f) with
    | some l => { s.port p with replay := l, acked := flitAck f, stalls := 0 }
    | none => s.port p) with ccount := setAt (s.port p).ccount (flitCvc f) (flitCcount f) } := by
  rw [State.received, State.flitTake, State.setPort_port_self, State.flitFec_port]
  cases ackReplay (s.port p).replay (flitAck f) <;> rfl

theorem State.received_ccount : ((s.received p f).port p).ccount = setAt (s.port p).ccount (flitCvc f) (flitCcount f) := by
  rw [State.received_port_eq]

theorem State.received_replay : ((s.received p f).port p).replay = (ackReplay (s.port p).replay (flitAck f)).getD (s.port p).replay := by
  rw [State.received_port_eq]
  cases ackReplay (s.port p).replay (flitAck f) <;> rfl

theorem State.received_stalls (h : ackReplay (s.port p).replay (flitAck f) = none) : ((s.received p f).port p).stalls = (s.port p).stalls := by
  rw [State.received_port_eq, h]

/-- A good flit's acknowledgement is taken and what waits goes out. -/
theorem State.flitBack_eq : (s.flitFec p f).flitBack p f = (s.received p f).pump p := rfl

/-- After the acknowledgement, what the port expects, has refused and has gathered is as before. -/
theorem State.exists_received_pump : ∃ u, (s.flitFec p f).flitBack p f = u ∧ s.OnlyLink u p ∧ ((s.received p f).port p).OnlySent (u.port p)
    ∧ ∀ g : Fld, g.off ∉ [0x40, 0x44, 0x48, 0x50] → u.getF (curBase p) g = s.getF (curBase p) g := by
  refine ⟨_, rfl, ?_, ?_, fun g hg => ?_⟩
  · exact (s.received_onlyLink p f).trans (State.pump_onlyLink _ _)
  · exact (s.received p f).pump_port p
  · simp only [List.mem_cons, List.not_mem_nil, or_false, not_or] at hg
    obtain ⟨hcw, hcorr, huncorr, htx⟩ := hg
    rw [s.flitBack_eq, State.pump_getF _ _ htx, State.received_getF _ _ _ (by simp [hcw, hcorr, huncorr])]

end

/-! ## Refusing and accepting -/

/-- The port that asks once for the flits from the one it expects. -/
theorem State.flitRefuse_of_first {s : State} {p : Nat} (h : (s.port p).refused = false) :
    s.flitRefuse p = s.setPort p { (s.port p).sendRetry with refused := true } := by
  simp [State.flitRefuse, h]

theorem Port.sendRetry_keeps (x : Port) : x.sendRetry.retries = x.retries + 1 ∧ x.sendRetry.rxNext = x.rxNext := by
  obtain ⟨y, hy⟩ : ∃ y, x.sendControl 3 (leBytes 2 x.rxNext) = y := ⟨_, rfl⟩
  have hnext : y.rxNext = x.rxNext := by
    rw [← hy, Port.sendControl]
    exact (x.sendFlit_onlySent _ _ _ _).rxNext
  rw [Port.sendRetry, hy]
  exact ⟨rfl, hnext⟩

/-- A refused flit asks for itself again, and the link waits for it (R343). -/
theorem State.exists_flitRefuse {s u : State} {p : Nat} (hlink : s.OnlyLink u p) (h : (u.port p).refused = false) :
    ∃ t, u.flitRefuse p = t ∧ (t.port p).refused = true ∧ (t.port p).retries = (u.port p).retries + 1 ∧ (t.port p).rxNext = (u.port p).rxNext
      ∧ s.OnlyLink t p := by
  obtain ⟨hretries, hnext⟩ := (u.port p).sendRetry_keeps
  obtain ⟨y, hy⟩ : ∃ y, (u.port p).sendRetry = y := ⟨_, rfl⟩
  rw [hy] at hretries hnext
  refine ⟨_, State.flitRefuse_of_first h, ?_⟩
  rw [hy, State.setPort_port_self]
  exact ⟨rfl, hretries, hnext, hlink.trans (State.setPort_onlyLink _ _ _)⟩

/-! ## Sending again -/

/-- The flits of the replay buffer from the i-th on, sent once more. -/
def Port.sendAgain (x : Port) (i : Nat) : Port := (x.replay.drop i).foldl (fun (y : Port) e => y.sendFlit e.ctl 1 e.seq e.payload) x

theorem Port.foldl_sendFlit_keeps (l : List SentFlit) (x : Port) : let y := l.foldl (fun (y : Port) e => y.sendFlit e.ctl 1 e.seq e.payload) x
    y.replay = x.replay ∧ y.txq = x.txq := by
  induction l generalizing x with
  | nil => exact ⟨rfl, rfl⟩
  | cons e r ih =>
    obtain ⟨hreplay, htxq, -⟩ := x.sendFlit_queues e.ctl 1 e.seq e.payload
    obtain ⟨hr, hq⟩ := ih (x.sendFlit e.ctl 1 e.seq e.payload)
    exact ⟨hr.trans hreplay, hq.trans htxq⟩

theorem satCount_zero_of_lt {w n : Nat} (h : n < 2 ^ w) : satCount w n 0 = n := min_eq_left (Nat.le_sub_one_of_lt h)

theorem State.getF_lt (s : State) (base : Nat) (f : Fld) : s.getF base f < 2 ^ f.width := Nat.mod_lt _ (Nat.two_pow_pos _)

theorem State.pump_txFlits_of_nil (s : State) (p : Nat) (h : (s.port p).txq = []) :
    (s.pump p).getF (curBase p) F.CUR_TX_FLITS_COUNT = s.getF (curBase p) F.CUR_TX_FLITS_COUNT := by
  rw [State.pump, State.getF_addF_self _ _ _ _ (by decide), State.setPort_getF, h]
  exact satCount_zero_of_lt (s.getF_lt _ _)

/-- The counts of a replay of n flits (R342, R343). -/
def State.countReplay (s : State) (p n : Nat) (timeout : Bool) : State :=
  let s1 := ((s.addF (curBase p) F.CUR_RETRY_REPLAYS 1).addF (curBase p) F.CUR_TX_FLITS_COUNT n).tally 56 1
  if timeout then s1.addF (curBase p) F.CUR_RETRY_TIMEOUTS 1 else s1

theorem State.replayFrom_eq (s : State) (p i : Nat) (timeout : Bool) : s.replayFrom p i timeout =
    if 8 ≤ (s.port p).stalls + 1 then (s.countReplay p ((s.port p).replay.length - i) timeout).linkDown p
    else (s.countReplay p ((s.port p).replay.length - i) timeout).setPort p { (s.port p).sendAgain i with stalls := (s.port p).stalls + 1 } := rfl

section
variable (s : State) (p n : Nat) (timeout : Bool)

theorem State.countReplay_onlyLink : s.OnlyLink (s.countReplay p n timeout) p := by
  have h := ((s.addF_onlyLink (curBase p) F.CUR_RETRY_REPLAYS 1 p).trans (State.addF_onlyLink _ (curBase p) F.CUR_TX_FLITS_COUNT n p)).trans
    (State.tally_onlyLink _ 56 1 p)
  unfold State.countReplay
  split
  · exact h.trans (State.addF_onlyLink _ _ _ _ _)
  · exact h

theorem State.countReplay_port (q : Nat) : (s.countReplay p n timeout).port q = s.port q := by
  unfold State.countReplay
  split
  · rw [State.addF_port, State.tally_port, State.addF_port, State.addF_port]
  · rw [State.tally_port, State.addF_port, State.addF_port]

theorem State.countReplay_getF {g : Fld} (h : g.off ≠ 0x4c ∧ g.off ≠ 0x50) : (s.countReplay p n timeout).getF (curBase p) g = s.getF (curBase p) g := by
  unfold State.countReplay
  split
  · rw [State.getF_addF_of_off_ne _ _ _ (Ne.symm h.1), State.tally_getF, State.getF_addF_of_off_ne _ _ _ (Ne.symm h.2),
      State.getF_addF_of_off_ne _ _ _ (Ne.symm h.1)]
  · rw [State.tally_getF, State.getF_addF_of_off_ne _ _ _ (Ne.symm h.2), State.getF_addF_of_off_ne _ _ _ (Ne.symm h.1)]

theorem State.countReplay_replays : (s.countReplay p n timeout).getF (curBase p) F.CUR_RETRY_REPLAYS
    = satCount F.CUR_RETRY_REPLAYS.width (s.getF (curBase p) F.CUR_RETRY_REPLAYS) 1 := by
  unfold State.countReplay
  split
  · rw [State.getF_addF_of_apart _ _ _ (by decide) (by decide), State.tally_getF, State.getF_addF_of_off_ne _ _ _ (by decide),
      State.getF_addF_self _ _ _ _ (by decide)]
  · rw [State.tally_getF, State.getF_addF_of_off_ne _ _ _ (by decide), State.getF_addF_self _ _ _ _ (by decide)]

theorem State.countReplay_txFlits : (s.countReplay p n timeout).getF (curBase p) F.CUR_TX_FLITS_COUNT
    = satCount 32 (s.getF (curBase p) F.CUR_TX_FLITS_COUNT) n := by
  unfold State.countReplay
  split
  · rw [State.getF_addF_of_off_ne _ _ _ (by decide), State.tally_getF, State.getF_addF_self _ _ _ _ (by decide),
      State.getF_addF_of_off_ne _ _ _ (by decide)]
  · rw [State.tally_getF, State.getF_addF_self _ _ _ _ (by decide), State.getF_addF_of_off_ne _ _ _ (by decide)]

theorem State.countReplay_timeouts : (s.countReplay p n true).getF (curBase p) F.CUR_RETRY_TIMEOUTS
    = satCount F.CUR_RETRY_TIMEOUTS.width (s.getF (curBase p) F.CUR_RETRY_TIMEOUTS) 1 := by
  rw [State.countReplay, if_pos rfl, State.getF_addF_self _ _ _ _ (by decide), State.tally_getF, State.getF_addF_of_off_ne _ _ _ (by decide),
    State.getF_addF_of_apart _ _ _ (by decide) (by decide)]

end

/-- Fewer than eight replays without progress: the flits go out again and stay in the buffer (R343). -/
theorem State.exists_replayFrom {s u : State} {p : Nat} (i : Nat) (timeout : Bool) (hlink : s.OnlyLink u p) (hstalls : (u.port p).stalls < 7) :
    ∃ t, u.replayFrom p i timeout = t ∧ (t.port p).stalls = (u.port p).stalls + 1 ∧ (t.port p).replay = (u.port p).replay
      ∧ (t.port p).txq = (u.port p).txq ∧ s.OnlyLink t p
      ∧ ∀ g : Fld, t.getF (curBase p) g = (u.countReplay p ((u.port p).replay.length - i) timeout).getF (curBase p) g := by
  obtain ⟨hreplay, htxq⟩ := Port.foldl_sendFlit_keeps ((u.port p).replay.drop i) (u.port p)
  refine ⟨_, (u.replayFrom_eq p i timeout).trans (if_neg (by omega)), ?_, ?_, ?_,
    (hlink.trans (u.countReplay_onlyLink p _ timeout)).trans (State.setPort_onlyLink _ _ _), fun g => State.setPort_getF _ _ _ _ _⟩
  · rw [State.setPort_port_self]
  · rw [State.setPort_port_self]
    exact hreplay
  · rw [State.setPort_port_self]
    exact htxq

end Sys2Proof.Machine
end

section
/-! PROOFS. Courier flits, refusals and replays (R341 to R343). -/

namespace Sys2Proof.Machine

section
variable {s : State} {p : Nat} {f : Flit} (hactive : s.portActive p = true)
include hactive

/-- A port with nothing to send answers an idle flit with one of its own (log entry 84). -/
theorem idleFlit_good (hgood : flitBad f = false) (hkind : flitKind f = 0) :
    ∃ t, exec (.idleFlit p f) s = .next t ∧ (t.port p).ccount = setAt (s.port p).ccount (flitCvc f) (flitCcount f)
      ∧ (t.port p).rxNext = (s.port p).rxNext ∧ (t.port p).bad = (s.port p).bad ∧ (t.port p).retries = (s.port p).retries
      ∧ ((s.port p).txq = [] →
          (t.port p).replay = (ackReplay (s.port p).replay (flitAck f)).getD (s.port p).replay
            ∧ (t.port p).txq = [] ∧ (t.port p).cvc = ((s.port p).cvc + 1) % 8
            ∧ (t.port p).out = flitBytes (linkHeader 0 0 0 ((s.port p).rxNext + 4095) (s.port p).cvc
                ((s.port p).freed.getD (s.port p).cvc 0)) [])
      ∧ s.portsKept t p ∧ t.cour.inbox = s.cour.inbox ∧ { t with regs := s.regs, cour := s.cour, hzn := s.hzn } = s := by
  obtain ⟨u, hu, hlink, hsent, -⟩ := s.exists_received_pump p f
  have heff : idleIn s p f = if (u.port p).txq.isEmpty then u.setPort p (u.port p).sendIdle else u := by
    simp only [idleIn, hgood, hkind, hu, if_true, Bool.false_eq_true, if_false]
  by_cases hempty : (u.port p).txq.isEmpty = true
  · have hidle := hsent.trans ((u.port p).sendFlit_onlySent 0 0 0 [])
    have hport : (u.setPort p (u.port p).sendIdle).port p = (u.port p).sendFlit 0 0 0 [] := State.setPort_port_self _ _ _
    have hkept := hlink.trans (u.setPort_onlyLink p (u.port p).sendIdle)
    refine ⟨u.setPort p (u.port p).sendIdle, ?_, ?_, ?_, ?_, ?_, fun hnil => ?_, hkept.ports, hkept.inbox, hkept.frame⟩
    · rw [exec_idleFlit f hactive, heff, if_pos hempty]
    · rw [hport, hidle.ccount, s.received_ccount]
    · rw [hport, hidle.rxNext, s.received_rxNext]
    · rw [hport, hidle.bad, s.received_bad]
    · rw [hport, hidle.retries, s.received_retries]
    · have huport : u.port p = (s.received p f).port p := by
        rw [← hu, s.flitBack_eq, State.pump_port_of_nil _ _ ((s.received_txq p f).trans hnil)]
      obtain ⟨hreplay, htxq, -⟩ := (u.port p).sendFlit_queues 0 0 0 []
      refine ⟨?_, ?_, ?_, ?_⟩
      · rw [hport, hreplay, huport, s.received_replay]
      · rw [hport, htxq, huport, s.received_txq, hnil]
      · rw [hport, ← s.received_cvc p f, ← huport]
        rfl
      · rw [hport, ← s.received_cvc p f, ← s.received_rxNext p f, ← s.received_freed p f, ← huport]
        rfl
  · refine ⟨u, ?_, ?_, ?_, ?_, ?_, fun hnil => absurd ?_ hempty, hlink.ports, hlink.inbox, hlink.frame⟩
    · rw [exec_idleFlit f hactive, heff, if_neg hempty]
    · rw [hsent.ccount, s.received_ccount]
    · rw [hsent.rxNext, s.received_rxNext]
    · rw [hsent.bad, s.received_bad]
    · rw [hsent.retries, s.received_retries]
    · rw [← hu, s.flitBack_eq, State.pump_port_of_nil _ _ ((s.received_txq p f).trans hnil), s.received_txq, hnil]
      rfl

theorem idleFlit_bad (hbad : flitBad f = true) :
    ∃ t, exec (.idleFlit p f) s = .next t ∧ (t.port p).bad = (s.port p).bad + 1 ∧ (t.port p).retries = (s.port p).retries
      ∧ (t.port p).rxNext = (s.port p).rxNext ∧ s.portsKept t p ∧ { t with regs := s.regs, cour := s.cour, hzn := s.hzn } = s := by
  have hlink := (s.flitFec_onlyLink p f).trans (State.noteBad_onlyLink _ p)
  have hport : ((s.flitFec p f).noteBad p).port p = { s.port p with bad := (s.port p).bad + 1 } := by
    rw [State.noteBad, State.setPort_port_self, State.flitFec_port]
  refine ⟨(s.flitFec p f).noteBad p, ?_, ?_, ?_, ?_, hlink.ports, hlink.frame⟩
  · rw [exec_idleFlit f hactive, idleIn]
    exact congrArg _ (if_pos hbad)
  · rw [hport]
  · rw [hport]
  · rw [hport]

theorem messageFlit_bad (hbad : flitBad f = true) (hfirst : (s.port p).refused = false) :
    ∃ t, exec (.messageFlit p f) s = .next t ∧ (t.port p).refused = true ∧ (t.port p).retries = (s.port p).retries + 1
      ∧ (t.port p).rxNext = (s.port p).rxNext ∧ t.cour.inbox = s.cour.inbox
      ∧ s.portsKept t p ∧ { t with regs := s.regs, cour := s.cour, hzn := s.hzn } = s := by
  have hlink := (s.flitFec_onlyLink p f).trans (State.noteBad_onlyLink _ p)
  have hport : ((s.flitFec p f).noteBad p).port p = { s.port p with bad := (s.port p).bad + 1 } := by
    rw [State.noteBad, State.setPort_port_self, State.flitFec_port]
  obtain ⟨t, ht, hrefused, hretries, hnext, hlink⟩ := State.exists_flitRefuse hlink (by rw [hport]; exact hfirst)
  rw [hport] at hretries hnext
  refine ⟨t, ?_, hrefused, hretries, hnext, hlink.inbox, hlink.ports, hlink.frame⟩
  rw [exec_messageFlit f hactive, flitIn, ← ht]
  exact congrArg _ (if_pos hbad)

theorem messageFlit_outOfSequence (hgood : flitBad f = false) (hkind : flitKind f = 1) (hseq : flitSeq f ≠ (s.port p).rxNext)
    (hfirst : (s.port p).refused = false) :
    ∃ t, exec (.messageFlit p f) s = .next t ∧ (t.port p).refused = true ∧ (t.port p).retries = (s.port p).retries + 1
      ∧ (t.port p).rxNext = (s.port p).rxNext ∧ t.cour.inbox = s.cour.inbox
      ∧ s.portsKept t p ∧ { t with regs := s.regs, cour := s.cour, hzn := s.hzn } = s := by
  obtain ⟨u, hu, hlink, hsent, -⟩ := s.exists_received_pump p f
  have hunext := hsent.rxNext.trans (s.received_rxNext p f)
  obtain ⟨t, ht, hrefused, hretries, hnext, hlink⟩ := State.exists_flitRefuse hlink (hsent.refused.trans ((s.received_refused p f).trans hfirst))
  refine ⟨t, ?_, hrefused, ?_, hnext.trans hunext, hlink.inbox, hlink.ports, hlink.frame⟩
  · rw [exec_messageFlit f hactive]
    simp only [flitIn, hgood, hkind, hu, if_true, Bool.false_eq_true, if_false]
    rw [if_neg (by rwa [hunext]), ht]
  · rw [hretries, hsent.retries, s.received_retries]

theorem messageFlit_accepted {l : List Byte} (hgood : flitBad f = false) (hkind : flitKind f = 1) (hseq : flitSeq f = (s.port p).rxNext)
    (hl : l = (if flitHead f = true then [] else SMap.get [] (s.port p).part (flitVc f)) ++ flitData f) :
    ∃ t, exec (.messageFlit p f) s = .next t ∧ (t.port p).rxNext = ((s.port p).rxNext + 1) % 4096 ∧ (t.port p).refused = false
      ∧ t.cour.inbox = s.cour.inbox ++ (if flitTail f = true then [(p, cmsgOf l)] else [])
      ∧ SMap.get [] (t.port p).part (flitVc f) = (if flitTail f = true then [] else l)
      ∧ t.getF (curBase p) F.CUR_RX_FLITS_COUNT = satCount 32 (s.getF (curBase p) F.CUR_RX_FLITS_COUNT) 1
      ∧ s.portsKept t p ∧ { t with regs := s.regs, cour := s.cour, hzn := s.hzn } = s := by
  obtain ⟨u, hu, hlink, hsent, huget⟩ := s.exists_received_pump p f
  have hunext := hsent.rxNext.trans (s.received_rxNext p f)
  have hupart := hsent.part.trans (s.received_part p f)
  let x : Port := { u.port p with
    rxNext := ((u.port p).rxNext + 1) % 4096, refused := false, part := SMap.set [] (u.port p).part (flitVc f) (if flitTail f then [] else l) }
  obtain ⟨w, hw⟩ : ∃ w, (u.setPort p x).addF (curBase p) F.CUR_RX_FLITS_COUNT 1 = w := ⟨_, rfl⟩
  have hwport : w.port p = x := by rw [← hw, State.addF_port, State.setPort_port_self]
  have hwlink : s.OnlyLink w p := hw ▸ (hlink.trans (State.setPort_onlyLink _ _ _)).trans (State.addF_onlyLink _ _ _ _ _)
  have hwcount : w.getF (curBase p) F.CUR_RX_FLITS_COUNT = satCount 32 (s.getF (curBase p) F.CUR_RX_FLITS_COUNT) 1 := by
    rw [← hw, State.getF_addF_self _ _ _ _ (by decide), State.setPort_getF, huget _ (by decide)]
  have heff : flitIn s p f = if flitTail f then { w with cour := { w.cour with inbox := w.cour.inbox ++ [(p, cmsgOf l)] } } else w := by
    simp only [flitIn, hgood, hkind, hu, if_true, Bool.false_eq_true, if_false]
    rw [if_pos (by rw [hunext, hseq]), State.flitAccept, ← hw]
    simp only [x, hl, hupart]
  refine ⟨_, (exec_messageFlit f hactive).trans (congrArg _ heff), ?_⟩
  cases htail : flitTail f with
  | true =>
    refine ⟨?_, ?_, ?_, ?_, hwcount, hwlink.ports, hwlink.frame⟩
    · exact (congrArg Port.rxNext hwport : _).trans (by rw [← hunext])
    · exact (congrArg Port.refused hwport : _)
    · exact congrArg (· ++ [(p, cmsgOf l)]) hwlink.inbox
    · refine (congrArg (fun y : Port => SMap.get [] y.part (flitVc f)) hwport : _).trans ?_
      simp only [x, htail, SMap.get_set_self]
  | false =>
    refine ⟨?_, ?_, ?_, ?_, hwcount, hwlink.ports, hwlink.frame⟩
    · exact (congrArg Port.rxNext hwport : _).trans (by rw [← hunext])
    · exact (congrArg Port.refused hwport : _)
    · exact hwlink.inbox.trans (List.append_nil _).symm
    · refine (congrArg (fun y : Port => SMap.get [] y.part (flitVc f)) hwport : _).trans ?_
      simp only [x, htail, SMap.get_set_self]

theorem retry_replays {i : Nat} (hgood : goodFrame f 3) (hnil : (s.port p).txq = [])
    (hi : (s.port p).replay.findIdx? (fun e => decide (e.seq = leAt f.bytes 9 2 % 4096)) = some i)
    (hack : ackReplay (s.port p).replay (flitAck f) = none) (hstalls : (s.port p).stalls < 7) :
    ∃ t, exec (.retry p f) s = .next t ∧ (t.port p).stalls = (s.port p).stalls + 1 ∧ (t.port p).replay = (s.port p).replay
      ∧ t.getF (curBase p) F.CUR_RETRY_REPLAYS
          = satCount F.CUR_RETRY_REPLAYS.width (s.getF (curBase p) F.CUR_RETRY_REPLAYS) 1
      ∧ t.getF (curBase p) F.CUR_TX_FLITS_COUNT = satCount 32 (s.getF (curBase p) F.CUR_TX_FLITS_COUNT) ((s.port p).replay.length - i)
      ∧ s.portsKept t p ∧ { t with regs := s.regs, cour := s.cour, hzn := s.hzn } = s := by
  have hstalled := s.received_stalls p f hack
  have hbuffer : ((s.received p f).port p).replay = (s.port p).replay := by rw [s.received_replay, hack, Option.getD_none]
  obtain ⟨u, hu, hustalls, hureplay, hutxq, hlink, huget⟩ := State.exists_replayFrom i false (s.received_onlyLink p f) (by rwa [hstalled])
  have hport : (u.pump p).port p = u.port p := u.pump_port_of_nil p (hutxq.trans ((s.received_txq p f).trans hnil))
  have hlink := hlink.trans (u.pump_onlyLink p)
  rw [hbuffer] at huget
  have htx : u.getF (curBase p) F.CUR_TX_FLITS_COUNT = satCount 32 (s.getF (curBase p) F.CUR_TX_FLITS_COUNT) ((s.port p).replay.length - i) := by
    rw [huget, State.countReplay_txFlits, s.received_getF p f (by decide)]
  refine ⟨u.pump p, ?_, ?_, ?_, ?_, ?_, hlink.ports, hlink.frame⟩
  · have hretry : retryIn (s.received p f) p (leAt f.bytes 9 2 % 4096) = u := by
      rw [retryIn, hbuffer, hi]
      exact hu
    rw [exec_retry_of_good hactive hgood, hretry]
  · rw [hport, hustalls, hstalled]
  · rw [hport, hureplay, hbuffer]
  · rw [State.pump_getF _ _ (by decide), huget, State.countReplay_replays, s.received_getF p f (by decide)]
  · rw [State.pump_txFlits_of_nil _ _ (hutxq.trans ((s.received_txq p f).trans hnil)), htx]

theorem retryRepeat_sends (hrefused : (s.port p).refused = true) :
    ∃ t, exec (.retryRepeat p) s = .next t ∧ (t.port p).retries = (s.port p).retries + 1 ∧ s.portsKept t p ∧ { t with cour := s.cour } = s := by
  have heff : (if s.portActive p && (s.port p).refused then s.setPort p (s.port p).sendRetry else s) = s.setPort p (s.port p).sendRetry := by
    exact if_pos (by simp [hactive, hrefused])
  refine ⟨_, exec_eq_next heff, ?_, s.setPort_portsKept p _, s.setPort_only_cour p _⟩
  rw [State.setPort_port_self, (s.port p).sendRetry_keeps.1]

theorem exec_ackTimeout (hreplay : (s.port p).replay ≠ []) : exec (.ackTimeout p) s = .next (s.replayFrom p 0 true) := by
  have hne : (s.port p).replay.isEmpty = false := by simpa using hreplay
  refine exec_eq_next (u := if s.portActive p && !(s.port p).replay.isEmpty then s.replayFrom p 0 true else s) ?_
  exact if_pos (by simp [hactive, hne])

theorem ackTimeout_replays (hreplay : (s.port p).replay ≠ []) (hstalls : (s.port p).stalls < 7) :
    ∃ t, exec (.ackTimeout p) s = .next t ∧ (t.port p).stalls = (s.port p).stalls + 1 ∧ (t.port p).replay = (s.port p).replay
      ∧ t.getF (curBase p) F.CUR_RETRY_TIMEOUTS
          = satCount F.CUR_RETRY_TIMEOUTS.width (s.getF (curBase p) F.CUR_RETRY_TIMEOUTS) 1
      ∧ t.getF (curBase p) F.CUR_TX_FLITS_COUNT = satCount 32 (s.getF (curBase p) F.CUR_TX_FLITS_COUNT) (s.port p).replay.length
      ∧ s.portsKept t p ∧ { t with regs := s.regs, cour := s.cour, hzn := s.hzn } = s := by
  obtain ⟨t, ht, htstalls, htreplay, -, hlink, hget⟩ := State.exists_replayFrom 0 true (.refl s p) hstalls
  refine ⟨t, (exec_ackTimeout hactive hreplay).trans (congrArg _ ht), htstalls, htreplay, ?_, ?_, hlink.ports, hlink.frame⟩
  · rw [hget, State.countReplay_timeouts]
  · rw [hget, State.countReplay_txFlits, Nat.sub_zero]

theorem ackTimeout_linkDown (hreplay : (s.port p).replay ≠ []) (hstalls : (s.port p).stalls = 7) (hen : s.isF (curBase p) F.CUR_CTL_EN = true)
    (hauto : s.isF (curBase p) F.CUR_CTL_AUTO_RETRAIN = true) :
    ∃ t, exec (.ackTimeout p) s = .next t ∧ t.portSt p = 1 ∧ (t.port p).replay = [] ∧ t.isF (curBase p) F.CUR_STAT_DOWN = true := by
  obtain ⟨u, hu⟩ : ∃ u, s.countReplay p ((s.port p).replay.length - 0) true = u := ⟨_, rfl⟩
  have hget : ∀ g : Fld, g.off = 0 → u.isF (curBase p) g = s.isF (curBase p) g := fun g hg => by
    rw [← hu, State.isF, s.countReplay_getF p _ true (by omega), State.isF]
  obtain ⟨hdown, hempty, -⟩ := u.linkDown_keeps p
  refine ⟨u.linkDown p, ?_, ?_, hempty, hdown⟩
  · rw [exec_ackTimeout hactive hreplay, State.replayFrom_eq, if_pos (by omega), hu]
  · rw [State.linkDown_portSt, hget _ rfl, hget _ rfl, if_pos hen, if_pos hauto]

end

/-- Settles O22: a flit's acknowledgement, its acceptance or refusal, and the replays, one clause each. -/
theorem courierFlitsAndRetries : Obligations.CourierFlitsAndRetries := by
  unfold Obligations.CourierFlitsAndRetries
  exact ⟨fun s p f h => idleFlit_bad h, fun s p f h => idleFlit_good h, fun s p f h => messageFlit_bad h,
    fun s p f h => messageFlit_outOfSequence h, fun s p f l h => messageFlit_accepted h, fun s p i f h => retry_replays h,
    fun s p h => retryRepeat_sends h, fun s p h => ackTimeout_replays h, fun s p h => ackTimeout_linkDown h⟩

end Sys2Proof.Machine
end

section
/-! PROOFS. The test access port (R552, R566), and the doorbells and signals of the SDIO interface (R370, R379, R385, R397, R401). -/

namespace Sys2Proof.Machine

theorem State.tapTake_of_powered {s : State} (h : s.pins.pwrgood = true) (ir boundary out : Nat) :
    s.tapTake ir boundary out = { s with tap := ⟨ir, boundary, out⟩ } := if_pos h

/-- A load of the boundary register takes one free value: what the port captures. -/
theorem State.tapLoad_of_powered {s : State} (h : s.pins.pwrgood = true) (ir v : Nat) :
    s.tapLoad ir v = { s with free := s.free + 1, tap := ⟨ir, v, Config.freeNat s.free⟩ } := if_pos h

/-- Settles O34. -/
theorem testAccessPort : Obligations.TestAccessPort := by
  unfold Obligations.TestAccessPort
  refine ⟨fun s hp => exec_eq_next (s.tapTake_of_powered hp _ _ _), fun s hp => exec_eq_next (s.tapTake_of_powered hp _ _ _),
    fun s v k c hp hc => ?loads, fun s code hp hu => ?locked, fun s code hu => if_pos hu⟩
  case loads =>
    have hload : exec c s = .next (s.tapLoad k v) := by
      simp only [List.mem_cons, Prod.mk.injEq, List.not_mem_nil, or_false] at hc
      obtain ⟨rfl, rfl⟩ | ⟨rfl, rfl⟩ | ⟨rfl, rfl⟩ | ⟨rfl, rfl⟩ := hc <;> rfl
    exact ⟨_, hload, by rw [s.tapLoad_of_powered hp], by rw [s.tapLoad_of_powered hp], by rw [s.tapLoad_of_powered hp]⟩
  case locked =>
    have hlocked : exec (.privateInstruction code) s = .next s.tapBypass := if_neg (by simp [hu])
    exact hlocked.trans (congrArg _ (s.tapTake_of_powered hp _ _ _))

/-! ## Doorbells -/

/-- What a doorbell does: the index it moves, or DB_ERR (R385). -/
theorem State.cmdDbWrite_eq (s : State) (v : Nat) : s.cmdDbWrite v = { s with sdio :=
    if (v % 64 + 64 - s.sdio.cmdCi) % 64 ≤ 32 ∧ (s.sdio.cmdDb + 64 - s.sdio.cmdCi) % 64 ≤ (v % 64 + 64 - s.sdio.cmdCi) % 64 then
      { s.sdio with cmdDb := v % 64 } else { s.sdio with intStat := s.sdio.intStat ||| 64 } } := by
  split_ifs with hok
  · exact if_neg (not_or.2 ⟨Nat.not_lt.2 hok.1, Nat.not_lt.2 hok.2⟩)
  · exact if_pos (not_and_or.1 hok |>.imp Nat.not_le.1 Nat.not_le.1)

theorem State.rplDbWrite_eq (s : State) (v : Nat) : s.rplDbWrite v = { s with sdio :=
    if (v % 64 + 64 - s.sdio.rplDb) % 64 ≤ (s.sdio.rplPi + 64 - s.sdio.rplDb) % 64 then { s.sdio with rplDb := v % 64 }
    else { s.sdio with intStat := s.sdio.intStat ||| 64 } } := by
  split_ifs with hok
  · exact if_pos hok
  · exact if_neg hok

theorem State.evtDbWrite_eq (s : State) (v : Nat) : s.evtDbWrite v = { s with sdio :=
    if (v % 128 + 128 - s.sdio.evtDb) % 128 ≤ (s.sdio.evtPi + 128 - s.sdio.evtDb) % 128 then { s.sdio with evtDb := v % 128 }
    else { s.sdio with intStat := s.sdio.intStat ||| 64 } } := by
  split_ifs with hok
  · exact if_pos hok
  · exact if_neg hok

/-- A step that gives the interface the value x, or y where the guard fails. -/
theorem exec_sdio_ite {c : Instr} {s : State} {p : Prop} [Decidable p] {x y : Sdio}
    (h : exec c s = .next { s with sdio := if p then x else y }) :
    ∃ t, exec c s = .next t ∧ { t with sdio := s.sdio } = s ∧ (if p then t.sdio = x else t.sdio = y) := by
  refine ⟨_, h, rfl, ?_⟩
  split_ifs with hp
  · rfl
  · rfl

theorem State.ioAbort_of_under {s : State} {fn : Nat} (h : s.sdio.under = some fn) : s.ioAbort fn =
    { s with sdio := { s.sdio with under := none, f2Stat := if fn = 2 then s.sdio.f2Stat ||| 16 else s.sdio.f2Stat } } := by
  refine (if_pos h).trans ?_
  by_cases h2 : fn = 2
  · simp only [h2, if_true]
    rfl
  · simp only [h2, if_false]

theorem State.ioAbort_of_not_under {s : State} {fn : Nat} (h : s.sdio.under ≠ some fn) : s.ioAbort fn = s := if_neg h

/-- Settles O38. -/
theorem sdioDoorbellsAndSignals : Obligations.SdioDoorbellsAndSignals := by
  unfold Obligations.SdioDoorbellsAndSignals
  refine ⟨fun s v hsel => exec_sdio_ite (exec_eq_next ((if_pos hsel).trans (s.cmdDbWrite_eq v))),
    fun s v hsel => exec_sdio_ite (exec_eq_next ((if_pos hsel).trans (s.rplDbWrite_eq v))),
    fun s v hsel => exec_sdio_ite (exec_eq_next ((if_pos hsel).trans (s.evtDbWrite_eq v))),
    fun s n hserved hdue => ?beat, fun s hioe hon => ?ready, fun s => rfl,
    fun s fn hears hunder => exec_eq_next ((if_pos hears).trans (State.ioAbort_of_under hunder)),
    fun s fn hunder => exec_eq_next ?abort⟩
  case beat =>
    have hbeat : heartbeat (s.at n) = { s.at n with sdio := { s.sdio with heart := (s.sdio.heart + 1) % 256, heartAt := (s.at n).now } } :=
      if_pos (by rw [hserved, Bool.true_and]; exact decide_eq_true hdue)
    exact ⟨_, exec_eq_next hbeat, rfl, rfl⟩
  case ready =>
    have hguard : (s.sdio.ioe.testBit 0 && !s.isIn [.off]) = true := by simp [hioe, State.isIn, hon]
    exact exec_eq_next (if_pos hguard)
  case abort =>
    split
    · exact State.ioAbort_of_not_under hunder
    · rfl

end Sys2Proof.Machine
end

section
/-! SUPPORT. The SDIO card: bus commands, and transfers outside the stream port (R363 to R373, R401 to R404). -/

namespace Sys2Proof.Machine

/-! ## What a command changes -/

/-- t differs from s at most in the interface. -/
structure State.OnlySdio (s t : State) : Prop where
  frame : { t with sdio := s.sdio } = s

theorem State.OnlySdio.refl (s : State) : s.OnlySdio s := ⟨rfl⟩
theorem State.OnlySdio.trans {s t u : State} (h : s.OnlySdio t) (g : t.OnlySdio u) : s.OnlySdio u := ⟨by rw [← h.frame, ← g.frame]⟩

theorem State.withSdio_onlySdio (s : State) (x : Sdio) : s.OnlySdio { s with sdio := x } := ⟨rfl⟩
theorem State.silent_onlySdio (s : State) : s.OnlySdio s.silent := ⟨rfl⟩
theorem State.cardSays_onlySdio (s : State) (d : List Byte) : s.OnlySdio (s.cardSays d) := ⟨rfl⟩
theorem State.outOfRange_onlySdio (s : State) : s.OnlySdio s.outOfRange := ⟨rfl⟩
theorem State.noFunction_onlySdio (s : State) : s.OnlySdio s.noFunction := ⟨rfl⟩
theorem State.bsSettle_onlySdio (s : State) (x : Sdio) : s.OnlySdio (s.bsSettle x) := ⟨rfl⟩
theorem State.setInt_onlySdio (s : State) (i : Nat) : s.OnlySdio (s.setInt i) := ⟨rfl⟩

theorem State.f1Reg_onlySdio (s : State) (o : Nat) : s.OnlySdio (s.f1Reg o).2 := by
  unfold State.f1Reg
  split
  case h_12 => exact s.withSdio_onlySdio _
  case h_15 => exact s.withSdio_onlySdio _
  all_goals exact .refl s

/-! ## Commands on the bus -/

/-- A command that the card hears in a state of the bus that takes it. -/
theorem State.onBus_of_heard {s : State} {states : List Nat} (hears : s.cardHears = true) (hbus : s.sdio.bus ∈ states) (f : State → State) :
    s.onBus states f = f s := if_pos (by rw [hears, Bool.true_and]; exact decide_eq_true hbus)

theorem State.onWire_of_heard {s : State} {states : List Nat} (hears : s.cardHears = true) (hbus : s.sdio.bus ∈ states) (v : Nat)
    (f : State → Nat → State) : s.onWire ⟨v, false⟩ states f = f s v := State.onBus_of_heard hears hbus fun t => f t v

theorem State.onWire_of_crcBad {s : State} (hears : s.cardHears = true) (v : Nat) (states : List Nat) (f : State → Nat → State) :
    s.onWire ⟨v, true⟩ states f = s.silent.addF sdiBase F.SDI_CRC_ERR_CMD 1 := if_pos hears

/-! ## A byte of a function -/

/-- Casec and the engine do not meet in words that the transfer does not reach. -/
theorem State.collide_of_untouched {s : State} {touch : Nat → Bool} (h : ∀ w, touch w = false) (kind : Nat) : s.collide touch kind = ([], s) := by
  unfold State.collide
  exact if_pos (by simp [h])

theorem State.collWrite_of_untouched {s : State} {touch : Nat → Bool} (h : ∀ w, touch w = false) : s.collWrite touch = s := by
  unfold State.collWrite
  rw [State.collide_of_untouched h]

/-- Only the aperture of function 1 reaches Pigeonhole. -/
theorem State.touches_of_register (s : State) {fn a : Nat} (h : fn = 1 → 0x10000 ≤ a) (n : Nat) (incr : Bool) (w : Nat) :
    s.touches fn a n incr w = false := by
  by_cases hfn : fn = 1
  · have ha := h hfn
    simp [State.touches, Nat.not_lt.2 ha]
  · simp [State.touches, hfn]

theorem streamPart_of_not {fn a : Nat} (h : fn = 2 → 0x10000 ≤ a) (n : Nat) (incr : Bool) : streamPart fn a n incr = 0 :=
  if_neg fun ⟨hfn, ha⟩ => absurd (h hfn) (Nat.not_le.2 ha)

theorem xferAddrs_one (a : Nat) : xferAddrs a 1 true = [a] := rfl

/-- A byte read from a register of a function. -/
theorem State.xferRead_register (s : State) {fn a : Nat} (h : 0x10000 ≤ a) :
    s.xferRead fn a 1 true = ([BitVec.ofNat 8 (s.fnByte fn a).1], (s.fnByte fn a).2) := by
  simp only [State.xferRead, streamPart_of_not fun _ => h, xferAddrs_one, if_true, List.drop_zero, State.fnRead, List.foldl_cons,
    List.foldl_nil, List.nil_append]
  rw [State.collide_of_untouched (State.touches_of_register _ (fun _ => h) 1 true)]

/-- A byte written to a register of a function. -/
theorem State.xferWrite_register (s : State) {fn a : Nat} (h : 0x10000 ≤ a) (b : Byte) : s.xferWrite fn a [b] true = s.fnPut fn a b.toNat := by
  simp only [State.xferWrite, streamPart_of_not fun _ => h, List.length_singleton, xferAddrs_one, if_true, List.drop_zero]
  rw [State.collWrite_of_untouched (State.touches_of_register _ (fun _ => h) 1 true)]
  rfl

/-- CMD52 reads a register of function 1. -/
theorem cmd52_read_register {s : State} {arg o : Nat} (hfn : bits arg 28 3 = 1) (hrd : arg.testBit 31 = false) (ha : bits arg 9 17 = 0x10000 + o)
    (ho : o < 0x100) : cmd52 s arg = (s.f1Reg o).2.cardSays [BitVec.ofNat 8 (s.f1Reg o).1] := by
  have hbyte : s.fnByte 1 (0x10000 + o) = s.f1Reg o := by
    simp only [State.fnByte, State.f1Byte]
    rw [if_neg (by omega), if_pos (by omega), Nat.add_sub_cancel_left]
  simp only [cmd52, hfn, hrd, ha, Nat.reduceLT, if_false, Bool.false_eq_true]
  rw [s.xferRead_register (Nat.le_add_right _ _), hbyte]

/-- CMD52 writes a register of function 1. -/
theorem cmd52_write_register {s : State} {arg o : Nat} (hfn : bits arg 28 3 = 1) (hwr : arg.testBit 31 = true) (hraw : arg.testBit 27 = false)
    (ha : bits arg 9 17 = 0x10000 + o) (ho : o < 0x100) :
    cmd52 s arg = ((s.f1Put o (arg % 256)).bsSettle s.sdio).cardSays [BitVec.ofNat 8 arg] := by
  have hput : s.fnPut 1 (0x10000 + o) (BitVec.ofNat 8 arg).toNat = s.f1Put o (arg % 256) := by
    simp only [State.fnPut, State.f1Write]
    rw [if_neg (by omega), if_pos (by omega), Nat.add_sub_cancel_left, BitVec.toNat_ofNat]
  simp only [cmd52, hfn, hwr, hraw, ha, Nat.reduceLT, if_false, if_true, Bool.false_eq_true]
  rw [s.xferWrite_register (Nat.le_add_right _ _), hput]

theorem State.f1Put_intEn (s : State) (v : Nat) : s.f1Put 9 v = { s with sdio := { s.sdio with intEn := v % 128 } } := rfl

/-! ## A reset of the card (R367, R388) -/

theorem State.fwDrop_of_no_load {s : State} (h : ∀ x ∈ s.mail.taken, x.op ≠ 0x0201) : s.fwDrop = s := by
  have hnone : s.takenOp 0x0201 = none := List.find?_eq_none.2 fun x hx => by simp [h x hx]
  simp only [State.fwDrop, hnone]

/-- A mailbox reset changes the mailbox, the interface and the commands that a job keeps. -/
theorem State.mailReset_frame (s : State) (close : Bool) :
    { s.mailReset close with sdio := s.sdio, mail := s.mail, job := s.job } = s := by
  unfold State.mailReset
  split <;> rfl

theorem State.mailReset_sdio (s : State) (close : Bool) :
    (s.mailReset close).sdio = { s.sdio with cmdDb := 0, cmdCi := 0, rplPi := 0, rplDb := 0, clash := [] } := by
  unfold State.mailReset
  split <;> rfl

theorem State.sdReset_sdio (s : State) : s.sdReset.sdio = { Sdio.init s.power.strapIo18 with v18 := s.sdio.v18 } :=
  State.mailReset_sdio _ true

end Sys2Proof.Machine
end

section
/-! PROOFS. The SDIO card (R363 to R367, R388, R403, R406). -/

namespace Sys2Proof.Machine

/-- The answer to CMD5 reads back as ready, two functions, and S18A as S18R. -/
theorem cmd5_answer (b : Bool) : leAt (leBytes 4 (sdOcr + b.toNat * 2 ^ 24 + 2 * 2 ^ 28 + 2 ^ 31)) 0 4 / 2 ^ 31 = 1
    ∧ bits (leAt (leBytes 4 (sdOcr + b.toNat * 2 ^ 24 + 2 * 2 ^ 28 + 2 ^ 31)) 0 4) 28 3 = 2
    ∧ (leAt (leBytes 4 (sdOcr + b.toNat * 2 ^ 24 + 2 * 2 ^ 28 + 2 ^ 31)) 0 4).testBit 24 = b := by
  cases b <;> decide

theorem bits_one (n i : Nat) : bits n i 1 = (n.testBit i).toNat := by
  rw [bits, Nat.testBit, Nat.and_comm, Nat.and_one_is_mod]
  rcases Nat.mod_two_eq_zero_or_one (n >>> i) with h | h <;> simp [h]

/-- Settles O36. -/
theorem sdioCardCommands : Obligations.SdioCardCommands := by
  unfold Obligations.SdioCardCommands
  refine ⟨fun s c hc hears => ?reset, fun s arg hears hbus hocr => ?cmd5, fun s hears hbus hpend => ?cmd11, fun s hears hbus => ?cmd3,
    fun s arg hears hbus => ?cmd7, fun s arg hears hbus hrca => ?cmd15, fun s hears hbus hbss => ?cmd19,
    fun s arg o hears hbus hfn hrd ha ho => ?read, fun s arg hears hbus hfn hwr hraw ha => ?write,
    fun s arg hears hbus hfn => ?nofn, fun s arg d l c hears hc => ?crc⟩
  case reset =>
    have hreset : exec c s = .next s.sdReset := by
      simp only [List.mem_cons, List.not_mem_nil, or_false] at hc
      obtain rfl | rfl := hc <;> exact exec_eq_next (if_pos hears)
    have hsdio := s.sdReset_sdio
    refine ⟨_, hreset, by rw [hsdio]; rfl, by rw [hsdio], rfl, rfl, rfl, by rw [hsdio]; rfl, by rw [hsdio]; rfl, by rw [hsdio]; rfl,
      by rw [hsdio]; rfl, fun hno => ?_⟩
    rw [State.sdReset, State.fwDrop_of_no_load hno]
    exact (congrArg (fun t : State => { t with sdio := s.sdio }) (State.mailReset_frame _ true) : _)
  case cmd5 =>
    obtain ⟨hready, hfns, hs18⟩ := cmd5_answer (arg.testBit 24)
    have hoff : bits arg 0 24 ≠ 0 := fun h => hocr (by rw [h]; rfl)
    refine ⟨_, exec_eq_next ((State.onWire_of_heard hears hbus arg cmd5).trans ((if_neg hoff).trans (if_neg hocr))), rfl, ?_, ?_, ?_, ?_, rfl⟩
    all_goals simp only [State.cardSays, bits_one]
    · cases arg.testBit 24 <;> rfl
    · exact hready
    · exact hfns
    · exact hs18
  case cmd11 => exact ⟨_, exec_eq_next ((State.onBus_of_heard hears (List.mem_singleton.2 hbus) cmd11).trans (if_pos hpend)), rfl, rfl, rfl⟩
  case cmd3 => exact ⟨_, exec_eq_next (State.onBus_of_heard hears hbus cmd3), rfl, rfl,
    (by decide : leAt (leBytes 4 0x10000) 2 2 = 1), rfl⟩
  case cmd7 =>
    refine ⟨_, exec_eq_next (State.onWire_of_heard hears hbus arg cmd7), ?_⟩
    unfold cmd7
    split_ifs <;> exact ⟨rfl, rfl⟩
  case cmd15 =>
    exact ⟨_, exec_eq_next ((State.onWire_of_heard hears hbus arg cmd15).trans (if_pos hrca)), rfl, by simp [State.cardHears], rfl⟩
  case cmd19 =>
    have hsdr : s.sdio.bss = 2 ∨ s.sdio.bss = 3 := by simpa using hbss
    have htune := State.onBus_of_heard hears (List.mem_singleton.2 hbus)
      fun t => if t.sdio.bss = 2 ∨ t.sdio.bss = 3 then t.cardSays tuningBlock else t.silent
    exact ⟨_, exec_eq_next (htune.trans (if_pos hsdr)), rfl, rfl⟩
  case read =>
    exact ⟨_, exec_eq_next ((State.onWire_of_heard hears (List.mem_singleton.2 hbus) arg cmd52).trans (cmd52_read_register hfn hrd ha ho)), rfl,
      ((s.f1Reg_onlySdio o).trans (State.cardSays_onlySdio _ _)).frame⟩
  case write =>
    have hput : cmd52 s arg = (({ s with sdio := { s.sdio with intEn := arg % 128 } }).bsSettle s.sdio).cardSays [BitVec.ofNat 8 arg] := by
      rw [cmd52_write_register (o := 9) hfn hwr hraw ha (by decide), State.f1Put_intEn, Nat.mod_mod_of_dvd arg (by decide)]
    exact ⟨_, exec_eq_next ((State.onWire_of_heard hears (List.mem_singleton.2 hbus) arg cmd52).trans hput), rfl, rfl, rfl, rfl⟩
  case nofn => exact ⟨_, exec_eq_next ((State.onWire_of_heard hears (List.mem_singleton.2 hbus) arg cmd52).trans (if_pos hfn)), rfl, rfl, rfl⟩
  case crc =>
    have hcrc : exec c s = .next (s.silent.addF sdiBase F.SDI_CRC_ERR_CMD 1) := by
      simp only [List.mem_cons, List.not_mem_nil, or_false] at hc
      obtain rfl | rfl | rfl | rfl | rfl := hc <;> exact exec_eq_next (State.onWire_of_crcBad hears _ _ _)
    exact ⟨_, hcrc, rfl, rfl, s.silent.getF_addF_self _ _ _ (by decide), rfl⟩

end Sys2Proof.Machine
end

section
/-! SUPPORT. CMD53 in byte mode: what it hands to a transfer, and transfers through the aperture and the stream port (R366, R372, R400, R401). -/

namespace Sys2Proof.Machine

/-! ## The transfer that a CMD53 makes -/

section
variable {s : State} {arg fn a n : Nat} {data : List Byte} {bad : List Nat}

/-- A transfer inside one half of a function's addresses is in range. -/
theorem cmd53_in_range {incr : Bool} (hrange : incr = true → a + n ≤ 0x10000) :
    ¬((false = true ∧ n = 0 ∧ fn ≠ 2) ∨ (incr = true ∧ (0x20000 < a + n ∨ (fn = 1 ∧ a < 0x10000 ∧ 0x10000 < a + n)))) := by
  rintro (⟨h, -⟩ | ⟨hincr, h⟩)
  · exact absurd h Bool.false_ne_true
  · have := hrange hincr
    omega

variable (hfn : bits arg 28 3 = fn) (hdev : fn ≤ 2) (ha : bits arg 9 17 = a) (hn : bits arg 0 9 = n) (hpos : 0 < n)
  (hbyte : arg.testBit 27 = false) (hrange : arg.testBit 26 = true → a + n ≤ 0x10000)
include hfn hdev ha hn hpos hbyte hrange

/-- A write whose bytes all come is one block. -/
theorem cmd53_write_of_enough (hwr : arg.testBit 31 = true) (hlen : n ≤ data.length) : cmd53 s arg data bad =
    ((({ s with sdio := { s.sdio with under := none } }).putBlock fn a n (arg.testBit 26) data bad 0).bsSettle s.sdio).cardSays [] := by
  have hhere : min (data.length / n) 1 = 1 := min_eq_right ((Nat.one_le_div_iff hpos).2 hlen)
  have hin := cmd53_in_range (fn := fn) hrange
  simp only [cmd53, hfn, ha, hn, hbyte, hwr, Bool.false_eq_true, if_false, if_true, if_neg hpos.ne', Nat.one_mul, hhere]
  rw [if_neg (Nat.not_lt.2 hdev), if_neg (by simpa using hin), if_neg (by simp)]
  rfl

/-- A write with fewer bytes than it announced moves none and stays under way (log entry 91). -/
theorem cmd53_write_of_short (hwr : arg.testBit 31 = true) (hlen : data.length < n) : cmd53 s arg data bad =
    (({ s with sdio := { s.sdio with under := some fn } }).bsSettle s.sdio).cardSays [] := by
  have hin := cmd53_in_range (fn := fn) hrange
  simp only [cmd53, hfn, ha, hn, hbyte, hwr, Bool.false_eq_true, if_false, if_true, if_neg hpos.ne', Nat.one_mul, Nat.div_eq_of_lt hlen]
  rw [if_neg (Nat.not_lt.2 hdev), if_neg (by simpa using hin), if_pos (by simp)]
  rfl

/-- A read is one transfer. -/
theorem cmd53_read_bytes (hrd : arg.testBit 31 = false) : cmd53 s arg data bad =
    (((({ s with sdio := { s.sdio with under := none } }).xferRead fn a n (arg.testBit 26)).2).cardSays
      ((({ s with sdio := { s.sdio with under := none } }).xferRead fn a n (arg.testBit 26)).1)).addF sdiBase F.SDI_XFER_BLOCKS 1 := by
  have hin := cmd53_in_range (fn := fn) hrange
  simp only [cmd53, hfn, ha, hn, hbyte, hrd, Bool.false_eq_true, if_false, if_neg hpos.ne', Nat.one_mul]
  rw [if_neg (Nat.not_lt.2 hdev), if_neg (by simpa using hin), if_neg (by simp)]
  simp

end

/-! ## Blocks -/

theorem State.putBlock_of_bad (s : State) (fn a n : Nat) (incr : Bool) (data : List Byte) {bad : List Nat} (h : 0 ∈ bad) :
    s.putBlock fn a n incr data bad 0 = s.addF sdiBase F.SDI_CRC_ERR_DATA 1 := if_pos h

theorem State.putBlock_of_good (s : State) (fn a n : Nat) (incr : Bool) (data : List Byte) {bad : List Nat} (h : 0 ∉ bad) :
    s.putBlock fn a n incr data bad 0 = (s.xferWrite fn a (data.take n) incr).addF sdiBase F.SDI_XFER_BLOCKS 1 := by
  rw [State.putBlock, if_neg h, Nat.zero_mul, Nat.add_zero, ite_self]
  rfl

/-! ## Transfers through the aperture -/

/-- Casec touches no word: nothing to collide with. -/
theorem State.collide_of_idle {s : State} {kind : Nat} (h : (s.casecBusy kind).2 = 0) (touch : Nat → Bool) : s.collide touch kind = ([], s) := by
  unfold State.collide
  rw [wordsOf, if_pos h]
  rfl

theorem State.casecBusy_of_no_replies {s : State} (h : s.mail.replies = []) : (s.casecBusy 0).2 = 0 := by
  unfold State.casecBusy
  rw [h, if_pos rfl]
  split_ifs <;> rfl

theorem State.casecBusy_of_no_commands {s : State} (h : s.sdio.cmdDb = s.sdio.cmdCi) : (s.casecBusy 1).2 = 0 := by
  unfold State.casecBusy
  rw [if_neg (by decide), if_neg (by simp [h])]

theorem State.collWrite_of_idle {s : State} (h : s.sdio.cmdDb = s.sdio.cmdCi) (touch : Nat → Bool) : s.collWrite touch = s := by
  unfold State.collWrite
  rw [State.collide_of_idle (State.casecBusy_of_no_commands h)]

theorem streamPart_one (a n : Nat) (incr : Bool) : streamPart 1 a n incr = 0 := if_neg fun h => absurd h.1 (by decide)

/-- Reads that change nothing, one after the other. -/
theorem State.fnRead_of_pure {s : State} {fn : Nat} {v : Nat → Nat} {as : List Nat} (h : ∀ a ∈ as, s.fnByte fn a = (v a, s)) :
    s.fnRead fn as = (as.map fun a => BitVec.ofNat 8 (v a), s) := by
  have hfold (d : List Byte) : as.foldl (fun (acc : List Byte × State) a =>
      let (v, t) := acc.2.fnByte fn a
      (acc.1 ++ [BitVec.ofNat 8 v], t)) (d, s) = (d ++ as.map (fun a => BitVec.ofNat 8 (v a)), s) := by
    induction as generalizing d with
    | nil => simp
    | cons a as ih =>
      rw [List.foldl_cons, h a List.mem_cons_self, ih (fun b hb => h b (List.mem_cons_of_mem _ hb)), List.map_cons, List.append_assoc]
      rfl
  simpa [State.fnRead] using hfold []

theorem mem_xferAddrs {a n x : Nat} : x ∈ xferAddrs a n true ↔ ∃ i < n, x = a + i := by
  simp [xferAddrs, eq_comm]

/-- Bytes read through the aperture where the engine may read them. -/
theorem State.xferRead_aperture {s : State} {a n : Nat} (hrange : a + n ≤ 0x10000) (hon : s.pdOn 2 = true) (hview : s.sdio.aperView < 3)
    (hmay : ∀ i < n, s.pghMay 1 (s.aperOff (a + i)) 28 = true) (hidle : s.mail.replies = []) :
    s.xferRead 1 a n true = ((List.range n).map (fun (i : Nat) => Mem.rd s.mem.pigeon (s.aperOff (a + i))), s) := by
  have hbyte : ∀ x ∈ xferAddrs a n true, s.fnByte 1 x = ((Mem.rd s.mem.pigeon (s.aperOff x)).toNat, s) := by
    intro x hx
    obtain ⟨i, hi, rfl⟩ := mem_xferAddrs.1 hx
    simp only [State.fnByte, State.f1Byte, State.aperRead, State.pghRead, hon]
    rw [if_pos (by omega), if_neg (by decide), if_pos ⟨hview, hmay i hi⟩]
  simp only [State.xferRead, streamPart_one, if_true, List.drop_zero, State.fnRead_of_pure hbyte,
    State.collide_of_idle (State.casecBusy_of_no_replies hidle), List.nil_append]
  simp only [xferAddrs, List.map_map, Function.comp_def, if_true, BitVec.ofNat_toNat, BitVec.setWidth_eq]

/-- Bytes written through the aperture in view 0, one after the other. -/
theorem State.foldl_fnPut_aperture {s : State} {l : List (Nat × Byte)} (hrange : ∀ e ∈ l, e.1 < 0x10000) (hon : s.pdOn 2 = true)
    (hview : s.sdio.aperView = 0) (hmay : ∀ e ∈ l, s.pghMay 1 (s.aperOff e.1) 29 = true) :
    l.foldl (fun t e => t.fnPut 1 e.1 e.2.toNat) s
      = { s with mem := { s.mem with pigeon := l.foldl (fun m e => Mem.wr m (s.aperOff e.1) e.2) s.mem.pigeon } } := by
  induction l generalizing s with
  | nil => rfl
  | cons e l ih =>
    have hput : s.fnPut 1 e.1 e.2.toNat = { s with mem := { s.mem with pigeon := Mem.wr s.mem.pigeon (s.aperOff e.1) e.2 } } := by
      simp only [State.fnPut, State.f1Write, State.aperWrite, State.pghWrite, hon, hview]
      rw [if_pos (hrange e List.mem_cons_self), if_neg (by decide), if_pos ⟨by decide, hmay e List.mem_cons_self, Or.inl trivial⟩]
      simp [viewByte]
    rw [List.foldl_cons, hput]
    exact ih (fun x hx => hrange x (List.mem_cons_of_mem _ hx)) hon hview fun x hx => hmay x (List.mem_cons_of_mem _ hx)

theorem Mem.rd_foldl_wr_of_not_mem {α : Type} (l : List α) (off : α → Nat) (b : α → Byte) (m : Mem) {o : Nat} (h : ∀ e ∈ l, off e ≠ o) :
    Mem.rd (l.foldl (fun m e => Mem.wr m (off e) (b e)) m) o = Mem.rd m o := by
  induction l generalizing m with
  | nil => rfl
  | cons e l ih =>
    rw [List.foldl_cons, ih _ fun x hx => h x (List.mem_cons_of_mem _ hx), Mem.rd_wr, if_neg (h e List.mem_cons_self)]

theorem Mem.rd_foldl_wr_of_mem {α : Type} (l : List α) (off : α → Nat) (b : α → Byte) (m : Mem) (hl : l.Pairwise fun e f => off e ≠ off f) {e : α}
    (he : e ∈ l) : Mem.rd (l.foldl (fun m e => Mem.wr m (off e) (b e)) m) (off e) = b e := by
  induction l generalizing m with
  | nil => exact absurd he List.not_mem_nil
  | cons x l ih =>
    obtain ⟨hx, hl⟩ := List.pairwise_cons.1 hl
    rw [List.foldl_cons]
    rcases List.mem_cons.1 he with rfl | he
    · rw [Mem.rd_foldl_wr_of_not_mem l off b _ fun f hf => (hx f hf).symm, Mem.rd_wr, if_pos rfl]
    · exact ih _ hl he

/-- The bytes of a rising transfer, each with its address. -/
theorem xferAddrs_zip (a : Nat) (d : List Byte) :
    (xferAddrs a d.length true).zip d = (List.range d.length).map (fun (i : Nat) => (a + i, d.getD i 0)) := by
  refine List.ext_getElem (by simp [xferAddrs]) fun i hi _ => ?_
  have hlen : i < d.length := by simpa [xferAddrs] using hi
  simp [xferAddrs, hlen]

/-- Bytes written through the aperture land at their offsets and nowhere else. -/
theorem State.xferWrite_aperture {s : State} {a : Nat} {d : List Byte} (hrange : a + d.length ≤ 0x10000) (hon : s.pdOn 2 = true)
    (hview : s.sdio.aperView = 0) (hmay : ∀ i < d.length, s.pghMay 1 (s.aperOff (a + i)) 29 = true) (hidle : s.sdio.cmdDb = s.sdio.cmdCi) :
    s.xferWrite 1 a d true
      = { s with mem := { s.mem with pigeon := (List.range d.length).foldl (fun m i => Mem.wr m (s.aperOff (a + i)) (d.getD i 0)) s.mem.pigeon } } := by
  simp only [State.xferWrite, streamPart_one, if_true, List.drop_zero, State.collWrite_of_idle hidle, xferAddrs_zip]
  rw [State.foldl_fnPut_aperture _ hon hview, List.foldl_map]
  all_goals
    intro e he
    obtain ⟨i, hi, rfl⟩ := List.mem_map.1 he
    have hi := List.mem_range.1 hi
  · exact hmay i hi
  · exact Nat.lt_of_lt_of_le (Nat.add_lt_add_left hi a) hrange

theorem State.aperOff_injOn (s : State) {a n : Nat} (hn : n ≤ 262144) :
    (List.range n).Pairwise fun i j => s.aperOff (a + i) ≠ s.aperOff (a + j) := by
  refine List.pairwise_lt_range.imp_of_mem fun {i j} hi hj hij => ?_
  have hi := List.mem_range.1 hi
  have hj := List.mem_range.1 hj
  unfold State.aperOff
  omega

/-- A byte that the engine may not write (R377). -/
theorem State.xferWrite_refused {s : State} {a : Nat} (ha : a < 0x10000) (hon : s.pdOn 2 = true) (hmay : s.pghMay 1 (s.aperOff a) 29 = false)
    (hidle : s.sdio.cmdDb = s.sdio.cmdCi) (b : Byte) : s.xferWrite 1 a [b] true = s.pghRefuse 1 (s.aperOff a) 1 := by
  simp only [State.xferWrite, streamPart_one, List.length_singleton, xferAddrs_one, if_true, List.drop_zero,
    State.collWrite_of_idle hidle, List.zip_cons_cons, List.zip_nil_right, List.foldl_cons, List.foldl_nil, State.fnPut, State.f1Write,
    State.aperWrite, State.pghWrite, hon, hmay]
  rw [if_pos ha, if_neg (by decide), if_neg (by simp)]

/-! ## Transfers through the stream port -/

theorem streamPart_of_stream {a n : Nat} {incr : Bool} (ha : a < 0x10000) (hrange : incr = true → a + n ≤ 0x10000) : streamPart 2 a n incr = n := by
  rw [streamPart, if_pos ⟨rfl, ha⟩]
  cases incr with
  | false => rfl
  | true =>
    have := hrange rfl
    exact min_eq_left (by omega)

theorem xferAddrs_length (a n : Nat) (incr : Bool) : (xferAddrs a n incr).length = n := by simp [xferAddrs]

theorem State.xferRead_stream (s : State) {a n : Nat} {incr : Bool} (ha : a < 0x10000) (hrange : incr = true → a + n ≤ 0x10000) (hn : 0 < n) :
    s.xferRead 2 a n incr = s.streamOut n := by
  have hdrop : (xferAddrs a n incr).drop n = [] := List.drop_eq_nil_of_le (xferAddrs_length a n incr).le
  simp only [State.xferRead, streamPart_of_stream ha hrange, if_neg hn.ne', hdrop, State.fnRead, List.foldl_nil]
  rw [State.collide_of_untouched (State.touches_of_register _ (fun h => absurd h (by decide)) n incr)]
  exact Prod.ext (List.append_nil _) rfl

theorem State.xferWrite_stream (s : State) {a : Nat} {d : List Byte} {incr : Bool} (ha : a < 0x10000)
    (hrange : incr = true → a + d.length ≤ 0x10000) (hd : 0 < d.length) : s.xferWrite 2 a d incr = s.streamIn d := by
  have hdrop : ((xferAddrs a d.length incr).zip d).drop d.length = [] := List.drop_eq_nil_of_le (by simp)
  simp only [State.xferWrite, streamPart_of_stream ha hrange, if_neg hd.ne', hdrop, List.foldl_nil, List.take_length]
  rw [State.collWrite_of_untouched (State.touches_of_register _ (fun h => absurd h (by decide)) _ incr)]

end Sys2Proof.Machine
end

section
/-! PROOFS. Transfers of CMD53 through the aperture and the stream (R366, R372, R377, R380, R400, R401, R413). -/

namespace Sys2Proof.Machine

theorem bits_lt (n lo w : Nat) : bits n lo w < 2 ^ w := Nat.mod_lt _ (Nat.two_pow_pos w)

/-! ## The stream port -/

/-- Bytes that the current inbound transfer still expects after them. -/
theorem State.streamIn_of_more {s : State} {x : Xfer} {q : List Xfer} {d : List Byte} (hq : s.mail.inq = x :: q) (hd : d.length < x.left) :
    s.streamIn d = { s with mail := { s.mail with inq := ⟨x.cmd, x.left - d.length, x.data ++ d⟩ :: q } } := by
  simp only [State.streamIn, hq, min_eq_right hd.le, lt_irrefl, if_false, List.take_length]
  exact if_neg (by omega)

theorem State.outAvail_of_cons {s : State} {x : Xfer} {q : List Xfer} (hq : s.mail.outq = x :: q) : s.outAvail = min x.left 65536 := by
  simp [State.outAvail, hq]

/-- A read that leaves bytes of the current outbound transfer. -/
theorem State.streamOut_of_more {s : State} {x : Xfer} {q : List Xfer} {n : Nat} (hq : s.mail.outq = x :: q) (hn : n < x.left) (hn' : n < 65536) :
    s.streamOut n = (padTo n (x.data.take n), { s with mail := { s.mail with outq := ⟨x.cmd, x.left - n, x.data.drop n⟩ :: q } }) := by
  have havail : n < min x.left 65536 := lt_min hn hn'
  have hleft : ¬(0 < x.left ∧ x.left - n = 0) := by omega
  simp only [State.streamOut, hq, State.outAvail_of_cons hq, min_eq_right havail.le, lt_irrefl, if_neg hleft, if_neg havail.ne, if_false]

/-- A read of the last bytes of the current outbound transfer answers its command. -/
theorem State.streamOut_of_last {s : State} {x : Xfer} {q : List Xfer} {n : Nat} (hq : s.mail.outq = x :: q) (hn : n = x.left) (hpos : 0 < n)
    (hn' : n < 65536) :
    s.streamOut n = (padTo n (x.data.take n), (({ s with mail := { s.mail with outq := [] } }).setOutq q).finish x.cmd 0 []) := by
  have havail : min x.left 65536 = n := by omega
  have hleft : 0 < x.left ∧ x.left - n = 0 := by omega
  simp only [State.streamOut, hq, State.outAvail_of_cons hq, havail, min_self, lt_irrefl, if_pos hleft, if_true, if_false]

theorem State.streamOut_of_none {s : State} {n : Nat} (hq : s.mail.outq = []) (hpos : 0 < n) :
    s.streamOut n = (List.replicate n 0, s.setF2 3) := by
  simp only [State.streamOut, hq, if_neg hpos.ne']

/-! ## What every read of the stream port keeps -/

theorem padTo_length (n : Nat) (l : List Byte) : (padTo n l).length = n := by simp [padTo]

theorem State.streamOut_length (s : State) (n : Nat) : (s.streamOut n).1.length = n := by
  unfold State.streamOut
  split
  · exact List.length_replicate
  · exact padTo_length n _

theorem State.setF2_under (s : State) (b : Nat) : (s.setF2 b).sdio.under = s.sdio.under := rfl

theorem State.setOutq_under (s : State) (q : List Xfer) : (s.setOutq q).sdio.under = s.sdio.under :=
  (s.setOutq_cases q).elim (congrArg fun u : State => u.sdio.under) (congrArg fun u : State => u.sdio.under)

theorem State.finish_under (s : State) (id status : Nat) (res : List Byte) : (s.finish id status res).sdio.under = s.sdio.under := by
  unfold State.finish
  split
  · rw [State.setOutq_under, State.queueReply_sdio]
  · rfl

/-- The CMD53 under way stays what it was. -/
theorem State.streamOut_under (s : State) (n : Nat) : (s.streamOut n).2.sdio.under = s.sdio.under := by
  unfold State.streamOut
  split
  · split_ifs <;> rfl
  · simp only
    split_ifs
    all_goals simp only [State.finish_under, State.setOutq_under, State.setF2_under]

/-! ## Refusals (R377) -/

/-- t differs from s at most in the interface and the registers. -/
structure State.OnlyCard (s t : State) : Prop where
  frame : { t with sdio := s.sdio, regs := s.regs } = s

theorem State.OnlyCard.trans {s t u : State} (h : s.OnlyCard t) (g : t.OnlyCard u) : s.OnlyCard u := ⟨by rw [← h.frame, ← g.frame]⟩
theorem State.setF_onlyCard (s : State) (base : Nat) (f : Fld) (v : Nat) : s.OnlyCard (s.setF base f v) := ⟨rfl⟩
theorem State.OnlySdio.onlyCard {s t : State} (h : s.OnlySdio t) : s.OnlyCard t := ⟨by rw [← h.frame]⟩

theorem State.pghRefuse_onlyCard (s : State) (m off wr : Nat) : s.OnlyCard (s.pghRefuse m off wr) := by
  have hfirst (c : Prop) [Decidable c] : s.OnlyCard (if c then ((s.setF pghBase F.PGH_PROT_ADDR_OFFSET off).setF pghBase F.PGH_PROT_ADDR_MASTER m).setF
      pghBase F.PGH_PROT_ADDR_WRITE wr else s) := by
    split
    · exact ((s.setF_onlyCard _ _ _).trans (State.setF_onlyCard _ _ _ _)).trans (State.setF_onlyCard _ _ _ _)
    · exact (State.OnlySdio.refl s).onlyCard
  have hstat := (hfirst (s.getF pghBase F.PGH_PROT_STAT_REFUSED = 0)).trans
    (State.setF_onlyCard _ pghBase F.PGH_PROT_STAT_REFUSED (s.getF pghBase F.PGH_PROT_STAT_REFUSED ||| 2 ^ m))
  unfold State.pghRefuse
  split
  · exact hstat.trans (State.setInt_onlySdio _ 3).onlyCard
  · exact hstat

/-- The bit of the master is set in REFUSED. -/
theorem State.pghRefuse_refused (s : State) {m : Nat} (off wr : Nat) (hm : m < F.PGH_PROT_STAT_REFUSED.width) :
    ((s.pghRefuse m off wr).getF pghBase F.PGH_PROT_STAT_REFUSED).testBit m = true := by
  have hset (u : State) (v : Nat) : ((u.setF pghBase F.PGH_PROT_STAT_REFUSED (v ||| 2 ^ m)).getF pghBase F.PGH_PROT_STAT_REFUSED).testBit m = true := by
    rw [u.getF_setF_self _ _ _ (by decide), Nat.testBit_mod_two_pow, decide_eq_true hm, Bool.true_and, Nat.testBit_or, Nat.testBit_two_pow_self,
      Bool.or_true]
  unfold State.pghRefuse
  split_ifs
  all_goals exact hset _ _

theorem State.pghRefuse_engine_prot (s : State) (off wr : Nat) : (s.pghRefuse 1 off wr).sdio.intStat.testBit 3 = true := by
  have hint (u : State) : (u.setInt 3).sdio.intStat.testBit 3 = true := by
    rw [State.setInt, Nat.testBit_or, Nat.testBit_two_pow_self, Bool.or_true]
  unfold State.pghRefuse
  exact hint _

/-- CMD52 writes one byte of the aperture that the engine's regions refuse. -/
theorem cmd52_write_refused {s : State} {arg : Nat} (hfn : bits arg 28 3 = 1) (hwr : arg.testBit 31 = true) (hraw : arg.testBit 27 = false)
    (ha : bits arg 9 17 < 0x10000) (hon : s.pdOn 2 = true) (hmay : s.pghMay 1 (s.aperOff (bits arg 9 17)) 29 = false)
    (hidle : s.sdio.cmdDb = s.sdio.cmdCi) :
    cmd52 s arg = ((s.pghRefuse 1 (s.aperOff (bits arg 9 17)) 1).bsSettle s.sdio).cardSays [BitVec.ofNat 8 arg] := by
  simp only [cmd52, hfn, hwr, hraw, Nat.reduceLT, if_false, if_true, Bool.false_eq_true]
  rw [State.xferWrite_refused ha hon hmay hidle]

/-- A block read of the stream port that the host cuts short (log entry 91). -/
theorem cmd53_read_blocks_of_cut {s : State} {arg c k : Nat} {data : List Byte} (bad : List Nat) (hfn : bits arg 28 3 = 2) (hrd : arg.testBit 31 = false)
    (hblk : arg.testBit 27 = true) (hfix : arg.testBit 26 = false) (ha : bits arg 9 17 < 0x10000) (hc : c = bits arg 0 9) (hbs : 0 < s.sdio.bs2)
    (hk : k = data.length / s.sdio.bs2) (hpos : 0 < k) (hkc : k < c) :
    cmd53 s arg data bad = ((({ s with sdio := { s.sdio with under := some 2 } }).streamOut (k * s.sdio.bs2)).2.cardSays
      (({ s with sdio := { s.sdio with under := some 2 } }).streamOut (k * s.sdio.bs2)).1).addF sdiBase F.SDI_XFER_BLOCKS k := by
  have hc0 : c ≠ 0 := by omega
  have hsize : s.blockSize 2 = s.sdio.bs2 := rfl
  simp only [cmd53, hfn, hrd, hblk, hfix, ← hc, hsize, ← hk, if_true, if_neg hc0, Bool.false_eq_true, if_false, true_and, if_pos hpos,
    min_eq_left hkc.le]
  rw [if_neg (by decide), if_neg (by simp), if_pos (Or.inr hkc), State.xferRead_stream _ ha (by simp) (Nat.mul_pos hpos hbs)]

theorem State.cardSays_getF (s : State) (d : List Byte) (base : Nat) (f : Fld) : (s.cardSays d).getF base f = s.getF base f := rfl
theorem State.bsSettle_getF (s : State) (x : Sdio) (base : Nat) (f : Fld) : (s.bsSettle x).getF base f = s.getF base f := rfl

/-- A field is read from the registers alone. -/
theorem State.getF_of_regs {s t : State} (h : t.regs = s.regs) (base : Nat) (f : Fld) : t.getF base f = s.getF base f := by
  rw [State.getF, State.reg, h]
  rfl

/-- What a block counted in field f leaves of it. -/
theorem State.getF_of_block {s u : State} (h : u.regs = s.regs) (x : Sdio) (d : List Byte) (base : Nat) (f : Fld) (hf : f.lo + f.width ≤ 32) :
    (((u.addF base f 1).bsSettle x).cardSays d).getF base f = satCount f.width (s.getF base f) 1 := by
  rw [State.cardSays_getF, State.bsSettle_getF, State.getF_addF_self _ _ _ _ hf, State.getF_of_regs h]

theorem exec_cmd52 {s t : State} {arg : Nat} (hears : s.cardHears = true) (hbus : s.sdio.bus = 3) (h : cmd52 s arg = t) :
    exec (.cmd52 ⟨arg, false⟩) s = .next t := exec_eq_next ((State.onWire_of_heard hears (List.mem_singleton.2 hbus) arg cmd52).trans h)

theorem exec_cmd53 {s t : State} {arg : Nat} {data : List Byte} {bad : List Nat} (hears : s.cardHears = true) (hbus : s.sdio.bus = 3)
    (h : cmd53 s arg data bad = t) : exec (.cmd53 ⟨arg, false⟩ ⟨data, bad⟩) s = .next t :=
  exec_eq_next ((State.onWire_of_heard hears (List.mem_singleton.2 hbus) arg fun t a => cmd53 t a data bad).trans h)

/-! ## CMD53 at the stream port -/

/-- An answer and a count of blocks touch the interface and the registers alone. -/
structure State.AnsweredBy (u t : State) (d : List Byte) : Prop where
  resp : t.sdio.resp = d
  f2Stat : t.sdio.f2Stat = u.sdio.f2Stat
  mail : t.mail = u.mail
  mem : t.mem = u.mem
  under : t.sdio.under = u.sdio.under
  frame : ∀ (x : Sdio) (r : SMap Word), { t with sdio := x, regs := r } = { u with sdio := x, regs := r }

theorem State.answeredBy_read (u : State) (d : List Byte) (base : Nat) (f : Fld) (k : Nat) : u.AnsweredBy ((u.cardSays d).addF base f k) d :=
  ⟨rfl, rfl, rfl, rfl, rfl, fun _ _ => rfl⟩

theorem State.answeredBy_write (u : State) (x : Sdio) (d : List Byte) (base : Nat) (f : Fld) (k : Nat) :
    u.AnsweredBy (((u.addF base f k).bsSettle x).cardSays d) d :=
  ⟨rfl, rfl, rfl, rfl, rfl, fun _ _ => rfl⟩

section
variable {s : State} {arg n : Nat} {data : List Byte} {bad : List Nat} {x : Xfer} {q : List Xfer} {c : Taken}
  (hears : s.cardHears = true) (hbus : s.sdio.bus = 3) (hfn : bits arg 28 3 = 2) (hbyte : arg.testBit 27 = false) (ha : bits arg 9 17 = 0)
  (hn : n = bits arg 0 9) (hpos : 0 < n)
include hn

theorem stream_in_range : arg.testBit 26 = true → 0 + n ≤ 0x10000 := fun _ => by
  have := bits_lt arg 0 9
  omega

theorem stream_count_lt : n < 65536 := by
  have := bits_lt arg 0 9
  omega

include hfn hbyte ha hpos

/-- A read of the stream port as one transfer. -/
theorem cmd53_read_stream (hrd : arg.testBit 31 = false) : cmd53 s arg data bad =
    (((({ s with sdio := { s.sdio with under := none } }).streamOut n).2).cardSays
      ((({ s with sdio := { s.sdio with under := none } }).streamOut n).1)).addF sdiBase F.SDI_XFER_BLOCKS 1 := by
  rw [cmd53_read_bytes hfn le_rfl ha hn.symm hpos hbyte (stream_in_range hn) hrd, State.xferRead_stream _ (by decide) (stream_in_range hn) hpos]

include hears hbus

theorem exec_cmd53_streamIn (hwr : arg.testBit 31 = true) (hq : s.mail.inq = x :: q) (hmore : n < x.left) (hlen : n ≤ data.length) (hgood : 0 ∉ bad) :
    ∃ t, exec (.cmd53 ⟨arg, false⟩ ⟨data, bad⟩) s = .next t ∧ t.mail.inq = ⟨x.cmd, x.left - n, x.data ++ data.take n⟩ :: q
      ∧ t.mail.replies = s.mail.replies ∧ t.mem = s.mem ∧ { t with sdio := s.sdio, mail := s.mail, regs := s.regs } = s := by
  have hlen' : (data.take n).length = n := List.length_take_of_le hlen
  have hrange := stream_in_range hn
  have hcmd := cmd53_write_of_enough (s := s) (bad := bad) hfn le_rfl ha hn.symm hpos hbyte hrange hwr hlen
  obtain ⟨u, hu, hinq, hreplies, hmem, hframe⟩ : ∃ u, State.streamIn { s with sdio := { s.sdio with under := none } } (data.take n) = u
      ∧ u.mail.inq = ⟨x.cmd, x.left - n, x.data ++ data.take n⟩ :: q ∧ u.mail.replies = s.mail.replies ∧ u.mem = s.mem
      ∧ { u with sdio := s.sdio, mail := s.mail } = s := by
    refine ⟨_, State.streamIn_of_more (s := { s with sdio := { s.sdio with under := none } }) hq (by rwa [hlen']), ?_, rfl, rfl, rfl⟩
    simp only [hlen']
  rw [State.putBlock_of_good _ _ _ _ _ _ hgood, State.xferWrite_stream _ (by decide) (by rwa [hlen']) (by rwa [hlen']), hu] at hcmd
  have hwrite := u.answeredBy_write s.sdio [] sdiBase F.SDI_XFER_BLOCKS 1
  exact ⟨_, exec_cmd53 hears hbus hcmd, by rw [hwrite.mail, hinq], by rw [hwrite.mail, hreplies], hwrite.mem.trans hmem,
    (congrArg (fun t : State => { t with mail := s.mail }) (hwrite.frame _ _)).trans (congrArg (fun t : State => { t with regs := s.regs }) hframe)⟩

theorem exec_cmd53_streamOut (hrd : arg.testBit 31 = false) (hq : s.mail.outq = x :: q) (hmore : n < x.left) :
    ∃ t, exec (.cmd53 ⟨arg, false⟩ ⟨data, bad⟩) s = .next t ∧ t.sdio.resp = padTo n (x.data.take n)
      ∧ t.mail.outq = ⟨x.cmd, x.left - n, x.data.drop n⟩ :: q ∧ t.mail.replies = s.mail.replies
      ∧ { t with sdio := s.sdio, mail := s.mail, regs := s.regs } = s := by
  have hcmd := cmd53_read_stream (s := s) (data := data) (bad := bad) hfn hbyte ha hn hpos hrd
  obtain ⟨u, hu, houtq, hreplies, hframe⟩ : ∃ u, State.streamOut { s with sdio := { s.sdio with under := none } } n = (padTo n (x.data.take n), u)
      ∧ u.mail.outq = ⟨x.cmd, x.left - n, x.data.drop n⟩ :: q ∧ u.mail.replies = s.mail.replies ∧ { u with sdio := s.sdio, mail := s.mail } = s :=
    ⟨_, State.streamOut_of_more (s := { s with sdio := { s.sdio with under := none } }) hq hmore (stream_count_lt hn), rfl, rfl, rfl⟩
  rw [hu] at hcmd
  have hread := u.answeredBy_read (padTo n (x.data.take n)) sdiBase F.SDI_XFER_BLOCKS 1
  exact ⟨_, exec_cmd53 hears hbus hcmd, hread.resp, by rw [hread.mail, houtq], by rw [hread.mail, hreplies],
    (congrArg (fun t : State => { t with mail := s.mail }) (hread.frame _ _)).trans (congrArg (fun t : State => { t with regs := s.regs }) hframe)⟩

/-- The last bytes of a transfer bring its command's final reply. -/
theorem exec_cmd53_streamOut_last (hrd : arg.testBit 31 = false) (hq : s.mail.outq = x :: q) (hlast : n = x.left) (hcmd : s.takenBy x.cmd = some c) :
    ∃ t, exec (.cmd53 ⟨arg, false⟩ ⟨data, bad⟩) s = .next t ∧ t.sdio.resp = padTo n (x.data.take n) ∧ (∀ y ∈ t.mail.taken, y.id ≠ x.cmd)
      ∧ t.mail.replies = s.mail.replies ++ [replyBytes s.replyVer c.op c.tag c.seq 0 []] ∧ t.mem = s.mem := by
  have hdone := cmd53_read_stream (s := s) (data := data) (bad := bad) hfn hbyte ha hn hpos hrd
  rw [State.streamOut_of_last (s := { s with sdio := { s.sdio with under := none } }) hq hlast hpos (stream_count_lt hn)] at hdone
  have hmail := State.setOutq_mail { s with sdio := { s.sdio with under := none }, mail := { s.mail with outq := [] } } q
  have hmem := congrArg State.mem
    (State.setOutq_only_mailbox { s with sdio := { s.sdio with under := none }, mail := { s.mail with outq := [] } } q s.sdio s.mail)
  obtain ⟨u, hu⟩ : ∃ u, State.setOutq { s with sdio := { s.sdio with under := none }, mail := { s.mail with outq := [] } } q = u := ⟨_, rfl⟩
  rw [hu] at hdone hmail hmem
  have hfind : u.takenBy x.cmd = some c := by rw [State.takenBy, hmail]; exact hcmd
  have hver : u.replyVer = s.replyVer := by rw [State.replyVer, hmail]; rfl
  have hread := (u.finish x.cmd 0 []).answeredBy_read (padTo n (x.data.take n)) sdiBase F.SDI_XFER_BLOCKS 1
  refine ⟨_, exec_cmd53 hears hbus hdone, hread.resp, ?_⟩
  rw [hread.mail, hread.mem, State.finish_taken 0 [] hfind, State.finish_replies 0 [] hfind, hver, hmail]
  refine ⟨fun y hy => by simpa using (List.mem_filter.1 hy).2, rfl, ?_⟩
  exact (congrArg State.mem (u.finish_only_mailbox x.cmd 0 [] s.sdio s.mail)).trans hmem

theorem exec_cmd53_underrun (hrd : arg.testBit 31 = false) (hq : s.mail.outq = []) :
    ∃ t, exec (.cmd53 ⟨arg, false⟩ ⟨data, bad⟩) s = .next t ∧ t.sdio.resp = List.replicate n 0 ∧ t.sdio.f2Stat = s.sdio.f2Stat ||| 8
      ∧ { t with sdio := s.sdio, regs := s.regs } = s := by
  have hcmd := cmd53_read_stream (s := s) (data := data) (bad := bad) hfn hbyte ha hn hpos hrd
  obtain ⟨u, hu, hstat, hframe⟩ : ∃ u, State.streamOut { s with sdio := { s.sdio with under := none } } n = (List.replicate n 0, u)
      ∧ u.sdio.f2Stat = s.sdio.f2Stat ||| 8 ∧ { u with sdio := s.sdio } = s := ⟨_, State.streamOut_of_none (s := { s with sdio := { s.sdio with under := none } }) hq hpos, rfl, rfl⟩
  rw [hu] at hcmd
  have hread := u.answeredBy_read (List.replicate n 0) sdiBase F.SDI_XFER_BLOCKS 1
  exact ⟨_, exec_cmd53 hears hbus hcmd, hread.resp, by rw [hread.f2Stat, hstat],
    (hread.frame _ _).trans (congrArg (fun t : State => { t with regs := s.regs }) hframe)⟩

end

/-- Settles O37. -/
theorem sdioTransfers : Obligations.SdioTransfers := by
  unfold Obligations.SdioTransfers
  refine ⟨fun s arg a n data bad hears hbus hfn hwr hbyte hincr ha hn hpos hrange hon hview hmay hidle hlen hgood => ?aperWrite,
    fun s arg n data bad hears hbus hdev hwr hbyte hincr hrange hn hpos => ⟨fun hlen hbad => ?badBlock, fun hlen => ?short⟩,
    fun s arg a n data bad hears hbus hfn hrd hbyte hincr ha hn hpos hrange hon hview hmay hidle => ?aperRead,
    fun s arg c k data bad hears hbus hfn hrd hblk hfix ha hc hbs hk hpos hkc => ?cut,
    fun s arg a hears hbus hfn hwr hraw ha hlt hon hmay hidle => ?refused,
    fun s arg n data bad x q hears hbus hfn hwr hbyte ha hn hpos hq hmore hlen hgood => ?streamIn,
    fun s arg n data bad x q hears hbus hfn hrd hbyte ha hn hpos hq hmore => ?streamOut,
    fun s arg n data bad x q c hears hbus hfn hrd hbyte ha hn hpos hq hlast hcmd => ?last,
    fun s arg n data bad hears hbus hfn hrd hbyte ha hn hpos hq => ?underrun⟩
  case aperWrite =>
    have hlen' : (data.take n).length = n := List.length_take_of_le hlen
    have hwrite := cmd53_write_of_enough (s := s) (bad := bad) hfn (by decide) ha.symm hn.symm hpos hbyte (fun _ => hrange) hwr hlen
    obtain ⟨u, hu, hregs, hunder, hpigeon, hmem, hframe⟩ : ∃ u, State.xferWrite { s with sdio := { s.sdio with under := none } } 1 a (data.take n) true = u
        ∧ u.regs = s.regs ∧ u.sdio.under = none
        ∧ u.mem.pigeon = (List.range n).foldl (fun m i => Mem.wr m (s.aperOff (a + i)) ((data.take n).getD i 0)) s.mem.pigeon
        ∧ { u.mem with pigeon := s.mem.pigeon } = s.mem ∧ { u with mem := s.mem, sdio := s.sdio } = s := by
      refine ⟨_, State.xferWrite_aperture (s := { s with sdio := { s.sdio with under := none } }) (by rwa [hlen']) hon hview (by rwa [hlen']) hidle,
        rfl, rfl, ?_, rfl, rfl⟩
      simp only [hlen']
      rfl
    rw [State.putBlock_of_good _ _ _ _ _ _ hgood, hincr, hu] at hwrite
    have hdone := u.answeredBy_write s.sdio [] sdiBase F.SDI_XFER_BLOCKS 1
    refine ⟨_, exec_cmd53 hears hbus hwrite, hdone.resp, rfl, by rw [hdone.under, hunder], State.getF_of_block hregs _ _ _ _ (by decide),
      fun i hi => ?_, fun o ho => ?_, by rw [hdone.mem, hmem], ?_⟩
    · rw [hdone.mem, hpigeon]
      refine (Mem.rd_foldl_wr_of_mem (List.range n) (fun i => s.aperOff (a + i)) (fun i => (data.take n).getD i 0) _
        (s.aperOff_injOn (by omega)) (List.mem_range.2 hi)).trans ?_
      simp [List.getD, hi]
    · rw [hdone.mem, hpigeon]
      exact Mem.rd_foldl_wr_of_not_mem (List.range n) (fun i => s.aperOff (a + i)) (fun i => (data.take n).getD i 0) _
        fun i hi => (ho i (List.mem_range.1 hi)).symm
    · exact (congrArg (fun t : State => { t with mem := s.mem }) (hdone.frame _ _)).trans (congrArg (fun t : State => { t with regs := s.regs }) hframe)
  case badBlock =>
    have hwrite := cmd53_write_of_enough (s := s) (bad := bad) rfl hdev rfl hn.symm hpos hbyte (fun _ => hrange) hwr hlen
    rw [State.putBlock_of_bad _ _ _ _ _ _ hbad] at hwrite
    exact ⟨_, exec_cmd53 hears hbus hwrite, rfl, State.getF_of_block rfl _ _ _ _ (by decide), (State.answeredBy_write _ _ _ _ _ _).frame _ _⟩
  case short =>
    exact ⟨_, exec_cmd53 hears hbus
      (cmd53_write_of_short rfl hdev rfl hn.symm hpos hbyte (fun _ => hrange) hwr hlen), rfl, rfl, rfl⟩
  case aperRead =>
    have hread := cmd53_read_bytes (s := s) (data := data) (bad := bad) hfn (by decide) ha.symm hn.symm hpos hbyte (fun _ => hrange) hrd
    rw [hincr, State.xferRead_aperture (s := { s with sdio := { s.sdio with under := none } }) hrange hon hview hmay hidle] at hread
    have hdone := State.answeredBy_read { s with sdio := { s.sdio with under := none } }
      ((List.range n).map fun (i : Nat) => Mem.rd s.mem.pigeon (s.aperOff (a + i))) sdiBase F.SDI_XFER_BLOCKS 1
    exact ⟨_, exec_cmd53 hears hbus hread, hdone.resp, rfl, hdone.under, hdone.frame _ _⟩
  case cut =>
    refine ⟨_, exec_cmd53 hears hbus
      (cmd53_read_blocks_of_cut bad hfn hrd hblk hfix ha hc hbs hk hpos hkc), State.streamOut_length _ _, ?_⟩
    exact State.streamOut_under _ _
  case refused =>
    have hwrite := cmd52_write_refused hfn hwr hraw (ha ▸ hlt) hon (ha ▸ hmay) hidle
    have hrefused := s.pghRefuse_refused (s.aperOff (bits arg 9 17)) 1 (m := 1) (by decide)
    have hprot := s.pghRefuse_engine_prot (s.aperOff (bits arg 9 17)) 1
    have honly := s.pghRefuse_onlyCard 1 (s.aperOff (bits arg 9 17)) 1
    obtain ⟨u, hu⟩ : ∃ u, s.pghRefuse 1 (s.aperOff (bits arg 9 17)) 1 = u := ⟨_, rfl⟩
    rw [hu] at hwrite hrefused hprot honly
    exact ⟨_, exec_cmd52 hears hbus hwrite, hrefused, hprot,
      ((honly.trans (State.bsSettle_onlySdio _ _).onlyCard).trans (State.cardSays_onlySdio _ _).onlyCard).frame⟩
  case streamIn => exact exec_cmd53_streamIn hears hbus hfn hbyte ha hn hpos hwr hq hmore hlen hgood
  case streamOut => exact exec_cmd53_streamOut hears hbus hfn hbyte ha hn hpos hrd hq hmore
  case last => exact exec_cmd53_streamOut_last hears hbus hfn hbyte ha hn hpos hrd hq hlast hcmd
  case underrun => exact exec_cmd53_underrun hears hbus hfn hbyte ha hn hpos hrd hq

end Sys2Proof.Machine
end

section
/-! PROOFS. The device's side of the rings: REPLY_WRITE and EVENT_APPEND (R377, R384, R386). -/

namespace Sys2Proof.Machine

/-! ## Bytes written in a row -/

theorem Mem.rdN_wrN (m : Mem) (a : Nat) (bs : List Byte) : Mem.rdN (Mem.wrN m a bs) a bs.length = bs := by
  refine List.ext_getElem (by simp [Mem.rdN]) fun i hi hi' => ?_
  simp [Mem.rdN, Mem.rd_wrN, hi']

theorem leBytes_length (k n : Nat) : (leBytes k n).length = k := by
  induction k generalizing n with
  | zero => rfl
  | succ k ih => rw [leBytes, List.length_cons, ih]

theorem EvPost.image_length (p : EvPost) : p.image.length = 16 := by simp [EvPost.image, leBytes_length]

/-! ## Replies that stand (R411; log entry 112) -/

theorem State.storesRun_of_idle {s : State} (h : s.storeBusy = false) (n : Nat) : s.storesRun n = s := by
  cases n with
  | zero => rfl
  | succ n => exact if_neg (by simp [h])

theorem State.sleepReply_of_replies {s : State} (h : s.mail.replies ≠ []) : s.sleepReply = s := by
  unfold State.sleepReply
  split
  · exact if_neg fun hc => h hc.2.2
  · rfl

theorem State.sleepReply_of_none {s : State} (h : s.takenOp 0x0303 = none) : s.sleepReply = s := by
  have hop := List.find?_eq_none.1 h
  unfold State.sleepReply
  split
  · next t ht => exact if_neg fun hc => absurd (hop t (by simp [ht])) (by simp [hc.1])
  · rfl

theorem State.replyReady_of_some {s : State} {k : Nat} {r : List Byte} (h : s.mail.replies[k]? = some r) : s.replyReady = s := by
  have hne : s.mail.replies ≠ [] := fun hnil => by simp [hnil] at h
  rw [State.replyReady, if_neg (by simpa using hne), State.sleepReply_of_replies hne]

theorem State.replyReady_of_idle {s : State} (hidle : s.storeBusy = false) (hsleep : s.takenOp 0x0303 = none) : s.replyReady = s := by
  rw [State.replyReady, State.storesRun_of_idle hidle, ite_self, State.sleepReply_of_none hsleep]

/-- The ring's slot at RPL_PI takes the reply. -/
theorem replyWrite_of_free {s : State} {k : Nat} {r : List Byte} (hr : s.mail.replies[k]? = some r) (hon : s.pdOn 2 = true)
    (hfree : (s.sdio.rplPi + 64 - s.sdio.rplDb) % 64 < 32) (hfirst : (s.mail.replies.take k).any (sameCmd r) = false) {u : State}
    (hu : s.pghPut 0 (0x2000 * (s.sdio.rplPi % 32) + 0x1000) r = u) :
    replyWrite s k = ({ u with sdio := { u.sdio with rplPi := (s.sdio.rplPi + 1) % 64 },
                               mail := { u.mail with replies := dropAt s.mail.replies k } }).setInt 0 := by
  simp only [replyWrite, State.replyReady_of_some hr, hr, hu]
  exact if_pos ⟨hon, hfree, hfirst⟩

/-! ## Refused bytes of Casec -/

/-- The protection regions are registers that a refusal does not write. -/
theorem State.pghRefuse_pghMay (s : State) (m off wr : Nat) {n : Nat} (hn : n < 8) (o dir : Nat) :
    (s.pghRefuse m off wr).pghMay n o dir = s.pghMay n o dir := by
  have hregion (r : Nat) (hr : r < 8) : (s.pghRefuse m off wr).pghRegion n r = s.pghRegion n r := by
    have hset (u : State) (f : Fld) (v : Nat) (hf : 0x100 ≤ f.off) : (u.setF pghBase f v).pghRegion n r = u.pghRegion n r :=
      u.reg_setF_of_ne pghBase v f (by omega)
    have hstat (u : State) (v : Nat) : (u.setF pghBase F.PGH_PROT_STAT_REFUSED v).pghRegion n r = u.pghRegion n r := hset u _ v (by decide)
    have hint (u : State) : (u.setInt 3).pghRegion n r = u.pghRegion n r := rfl
    unfold State.pghRefuse
    simp only [apply_ite (fun u : State => u.pghRegion n r), hint, hstat]
    rw [ite_self]
    split
    · rw [hset _ _ _ (by decide), hset _ _ _ (by decide), hset _ _ _ (by decide)]
    · rfl
  unfold State.pghMay
  rw [Bool.eq_iff_iff, List.any_eq_true, List.any_eq_true]
  refine exists_congr fun r => and_congr_right fun hr => ?_
  rw [hregion r (List.mem_range.1 hr)]

/-- Casec's refused writes leave REFUSED with its bit, and nothing but registers changed. -/
structure State.RefusedCasec (s t : State) : Prop where
  refused : (t.getF pghBase F.PGH_PROT_STAT_REFUSED).testBit 0 = true
  may : ∀ o dir, t.pghMay 0 o dir = s.pghMay 0 o dir
  frame : { t with regs := s.regs } = s

theorem State.pghRefuse_refusedCasec (s : State) (off wr : Nat) : s.RefusedCasec (s.pghRefuse 0 off wr) where
  refused := s.pghRefuse_refused off wr (by decide)
  may := s.pghRefuse_pghMay 0 off wr (by decide)
  frame := by
    have hcard := (s.pghRefuse_onlyCard 0 off wr).frame
    have hsdio : (s.pghRefuse 0 off wr).sdio = s.sdio := by
      unfold State.pghRefuse
      rw [if_neg (by decide), State.setF_sdio]
      split
      · rw [State.setF_sdio, State.setF_sdio, State.setF_sdio]
      · rfl
    rw [← hsdio] at hcard
    exact hcard

theorem State.RefusedCasec.trans {s t u : State} (h : s.RefusedCasec t) (g : t.RefusedCasec u) : s.RefusedCasec u :=
  ⟨g.refused, fun o dir => (g.may o dir).trans (h.may o dir), by rw [← h.frame, ← g.frame]⟩

/-- Every byte of the reply is refused. -/
theorem State.foldl_pghWrite_refused {s : State} {off : Nat → Nat} {b : Nat → Byte} {l : List Nat} (hne : l ≠ [])
    (hmay : ∀ i ∈ l, s.pghMay 0 (off i) 29 = false) : s.RefusedCasec (l.foldl (fun st i => st.pghWrite 0 0 (off i) (b i)) s) := by
  induction l generalizing s with
  | nil => exact absurd rfl hne
  | cons i l ih =>
    have hwrite : s.pghWrite 0 0 (off i) (b i) = s.pghRefuse 0 (off i) 1 := if_neg (by simp [hmay i List.mem_cons_self])
    have hfirst := s.pghRefuse_refusedCasec (off i) 1
    rw [List.foldl_cons, hwrite]
    rcases l.eq_nil_or_concat with rfl | _
    · exact hfirst
    · next hl =>
      exact hfirst.trans (ih (by rintro rfl; simp at hl) fun j hj => (hfirst.may _ _).trans (hmay j (List.mem_cons_of_mem _ hj)))

/-! ## Posts -/

/-- A write of Horizon's RAM that its protection allows. -/
theorem State.hznPut_of_may {s : State} {m off : Nat} (hon : s.pdOn 1 = true) (hmay : s.hznMay m off 29 = true) (d : List Byte) :
    s.hznPut m off d = { s with mem := { s.mem with hznRam := Mem.wrN s.mem.hznRam off d } } := by
  rw [State.hznPut, if_neg (by simp [hon]), if_pos hmay]

theorem eventAppend_of_room {s : State} {p : EvPost} {q : List EvPost} (hon : s.pdOn 1 = true)
    (hmay : s.hznMay 2 (0x7C00 + 16 * (s.sdio.evtPi % 64)) 29 = true) (hposts : s.mail.posts = p :: q)
    (hroom : (s.sdio.evtPi + 128 - s.sdio.evtDb) % 128 ≠ 64) : eventAppend s =
      { s with
        mail := { s.mail with posts := q }
        mem := { s.mem with hznRam := Mem.wrN s.mem.hznRam (0x7C00 + 16 * (s.sdio.evtPi % 64)) p.image }
        sdio := { s.sdio with evtPi := (s.sdio.evtPi + 1) % 128, intStat := s.sdio.intStat ||| 2 } } := by
  have hput : ({ s with mail := { s.mail with posts := q } } : State).hznPut 2 (0x7C00 + 16 * (s.sdio.evtPi % 64)) p.image
      = { s with mail := { s.mail with posts := q },
                 mem := { s.mem with hznRam := Mem.wrN s.mem.hznRam (0x7C00 + 16 * (s.sdio.evtPi % 64)) p.image } } :=
    State.hznPut_of_may (s := { s with mail := { s.mail with posts := q } }) hon hmay _
  simp only [eventAppend, hposts, hon, hput]
  rw [if_neg (by decide), if_neg hroom]
  rfl

/-- Settles O39. -/
theorem repliesAndEventsReachTheRings : Obligations.RepliesAndEventsReachTheRings := by
  unfold Obligations.RepliesAndEventsReachTheRings
  refine ⟨fun s k o r hr hon hfree hfirst ho hwhole => ?reply, fun s k o r hr hne hon hfree hfirst ho hmay hwhole => ?refused,
    fun s p q o hon hmay hposts hroom ho => ?event, fun s p q hon hposts hfull => ?lost,
    fun s k hnone hidle hsleep => exec_eq_next ?idle, fun s hoff => exec_eq_next ?off⟩
  case reply =>
    subst ho
    have hput : s.pghPut 0 (0x2000 * (s.sdio.rplPi % 32) + 0x1000) r
        = { s with mem := { s.mem with pigeon := Mem.wrN s.mem.pigeon (0x2000 * (s.sdio.rplPi % 32) + 0x1000) r } } := if_pos hwhole
    exact ⟨_, exec_eq_next (replyWrite_of_free hr hon hfree hfirst hput), Mem.rdN_wrN _ _ _, fun a ha => Mem.rd_wrN_of_outside _ _ _ _ ha,
      rfl, rfl, rfl, rfl⟩
  case refused =>
    subst ho
    have hput : s.RefusedCasec (s.pghPut 0 (0x2000 * (s.sdio.rplPi % 32) + 0x1000) r) := by
      rw [State.pghPut, if_neg (by simp [hwhole])]
      exact State.foldl_pghWrite_refused (by simpa using hne) fun i hi => hmay i (List.mem_range.1 hi)
    obtain ⟨u, hu⟩ : ∃ u, s.pghPut 0 (0x2000 * (s.sdio.rplPi % 32) + 0x1000) r = u := ⟨_, rfl⟩
    rw [hu] at hput
    have hsdio : u.sdio = s.sdio := (congrArg State.sdio hput.frame : _)
    have hmail : u.mail = s.mail := (congrArg State.mail hput.frame : _)
    refine ⟨_, exec_eq_next (replyWrite_of_free hr hon hfree hfirst hu), hput.refused, ?_, ?_, ?_⟩
    · rw [← hsdio]
      rfl
    · rw [← hmail]
      rfl
    · exact (congrArg (fun t : State => { t with sdio := s.sdio, mail := s.mail }) hput.frame : _)
  case event =>
    subst ho
    refine ⟨_, exec_eq_next (eventAppend_of_room hon hmay hposts hroom), ?_, fun a ha => ?_, rfl, rfl, rfl, rfl⟩
    · exact p.image_length ▸ Mem.rdN_wrN _ _ _
    · exact Mem.rd_wrN_of_outside _ _ _ _ (by rwa [p.image_length])
  case lost =>
    have hlost : eventAppend s = State.setInt { s with
        mail := { s.mail with posts := q }
        sdio := { s.sdio with evtLost := satCount 8 s.sdio.evtLost 1 } } 5 := by
      simp only [eventAppend, hposts, hon]
      exact (if_neg (by decide)).trans (if_pos hfull)
    exact ⟨_, exec_eq_next hlost, rfl, rfl, rfl⟩
  case idle =>
    simp only [replyWrite, State.replyReady_of_idle hidle hsleep, hnone, List.getElem?_nil]
  case off =>
    unfold eventAppend
    split
    · rfl
    · exact if_pos (by simp [hoff])

end Sys2Proof.Machine
end

section
/-! PROOFS. RESET_N, the soft reset and TRST_N (R525 to R527). -/

namespace Sys2Proof.Machine

/-- t differs from s at most in posts, the interface and the registers. -/
structure State.OnlyPosted (s t : State) : Prop where
  frame : { t with mail := { t.mail with posts := s.mail.posts }, sdio := s.sdio, regs := s.regs } = s

theorem State.OnlyPosted.refl (s : State) : s.OnlyPosted s := ⟨rfl⟩
theorem State.OnlyPosted.trans {s t u : State} (h : s.OnlyPosted t) (g : t.OnlyPosted u) : s.OnlyPosted u := ⟨by rw [← h.frame, ← g.frame]⟩

theorem State.setInt_onlyPosted (s : State) (b : Nat) : s.OnlyPosted (s.setInt b) := ⟨rfl⟩
theorem State.setF_onlyPosted (s : State) (base : Nat) (f : Fld) (v : Nat) : s.OnlyPosted (s.setF base f v) := ⟨rfl⟩

theorem State.postEvent_onlyPosted (s : State) (code source arg : Nat) (pm : Bool) : s.OnlyPosted (s.postEvent code source arg pm) := by
  unfold State.postEvent
  split
  · exact ⟨rfl⟩
  · exact .refl s

/-- What a mailbox reset leaves (R388). -/
theorem State.mailReset_eq (s : State) (close : Bool) : s.mailReset close = { s with
    sdio := { s.sdio with cmdDb := 0, cmdCi := 0, rplPi := 0, rplDb := 0, clash := [] }
    mail := { s.mail with
      taken := [], replies := [], inq := [], outq := []
      sess := if close then false else s.mail.sess
      ver := if close then 0 else s.mail.ver }
    job := { (if s.mail.taken.any (fun t => decide (t.op = 0x0501)) then s.noStaged else s).job with
      startCmd := none, stopCmd := none, drainCmd := none } } := by
  simp only [State.mailReset]
  split <;> rfl

/-- What a chip reset leaves, up to the event that it posts and the registers (R525). -/
theorem State.chipReset_leaves (s : State) : ∃ u : State, u.OnlyPosted s.chipReset ∧ u.chip = ⟨.boot, .off, false, 0⟩ ∧ u.on = 1
    ∧ u.pins = { s.pins with cadenceOut := false, alertN := true, mbxbsy := false } ∧ u.mail.sess = false ∧ u.img = []
    ∧ u.power = { Power.init s.power.strapBoot s.power.strapIo18 s.power.feedtag s.now with selfRef := true }
    ∧ u.mem.hbm = s.mem.hbm ∧ u.mem.wshadow = s.mem.wshadow ∧ u.mem.rows = [] ∧ u.mem.spd = [] ∧ u.pml.slots = s.pml.slots ∧ u.tap = s.tap
    ∧ u.mem.cirrus = s.mem.cirrus ∧ u.store.imgs = s.store.imgs ∧ u.store.active = s.store.active ∧ u.pml.words = s.pml.words := by
  have hpost (v : State) (c : Prop) [Decidable c] (a x : Nat) :
      v.OnlyPosted ((if c then v else (v.postEvent 0x1 2 a false).setInt 4).setF chipBase F.CHIP_RST_CAUSE_PREV_STATE x) := by
    refine State.OnlyPosted.trans ?_ (State.setF_onlyPosted _ _ _ _)
    split
    · exact .refl v
    · exact (v.postEvent_onlyPosted _ _ _ _).trans (State.setInt_onlyPosted _ _)
  simp only [State.chipReset]
  rw [State.mailReset_eq]
  exact ⟨_, hpost _ _ _ _, rfl, rfl, rfl, rfl, rfl, rfl, rfl, rfl, rfl, rfl, rfl, rfl, rfl, rfl, rfl, rfl⟩

/-- It records the state that it ends. -/
theorem State.chipReset_prevState (s : State) : s.chipReset.getF chipBase F.CHIP_RST_CAUSE_PREV_STATE = s.chip.st.code := by
  have hcode : s.chip.st.code < 2 ^ F.CHIP_RST_CAUSE_PREV_STATE.width := by cases s.chip.st <;> decide
  simp only [State.chipReset]
  rw [State.getF_setF_self _ _ _ _ (by decide), Nat.mod_eq_of_lt hcode]

/-- The end of a reset samples the straps (R527). -/
theorem State.chipRise_frame (s : State) (cause b i f : Nat) : { s.chipRise cause b i f with power := s.power, cad := s.cad, regs := s.regs } = s := rfl

theorem State.chipRise_power (s : State) (cause b i f : Nat) : (s.chipRise cause b i f).power
    = { s.power with strapBoot := b, strapIo18 := i, feedtag := f, bootAt := s.now, pulse := 0 } := rfl

theorem State.chipRise_cause (s : State) (cause b i f : Nat) (hc : cause < 2 ^ F.CHIP_RST_CAUSE_CAUSE.width) :
    (s.chipRise cause b i f).getF chipBase F.CHIP_RST_CAUSE_CAUSE = cause := by
  unfold State.chipRise
  rw [State.getF_setF_of_apart _ _ _ (by decide) (by decide), State.getF_setF_of_apart _ _ _ (by decide) (by decide),
    State.getF_setF_self _ _ _ _ (by decide), Nat.mod_eq_of_lt hc]

/-- Settles O29. -/
theorem chipResets : Obligations.ChipResets := by
  unfold Obligations.ChipResets
  refine ⟨fun s hn hst => ?low, fun s b i f hn hst => ?rise, fun s v hst hpulse hkey hsoft => exec_eq_next ?soft,
    fun s v hno => exec_eq_next ?nosoft, fun s hpulse => ?pulse, fun s b i f hpulse => ?pulseEnd, fun s => rfl⟩
  case low =>
    have hhigh : ¬(!s.pins.resetN) = true := by simp [hn]
    have hlow : exec .resetNLow s = .next { s.chipReset with pins := { s.chipReset.pins with resetN := false } } :=
      exec_eq_next ((if_neg hhigh).trans (if_neg hst))
    have hprev := s.chipReset_prevState
    obtain ⟨u, ⟨hu⟩, hchip, hon, hpins, hsess, himg, hpower, hhbm, hshadow, hrows, hspd, hslots, htap, -⟩ := s.chipReset_leaves
    generalize s.chipReset = t at *
    rw [← hu] at hchip hon hsess himg hpower hhbm hshadow hrows hspd hslots htap
    exact ⟨_, hlow, (congrArg Chip.st hchip : _), hon, rfl, hsess, himg, (congrArg Power.selfRef hpower : _), hhbm, hshadow, hrows, hspd, hprev,
      hslots, htap⟩
  case rise =>
    have hlow : ¬s.pins.resetN = true := by simp [hn]
    have hrise : exec (.resetNRise b i f) s = .next (({ s with pins := { s.pins with resetN := true } } : State).chipRise 1 (b % 4) (i % 2) (f % 16)) :=
      exec_eq_next ((if_neg hlow).trans (if_neg hst))
    have hcause := ({ s with pins := { s.pins with resetN := true } } : State).chipRise_cause 1 (b % 4) (i % 2) (f % 16) (by decide)
    have hframe := ({ s with pins := { s.pins with resetN := true } } : State).chipRise_frame 1 (b % 4) (i % 2) (f % 16)
    have hpower := ({ s with pins := { s.pins with resetN := true } } : State).chipRise_power 1 (b % 4) (i % 2) (f % 16)
    generalize ({ s with pins := { s.pins with resetN := true } } : State).chipRise 1 (b % 4) (i % 2) (f % 16) = t at *
    exact ⟨t, hrise, (congrArg State.pins hframe : _), hcause, by rw [hpower], by rw [hpower], by rw [hpower], by rw [hpower],
      (congrArg (fun u : State => { u with pins := s.pins }) hframe : _)⟩
  case soft =>
    have hon : ¬s.isIn [.off] = true := by simp [State.isIn, hst]
    exact (if_neg hon).trans (if_pos ⟨hkey, hsoft, hpulse⟩)
  case nosoft =>
    split
    · rfl
    · refine if_neg fun hc => ?_
      obtain hkey | hsoft := hno
      · exact hkey hc.1
      · exact absurd (hsoft.symm.trans hc.2.1) (by decide)
  case pulse =>
    have hstart : exec .softResetPulse s = .next { s.chipReset with power := { s.chipReset.power with pulse := 2 } } :=
      exec_eq_next (if_pos hpulse)
    obtain ⟨u, ⟨hu⟩, hchip, hon, hpins, hsess, himg, hpower, hhbm, hshadow, -, -, -, -⟩ := s.chipReset_leaves
    generalize s.chipReset = t at *
    rw [← hu] at hchip hon hpins hsess himg hhbm hshadow
    exact ⟨_, hstart, (congrArg Chip.st hchip : _), hon, rfl, hsess, himg, hhbm, hshadow, (congrArg Pins.resetN hpins : _)⟩
  case pulseEnd =>
    have hend : exec (.softResetPulseEnd b i f) s = .next (s.chipRise 2 (b % 4) (i % 2) (f % 16)) := exec_eq_next (if_pos hpulse)
    have hcause := s.chipRise_cause 2 (b % 4) (i % 2) (f % 16) (by decide)
    have hframe := s.chipRise_frame 2 (b % 4) (i % 2) (f % 16)
    have hpower := s.chipRise_power 2 (b % 4) (i % 2) (f % 16)
    generalize s.chipRise 2 (b % 4) (i % 2) (f % 16) = t at *
    exact ⟨t, hend, hcause, by rw [hpower], by rw [hpower], hframe⟩

end Sys2Proof.Machine
end

section
/-! SUPPORT. Messages that wait at Courier's hub, and frames of a port: what taking one leaves alone (R346, R353). -/

namespace Sys2Proof.Machine

theorem State.OnlyRecords.job {s t : State} (h : s.OnlyRecords t) : t.job = s.job := (congrArg State.job h.frame : _)
theorem State.OnlyRecords.cad {s t : State} (h : s.OnlyRecords t) : t.cad = s.cad := (congrArg State.cad h.frame : _)

/-- t differs from s at most in Courier's record and in the mesh. -/
structure State.OnlyCourier (s t : State) : Prop where
  frame : { t with cour := s.cour, mesh := s.mesh } = s

theorem State.OnlyCourier.refl (s : State) : s.OnlyCourier s := ⟨rfl⟩
theorem State.OnlyCourier.trans {s t u : State} (h : s.OnlyCourier t) (g : t.OnlyCourier u) : s.OnlyCourier u := ⟨by rw [← h.frame, ← g.frame]⟩
theorem State.OnlyCourier.regs {s t : State} (h : s.OnlyCourier t) : t.regs = s.regs := (congrArg State.regs h.frame : _)
theorem State.OnlyCourier.mem {s t : State} (h : s.OnlyCourier t) : t.mem = s.mem := (congrArg State.mem h.frame : _)
theorem State.OnlyCourier.job {s t : State} (h : s.OnlyCourier t) : t.job = s.job := (congrArg State.job h.frame : _)

theorem State.freeFlits_onlyCourier (s : State) (p : Nat) (m : CMsg) : s.OnlyCourier (s.freeFlits p m) := by
  unfold State.freeFlits
  split
  · exact ⟨rfl⟩
  · exact .refl s

theorem State.freeFlits_inbox (s : State) (p : Nat) (m : CMsg) : (s.freeFlits p m).cour.inbox = s.cour.inbox := by
  unfold State.freeFlits
  split <;> rfl

/-- A crossing of the mesh counts flits of its links. -/
theorem State.crossMesh_getD (s : State) (src dst lines : Nat) :
    s.OnlyCourier ((s.crossMesh src dst lines).getD s) ∧ ((s.crossMesh src dst lines).getD s).cour = s.cour := by
  unfold State.crossMesh
  split
  · exact ⟨.refl s, rfl⟩
  · exact ⟨⟨rfl⟩, rfl⟩

/-- A message that is taken leaves the hub and frees its flits (R347). -/
theorem State.takeInbox_leaves (s : State) (k : Nat) : s.OnlyCourier (s.takeInbox k) ∧ (s.takeInbox k).cour.inbox = dropAt s.cour.inbox k := by
  unfold State.takeInbox
  split
  case h_1 e he =>
    have hfreed (u : State) (c : Prop) [Decidable c] :
        u.OnlyCourier (if c then u else u.freeFlits e.1 e.2) ∧ (if c then u else u.freeFlits e.1 e.2).cour.inbox = u.cour.inbox := by
      split
      · exact ⟨.refl u, rfl⟩
      · exact ⟨u.freeFlits_onlyCourier _ _, u.freeFlits_inbox _ _⟩
    have hdrop : s.OnlyCourier { s with cour := { s.cour with inbox := dropAt s.cour.inbox k } } := ⟨rfl⟩
    dsimp only
    split
    · refine ⟨(hdrop.trans (hfreed _ _).1).trans (State.crossMesh_getD _ _ _ _).1, ?_⟩
      rw [(State.crossMesh_getD _ _ _ _).2, (hfreed _ _).2]
    · exact ⟨hdrop.trans (hfreed _ _).1, (hfreed _ _).2⟩
  case h_2 hnone =>
    have hdropAt {α : Type} (l : List α) (k : Nat) (h : l[k]? = none) : dropAt l k = l := by
      induction l generalizing k with
      | nil => rfl
      | cons x l ih =>
        cases k with
        | zero => simp at h
        | succ k => rw [dropAt, ih k (by simpa using h)]
    exact ⟨.refl s, (hdropAt _ _ hnone).symm⟩

/-! ## A frame leaves the registers below Courier alone -/

theorem curBase_le (p : Nat) : 0x10000000 ≤ curBase p := by
  unfold curBase
  omega

theorem State.addF_curBase_reg (s : State) (p : Nat) (f : Fld) (k : Nat) {a : Nat} (ha : a < 0x10000000) : (s.addF (curBase p) f k).reg a = s.reg a :=
  s.reg_setF_of_ne _ _ f (by have := curBase_le p; omega)

@[simp] theorem State.tally_reg (s : State) (ch k a : Nat) : (s.tally ch k).reg a = s.reg a := rfl

theorem State.received_reg (s : State) (p : Nat) (f : Flit) {a : Nat} (ha : a < 0x10000000) : (s.received p f).reg a = s.reg a := by
  have hfec : (s.flitFec p f).reg a = s.reg a := by
    unfold State.flitFec
    split
    · rfl
    · dsimp only
      split <;> rw [State.tally_reg, State.addF_curBase_reg _ _ _ _ ha, State.addF_curBase_reg _ _ _ _ ha]
  exact (rfl : (s.received p f).reg a = (s.flitFec p f).reg a).trans hfec

theorem State.pump_reg (s : State) (p : Nat) {a : Nat} (ha : a < 0x10000000) : (s.pump p).reg a = s.reg a := by
  rw [State.pump, State.addF_curBase_reg _ _ _ _ ha]
  rfl

theorem State.received_getF_low (s : State) (p : Nat) (f : Flit) {base : Nat} {g : Fld} (ha : base + g.off < 0x10000000) :
    (s.received p f).getF base g = s.getF base g := by rw [State.getF, s.received_reg p f ha, State.getF]

theorem State.pump_getF_low (s : State) (p : Nat) {base : Nat} {g : Fld} (ha : base + g.off < 0x10000000) :
    (s.pump p).getF base g = s.getF base g := by rw [State.getF, s.pump_reg p ha, State.getF]

end Sys2Proof.Machine
end

section
/-! PROOFS. CADENCE_OUT pulses, beacons and hand-offs (R304, R306, R354). -/

namespace Sys2Proof.Machine

/-- Numbers of slots are below 2^48. -/
theorem State.slotNo_lt (s : State) : s.slotNo < 2 ^ 48 := by
  have hlo : s.getF cadBase F.CAD_SLOT_LO_SLOT < 2 ^ 32 := s.getF_lt _ _
  have hhi : s.getF cadBase F.CAD_SLOT_HI_SLOT < 2 ^ 16 := s.getF_lt _ _
  unfold State.slotNo
  omega

/-- Slot numbers that differ have a difference (R306). -/
theorem toSigned_sub_ne_zero {a b : Nat} (ha : a < 2 ^ 48) (hb : b < 2 ^ 48) (h : a ≠ b) : toSigned 48 (a + 2 ^ 48 - b) ≠ 0 := by
  have hmod : (a + 2 ^ 48 - b) % 2 ^ 48 ≠ 0 := by omega
  unfold toSigned
  split_ifs <;> omega

/-- What a beacon of the watched port that names another slot leaves. -/
theorem State.takeBeacon_of_other {s : State} {p slot : Nat} (hlive : s.cadLive = true) (hrx : s.isF cadBase F.CAD_CTL_BEACON_RX = true)
    (hport : s.getF cadBase F.CAD_CTL_BEACON_PORT = p) {d : Int}
    (hd : d = toSigned 48 (slot + 2 ^ 48 - (if s.phase < 32768 then s.slotNo else (s.slotNo + 1) % 2 ^ 48))) (hne : d ≠ 0) :
    s.takeBeacon p slot = (((({ s with cad := { s.cad with resync := some d } }).flagF cadBase F.CAD_STAT_RESYNC).setF cadBase
      F.CAD_RESYNC_DELTA_DELTA (ofSigned 32 d)).chipEvent 3 (unitChip 2) 0x73) := by
  have hwatch : (s.cadLive && s.isF cadBase F.CAD_CTL_BEACON_RX && decide (s.getF cadBase F.CAD_CTL_BEACON_PORT = p)) = true := by
    simp [hlive, hrx, hport]
  unfold State.takeBeacon
  rw [if_pos hwatch]
  dsimp only
  rw [← hd, if_neg hne]

theorem State.isF_of_getF {s t : State} {base : Nat} {f : Fld} (h : t.getF base f = s.getF base f) : t.isF base f = s.isF base f := by
  rw [State.isF, h, State.isF]

/-- Cadence's clock in a state with the same registers of Cadence that differs in nothing that it depends on. -/
theorem State.cadence_of_same {s t : State} (hregs : ∀ f : Fld, cadBase + f.off < 0x10000000 → t.getF cadBase f = s.getF cadBase f)
    (hframe : { t with regs := s.regs, cour := s.cour, hzn := s.hzn } = s) :
    t.cadLive = s.cadLive ∧ t.slotNo = s.slotNo ∧ t.phase = s.phase ∧ t.cad = s.cad := by
  have hcad : t.cad = s.cad := (congrArg State.cad hframe : _)
  have hnow : t.now = s.now := (congrArg State.now hframe : _)
  have hlost : t.slotLost = s.slotLost := State.isF_of_getF (hregs _ (by decide))
  have hmean : t.meanPeriod = s.meanPeriod := by rw [State.meanPeriod, hcad, State.meanPeriod]
  refine ⟨(congrArg State.cadLive hframe : _), ?_, ?_, hcad⟩
  · rw [State.slotNo, hregs _ (by decide), hregs _ (by decide), State.slotNo]
  · rw [State.phase, hlost, hmean, hcad, hnow, State.phase]

theorem State.slotNo_of_regs {s t : State} (h : t.regs = s.regs) : t.slotNo = s.slotNo := by
  rw [State.slotNo, State.getF_of_regs h, State.getF_of_regs h, State.slotNo]

theorem leNat_lt (l : List Byte) : leNat l < 256 ^ l.length := by
  induction l with
  | nil => simp [leNat]
  | cons b l ih =>
    have := b.isLt
    rw [leNat, List.length_cons, Nat.pow_succ]
    omega

theorem leAt_lt (l : List Byte) (i w : Nat) : leAt l i w < 256 ^ w :=
  Nat.lt_of_lt_of_le (leNat_lt _) (Nat.pow_le_pow_right (by decide) (List.length_take_le _ _))

/-- A hand-off that its slot still takes (R354). -/
theorem State.takeHandoff_of_open {s : State} {m : CMsg} {fired : Bool} (hrx : s.isF curShBase F.CUR_HANDOFF_RX_EN = true)
    (hahead : (m.addr % 2 ^ 48 + 2 ^ 48 - s.slotNo) % 2 ^ 48 ≤ 16) (hfired : (m.addr % 2 ^ 48 + 2 ^ 48 - s.slotNo) % 2 ^ 48 = 0 → fired = false)
    (hfree : ∀ e ∈ s.job.handoffs, e.1 ≠ m.addr % 2 ^ 48) : s.takeHandoff m fired
      = { s with job := { s.job with handoffs := s.job.handoffs ++ [(m.addr % 2 ^ 48, (m.attr % 4, padTo 64 m.data))] } } := by
  have hnone : s.job.handoffs.any (fun e => decide (e.1 = m.addr % 2 ^ 48)) = false := List.any_eq_false.2 fun e he => by simpa using hfree e he
  have hopen : (decide ((m.addr % 2 ^ 48 + 2 ^ 48 - s.slotNo) % 2 ^ 48 = 0) && fired) = false := by
    by_cases h0 : (m.addr % 2 ^ 48 + 2 ^ 48 - s.slotNo) % 2 ^ 48 = 0
    · rw [hfired h0, Bool.and_false]
    · rw [decide_eq_false h0, Bool.false_and]
  unfold State.takeHandoff
  dsimp only
  rw [hrx, hnone, hopen, decide_eq_true hahead]
  rfl

/-- A hand-off that no slot takes is discarded (R354; log entry 115). -/
theorem State.takeHandoff_of_stale {s : State} {m : CMsg} {fired : Bool} (h : s.isF curShBase F.CUR_HANDOFF_RX_EN = false
      ∨ 16 < (m.addr % 2 ^ 48 + 2 ^ 48 - s.slotNo) % 2 ^ 48 ∨ ((m.addr % 2 ^ 48 + 2 ^ 48 - s.slotNo) % 2 ^ 48 = 0 ∧ fired = true)
      ∨ ∃ e ∈ s.job.handoffs, e.1 = m.addr % 2 ^ 48) :
    s.takeHandoff m fired = (s.flagF curShBase F.CUR_ERR_HANDOFF_STALE).chipEvent 3 (unitDev m.src) 0x87 := by
  refine if_neg fun hc => ?_
  obtain ⟨hc, hfree⟩ := Bool.and_eq_true_iff.1 hc
  obtain ⟨hrx, hc⟩ := Bool.and_eq_true_iff.1 hc
  obtain ⟨hle, hopen⟩ := Bool.and_eq_true_iff.1 hc
  obtain h | h | ⟨h0, hf⟩ | ⟨e, he, hk⟩ := h
  · exact absurd (h.symm.trans hrx) (by decide)
  · exact absurd (of_decide_eq_true hle) (Nat.not_le.2 h)
  · rw [decide_eq_true h0, hf] at hopen
    exact absurd hopen (by decide)
  · rw [List.any_eq_true.2 ⟨e, he, decide_eq_true hk⟩] at hfree
    exact absurd hfree (by decide)

/-- Settles O27. -/
theorem pulsesBeaconsAndHandoffs : Obligations.PulsesBeaconsAndHandoffs := by
  unfold Obligations.PulsesBeaconsAndHandoffs
  refine ⟨fun s u p n l hu hq hlive hdue hmode => ?pulse, fun s u p n l hu hq hlive hdue hmode => exec_eq_next ?low,
    fun s u e n hu he hdue => exec_eq_next ?falls, fun s u p slot n w f hu hlive hup hgood hslot hrx hport hw hne => ?beacon,
    fun s k p m hm hrx hahead hfired hfree => ?held, fun s k p m hm hstale => ?stale⟩
  case pulse =>
    subst hu
    have hout : pulseOut s n = { s.at n with
        pins := { (s.at n).pins with cadenceOut := true }
        cad := { (s.at n).cad with pulses := l, pulseEnd := some ((s.at n).now + 100) } } := by
      simp only [pulseOut, hq, hlive, Bool.true_and, decide_eq_true_eq]
      rw [if_pos hdue, if_neg hmode]
    exact ⟨_, exec_eq_next hout, rfl, rfl, rfl⟩
  case low =>
    subst hu
    simp only [pulseOut, hq, hlive, Bool.true_and, decide_eq_true_eq]
    rw [if_pos hdue, if_pos hmode]
  case falls =>
    subst hu
    simp only [pulseEnd, he]
    exact if_pos hdue
  case beacon =>
    subst hu
    generalize hu : s.at n = u at *
    have hin : exec (.beacon p f n) s = .next (((u.received p f).takeBeacon p slot).pump p) := by
      refine exec_eq_next ?_
      rw [beaconIn, hu, if_pos hup, State.frameIn_of_good _ _ _ _ hgood, hslot]
    obtain ⟨hlive', hslotNo, hphase, hcad⟩ := State.cadence_of_same (fun g hg => u.received_getF_low p f hg) (u.received_onlyLink p f).frame
    have hmem : (u.received p f).mem = u.mem := (congrArg State.mem (u.received_onlyLink p f).frame : _)
    have hrx' := (State.isF_of_getF (u.received_getF_low p f (base := cadBase) (g := F.CAD_CTL_BEACON_RX) (by decide))).trans hrx
    have hport' := (u.received_getF_low p f (base := cadBase) (g := F.CAD_CTL_BEACON_PORT) (by decide)).trans hport
    generalize u.received p f = v at *
    subst hw
    have hslotlt : slot < 2 ^ 48 := hslot ▸ leAt_lt _ _ _
    have hwant : (if u.phase < 32768 then u.slotNo else (u.slotNo + 1) % 2 ^ 48) < 2 ^ 48 := by
      split
      · exact u.slotNo_lt
      · exact Nat.mod_lt _ (by decide)
    have hd := toSigned_sub_ne_zero hslotlt hwant hne
    have htake := State.takeBeacon_of_other (hlive'.trans hlive) hrx' hport' rfl (by rw [hphase, hslotNo]; exact hd)
    rw [hphase, hslotNo] at htake
    rw [htake] at hin
    generalize toSigned 48 _ = d at *
    have hkeep (x : State) (g : Fld) (hlow : cadBase + g.off < 0x10000000) (hpml : notPml (cadBase + g.off)) (hoff : F.CAD_RESYNC_DELTA_DELTA.off ≠ g.off) :
        (((x.setF cadBase F.CAD_RESYNC_DELTA_DELTA (ofSigned 32 d)).chipEvent 3 (unitChip 2) 0x73).pump p).getF cadBase g = x.getF cadBase g := by
      rw [State.pump_getF_low _ _ hlow, State.chipEvent_getF _ hpml, State.getF_setF_of_off_ne _ _ _ hoff]
    refine ⟨_, hin, ?_, ?_, ?_, ?_⟩
    · rw [← hcad]
      exact (congrArg State.cad (State.pump_onlyLink _ p).frame : _).trans (State.chipEvent_onlyRecords _ _ _ _).cad
    · rw [State.isF_of_getF (hkeep _ _ (by decide) (.inl (by decide)) (by decide))]
      exact State.isF_flagF_self _ _ (by decide) (by decide)
    · rw [State.slotNo, hkeep _ _ (by decide) (.inl (by decide)) (by decide), hkeep _ _ (by decide) (.inl (by decide)) (by decide),
        State.getF_flagF_of_off_ne _ _ (by decide), State.getF_flagF_of_off_ne _ _ (by decide), ← hslotNo]
      rfl
    · rw [← hmem]
      exact (congrArg State.mem (State.pump_onlyLink _ p).frame : _).trans (State.chipEvent_onlyRecords _ _ _ _).mem
  case held =>
    obtain ⟨honly, hinbox⟩ := s.takeInbox_leaves k
    have hfired' : ((m.addr % 2 ^ 48 + 2 ^ 48 - s.slotNo) % 2 ^ 48 = 0 → s.cad.fired.any (fun e => decide ((s.evRec e).kind = 1)) = false) :=
      fun h => List.any_eq_false.2 fun e he => by simpa using hfired h e he
    have hand : exec (.handoff k) s = .next ((s.takeInbox k).takeHandoff m (s.cad.fired.any (fun e => decide ((s.evRec e).kind = 1)))) := by
      refine exec_eq_next ?_
      simp only [handoffIn, hm]
    generalize s.cad.fired.any (fun e => decide ((s.evRec e).kind = 1)) = fired at *
    generalize s.takeInbox k = u at *
    rw [State.takeHandoff_of_open (by rwa [State.isF_of_getF (State.getF_of_regs honly.regs _ _)])
      (by rwa [State.slotNo_of_regs honly.regs]) (by rwa [State.slotNo_of_regs honly.regs]) (by rwa [honly.job])] at hand
    exact ⟨_, hand, by rw [← honly.job], hinbox, (congrArg (fun t : State => { t with job := s.job }) honly.frame : _)⟩
  case stale =>
    obtain ⟨honly, hinbox⟩ := s.takeInbox_leaves k
    have hand : exec (.handoff k) s = .next ((s.takeInbox k).takeHandoff m (s.cad.fired.any (fun e => decide ((s.evRec e).kind = 1)))) := by
      refine exec_eq_next ?_
      simp only [handoffIn, hm]
    generalize s.takeInbox k = u at *
    rw [State.takeHandoff_of_stale ?_] at hand
    · refine ⟨_, hand, ?_, ?_, ?_, ?_⟩
      · rw [← honly.job]
        exact congrArg Job.handoffs (State.chipEvent_onlyRecords _ _ _ _).job
      · rw [State.isF_of_getF (State.chipEvent_getF _ (.inr (by decide)) _ _ _)]
        exact State.isF_flagF_self _ _ (by decide) (by decide)
      · rw [← hinbox]
        exact (congrArg Cour.inbox (State.chipEvent_onlyRecords _ _ _ _).cour : _)
      · rw [← honly.mem]
        exact (State.chipEvent_onlyRecords _ _ _ _).mem
    · rw [State.isF_of_getF (State.getF_of_regs honly.regs _ _), State.slotNo_of_regs honly.regs, honly.job]
      refine hstale.imp_right (Or.imp_right (Or.imp_left fun ⟨h0, e, he, hk⟩ => ⟨h0, List.any_eq_true.2 ⟨e, he, by simpa using hk⟩⟩))

end Sys2Proof.Machine
end

section
/-! SUPPORT. Commands that answer after changing more than the mailbox, and commands that go on (R384, R392, R399). -/

namespace Sys2Proof.Machine

/-- A command that runs acts on the state in which it has been taken. -/
theorem exec_of_runs {c : Instr} {s : State} {op : Nat} {eff : Taken → State → State} (hruns : s.runs op = true)
    (hexec : exec c s = .next (s.hostCmd op eff) := by rfl) : exec c s = .next (eff s.front s.took) := by
  rw [hexec, State.hostCmd_of_runs _ hruns]

/-- A final reply from the state u, which differs in other things than the mailbox from the one in which the command has been taken. -/
theorem exec_of_finish {c : Instr} {s u : State} {op status : Nat} {res : List Byte} (hexec : exec c s = .next (u.finish s.front.id status res))
    (hruns : s.runs op = true) (hci : u.sdio.cmdCi = s.took.sdio.cmdCi := by rfl) (hmail : u.mail = s.took.mail := by rfl) :
    ∃ t, exec c s = .next t ∧ s.answered t status res ∧ ∀ d m, { t with sdio := d, mail := m } = { u with sdio := d, mail := m } :=
  ⟨_, hexec, State.finish_answered hruns hci (congrArg Mail.taken hmail : _) (congrArg Mail.replies hmail : _)
    (by rw [State.replyVer, hmail]; rfl), State.finish_only_mailbox _ _ _ _⟩

/-- t differs from s at most in the mailbox and its registers. -/
structure State.OnlyMailbox (s t : State) : Prop where
  frame : ∀ d m, { t with sdio := d, mail := m } = { s with sdio := d, mail := m }

section
variable {s t : State}

theorem State.OnlyMailbox.mem (h : s.OnlyMailbox t) : t.mem = s.mem := (congrArg State.mem (h.frame s.sdio s.mail) : _)
theorem State.OnlyMailbox.regs (h : s.OnlyMailbox t) : t.regs = s.regs := (congrArg State.regs (h.frame s.sdio s.mail) : _)
theorem State.OnlyMailbox.job (h : s.OnlyMailbox t) : t.job = s.job := (congrArg State.job (h.frame s.sdio s.mail) : _)
theorem State.OnlyMailbox.chip (h : s.OnlyMailbox t) : t.chip = s.chip := (congrArg State.chip (h.frame s.sdio s.mail) : _)
theorem State.OnlyMailbox.nim (h : s.OnlyMailbox t) : t.nim = s.nim := (congrArg State.nim (h.frame s.sdio s.mail) : _)
theorem State.OnlyMailbox.power (h : s.OnlyMailbox t) : t.power = s.power := (congrArg State.power (h.frame s.sdio s.mail) : _)
theorem State.OnlyMailbox.on (h : s.OnlyMailbox t) : t.on = s.on := (congrArg State.on (h.frame s.sdio s.mail) : _)
theorem State.OnlyMailbox.store (h : s.OnlyMailbox t) : t.store = s.store := (congrArg State.store (h.frame s.sdio s.mail) : _)
theorem State.OnlyMailbox.img (h : s.OnlyMailbox t) : t.img = s.img := (congrArg State.img (h.frame s.sdio s.mail) : _)
theorem State.OnlyMailbox.macros (h : s.OnlyMailbox t) : t.macros = s.macros := (congrArg State.macros (h.frame s.sdio s.mail) : _)
theorem State.OnlyMailbox.bist (h : s.OnlyMailbox t) : t.bist = s.bist := (congrArg State.bist (h.frame s.sdio s.mail) : _)
theorem State.OnlyMailbox.pml (h : s.OnlyMailbox t) : t.pml = s.pml := (congrArg State.pml (h.frame s.sdio s.mail) : _)
theorem State.OnlyMailbox.hzn (h : s.OnlyMailbox t) : t.hzn = s.hzn := (congrArg State.hzn (h.frame s.sdio s.mail) : _)

end

theorem State.finish_onlyMailbox (s : State) (id status : Nat) (res : List Byte) : s.OnlyMailbox (s.finish id status res) :=
  ⟨s.finish_only_mailbox id status res⟩

/-- A final reply that leaves every other part of the state u alone. -/
theorem exec_of_reply {c : Instr} {s u : State} {status : Nat} {res : List Byte} (hexec : exec c s = .next (u.finish s.front.id status res))
    (hruns : ∃ op, s.runs op = true) (hci : u.sdio = s.took.sdio) (hmail : u.mail = s.took.mail) :
    ∃ t, exec c s = .next t ∧ s.answered t status res ∧ u.OnlyMailbox t := by
  obtain ⟨op, hruns⟩ := hruns
  obtain ⟨t, hexec, hanswered, hframe⟩ := exec_of_finish hexec hruns (congrArg Sdio.cmdCi hci) hmail
  exact ⟨t, hexec, hanswered, ⟨hframe⟩⟩

/-- t differs from s at most in replies and in the number of free values drawn. -/
structure State.OnlyPending (s t : State) : Prop where
  frame : { t with mail := { t.mail with replies := s.mail.replies }, free := s.free } = s

section
variable {s t u : State}

theorem State.OnlyPending.refl (s : State) : s.OnlyPending s := ⟨rfl⟩
theorem State.OnlyPending.trans (h : s.OnlyPending t) (g : t.OnlyPending u) : s.OnlyPending u := ⟨by rw [← h.frame, ← g.frame]⟩
theorem State.OnlyPending.inq (h : s.OnlyPending t) : t.mail.inq = s.mail.inq := (congrArg (fun u : State => u.mail.inq) h.frame : _)
theorem State.OnlyPending.outq (h : s.OnlyPending t) : t.mail.outq = s.mail.outq := (congrArg (fun u : State => u.mail.outq) h.frame : _)
theorem State.OnlyPending.taken (h : s.OnlyPending t) : t.mail.taken = s.mail.taken := (congrArg (fun u : State => u.mail.taken) h.frame : _)
theorem State.OnlyPending.sdio (h : s.OnlyPending t) : t.sdio = s.sdio := (congrArg State.sdio h.frame : _)
theorem State.OnlyPending.mem (h : s.OnlyPending t) : t.mem = s.mem := (congrArg State.mem h.frame : _)
theorem State.OnlyPending.regs (h : s.OnlyPending t) : t.regs = s.regs := (congrArg State.regs h.frame : _)
theorem State.OnlyPending.job (h : s.OnlyPending t) : t.job = s.job := (congrArg State.job h.frame : _)
theorem State.OnlyPending.chip (h : s.OnlyPending t) : t.chip = s.chip := (congrArg State.chip h.frame : _)

/-- What a command that goes on leaves but its own changes: the mailbox and the free values are out of view. -/
theorem State.OnlyPending.rest (h : s.OnlyPending t) (d : Sdio) (m : Mail) (f : Nat) :
    { t with sdio := d, mail := m, free := f } = { s with sdio := d, mail := m, free := f } :=
  (congrArg (fun u : State => { u with sdio := d, mail := m, free := f }) h.frame : _)

end

/-- A command that goes on may answer PENDING (R392). -/
theorem State.goesOn_onlyPending (s : State) (t : Taken) : s.OnlyPending (s.goesOn t) := by
  have hfree : s.OnlyPending s.takeFree.2 := ⟨rfl⟩
  have hreply (u : State) : u.OnlyPending (u.replyPending t) := ⟨rfl⟩
  unfold State.goesOn
  split
  · next x u hx =>
    obtain rfl : s.takeFree.2 = u := congrArg Prod.snd hx
    split
    · exact hfree.trans (hreply _)
    · exact hfree

theorem State.goesOnIf_onlyPending (s : State) (t : Taken) : s.OnlyPending (s.goesOnIf t) := by
  unfold State.goesOnIf
  split
  · exact s.goesOn_onlyPending t
  · exact .refl s

/-- A transfer of a command with a new number goes behind the others. -/
theorem xferPut_of_new {q : List Xfer} {x : Xfer} (h : ∀ y ∈ q, y.cmd < x.cmd) : xferPut q x = q ++ [x] := by
  have hnone : q.any (fun y => decide (y.cmd = x.cmd)) = false := List.any_eq_false.2 fun y hy => by simpa using (h y hy).ne
  rw [xferPut, hnone]
  rfl

section
variable {s t u : State} {op : Nat}

theorem State.inq_below_of_runs (h : s.runs op = true) : ∀ x ∈ s.mail.inq, x.cmd < s.mail.nextId := fun x hx =>
  ((Mail.fresh_iff _).1 ((s.runs_iff op).1 h).2.2.2.2.2).2.2 x (List.mem_append_left _ hx)

theorem State.outq_below_of_runs (h : s.runs op = true) : ∀ x ∈ s.mail.outq, x.cmd < s.mail.nextId := fun x hx =>
  ((Mail.fresh_iff _).1 ((s.runs_iff op).1 h).2.2.2.2.2).2.2 x (List.mem_append_right _ hx)

theorem State.armIn_inq_of_runs (h : s.runs op = true) (n : Nat) (hu : u.mail.inq = s.mail.inq := by rfl) :
    (u.armIn s.mail.nextId n).mail.inq = s.mail.inq ++ [⟨s.mail.nextId, n, []⟩] := by
  rw [State.armIn, hu]
  exact xferPut_of_new (State.inq_below_of_runs h)

/-- The numbers of the commands in progress once a command has been taken. -/
theorem State.took_ids (s : State) : s.took.mail.taken.map Taken.id = s.mail.taken.map Taken.id ++ [s.mail.nextId] := by
  rw [State.took, List.map_append]
  rfl

theorem State.underway_of (h : u.OnlyPending t) (hci : u.sdio.cmdCi = s.took.sdio.cmdCi := by rfl)
    (hids : u.mail.taken.map Taken.id = s.took.mail.taken.map Taken.id := by rfl) : s.underway t :=
  ⟨by rw [h.sdio, hci]; rfl, by rw [h.taken, hids, s.took_ids]⟩

end

/-- A command's record replaced keeps the numbers. -/
theorem State.setTaken_ids (s : State) (x : Taken) : (s.setTaken x).mail.taken.map Taken.id = s.mail.taken.map Taken.id := by
  rw [State.setTaken, List.map_map]
  refine List.map_congr_left fun y _ => ?_
  by_cases hy : y.id = x.id <;> simp [hy]

end Sys2Proof.Machine
end

section
/-! PROOFS. PLAN_LOAD and PLAN_VERIFY (R220, R436). -/

namespace Sys2Proof.Machine

theorem exec_planLoad_of_ok {s : State} (hruns : s.runs 0x0501 = true) (hok : s.front.okBulk 0 67108864 8 [] = true) (hlen : s.front.bulkLen % 64 = 0) :
    exec .planLoad s = .next ((s.took.armIn s.mail.nextId s.front.bulkLen).goesOn s.front) := by
  refine (exec_of_runs hruns).trans (congrArg _ (if_neg ?_))
  simp [hok, hlen]

/-- The check of a staged plan that passes. -/
theorem State.planCheck_of_pass {s : State} {t : Taken} {img : List Byte} (h : (s.verifyPlan img).1 = none) :
    s.planCheck t img = (none, { s with job := { s.job with verified := true } }) := by
  have hsame : (s.verifyPlan img).2 = s := by
    unfold State.verifyPlan at h ⊢
    split at h
    · exact absurd h (Option.some_ne_none _)
    · rfl
  have hpair : s.verifyPlan img = (none, s) := Prod.ext h hsame
  rw [State.planCheck, hpair]

/-- The check of a staged plan that fails draws which of the failures it reports. -/
theorem State.planCheck_of_fail {s : State} {t : Taken} {img : List Byte} {code : Nat} {f : PlanFail} (h : (s.verifyPlan img).1 = some (code, f)) :
    (s.planCheck t img).1 = some (State.finish { s with free := s.free + 1, job := { s.job with verified := false } } t.id code (failBytes f)) := by
  have hfree : (s.verifyPlan img).2 = { s with free := s.free + 1 } := by
    unfold State.verifyPlan at h ⊢
    split at h
    · rfl
    · exact absurd h.symm (Option.some_ne_none _)
  have hpair : s.verifyPlan img = (some (code, f), { s with free := s.free + 1 }) := Prod.ext h hfree
  rw [State.planCheck, hpair]

/-- Settles O9. -/
theorem planLoadAndVerify : Obligations.PlanLoadAndVerify := by
  unfold Obligations.PlanLoadAndVerify
  refine ⟨fun s hruns hok hlen => ?load, fun s img hruns hok hstaged hpass => ?pass, fun s img code f hruns hok hstaged hfail => ?fail⟩
  case load =>
    have honly := (s.took.armIn s.mail.nextId s.front.bulkLen).goesOn_onlyPending s.front
    refine ⟨_, exec_planLoad_of_ok hruns hok hlen, State.underway_of honly, ?_, (honly.rest _ _ _).trans rfl⟩
    rw [honly.inq, State.armIn_inq_of_runs (u := s.took) hruns]
  case pass =>
    have hdone : exec .planVerify s = .next (State.finish { s.took with job := { s.took.job with verified := true } } s.front.id 0 []) := by
      have hstaged' : s.took.job.staged = some img := hstaged
      refine (exec_of_runs hruns).trans (congrArg _ ?_)
      rw [planVerifyEff, if_neg (by simp [hok])]
      simp only [hstaged', State.planCheck_of_pass hpass]
    obtain ⟨t, hexec, hanswered, hframe⟩ := exec_of_finish hdone hruns
    exact ⟨t, hexec, hanswered, (congrArg State.job (hframe s.sdio s.mail) : _), (congrArg (fun u : State => { u with job := s.job }) (hframe s.sdio s.mail) : _)⟩
  case fail =>
    have hdone : exec .planVerify s = .next (State.finish { s.took with free := s.took.free + 1, job := { s.took.job with verified := false } }
        s.front.id code (failBytes f)) := by
      have hstaged' : s.took.job.staged = some img := hstaged
      have hcheck := State.planCheck_of_fail (t := s.front) hfail
      refine (exec_of_runs hruns).trans (congrArg _ ?_)
      rw [planVerifyEff, if_neg (by simp [hok])]
      split
      · next hnone => exact absurd (hstaged'.symm.trans hnone) (Option.some_ne_none _)
      · next img' himg =>
        obtain rfl := Option.some.inj (himg.symm.trans hstaged')
        split
        · next u v hu => exact Option.some.inj ((congrArg Prod.fst hu).symm.trans hcheck)
        · next u hu => exact absurd ((congrArg Prod.fst hu).symm.trans hcheck).symm (Option.some_ne_none _)
    obtain ⟨t, hexec, hanswered, hframe⟩ := exec_of_finish hdone hruns
    exact ⟨t, hexec, hanswered, (congrArg State.job (hframe s.sdio s.mail) : _),
      (congrArg (fun u : State => { u with job := s.job, free := s.free }) (hframe s.sdio s.mail) : _)⟩

end Sys2Proof.Machine
end

section
/-! SUPPORT. The chip hub's traffic: what its reads, writes and collectives leave alone (R319 to R321, R356). -/

namespace Sys2Proof.Machine

/-! ## Events add posts and no more to the mailbox -/

theorem State.pmSubmit_mail (s : State) (p : PmSub) : (s.pmSubmit p).mail = s.mail := by
  unfold State.pmSubmit
  split
  · rw [State.pmDrop, State.flagF_mail, State.addF_mail]
  · rfl

theorem State.faultLeave_mail (s : State) (e : FaultEnt) : (s.faultLeave e).mail = s.mail := by
  unfold State.faultLeave
  split
  · exact s.pmSubmit_mail _
  · rfl

theorem State.postEvent_mail (s : State) (code source arg : Nat) (pm : Bool) :
    { (s.postEvent code source arg pm).mail with posts := s.mail.posts } = s.mail := by
  unfold State.postEvent
  split <;> rfl

theorem State.casecRecord_mail (s : State) (fid n : Nat) : { (s.casecRecord fid n).mail with posts := s.mail.posts } = s.mail := by
  unfold State.casecRecord
  split
  · rfl
  · split
    · rfl
    · have hpost (u : State) (hu : u.mail = s.mail) (p : PmSub) (a b c : Nat) (d : Bool) :
          { ((u.pmSubmit p).postEvent a b c d).mail with posts := s.mail.posts } = s.mail := by
        have h := (u.pmSubmit p).postEvent_mail a b c d
        rwa [u.pmSubmit_mail, hu] at h
      refine hpost _ ?_ _ _ _ _ _
      split
      · split
        · exact s.faultLeave_mail _
        · rfl
      · rfl

theorem State.chipEvent_mail (s : State) (level unit cls : Nat) : { (s.chipEvent level unit cls).mail with posts := s.mail.posts } = s.mail :=
  s.casecRecord_mail _ _

/-! ## What the hub leaves alone -/

/-- A register that is none of the Postmark Log, of HBM, of SDIO, of Pigeonhole, of Horizon, of Courier and of the blocks. -/
def hubQuiet (a : Nat) : Prop := a < 0x30000 ∨ (nimBase ≤ a ∧ a < 0x10000000)

/-- t differs from s at most in HBM and its queues, in the mesh, in Courier's record, in the records of errors, in posts and in registers that are
not quiet. -/
structure State.Hub (s t : State) : Prop where
  frame : { t with
    free := s.free, regs := s.regs, mem := s.mem, flips := s.flips, net := s.net, mesh := s.mesh, errs := s.errs, pml := s.pml, hbmQ := s.hbmQ
    hbmPos := s.hbmPos, cour := s.cour, hzn := s.hzn, mail := { t.mail with posts := s.mail.posts } } = s
  mem : { t.mem with hbm := s.mem.hbm } = s.mem
  reg : ∀ a, hubQuiet a → t.reg a = s.reg a

section
variable {s₀ s t : State}

theorem State.Hub.refl (s : State) : s.Hub s := ⟨rfl, rfl, fun _ _ => rfl⟩
theorem State.Hub.trans (h : s₀.Hub s) (g : s.Hub t) : s₀.Hub t :=
  ⟨by rw [← h.frame, ← g.frame], by rw [← h.mem, ← g.mem], fun a ha => (g.reg a ha).trans (h.reg a ha)⟩

theorem State.Hub.getF (h : s₀.Hub s) {base : Nat} {f : Fld} (hq : hubQuiet (base + f.off)) : s.getF base f = s₀.getF base f := by
  rw [State.getF, h.reg _ hq, State.getF]

theorem State.Hub.ite {c : Prop} [Decidable c] {a b : State} (ha : s₀.Hub a) (hb : s₀.Hub b) : s₀.Hub (if c then a else b) := by
  split <;> assumption

theorem State.Hub.foldl {α : Type} {f : State → α → State} {l : List α} (h : s₀.Hub s) (hf : ∀ u x, s₀.Hub u → s₀.Hub (f u x)) :
    s₀.Hub (l.foldl f s) := by
  induction l generalizing s with
  | nil => exact h
  | cons x l ih => exact ih (hf s x h)

theorem State.Hub.ite_snd {α : Type} {c : Prop} [Decidable c] {x y : α × State} (hx : s₀.Hub x.2) (hy : s₀.Hub y.2) : s₀.Hub (if c then x else y).2 := by
  split <;> assumption

theorem State.Hub.ite_snd_snd {α β : Type} {c : Prop} [Decidable c] {x y : α × β × State} (hx : s₀.Hub x.2.2) (hy : s₀.Hub y.2.2) :
    s₀.Hub (if c then x else y).2.2 := by
  split <;> assumption

theorem State.Hub.foldl_snd {α β : Type} {f : β × State → α → β × State} {l : List α} {a : β × State} (h : s₀.Hub a.2)
    (hf : ∀ b x, s₀.Hub b.2 → s₀.Hub (f b x).2) : s₀.Hub (l.foldl f a).2 := by
  induction l generalizing a with
  | nil => exact h
  | cons x l ih => exact ih (hf a x h)

theorem State.Hub.foldl_snd_snd {α β γ : Type} {f : β × γ × State → α → β × γ × State} {l : List α} {a : β × γ × State} (h : s₀.Hub a.2.2)
    (hf : ∀ b x, s₀.Hub b.2.2 → s₀.Hub (f b x).2.2) : s₀.Hub (l.foldl f a).2.2 := by
  induction l generalizing a with
  | nil => exact h
  | cons x l ih => exact ih (hf a x h)

theorem State.Hub.of_snd {α : Type} {p : α × State} {a : α} (h : s₀.Hub p.2) (e : p = (a, s)) : s₀.Hub s := by
  rw [e] at h
  exact h

theorem State.Hub.mail (h : s₀.Hub s) : { s.mail with posts := s₀.mail.posts } = s₀.mail := (congrArg State.mail h.frame : _)
theorem State.Hub.taken (h : s₀.Hub s) : s.mail.taken = s₀.mail.taken := (congrArg (fun u : State => u.mail.taken) h.frame : _)
theorem State.Hub.replies (h : s₀.Hub s) : s.mail.replies = s₀.mail.replies := (congrArg (fun u : State => u.mail.replies) h.frame : _)
theorem State.Hub.sess (h : s₀.Hub s) : s.mail.sess = s₀.mail.sess := (congrArg (fun u : State => u.mail.sess) h.frame : _)
theorem State.Hub.ver (h : s₀.Hub s) : s.mail.ver = s₀.mail.ver := (congrArg (fun u : State => u.mail.ver) h.frame : _)
theorem State.Hub.outq (h : s₀.Hub s) : s.mail.outq = s₀.mail.outq := (congrArg (fun u : State => u.mail.outq) h.frame : _)
theorem State.Hub.sdio (h : s₀.Hub s) : s.sdio = s₀.sdio := (congrArg State.sdio h.frame : _)
theorem State.Hub.chip (h : s₀.Hub s) : s.chip = s₀.chip := (congrArg State.chip h.frame : _)
theorem State.Hub.nim (h : s₀.Hub s) : s.nim = s₀.nim := (congrArg State.nim h.frame : _)
theorem State.Hub.job (h : s₀.Hub s) : s.job = s₀.job := (congrArg State.job h.frame : _)

/-! ## Leaves -/

/-- A change of what the hub may change. -/
theorem State.Hub.change (h : s₀.Hub s) (free : Nat) (net : List Msg) (mesh : Mesh) (hbmQ : SMap (List HbmReq)) (hbmPos : SMap Nat) (cour : Cour)
    (hbm : SMap Byte) (flips : Flips) :
    s₀.Hub { s with
      free := free, net := net, mesh := mesh, hbmQ := hbmQ, hbmPos := hbmPos, cour := cour, flips := flips, mem := { s.mem with hbm := hbm } } :=
  h.trans ⟨rfl, rfl, fun _ _ => rfl⟩

theorem State.Hub.setF (h : s₀.Hub s) {base : Nat} {f : Fld} {v : Nat} (hq : ¬hubQuiet (base + f.off)) : s₀.Hub (s.setF base f v) :=
  h.trans ⟨rfl, rfl, fun a ha => s.reg_setF_of_ne base v f (by rintro rfl; exact hq ha)⟩

theorem State.Hub.addF (h : s₀.Hub s) {base : Nat} {f : Fld} {k : Nat} (hq : ¬hubQuiet (base + f.off)) : s₀.Hub (s.addF base f k) := h.setF hq
theorem State.Hub.flagF (h : s₀.Hub s) {base : Nat} {f : Fld} (hq : ¬hubQuiet (base + f.off)) : s₀.Hub (s.flagF base f) := h.setF hq
theorem State.Hub.tally (h : s₀.Hub s) {ch k : Nat} : s₀.Hub (s.tally ch k) := h.trans ⟨rfl, rfl, fun _ _ => rfl⟩
theorem State.Hub.takeFree (h : s₀.Hub s) : s₀.Hub s.takeFree.2 := h.trans ⟨rfl, rfl, fun _ _ => rfl⟩
theorem State.Hub.setPort (h : s₀.Hub s) {p : Nat} {x : Port} : s₀.Hub (s.setPort p x) := h.trans ⟨rfl, rfl, fun _ _ => rfl⟩
theorem State.Hub.countFlits (h : s₀.Hub s) {path : List (Nat × Nat)} {n : Nat} : s₀.Hub (s.countFlits path n) := h.trans ⟨rfl, rfl, fun _ _ => rfl⟩
theorem State.Hub.setQueue (h : s₀.Hub s) {pc : Nat} {q : List HbmReq} : s₀.Hub (s.setQueue pc q) := h.trans ⟨rfl, rfl, fun _ _ => rfl⟩
theorem State.Hub.collBump (h : s₀.Hub s) {t j : Nat} : s₀.Hub (s.collBump t j) := h.trans ⟨rfl, rfl, fun _ _ => rfl⟩

theorem State.Hub.chipEvent (h : s₀.Hub s) {level unit cls : Nat} : s₀.Hub (s.chipEvent level unit cls) := by
  have honly := s.chipEvent_onlyRecords level unit cls
  have hmail := s.chipEvent_mail level unit cls
  have hreg (a : Nat) (ha : hubQuiet a) : (s.chipEvent level unit cls).reg a = s.reg a :=
    s.chipEvent_reg (ha.imp (fun h => Nat.lt_of_lt_of_le h (by decide)) And.left) _ _ _
  generalize s.chipEvent level unit cls = u at *
  exact h.trans ⟨(by rw [hmail]; rw [← honly.frame]), by rw [honly.mem], hreg⟩

/-! ## HBM -/

/-- The registers of the two stacks' controllers are not quiet. -/
theorem not_hubQuiet_hbm {st off : Nat} (hst : st < 2) (hoff : off < 0x10000) : ¬hubQuiet (hbmBase st + off) := by
  simp only [hubQuiet, hbmBase, nimBase]
  omega

theorem hbmPc_lt (a : Nat) : hbmPc a < 64 := Nat.xor_lt_two_pow (n := 6) (Nat.mod_lt _ (by decide)) (Nat.mod_lt _ (by decide))

theorem hbmPc_div_lt (a : Nat) : hbmPc a / 32 < 2 := by
  have := hbmPc_lt a
  omega

theorem State.Hub.eccWord (h : s₀.Hub s) {fl : List Nat} {w : Nat} {data : List Byte} : s₀.Hub (s.eccWord fl w data).2 := by
  unfold State.eccWord
  dsimp only
  split
  · exact h
  · split
    · exact h
    · exact h.takeFree

theorem State.Hub.eccLine (h : s₀.Hub s) {fl : List Nat} {w : Nat} {data : List Byte} : s₀.Hub (s.eccLine fl w data).2 :=
  h.foldl_snd fun _ _ h => h.eccWord

theorem State.Hub.hbmErr (h : s₀.Hub s) {a kind src : Nat} : s₀.Hub (s.hbmErr a kind src) := by
  have hq (off : Nat) (hoff : off < 0x10000) : ¬hubQuiet (hbmBase (hbmPc a / 32) + off) := not_hubQuiet_hbm (hbmPc_div_lt a) hoff
  unfold State.hbmErr
  dsimp only
  refine .flagF (.ite ((((h.setF (hq _ (by decide))).setF (hq _ (by decide))).setF (hq _ (by decide))).setF (hq _ (by decide))) h) (hq _ ?_)
  split
  · decide
  · split <;> decide

theorem State.Hub.hbmGate (h : s₀.Hub s) {a src : Nat} {wr : Bool} : s₀.Hub (s.hbmGate a src wr).2 := by
  unfold State.hbmGate
  split
  · exact h.hbmErr
  · split
    · exact .ite h.hbmErr h.hbmErr.chipEvent
    · exact h

/-- A correction that a line's read makes is counted. -/
theorem State.Hub.ceCount (h : s₀.Hub s) {st : Nat} (hst : st < 2) (c : Bool) :
    s₀.Hub (if c then (s.addF (hbmBase st) F.HBM_CE_CNT_COUNT 1).tally (48 + st) 1 else s) :=
  .ite (h.addF (not_hubQuiet_hbm hst (by decide))).tally h

theorem State.Hub.hbmReadLine (h : s₀.Hub s) {a src : Nat} : s₀.Hub (s.hbmReadLine a src).2.2 := by
  have hline := (h.eccLine (fl := s.flips.hbm) (w := a / 8) (data := s.hbmRd a 64)).ceCount (hbmPc_div_lt a)
    (lineCe (s.eccLine s.flips.hbm (a / 8) (s.hbmRd a 64)).1)
  unfold State.hbmReadLine
  dsimp only
  split
  · exact .ite hline.hbmErr hline.hbmErr.chipEvent
  · exact hline

theorem State.Hub.hbmWriteLine (h : s₀.Hub s) {a : Nat} {bs : List Byte} : s₀.Hub (s.hbmWriteLine a bs) := h.trans ⟨rfl, rfl, fun _ _ => rfl⟩

theorem State.Hub.pcCount (h : s₀.Hub s) {pc : Nat} {f : Fld} {n : Nat} (hpc : pc < 64) (hf : f.off < 0x8000) : s₀.Hub (s.pcCount pc f n) := by
  refine h.addF (not_hubQuiet_hbm (by omega) ?_)
  have := Nat.mod_lt pc (by decide : 0 < 32)
  simp only [Fld.idx]
  omega

theorem State.Hub.hbmReadLines (h : s₀.Hub s) {a n src : Nat} : s₀.Hub (s.hbmReadLines a n src).2.2 :=
  h.foldl_snd_snd fun _ _ h => h.hbmReadLine

theorem State.Hub.hbmServeRead (h : s₀.Hub s) {a n src : Nat} : s₀.Hub (s.hbmServeRead a n src).2.2 := by
  have hgate := h.hbmGate (a := a) (src := src) (wr := false)
  unfold State.hbmServeRead
  generalize s.hbmGate a src false = r at hgate ⊢
  exact .ite_snd_snd hgate (hgate.hbmReadLines.pcCount (hbmPc_lt a) (by decide))

theorem State.Hub.hbmServeFull (h : s₀.Hub s) {a n src : Nat} {data : List (Nat × Byte × Byte)} : s₀.Hub (s.hbmServeFull a n src data).2 := by
  have hgate := h.hbmGate (a := a) (src := src) (wr := true)
  unfold State.hbmServeFull
  generalize s.hbmGate a src true = r at hgate ⊢
  exact .ite_snd hgate ((hgate.foldl fun _ _ h => h.hbmWriteLine).pcCount (hbmPc_lt a) (by decide))

theorem State.Hub.hbmServeNarrow (h : s₀.Hub s) {a src : Nat} {data : List (Nat × Byte × Byte)} : s₀.Hub (s.hbmServeNarrow a src data).2 := by
  have hgate := h.hbmGate (a := a) (src := src) (wr := true)
  unfold State.hbmServeNarrow
  generalize s.hbmGate a src true = r at hgate ⊢
  have hread := hgate.hbmReadLine (a := a) (src := src)
  generalize hq : r.2.hbmReadLine a src = q at hread
  refine .ite_snd hgate ?_
  rw [hq]
  exact .ite_snd hread (hread.hbmWriteLine.pcCount (hbmPc_lt a) (by decide))

theorem State.Hub.hbmServeAtomic (h : s₀.Hub s) {a src fmt : Nat} {data : List (Nat × Byte × Byte)} :
    s₀.Hub (s.hbmServeAtomic a src fmt data).2 := by
  have hq : ¬hubQuiet (hbmBase (hbmPc a / 32) + F.HBM_STAT_ATOM_SAT.off) := not_hubQuiet_hbm (hbmPc_div_lt a) (by decide)
  have hq' : ¬hubQuiet (hbmBase (hbmPc a / 32) + F.HBM_STAT_ATOM_NONFINITE.off) := not_hubQuiet_hbm (hbmPc_div_lt a) (by decide)
  have hflag {u : State} (hu : s₀.Hub u) (b : Bool) : s₀.Hub (if b then u.flagF (hbmBase (hbmPc a / 32)) F.HBM_STAT_ATOM_SAT else u) :=
    .ite (hu.flagF hq) hu
  have hgate := h.hbmGate (a := a) (src := src) (wr := true)
  unfold State.hbmServeAtomic
  generalize s.hbmGate a src true = r at hgate ⊢
  have hread := hgate.hbmReadLine (a := a) (src := src)
  generalize hr : r.2.hbmReadLine a src = q at hread
  refine .ite_snd hgate ?_
  rw [hr]
  have hput := (hread.hbmWriteLine (a := a) (bs := (atomLine fmt q.1 data).1)).pcCount (hbmPc_lt a) (f := F.HBM_PC_ATOM_LINES) (n := 1) (by decide)
  exact .ite_snd hread (.ite ((hflag hput _).flagF hq') (hflag hput _))

theorem State.Hub.scrubServe (h : s₀.Hub s) {pc a : Nat} (hpc : pc < 64) : s₀.Hub (s.scrubServe pc a) := by
  have hst : pc / 32 < 2 := by omega
  have hline := (h.eccLine (fl := s.flips.hbm) (w := a / 8) (data := s.hbmRd a 64)).ceCount hst
    (lineCe (s.eccLine s.flips.hbm (a / 8) (s.hbmRd a 64)).1)
  exact .ite hline.takeFree.hbmErr.chipEvent (.ite hline.hbmWriteLine hline)

theorem State.Hub.scrubNext (h : s₀.Hub s) {pc : Nat} (hpc : pc < 64) : s₀.Hub (s.scrubNext pc) := by
  have hnext (m : SMap Nat) : s₀.Hub { s with hbmPos := m } := h.trans ⟨rfl, rfl, fun _ _ => rfl⟩
  have hq : ¬hubQuiet (hbmBase (pc / 32) + F.HBM_SCRUB_POS_PASSES.off) := not_hubQuiet_hbm (by omega) (by decide)
  unfold State.scrubNext
  extract_lets base next s1
  have h1 : s₀.Hub s1 := hnext _
  exact .ite (h1.setF (base := base) (f := F.HBM_SCRUB_POS_PASSES) hq) h1

theorem State.Hub.hbmServe (h : s₀.Hub s) {pc : Nat} {r : HbmReq} (hpc : pc < 64) : s₀.Hub (s.hbmServe pc r).2 := by
  have hread : s₀.Hub (s.hbmServeRead r.line r.lines r.src).2.2 := h.hbmServeRead
  have hfull : s₀.Hub (s.hbmServeFull r.line r.lines r.src r.data).2 := h.hbmServeFull
  have hnarrow : s₀.Hub (s.hbmServeNarrow r.line r.src r.data).2 := h.hbmServeNarrow
  have hatomic : s₀.Hub (s.hbmServeAtomic r.line r.src r.fmt r.data).2 := h.hbmServeAtomic
  have hscrub : s₀.Hub ((s.scrubServe pc r.line).scrubNext pc) := (h.scrubServe hpc).scrubNext hpc
  unfold State.hbmServe
  generalize s.hbmServeRead r.line r.lines r.src = x at hread ⊢
  generalize s.hbmServeFull r.line r.lines r.src r.data = y at hfull ⊢
  generalize s.hbmServeNarrow r.line r.src r.data = z at hnarrow ⊢
  generalize s.hbmServeAtomic r.line r.src r.fmt r.data = w at hatomic ⊢
  generalize (s.scrubServe pc r.line).scrubNext pc = v at hscrub ⊢
  split_ifs
  · exact hread
  · exact hfull
  · exact hnarrow
  · exact hatomic
  · exact hscrub

theorem State.Hub.send (h : s₀.Hub s) {src dst blk : Nat} {b : Body} : s₀.Hub (s.send src dst blk b) := by
  have hnet {u : State} (hu : s₀.Hub u) (l : List Msg) : s₀.Hub { u with net := l } := hu.trans ⟨rfl, rfl, fun _ _ => rfl⟩
  unfold State.send
  extract_lets path m s1 s2
  have h1 : s₀.Hub s1 := .ite h h.countFlits
  have h2 : s₀.Hub s2 := h.countFlits
  exact .ite (hnet h1 _) (hnet h2 _)

theorem State.Hub.collNote (h : s₀.Hub s) {a : Nat} : s₀.Hub (s.collNote a) := h.foldl fun _ _ h => .ite h.collBump h

theorem State.Hub.hbmAnswer (h : s₀.Hub s) {pc : Nat} {r : HbmReq} (hpc : pc < 64) : s₀.Hub (s.hbmAnswer pc r) := by
  have hserve := h.hbmServe (r := r) hpc
  unfold State.hbmAnswer
  split
  · next e => exact .ite (hserve.of_snd e).send.collNote (hserve.of_snd e).send
  · next e => exact hserve.of_snd e

theorem State.Hub.hubTurn (h : s₀.Hub s) {a : Nat} : s₀.Hub (s.hubTurn a) := by
  have hq : ¬hubQuiet (hbmBase (hbmPc a / 32) + (F.HBM_PC_QPEAK_ENTRIES.idx (0x10 * (hbmPc a % 32))).off) := by
    refine not_hubQuiet_hbm (hbmPc_div_lt a) ?_
    have hoff : F.HBM_PC_QPEAK_ENTRIES.off < 0x8000 := by decide
    have := Nat.mod_lt (hbmPc a) (by decide : 0 < 32)
    simp only [Fld.idx]
    omega
  exact (h.setF hq).setQueue.foldl fun _ _ h => h.hbmAnswer (hbmPc_lt a)

theorem State.Hub.hubCross (h : s₀.Hub s) {a out back : Nat} {t : State} (e : s.hubCross a out back = some t) : s₀.Hub t := by
  unfold State.hubCross at e
  dsimp only at e
  split at e
  · exact absurd e (Option.some_ne_none _).symm
  · rw [← Option.some.inj e]
    exact h.countFlits.countFlits

theorem State.Hub.hubFetch (h : s₀.Hub s) {a : Nat} : s₀.Hub (s.hubFetch a).2.2 := by
  unfold State.hubFetch
  split
  · next e => exact (h.hubCross e).hubTurn.hbmServeRead
  · exact h

theorem State.Hub.hubLine (h : s₀.Hub s) {a : Nat} {data : List (Nat × Byte × Byte)} : s₀.Hub (s.hubLine a data).2 := by
  unfold State.hubLine
  split
  · next e => exact .ite_snd (h.hubCross e).hubTurn.hbmServeFull (h.hubCross e).hubTurn.hbmServeNarrow
  · exact h

theorem State.Hub.hubAtomic (h : s₀.Hub s) {a fmt : Nat} {data : List (Nat × Byte × Byte)} : s₀.Hub (s.hubAtomic a fmt data).2 := by
  unfold State.hubAtomic
  split
  · next e => exact (h.hubCross e).hubTurn.hbmServeAtomic
  · exact h

/-! ## The hub's own reads, writes and collectives -/

/-- The registers of a port of Courier are not quiet. -/
theorem not_hubQuiet_cur {p off : Nat} : ¬hubQuiet (curBase p + off) := by
  simp only [hubQuiet, curBase, nimBase]
  omega

theorem not_hubQuiet_curSh {off : Nat} : ¬hubQuiet (curShBase + off) := by
  simp only [hubQuiet, curShBase, nimBase]
  omega

theorem State.Hub.pump (h : s₀.Hub s) {p : Nat} : s₀.Hub (s.pump p) := h.setPort.addF not_hubQuiet_cur
theorem State.Hub.txMsg (h : s₀.Hub s) {p : Nat} {m : CMsg} : s₀.Hub (s.txMsg p m) := h.setPort.pump
theorem State.Hub.leaveBy (h : s₀.Hub s) {from_ q : Nat} {m : CMsg} : s₀.Hub (s.leaveBy from_ q m) := h.txMsg

theorem State.Hub.undeliverable (h : s₀.Hub s) {dst : Nat} : s₀.Hub (s.undeliverable dst) := by
  have hadd := h.addF (base := curShBase) (f := F.CUR_CNT_UNDELIVERED) (k := 1) not_hubQuiet_curSh
  exact .ite hadd (hadd.flagF not_hubQuiet_curSh).chipEvent

theorem State.Hub.crossMesh (h : s₀.Hub s) {src dst lines : Nat} {t : State} (e : s.crossMesh src dst lines = some t) : s₀.Hub t := by
  unfold State.crossMesh at e
  split at e
  · exact absurd e (Option.some_ne_none _).symm
  · rw [← Option.some.inj e]
    exact h.countFlits

theorem State.Hub.option_map_getD {x : Option State} {f : State → State} (h : s₀.Hub s) (g : ∀ t, x = some t → s₀.Hub (f t)) :
    s₀.Hub ((x.map f).getD s) := by
  cases x with
  | none => exact h
  | some t => exact g t rfl

theorem State.Hub.hubPutLines (h : s₀.Hub s) {a : Nat} {bs : List Byte} : s₀.Hub (s.hubPutLines a bs) := h.foldl fun _ _ h => h.hubLine
theorem State.Hub.hubGetLines (h : s₀.Hub s) {a n : Nat} : s₀.Hub (s.hubGetLines a n).2 := h.foldl_snd fun _ _ h => h.hubFetch

theorem State.Hub.collSend (h : s₀.Hub s) {p ty t off : Nat} {data : List Byte} : s₀.Hub (s.collSend p ty t off data) := by
  refine h.foldl fun st i h => .ite ?_ h.undeliverable.send
  exact State.Hub.option_map_getD h fun t e => (h.crossMesh e).leaveBy

theorem State.Hub.collPut (h : s₀.Hub s) {t off : Nat} {data : List Byte} {bcast : Bool} : s₀.Hub (s.collPut t off data bcast) := by
  have hput := h.hubPutLines (a := s.collResult t + off) (bs := data)
  have hsent : s₀.Hub (if bcast then (onesOf 16 (s.coll t F.CUR_COLL_CFG_CHILDREN)).foldl (fun st p => st.collSend p 10 t off data)
      (s.hubPutLines (s.collResult t + off) data) else s.hubPutLines (s.collResult t + off) data) := .ite (hput.foldl fun _ _ h => h.collSend) hput
  exact .ite hsent.send hsent

theorem State.Hub.chunkDone (h : s₀.Hub s) {t j : Nat} : s₀.Hub (s.chunkDone t j) :=
  .setF (.hubPutLines (.ite h.hubGetLines.collPut h.hubGetLines.collSend)) not_hubQuiet_curSh

theorem State.Hub.collRun (h : s₀.Hub s) {n : Nat} : s₀.Hub (s.collRun n) := by
  have hcnt {u : State} (hu : s₀.Hub u) (m : SMap Nat) : s₀.Hub { u with cour := { u.cour with collCnt := m } } := hu.trans ⟨rfl, rfl, fun _ _ => rfl⟩
  induction n generalizing s with
  | zero => exact h
  | succ n ih =>
    unfold State.collRun
    split
    · exact ih (hcnt h _).chunkDone
    · exact h

theorem State.Hub.collSettle (h : s₀.Hub s) : s₀.Hub s.collSettle := h.collRun
theorem State.Hub.hubWrite (h : s₀.Hub s) {a : Nat} {bs : List Byte} : s₀.Hub (s.hubWrite a bs) := h.hubPutLines.collSettle
theorem State.Hub.hubRead (h : s₀.Hub s) {a n : Nat} : s₀.Hub (s.hubRead a n).2 := h.hubGetLines.collSettle
theorem State.Hub.hubStore (h : s₀.Hub s) {a : Nat} {data : List (Nat × Byte × Byte)} : s₀.Hub (s.hubStore a data).2 := h.hubLine.collSettle
theorem State.Hub.hubAdd (h : s₀.Hub s) {a fmt : Nat} {data : List (Nat × Byte × Byte)} : s₀.Hub (s.hubAdd a fmt data) := h.hubAtomic.collSettle

theorem State.Hub.hubPut (h : s₀.Hub s) {a : Nat} {d : List Byte} : s₀.Hub (s.hubPut a d).2 :=
  h.foldl_snd fun _ _ h => .ite_snd (.ite_snd h.hubStore h) h

theorem State.Hub.hubBytes (h : s₀.Hub s) {a n : Nat} : s₀.Hub (s.hubBytes a n).2 := by
  refine State.Hub.collSettle (h.foldl_snd fun b i hb => ?_)
  split
  · exact .ite_snd_snd hb.hubFetch hb
  · exact hb

end

end Sys2Proof.Machine
end

section
/-! PROOFS. RING_SETUP and SUBMIT (R425, R426). -/

namespace Sys2Proof.Machine

/-- The state in which RING_SETUP answers: the ring is kept. -/
def State.withRing (s : State) (out : Nat) (g : Ring) : State :=
  if out = 0 then { s with job := { s.job with inRing := some g } } else { s with job := { s.job with outRing := some g } }

/-- The state in which SUBMIT goes on: its slot is noted, of the others those whose ADMIT has not passed. -/
def State.withSubmission (s : State) (n : Nat) : State :=
  { s with job := { s.job with submitted := s.job.submitted.filter (fun x => !s.admitPast x) ++ [n] } }

/-- What a submission that is noted leaves alone. -/
theorem State.withSubmission_leaves (s : State) (n : Nat) : let u := s.withSubmission n
    n ∈ u.job.submitted ∧ u.job.shapes = s.job.shapes ∧ u.mail = s.mail ∧ u.sdio = s.sdio ∧ u.mem = s.mem ∧ u.regs = s.regs ∧ u.cad = s.cad
      ∧ u.img = s.img := by
  have hmem := List.mem_append_right (s.job.submitted.filter (fun x => !s.admitPast x)) (List.mem_singleton_self n)
  unfold State.withSubmission
  exact ⟨hmem, rfl, rfl, rfl, rfl, rfl, rfl, rfl⟩

theorem State.admitPast_of_same {s t : State} (hregs : t.regs = s.regs) (hcad : t.cad = s.cad) (himg : t.img = s.img) (n : Nat) :
    t.admitPast n = s.admitPast n := by
  have hrec : t.evRec = s.evRec := funext fun e => by rw [State.evRec, himg, State.evRec]
  rw [State.admitPast, State.slotNo_of_regs hregs, hcad, hrec, State.admitPast]

/-- A submission that RING_SETUP, the slots to come and those before it allow. -/
theorem exec_submit_of_ok {s : State} {g : Ring} (hruns : s.runs 0x0701 = true) (hring : s.job.inRing = some g)
    (hok : s.front.okSubmit g.stride = true) (hpast : s.admitPast (s.front.fld 8 6) = false)
    (hnear : (s.front.fld 8 6 + 2 ^ 48 - s.slotNo) % 2 ^ 48 ≤ 16) (hnew : s.front.fld 8 6 ∉ s.job.submitted) :
    exec .submit s = .next (if s.front.bulk then
        (((s.took.withSubmission (s.front.fld 8 6)).armIn s.front.id s.front.bulkLen).setTaken
          { s.front with aux := [s.front.aux.getD 0 0, g.entry (s.front.fld 8 6)] }).goesOn s.front
      else ((s.took.withSubmission (s.front.fld 8 6)).shapeIn (s.front.fld 8 6) s.front.shape).finish s.front.id 0 []) := by
  have hpast' : s.took.admitPast (s.front.fld 8 6) = false := (State.admitPast_of_same (s := s) (t := s.took) rfl rfl rfl _).trans hpast
  have hslot : s.took.slotNo = s.slotNo := State.slotNo_of_regs rfl
  have hnew' : s.front.fld 8 6 ∉ s.took.job.submitted := hnew
  refine (exec_of_runs hruns).trans (congrArg _ ?_)
  unfold submitEff
  dsimp only
  split
  · next hnone => exact absurd (hring.symm.trans hnone) (Option.some_ne_none _)
  · next g' hg =>
    obtain rfl := Option.some.inj (hg.symm.trans hring)
    rw [if_neg (by rw [hok]; exact Bool.false_ne_true), hpast', if_neg Bool.false_ne_true, hslot, if_neg (Nat.not_lt.2 hnear), if_neg hnew']
    rfl

/-- t differs from s at most in the shape records of submissions. -/
structure State.OnlyShapes (s t : State) : Prop where
  frame : { t with job := { t.job with shapes := s.job.shapes } } = s

section
variable {s t : State}

theorem State.OnlyShapes.mail (h : s.OnlyShapes t) : t.mail = s.mail := (congrArg State.mail h.frame : _)
theorem State.OnlyShapes.mem (h : s.OnlyShapes t) : t.mem = s.mem := (congrArg State.mem h.frame : _)
theorem State.OnlyShapes.sdio (h : s.OnlyShapes t) : t.sdio = s.sdio := (congrArg State.sdio h.frame : _)
theorem State.OnlyShapes.regs (h : s.OnlyShapes t) : t.regs = s.regs := (congrArg State.regs h.frame : _)
theorem State.OnlyShapes.submitted (h : s.OnlyShapes t) : t.job.submitted = s.job.submitted := (congrArg (fun u : State => u.job.submitted) h.frame : _)

end

/-- What recording a shape leaves alone (R426). -/
theorem State.shapeIn_onlyShapes (s : State) (n : Nat) (r : List Byte) : s.OnlyShapes (s.shapeIn n r) := by
  unfold State.shapeIn
  split <;> exact ⟨rfl⟩

/-- Hand-offs that bring shape records keep SUBMIT's out. -/
theorem State.shapeIn_of_handoffs {s : State} (h : s.isF curShBase F.CUR_HANDOFF_RX_EN = true) (n : Nat) (r : List Byte) : s.shapeIn n r = s :=
  if_pos (by rw [h, Bool.or_true])

theorem State.shapeIn_get {s : State} {n : Nat} (hpast : s.admitPast n = false) (h : s.isF curShBase F.CUR_HANDOFF_RX_EN = false) (r : List Byte) :
    SMap.get [] (s.shapeIn n r).job.shapes n = r := by
  rw [State.shapeIn, if_neg (by simp [hpast, h])]
  exact SMap.get_set_self _ _ _ _

theorem State.finish_mem (s : State) (id status : Nat) (res : List Byte) : (s.finish id status res).mem = s.mem := by
  have h := s.finish_only_mailbox id status res s.sdio s.mail
  generalize s.finish id status res = t at h ⊢
  exact (congrArg State.mem h : _)

/-- A final reply to a command in progress, from a state with the same commands in progress, ends it. -/
theorem State.finish_ends {s u : State} {t : Taken} {status : Nat} {res : List Byte} (hfresh : s.mail.fresh = true) (ht : t ∈ s.mail.taken)
    (htaken : u.mail.taken = s.mail.taken) (hreplies : u.mail.replies = s.mail.replies) :
    (∀ x ∈ (u.finish t.id status res).mail.taken, x.id ≠ t.id)
      ∧ (u.finish t.id status res).mail.replies.length = s.mail.replies.length + 1 := by
  have hnodup := ((Mail.fresh_iff _).1 hfresh).2.1
  have hby : u.takenBy t.id = some t := State.takenBy_of_mem (htaken ▸ hnodup) (htaken ▸ ht)
  rw [State.finish_taken _ _ hby, State.finish_replies _ _ hby, hreplies]
  refine ⟨fun x hx => by simpa using (List.mem_filter.1 hx).2, by simp⟩

/-- The data of a submission has become visible in HBM: its command ends (R426). -/
theorem exec_submitDataVisible_of_put {s u : State} {t0 : Taken} (hfind : s.mail.taken.find? (fun t => decide (t.op = 0x0701 ∧ t.stage = 2)) = some t0)
    (hfresh : s.mail.fresh = true) (hput : s.hubPut (t0.aux.getD 1 0) (t0.par.drop (t0.par.length - t0.bulkLen)) = (true, u)) :
    ∃ t, exec .submitDataVisible s = .next t ∧ t.mem = u.mem ∧ (∀ x ∈ t.mail.taken, x.id ≠ t0.id)
      ∧ t.mail.replies.length = s.mail.replies.length + 1 := by
  have hhub : s.Hub u := by
    have h := (State.Hub.refl s).hubPut (a := t0.aux.getD 1 0) (d := t0.par.drop (t0.par.length - t0.bulkLen))
    rwa [hput] at h
  obtain ⟨shape, hexec⟩ : ∃ shape, submitVisible s = (u.shapeIn (t0.fld 8 6) shape).finish t0.id 0 [] := by
    unfold submitVisible
    rw [hfind]
    dsimp only
    rw [hput]
    exact ⟨_, rfl⟩
  have honly := u.shapeIn_onlyShapes (t0.fld 8 6) shape
  generalize u.shapeIn (t0.fld 8 6) shape = v at *
  obtain ⟨hended, hreplies⟩ := State.finish_ends (status := 0) (res := []) hfresh (List.mem_of_find?_eq_some hfind)
    ((congrArg Mail.taken honly.mail).trans hhub.taken) ((congrArg Mail.replies honly.mail).trans hhub.replies)
  exact ⟨_, exec_eq_next hexec, (v.finish_mem _ _ _).trans honly.mem, hended, hreplies⟩

theorem exec_ringSetup_of_ok {s : State} (hruns : s.runs 0x0703 = true) (hok : s.front.ok 18 [(1, 3)] = true) (hout : s.front.fld 0 1 ≤ 1)
    (hbase : s.front.fld 4 8 % 64 = 0) (hlt : s.front.fld 4 8 < 2 ^ 36) (hstride : s.front.fld 12 4 % 64 = 0) (hmax : s.front.fld 12 4 ≤ 16777216)
    (hpos : 0 < s.front.fld 16 2) (hcount : s.front.fld 16 2 ≤ 1024) :
    ∃ t, exec .ringSetup s = .next t ∧ s.answered t 0 []
      ∧ (if s.front.fld 0 1 = 0 then t.job.inRing else t.job.outRing) = some ⟨s.front.fld 4 8, s.front.fld 12 4, s.front.fld 16 2⟩
      ∧ (if s.front.fld 0 1 = 0 then t.job.outRing = s.job.outRing else t.job.inRing = s.job.inRing) ∧ t.mem = s.mem ∧ t.regs = s.regs := by
  have hlt' : s.front.fld 4 8 < 68719476736 := hlt
  have hdone : exec .ringSetup s = .next (State.finish (s.took.withRing (s.front.fld 0 1) ⟨s.front.fld 4 8, s.front.fld 12 4, s.front.fld 16 2⟩)
      s.front.id 0 []) := by
    refine (exec_of_runs hruns).trans (congrArg _ ?_)
    unfold ringSetupEff
    dsimp only
    rw [if_neg (by simp [hok, hbase, hstride, hmax, hpos.ne', Nat.not_lt.2 hout, Nat.not_le.2 hlt', Nat.not_lt.2 hcount])]
    rfl
  rw [State.withRing] at hdone
  by_cases h0 : s.front.fld 0 1 = 0
  · rw [if_pos h0] at hdone
    obtain ⟨t, hexec, hanswered, hframe⟩ := exec_of_finish hdone hruns
    have hjob : t.job = _ := (congrArg State.job (hframe s.sdio s.mail) : _)
    exact ⟨t, hexec, hanswered, by rw [if_pos h0, hjob], by rw [if_pos h0, hjob]; rfl, (congrArg State.mem (hframe s.sdio s.mail) : _),
      (congrArg State.regs (hframe s.sdio s.mail) : _)⟩
  · rw [if_neg h0] at hdone
    obtain ⟨t, hexec, hanswered, hframe⟩ := exec_of_finish hdone hruns
    have hjob : t.job = _ := (congrArg State.job (hframe s.sdio s.mail) : _)
    exact ⟨t, hexec, hanswered, by rw [if_neg h0, hjob], by rw [if_neg h0, hjob]; rfl, (congrArg State.mem (hframe s.sdio s.mail) : _),
      (congrArg State.regs (hframe s.sdio s.mail) : _)⟩

/-- A submission without a bulk phase. -/
theorem exec_submit_record {s : State} {g : Ring} (hruns : s.runs 0x0701 = true) (hring : s.job.inRing = some g) (hbulk : s.front.bulk = false)
    (hok : s.front.ok 16 [(0, 8), (14, 2)] = true) (hpast : s.admitPast (s.front.fld 8 6) = false)
    (hnear : (s.front.fld 8 6 + 2 ^ 48 - s.slotNo) % 2 ^ 48 ≤ 16) (hnew : s.front.fld 8 6 ∉ s.job.submitted) :
    ∃ t, exec .submit s = .next t ∧ s.answered t 0 [] ∧ s.front.fld 8 6 ∈ t.job.submitted
      ∧ (s.isF curShBase F.CUR_HANDOFF_RX_EN = false → SMap.get [] t.job.shapes (s.front.fld 8 6) = s.front.shape)
      ∧ (s.isF curShBase F.CUR_HANDOFF_RX_EN = true → t.job.shapes = s.job.shapes) ∧ t.mem = s.mem ∧ t.regs = s.regs := by
  have hok' : s.front.okSubmit g.stride = true := by rw [Taken.okSubmit, if_neg (by simp [hbulk]), hok]
  have hdone := exec_submit_of_ok hruns hring hok' hpast hnear hnew
  rw [if_neg (by simp [hbulk])] at hdone
  obtain ⟨hin, hshapes, hmail, hsdio, hmem, hregs, hcad, himg⟩ := s.took.withSubmission_leaves (s.front.fld 8 6)
  generalize s.took.withSubmission (s.front.fld 8 6) = v at *
  have hpast' : v.admitPast (s.front.fld 8 6) = false := (State.admitPast_of_same (s := s) hregs hcad himg _).trans hpast
  have hget := State.shapeIn_get hpast' (r := s.front.shape)
  have hhand := State.shapeIn_of_handoffs (s := v) (n := s.front.fld 8 6) (r := s.front.shape)
  rw [State.isF_of_getF (State.getF_of_regs (s := s) hregs _ _)] at hget hhand
  have honly := v.shapeIn_onlyShapes (s.front.fld 8 6) s.front.shape
  generalize v.shapeIn (s.front.fld 8 6) s.front.shape = u at *
  obtain ⟨t, hexec, hanswered, hmailbox⟩ := exec_of_reply hdone ⟨_, hruns⟩ (honly.sdio.trans hsdio) (honly.mail.trans hmail)
  refine ⟨t, hexec, hanswered, ?_, fun h => ?_, fun h => ?_, ?_, ?_⟩
  · rwa [hmailbox.job, honly.submitted]
  · rw [hmailbox.job]
    exact hget h
  · rw [hmailbox.job, hhand h]
    exact hshapes
  · exact (hmailbox.mem.trans honly.mem).trans hmem
  · exact (hmailbox.regs.trans honly.regs).trans hregs

/-- A submission with a bulk phase. -/
theorem exec_submit_arm {s : State} {g : Ring} (hruns : s.runs 0x0701 = true) (hring : s.job.inRing = some g) (hbulk : s.front.bulk = true)
    (hok : s.front.okBulk 0 g.stride 16 [(14, 2)] = true) (hpast : s.admitPast (s.front.fld 8 6) = false)
    (hnear : (s.front.fld 8 6 + 2 ^ 48 - s.slotNo) % 2 ^ 48 ≤ 16) (hnew : s.front.fld 8 6 ∉ s.job.submitted) :
    ∃ t, exec .submit s = .next t ∧ s.underway t ∧ s.front.fld 8 6 ∈ t.job.submitted
      ∧ t.mail.inq = s.mail.inq ++ [⟨s.mail.nextId, s.front.bulkLen, []⟩] ∧ t.job.shapes = s.job.shapes ∧ t.mem = s.mem := by
  have hok' : s.front.okSubmit g.stride = true := by rw [Taken.okSubmit, if_pos hbulk, hok]
  have hdone := exec_submit_of_ok hruns hring hok' hpast hnear hnew
  rw [if_pos hbulk] at hdone
  obtain ⟨hin, hshapes, hmail, hsdio, hmem, -⟩ := s.took.withSubmission_leaves (s.front.fld 8 6)
  generalize s.took.withSubmission (s.front.fld 8 6) = v at *
  have honly := State.goesOn_onlyPending ((v.armIn s.front.id s.front.bulkLen).setTaken
    { s.front with aux := [s.front.aux.getD 0 0, g.entry (s.front.fld 8 6)] }) s.front
  refine ⟨_, hdone, State.underway_of honly (congrArg Sdio.cmdCi hsdio) ((State.setTaken_ids _ _).trans (congrArg (fun m => m.taken.map Taken.id) hmail)),
    ?_, ?_, ?_, honly.mem.trans hmem⟩
  · rw [honly.job]
    exact hin
  · rw [honly.inq]
    exact State.armIn_inq_of_runs hruns _ (by rw [hmail]; rfl)
  · rw [honly.job]
    exact hshapes

/-- Settles O11. -/
theorem ringsAndSubmissions : Obligations.RingsAndSubmissions := by
  unfold Obligations.RingsAndSubmissions
  exact ⟨fun _ hruns hok hout hbase hlt hstride hmax hpos hcount => exec_ringSetup_of_ok hruns hok hout hbase hlt hstride hmax hpos hcount,
    fun _ _ hruns hring hbulk hok hpast hnear hnew => exec_submit_record hruns hring hbulk hok hpast hnear hnew,
    fun _ _ hruns hring hbulk hok hpast hnear hnew => exec_submit_arm hruns hring hbulk hok hpast hnear hnew,
    fun _ _ _ hfind hfresh hput => exec_submitDataVisible_of_put hfind hfresh hput⟩

end Sys2Proof.Machine
end

section
/-! PROOFS. HBM_WRITE, HBM_READ and FETCH (R399, R427, R428). -/

namespace Sys2Proof.Machine

theorem exec_hbmWrite_of_ok {s : State} (hruns : s.runs 0x0704 = true) (hok : s.front.okBulk 0 (2 ^ 32) 16 [] = true) (hlen : s.front.bulkLen % 64 = 0)
    (haddr : s.front.fld 8 8 % 64 = 0) : exec .hbmWrite s = .next ((s.took.armIn s.mail.nextId s.front.bulkLen).goesOn s.front) := by
  have hguard : (!s.front.okBulk 0 (2 ^ 32) 16 [] || decide (s.front.bulkLen % 64 ≠ 0) || decide (s.front.fld 8 8 % 64 ≠ 0)) = false := by
    rw [hok, hlen, haddr]
    rfl
  refine (exec_of_runs hruns).trans (congrArg _ ?_)
  rw [hbmWriteEff, hguard]
  exact if_neg Bool.false_ne_true

theorem exec_hbmRead_of_ok {s u : State} {d : List Byte} (hruns : s.runs 0x0705 = true) (hok : s.front.okBulk 1 (2 ^ 32) 16 [] = true)
    (hlen : s.front.bulkLen % 64 = 0) (haddr : s.front.fld 8 8 % 64 = 0)
    (hread : s.took.hubBytes (s.front.fld 8 8) s.front.bulkLen = (some d, u)) :
    exec .hbmRead s = .next ((u.armOut s.mail.nextId d).goesOn s.front) := by
  have hguard : (!s.front.okBulk 1 (2 ^ 32) 16 [] || decide (s.front.bulkLen % 64 ≠ 0) || decide (s.front.fld 8 8 % 64 ≠ 0)) = false := by
    rw [hok, hlen, haddr]
    rfl
  refine (exec_of_runs hruns).trans (congrArg _ ?_)
  rw [hbmReadEff, hguard, hread]
  exact if_neg Bool.false_ne_true

/-- Bytes armed for the host, and the mailbox that then changes no more than by replies. -/
theorem State.OnlyPending.armOut_leaves {u t : State} {id : Nat} {d : List Byte} (h : (u.armOut id d).OnlyPending t) :
    t.mail.outq = xferPut u.mail.outq ⟨id, d.length, d⟩ ∧ t.mem = u.mem ∧ t.regs = u.regs := by
  have hrest := u.setOutq_only_mailbox (xferPut u.mail.outq ⟨id, d.length, d⟩) u.sdio u.mail
  refine ⟨by rw [h.outq, State.armOut, State.setOutq_mail], h.mem.trans (congrArg State.mem hrest : _), h.regs.trans (congrArg State.regs hrest : _)⟩

theorem State.slotRec_of_same {s t : State} (hjob : t.job = s.job) (n : Nat) : t.slotRec n = s.slotRec n := by
  rw [State.slotRec, hjob, State.slotRec]

theorem State.fetchOld_of_same {s t : State} (hregs : t.regs = s.regs) (hjob : t.job = s.job) (n : Nat) : t.fetchOld n = s.fetchOld n := by
  have hback : t.slotsBack n = s.slotsBack n := by rw [State.slotsBack, State.slotNo_of_regs hregs, State.slotsBack]
  rw [State.fetchOld, hback, hjob, State.fetchOld]

section
variable {s : State}

theorem State.fetching_slotRec {e : SlotRec} (h : s.slotRec (s.front.fld 8 6) = some e) (g : Ring) :
    (s.took.setTaken (s.fetching g)).slotRec ((s.fetching g).fld 8 6) = some e :=
  (State.slotRec_of_same (s := s) (t := s.took.setTaken (s.fetching g)) rfl _).trans h

theorem State.fetching_fetchOld (h : s.fetchOld (s.front.fld 8 6) = false) (g : Ring) :
    (s.took.setTaken (s.fetching g)).fetchOld ((s.fetching g).fld 8 6) = false :=
  (State.fetchOld_of_same (s := s) (t := s.took.setTaken (s.fetching g)) rfl rfl _).trans h

end

/-- FETCH of a slot that its ring still holds. -/
theorem exec_fetch_of_ok {s : State} {g : Ring} {e : SlotRec} (hruns : s.runs 0x0702 = true) (hring : s.job.outRing = some g)
    (hok : s.front.okBulk 1 (2 ^ 32) 20 [(14, 2)] = true) (hlen : s.front.fld 16 4 + s.front.bulkLen ≤ g.stride)
    (hnew : s.fetchOld (s.front.fld 8 6) = false) (hrec : s.slotRec (s.front.fld 8 6) = some e) :
    exec .fetch s = .next (((s.took.setTaken (s.fetching g)).serveFetch (s.fetching g)).goesOnIf s.front) := by
  have hguard : (!s.front.okBulk 1 (2 ^ 32) 20 [(14, 2)] || decide (g.stride < s.front.fld 16 4 + s.front.bulkLen)) = false := by
    rw [hok, decide_eq_false (Nat.not_lt.2 hlen)]
    rfl
  have hnew' : s.took.fetchOld (s.front.fld 8 6) = false := (State.fetchOld_of_same (s := s) (t := s.took) rfl rfl _).trans hnew
  have hrec' : s.took.slotRec (s.front.fld 8 6) = some e := (State.slotRec_of_same (s := s) (t := s.took) rfl _).trans hrec
  refine (exec_of_runs hruns).trans (congrArg _ ?_)
  unfold fetchEff
  dsimp only
  split
  · next hnone => exact absurd (hring.symm.trans hnone) (Option.some_ne_none _)
  · next g' hg =>
    obtain rfl := Option.some.inj (hg.symm.trans hring)
    have hnone : ((some e).isNone && s.took.admitPast (s.front.fld 8 6)) = false := rfl
    rw [hguard, hnew', hrec', hnone, if_neg Bool.false_ne_true, if_neg Bool.false_ne_true, if_neg Bool.false_ne_true]
    rfl

theorem State.fetchOld_eq_false {s : State} {g : Ring} {n : Nat} (hring : s.job.outRing = some g)
    (hnew : ¬((s.slotNo + 2 ^ 48 - n) % 2 ^ 48 < 2 ^ 47 ∧ g.count ≤ (s.slotNo + 2 ^ 48 - n) % 2 ^ 48)) : s.fetchOld n = false := by
  rw [State.fetchOld, State.slotsBack, hring]
  generalize (s.slotNo + 2 ^ 48 - n) % 2 ^ 48 = back at hnew ⊢
  by_cases hlt : back < 2 ^ 47
  · rw [if_pos hlt]
    exact decide_eq_false fun hle => hnew ⟨hlt, hle⟩
  · rw [if_neg hlt]

section
variable {s : State} {t : Taken} {e : SlotRec} (hrec : s.slotRec (t.fld 8 6) = some e) (hnew : s.fetchOld (t.fld 8 6) = false)
include hrec hnew

theorem State.serveFetch_of_running (hstatus : e.status = 1) : s.serveFetch t = s.holdOut t.id := by
  unfold State.serveFetch
  rw [Taken.fld] at hrec hnew
  simp only [hrec, hnew, hstatus, Bool.false_eq_true, if_false, if_true]

theorem State.serveFetch_of_complete (hstatus : e.status = 0) {u : State} {d : List Byte}
    (hread : s.hubBytes (t.aux.getD 1 0) t.bulkLen = (some d, u)) : s.serveFetch t = (u.armOut t.id d).setTaken { t with stage := 1 } := by
  unfold State.serveFetch
  rw [Taken.fld] at hrec hnew
  rw [Taken.bulkLen] at hread
  simp only [hrec, hnew, hstatus, hread, Bool.false_eq_true, if_false, if_true, zero_ne_one]

end

/-- Settles O12. -/
theorem hbmCommandsAndFetch : Obligations.HbmCommandsAndFetch := by
  unfold Obligations.HbmCommandsAndFetch
  refine ⟨fun s hruns hok hlen haddr => ?write, fun s u d hruns hok hlen haddr hread => ?read,
    fun s g e hruns hring hok hlen hnew hrec hstatus => ?running, fun s u g e d hruns hring hok hlen hnew hrec hstatus hread => ?complete⟩
  case write =>
    have honly := (s.took.armIn s.mail.nextId s.front.bulkLen).goesOn_onlyPending s.front
    exact ⟨_, exec_hbmWrite_of_ok hruns hok hlen haddr, State.underway_of honly, honly.inq.trans (State.armIn_inq_of_runs (u := s.took) hruns _),
      honly.mem, honly.regs⟩
  case read =>
    exact ⟨_, exec_hbmRead_of_ok hruns hok hlen haddr hread, ((u.armOut s.mail.nextId d).goesOn_onlyPending s.front).armOut_leaves⟩
  case running =>
    have hold := State.fetchOld_eq_false hring hnew
    have hserve := State.serveFetch_of_running (t := s.fetching g) (State.fetching_slotRec hrec g) (State.fetching_fetchOld hold g) hstatus
    have hexec := exec_fetch_of_ok hruns hring hok hlen hold hrec
    rw [hserve] at hexec
    have honly := ((s.took.setTaken (s.fetching g)).armOut s.mail.nextId []).goesOnIf_onlyPending s.front
    obtain ⟨houtq, hmem, hregs⟩ := honly.armOut_leaves
    refine ⟨_, hexec, State.underway_of honly (by simp [State.armOut, State.setTaken]) ?_, ?_, hmem, hregs⟩
    · rw [State.armOut, State.setOutq_mail]
      exact State.setTaken_ids _ _
    · exact houtq.trans (xferPut_of_new (State.outq_below_of_runs hruns))
  case complete =>
    have hold := State.fetchOld_eq_false hring hnew
    have hserve := State.serveFetch_of_complete (t := s.fetching g) (State.fetching_slotRec hrec g) (State.fetching_fetchOld hold g) hstatus hread
    have hexec := exec_fetch_of_ok hruns hring hok hlen hold hrec
    rw [hserve] at hexec
    have honly := ((u.armOut s.mail.nextId d).setTaken { s.fetching g with stage := 1 }).goesOnIf_onlyPending s.front
    have harm := (State.OnlyPending.refl (u.armOut s.mail.nextId d)).armOut_leaves
    exact ⟨_, hexec, honly.outq.trans harm.1, honly.mem.trans harm.2.1, honly.regs.trans harm.2.2⟩

end Sys2Proof.Machine
end

section
/-! SUPPORT. Several registers and fields written in turn, and the state around them. -/

namespace Sys2Proof.Machine

/-- Two fields of one window share no bit. -/
def Fld.apart (f g : Fld) : Prop := f.off ≠ g.off ∨ f.lo + f.width ≤ g.lo ∨ g.lo + g.width ≤ f.lo

theorem Fld.apart_iff (f g : Fld) : f.apart g ↔ f.off ≠ g.off ∨ f.lo + f.width ≤ g.lo ∨ g.lo + g.width ≤ f.lo := Iff.rfl

/-- Fields of one window written in turn. -/
def State.setFs (s : State) (base : Nat) (l : List (Fld × Nat)) : State := l.foldl (fun st p => st.setF base p.1 p.2) s

section
variable (s : State) (base : Nat) {l : List (Fld × Nat)}

theorem State.setFs_cons (p : Fld × Nat) : s.setFs base (p :: l) = (s.setF base p.1 p.2).setFs base l := rfl

/-- Writing fields changes registers only. -/
theorem State.setFs_frame : { s.setFs base l with regs := s.regs } = s := by
  induction l generalizing s with
  | nil => rfl
  | cons p l ih =>
    have h := ih (s.setF base p.1 p.2)
    rw [s.setFs_cons]
    generalize (s.setF base p.1 p.2).setFs base l = t at h ⊢
    exact (congrArg (fun u : State => { u with regs := s.regs }) h : _)

theorem State.reg_setFs_of_ne {a : Nat} (h : ∀ p ∈ l, base + p.1.off ≠ a) : (s.setFs base l).reg a = s.reg a := by
  induction l generalizing s with
  | nil => rfl
  | cons p l ih =>
    rw [s.setFs_cons, ih _ fun q hq => h q (List.mem_cons_of_mem _ hq), s.reg_setF_of_ne base p.2 p.1 (h p List.mem_cons_self)]

theorem State.getF_setFs_of_apart {g : Fld} (hg : g.lo + g.width ≤ 32) (h : ∀ p ∈ l, p.1.apart g) : (s.setFs base l).getF base g = s.getF base g := by
  induction l generalizing s with
  | nil => rfl
  | cons p l ih =>
    rw [s.setFs_cons, ih _ fun q hq => h q (List.mem_cons_of_mem _ hq), s.getF_setF_of_apart base p.2 (h p List.mem_cons_self) hg]

/-- Each of several fields without a common bit holds what it is given. -/
theorem State.getF_setFs (hl : l.Pairwise fun p q => q.1.apart p.1) (hw : ∀ p ∈ l, p.1.lo + p.1.width ≤ 32) {f : Fld} {v : Nat} (hmem : (f, v) ∈ l) :
    (s.setFs base l).getF base f = v % 2 ^ f.width := by
  induction l generalizing s with
  | nil => exact absurd hmem List.not_mem_nil
  | cons p l ih =>
    obtain ⟨hp, hrest⟩ := List.pairwise_cons.1 hl
    rw [s.setFs_cons]
    rcases List.mem_cons.1 hmem with rfl | hmem
    · have hf := hw (f, v) List.mem_cons_self
      rw [State.getF_setFs_of_apart _ base hf hp, s.getF_setF_self base f v hf]
    · exact ih _ hrest (fun q hq => hw q (List.mem_cons_of_mem _ hq)) hmem

end

/-- Registers written in turn. -/
def State.setRegs (s : State) (l : List (Nat × Word)) : State := l.foldl (fun st p => st.setReg p.1 p.2) s

section
variable (s : State) {l : List (Nat × Word)}

theorem State.setRegs_cons (p : Nat × Word) : s.setRegs (p :: l) = (s.setReg p.1 p.2).setRegs l := rfl

theorem State.setRegs_frame : { s.setRegs l with regs := s.regs } = s := by
  induction l generalizing s with
  | nil => rfl
  | cons p l ih =>
    have h := ih (s.setReg p.1 p.2)
    rw [s.setRegs_cons]
    generalize (s.setReg p.1 p.2).setRegs l = t at h ⊢
    exact (congrArg (fun u : State => { u with regs := s.regs }) h : _)

theorem State.reg_setRegs_of_ne {a : Nat} (h : ∀ p ∈ l, p.1 ≠ a) : (s.setRegs l).reg a = s.reg a := by
  induction l generalizing s with
  | nil => rfl
  | cons p l ih =>
    rw [s.setRegs_cons, ih _ fun q hq => h q (List.mem_cons_of_mem _ hq), s.reg_setReg_of_ne p.2 (h p List.mem_cons_self)]

theorem State.reg_setRegs (hl : (l.map Prod.fst).Nodup) {a : Nat} {w : Word} (hmem : (a, w) ∈ l) : (s.setRegs l).reg a = w := by
  induction l generalizing s with
  | nil => exact absurd hmem List.not_mem_nil
  | cons p l ih =>
    obtain ⟨hp, hrest⟩ := List.nodup_cons.1 hl
    rw [s.setRegs_cons]
    rcases List.mem_cons.1 hmem with rfl | hmem
    · rw [State.reg_setRegs_of_ne _ fun q hq he => hp (List.mem_map.2 ⟨q, hq, he⟩), s.reg_setReg_self]
    · exact ih _ hrest hmem

end

/-- A reply from a state that differs from the one after taking the command in registers only. -/
theorem State.OnlyMailbox.base {s u t : State} (h : u.OnlyMailbox t) (hu : { u with regs := s.took.regs } = s.took) :
    { t with sdio := s.sdio, mail := s.mail, regs := s.regs } = s := by
  have h1 : { t with sdio := s.sdio, mail := s.mail, regs := s.regs } = { u with sdio := s.sdio, mail := s.mail, regs := s.regs } :=
    (congrArg (fun x : State => { x with regs := s.regs }) (h.frame s.sdio s.mail) : _)
  have h2 : { u with sdio := s.sdio, mail := s.mail, regs := s.regs } = { s.took with sdio := s.sdio, mail := s.mail } :=
    (congrArg (fun x : State => { x with sdio := s.sdio, mail := s.mail }) hu : _)
  exact h1.trans h2

/-- A final reply from such a state. -/
theorem exec_of_regs {c : Instr} {s u : State} {op status : Nat} {res : List Byte} (hexec : exec c s = .next (u.finish s.front.id status res))
    (hruns : s.runs op = true) (hu : { u with regs := s.took.regs } = s.took) :
    ∃ t, exec c s = .next t ∧ s.answered t status res ∧ t.regs = u.regs ∧ { t with sdio := s.sdio, mail := s.mail, regs := s.regs } = s := by
  obtain ⟨t, hexec, hanswered, hmailbox⟩ := exec_of_reply hexec ⟨_, hruns⟩ (congrArg State.sdio hu : _) (congrArg State.mail hu : _)
  exact ⟨t, hexec, hanswered, hmailbox.regs, hmailbox.base hu⟩

theorem State.reg_of_regs {s t : State} (h : t.regs = s.regs) (a : Nat) : t.reg a = s.reg a := by
  rw [State.reg, h, State.reg]

end Sys2Proof.Machine
end

section
/-! PROOFS. Coordinate, routes, tag and group (R431, R432, R454, R455). -/

namespace Sys2Proof.Machine

theorem exec_setCoord_of_ok {s : State} (hruns : s.runs 0x0802 = true) (hok : s.front.ok 2 [] = true) (hlt : s.front.fld 0 2 < 4096) :
    ∃ t, exec .setCoord s = .next t ∧ s.answered t 0 [] ∧ t.ownCoord = s.front.fld 0 2 ∧ s.regsKept t [curShBase]
      ∧ { t with sdio := s.sdio, mail := s.mail, regs := s.regs } = s := by
  have hdone : exec .setCoord s = .next ((s.took.setFs curShBase [(F.CUR_COORD_COORD, s.front.fld 0 2)]).finish s.front.id 0 []) := by
    refine (exec_of_runs hruns).trans (congrArg _ ?_)
    rw [setCoordEff, hok, decide_eq_false (Nat.not_le.2 hlt)]
    rfl
  obtain ⟨t, hexec, hanswered, hregs, hframe⟩ := exec_of_regs hdone hruns (s.took.setFs_frame _)
  refine ⟨t, hexec, hanswered, ?_, fun a ha => ?_, hframe⟩
  · rw [State.ownCoord, State.getF_of_regs hregs, s.took.getF_setFs curShBase (by simp) (by simp) List.mem_cons_self]
    exact Nat.mod_eq_of_lt hlt
  · rw [State.reg_of_regs hregs, State.reg_setFs_of_ne, State.reg_of_regs (s := s) (t := s.took) rfl]
    simpa [eq_comm] using ha

/-- The routes that ROUTE_WRITE writes. -/
def routesOf (t : Taken) : List (Fld × Nat) :=
  (List.range (t.fld 2 2)).map fun i => (F.CUR_ROUTE_PORTS.idx (4 * (t.fld 0 2 + i)), t.fld (4 + 2 * i) 2)

theorem routesOf_pairwise (t : Taken) : (routesOf t).Pairwise fun p q => q.1.apart p.1 := by
  refine List.pairwise_map.2 ((List.nodup_range (n := t.fld 2 2)).imp fun {i j} hij => Or.inl ?_)
  simp only [Fld.idx]
  omega

theorem exec_routeWrite_of_ok {s : State} (hruns : s.runs 0x0803 = true) (hok : s.front.ok (4 + 2 * s.front.fld 2 2) [] = true)
    (hpos : 0 < s.front.fld 2 2) (hmax : s.front.fld 2 2 ≤ 2030) (hend : s.front.fld 0 2 + s.front.fld 2 2 ≤ 4096) :
    ∃ t, exec .routeWrite s = .next t ∧ s.answered t 0 []
      ∧ (∀ i < s.front.fld 2 2, t.getF curShBase (F.CUR_ROUTE_PORTS.idx (4 * (s.front.fld 0 2 + i))) = s.front.fld (4 + 2 * i) 2)
      ∧ (∀ a, (∀ i < s.front.fld 2 2, a ≠ curShBase + 0x4000 + 4 * (s.front.fld 0 2 + i)) → t.reg a = s.reg a)
      ∧ { t with sdio := s.sdio, mail := s.mail, regs := s.regs } = s := by
  have hdone : exec .routeWrite s = .next ((s.took.setFs curShBase (routesOf s.front)).finish s.front.id 0 []) := by
    refine (exec_of_runs hruns).trans (congrArg _ ?_)
    rw [routeWriteEff, hok, decide_eq_false hpos.ne', decide_eq_false (Nat.not_lt.2 hmax), decide_eq_false (Nat.not_lt.2 hend), State.setFs, routesOf,
      List.foldl_map]
    rfl
  obtain ⟨t, hexec, hanswered, hregs, hframe⟩ := exec_of_regs hdone hruns (s.took.setFs_frame _)
  refine ⟨t, hexec, hanswered, fun i hi => ?_, fun a ha => ?_, hframe⟩
  · have hmem : (F.CUR_ROUTE_PORTS.idx (4 * (s.front.fld 0 2 + i)), s.front.fld (4 + 2 * i) 2) ∈ routesOf s.front :=
      List.mem_map.2 ⟨i, List.mem_range.2 hi, rfl⟩
    have hw : ∀ p ∈ routesOf s.front, p.1.lo + p.1.width ≤ 32 := fun p hp => by
      obtain ⟨j, -, rfl⟩ := List.mem_map.1 hp
      exact (by decide : 0 + 16 ≤ 32)
    rw [State.getF_of_regs hregs, s.took.getF_setFs curShBase (routesOf_pairwise _) hw hmem]
    exact Nat.mod_eq_of_lt (leAt_lt _ _ _)
  · rw [State.reg_of_regs hregs, State.reg_setFs_of_ne, State.reg_of_regs (s := s) (t := s.took) rfl]
    intro p hp heq
    obtain ⟨i, hi, rfl⟩ := List.mem_map.1 hp
    refine ha i (List.mem_range.1 hi) (heq.symm.trans ?_)
    simp only [Fld.idx]
    omega

/-- The tag and whether it came by command. -/
def tagFields (tag byCmd : Nat) : List (Fld × Nat) := [(F.NIM_TAG_TAG, tag), (F.NIM_TAG_BY_CMD, byCmd)]

/-- SET_TAG with the tag that it sets (R454). -/
theorem exec_setTag_of_tag {s : State} {tag byCmd : Nat} (hruns : s.runs 0x0804 = true) (hlt : tag < 16) (hby : byCmd < 2)
    (hdone : exec .setTag s = .next ((s.took.setFs nimBase (tagFields tag byCmd)).finish s.front.id 0 (leBytes 1 tag))) :
    ∃ t, exec .setTag s = .next t ∧ s.answered t 0 (leBytes 1 tag) ∧ t.getF nimBase F.NIM_TAG_TAG = tag
      ∧ t.getF nimBase F.NIM_TAG_BY_CMD = byCmd ∧ s.regsKept t [nimBase + 0x18] ∧ { t with sdio := s.sdio, mail := s.mail, regs := s.regs } = s := by
  obtain ⟨t, hexec, hanswered, hregs, hframe⟩ := exec_of_regs hdone hruns (s.took.setFs_frame _)
  have hpair : (tagFields tag byCmd).Pairwise fun p q => q.1.apart p.1 := by simp [tagFields, Fld.apart]
  have hw : ∀ p ∈ tagFields tag byCmd, p.1.lo + p.1.width ≤ 32 := by simp [tagFields]
  refine ⟨t, hexec, hanswered, ?_, ?_, fun a ha => ?_, hframe⟩
  · rw [State.getF_of_regs hregs, s.took.getF_setFs nimBase hpair hw (f := F.NIM_TAG_TAG) (v := tag) (by simp [tagFields])]
    exact Nat.mod_eq_of_lt hlt
  · rw [State.getF_of_regs hregs, s.took.getF_setFs nimBase hpair hw (f := F.NIM_TAG_BY_CMD) (v := byCmd) (by simp [tagFields])]
    exact Nat.mod_eq_of_lt hby
  · rw [State.reg_of_regs hregs, State.reg_setFs_of_ne, State.reg_of_regs (s := s) (t := s.took) rfl]
    simpa [tagFields, eq_comm] using ha

theorem setTag_ownTag : ∀ v < 16, bits v 4 3 = 0 ∧ v.testBit 7 = false ∧ v % 16 = v := by decide
theorem setTag_feedTag : ∀ v < 16, bits (128 + v) 4 3 = 0 ∧ (128 + v).testBit 7 = true := by decide

/-- The state in which SET_TAG answers. -/
theorem exec_setTag_of_ok {s : State} (hruns : s.runs 0x0804 = true) (hok : s.front.ok 1 [] = true) (hbits : bits (s.front.fld 0 1) 4 3 = 0) {tag : Nat}
    (htag : (if (s.front.fld 0 1).testBit 7 then s.took.getF nimBase F.NIM_TAG_FEEDTAG else s.front.fld 0 1 % 16) = tag) :
    exec .setTag s = .next ((s.took.setFs nimBase (tagFields tag (b2n !(s.front.fld 0 1).testBit 7))).finish s.front.id 0 (leBytes 1 tag)) := by
  have hguard : (!s.front.ok 1 [] || decide (bits (s.front.fld 0 1) 4 3 ≠ 0)) = false := by
    rw [hok, hbits]
    rfl
  refine (exec_of_runs hruns).trans (congrArg _ ?_)
  dsimp only
  rw [hguard, htag, if_neg Bool.false_ne_true]
  rfl

/-! ## Groups -/

/-- t differs from s at most in Nimbus, in the records of errors, in posts and in registers. -/
structure State.OnlyGroup (s t : State) : Prop where
  frame : { t with errs := s.errs, pml := s.pml, nim := s.nim, regs := s.regs, mail := { t.mail with posts := s.mail.posts } } = s

section
variable {s t u : State}

theorem State.OnlyGroup.refl (s : State) : s.OnlyGroup s := ⟨rfl⟩
theorem State.OnlyGroup.trans (h : s.OnlyGroup t) (g : t.OnlyGroup u) : s.OnlyGroup u := ⟨by rw [← h.frame, ← g.frame]⟩
theorem State.OnlyGroup.mem (h : s.OnlyGroup t) : t.mem = s.mem := (congrArg State.mem h.frame : _)
theorem State.OnlyGroup.chip (h : s.OnlyGroup t) : t.chip = s.chip := (congrArg State.chip h.frame : _)
theorem State.OnlyGroup.cour (h : s.OnlyGroup t) : t.cour = s.cour := (congrArg State.cour h.frame : _)
theorem State.OnlyGroup.sdio (h : s.OnlyGroup t) : t.sdio = s.sdio := (congrArg State.sdio h.frame : _)
theorem State.OnlyGroup.taken (h : s.OnlyGroup t) : t.mail.taken = s.mail.taken := (congrArg (fun u : State => u.mail.taken) h.frame : _)
theorem State.OnlyGroup.replies (h : s.OnlyGroup t) : t.mail.replies = s.mail.replies := (congrArg (fun u : State => u.mail.replies) h.frame : _)
theorem State.OnlyGroup.replyVer (h : s.OnlyGroup t) : t.replyVer = s.replyVer := (congrArg State.replyVer h.frame : _)

theorem State.OnlyGroup.of_records (h : s.OnlyRecords t) (hmail : { t.mail with posts := s.mail.posts } = s.mail) : s.OnlyGroup t :=
  ⟨by rw [hmail]; exact (congrArg (fun u : State => { u with nim := s.nim }) h.frame : _)⟩

end

theorem State.setF_onlyGroup (s : State) (base : Nat) (f : Fld) (v : Nat) : s.OnlyGroup (s.setF base f v) := ⟨rfl⟩
theorem State.nim_onlyGroup (s : State) (n : Nim) : s.OnlyGroup { s with nim := n } := ⟨rfl⟩
theorem State.errs_onlyGroup (s : State) (e : Errs) : s.OnlyGroup { s with errs := e } := ⟨rfl⟩

theorem State.OnlyGroup.of_regs {s t : State} (h : { t with regs := s.regs } = s) : s.OnlyGroup t := by
  obtain ⟨r, rfl⟩ : ∃ r, t = { s with regs := r } := ⟨t.regs, (congrArg (fun u : State => { u with regs := t.regs }) h : _)⟩
  exact ⟨rfl⟩

theorem State.abandonSecuring_onlyGroup (s : State) : s.OnlyGroup s.abandonSecuring := by
  unfold State.abandonSecuring
  extract_lets n s1
  have h1 : s.OnlyGroup s1 := s.nim_onlyGroup _
  split
  · exact ((h1.trans (s1.setF_onlyGroup _ _ _)).trans (State.setF_onlyGroup _ _ _ _)).trans
      (.of_records (State.casecRecord_onlyRecords _ _ _) (State.casecRecord_mail _ _ _))
  · exact h1

theorem State.dropRequest_onlyGroup (s : State) : s.OnlyGroup s.dropRequest :=
  (s.setF_onlyGroup _ _ _).trans (State.nim_onlyGroup _ _)

theorem State.faultLeave_onlyGroup (s : State) (e : FaultEnt) : s.OnlyGroup (s.faultLeave e) :=
  .of_records (s.faultLeave_onlyRecords e) (by rw [s.faultLeave_mail])

theorem State.faultFlush_onlyGroup (s : State) : s.OnlyGroup s.faultFlush := by
  have hfold (l : List FaultEnt) (u : State) : u.OnlyGroup (l.foldl State.faultLeave u) := by
    induction l generalizing u with
    | nil => exact .refl u
    | cons e l ih => exact (u.faultLeave_onlyGroup e).trans (ih _)
  exact (hfold _ s).trans (State.errs_onlyGroup _ _)

/-- The fields that a new group sets (R455). -/
def groupFields (k gid own shared : Nat) : List (Fld × Nat) :=
  [(F.NIM_GROUP_GROUP_ID, gid), (F.NIM_GROUP_K, k), (F.NIM_GROUP_MEMBER, own), (F.NIM_GROUP_VALID, 1), (F.NIM_GROUP_SHARED_FEED, shared),
    (F.NIM_EPOCH_EPOCH, 0), (F.NIM_EPOCH_STEP_STEP, 0), (F.NIM_STAT_P1DONE, 0)]

theorem groupFields_pairwise (k gid own shared : Nat) : (groupFields k gid own shared).Pairwise fun p q => q.1.apart p.1 := by
  simp [groupFields, Fld.apart]

theorem groupFields_width (k gid own shared : Nat) : ∀ p ∈ groupFields k gid own shared, p.1.lo + p.1.width ≤ 32 := by
  simp [groupFields]

/-- The word of the member table for member m. -/
def memberWord (es : List (Nat × Nat)) (m : Nat) : Word :=
  match es[m]? with
  | some e => BitVec.ofNat 32 (e.1 % 4096 + 4096 * (e.2 % 16) + 0x30000)
  | none => 0

/-- The member table that a new group sets. -/
def memberWords (es : List (Nat × Nat)) : List (Nat × Word) := (List.range 16).map fun m => (nimBase + 0x200 + 4 * m, memberWord es m)

theorem memberWords_nodup (es : List (Nat × Nat)) : ((memberWords es).map Prod.fst).Nodup := by
  rw [memberWords, List.map_map]
  exact List.nodup_range.map fun a b h => by simpa using h

/-- The registers of a new group. -/
def State.groupRegs (s : State) (k gid own shared : Nat) (es : List (Nat × Nat)) : State :=
  (s.abandonSecuring.dropRequest.faultFlush.setFs nimBase (groupFields k gid own shared)).setRegs (memberWords es)

theorem State.formGroup_eq (s : State) (k gid own : Nat) (shared : Bool) (es : List (Nat × Nat)) : let u := s.groupRegs k gid own (b2n shared) es
    s.formGroup k gid own shared es = { u with nim := { Nim.init with secCmd := u.nim.secCmd } } := by
  unfold State.formGroup
  extract_lets u s0 set s1 s2 s3
  have h2 : s2 = s0.setFs nimBase (groupFields k gid own (b2n shared)) := rfl
  have h3 : s3 = s2.setRegs (memberWords es) := by
    rw [State.setRegs, memberWords, List.foldl_map]
    refine congrArg (fun f => (List.range 16).foldl f s2) (funext fun st => funext fun m => ?_)
    unfold memberWord
    cases es[m]? <;> rfl
  have hu : s3 = u := by rw [h3, h2]; rfl
  rw [hu]

theorem State.groupRegs_onlyGroup (s : State) (k gid own shared : Nat) (es : List (Nat × Nat)) : s.OnlyGroup (s.groupRegs k gid own shared es) :=
  (((s.abandonSecuring_onlyGroup.trans (State.dropRequest_onlyGroup _)).trans (State.faultFlush_onlyGroup _)).trans
    (.of_regs (State.setFs_frame _ _))).trans (.of_regs (State.setRegs_frame _))

/-- A field that a new group sets. -/
theorem State.groupRegs_getF (s : State) {k gid own shared : Nat} (es : List (Nat × Nat)) {f : Fld} {v : Nat}
    (hmem : (f, v) ∈ groupFields k gid own shared) : (s.groupRegs k gid own shared es).getF nimBase f = v % 2 ^ f.width := by
  have hoff : f.off < 0x200 := by
    have hall : ∀ p ∈ groupFields k gid own shared, p.1.off < 0x200 := by simp [groupFields]
    exact hall _ hmem
  have hne : ∀ p ∈ memberWords es, p.1 ≠ nimBase + f.off := fun p hp => by
    obtain ⟨m, -, rfl⟩ := List.mem_map.1 hp
    omega
  rw [State.groupRegs, State.getF, State.reg_setRegs_of_ne _ hne]
  exact State.getF_setFs _ nimBase (groupFields_pairwise _ _ _ _) (groupFields_width _ _ _ _) hmem

/-- A field of a member that a new group sets. -/
theorem State.groupRegs_member (s : State) {k gid own shared : Nat} (es : List (Nat × Nat)) {m : Nat} (hm : m < 16) (f : Fld) (hf : f.off = 0x200) :
    (s.groupRegs k gid own shared es).member m f = bits (memberWord es m).toNat f.lo f.width := by
  have hmem : (nimBase + 0x200 + 4 * m, memberWord es m) ∈ memberWords es := List.mem_map.2 ⟨m, List.mem_range.2 hm, rfl⟩
  have haddr : nimBase + (f.idx (4 * m)).off = nimBase + 0x200 + 4 * m := by
    simp only [Fld.idx, hf]
    omega
  rw [State.member, State.getF, haddr, State.groupRegs, State.reg_setRegs _ (memberWords_nodup es) hmem]
  rfl

theorem memberWord_fields {es : List (Nat × Nat)} {m : Nat} {e : Nat × Nat} (h : es[m]? = some e) (hcoord : e.1 < 4096) (htag : e.2 < 16) :
    bits (memberWord es m).toNat 0 12 = e.1 ∧ bits (memberWord es m).toNat 12 4 = e.2 ∧ bits (memberWord es m).toNat 16 1 = 1
      ∧ bits (memberWord es m).toNat 17 1 = 1 := by
  have hword : (memberWord es m).toNat = e.1 + 4096 * e.2 + 0x30000 := by
    rw [memberWord, h, BitVec.toNat_ofNat]
    omega
  rw [hword]
  simp only [bits, Nat.shiftRight_eq_div_pow]
  omega

/-- The entries of a group are its members (R455). -/
theorem State.groupRegs_live (s : State) {k gid own shared : Nat} {es : List (Nat × Nat)} (hn : es.length ≤ 16)
    (hes : ∀ e ∈ es, e.1 < 4096 ∧ e.2 < 16) : (s.groupRegs k gid own shared es).live = List.range es.length := by
  have hrange : ∀ n ≤ 16, (List.range 16).filter (fun m => decide (m < n)) = List.range n := by decide
  rw [State.live, ← hrange _ hn]
  refine List.filter_congr fun m hm => ?_
  have hm := List.mem_range.1 hm
  rw [State.isLive, s.groupRegs_member es hm _ rfl, s.groupRegs_member es hm _ rfl, decide_eq_true hm, Bool.true_and]
  by_cases hlt : m < es.length
  · have hget : es[m]? = some es[m] := List.getElem?_eq_getElem hlt
    obtain ⟨hcoord, htag⟩ := hes _ (List.getElem_mem hlt)
    obtain ⟨-, -, hlive, hvalid⟩ := memberWord_fields hget hcoord htag
    simp [hlt, hlive, hvalid]
  · have hget : memberWord es m = 0 := by rw [memberWord, List.getElem?_eq_none (Nat.not_lt.1 hlt)]
    simp [hlt, hget, bits]

/-- A group of k data members whose entries and own index are known. -/
theorem State.formGroup_holds {s : State} {k gid own : Nat} {shared : Bool} {es : List (Nat × Nat)} (hk : k ≤ 14) (hlen : es.length = k + 2)
    (hown : own < k + 2) (hgid : gid < 65536) (hes : ∀ e ∈ es, e.1 < 4096 ∧ e.2 < 16) : let t := s.formGroup k gid own shared es
    t.inGroup = true ∧ t.getF nimBase F.NIM_GROUP_GROUP_ID = gid ∧ t.grpN = k + 2 ∧ t.ownIdx = own
      ∧ t.getF nimBase F.NIM_GROUP_SHARED_FEED = b2n shared ∧ t.epoch = 0 ∧ t.live = List.range (k + 2)
      ∧ (∀ m e, es[m]? = some e → t.coordOf m = e.1 ∧ t.member m F.NIM_MEMBER_TAG = e.2) := by
  have hregs : (s.formGroup k gid own shared es).regs = (s.groupRegs k gid own (b2n shared) es).regs := by rw [s.formGroup_eq]
  have hget (base : Nat) (f : Fld) := State.getF_of_regs hregs base f
  have hfield {f : Fld} {v : Nat} (hmem : (f, v) ∈ groupFields k gid own (b2n shared)) := s.groupRegs_getF es hmem
  have hlive := s.groupRegs_live (k := k) (gid := gid) (own := own) (shared := b2n shared) (hlen.le.trans (by omega)) hes
  have hshared : b2n shared < 2 := by cases shared <;> decide
  have hmember (m : Nat) (f : Fld) : (s.formGroup k gid own shared es).member m f = (s.groupRegs k gid own (b2n shared) es).member m f := hget _ _
  have htable {m : Nat} (hm : m < 16) (f : Fld) (hf : f.off = 0x200) := s.groupRegs_member (k := k) (gid := gid) (own := own) (shared := b2n shared) es hm f hf
  generalize s.formGroup k gid own shared es = t at *
  generalize s.groupRegs k gid own (b2n shared) es = u at *
  refine ⟨?_, ?_, ?_, ?_, ?_, ?_, ?_, fun m e hm => ?_⟩
  · rw [State.inGroup, State.isF, hget, hfield (v := 1) (by simp [groupFields])]
    rfl
  · rw [hget, hfield (v := gid) (by simp [groupFields])]
    exact Nat.mod_eq_of_lt hgid
  · rw [State.grpN, hget, hfield (v := k) (by simp [groupFields])]
    exact congrArg (· + 2) (Nat.mod_eq_of_lt (Nat.lt_succ_of_le (hk.trans (by decide))))
  · rw [State.ownIdx, hget, hfield (v := own) (by simp [groupFields])]
    exact Nat.mod_eq_of_lt (by omega : own < 16)
  · rw [hget, hfield (v := b2n shared) (by simp [groupFields])]
    exact Nat.mod_eq_of_lt hshared
  · rw [State.epoch, hget, hfield (v := 0) (by simp [groupFields])]
    rfl
  · rw [← hlen, ← hlive]
    exact congrArg (fun p => (List.range 16).filter p) (funext fun m => by rw [State.isLive, hmember, hmember, State.isLive])
  · have hlt : m < es.length := (List.getElem?_eq_some_iff.1 hm).1
    obtain ⟨hcoord, htag⟩ := hes e (List.mem_of_getElem? hm)
    obtain ⟨hc, ht, -, -⟩ := memberWord_fields hm hcoord htag
    have hm16 : m < 16 := by omega
    rw [State.coordOf, hmember, hmember, htable hm16 _ rfl, htable hm16 _ rfl]
    exact ⟨hc, ht⟩

/-- GROUP_FORM whose entries are in order and name this device (R432). -/
theorem exec_groupForm_of_ok {s : State} {k own : Nat} {es : List (Nat × Nat)} (hruns : s.runs 0x0805 = true) (hok : s.front.ok 8 [(4, 4)] = true)
    (hk : k = s.front.fld 0 1) (hk2 : 2 ≤ k) (hk14 : k ≤ 14) (hfl : s.front.fld 1 1 ≤ 1) (hlen : s.front.par.length = 8 + 4 * (k + 2))
    (hes : es = groupEntries s.front.par (k + 2)) (hin : ∀ e ∈ es, e.1 < 4096 ∧ e.2 < 16) (hzero : ∀ i < k + 2, leAt s.front.par (11 + 4 * i) 1 = 0)
    (hown : es.findIdx? (fun e => decide (e.1 = s.ownCoord)) = some own) :
    exec .groupForm s = .next (if tagClash es && decide (s.front.fld 1 1 = 0) then s.took.fail s.front 0x0602
      else (s.took.formGroup k (s.front.fld 2 2) own (decide (s.front.fld 1 1 = 1)) es).finish s.front.id 0
        (leBytes 1 own ++ leBytes 1 (s.front.fld 1 1))) := by
  have hcoord : s.took.ownCoord = s.ownCoord := State.getF_of_regs (s := s) (t := s.took) rfl _ _
  have hentries : es.any (fun e => decide (4096 ≤ e.1) || decide (16 ≤ e.2)) = false := List.any_eq_false.2 fun e he => by
    have := hin e he
    simp only [Bool.or_eq_true, decide_eq_true_eq]
    omega
  have hpad : (List.range (k + 2)).any (fun (i : Nat) => decide (leAt s.front.par (11 + 4 * i) 1 ≠ 0)) = false :=
    List.any_eq_false.2 fun i hi => by simp [hzero i (List.mem_range.1 hi)]
  have hbad : (!s.front.ok 8 [(4, 4)] || decide (k < 2 ∨ 14 < k) || decide (1 < s.front.fld 1 1)
      || decide (s.front.par.length ≠ 8 + 4 * (k + 2)) || es.any (fun e => decide (4096 ≤ e.1) || decide (16 ≤ e.2))
      || (List.range (k + 2)).any (fun (i : Nat) => decide (leAt s.front.par (11 + 4 * i) 1 ≠ 0))) = false := by
    rw [hok, hlen, hentries, hpad, decide_eq_false (by omega : ¬(k < 2 ∨ 14 < k)), decide_eq_false (Nat.not_lt.2 hfl), decide_eq_false (not_not.2 rfl)]
    rfl
  refine (exec_of_runs hruns).trans (congrArg _ ?_)
  dsimp only
  rw [hcoord, ← hk, ← hes, hbad, hown]
  exact if_neg Bool.false_ne_true

theorem length_groupEntries (p : List Byte) (n : Nat) : (groupEntries p n).length = n := by
  rw [groupEntries, List.length_map, List.length_range]

theorem exec_groupForm_forms {s : State} {k own : Nat} {es : List (Nat × Nat)} (hruns : s.runs 0x0805 = true) (hok : s.front.ok 8 [(4, 4)] = true)
    (hk : k = s.front.fld 0 1) (hk2 : 2 ≤ k) (hk14 : k ≤ 14) (hfl : s.front.fld 1 1 ≤ 1) (hlen : s.front.par.length = 8 + 4 * (k + 2))
    (hes : es = groupEntries s.front.par (k + 2)) (hin : ∀ e ∈ es, e.1 < 4096 ∧ e.2 < 16) (hzero : ∀ i < k + 2, leAt s.front.par (11 + 4 * i) 1 = 0)
    (hown : es.findIdx? (fun e => decide (e.1 = s.ownCoord)) = some own) (hclash : tagClash es = false ∨ s.front.fld 1 1 = 1) :
    ∃ t, exec .groupForm s = .next t ∧ s.answered t 0 (leBytes 1 own ++ leBytes 1 (s.front.fld 1 1)) ∧ t.inGroup = true
      ∧ t.getF nimBase F.NIM_GROUP_GROUP_ID = s.front.fld 2 2 ∧ t.grpN = k + 2 ∧ t.ownIdx = own
      ∧ t.getF nimBase F.NIM_GROUP_SHARED_FEED = s.front.fld 1 1 ∧ t.epoch = 0 ∧ t.live = List.range (k + 2)
      ∧ (∀ m e, es[m]? = some e → t.coordOf m = e.1 ∧ t.member m F.NIM_MEMBER_TAG = e.2) ∧ t.mem = s.mem ∧ t.chip = s.chip ∧ t.cour = s.cour := by
  have hdone := exec_groupForm_of_ok hruns hok hk hk2 hk14 hfl hlen hes hin hzero hown
  have hcond : (tagClash es && decide (s.front.fld 1 1 = 0)) = false := by
    rcases hclash with h | h <;> simp [h]
  rw [hcond, if_neg Bool.false_ne_true] at hdone
  have hn : es.length = k + 2 := by rw [hes, length_groupEntries]
  have hlt : own < k + 2 := by
    rw [← hn]
    exact (List.findIdx?_eq_some_iff_findIdx_eq.1 hown).1
  have hholds := State.formGroup_holds (s := s.took) (gid := s.front.fld 2 2) (shared := decide (s.front.fld 1 1 = 1)) hk14 hn hlt (leAt_lt _ _ _) hin
  have honly : s.took.OnlyGroup (s.took.formGroup k (s.front.fld 2 2) own (decide (s.front.fld 1 1 = 1)) es) := by
    rw [State.formGroup_eq]
    exact (State.groupRegs_onlyGroup _ _ _ _ _ _).trans (State.nim_onlyGroup _ _)
  have hfl' : b2n (decide (s.front.fld 1 1 = 1)) = s.front.fld 1 1 := by
    rcases Nat.le_one_iff_eq_zero_or_eq_one.1 hfl with h | h <;> rw [h] <;> rfl
  rw [hfl'] at hholds
  generalize s.took.formGroup k (s.front.fld 2 2) own (decide (s.front.fld 1 1 = 1)) es = u at *
  obtain ⟨hgroup, hid, hgrp, hidx, hshared, hepoch, hlive, hmembers⟩ := hholds
  have hmailbox := u.finish_onlyMailbox s.front.id 0 (leBytes 1 own ++ leBytes 1 (s.front.fld 1 1))
  have hanswered : s.answered (u.finish s.front.id 0 (leBytes 1 own ++ leBytes 1 (s.front.fld 1 1))) 0 (leBytes 1 own ++ leBytes 1 (s.front.fld 1 1)) :=
    State.finish_answered hruns (congrArg Sdio.cmdCi honly.sdio) honly.taken honly.replies (honly.replyVer.trans rfl)
  generalize u.finish s.front.id 0 (leBytes 1 own ++ leBytes 1 (s.front.fld 1 1)) = t at *
  have hget (f : Fld) : t.getF nimBase f = u.getF nimBase f := State.getF_of_regs hmailbox.regs _ _
  have hmember (m : Nat) (f : Fld) : t.member m f = u.member m f := hget _
  refine ⟨t, hdone, hanswered, ?_, ?_, ?_, ?_, ?_, ?_, ?_, fun m e hm => ?_, hmailbox.mem.trans honly.mem, hmailbox.chip.trans honly.chip, ?_⟩
  · rw [State.inGroup, State.isF, hget]
    exact hgroup
  · rw [hget, hid]
  · rw [State.grpN, hget]
    exact hgrp
  · rw [State.ownIdx, hget]
    exact hidx
  · rw [hget, hshared]
  · rw [State.epoch, hget]
    exact hepoch
  · rw [← hlive]
    exact congrArg (fun p => (List.range 16).filter p) (funext fun m => by rw [State.isLive, hmember, hmember, State.isLive])
  · rw [State.coordOf, hmember, hmember]
    exact hmembers m e hm
  · exact (congrArg State.cour (hmailbox.frame s.sdio s.mail) : _).trans honly.cour

/-- Settles O46. -/
theorem coordinateRoutesAndGroup : Obligations.CoordinateRoutesAndGroup := by
  unfold Obligations.CoordinateRoutesAndGroup
  refine ⟨fun s hruns hok hlt => exec_setCoord_of_ok hruns hok hlt, fun s hruns hok hpos hmax hend => exec_routeWrite_of_ok hruns hok hpos hmax hend,
    fun s hruns hok hlt => ?own, fun s hruns hok hge hlt => ?feed,
    fun s k own es hruns hok hk hk2 hk14 hfl hlen hes hin hzero hown hclash =>
      exec_groupForm_forms hruns hok hk hk2 hk14 hfl hlen hes hin hzero hown hclash,
    fun s k own es hruns hok hk hk2 hk14 hfl hlen hes hin hzero hown hclash => ?clash⟩
  case own =>
    obtain ⟨hbits, hback, hmod⟩ := setTag_ownTag _ hlt
    have hdone := exec_setTag_of_ok hruns hok hbits (tag := s.front.fld 0 1) (by rw [hback, if_neg Bool.false_ne_true, hmod])
    rw [hback] at hdone
    exact exec_setTag_of_tag hruns hlt (by decide : 1 < 2) hdone
  case feed =>
    obtain ⟨v, hv⟩ : ∃ v, s.front.fld 0 1 = 128 + v := ⟨s.front.fld 0 1 - 128, by omega⟩
    obtain ⟨hbits, hback⟩ := setTag_feedTag v (by omega)
    rw [← hv] at hbits hback
    have hdone := exec_setTag_of_ok hruns hok hbits (tag := s.getF nimBase F.NIM_TAG_FEEDTAG)
      (by rw [hback, if_pos rfl, State.getF_of_regs (s := s) (t := s.took) rfl])
    rw [hback] at hdone
    exact exec_setTag_of_tag hruns (bits_lt _ _ _) (by decide : 0 < 2) hdone
  case clash =>
    have hdone := exec_groupForm_of_ok hruns hok hk hk2 hk14 (hfl.le.trans (Nat.zero_le _)) hlen hes hin hzero hown
    rw [hclash, hfl] at hdone
    obtain ⟨t, hexec, hanswered, hmailbox⟩ := exec_of_reply (u := s.took) hdone ⟨_, hruns⟩ rfl rfl
    exact ⟨t, hexec, hanswered, hmailbox.frame s.sdio s.mail⟩

end Sys2Proof.Machine
end

section
/-! SUPPORT. What a transition of the chip state leaves alone (Tables 1.12, 1.13, R559). -/

namespace Sys2Proof.Machine

/-- t differs from s at most in the chip state, in power, in the self-test slice, in the pinned fault, in posts, interrupts and registers. -/
structure State.OnlyTurn (s t : State) : Prop where
  frame : { t with
    chip := s.chip, power := s.power, bist := s.bist, errs := s.errs, regs := s.regs, sdio := { t.sdio with intStat := s.sdio.intStat }
    mail := { t.mail with posts := s.mail.posts } } = s

section
variable {s t u : State}

theorem State.OnlyTurn.refl (s : State) : s.OnlyTurn s := ⟨rfl⟩
theorem State.OnlyTurn.trans (h : s.OnlyTurn t) (g : t.OnlyTurn u) : s.OnlyTurn u := ⟨by rw [← h.frame, ← g.frame]⟩
theorem State.OnlyTurn.mem (h : s.OnlyTurn t) : t.mem = s.mem := (congrArg State.mem h.frame : _)
theorem State.OnlyTurn.img (h : s.OnlyTurn t) : t.img = s.img := (congrArg State.img h.frame : _)
theorem State.OnlyTurn.nim (h : s.OnlyTurn t) : t.nim = s.nim := (congrArg State.nim h.frame : _)
theorem State.OnlyTurn.job (h : s.OnlyTurn t) : t.job = s.job := (congrArg State.job h.frame : _)
theorem State.OnlyTurn.on (h : s.OnlyTurn t) : t.on = s.on := (congrArg State.on h.frame : _)
theorem State.OnlyTurn.sets (h : s.OnlyTurn t) : t.sets = s.sets := (congrArg State.sets h.frame : _)
theorem State.OnlyTurn.cad (h : s.OnlyTurn t) : t.cad = s.cad := (congrArg State.cad h.frame : _)
theorem State.OnlyTurn.taken (h : s.OnlyTurn t) : t.mail.taken = s.mail.taken := (congrArg (fun u : State => u.mail.taken) h.frame : _)
theorem State.OnlyTurn.replies (h : s.OnlyTurn t) : t.mail.replies = s.mail.replies := (congrArg (fun u : State => u.mail.replies) h.frame : _)
theorem State.OnlyTurn.replyVer (h : s.OnlyTurn t) : t.replyVer = s.replyVer := (congrArg State.replyVer h.frame : _)
theorem State.OnlyTurn.cmdCi (h : s.OnlyTurn t) : t.sdio.cmdCi = s.sdio.cmdCi := (congrArg (fun u : State => u.sdio.cmdCi) h.frame : _)

end

theorem State.setF_onlyTurn (s : State) (base : Nat) (f : Fld) (v : Nat) : s.OnlyTurn (s.setF base f v) := ⟨rfl⟩

/-- No host command waits for the slice under way. -/
def State.sliceFree (s : State) : Prop := ∀ q, s.bist.slice = some q → q.cmd = none

/-- A slice that no command waits for ends without a reply. -/
theorem State.sliceLeave_of_free {s : State} (h : s.sliceFree) (answer : Bool) : ∃ b, s.sliceLeave answer = { s with bist := b } := by
  unfold State.sliceLeave
  split
  · next q hq =>
    have hcmd := h q hq
    dsimp only
    split
    · exact ⟨_, rfl⟩
    · split
      · rw [hcmd]
        exact ⟨_, rfl⟩
      · exact ⟨_, rfl⟩
  · exact ⟨s.bist, rfl⟩

/-- What the event of a transition leaves alone. -/
theorem State.announce_leaves (s : State) (arg : Nat) : let t := (s.postEvent 0x1 2 arg false).setInt 4
    s.OnlyTurn t ∧ t.chip = s.chip ∧ t.regs = s.regs ∧ t.errs = s.errs ∧ t.power = s.power := by
  unfold State.postEvent
  split <;> exact ⟨⟨rfl⟩, rfl, rfl, rfl, rfl⟩

/-- What a transition does to the state (Tables 1.12, 1.13). -/
theorem State.goChip_of_slice {s : State} {st : ChipSt} (h : st ∉ bistStates → ∃ b, s.sliceLeave (decide (st ≠ .faulted)) = { s with bist := b }) :
    let t := s.goChip st
    s.OnlyTurn t ∧ t.chip = { s.chip with st := st, prev := s.chip.st, transitions := (s.chip.transitions + 1) % 65536 } ∧ t.regs = s.regs
      ∧ t.errs = s.errs ∧ t.power = { s.power with ret := 0 } := by
  have hslice : ∃ b, (if st ∈ bistStates then s else s.sliceLeave (decide (st ≠ .faulted))) = { s with bist := b } := by
    split
    · exact ⟨s.bist, rfl⟩
    · next hst => exact h hst
  unfold State.goChip
  obtain ⟨b, hb⟩ := hslice
  rw [hb]
  extract_lets s0 c p s1
  obtain ⟨honly, hchip, hregs, herrs, hpower⟩ := s1.announce_leaves (st.code + 16 * s0.chip.st.code)
  have h1 : s.OnlyTurn s1 := ⟨rfl⟩
  exact ⟨h1.trans honly, hchip, hregs, herrs, hpower⟩

theorem State.goChip_leaves {s : State} {st : ChipSt} (h : st ∈ bistStates ∨ s.sliceFree) : let t := s.goChip st
    s.OnlyTurn t ∧ t.chip = { s.chip with st := st, prev := s.chip.st, transitions := (s.chip.transitions + 1) % 65536 } ∧ t.regs = s.regs
      ∧ t.errs = s.errs ∧ t.power = { s.power with ret := 0 } :=
  State.goChip_of_slice fun hst => State.sliceLeave_of_free (h.resolve_left hst) _

/-- Waking regions changes power and Horizon's register of regions at rest only (R498). -/
theorem State.hznWake_leaves (s : State) (mask : Nat) : let t := (s.hznWake mask).1
    s.OnlyTurn t ∧ t.chip = s.chip ∧ s.regsKept t [hznBase + F.HZN_REST_OFF.off] := by
  have hfold (l : List Nat) : ∃ p, l.foldl (fun st r => st.powerAsk (4 + r)) s = { s with power := p } := by
    have hask (u : State) (d : Nat) : ∃ p, u.powerAsk d = { u with power := p } := by
      unfold State.powerAsk State.powerUp
      split_ifs <;> exact ⟨_, rfl⟩
    induction l generalizing s with
    | nil => exact ⟨s.power, rfl⟩
    | cons r l ih =>
      obtain ⟨p, hp⟩ := hask s (4 + r)
      obtain ⟨p', hp'⟩ := ih (s.powerAsk (4 + r))
      exact ⟨p', by rw [List.foldl_cons, hp', hp]⟩
  unfold State.hznWake
  dsimp only
  obtain ⟨p, hp⟩ := hfold (onesOf 16 (mask &&& s.getF hznBase F.HZN_REST_OFF))
  rw [hp]
  have hpower : s.OnlyTurn { s with power := p } := ⟨rfl⟩
  refine ⟨hpower.trans (State.setF_onlyTurn _ _ _ _), State.setF_chip _ _ _ _, fun a ha => ?_⟩
  have hne : hznBase + F.HZN_REST_OFF.off ≠ a := fun h => ha (by rw [h]; exact List.mem_singleton_self _)
  rw [State.reg_setF_of_ne _ _ _ _ hne]
  exact State.reg_of_regs (s := s) (t := { s with power := p }) rfl a

/-- Waking every region leaves none at rest. -/
theorem State.hznWake_all (s : State) : ((s.hznWake 0xFFFF).1).getF hznBase F.HZN_REST_OFF = 0 := by
  unfold State.hznWake
  dsimp only
  rw [State.getF_setF_self _ _ _ _ (by decide)]
  have hnone : 0xFFFF ^^^ (0xFFFF % 65536) = 0 := by decide
  rw [hnone, Nat.and_zero]
  rfl

end Sys2Proof.Machine
end

section
/-! PROOFS. SECURE, RESTORE, REJOIN and ADOPT (R459, R474, R478). -/

namespace Sys2Proof.Machine

/-! ## SECURE -/

/-- t differs from s at most in the request's flag and in Nimbus. -/
structure State.OnlyRequest (s t : State) : Prop where
  frame : { t with regs := s.regs, nim := s.nim } = s
  reg : ∀ a, a ≠ nimBase + 4 → t.reg a = s.reg a
  req : t.isF nimBase F.NIM_STAT_REQ = true

section
variable {s t : State}

theorem State.OnlyRequest.taken (h : s.OnlyRequest t) : t.mail.taken = s.mail.taken := (congrArg (fun u : State => u.mail.taken) h.frame : _)
theorem State.OnlyRequest.cmdCi (h : s.OnlyRequest t) : t.sdio.cmdCi = s.sdio.cmdCi := (congrArg (fun u : State => u.sdio.cmdCi) h.frame : _)

/-- The flag of a request set, where it does not stand yet. -/
theorem State.flagF_onlyRequest (s : State) (n : Nim) : s.OnlyRequest { s.flagF nimBase F.NIM_STAT_REQ with nim := n } where
  frame := rfl
  reg a ha := (State.reg_of_regs (s := s.flagF nimBase F.NIM_STAT_REQ) (t := { s.flagF nimBase F.NIM_STAT_REQ with nim := n }) rfl a).trans
    (s.reg_setF_of_ne nimBase 1 F.NIM_STAT_REQ ha.symm)
  req := (State.isF_of_getF (State.getF_of_regs (s := s.flagF nimBase F.NIM_STAT_REQ) (t := { s.flagF nimBase F.NIM_STAT_REQ with nim := n }) rfl _ _)).trans
    (s.isF_flagF_self nimBase (by decide) rfl)

theorem State.OnlyRequest.withNim (h : s.OnlyRequest t) (n : Nim) : s.OnlyRequest { t with nim := n } where
  frame := (congrArg (fun u : State => { u with nim := s.nim }) h.frame : _)
  reg a ha := (State.reg_of_regs (s := t) (t := { t with nim := n }) rfl a).trans (h.reg a ha)
  req := (State.isF_of_getF (State.getF_of_regs (s := t) (t := { t with nim := n }) rfl _ _)).trans h.req

end

theorem State.secureRequest_of_armed {s : State} (h : s.chip.st = .armed) : ∃ u, s.secureRequest = u ∧ s.OnlyRequest u ∧ u.nim = s.nim := by
  refine ⟨_, rfl, ?_⟩
  unfold State.secureRequest
  split
  · next hreq => exact ⟨⟨rfl, fun _ _ => rfl, hreq⟩, rfl⟩
  · dsimp only
    rw [h]
    exact ⟨s.flagF_onlyRequest s.nim, rfl⟩

theorem State.secureRequest_of_running {s : State} (h : s.chip.st = .running) (hgroup : s.inGroup = false) (hreq : s.isF nimBase F.NIM_STAT_REQ = false) :
    ∃ u, s.secureRequest = u ∧ s.OnlyRequest u
      ∧ u.nim = { s.nim with due := true, dueStep := if planTraining s.img then some s.curStep else none } := by
  refine ⟨_, rfl, ?_⟩
  unfold State.secureRequest
  rw [if_neg (by rw [hreq]; exact Bool.false_ne_true)]
  dsimp only
  rw [h]
  dsimp only
  rw [if_neg (by rw [hgroup]; exact Bool.false_ne_true)]
  exact ⟨s.flagF_onlyRequest _, rfl⟩

theorem State.curStep_of_same {s t : State} (himg : t.img = s.img) (hjob : t.job = s.job) : t.curStep = s.curStep := by
  rw [State.curStep, himg, hjob, State.curStep]

/-- SECURE whose request leaves the state u: the command waits for the epoch. -/
theorem exec_secure_of_request {s u : State} (hruns : s.runs 0x0901 = true) (hok : s.front.ok 0 [] = true) (hst : s.chip.st ≠ .securing)
    (hreq : s.took.secureRequest = u) (honly : s.took.OnlyRequest u) :
    ∃ t, exec .secure s = .next t ∧ s.underway t ∧ t.isF nimBase F.NIM_STAT_REQ = true
      ∧ t.nim = { u.nim with secCmd := u.nim.secCmd ++ [s.mail.nextId] } ∧ s.regsKept t [nimBase + 4]
      ∧ { t with sdio := s.sdio, mail := s.mail, regs := s.regs, nim := s.nim, free := s.free } = s := by
  have hdone : exec .secure s = .next (State.goesOn { u with nim := { u.nim with secCmd := u.nim.secCmd ++ [s.mail.nextId] } } s.front) := by
    have hst' : s.took.chip.st ≠ .securing := hst
    refine (exec_of_runs hruns).trans (congrArg _ ?_)
    dsimp only
    rw [hok, if_neg (by decide), if_neg hst', hreq]
    rfl
  have hpending := State.goesOn_onlyPending { u with nim := { u.nim with secCmd := u.nim.secCmd ++ [s.mail.nextId] } } s.front
  have honly' := honly.withNim { u.nim with secCmd := u.nim.secCmd ++ [s.mail.nextId] }
  obtain ⟨v, hv⟩ : ∃ v : State, v = { u with nim := { u.nim with secCmd := u.nim.secCmd ++ [s.mail.nextId] } } := ⟨_, rfl⟩
  have hnim : v.nim = { u.nim with secCmd := u.nim.secCmd ++ [s.mail.nextId] } := by rw [hv]
  rw [← hv] at hdone hpending honly'
  generalize v.goesOn s.front = t at *
  refine ⟨t, hdone, State.underway_of hpending honly'.cmdCi (congrArg (List.map Taken.id) honly'.taken), ?_, ?_, fun a ha => ?_, ?_⟩
  · exact (State.isF_of_getF (State.getF_of_regs hpending.regs _ _)).trans honly'.req
  · exact (congrArg State.nim hpending.frame : _).trans hnim
  · rw [State.reg_of_regs hpending.regs, honly'.reg a (by simpa using ha)]
    exact State.reg_of_regs (s := s) (t := s.took) rfl a
  · have h1 : { t with sdio := s.sdio, mail := s.mail, regs := s.regs, nim := s.nim, free := s.free } =
        { v with sdio := s.sdio, mail := s.mail, regs := s.regs, nim := s.nim, free := s.free } :=
      (congrArg (fun x : State => { x with regs := s.regs, nim := s.nim }) (hpending.rest s.sdio s.mail s.free) : _)
    have h2 : { v with sdio := s.sdio, mail := s.mail, regs := s.regs, nim := s.nim, free := s.free } =
        { s.took with sdio := s.sdio, mail := s.mail, regs := s.regs, nim := s.nim, free := s.free } :=
      (congrArg (fun x : State => { x with sdio := s.sdio, mail := s.mail, regs := s.regs, nim := s.nim, free := s.free }) honly'.frame : _)
    exact h1.trans h2

/-! ## RESTORE, REJOIN and ADOPT -/

theorem ChipSt.restoring_not_bist : ChipSt.restoring ∉ bistStates := by decide

/-- RESTORING entered with no host command waiting for a slice (Table 1.12, R499). -/
theorem State.goRestoring_leaves {s : State} (h : s.sliceFree) : let t := s.goRestoring
    s.OnlyTurn t ∧ t.chip.st = .restoring ∧ t.chip.prev = s.chip.st ∧ t.getF hznBase F.HZN_REST_OFF = 0 := by
  obtain ⟨e, he⟩ : ∃ e, s.goRestoring = ((State.goChip { s with errs := e } .restoring).hznWake 0xFFFF).1 := ⟨_, rfl⟩
  have hu : s.OnlyTurn { s with errs := e } ∧ { s with errs := e }.chip = s.chip ∧ State.sliceFree { s with errs := e } := ⟨⟨rfl⟩, rfl, h⟩
  rw [he]
  generalize ({ s with errs := e } : State) = u at hu ⊢
  obtain ⟨hpin, hchip, hfree⟩ := hu
  obtain ⟨hturn, hgone, -⟩ := State.goChip_leaves (st := .restoring) (Or.inr hfree)
  have hoff := State.hznWake_all (u.goChip .restoring)
  obtain ⟨hwake, hsame, -⟩ := (u.goChip .restoring).hznWake_leaves 0xFFFF
  refine ⟨(hpin.trans hturn).trans hwake, ?_, ?_, hoff⟩
  · rw [hsame, hgone]
  · rw [hsame, hgone, hchip]

/-- A command that enters RESTORING goes on. -/
theorem exec_of_goRestoring {c : Instr} {s : State} (hfree : s.sliceFree) (n : Nim)
    (hdone : exec c s = .next (State.goesOn { s.took.goRestoring with nim := n } s.front)) :
    ∃ t, exec c s = .next t ∧ s.underway t ∧ t.chip.st = .restoring ∧ t.chip.prev = s.chip.st ∧ t.nim = n ∧ t.getF hznBase F.HZN_REST_OFF = 0
      ∧ t.mem = s.mem ∧ t.img = s.img := by
  obtain ⟨honly, hst, hprev, hoff⟩ := State.goRestoring_leaves (s := s.took) hfree
  generalize s.took.goRestoring = u at *
  have hpending := State.goesOn_onlyPending { u with nim := n } s.front
  have hu : State.getF { u with nim := n } hznBase F.HZN_REST_OFF = 0 := (State.getF_of_regs (s := u) (t := { u with nim := n }) rfl _ _).trans hoff
  refine ⟨_, hdone, State.underway_of hpending honly.cmdCi (congrArg (List.map Taken.id) honly.taken), ?_, ?_, ?_, ?_, ?_, ?_⟩
  · rw [hpending.chip]
    exact hst
  · rw [hpending.chip]
    exact hprev
  · exact (congrArg State.nim hpending.frame : _)
  · exact (State.getF_of_regs hpending.regs _ _).trans hu
  · exact hpending.mem.trans honly.mem
  · exact (congrArg State.img hpending.frame : _).trans honly.img

theorem State.goRestoring_nim {s : State} (h : s.sliceFree) : s.goRestoring.nim = s.nim := (State.goRestoring_leaves h).1.nim

theorem exec_restore_of_ok {s : State} (hruns : s.runs 0x0902 = true) (hok : s.front.ok 4 [] = true) (himg : s.img ≠ [])
    (hp1 : s.front.fld 0 4 = 0xFFFFFFFE → s.isF nimBase F.NIM_STAT_P1DONE = true) (hfree : s.sliceFree) :
    exec .restore s = .next (State.goesOn { s.took.goRestoring with nim := { s.nim with restore := some (s.mail.nextId, s.front.fld 0 4) } } s.front) := by
  have himg' : s.took.img.isEmpty = false := List.isEmpty_eq_false_iff.2 himg
  have hflag : s.took.isF nimBase F.NIM_STAT_P1DONE = s.isF nimBase F.NIM_STAT_P1DONE :=
    State.isF_of_getF (State.getF_of_regs (s := s) (t := s.took) rfl _ _)
  have hcond : ¬(s.front.fld 0 4 = 0xFFFFFFFE ∧ s.isF nimBase F.NIM_STAT_P1DONE = false) := fun ⟨h, h'⟩ => by
    rw [hp1 h] at h'
    exact Bool.false_ne_true h'.symm
  refine (exec_of_runs hruns).trans (congrArg _ ?_)
  dsimp only
  rw [hok, if_neg (by decide), himg', if_neg Bool.false_ne_true, hflag, if_neg hcond, State.goRestoring_nim (s := s.took) hfree]
  rfl

/-- A rebuild that begins. -/
def Rebuild.begun (s : State) (adopt : Bool) (coord group epoch : Nat) : Rebuild :=
  ⟨s.mail.nextId, adopt, coord, group, epoch, 0, false, 0, 0, false, [], 0, 0⟩

theorem State.beginRebuild_took {s : State} (hfree : s.sliceFree) (adopt : Bool) (coord group epoch : Nat) :
    s.took.beginRebuild s.front adopt coord group epoch =
      State.goesOn { s.took.goRestoring with nim := { s.nim with rebuild := some (Rebuild.begun s adopt coord group epoch) } } s.front := by
  rw [State.beginRebuild, State.goRestoring_nim (s := s.took) hfree]
  rfl

theorem exec_rejoin_of_ok {s : State} (hruns : s.runs 0x0903 = true) (hok : s.front.ok 8 [(2, 2)] = true) (himg : s.img ≠ []) :
    exec .rejoin s = .next (s.took.beginRebuild s.front false s.ownCoord (s.front.fld 0 2) (s.front.fld 4 4)) := by
  have himg' : s.took.img.isEmpty = false := List.isEmpty_eq_false_iff.2 himg
  have hcoord : s.took.ownCoord = s.ownCoord := State.getF_of_regs (s := s) (t := s.took) rfl _ _
  refine (exec_of_runs hruns).trans (congrArg _ ?_)
  rw [hok, if_neg (by decide), himg', if_neg Bool.false_ne_true, hcoord]

theorem exec_adopt_of_ok {s : State} (hruns : s.runs 0x0904 = true) (hok : s.front.ok 8 [] = true) (hlt : s.front.fld 0 2 < 4096) (himg : s.img ≠ []) :
    exec .adopt s = .next (s.took.beginRebuild s.front true (s.front.fld 0 2) (s.front.fld 2 2) (s.front.fld 4 4)) := by
  have himg' : s.took.img.isEmpty = false := List.isEmpty_eq_false_iff.2 himg
  refine (exec_of_runs hruns).trans (congrArg _ ?_)
  rw [hok, decide_eq_false (Nat.not_le.2 hlt), if_neg (by decide), himg', if_neg Bool.false_ne_true]

/-- A command refused with a status changes the mailbox only. -/
theorem exec_of_fail {c : Instr} {s : State} {op status : Nat} (hruns : s.runs op = true) (hdone : exec c s = .next (s.took.fail s.front status)) :
    ∃ t, exec c s = .next t ∧ s.answered t status [] ∧ { t with sdio := s.sdio, mail := s.mail } = s := by
  obtain ⟨t, hexec, hanswered, hmailbox⟩ := exec_of_reply (u := s.took) hdone ⟨_, hruns⟩ rfl rfl
  exact ⟨t, hexec, hanswered, hmailbox.frame s.sdio s.mail⟩

/-- Settles O47. -/
theorem recoveryCommands : Obligations.RecoveryCommands := by
  unfold Obligations.RecoveryCommands
  refine ⟨fun s hruns hok hst => ?armed, fun s hruns hok hst hgroup hreq => ?running, fun s hruns hok himg hp1 hfree => ?restore,
    fun s hruns hok himg hfree => ?rejoin, fun s hruns hok hlt himg hfree => ?adopt, fun s hruns hok himg => exec_of_fail hruns ?_,
    fun s hruns hok himg => exec_of_fail hruns ?_, fun s hruns hok hlt himg => exec_of_fail hruns ?_,
    fun s hruns hok himg heq hp1 => exec_of_fail hruns ?_⟩
  case armed =>
    obtain ⟨u, hu, honly, hnim⟩ := State.secureRequest_of_armed (s := s.took) hst
    have hdone := exec_secure_of_request hruns hok (by rw [hst]; decide) hu honly
    rwa [hnim] at hdone
  case running =>
    have hgroup' : s.took.inGroup = false := (State.isF_of_getF (State.getF_of_regs (s := s) (t := s.took) rfl _ _)).trans hgroup
    have hreq' : s.took.isF nimBase F.NIM_STAT_REQ = false := (State.isF_of_getF (State.getF_of_regs (s := s) (t := s.took) rfl _ _)).trans hreq
    obtain ⟨u, hu, honly, hnim⟩ := State.secureRequest_of_running (s := s.took) hst hgroup' hreq'
    obtain ⟨t, hexec, hunder, hflag, htnim, hkept, hframe⟩ := exec_secure_of_request hruns hok (by rw [hst]; decide) hu honly
    rw [hnim, State.curStep_of_same (s := s) (t := s.took) rfl rfl] at htnim
    exact ⟨t, hexec, hunder, hflag, by rw [htnim], by rw [htnim]; rfl, by rw [htnim]; rfl, hkept, hframe⟩
  case restore =>
    obtain ⟨t, hexec, hunder, hst, hprev, hnim, hoff, hmem, himg'⟩ := exec_of_goRestoring hfree _ (exec_restore_of_ok hruns hok himg hp1 hfree)
    exact ⟨t, hexec, hunder, hst, hprev, hnim, hoff, hmem, himg'⟩
  case rejoin =>
    have hdone := exec_rejoin_of_ok hruns hok himg
    rw [State.beginRebuild_took hfree] at hdone
    obtain ⟨t, hexec, hunder, hst, -, hnim, -, hmem, -⟩ := exec_of_goRestoring hfree _ hdone
    exact ⟨t, _, hexec, hunder, hst, hnim, rfl, rfl, rfl, rfl, rfl, rfl, rfl, hmem⟩
  case adopt =>
    have hdone := exec_adopt_of_ok hruns hok hlt himg
    rw [State.beginRebuild_took hfree] at hdone
    obtain ⟨t, hexec, hunder, hst, -, hnim, -, hmem, -⟩ := exec_of_goRestoring hfree _ hdone
    exact ⟨t, _, hexec, hunder, hst, hnim, rfl, rfl, rfl, rfl, rfl, rfl, rfl, hmem⟩
  · have himg' : s.took.img.isEmpty = true := List.isEmpty_iff.2 himg
    refine (exec_of_runs hruns).trans (congrArg _ ?_)
    dsimp only
    rw [hok, if_neg (by decide), if_pos himg']
  · have himg' : s.took.img.isEmpty = true := List.isEmpty_iff.2 himg
    refine (exec_of_runs hruns).trans (congrArg _ ?_)
    rw [hok, if_neg (by decide), if_pos himg']
  · have himg' : s.took.img.isEmpty = true := List.isEmpty_iff.2 himg
    refine (exec_of_runs hruns).trans (congrArg _ ?_)
    rw [hok, decide_eq_false (Nat.not_le.2 hlt), if_neg (by decide), if_pos himg']
  · have himg' : s.took.img.isEmpty = false := List.isEmpty_eq_false_iff.2 himg
    have hflag : s.took.isF nimBase F.NIM_STAT_P1DONE = false := (State.isF_of_getF (State.getF_of_regs (s := s) (t := s.took) rfl _ _)).trans hp1
    refine (exec_of_runs hruns).trans (congrArg _ ?_)
    dsimp only
    rw [hok, if_neg (by decide), himg', if_neg Bool.false_ne_true, if_pos ⟨heq, hflag⟩]

end Sys2Proof.Machine
end


section
/-! SUPPORT. States that differ in registers alone. -/

namespace Sys2Proof.Machine

/-- t differs from s at most in the registers. -/
structure State.OnlyRegs (s t : State) : Prop where
  frame : { t with regs := s.regs } = s

section
variable {s t u : State}

theorem State.OnlyRegs.refl (s : State) : s.OnlyRegs s := ⟨rfl⟩

theorem State.OnlyRegs.trans (h : s.OnlyRegs t) (g : t.OnlyRegs u) : s.OnlyRegs u := ⟨by rw [← h.frame, ← g.frame]⟩

theorem State.OnlyRegs.of_setReg (s : State) (a : Nat) (w : Word) : s.OnlyRegs (s.setReg a w) := ⟨rfl⟩
theorem State.OnlyRegs.of_setF (s : State) (base : Nat) (f : Fld) (v : Nat) : s.OnlyRegs (s.setF base f v) := ⟨rfl⟩
theorem State.OnlyRegs.of_flagF (s : State) (base : Nat) (f : Fld) : s.OnlyRegs (s.flagF base f) := .of_setF s base f 1
theorem State.OnlyRegs.of_addF (s : State) (base : Nat) (f : Fld) (k : Nat) : s.OnlyRegs (s.addF base f k) := .of_setF s base f _
theorem State.OnlyRegs.of_setFs (s : State) (base : Nat) (l : List (Fld × Nat)) : s.OnlyRegs (s.setFs base l) := ⟨s.setFs_frame base⟩
theorem State.OnlyRegs.of_setRegs (s : State) (l : List (Nat × Word)) : s.OnlyRegs (s.setRegs l) := ⟨s.setRegs_frame⟩

variable (h : s.OnlyRegs t)
include h

theorem State.OnlyRegs.mem : t.mem = s.mem := (congrArg State.mem h.frame : _)
theorem State.OnlyRegs.flips : t.flips = s.flips := (congrArg State.flips h.frame : _)
theorem State.OnlyRegs.chip : t.chip = s.chip := (congrArg State.chip h.frame : _)
theorem State.OnlyRegs.on : t.on = s.on := (congrArg State.on h.frame : _)
theorem State.OnlyRegs.power : t.power = s.power := (congrArg State.power h.frame : _)
theorem State.OnlyRegs.macros : t.macros = s.macros := (congrArg State.macros h.frame : _)
theorem State.OnlyRegs.blocks : t.blocks = s.blocks := (congrArg State.blocks h.frame : _)
theorem State.OnlyRegs.regions : t.regions = s.regions := (congrArg State.regions h.frame : _)
theorem State.OnlyRegs.net : t.net = s.net := (congrArg State.net h.frame : _)
theorem State.OnlyRegs.mesh : t.mesh = s.mesh := (congrArg State.mesh h.frame : _)
theorem State.OnlyRegs.hbmQ : t.hbmQ = s.hbmQ := (congrArg State.hbmQ h.frame : _)
theorem State.OnlyRegs.hbmPos : t.hbmPos = s.hbmPos := (congrArg State.hbmPos h.frame : _)
theorem State.OnlyRegs.free : t.free = s.free := (congrArg State.free h.frame : _)
theorem State.OnlyRegs.mail : t.mail = s.mail := (congrArg State.mail h.frame : _)
theorem State.OnlyRegs.sdio : t.sdio = s.sdio := (congrArg State.sdio h.frame : _)
theorem State.OnlyRegs.nim : t.nim = s.nim := (congrArg State.nim h.frame : _)
theorem State.OnlyRegs.job : t.job = s.job := (congrArg State.job h.frame : _)

theorem State.OnlyRegs.pdOn (d : Nat) : t.pdOn d = s.pdOn d := by
  simp only [State.pdOn, State.pdPow, h.on, h.power]

theorem State.OnlyRegs.bx (b : Nat) : t.bx b = s.bx b := by simp only [State.bx, h.blocks]
theorem State.OnlyRegs.mx (m : Nat) : t.mx m = s.mx m := by simp only [State.mx, h.macros]
theorem State.OnlyRegs.rx (r : Nat) : t.rx r = s.rx r := by simp only [State.rx, h.regions]

end

end Sys2Proof.Machine
end

section
/-! PROOFS. Cirrus thresholds and recalibration (R281 to R284). -/

namespace Sys2Proof.Machine

/-! ## Blocks -/

theorem State.bx_setBx_self (s : State) (b : Nat) (x : BlockX) : (s.setBx b x).bx b = x := SMap.get_set_self _ _ _ _

theorem State.setBx_othersKept (s : State) (b : Nat) (x : BlockX) : s.othersKept (s.setBx b x) b := fun _ hq =>
  SMap.get_set_ne _ _ _ (Ne.symm hq)

/-! ## Chains -/

/-- The bit of FAIL that stands for chain n. -/
def chainFld (n : Nat) : Fld := ⟨0x30110 + 4 * (n / 32), n % 32, 1⟩

theorem chainFld_width (n : Nat) : (chainFld n).lo + (chainFld n).width ≤ 32 := Nat.succ_le_of_lt (Nat.mod_lt n (by decide))

theorem State.getF_chainFld (s : State) (b n : Nat) :
    s.getF (blkBase b) (chainFld n) = ((s.reg (blkBase b + 0x30110 + 4 * (n / 32))).toNat.testBit (n % 32)).toNat := by
  rw [State.getF, chainFld, bits, Nat.testBit_eq_decide_div_mod_eq, Nat.shiftRight_eq_div_pow, pow_one, Nat.add_assoc]
  have := Nat.mod_two_eq_zero_or_one ((s.reg (blkBase b + (0x30110 + 4 * (n / 32)))).toNat / 2 ^ (n % 32))
  rcases this with h | h <;> rw [h] <;> rfl

theorem chainFld_apart {n : Nat} {f : Fld} (h : f.off < 0x30110) : f.apart (chainFld n) := Or.inl (by simp only [chainFld]; omega)

section
variable {s : State} {b n : Nat}

/-- What new trims of a chain leave alone. -/
theorem State.setTrim_leaves (s : State) (b n : Nat) : let t := s.setTrim b n
    t.regs = s.regs ∧ (∀ k, k ≠ 256 * b + n → SMap.get (0, 0) t.mem.cirTrim k = SMap.get (0, 0) s.mem.cirTrim k)
      ∧ { t.mem with cirTrim := s.mem.cirTrim } = s.mem ∧ { t with mem := s.mem, free := s.free } = s :=
  ⟨rfl, fun _ hk => SMap.get_set_ne _ _ _ (Ne.symm hk), rfl, rfl⟩

theorem recalChain_of_open (hon : s.compOn b = true) (hopen : s.isF (blkBase b) F.CIR_STAT_RECAL = true)
    (hn : n = s.getF (blkBase b) F.CIR_CAL_STAT_NEXT_CHAIN) (hlt : n < 255) (ok : Bool) :
    recalChain s b ok = (if ok then (s.setTrim b n).setF (blkBase b) (chainFld n) 0
      else (s.flagF (blkBase b) (chainFld n)).chipEvent 1 (unitBlk b) 0x53).setF (blkBase b) F.CIR_CAL_STAT_NEXT_CHAIN (n + 1) := by
  unfold recalChain chainFld
  extract_lets base m f s1 s2
  have hm : m = n := hn.symm
  rw [hon, hopen, Bool.and_self, if_pos rfl, if_neg (by omega : ¬m = 255)]
  clear_value m
  rw [← hm]

/-- A chain trimmed within its range. -/
theorem exec_recalibrationChain_trims (hon : s.compOn b = true) (hopen : s.isF (blkBase b) F.CIR_STAT_RECAL = true)
    (hn : n = s.getF (blkBase b) F.CIR_CAL_STAT_NEXT_CHAIN) (hlt : n < 255) :
    ∃ t, exec (.recalibrationChain b true) s = .next t ∧ t.getF (blkBase b) F.CIR_CAL_STAT_NEXT_CHAIN = n + 1
      ∧ (t.reg (blkBase b + 0x30110 + 4 * (n / 32))).toNat.testBit (n % 32) = false
      ∧ s.regsKept t [blkBase b + 0x30104, blkBase b + 0x30110 + 4 * (n / 32)]
      ∧ (∀ k, k ≠ 256 * b + n → SMap.get (0, 0) t.mem.cirTrim k = SMap.get (0, 0) s.mem.cirTrim k)
      ∧ { t.mem with cirTrim := s.mem.cirTrim } = s.mem ∧ { t with regs := s.regs, mem := s.mem, free := s.free } = s := by
  obtain ⟨hregs, htrims, hmem, hframe⟩ := s.setTrim_leaves b n
  have hdone : recalChain s b true = (s.setTrim b n).setFs (blkBase b) [(chainFld n, 0), (F.CIR_CAL_STAT_NEXT_CHAIN, n + 1)] := by
    rw [recalChain_of_open hon hopen hn hlt, if_pos rfl]
    rfl
  generalize s.setTrim b n = u at *
  have hpair : [(chainFld n, 0), (F.CIR_CAL_STAT_NEXT_CHAIN, n + 1)].Pairwise fun p q => q.1.apart p.1 := by
    simpa using chainFld_apart (n := n) (f := F.CIR_CAL_STAT_NEXT_CHAIN) (by decide)
  have hw : ∀ p ∈ [(chainFld n, 0), (F.CIR_CAL_STAT_NEXT_CHAIN, n + 1)], p.1.lo + p.1.width ≤ 32 := by
    simpa using chainFld_width n
  have hset := u.setFs_frame (blkBase b) (l := [(chainFld n, 0), (F.CIR_CAL_STAT_NEXT_CHAIN, n + 1)])
  have hbit := State.getF_chainFld (u.setFs (blkBase b) [(chainFld n, 0), (F.CIR_CAL_STAT_NEXT_CHAIN, n + 1)]) b n
  rw [u.getF_setFs (blkBase b) hpair hw (f := chainFld n) (v := 0) (by simp), Nat.zero_mod] at hbit
  have hnext := u.getF_setFs (blkBase b) hpair hw (f := F.CIR_CAL_STAT_NEXT_CHAIN) (v := n + 1) (by simp)
  have hreg (a : Nat) (ha : a ∉ [blkBase b + 0x30104, blkBase b + 0x30110 + 4 * (n / 32)]) :
      (u.setFs (blkBase b) [(chainFld n, 0), (F.CIR_CAL_STAT_NEXT_CHAIN, n + 1)]).reg a = u.reg a := by
    refine u.reg_setFs_of_ne _ fun p hp heq => ha ?_
    simp only [List.mem_cons, List.not_mem_nil, or_false] at hp ⊢
    rcases hp with rfl | rfl
    · exact Or.inr (by rw [← heq, chainFld, Nat.add_assoc])
    · exact Or.inl heq.symm
  generalize u.setFs (blkBase b) [(chainFld n, 0), (F.CIR_CAL_STAT_NEXT_CHAIN, n + 1)] = t at *
  have htmem : t.mem = u.mem := (congrArg State.mem hset : _)
  refine ⟨t, exec_eq_next hdone, hnext.trans (Nat.mod_eq_of_lt (by omega : n + 1 < 256)), ?_, fun a ha => ?_, ?_, ?_, ?_⟩
  · exact Bool.toNat_eq_zero.1 hbit.symm
  · rw [hreg a ha, State.reg_of_regs hregs]
  · rwa [htmem]
  · rwa [htmem]
  · exact (congrArg (fun x : State => { x with regs := s.regs, mem := s.mem, free := s.free }) hset : _).trans
      (congrArg (fun x : State => { x with regs := s.regs }) hframe : _)

theorem notPml_blkBase (b off : Nat) : notPml (blkBase b + off) := Or.inr (by simp only [nimBase, blkBase]; omega)

/-- A chain whose trim is out of range. -/
theorem exec_recalibrationChain_fails (hon : s.compOn b = true) (hopen : s.isF (blkBase b) F.CIR_STAT_RECAL = true)
    (hn : n = s.getF (blkBase b) F.CIR_CAL_STAT_NEXT_CHAIN) (hlt : n < 255) :
    ∃ t, exec (.recalibrationChain b false) s = .next t ∧ t.getF (blkBase b) F.CIR_CAL_STAT_NEXT_CHAIN = n + 1
      ∧ (t.reg (blkBase b + 0x30110 + 4 * (n / 32))).toNat.testBit (n % 32) = true
      ∧ { t with regs := s.regs, errs := s.errs, pml := s.pml, mail := s.mail } = s := by
  have hdone := recalChain_of_open hon hopen hn hlt false
  have hflag : (s.flagF (blkBase b) (chainFld n)).getF (blkBase b) (chainFld n) = 1 := s.getF_setF_self (blkBase b) (chainFld n) 1 (chainFld_width n)
  have honly := (State.OnlyRecords.of_setF s (blkBase b) (chainFld n) 1).trans ((s.setF (blkBase b) (chainFld n) 1).chipEvent_onlyRecords 1 (unitBlk b) 0x53)
  have hkept := (s.flagF (blkBase b) (chainFld n)).chipEvent_getF (notPml_blkBase b (chainFld n).off) 1 (unitBlk b) 0x53
  rw [State.flagF] at hdone hkept hflag
  rw [if_neg Bool.false_ne_true] at hdone
  generalize (s.setF (blkBase b) (chainFld n) 1).chipEvent 1 (unitBlk b) 0x53 = u at *
  have hnext := u.getF_setF_self (blkBase b) F.CIR_CAL_STAT_NEXT_CHAIN (n + 1) (by decide)
  have hbit := u.getF_setF_of_apart (blkBase b) (n + 1) (chainFld_apart (n := n) (f := F.CIR_CAL_STAT_NEXT_CHAIN) (by decide)) (chainFld_width n)
  rw [hkept, hflag, State.getF_chainFld] at hbit
  have honly' := honly.trans (.of_setF u (blkBase b) F.CIR_CAL_STAT_NEXT_CHAIN (n + 1))
  generalize u.setF (blkBase b) F.CIR_CAL_STAT_NEXT_CHAIN (n + 1) = t at *
  exact ⟨t, exec_eq_next hdone, hnext.trans (Nat.mod_eq_of_lt (by omega : n + 1 < 256)), Bool.toNat_eq_one.1 hbit,
    (congrArg (fun x : State => { x with regs := s.regs, errs := s.errs, pml := s.pml, mail := s.mail }) honly'.frame : _)⟩

theorem toSigned_ofSigned {c : Int} (hlo : -128 ≤ c) (hhi : c ≤ 127) : toSigned 8 (ofSigned 8 c % 2 ^ 8) = c := by
  have hmod : ofSigned 8 c % 2 ^ 8 = ofSigned 8 c := Nat.mod_eq_of_lt (by simp only [ofSigned]; omega)
  rw [hmod, toSigned, ofSigned]
  norm_num
  split <;> omega

/-- What the last chain writes. -/
def lastChain (n temp passes : Nat) : List (Fld × Nat) :=
  [(chainFld n, 0), (F.CIR_CAL_STAT_NEXT_CHAIN, n + 1), (F.CIR_STAT_CAL, 1), (F.CIR_CAL_STAT_TEMP, temp), (F.CIR_CAL_STAT_PASSES, passes)]

theorem lastChain_pairwise (n temp passes : Nat) : (lastChain n temp passes).Pairwise fun p q => q.1.apart p.1 := by
  have hapart {f : Fld} (h : f.off < 0x30110) : f.apart (chainFld n) := chainFld_apart h
  simp [lastChain, hapart]
  simp [Fld.apart]

theorem lastChain_width (n temp passes : Nat) : ∀ p ∈ lastChain n temp passes, p.1.lo + p.1.width ≤ 32 := by
  simp [lastChain, chainFld_width]

/-- A register of Horizon, whose base lies below the blocks. -/
theorem State.regionTemp_setF (s : State) (b : Nat) (f : Fld) (v : Nat) {r : Nat} (hr : r < 16) :
    (s.setF (blkBase b) f v).regionTemp r = s.regionTemp r := by
  have hne : blkBase b + f.off ≠ hznBase + (F.HZN_CH_VAL_F.idx (0x10 * r)).off := by
    have hoff : F.HZN_CH_VAL_F.off < 0x10000 := by decide
    simp only [blkBase, hznBase, Fld.idx]
    omega
  rw [State.regionTemp, s.getF_setF_of_ne _ _ _ _ hne, State.regionTemp]

theorem State.wholeDeg_of_whole (s : State) (c : Int) : s.wholeDeg (256000 * c) = (c, s) := by
  rw [State.wholeDeg, if_pos (Int.mul_emod_right _ _), Int.mul_ediv_cancel_left _ (by decide)]

/-- The end of a recalibration: the temperature is recorded, the pass counted. -/
def State.calEnd (s : State) (b : Nat) : State :=
  let w := s.wholeDeg (s.regionTemp (b / 16))
  ((w.2.flagF (blkBase b) F.CIR_STAT_CAL).setF (blkBase b) F.CIR_CAL_STAT_TEMP (ofSigned 8 w.1)).setF (blkBase b) F.CIR_CAL_STAT_PASSES
    (w.2.getF (blkBase b) F.CIR_CAL_STAT_PASSES + 1)

/-- A chain trimmed, and the next one's turn. -/
def State.chainTrimmed (s : State) (b n : Nat) : State :=
  ((s.setTrim b n).setF (blkBase b) (chainFld n) 0).setF (blkBase b) F.CIR_CAL_STAT_NEXT_CHAIN (n + 1)

theorem recalChain_of_last (hon : s.compOn b = true) (hopen : s.isF (blkBase b) F.CIR_STAT_RECAL = true)
    (hn : n = s.getF (blkBase b) F.CIR_CAL_STAT_NEXT_CHAIN) (hlast : n = 255) : recalChain s b true = (s.chainTrimmed b n).calEnd b := by
  unfold recalChain
  extract_lets base m f s1 s2
  have hm : m = n := hn.symm
  rw [hon, hopen, Bool.and_self, if_pos rfl, if_pos (hm.trans hlast)]
  have hs2 : s2 = s.chainTrimmed b n := by
    simp only [s2, s1, f, base, if_pos, hm, State.chainTrimmed, chainFld]
  clear_value s2
  rw [← hs2]
  clear hs2
  split
  next w => simp only [State.calEnd, w, base]

/-- The last chain's trims and the pass that it ends. -/
theorem State.calEnd_chainTrimmed {c : Int} (hon : s.compOn b = true) (htemp : s.regionTemp (b / 16) = 256000 * c) (n : Nat) :
    (s.chainTrimmed b n).calEnd b = (s.setTrim b n).setFs (blkBase b) (lastChain n (ofSigned 8 c) (s.getF (blkBase b) F.CIR_CAL_STAT_PASSES + 1)) := by
  have hb := (Bool.and_eq_true_iff.1 hon).1
  rw [decide_eq_true_eq] at hb
  have hregs : (s.setTrim b n).regs = s.regs := (s.setTrim_leaves b n).1
  have htemp' : (s.setTrim b n).regionTemp (b / 16) = 256000 * c := by
    rw [State.regionTemp, State.getF_of_regs hregs, ← htemp, State.regionTemp]
  have hpasses := State.getF_of_regs hregs (blkBase b) F.CIR_CAL_STAT_PASSES
  rw [State.chainTrimmed, State.calEnd]
  generalize s.setTrim b n = u at *
  rw [State.regionTemp_setF _ b _ _ (by omega), State.regionTemp_setF _ b _ _ (by omega), htemp', State.wholeDeg_of_whole]
  dsimp only
  rw [State.getF_setF_of_apart _ _ _ (by decide) (by decide),
    State.getF_setF_of_apart _ _ _ (Or.inl (by simp only [chainFld]; omega)) (by decide), hpasses]
  simp only [State.setFs, lastChain, List.foldl_cons, List.foldl_nil, State.flagF]

/-- The last chain of a recalibration. -/
theorem exec_recalibrationChain_ends {c : Int} (hon : s.compOn b = true) (hopen : s.isF (blkBase b) F.CIR_STAT_RECAL = true)
    (hn : s.getF (blkBase b) F.CIR_CAL_STAT_NEXT_CHAIN = 255) (htemp : s.regionTemp (b / 16) = 256000 * c) (hlo : -128 ≤ c) (hhi : c ≤ 127) :
    ∃ t, exec (.recalibrationChain b true) s = .next t ∧ t.isF (blkBase b) F.CIR_STAT_CAL = true
      ∧ t.getF (blkBase b) F.CIR_CAL_STAT_NEXT_CHAIN = 0 ∧ toSigned 8 (t.getF (blkBase b) F.CIR_CAL_STAT_TEMP) = c
      ∧ t.getF (blkBase b) F.CIR_CAL_STAT_PASSES = (s.getF (blkBase b) F.CIR_CAL_STAT_PASSES + 1) % 2 ^ 16
      ∧ s.regsKept t [blkBase b + 0x30100, blkBase b + 0x30104, blkBase b + 0x3012C]
      ∧ { t.mem with cirTrim := s.mem.cirTrim } = s.mem ∧ { t with regs := s.regs, mem := s.mem, free := s.free } = s := by
  obtain ⟨n, hcur, hlast⟩ : ∃ n, n = s.getF (blkBase b) F.CIR_CAL_STAT_NEXT_CHAIN ∧ n = 255 := ⟨_, rfl, hn⟩
  have hdone := (recalChain_of_last hon hopen hcur hlast).trans (State.calEnd_chainTrimmed hon htemp n)
  obtain ⟨hregs, -, hmem, hframe⟩ := s.setTrim_leaves b n
  generalize s.setTrim b n = u at *
  generalize hp : s.getF (blkBase b) F.CIR_CAL_STAT_PASSES + 1 = passes at *
  generalize ht : ofSigned 8 c = temp at *
  have hfield {f : Fld} {v : Nat} (h : (f, v) ∈ lastChain n temp passes) :=
    u.getF_setFs (blkBase b) (lastChain_pairwise n temp passes) (lastChain_width n temp passes) h
  have hset := u.setFs_frame (blkBase b) (l := lastChain n temp passes)
  have hreg (a : Nat) (ha : a ∉ [blkBase b + 0x30100, blkBase b + 0x30104, blkBase b + 0x3012C]) :
      (u.setFs (blkBase b) (lastChain n temp passes)).reg a = u.reg a := by
    refine u.reg_setFs_of_ne _ fun p hp heq => ha ?_
    rw [← heq]
    simp only [lastChain, List.mem_cons, List.not_mem_nil, or_false] at hp
    rcases hp with rfl | rfl | rfl | rfl | rfl <;> simp [chainFld, hlast]
  generalize u.setFs (blkBase b) (lastChain n temp passes) = t at *
  have htmem : t.mem = u.mem := (congrArg State.mem hset : _)
  refine ⟨t, exec_eq_next hdone, ?_, ?_, ?_, ?_, fun a ha => ?_, ?_, ?_⟩
  · rw [State.isF, hfield (v := 1) (by simp [lastChain])]
    rfl
  · rw [hfield (v := n + 1) (by simp [lastChain]), hlast]
    rfl
  · rw [hfield (v := temp) (by simp [lastChain]), ← ht]
    exact toSigned_ofSigned hlo hhi
  · rw [hfield (v := passes) (by simp [lastChain])]
  · rw [hreg a ha, State.reg_of_regs hregs]
  · rwa [htmem]
  · exact (congrArg (fun x : State => { x with regs := s.regs, mem := s.mem, free := s.free }) hset : _).trans
      (congrArg (fun x : State => { x with regs := s.regs }) hframe : _)

end

theorem recalChain_of_closed {s : State} {b : Nat} (h : s.isF (blkBase b) F.CIR_STAT_RECAL = false) (ok : Bool) : recalChain s b ok = s := by
  unfold recalChain
  extract_lets base m f s1 s2
  rw [h, Bool.and_false, if_neg Bool.false_ne_true]

/-- Settles O43. -/
theorem cirrusUpkeep : Obligations.CirrusUpkeep := by
  unfold Obligations.CirrusUpkeep
  refine ⟨fun s b v hon => ?_, fun s b n hon hopen hn hlt => exec_recalibrationChain_trims hon hopen hn hlt,
    fun s b n hon hopen hn hlt => exec_recalibrationChain_fails hon hopen hn hlt,
    fun s b c hon hopen hn htemp hlo hhi => exec_recalibrationChain_ends hon hopen hn htemp hlo hhi,
    fun s b ok hclosed => exec_eq_next (recalChain_of_closed hclosed ok)⟩
  refine ⟨s.setBx b { s.bx b with thrPend := some (v % 2 ^ 24) }, ?_, s.bx_setBx_self _ _, s.setBx_othersKept _ _, rfl⟩
  have hexec : exec (.cirThreshWrite b v) s = .next (if s.compOn b then cirThrWrite s b v else s) := rfl
  rw [hexec, hon, if_pos rfl, cirThrWrite]

end Sys2Proof.Machine
end


section

/-! PROOFS. O55: planes of a row and the dot product. -/

namespace Sys2Proof.Machine

/-- What a 1 bit of plane `p` counts for: the top plane of a signed input counts negative (R43). -/
def planeWeight (signed : Bool) (a p : Nat) : Int := if signed && decide (p + 1 = a) then -(2 ^ p) else 2 ^ p

/-- A value that `a` bits hold, signed or not. -/
def InBits (signed : Bool) (a : Nat) (x : Int) : Prop :=
  if signed then -(2 ^ (a - 1) : Int) ≤ x ∧ x < 2 ^ (a - 1) else 0 ≤ x ∧ x < 2 ^ a

theorem satAdd_of_exact {acc24 : Bool} {x d : Int} (h : (satAdd acc24 x d).2 = false) : (satAdd acc24 x d).1 = x + d := by
  unfold satAdd at h ⊢
  dsimp only at h ⊢
  split at h
  · cases h
  · split at h
    · cases h
    · rw [if_neg ‹_›, if_neg ‹_›]

theorem satAdd_zero {acc24 : Bool} {x : Int} (hlo : accMin acc24 ≤ x) (hhi : x ≤ accMax acc24) : satAdd acc24 x 0 = (x, false) := by
  unfold satAdd
  dsimp only
  rw [if_neg (by omega), if_neg (by omega), add_zero]

theorem accMin_le_satAdd (acc24 : Bool) (x d : Int) : accMin acc24 ≤ (satAdd acc24 x d).1 := by
  have h : accMin acc24 ≤ accMax acc24 := by cases acc24 <;> decide
  unfold satAdd
  dsimp only
  split <;> [exact h; split] <;> omega

theorem satAdd_le_accMax (acc24 : Bool) (x d : Int) : (satAdd acc24 x d).1 ≤ accMax acc24 := by
  have h : accMin acc24 ≤ accMax acc24 := by cases acc24 <;> decide
  unfold satAdd
  dsimp only
  split <;> [exact le_refl _; split] <;> omega

/-- One plane's addition, with the count of saturations: the step that `applyPlanes` folds. -/
def applyPlane (acc24 signed : Bool) (a : Nat) (acc : Int × Nat) (q : Nat × Int) : Int × Nat :=
  let r := satAdd acc24 acc.1 (planeWeight signed a q.1 * q.2)
  (r.1, acc.2 + b2n r.2)

theorem applyPlanes_eq (acc24 signed : Bool) (a : Nat) (init : Int) (parts : List (Nat × Int)) :
    applyPlanes acc24 signed a init parts = parts.foldl (applyPlane acc24 signed a) (init, 0) := by
  unfold applyPlanes
  congr 1
  funext acc q
  unfold applyPlane planeWeight
  dsimp only
  split
  · rw [show -q.2 * 2 ^ q.1 = -2 ^ q.1 * q.2 by ring]
  · rw [mul_comm]

theorem foldl_applyPlane_count_le (acc24 signed : Bool) (a : Nat) (parts : List (Nat × Int)) (acc : Int × Nat) :
    acc.2 ≤ (parts.foldl (applyPlane acc24 signed a) acc).2 := by
  induction parts generalizing acc with
  | nil => exact le_refl _
  | cons q parts ih => exact (Nat.le_add_right _ _).trans (ih (applyPlane acc24 signed a acc q))

theorem foldl_applyPlane_of_exact (acc24 signed : Bool) (a : Nat) (parts : List (Nat × Int)) (init : Int)
    (h : (parts.foldl (applyPlane acc24 signed a) (init, 0)).2 = 0) :
    (parts.foldl (applyPlane acc24 signed a) (init, 0)).1 = init + (parts.map (fun q => planeWeight signed a q.1 * q.2)).sum := by
  induction parts generalizing init with
  | nil => simp
  | cons q parts ih =>
    have hcount := foldl_applyPlane_count_le acc24 signed a parts (applyPlane acc24 signed a (init, 0) q)
    rw [List.foldl_cons] at h
    have hflag : (satAdd acc24 init (planeWeight signed a q.1 * q.2)).2 = false := by
      by_contra hne
      have : (applyPlane acc24 signed a (init, 0) q).2 = 1 := by simp [applyPlane, b2n, hne]
      omega
    have hstep : applyPlane acc24 signed a (init, 0) q = (init + planeWeight signed a q.1 * q.2, 0) := by
      simp [applyPlane, satAdd_of_exact hflag, hflag, b2n]
    rw [hstep] at h
    rw [List.foldl_cons, hstep, ih _ h, List.map_cons, List.sum_cons, add_assoc]

theorem applyPlanes_of_exact {acc24 signed : Bool} {a : Nat} {init : Int} {parts : List (Nat × Int)}
    (h : (applyPlanes acc24 signed a init parts).2 = 0) :
    (applyPlanes acc24 signed a init parts).1 = init + (parts.map (fun q => planeWeight signed a q.1 * q.2)).sum := by
  rw [applyPlanes_eq] at h ⊢
  exact foldl_applyPlane_of_exact _ _ _ _ _ h

theorem mod_pow_succ_testBit (n k : Nat) : n % 2 ^ (k + 1) = n % 2 ^ k + 2 ^ k * (n.testBit k).toNat := by
  rw [Nat.mod_pow_succ, Nat.toNat_testBit]

/-- The lower `k` bits of `n`, each at its place, make `n % 2 ^ k`. -/
theorem sum_bits_below (k n : Nat) :
    ((List.range k).map (fun p => (2 : Int) ^ p * if n.testBit p then 1 else 0)).sum = (n % 2 ^ k : Nat) := by
  induction k with
  | zero => simp [Nat.mod_one]
  | succ k ih =>
    rw [List.range_succ, List.map_append, List.sum_append, ih, mod_pow_succ_testBit]
    cases h : n.testBit k <;> simp [h]

theorem sum_planes_below_top (signed : Bool) (k n : Nat) :
    ((List.range k).map (fun p => planeWeight signed (k + 1) p * if n.testBit p then 1 else 0)).sum = (n % 2 ^ k : Nat) := by
  rw [← sum_bits_below]
  refine congrArg List.sum (List.map_congr_left fun p hp => ?_)
  have : p ≠ k := (List.mem_range.mp hp).ne
  simp [planeWeight, this]

/-- An input is the sum of its bits at the weights of their planes (R43). -/
theorem sum_planes (signed : Bool) {a : Nat} (ha : 1 ≤ a) {x : Int} (hx : InBits signed a x) :
    ((List.range a).map (fun p => planeWeight signed a p * if (ofSigned a x).testBit p then 1 else 0)).sum = x := by
  obtain ⟨k, rfl⟩ : ∃ k, a = k + 1 := ⟨a - 1, by omega⟩
  generalize hn : ofSigned (k + 1) x = n
  have hmod := mod_pow_succ_testBit n k
  have hlow : n % 2 ^ k < 2 ^ k := Nat.mod_lt _ (Nat.two_pow_pos k)
  have hpos : 0 < 2 ^ k := Nat.two_pow_pos k
  have hcast : ((2 ^ (k + 1) : Nat) : Int) = 2 * ((2 ^ k : Nat) : Int) := by rw [pow_succ]; push_cast; ring
  have hnx : (n : Int) = x % (2 ^ (k + 1) : Nat) := by
    rw [← hn, ofSigned, Int.toNat_of_nonneg (Int.emod_nonneg _ (by positivity))]
  have hlt : n < 2 ^ (k + 1) := by
    have := Int.emod_lt_of_pos x (b := ((2 ^ (k + 1) : Nat) : Int)) (by positivity)
    omega
  rw [Nat.mod_eq_of_lt hlt] at hmod
  rw [List.range_succ, List.map_append, List.sum_append, sum_planes_below_top, List.map_singleton, List.sum_singleton]
  cases signed with
  | false =>
    obtain ⟨h0, h1⟩ : 0 ≤ x ∧ x < 2 ^ (k + 1) := by simpa [InBits] using hx
    have hx' : x % (2 ^ (k + 1) : Nat) = x := Int.emod_eq_of_lt h0 (by exact_mod_cast h1)
    rw [show planeWeight false (k + 1) k = ((2 ^ k : Nat) : Int) by simp [planeWeight]]
    rw [hx'] at hnx
    generalize 2 ^ k = m at *
    cases hbit : n.testBit k <;> simp only [hbit, Bool.toNat_true, Bool.toNat_false] at hmod <;> simp <;> omega
  | true =>
    obtain ⟨h0, h1⟩ : -(2 ^ k : Int) ≤ x ∧ x < 2 ^ k := by simpa [InBits] using hx
    have h0' : -((2 ^ k : Nat) : Int) ≤ x := by exact_mod_cast h0
    have h1' : x < ((2 ^ k : Nat) : Int) := by exact_mod_cast h1
    have hpow : 2 ^ (k + 1) = 2 * 2 ^ k := by ring
    rw [show planeWeight true (k + 1) k = -((2 ^ k : Nat) : Int) by simp [planeWeight]]
    have hwrap : (n : Int) = x ∨ (n : Int) = x + 2 * ((2 ^ k : Nat) : Int) := by
      rw [hcast] at hnx
      rcases lt_or_ge x 0 with hneg | hnonneg
      · exact .inr (by rw [hnx, ← Int.add_emod_right, Int.emod_eq_of_lt (by omega) (by omega)])
      · exact .inl (by rw [hnx, Int.emod_eq_of_lt hnonneg (by omega)])
    generalize 2 ^ k = m at *
    cases hbit : n.testBit k <;> simp only [hbit, Bool.toNat_true, Bool.toNat_false] at hmod <;> simp <;> omega

/-- The sum over planes of the partial sums exchanges with the sum over inputs. -/
theorem sum_partials {α : Type} (weight : α → Int) (signed : Bool) {a : Nat} (ha : 1 ≤ a) {xs : List Int} (hx : ∀ x ∈ xs, InBits signed a x)
    (ys : List α) :
    ((List.range a).map (fun p => planeWeight signed a p *
        (List.zipWith (fun (on : Bool) y => if on then weight y else 0) (planeOf a p xs) ys).sum)).sum
      = (List.zipWith (fun x y => x * weight y) xs ys).sum := by
  induction xs generalizing ys with
  | nil => simp [planeOf]
  | cons x xs ih =>
    cases ys with
    | nil => simp
    | cons y ys =>
      have hhead := sum_planes signed ha (hx x List.mem_cons_self)
      have htail := ih (fun z hz => hx z (List.mem_cons_of_mem _ hz)) ys
      rw [List.zipWith_cons_cons, List.sum_cons, ← htail]
      nth_rw 2 [← hhead]
      rw [← List.sum_map_mul_right, ← List.sum_map_add]
      refine congrArg List.sum (List.map_congr_left fun p _ => ?_)
      rw [planeOf, List.map_cons, List.zipWith_cons_cons, List.sum_cons, mul_add]
      split <;> simp [planeOf]

theorem fwdPlanes_exact (prec n : Nat) (acc24 signed : Bool) (init : Int) (rows : List (List Byte)) {a : Nat} {xs : List Int} (ha : 1 ≤ a)
    (hx : ∀ x ∈ xs, InBits signed a x)
    (h : (applyPlanes acc24 signed a init ((List.range a).map (fun p => (p, fwdPartial prec rows (planeOf a p xs) n)))).2 = 0) :
    (applyPlanes acc24 signed a init ((List.range a).map (fun p => (p, fwdPartial prec rows (planeOf a p xs) n)))).1
      = init + (List.zipWith (fun x row => x * rowWeight prec row n) xs rows).sum := by
  rw [applyPlanes_of_exact h, List.map_map, ← sum_partials (fun row => rowWeight prec row n) signed ha hx rows]
  rfl

theorem trnPlanes_exact (prec : Nat) (acc24 signed : Bool) (init : Int) (row : List Byte) {a : Nat} {xs : List Int} (ha : 1 ≤ a)
    (hx : ∀ x ∈ xs, InBits signed a x)
    (h : (applyPlanes acc24 signed a init ((List.range a).map (fun p => (p, trnPartial prec row (planeOf a p xs))))).2 = 0) :
    (applyPlanes acc24 signed a init ((List.range a).map (fun p => (p, trnPartial prec row (planeOf a p xs))))).1
      = init + (List.zipWith (fun x n => x * rowWeight prec row n) xs (List.range xs.length)).sum := by
  rw [applyPlanes_of_exact h, List.map_map, ← sum_partials (fun n => rowWeight prec row n) signed ha hx]
  simp only [Function.comp_def, trnPartial, planeOf, List.length_map]

theorem fwdPartial_of_clear (prec : Nat) (rows : List (List Byte)) {plane : List Bool} (n : Nat) (h : plane.any id = false) :
    fwdPartial prec rows plane n = 0 := by
  unfold fwdPartial
  induction plane generalizing rows with
  | nil => simp
  | cons on plane ih =>
    obtain ⟨rfl, hrest⟩ : on = false ∧ plane.any id = false := by simpa using h
    cases rows with
    | nil => simp
    | cons row rows =>
      rw [List.zipWith_cons_cons, List.sum_cons, ih rows hrest]
      rfl

theorem applyPlane_zero {acc24 : Bool} (signed : Bool) (a p : Nat) {acc : Int × Nat} (hlo : accMin acc24 ≤ acc.1) (hhi : acc.1 ≤ accMax acc24) :
    applyPlane acc24 signed a acc (p, 0) = acc := by
  simp [applyPlane, satAdd_zero hlo hhi, b2n]

/-- Planes that add nothing may be left out of the fold (R49). -/
theorem foldl_applyPlane_filter {acc24 : Bool} (signed : Bool) (a : Nat) {part : Nat → Int} {keep : Nat → Bool}
    (h : ∀ p, keep p = false → part p = 0) (ps : List Nat) {acc : Int × Nat} (hlo : accMin acc24 ≤ acc.1) (hhi : acc.1 ≤ accMax acc24) :
    ((ps.filter keep).map (fun p => (p, part p))).foldl (applyPlane acc24 signed a) acc
      = (ps.map (fun p => (p, part p))).foldl (applyPlane acc24 signed a) acc := by
  induction ps generalizing acc with
  | nil => rfl
  | cons p ps ih =>
    cases hk : keep p with
    | true =>
      rw [List.filter_cons_of_pos hk, List.map_cons, List.map_cons, List.foldl_cons, List.foldl_cons]
      exact ih (accMin_le_satAdd ..) (satAdd_le_accMax ..)
    | false =>
      rw [List.filter_cons_of_neg (by simp [hk]), List.map_cons, List.foldl_cons, h p hk, applyPlane_zero signed a p hlo hhi]
      exact ih hlo hhi

/-- Settles O55: planes add the input's bits at their weights, so without saturation the sum is the dot product; a plane without a 1 bit adds 0. -/
theorem planesMakeTheDotProduct : Obligations.PlanesMakeTheDotProduct := by
  unfold Obligations.PlanesMakeTheDotProduct
  refine ⟨?_, ?_, ?_⟩
  · intro prec a n acc24 signed init rows xs ha hx h
    exact fwdPlanes_exact prec n acc24 signed init rows ha hx h
  · intro prec a acc24 signed init row xs ha hx h
    exact trnPlanes_exact prec acc24 signed init row ha hx h
  · intro prec a n acc24 signed init rows xs hlo hhi
    rw [applyPlanes_eq, applyPlanes_eq]
    exact foldl_applyPlane_filter signed a (fun p hp => fwdPartial_of_clear prec rows n hp) _ hlo hhi

end Sys2Proof.Machine

end


section

/-! PROOFS. O30: region clocks, their LDOs and the governor. -/

namespace Sys2Proof.Machine

/-! ## Regions -/

section
variable (s : State)

theorem State.rx_setRx_self (r : Nat) (x : RegionX) : (s.setRx r x).rx r = x := SMap.get_set_self _ _ _ _

theorem State.rx_setRx_of_ne {r q : Nat} (x : RegionX) (h : q ≠ r) : (s.setRx r x).rx q = s.rx q := SMap.get_set_ne _ _ _ (Ne.symm h)

theorem rgnBase_ne {r q off : Nat} (h : r ≠ q) : rgnBase r + off ≠ rgnBase q + off := by
  simp only [rgnBase]
  omega

theorem State.eff_setF (r v : Nat) {f : Fld} (hoff : f.off = 0) (h : f.off ≠ F.RGN_ACLK_EFF.off ∨ f.lo + f.width ≤ F.RGN_ACLK_EFF.lo ∨ F.RGN_ACLK_EFF.lo + F.RGN_ACLK_EFF.width ≤ f.lo) (q : Nat) : (s.setF (rgnBase r) f v).eff q = s.eff q := by
  by_cases hq : r = q
  · subst hq
    exact s.getF_setF_of_apart _ v h (by decide)
  · exact s.getF_setF_of_ne _ v f F.RGN_ACLK_EFF (by rw [hoff]; exact rgnBase_ne hq)

end

/-! ## Step changes -/

/-- The W1C bits of RGN_ACLK that a write of v clears. -/
def aclkAcks (v : Nat) : List (Fld × Nat) :=
  (if bit v 17 then [(F.RGN_ACLK_LIMIT_ERR, 0)] else []) ++ (if bit v 18 then [(F.RGN_ACLK_WAKE_CLAMP, 0)] else [])

theorem aclkAcks_mem {v : Nat} {p : Fld × Nat} (h : p ∈ aclkAcks v) : p.1 = F.RGN_ACLK_LIMIT_ERR ∨ p.1 = F.RGN_ACLK_WAKE_CLAMP := by
  rcases List.mem_append.1 h with h | h
  · refine .inl ?_
    split at h <;> simp_all
  · refine .inr ?_
    split at h <;> simp_all

theorem aclkAcks_apart {v : Nat} {g : Fld} (h17 : F.RGN_ACLK_LIMIT_ERR.apart g) (h18 : F.RGN_ACLK_WAKE_CLAMP.apart g) : ∀ p ∈ aclkAcks v, p.1.apart g :=
  fun _ hp => (aclkAcks_mem hp).elim (fun h => h ▸ h17) (fun h => h ▸ h18)

section
variable {s : State} {r v : Nat}

theorem State.eff_setFs_aclkAcks (s : State) (r v q : Nat) : (s.setFs (rgnBase r) (aclkAcks v)).eff q = s.eff q := by
  suffices h : ∀ l : List (Fld × Nat), (∀ p ∈ l, p.1 = F.RGN_ACLK_LIMIT_ERR ∨ p.1 = F.RGN_ACLK_WAKE_CLAMP) → ∀ u : State,
      (u.setFs (rgnBase r) l).eff q = u.eff q from h _ (fun _ => aclkAcks_mem) s
  intro l
  induction l with
  | nil => exact fun _ _ => rfl
  | cons p l ih =>
    intro hl u
    rw [u.setFs_cons, ih (fun q hq => hl q (List.mem_cons_of_mem _ hq))]
    rcases hl p List.mem_cons_self with h | h <;> rw [h]
    · exact u.eff_setF r _ rfl (by decide) q
    · exact u.eff_setF r _ rfl (by decide) q

theorem State.stepOk_of_same {s t : State} (r n : Nat) (hon : ∀ d, t.pdOn d = s.pdOn d) (hrx : ∀ q, t.rx q = s.rx q) (heff : ∀ q, t.eff q = s.eff q) :
    t.stepOk r n = s.stepOk r n := by
  simp only [State.stepOk, State.poweredNbrs, State.stepsOf, hon, hrx, heff]

theorem aclkWrite_eq (hv : v % 16 ≤ 10) : aclkWrite s r v =
    let u := s.setFs (rgnBase r) (aclkAcks v)
    let e := min (v % 16) (u.getF (rgnBase r) F.RGN_ACLK_CAP)
    if u.stepOk r e then (u.setF (rgnBase r) F.RGN_ACLK_STEP (v % 16)).aimStep r e else u.flagF (rgnBase r) F.RGN_ACLK_LIMIT_ERR := by
  have hacks : (if bit v 18 then (if bit v 17 then s.setF (rgnBase r) F.RGN_ACLK_LIMIT_ERR 0 else s).setF (rgnBase r) F.RGN_ACLK_WAKE_CLAMP 0
      else if bit v 17 then s.setF (rgnBase r) F.RGN_ACLK_LIMIT_ERR 0 else s) = s.setFs (rgnBase r) (aclkAcks v) := by
    unfold aclkAcks
    split <;> split <;> rfl
  unfold aclkWrite
  dsimp only
  rw [hacks, if_neg (by omega)]

/-- The W1C bits cleared: the rest of the state, the steps and the check of R21 are as before. -/
theorem State.aclkAcks_leaves (s : State) (r v : Nat) : let u := s.setFs (rgnBase r) (aclkAcks v)
    s.OnlyRegs u ∧ u.getF (rgnBase r) F.RGN_ACLK_CAP = s.getF (rgnBase r) F.RGN_ACLK_CAP
      ∧ u.getF (rgnBase r) F.RGN_ACLK_STEP = s.getF (rgnBase r) F.RGN_ACLK_STEP ∧ (∀ q, u.eff q = s.eff q) ∧ (∀ n, u.stepOk r n = s.stepOk r n) := by
  have honly := State.OnlyRegs.of_setFs s (rgnBase r) (aclkAcks v)
  have hcap := s.getF_setFs_of_apart (rgnBase r) (g := F.RGN_ACLK_CAP) (by decide) (aclkAcks_apart (v := v) (Or.inr (by decide)) (Or.inr (by decide)))
  have hstep := s.getF_setFs_of_apart (rgnBase r) (g := F.RGN_ACLK_STEP) (by decide) (aclkAcks_apart (v := v) (Or.inr (by decide)) (Or.inr (by decide)))
  have heff := s.eff_setFs_aclkAcks r v
  generalize s.setFs (rgnBase r) (aclkAcks v) = u at *
  exact ⟨honly, hcap, hstep, heff, fun n => State.stepOk_of_same r n honly.pdOn honly.rx heff⟩

/-- What the start of a change marks; a rise unsettles the LDO. -/
def stepMarks (rise : Bool) : List (Fld × Nat) := (F.RGN_ACLK_PENDING, 1) :: if rise then [(F.RGN_LDO_STAT_SETTLED, 0)] else []

theorem stepMarks_pairwise (rise : Bool) : (stepMarks rise).Pairwise fun p q => q.1.apart p.1 := by
  cases rise <;> simp [stepMarks, Fld.apart]

theorem stepMarks_width (rise : Bool) : ∀ p ∈ stepMarks rise, p.1.lo + p.1.width ≤ 32 := by
  cases rise <;> simp [stepMarks]

theorem stepMarks_apart (rise : Bool) : ∀ p ∈ stepMarks rise, p.1.apart F.RGN_ACLK_STEP ∧ p.1.apart F.RGN_ACLK_EFF := by
  cases rise <;> simp [stepMarks, Fld.apart]

/-- Region r with a change from step a to step n. -/
def State.stepping (s : State) (r a n : Nat) : State := s.setRx r { s.rx r with chg := some ⟨a, n, 0⟩ }

theorem State.stepping_leaves (s : State) (r a n : Nat) :
    ((s.stepping r a n).rx r).chg = some ⟨a, n, 0⟩ ∧ (s.stepping r a n).regs = s.regs ∧ { s.stepping r a n with regions := s.regions } = s := by
  have hrx : (s.stepping r a n).rx r = { s.rx r with chg := some ⟨a, n, 0⟩ } := s.rx_setRx_self r _
  exact ⟨by rw [hrx], rfl, rfl⟩

theorem State.startStep_eq {n : Nat} (hne : n ≠ s.eff r) :
    s.startStep r n = (s.stepping r (s.eff r) n).setFs (rgnBase r) (stepMarks (decide (s.eff r < n))) := by
  rw [State.startStep, if_neg hne]
  by_cases h : s.eff r < n
  · rw [if_pos h, decide_eq_true h]
    rfl
  · rw [if_neg h, decide_eq_false h]
    rfl

/-- A change that starts: what it notes, and what it leaves alone. -/
theorem State.startStep_of_ne {n : Nat} (hne : n ≠ s.eff r) : let t := s.startStep r n
    t.getF (rgnBase r) F.RGN_ACLK_STEP = s.getF (rgnBase r) F.RGN_ACLK_STEP ∧ (t.rx r).chg = some ⟨s.eff r, n, 0⟩ ∧ t.eff r = s.eff r
      ∧ t.getF (rgnBase r) F.RGN_ACLK_PENDING = 1 ∧ { t with regs := s.regs, regions := s.regions } = s := by
  obtain ⟨hchg, hregs, hframe⟩ := s.stepping_leaves r (s.eff r) n
  have ht := State.startStep_eq hne
  have hstep := State.getF_of_regs hregs (rgnBase r) F.RGN_ACLK_STEP
  have heff := State.getF_of_regs hregs (rgnBase r) F.RGN_ACLK_EFF
  generalize s.stepping r (s.eff r) n = u at *
  generalize decide (s.eff r < n) = rise at *
  have hpend := u.getF_setFs (rgnBase r) (stepMarks_pairwise rise) (stepMarks_width rise) (f := F.RGN_ACLK_PENDING) (v := 1) List.mem_cons_self
  have hstepw := u.getF_setFs_of_apart (rgnBase r) (g := F.RGN_ACLK_STEP) (by decide) fun p hp => (stepMarks_apart rise p hp).1
  have heffw := u.getF_setFs_of_apart (rgnBase r) (g := F.RGN_ACLK_EFF) (by decide) fun p hp => (stepMarks_apart rise p hp).2
  have honly := State.OnlyRegs.of_setFs u (rgnBase r) (stepMarks rise)
  rw [ht]
  generalize u.setFs (rgnBase r) (stepMarks rise) = t at *
  refine ⟨hstepw.trans hstep, ?_, heffw.trans heff, hpend, ?_⟩
  · exact (congrArg RegionX.chg (honly.rx r)).trans hchg
  · exact (congrArg (fun y : State => { y with regs := s.regs, regions := s.regions }) honly.frame : _).trans
      (congrArg (fun y : State => { y with regs := s.regs }) hframe : _)

/-- A step within reach of the powered neighbours. -/
theorem exec_rgnAclkStepWrite_starts (hr : r < 16) (h3 : s.pdOn 3 = true) (hv : v % 16 ≤ 10)
    (hok : s.stepOk r (min (v % 16) (s.getF (rgnBase r) F.RGN_ACLK_CAP)) = true) (hon : s.pdOn (4 + r) = true) (hchg : (s.rx r).chg = none)
    (hne : min (v % 16) (s.getF (rgnBase r) F.RGN_ACLK_CAP) ≠ s.eff r) :
    ∃ t, exec (.rgnAclkStepWrite r v) s = .next t ∧ t.getF (rgnBase r) F.RGN_ACLK_STEP = v % 16
      ∧ (t.rx r).chg = some ⟨s.eff r, min (v % 16) (s.getF (rgnBase r) F.RGN_ACLK_CAP), 0⟩ ∧ t.eff r = s.eff r
      ∧ t.getF (rgnBase r) F.RGN_ACLK_PENDING = 1 ∧ { t with regs := s.regs, regions := s.regions } = s := by
  have hexec : exec (.rgnAclkStepWrite r v) s = .next (if r < 16 ∧ s.pdOn 3 then aclkWrite s r v else s) := rfl
  rw [if_pos ⟨hr, h3⟩, aclkWrite_eq hv] at hexec
  obtain ⟨honly, hcap, -, heff, hsteps⟩ := s.aclkAcks_leaves r v
  dsimp only at hexec
  generalize s.setFs (rgnBase r) (aclkAcks v) = u at *
  rw [hcap, hsteps, if_pos hok] at hexec
  generalize min (v % 16) (s.getF (rgnBase r) F.RGN_ACLK_CAP) = e at *
  have hstep := u.getF_setF_self (rgnBase r) F.RGN_ACLK_STEP (v % 16) (by decide)
  have heffw := u.eff_setF r (v % 16) (f := F.RGN_ACLK_STEP) rfl (by decide) r
  have honlyw := honly.trans (.of_setF u (rgnBase r) F.RGN_ACLK_STEP (v % 16))
  generalize u.setF (rgnBase r) F.RGN_ACLK_STEP (v % 16) = w at *
  rw [heff] at heffw
  have haim : w.aimStep r e = w.startStep r e := by simp [State.aimStep, honlyw.pdOn, honlyw.rx, hon, hchg]
  rw [haim] at hexec
  obtain ⟨h1, h2, h3, h4, h5⟩ := State.startStep_of_ne (s := w) (r := r) (n := e) (by rw [heffw]; exact hne)
  generalize w.startStep r e = t at *
  refine ⟨t, hexec, h1.trans (hstep.trans (Nat.mod_mod v 16)), by rw [h2, heffw], by rw [h3, heffw], h4, ?_⟩
  exact (congrArg (fun x : State => { x with regs := s.regs, regions := s.regions }) h5 : _).trans
    (congrArg (fun x : State => { x with regions := s.regions }) honlyw.frame : _)

/-- A step out of reach of a powered neighbour. -/
theorem exec_rgnAclkStepWrite_refuses (hr : r < 16) (h3 : s.pdOn 3 = true) (hv : v % 16 ≤ 10)
    (hok : s.stepOk r (min (v % 16) (s.getF (rgnBase r) F.RGN_ACLK_CAP)) = false) :
    ∃ t, exec (.rgnAclkStepWrite r v) s = .next t ∧ t.isF (rgnBase r) F.RGN_ACLK_LIMIT_ERR = true
      ∧ t.getF (rgnBase r) F.RGN_ACLK_STEP = s.getF (rgnBase r) F.RGN_ACLK_STEP ∧ t.eff r = s.eff r ∧ { t with regs := s.regs } = s := by
  have hexec : exec (.rgnAclkStepWrite r v) s = .next (if r < 16 ∧ s.pdOn 3 then aclkWrite s r v else s) := rfl
  rw [if_pos ⟨hr, h3⟩, aclkWrite_eq hv] at hexec
  obtain ⟨honly, hcap, hstep, heff, hsteps⟩ := s.aclkAcks_leaves r v
  dsimp only at hexec
  generalize s.setFs (rgnBase r) (aclkAcks v) = u at *
  rw [hcap, hsteps, if_neg (by rw [hok]; exact Bool.false_ne_true)] at hexec
  have hflag := u.isF_flagF_self (rgnBase r) (f := F.RGN_ACLK_LIMIT_ERR) (by decide) rfl
  have hkept := u.getF_flagF_of_apart (rgnBase r) (f := F.RGN_ACLK_LIMIT_ERR) (g := F.RGN_ACLK_STEP) (by decide) (by decide)
  have heffw := u.eff_setF r 1 (f := F.RGN_ACLK_LIMIT_ERR) rfl (by decide) r
  have honlyw := honly.trans (.of_setF u (rgnBase r) F.RGN_ACLK_LIMIT_ERR 1)
  rw [State.flagF] at hexec hflag hkept
  generalize u.setF (rgnBase r) F.RGN_ACLK_LIMIT_ERR 1 = t at *
  exact ⟨t, hexec, hflag, hkept.trans hstep, heffw.trans (heff r), honlyw.frame⟩

theorem synthLocked_of_rise {a n : Nat} (hchg : (s.rx r).chg = some ⟨a, n, 0⟩) (h : a ≤ n) :
    synthLocked s r = s.setRx r { s.rx r with chg := some ⟨a, n, 1⟩ } := by
  rw [synthLocked, hchg]
  exact if_neg (by omega)

theorem synthLocked_of_fall {a n : Nat} (hchg : (s.rx r).chg = some ⟨a, n, 0⟩) (h : n < a) :
    synthLocked s r = (s.setRx r { s.rx r with chg := some ⟨a, n, 1⟩ }).setFs (rgnBase r) [(F.RGN_ACLK_EFF, n), (F.RGN_LDO_STAT_SETTLED, 0)] := by
  rw [synthLocked, hchg]
  exact if_pos h

/-- The lock of a fall's synthesizer: the lower step is in effect and the LDO ramps. -/
theorem exec_synthesizerLocked_falls {a n : Nat} (hchg : (s.rx r).chg = some ⟨a, n, 0⟩) (h : n < a) (hn : n ≤ 10) :
    ∃ t, exec (.synthesizerLocked r) s = .next t ∧ (t.rx r).chg = some ⟨a, n, 1⟩ ∧ t.eff r = n
      ∧ t.getF (rgnBase r) F.RGN_LDO_STAT_SETTLED = 0 ∧ { t with regs := s.regs, regions := s.regions } = s := by
  have hexec : exec (.synthesizerLocked r) s = .next (synthLocked s r) := rfl
  rw [synthLocked_of_fall hchg h] at hexec
  obtain ⟨x, hx⟩ : ∃ x, x = { s.rx r with chg := some ⟨a, n, 1⟩ } := ⟨_, rfl⟩
  rw [← hx] at hexec
  have hrx : (s.setRx r x).rx r = x := s.rx_setRx_self r x
  have hframe : { s.setRx r x with regions := s.regions } = s := rfl
  generalize s.setRx r x = u at *
  have hfield {f : Fld} {w : Nat} (hm : (f, w) ∈ [(F.RGN_ACLK_EFF, n), (F.RGN_LDO_STAT_SETTLED, 0)]) :=
    u.getF_setFs (rgnBase r) (by simp [Fld.apart]) (by simp) hm
  have honly := State.OnlyRegs.of_setFs u (rgnBase r) [(F.RGN_ACLK_EFF, n), (F.RGN_LDO_STAT_SETTLED, 0)]
  generalize u.setFs (rgnBase r) [(F.RGN_ACLK_EFF, n), (F.RGN_LDO_STAT_SETTLED, 0)] = t at *
  refine ⟨t, hexec, ?_, ?_, ?_, ?_⟩
  · rw [honly.rx, hrx, hx]
  · rw [State.eff, hfield (w := n) (by simp), Nat.mod_eq_of_lt (by omega : n < 2 ^ 4)]
  · rw [hfield (w := 0) (by simp), Nat.zero_mod]
  · exact (congrArg (fun y : State => { y with regs := s.regs, regions := s.regions }) honly.frame : _).trans
      (congrArg (fun y : State => { y with regs := s.regs }) hframe : _)

/-- What a settled LDO writes. -/
def ldoSettles (n : Nat) : List (Fld × Nat) := [(F.RGN_ACLK_EFF, n), (F.RGN_LDO_STAT_SETTLED, 1), (F.RGN_ACLK_PENDING, 0)]

theorem ldoSettles_pairwise (n : Nat) : (ldoSettles n).Pairwise fun p q => q.1.apart p.1 := by
  simp [ldoSettles, Fld.apart]

theorem ldoSettles_width (n : Nat) : ∀ p ∈ ldoSettles n, p.1.lo + p.1.width ≤ 32 := by
  simp [ldoSettles]

/-- The change of a region over. -/
def State.changeOver (s : State) (r : Nat) : State := s.setRx r { s.rx r with chg := none, queued := none }

theorem State.changeOver_leaves (s : State) (r : Nat) :
    ((s.changeOver r).rx r).chg = none ∧ (s.changeOver r).regs = s.regs ∧ { s.changeOver r with regions := s.regions } = s := by
  have hrx : (s.changeOver r).rx r = { s.rx r with chg := none, queued := none } := SMap.get_set_self _ _ _ _
  exact ⟨by rw [hrx], rfl, rfl⟩

/-- The measured output lies within 10 mV of the target (R18), and nothing else changes. -/
theorem State.measureLdo_leaves (s : State) (r : Nat) {n : Nat} (hn : n ≤ 10) : let t := s.measureLdo r n
    590 + 20 * n ≤ t.getF (rgnBase r) F.RGN_LDO_STAT_VOUT_MV ∧ t.getF (rgnBase r) F.RGN_LDO_STAT_VOUT_MV ≤ 610 + 20 * n
      ∧ (∀ f : Fld, F.RGN_LDO_STAT_VOUT_MV.apart f → f.lo + f.width ≤ 32 → t.getF (rgnBase r) f = s.getF (rgnBase r) f)
      ∧ { t with regs := s.regs, free := s.free } = s := by
  obtain ⟨u, x, hx, ht, hregs, hbase⟩ : ∃ (u : State) (x : Nat), x < 21 ∧ s.measureLdo r n = u.setF (rgnBase r) F.RGN_LDO_STAT_VOUT_MV (ldoTarget n - 10 + x)
      ∧ u.regs = s.regs ∧ { u with free := s.free } = s := ⟨{ s with free := s.free + 1 }, _, Nat.mod_lt _ (by decide), rfl, rfl, rfl⟩
  obtain ⟨mv, hmv⟩ : ∃ mv, mv = ldoTarget n - 10 + x := ⟨_, rfl⟩
  have hrange : mv = 590 + 20 * n + x := by rw [hmv, ldoTarget]; omega
  have hvout := u.getF_setF_self (rgnBase r) F.RGN_LDO_STAT_VOUT_MV mv (by decide)
  have hlt : mv < 2 ^ 10 := by omega
  rw [Nat.mod_eq_of_lt hlt] at hvout
  have hkept (f : Fld) (h : F.RGN_LDO_STAT_VOUT_MV.apart f) (hf : f.lo + f.width ≤ 32) :=
    (u.getF_setF_of_apart (rgnBase r) mv h hf).trans (State.getF_of_regs hregs (rgnBase r) f)
  have honly := State.OnlyRegs.of_setF u (rgnBase r) F.RGN_LDO_STAT_VOUT_MV mv
  rw [ht, ← hmv]
  generalize u.setF (rgnBase r) F.RGN_LDO_STAT_VOUT_MV mv = t at *
  refine ⟨by omega, by omega, hkept, ?_⟩
  exact (congrArg (fun y : State => { y with regs := s.regs, free := s.free }) honly.frame : _).trans
    (congrArg (fun y : State => { y with regs := s.regs }) hbase : _)

theorem State.measureLdo_rx (s : State) (r n : Nat) : (s.measureLdo r n).rx r = s.rx r := by
  have hregions : (s.measureLdo r n).regions = s.regions := rfl
  rw [State.rx, hregions, State.rx]

theorem ldoSettledEff_of_last {a n : Nat} (hchg : (s.rx r).chg = some ⟨a, n, 1⟩) (hq : (s.rx r).queued = none) :
    ldoSettledEff s r = ((s.setFs (rgnBase r) (ldoSettles n)).measureLdo r n).changeOver r := by
  have hfields : ((s.setF (rgnBase r) F.RGN_ACLK_EFF n).setF (rgnBase r) F.RGN_LDO_STAT_SETTLED 1).setF (rgnBase r) F.RGN_ACLK_PENDING 0
      = s.setFs (rgnBase r) (ldoSettles n) := rfl
  have honly := State.OnlyRegs.of_setFs s (rgnBase r) (ldoSettles n)
  unfold ldoSettledEff
  split
  next m heq =>
    rw [hchg, Option.some.injEq, StepChange.mk.injEq] at heq
    obtain ⟨-, rfl, -⟩ := heq
    dsimp only
    rw [hfields]
    generalize s.setFs (rgnBase r) (ldoSettles n) = u at *
    have hrx := u.measureLdo_rx r n
    have hqueued : ((u.measureLdo r n).rx r).queued = none := by rw [hrx, honly.rx, hq]
    rw [State.changeOver]
    generalize u.measureLdo r n = w at *
    rw [hqueued]
  next hno => exact absurd hchg (hno _ _)

/-- The LDO settled behind the last change. -/
theorem exec_ldoSettled_ends {a n : Nat} (hchg : (s.rx r).chg = some ⟨a, n, 1⟩) (hq : (s.rx r).queued = none) (hn : n ≤ 10) :
    ∃ t, exec (.ldoSettled r) s = .next t ∧ (t.rx r).chg = none ∧ t.eff r = n ∧ t.getF (rgnBase r) F.RGN_LDO_STAT_SETTLED = 1
      ∧ t.getF (rgnBase r) F.RGN_ACLK_PENDING = 0 ∧ 590 + 20 * n ≤ t.getF (rgnBase r) F.RGN_LDO_STAT_VOUT_MV
      ∧ t.getF (rgnBase r) F.RGN_LDO_STAT_VOUT_MV ≤ 610 + 20 * n
      ∧ { t with regs := s.regs, regions := s.regions, free := s.free } = s := by
  have hexec : exec (.ldoSettled r) s = .next (ldoSettledEff s r) := rfl
  rw [ldoSettledEff_of_last hchg hq] at hexec
  have hfield {f : Fld} {w : Nat} (hm : (f, w) ∈ ldoSettles n) := s.getF_setFs (rgnBase r) (ldoSettles_pairwise n) (ldoSettles_width n) hm
  have honly := State.OnlyRegs.of_setFs s (rgnBase r) (ldoSettles n)
  generalize s.setFs (rgnBase r) (ldoSettles n) = u at *
  obtain ⟨hlo, hhi, hkept, hmeasured⟩ := u.measureLdo_leaves r hn
  generalize u.measureLdo r n = w at *
  obtain ⟨hover, hregs, hframe⟩ := w.changeOver_leaves r
  generalize w.changeOver r = t at *
  have hget := State.getF_of_regs hregs (rgnBase r)
  refine ⟨t, hexec, hover, ?_, ?_, ?_, ?_, ?_, ?_⟩
  · rw [State.eff, hget, hkept _ (Or.inl (by decide)) (by decide), hfield (w := n) (by simp [ldoSettles]), Nat.mod_eq_of_lt (by omega : n < 2 ^ 4)]
  · rw [hget, hkept _ (Or.inr (by decide)) (by decide), hfield (w := 1) (by simp [ldoSettles])]
    rfl
  · rw [hget, hkept _ (Or.inl (by decide)) (by decide), hfield (w := 0) (by simp [ldoSettles]), Nat.zero_mod]
  · rwa [hget]
  · rwa [hget]
  · have h1 := (congrArg (fun y : State => { y with regs := s.regs, regions := s.regions, free := s.free }) hframe : _)
    have h2 := (congrArg (fun y : State => { y with regs := s.regs, regions := s.regions, free := s.free }) hmeasured : _)
    have h3 := (congrArg (fun y : State => { y with regions := s.regions, free := s.free }) honly.frame : _)
    exact h1.trans (h2.trans h3)

/-! ## Supplies -/

theorem bits_faultId_class (s : State) (level unit cls : Nat) : bits (s.faultId level unit cls % 2 ^ 32) 16 8 = cls % 256 := by
  rw [bits_mod_two_pow _ _ _ _ (by decide), bits, State.faultId, Nat.shiftRight_eq_div_pow]
  generalize s.epoch = e
  norm_num
  omega

/-- What an error fills a free region slot with. -/
def regionSlot (fid : Nat) : List (Fld × Nat) :=
  [(F.RGN_ERR_REC_LO_ID, fid), (F.RGN_ERR_REC_HI_ID, fid / 2 ^ 32), (F.RGN_ERR_STAT_VALID, 1), (F.RGN_ERR_STAT_COUNT, 1)]

theorem State.raiseRegion_of_free (s : State) {r fid : Nat} (hfree : s.isF (rgnBase r) F.RGN_ERR_STAT_VALID = false) (hcls : bits fid 16 8 = 0x9A) :
    s.raiseRegion r fid none = s.setFs (rgnBase r) (regionSlot fid ++ [(F.RGN_ERR_STAT_THROTTLE, 1)]) := by
  unfold State.raiseRegion
  extract_lets base s1 s2
  rw [if_neg (by rw [hfree]; exact Bool.false_ne_true)]
  simp only [s2, s1, if_pos hcls, base]
  rfl

/-- An LDO out of its band. -/
theorem exec_rgnLdoOor (hr : r < 16) (hon : s.pdOn (4 + r) = true) (hsettled : s.isF (rgnBase r) F.RGN_LDO_STAT_SETTLED = true)
    (hfree : s.isF (rgnBase r) F.RGN_ERR_STAT_VALID = false) :
    ∃ t, exec (.rgnLdoOor r) s = .next t ∧ t.isF (rgnBase r) F.RGN_LDO_STAT_OOR = true ∧ t.isF (rgnBase r) F.RGN_ERR_STAT_VALID = true
      ∧ t.isF (rgnBase r) F.RGN_ERR_STAT_THROTTLE = true ∧ bits (t.getF (rgnBase r) F.RGN_ERR_REC_LO_ID) 16 8 = 0x9A
      ∧ { t with regs := s.regs } = s := by
  have hexec : exec (.rgnLdoOor r) s = .next (if r < 16 then ldoOor s r else s) := rfl
  have hlo := bits_faultId_class s 2 (unitRgn r) 0x9A
  have hcls := hlo
  rw [bits_mod_two_pow _ _ _ _ (by decide)] at hcls
  have hoor : (s.flagF (rgnBase r) F.RGN_LDO_STAT_OOR).isF (rgnBase r) F.RGN_ERR_STAT_VALID = false :=
    (s.isF_setF_of_apart (rgnBase r) 1 (by decide) (by decide)).trans hfree
  rw [if_pos hr, ldoOor, hon, hsettled, Bool.and_self, if_pos rfl, State.raiseRegion_of_free _ hoor hcls] at hexec
  generalize s.faultId 2 (unitRgn r) 0x9A = fid at *
  obtain ⟨l, hl⟩ : ∃ l, l = (F.RGN_LDO_STAT_OOR, 1) :: (regionSlot fid ++ [(F.RGN_ERR_STAT_THROTTLE, 1)]) := ⟨_, rfl⟩
  rw [State.flagF, ← s.setFs_cons (rgnBase r) (F.RGN_LDO_STAT_OOR, 1), ← hl] at hexec
  have hpair : l.Pairwise fun p q => q.1.apart p.1 := by simp [hl, regionSlot, Fld.apart]
  have hfield {f : Fld} {w : Nat} (hm : (f, w) ∈ l) := s.getF_setFs (rgnBase r) hpair (by simp [hl, regionSlot]) hm
  have hset := s.setFs_frame (rgnBase r) (l := l)
  generalize s.setFs (rgnBase r) l = t at *
  have hflag {f : Fld} (hw : f.width = 1) (hm : (f, 1) ∈ l) : t.isF (rgnBase r) f = true := by
    rw [State.isF, hfield hm, hw]
    rfl
  refine ⟨t, hexec, hflag rfl (by simp [hl]), hflag rfl (by simp [hl, regionSlot]), hflag rfl (by simp [hl]), ?_, hset⟩
  rw [hfield (w := fid) (by simp [hl, regionSlot])]
  exact hlo

end

theorem exec_synthesizerLocked_rises {s : State} {r a n : Nat} (hchg : (s.rx r).chg = some ⟨a, n, 0⟩) (h : a ≤ n) :
    ∃ t, exec (.synthesizerLocked r) s = .next t ∧ (t.rx r).chg = some ⟨a, n, 1⟩ ∧ { t with regions := s.regions } = s := by
  have hexec : exec (.synthesizerLocked r) s = .next (synthLocked s r) := rfl
  rw [synthLocked_of_rise hchg h] at hexec
  refine ⟨_, hexec, ?_, rfl⟩
  rw [s.rx_setRx_self]

/-! ## The governor -/

theorem sum_filter_le (l : List (Nat × Nat × Nat)) (p : Nat × Nat × Nat → Bool) : ((l.filter p).map (fun q => q.2.2)).sum ≤ (l.map (fun q => q.2.2)).sum :=
  (List.filter_sublist.map _).sum_le_sum fun _ _ => Nat.zero_le _

/-- Below the budget no cycle reaches it. -/
theorem hitCycle_of_lt {budget : Nat} {l : List (Nat × Nat × Nat)} (h : (l.map (fun q => q.2.2)).sum < budget) : hitCycle budget l = none := by
  have hnil : (l.map (fun p => p.1)).filter (fun c => decide (budget ≤ ((l.filter (fun p => decide (p.1 ≤ c))).map (fun p => p.2.2)).sum)) = [] := by
    refine List.filter_eq_nil_iff.2 fun c _ => ?_
    have := sum_filter_le l (fun p => decide (p.1 ≤ c))
    rw [decide_eq_true_eq]
    omega
  rw [hitCycle, hnil, List.min?_nil]

/-- The plane that reaches the budget, no earlier one having reached it. -/
theorem hitCycle_append {budget c b a : Nat} {l : List (Nat × Nat × Nat)} (hle : ∀ p ∈ l, p.1 ≤ c) (hlt : (l.map (fun q => q.2.2)).sum < budget)
    (hge : budget ≤ (l.map (fun q => q.2.2)).sum + a) : hitCycle budget (l ++ [(c, b, a)]) = some c := by
  rw [hitCycle, List.min?_eq_some_iff]
  constructor
  · refine List.mem_filter.2 ⟨List.mem_map.2 ⟨(c, b, a), List.mem_append_right _ (List.mem_singleton_self _), rfl⟩, ?_⟩
    have hall : (l ++ [(c, b, a)]).filter (fun p => decide (p.1 ≤ c)) = l ++ [(c, b, a)] := by
      refine List.filter_eq_self.2 fun p hp => decide_eq_true ?_
      rcases List.mem_append.1 hp with hp | hp
      · exact hle p hp
      · rw [List.mem_singleton.1 hp]
    rw [hall, decide_eq_true_eq, List.map_append, List.sum_append]
    simpa using hge
  · intro k hk
    by_contra hkc
    have hsum := of_decide_eq_true (List.mem_filter.1 hk).2
    have hlast : (l ++ [(c, b, a)]).filter (fun p => decide (p.1 ≤ k)) = l.filter (fun p => decide (p.1 ≤ k)) := by
      simp [List.filter_append, hkc]
    rw [hlast] at hsum
    have := sum_filter_le l (fun p => decide (p.1 ≤ k))
    omega

section
variable {s : State} {b c a : Nat}

/-- Region x with one plane more. -/
def RegionX.plus (x : RegionX) (p : Nat × Nat × Nat) : RegionX := { x with planes := x.planes ++ [p] }

theorem RegionX.issued_plus {x : RegionX} {p : Nat × Nat × Nat} (hwin : p.1 < x.winStart + 256) (hhit : x.hit = none) :
    (x.plus p).issued = x.issued ++ [p] := by
  have hp : decide (p.1 < x.winStart + 256) = true := decide_eq_true hwin
  unfold RegionX.issued RegionX.plus RegionX.winStart at *
  simp only [List.filter_append, hhit, Option.all_none, Bool.and_true, List.filter_singleton, hp, cond_true]

theorem RegionX.issued_plus_of_held {x : RegionX} {p : Nat × Nat × Nat} {h : Nat} (hhit : x.hit = some h) (hlt : h < p.1) :
    (x.plus p).issued = x.issued := by
  have hp : decide (p.1 ≤ h) = false := decide_eq_false (by omega)
  unfold RegionX.issued RegionX.plus RegionX.winStart
  simp only [List.filter_append, hhit, Option.all_some, List.filter_singleton, hp, Bool.and_false, cond_false, List.append_nil]

theorem State.govPlane_of_none (h : hitCycle (s.budget (b / 16)) ((s.rx (b / 16)).plus (c, b, a)).issued = none) :
    s.govPlane b c a = s.setRx (b / 16) ((s.rx (b / 16)).plus (c, b, a)) := by
  unfold State.govPlane
  extract_lets r x y
  have hy : y = (s.rx (b / 16)).plus (c, b, a) := rfl
  rw [hy, show r = b / 16 from rfl, h]

theorem State.govPlane_of_some {k : Nat} (h : hitCycle (s.budget (b / 16)) ((s.rx (b / 16)).plus (c, b, a)).issued = some k) :
    s.govPlane b c a =
      (let s1 := s.setRx (b / 16) { (s.rx (b / 16)).plus (c, b, a) with hit := some k }
       if (s.rx (b / 16)).hit.isNone then (s1.addF (rgnBase (b / 16)) F.RGN_GOV_EVT_BUDGET_HITS 1).tally 54 1 else s1) := by
  unfold State.govPlane
  extract_lets r x y
  have hy : y = (s.rx (b / 16)).plus (c, b, a) := rfl
  rw [hy, show r = b / 16 from rfl, h]

/-- A plane that leaves the count below the budget. -/
theorem State.govPlane_below (hhit : (s.rx (b / 16)).hit = none) (hwin : c < (s.rx (b / 16)).winStart + 256)
    (hlt : (s.rx (b / 16)).act + a < s.budget (b / 16)) :
    s.govPlane b c a = s.setRx (b / 16) ((s.rx (b / 16)).plus (c, b, a)) ∧ ((s.rx (b / 16)).plus (c, b, a)).act = (s.rx (b / 16)).act + a := by
  have hissued := RegionX.issued_plus (p := (c, b, a)) hwin hhit
  have hact : ((s.rx (b / 16)).plus (c, b, a)).act = (s.rx (b / 16)).act + a := by
    rw [RegionX.act, hissued, List.map_append, List.sum_append, RegionX.act]
    simp
  exact ⟨State.govPlane_of_none (hitCycle_of_lt (hact.trans_lt hlt)), hact⟩

/-- The plane with which the budget is reached. -/
theorem State.govPlane_hits (hhit : (s.rx (b / 16)).hit = none) (hwin : c < (s.rx (b / 16)).winStart + 256)
    (hle : ∀ p ∈ (s.rx (b / 16)).planes, p.1 ≤ c) (hlt : (s.rx (b / 16)).act < s.budget (b / 16))
    (hge : s.budget (b / 16) ≤ (s.rx (b / 16)).act + a) :
    let x := { (s.rx (b / 16)).plus (c, b, a) with hit := some c }
    s.govPlane b c a = ((s.setRx (b / 16) x).addF (rgnBase (b / 16)) F.RGN_GOV_EVT_BUDGET_HITS 1).tally 54 1
      ∧ x.act = (s.rx (b / 16)).act + a ∧ x.heldOf b = [] := by
  intro x
  have hissued := RegionX.issued_plus (p := (c, b, a)) hwin hhit
  have hsub : ∀ p ∈ (s.rx (b / 16)).issued, p.1 ≤ c := fun p hp => hle p (List.mem_of_mem_filter hp)
  have hcycle := hitCycle_append (b := b) hsub hlt hge
  rw [← hissued] at hcycle
  have hall : ∀ p ∈ (s.rx (b / 16)).planes ++ [(c, b, a)], p.1 ≤ c := fun p hp => by
    rcases List.mem_append.1 hp with hp | hp
    · exact hle p hp
    · rw [List.mem_singleton.1 hp]
  have hx : x.issued = ((s.rx (b / 16)).plus (c, b, a)).issued := by
    refine List.filter_congr fun p hp => ?_
    simp [x, RegionX.plus, hhit, hall p hp, RegionX.winStart]
  refine ⟨?_, ?_, ?_⟩
  · rw [State.govPlane_of_some hcycle, hhit]
    rfl
  · rw [RegionX.act, hx, hissued, List.map_append, List.sum_append, RegionX.act]
    simp
  · refine List.filter_eq_nil_iff.2 fun p hp => ?_
    have := hall p hp
    simp only [Bool.and_eq_true, decide_eq_true_eq]
    omega

/-- A plane after the cycle in which the budget was reached. -/
theorem State.govPlane_holds {h : Nat} (hhit : (s.rx (b / 16)).hit = some h) (hlt : h < c)
    (hcycle : hitCycle (s.budget (b / 16)) (s.rx (b / 16)).issued = some h) :
    s.govPlane b c a = s.setRx (b / 16) ((s.rx (b / 16)).plus (c, b, a)) := by
  have hissued := RegionX.issued_plus_of_held (p := (c, b, a)) hhit hlt
  rw [← hissued] at hcycle
  have hx : { (s.rx (b / 16)).plus (c, b, a) with hit := some h } = (s.rx (b / 16)).plus (c, b, a) := by
    rw [RegionX.plus, ← hhit]
  rw [State.govPlane_of_some hcycle, hhit, hx]
  rfl

theorem State.govPlane_clause_below (hhit : (s.rx (b / 16)).hit = none) (hwin : c < (s.rx (b / 16)).winStart + 256)
    (hlt : (s.rx (b / 16)).act + a < s.budget (b / 16)) :
    (s.govPlane b c a).rx (b / 16) = { s.rx (b / 16) with planes := (s.rx (b / 16)).planes ++ [(c, b, a)] }
      ∧ ((s.govPlane b c a).rx (b / 16)).act = (s.rx (b / 16)).act + a ∧ { s.govPlane b c a with regions := s.regions } = s := by
  obtain ⟨heq, hact⟩ := State.govPlane_below hhit hwin hlt
  rw [heq, s.rx_setRx_self]
  exact ⟨rfl, hact, rfl⟩

theorem State.govPlane_clause_holds {h : Nat} (hhit : (s.rx (b / 16)).hit = some h) (hlt : h < c)
    (hcycle : hitCycle (s.budget (b / 16)) (s.rx (b / 16)).issued = some h) :
    ((s.govPlane b c a).rx (b / 16)).heldOf b = (s.rx (b / 16)).heldOf b ++ [(c, b, a)]
      ∧ ((s.govPlane b c a).rx (b / 16)).hit = some h ∧ ((s.govPlane b c a).rx (b / 16)).act = (s.rx (b / 16)).act
      ∧ { s.govPlane b c a with regions := s.regions } = s := by
  have hissued := RegionX.issued_plus_of_held (p := (c, b, a)) hhit hlt
  rw [State.govPlane_holds hhit hlt hcycle, s.rx_setRx_self]
  refine ⟨?_, hhit, by rw [RegionX.act, hissued, RegionX.act], rfl⟩
  unfold RegionX.heldOf RegionX.plus
  simp [hhit, hlt, List.filter_append]

theorem State.tally_rx (s : State) (ch k r : Nat) : (s.tally ch k).rx r = s.rx r := rfl

theorem State.govPlane_clause_hits (hhit : (s.rx (b / 16)).hit = none) (hwin : c < (s.rx (b / 16)).winStart + 256)
    (hle : ∀ p ∈ (s.rx (b / 16)).planes, p.1 ≤ c) (hlt : (s.rx (b / 16)).act < s.budget (b / 16))
    (hge : s.budget (b / 16) ≤ (s.rx (b / 16)).act + a) :
    (s.govPlane b c a).rx (b / 16) = { s.rx (b / 16) with planes := (s.rx (b / 16)).planes ++ [(c, b, a)], hit := some c }
      ∧ ((s.govPlane b c a).rx (b / 16)).act = (s.rx (b / 16)).act + a ∧ ((s.govPlane b c a).rx (b / 16)).heldOf b = []
      ∧ (s.govPlane b c a).getF (rgnBase (b / 16)) F.RGN_GOV_EVT_BUDGET_HITS
          = satCount F.RGN_GOV_EVT_BUDGET_HITS.width (s.getF (rgnBase (b / 16)) F.RGN_GOV_EVT_BUDGET_HITS) 1
      ∧ { s.govPlane b c a with regions := s.regions, regs := s.regs, hzn := s.hzn } = s := by
  obtain ⟨heq, hact, hheld⟩ := State.govPlane_hits hhit hwin hle hlt hge
  obtain ⟨x, hx⟩ : ∃ x, x = { (s.rx (b / 16)).plus (c, b, a) with hit := some c } := ⟨_, rfl⟩
  dsimp only at heq hact hheld
  rw [← hx] at heq hact hheld
  have hrx := s.rx_setRx_self (b / 16) x
  have hget := s.setRx_getF (b / 16) x (rgnBase (b / 16)) F.RGN_GOV_EVT_BUDGET_HITS
  have hframe : { s.setRx (b / 16) x with regions := s.regions } = s := rfl
  generalize s.setRx (b / 16) x = u at *
  have hadd := u.getF_addF_self (rgnBase (b / 16)) F.RGN_GOV_EVT_BUDGET_HITS 1 (by decide)
  have honly := State.OnlyRegs.of_addF u (rgnBase (b / 16)) F.RGN_GOV_EVT_BUDGET_HITS 1
  generalize u.addF (rgnBase (b / 16)) F.RGN_GOV_EVT_BUDGET_HITS 1 = w at *
  have hrxt : (s.govPlane b c a).rx (b / 16) = x := by rw [heq, State.tally_rx, honly.rx, hrx]
  rw [hrxt]
  refine ⟨hx, hact, hheld, by rw [heq, State.tally_getF, hadd, hget], ?_⟩
  rw [heq]
  exact (congrArg (fun y : State => { y with regions := s.regions, regs := s.regs, hzn := s.hzn }) honly.frame : _).trans
    (congrArg (fun y : State => { y with regs := s.regs, hzn := s.hzn }) hframe : _)

end

/-! ## The end of a window -/

theorem foldl_idle {α β : Type} (g : α → β → α) {l : List β} (h : ∀ y ∈ l, ∀ u, g u y = u) (u : α) : l.foldl g u = u := by
  induction l generalizing u with
  | nil => rfl
  | cons y l ih => rw [List.foldl_cons, h y List.mem_cons_self, ih fun z hz => h z (List.mem_cons_of_mem _ hz)]

theorem foldl_single {α β : Type} (g : α → β → α) {x : β} {l : List β} (hx : x ∈ l) (hl : l.Nodup) (h : ∀ y ∈ l, y ≠ x → ∀ u, g u y = u) (u : α) :
    l.foldl g u = g u x := by
  induction l generalizing u with
  | nil => exact absurd hx List.not_mem_nil
  | cons y l ih =>
    obtain ⟨hy, hl⟩ := List.nodup_cons.1 hl
    rw [List.foldl_cons]
    rcases List.mem_cons.1 hx with rfl | hx
    · exact foldl_idle g (fun z hz => h z (List.mem_cons_of_mem _ hz) fun he => hy (he ▸ hz)) _
    · rw [h y List.mem_cons_self fun he => hy (he ▸ hx), ih hx hl fun z hz => h z (List.mem_cons_of_mem _ hz)]

/-- Region x at the start of its next window. -/
def RegionX.nextWin (x : RegionX) : RegionX := { x with win := x.win + 1, planes := [], hit := none }

theorem RegionX.act_nextWin (x : RegionX) : x.nextWin.act = 0 := rfl

theorem RegionX.winStart_nextWin (x : RegionX) : x.nextWin.winStart = x.winStart + 256 := by
  simp only [RegionX.winStart, RegionX.nextWin]
  omega

/-- The stretched cycles of a window in which the budget was reached. -/
def State.stretched (s : State) (r : Nat) : State :=
  if (s.rx r).hit.isSome then
    let (y, t) := s.takeFree
    t.addF (rgnBase r) F.RGN_GOV_STAT_STRETCH (y % 257)
  else s

theorem State.resumeHeld_nil (s : State) (b : Nat) : s.resumeHeld b [] = s := rfl

section
variable {s : State} {r : Nat}

/-- Where every plane lies in the window, its end restarts the count and issues what was held. -/
theorem windowEnd_eq (hin : ∀ p ∈ (s.rx r).planes, p.1 < (s.rx r).winStart + 256) : windowEnd s r =
    (List.range 16).foldl (fun st i => st.resumeHeld (16 * r + i) ((s.rx r).heldOf (16 * r + i)))
      ((s.stretched r).setRx r { (s.stretched r).rx r with win := (s.rx r).win + 1, planes := [], hit := none }) := by
  have hlater : (s.rx r).planes.filter (fun p => decide ((s.rx r).winStart + 256 ≤ p.1) && ((s.rx r).heldOf p.2.1).isEmpty) = [] := by
    refine List.filter_eq_nil_iff.2 fun p hp => ?_
    have := hin p hp
    rw [Bool.and_eq_true, decide_eq_true_eq]
    omega
  have hstretched : s.stretched r = if (s.rx r).hit.isSome then
      let (y, t) := s.takeFree
      t.addF (rgnBase r) F.RGN_GOV_STAT_STRETCH (y % 257)
    else s := rfl
  unfold windowEnd
  extract_lets x s0 x0 s1 later s2
  have hs2 : s2 = s1 := by simp only [s2, later, x, hlater, List.foldl_nil]
  rw [hs2]
  simp only [s1, s0, x0, x, ← hstretched]
  rfl

/-- Planes up to the cycle of the budget: none is held. -/
theorem RegionX.heldOf_of_le {x : RegionX} (hle : ∀ h, x.hit = some h → ∀ p ∈ x.planes, p.1 ≤ h) (b : Nat) : x.heldOf b = [] := by
  unfold RegionX.heldOf
  split
  next h hh =>
    refine List.filter_eq_nil_iff.2 fun p hp => ?_
    have := hle h hh p hp
    rw [Bool.and_eq_true, decide_eq_true_eq, decide_eq_true_eq]
    omega
  next => rfl

theorem windowEnd_of_none_held (hin : ∀ p ∈ (s.rx r).planes, p.1 < (s.rx r).winStart + 256) (hheld : ∀ b, (s.rx r).heldOf b = []) :
    windowEnd s r = (s.stretched r).setRx r { (s.stretched r).rx r with win := (s.rx r).win + 1, planes := [], hit := none } := by
  rw [windowEnd_eq hin]
  exact foldl_idle _ (fun i _ u => by rw [hheld, State.resumeHeld_nil]) _

/-- Stretched cycles change the region's count of them and take a free value. -/
theorem State.stretched_leaves {h : Nat} (hhit : (s.rx r).hit = some h) : let t := s.stretched r
    t.rx r = s.rx r ∧ t.budget r = s.budget r
      ∧ (∃ k ≤ 256, t.getF (rgnBase r) F.RGN_GOV_STAT_STRETCH
          = satCount F.RGN_GOV_STAT_STRETCH.width (s.getF (rgnBase r) F.RGN_GOV_STAT_STRETCH) k)
      ∧ { t with regs := s.regs, free := s.free } = s := by
  obtain ⟨u, x, hx, ht, hregs, hbase⟩ : ∃ (u : State) (x : Nat), x ≤ 256 ∧ s.stretched r = u.addF (rgnBase r) F.RGN_GOV_STAT_STRETCH x
      ∧ u.regs = s.regs ∧ { u with free := s.free } = s := by
    refine ⟨{ s with free := s.free + 1 }, Config.freeNat s.free % 257, Nat.le_of_lt_succ (Nat.mod_lt _ (by decide)), ?_, rfl, rfl⟩
    rw [State.stretched, hhit]
    rfl
  have hstretch := u.getF_addF_self (rgnBase r) F.RGN_GOV_STAT_STRETCH x (by decide)
  have hbudget := u.getF_addF_of_apart (rgnBase r) x (f := F.RGN_GOV_STAT_STRETCH) (g := F.RGN_GOV_CTL_BUDGET) (by decide) (by decide)
  have hdiv := u.getF_addF_of_apart (rgnBase r) x (f := F.RGN_GOV_STAT_STRETCH) (g := F.RGN_GOV_STAT_HZN_DIV) (by decide) (by decide)
  have honly := State.OnlyRegs.of_addF u (rgnBase r) F.RGN_GOV_STAT_STRETCH x
  rw [ht]
  generalize u.addF (rgnBase r) F.RGN_GOV_STAT_STRETCH x = t at *
  have hget := State.getF_of_regs hregs (rgnBase r)
  have hrx : u.rx r = s.rx r := by
    have : u.regions = s.regions := (congrArg State.regions hbase : _)
    rw [State.rx, this, State.rx]
  refine ⟨by rw [honly.rx, hrx], by rw [State.budget, hbudget, hdiv, hget, hget, State.budget], ⟨x, hx, by rw [hstretch, hget]⟩, ?_⟩
  exact (congrArg (fun y : State => { y with regs := s.regs, free := s.free }) honly.frame : _).trans
    (congrArg (fun y : State => { y with regs := s.regs }) hbase : _)

/-- The end of a window in which the budget was not reached. -/
theorem exec_governorWindowEnd_unhit (hr : r < 16) (hon : s.pdOn (4 + r) = true) (hhit : (s.rx r).hit = none)
    (hin : ∀ p ∈ (s.rx r).planes, p.1 < (s.rx r).winStart + 256) :
    ∃ t, exec (.governorWindowEnd r) s = .next t ∧ t.rx r = { s.rx r with win := (s.rx r).win + 1, planes := [] } ∧ (t.rx r).act = 0
      ∧ (∀ q, q ≠ r → t.rx q = s.rx q) ∧ { t with regions := s.regions } = s := by
  have hexec : exec (.governorWindowEnd r) s = .next (if r < 16 ∧ s.pdOn (4 + r) then windowEnd s r else s) := rfl
  have hsame : s.stretched r = s := by
    rw [State.stretched, hhit]
    rfl
  rw [if_pos ⟨hr, hon⟩, windowEnd_of_none_held hin (RegionX.heldOf_of_le fun h hh => absurd (hhit.symm.trans hh) (Option.some_ne_none h).symm), hsame] at hexec
  refine ⟨_, hexec, ?_, ?_, fun q hq => s.rx_setRx_of_ne _ hq, rfl⟩
  · rw [s.rx_setRx_self, ← hhit]
  · rw [s.rx_setRx_self]
    rfl

/-- The end of a window in which the budget was reached and nothing held. -/
theorem exec_governorWindowEnd_hit {h : Nat} (hr : r < 16) (hon : s.pdOn (4 + r) = true) (hhit : (s.rx r).hit = some h)
    (hlt : h < (s.rx r).winStart + 256) (hle : ∀ p ∈ (s.rx r).planes, p.1 ≤ h) :
    ∃ t, exec (.governorWindowEnd r) s = .next t ∧ t.rx r = { s.rx r with win := (s.rx r).win + 1, planes := [], hit := none }
      ∧ (∃ k ≤ 256, t.getF (rgnBase r) F.RGN_GOV_STAT_STRETCH
          = satCount F.RGN_GOV_STAT_STRETCH.width (s.getF (rgnBase r) F.RGN_GOV_STAT_STRETCH) k)
      ∧ (∀ q, q ≠ r → t.rx q = s.rx q) ∧ { t with regions := s.regions, regs := s.regs, free := s.free } = s := by
  have hexec : exec (.governorWindowEnd r) s = .next (if r < 16 ∧ s.pdOn (4 + r) then windowEnd s r else s) := rfl
  have hheld := RegionX.heldOf_of_le (x := s.rx r) fun k hk p hp => by
    obtain rfl : h = k := Option.some.inj (hhit.symm.trans hk)
    exact hle p hp
  rw [if_pos ⟨hr, hon⟩, windowEnd_of_none_held (fun p hp => (hle p hp).trans_lt hlt) hheld] at hexec
  obtain ⟨hrx, -, hstretch, hframe⟩ := State.stretched_leaves hhit
  rw [hrx] at hexec
  generalize s.stretched r = u at *
  refine ⟨_, hexec, u.rx_setRx_self _ _, ?_, fun q hq => (u.rx_setRx_of_ne _ hq).trans ?_, ?_⟩
  · rwa [State.setRx_getF]
  · have hregions : u.regions = s.regions := (congrArg State.regions hframe : _)
    rw [State.rx, hregions, State.rx]
  · exact (congrArg (fun y : State => { y with regions := s.regions }) hframe : _)

/-- One held plane of a block that has not become idle issues in the first cycle of the window. -/
theorem State.resumeHeld_one {s : State} {b c a : Nat} (hbusy : (s.rx (b / 16)).winStart ≤ c + 63) :
    s.resumeHeld b [(c, b, a)] = (let t := s.govPlane b (s.rx (b / 16)).winStart a
      t.setBx b { t.bx b with lastPlane := some (s.rx (b / 16)).winStart }) := by
  have hidle : decide (c + 63 < (s.rx (b / 16)).winStart) = false := decide_eq_false (by omega)
  unfold State.resumeHeld
  extract_lets r start
  dsimp only
  rw [show start = (s.rx (b / 16)).winStart from rfl, hidle]
  simp only [Bool.false_eq_true, if_false, lt_irrefl, List.foldl_cons, List.foldl_nil, Nat.sub_self, Nat.add_zero]
  rfl

/-- The end of a window that held one plane. -/
theorem exec_governorWindowEnd_resumes {b h c a : Nat} {l : List (Nat × Nat × Nat)} (hb : b < 256) (hon : s.pdOn (4 + b / 16) = true)
    (hhit : (s.rx (b / 16)).hit = some h) (hplanes : (s.rx (b / 16)).planes = l ++ [(c, b, a)]) (hle : ∀ p ∈ l, p.1 ≤ h) (hhc : h < c)
    (hwin : c < (s.rx (b / 16)).winStart + 256) (hbusy : (s.rx (b / 16)).winStart + 256 ≤ c + 63) (hbudget : a < s.budget (b / 16)) :
    ∃ t, exec (.governorWindowEnd (b / 16)) s = .next t ∧ (t.rx (b / 16)).planes = [((s.rx (b / 16)).winStart + 256, b, a)]
      ∧ (t.rx (b / 16)).hit = none ∧ (t.rx (b / 16)).act = a ∧ (t.bx b).lastPlane = some ((s.rx (b / 16)).winStart + 256) ∧ s.othersKept t b
      ∧ t.mem = s.mem ∧ t.macros = s.macros := by
  have hexec : exec (.governorWindowEnd (b / 16)) s =
    .next (if b / 16 < 16 ∧ s.pdOn (4 + b / 16) then windowEnd s (b / 16) else s) := rfl
  have hin : ∀ p ∈ (s.rx (b / 16)).planes, p.1 < (s.rx (b / 16)).winStart + 256 := by
    intro p hp
    rw [hplanes] at hp
    rcases List.mem_append.1 hp with hp | hp
    · have := hle p hp
      omega
    · rw [List.mem_singleton.1 hp]
      exact hwin
  have hheld (q : Nat) : (s.rx (b / 16)).heldOf q = if b = q then [(c, b, a)] else [] := by
    have hnone : l.filter (fun p => decide (p.2.1 = q) && decide (h < p.1)) = [] := List.filter_eq_nil_iff.2 fun p hp => by
      have := hle p hp
      rw [Bool.and_eq_true, decide_eq_true_eq, decide_eq_true_eq]
      omega
    unfold RegionX.heldOf
    rw [hhit]
    dsimp only
    rw [hplanes, List.filter_append, hnone, List.nil_append, List.filter_singleton, decide_eq_true hhc, Bool.and_true]
    by_cases hq : b = q
    · rw [if_pos hq, decide_eq_true hq, cond_true]
    · rw [if_neg hq, decide_eq_false hq, cond_false]
  obtain ⟨hrx, hbud, -, hframe⟩ := State.stretched_leaves hhit
  rw [if_pos ⟨by omega, hon⟩, windowEnd_eq hin, hrx,
    foldl_single _ (x := b % 16) (List.mem_range.2 (Nat.mod_lt _ (by decide))) List.nodup_range
      (fun i hi hne u => by
        rw [hheld, if_neg (by rw [List.mem_range] at hi; omega), State.resumeHeld_nil]),
    show 16 * (b / 16) + b % 16 = b by omega, hheld, if_pos rfl] at hexec
  obtain ⟨x, hx⟩ : ∃ x, x = (s.rx (b / 16)).nextWin := ⟨_, rfl⟩
  change exec _ s = .next (((s.stretched (b / 16)).setRx (b / 16) (s.rx (b / 16)).nextWin).resumeHeld b [(c, b, a)]) at hexec
  have hstart := (s.rx (b / 16)).winStart_nextWin
  have hact := (s.rx (b / 16)).act_nextWin
  have hhit0 : (s.rx (b / 16)).nextWin.hit = none := rfl
  have hplanes0 : (s.rx (b / 16)).nextWin.planes = [] := rfl
  rw [← hx] at hexec hstart hact hhit0 hplanes0
  generalize s.stretched (b / 16) = u at *
  have hrxw := u.rx_setRx_self (b / 16) x
  have hbudw : (u.setRx (b / 16) x).budget (b / 16) = u.budget (b / 16) := rfl
  have hbxw (q : Nat) : (u.setRx (b / 16) x).bx q = u.bx q := rfl
  have hmemw : (u.setRx (b / 16) x).mem = u.mem := rfl
  have hmacw : (u.setRx (b / 16) x).macros = u.macros := rfl
  generalize u.setRx (b / 16) x = w at *
  rw [State.resumeHeld_one (by rw [hrxw, hstart]; exact hbusy), hrxw, hstart] at hexec
  obtain ⟨hplane, hactw⟩ := State.govPlane_below (s := w) (b := b) (c := (s.rx (b / 16)).winStart + 256) (a := a) (by rw [hrxw, hhit0])
    (by rw [hrxw, hstart]; omega) (by rw [hrxw, hact, hbudw, hbud]; omega)
  rw [hplane, hrxw] at hexec
  rw [hrxw, hact] at hactw
  have hblocks : u.blocks = s.blocks := (congrArg State.blocks hframe : _)
  have hmem : u.mem = s.mem := (congrArg State.mem hframe : _)
  have hmac : u.macros = s.macros := (congrArg State.macros hframe : _)
  obtain ⟨y, hy⟩ : ∃ y, y = x.plus ((s.rx (b / 16)).winStart + 256, b, a) := ⟨_, rfl⟩
  rw [← hy] at hexec hactw
  have hrxv := w.rx_setRx_self (b / 16) y
  have hbxv (q : Nat) : (w.setRx (b / 16) y).bx q = w.bx q := rfl
  have hmemv : (w.setRx (b / 16) y).mem = w.mem := rfl
  have hmacv : (w.setRx (b / 16) y).macros = w.macros := rfl
  generalize w.setRx (b / 16) y = v at *
  dsimp only at hexec
  refine ⟨_, hexec, ?_, ?_, ?_, ?_, fun q hq => ?_, ?_, ?_⟩
  · rw [State.setBx_rx, hrxv, hy, RegionX.plus, hplanes0, List.nil_append]
  · rw [State.setBx_rx, hrxv, hy, RegionX.plus, hhit0]
  · rw [State.setBx_rx, hrxv, hactw, Nat.zero_add]
  · rw [v.bx_setBx_self]
  · rw [State.setBx_othersKept v b _ q hq, hbxv, hbxw, State.bx, hblocks, State.bx]
  · rw [State.setBx_mem, hmemv, hmemw, hmem]
  · rw [State.setBx_macros, hmacv, hmacw, hmac]

end

/-- Settles O30. -/
theorem regionClocksAndSupplies : Obligations.RegionClocksAndSupplies := by
  unfold Obligations.RegionClocksAndSupplies
  refine ⟨?_, ?_, ?_, ?_, ?_, ?_, ?_, ?_, ?_, ?_, ?_, ?_⟩
  · exact fun s r v hr h3 hv hok hon hchg hne => exec_rgnAclkStepWrite_starts hr h3 hv hok hon hchg hne
  · exact fun s r v hr h3 hv hok => exec_rgnAclkStepWrite_refuses hr h3 hv hok
  · exact fun s r a n hchg hle => exec_synthesizerLocked_rises hchg hle
  · exact fun s r a n hchg hlt hn => exec_synthesizerLocked_falls hchg hlt hn
  · exact fun s r a n hchg hq hn => exec_ldoSettled_ends hchg hq hn
  · exact fun s r hr hon hsettled hfree => exec_rgnLdoOor hr hon hsettled hfree
  · exact fun s r hr hon hhit hin => exec_governorWindowEnd_unhit hr hon hhit hin
  · exact fun s r h hr hon hhit hlt hle => exec_governorWindowEnd_hit hr hon hhit hlt hle
  · exact fun s b h c a l hb hon hhit hplanes hle hhc hwin hbusy hbudget =>
      exec_governorWindowEnd_resumes hb hon hhit hplanes hle hhc hwin hbusy hbudget
  · exact fun s b c a hhit hwin hlt => State.govPlane_clause_below hhit hwin hlt
  · exact fun s b c a hhit hwin hle hlt hge => State.govPlane_clause_hits hhit hwin hle hlt hge
  · exact fun s b h c a hhit hlt hcycle => State.govPlane_clause_holds hhit hlt hcycle

end Sys2Proof.Machine

end


section
/-! SUPPORT. What an error at region or chip level and the entry to FAULTED leave alone (R444, R450, R451). -/

namespace Sys2Proof.Machine

/-- A register that is none of Horizon, of the Postmark Log and of Nimbus. -/
def jobQuiet (a : Nat) : Prop := a < hznBase ∨ secBase ≤ a

/-- t differs from s at most in what answers, records and requests at the end of a job change. -/
structure State.Wrapup (s t : State) : Prop where
  frame : { t with
    regs := s.regs, pml := { t.pml with queue := s.pml.queue, drops := s.pml.drops }, job := s.job, sdio := s.sdio, mail := s.mail, nim := s.nim, bist := s.bist
    power := { t.power with settling := s.power.settling, plan := s.power.plan, ret := s.power.ret }
    errs := { t.errs with table := s.errs.table } } = s
  reg : ∀ a, jobQuiet a → t.reg a = s.reg a
  ret : ∀ d, s.power.ret.testBit d = false → t.power.ret.testBit d = false

section
variable {s₀ s t : State}

theorem State.Wrapup.refl (s : State) : s.Wrapup s := ⟨rfl, fun _ _ => rfl, fun _ => id⟩
theorem State.Wrapup.trans (h : s₀.Wrapup s) (g : s.Wrapup t) : s₀.Wrapup t :=
  ⟨by rw [← h.frame, ← g.frame], fun a ha => (g.reg a ha).trans (h.reg a ha), fun d hd => g.ret d (h.ret d hd)⟩

theorem State.Wrapup.ite {c : Prop} [Decidable c] {a b : State} (ha : s₀.Wrapup a) (hb : s₀.Wrapup b) : s₀.Wrapup (if c then a else b) := by
  split <;> assumption

theorem State.Wrapup.foldl {α : Type} {f : State → α → State} {l : List α} (h : s₀.Wrapup s) (hf : ∀ u x, s₀.Wrapup u → s₀.Wrapup (f u x)) :
    s₀.Wrapup (l.foldl f s) := by
  induction l generalizing s with
  | nil => exact h
  | cons x l ih => exact ih (hf s x h)

theorem State.Wrapup.chip (h : s₀.Wrapup s) : s.chip = s₀.chip := (congrArg State.chip h.frame : _)
theorem State.Wrapup.blocks (h : s₀.Wrapup s) : s.blocks = s₀.blocks := (congrArg State.blocks h.frame : _)
theorem State.Wrapup.sets (h : s₀.Wrapup s) : s.sets = s₀.sets := (congrArg State.sets h.frame : _)
theorem State.Wrapup.mem (h : s₀.Wrapup s) : s.mem = s₀.mem := (congrArg State.mem h.frame : _)
theorem State.Wrapup.power (h : s₀.Wrapup s) :
    { s.power with settling := s₀.power.settling, plan := s₀.power.plan, ret := s₀.power.ret } = s₀.power := (congrArg State.power h.frame : _)
theorem State.Wrapup.pml (h : s₀.Wrapup s) : { s.pml with queue := s₀.pml.queue, drops := s₀.pml.drops } = s₀.pml := (congrArg State.pml h.frame : _)
theorem State.Wrapup.bootCount (h : s₀.Wrapup s) : s.pml.bootCount = s₀.pml.bootCount := (congrArg Pml.bootCount h.pml : _)
theorem State.Wrapup.store (h : s₀.Wrapup s) : s.store = s₀.store := (congrArg State.store h.frame : _)
theorem State.Wrapup.wake (h : s₀.Wrapup s) : s.power.wake = s₀.power.wake := (congrArg Power.wake h.power : _)
theorem State.Wrapup.mesh (h : s₀.Wrapup s) : s.mesh = s₀.mesh := (congrArg State.mesh h.frame : _)
theorem State.Wrapup.regions (h : s₀.Wrapup s) : s.regions = s₀.regions := (congrArg State.regions h.frame : _)
theorem State.Wrapup.on (h : s₀.Wrapup s) : s.on = s₀.on := (congrArg State.on h.frame : _)
theorem State.Wrapup.pdOn (h : s₀.Wrapup s) {d : Nat} (hd : s₀.pdOn d = true) : s.pdOn d = true := by
  rw [State.pdOn, State.pdPow, Bool.and_eq_true, Bool.not_eq_true'] at hd ⊢
  exact ⟨by rw [h.on]; exact hd.1, h.ret d hd.2⟩
theorem State.Wrapup.errs (h : s₀.Wrapup s) : { s.errs with table := s₀.errs.table } = s₀.errs := (congrArg State.errs h.frame : _)
theorem State.Wrapup.pin (h : s₀.Wrapup s) : s.errs.pin = s₀.errs.pin := (congrArg Errs.pin h.errs : _)
theorem State.Wrapup.slot (h : s₀.Wrapup s) : s.errs.slot = s₀.errs.slot := (congrArg Errs.slot h.errs : _)

/-! ## Leaves -/

theorem State.Wrapup.withMail (h : s₀.Wrapup s) (m : Mail) : s₀.Wrapup { s with mail := m } := h.trans ⟨rfl, fun _ _ => rfl, fun _ => id⟩
theorem State.Wrapup.withNim (h : s₀.Wrapup s) (n : Nim) : s₀.Wrapup { s with nim := n } := h.trans ⟨rfl, fun _ _ => rfl, fun _ => id⟩
theorem State.Wrapup.withPower (h : s₀.Wrapup s) (l : List Nat) (p : List (Nat × Bool)) :
    s₀.Wrapup { s with power := { s.power with settling := l, plan := p } } := h.trans ⟨rfl, fun _ _ => rfl, fun _ => id⟩
theorem State.Wrapup.noRet (h : s₀.Wrapup s) : s₀.Wrapup { s with power := { s.power with ret := 0 } } :=
  h.trans ⟨rfl, fun _ _ => rfl, fun d _ => Nat.zero_testBit d⟩
theorem State.Wrapup.withPml (h : s₀.Wrapup s) (q : List PmSub) (n : Nat) : s₀.Wrapup { s with pml := { s.pml with queue := q, drops := n } } := h.trans ⟨rfl, fun _ _ => rfl, fun _ => id⟩
theorem State.Wrapup.withTable (h : s₀.Wrapup s) (e : List FaultEnt) : s₀.Wrapup { s with errs := { s.errs with table := e } } :=
  h.trans ⟨rfl, fun _ _ => rfl, fun _ => id⟩

theorem State.Wrapup.setF (h : s₀.Wrapup s) {base : Nat} {f : Fld} {v : Nat} (hq : ¬jobQuiet (base + f.off)) : s₀.Wrapup (s.setF base f v) :=
  h.trans ⟨rfl, fun a ha => s.reg_setF_of_ne base v f (by rintro rfl; exact hq ha), fun _ => id⟩

theorem not_jobQuiet {a : Nat} (h : hznBase ≤ a ∧ a < secBase) : ¬jobQuiet a := by
  unfold jobQuiet
  omega

theorem State.Wrapup.postEvent (h : s₀.Wrapup s) {code source arg : Nat} {pm : Bool} : s₀.Wrapup (s.postEvent code source arg pm) := .ite (h.withMail _) h

theorem State.Wrapup.setInt (h : s₀.Wrapup s) {b : Nat} : s₀.Wrapup (s.setInt b) := h.trans ⟨rfl, fun _ _ => rfl, fun _ => id⟩

theorem State.Wrapup.pmSubmit (h : s₀.Wrapup s) {p : PmSub} : s₀.Wrapup (s.pmSubmit p) := by
  have hcount : ¬jobQuiet (pmlBase + F.PML_DROPS_COUNT.off) := not_jobQuiet (by decide)
  have hflag : ¬jobQuiet (pmlBase + F.PML_STAT_DROPPED.off) := not_jobQuiet (by decide)
  have hdrop (u : State) (hu : s₀.Wrapup u) : s₀.Wrapup ((u.addF pmlBase F.PML_DROPS_COUNT 1).flagF pmlBase F.PML_STAT_DROPPED) :=
    (hu.setF hcount).setF hflag
  exact .ite (hdrop _ (h.withPml _ _)) (h.withPml _ _)

theorem State.Wrapup.faultLeave (h : s₀.Wrapup s) {e : FaultEnt} : s₀.Wrapup (s.faultLeave e) := .ite h.pmSubmit h

theorem State.Wrapup.faultFlush (h : s₀.Wrapup s) : s₀.Wrapup s.faultFlush := (h.foldl fun _ _ h => h.faultLeave).withTable _

theorem State.pmSubmit_errs (s : State) (p : PmSub) : (s.pmSubmit p).errs = s.errs := by
  unfold State.pmSubmit
  split
  · rw [State.pmDrop, State.flagF_errs, State.addF_errs]
  · rfl

theorem State.faultLeave_errs (s : State) (e : FaultEnt) : (s.faultLeave e).errs = s.errs := by
  unfold State.faultLeave
  split
  · exact s.pmSubmit_errs _
  · rfl

theorem State.Wrapup.casecRecord (h : s₀.Wrapup s) {fid n : Nat} : s₀.Wrapup (s.casecRecord fid n) := by
  unfold State.casecRecord
  split
  · exact h.withTable _
  · refine .ite h ?_
    extract_lets e1 s1 e2 s2
    have h1 : s₀.Wrapup s1 := by
      unfold s1
      split
      · next e r _ =>
        refine .ite ?_ h
        have hleft := (h.faultLeave (e := e)).withTable r
        rwa [s.faultLeave_errs] at hleft
      · exact h
    have h2 : s₀.Wrapup s2 := by
      clear_value s1
      exact h1.withTable _
    clear_value s2
    exact h2.pmSubmit.postEvent

theorem State.Wrapup.abandonSecuring (h : s₀.Wrapup s) : s₀.Wrapup s.abandonSecuring := by
  have hflag : ¬jobQuiet (nimBase + F.NIM_STAT_ABORT.off) := not_jobQuiet (by decide)
  have hcount : ¬jobQuiet (nimBase + F.NIM_COUNTS_ABORTED.off) := not_jobQuiet (by decide)
  have h1 := h.withNim { s.nim with sec := none }
  unfold State.abandonSecuring
  extract_lets n s1
  change s₀.Wrapup s1 at h1
  clear_value s1
  exact .ite ((h1.setF hflag).setF hcount).casecRecord h1

theorem State.Wrapup.dropRequest (h : s₀.Wrapup s) : s₀.Wrapup s.dropRequest := by
  have hreq : ¬jobQuiet (nimBase + F.NIM_STAT_REQ.off) := not_jobQuiet (by decide)
  have hset := h.setF (v := 0) hreq
  unfold State.dropRequest
  generalize s.setF nimBase F.NIM_STAT_REQ 0 = u at *
  exact hset.withNim _

theorem State.Wrapup.finish (h : s₀.Wrapup s) {id status : Nat} {res : List Byte} : s₀.Wrapup (s.finish id status res) := by
  have honly := s.finish_onlyMailbox id status res
  generalize s.finish id status res = u at *
  have hframe := honly.frame s.sdio s.mail
  have hregs := honly.regs
  refine h.trans ⟨?_, fun a _ => State.reg_of_regs hregs a, fun d hd => by rw [honly.power]; exact hd⟩
  exact (congrArg (fun x : State => { x with
    regs := s.regs, pml := { x.pml with queue := s.pml.queue, drops := s.pml.drops }, job := s.job, nim := s.nim, bist := s.bist, errs := { x.errs with table := s.errs.table }
    power := { x.power with settling := s.power.settling, plan := s.power.plan, ret := s.power.ret } }) hframe : _)

theorem State.Wrapup.finishOpt (h : s₀.Wrapup s) {id : Option Nat} {status : Nat} {res : List Byte} : s₀.Wrapup (s.finishOpt id status res) := by
  unfold State.finishOpt
  split
  · exact h.finish
  · exact h

theorem State.Wrapup.cancelFetches (h : s₀.Wrapup s) : s₀.Wrapup s.cancelFetches := by
  refine h.foldl fun u x hu => ?_
  split
  · exact .ite hu hu.finish
  · exact hu

theorem State.Wrapup.endRefused (h : s₀.Wrapup s) : s₀.Wrapup s.endRefused := by
  refine h.foldl fun u x hu => ?_
  have hstaged : s₀.Wrapup u.noStaged := hu.trans ⟨rfl, fun _ _ => rfl, fun _ => id⟩
  split
  · exact hstaged.finish
  · exact hu.finish

theorem State.Wrapup.powerAsk (h : s₀.Wrapup s) {d : Nat} : s₀.Wrapup (s.powerAsk d) := by
  unfold State.powerAsk State.powerUp
  exact .ite (.ite h (h.withPower _ _)) (.ite h (h.withPower _ _))

theorem State.Wrapup.hznWake (h : s₀.Wrapup s) {mask : Nat} : s₀.Wrapup (s.hznWake mask).1 := by
  have hoff : ¬jobQuiet (hznBase + F.HZN_REST_OFF.off) := not_jobQuiet (by decide)
  exact (h.foldl fun _ _ h => h.powerAsk).setF hoff

theorem State.Wrapup.setSlice (h : s₀.Wrapup s) {q : Option Slice} : s₀.Wrapup (s.setSlice q) := h.trans ⟨rfl, fun _ _ => rfl, fun _ => id⟩

/-- The slice given up without an answer. -/
theorem State.Wrapup.sliceLeave (h : s₀.Wrapup s) : s₀.Wrapup (s.sliceLeave false) := by
  have hmove (q : Slice) : s₀.Wrapup (s.moveCursors q) := h.trans ⟨rfl, fun _ _ => rfl, fun _ => id⟩
  unfold State.sliceLeave
  split
  · exact .ite (hmove _).setSlice (.ite (hmove _).setSlice.finishOpt (hmove _).setSlice)
  · exact h

end

/-! ## The entry to FAULTED -/

/-- The chip state after a transition to st. -/
def Chip.turned (c : Chip) (st : ChipSt) : Chip := { c with st := st, prev := c.st, transitions := (c.transitions + 1) % 65536 }

theorem State.goChip_faulted (s : State) : State.Wrapup { s with chip := s.chip.turned .faulted } (s.goChip .faulted) := by
  have hleave := (State.Wrapup.refl s).sliceLeave
  have hstates : ChipSt.faulted ∉ bistStates := by decide
  unfold State.goChip
  rw [if_neg hstates, show decide (ChipSt.faulted ≠ .faulted) = false from rfl]
  extract_lets s0 c p s1
  have hs0 : s.Wrapup s0 := hleave
  have h1 : State.Wrapup { s with chip := s.chip.turned .faulted } s1 := by
    have hchip : s0.chip = s.chip := hs0.chip
    have hturn : State.Wrapup { s with chip := s.chip.turned .faulted } { s0 with chip := s0.chip.turned .faulted } := by
      rw [hchip]
      exact ⟨(congrArg (fun x : State => { x with chip := s.chip.turned .faulted }) hs0.frame : _), hs0.reg, hs0.ret⟩
    exact hturn.noRet
  exact h1.postEvent.setInt

theorem State.Wrapup.withChip {s t : State} (h : s.Wrapup t) (c : Chip) : State.Wrapup { s with chip := c } { t with chip := c } :=
  ⟨(congrArg (fun x : State => { x with chip := c }) h.frame : _), h.reg, h.ret⟩

theorem State.Wrapup.withoutSlot {s t : State} (h : s.Wrapup t) :
    State.Wrapup { s with errs := { s.errs with slot := none } } { t with errs := { t.errs with slot := none } } :=
  ⟨(congrArg (fun x : State => { x with errs := { x.errs with slot := none } }) h.frame : _), h.reg, h.ret⟩

/-- The chip state after the entry to FAULTED, the job ended by it or not. -/
def Chip.faultedBy (c : Chip) (ended : Bool) : Chip := { c.turned .faulted with jobEnded := c.jobEnded || ended }

/-- What the entry to FAULTED does at once: contexts stop, no result set remains, Casec's slot is free. -/
def State.faultedNow (s : State) (ended : Bool) : State :=
  { s with chip := s.chip.faultedBy ended, errs := { s.errs with slot := none }, sets := [], blocks := (s.stopContexts true).blocks }

/-- What the entry to FAULTED does (R450, R451). -/
theorem State.enterFaulted_leaves (s : State) (ended : Bool) : (s.faultedNow ended).Wrapup (s.enterFaulted ended) := by
  unfold State.enterFaulted
  obtain ⟨u, hu⟩ : ∃ u, u = { s with sets := [], blocks := (s.stopContexts true).blocks } := ⟨_, rfl⟩
  have hend : State.Wrapup u (((s.noteEnded s.sets).stopContexts true).endSets 0x0501) := by
    rw [hu]
    exact ⟨rfl, fun _ _ => rfl, fun _ => id⟩
  have hdrop := hend.abandonSecuring.dropRequest
  generalize ((((s.noteEnded s.sets).stopContexts true).endSets 0x0501).abandonSecuring).dropRequest = r at *
  have hturn := State.goChip_faulted r
  have hrchip : r.chip = s.chip := by rw [hdrop.chip, hu]
  rw [hrchip] at hturn
  have h1 := (hdrop.withChip (s.chip.turned .faulted)).trans hturn
  generalize r.goChip .faulted = s1 at *
  extract_lets v c j s2 p s3 e s4 n s5
  have hc1 : s1.chip = s.chip.turned .faulted := h1.chip
  have h2 : State.Wrapup { u with chip := s.chip.faultedBy ended } s2 := by
    have hjob : State.Wrapup { u with chip := s.chip.faultedBy ended } { s1 with chip := s.chip.faultedBy ended } := h1.withChip (s.chip.faultedBy ended)
    have hchip : s2 = { s1 with chip := s.chip.faultedBy ended, job := s2.job } := by
      simp only [s2, c, v, hc1]
      rfl
    rw [hchip]
    exact hjob.trans ⟨rfl, fun _ _ => rfl, fun _ => id⟩
  clear_value s2
  have h3 : State.Wrapup { u with chip := s.chip.faultedBy ended } s3 := h2.pmSubmit.faultFlush
  clear_value s3
  have h4 := h3.withoutSlot
  have hnow : s.faultedNow ended = { u with chip := s.chip.faultedBy ended, errs := { u.errs with slot := none } } := by
    rw [hu]
    rfl
  rw [hnow]
  have h5 : State.Wrapup { u with chip := s.chip.faultedBy ended, errs := { u.errs with slot := none } } s5 :=
    (h4.withNim _).foldl fun _ _ h => h.finishOpt
  clear_value s5
  exact h5.cancelFetches.endRefused.hznWake

/-! ## Errors at the chip and at a region -/

/-- What an error leaves alone wherever it ends: arrays, mesh and regions, and every quiet register that is not one of the region's own error records. -/
structure State.Raised (s t : State) (own : List Nat) : Prop where
  mem : t.mem = s.mem
  mesh : t.mesh = s.mesh
  regions : t.regions = s.regions
  on : t.on = s.on
  reg : ∀ a, jobQuiet a → a ∉ own → t.reg a = s.reg a

theorem State.Wrapup.raised {s t : State} (h : s.Wrapup t) : s.Raised t [] := ⟨h.mem, h.mesh, h.regions, h.on, fun a ha _ => h.reg a ha⟩

theorem State.Raised.trans {s t u : State} {own : List Nat} (h : s.Raised t own) (g : t.Raised u own) : s.Raised u own :=
  ⟨g.mem.trans h.mem, g.mesh.trans h.mesh, g.regions.trans h.regions, g.on.trans h.on, fun a ha hn => (g.reg a ha hn).trans (h.reg a ha hn)⟩

theorem State.Raised.mono {s t : State} {own own' : List Nat} (h : s.Raised t own) (hsub : own ⊆ own') : s.Raised t own' :=
  ⟨h.mem, h.mesh, h.regions, h.on, fun a ha hn => h.reg a ha fun hm => hn (hsub hm)⟩

theorem State.Raised.setFs (s : State) (base : Nat) (l : List (Fld × Nat)) : s.Raised (s.setFs base l) (l.map fun p => base + p.1.off) := by
  have honly := State.OnlyRegs.of_setFs s base l
  exact ⟨honly.mem, honly.mesh, honly.regions, honly.on, fun a _ hn => s.reg_setFs_of_ne base fun p hp he => hn (List.mem_map.2 ⟨p, hp, he⟩)⟩

theorem State.faultedNow_raised (s : State) (ended : Bool) : s.Raised (s.faultedNow ended) [] := ⟨rfl, rfl, rfl, rfl, fun _ _ _ => rfl⟩

theorem State.raiseChip_raised (s : State) (fid : Nat) : s.Raised (s.raiseChip fid) [] := by
  have hrec := (State.Wrapup.refl s).casecRecord (fid := fid) (n := 1)
  unfold State.raiseChip
  generalize s.casecRecord fid 1 = u at *
  have herrs (e : Errs) : s.Raised { u with errs := e } [] := hrec.raised.trans ⟨rfl, rfl, rfl, rfl, fun _ _ _ => rfl⟩
  split
  · split
    · exact herrs _
    · split
      · exact herrs _
      · exact hrec.raised.trans ((u.faultedNow_raised true).trans (u.enterFaulted_leaves true).raised)
  · exact hrec.raised

/-- The registers of a region's own error record. -/
def regionRecord (r : Nat) : List Nat := [rgnBase r + 0x100, rgnBase r + 0x104, rgnBase r + 0x108]

theorem State.raiseRegion_raised (s : State) (r fid : Nat) : s.Raised (s.raiseRegion r fid none) (regionRecord r) := by
  have hrecord (l : List (Fld × Nat)) (hl : ∀ p ∈ l, p.1.off ∈ [0x100, 0x104, 0x108]) : s.Raised (s.setFs (rgnBase r) l) (regionRecord r) := by
    refine (State.Raised.setFs s (rgnBase r) l).mono fun a ha => ?_
    obtain ⟨p, hp, rfl⟩ := List.mem_map.1 ha
    have := hl p hp
    simp only [List.mem_cons, List.not_mem_nil, or_false] at this
    rcases this with h | h | h <;> simp [regionRecord, h]
  unfold State.raiseRegion
  extract_lets base s1 s2
  split
  · split
    · exact hrecord [(F.RGN_ERR_STAT_COUNT, _)] (by simp)
    · exact (hrecord [(F.RGN_ERR_STAT_ESCALATED, 1)] (by simp)).trans ((State.raiseChip_raised _ fid).mono (List.nil_subset _))
  · change s.Raised s2 (regionRecord r)
    have h1 := hrecord [(F.RGN_ERR_REC_LO_ID, fid), (F.RGN_ERR_REC_HI_ID, fid / 2 ^ 32), (F.RGN_ERR_STAT_VALID, 1), (F.RGN_ERR_STAT_COUNT, 1)] (by simp)
    have h2 := hrecord [(F.RGN_ERR_REC_LO_ID, fid), (F.RGN_ERR_REC_HI_ID, fid / 2 ^ 32), (F.RGN_ERR_STAT_VALID, 1), (F.RGN_ERR_STAT_COUNT, 1),
      (F.RGN_ERR_STAT_THROTTLE, 1)] (by simp)
    by_cases hcls : bits fid 16 8 = 0x9A
    · rw [show s2 = _ from if_pos hcls]
      exact h2
    · rw [show s2 = _ from if_neg hcls]
      exact h1

end Sys2Proof.Machine
end


section
/-! SUPPORT. Lines of HBM read and written, and requests answered (R318 to R322, R328). -/

namespace Sys2Proof.Machine

/-! ## Lists of bytes -/

theorem flatMap_slices {α : Type} (l : List α) (w n : Nat) : (List.range n).flatMap (fun i => slice l (w * i) w) = l.take (w * n) := by
  induction n with
  | zero => simp
  | succ n ih =>
    rw [List.range_succ, List.flatMap_append, ih, Nat.mul_succ, List.take_add]
    simp [slice]

theorem Mem.rdN_add (m : Mem) (a p q : Nat) : Mem.rdN m a (p + q) = Mem.rdN m a p ++ Mem.rdN m (a + p) q := by
  simp [Mem.rdN, List.range_add, Nat.add_assoc, Function.comp_def]

theorem Mem.length_rdN (m : Mem) (a n : Nat) : (Mem.rdN m a n).length = n := by
  simp [Mem.rdN]

theorem Mem.rdN_congr {m m' : Mem} {a n : Nat} (h : ∀ x, a ≤ x → x < a + n → Mem.rd m' x = Mem.rd m x) : Mem.rdN m' a n = Mem.rdN m a n :=
  List.map_congr_left fun i hi => h _ (Nat.le_add_right _ _) (by have := List.mem_range.1 hi; omega)

/-! ## ECC -/

/-- No word of the line at a has a flipped bit. -/
def State.lineClean (s : State) (a : Nat) : Prop := ∀ i < 8, flipsIn s.flips.hbm (a / 8 + i) = 0

/-- What the words of a line with at most one flipped bit each read as. -/
def lineWords (fl : List Nat) (w : Nat) (data : List Byte) : List WordRead :=
  (List.range 8).map (fun i => ⟨slice data (8 * i) 8, flipsIn fl (w + i)⟩)

section
variable {s : State} {fl : List Nat} {w : Nat} {data : List Byte}

theorem State.eccWord_of_le_one (h : flipsIn fl w ≤ 1) : s.eccWord fl w data = (⟨data, flipsIn fl w⟩, s) := by
  unfold State.eccWord
  exact if_pos h

theorem State.eccLine_of_le_one (h : ∀ i < 8, flipsIn fl (w + i) ≤ 1) : s.eccLine fl w data = (lineWords fl w data, s) := by
  have hfold (n : Nat) (hn : n ≤ 8) : (List.range n).foldl (fun (acc : List WordRead × State) i =>
      let (q, t) := acc.2.eccWord fl (w + i) (slice data (8 * i) 8)
      (acc.1 ++ [q], t)) ([], s) = ((List.range n).map (fun i => ⟨slice data (8 * i) 8, flipsIn fl (w + i)⟩), s) := by
    induction n with
    | zero => rfl
    | succ n ih =>
      rw [List.range_succ, List.foldl_append, ih (by omega), List.map_append, List.foldl_cons, List.foldl_nil,
        State.eccWord_of_le_one (h n (by omega))]
      rfl
  exact hfold 8 (le_refl 8)

theorem lineBytes_lineWords (h : data.length = 64) : lineBytes (lineWords fl w data) = data := by
  rw [lineBytes, lineWords, List.flatMap_map, flatMap_slices, List.take_of_length_le (by omega)]

theorem lineUe_lineWords (h : ∀ i < 8, flipsIn fl (w + i) ≤ 1) : lineUe (lineWords fl w data) = false := by
  refine List.any_eq_false.2 fun q hq => ?_
  obtain ⟨i, hi, rfl⟩ := List.mem_map.1 hq
  have := h i (List.mem_range.1 hi)
  rw [decide_eq_true_eq]
  dsimp only
  omega

theorem lineCe_lineWords : lineCe (lineWords fl w data) = (List.range 8).any fun i => decide (flipsIn fl (w + i) = 1) := by
  rw [lineCe, lineWords, List.any_map]
  rfl

end

/-! ## Reads -/

section
variable {s : State} {a src : Nat}

theorem State.length_hbmRd (s : State) (a n : Nat) : (s.hbmRd a n).length = n := Mem.length_rdN _ _ _

theorem State.hbmReadLine_of_clean (h : s.lineClean a) : s.hbmReadLine a src = (s.hbmRd a 64, 0, s) := by
  have hle : ∀ i < 8, flipsIn s.flips.hbm (a / 8 + i) ≤ 1 := fun i hi => (h i hi).le.trans (Nat.zero_le 1)
  have hce : lineCe (lineWords s.flips.hbm (a / 8) (s.hbmRd a 64)) = false := by
    rw [lineCe_lineWords]
    refine List.any_eq_false.2 fun i hi => ?_
    rw [h i (List.mem_range.1 hi)]
    decide
  unfold State.hbmReadLine
  rw [State.eccLine_of_le_one hle]
  dsimp only
  rw [hce, lineUe_lineWords hle, lineBytes_lineWords (s.length_hbmRd a 64)]
  rfl

theorem State.hbmReadLines_of_clean {n : Nat} (h : ∀ i < n, s.lineClean (a + 64 * i)) : s.hbmReadLines a n src = (s.hbmRd a (64 * n), 0, s) := by
  unfold State.hbmReadLines
  induction n with
  | zero => rfl
  | succ n ih =>
    rw [List.range_succ, List.foldl_append, ih fun i hi => h i (by omega), List.foldl_cons, List.foldl_nil]
    dsimp only
    rw [State.hbmReadLine_of_clean (h n (by omega)), Nat.mul_succ]
    dsimp only
    rw [State.hbmRd, State.hbmRd, State.hbmRd, Mem.rdN_add]
    rfl

theorem State.hbmGate_of_allowed {wr : Bool} (htop : a < hbmTop) (hallowed : s.hbmAllowed a src wr = true) : s.hbmGate a src wr = (0, s) := by
  rw [State.hbmGate, if_neg (Nat.not_le.2 htop), hallowed]
  rfl

theorem State.lineGood_iff {wr : Bool} : s.lineGood a src wr = true ↔ a < hbmTop ∧ s.hbmAllowed a src wr = true ∧ s.lineClean a := by
  simp [State.lineGood, State.lineClean, and_assoc]

end

/-! ## Writes -/

/-- The bytes bs stand at address a of HBM, and nothing else has changed from s to t. -/
structure State.Landed (s t : State) (a : Nat) (bs : List Byte) : Prop where
  frame : { t with mem := s.mem, flips := s.flips } = s
  mem : { t.mem with hbm := s.mem.hbm } = s.mem
  here : t.hbmRd a bs.length = bs
  away : ∀ x, (x < a ∨ a + bs.length ≤ x) → Mem.rd t.mem.hbm x = Mem.rd s.mem.hbm x

theorem State.Landed.nil (s : State) (a : Nat) : s.Landed s a [] := ⟨rfl, rfl, rfl, fun _ _ => rfl⟩

theorem State.Landed.append {s t u : State} {a : Nat} {bs cs : List Byte} (h : s.Landed t a bs) (g : t.Landed u (a + bs.length) cs) :
    s.Landed u a (bs ++ cs) where
  frame := by rw [← h.frame, ← g.frame]
  mem := by rw [← h.mem, ← g.mem]
  here := by
    have hkept : Mem.rdN u.mem.hbm a bs.length = Mem.rdN t.mem.hbm a bs.length := Mem.rdN_congr fun _ _ hx => g.away _ (Or.inl hx)
    rw [State.hbmRd, List.length_append, Mem.rdN_add, hkept]
    exact congrArg₂ (· ++ ·) h.here g.here
  away := fun _ hx => by
    rw [List.length_append] at hx
    rw [g.away _ (by omega), h.away _ (by omega)]

theorem State.hbmWriteLine_landed (s : State) (a : Nat) (bs : List Byte) : s.Landed (s.hbmWriteLine a bs) a bs :=
  ⟨rfl, rfl, Mem.rdN_wrN _ _ _, fun _ hx => Mem.rd_wrN_of_outside _ _ _ _ hx⟩

theorem State.hbmWriteLines_landed (s : State) (a n : Nat) {bs : List Byte} (h : 64 * n ≤ bs.length) :
    s.Landed ((List.range n).foldl (fun st i => st.hbmWriteLine (a + 64 * i) (slice bs (64 * i) 64)) s) a (bs.take (64 * n)) := by
  induction n with
  | zero => exact .nil s a
  | succ n ih =>
    have hlen : (bs.take (64 * n)).length = 64 * n := List.length_take_of_le (by omega)
    rw [List.range_succ, List.foldl_append, List.foldl_cons, List.foldl_nil, Nat.mul_succ, List.take_add]
    refine (ih (by omega)).append ?_
    rw [hlen]
    exact State.hbmWriteLine_landed _ _ _

theorem length_setAt {α : Type} (l : List α) (i : Nat) (x : α) : (setAt l i x).length = l.length := by
  induction l generalizing i with
  | nil => rfl
  | cons y l ih => cases i <;> simp [setAt, ih]

theorem length_mergeLine (old : List Byte) (data : List (Nat × Byte × Byte)) : (mergeLine old data).length = old.length := by
  unfold mergeLine
  induction data generalizing old with
  | nil => rfl
  | cons d data ih => rw [List.foldl_cons, ih, length_setAt]

/-! ## Registers of the controllers -/

/-- t differs from s in registers of HBM's controllers alone. -/
structure State.OnlyHbmRegs (s t : State) : Prop where
  only : s.OnlyRegs t
  reg : ∀ a, (a < 0x30000 ∨ 0x50000 ≤ a) → t.reg a = s.reg a

theorem State.OnlyHbmRegs.refl (s : State) : s.OnlyHbmRegs s := ⟨.refl s, fun _ _ => rfl⟩
theorem State.OnlyHbmRegs.trans {s t u : State} (h : s.OnlyHbmRegs t) (g : t.OnlyHbmRegs u) : s.OnlyHbmRegs u :=
  ⟨h.only.trans g.only, fun a ha => (g.reg a ha).trans (h.reg a ha)⟩

theorem State.OnlyHbmRegs.of_setF (s : State) {st : Nat} {f : Fld} (v : Nat) (hst : st < 2) (hf : f.off < 0x10000) :
    s.OnlyHbmRegs (s.setF (hbmBase st) f v) :=
  ⟨.of_setF .., fun a ha => s.reg_setF_of_ne _ v f (by simp only [hbmBase]; omega)⟩

theorem State.OnlyHbmRegs.of_pcCount (s : State) {pc : Nat} {f : Fld} (n : Nat) (hpc : pc < 64) (hf : f.off < 0x8000) : s.OnlyHbmRegs (s.pcCount pc f n) := by
  have := Nat.mod_lt pc (by decide : 0 < 32)
  exact .of_setF s _ (by omega) (by simp only [Fld.idx]; omega)

theorem State.hbmErr_onlyHbmRegs (s : State) (a kind src : Nat) : s.OnlyHbmRegs (s.hbmErr a kind src) := by
  have hset (u : State) (f : Fld) (v : Nat) (hf : f.off < 0x10000) : u.OnlyHbmRegs (u.setF (hbmBase (hbmPc a / 32)) f v) :=
    .of_setF u v (hbmPc_div_lt a) hf
  unfold State.hbmErr
  extract_lets base s1
  have h1 : s.OnlyHbmRegs s1 := by
    unfold s1
    split
    · exact (((hset _ _ _ (by decide)).trans (hset _ _ _ (by decide))).trans (hset _ _ _ (by decide))).trans (hset _ _ _ (by decide))
    · exact .refl s
  refine h1.trans (hset s1 _ 1 ?_)
  split
  · decide
  · split <;> decide

/-! ## Routes -/

theorem State.isolated_of_same {s t : State} (h : ∀ a, 0x50000 ≤ a → t.reg a = s.reg a) : t.isolated = s.isolated := by
  funext x
  have hle : 0x50000 ≤ rgnBase (x.1 / 16) + (F.RGN_RTR_ERR_ISOLATED.idx (0x40 * (x.1 % 16))).off := by
    simp only [rgnBase]
    omega
  rw [State.isolated, State.getF, h _ hle, State.isolated, State.getF]

theorem State.cutRoute_of_same {s t : State} (h : ∀ a, 0x50000 ≤ a → t.reg a = s.reg a) (src dst : Nat) : t.cutRoute src dst = s.cutRoute src dst := by
  rw [State.cutRoute, State.isolated_of_same h, State.cutRoute]

/-- A message sent on an open route, and nothing else but flit counts. -/
theorem State.send_leaves {s : State} {src dst : Nat} (h : s.cutRoute src dst = false) (blk : Nat) (b : Body) : let t := s.send src dst blk b
    t.net = s.net ++ [⟨src, dst, blk, b⟩] ∧ t.mesh.tries = s.mesh.tries ∧ t.regs = s.regs ∧ { t with net := s.net, mesh := s.mesh } = s := by
  refine ⟨s.send_net src dst blk b h, s.send_tries src dst blk b, s.send_regs src dst blk b, ?_⟩
  unfold State.send
  rw [h]
  rfl

/-! ## Requests -/

theorem hbmSvc_of_reqAt {s : State} {pc k kind : Nat} {r : HbmReq} (hreq : s.reqAt pc k = some r) (hon : s.pcOn pc = true) (hkind : r.kind = kind) :
    hbmSvc s pc k kind = (s.dequeue pc k).hbmAnswer pc r := by
  rw [hbmSvc, hreq]
  exact if_pos ⟨hon, hkind⟩

/-- A request leaves its queue. -/
theorem State.dequeue_leaves (s : State) (pc k : Nat) : let t := s.dequeue pc k
    t.pcQueue pc = dropAt (s.pcQueue pc) k ∧ (∀ q, q ≠ pc → t.pcQueue q = s.pcQueue q) ∧ t.regs = s.regs ∧ { t with hbmQ := s.hbmQ } = s :=
  ⟨SMap.get_set_self _ _ _ _, fun _ hq => SMap.get_set_ne _ _ _ (Ne.symm hq), rfl, rfl⟩

theorem State.pcQueue_of_same {s t : State} (h : t.hbmQ = s.hbmQ) (pc : Nat) : t.pcQueue pc = s.pcQueue pc := by
  rw [State.pcQueue, h, State.pcQueue]

end Sys2Proof.Machine
end


section
/-! PROOFS. O17: requests enter HBM's queues, and reads are answered (R315, R318 to R321, R330). -/

namespace Sys2Proof.Machine

/-! ## Requests enter -/

theorem State.dropMsg_leaves (s : State) (k : Nat) : let t := s.dropMsg k
    t.mesh.flits = s.mesh.flits ∧ t.regs = s.regs ∧ t.hbmQ = s.hbmQ ∧ { t with net := s.net, mesh := s.mesh } = s := by
  unfold State.dropMsg
  split <;> exact ⟨rfl, rfl, rfl, rfl⟩

/-- The largest queue length of a pseudo-channel. -/
abbrev qpeak (pc : Nat) : Fld := F.HBM_PC_QPEAK_ENTRIES.idx (0x10 * (pc % 32))

theorem State.enqueue_leaves (s : State) {pc : Nat} (r : HbmReq) (hlen : (s.pcQueue pc).length < 704) : let t := s.enqueue pc r
    t.pcQueue pc = s.pcQueue pc ++ [r] ∧ (∀ q, q ≠ pc → t.pcQueue q = s.pcQueue q)
      ∧ t.getF (hbmBase (pc / 32)) (qpeak pc) = max (s.getF (hbmBase (pc / 32)) (qpeak pc)) ((s.pcQueue pc).length + 1)
      ∧ { t with hbmQ := s.hbmQ, regs := s.regs } = s := by
  obtain ⟨u, hu⟩ : ∃ u, u = s.setQueue pc (s.pcQueue pc ++ [r]) := ⟨_, rfl⟩
  have hself : u.pcQueue pc = s.pcQueue pc ++ [r] := by
    rw [hu]
    exact SMap.get_set_self _ _ _ _
  have hother (q : Nat) (hq : q ≠ pc) : u.pcQueue q = s.pcQueue q := by
    rw [hu]
    exact SMap.get_set_ne _ _ _ (Ne.symm hq)
  have hregs : u.regs = s.regs := by
    rw [hu]
    rfl
  have hframe : { u with hbmQ := s.hbmQ } = s := by
    rw [hu]
    rfl
  have hdone : s.enqueue pc r = u.setF (hbmBase (pc / 32)) (qpeak pc) (max (u.getF (hbmBase (pc / 32)) (qpeak pc)) (s.pcQueue pc ++ [r]).length) := by
    rw [hu]
    rfl
  have hget := State.getF_of_regs hregs (hbmBase (pc / 32)) (qpeak pc)
  have hlt : s.getF (hbmBase (pc / 32)) (qpeak pc) < 2 ^ 10 := bits_lt _ _ _
  rw [List.length_append, List.length_singleton, hget] at hdone
  have hpeak := u.getF_setF_self (hbmBase (pc / 32)) (qpeak pc) (max (s.getF (hbmBase (pc / 32)) (qpeak pc)) ((s.pcQueue pc).length + 1)) (by simp [Fld.idx])
  generalize hn : max (s.getF (hbmBase (pc / 32)) (qpeak pc)) ((s.pcQueue pc).length + 1) = n at *
  have hnlt : n < 2 ^ 10 := by omega
  have honly := State.OnlyRegs.of_setF u (hbmBase (pc / 32)) (qpeak pc) n
  rw [hdone]
  generalize u.setF (hbmBase (pc / 32)) (qpeak pc) n = t at *
  refine ⟨?_, fun q hq => ?_, hpeak.trans (Nat.mod_eq_of_lt hnlt), ?_⟩
  · rw [State.pcQueue_of_same honly.hbmQ, hself]
  · rw [State.pcQueue_of_same honly.hbmQ, hother q hq]
  · exact (congrArg (fun x : State => { x with hbmQ := s.hbmQ, regs := s.regs }) honly.frame : _).trans
      (congrArg (fun x : State => { x with regs := s.regs }) hframe : _)

theorem hbmEnqueue_of_msg {s : State} {k pc : Nat} {m : Msg} {r : HbmReq} (hmsg : s.msgAt k = some m) (hdst : m.dst = 1024 + pc) (hpc : pc < 64)
    (hon : s.pcOn pc = true) (hreq : m.hbmReq = some r) (hlen : (s.pcQueue pc).length < 704) : hbmEnqueue s k = (s.dropMsg k).enqueue pc r := by
  have hsub : m.dst - 1024 = pc := by omega
  rw [hbmEnqueue, hmsg]
  dsimp only
  rw [hsub, if_pos ⟨by omega, by omega, hon⟩, hreq]
  exact if_neg (by omega)

theorem exec_hbmRequest_enters {s : State} {k pc : Nat} {m : Msg} {r : HbmReq} (hmsg : s.msgAt k = some m) (hdst : m.dst = 1024 + pc) (hpc : pc < 64)
    (hon : s.pcOn pc = true) (hreq : m.hbmReq = some r) (hlen : (s.pcQueue pc).length < 704) :
    ∃ t, exec (.hbmRequest k) s = .next t ∧ t.net = dropAt s.net k ∧ t.pcQueue pc = s.pcQueue pc ++ [r]
      ∧ (∀ q, q ≠ pc → t.pcQueue q = s.pcQueue q)
      ∧ t.getF (hbmBase (pc / 32)) (qpeak pc) = max (s.getF (hbmBase (pc / 32)) (qpeak pc)) ((s.pcQueue pc).length + 1)
      ∧ t.mesh.flits = s.mesh.flits ∧ { t with net := s.net, mesh := s.mesh, hbmQ := s.hbmQ, regs := s.regs } = s := by
  have hexec : exec (.hbmRequest k) s = .next (hbmEnqueue s k) := rfl
  rw [hbmEnqueue_of_msg hmsg hdst hpc hon hreq hlen] at hexec
  obtain ⟨hflits, hregs, hqueues, hframe⟩ := s.dropMsg_leaves k
  have hnet := s.dropMsg_net k
  generalize s.dropMsg k = u at *
  have hqueue (q : Nat) : u.pcQueue q = s.pcQueue q := State.pcQueue_of_same hqueues q
  obtain ⟨hself, hother, hpeak, hent⟩ := u.enqueue_leaves r (pc := pc) (by rw [hqueue]; exact hlen)
  generalize u.enqueue pc r = t at *
  have hbase : { t with hbmQ := s.hbmQ, regs := s.regs } = u := by
    rw [← hqueues, ← hregs]
    exact hent
  refine ⟨t, hexec, ?_, ?_, fun q hq => ?_, ?_, ?_, ?_⟩
  · rw [show t.net = u.net from (congrArg State.net hbase : _), hnet]
  · rw [hself, hqueue]
  · rw [hother q hq, hqueue]
  · rw [hpeak, hqueue, State.getF_of_regs hregs]
  · rw [show t.mesh = u.mesh from (congrArg State.mesh hbase : _), hflits]
  · exact (congrArg (fun x : State => { x with net := s.net, mesh := s.mesh }) hbase : _).trans hframe

/-! ## Reads are answered -/

section
variable {s u : State} {pc k : Nat} {r : HbmReq}

theorem State.hbmAllowed_of_regs {s t : State} (h : t.regs = s.regs) (a src : Nat) (wr : Bool) : t.hbmAllowed a src wr = s.hbmAllowed a src wr := by
  simp only [State.hbmAllowed, State.isF, State.getF_of_regs h, State.reg_of_regs h]

/-- The answer to a request that has left its queue, on an open route. -/
theorem State.answer_leaves (hqueues : u.hbmQ = (s.dequeue pc k).hbmQ) (hnet : u.net = s.net) (hmesh : u.mesh = s.mesh) {dst : Nat}
    (hopen : u.cutRoute (1024 + pc) dst = false) (b : Body) : let t := u.send (1024 + pc) dst 256 b
    t.pcQueue pc = dropAt (s.pcQueue pc) k ∧ (∀ q, q ≠ pc → t.pcQueue q = s.pcQueue q) ∧ t.net = s.net ++ [⟨1024 + pc, dst, 256, b⟩]
      ∧ t.mesh.tries = s.mesh.tries ∧ t.regs = u.regs ∧ { t with net := u.net, mesh := u.mesh } = u := by
  obtain ⟨hself, hother, -, -⟩ := s.dequeue_leaves pc k
  obtain ⟨hsent, htries, hregs, hframe⟩ := State.send_leaves hopen 256 b
  generalize u.send (1024 + pc) dst 256 b = t at *
  have hkept : t.hbmQ = u.hbmQ := (congrArg State.hbmQ hframe : _)
  have hq (q : Nat) : t.pcQueue q = (s.dequeue pc k).pcQueue q := State.pcQueue_of_same (hkept.trans hqueues) q
  exact ⟨(hq pc).trans hself, fun q hne => (hq q).trans (hother q hne), by rw [hsent, hnet], by rw [htries, hmesh], hregs, hframe⟩

theorem State.hbmAnswer_of_serve {b : Body} (hserve : s.hbmServe pc r = (some b, u)) (hkind : r.kind ≠ 3) :
    s.hbmAnswer pc r = u.send (1024 + pc) r.src 256 b := by
  rw [State.hbmAnswer, hserve]
  exact if_neg fun h => hkind h.1

theorem State.hbmServe_read {d : List Byte} {e : Nat} (hkind : r.kind = 0) (hread : s.hbmServeRead r.line r.lines r.src = (d, e, u)) :
    s.hbmServe pc r = (some (.readRsp (keyHbm r.line) d e r.iss), u) := by
  rw [State.hbmServe, if_pos hkind, hread]

/-- What a read brings about, once its service is known. -/
theorem exec_hbmReadService_of_serve {d : List Byte} {e : Nat} (hreq : s.reqAt pc k = some r) (hon : s.pcOn pc = true) (hkind : r.kind = 0)
    (hopen : s.pathOpen (1024 + pc) r.src = true) (hread : (s.dequeue pc k).hbmServeRead r.line r.lines r.src = (d, e, u))
    (hregs : (s.dequeue pc k).OnlyHbmRegs u) :
    ∃ t, exec (.hbmReadService pc k) s = .next t ∧ t.pcQueue pc = dropAt (s.pcQueue pc) k ∧ (∀ q, q ≠ pc → t.pcQueue q = s.pcQueue q)
      ∧ t.net = s.net ++ [⟨1024 + pc, r.src, 256, .readRsp (keyHbm r.line) d e r.iss⟩] ∧ t.mesh.tries = s.mesh.tries ∧ t.regs = u.regs
      ∧ { t with net := s.net, mesh := s.mesh, hbmQ := s.hbmQ, regs := s.regs } = s := by
  have hexec : exec (.hbmReadService pc k) s = .next (hbmSvc s pc k 0) := rfl
  rw [hbmSvc_of_reqAt hreq hon hkind, State.hbmAnswer_of_serve (State.hbmServe_read hkind hread) (by omega)] at hexec
  obtain ⟨-, -, hdregs, hdframe⟩ := s.dequeue_leaves pc k
  have hcut : u.cutRoute (1024 + pc) r.src = false := by
    rw [State.cutRoute_of_same (fun a ha => (hregs.reg a (Or.inr ha)).trans (State.reg_of_regs hdregs a))]
    simpa [State.pathOpen] using hopen
  have hbase : { u with regs := s.regs, hbmQ := s.hbmQ } = s := by
    have h := (congrArg (fun x : State => { x with hbmQ := s.hbmQ }) hregs.only.frame : _)
    rw [hdregs] at h
    exact h.trans hdframe
  obtain ⟨hself, hother, hnet, htries, htregs, hframe⟩ := State.answer_leaves (s := s) (u := u) (k := k) hregs.only.hbmQ
    (congrArg State.net hbase : _) (congrArg State.mesh hbase : _) hcut (.readRsp (keyHbm r.line) d e r.iss)
  generalize u.send (1024 + pc) r.src 256 (.readRsp (keyHbm r.line) d e r.iss) = t at *
  refine ⟨t, hexec, hself, hother, hnet, htries, htregs, ?_⟩
  exact (congrArg (fun x : State => { x with net := s.net, mesh := s.mesh, hbmQ := s.hbmQ, regs := s.regs }) hframe : _).trans
    (congrArg (fun x : State => { x with net := s.net, mesh := s.mesh }) hbase : _)

theorem State.hbmServeRead_of_good {a n src : Nat} (hgood : ∀ i < n, s.lineGood (a + 64 * i) src false = true) (hn : 0 < n) :
    s.hbmServeRead a n src = (s.hbmRd a (64 * n), 0, s.pcCount (hbmPc a) F.HBM_PC_RD_LINES n) := by
  obtain ⟨htop, hallowed, -⟩ := State.lineGood_iff.1 (hgood 0 hn)
  have hlines := State.hbmReadLines_of_clean (s := s) (a := a) (src := src) (n := n) fun i hi => (State.lineGood_iff.1 (hgood i hi)).2.2
  rw [Nat.mul_zero, Nat.add_zero] at htop hallowed
  rw [State.hbmServeRead, State.hbmGate_of_allowed htop hallowed]
  dsimp only
  rw [if_neg (by decide), hlines]

theorem State.lineGood_dequeue (s : State) (pc k a src : Nat) (wr : Bool) : (s.dequeue pc k).lineGood a src wr = s.lineGood a src wr := by
  rw [State.lineGood, State.hbmAllowed_of_regs (s.dequeue_leaves pc k).2.2.1, State.lineGood]
  rfl

theorem exec_hbmReadService_reads (hreq : s.reqAt pc k = some r) (hon : s.pcOn pc = true) (hkind : r.kind = 0)
    (hopen : s.pathOpen (1024 + pc) r.src = true) (hgood : ∀ i < r.lines, s.lineGood (r.line + 64 * i) r.src false = true) (hlines : 0 < r.lines) :
    ∃ t, exec (.hbmReadService pc k) s = .next t ∧ t.pcQueue pc = dropAt (s.pcQueue pc) k ∧ (∀ q, q ≠ pc → t.pcQueue q = s.pcQueue q)
      ∧ t.net = s.net ++ [⟨1024 + pc, r.src, 256, .readRsp (keyHbm r.line) (s.hbmRd r.line (64 * r.lines)) 0 r.iss⟩]
      ∧ t.mesh.tries = s.mesh.tries ∧ { t with net := s.net, mesh := s.mesh, hbmQ := s.hbmQ, regs := s.regs } = s := by
  have hread := State.hbmServeRead_of_good (s := s.dequeue pc k) (a := r.line) (n := r.lines) (src := r.src)
    (fun i hi => (s.lineGood_dequeue pc k _ _ _).trans (hgood i hi)) hlines
  obtain ⟨t, hexec, hself, hother, hnet, htries, -, hframe⟩ := exec_hbmReadService_of_serve hreq hon hkind hopen hread
    (.of_pcCount _ _ (hbmPc_lt _) (by decide))
  exact ⟨t, hexec, hself, hother, hnet, htries, hframe⟩

theorem State.hbmErr_isF (s : State) (a kind src : Nat) :
    (s.hbmErr a kind src).isF (hbmBase (hbmPc a / 32)) (if kind = 0 then F.HBM_STAT_UE else if kind = 1 then F.HBM_STAT_RANGE else F.HBM_STAT_PROT) = true := by
  unfold State.hbmErr
  refine State.isF_flagF_self _ _ ?_ ?_
  · split_ifs <;> decide
  · split_ifs <;> rfl

theorem State.hbmServeRead_of_refused {a n src e : Nat} (hgate : s.hbmGate a src false = (e, u)) (he : e ≠ 0) :
    s.hbmServeRead a n src = (List.replicate (64 * n) 0, e, u) := by
  rw [State.hbmServeRead, hgate]
  exact if_pos he

/-- A read that its gate refuses is answered with POISON. -/
theorem exec_hbmReadService_refused {e kind : Nat} (hreq : s.reqAt pc k = some r) (hon : s.pcOn pc = true) (hkind : r.kind = 0)
    (hopen : s.pathOpen (1024 + pc) r.src = true)
    (hgate : (s.dequeue pc k).hbmGate r.line r.src false = (e, (s.dequeue pc k).hbmErr r.line kind (endNo r.src))) (he : e ≠ 0) :
    ∃ t, exec (.hbmReadService pc k) s = .next t ∧ t.pcQueue pc = dropAt (s.pcQueue pc) k
      ∧ t.net = s.net ++ [⟨1024 + pc, r.src, 256, .readRsp (keyHbm r.line) (List.replicate (64 * r.lines) 0) e r.iss⟩]
      ∧ t.isF (hbmBase (hbmPc r.line / 32)) (if kind = 0 then F.HBM_STAT_UE else if kind = 1 then F.HBM_STAT_RANGE else F.HBM_STAT_PROT) = true
      ∧ t.mem = s.mem := by
  have hflag := (s.dequeue pc k).hbmErr_isF r.line kind (endNo r.src)
  obtain ⟨t, hexec, hself, -, hnet, -, hregs, hframe⟩ := exec_hbmReadService_of_serve hreq hon hkind hopen (State.hbmServeRead_of_refused hgate he)
    (State.hbmErr_onlyHbmRegs _ _ _ _)
  generalize (s.dequeue pc k).hbmErr r.line kind (endNo r.src) = u at *
  exact ⟨t, hexec, hself, hnet, by rw [State.isF, State.getF_of_regs hregs, ← State.isF, hflag], (congrArg State.mem hframe : _)⟩

end

/-- Settles O17. -/
theorem hbmReadsAreAnswered : Obligations.HbmReadsAreAnswered := by
  unfold Obligations.HbmReadsAreAnswered
  refine ⟨?_, ?_, ?_, ?_⟩
  · exact fun s k pc m r hmsg hdst hpc hon hreq hlen => exec_hbmRequest_enters hmsg hdst hpc hon hreq hlen
  · exact fun s pc k r hreq hon hkind hopen hgood hlines => exec_hbmReadService_reads hreq hon hkind hopen hgood hlines
  · intro s pc k r hreq hon hkind hopen htop
    exact exec_hbmReadService_refused (kind := 1) hreq hon hkind hopen (if_pos htop) (by decide)
  · intro s pc k r hreq hon hkind hopen htop hallowed hsrc
    refine exec_hbmReadService_refused (kind := 2) hreq hon hkind hopen ?_ (by decide)
    have hdequeued : (s.dequeue pc k).hbmAllowed r.line r.src false = false :=
      (State.hbmAllowed_of_regs (s.dequeue_leaves pc k).2.2.1 _ _ _).trans hallowed
    rw [State.hbmGate, if_neg (Nat.not_le.2 htop), hdequeued]
    dsimp only
    rw [Bool.not_false, if_pos rfl, if_pos hsrc]

end Sys2Proof.Machine
end


section
/-! PROOFS. O18: writes of HBM land, and INT32 adds saturate (R166, R322, R324, R325). -/

namespace Sys2Proof.Machine

/-! ## Atomic adds -/

theorem foldl_keeps {α β : Type} (P : β → Prop) (f : β → α → β) {l : List α} {u : β} (hu : P u) (h : ∀ x ∈ l, ∀ v, P v → P (f v x)) : P (l.foldl f u) := by
  induction l generalizing u with
  | nil => exact hu
  | cons x l ih => exact ih (h x List.mem_cons_self u hu) fun y hy => h y (List.mem_cons_of_mem _ hy)

/-- An atomic add keeps the length of its line. -/
theorem length_atomLine {fmt : Nat} {old : List Byte} {data : List (Nat × Byte × Byte)} (h : old.length = 64) : (atomLine fmt old data).1.length = 64 := by
  obtain ⟨w, hw, hdiv⟩ : ∃ w, w = (if fmt = 2 then 2 else 4) ∧ w * (64 / w) = 64 := ⟨_, rfl, by split <;> rfl⟩
  unfold atomLine
  rw [← hw]
  refine foldl_keeps (fun acc : List Byte × Bool × Bool => acc.1.length = 64) _ h fun i hi acc hacc => ?_
  have hfits : w * i + w ≤ 64 := by
    calc w * i + w = w * (i + 1) := (Nat.mul_succ w i).symm
      _ ≤ w * (64 / w) := Nat.mul_le_mul_left w (List.mem_range.1 hi)
      _ = 64 := hdiv
  dsimp only
  split
  · simp only [List.length_append, List.length_take, List.length_drop, leBytes_length, hacc]
    omega
  · exact hacc

theorem toSigned_ofSigned_32 {c : Int} (hlo : -2147483648 ≤ c) (hhi : c ≤ 2147483647) : toSigned 32 (ofSigned 32 c) = c := by
  rw [toSigned, ofSigned]
  norm_num
  split <;> omega

/-- One INT32 element (R166). -/
theorem atomElem_int32 (a b : Nat) :
    toSigned 32 (atomElem 0 a b).1 = max (-2147483648) (min 2147483647 (toSigned 32 a + toSigned 32 b))
      ∧ (atomElem 0 a b).2.1 = decide (toSigned 32 a + toSigned 32 b < -2147483648 ∨ 2147483647 < toSigned 32 a + toSigned 32 b)
      ∧ (atomElem 0 a b).2.2 = false := by
  rw [atomElem, if_pos rfl]
  generalize toSigned 32 a + toSigned 32 b = t
  dsimp only
  by_cases hhi : 2147483647 < t
  · rw [if_pos (by norm_num; exact hhi)]
    refine ⟨?_, ?_, rfl⟩
    · rw [min_eq_left hhi.le]
      decide
    · exact (decide_eq_true (Or.inr hhi)).symm
  · rw [if_neg (by norm_num; omega)]
    by_cases hlo : t < -2147483648
    · rw [if_pos (by norm_num; exact hlo)]
      refine ⟨?_, ?_, rfl⟩
      · rw [min_eq_right (by omega), max_eq_left hlo.le]
        decide
      · exact (decide_eq_true (Or.inl hlo)).symm
    · rw [if_neg (by norm_num; omega)]
      refine ⟨?_, ?_, rfl⟩
      · rw [min_eq_right (by omega), max_eq_right (by omega), toSigned_ofSigned_32 (by omega) (by omega)]
      · exact (decide_eq_false (by omega)).symm

/-! ## Writes are served and acknowledged -/

section
variable {s u : State} {pc k : Nat} {r : HbmReq}

/-- What a write that was served and acknowledged leaves. -/
structure State.WriteDone (s t : State) (pc k : Nat) (r : HbmReq) (bs : List Byte) : Prop where
  self : t.pcQueue pc = dropAt (s.pcQueue pc) k
  others : ∀ q, q ≠ pc → t.pcQueue q = s.pcQueue q
  net : t.net = s.net ++ [⟨1024 + pc, r.src, 256, .ack 0 r.iss⟩]
  here : t.hbmRd r.line bs.length = bs
  away : ∀ a, (a < r.line ∨ r.line + bs.length ≤ a) → Mem.rd t.mem.hbm a = Mem.rd s.mem.hbm a
  mem : { t.mem with hbm := s.mem.hbm } = s.mem
  tries : t.mesh.tries = s.mesh.tries
  frame : { t with net := s.net, mesh := s.mesh, hbmQ := s.hbmQ, regs := s.regs, mem := s.mem, flips := s.flips } = s
  reg : ∀ a, 0x50000 ≤ a → t.reg a = s.reg a

/-- A request served by writing its bytes, and then acknowledged. -/
theorem State.writeDone {v : State} {bs : List Byte} (hland : (s.dequeue pc k).Landed v r.line bs) (hregs : v.OnlyHbmRegs u)
    (hopen : s.pathOpen (1024 + pc) r.src = true) : s.WriteDone (u.send (1024 + pc) r.src 256 (.ack 0 r.iss)) pc k r bs := by
  obtain ⟨-, -, hdregs, hdframe⟩ := s.dequeue_leaves pc k
  have hdmem : (s.dequeue pc k).mem = s.mem := rfl
  have hvregs : v.regs = (s.dequeue pc k).regs := (congrArg State.regs hland.frame : _)
  have hreg (a : Nat) (ha : 0x50000 ≤ a) : u.reg a = s.reg a :=
    (hregs.reg a (Or.inr ha)).trans ((State.reg_of_regs hvregs a).trans (State.reg_of_regs hdregs a))
  have hcut : u.cutRoute (1024 + pc) r.src = false := by
    rw [State.cutRoute_of_same hreg]
    simpa [State.pathOpen] using hopen
  have hqueues : u.hbmQ = (s.dequeue pc k).hbmQ := hregs.only.hbmQ.trans (congrArg State.hbmQ hland.frame : _)
  have hbase : { u with regs := s.regs, mem := s.mem, flips := s.flips, hbmQ := s.hbmQ } = s := by
    have h1 := (congrArg (fun x : State => { x with regs := s.regs, mem := s.mem, flips := s.flips, hbmQ := s.hbmQ }) hregs.only.frame : _)
    have h2 := (congrArg (fun x : State => { x with regs := s.regs, mem := s.mem, flips := s.flips, hbmQ := s.hbmQ }) hland.frame : _)
    have h3 := (congrArg (fun x : State => { x with regs := s.regs, mem := s.mem, flips := s.flips }) hdframe : _)
    exact h1.trans (h2.trans h3)
  obtain ⟨hself, hother, hnet, htries, htregs, hframe⟩ := State.answer_leaves (s := s) (u := u) (k := k) hqueues
    (congrArg State.net hbase : _) (congrArg State.mesh hbase : _) hcut (.ack 0 r.iss)
  generalize u.send (1024 + pc) r.src 256 (.ack 0 r.iss) = t at *
  have htmem : t.mem = v.mem := (congrArg State.mem hframe : _).trans hregs.only.mem
  refine ⟨hself, hother, hnet, ?_, fun a ha => ?_, ?_, htries, ?_, fun a ha => (State.reg_of_regs htregs a).trans (hreg a ha)⟩
  · rw [State.hbmRd, htmem]
    exact hland.here
  · rw [htmem, hland.away a ha, hdmem]
  · rw [htmem, ← hdmem]
    exact hland.mem
  · exact (congrArg (fun x : State =>
      { x with net := s.net, mesh := s.mesh, hbmQ := s.hbmQ, regs := s.regs, mem := s.mem, flips := s.flips }) hframe : _).trans
      (congrArg (fun x : State => { x with net := s.net, mesh := s.mesh }) hbase : _)

/-- Full lines served. -/
theorem State.hbmServeFull_of_allowed {a n src : Nat} {data : List (Nat × Byte × Byte)} (htop : a < hbmTop) (hallowed : s.hbmAllowed a src true = true) :
    ∃ v u, s.hbmServeFull a n src data = (0, u) ∧ s.Landed v a (mergeLine (List.replicate (64 * n) 0) data) ∧ v.OnlyHbmRegs u := by
  have hlen : (mergeLine (List.replicate (64 * n) 0) data).length = 64 * n := by rw [length_mergeLine, List.length_replicate]
  have hland := s.hbmWriteLines_landed a n hlen.ge
  rw [List.take_of_length_le hlen.le] at hland
  refine ⟨_, _, ?_, hland, .of_pcCount _ n (hbmPc_lt a) (f := F.HBM_PC_WR_LINES) (by decide)⟩
  rw [State.hbmServeFull, State.hbmGate_of_allowed htop hallowed]
  rfl

/-- A narrow write of a good line served. -/
theorem State.hbmServeNarrow_of_good {a src : Nat} {data : List (Nat × Byte × Byte)} (h : s.lineGood a src true = true) :
    ∃ v u, s.hbmServeNarrow a src data = (0, u) ∧ s.Landed v a (mergeLine (s.hbmRd a 64) data) ∧ v.OnlyHbmRegs u := by
  obtain ⟨htop, hallowed, hclean⟩ := State.lineGood_iff.1 h
  refine ⟨_, _, ?_, s.hbmWriteLine_landed a _, .of_pcCount _ 1 (hbmPc_lt a) (f := F.HBM_PC_WR_LINES) (by decide)⟩
  rw [State.hbmServeNarrow, State.hbmGate_of_allowed htop hallowed]
  dsimp only
  rw [State.hbmReadLine_of_clean hclean]
  rfl

/-- An atomic add to a good line served. -/
theorem State.hbmServeAtomic_of_good {a src fmt : Nat} {data : List (Nat × Byte × Byte)} (h : s.lineGood a src true = true) :
    ∃ v u, s.hbmServeAtomic a src fmt data = (0, u) ∧ s.Landed v a (atomLine fmt (s.hbmRd a 64) data).1 ∧ v.OnlyHbmRegs u := by
  obtain ⟨htop, hallowed, hclean⟩ := State.lineGood_iff.1 h
  refine ⟨s.hbmWriteLine a (atomLine fmt (s.hbmRd a 64) data).1, (s.hbmServeAtomic a src fmt data).2, ?_, s.hbmWriteLine_landed a _, ?_⟩
  · rw [State.hbmServeAtomic, State.hbmGate_of_allowed htop hallowed]
    dsimp only
    rw [State.hbmReadLine_of_clean hclean]
    rfl
  · rw [State.hbmServeAtomic, State.hbmGate_of_allowed htop hallowed]
    dsimp only
    rw [State.hbmReadLine_of_clean hclean]
    dsimp only
    rw [if_neg (by decide), if_neg (by decide)]
    have hcount := State.OnlyHbmRegs.of_pcCount (s.hbmWriteLine a (atomLine fmt (s.hbmRd a 64) data).1) 1 (hbmPc_lt a)
      (f := F.HBM_PC_ATOM_LINES) (by decide)
    have hflag (x : State) (f : Fld) (hf : f.off < 0x10000) (c : Bool) : x.OnlyHbmRegs (if c then x.flagF (hbmBase (hbmPc a / 32)) f else x) := by
      split
      · exact .of_setF x 1 (hbmPc_div_lt a) hf
      · exact .refl x
    generalize (s.hbmWriteLine a (atomLine fmt (s.hbmRd a 64) data).1).pcCount (hbmPc a) F.HBM_PC_ATOM_LINES 1 = w at *
    exact hcount.trans ((hflag w F.HBM_STAT_ATOM_SAT (by decide) _).trans (hflag _ F.HBM_STAT_ATOM_NONFINITE (by decide) _))

theorem State.hbmAllowed_dequeue (s : State) (pc k a src : Nat) (wr : Bool) : (s.dequeue pc k).hbmAllowed a src wr = s.hbmAllowed a src wr :=
  State.hbmAllowed_of_regs (s.dequeue_leaves pc k).2.2.1 _ _ _

theorem exec_hbmWriteService_lands (hreq : s.reqAt pc k = some r) (hon : s.pcOn pc = true) (hkind : r.kind = 1) (htop : r.line < hbmTop)
    (hallowed : s.hbmAllowed r.line r.src true = true) (hopen : s.pathOpen (1024 + pc) r.src = true) :
    ∃ t, exec (.hbmWriteService pc k) s = .next t ∧ s.WriteDone t pc k r (mergeLine (List.replicate (64 * r.lines) 0) r.data) := by
  have hexec : exec (.hbmWriteService pc k) s = .next (hbmSvc s pc k 1) := rfl
  obtain ⟨v, u, hserve, hland, hregs⟩ := State.hbmServeFull_of_allowed (s := s.dequeue pc k) (n := r.lines) (data := r.data) htop
    ((s.hbmAllowed_dequeue pc k _ _ _).trans hallowed)
  have hans : (s.dequeue pc k).hbmServe pc r = (some (.ack 0 r.iss), u) := by
    rw [State.hbmServe, if_neg (by omega), if_pos hkind, hserve]
  rw [hbmSvc_of_reqAt hreq hon hkind, State.hbmAnswer_of_serve hans (by omega)] at hexec
  exact ⟨_, hexec, State.writeDone hland hregs hopen⟩

theorem exec_hbmNarrowWrite_lands (hreq : s.reqAt pc k = some r) (hon : s.pcOn pc = true) (hkind : r.kind = 2)
    (hgood : s.lineGood r.line r.src true = true) (hopen : s.pathOpen (1024 + pc) r.src = true) :
    ∃ t, exec (.hbmNarrowWrite pc k) s = .next t ∧ s.WriteDone t pc k r (mergeLine (s.hbmRd r.line 64) r.data) := by
  have hexec : exec (.hbmNarrowWrite pc k) s = .next (hbmSvc s pc k 2) := rfl
  obtain ⟨v, u, hserve, hland, hregs⟩ := State.hbmServeNarrow_of_good (s := s.dequeue pc k) (data := r.data)
    ((s.lineGood_dequeue pc k _ _ _).trans hgood)
  have hans : (s.dequeue pc k).hbmServe pc r = (some (.ack 0 r.iss), u) := by
    rw [State.hbmServe, if_neg (by omega), if_neg (by omega), if_pos hkind, hserve]
  rw [hbmSvc_of_reqAt hreq hon hkind, State.hbmAnswer_of_serve hans (by omega)] at hexec
  exact ⟨_, hexec, State.writeDone hland hregs hopen⟩

/-! ## Collectives that are not due -/

theorem State.coll_of_same {s t : State} (h : ∀ a, 0x50000 ≤ a → t.reg a = s.reg a) : t.coll = s.coll := by
  funext e f
  have hle : 0x50000 ≤ curShBase + (f.idx (0x20 * e)).off := by
    simp only [curShBase]
    omega
  rw [State.coll, State.getF, h _ hle, State.coll, State.getF]

theorem State.collDue_of_same {s t : State} (h : ∀ a, 0x50000 ≤ a → t.reg a = s.reg a) (hcour : t.cour = s.cour) : t.collDue = s.collDue := by
  simp only [State.collDue, State.collC, State.chunkLines, State.collValid, State.coll_of_same h, hcour]
  rfl

theorem State.collSettle_of_none {s : State} (h : s.collDue = none) : s.collSettle = s := by
  have hrun (n : Nat) : s.collRun n = s := by
    cases n with
    | zero => rfl
    | succ n => rw [State.collRun, h]
  exact hrun _

theorem State.collNote_of_unused {s : State} (h : ∀ e < 64, s.collValid e = false) (a : Nat) : s.collNote a = s := by
  have hfold : ∀ l : List Nat, (∀ e ∈ l, e < 64) → l.foldl (fun st t =>
      let st0 := st.collStage t
      if st.collValid t = true ∧ st0 ≤ a ∧ a < st0 + 64 * st.coll t F.CUR_COLL_LINES_LINES then st.collBump t ((a - st0) / 4096) else st) s = s := by
    intro l
    induction l with
    | nil => exact fun _ => rfl
    | cons e l ih =>
      intro hl
      rw [List.foldl_cons]
      dsimp only
      rw [if_neg (by rw [h e (hl e List.mem_cons_self)]; simp)]
      exact ih fun x hx => hl x (List.mem_cons_of_mem _ hx)
  exact hfold _ fun e he => List.mem_range.1 he

theorem exec_hbmAtomicAdd_lands (hreq : s.reqAt pc k = some r) (hon : s.pcOn pc = true) (hkind : r.kind = 3)
    (hcoll : 256 ≤ r.src ∨ ∀ e < 64, s.collValid e = false) (hdue : s.collDue = none)
    (hgood : s.lineGood r.line r.src true = true) (hopen : s.pathOpen (1024 + pc) r.src = true) :
    ∃ t, exec (.hbmAtomicAdd pc k) s = .next t ∧ s.WriteDone t pc k r (atomLine r.fmt (s.hbmRd r.line 64) r.data).1 := by
  have hexec : exec (.hbmAtomicAdd pc k) s = .next (hbmSvc s pc k 3).collSettle := rfl
  obtain ⟨v, u, hserve, hland, hregs⟩ := State.hbmServeAtomic_of_good (s := s.dequeue pc k) (fmt := r.fmt) (data := r.data)
    ((s.lineGood_dequeue pc k _ _ _).trans hgood)
  have hans : (s.dequeue pc k).hbmServe pc r = (some (.ack 0 r.iss), u) := by
    rw [State.hbmServe, if_neg (by omega), if_neg (by omega), if_neg (by omega), if_pos hkind, hserve]
  have hdone := State.writeDone hland hregs hopen
  rw [hbmSvc_of_reqAt hreq hon hkind, State.hbmAnswer, hans] at hexec
  dsimp only at hexec
  generalize u.send (1024 + pc) r.src 256 (.ack 0 r.iss) = t at *
  have hnote : (if r.kind = 3 ∧ r.src < 256 ∧ Body.ack 0 r.iss = .ack 0 r.iss then t.collNote r.line else t) = t := by
    split
    · next h =>
      refine State.collNote_of_unused (fun e he => ?_) _
      rw [State.collValid, State.coll_of_same hdone.reg, ← State.collValid]
      exact hcoll.resolve_left (by omega) e he
    · rfl
  have hcour : t.cour = s.cour := (congrArg State.cour hdone.frame : _)
  rw [hnote, State.collSettle_of_none ((State.collDue_of_same hdone.reg hcour).trans hdue)] at hexec
  exact ⟨t, hexec, hdone⟩

end

/-- Settles O18. -/
theorem hbmWritesLand : Obligations.HbmWritesLand := by
  unfold Obligations.HbmWritesLand
  refine ⟨?_, ?_, ?_, atomElem_int32⟩
  · intro s pc k r hreq hon hkind htop hallowed hopen
    obtain ⟨t, hexec, ⟨hself, hothers, hnet, hhere, haway, hmem, htries, hframe, -⟩⟩ := exec_hbmWriteService_lands hreq hon hkind htop hallowed hopen
    rw [length_mergeLine, List.length_replicate] at hhere haway
    exact ⟨t, hexec, hself, hothers, hnet, hhere, haway, hmem, htries, hframe⟩
  · intro s pc k r hreq hon hkind hgood hopen
    obtain ⟨t, hexec, ⟨hself, hothers, hnet, hhere, haway, hmem, htries, hframe, -⟩⟩ := exec_hbmNarrowWrite_lands hreq hon hkind hgood hopen
    rw [length_mergeLine, s.length_hbmRd] at hhere haway
    exact ⟨t, hexec, hself, hothers, hnet, hhere, haway, hmem, htries, hframe⟩
  · intro s pc k r hreq hon hkind hcoll hdue hgood hopen
    obtain ⟨t, hexec, ⟨hself, hothers, hnet, hhere, haway, hmem, htries, hframe, -⟩⟩ := exec_hbmAtomicAdd_lands hreq hon hkind hcoll hdue hgood hopen
    rw [length_atomLine (s.length_hbmRd _ _)] at hhere haway
    exact ⟨t, hexec, hself, hothers, hnet, hhere, haway, hmem, htries, hframe⟩

end Sys2Proof.Machine
end


section
/-! PROOFS. O19: HBM's upkeep, and routers that replay and isolate (R316, R327, R329). -/

namespace Sys2Proof.Machine

/-! ## Scrub steps -/

theorem dropAt_length {α : Type} (l : List α) (x : α) : dropAt (l ++ [x]) l.length = l := by
  induction l with
  | nil => rfl
  | cons y l ih => rw [List.cons_append, List.length_cons, dropAt, ih]

theorem Mem.rd_wrN_rdN (m : Mem) (a n x : Nat) : Mem.rd (Mem.wrN m a (Mem.rdN m a n)) x = Mem.rd m x := by
  rw [Mem.rd_wrN, Mem.length_rdN]
  split
  · next h =>
    have hlt : x - a < n := by omega
    simp [Mem.rdN, List.getD_eq_getElem?_getD, List.getElem?_map, List.getElem?_range hlt, show a + (x - a) = x by omega]
  · rfl

theorem flipsIn_clearFlips (l : List Nat) (w : Nat) {i n : Nat} (hi : i < n) : flipsIn (clearFlips l w n) (w + i) = 0 := by
  have hnil : (clearFlips l w n).filter (fun f => decide (f / 72 = w + i)) = [] := by
    refine List.filter_eq_nil_iff.2 fun f hf => ?_
    have := of_decide_eq_true (List.mem_filter.1 hf).2
    rw [decide_eq_true_eq]
    omega
  rw [flipsIn, hnil, List.length_nil]

section
variable {s : State} {pc a : Nat}

/-- The scrub step of the line at a. -/
def scrubReq (a : Nat) : HbmReq := ⟨0, a, 1, 4, [], 0, 0⟩

theorem hbmScrub_of_enters (hon : s.pcOn pc = true) (hen : s.isF (hbmBase (pc / 32)) F.HBM_CTL_SCRUB_EN = true)
    (ha : a = hbmAddr pc (64 * SMap.get 0 s.hbmPos pc)) (hlen : (s.pcQueue pc).length < 704)
    (hfree : ∀ r ∈ s.pcQueue pc, r.kind ≠ 4 ∧ r.meets (scrubReq a) = false) :
    hbmScrub s pc = (((s.enqueue pc (scrubReq a)).dequeue pc (s.pcQueue pc).length).scrubServe pc a).scrubNext pc := by
  have hwaits : (s.pcQueue pc).any (fun r => decide (r.kind = 4)) = false :=
    List.any_eq_false.2 fun r hr => by
      rw [decide_eq_true_eq]
      exact (hfree r hr).1
  obtain ⟨hself, -, -, -⟩ := s.enqueue_leaves (scrubReq a) hlen
  unfold hbmScrub
  rw [if_pos hon, hwaits, hen, ← ha]
  extract_lets waits s1
  have hs1 : s1 = s.enqueue pc (scrubReq a) := if_neg (by simp; omega)
  rw [hs1]
  clear hs1
  generalize s.enqueue pc (scrubReq a) = u at *
  have hfind : (u.pcQueue pc).findIdx? (fun r => decide (r.kind = 4)) = some (s.pcQueue pc).length := by
    rw [hself, List.findIdx?_append, List.findIdx?_eq_none_iff.2 fun r hr => decide_eq_false (hfree r hr).1]
    simp [scrubReq]
  have hmeets : (s.pcQueue pc).any (fun x => x.meets (scrubReq a)) = false :=
    List.any_eq_false.2 fun r hr => by rw [(hfree r hr).2]; exact Bool.false_ne_true
  have hreq : u.reqAt pc (s.pcQueue pc).length = some (scrubReq a) := by
    rw [State.reqAt, hself, List.getElem?_append_right (le_refl _), Nat.sub_self, List.getElem?_cons_zero]
    dsimp only
    rw [List.take_append_of_le_length (le_refl _), List.take_length, hmeets]
    rfl
  rw [hfind]
  dsimp only
  rw [hreq]
  rfl

/-- The step entered and left the queue: QPEAK alone shows it. -/
theorem State.scrubEntered_leaves (hlen : (s.pcQueue pc).length < 704) : let t := (s.enqueue pc (scrubReq a)).dequeue pc (s.pcQueue pc).length
    (∀ q, t.pcQueue q = s.pcQueue q)
      ∧ t.getF (hbmBase (pc / 32)) (qpeak pc) = max (s.getF (hbmBase (pc / 32)) (qpeak pc)) ((s.pcQueue pc).length + 1)
      ∧ t.getF (hbmBase (pc / 32)) F.HBM_CE_CNT_COUNT = s.getF (hbmBase (pc / 32)) F.HBM_CE_CNT_COUNT
      ∧ { t with hbmQ := s.hbmQ, regs := s.regs } = s := by
  obtain ⟨hself, hother, hpeak, hframe⟩ := s.enqueue_leaves (scrubReq a) hlen
  have hce : (s.enqueue pc (scrubReq a)).getF (hbmBase (pc / 32)) F.HBM_CE_CNT_COUNT = s.getF (hbmBase (pc / 32)) F.HBM_CE_CNT_COUNT := by
    refine (State.getF_setF_of_apart _ _ _ (Or.inl ?_) (by decide)).trans rfl
    simp only [Fld.idx]
    omega
  generalize s.enqueue pc (scrubReq a) = u at *
  obtain ⟨hdself, hdother, hdregs, hdframe⟩ := u.dequeue_leaves pc (s.pcQueue pc).length
  generalize u.dequeue pc (s.pcQueue pc).length = t at *
  refine ⟨fun q => ?_, (State.getF_of_regs hdregs _ _).trans hpeak, (State.getF_of_regs hdregs _ _).trans hce, ?_⟩
  · by_cases hq : q = pc
    · rw [hq, hdself, hself, dropAt_length]
    · rw [hdother q hq, hother q hq]
  · exact (congrArg (fun x : State => { x with hbmQ := s.hbmQ, regs := s.regs }) hdframe : _).trans hframe

/-- The scrub goes on to the next line. -/
theorem State.scrubNext_leaves (s : State) (pc : Nat) : let t := s.scrubNext pc
    SMap.get 0 t.hbmPos pc = (SMap.get 0 s.hbmPos pc + 1) % hbmLines ∧ (∀ q, q ≠ pc → SMap.get 0 t.hbmPos q = SMap.get 0 s.hbmPos q)
      ∧ (∀ f : Fld, F.HBM_SCRUB_POS_PASSES.apart f → f.lo + f.width ≤ 32 → t.getF (hbmBase (pc / 32)) f = s.getF (hbmBase (pc / 32)) f)
      ∧ { t with hbmPos := s.hbmPos, regs := s.regs } = s := by
  obtain ⟨u, hu⟩ : ∃ u, u = { s with hbmPos := SMap.set 0 s.hbmPos pc ((SMap.get 0 s.hbmPos pc + 1) % hbmLines) } := ⟨_, rfl⟩
  have hpos : SMap.get 0 u.hbmPos pc = (SMap.get 0 s.hbmPos pc + 1) % hbmLines := by
    rw [hu]
    exact SMap.get_set_self _ _ _ _
  have hother (q : Nat) (hq : q ≠ pc) : SMap.get 0 u.hbmPos q = SMap.get 0 s.hbmPos q := by
    rw [hu]
    exact SMap.get_set_ne _ _ _ (Ne.symm hq)
  have hregs : u.regs = s.regs := by rw [hu]
  have hframe : { u with hbmPos := s.hbmPos } = s := by rw [hu]
  have hdone : s.scrubNext pc = if (SMap.get 0 s.hbmPos pc + 1) % hbmLines = 0 ∧ pc % 32 = 0 then
      u.setF (hbmBase (pc / 32)) F.HBM_SCRUB_POS_PASSES (u.getF (hbmBase (pc / 32)) F.HBM_SCRUB_POS_PASSES + 1) else u := by
    rw [hu]
    rfl
  rw [hdone]
  split
  · generalize u.getF (hbmBase (pc / 32)) F.HBM_SCRUB_POS_PASSES + 1 = v
    have hget (f : Fld) (hf : F.HBM_SCRUB_POS_PASSES.apart f) (hw : f.lo + f.width ≤ 32) :=
      (u.getF_setF_of_apart (hbmBase (pc / 32)) v hf hw).trans (State.getF_of_regs hregs (hbmBase (pc / 32)) f)
    have honly := State.OnlyRegs.of_setF u (hbmBase (pc / 32)) F.HBM_SCRUB_POS_PASSES v
    generalize u.setF (hbmBase (pc / 32)) F.HBM_SCRUB_POS_PASSES v = t at *
    refine ⟨by rw [honly.hbmPos, hpos], fun q hq => by rw [honly.hbmPos, hother q hq], hget, ?_⟩
    exact (congrArg (fun x : State => { x with hbmPos := s.hbmPos, regs := s.regs }) honly.frame : _).trans
      (congrArg (fun x : State => { x with regs := s.regs }) hframe : _)
  · exact ⟨hpos, hother, fun f _ _ => State.getF_of_regs hregs _ f, (congrArg (fun x : State => { x with regs := s.regs }) hframe : _)⟩

theorem State.scrubServe_of_clean (h : s.lineClean a) : s.scrubServe pc a = s := by
  have hle : ∀ i < 8, flipsIn s.flips.hbm (a / 8 + i) ≤ 1 := fun i hi => (h i hi).le.trans (Nat.zero_le 1)
  have hce : lineCe (lineWords s.flips.hbm (a / 8) (s.hbmRd a 64)) = false := by
    rw [lineCe_lineWords]
    refine List.any_eq_false.2 fun i hi => ?_
    rw [h i (List.mem_range.1 hi)]
    decide
  unfold State.scrubServe
  rw [State.eccLine_of_le_one hle]
  dsimp only
  rw [lineUe_lineWords hle, hce]
  rfl

/-- A line with a flipped bit in one of its words is counted and written back. -/
theorem State.scrubServe_of_flip {j : Nat} (hj : j < 8) (hflip : flipsIn s.flips.hbm (a / 8 + j) = 1)
    (hclean : ∀ i < 8, i ≠ j → flipsIn s.flips.hbm (a / 8 + i) = 0) :
    s.scrubServe pc a = ((s.addF (hbmBase (pc / 32)) F.HBM_CE_CNT_COUNT 1).tally (48 + pc / 32) 1).hbmWriteLine a (s.hbmRd a 64) := by
  have hle : ∀ i < 8, flipsIn s.flips.hbm (a / 8 + i) ≤ 1 := fun i hi => by
    by_cases hij : i = j
    · rw [hij, hflip]
    · rw [hclean i hi hij]
      exact Nat.zero_le 1
  have hce : lineCe (lineWords s.flips.hbm (a / 8) (s.hbmRd a 64)) = true := by
    rw [lineCe_lineWords]
    exact List.any_eq_true.2 ⟨j, List.mem_range.2 hj, decide_eq_true hflip⟩
  unfold State.scrubServe
  rw [State.eccLine_of_le_one hle]
  dsimp only
  rw [lineUe_lineWords hle, hce, lineBytes_lineWords (s.length_hbmRd a 64)]
  rfl

theorem scrubPasses_apart_qpeak (pc : Nat) : F.HBM_SCRUB_POS_PASSES.apart (qpeak pc) := Or.inl (by simp only [Fld.idx]; omega)

/-- A clean line's scrub step. -/
theorem exec_hbmScrubStep_clean (hon : s.pcOn pc = true) (hen : s.isF (hbmBase (pc / 32)) F.HBM_CTL_SCRUB_EN = true)
    (ha : a = hbmAddr pc (64 * SMap.get 0 s.hbmPos pc)) (hlen : (s.pcQueue pc).length < 704)
    (hfree : ∀ r ∈ s.pcQueue pc, r.kind ≠ 4 ∧ r.meets (scrubReq a) = false) (hclean : s.lineClean a) :
    ∃ t, exec (.hbmScrubStep pc) s = .next t ∧ SMap.get 0 t.hbmPos pc = (SMap.get 0 s.hbmPos pc + 1) % hbmLines
      ∧ (∀ q, q ≠ pc → SMap.get 0 t.hbmPos q = SMap.get 0 s.hbmPos q) ∧ (∀ q, t.pcQueue q = s.pcQueue q)
      ∧ t.getF (hbmBase (pc / 32)) (qpeak pc) = max (s.getF (hbmBase (pc / 32)) (qpeak pc)) ((s.pcQueue pc).length + 1)
      ∧ { t with hbmPos := s.hbmPos, hbmQ := s.hbmQ, regs := s.regs } = s := by
  have hexec : exec (.hbmScrubStep pc) s = .next (hbmScrub s pc) := rfl
  rw [hbmScrub_of_enters hon hen ha hlen hfree] at hexec
  obtain ⟨hqueue, hpeak, -, hframe⟩ := State.scrubEntered_leaves (a := a) hlen
  generalize (s.enqueue pc (scrubReq a)).dequeue pc (s.pcQueue pc).length = u at *
  have hflips : u.flips = s.flips := (congrArg State.flips hframe : _)
  rw [State.scrubServe_of_clean (s := u) (by rw [State.lineClean, hflips]; exact hclean)] at hexec
  obtain ⟨hpos, hposOther, hget, hnext⟩ := u.scrubNext_leaves pc
  generalize u.scrubNext pc = t at *
  have hupos : u.hbmPos = s.hbmPos := (congrArg State.hbmPos hframe : _)
  rw [hupos] at hpos hposOther
  have htq : t.hbmQ = u.hbmQ := (congrArg State.hbmQ hnext : _)
  refine ⟨t, hexec, hpos, hposOther, fun q => (State.pcQueue_of_same htq q).trans (hqueue q), ?_, ?_⟩
  · rw [hget _ (scrubPasses_apart_qpeak pc) (by simp [Fld.idx]), hpeak]
  · have h := (congrArg (fun x : State => { x with hbmPos := s.hbmPos, hbmQ := s.hbmQ, regs := s.regs }) hnext : _)
    exact h.trans (by rw [← hupos]; exact hframe)

/-- The scrub step of a line with one flipped bit. -/
theorem exec_hbmScrubStep_corrects {j : Nat} (hon : s.pcOn pc = true) (hen : s.isF (hbmBase (pc / 32)) F.HBM_CTL_SCRUB_EN = true)
    (ha : a = hbmAddr pc (64 * SMap.get 0 s.hbmPos pc)) (hlen : (s.pcQueue pc).length < 704)
    (hfree : ∀ r ∈ s.pcQueue pc, r.kind ≠ 4 ∧ r.meets (scrubReq a) = false) (hj : j < 8) (hflip : flipsIn s.flips.hbm (a / 8 + j) = 1)
    (hclean : ∀ i < 8, i ≠ j → flipsIn s.flips.hbm (a / 8 + i) = 0) :
    ∃ t, exec (.hbmScrubStep pc) s = .next t ∧ SMap.get 0 t.hbmPos pc = (SMap.get 0 s.hbmPos pc + 1) % hbmLines
      ∧ (∀ i < 8, flipsIn t.flips.hbm (a / 8 + i) = 0) ∧ (∀ x, Mem.rd t.mem.hbm x = Mem.rd s.mem.hbm x)
      ∧ t.getF (hbmBase (pc / 32)) F.HBM_CE_CNT_COUNT = satCount 32 (s.getF (hbmBase (pc / 32)) F.HBM_CE_CNT_COUNT) 1 := by
  have hexec : exec (.hbmScrubStep pc) s = .next (hbmScrub s pc) := rfl
  rw [hbmScrub_of_enters hon hen ha hlen hfree] at hexec
  obtain ⟨-, -, hce, hframe⟩ := State.scrubEntered_leaves (a := a) hlen
  generalize (s.enqueue pc (scrubReq a)).dequeue pc (s.pcQueue pc).length = u at *
  have hflips : u.flips = s.flips := (congrArg State.flips hframe : _)
  have hmem : u.mem = s.mem := (congrArg State.mem hframe : _)
  rw [State.scrubServe_of_flip (s := u) hj (by rw [hflips]; exact hflip) (by rw [hflips]; exact hclean)] at hexec
  have hcount := u.getF_addF_self (hbmBase (pc / 32)) F.HBM_CE_CNT_COUNT 1 (by decide)
  have honly := State.OnlyRegs.of_addF u (hbmBase (pc / 32)) F.HBM_CE_CNT_COUNT 1
  generalize u.addF (hbmBase (pc / 32)) F.HBM_CE_CNT_COUNT 1 = v at *
  obtain ⟨hpos, -, hget, hnext⟩ := ((v.tally (48 + pc / 32) 1).hbmWriteLine a (u.hbmRd a 64)).scrubNext_leaves pc
  have hwflips : ((v.tally (48 + pc / 32) 1).hbmWriteLine a (u.hbmRd a 64)).flips.hbm = clearFlips v.flips.hbm (a / 8) 8 := rfl
  have hwmem : ((v.tally (48 + pc / 32) 1).hbmWriteLine a (u.hbmRd a 64)).mem.hbm = Mem.wrN v.mem.hbm a (u.hbmRd a 64) := rfl
  have hwregs : ((v.tally (48 + pc / 32) 1).hbmWriteLine a (u.hbmRd a 64)).regs = v.regs := rfl
  have hwpos : ((v.tally (48 + pc / 32) 1).hbmWriteLine a (u.hbmRd a 64)).hbmPos = v.hbmPos := rfl
  generalize (v.tally (48 + pc / 32) 1).hbmWriteLine a (u.hbmRd a 64) = w at *
  generalize w.scrubNext pc = t at *
  have hvpos : v.hbmPos = s.hbmPos := honly.hbmPos.trans (congrArg State.hbmPos hframe : _)
  have htflips : t.flips = w.flips := (congrArg State.flips hnext : _)
  have htmem : t.mem = w.mem := (congrArg State.mem hnext : _)
  refine ⟨t, hexec, by rw [hpos, hwpos, hvpos], fun i hi => ?_, fun x => ?_, ?_⟩
  · rw [htflips, hwflips, flipsIn_clearFlips _ _ hi]
  · rw [htmem, hwmem, honly.mem, State.hbmRd, Mem.rd_wrN_rdN, hmem]
  · rw [hget _ (Or.inl (by decide)) (by decide), State.getF_of_regs hwregs, hcount, hce]

end

/-! ## Temperature -/

/-- What a temperature reading writes. -/
def tempFields (temp : Int) : List (Fld × Nat) := [(F.HBM_TEMP_TEMP, ofSigned 8 temp), (F.HBM_TEMP_DOUBLE, b2n (decide (85 < temp)))]

theorem tempFields_pairwise (temp : Int) : (tempFields temp).Pairwise fun p q => q.1.apart p.1 := by
  simp [tempFields, Fld.apart]

theorem tempFields_width (temp : Int) : ∀ p ∈ tempFields temp, p.1.lo + p.1.width ≤ 32 := by
  simp [tempFields]

theorem tempFields_apart_limit (temp : Int) : ∀ p ∈ tempFields temp, p.1.apart F.HBM_TEMP_HOT_LIMIT := by
  simp [tempFields, Fld.apart]

theorem hbmTempRead_of_on {s : State} {st : Nat} (hst : st < 2) (hon : s.pdOn (36 + st) = true) (temp : Int) : hbmTempRead s st temp =
    if toSigned 8 (s.getF (hbmBase st) F.HBM_TEMP_HOT_LIMIT) ≤ temp then
      ((s.setFs (hbmBase st) (tempFields temp)).flagF (hbmBase st) F.HBM_STAT_HOT).chipEvent 3 (unitChip (3 + st)) 0x67
    else s.setFs (hbmBase st) (tempFields temp) := by
  have hlimit := s.getF_setFs_of_apart (hbmBase st) (by decide) (tempFields_apart_limit temp)
  have hfields : (s.setF (hbmBase st) F.HBM_TEMP_TEMP (ofSigned 8 temp)).setF (hbmBase st) F.HBM_TEMP_DOUBLE (b2n (decide (85 < temp)))
      = s.setFs (hbmBase st) (tempFields temp) := rfl
  unfold hbmTempRead
  rw [hon, decide_eq_true hst, Bool.and_self, if_pos rfl]
  dsimp only
  rw [hfields, hlimit]

theorem exec_hbmTemperatureRead_keeps {s : State} {st : Nat} {temp : Int} (hst : st < 2) (hon : s.pdOn (36 + st) = true) (hlo : -128 ≤ temp)
    (hhi : temp ≤ 127) :
    ∃ t, exec (.hbmTemperatureRead st temp) s = .next t ∧ toSigned 8 (t.getF (hbmBase st) F.HBM_TEMP_TEMP) = temp
      ∧ t.getF (hbmBase st) F.HBM_TEMP_DOUBLE = (if 85 < temp then 1 else 0)
      ∧ (toSigned 8 (s.getF (hbmBase st) F.HBM_TEMP_HOT_LIMIT) ≤ temp → t.isF (hbmBase st) F.HBM_STAT_HOT = true)
      ∧ (temp < toSigned 8 (s.getF (hbmBase st) F.HBM_TEMP_HOT_LIMIT) → { t with regs := s.regs } = s) ∧ t.mem = s.mem := by
  have hexec : exec (.hbmTemperatureRead st temp) s = .next (hbmTempRead s st temp) := rfl
  rw [hbmTempRead_of_on hst hon] at hexec
  have hfield {f : Fld} {v : Nat} (h : (f, v) ∈ tempFields temp) := s.getF_setFs (hbmBase st) (tempFields_pairwise temp) (tempFields_width temp) h
  have htemp := hfield (f := F.HBM_TEMP_TEMP) (v := ofSigned 8 temp) List.mem_cons_self
  have hdouble := hfield (f := F.HBM_TEMP_DOUBLE) (v := b2n (decide (85 < temp))) (List.mem_cons_of_mem _ List.mem_cons_self)
  have honly := State.OnlyRegs.of_setFs s (hbmBase st) (tempFields temp)
  generalize s.setFs (hbmBase st) (tempFields temp) = u at *
  have hsigned : toSigned 8 (u.getF (hbmBase st) F.HBM_TEMP_TEMP) = temp := by
    rw [htemp]
    exact toSigned_ofSigned hlo hhi
  have htwo : u.getF (hbmBase st) F.HBM_TEMP_DOUBLE = if 85 < temp then 1 else 0 := by
    rw [hdouble]
    by_cases h : 85 < temp
    · rw [decide_eq_true h, if_pos h]
      rfl
    · rw [decide_eq_false h, if_neg h]
      rfl
  by_cases hhot : toSigned 8 (s.getF (hbmBase st) F.HBM_TEMP_HOT_LIMIT) ≤ temp
  · rw [if_pos hhot] at hexec
    have hflag := u.isF_flagF_self (hbmBase st) (f := F.HBM_STAT_HOT) (by decide) rfl
    have h1 := u.getF_flagF_of_apart (hbmBase st) (f := F.HBM_STAT_HOT) (g := F.HBM_TEMP_TEMP) (by decide) (by decide)
    have h2 := u.getF_flagF_of_apart (hbmBase st) (f := F.HBM_STAT_HOT) (g := F.HBM_TEMP_DOUBLE) (by decide) (by decide)
    have hset := State.OnlyRegs.of_flagF u (hbmBase st) F.HBM_STAT_HOT
    generalize u.flagF (hbmBase st) F.HBM_STAT_HOT = v at *
    have hpml (f : Fld) (hf : f.off < 0x10000) : notPml (hbmBase st + f.off) := Or.inl (by simp only [hbmBase, pmlBase]; omega)
    have hevent (f : Fld) (hf : f.off < 0x10000) := v.chipEvent_getF (hpml f hf) 3 (unitChip (3 + st)) 0x67
    have honlyRec := v.chipEvent_onlyRecords 3 (unitChip (3 + st)) 0x67
    generalize v.chipEvent 3 (unitChip (3 + st)) 0x67 = t at *
    refine ⟨t, hexec, ?_, ?_, fun _ => ?_, fun h => absurd hhot (not_le.2 h), ?_⟩
    · rw [hevent _ (by decide), h1, hsigned]
    · rw [hevent _ (by decide), h2, htwo]
    · rw [State.isF, hevent _ (by decide), ← State.isF, hflag]
    · rw [honlyRec.mem, hset.mem, honly.mem]
  · rw [if_neg hhot] at hexec
    exact ⟨u, hexec, hsigned, htwo, fun h => absurd h hhot, fun _ => honly.frame, honly.mem⟩

/-! ## Routers -/

/-- The replay counter of the router at block b of a region. -/
abbrev replays (b : Nat) : Fld := F.RGN_RTR_ERR_REPLAYS.idx (0x40 * b)

/-- The attempts in a row on input p of the router at block b of region r. -/
def State.withTries (s : State) (r b p n : Nat) : State :=
  { s with mesh := { s.mesh with tries := SMap.set 0 s.mesh.tries ((16 * r + b) * 8 + p) n } }

theorem State.withTries_leaves (s : State) (r b p n : Nat) : let t := s.withTries r b p n
    t.regs = s.regs ∧ SMap.get 0 t.mesh.tries ((16 * r + b) * 8 + p) = n ∧ t.mesh.flits = s.mesh.flits ∧ { t with mesh := s.mesh } = s :=
  ⟨rfl, SMap.get_set_self _ _ _ _, rfl, rfl⟩

/-- A replay counted, and the attempts in a row. -/
def State.replayed (s : State) (r b p n : Nat) : State := (s.addF (rgnBase r) (replays b) 1).withTries r b p n

theorem State.replayed_leaves (s : State) (r b p n : Nat) : let t := s.replayed r b p n
    t.getF (rgnBase r) (replays b) = satCount 16 (s.getF (rgnBase r) (replays b)) 1 ∧ SMap.get 0 t.mesh.tries ((16 * r + b) * 8 + p) = n
      ∧ t.mesh.flits = s.mesh.flits ∧ { t with regs := s.regs, mesh := s.mesh } = s := by
  have hadd := s.getF_addF_self (rgnBase r) (replays b) 1 (by simp [Fld.idx])
  have honly := State.OnlyRegs.of_addF s (rgnBase r) (replays b) 1
  unfold State.replayed
  generalize s.addF (rgnBase r) (replays b) 1 = u at *
  obtain ⟨hregs, htries, hflits, hframe⟩ := u.withTries_leaves r b p n
  generalize u.withTries r b p n = t at *
  refine ⟨(State.getF_of_regs hregs _ _).trans hadd, htries, by rw [hflits, honly.mesh], ?_⟩
  exact (congrArg (fun x : State => { x with regs := s.regs, mesh := s.mesh }) hframe : _).trans
    (congrArg (fun x : State => { x with mesh := s.mesh }) honly.frame : _)

theorem flitMismatch_eq (s : State) (r b p : Nat) : flitMismatch s r b p =
    (let n := SMap.get 0 s.mesh.tries ((16 * r + b) * 8 + p) + 1
     if n = 3 then (s.replayed r b p (n % 3)).isolateLink (16 * r + b) p else s.replayed r b p (n % 3)) := rfl

theorem exec_flitCrcMismatch_replays {s : State} {r b p : Nat} (hr : r < 16) (hb : b < 16) (hp : p < 5) (h3 : s.pdOn 3 = true)
    (hn : SMap.get 0 s.mesh.tries ((16 * r + b) * 8 + p) ≠ 2) :
    ∃ t, exec (.flitCrcMismatch r b p) s = .next t
      ∧ t.getF (rgnBase r) (replays b) = satCount 16 (s.getF (rgnBase r) (replays b)) 1
      ∧ SMap.get 0 t.mesh.tries ((16 * r + b) * 8 + p) = (SMap.get 0 s.mesh.tries ((16 * r + b) * 8 + p) + 1) % 3
      ∧ t.mesh.flits = s.mesh.flits ∧ { t with regs := s.regs, mesh := s.mesh } = s := by
  have hexec : exec (.flitCrcMismatch r b p) s = .next (if r < 16 ∧ b < 16 ∧ p < 5 ∧ s.pdOn 3 = true then flitMismatch s r b p else s) := rfl
  rw [if_pos ⟨hr, hb, hp, h3⟩, flitMismatch_eq] at hexec
  dsimp only at hexec
  rw [if_neg (by omega)] at hexec
  exact ⟨_, hexec, s.replayed_leaves r b p _⟩

/-! ## Links isolated -/

/-- The isolation bits of the router at block b. -/
abbrev isolatedBits (b : Nat) : Fld := F.RGN_RTR_ERR_ISOLATED.idx (0x40 * (b % 16))

section
variable {s : State} {b p : Nat}

theorem State.isolate1_getF (s : State) (b p : Nat) : (s.isolate1 b p).getF (rgnBase (b / 16)) (isolatedBits b)
    = (s.getF (rgnBase (b / 16)) (isolatedBits b) ||| 2 ^ p) % 2 ^ 5 := s.getF_setF_self _ _ _ (by simp [Fld.idx])

theorem State.isolate1_isolated (hp : p < 5) : (s.isolate1 b p).isolated (b, p) = true := by
  rw [State.isolated, State.isolate1_getF, Nat.testBit_mod_two_pow, Nat.testBit_or, Nat.testBit_two_pow_self, decide_eq_true hp, Bool.or_true]
  rfl

/-- A port that is isolated stays so when another is isolated. -/
theorem State.isolated_isolate1 {q pq : Nat} (hpq : pq < 5) (h : s.isolated (q, pq) = true) : (s.isolate1 b p).isolated (q, pq) = true := by
  rw [State.isolated] at h ⊢
  by_cases hq : rgnBase (b / 16) + (isolatedBits b).off = rgnBase (q / 16) + (isolatedBits q).off
  · have hqb : q / 16 = b / 16 ∧ q % 16 = b % 16 := by
      simp only [rgnBase, Fld.idx] at hq
      omega
    rw [hqb.1, hqb.2] at h ⊢
    rw [State.isolate1_getF, Nat.testBit_mod_two_pow, Nat.testBit_or, h, decide_eq_true hpq, Bool.true_or]
    rfl
  · rwa [State.isolate1, State.getF_setF_of_ne _ _ _ _ _ hq]

theorem State.isolate1_onlyRegs (s : State) (b p : Nat) : s.OnlyRegs (s.isolate1 b p) := .of_setF ..

/-- Both ends of the link at router port p of block b isolated in their registers. -/
def State.linkEnds (s : State) (b p : Nat) : State :=
  match meshNbr b p with
  | some (q, pq) => (s.isolate1 b p).isolate1 q pq
  | none => s.isolate1 b p

theorem State.isolateLink_eq (s : State) (b p : Nat) : s.isolateLink b p =
    (s.linkEnds b p).cutNet.raiseRegion (b / 16) ((s.linkEnds b p).cutNet.faultId 2 (unitBlk b) 0x69) none := rfl

theorem meshNbr_port {b p q pq : Nat} (h : meshNbr b p = some (q, pq)) : pq < 5 := by
  unfold meshNbr at h
  split at h
  split_ifs at h <;> simp only [Option.some.injEq, Prod.mk.injEq] at h <;> omega

theorem State.linkEnds_leaves (hp : p < 5) : let t := s.linkEnds b p
    t.isolated (b, p) = true ∧ t.mesh = s.mesh ∧ ∀ q pq, meshNbr b p = some (q, pq) → t.isolated (q, pq) = true := by
  have hfirst := State.isolate1_isolated (s := s) (b := b) hp
  have honly := s.isolate1_onlyRegs b p
  unfold State.linkEnds
  generalize s.isolate1 b p = u at *
  cases hn : meshNbr b p with
  | none => exact ⟨hfirst, honly.mesh, fun _ _ h => absurd h (Option.some_ne_none _).symm⟩
  | some e =>
    obtain ⟨q, pq⟩ := e
    refine ⟨State.isolated_isolate1 hp hfirst, (u.isolate1_onlyRegs q pq).mesh.trans honly.mesh, fun q' pq' h => ?_⟩
    obtain ⟨rfl, rfl⟩ := Prod.mk.inj (Option.some.inj h)
    exact State.isolate1_isolated (meshNbr_port hn)

theorem State.cutNet_leaves (s : State) : s.cutNet.regs = s.regs ∧ s.cutNet.mesh = s.mesh := ⟨rfl, rfl⟩

/-- An error at a region leaves the isolation of links as it is. -/
theorem State.Raised.isolated {s t : State} {r : Nat} (h : s.Raised t (regionRecord r)) (x : Nat × Nat) : t.isolated x = s.isolated x := by
  have hquiet : jobQuiet (rgnBase (x.1 / 16) + (isolatedBits x.1).off) := Or.inr (by simp only [rgnBase, secBase]; omega)
  have hown : rgnBase (x.1 / 16) + (isolatedBits x.1).off ∉ regionRecord r := by
    simp only [regionRecord, rgnBase, Fld.idx, List.mem_cons, List.not_mem_nil, or_false]
    omega
  rw [State.isolated, State.getF, h.reg _ hquiet hown, State.isolated, State.getF]

/-- A link isolated at both of its ends (R316). -/
theorem State.isolateLink_leaves (hp : p < 5) : let t := s.isolateLink b p
    t.isolated (b, p) = true ∧ t.mesh = s.mesh ∧ ∀ q pq, meshNbr b p = some (q, pq) → t.isolated (q, pq) = true := by
  obtain ⟨h1, h2, h3⟩ := State.linkEnds_leaves (s := s) (b := b) hp
  rw [State.isolateLink_eq]
  generalize s.linkEnds b p = u at *
  obtain ⟨hregs, hmesh⟩ := u.cutNet_leaves
  have hcut (x : Nat × Nat) : u.cutNet.isolated x = u.isolated x := by
    rw [State.isolated_of_same fun a _ => State.reg_of_regs hregs a]
  generalize u.cutNet = v at *
  have hraised := v.raiseRegion_raised (b / 16) (v.faultId 2 (unitBlk b) 0x69)
  generalize v.raiseRegion (b / 16) (v.faultId 2 (unitBlk b) 0x69) none = t at *
  refine ⟨?_, by rw [hraised.mesh, hmesh, h2], fun q pq h => ?_⟩
  · rw [hraised.isolated, hcut, h1]
  · rw [hraised.isolated, hcut, h3 q pq h]

end

theorem exec_flitCrcMismatch_isolates {s : State} {r b p : Nat} (hr : r < 16) (hb : b < 16) (hp : p < 5) (h3 : s.pdOn 3 = true)
    (hn : SMap.get 0 s.mesh.tries ((16 * r + b) * 8 + p) = 2) :
    ∃ t, exec (.flitCrcMismatch r b p) s = .next t ∧ (t.getF (rgnBase r) (F.RGN_RTR_ERR_ISOLATED.idx (0x40 * b))).testBit p = true
      ∧ SMap.get 0 t.mesh.tries ((16 * r + b) * 8 + p) = 0
      ∧ (∀ q pq, meshNbr (16 * r + b) p = some (q, pq) →
          (t.getF (rgnBase (q / 16)) (F.RGN_RTR_ERR_ISOLATED.idx (0x40 * (q % 16)))).testBit pq = true) := by
  have hexec : exec (.flitCrcMismatch r b p) s = .next (if r < 16 ∧ b < 16 ∧ p < 5 ∧ s.pdOn 3 = true then flitMismatch s r b p else s) := rfl
  rw [if_pos ⟨hr, hb, hp, h3⟩, flitMismatch_eq, hn] at hexec
  dsimp only at hexec
  rw [if_pos rfl] at hexec
  obtain ⟨-, htries, -, -⟩ := s.replayed_leaves r b p ((2 + 1) % 3)
  generalize s.replayed r b p ((2 + 1) % 3) = u at *
  obtain ⟨hown, hmesh, hnbr⟩ := State.isolateLink_leaves (s := u) (b := 16 * r + b) hp
  generalize u.isolateLink (16 * r + b) p = t at *
  refine ⟨t, hexec, ?_, by rw [hmesh, htries], hnbr⟩
  rw [State.isolated] at hown
  dsimp only at hown
  rwa [show (16 * r + b) / 16 = r by omega, show (16 * r + b) % 16 = b by omega] at hown

/-- Settles O19. -/
theorem hbmUpkeepAndRouters : Obligations.HbmUpkeepAndRouters := by
  unfold Obligations.HbmUpkeepAndRouters
  refine ⟨?_, ?_, fun s pc bank => rfl, ?_, ?_, ?_⟩
  · exact fun s pc a hon hen ha hlen hfree hclean => exec_hbmScrubStep_clean hon hen ha hlen hfree hclean
  · exact fun s pc a j hon hen ha hlen hfree hj hflip hclean => exec_hbmScrubStep_corrects hon hen ha hlen hfree hj hflip hclean
  · exact fun s st temp hst hon hlo hhi => exec_hbmTemperatureRead_keeps hst hon hlo hhi
  · exact fun s r b p hr hb hp h3 hn => exec_flitCrcMismatch_replays hr hb hp h3 hn
  · exact fun s r b p hr hb hp h3 hn => exec_flitCrcMismatch_isolates hr hb hp h3 hn

end Sys2Proof.Machine
end


section
/-! PROOFS. O52: errors at blocks, regions and the chip (R443 to R446, R448, R450, R451). -/

namespace Sys2Proof.Machine

/-! ## Where registers lie -/

theorem blkBase_ne {b q off off' : Nat} (h : b ≠ q) (hoff : off < 0x100000) (hoff' : off' < 0x100000) : blkBase b + off ≠ blkBase q + off' := by
  simp only [blkBase]
  omega

theorem rgnBase_ne_blkBase {r b off off' : Nat} (hoff : off < 0x40000) (hoff' : off' < 0xC0000) : rgnBase r + off ≠ blkBase b + off' := by
  simp only [blkBase, rgnBase]
  omega

theorem rgnBase_ne_rgnBase {r q off off' : Nat} (h : r ≠ q) (hoff : off < 0x40000) (hoff' : off' < 0x40000) : rgnBase r + off ≠ rgnBase q + off' := by
  simp only [rgnBase]
  omega

/-! ## The chip -/

section
variable (s : State) (fid : Nat)

theorem State.casecRecord_wrapup (n : Nat) : s.Wrapup (s.casecRecord fid n) := (State.Wrapup.refl s).casecRecord

theorem State.raiseChip_first (hjob : s.isIn [.armed, .running, .draining, .securing, .restoring] = true) (hslot : s.errs.slot = none) :
    (s.raiseChip fid).errs.slot = some fid ∧ (s.raiseChip fid).errs.pin = some (fid, 1) ∧ (s.raiseChip fid).chip = s.chip
      ∧ (s.raiseChip fid).blocks = s.blocks ∧ (s.raiseChip fid).mem = s.mem := by
  have hrec := s.casecRecord_wrapup fid 1
  unfold State.raiseChip
  dsimp only
  rw [if_pos hjob, hslot]
  generalize s.casecRecord fid 1 = u at *
  exact ⟨rfl, rfl, hrec.chip, hrec.blocks, hrec.mem⟩

theorem State.raiseChip_same {n : Nat} (hjob : s.isIn [.armed, .running, .draining, .securing, .restoring] = true) (hslot : s.errs.slot = some fid)
    (hpin : s.errs.pin = some (fid, n)) : (s.raiseChip fid).errs.pin = some (fid, n + 1) ∧ (s.raiseChip fid).chip = s.chip := by
  have hrec := s.casecRecord_wrapup fid 1
  unfold State.raiseChip
  dsimp only
  rw [if_pos hjob, hslot]
  dsimp only
  rw [if_pos rfl]
  generalize s.casecRecord fid 1 = u at *
  exact ⟨by rw [hrec.pin, hpin]; rfl, hrec.chip⟩

theorem State.raiseChip_idle (hjob : s.isIn [.armed, .running, .draining, .securing, .restoring] = false) : s.Wrapup (s.raiseChip fid) := by
  unfold State.raiseChip
  dsimp only
  rw [if_neg (by rw [hjob]; exact Bool.false_ne_true)]
  exact s.casecRecord_wrapup fid 1

theorem State.raiseChip_other {f : Nat} (hjob : s.isIn [.armed, .running, .draining, .securing, .restoring] = true) (hslot : s.errs.slot = some f)
    (hne : f ≠ fid) : (((s.casecRecord fid 1).faultedNow true)).Wrapup (s.raiseChip fid) := by
  unfold State.raiseChip
  dsimp only
  rw [if_pos hjob, hslot]
  dsimp only
  rw [if_neg hne]
  exact State.enterFaulted_leaves _ true

end

theorem SMap.get_cases {α : Type} {P : α → Prop} {d : α} {m : SMap α} (hd : P d) (hm : ∀ e ∈ m, P e.2) (x : Nat) : P (SMap.get d m x) := by
  induction m with
  | nil => exact hd
  | cons e m ih =>
    obtain ⟨k, v⟩ := e
    rw [SMap.get]
    split
    · exact hm _ List.mem_cons_self
    · exact ih fun e he => hm e (List.mem_cons_of_mem _ he)

/-- Every context stopped, and nothing in flight. -/
theorem State.stopContexts_stops (s : State) (b : Nat) :
    ((s.stopContexts true).bx b).issues = [] ∧ ∀ c, ((s.stopContexts true).ctx b c).st ∈ [CtxSt.off, CtxSt.faulted, CtxSt.done] := by
  refine SMap.get_cases (P := fun x : BlockX => x.issues = [] ∧ ∀ c, (SMap.get Ctx.init x.ctxs c).st ∈ [CtxSt.off, CtxSt.faulted, CtxSt.done])
    (d := BlockX.init) (m := (s.stopContexts true).blocks) ⟨rfl, fun c => by show Ctx.init.st ∈ _; decide⟩ (fun e he => ?_) b
  obtain ⟨e, -, rfl⟩ := List.mem_map.1 he
  refine ⟨rfl, fun c => ?_⟩
  refine SMap.get_cases (P := fun x : Ctx => x.st ∈ [CtxSt.off, CtxSt.faulted, CtxSt.done]) (by decide) (fun x hx => ?_) c
  obtain ⟨x, -, rfl⟩ := List.mem_map.1 hx
  dsimp only
  split
  · next h =>
    rcases h.2 with h | h <;> rw [h] <;> decide
  · decide

theorem State.raiseChip_ends {s : State} {fid f : Nat} (hjob : s.isIn [.armed, .running, .draining, .securing, .restoring] = true)
    (hslot : s.errs.slot = some f) (hne : f ≠ fid) :
    (s.raiseChip fid).chip.st = .faulted ∧ (s.raiseChip fid).chip.jobEnded = true ∧ (s.raiseChip fid).chip.prev = s.chip.st
      ∧ (s.raiseChip fid).errs.slot = none ∧ (s.raiseChip fid).errs.pin = s.errs.pin ∧ (s.raiseChip fid).sets = []
      ∧ (∀ b, ((s.raiseChip fid).bx b).issues = [])
      ∧ (∀ b c, ((s.raiseChip fid).ctx b c).st ∈ [CtxSt.off, CtxSt.faulted, CtxSt.done]) ∧ (s.raiseChip fid).mem = s.mem := by
  have hrec := s.casecRecord_wrapup fid 1
  have hend := s.raiseChip_other fid hjob hslot hne
  generalize s.casecRecord fid 1 = u at *
  generalize s.raiseChip fid = t at *
  have hchip : t.chip = u.chip.faultedBy true := hend.chip
  have hblocks : t.blocks = (u.stopContexts true).blocks := hend.blocks
  have hbx (b : Nat) : t.bx b = (u.stopContexts true).bx b := by rw [State.bx, hblocks, State.bx]
  have hstop := u.stopContexts_stops
  rw [hchip, hrec.chip.symm]
  refine ⟨rfl, Bool.or_true _, rfl, hend.slot, hend.pin.trans hrec.pin, hend.sets, fun b => ?_, fun b c => ?_, hend.mem.trans hrec.mem⟩
  · rw [hbx]
    exact (hstop b).1
  · rw [State.ctx, hbx]
    exact (hstop b).2 c

/-! ## A block -/

section
variable {s : State} {b fid : Nat}

/-- What an error fills a free block slot with. -/
def blockSlot (fid c n : Nat) : List (Fld × Nat) :=
  [(F.BLK_FAULT_CLASS, bits fid 16 8), (F.BLK_FAULT_CTX, c), (F.BLK_FAULT_OP_INDEX, n), (F.BLK_FAULT_STAT_VALID, 1)]

theorem blockSlot_pairwise (fid c n : Nat) : (blockSlot fid c n).Pairwise fun p q => q.1.apart p.1 := by
  simp [blockSlot, Fld.apart]

theorem blockSlot_width (fid c n : Nat) : ∀ p ∈ blockSlot fid c n, p.1.lo + p.1.width ≤ 32 := by
  simp [blockSlot]

/-- The blocks, their registers, the chip state and the memory are as they were. -/
def State.blocksAlone (s t : State) : Prop :=
  t.blocks = s.blocks ∧ t.chip = s.chip ∧ t.mem = s.mem ∧ ∀ b off, off < 0xC0000 → t.reg (blkBase b + off) = s.reg (blkBase b + off)

/-- A report to the region's table leaves the blocks alone. -/
theorem State.reportUp_leaves (s : State) (r fid : Nat) : s.blocksAlone (s.reportUp r fid) := by
  unfold State.reportUp
  extract_lets x
  split
  · exact ⟨rfl, rfl, rfl, fun _ _ _ => rfl⟩
  · split
    · have hrec := State.casecRecord_wrapup (s.setRx r { x with reports := x.reports ++ [(fid, 0)] }) fid 1
      have hset : (s.setRx r { x with reports := x.reports ++ [(fid, 0)] }).regs = s.regs ∧ (s.setRx r { x with reports := x.reports ++ [(fid, 0)] }).blocks = s.blocks
        ∧ (s.setRx r { x with reports := x.reports ++ [(fid, 0)] }).chip = s.chip ∧ (s.setRx r { x with reports := x.reports ++ [(fid, 0)] }).mem = s.mem :=
        ⟨rfl, rfl, rfl, rfl⟩
      generalize s.setRx r { x with reports := x.reports ++ [(fid, 0)] } = u at *
      obtain ⟨hregs, hblocks, hchip, hmem⟩ := hset
      refine ⟨hrec.blocks.trans hblocks, hrec.chip.trans hchip, hrec.mem.trans hmem, fun b off _ => ?_⟩
      exact (hrec.reg _ (Or.inr (by simp only [secBase, blkBase]; omega))).trans (State.reg_of_regs hregs _)
    · have honly := State.OnlyRegs.of_addF s (rgnBase r) F.RGN_ERR_STAT_DROPPED 1
      refine ⟨honly.blocks, honly.chip, honly.mem, fun b off hoff => ?_⟩
      exact s.reg_setF_of_ne _ _ _ (rgnBase_ne_blkBase (by decide) hoff)

theorem State.raiseBlockId_of_free (hfree : s.isF (blkBase b) F.BLK_FAULT_STAT_VALID = false) (c n : Nat) :
    ∃ x : BlockX, x.eslot = some (fid, 1)
      ∧ s.raiseBlockId b fid c n = ((s.setFs (blkBase b) (blockSlot fid c n)).setBx b x).reportUp (b / 16) fid := by
  obtain ⟨x, hx⟩ : ∃ x : BlockX, x = { (s.setFs (blkBase b) (blockSlot fid c n)).bx b with
    eslot := some (fid, 1), unreported := (s.setFs (blkBase b) (blockSlot fid c n)).reportLost (b / 16) fid } := ⟨_, rfl⟩
  refine ⟨x, by rw [hx], ?_⟩
  unfold State.raiseBlockId
  dsimp only
  rw [if_neg (by rw [hfree]; exact Bool.false_ne_true), hx]
  rfl

theorem State.raiseBlockId_first {c n : Nat} (hfree : s.isF (blkBase b) F.BLK_FAULT_STAT_VALID = false) (hc : c < 32) (hn : n < 65536) :
    (s.raiseBlockId b fid c n).getF (blkBase b) F.BLK_FAULT_CLASS = bits fid 16 8
      ∧ (s.raiseBlockId b fid c n).getF (blkBase b) F.BLK_FAULT_CTX = c ∧ (s.raiseBlockId b fid c n).getF (blkBase b) F.BLK_FAULT_OP_INDEX = n
      ∧ (s.raiseBlockId b fid c n).isF (blkBase b) F.BLK_FAULT_STAT_VALID = true ∧ ((s.raiseBlockId b fid c n).bx b).eslot = some (fid, 1)
      ∧ (s.raiseBlockId b fid c n).chip = s.chip ∧ (s.raiseBlockId b fid c n).mem = s.mem := by
  obtain ⟨x, hx, hdone⟩ := State.raiseBlockId_of_free (fid := fid) hfree c n
  have hfield {f : Fld} {v : Nat} (h : (f, v) ∈ blockSlot fid c n) := s.getF_setFs (blkBase b) (blockSlot_pairwise fid c n) (blockSlot_width fid c n) h
  have honly := State.OnlyRegs.of_setFs s (blkBase b) (blockSlot fid c n)
  rw [hdone]
  generalize s.setFs (blkBase b) (blockSlot fid c n) = u at *
  have hself := u.bx_setBx_self b x
  have hregs := u.setBx_regs b x
  have hchip := u.setBx_chip b x
  have hmem := u.setBx_mem b x
  generalize u.setBx b x = v at *
  obtain ⟨hblocks, hchip', hmem', hreg⟩ := v.reportUp_leaves (b / 16) fid
  generalize v.reportUp (b / 16) fid = t at *
  have hget (f : Fld) (hf : f.off < 0xC0000) : t.getF (blkBase b) f = u.getF (blkBase b) f := by
    rw [State.getF, hreg _ _ hf, State.reg_of_regs hregs, State.getF]
  have hclass : bits fid 16 8 < 2 ^ 8 := bits_lt _ _ _
  refine ⟨?_, ?_, ?_, ?_, ?_, by rw [hchip', hchip, honly.chip], by rw [hmem', hmem, honly.mem]⟩
  · rw [hget _ (by decide), hfield (f := F.BLK_FAULT_CLASS) (v := bits fid 16 8) (by simp [blockSlot]), Nat.mod_eq_of_lt hclass]
  · rw [hget _ (by decide), hfield (f := F.BLK_FAULT_CTX) (v := c) (by simp [blockSlot]), Nat.mod_eq_of_lt (by omega : c < 2 ^ 5)]
  · rw [hget _ (by decide), hfield (f := F.BLK_FAULT_OP_INDEX) (v := n) (by simp [blockSlot]), Nat.mod_eq_of_lt (by omega : n < 2 ^ 16)]
  · rw [State.isF, hget _ (by decide), hfield (f := F.BLK_FAULT_STAT_VALID) (v := 1) (by simp [blockSlot])]
    rfl
  · rw [State.bx, hblocks, ← State.bx, hself, hx]

theorem State.raiseBlockId_same {c n k : Nat} (hvalid : s.isF (blkBase b) F.BLK_FAULT_STAT_VALID = true) (hslot : (s.bx b).eslot = some (fid, k)) :
    ((s.raiseBlockId b fid c n).bx b).eslot = some (fid, k + 1) ∧ { s.raiseBlockId b fid c n with blocks := s.blocks } = s := by
  have hdone : s.raiseBlockId b fid c n = s.setBx b { s.bx b with eslot := some (fid, k + 1) } := by
    unfold State.raiseBlockId
    dsimp only
    rw [if_pos hvalid, hslot]
    exact if_pos rfl
  rw [hdone, s.bx_setBx_self]
  exact ⟨rfl, rfl⟩

end

/-! ## A fenced block -/

theorem foldl_establishes {α β : Type} (f : β → α → β) {Q R : α → β → Prop} (hset : ∀ i u, R i u → Q i (f u i)) (hkeep : ∀ i j u, Q i u → Q i (f u j))
    (hready : ∀ i j u, R i u → Q i (f u j) ∨ R i (f u j)) {l : List α} {u : β} {i : α} (hi : i ∈ l) (hu : Q i u ∨ R i u) : Q i (l.foldl f u) := by
  induction l generalizing u with
  | nil => exact absurd hi List.not_mem_nil
  | cons j l ih =>
    have hrest (v : β) (hv : Q i v) : Q i (l.foldl f v) := foldl_keeps (Q i) f hv fun k _ w hw => hkeep i k w hw
    rcases List.mem_cons.1 hi with rfl | hi
    · exact hrest _ (hu.elim (hkeep i i u) (hset i u))
    · exact ih hi (hu.elim (fun h => Or.inl (hkeep i j u h)) (hready i j u))

/-- t differs from s in the blocks alone. -/
structure State.OnlyBlocks (s t : State) : Prop where
  frame : { t with blocks := s.blocks } = s

theorem State.OnlyBlocks.regs {s t : State} (h : s.OnlyBlocks t) : t.regs = s.regs := (congrArg State.regs h.frame : _)
theorem State.OnlyBlocks.chip {s t : State} (h : s.OnlyBlocks t) : t.chip = s.chip := (congrArg State.chip h.frame : _)
theorem State.OnlyBlocks.trans {s t u : State} (h : s.OnlyBlocks t) (g : t.OnlyBlocks u) : s.OnlyBlocks u := ⟨by rw [← h.frame, ← g.frame]⟩

section
variable {s : State} {b fid : Nat}

theorem State.ctx_setCtx_self (s : State) (b c : Nat) (x : Ctx) : (s.setCtx b c x).ctx b c = x := by
  rw [State.ctx, State.setCtx, s.bx_setBx_self]
  exact SMap.get_set_self _ _ _ _

theorem State.ctx_setCtx_of_ne {c c' : Nat} (s : State) (b : Nat) (x : Ctx) (h : c ≠ c') : (s.setCtx b c x).ctx b c' = s.ctx b c' := by
  rw [State.ctx, State.setCtx, s.bx_setBx_self]
  exact SMap.get_set_ne _ _ _ h

theorem State.faultCtx_onlyBlocks (s : State) (b c cls : Nat) : s.OnlyBlocks (s.faultCtx b c cls) := by
  unfold State.faultCtx
  dsimp only
  split
  · exact ⟨rfl⟩
  · exact ⟨rfl⟩

theorem State.faultCtx_faults (s : State) (b c cls : Nat) : ((s.faultCtx b c cls).ctx b c).st = .faulted := by
  unfold State.faultCtx
  dsimp only
  split
  · assumption
  · rw [State.ctx_setCtx_self]

theorem State.faultCtx_keeps {c' : Nat} (c cls : Nat) (h : (s.ctx b c').st = .faulted) : ((s.faultCtx b c cls).ctx b c').st = .faulted := by
  by_cases hc : c = c'
  · rw [hc]
    exact s.faultCtx_faults b c' cls
  · unfold State.faultCtx
    dsimp only
    split
    · exact h
    · rw [State.ctx_setCtx_of_ne _ b _ hc, State.ctx, State.bx_setBx_self]
      exact h

/-- The contexts of a mask faulted one after another. -/
theorem faultCtxs_leaves (s : State) (b cls mask : Nat) : let t := (List.range 32).foldl (fun st c => if mask.testBit c then st.faultCtx b c cls else st) s
    s.OnlyBlocks t ∧ ∀ x < 32, mask.testBit x = true → (t.ctx b x).st = .faulted := by
  refine ⟨foldl_keeps s.OnlyBlocks _ ⟨rfl⟩ fun c _ v hv => ?_, fun x hx hm => ?_⟩
  · split
    · exact hv.trans (v.faultCtx_onlyBlocks b c cls)
    · exact hv
  · refine foldl_establishes _ (Q := fun i u => mask.testBit i = true → (State.ctx u b i).st = .faulted) (R := fun _ _ => True)
      (fun i u _ hi => ?_) (fun i j u hu hi => ?_) (fun _ _ _ _ => Or.inr trivial) (List.mem_range.2 hx) (Or.inr trivial) hm
    · rw [if_pos hi]
      exact u.faultCtx_faults b i cls
    · split
      · exact State.faultCtx_keeps j cls (hu hi)
      · exact hu hi

theorem State.fence_eq (s : State) (b cls : Nat) : s.fence b cls =
    (let u := (List.range 32).foldl (fun st c => if (s.getF (blkBase b) F.BLK_SEQ_CTL_CTX_EN).testBit c then st.faultCtx b c cls else st) s
     let v := u.setF (rgnBase (b / 16)) F.RGN_ERR_FENCE_BLOCKS (u.getF (rgnBase (b / 16)) F.RGN_ERR_FENCE_BLOCKS ||| 2 ^ (b % 16))
     v.setF (rgnBase (b / 16)) (isolatedBits b) (v.getF (rgnBase (b / 16)) (isolatedBits b) ||| 1)) := rfl

/-- What the fence of a block leaves. -/
theorem State.fence_leaves (s : State) (b cls : Nat) : let t := s.fence b cls
    t.fenced b = true ∧ (∀ x < 32, (s.getF (blkBase b) F.BLK_SEQ_CTL_CTX_EN).testBit x = true → (t.ctx b x).st = .faulted) ∧ t.chip = s.chip
      ∧ ∀ a, a ≠ rgnBase (b / 16) + F.RGN_ERR_FENCE_BLOCKS.off → a ≠ rgnBase (b / 16) + (isolatedBits b).off → t.reg a = s.reg a := by
  obtain ⟨honly, hfaulted⟩ := faultCtxs_leaves s b cls (s.getF (blkBase b) F.BLK_SEQ_CTL_CTX_EN)
  rw [State.fence_eq]
  dsimp only at *
  generalize (List.range 32).foldl (fun st c => if (s.getF (blkBase b) F.BLK_SEQ_CTL_CTX_EN).testBit c then st.faultCtx b c cls else st) s = u at *
  generalize hn : u.getF (rgnBase (b / 16)) F.RGN_ERR_FENCE_BLOCKS ||| 2 ^ (b % 16) = n
  have hblocks := u.getF_setF_self (rgnBase (b / 16)) F.RGN_ERR_FENCE_BLOCKS n (by decide)
  have hv := State.OnlyRegs.of_setF u (rgnBase (b / 16)) F.RGN_ERR_FENCE_BLOCKS n
  have hvreg (a : Nat) (ha : a ≠ rgnBase (b / 16) + F.RGN_ERR_FENCE_BLOCKS.off) := u.reg_setF_of_ne (rgnBase (b / 16)) n F.RGN_ERR_FENCE_BLOCKS ha.symm
  generalize u.setF (rgnBase (b / 16)) F.RGN_ERR_FENCE_BLOCKS n = v at *
  generalize v.getF (rgnBase (b / 16)) (isolatedBits b) ||| 1 = m
  have hkept := v.getF_setF_of_apart (rgnBase (b / 16)) m (f := isolatedBits b) (g := F.RGN_ERR_FENCE_BLOCKS)
    (Or.inl (by simp only [Fld.idx]; omega)) (by decide)
  have ht := State.OnlyRegs.of_setF v (rgnBase (b / 16)) (isolatedBits b) m
  have htreg (a : Nat) (ha : a ≠ rgnBase (b / 16) + (isolatedBits b).off) := v.reg_setF_of_ne (rgnBase (b / 16)) m (isolatedBits b) ha.symm
  generalize v.setF (rgnBase (b / 16)) (isolatedBits b) m = t at *
  have hbit : b % 16 < 16 := Nat.mod_lt _ (by decide)
  refine ⟨?_, fun x hx hm => ?_, ?_, fun a h1 h2 => ?_⟩
  · rw [State.fenced, hkept, hblocks, ← hn, Nat.testBit_mod_two_pow, Nat.testBit_or, Nat.testBit_two_pow_self, Bool.or_true, Bool.and_true]
    exact decide_eq_true hbit
  · rw [State.ctx, ht.bx, hv.bx, ← State.ctx]
    exact hfaulted x hx hm
  · rw [ht.chip, hv.chip, honly.chip]
  · rw [htreg a h2, hvreg a h1, State.reg_of_regs honly.regs]

/-- What an escalated error writes in a free region slot. -/
def escalated (fid : Nat) : List (Fld × Nat) := regionSlot fid ++ if bits fid 16 8 = 0x9A then [(F.RGN_ERR_STAT_THROTTLE, 1)] else []

theorem escalated_pairwise (fid : Nat) : (escalated fid).Pairwise fun p q => q.1.apart p.1 := by
  unfold escalated
  split <;> simp [regionSlot, Fld.apart]

theorem escalated_width (fid : Nat) : ∀ p ∈ escalated fid, p.1.lo + p.1.width ≤ 32 := by
  unfold escalated
  split <;> simp [regionSlot]

theorem escalated_off (fid : Nat) : ∀ p ∈ escalated fid, p.1.off < 0x10C := by
  unfold escalated
  split <;> simp [regionSlot]

theorem State.raiseRegion_of_free_block {r : Nat} (s : State) (hfree : s.isF (rgnBase r) F.RGN_ERR_STAT_VALID = false) (fid b : Nat) :
    s.raiseRegion r fid (some b) = (s.setFs (rgnBase r) (escalated fid)).fence b (bits fid 16 8) := by
  unfold State.raiseRegion escalated
  extract_lets base s1 s2
  rw [if_neg (by rw [hfree]; exact Bool.false_ne_true)]
  dsimp only
  by_cases h : bits fid 16 8 = 0x9A
  · rw [show s2 = s1.flagF base F.RGN_ERR_STAT_THROTTLE from if_pos h, if_pos h]
    rfl
  · rw [show s2 = s1 from if_neg h, if_neg h]
    rfl

theorem State.raiseBlockId_escalates {f c n k : Nat} (hvalid : s.isF (blkBase b) F.BLK_FAULT_STAT_VALID = true) (hslot : (s.bx b).eslot = some (f, k))
    (hne : f ≠ fid) (hfree : s.isF (rgnBase (b / 16)) F.RGN_ERR_STAT_VALID = false) (hfid : fid < 2 ^ 64) :
    (s.raiseBlockId b fid c n).isF (blkBase b) F.BLK_FAULT_STAT_ESCALATED = true
      ∧ (s.raiseBlockId b fid c n).getF (rgnBase (b / 16)) F.RGN_ERR_REC_LO_ID
          + 2 ^ 32 * (s.raiseBlockId b fid c n).getF (rgnBase (b / 16)) F.RGN_ERR_REC_HI_ID = fid
      ∧ (s.raiseBlockId b fid c n).isF (rgnBase (b / 16)) F.RGN_ERR_STAT_VALID = true ∧ (s.raiseBlockId b fid c n).fenced b = true
      ∧ (∀ x < 32, (s.getF (blkBase b) F.BLK_SEQ_CTL_CTX_EN).testBit x = true → ((s.raiseBlockId b fid c n).ctx b x).st = .faulted)
      ∧ (s.raiseBlockId b fid c n).chip = s.chip := by
  have hdone : s.raiseBlockId b fid c n = (s.flagF (blkBase b) F.BLK_FAULT_STAT_ESCALATED).raiseRegion (b / 16) fid (some b) := by
    unfold State.raiseBlockId
    dsimp only
    rw [if_pos hvalid, hslot]
    exact if_neg hne
  have hflag := s.isF_flagF_self (blkBase b) (f := F.BLK_FAULT_STAT_ESCALATED) (by decide) rfl
  have hreg (a : Nat) (ha : blkBase b + F.BLK_FAULT_STAT_ESCALATED.off ≠ a) := s.reg_setF_of_ne (blkBase b) 1 F.BLK_FAULT_STAT_ESCALATED ha
  have honly := State.OnlyRegs.of_flagF s (blkBase b) F.BLK_FAULT_STAT_ESCALATED
  rw [← State.flagF] at hreg
  rw [hdone]
  generalize s.flagF (blkBase b) F.BLK_FAULT_STAT_ESCALATED = u at *
  have hctx : u.getF (blkBase b) F.BLK_SEQ_CTL_CTX_EN = s.getF (blkBase b) F.BLK_SEQ_CTL_CTX_EN := by
    rw [State.getF, hreg _ fun h => absurd (Nat.add_left_cancel h) (by decide), State.getF]
  have hvalidR : u.isF (rgnBase (b / 16)) F.RGN_ERR_STAT_VALID = false := by
    rw [State.isF, State.getF, hreg _ (rgnBase_ne_blkBase (by decide) (by decide)).symm, ← State.getF, ← State.isF, hfree]
  rw [u.raiseRegion_of_free_block hvalidR]
  have hfield {g : Fld} {v : Nat} (h : (g, v) ∈ escalated fid) :=
    u.getF_setFs (rgnBase (b / 16)) (escalated_pairwise fid) (escalated_width fid) h
  have hreg2 (off : Nat) (hoff : off < 0xC0000) : (u.setFs (rgnBase (b / 16)) (escalated fid)).reg (blkBase b + off) = u.reg (blkBase b + off) :=
    u.reg_setFs_of_ne _ fun p hp => rgnBase_ne_blkBase (by have := escalated_off fid p hp; omega) hoff
  have honly2 := State.OnlyRegs.of_setFs u (rgnBase (b / 16)) (escalated fid)
  have hmem {g : Fld} {v : Nat} (h : (g, v) ∈ regionSlot fid) : (g, v) ∈ escalated fid := List.mem_append_left _ h
  generalize u.setFs (rgnBase (b / 16)) (escalated fid) = w at *
  obtain ⟨hfenced, hfaulted, hchip, hkept⟩ := w.fence_leaves b (bits fid 16 8)
  generalize w.fence b (bits fid 16 8) = t at *
  have hblk (off : Nat) (hoff : off < 0xC0000) : t.reg (blkBase b + off) = w.reg (blkBase b + off) :=
    hkept _ (rgnBase_ne_blkBase (by decide) hoff).symm (rgnBase_ne_blkBase (by simp only [Fld.idx]; omega) hoff).symm
  have hrgn (g : Fld) (hg : g.off < 0x10C) : t.getF (rgnBase (b / 16)) g = w.getF (rgnBase (b / 16)) g := by
    rw [State.getF, hkept _ (by simp; omega) (by simp only [Fld.idx]; omega), State.getF]
  refine ⟨?_, ?_, ?_, hfenced, fun x hx hm => ?_, ?_⟩
  · rw [State.isF, State.getF, hblk _ (by decide), hreg2 _ (by decide), ← State.getF, ← State.isF, hflag]
  · rw [hrgn _ (by decide), hrgn _ (by decide), hfield (g := F.RGN_ERR_REC_LO_ID) (v := fid) (hmem (by simp [regionSlot])),
      hfield (g := F.RGN_ERR_REC_HI_ID) (v := fid / 2 ^ 32) (hmem (by simp [regionSlot]))]
    show fid % 2 ^ 32 + 2 ^ 32 * (fid / 2 ^ 32 % 2 ^ 32) = fid
    omega
  · rw [State.isF, hrgn _ (by decide), hfield (g := F.RGN_ERR_STAT_VALID) (v := 1) (hmem (by simp [regionSlot]))]
    rfl
  · refine hfaulted x hx ?_
    rwa [State.getF, hreg2 _ (by decide), ← State.getF, hctx]
  · rw [hchip, honly2.chip, honly.chip]

end


/-! ## The service of the slots -/

/-- The registers, the blocks, the regions, the fault records and what they post are all that differs. -/
structure State.OnlyFaults (s t : State) : Prop where
  frame : { t with regs := s.regs, blocks := s.blocks, regions := s.regions, errs := s.errs, pml := s.pml, mail := s.mail } = s

section
variable {s : State}

theorem State.OnlyFaults.refl (s : State) : s.OnlyFaults s := ⟨rfl⟩
theorem State.OnlyFaults.trans {s t u : State} (h : s.OnlyFaults t) (g : t.OnlyFaults u) : s.OnlyFaults u := ⟨by rw [← h.frame, ← g.frame]⟩
theorem State.OnlyRecords.onlyFaults {s t : State} (h : s.OnlyRecords t) : s.OnlyFaults t := ⟨by rw [← h.frame]⟩
theorem State.OnlyRegs.onlyFaults {s t : State} (h : s.OnlyRegs t) : s.OnlyFaults t := ⟨by rw [← h.frame]⟩

/-- The fault slots, the blocks and the regions are as they were, except those of the places a. -/
structure State.SlotsKept (s t : State) (blk rgn : Nat → Prop) : Prop where
  only : s.OnlyFaults t
  blkValid : ∀ b, ¬blk b → t.isF (blkBase b) F.BLK_FAULT_STAT_VALID = s.isF (blkBase b) F.BLK_FAULT_STAT_VALID
  bx : ∀ b, ¬blk b → t.bx b = s.bx b
  rgnValid : ∀ r, ¬rgn r → t.isF (rgnBase r) F.RGN_ERR_STAT_VALID = s.isF (rgnBase r) F.RGN_ERR_STAT_VALID
  rx : ∀ r, ¬rgn r → t.rx r = s.rx r

theorem State.SlotsKept.refl (s : State) (p q : Nat → Prop) : s.SlotsKept s p q := ⟨.refl s, fun _ _ => rfl, fun _ _ => rfl, fun _ _ => rfl, fun _ _ => rfl⟩

theorem State.SlotsKept.trans {s t u : State} {p q : Nat → Prop} (h : s.SlotsKept t p q) (g : t.SlotsKept u p q) : s.SlotsKept u p q :=
  ⟨h.only.trans g.only, fun b hb => (g.blkValid b hb).trans (h.blkValid b hb), fun b hb => (g.bx b hb).trans (h.bx b hb),
    fun r hr => (g.rgnValid r hr).trans (h.rgnValid r hr), fun r hr => (g.rx r hr).trans (h.rx r hr)⟩

theorem State.casecRecord_slotsKept (s : State) (fid n : Nat) (p q : Nat → Prop) : s.SlotsKept (s.casecRecord fid n) p q := by
  have hrec := s.casecRecord_wrapup fid n
  have honly := s.casecRecord_onlyRecords fid n
  generalize s.casecRecord fid n = t at *
  have hregs : t.regions = s.regions := (congrArg State.regions honly.frame : _)
  refine ⟨honly.onlyFaults, fun b _ => ?_, fun b _ => ?_, fun r _ => ?_, fun r _ => ?_⟩
  · rw [State.isF, State.getF, hrec.reg _ (Or.inr (by simp only [secBase, blkBase]; omega)), ← State.getF, ← State.isF]
  · rw [State.bx, hrec.blocks, State.bx]
  · rw [State.isF, State.getF, hrec.reg _ (Or.inr (by simp only [secBase, rgnBase]; omega)), ← State.getF, ← State.isF]
  · rw [State.rx, hregs, State.rx]

theorem State.setF_slotsKept (s : State) (base : Nat) (f : Fld) (v : Nat) {p q : Nat → Prop}
    (hblk : ∀ b, ¬p b → base + f.off ≠ blkBase b + F.BLK_FAULT_STAT_VALID.off) (hrgn : ∀ r, ¬q r → base + f.off ≠ rgnBase r + F.RGN_ERR_STAT_VALID.off) :
    s.SlotsKept (s.setF base f v) p q := by
  have honly := State.OnlyRegs.of_setF s base f v
  have hreg {a : Nat} (ha : base + f.off ≠ a) := s.reg_setF_of_ne base v f ha
  generalize s.setF base f v = t at *
  refine ⟨honly.onlyFaults, fun b hb => ?_, fun b _ => by rw [honly.bx], fun r hr => ?_, fun r _ => by rw [honly.rx]⟩
  · rw [State.isF, State.getF, hreg (hblk b hb), ← State.getF, ← State.isF]
  · rw [State.isF, State.getF, hreg (hrgn r hr), ← State.getF, ← State.isF]

theorem State.setBx_slotsKept (s : State) (b : Nat) (x : BlockX) (q : Nat → Prop) : s.SlotsKept (s.setBx b x) (· = b) q :=
  ⟨⟨rfl⟩, fun _ _ => rfl, fun _ hb => s.setBx_othersKept b x _ hb, fun _ _ => rfl, fun _ _ => rfl⟩

theorem State.setRx_slotsKept (s : State) (r : Nat) (x : RegionX) (p : Nat → Prop) : s.SlotsKept (s.setRx r x) p (· = r) :=
  ⟨⟨rfl⟩, fun _ _ => rfl, fun _ _ => rfl, fun _ _ => rfl, fun _ hr => s.rx_setRx_of_ne x hr⟩

/-- The service of a block frees its slot, and leaves the others. -/
theorem State.serviceBlock_leaves (s : State) (b : Nat) : s.SlotsKept (s.serviceBlock b) (· = b) (fun _ => False)
    ∧ (s.serviceBlock b).isF (blkBase b) F.BLK_FAULT_STAT_VALID = false
    ∧ (s.isF (blkBase b) F.BLK_FAULT_STAT_VALID = true → ((s.serviceBlock b).bx b).eslot = none) := by
  unfold State.serviceBlock
  extract_lets base s1
  split
  · have h1 : s.SlotsKept s1 (· = b) (fun _ => False) := by
      simp only [s1]
      split
      · exact s.casecRecord_slotsKept _ _ _ _
      · exact .refl s _ _
    clear_value s1
    have h2 := s1.setF_slotsKept base F.BLK_FAULT_STAT_VALID 0 (p := (· = b)) (q := fun _ => False)
      (fun b' hb => blkBase_ne (fun h => hb h.symm) (by decide) (by decide)) (fun r _ => (rgnBase_ne_blkBase (by decide) (by decide)).symm)
    have hclear := s1.isF_setF_self base 0 (f := F.BLK_FAULT_STAT_VALID) (by decide) rfl
    generalize s1.setF base F.BLK_FAULT_STAT_VALID 0 = u at *
    refine ⟨(h1.trans h2).trans (u.setBx_slotsKept b _ _), ?_, fun _ => ?_⟩
    · rw [State.isF, State.getF, State.reg_of_regs (u.setBx_regs _ _), ← State.getF, ← State.isF]
      exact hclear
    · rw [State.bx_setBx_self]
  · next h => exact ⟨.refl s _ _, Bool.eq_false_iff.2 h, fun h' => absurd h' h⟩

/-- The service of a region frees its slot and its table, and leaves the others. -/
theorem State.serviceRegion_leaves (s : State) (r : Nat) : s.SlotsKept (s.serviceRegion r) (fun _ => False) (· = r)
    ∧ (s.serviceRegion r).isF (rgnBase r) F.RGN_ERR_STAT_VALID = false ∧ ((s.serviceRegion r).rx r).reports = [] := by
  have hapart (b off : Nat) (hoff : off < 0x40000) : rgnBase r + off ≠ blkBase b + F.BLK_FAULT_STAT_VALID.off := rgnBase_ne_blkBase hoff (by decide)
  have hother (off : Nat) (hoff : off < 0x40000) (q : Nat) (hq : ¬q = r) : rgnBase r + off ≠ rgnBase q + F.RGN_ERR_STAT_VALID.off :=
    rgnBase_ne_rgnBase (fun h => hq h.symm) hoff (by decide)
  unfold State.serviceRegion
  extract_lets base s1 s2
  have h1 : s.SlotsKept s1 (fun _ => False) (· = r) ∧ s1.isF (rgnBase r) F.RGN_ERR_STAT_VALID = false := by
    simp only [s1]
    split
    · have hrec := s.casecRecord_slotsKept (s.getF base F.RGN_ERR_REC_LO_ID + 2 ^ 32 * s.getF base F.RGN_ERR_REC_HI_ID) (s.getF base F.RGN_ERR_STAT_COUNT)
        (fun _ => False) (· = r)
      generalize s.casecRecord (s.getF base F.RGN_ERR_REC_LO_ID + 2 ^ 32 * s.getF base F.RGN_ERR_REC_HI_ID) (s.getF base F.RGN_ERR_STAT_COUNT) = u at *
      have hset := u.setF_slotsKept base F.RGN_ERR_STAT_VALID 0 (p := fun _ => False) (q := (· = r)) (fun b _ => hapart b _ (by decide))
        (hother _ (by decide))
      have hclear := u.isF_setF_self base 0 (f := F.RGN_ERR_STAT_VALID) (by decide) rfl
      generalize u.setF base F.RGN_ERR_STAT_VALID 0 = v at *
      have hset' := v.setF_slotsKept base F.RGN_ERR_STAT_THROTTLE 0 (p := fun _ => False) (q := (· = r)) (fun b _ => hapart b _ (by decide))
        (hother _ (by decide))
      have hkept := v.isF_setF_of_apart base 0 (f := F.RGN_ERR_STAT_THROTTLE) (g := F.RGN_ERR_STAT_VALID) (by decide) (by decide)
      generalize v.setF base F.RGN_ERR_STAT_THROTTLE 0 = w at *
      exact ⟨(hrec.trans hset).trans hset', hkept.trans hclear⟩
    · next h => exact ⟨.refl s _ _, Bool.eq_false_iff.2 h⟩
  clear_value s1
  have h2 : s1.SlotsKept s2 (fun _ => False) (fun _ => False) :=
    foldl_keeps (fun u => s1.SlotsKept u (fun _ => False) (fun _ => False)) _ (.refl s1 _ _) fun e _ v hv => hv.trans (v.casecRecord_slotsKept _ _ _ _)
  clear_value s2
  have h2' : s1.SlotsKept s2 (fun _ => False) (· = r) := ⟨h2.only, h2.blkValid, h2.bx, fun q _ => h2.rgnValid q id, fun q _ => h2.rx q id⟩
  refine ⟨(h1.1.trans h2').trans (s2.setRx_slotsKept r _ _), ?_, by rw [s2.rx_setRx_self]⟩
  rw [State.isF, State.getF, State.reg_of_regs (s2.setRx_regs _ _), ← State.getF, ← State.isF, h2.rgnValid r id, h1.2]

/-- The slot of block b, which was as in s, has been freed. -/
def slotFreed (s : State) (b : Nat) (u : State) : Prop := u.isF (blkBase b) F.BLK_FAULT_STAT_VALID = false
  ∧ (s.isF (blkBase b) F.BLK_FAULT_STAT_VALID = true → (u.bx b).eslot = none)

theorem slotFreed_of_kept {b : Nat} {s u v : State} {p q : Nat → Prop} (h : u.SlotsKept v p q) (hb : ¬p b) (hu : slotFreed s b u) : slotFreed s b v :=
  ⟨(h.blkValid b hb).trans hu.1, fun hv => by rw [h.bx b hb, hu.2 hv]⟩

/-- The slot of block b is valid exactly where it is in s. -/
def slotAsBefore (s : State) (b : Nat) (u : State) : Prop := u.isF (blkBase b) F.BLK_FAULT_STAT_VALID = s.isF (blkBase b) F.BLK_FAULT_STAT_VALID

theorem serviceBlock_keeps_freed {s u : State} {b : Nat} (c : Nat) (hu : slotFreed s b u) : slotFreed s b (u.serviceBlock c) := by
  by_cases hc : b = c
  · rw [← hc, State.serviceBlock, if_neg (by rw [hu.1]; exact Bool.false_ne_true)]
    exact hu
  · exact slotFreed_of_kept (u.serviceBlock_leaves c).1 hc hu

theorem serviceBlock_frees {s u : State} {b : Nat} (hu : slotAsBefore s b u) : slotFreed s b (u.serviceBlock b) :=
  ⟨(u.serviceBlock_leaves b).2.1, fun hv => (u.serviceBlock_leaves b).2.2 (hu.trans hv)⟩

theorem serviceBlock_keeps_asBefore {s u : State} {b c : Nat} (hc : b ≠ c) (hu : slotAsBefore s b u) : slotAsBefore s b (u.serviceBlock c) :=
  ((u.serviceBlock_leaves c).1.blkValid b hc).trans hu

/-- The blocks of region r serviced one after another. -/
def serviceBlocks (u : State) (r : Nat) : State := (List.range 16).foldl (fun v i => v.serviceBlock (16 * r + i)) u

section
variable {s u : State} {b : Nat}

theorem serviceBlocks_keeps_freed (r : Nat) (hu : slotFreed s b u) : slotFreed s b (serviceBlocks u r) :=
  foldl_keeps (slotFreed s b) _ hu fun _ _ _ hv => serviceBlock_keeps_freed _ hv

theorem serviceBlocks_keeps_asBefore {r : Nat} (hr : b / 16 ≠ r) (hu : slotAsBefore s b u) : slotAsBefore s b (serviceBlocks u r) :=
  foldl_keeps (slotAsBefore s b) _ hu fun i hi _ hv => serviceBlock_keeps_asBefore (fun h => by have := List.mem_range.1 hi; omega) hv

theorem serviceBlocks_frees {i r : Nat} (hi : i < 16) (hu : slotAsBefore s (16 * r + i) u) : slotFreed s (16 * r + i) (serviceBlocks u r) := by
  refine foldl_establishes _ (Q := fun j v => slotFreed s (16 * r + j) v) (R := fun j v => slotAsBefore s (16 * r + j) v)
    (fun _ _ h => serviceBlock_frees h) (fun _ _ _ h => serviceBlock_keeps_freed _ h) (fun j k v h => ?_) (List.mem_range.2 hi) (Or.inr hu)
  by_cases hk : j = k
  · rw [← hk]
    exact Or.inl (serviceBlock_frees h)
  · exact Or.inr (serviceBlock_keeps_asBefore (fun he => hk (Nat.add_left_cancel he)) h)

theorem serviceRegion_keeps_freed (r : Nat) (hu : slotFreed s b u) : slotFreed s b (u.serviceRegion r) :=
  slotFreed_of_kept (u.serviceRegion_leaves r).1 id hu

theorem serviceRegion_keeps_asBefore (r : Nat) (hu : slotAsBefore s b u) : slotAsBefore s b (u.serviceRegion r) :=
  ((u.serviceRegion_leaves r).1.blkValid b id).trans hu

end

/-- The slot and the table of region r are free. -/
def regionFreed (r : Nat) (u : State) : Prop := u.isF (rgnBase r) F.RGN_ERR_STAT_VALID = false ∧ (u.rx r).reports = []

theorem regionFreed_of_kept {r : Nat} {u v : State} {p q : Nat → Prop} (h : u.SlotsKept v p q) (hr : ¬q r) (hu : regionFreed r u) : regionFreed r v :=
  ⟨(h.rgnValid r hr).trans hu.1, by rw [h.rx r hr]; exact hu.2⟩

theorem serviceBlocks_onlyBlocks (u : State) (r : Nat) : u.SlotsKept (serviceBlocks u r) (fun _ => True) (fun _ => False) :=
  foldl_keeps (fun v => u.SlotsKept v (fun _ => True) (fun _ => False)) _ (.refl u _ _) fun i _ v hv =>
    have h := (v.serviceBlock_leaves (16 * r + i)).1
    hv.trans ⟨h.only, fun _ hb => absurd trivial hb, fun _ hb => absurd trivial hb, h.rgnValid, h.rx⟩

/-- Every slot is freed by the service. -/
theorem State.faultService_frees (s : State) (hst : s.isIn [.off, .sleep] = false) :
    (∀ b < 256, slotFreed s b (faultService s)) ∧ (∀ r < 16, regionFreed r (faultService s)) ∧ s.OnlyFaults (faultService s) := by
  have hdone : faultService s = (List.range 16).foldl (fun u r => (serviceBlocks u r).serviceRegion r) s := by
    unfold faultService
    rw [if_neg (by rw [hst]; exact Bool.false_ne_true)]
    rfl
  rw [hdone]
  refine ⟨fun b hb => ?_, fun r hr => ?_, ?_⟩
  · have hb16 : b / 16 < 16 := Nat.div_lt_of_lt_mul hb
    have hdiv : 16 * (b / 16) + b % 16 = b := Nat.div_add_mod b 16
    have hmod : b % 16 < 16 := Nat.mod_lt b (by decide)
    have hset (i : Nat) (u : State) (h : slotAsBefore s (16 * i + b % 16) u) : slotFreed s (16 * i + b % 16) ((serviceBlocks u i).serviceRegion i) :=
      serviceRegion_keeps_freed i (serviceBlocks_frees hmod h)
    have hfreed := foldl_establishes (fun u r => (serviceBlocks u r).serviceRegion r) (Q := fun i v => slotFreed s (16 * i + b % 16) v)
      (R := fun i v => slotAsBefore s (16 * i + b % 16) v) hset (fun i j u h => serviceRegion_keeps_freed j (serviceBlocks_keeps_freed j h))
      (fun i j u h => ?_) (u := s) (List.mem_range.2 hb16) (Or.inr rfl)
    · rwa [hdiv] at hfreed
    · by_cases hj : i = j
      · rw [← hj]
        exact Or.inl (hset i u h)
      · exact Or.inr (serviceRegion_keeps_asBefore j (serviceBlocks_keeps_asBefore (by omega) h))
  · have hset (i : Nat) (u : State) : regionFreed i ((serviceBlocks u i).serviceRegion i) := ((serviceBlocks u i).serviceRegion_leaves i).2
    refine foldl_establishes _ (Q := regionFreed) (R := fun _ _ => True) (fun i u _ => hset i u) (fun i j u h => ?_) (fun _ _ _ _ => Or.inr trivial)
      (List.mem_range.2 hr) (Or.inr trivial)
    by_cases hj : i = j
    · rw [hj]
      exact hset j u
    · exact regionFreed_of_kept ((serviceBlocks u j).serviceRegion_leaves j).1 hj (regionFreed_of_kept (serviceBlocks_onlyBlocks u j) id h)
  · exact foldl_keeps s.OnlyFaults _ (.refl s) fun r _ v hv =>
      (hv.trans (serviceBlocks_onlyBlocks v r).only).trans ((serviceBlocks v r).serviceRegion_leaves r).1.only

end

/-- Settles O52. -/
theorem errorsAtEveryLevel : Obligations.ErrorsAtEveryLevel := by
  refine ⟨fun s b fid c n _ hfree hc hn => State.raiseBlockId_first hfree hc hn, fun s b fid c n k => State.raiseBlockId_same,
    fun s b fid f c n k _ hvalid hslot hne hfree hfid => State.raiseBlockId_escalates hvalid hslot hne hfree hfid, fun s hst => ?_,
    fun s fid => s.raiseChip_first fid, fun s fid n => s.raiseChip_same fid, fun s fid f => State.raiseChip_ends, fun s fid hst => ?_⟩
  · obtain ⟨hblk, hrgn, honly⟩ := s.faultService_frees hst
    exact ⟨_, rfl, fun b hb => (hblk b hb).1, fun b hb => (hblk b hb).2, hrgn, honly.frame⟩
  · have h := s.raiseChip_idle fid hst
    exact ⟨h.slot, h.pin, h.chip, h.blocks⟩

end Sys2Proof.Machine
end


section
/-! PROOFS. O35: the Postmark Log (R433, R502 to R509). -/

namespace Sys2Proof.Machine

/-! ## Records of the primary store -/

section
variable (s : State) (rec : List Byte) (fatal : Bool) (source : Nat)

/-- The Postmark Log with a record placed in the primary store (R504). -/
def State.placed : Pml := { s.pml with
  slots := SMap.set [] s.pml.slots s.pmSlot rec, newest := s.pmSlot, next := (s.pmSlot + 1) % 8192
  pinned := if s.pml.pinned.isNone && fatal then some s.pmSlot else s.pml.pinned }

theorem State.postEvent_pml (code source arg : Nat) (pm : Bool) : (s.postEvent code source arg pm).pml = s.pml := by
  unfold State.postEvent
  split <;> rfl

/-- A posted event changes the posts alone. -/
theorem State.postEvent_posts (code source arg : Nat) (pm : Bool) :
    { s.postEvent code source arg pm with mail := { (s.postEvent code source arg pm).mail with posts := s.mail.posts } } = s := by
  unfold State.postEvent
  split <;> rfl

theorem State.pmPlace_pml : (s.pmPlace rec fatal source).pml = s.placed rec fatal := State.postEvent_pml _ _ _ _ _

theorem State.pmPlace_posts :
    { s.pmPlace rec fatal source with pml := s.pml, mail := { (s.pmPlace rec fatal source).mail with posts := s.mail.posts } } = s := by
  have h := State.postEvent_posts { s with pml := s.placed rec fatal } 0x6 (if source = 1 then 1 else 0) (s.pmSlot + 0 * 65536) true
  exact congrArg (fun u : State => { u with pml := s.pml }) h

end

/-- The slot taken is not the pinned one. -/
theorem State.pmSlot_ne_pinned (s : State) {i : Nat} (h : s.pml.pinned = some i) : s.pmSlot ≠ i := by
  unfold State.pmSlot
  split
  · next hp =>
    obtain rfl : i = s.pml.next := Option.some.inj (h.symm.trans hp)
    omega
  · next hp => exact fun he => hp (by rw [h, he])

section
variable (s : State) (p : PmSub)

/-- The Postmark Log with a record committed in the primary store (R505). -/
def State.committed : Pml :=
  { s.placed (s.pmForm p false (s.pml.pinned.isNone && p.fatal)) p.fatal with seq := (s.pml.seq + 1) % 2 ^ 32, drops := 0 }

theorem State.committed_slots :
    (s.committed p).slots = SMap.set [] s.pml.slots s.pmSlot (s.pmForm p false (s.pml.pinned.isNone && p.fatal)) := by
  simp only [State.committed, State.placed]

/-- The Postmark Log with a record committed in the last-words store, which is not full (R507). -/
def State.worded : Pml := { s.pml with
  seq := (s.pml.seq + 1) % 2 ^ 32, drops := 0, words := s.pml.words ++ [(s.pml.wordNext, s.pmForm p true false)], wordNext := (s.pml.wordNext + 1) % 64 }

/-- t is s with another Postmark Log, and perhaps a further post. -/
structure State.Logged (s t : State) (x : Pml) : Prop where
  pml : t.pml = x
  frame : { t with pml := s.pml, mail := { t.mail with posts := s.mail.posts } } = s

theorem State.pmCommit_logged : s.Logged (s.pmCommit p) (s.committed p) := by
  obtain ⟨rec, hrec⟩ : ∃ rec, rec = s.pmForm p false (s.pml.pinned.isNone && p.fatal) := ⟨_, rfl⟩
  have hpml := s.pmPlace_pml rec p.fatal p.source
  have hposts := s.pmPlace_posts rec p.fatal p.source
  unfold State.pmCommit State.committed
  rw [← hrec]
  generalize s.pmPlace rec p.fatal p.source = u at *
  refine ⟨?_, ?_⟩
  · rw [State.pmCount, hpml]
    rfl
  · rw [← hposts]
    rfl

theorem State.pmWord_logged (h : s.pml.words.length < 64) : s.Logged (s.pmWord p) (s.worded p) := by
  have hdone : s.pmWord p = { s with pml := s.worded p }.pmPosted s.pml.wordNext 1 p.source := by
    unfold State.pmWord
    extract_lets rec_ s1 full s2 x
    have hfull : full = false := decide_eq_false (by omega)
    have hs2 : s2 = s1 := if_neg (by rw [hfull]; exact Bool.false_ne_true)
    have hx : x = s1.pml := congrArg State.pml hs2
    rw [hs2, hfull, hx]
    rfl
  rw [hdone]
  have hposts := State.postEvent_posts { s with pml := s.worded p } 0x6 (if p.source = 1 then 1 else 0) (s.pml.wordNext + 1 * 65536) true
  exact ⟨State.postEvent_pml _ _ _ _ _, congrArg (fun u : State => { u with pml := s.pml }) hposts⟩

theorem State.pmClearRun_of_none (h : s.pml.clear = none) : s.pmClearRun = s := by
  unfold State.pmClearRun
  rw [h]

end

section
variable {s : State} {p : PmSub} {q : List PmSub}

/-- The state in which the oldest queued record is written. -/
def State.dequeued (s : State) (q : List PmSub) : State := { s with pml := { s.pml with queue := q, clear := none, begun := false } }

theorem exec_postmarkCommit {x : Pml} {t : State} (hst : s.chip.st ≠ .off) (hq : s.pml.queue = p :: q) (hclear : s.pml.clear = none)
    (hwrite : (s.dequeued q).pmWrite p = t) (hlogged : (s.dequeued q).Logged t x) (hx : x.clear = none) :
    exec .postmarkCommit s = .next t ∧ { t with pml := s.pml, mail := s.mail } = s := by
  have hstep : pmStep s = ((s.dequeued q).pmWrite p).pmClearRun := by
    unfold pmStep
    rw [hq, hclear]
    rfl
  refine ⟨?_, congrArg (fun u : State => { u with pml := s.pml, mail := s.mail }) hlogged.frame⟩
  show Host.Outcome.next (if s.isIn [.off] then s else pmStep s) = _
  rw [if_neg (by simpa [State.isIn] using hst), hstep, hwrite, State.pmClearRun_of_none _ (by rw [hlogged.pml, hx])]

theorem State.pmWrite_primary (p : PmSub) (h : s.pdOn 3 = true) : s.pmWrite p = s.pmCommit p := if_pos h
theorem State.pmWrite_lastWords (p : PmSub) (h : s.pdOn 3 = false) : s.pmWrite p = s.pmWord p := if_neg (by rw [State.pmPrimary, h]; exact Bool.false_ne_true)

end

/-! ## The last-words records copied -/

/-- A last-words record without the FATAL mark. -/
def wordPlain (w : Nat × List Byte) : Prop := (leAt w.2 3 1).testBit 0 = false

/-- A last-words record copied into the primary store (R507). -/
def State.copyWord (u : State) (w : Nat × List Byte) : State :=
  u.pmPlace (pmReseal w.2 (u.pml.pinned.isNone && (leAt w.2 3 1).testBit 0)) ((leAt w.2 3 1).testBit 0) (leAt w.2 2 1)

theorem State.copyWord_plain {u : State} {w : Nat × List Byte} (hpin : u.pml.pinned = none) (hw : wordPlain w) :
    (u.copyWord w).pml.pinned = none ∧ (u.copyWord w).pml.next = (u.pml.next + 1) % 8192
      ∧ (u.copyWord w).pml.slots = SMap.set [] u.pml.slots u.pml.next (pmReseal w.2 false) := by
  have hslot : u.pmSlot = u.pml.next := by rw [State.pmSlot, hpin, if_neg (by simp)]
  rw [State.copyWord, State.pmPlace_pml, show (leAt w.2 3 1).testBit 0 = false from hw, Bool.and_false, State.placed, hslot]
  refine ⟨?_, rfl, rfl⟩
  rw [hpin]
  rfl

/-- Plain records copied one after another stand in their order from the next slot on. -/
theorem copyWords_plain {ws : List (Nat × List Byte)} {u : State} (hpin : u.pml.pinned = none) (hnext : u.pml.next < 8192) (hlen : ws.length ≤ 8192)
    (hplain : ∀ w ∈ ws, wordPlain w) :
    (ws.foldl State.copyWord u).pml.pinned = none
      ∧ (∀ k w, ws[k]? = some w → SMap.get [] (ws.foldl State.copyWord u).pml.slots ((u.pml.next + k) % 8192) = pmReseal w.2 false)
      ∧ ∀ i, (∀ k < ws.length, i ≠ (u.pml.next + k) % 8192) → SMap.get [] (ws.foldl State.copyWord u).pml.slots i = SMap.get [] u.pml.slots i := by
  induction ws generalizing u with
  | nil => exact ⟨hpin, fun k w h => by simp at h, fun _ _ => rfl⟩
  | cons w ws ih =>
    obtain ⟨hpin', hnext', hslots'⟩ := State.copyWord_plain hpin (hplain w List.mem_cons_self)
    obtain ⟨hpinned, hcopied, hkept⟩ := ih hpin' (by rw [hnext']; exact Nat.mod_lt _ (by decide)) (by simp only [List.length_cons] at hlen; omega)
      fun x hx => hplain x (List.mem_cons_of_mem _ hx)
    rw [List.foldl_cons]
    have hmod (k : Nat) : ((u.pml.next + 1) % 8192 + k) % 8192 = (u.pml.next + (k + 1)) % 8192 := by omega
    refine ⟨hpinned, fun k x hk => ?_, fun i hi => ?_⟩
    · cases k with
      | zero =>
        obtain rfl : w = x := Option.some.inj hk
        rw [Nat.add_zero, Nat.mod_eq_of_lt hnext, hkept _ fun j hj => ?_, hslots', SMap.get_set_self]
        rw [hnext']
        simp only [List.length_cons] at hlen
        omega
      | succ k =>
        rw [← hmod, ← hnext']
        exact hcopied k x hk
    · rw [hkept i fun j hj => ?_, hslots', SMap.get_set_ne _ _ _ fun h => ?_]
      · exact hi 0 (Nat.succ_pos _) (by rw [Nat.add_zero, Nat.mod_eq_of_lt hnext, h])
      · rw [hnext', hmod]
        exact hi (j + 1) (Nat.succ_lt_succ hj)

/-- The same Postmark Log before the copy of the last words. -/
theorem State.pmCopyWords_pml (s : State) (h : s.pdOn 3 = true) :
    s.pmCopyWords.pml = { (s.pml.words.foldl State.copyWord s).pml with words := [], wordNext := 0 } := by
  unfold State.pmCopyWords
  rw [if_pos (show s.pmPrimary = true from h)]
  rfl

/-- t is s but for the Postmark Log and the posts of events. -/
structure State.OnlyLog (s t : State) : Prop where
  frame : { t with pml := s.pml, mail := { t.mail with posts := s.mail.posts } } = s

theorem State.OnlyLog.refl (s : State) : s.OnlyLog s := ⟨rfl⟩
theorem State.OnlyLog.trans {s t u : State} (h : s.OnlyLog t) (g : t.OnlyLog u) : s.OnlyLog u := ⟨by rw [← h.frame, ← g.frame]⟩
theorem State.OnlyLog.power {s t : State} (h : s.OnlyLog t) : t.power = s.power := (congrArg State.power h.frame : _)
theorem State.OnlyLog.taken {s t : State} (h : s.OnlyLog t) : t.mail.taken = s.mail.taken := (congrArg (fun u : State => u.mail.taken) h.frame : _)

theorem State.pmCopyWords_onlyLog (s : State) : s.OnlyLog s.pmCopyWords := by
  unfold State.pmCopyWords
  split
  · have h : s.OnlyLog (s.pml.words.foldl State.copyWord s) :=
      foldl_keeps s.OnlyLog _ (.refl s) fun w _ u hu => hu.trans ⟨u.pmPlace_posts _ _ _⟩
    exact h.trans ⟨rfl⟩
  · exact .refl s

/-! ## PD03 settles -/

theorem State.finish_taken_subset (s : State) (id status : Nat) (res : List Byte) : (s.finish id status res).mail.taken ⊆ s.mail.taken := by
  have houtq (u : State) (q : List Xfer) : (u.setOutq q).mail.taken = u.mail.taken := by
    unfold State.setOutq
    dsimp only
    split <;> rfl
  unfold State.finish
  split
  · rw [houtq]
    exact List.filter_subset_self _
  · exact List.Subset.refl _

/-- The power controller with nothing planned only answers a command. -/
theorem State.pwrGo_idle {s : State} (h : s.power.plan = []) :
    { s.pwrGo with sdio := s.sdio, mail := s.mail, power := { s.pwrGo.power with cmd := s.power.cmd } } = s ∧ s.pwrGo.mail.taken ⊆ s.mail.taken := by
  have hdone : s.pwrGo = if s.power.settling.isEmpty then { s.finishOpt s.power.cmd 0 (leBytes 8 s.onMask) with power := { s.power with cmd := none } } else s := by
    show s.pwrRun (47 + 1) = _
    unfold State.pwrRun
    rw [h]
  rw [hdone]
  split
  · obtain ⟨u, hu⟩ : ∃ u, u = s.finishOpt s.power.cmd 0 (leBytes 8 s.onMask) := ⟨_, rfl⟩
    have honly : s.OnlyMailbox u ∧ u.mail.taken ⊆ s.mail.taken := by
      rw [hu]
      unfold State.finishOpt
      split
      · exact ⟨s.finish_onlyMailbox _ _ _, s.finish_taken_subset _ _ _⟩
      · exact ⟨⟨fun _ _ => rfl⟩, List.Subset.refl _⟩
    rw [← hu]
    exact ⟨congrArg (fun x : State => { x with power := s.power }) (honly.1.frame s.sdio s.mail), honly.2⟩
  · exact ⟨rfl, List.Subset.refl _⟩

theorem State.takenOp_of_subset {s t : State} {op : Nat} (h : t.mail.taken ⊆ s.mail.taken) (hop : s.takenOp op = none) : t.takenOp op = none :=
  List.find?_eq_none.2 fun x hx => List.find?_eq_none.1 hop x (h hx)

theorem State.pwrGo_of_idle {s : State} (h : s.power.plan = []) :
    s.pwrGo.pml = s.pml ∧ s.pwrGo.power.plan = [] ∧ s.pwrGo.power.wake = s.power.wake ∧ ∀ op, s.takenOp op = none → s.pwrGo.takenOp op = none := by
  obtain ⟨hframe, hsub⟩ := State.pwrGo_idle h
  have hpower : { s.pwrGo.power with cmd := s.power.cmd } = s.power := (congrArg State.power hframe : _)
  exact ⟨(congrArg State.pml hframe : _), (congrArg Power.plan hpower : _).trans h, (congrArg Power.wake hpower : _), fun op => State.takenOp_of_subset hsub⟩

theorem State.pwrSetGo_of_none {s : State} (h : s.takenOp 0x0302 = none) : s.pwrSetGo = s := by
  unfold State.pwrSetGo
  rw [h]

theorem State.wakeGo_of_awake {s : State} (h : s.power.wake = 0) : s.wakeGo = s := by
  unfold State.wakeGo
  rw [h]
  rfl

/-- PD03 becomes usable: the last words are copied from a state that has it on. -/
theorem State.domainUsable_three (s : State) : ∃ u : State, u.pml = s.pml ∧ u.pdOn 3 = true ∧ s.domainUsable 3 = u.pmCopyWords
    ∧ u.power.plan = s.power.plan ∧ u.power.wake = s.power.wake ∧ u.mail = s.mail := by
  have hready : s.domainUsable 3 = s.domainOn 3 := by
    unfold State.domainUsable
    dsimp only
    rw [if_neg (by omega)]
    unfold State.domainReady
    dsimp only
    rw [if_neg (by decide), if_neg (by decide), if_neg (by decide)]
  rw [hready]
  unfold State.domainOn
  extract_lets d0 p0 s0 s1 m0 s2 s3
  have h0 : s0.pml = s.pml ∧ s0.pdOn 3 = true ∧ s0.power.plan = s.power.plan ∧ s0.power.wake = s.power.wake ∧ s0.mail = s.mail := by
    refine ⟨rfl, ?_, rfl, rfl, rfl⟩
    have hon : (if s.pdPow 3 = true then s.on else s.on + 2 ^ 3).testBit 3 = true := by
      split
      · assumption
      · next h =>
        rw [Nat.add_comm, Nat.testBit_two_pow_add_eq, show s.on.testBit 3 = false from Bool.eq_false_iff.2 h]
        rfl
    have hret : (putBits s.power.ret 3 1 0).testBit 3 = false := by rw [testBit_putBits, if_neg (by decide), if_pos (by decide), Nat.zero_testBit]
    rw [State.pdOn, Bool.and_eq_true, Bool.not_eq_true']
    exact ⟨hon, hret⟩
  have h3 : s0.OnlyRegs s3 := by
    have h1 : s0.OnlyRegs s1 := (State.OnlyRegs.of_setF s0 _ _ _).trans (.of_setF _ _ _ _)
    have h2 : s1.OnlyRegs s2 := (State.OnlyRegs.of_setF s1 _ _ _).trans (.of_setF _ _ _ _)
    refine (h1.trans h2).trans ?_
    simp only [s3]
    split
    · exact .of_flagF _ _ _
    · exact .refl _
  rw [if_neg (by decide), if_pos rfl]
  clear_value s3
  obtain ⟨hpml, hon, hplan, hwake, hmail⟩ := h0
  have hpml3 : s3.pml = s0.pml := (congrArg State.pml h3.frame : _)
  refine ⟨{ s3 with mesh := ⟨[], [], []⟩ }, hpml3.trans hpml, (h3.pdOn 3).trans hon, rfl, ?_, ?_, h3.mail.trans hmail⟩
  · rw [← hplan, ← h3.power]
  · rw [← hwake, ← h3.power]

theorem exec_domainSettled_three {s : State} (h3 : 3 ∈ s.power.settling) (hplan : s.power.plan = []) (hwake : s.power.wake = 0)
    (hset : s.takenOp 0x0302 = none) (hload : s.takenOp 0x0201 = none) : ∃ t u : State, exec (.domainSettled 3) s = .next t
      ∧ u.pml = s.pml ∧ t.pml = { (u.pml.words.foldl State.copyWord u).pml with words := [], wordNext := 0 } := by
  obtain ⟨u, hpml, hon, husable, hplan', hwake', hmail⟩ := s.domainUsable_three
  have hlog := u.pmCopyWords_onlyLog
  have hpmlv := u.pmCopyWords_pml hon
  have hdone : domainSettled s 3 = ((u.pmCopyWords.pwrGo).pwrSetGo).wakeGo := by
    have hnone : u.pmCopyWords.takenOp 0x0201 = none := by rw [State.takenOp, hlog.taken, hmail, ← State.takenOp, hload]
    unfold domainSettled
    rw [if_pos h3, if_neg (by omega)]
    dsimp only
    rw [husable, hnone]
  have hnone : u.pmCopyWords.takenOp 0x0302 = none := by rw [State.takenOp, hlog.taken, hmail, ← State.takenOp, hset]
  obtain ⟨gpml, gplan, gwake, gtaken⟩ := State.pwrGo_of_idle (s := u.pmCopyWords) (by rw [hlog.power, hplan', hplan])
  refine ⟨_, u, congrArg Host.Outcome.next hdone, hpml, ?_⟩
  rw [State.pwrSetGo_of_none (gtaken _ hnone), State.wakeGo_of_awake (by rw [gwake, hlog.power, hwake', hwake]), gpml, hpmlv]

/-! ## The clear -/

theorem pmForm_ne_nil (s : State) (p : PmSub) (lw pin : Bool) : s.pmForm p lw pin ≠ [] := by
  unfold State.pmForm
  dsimp only
  intro h
  have hlen := congrArg List.length h
  simp only [List.length_append, leBytes_length, List.length_nil] at hlen
  omega

/-- The state in which the record of a clear is written: both stores are empty (R509). -/
def State.wiped (s : State) : State :=
  { s.took with pml := { s.pml with slots := [], pinned := none, words := [], wordNext := 0, clear := none, nonce := s.pml.nonce + 1 } }

theorem State.pmlClear_good {s : State} (hruns : s.runs 0x0B03 = true) (hok : s.front.ok 16 [] = true) (hq : s.pml.queue = []) (hon : s.pdOn 3 = true)
    (hgood : s.clearGood s.front = true) :
    ∃ t, exec .pmlClear s = .next t ∧ (s.answered t 0 [] ∧ t.pml.slots.length = 1 ∧ t.pml.words = [] ∧ t.pml.pinned = none
      ∧ t.pml.nonce = s.pml.nonce + 1) ∧ { t with sdio := s.sdio, mail := s.mail, pml := s.pml } = s := by
  obtain ⟨p, hp, hplain⟩ : ∃ p : PmSub, p = ⟨0x8, s.pmSource, false, 0, 0, s.pmRecords, []⟩ ∧ p.fatal = false := ⟨_, rfl, rfl⟩
  have hdone : exec .pmlClear s = .next ((s.wiped.pmWrite p).finish s.front.id 0 []) := by
    rw [exec_of_runs hruns]
    unfold pmlClearEff
    rw [if_neg (by rw [hok]; decide)]
    dsimp only
    refine congrArg Host.Outcome.next ((if_pos hgood).trans ?_)
    rw [if_pos (show s.took.pml.queue.isEmpty = true from List.isEmpty_iff.2 hq)]
    unfold State.pmClearRun
    dsimp only
    rw [if_pos (show s.took.pml.queue.length = 0 from List.length_eq_zero_iff.2 hq), hp]
    rfl
  have hlog := s.wiped.pmCommit_logged p
  rw [s.wiped.pmWrite_primary p hon] at hdone
  generalize s.wiped.pmCommit p = v at *
  have hmail : { v.mail with posts := s.mail.posts } = s.took.mail := (congrArg State.mail hlog.frame : _)
  have hfin := v.finish_onlyMailbox s.front.id 0 []
  have hpml : (v.finish s.front.id 0 []).pml = s.wiped.committed p := hfin.pml.trans hlog.pml
  have hslots : s.wiped.pmForm p false (s.wiped.pml.pinned.isNone && p.fatal) ≠ [] := pmForm_ne_nil _ _ _ _
  refine ⟨_, hdone, ⟨State.finish_answered hruns (congrArg (fun u : State => u.sdio.cmdCi) hlog.frame : _) (congrArg Mail.taken hmail : _)
    (congrArg Mail.replies hmail : _) (congrArg (fun u : State => u.replyVer) hlog.frame : _), ?_, ?_, ?_, ?_⟩, ?_⟩
  · rw [hpml, State.committed_slots, SMap.set, if_neg hslots]
    rfl
  · rw [hpml]
    rfl
  · rw [hpml]
    show (if _ && p.fatal then _ else none) = none
    rw [hplain, Bool.and_false]
    rfl
  · rw [hpml]
    rfl
  · have h1 := congrArg (fun u : State => { u with pml := s.pml }) (hfin.frame s.sdio s.mail)
    have h2 : { v with sdio := s.sdio, mail := s.mail, pml := s.pml } = s :=
      congrArg (fun u : State => { u with sdio := s.sdio, mail := s.mail, pml := s.pml }) hlog.frame
    exact Eq.trans h1 h2

theorem State.pmlClear_bad {s : State} (hruns : s.runs 0x0B03 = true) (hok : s.front.ok 16 [] = true) (hgood : s.clearGood s.front = false) :
    ∃ t, exec .pmlClear s = .next t ∧ (s.answered t 0x0702 [] ∧ t.pml = s.pml) ∧ { t with sdio := s.sdio, mail := s.mail, pml := s.pml } = s := by
  have hdone : exec .pmlClear s = .next (s.took.finish s.front.id 0x0702 []) := by
    rw [exec_of_runs hruns]
    unfold pmlClearEff
    rw [if_neg (by rw [hok]; decide)]
    dsimp only
    exact congrArg Host.Outcome.next (if_neg (Bool.eq_false_iff.1 hgood))
  obtain ⟨t, hexec, hans, hframe⟩ := exec_of_finish hdone hruns
  exact ⟨t, hexec, ⟨hans, (congrArg State.pml (hframe s.sdio s.mail) : _)⟩, congrArg (fun u : State => { u with pml := s.pml }) (hframe s.sdio s.mail)⟩

section
variable {s : State} {p : PmSub} {q : List PmSub}

/-- The bytes of a record do not depend on the queue. -/
theorem State.pmForm_dequeued (lw pin : Bool) : (s.dequeued q).pmForm p lw pin = s.pmForm p lw pin := by
  have hwall : (s.dequeued q).wallTime = s.wallTime := rfl
  have hfw : (s.dequeued q).fwVersion = s.fwVersion := rfl
  unfold State.pmForm
  rw [hwall, hfw]
  rfl

/-- A record committed in the primary store. -/
theorem State.postmarkCommit_primary {slot : Nat} (hst : s.chip.st ≠ .off) (hq : s.pml.queue = p :: q) (hon : s.pdOn 3 = true) (hclear : s.pml.clear = none)
    (hslot : slot = s.pmSlot) : ∃ t, exec .postmarkCommit s = .next t ∧ t.pml.queue = q ∧ t.pml.newest = slot ∧ t.pml.seq = (s.pml.seq + 1) % 2 ^ 32
      ∧ SMap.get [] t.pml.slots slot = s.pmForm p false (s.pml.pinned.isNone && p.fatal)
      ∧ (∀ i, i ≠ slot → SMap.get [] t.pml.slots i = SMap.get [] s.pml.slots i)
      ∧ (∀ i, s.pml.pinned = some i → t.pml.pinned = some i ∧ slot ≠ i)
      ∧ (s.pml.pinned = none → t.pml.pinned = (if p.fatal = true then some slot else none)) ∧ { t with pml := s.pml, mail := s.mail } = s := by
  have hlog := (s.dequeued q).pmCommit_logged p
  obtain ⟨hexec, hframe⟩ := exec_postmarkCommit hst hq hclear ((s.dequeued q).pmWrite_primary p hon) hlog rfl
  have hpml := hlog.pml
  have hpinned : ((s.dequeued q).committed p).pinned = if s.pml.pinned.isNone && p.fatal then some slot else s.pml.pinned := by
    rw [hslot]
    rfl
  have hslots : ((s.dequeued q).committed p).slots = SMap.set [] s.pml.slots slot (s.pmForm p false (s.pml.pinned.isNone && p.fatal)) := by
    rw [State.committed_slots, State.pmForm_dequeued, hslot]
    rfl
  refine ⟨_, hexec, by rw [hpml]; rfl, by rw [hpml, hslot]; rfl, by rw [hpml]; rfl, by rw [hpml, hslots, SMap.get_set_self], fun i hi => ?_, fun i hi => ?_,
    fun hi => ?_, hframe⟩
  · rw [hpml, hslots, SMap.get_set_ne _ _ _ hi.symm]
  · rw [hpml, hpinned, hi]
    exact ⟨rfl, hslot ▸ s.pmSlot_ne_pinned hi⟩
  · rw [hpml, hpinned, hi]
    rfl

/-- A record committed in the last-words store. -/
theorem State.postmarkCommit_lastWords (hst : s.chip.st ≠ .off) (hq : s.pml.queue = p :: q) (hon : s.pdOn 3 = false) (hclear : s.pml.clear = none)
    (hlen : s.pml.words.length < 64) : ∃ t, exec .postmarkCommit s = .next t ∧ t.pml.queue = q ∧ t.pml.slots = s.pml.slots
      ∧ t.pml.words = s.pml.words ++ [(s.pml.wordNext, s.pmForm p true false)] ∧ { t with pml := s.pml, mail := s.mail } = s := by
  have hlog := (s.dequeued q).pmWord_logged p hlen
  obtain ⟨hexec, hframe⟩ := exec_postmarkCommit hst hq hclear ((s.dequeued q).pmWrite_lastWords p hon) hlog rfl
  exact ⟨_, hexec, by rw [hlog.pml]; rfl, by rw [hlog.pml]; rfl, by rw [hlog.pml]; rfl, hframe⟩

end

/-- SET_TIME keeps the time it is given. -/
theorem State.setTime_keeps {s : State} (hruns : s.runs 0x0B04 = true) (hok : s.front.ok 8 [] = true) :
    ∃ t, exec .setTime s = .next t ∧ s.answered t 0 [] ∧ t.pml = { s.pml with wall := some (s.front.fld 0 8, s.now) }
      ∧ { t with sdio := s.sdio, mail := s.mail, pml := s.pml } = s := by
  have hdone : exec .setTime s = .next ({ s.took with pml := { s.pml with wall := some (s.front.fld 0 8, s.now) } }.finish s.front.id 0 []) := by
    rw [exec_of_runs hruns]
    unfold setTimeEff
    rw [hok]
    rfl
  obtain ⟨t, hexec, hans, hframe⟩ := exec_of_finish hdone hruns
  exact ⟨t, hexec, hans, (congrArg State.pml (hframe s.sdio s.mail) : _), congrArg (fun u : State => { u with pml := s.pml }) (hframe s.sdio s.mail)⟩

/-- Settles O35. -/
theorem postmarkLog : Obligations.PostmarkLog := by
  refine ⟨fun s p q slot hst hq hon hclear hslot => State.postmarkCommit_primary hst hq hon hclear hslot,
    fun s p q hst hq hon hclear hlen => State.postmarkCommit_lastWords hst hq hon hclear hlen,
    fun s h3 hplan hwake hset hload hpin hnext hlen hplain => ?_, fun s i r h3 hplan hwake hset hload hpin hwords hfatal => ?_,
    fun s hruns hok => State.setTime_keeps hruns hok, fun s hruns hok hq hon => ?_⟩
  · obtain ⟨t, u, hexec, hpml, hdone⟩ := exec_domainSettled_three h3 hplan hwake hset hload
    obtain ⟨hpinned, hcopied, hkept⟩ := copyWords_plain (ws := u.pml.words) (u := u) (by rw [hpml, hpin]) (by rw [hpml]; exact hnext)
      (by rw [hpml]; omega) (by rw [hpml]; exact hplain)
    refine ⟨t, hexec, by rw [hdone], by rw [hdone, ← hpinned], fun k w hk => ?_, fun i hi => ?_⟩
    · rw [hdone, ← hcopied k w (by rw [hpml, hk]), hpml]
    · rw [hdone, ← congrArg (fun x : Pml => SMap.get [] x.slots i) hpml]
      exact hkept i (by rw [hpml]; exact hi)
  · obtain ⟨t, u, hexec, hpml, hdone⟩ := exec_domainSettled_three h3 hplan hwake hset hload
    have hslot : u.pmSlot = s.pml.next := by rw [State.pmSlot, hpml, hpin, if_neg (by simp)]
    have hplaced : (u.pml.words.foldl State.copyWord u).pml = u.placed (pmReseal r true) true := by
      rw [hpml, hwords, List.foldl_cons, List.foldl_nil, State.copyWord, hfatal, hpml, hpin, State.pmPlace_pml]
      rfl
    rw [hplaced] at hdone
    refine ⟨t, hexec, by rw [hdone], ?_, ?_⟩
    · rw [hdone, State.placed, hslot, hpml, hpin]
      rfl
    · rw [hdone, State.placed, hslot]
      exact SMap.get_set_self _ _ _ _
  · by_cases hgood : s.clearGood s.front = true
    · obtain ⟨t, hexec, hdone, hframe⟩ := State.pmlClear_good hruns hok hq hon hgood
      exact ⟨t, hexec, by rwa [if_pos hgood], hframe⟩
    · obtain ⟨t, hexec, hdone, hframe⟩ := State.pmlClear_bad hruns hok (Bool.eq_false_iff.2 hgood)
      exact ⟨t, hexec, by rwa [if_neg hgood], hframe⟩

end Sys2Proof.Machine
end


section
/-! PROOFS. O31: SLEEP, its entry and the wake (R411, R520, R521). -/

namespace Sys2Proof.Machine

/-! ## The command -/

/-- SLEEP alone answers, and stays in progress. -/
theorem State.sleepReply_of_alone {u : State} {x : Taken} (htaken : u.mail.taken = [x]) (hop : x.op = 0x0303) (hstage : x.stage = 0)
    (hreplies : u.mail.replies = []) : u.sleepReply.mail.taken = [{ x with stage := 1 }] ∧ u.sleepReply.sdio = u.sdio
      ∧ u.sleepReply.mail.replies = [replyBytes u.replyVer 0x0303 x.tag x.seq 0 []] ∧ u.OnlyMailbox u.sleepReply := by
  have hdone : u.sleepReply = (u.queueReply x.op x.tag x.seq 0 []).setTaken { x with stage := 1 } := by
    unfold State.sleepReply
    rw [htaken]
    exact if_pos ⟨hop, hstage, hreplies⟩
  rw [hdone]
  refine ⟨?_, rfl, ?_, ⟨fun _ _ => rfl⟩⟩
  · show (u.mail.taken.map fun y => if y.id = x.id then { x with stage := 1 } else y) = _
    rw [htaken]
    exact congrArg (fun y => [y]) (if_pos rfl)
  · show u.mail.replies ++ [replyBytes u.replyVer x.op x.tag x.seq 0 []] = _
    rw [hreplies, hop]
    rfl

theorem State.sleepReply_of_others {u : State} (h : u.mail.taken.length ≠ 1 ∨ u.mail.replies ≠ []) : u.sleepReply = u := by
  unfold State.sleepReply
  split
  · next x hx => exact if_neg fun hc => h.elim (fun h => h (by rw [hx]; rfl)) fun h => h hc.2.2
  · rfl

section
variable {s : State}

theorem exec_sleep (hruns : s.runs 0x0303 = true) (hok : s.front.ok 0 [] = true) : exec .sleep s =
    .next (if (s.took.sleepReply.takenBy s.front.id).map Taken.stage = some 0 then s.took.sleepReply.goesOn s.front else s.took.sleepReply) := by
  rw [exec_of_runs hruns]
  unfold sleepEff
  rw [hok]
  rfl

theorem State.sleep_replies (hruns : s.runs 0x0303 = true) (hok : s.front.ok 0 [] = true) (htaken : s.mail.taken = []) (hreplies : s.mail.replies = []) :
    ∃ t, exec .sleep s = .next t ∧ t.mail.taken = [{ s.front with stage := 1 }] ∧ t.sdio.cmdCi = (s.sdio.cmdCi + 1) % 64
      ∧ t.mail.replies = [replyBytes s.replyVer 0x0303 s.front.tag s.front.seq 0 []] ∧ { t with sdio := s.sdio, mail := s.mail } = s := by
  have hop : s.front.op = 0x0303 := ((s.runs_iff _).1 hruns).1
  have hlist : s.took.mail.taken = [s.front] := by
    show s.mail.taken ++ [s.front] = _
    rw [htaken]
    rfl
  obtain ⟨htaken', hsdio, hreplies', honly⟩ := State.sleepReply_of_alone hlist hop rfl hreplies
  have hexec := exec_sleep hruns hok
  generalize s.took.sleepReply = u at *
  have hstage : (u.takenBy s.front.id).map Taken.stage ≠ some 0 := by
    rw [State.takenBy, htaken', List.find?_cons_of_pos (by exact decide_eq_true rfl)]
    exact fun h => absurd (Option.some.inj h) (Nat.succ_ne_zero 0)
  rw [if_neg hstage] at hexec
  exact ⟨u, hexec, htaken', by rw [hsdio]; rfl, hreplies', honly.frame s.sdio s.mail⟩

theorem State.sleep_waits (hruns : s.runs 0x0303 = true) (hok : s.front.ok 0 [] = true) (hbusy : s.mail.taken ≠ [] ∨ s.mail.replies ≠ []) :
    ∃ t, exec .sleep s = .next t ∧ s.underway t ∧ { t with sdio := s.sdio, mail := s.mail, free := s.free } = s := by
  have hsame : s.took.sleepReply = s.took := State.sleepReply_of_others (hbusy.imp_left fun h => by
    show (s.mail.taken ++ [s.front]).length ≠ 1
    rw [List.length_append, List.length_singleton]
    have := List.length_pos_iff.2 h
    omega)
  have hexec := exec_sleep hruns hok
  have htaken := State.takenBy_took ((Mail.fresh_iff _).1 ((s.runs_iff _).1 hruns).2.2.2.2.2).1
  rw [hsame, show s.took.takenBy s.front.id = some s.front from htaken, if_pos (by rfl)] at hexec
  have hpending := s.took.goesOn_onlyPending s.front
  exact ⟨_, hexec, State.underway_of hpending, hpending.rest s.sdio s.mail s.free⟩

end

/-! ## The wake -/

/-- The wake command begins with PD03. -/
theorem State.wakeStart_leaves {s : State} (hst : s.chip.st = .sleep) (hwake : s.power.wake = 0) (h3 : s.pdPow 3 = false) :
    ∃ t, exec .sdiHostctlWake s = .next t ∧ t.power.wake = 1 ∧ 3 ∈ t.power.settling ∧ t.mail.sess = s.mail.sess ∧ t.mail.taken = []
      ∧ t.sdio.cmdDb = 0 ∧ t.sdio.cmdCi = 0 ∧ { t with power := s.power, mail := s.mail, sdio := s.sdio, job := s.job } = s := by
  have hreset : (s.mailReset false).mail.sess = s.mail.sess ∧ (s.mailReset false).mail.taken = [] ∧ (s.mailReset false).sdio.cmdDb = 0
      ∧ (s.mailReset false).sdio.cmdCi = 0 ∧ (s.mailReset false).power = s.power ∧ (s.mailReset false).on = s.on
      ∧ { s.mailReset false with mail := s.mail, sdio := s.sdio, job := s.job } = s := by
    unfold State.mailReset
    extract_lets u
    have hu : u.mail = s.mail ∧ u.power = s.power ∧ u.on = s.on ∧ { u with job := s.job } = s := by
      simp only [u]
      split <;> exact ⟨rfl, rfl, rfl, rfl⟩
    obtain ⟨hmail, hpower, hon, hframe⟩ := hu
    clear_value u
    refine ⟨by rw [← hmail]; rfl, rfl, rfl, rfl, hpower, hon, ?_⟩
    exact congrArg (fun x : State => { x with mail := s.mail, sdio := s.sdio }) hframe
  have hdone : s.wakeStart = State.powerUp { s.mailReset false with power := { (s.mailReset false).power with wake := 1 } } 3 := by
    unfold State.wakeStart
    rw [if_pos (by simp [State.isIn, hst, hwake])]
  have hexec : exec .sdiHostctlWake s = .next s.wakeStart := rfl
  rw [hdone] at hexec
  obtain ⟨hsess, htaken, hdb, hci, hpower, hon, hframe⟩ := hreset
  generalize s.mailReset false = u at *
  obtain ⟨v, hv, hvpow, hvframe⟩ : ∃ v : State, v = { u with power := { u.power with wake := 1 } } ∧ v.power = { s.power with wake := 1 }
    ∧ { v with power := u.power } = u := ⟨_, rfl, by rw [hpower], rfl⟩
  rw [← hv] at hexec
  have hvpd : v.pdPow 3 = false := by rw [State.pdPow, hv]; exact (congrArg (fun n => n.testBit 3) hon).trans h3
  have hvmail : v.mail = u.mail ∧ v.sdio = u.sdio := by rw [hv]; exact ⟨rfl, rfl⟩
  clear hv
  have hup : (v.powerUp 3).power.wake = 1 ∧ 3 ∈ (v.powerUp 3).power.settling ∧ { v.powerUp 3 with power := v.power } = v := by
    unfold State.powerUp
    split
    · next h => exact ⟨by rw [hvpow], h.resolve_left (by rw [hvpd]; exact Bool.false_ne_true), rfl⟩
    · exact ⟨by rw [hvpow], List.mem_append_right _ List.mem_cons_self, rfl⟩
  obtain ⟨hwk, hset, hfr⟩ := hup
  generalize v.powerUp 3 = t at *
  have hmail : t.mail = u.mail := (congrArg State.mail hfr : _).trans hvmail.1
  have hsdio : t.sdio = u.sdio := (congrArg State.sdio hfr : _).trans hvmail.2
  refine ⟨t, hexec, hwk, hset, by rw [hmail, hsess], by rw [hmail, htaken], by rw [hsdio, hdb], by rw [hsdio, hci], ?_⟩
  have h1 : { t with power := s.power, mail := s.mail, sdio := s.sdio, job := s.job } = { u with power := s.power, mail := s.mail, sdio := s.sdio, job := s.job } := by
    have h2 := congrArg (fun x : State => { x with power := s.power, mail := s.mail, sdio := s.sdio, job := s.job }) hfr
    exact Eq.trans h2 (congrArg (fun x : State => { x with power := s.power, mail := s.mail, sdio := s.sdio, job := s.job }) hvframe)
  rw [h1]
  exact congrArg (fun x : State => { x with power := s.power }) hframe

/-- A transition between states with self-test leaves the slice alone. -/
theorem State.goChip_turns {s : State} {st : ChipSt} (h : st ∈ bistStates) : State.Wrapup { s with chip := s.chip.turned st } (s.goChip st) := by
  unfold State.goChip
  rw [if_pos h]
  extract_lets s0 c p s1
  have h1 : State.Wrapup { s with chip := s.chip.turned st } s1 := (State.Wrapup.refl { s with chip := s.chip.turned st }).noRet
  clear_value s1
  exact h1.postEvent.setInt

theorem State.goReady_turns (s : State) : State.Wrapup { s with chip := s.chip.turned .ready } s.goReady := (State.goChip_turns (by decide)).hznWake

theorem State.pwrGo_of_nothing {s : State} (hplan : s.power.plan = []) (hcmd : s.power.cmd = none) : s.pwrGo = s := by
  show s.pwrRun (47 + 1) = _
  unfold State.pwrRun
  rw [hplan]
  dsimp only
  rw [hcmd]
  split
  · have hpower : { s.power with cmd := none } = s.power := by rw [← hcmd]
    show { s with power := { s.power with cmd := none } } = s
    rw [hpower]
  · rfl

theorem State.protPigeon_onlyRegs (s : State) : s.OnlyRegs s.protPigeon := by
  unfold State.protPigeon
  exact foldl_keeps s.OnlyRegs _ ((State.OnlyRegs.of_setReg s _ _).trans (.of_setReg _ _ _)) fun i _ u hu => hu.trans (.of_setReg u _ _)

theorem onesOf_below {n : Nat} (h : n < 16) : (onesOf 40 n).filter (fun d => decide (4 ≤ d)) = [] := by
  refine List.filter_eq_nil_iff.2 fun d hd hle => ?_
  have hbit := (List.mem_filter.1 hd).2
  have hlarge : n < 2 ^ d := h.trans_le (Nat.pow_le_pow_right (by decide) (of_decide_eq_true hle) : 2 ^ 4 ≤ 2 ^ d)
  rw [Nat.testBit_lt_two_pow hlarge] at hbit
  exact Bool.false_ne_true hbit

section
variable {s : State}

/-- The wake ends once the firmware is verified and no domain waits. -/
theorem State.wakeVerified_good (hst : s.chip.st = .sleep) (hwake : s.power.wake = 3) (hsettling : s.power.settling = []) (hrestoring : s.power.restoring = [])
    (hlo : s.getF pwrBase F.PWR_SLEEP_LO_ON < 16) (hhi : s.getF pwrBase F.PWR_SLEEP_HI_ON = 0) (hgood : s.fwFails s.store.running = none) :
    (wakeVerified s).power.wake = 0 ∧ (wakeVerified s).chip.prev = .sleep ∧ (wakeVerified s).chip.st = .ready := by
  obtain ⟨u, hdone, hpower, hchip⟩ : ∃ u : State, wakeVerified s = (u.protPigeon.pwrGo).wakeGo
      ∧ u.power = { s.power with wake := 4, plan := [], cmd := none } ∧ u.chip = s.chip := by
    refine ⟨{ s with power := { s.power with wake := 4, plan := [], cmd := none } }, ?_, rfl, rfl⟩
    unfold wakeVerified
    rw [if_pos ⟨hst, hwake⟩, hgood, hhi]
    dsimp only
    rw [Nat.mul_zero, Nat.add_zero, onesOf_below hlo]
    rfl
  have honly := u.protPigeon_onlyRegs
  generalize u.protPigeon = v at *
  have hv : v.power = { s.power with wake := 4, plan := [], cmd := none } := honly.power.trans hpower
  have hvchip : v.chip = s.chip := honly.chip.trans hchip
  rw [hdone, State.pwrGo_of_nothing (by rw [hv]) (by rw [hv])]
  have hgo : v.wakeGo = State.goReady { v with power := { v.power with wake := 0 } } := by
    unfold State.wakeGo
    have hw : v.power.wake = 4 := by rw [hv]
    rw [if_neg (by rw [hw]; exact fun h => absurd h.1 (by decide)), if_neg (by rw [hw]; exact fun h => absurd h.1 (by decide)), if_pos ⟨by rw [hv], by rw [hv], by rw [hv]; exact hsettling, by rw [hv]; exact hrestoring⟩]
  have hturn := State.goReady_turns { v with power := { v.power with wake := 0 } }
  rw [← hgo] at hturn
  refine ⟨hturn.wake, ?_, ?_⟩
  · rw [hturn.chip]
    exact (congrArg Chip.st hvchip).trans hst
  · rw [hturn.chip]
    rfl

theorem fwCheck_small {h img : List Byte} {n c st : Nat} (hc : fwCheck h n img = some (c, st)) : c < 8 := by
  unfold fwCheck at hc
  dsimp only at hc
  split_ifs at hc <;> · cases hc; decide

/-- A firmware that fails its check ends the wake in FAULTED. -/
theorem State.wakeVerified_bad {c st : Nat} (hst : s.chip.st = .sleep) (hwake : s.power.wake = 3) (hbad : s.fwFails s.store.running = some (c, st)) :
    (wakeVerified s).power.wake = 0 ∧ (wakeVerified s).chip.prev = .sleep ∧ (wakeVerified s).chip.st = .faulted ∧ (wakeVerified s).errs.rom = true
      ∧ (wakeVerified s).getF secBase F.SEC_VERIFY_FAIL_CHECK = c := by
  obtain ⟨u, hdone, hpower, hchip⟩ : ∃ u : State, wakeVerified s = ((u.fwNote c st true).pmSubmit ⟨0x4, 2, true, 0, 0, st, []⟩).romFault 0x95
      ∧ u.power.wake = 0 ∧ u.chip.st = .sleep := by
    refine ⟨{ s with power := { s.power with wake := 0 } }, ?_, rfl, hst⟩
    unfold wakeVerified
    rw [if_pos ⟨hst, hwake⟩, hbad]
  have hcheck : (u.fwNote c st true).getF secBase F.SEC_VERIFY_FAIL_CHECK = c := by
    rw [State.fwNote, State.getF_setF_of_apart _ _ _ (by decide) (by decide), State.getF_setF_self _ _ _ _ (by decide)]
    exact Nat.mod_eq_of_lt ((fwCheck_small hbad).trans_le (by decide))
  have hnote : u.OnlyRegs (u.fwNote c st true) := ((State.OnlyRegs.of_setF u _ _ _).trans (.of_setF _ _ _ _)).trans (.of_setF _ _ _ _)
  generalize u.fwNote c st true = v at *
  have hsub := (State.Wrapup.refl v).pmSubmit (p := ⟨0x4, 2, true, 0, 0, st, []⟩)
  generalize v.pmSubmit ⟨0x4, 2, true, 0, 0, st, []⟩ = w at *
  obtain ⟨x, hx, hxregs, hxpow, hxchip, hxrom⟩ : ∃ x : State, x = { w with errs := { w.errs with pin := some (3 + 0x1220 * 4 + 0x95 * 2 ^ 16, 1), rom := true } }
    ∧ x.regs = w.regs ∧ x.power = w.power ∧ x.chip = w.chip ∧ x.errs.rom = true := ⟨_, rfl, rfl, rfl, rfl, rfl⟩
  have hrom : w.romFault 0x95 = x.enterFaulted false := by rw [hx]; rfl
  clear hx
  have hend := x.enterFaulted_leaves false
  rw [hdone, hrom]
  generalize x.enterFaulted false = t at *
  have hprev : x.chip.st = .sleep := by rw [hxchip, hsub.chip, hnote.chip, hchip]
  refine ⟨?_, ?_, ?_, ?_, ?_⟩
  · rw [hend.wake]
    show x.power.wake = 0
    rw [hxpow, hsub.wake, hnote.power, hpower]
  · rw [hend.chip]
    exact hprev
  · rw [hend.chip]
    rfl
  · exact (congrArg Errs.rom hend.errs : _).trans hxrom
  · have hnow : (x.faultedNow false).regs = w.regs := hxregs
    rw [State.getF, hend.reg _ (Or.inr (by decide)), State.reg_of_regs hnow,
      hsub.reg _ (Or.inr (by decide)), ← State.getF, hcheck]

end

/-! ## Domains that are switched off -/

/-- t differs from s at most in what a domain that loses its power takes with it. -/
structure State.Dimmed (s t : State) : Prop where
  frame : { t with
    regs := s.regs, cad := s.cad, macros := s.macros, blocks := s.blocks, regions := s.regions, hbmQ := s.hbmQ, cour := s.cour
    pml := s.pml, nim := s.nim, bist := s.bist, net := s.net, mesh := s.mesh, flips := s.flips
    power := { t.power with saved := s.power.saved, restoring := s.power.restoring, ret := s.power.ret }
    mem := { t.mem with rows := s.mem.rows, acc := s.mem.acc, spd := s.mem.spd, pigeon := s.mem.pigeon } } = s
  reg : ∀ a, a < 0x10000000 → t.reg a = s.reg a

section
variable {s t : State}

theorem State.Dimmed.refl (s : State) : s.Dimmed s := ⟨rfl, fun _ _ => rfl⟩
theorem State.Dimmed.trans {u : State} (h : s.Dimmed t) (g : t.Dimmed u) : s.Dimmed u :=
  ⟨by rw [← h.frame, ← g.frame], fun a ha => (g.reg a ha).trans (h.reg a ha)⟩
theorem State.Dimmed.foldl {α : Type} {f : State → α → State} {l : List α} (hs : s.Dimmed t) (hf : ∀ u x, s.Dimmed u → s.Dimmed (f u x)) :
    s.Dimmed (l.foldl f t) := foldl_keeps s.Dimmed f hs fun x _ u hu => hf u x hu

theorem State.Dimmed.chip (h : s.Dimmed t) : t.chip = s.chip := (congrArg State.chip h.frame : _)
theorem State.Dimmed.img (h : s.Dimmed t) : t.img = s.img := (congrArg State.img h.frame : _)
theorem State.Dimmed.mail (h : s.Dimmed t) : t.mail = s.mail := (congrArg State.mail h.frame : _)
theorem State.Dimmed.mem (h : s.Dimmed t) :
    { t.mem with rows := s.mem.rows, acc := s.mem.acc, spd := s.mem.spd, pigeon := s.mem.pigeon } = s.mem := (congrArg State.mem h.frame : _)
theorem State.Dimmed.power (h : s.Dimmed t) :
    { t.power with saved := s.power.saved, restoring := s.power.restoring, ret := s.power.ret } = s.power := (congrArg State.power h.frame : _)

theorem State.Dimmed.setF (h : s.Dimmed t) {base : Nat} {f : Fld} {v : Nat} (hb : 0x10000000 ≤ base) : s.Dimmed (t.setF base f v) :=
  h.trans ⟨(State.OnlyRegs.of_setF t base f v).frame ▸ rfl, fun a ha => t.reg_setF_of_ne base v f (by omega)⟩

theorem State.Dimmed.portOff (h : s.Dimmed t) {p : Nat} : s.Dimmed (t.portOff p) := by
  unfold State.portOff
  dsimp only
  have hcour : s.Dimmed { t.inboxLeft p with cour := { (t.inboxLeft p).cour with ports := SMap.set Port.init (t.inboxLeft p).cour.ports p Port.init } } :=
    h.trans ⟨rfl, fun _ _ => rfl⟩
  exact hcour.setF (by simp only [curBase]; omega)

theorem State.Dimmed.stopClock (h : s.Dimmed t) {r : Nat} : s.Dimmed (t.stopClock r) := by
  unfold State.stopClock
  have hset : s.Dimmed (t.setRx r { t.rx r with chg := none, queued := none, win := 0, planes := [], hit := none, resumed := [] }) :=
    h.trans ⟨rfl, fun _ _ => rfl⟩
  have hbase : 0x10000000 ≤ rgnBase r := by simp only [rgnBase]; omega
  exact (hset.setF hbase).setF hbase

theorem State.Dimmed.withOn (h : s.Dimmed t) (n : Nat) : State.Dimmed { s with on := n } { t with on := n } :=
  ⟨(congrArg (fun x : State => { x with on := n }) h.frame : _), h.reg⟩

theorem State.saveBlocks_dimmed (s : State) (l : List Nat) : s.Dimmed (l.foldl State.saveBlock s) := by
  have hsave (u : State) (b : Nat) : u.Dimmed (u.saveBlock b) := by
    unfold State.saveBlock
    exact ⟨rfl, fun _ _ => rfl⟩
  exact (State.Dimmed.refl s).foldl fun u b hu => hu.trans (hsave u b)

theorem State.dropMacros_dimmed (s : State) (r : Nat) : s.Dimmed (s.dropMacros r) := by
  unfold State.dropMacros
  exact ⟨rfl, fun _ _ => rfl⟩

theorem State.Dimmed.withScratch (h : s.Dimmed t) (m : Mem) (f : Flips) (r : SMap RegionX) :
    s.Dimmed { t with regions := r, mem := { t.mem with spd := m }, flips := f } := h.trans ⟨rfl, fun _ _ => rfl⟩

/-- A domain that loses its power takes only what lies in it. -/
theorem State.domainCut_dimmed (s : State) (d : Nat) : State.Dimmed { s with on := s.on - 2 ^ d } (s.domainCut d) := by
  unfold State.domainCut
  extract_lets s1 p1 c1 s2 s3 r s4 m1 f1 m2 x1 c2
  have h1 : s.Dimmed s1 := by
    simp only [s1]
    split
    · exact (s.saveBlocks_dimmed (rgnBlocks (d - 4))).stopClock
    · exact .refl s
  have hon : s1.on = s.on := (congrArg State.on h1.frame : _)
  have h2 : State.Dimmed { s with on := s.on - 2 ^ d } s2 := by
    have hcut := h1.withOn (s.on - 2 ^ d)
    simp only [s2]
    rw [hon]
    exact hcut.trans ⟨rfl, fun _ _ => rfl⟩
  have h4 : State.Dimmed { s with on := s.on - 2 ^ d } s4 := h2.foldl fun u b hu => hu.trans ⟨rfl, fun _ _ => rfl⟩
  have hkeep {u v : State} (hu : State.Dimmed { s with on := s.on - 2 ^ d } u) (hv : u.Dimmed v) := hu.trans hv
  have h3 : State.Dimmed { s with on := s.on - 2 ^ d } s3 := h2.trans (s2.dropMacros_dimmed (d - 4))
  clear_value s2 s3 s4
  split_ifs
  · exact h3.foldl fun u b hu => hkeep hu ⟨rfl, fun _ _ => rfl⟩
  · exact h4.withScratch _ _ _
  · exact hkeep h2 ⟨rfl, fun _ _ => rfl⟩
  · exact hkeep h2 ⟨rfl, fun _ _ => rfl⟩
  · exact h2.foldl fun u p hu => hu.portOff
  · exact hkeep h2 ⟨rfl, fun _ _ => rfl⟩
  · exact h2

end

theorem testBit_sub_two_pow {n d : Nat} (h : n.testBit d = true) (e : Nat) : (n - 2 ^ d).testBit e = (decide (e ≠ d) && n.testBit e) := by
  have hle : 2 ^ d ≤ n := Nat.ge_two_pow_of_testBit h
  obtain ⟨m, rfl⟩ : ∃ m, n = 2 ^ d + m := ⟨n - 2 ^ d, by omega⟩
  rw [Nat.add_sub_cancel_left]
  rw [Nat.testBit_two_pow_add_eq, Bool.not_eq_true'] at h
  rcases Nat.lt_trichotomy e d with he | rfl | he
  · rw [Nat.testBit_two_pow_add_gt he, decide_eq_true (by omega), Bool.true_and]
  · rw [h, decide_eq_false (by simp), Bool.false_and]
  · obtain ⟨k, rfl⟩ : ∃ k, e = d + 1 + k := ⟨e - (d + 1), by omega⟩
    have hdiv (x : Nat) : x / 2 ^ (d + 1 + k) = x / 2 ^ d / 2 / 2 ^ k := by rw [Nat.pow_add, Nat.pow_succ, ← Nat.div_div_eq_div_mul, ← Nat.div_div_eq_div_mul]
    have hhalf : (2 ^ d + m) / 2 ^ d / 2 = m / 2 ^ d / 2 := by
      rw [Nat.testBit_eq_decide_div_mod_eq, decide_eq_false_iff_not] at h
      rw [Nat.add_div_left _ (Nat.two_pow_pos d)]
      omega
    rw [decide_eq_true (by omega), Bool.true_and, Nat.testBit_eq_decide_div_mod_eq, Nat.testBit_eq_decide_div_mod_eq, hdiv, hdiv, hhalf]

theorem SMap.get_of_only {α : Type} {d v : α} {m : SMap α} {a : Nat} (hm : ∀ e ∈ m, e.1 = a → e.2 = v) (hd : (∀ e ∈ m, e.1 ≠ a) → d = v) :
    SMap.get d m a = v := by
  induction m with
  | nil => exact hd fun e he => absurd he List.not_mem_nil
  | cons e m ih =>
    obtain ⟨k, w⟩ := e
    rw [SMap.get]
    split
    · next hk => exact hm _ List.mem_cons_self hk
    · next hk =>
      refine ih (fun e he => hm e (List.mem_cons_of_mem _ he)) fun hnone => hd fun e he => ?_
      rcases List.mem_cons.1 he with rfl | he
      · exact hk
      · exact hnone e he

theorem State.domainOff_leaves (s : State) (d : Nat) : State.Dimmed { s with on := (s.domainOff d).on } (s.domainOff d)
    ∧ ∀ e, (s.domainOff d).pdPow e = (decide (e ≠ d) && s.pdPow e) := by
  unfold State.domainOff
  split
  · next hd =>
    have hcut := s.domainCut_dimmed d
    generalize s.domainCut d = u at *
    have hon : u.on = s.on - 2 ^ d := (congrArg State.on hcut.frame : _)
    have hdrop : u.Dimmed u.sliceDrop := by
      unfold State.sliceDrop
      split
      · exact ⟨rfl, fun _ _ => rfl⟩
      · exact .refl u
    have hdropOn : u.sliceDrop.on = u.on := (congrArg State.on hdrop.frame : _)
    rw [hdropOn, hon]
    refine ⟨hcut.trans hdrop, fun e => ?_⟩
    rw [State.pdPow, hdropOn, hon]
    exact testBit_sub_two_pow hd e
  · next hd =>
    refine ⟨.refl s, fun e => ?_⟩
    by_cases he : e = d
    · rw [he, Bool.eq_false_iff.2 hd, Bool.and_false]
    · rw [decide_eq_true he, Bool.true_and]

/-- Domains switched off one after another. -/
theorem State.domainsOff_leaves (s : State) (l : List Nat) : State.Dimmed { s with on := (l.foldl State.domainOff s).on } (l.foldl State.domainOff s)
    ∧ ∀ e, (l.foldl State.domainOff s).pdPow e = (decide (e ∉ l) && s.pdPow e) := by
  induction l generalizing s with
  | nil => exact ⟨.refl s, fun e => by simp⟩
  | cons d l ih =>
    obtain ⟨hd, hpow⟩ := s.domainOff_leaves d
    obtain ⟨hl, hpows⟩ := ih (s.domainOff d)
    rw [List.foldl_cons]
    generalize l.foldl State.domainOff (s.domainOff d) = t at *
    refine ⟨(hd.withOn t.on).trans hl, fun e => ?_⟩
    rw [hpows, hpow, ← Bool.and_assoc]
    congr 1
    by_cases h1 : e = d <;> by_cases h2 : e ∈ l <;> simp [h1, h2]

theorem mem_sleepOrder {d : Nat} (h2 : 2 ≤ d) (h40 : d < 40) : d ∈ sleepOrder := by
  have hall : ∀ d < 40, 2 ≤ d → d ∈ sleepOrder := by decide
  exact hall d h40 h2

/-! ## A register that the end of a plan leaves alone -/

theorem SMap.mem_set {α : Type} [DecidableEq α] {d v : α} {m : SMap α} {x : Nat} {e : Nat × α} (h : e ∈ SMap.set d m x v) :
    e = (x, v) ∨ e ∈ m ∧ e.1 ≠ x := by
  have herase (he : e ∈ SMap.erase m x) : e ∈ m ∧ e.1 ≠ x :=
    ⟨(SMap.erase_sublist m x).subset he, fun hx => SMap.notMem_erase m x (List.mem_map.2 ⟨e, he, hx⟩)⟩
  unfold SMap.set at h
  split at h
  · exact Or.inr (herase h)
  · exact ((SMap.mem_insert _ _ _ _).1 h).imp_right herase

/-- Register a has one entry at most. -/
def State.singleEntry (s : State) (a : Nat) : Prop := ∀ e ∈ s.regs, e.1 = a → e.2 = s.reg a

theorem State.singleEntry_setReg (s : State) (a : Nat) (w : Word) : (s.setReg a w).singleEntry a := by
  intro e he hea
  rw [State.reg_setReg_self]
  rcases SMap.mem_set he with rfl | h
  · rfl
  · exact absurd hea h.2

theorem State.singleEntry_setReg_of_ne {s : State} {a b : Nat} (h : s.singleEntry a) (hab : b ≠ a) (w : Word) : (s.setReg b w).singleEntry a := by
  intro e he hea
  rw [State.reg_setReg_of_ne _ _ hab]
  rcases SMap.mem_set he with rfl | h'
  · exact absurd hea hab
  · exact h e h'.1 hea

theorem closeRecal_fst (e : Nat × Word) : (closeRecal e).1 = e.1 := by
  unfold closeRecal
  split
  · split <;> rfl
  · rfl

theorem State.discardPlan_reg {s : State} {a : Nat} (h : s.singleEntry a) (ha : ∀ w, closeRecal (a, w) = (a, w)) : s.discardPlan.reg a = s.reg a := by
  show SMap.get (regReset a) ((s.regs.map closeRecal).filter fun e => decide (e.2 ≠ regReset e.1)) a = s.reg a
  refine SMap.get_of_only (fun e he hea => ?_) fun hnone => ?_
  · obtain ⟨e', he', rfl⟩ := List.mem_map.1 (List.mem_filter.1 he).1
    rw [closeRecal_fst] at hea
    obtain ⟨k, w⟩ := e'
    obtain rfl : k = a := hea
    rw [ha]
    exact h _ he' rfl
  · by_contra hne
    have hnokey : ∀ e ∈ s.regs, e.1 ≠ a := by
      rintro ⟨k, w⟩ he rfl
      have hw : w = s.reg k := h _ he rfl
      refine hnone (k, w) (List.mem_filter.2 ⟨List.mem_map.2 ⟨_, he, ha w⟩, decide_eq_true ?_⟩) rfl
      rw [hw]
      exact fun heq => hne heq.symm
    exact hne (SMap.get_of_only (fun e he hea => absurd hea (hnokey e he)) fun _ => rfl).symm

theorem closeRecal_sleepLo (w : Word) : closeRecal (pwrBase + F.PWR_SLEEP_LO_ON.off, w) = (pwrBase + F.PWR_SLEEP_LO_ON.off, w) := by
  have hwin : (locate (pwrBase + F.PWR_SLEEP_LO_ON.off)).map Loc.win ≠ some .blk := by decide
  unfold closeRecal
  split
  · next l hl => exact if_neg fun hc => hwin (by rw [hl, Option.map_some, hc.1])
  · rfl

/-! ## The entry to SLEEP -/

/-- The register that records the domains, and nothing but registers, has been written (R520). -/
structure State.SleepNoted (s u : State) : Prop where
  only : s.OnlyRegs u
  entry : u.singleEntry (pwrBase + F.PWR_SLEEP_LO_ON.off)
  lo : u.getF pwrBase F.PWR_SLEEP_LO_ON = s.on % 2 ^ 32

section
variable {s u : State}

theorem State.sleepNoted (s : State) : s.SleepNoted (s.setF pwrBase F.PWR_SLEEP_LO_ON s.on) :=
  ⟨.of_setF _ _ _ _, s.singleEntry_setReg _ _, s.getF_setF_self _ _ _ (by decide)⟩

theorem State.SleepNoted.setF (h : s.SleepNoted u) {f : Fld} {v : Nat} (hf : f.off ≠ F.PWR_SLEEP_LO_ON.off) : s.SleepNoted (u.setF pwrBase f v) := by
  have hne : pwrBase + f.off ≠ pwrBase + F.PWR_SLEEP_LO_ON.off := fun he => hf (Nat.add_left_cancel he)
  refine ⟨h.only.trans (.of_setF _ _ _ _), State.singleEntry_setReg_of_ne h.entry hne _, ?_⟩
  rw [State.getF, u.reg_setF_of_ne _ _ _ hne, ← State.getF, h.lo]

theorem State.SleepNoted.addF (h : s.SleepNoted u) {f : Fld} {k : Nat} (hf : f.off ≠ F.PWR_SLEEP_LO_ON.off) : s.SleepNoted (u.addF pwrBase f k) := by
  unfold State.addF
  exact h.setF hf

/-- The end of a plan keeps what is none of the plan's. -/
theorem State.discardPlan_leaves (s : State) : s.discardPlan.chip = s.chip ∧ s.discardPlan.on = s.on ∧ s.discardPlan.img = [] ∧ s.discardPlan.mail = s.mail
    ∧ s.discardPlan.mem = s.mem := by
  unfold State.discardPlan
  exact ⟨rfl, rfl, rfl, rfl, rfl⟩

/-- What a plan leaves behind when SLEEP is entered (R520). -/
theorem State.sleepIn_planGone (s : State) : ∃ u : State, s.sleepIn = (sleepOrder.foldl State.domainOff u).goChip .sleep ∧ u.chip = s.chip ∧ u.on = s.on
    ∧ u.img = [] ∧ u.mail = { s.mail with taken := [] } ∧ u.power.selfRef = true ∧ u.mem = s.mem ∧ u.getF pwrBase F.PWR_SLEEP_LO_ON = s.on % 2 ^ 32 := by
  unfold State.sleepIn
  extract_lets s1 s2 s3 j p m s4
  have h1 : s.SleepNoted s1 := State.SleepNoted.setF (f := F.PWR_SLEEP_HI_ON) s.sleepNoted (by decide)
  clear_value s1
  have h2 : s.SleepNoted s2 := State.SleepNoted.addF (f := F.PWR_SLEEP_STAT_SLEEPS) (State.SleepNoted.setF (f := F.PWR_SLEEP_STAT_DIRTY_LOST) h1 (by decide)) (by decide)
  clear_value s2
  have hreg := State.discardPlan_reg h2.entry closeRecal_sleepLo
  obtain ⟨hchip, hon, himg, hmail, hmem⟩ := s2.discardPlan_leaves
  have h3 : s2.discardPlan = s3 := rfl
  rw [h3] at hreg hchip hon himg hmail hmem
  clear_value s3
  refine ⟨s4, rfl, hchip.trans h2.only.chip, hon.trans h2.only.on, himg, ?_, rfl, hmem.trans h2.only.mem, ?_⟩
  · show { s3.mail with taken := [] } = _
    rw [hmail, h2.only.mail]
  · rw [State.getF, State.reg_of_regs (s := s3) (t := s4) rfl, hreg, ← State.getF, h2.lo]

/-- SLEEP is entered. -/
theorem State.sleepIn_leaves (hst : s.chip.st = .ready) :
    s.sleepIn.chip.st = .sleep ∧ s.sleepIn.chip.prev = .ready ∧ (∀ d, 2 ≤ d → d < 40 → s.sleepIn.pdOn d = false)
      ∧ s.sleepIn.pdPow 0 = s.pdPow 0 ∧ s.sleepIn.pdPow 1 = s.pdPow 1 ∧ s.sleepIn.img = [] ∧ s.sleepIn.mail.taken = []
      ∧ s.sleepIn.mail.sess = s.mail.sess ∧ s.sleepIn.power.selfRef = true ∧ s.sleepIn.getF pwrBase F.PWR_SLEEP_LO_ON = s.on % 2 ^ 32
      ∧ s.sleepIn.mem.hbm = s.mem.hbm ∧ s.sleepIn.mem.wshadow = s.mem.wshadow := by
  obtain ⟨u, hdone, hchip, hon, himg, hmail, hself, hmem, hlo⟩ := s.sleepIn_planGone
  obtain ⟨hdim, hpow⟩ := u.domainsOff_leaves sleepOrder
  generalize sleepOrder.foldl State.domainOff u = v at *
  have hvmail : v.mail = u.mail := hdim.mail
  have hslice : ∃ b, v.sliceLeave (decide (ChipSt.sleep ≠ .faulted)) = { v with bist := b } := by
    have hnone (w : State) (hw : w.mail = v.mail) (c : Option Nat) (st : Nat) (r : List Byte) : w.finishOpt c st r = w := by
      unfold State.finishOpt State.finish
      split
      · rw [State.takenBy, hw, hvmail, hmail]
        rfl
      · rfl
    unfold State.sliceLeave
    split
    · dsimp only
      split
      · exact ⟨_, rfl⟩
      · split
        · rw [hnone]
          · exact ⟨_, rfl⟩
          · rfl
        · exact ⟨_, rfl⟩
    · exact ⟨_, rfl⟩
  obtain ⟨hturn, htchip, htregs, -, htpower⟩ := State.goChip_of_slice fun _ => hslice
  rw [← hdone] at hturn htchip htregs htpower
  generalize s.sleepIn = t at *
  have hpowt (e : Nat) : t.pdPow e = v.pdPow e := by rw [State.pdPow, hturn.on, State.pdPow]
  have hpowu (e : Nat) : u.pdPow e = s.pdPow e := by rw [State.pdPow, hon, State.pdPow]
  have hmemv : v.mem.hbm = s.mem.hbm ∧ v.mem.wshadow = s.mem.wshadow := by
    have h := hdim.mem
    exact ⟨(congrArg Mems.hbm h : _).trans (congrArg Mems.hbm hmem), (congrArg Mems.wshadow h : _).trans (congrArg Mems.wshadow hmem)⟩
  refine ⟨by rw [htchip], ?_, fun d h2 h40 => ?_, ?_, ?_, ?_, ?_, ?_, ?_, ?_, ?_, ?_⟩
  · rw [htchip]
    exact (congrArg Chip.st (hdim.chip.trans hchip)).trans hst
  · rw [State.pdOn, hpowt, hpow, decide_eq_false (not_not_intro (mem_sleepOrder h2 h40)), Bool.false_and, Bool.false_and]
  · rw [hpowt, hpow, hpowu, decide_eq_true (by decide), Bool.true_and]
  · rw [hpowt, hpow, hpowu, decide_eq_true (by decide), Bool.true_and]
  · rw [hturn.img, hdim.img]
    exact himg
  · rw [hturn.taken, hvmail, hmail]
  · rw [show t.mail.sess = v.mail.sess from (congrArg (fun x : State => x.mail.sess) hturn.frame : _), hvmail, hmail]
  · rw [htpower]
    exact (congrArg Power.selfRef hdim.power : _).trans hself
  · rw [State.getF, State.reg_of_regs htregs, hdim.reg _ (by decide)]
    exact hlo
  · rw [hturn.mem, hmemv.1]
  · rw [hturn.mem, hmemv.2]

end

/-- Settles O31. -/
theorem sleepAndWake : Obligations.SleepAndWake := by
  refine ⟨fun s hruns hok htaken hreplies => State.sleep_replies hruns hok htaken hreplies, fun s hruns hok hbusy => State.sleep_waits hruns hok hbusy,
    fun s x htaken hop hstage hreplies hst hsettling hplan hcredits => ?_, fun s hst hwake h3 => State.wakeStart_leaves hst hwake h3,
    fun s hst hwake hsettling hrestoring hlo hhi => ⟨_, rfl, ?_⟩⟩
  · have hexec : exec .sleepEntry s = .next s.sleepIn := by
      show execSleepEntry s = _
      unfold execSleepEntry
      rw [htaken]
      exact congrArg Host.Outcome.next (if_pos ⟨hop, hstage, hreplies, hst, hsettling, hplan, hcredits⟩)
    exact ⟨_, hexec, State.sleepIn_leaves hst⟩
  · cases hcheck : s.fwFails s.store.running with
    | none =>
      obtain ⟨hw, hprev, hready⟩ := State.wakeVerified_good hst hwake hsettling hrestoring hlo hhi hcheck
      exact ⟨hw, hprev, hready⟩
    | some e =>
      obtain ⟨hw, hprev, hfaulted, hrom, hfail⟩ := State.wakeVerified_bad (c := e.1) (st := e.2) hst hwake hcheck
      exact ⟨hw, hprev, hfaulted, hrom, hfail⟩

end Sys2Proof.Machine
end


section
/-! SUPPORT. What a domain that becomes usable changes (R516 to R519): registers and arrays of its own, the primary store, and that it is on. -/

namespace Sys2Proof.Machine

theorem testBit_add_two_pow {n d : Nat} (h : n.testBit d = false) (e : Nat) : (n + 2 ^ d).testBit e = (decide (e = d) || n.testBit e) := by
  have hset : (n + 2 ^ d).testBit d = true := by
    rw [Nat.add_comm, Nat.testBit_two_pow_add_eq, h]
    rfl
  have hsub := testBit_sub_two_pow hset e
  rw [Nat.add_sub_cancel] at hsub
  by_cases he : e = d
  · rw [he, hset, decide_eq_true rfl, Bool.true_or]
  · rw [hsub, decide_eq_true he, decide_eq_false he, Bool.true_and, Bool.false_or]

/-- t differs from s at most in what the wake of a domain rewrites. -/
structure State.Relit (s t : State) : Prop where
  frame : { t with
    regs := s.regs, latch := s.latch, flips := s.flips, macros := s.macros, blocks := s.blocks, regions := s.regions, mesh := s.mesh, cour := s.cour
    free := s.free, mem := { t.mem with spd := s.mem.spd, pigeon := s.mem.pigeon, hznRam := s.mem.hznRam }
    pml := { t.pml with slots := s.pml.slots, next := s.pml.next, newest := s.pml.newest, pinned := s.pml.pinned, words := s.pml.words
                        wordNext := s.pml.wordNext }
    mail := { t.mail with posts := s.mail.posts }, store := { t.store with retDir := s.store.retDir }
    power := { t.power with restoring := s.power.restoring, selfRef := s.power.selfRef } } = s

section
variable {s t u : State}

theorem State.Relit.refl (s : State) : s.Relit s := ⟨rfl⟩
theorem State.Relit.trans (h : s.Relit t) (g : t.Relit u) : s.Relit u := ⟨by rw [← h.frame, ← g.frame]⟩
theorem State.Relit.foldl {α : Type} {f : State → α → State} {l : List α} (hs : s.Relit t) (hf : ∀ u x, s.Relit u → s.Relit (f u x)) :
    s.Relit (l.foldl f t) := foldl_keeps s.Relit f hs fun x _ u hu => hf u x hu

theorem State.OnlyRegs.relit (h : s.OnlyRegs t) : s.Relit t := ⟨by rw [← h.frame]⟩

theorem State.Relit.ite {c : Prop} [Decidable c] {a b : State} (ha : s.Relit a) (hb : s.Relit b) : s.Relit (if c then a else b) := by
  split <;> assumption

theorem State.Relit.chip (h : s.Relit t) : t.chip = s.chip := (congrArg State.chip h.frame : _)
theorem State.Relit.on (h : s.Relit t) : t.on = s.on := (congrArg State.on h.frame : _)
theorem State.Relit.power (h : s.Relit t) : { t.power with restoring := s.power.restoring, selfRef := s.power.selfRef } = s.power :=
  (congrArg State.power h.frame : _)
theorem State.Relit.pdOn (h : s.Relit t) (d : Nat) : t.pdOn d = s.pdOn d := by
  rw [State.pdOn, State.pdPow, h.on, show t.power.ret = s.power.ret from (congrArg Power.ret h.power : _), State.pdOn, State.pdPow]
theorem State.Relit.taken (h : s.Relit t) : t.mail.taken = s.mail.taken := (congrArg (fun u : State => u.mail.taken) h.frame : _)
theorem State.Relit.wshadow (h : s.Relit t) : t.mem.wshadow = s.mem.wshadow := (congrArg (fun u : State => u.mem.wshadow) h.frame : _)
theorem State.Relit.hbm (h : s.Relit t) : t.mem.hbm = s.mem.hbm := (congrArg (fun u : State => u.mem.hbm) h.frame : _)
theorem State.Relit.bootCount (h : s.Relit t) : t.pml.bootCount = s.pml.bootCount := (congrArg (fun u : State => u.pml.bootCount) h.frame : _)

theorem State.Relit.setF (h : s.Relit t) {base : Nat} {f : Fld} {v : Nat} : s.Relit (t.setF base f v) := h.trans (State.OnlyRegs.of_setF t base f v).relit
theorem State.Relit.addF (h : s.Relit t) {base : Nat} {f : Fld} {k : Nat} : s.Relit (t.addF base f k) := h.trans (State.OnlyRegs.of_addF t base f k).relit
theorem State.Relit.flagF (h : s.Relit t) {base : Nat} {f : Fld} : s.Relit (t.flagF base f) := h.trans (State.OnlyRegs.of_flagF t base f).relit
theorem State.Relit.setReg (h : s.Relit t) {a : Nat} {w : Word} : s.Relit (t.setReg a w) := h.trans (State.OnlyRegs.of_setReg t a w).relit
theorem State.Relit.setBx (h : s.Relit t) {b : Nat} {x : BlockX} : s.Relit (t.setBx b x) := h.trans ⟨rfl⟩
theorem State.Relit.setRx (h : s.Relit t) {r : Nat} {x : RegionX} : s.Relit (t.setRx r x) := h.trans ⟨rfl⟩
theorem State.Relit.setMx (h : s.Relit t) {m : Nat} {x : MacroX} : s.Relit (t.setMx m x) := h.trans ⟨rfl⟩
theorem State.Relit.takeFree (h : s.Relit t) : s.Relit t.takeFree.2 := h.trans ⟨rfl⟩

theorem State.Relit.plainWrite (h : s.Relit t) {a v : Nat} : s.Relit (t.plainWrite a v) := by
  unfold State.plainWrite
  split
  · exact h.setReg
  · exact h

theorem State.Relit.writeAll (h : s.Relit t) {l : List (Nat × Nat)} : s.Relit (t.writeAll l) := h.foldl fun _ _ hu => hu.plainWrite

/-! ## The domain itself -/

/-- Domain d counts as on, before its registers and arrays are cleared. -/
def State.lit (s : State) (d : Nat) : State := { s with
  on := if s.pdPow d then s.on else s.on + 2 ^ d
  power := { s.power with settling := s.power.settling.filter (fun x => decide (x ≠ d)), held := s.power.held.filter (fun x => decide (x ≠ d))
                          ret := putBits s.power.ret d 1 0 } }

theorem State.lit_pdOn (s : State) (d e : Nat) : (s.lit d).pdOn e = (decide (e = d) || s.pdOn e) := by
  have hon : (s.lit d).on.testBit e = (decide (e = d) || s.on.testBit e) := by
    show (if s.pdPow d then s.on else s.on + 2 ^ d).testBit e = _
    split
    · next h =>
      by_cases he : e = d
      · rw [he, decide_eq_true rfl, Bool.true_or]
        exact h
      · rw [decide_eq_false he, Bool.false_or]
    · next h => exact testBit_add_two_pow (Bool.eq_false_iff.2 h) e
  have hret : (s.lit d).power.ret.testBit e = (decide (e ≠ d) && s.power.ret.testBit e) := by
    show (putBits s.power.ret d 1 0).testBit e = _
    rw [testBit_putBits]
    rcases Nat.lt_trichotomy e d with he | rfl | he
    · rw [if_pos he, decide_eq_true (by omega), Bool.true_and]
    · rw [if_neg (by omega), if_pos (by omega), Nat.zero_testBit, decide_eq_false (by simp), Bool.false_and]
    · rw [if_neg (by omega), if_neg (by omega), decide_eq_true (by omega), Bool.true_and]
  rw [State.pdOn, State.pdPow, hon, hret, State.pdOn, State.pdPow]
  by_cases he : e = d <;> simp [he]

theorem State.Relit.portStart (h : s.Relit t) {p : Nat} : s.Relit (t.portStart p) := by
  unfold State.portStart
  extract_lets base c u
  have hu : s.Relit u := h.trans ⟨rfl⟩
  clear_value u
  exact hu.setF

theorem State.Relit.measureLdo (h : s.Relit t) {r n : Nat} : s.Relit (t.measureLdo r n) := by
  unfold State.measureLdo
  have hfree := h.takeFree
  generalize t.takeFree = f at *
  exact hfree.setF

theorem State.Relit.wakeClock (h : s.Relit t) {r : Nat} : s.Relit (t.wakeClock r) := by
  unfold State.wakeClock
  extract_lets base want n s1 s2 x
  have h1 : s.Relit s1 := h.setF.setF
  clear_value s1
  have h2 : s.Relit s2 := by
    simp only [s2]
    split
    · exact h1
    · exact h1.flagF
  clear_value s2 x
  exact (h2.setRx.setF).measureLdo

theorem State.Relit.dropRegs (h : s.Relit t) {d : Nat} : s.Relit (t.dropRegs d) := by
  unfold State.dropRegs
  exact h.trans ⟨rfl⟩

theorem State.Relit.postEvent (h : s.Relit t) {code source arg : Nat} {pm : Bool} : s.Relit (t.postEvent code source arg pm) := .ite (h.trans ⟨rfl⟩) h

theorem State.Relit.copyWord (h : s.Relit t) {w : Nat × List Byte} : s.Relit (t.copyWord w) := by
  unfold State.copyWord
  generalize pmReseal w.2 (t.pml.pinned.isNone && (leAt w.2 3 1).testBit 0) = rec
  have hplaced : s.Relit { t with pml := t.placed rec ((leAt w.2 3 1).testBit 0) } := h.trans ⟨rfl⟩
  exact hplaced.postEvent

theorem State.Relit.pmCopyWords (h : s.Relit t) : s.Relit t.pmCopyWords := by
  unfold State.pmCopyWords
  refine .ite ?_ h
  have hfold : s.Relit (t.pml.words.foldl State.copyWord t) := h.foldl fun _ _ hu => hu.copyWord
  exact hfold.trans ⟨rfl⟩

theorem State.Relit.withArrays (h : s.Relit t) (m n : Mem) : s.Relit { t with mem := { t.mem with hznRam := m, pigeon := n } } := h.trans ⟨rfl⟩

/-- A domain becomes usable. -/
theorem State.domainOn_relit (s : State) (d : Nat) : (s.lit d).Relit (s.domainOn d) := by
  unfold State.domainOn
  extract_lets d0 p0 s0 s1 m0 s2 s3
  have h0 : (s.lit d).Relit s0 := (State.Relit.refl (s.lit d)).trans ⟨rfl⟩
  clear_value s0
  have h1 : (s.lit d).Relit s1 := h0.setF.setF
  clear_value s1
  have h2 : (s.lit d).Relit s2 := h1.setF.setF
  clear_value s2
  have h3 : (s.lit d).Relit s3 := by
    simp only [s3]
    split
    · exact h2.flagF
    · exact h2
  clear_value s3
  have hmesh : (s.lit d).Relit { s3 with mesh := ⟨[], [], []⟩ } := h3.trans ⟨rfl⟩
  refine State.Relit.ite (h1.withArrays _ _) ?_
  refine State.Relit.ite hmesh.pmCopyWords ?_
  refine State.Relit.ite h1.setF ?_
  refine State.Relit.ite (h1.foldl fun _ _ hu => hu.portStart) ?_
  refine State.Relit.ite h1.wakeClock.addF ?_
  exact State.Relit.ite h1.addF h1

/-! ## What follows the wake of a region -/

theorem State.Relit.withScratch (h : s.Relit t) (m : Mem) (l : List Nat) : s.Relit { t with mem := { t.mem with spd := m }, flips := { t.flips with spd := l } } :=
  h.trans ⟨rfl⟩

theorem State.Relit.withPower (h : s.Relit t) (l : List Nat) (r : Bool) : s.Relit { t with power := { t.power with restoring := l, selfRef := r } } :=
  h.trans ⟨rfl⟩

theorem State.Relit.kibRestore (h : s.Relit t) {b k : Nat} : s.Relit (t.kibRestore b k) := by
  unfold State.kibRestore State.spdWr
  exact h.withScratch _ _

theorem State.Relit.windowRestore (h : s.Relit t) {b : Nat} : s.Relit (t.windowRestore b) := by
  unfold State.windowRestore
  extract_lets w x s0 s1
  have h1 : s.Relit s1 := h.setBx.foldl fun _ _ hu => hu.kibRestore
  clear_value s1
  exact h1.setReg.setReg

theorem State.Relit.keepRet (h : s.Relit t) {b v : Nat} : s.Relit (t.keepRet b v) := .ite (h.trans ⟨rfl⟩) h

theorem State.Relit.giveCredits (h : s.Relit t) {b : Nat} : s.Relit (t.giveCredits b) := h.foldl fun _ _ hu => hu.setF

theorem State.Relit.armSpd (h : s.Relit t) {b : Nat} : s.Relit (t.armSpd b) := by
  unfold State.armSpd
  split
  · refine .ite ?_ h
    extract_lets base s1 s2
    have h1 : s.Relit s1 := h.writeAll
    clear_value s1
    have h2 : s.Relit s2 := .ite h1 h1.plainWrite.keepRet
    clear_value s2
    exact h2.giveCredits
  · exact h

theorem State.Relit.spdWake (h : s.Relit t) {b : Nat} : s.Relit (t.spdWake b) := h.setReg.windowRestore.armSpd

theorem State.Relit.armCompute (h : s.Relit t) {b : Nat} : s.Relit (t.armCompute b) := by
  unfold State.armCompute
  refine .ite ?_ h
  extract_lets base n en s1 s2 s3 s4 envs s5 s6
  have h1 : s.Relit s1 := h.setReg
  clear_value s1
  have h2 : s.Relit s2 := by
    simp only [s2]
    split
    · exact h1.writeAll
    · exact h1
  clear_value s2
  have h3 : s.Relit s3 := h2.writeAll
  clear_value s3
  have h4 : s.Relit s4 := by
    simp only [s4]
    split
    · exact h3.writeAll
    · exact h3
  clear_value s4
  have h5 : s.Relit s5 := h4.foldl fun u m hu => by
    dsimp only
    split
    · exact hu.writeAll.writeAll
    · exact hu.foldl fun _ _ hv => hv.setReg
  clear_value s5
  have h6 : s.Relit s6 := by
    simp only [s6]
    split
    · exact h5.writeAll
    · exact h5.setF
  clear_value s6
  split
  · exact h6.writeAll
  · exact h6.foldl fun _ _ hv => hv.setReg

theorem State.Relit.loadBlock (h : s.Relit t) {b : Nat} : s.Relit (t.loadBlock b) := by
  unfold State.loadBlock
  extract_lets sv x s1
  have h1 : s.Relit s1 := h.setBx
  clear_value s1
  exact h1.foldl fun _ _ hu => .ite hu hu.setReg

theorem State.Relit.shopStart (h : s.Relit t) {m : Nat} {restore : Bool} {left : List Nat} : s.Relit (t.shopStart m restore left) := by
  unfold State.shopStart State.takeAge
  exact (h.setBx.setMx.setF).setF

theorem State.Relit.compWake (h : s.Relit t) {b : Nat} : s.Relit (t.compWake b) := by
  unfold State.compWake
  extract_lets s1
  have h1 : s.Relit s1 := h.armCompute.loadBlock
  clear_value s1
  exact h1.foldl fun _ _ hu => hu.shopStart

theorem State.domainReady_relit (s : State) (d : Nat) : (s.lit d).Relit (s.domainReady d) := by
  unfold State.domainReady
  extract_lets s1 s2 p
  have h1 : (s.lit d).Relit s1 := s.domainOn_relit d
  clear_value s1
  have h2 : (s.lit d).Relit s2 := h1.foldl fun _ _ hu => hu.compWake
  clear_value s2
  exact .ite (h2.withPower _ _) (.ite (h1.foldl fun _ _ hu => hu.spdWake) (.ite (h1.withPower _ _) h1))

end

end Sys2Proof.Machine
end


section
/-! PROOFS. O32: the stages of start-up (R528, R544; Table 17.6). -/

namespace Sys2Proof.Machine

section
variable {s : State}

/-- The start-up goes on with the next stage. -/
def State.nextStage (s : State) (n : Nat) : State := s.setF chipBase F.CHIP_BOOT_STAGE (n + 1)

theorem State.nextStage_onlyRegs (s : State) (n : Nat) : s.OnlyRegs (s.nextStage n) := .of_setF _ _ _ _

theorem State.nextStage_stage (s : State) {n : Nat} (h : n < 15) : (s.nextStage n).getF chipBase F.CHIP_BOOT_STAGE = n + 1 := by
  rw [State.nextStage, State.getF_setF_self _ _ _ _ (by decide)]
  exact Nat.mod_eq_of_lt (by show n + 1 < 2 ^ 4; omega)

theorem exec_startUpStage (ok : Bool) (hst : s.chip.st = .boot) (hlive : s.cadLive = true) : exec (.startUpStage ok) s = .next (s.stageEnd ok) := by
  show Host.Outcome.next (if s.isIn [.boot] && s.cadLive then s.stageEnd ok else s) = _
  rw [if_pos (by rw [hlive, Bool.and_true]; simp [State.isIn, hst])]

/-- What the stage in progress leads to. -/
theorem State.stageEnd_of {n : Nat} (hn : s.getF chipBase F.CHIP_BOOT_STAGE = n) (ok : Bool) : s.stageEnd ok =
    if n = 1 then s.nextStage n
    else if n = 2 then (s.domainOn 1).nextStage n
    else if n = 3 then (s.domainOn 2).nextStage n
    else if n = 4 then
      let s1 := { s with pml := { s.pml with bootCount := (s.pml.bootCount + 1) % 2 ^ 32 } }.domainOn 3
      if s.power.strapBoot = 2 then ((s1.setF chipBase F.CHIP_BOOT_STAGE 15).bootMs).romFault 0x96 else s1.nextStage n
    else if n = 5 then (match s.bootVerify with
      | (some t, _) => t
      | (none, t) => t.nextStage n)
    else if n = 6 then (if s.power.strapBoot = 1 then s.bootFirmware.bootDone else s.bootFirmware.nextStage n)
    else if n = 7 then (if ok then ((s.domainReady 36).domainReady 37).nextStage n else s.testFail 7)
    else if n = 8 then ((s.domainOn 38).domainOn 39).nextStage n
    else if n = 9 then (s.bootRegions.nextStage n).sliceStart 0 Config.bistBootSel 0 none
    else if n = 10 ∧ s.bootTested = true then
      (if (s.bist.slice.map Slice.fatal).getD false then (s.setSlice none).testFail 10 else (s.setSlice none).bootDone)
    else s := by
  subst hn
  rfl

/-- Domains come on one after the other. -/
theorem State.stage_lights {n : Nat} {t : State} (hn : n < 15) (hlit : t.chip = s.chip ∧ t.mem.wshadow = s.mem.wshadow) {d : Nat} (hd : t.pdOn d = true) :
    (t.nextStage n).getF chipBase F.CHIP_BOOT_STAGE = n + 1 ∧ (t.nextStage n).pdOn d = true ∧ (t.nextStage n).chip = s.chip
      ∧ (t.nextStage n).mem.wshadow = s.mem.wshadow := by
  have hnext := t.nextStage_onlyRegs n
  exact ⟨t.nextStage_stage hn, by rw [hnext.pdOn, hd], by rw [hnext.chip, hlit.1], by rw [hnext.mem, hlit.2]⟩

theorem State.domainOn_lights (s : State) (d : Nat) : (s.domainOn d).chip = s.chip ∧ (s.domainOn d).mem.wshadow = s.mem.wshadow
    ∧ (s.domainOn d).pml.bootCount = s.pml.bootCount ∧ ∀ e, (s.domainOn d).pdOn e = (decide (e = d) || s.pdOn e) := by
  have h := s.domainOn_relit d
  exact ⟨h.chip, h.wshadow, h.bootCount, fun e => by rw [h.pdOn, s.lit_pdOn]⟩

theorem State.romFault_leaves (s : State) (cls : Nat) : ∃ u : State, u.Wrapup (s.romFault cls) ∧ u.chip.st = .faulted ∧ u.chip.prev = s.chip.st
    ∧ u.errs.rom = true ∧ u.regs = s.regs ∧ u.store = s.store ∧ u.pml = s.pml ∧ u.on = s.on ∧ u.power = s.power := by
  obtain ⟨x, hx⟩ : ∃ x : State, x = { s with errs := { s.errs with pin := some (3 + 0x1220 * 4 + cls * 2 ^ 16, 1), rom := true } } := ⟨_, rfl⟩
  have hrom : s.romFault cls = x.enterFaulted false := by rw [hx]; rfl
  rw [hrom]
  refine ⟨x.faultedNow false, x.enterFaulted_leaves false, rfl, ?_, ?_, ?_, ?_, ?_, ?_, ?_⟩ <;> rw [hx] <;> rfl

theorem State.protHzn_onlyRegs (s : State) : s.OnlyRegs s.protHzn := by
  unfold State.protHzn
  exact foldl_keeps s.OnlyRegs _ (State.OnlyRegs.of_setReg s _ _) fun i _ u hu => hu.trans (.of_setReg u _ _)

theorem State.bootMs_onlyRegs (s : State) : s.OnlyRegs s.bootMs := .of_setF _ _ _ _

theorem State.OnlyRegs.store {s t : State} (h : s.OnlyRegs t) : t.store = s.store := (congrArg State.store h.frame : _)
theorem State.OnlyRegs.pml {s t : State} (h : s.OnlyRegs t) : t.pml = s.pml := (congrArg State.pml h.frame : _)

/-- An advance record that stands is completed. -/
def State.rolled (s : State) : State := match s.store.advance with
  | some r => s.rollTo r
  | none => s

theorem State.rolled_leaves (s : State) : s.rolled.store.rollback = max s.store.rollback (s.store.advance.getD 0) ∧ s.rolled.store.advance = none
    ∧ s.rolled.chip = s.chip ∧ s.rolled.store.active = s.store.active := by
  unfold State.rolled
  split
  · next r hr =>
    rw [hr]
    exact ⟨rfl, rfl, rfl, rfl⟩
  · next h =>
    rw [h]
    exact ⟨(Nat.max_eq_left (Nat.zero_le _)).symm, rfl, rfl, rfl⟩

theorem State.bootFirmware_leaves (s : State) : s.bootFirmware.store = s.rolled.store ∧ s.bootFirmware.chip = s.chip := by
  have hregs := (s.rolled.protPigeon_onlyRegs).trans (s.rolled.protPigeon.protHzn_onlyRegs)
  have hsub := (State.Wrapup.refl s.rolled.protPigeon.protHzn).pmSubmit (p := ⟨0x4, 2, false, 0, 0, 0, []⟩)
  have hdone : s.bootFirmware = s.rolled.protPigeon.protHzn.pmSubmit ⟨0x4, 2, false, 0, 0, 0, []⟩ := rfl
  rw [hdone]
  exact ⟨hsub.store.trans hregs.store, (hsub.chip.trans hregs.chip).trans s.rolled_leaves.2.2.1⟩

/-- Start-up is complete. -/
theorem State.bootDone_leaves (s : State) : s.bootDone.chip.st = .ready ∧ s.bootDone.chip.prev = s.chip.st ∧ s.bootDone.store = s.store
    ∧ s.bootDone.getF chipBase F.CHIP_BOOT_STAGE = 15 := by
  have hstage := s.getF_setF_self chipBase F.CHIP_BOOT_STAGE 15 (by decide)
  have h1 := State.OnlyRegs.of_setF s chipBase F.CHIP_BOOT_STAGE 15
  unfold State.bootDone
  generalize s.setF chipBase F.CHIP_BOOT_STAGE 15 = u at *
  have h2 := u.bootMs_onlyRegs
  have hkept : u.bootMs.getF chipBase F.CHIP_BOOT_STAGE = u.getF chipBase F.CHIP_BOOT_STAGE := u.getF_setF_of_apart chipBase _ (by decide) (by decide)
  generalize u.bootMs = v at *
  have hready := v.goReady_turns
  generalize v.goReady = t at *
  refine ⟨?_, ?_, ?_, ?_⟩
  · rw [hready.chip]
    rfl
  · rw [hready.chip]
    exact congrArg Chip.st (h2.chip.trans h1.chip)
  · rw [hready.store]
    exact h2.store.trans h1.store
  · rw [State.getF, hready.reg _ (Or.inl (by decide)), State.reg_of_regs (s := v) (t := { v with chip := v.chip.turned .ready }) rfl, ← State.getF, hkept,
      hstage]
    rfl

theorem State.bootFail_leaves (s : State) (stage status : Nat) : (s.bootFail stage status).getF chipBase F.CHIP_BOOT_FAIL = stage % 2 ^ 8
    ∧ (s.bootFail stage status).chip = s.chip ∧ (s.bootFail stage status).store = s.store
    ∧ ∀ a, jobQuiet a → a ≠ chipBase + F.CHIP_BOOT_FAIL.off → (s.bootFail stage status).reg a = s.reg a := by
  have hfail := s.getF_setF_self chipBase F.CHIP_BOOT_FAIL stage (by decide)
  have h1 := State.OnlyRegs.of_setF s chipBase F.CHIP_BOOT_FAIL stage
  have hreg {a : Nat} (ha : chipBase + F.CHIP_BOOT_FAIL.off ≠ a) := s.reg_setF_of_ne chipBase stage F.CHIP_BOOT_FAIL ha
  unfold State.bootFail
  generalize s.setF chipBase F.CHIP_BOOT_FAIL stage = u at *
  have h2 := (State.Wrapup.refl u).pmSubmit (p := ⟨0x4, 2, true, 0, 0, status, []⟩)
  generalize u.pmSubmit ⟨0x4, 2, true, 0, 0, status, []⟩ = v at *
  have h3 := v.bootMs_onlyRegs
  have hkept : v.bootMs.getF chipBase F.CHIP_BOOT_FAIL = v.getF chipBase F.CHIP_BOOT_FAIL := v.getF_setF_of_apart chipBase _ (by decide) (by decide)
  have hsame {a : Nat} (ha : chipBase + F.CHIP_BOOT_TIME_MS.off ≠ a) : v.bootMs.reg a = v.reg a := v.reg_setF_of_ne chipBase _ F.CHIP_BOOT_TIME_MS ha
  generalize v.bootMs = t at *
  refine ⟨?_, (h3.chip.trans h2.chip).trans h1.chip, (h3.store.trans h2.store).trans h1.store, fun a ha hne => ?_⟩
  · rw [hkept, State.getF, h2.reg _ (Or.inl (by decide)), ← State.getF, hfail]
  · rw [hsame fun h => hne h.symm, h2.reg a ha, hreg fun h => hne h.symm]

theorem State.testFail_leaves (s : State) (stage : Nat) : (s.testFail stage).chip.st = .faulted ∧ (s.testFail stage).errs.rom = false
    ∧ (s.testFail stage).getF chipBase F.CHIP_BOOT_FAIL = stage % 2 ^ 8 := by
  obtain ⟨hfail, -, -, -⟩ := s.bootFail_leaves stage 0x0501
  unfold State.testFail
  generalize s.bootFail stage 0x0501 = u at *
  obtain ⟨x, hx, hregs, hrom⟩ : ∃ x : State, x = { u.takeFree.2 with errs := { u.takeFree.2.errs with pin := some (u.takeFree.1 % 2 ^ 64, 1), rom := false } }
    ∧ x.regs = u.regs ∧ x.errs.rom = false := ⟨_, rfl, rfl, rfl⟩
  have hend := x.enterFaulted_leaves false
  have hdone : (x.enterFaulted false).chip.st = .faulted ∧ (x.enterFaulted false).errs.rom = false
      ∧ (x.enterFaulted false).getF chipBase F.CHIP_BOOT_FAIL = stage % 2 ^ 8 := by
    refine ⟨by rw [hend.chip]; rfl, (congrArg Errs.rom hend.errs : _).trans hrom, ?_⟩
    have hnow : (x.faultedNow false).regs = u.regs := hregs
    rw [State.getF, hend.reg _ (Or.inl (by decide)), State.reg_of_regs hnow, ← State.getF, hfail]
  rw [hx] at hdone
  exact hdone

/-- Stage 5 with firmware that fails its check. -/
theorem State.bootVerify_bad {s u : State} {c st : Nat} (hrolled : s.rolled = u) (hbad : u.fwFails u.store.active = some (c, st)) :
    ∃ t, s.bootVerify = (some t, u) ∧ t.chip.st = .faulted ∧ t.errs.rom = true ∧ t.getF secBase F.SEC_VERIFY_FAIL_CHECK = c ∧ t.store = u.store := by
  have hdone : s.bootVerify = (some (((u.fwNote c st true).bootFail 5 st).romFault 0x95), u) := by
    unfold State.bootVerify
    extract_lets s1
    rw [show s1 = u from hrolled, hbad]
  have hcheck : (u.fwNote c st true).getF secBase F.SEC_VERIFY_FAIL_CHECK = c := by
    rw [State.fwNote, State.getF_setF_of_apart _ _ _ (by decide) (by decide), State.getF_setF_self _ _ _ _ (by decide)]
    exact Nat.mod_eq_of_lt ((fwCheck_small hbad).trans_le (by decide))
  have hnote : u.OnlyRegs (u.fwNote c st true) := ((State.OnlyRegs.of_setF u _ _ _).trans (.of_setF _ _ _ _)).trans (.of_setF _ _ _ _)
  refine ⟨_, hdone, ?_⟩
  generalize u.fwNote c st true = v at *
  obtain ⟨-, hchip, hstore, hreg⟩ := v.bootFail_leaves 5 st
  generalize v.bootFail 5 st = w at *
  obtain ⟨x, hend, hst, -, hrom, hregs, hxstore, -⟩ := w.romFault_leaves 0x95
  generalize w.romFault 0x95 = t at *
  refine ⟨by rw [hend.chip, hst], (congrArg Errs.rom hend.errs : _).trans hrom, ?_, ?_⟩
  · rw [State.getF, hend.reg _ (Or.inr (by decide)), State.reg_of_regs hregs, hreg _ (Or.inr (by decide)) (by decide), ← State.getF, hcheck]
  · rw [hend.store, hxstore, hstore, hnote.store]

/-- The firmware runs that passed, with an advance record where its ROLLBACK is above the counter (R544). -/
def State.fwRuns (u : State) : State := { u with store := { u.store with
      running := u.store.active, advance := if u.store.rollback < fwRoll u.store.active then some (fwRoll u.store.active) else none } }

/-- Stage 5 with firmware that passes. -/
theorem State.bootVerify_good {s u : State} (hrolled : s.rolled = u) (hgood : u.fwFails u.store.active = none) :
    s.bootVerify = (none, u.fwRuns) := by
  unfold State.bootVerify
  extract_lets s1
  have hs1 : s1 = u := hrolled
  clear_value s1
  subst hs1
  rw [hgood]
  rfl

/-! ## The stages -/

theorem State.stageEnd_1 (hn : s.getF chipBase F.CHIP_BOOT_STAGE = 1) (ok : Bool) : s.stageEnd ok =
    s.nextStage 1 := by
  rw [State.stageEnd_of hn ok, if_pos rfl]

theorem State.stageEnd_2 (hn : s.getF chipBase F.CHIP_BOOT_STAGE = 2) (ok : Bool) : s.stageEnd ok =
    (s.domainOn 1).nextStage 2 := by
  rw [State.stageEnd_of hn ok, if_neg (by decide), if_pos rfl]

theorem State.stageEnd_3 (hn : s.getF chipBase F.CHIP_BOOT_STAGE = 3) (ok : Bool) : s.stageEnd ok =
    (s.domainOn 2).nextStage 3 := by
  rw [State.stageEnd_of hn ok, if_neg (by decide), if_neg (by decide), if_pos rfl]

theorem State.stageEnd_4 (hn : s.getF chipBase F.CHIP_BOOT_STAGE = 4) (ok : Bool) : s.stageEnd ok =
    (if s.power.strapBoot = 2 then
        (({ s with pml := { s.pml with bootCount := (s.pml.bootCount + 1) % 2 ^ 32 } }.domainOn 3).setF chipBase F.CHIP_BOOT_STAGE 15).bootMs.romFault 0x96
      else ({ s with pml := { s.pml with bootCount := (s.pml.bootCount + 1) % 2 ^ 32 } }.domainOn 3).nextStage 4) := by
  rw [State.stageEnd_of hn ok, if_neg (by decide), if_neg (by decide), if_neg (by decide), if_pos rfl]

theorem State.stageEnd_5 (hn : s.getF chipBase F.CHIP_BOOT_STAGE = 5) (ok : Bool) : s.stageEnd ok =
    (match s.bootVerify with
      | (some t, _) => t
      | (none, t) => t.nextStage 5) := by
  rw [State.stageEnd_of hn ok, if_neg (by decide), if_neg (by decide), if_neg (by decide), if_neg (by decide), if_pos rfl]

theorem State.stageEnd_6 (hn : s.getF chipBase F.CHIP_BOOT_STAGE = 6) (ok : Bool) : s.stageEnd ok =
    (if s.power.strapBoot = 1 then s.bootFirmware.bootDone else s.bootFirmware.nextStage 6) := by
  rw [State.stageEnd_of hn ok, if_neg (by decide), if_neg (by decide), if_neg (by decide), if_neg (by decide), if_neg (by decide), if_pos rfl]

theorem State.stageEnd_7 (hn : s.getF chipBase F.CHIP_BOOT_STAGE = 7) (ok : Bool) : s.stageEnd ok =
    (if ok then ((s.domainReady 36).domainReady 37).nextStage 7 else s.testFail 7) := by
  rw [State.stageEnd_of hn ok, if_neg (by decide), if_neg (by decide), if_neg (by decide), if_neg (by decide), if_neg (by decide), if_neg (by decide), if_pos rfl]

theorem State.stageEnd_8 (hn : s.getF chipBase F.CHIP_BOOT_STAGE = 8) (ok : Bool) : s.stageEnd ok =
    ((s.domainOn 38).domainOn 39).nextStage 8 := by
  rw [State.stageEnd_of hn ok, if_neg (by decide), if_neg (by decide), if_neg (by decide), if_neg (by decide), if_neg (by decide), if_neg (by decide), if_neg (by decide), if_pos rfl]

/-- Stage 4 counts the start and reads STRAP_BOOT. -/
theorem State.stage4_leaves (s : State) : ∃ t : State, (if s.power.strapBoot = 2 then
        (({ s with pml := { s.pml with bootCount := (s.pml.bootCount + 1) % 2 ^ 32 } }.domainOn 3).setF chipBase F.CHIP_BOOT_STAGE 15).bootMs.romFault 0x96
      else ({ s with pml := { s.pml with bootCount := (s.pml.bootCount + 1) % 2 ^ 32 } }.domainOn 3).nextStage 4) = t
    ∧ t.pdOn 3 = true ∧ t.pml.bootCount = (s.pml.bootCount + 1) % 2 ^ 32
    ∧ (if s.power.strapBoot = 2 then t.chip.st = .faulted ∧ t.errs.rom = true else t.chip = s.chip ∧ t.getF chipBase F.CHIP_BOOT_STAGE = 5) := by
  obtain ⟨hchip, -, hcount, hon⟩ := State.domainOn_lights { s with pml := { s.pml with bootCount := (s.pml.bootCount + 1) % 2 ^ 32 } } 3
  generalize State.domainOn { s with pml := { s.pml with bootCount := (s.pml.bootCount + 1) % 2 ^ 32 } } 3 = u at *
  have hu3 : u.pdOn 3 = true := (hon 3).trans rfl
  refine ⟨_, rfl, ?_⟩
  by_cases hstrap : s.power.strapBoot = 2
  · rw [if_pos hstrap, if_pos hstrap]
    have hregs := (State.OnlyRegs.of_setF u chipBase F.CHIP_BOOT_STAGE 15).trans (State.bootMs_onlyRegs _)
    generalize (u.setF chipBase F.CHIP_BOOT_STAGE 15).bootMs = v at *
    obtain ⟨x, hend, hst, -, hrom, -, -, hpml, hxon, hxpower⟩ := v.romFault_leaves 0x96
    have hx3 : x.pdOn 3 = true := by rw [State.pdOn, State.pdPow, hxon, hxpower, ← State.pdPow, ← State.pdOn, hregs.pdOn, hu3]
    exact ⟨hend.pdOn hx3, by rw [hend.bootCount, hpml, hregs.pml, hcount], by rw [hend.chip, hst], (congrArg Errs.rom hend.errs : _).trans hrom⟩
  · rw [if_neg hstrap, if_neg hstrap]
    have hnext := u.nextStage_onlyRegs 4
    exact ⟨by rw [hnext.pdOn, hu3], by rw [hnext.pml, hcount], by rw [hnext.chip, hchip], u.nextStage_stage (by decide)⟩

/-- Stage 6 ends the advance and reads STRAP_BOOT. -/
theorem State.stage6_leaves (s : State) : ∃ t : State, (if s.power.strapBoot = 1 then s.bootFirmware.bootDone else s.bootFirmware.nextStage 6) = t
    ∧ t.store.rollback = max s.store.rollback (s.store.advance.getD 0) ∧ t.store.advance = none
    ∧ (if s.power.strapBoot = 1 then t.chip.st = .ready ∧ t.getF chipBase F.CHIP_BOOT_STAGE = 15
      else t.chip = s.chip ∧ t.getF chipBase F.CHIP_BOOT_STAGE = 7) := by
  obtain ⟨hstore, hchip⟩ := s.bootFirmware_leaves
  obtain ⟨hroll, hadvance, -, -⟩ := s.rolled_leaves
  generalize s.bootFirmware = u at *
  refine ⟨_, rfl, ?_⟩
  by_cases hstrap : s.power.strapBoot = 1
  · rw [if_pos hstrap, if_pos hstrap]
    obtain ⟨hst, -, hkept, hstage⟩ := u.bootDone_leaves
    exact ⟨by rw [hkept, hstore, hroll], by rw [hkept, hstore, hadvance], hst, hstage⟩
  · rw [if_neg hstrap, if_neg hstrap]
    have hnext := u.nextStage_onlyRegs 6
    exact ⟨by rw [hnext.store, hstore, hroll], by rw [hnext.store, hstore, hadvance], by rw [hnext.chip, hchip], u.nextStage_stage (by decide)⟩

/-- Stage 5 without an advance record. -/
theorem State.stage5_fresh {s : State} (hadvance : s.store.advance = none) : ∃ t : State, (match s.bootVerify with
      | (some t, _) => t
      | (none, t) => t.nextStage 5) = t ∧ (match s.fwFails s.store.active with
          | some (c, _) => t.chip.st = .faulted ∧ t.errs.rom = true ∧ t.getF secBase F.SEC_VERIFY_FAIL_CHECK = c
          | none => t.chip = s.chip ∧ t.store.running = s.store.active ∧ t.getF chipBase F.CHIP_BOOT_STAGE = 6
            ∧ t.store.rollback = s.store.rollback
            ∧ t.store.advance = (if s.store.rollback < fwRoll s.store.active then some (fwRoll s.store.active) else none)) := by
  have hrolled : s.rolled = s := by rw [State.rolled, hadvance]
  cases hcheck : s.fwFails s.store.active with
  | some e =>
    obtain ⟨t, hdone, hst, hrom, hfail, -⟩ := State.bootVerify_bad (c := e.1) (st := e.2) hrolled hcheck
    exact ⟨t, by rw [hdone], hst, hrom, hfail⟩
  | none =>
    rw [State.bootVerify_good hrolled hcheck]
    refine ⟨_, rfl, ?_⟩
    obtain ⟨v, hv⟩ : ∃ v, v = s.fwRuns := ⟨_, rfl⟩
    have hnext := v.nextStage_onlyRegs 5
    have hstage := v.nextStage_stage (n := 5) (by decide)
    rw [← hv]
    dsimp only
    generalize v.nextStage 5 = t at *
    rw [hnext.store, hnext.chip, hstage, hv]
    exact ⟨rfl, rfl, rfl, rfl, rfl⟩

/-- Stage 5 with an advance record. -/
theorem State.stage5_advances {s : State} {r : Nat} (hadvance : s.store.advance = some r) : ∃ t : State, (match s.bootVerify with
      | (some t, _) => t
      | (none, t) => t.nextStage 5) = t ∧ t.store.rollback = max s.store.rollback r ∧ t.store.advance ≠ some r := by
  obtain ⟨hroll, hnone, -, -⟩ := s.rolled_leaves
  rw [hadvance, Option.getD_some] at hroll
  obtain ⟨u, hu⟩ : ∃ u, s.rolled = u := ⟨_, rfl⟩
  rw [hu] at hroll hnone
  cases hcheck : u.fwFails u.store.active with
  | some e =>
    obtain ⟨t, hdone, -, -, -, hstore⟩ := State.bootVerify_bad (c := e.1) (st := e.2) hu hcheck
    exact ⟨t, by rw [hdone], by rw [hstore, hroll], by rw [hstore, hnone]; exact (Option.some_ne_none r).symm⟩
  | none =>
    rw [State.bootVerify_good hu hcheck]
    refine ⟨_, rfl, ?_⟩
    obtain ⟨v, hv⟩ : ∃ v, v = u.fwRuns := ⟨_, rfl⟩
    have hnext := v.nextStage_onlyRegs 5
    rw [← hv]
    dsimp only
    generalize v.nextStage 5 = t at *
    rw [hnext.store, hv]
    refine ⟨hroll, ?_⟩
    show (if u.store.rollback < fwRoll u.store.active then some (fwRoll u.store.active) else none) ≠ some r
    split
    · next h =>
      intro heq
      rw [Option.some.inj heq, hroll] at h
      exact absurd h (Nat.not_lt.2 (Nat.le_max_right _ _))
    · exact (Option.some_ne_none r).symm

/-- Stages 2, 3 and 8 switch domains on. -/
theorem State.stage_switchesOn {n d : Nat} (hn : s.getF chipBase F.CHIP_BOOT_STAGE = n) (ok : Bool) (hmem : (n, d) ∈ [(2, 1), (3, 2), (8, 38), (8, 39)]) :
    (s.stageEnd ok).getF chipBase F.CHIP_BOOT_STAGE = n + 1 ∧ (s.stageEnd ok).pdOn d = true ∧ (s.stageEnd ok).chip = s.chip
      ∧ (s.stageEnd ok).mem.wshadow = s.mem.wshadow := by
  have hlast : (s.stageEnd ok) = ((s.domainOn 38).domainOn 39).nextStage 8 → d = 38 ∨ d = 39 → ((s.stageEnd ok).getF chipBase F.CHIP_BOOT_STAGE = 8 + 1
      ∧ (s.stageEnd ok).pdOn d = true ∧ (s.stageEnd ok).chip = s.chip ∧ (s.stageEnd ok).mem.wshadow = s.mem.wshadow) := by
    intro hdone hd
    obtain ⟨hchip, hshadow, -, hon⟩ := s.domainOn_lights 38
    obtain ⟨hchip', hshadow', -, hon'⟩ := (s.domainOn 38).domainOn_lights 39
    rw [hdone]
    refine State.stage_lights (by decide) ⟨hchip'.trans hchip, hshadow'.trans hshadow⟩ ?_
    rw [hon', hon]
    rcases hd with rfl | rfl <;> rfl
  simp only [List.mem_cons, Prod.mk.injEq, List.not_mem_nil, or_false] at hmem
  rcases hmem with ⟨rfl, rfl⟩ | ⟨rfl, rfl⟩ | ⟨rfl, rfl⟩ | ⟨rfl, rfl⟩
  · obtain ⟨hchip, hshadow, -, hon⟩ := s.domainOn_lights 1
    rw [State.stageEnd_2 hn]
    exact State.stage_lights (by decide) ⟨hchip, hshadow⟩ (hon 1)
  · obtain ⟨hchip, hshadow, -, hon⟩ := s.domainOn_lights 2
    rw [State.stageEnd_3 hn]
    exact State.stage_lights (by decide) ⟨hchip, hshadow⟩ (hon 2)
  · exact hlast (State.stageEnd_8 hn ok) (Or.inl rfl)
  · exact hlast (State.stageEnd_8 hn ok) (Or.inr rfl)

/-- Stage 7 switches the stacks on. -/
theorem State.stage7_stacks {s u v : State} (h1 : (s.lit 36).Relit u) (h2 : (u.lit 37).Relit v) : (v.nextStage 7).pdOn 36 = true
    ∧ (v.nextStage 7).pdOn 37 = true ∧ (v.nextStage 7).getF chipBase F.CHIP_BOOT_STAGE = 8 ∧ (v.nextStage 7).chip = s.chip := by
  have hnext := v.nextStage_onlyRegs 7
  have hstage : (v.nextStage 7).getF chipBase F.CHIP_BOOT_STAGE = 8 := v.nextStage_stage (n := 7) (by decide)
  refine ⟨?_, ?_, hstage, (hnext.chip.trans h2.chip).trans h1.chip⟩
  · rw [hnext.pdOn, h2.pdOn, State.lit_pdOn, h1.pdOn, State.lit_pdOn, decide_eq_true (rfl : 36 = 36), Bool.true_or, Bool.or_true]
  · rw [hnext.pdOn, h2.pdOn, State.lit_pdOn, decide_eq_true (rfl : 37 = 37), Bool.true_or]

/-- Stage 10 without a slice. -/
theorem State.stageEnd_10 (hn : s.getF chipBase F.CHIP_BOOT_STAGE = 10) (ok : Bool) (hslice : s.bist.slice = none) :
    s.stageEnd ok = (s.setSlice none).bootDone := by
  have htested : s.bootTested = true := by
    unfold State.bootTested
    rw [hslice]
  rw [State.stageEnd_of hn ok, if_neg (by decide), if_neg (by decide), if_neg (by decide), if_neg (by decide), if_neg (by decide), if_neg (by decide), if_neg (by decide), if_neg (by decide), if_neg (by decide), if_pos ⟨rfl, htested⟩, hslice]
  rfl

/-- Settles O32. -/
theorem startUpStages : Obligations.StartUpStages := by
  refine ⟨fun s ok hst hlive hn => ?_, fun s ok n d hst hlive hn hmem => ?_, fun s ok hst hlive hn => ?_, fun s ok hst hlive hn hadvance => ?_,
    fun s ok r hst hlive hn hadvance => ?_, fun s ok hst hlive hn => ?_, fun s hst hlive hn => ⟨?_, ?_⟩, fun s ok hst hlive hn hslice => ?_⟩
  · rw [exec_startUpStage ok hst hlive, State.stageEnd_1 hn]
    exact ⟨_, rfl, s.nextStage_stage (by decide), (s.nextStage_onlyRegs 1).frame⟩
  · rw [exec_startUpStage ok hst hlive]
    exact ⟨_, rfl, State.stage_switchesOn hn ok hmem⟩
  · obtain ⟨t, hdone, h⟩ := s.stage4_leaves
    rw [exec_startUpStage ok hst hlive, State.stageEnd_4 hn, hdone]
    exact ⟨t, rfl, h⟩
  · obtain ⟨t, hdone, h⟩ := State.stage5_fresh hadvance
    rw [exec_startUpStage ok hst hlive, State.stageEnd_5 hn, hdone]
    exact ⟨t, rfl, h⟩
  · obtain ⟨t, hdone, h⟩ := State.stage5_advances hadvance
    rw [exec_startUpStage ok hst hlive, State.stageEnd_5 hn, hdone]
    exact ⟨t, rfl, h⟩
  · obtain ⟨t, hdone, h⟩ := s.stage6_leaves
    rw [exec_startUpStage ok hst hlive, State.stageEnd_6 hn, hdone]
    exact ⟨t, rfl, h⟩
  · rw [exec_startUpStage true hst hlive, State.stageEnd_7 hn, if_pos rfl]
    exact ⟨_, rfl, State.stage7_stacks (s.domainReady_relit 36) (State.domainReady_relit _ 37)⟩
  · obtain ⟨hfaulted, hrom, hfail⟩ := s.testFail_leaves 7
    rw [exec_startUpStage false hst hlive, State.stageEnd_7 hn, if_neg Bool.false_ne_true]
    exact ⟨_, rfl, hfaulted, hrom, hfail⟩
  · obtain ⟨hready, hprev, -, hstage⟩ := (s.setSlice none).bootDone_leaves
    rw [exec_startUpStage ok hst hlive, State.stageEnd_10 hn ok hslice]
    exact ⟨_, rfl, hready, hprev.trans hst, hstage⟩

end

end Sys2Proof.Machine
end


section
/-! PROOFS. O28: power requests, PWRGOOD and domains that settle (R508, R514, R516, R419, R524, R527). -/

namespace Sys2Proof.Machine

/-! ## The plan of a request -/

section
variable {s : State} {m v : Nat} {c : Option Nat}

/-- The switches that a request asks for, in order (R514). -/
def State.switches (s : State) (m v : Nat) : List (Nat × Bool) :=
  ((List.range 40).filter (fun (d : Nat) => m.testBit d && decide (v.testBit d ≠ s.pdPow d))).map (fun d => (d, v.testBit d))

/-- What PWR_REQ reads after a request. -/
def State.requested (s : State) (m v : Nat) : Nat := (List.range 40).foldl (fun n d =>
  if 4 ≤ d ∧ m.testBit d = true then putBits n d 1 (b2n (v.testBit d)) else n)
  ((s.reg (pwrBase + 8)).toNat + (s.reg (pwrBase + 0xC)).toNat * 2 ^ 32)

/-- The state in which the power controller begins a request. -/
def State.planned (s : State) (m v : Nat) (c : Option Nat) : State :=
  { (s.setReg (pwrBase + 8) (BitVec.ofNat 32 (putBits 0 0 32 (s.requested m v)))).setReg (pwrBase + 0xC) (BitVec.ofNat 32 (s.requested m v / 2 ^ 32)) with
    power := { s.power with plan := s.power.plan ++ s.switches m v, cmd := c } }

/-- The domains that are on, or come on, once a request is done. -/
def State.resulting (s : State) (m v : Nat) : Nat := (List.range 40).foldl (fun n d =>
  if (if m.testBit d then v.testBit d else s.on.testBit d || decide (d ∈ s.power.settling)) then n + 2 ^ d else n) 0

theorem State.planned_frame (s : State) (m v : Nat) (c : Option Nat) : { s.planned m v c with regs := s.regs, power := s.power } = s := by
  have h := (State.OnlyRegs.of_setReg s (pwrBase + 8) (BitVec.ofNat 32 (putBits 0 0 32 (s.requested m v)))).trans
    (.of_setReg _ (pwrBase + 0xC) (BitVec.ofNat 32 (s.requested m v / 2 ^ 32)))
  unfold State.planned
  generalize (s.setReg (pwrBase + 8) (BitVec.ofNat 32 (putBits 0 0 32 (s.requested m v)))).setReg (pwrBase + 0xC) (BitVec.ofNat 32 (s.requested m v / 2 ^ 32)) = u at *
  exact congrArg (fun x : State => { x with power := s.power }) h.frame

theorem State.pwrPlan_of_ok (h : (s.pwrPlan m v c).isSome = true) : s.pwrPlan m v c = some (s.planned m v c).pwrGo := by
  have hdone : s.pwrPlan m v c = if pdSetOk (s.resulting m v) then some (s.planned m v c).pwrGo else none := by
    unfold State.pwrPlan
    extract_lets result ds keep lo hi req req2 s1 p1
    have hs1 : s1 = (s.setReg (pwrBase + 8) (BitVec.ofNat 32 (putBits 0 0 32 (s.requested m v)))).setReg (pwrBase + 0xC)
      (BitVec.ofNat 32 (s.requested m v / 2 ^ 32)) := rfl
    have hpower : s1.power = s.power := (State.OnlyRegs.of_setReg s _ _).trans (.of_setReg _ _ _) |>.power
    unfold State.planned
    rw [← hs1]
    have hp1 : p1 = s.power := hpower
    clear_value s1 p1
    have hresult : result = s.resulting m v := rfl
    have hds : ds.map (fun d => (d, v.testBit d)) = s.switches m v := rfl
    rw [hpower, hp1, hresult, hds]
  rw [hdone] at h ⊢
  split at h
  · next hok => exact if_pos hok
  · exact absurd h Bool.false_ne_true

theorem State.switches_none (h : ∀ d, d < 40 → m.testBit d = true → v.testBit d = s.pdPow d) : s.switches m v = [] := by
  unfold State.switches
  rw [List.filter_eq_nil_iff.2 fun d hd hp => ?_, List.map_nil]
  rw [Bool.and_eq_true, decide_eq_true_iff] at hp
  exact hp.2 (h d (List.mem_range.1 hd) hp.1)

theorem State.switches_on (h : ∀ d, d < 40 → m.testBit d = true → s.pdPow d = true → v.testBit d = true) :
    s.switches m v = ((List.range 40).filter (fun (d : Nat) => m.testBit d && v.testBit d && !s.pdPow d)).map (fun d => (d, true)) := by
  unfold State.switches
  have hfilter : (List.range 40).filter (fun (d : Nat) => m.testBit d && decide (v.testBit d ≠ s.pdPow d))
      = (List.range 40).filter (fun (d : Nat) => m.testBit d && v.testBit d && !s.pdPow d) := by
    refine List.filter_congr fun d hd => ?_
    have hkeep := h d (List.mem_range.1 hd)
    cases hm : m.testBit d <;> cases hv : v.testBit d <;> cases hp : s.pdPow d <;> simp_all
  rw [hfilter]
  refine List.map_congr_left fun d hd => ?_
  have hp := (List.mem_filter.1 hd).2
  rw [Bool.and_eq_true, Bool.and_eq_true] at hp
  rw [hp.1.2]

theorem State.settlingBig_le (s : State) : s.settlingBig ≤ s.power.settling.length := List.length_filter_le _ _

theorem State.powerUp_off {d : Nat} (hoff : s.pdPow d = false) (hd : d ∉ s.power.settling) :
    s.powerUp d = { s with power := { s.power with settling := s.power.settling ++ [d] } } :=
  if_neg (by rw [hoff]; exact fun h => h.elim Bool.false_ne_true hd)

/-- The controller switches at most four domains on at once. -/
theorem State.pwrRun_on {ds : List Nat} {n : Nat} (hplan : s.power.plan = ds.map (fun d => (d, true))) (hlen : s.power.settling.length + ds.length ≤ 4)
    (hn : ds.length < n) (hoff : ∀ d ∈ ds, s.pdPow d = false) (hnew : (s.power.settling ++ ds).Nodup) (hne : s.power.settling ++ ds ≠ []) :
    s.pwrRun n = { s with power := { s.power with plan := [], settling := s.power.settling ++ ds } } := by
  obtain ⟨n, rfl⟩ : ∃ k, n = k + 1 := ⟨n - 1, by omega⟩
  induction ds generalizing s n with
  | nil =>
    unfold State.pwrRun
    rw [hplan]
    rw [List.append_nil] at hne ⊢
    have hempty : ¬s.power.settling.isEmpty = true := fun h => hne (List.isEmpty_iff.1 h)
    have hpower : { s.power with plan := [], settling := s.power.settling } = s.power := by rw [show ([] : List (Nat × Bool)) = s.power.plan from hplan.symm]
    rw [hpower]
    exact if_neg hempty
  | cons d ds ih =>
    obtain ⟨k, rfl⟩ : ∃ k, n = k + 1 := ⟨n - 1, by simp only [List.length_cons] at hn; omega⟩
    have hsmall : ¬(4 ≤ d ∧ d < 36 ∧ 4 ≤ s.settlingBig) := by
      have := s.settlingBig_le
      simp only [List.length_cons] at hlen
      omega
    have hdnew : d ∉ s.power.settling := fun h => (List.nodup_append.1 hnew).2.2 d h d List.mem_cons_self rfl
    obtain ⟨u, hu, huplan, husettling, huon⟩ : ∃ u : State, u = { s with power := { s.power with plan := ds.map (fun d => (d, true)), settling := s.power.settling ++ [d] } }
      ∧ u.power.plan = ds.map (fun d => (d, true)) ∧ u.power.settling = s.power.settling ++ [d] ∧ u.on = s.on := ⟨_, rfl, rfl, rfl, rfl⟩
    have hstep : s.pwrRun (k + 1 + 1) = u.pwrRun (k + 1) := by
      rw [State.pwrRun, hplan, List.map_cons]
      dsimp only
      rw [if_neg hsmall, State.powerUp_off (s := { s with power := { s.power with plan := ds.map (fun d => (d, true)) } }) (hoff d List.mem_cons_self) hdnew, hu]
    rw [hstep, ih huplan (by rw [husettling]; simp only [List.length_append, List.length_cons, List.length_nil] at hlen ⊢; omega)
      (fun e he => by rw [State.pdPow, huon]; exact hoff e (List.mem_cons_of_mem _ he)) (by rw [husettling]; simpa only [List.append_assoc, List.singleton_append] using hnew)
      (by rw [husettling]; simp) k (by simp only [List.length_cons] at hn; omega), husettling, hu]
    simp only [List.append_assoc, List.singleton_append]

/-- A request that only switches domains on, at most four. -/
theorem State.pwrGo_planned_on {new : List Nat} (hsettling : s.power.settling = []) (hplan : s.power.plan = [])
    (hnew : s.switches m v = new.map (fun d => (d, true))) (hlen : new.length ≤ 4) (hne : new ≠ []) (hoff : ∀ d ∈ new, s.pdPow d = false) (hnodup : new.Nodup) :
    (s.planned m v c).pwrGo = { s.planned m v c with power := { s.power with plan := [], settling := new, cmd := c } } := by
  have hrun := State.pwrRun_on (s := s.planned m v c) (ds := new) (n := 48) (by
      show s.power.plan ++ s.switches m v = _
      rw [hplan, hnew]
      rfl) (by show s.power.settling.length + _ ≤ 4; rw [hsettling]; simpa using hlen) (by omega) hoff
    (by show (s.power.settling ++ new).Nodup; rw [hsettling]; exact hnodup) (by show s.power.settling ++ new ≠ []; rw [hsettling]; exact hne)
  rw [State.pwrGo, hrun]
  show { s.planned m v c with power := { s.power with plan := [], settling := s.power.settling ++ new, cmd := c } } = _
  rw [hsettling]
  rfl

/-- A bit of what PWR_REQ reads. -/
theorem State.requested_testBit {e : Nat} (he : 4 ≤ e) (h40 : e < 40) (hm : m.testBit e = true) : (s.requested m v).testBit e = v.testBit e := by
  unfold State.requested
  refine foldl_establishes _ (Q := fun d (n : Nat) => 4 ≤ d → m.testBit d = true → n.testBit d = v.testBit d) (R := fun _ _ => True)
    (fun d n _ hd hmd => ?_) (fun d q n hn hd hmd => ?_) (fun _ _ _ _ => Or.inr trivial) (List.mem_range.2 h40) (Or.inr trivial) he hm
  · rw [if_pos ⟨hd, hmd⟩, testBit_putBits, if_neg (by omega), if_pos (by omega), Nat.sub_self]
    cases v.testBit d <;> rfl
  · split
    · rw [testBit_putBits]
      rcases Nat.lt_trichotomy d q with h | rfl | h
      · rw [if_pos h, hn hd hmd]
      · rw [if_neg (by omega), if_pos (by omega), Nat.sub_self]
        cases v.testBit d <;> rfl
      · rw [if_neg (by omega), if_neg (by omega), hn hd hmd]
    · exact hn hd hmd

theorem State.planned_reg (s : State) (m v : Nat) (c : Option Nat) (p : Power) {e : Nat} (he : 4 ≤ e) (h32 : e < 32) (hm : m.testBit e = true) :
    (State.reg { s.planned m v c with power := p } (pwrBase + 8)).toNat.testBit e = v.testBit e := by
  obtain ⟨u, hu⟩ : ∃ u, u = s.setReg (pwrBase + 8) (BitVec.ofNat 32 (putBits 0 0 32 (s.requested m v))) := ⟨_, rfl⟩
  have hregs : State.regs { s.planned m v c with power := p } = (u.setReg (pwrBase + 0xC) (BitVec.ofNat 32 (s.requested m v / 2 ^ 32))).regs := by
    rw [hu]
    rfl
  rw [State.reg_of_regs hregs, State.reg_setReg_of_ne _ _ (by decide), hu, State.reg_setReg_self, BitVec.toNat_ofNat, Nat.testBit_mod_two_pow, testBit_putBits,
    if_neg (by omega), if_pos (by omega), Nat.sub_zero, State.requested_testBit he (by omega) hm, decide_eq_true h32, Bool.true_and]

end

/-! ## PWR_REQ -/

section
variable {s : State}

theorem exec_pwrReqWrite {hi : Bool} {v : Nat} (hst : s.isIn [.boot, .ready] = true) : exec (.pwrReqWrite hi v) s =
    .next (match s.pwrPlan (if hi then 0xFF * 2 ^ 32 else 0xFFFFFFF0) (if hi then v * 2 ^ 32 else v) s.power.cmd with
      | some t => t
      | none => s.flagF pwrBase F.PWR_STAT_DEP_ERR) := by
  show Host.Outcome.next (pwrReqEff s hi v) = _
  exact congrArg Host.Outcome.next (if_pos hst)

theorem reqMask_testBit {d : Nat} (h : d < 40) : (0xFFFFFFF0 : Nat).testBit d = (decide (4 ≤ d) && decide (d < 32)) := by
  have hall : ∀ d < 40, (0xFFFFFFF0 : Nat).testBit d = (decide (4 ≤ d) && decide (d < 32)) := by decide
  exact hall d h

theorem State.pwrReq_on {v : Nat} {new : List Nat} (hst : s.isIn [.boot, .ready] = true) (hplan : s.power.plan = []) (hsettling : s.power.settling = [])
    (hkeep : ∀ d, 4 ≤ d → d < 32 → s.pdPow d = true → v.testBit d = true)
    (hnew : new = (List.range 32).filter (fun (d : Nat) => decide (4 ≤ d) && v.testBit d && !s.pdPow d)) (hpos : 0 < new.length) (hlen : new.length ≤ 4)
    (hok : (s.pwrPlan 0xFFFFFFF0 v s.power.cmd).isSome = true) :
    ∃ t, exec (.pwrReqWrite false v) s = .next t ∧ t.power.settling = new ∧ t.power.plan = [] ∧ t.on = s.on
      ∧ (∀ d, 4 ≤ d → d < 32 → (t.reg (pwrBase + 8)).toNat.testBit d = v.testBit d) ∧ { t with regs := s.regs, power := s.power } = s := by
  have hswitches : s.switches 0xFFFFFFF0 v = new.map (fun d => (d, true)) := by
    rw [State.switches_on fun d h40 hm hp => ?_]
    · congr 1
      have hrange : List.range 40 = List.range 32 ++ [32, 33, 34, 35, 36, 37, 38, 39] := by decide
      have hlast : [32, 33, 34, 35, 36, 37, 38, 39].filter (fun (d : Nat) => (0xFFFFFFF0 : Nat).testBit d && v.testBit d && !s.pdPow d) = [] :=
        List.filter_eq_nil_iff.2 fun d hd => by
          have hmask : ∀ d ∈ [32, 33, 34, 35, 36, 37, 38, 39], (0xFFFFFFF0 : Nat).testBit d = false := by decide
          rw [hmask d hd, Bool.false_and, Bool.false_and]
          exact Bool.false_ne_true
      rw [hrange, List.filter_append, hlast, List.append_nil, hnew]
      refine List.filter_congr fun d hd => ?_
      have h32 := List.mem_range.1 hd
      rw [reqMask_testBit (by omega), decide_eq_true h32, Bool.and_true]
    · rw [reqMask_testBit h40, Bool.and_eq_true, decide_eq_true_iff, decide_eq_true_iff] at hm
      exact hkeep d hm.1 hm.2 hp
  have hoff : ∀ d ∈ new, s.pdPow d = false := fun d hd => by
    rw [hnew, List.mem_filter, Bool.and_eq_true, Bool.not_eq_true'] at hd
    exact hd.2.2
  have hgo := State.pwrGo_planned_on (c := s.power.cmd) hsettling hplan hswitches hlen (List.length_pos_iff.1 hpos) hoff (hnew ▸ List.nodup_range.filter _)
  have hexec := exec_pwrReqWrite (hi := false) (v := v) hst
  rw [if_neg Bool.false_ne_true, if_neg Bool.false_ne_true, State.pwrPlan_of_ok hok] at hexec
  have hframe := s.planned_frame 0xFFFFFFF0 v s.power.cmd
  have hreg {d : Nat} (h4 : 4 ≤ d) (h32 : d < 32) := s.planned_reg 0xFFFFFFF0 v s.power.cmd { s.power with plan := [], settling := new, cmd := s.power.cmd } h4 h32
    (by rw [reqMask_testBit (by omega), decide_eq_true h4, decide_eq_true h32]; rfl)
  dsimp only at hexec
  rw [hgo] at hexec
  generalize s.planned 0xFFFFFFF0 v s.power.cmd = u at *
  exact ⟨_, hexec, rfl, rfl, (congrArg State.on hframe : _), fun d h4 h32 => hreg h4 h32, hframe⟩

end

/-! ## PWR_SET -/

section
variable {s : State}

theorem exec_pwrSet (hruns : s.runs 0x0302 = true) (hok : s.front.ok 16 [] = true) (hlow : s.front.fld 0 8 % 16 = 0) (hhigh : s.front.fld 0 8 < 2 ^ 40)
    (hsettling : s.power.settling = []) (hplan : s.power.plan = []) : exec .pwrSet s =
    .next (match s.took.pwrPlan (s.front.fld 0 8) (s.front.fld 8 8) (some s.mail.nextId) with
      | some u => (u.setTaken { s.front with stage := 1 }).goesOnIf s.front
      | none => (s.took.flagF pwrBase F.PWR_STAT_DEP_ERR).fail s.front 0x0201) := by
  rw [exec_of_runs hruns]
  unfold pwrSetEff
  extract_lets mask
  have hbad : (!s.front.ok 16 [] || decide (mask % 16 ≠ 0) || decide (2 ^ 40 ≤ mask)) = false := by
    rw [hok, decide_eq_false (not_not_intro hlow), decide_eq_false (Nat.not_le.2 hhigh)]
    rfl
  rw [hbad, if_neg Bool.false_ne_true, if_pos ⟨hsettling, hplan⟩]
  rfl

theorem State.setTaken_of_absent {s : State} {x : Taken} (h : ∀ y ∈ s.mail.taken, y.id ≠ x.id) : s.setTaken x = s := by
  have hmap : s.mail.taken.map (fun y => if y.id = x.id then x else y) = s.mail.taken := by
    conv_rhs => rw [← List.map_id s.mail.taken]
    exact List.map_congr_left fun y hy => if_neg (h y hy)
  rw [State.setTaken, hmap]

theorem State.goesOnIf_of_absent {s : State} {x : Taken} (h : ∀ y ∈ s.mail.taken, y.id ≠ x.id) : s.goesOnIf x = s := by
  have hnone : s.takenBy x.id = none := List.find?_eq_none.2 fun y hy => by simpa using h y hy
  rw [State.goesOnIf, hnone]
  rfl

theorem State.answered_absent {t : State} {op status : Nat} {res : List Byte} (hruns : s.runs op = true) (h : s.answered t status res) :
    ∀ y ∈ t.mail.taken, y.id ≠ s.front.id := by
  have hfresh := ((Mail.fresh_iff _).1 ((s.runs_iff _).1 hruns).2.2.2.2.2).1
  rw [h.2.1]
  exact fun y hy => (hfresh y hy).ne

/-- What the controller leaves once nothing is planned and nothing settles: the answer. -/
theorem State.pwrGo_answers {u : State} (hplan : u.power.plan = []) (hsettling : u.power.settling = []) {id : Nat} (hcmd : u.power.cmd = some id) (n : Nat) :
    u.pwrRun (n + 1) = { u.finish id 0 (leBytes 8 u.onMask) with power := { u.power with cmd := none } } := by
  unfold State.pwrRun
  rw [hplan]
  dsimp only
  rw [hsettling, hcmd]
  rfl

section
variable (hruns : s.runs 0x0302 = true) (hok : s.front.ok 16 [] = true) (hlow : s.front.fld 0 8 % 16 = 0) (hhigh : s.front.fld 0 8 < 2 ^ 40)
  (hsettling : s.power.settling = []) (hplan : s.power.plan = [])
include hruns hok hlow hhigh hsettling hplan

theorem State.pwrSet_refused (hbad : s.took.pwrPlan (s.front.fld 0 8) (s.front.fld 8 8) (some s.mail.nextId) = none) :
    ∃ t, exec .pwrSet s = .next t ∧ s.answered t 0x0201 [] ∧ t.isF pwrBase F.PWR_STAT_DEP_ERR = true ∧ t.on = s.on ∧ t.power = s.power := by
  have hexec := exec_pwrSet hruns hok hlow hhigh hsettling hplan
  rw [hbad] at hexec
  have hflag := s.took.isF_flagF_self pwrBase (f := F.PWR_STAT_DEP_ERR) (by decide) rfl
  have honly := State.OnlyRegs.of_flagF s.took pwrBase F.PWR_STAT_DEP_ERR
  dsimp only at hexec
  generalize s.took.flagF pwrBase F.PWR_STAT_DEP_ERR = u at *
  obtain ⟨t, hdone, hans, hmail⟩ := exec_of_reply hexec ⟨_, hruns⟩ honly.sdio honly.mail
  exact ⟨t, hdone, hans, by rw [State.isF, State.getF_of_regs hmail.regs, ← State.isF, hflag], hmail.on.trans honly.on, hmail.power.trans honly.power⟩

/-- A PWR_SET whose switches are done at once answers. -/
theorem State.pwrSet_done {u : State} (hgo : s.took.pwrPlan (s.front.fld 0 8) (s.front.fld 8 8) (some s.mail.nextId)
      = some { u.finish s.front.id 0 (leBytes 8 u.onMask) with power := { u.power with cmd := none } })
    (hsdio : u.sdio = s.took.sdio) (hmail : u.mail = s.took.mail) :
    ∃ t, exec .pwrSet s = .next t ∧ s.answered t 0 (leBytes 8 u.onMask) ∧ t.power = { u.power with cmd := none }
      ∧ { t with sdio := s.sdio, mail := s.mail, power := s.power } = { u with sdio := s.sdio, mail := s.mail, power := s.power } := by
  have hexec := exec_pwrSet hruns hok hlow hhigh hsettling hplan
  rw [hgo] at hexec
  have hans : s.answered (u.finish s.front.id 0 (leBytes 8 u.onMask)) 0 (leBytes 8 u.onMask) :=
    State.finish_answered hruns (by rw [hsdio]) (by rw [hmail]) (by rw [hmail]; rfl) (by rw [State.replyVer, hmail]; rfl)
  have honly := u.finish_onlyMailbox s.front.id 0 (leBytes 8 u.onMask)
  generalize u.finish s.front.id 0 (leBytes 8 u.onMask) = w at *
  obtain ⟨x, hx, hxans, hxpower, hxframe⟩ : ∃ x : State, x = { w with power := { u.power with cmd := none } } ∧ s.answered x 0 (leBytes 8 u.onMask)
    ∧ x.power = { u.power with cmd := none } ∧ { x with power := w.power } = w := ⟨_, rfl, hans, rfl, rfl⟩
  rw [← hx] at hexec
  have habsent := State.answered_absent hruns hxans
  dsimp only at hexec
  rw [State.setTaken_of_absent (x := { s.front with stage := 1 }) habsent, State.goesOnIf_of_absent habsent] at hexec
  refine ⟨x, hexec, hxans, hxpower, ?_⟩
  rw [hx]
  exact congrArg (fun y : State => { y with power := s.power }) (honly.frame s.sdio s.mail)

theorem State.pwrSet_nothing (hsame : ∀ d, d < 40 → (s.front.fld 0 8).testBit d = true → (s.front.fld 8 8).testBit d = s.pdPow d)
    (hfits : (s.took.pwrPlan (s.front.fld 0 8) (s.front.fld 8 8) (some s.mail.nextId)).isSome = true) :
    ∃ t, exec .pwrSet s = .next t ∧ s.answered t 0 (leBytes 8 s.onMask) ∧ t.on = s.on ∧ t.power.settling = [] ∧ t.power.plan = []
      ∧ { t with sdio := s.sdio, mail := s.mail, regs := s.regs, power := s.power } = s := by
  have hnone : s.took.switches (s.front.fld 0 8) (s.front.fld 8 8) = [] := State.switches_none hsame
  have hgo := State.pwrPlan_of_ok hfits
  have hframe := s.took.planned_frame (s.front.fld 0 8) (s.front.fld 8 8) (some s.mail.nextId)
  have hpower : (s.took.planned (s.front.fld 0 8) (s.front.fld 8 8) (some s.mail.nextId)).power = { s.power with plan := [], cmd := some s.mail.nextId } := by
    show { s.power with plan := s.power.plan ++ s.took.switches (s.front.fld 0 8) (s.front.fld 8 8), cmd := some s.mail.nextId } = _
    rw [hplan, hnone]
    rfl
  generalize s.took.planned (s.front.fld 0 8) (s.front.fld 8 8) (some s.mail.nextId) = u at *
  have hu : u.pwrGo = { u.finish s.front.id 0 (leBytes 8 u.onMask) with power := { u.power with cmd := none } } :=
    State.pwrGo_answers (by rw [hpower]) (by rw [hpower]; exact hsettling) (by rw [hpower]; rfl) 47
  rw [hu] at hgo
  have hon : u.on = s.on := (congrArg State.on hframe : _)
  obtain ⟨t, hexec, hans, htpower, htframe⟩ := State.pwrSet_done hruns hok hlow hhigh hsettling hplan hgo (congrArg State.sdio hframe : _) (congrArg State.mail hframe : _)
  have hmask : u.onMask = s.onMask := by
    rw [State.onMask, hon, hpower]
    rfl
  rw [hmask] at hans
  refine ⟨t, hexec, hans, (congrArg State.on htframe : _).trans hon, by rw [htpower, hpower]; exact hsettling, by rw [htpower, hpower], ?_⟩
  have h1 := congrArg (fun x : State => { x with regs := s.regs }) htframe
  exact Eq.trans h1 (congrArg (fun x : State => { x with sdio := s.sdio, mail := s.mail }) hframe)

theorem State.pwrSet_on {new : List Nat} (hkeep : ∀ d, d < 40 → (s.front.fld 0 8).testBit d = true → s.pdPow d = true → (s.front.fld 8 8).testBit d = true)
    (hnew : new = (List.range 40).filter (fun (d : Nat) => (s.front.fld 0 8).testBit d && (s.front.fld 8 8).testBit d && !s.pdPow d))
    (hpos : 0 < new.length) (hlen : new.length ≤ 4) (hfits : (s.took.pwrPlan (s.front.fld 0 8) (s.front.fld 8 8) (some s.mail.nextId)).isSome = true) :
    ∃ t, exec .pwrSet s = .next t ∧ s.underway t ∧ t.power.settling = new ∧ t.power.plan = [] ∧ t.power.cmd = some s.mail.nextId ∧ t.on = s.on
      ∧ { t with sdio := s.sdio, mail := s.mail, regs := s.regs, power := s.power, free := s.free } = s := by
  have hswitches : s.took.switches (s.front.fld 0 8) (s.front.fld 8 8) = new.map (fun d => (d, true)) := by
    rw [State.switches_on (s := s.took) hkeep, hnew]
    rfl
  have hoff : ∀ d ∈ new, s.pdPow d = false := fun d hd => by
    rw [hnew, List.mem_filter, Bool.and_eq_true, Bool.not_eq_true'] at hd
    exact hd.2.2
  have hgo := State.pwrGo_planned_on (s := s.took) (c := some s.mail.nextId) hsettling hplan hswitches hlen (List.length_pos_iff.1 hpos) hoff
    (hnew ▸ List.nodup_range.filter _)
  have hexec := exec_pwrSet hruns hok hlow hhigh hsettling hplan
  rw [State.pwrPlan_of_ok hfits] at hexec
  have hframe := s.took.planned_frame (s.front.fld 0 8) (s.front.fld 8 8) (some s.mail.nextId)
  dsimp only at hexec
  rw [hgo] at hexec
  generalize s.took.planned (s.front.fld 0 8) (s.front.fld 8 8) (some s.mail.nextId) = u at *
  obtain ⟨w, hw, hwpower, hwframe⟩ : ∃ w : State, w = { u with power := { s.took.power with plan := [], settling := new, cmd := some s.mail.nextId } }
    ∧ w.power = { s.power with plan := [], settling := new, cmd := some s.mail.nextId } ∧ { w with power := u.power } = u := ⟨_, rfl, rfl, rfl⟩
  rw [← hw] at hexec
  clear hw
  have hwmail : w.mail = s.took.mail := (congrArg State.mail hwframe : _).trans (congrArg State.mail hframe : _)
  have hwsdio : w.sdio = s.took.sdio := (congrArg State.sdio hwframe : _).trans (congrArg State.sdio hframe : _)
  obtain ⟨v, hv⟩ : ∃ v, v = w.setTaken { s.front with stage := 1 } := ⟨_, rfl⟩
  have hids : v.mail.taken.map Taken.id = s.took.mail.taken.map Taken.id := by rw [hv, State.setTaken_ids, hwmail]
  have hvmail : w.OnlyMailbox v := by rw [hv]; exact ⟨fun _ _ => rfl⟩
  have hvsdio : v.sdio = s.took.sdio := by rw [hv]; exact hwsdio
  rw [← hv] at hexec
  have hpending := v.goesOnIf_onlyPending s.front
  have hrest := hpending.rest s.sdio s.mail s.free
  generalize v.goesOnIf s.front = t at *
  have hpower : t.power = w.power := (congrArg State.power hrest : _).trans hvmail.power
  have hon : t.on = s.on := ((congrArg State.on hrest : _).trans hvmail.on).trans ((congrArg State.on hwframe : _).trans (congrArg State.on hframe : _))
  refine ⟨t, hexec, State.underway_of hpending (by rw [hvsdio]) hids, by rw [hpower, hwpower], by rw [hpower, hwpower], by rw [hpower, hwpower], hon, ?_⟩
  have h1 := congrArg (fun x : State => { x with regs := s.regs, power := s.power }) hrest
  have h2 := congrArg (fun x : State => { x with regs := s.regs, power := s.power, free := s.free }) (hvmail.frame s.sdio s.mail)
  have h3 := congrArg (fun x : State => { x with regs := s.regs, power := s.power, free := s.free, sdio := s.sdio, mail := s.mail }) hwframe
  have h4 := congrArg (fun x : State => { x with free := s.free, sdio := s.sdio, mail := s.mail }) hframe
  exact ((Eq.trans h1 h2).trans h3).trans h4

end

end

/-- A compute domain that is switched off leaves the scratchpads alone. -/
theorem State.domainOff_spd (s : State) {d : Nat} (h4 : 4 ≤ d) (h20 : d < 20) : (s.domainOff d).mem.spd = s.mem.spd := by
  have hslice (u : State) : u.sliceDrop.mem = u.mem := by
    unfold State.sliceDrop
    split <;> rfl
  unfold State.domainOff
  split
  · rw [hslice]
    unfold State.domainCut
    extract_lets s1 p1 c1 s2 s3 r s4 m1 f1 m2 x1 c2
    rw [if_pos ⟨h4, h20⟩]
    have h1 : s1.mem.spd = s.mem.spd := by
      simp only [s1]
      rw [if_pos ⟨h4, h20⟩]
      have hsave : ((rgnBlocks (d - 4)).foldl State.saveBlock s).mem = s.mem := foldl_keeps (fun u : State => u.mem = s.mem) _ rfl fun b _ u hu => hu
      have hstop (u : State) (r : Nat) : (u.stopClock r).mem = u.mem := by
        unfold State.stopClock
        rw [State.setF_mem, State.setF_mem, State.setRx_mem]
      rw [hstop, hsave]
    have h3 : s3.mem.spd = s1.mem.spd := rfl
    clear_value s3
    have h5 := foldl_keeps (fun u : State => u.mem.spd = s3.mem.spd) (fun st b => st.setBx b (st.bx b).wakeCompute) (l := rgnBlocks (d - 4)) rfl fun b _ u hu => hu
    exact (h5.trans h3).trans h1
  · rfl

section
variable {s : State}

theorem State.pwrSet_off {d : Nat} (hruns : s.runs 0x0302 = true) (hok : s.front.ok 16 [] = true) (h4 : 4 ≤ d) (h20 : d < 20)
    (hmask : s.front.fld 0 8 = 2 ^ d) (hoff : (s.front.fld 8 8).testBit d = false) (hon : s.pdPow d = true) (hsettling : s.power.settling = [])
    (hplan : s.power.plan = []) (hfits : (s.took.pwrPlan (s.front.fld 0 8) (s.front.fld 8 8) (some s.mail.nextId)).isSome = true) :
    ∃ t, exec .pwrSet s = .next t ∧ s.answered t 0 (leBytes 8 t.onMask) ∧ t.pdPow d = false ∧ (∀ q, q ≠ d → t.pdPow q = s.pdPow q)
      ∧ t.chip = s.chip ∧ t.mem.spd = s.mem.spd ∧ t.mem.hbm = s.mem.hbm ∧ t.mem.wshadow = s.mem.wshadow := by
  have hlow : s.front.fld 0 8 % 16 = 0 := by
    rw [hmask, show d = 4 + (d - 4) by omega, Nat.pow_add]
    exact Nat.mul_mod_right 16 _
  have hhigh : s.front.fld 0 8 < 2 ^ 40 := by
    rw [hmask]
    exact Nat.pow_lt_pow_right (by decide) (by omega)
  have hswitches : s.took.switches (s.front.fld 0 8) (s.front.fld 8 8) = [(d, false)] := by
    have hfilter : (List.range 40).filter (fun (q : Nat) => (s.front.fld 0 8).testBit q && decide ((s.front.fld 8 8).testBit q ≠ s.took.pdPow q)) = [d] := by
      have hone : (List.range 40).filter (fun (q : Nat) => decide (q = d)) = [d] := by
        have hall : ∀ d < 40, (List.range 40).filter (fun (q : Nat) => decide (q = d)) = [d] := by decide
        exact hall d (by omega)
      rw [← hone]
      refine List.filter_congr fun q _ => ?_
      rw [hmask, Nat.testBit_two_pow]
      by_cases hq : q = d
      · rw [hq, hoff, show s.took.pdPow d = true from hon]
        simp
      · rw [decide_eq_false hq, decide_eq_false fun h => hq h.symm, Bool.false_and]
    unfold State.switches
    rw [hfilter, List.map_singleton, hoff]
  have hgo := State.pwrPlan_of_ok hfits
  have hframe := s.took.planned_frame (s.front.fld 0 8) (s.front.fld 8 8) (some s.mail.nextId)
  have hpower : (s.took.planned (s.front.fld 0 8) (s.front.fld 8 8) (some s.mail.nextId)).power = { s.power with plan := [(d, false)], cmd := some s.mail.nextId } := by
    show { s.power with plan := s.power.plan ++ s.took.switches (s.front.fld 0 8) (s.front.fld 8 8), cmd := some s.mail.nextId } = _
    rw [hplan, hswitches]
    rfl
  generalize s.took.planned (s.front.fld 0 8) (s.front.fld 8 8) (some s.mail.nextId) = u at *
  obtain ⟨v, hv, hvpower, hvframe⟩ : ∃ v : State, v = { u with power := { u.power with plan := [] } }
    ∧ v.power = { s.power with plan := [], cmd := some s.mail.nextId } ∧ { v with power := u.power } = u := ⟨_, rfl, by rw [hpower], rfl⟩
  have hrun : u.pwrGo = (v.domainOff d).pwrRun (46 + 1) := by
    rw [State.pwrGo, State.pwrRun, hpower]
    dsimp only
    rw [if_neg (by omega), hv, hpower]
  clear hv
  obtain ⟨hdim, hpow⟩ := v.domainOff_leaves d
  have hspd := v.domainOff_spd h4 h20
  generalize v.domainOff d = w at *
  have hwpower := hdim.power
  have hwplan : w.power.plan = [] := (congrArg Power.plan hwpower : _).trans (by rw [hvpower])
  have hwset : w.power.settling = [] := (congrArg Power.settling hwpower : _).trans (by rw [hvpower]; exact hsettling)
  have hwcmd : w.power.cmd = some s.mail.nextId := (congrArg Power.cmd hwpower : _).trans (by rw [hvpower])
  rw [State.pwrGo_answers hwplan hwset hwcmd] at hrun
  rw [hrun] at hgo
  have hsame : { v with sdio := s.sdio, mail := s.mail, regs := s.regs, power := s.power } = s :=
    (congrArg (fun x : State => { x with sdio := s.sdio, mail := s.mail, regs := s.regs, power := s.power }) hvframe).trans
      (congrArg (fun x : State => { x with sdio := s.sdio, mail := s.mail }) hframe)
  have hwmail : w.mail = s.took.mail := hdim.mail.trans ((congrArg State.mail hvframe : _).trans (congrArg State.mail hframe : _))
  have hwsdio : w.sdio = s.took.sdio := (congrArg State.sdio hdim.frame : _).trans ((congrArg State.sdio hvframe : _).trans (congrArg State.sdio hframe : _))
  obtain ⟨t, hexec, hans, htpower, htframe⟩ := State.pwrSet_done hruns hok hlow hhigh hsettling hplan hgo hwsdio hwmail
  have hton : t.on = w.on := (congrArg State.on htframe : _)
  have htmem : t.mem = w.mem := (congrArg State.mem htframe : _)
  have hmask : t.onMask = w.onMask := by
    rw [State.onMask, hton, htpower]
    rfl
  have hvon (q : Nat) : v.pdPow q = s.pdPow q := by rw [State.pdPow, show v.on = s.on from (congrArg State.on hsame : _), State.pdPow]
  have hvmem : v.mem = s.mem := (congrArg State.mem hsame : _)
  have hwmem := hdim.mem
  refine ⟨t, hexec, by rw [hmask]; exact hans, ?_, fun q hq => ?_, ?_, ?_, ?_, ?_⟩
  · rw [State.pdPow, hton, ← State.pdPow, hpow, decide_eq_false (by simp), Bool.false_and]
  · rw [State.pdPow, hton, ← State.pdPow, hpow, decide_eq_true hq, Bool.true_and, hvon]
  · rw [show t.chip = w.chip from (congrArg State.chip htframe : _), hdim.chip]
    exact (congrArg State.chip hsame : _)
  · rw [htmem, hspd, hvmem]
  · rw [htmem, show w.mem.hbm = v.mem.hbm from (congrArg Mems.hbm hwmem : _), hvmem]
  · rw [htmem, show w.mem.wshadow = v.mem.wshadow from (congrArg Mems.wshadow hwmem : _), hvmem]

/-! ## Domains that settle -/

theorem State.domainSettled_held {d : Nat} (h4 : 4 ≤ d) (h20 : d < 20) (hd : d ∈ s.power.settling) (hheld : d ∉ s.power.held)
    (hspd : s.pdPow (d + 16) = false) (hplan : s.power.plan = []) :
    exec (.domainSettled d) s = .next { s with power := { s.power with held := s.power.held ++ [d] } } := by
  show Host.Outcome.next (domainSettled s d) = _
  unfold domainSettled
  rw [if_pos hd, if_pos ⟨h4, h20, hspd⟩, if_neg hheld, State.pwrGo]
  unfold State.pwrRun
  dsimp only
  rw [hplan]
  dsimp only
  rw [if_neg fun h => List.ne_nil_of_mem hd (List.isEmpty_iff.1 h)]

theorem State.domainSettled_on {d : Nat} (hd : d ∈ s.power.settling) (hspd : 4 ≤ d ∧ d < 20 → s.pdPow (d + 16) = true)
    (hheld : 20 ≤ d ∧ d < 36 → d - 16 ∉ s.power.held) (hplan : s.power.plan = []) (hwake : s.power.wake = 0) (hset : s.takenOp 0x0302 = none)
    (hload : s.takenOp 0x0201 = none) :
    ∃ t, exec (.domainSettled d) s = .next t ∧ t.pdOn d = true ∧ t.power.settling = s.power.settling.filter (fun x => decide (x ≠ d))
      ∧ (∀ q, q ≠ d → t.pdOn q = s.pdOn q) ∧ t.chip = s.chip ∧ t.mem.hbm = s.mem.hbm ∧ t.mem.wshadow = s.mem.wshadow := by
  have husable : s.domainUsable d = s.domainReady d := if_neg fun h => hheld ⟨h.1, h.2.1⟩ h.2.2
  have hlit := s.domainReady_relit d
  have hlitOn := s.lit_pdOn d
  obtain ⟨u, hu⟩ : ∃ u, u = s.domainReady d := ⟨_, rfl⟩
  rw [← hu] at husable hlit
  have hsub : u.mail.taken ⊆ s.mail.taken := by rw [hlit.taken]; exact List.Subset.refl _
  have hdone : domainSettled s d = ((u.pwrGo).pwrSetGo).wakeGo := by
    unfold domainSettled
    rw [if_pos hd, if_neg fun h => by rw [hspd ⟨h.1, h.2.1⟩] at h; exact Bool.false_ne_true h.2.2.symm]
    dsimp only
    rw [husable, State.takenOp_of_subset hsub hload]
  have hupower := hlit.power
  have huplan : u.power.plan = [] := (congrArg Power.plan hupower : _).trans hplan
  have huwake : u.power.wake = 0 := (congrArg Power.wake hupower : _).trans hwake
  obtain ⟨hframe, hsub'⟩ := State.pwrGo_idle huplan
  have hgpower : { u.pwrGo.power with cmd := u.power.cmd } = u.power := (congrArg State.power hframe : _)
  rw [State.pwrSetGo_of_none (State.takenOp_of_subset hsub' (State.takenOp_of_subset hsub hset)),
    State.wakeGo_of_awake ((congrArg Power.wake hgpower : _).trans huwake)] at hdone
  generalize u.pwrGo = t at *
  have htOn (q : Nat) : t.pdOn q = (decide (q = d) || s.pdOn q) := by
    rw [← hlitOn q, ← hlit.pdOn q, State.pdOn, State.pdPow, show t.on = u.on from (congrArg State.on hframe : _),
      show t.power.ret = u.power.ret from (congrArg Power.ret hgpower : _), State.pdOn, State.pdPow]
  refine ⟨t, congrArg Host.Outcome.next hdone, ?_, ?_, fun q hq => ?_, ?_, ?_, ?_⟩
  · rw [htOn, decide_eq_true rfl, Bool.true_or]
  · exact (congrArg Power.settling hgpower : _).trans (congrArg Power.settling hupower : _)
  · rw [htOn, decide_eq_false hq, Bool.false_or]
  · exact (congrArg State.chip hframe : _).trans hlit.chip
  · rw [show t.mem = u.mem from (congrArg State.mem hframe : _), hlit.hbm]
    rfl
  · rw [show t.mem = u.mem from (congrArg State.mem hframe : _), hlit.wshadow]
    rfl

end

/-! ## PWRGOOD -/

theorem SMap.get_filter_absent {α : Type} {d : α} {m : SMap α} {p : Nat × α → Bool} {a : Nat} (h : ∀ v, p (a, v) = false) : SMap.get d (m.filter p) a = d :=
  SMap.get_of_only (fun e he hea => by
    obtain ⟨k, v⟩ := e
    obtain rfl : k = a := hea
    exact absurd (List.mem_filter.1 he).2 (by rw [h]; exact Bool.false_ne_true)) fun _ => rfl

theorem fusedRepair_boot (w : Word) : fusedRepair (chipBase + F.CHIP_BOOT_STAGE.off) w = false := by
  have hwin : (locate (chipBase + F.CHIP_BOOT_STAGE.off)).map Loc.win = some .chip := by decide
  unfold fusedRepair
  split
  · next l hl =>
    rw [hl] at hwin
    rw [show l.win = .chip from Option.some.inj hwin]
    rfl
  · rfl

section
variable {s : State}

/-- The end of a reset writes no stage. -/
theorem State.chipRise_stage (s : State) (c b i f : Nat) : (s.chipRise c b i f).getF chipBase F.CHIP_BOOT_STAGE = s.getF chipBase F.CHIP_BOOT_STAGE := by
  have hbad (u : State) (v : Nat) : (u.setF chipBase F.CHIP_BOOT_STRAP_BAD v).getF chipBase F.CHIP_BOOT_STAGE = u.getF chipBase F.CHIP_BOOT_STAGE :=
    u.getF_setF_of_apart _ _ (by decide) (by decide)
  have hboot (u : State) (v : Nat) : (u.setF chipBase F.CHIP_BOOT_STRAP_BOOT v).getF chipBase F.CHIP_BOOT_STAGE = u.getF chipBase F.CHIP_BOOT_STAGE :=
    u.getF_setF_of_apart _ _ (by decide) (by decide)
  have hcause (u : State) (v : Nat) : (u.setF chipBase F.CHIP_RST_CAUSE_CAUSE v).getF chipBase F.CHIP_BOOT_STAGE = u.getF chipBase F.CHIP_BOOT_STAGE :=
    u.getF_setF_of_apart _ _ (by decide) (by decide)
  unfold State.chipRise
  extract_lets p1 c1 s1 s2
  have h1 : s1.regs = s.regs := rfl
  rw [hbad]
  clear_value s1
  simp only [s2]
  rw [hboot, hcause, State.getF_of_regs h1]

/-- What the power-on reset starts from: MRAM, fuses, and nothing else (R524). -/
theorem State.powerOn_leaves {s t : State} {b i f : Nat} (ht : s.powerOn b i f = t) :
    t.chip = ⟨.boot, .off, false, 0⟩ ∧ t.on = 1 ∧ t.getF chipBase F.CHIP_BOOT_STAGE = 1
      ∧ t.getF chipBase F.CHIP_RST_CAUSE_CAUSE = 0 ∧ t.power.strapBoot = b ∧ t.power.feedtag = f ∧ t.power.strapIo18 = i
      ∧ t.pins.pwrgood = true ∧ t.mail.sess = false ∧ t.mem.hbm = [] ∧ t.mem.wshadow = s.mem.wshadow ∧ t.mem.cirrus = s.mem.cirrus
      ∧ t.pml.slots = s.pml.slots ∧ t.store.imgs = s.store.imgs ∧ t.store.active = s.store.active := by
  obtain ⟨u, ⟨hu⟩, -, hon, -, -, -, -, -, hshadow, -, -, hslots, -, hcirrus, himgs, hactive, -⟩ := s.chipReset_leaves
  unfold State.powerOn at ht
  extract_lets s0 m0 f0 p0 s1 at ht
  have hs1 : s1.chip = ⟨.boot, .off, false, 0⟩ ∧ s1.on = u.on ∧ s1.pins.pwrgood = true ∧ s1.mail = Mail.init ∧ s1.mem.hbm = []
      ∧ s1.mem.wshadow = u.mem.wshadow ∧ s1.mem.cirrus = u.mem.cirrus ∧ s1.pml.slots = u.pml.slots ∧ s1.store = u.store := by
    rw [← hu]
    exact ⟨rfl, rfl, rfl, rfl, rfl, rfl, rfl, rfl, rfl⟩
  have hstage : s1.getF chipBase F.CHIP_BOOT_STAGE = 1 := by
    have hreg : s1.reg (chipBase + F.CHIP_BOOT_STAGE.off) = regReset (chipBase + F.CHIP_BOOT_STAGE.off) :=
      SMap.get_filter_absent (m := s0.regs) (p := fun e => fusedRepair e.1 e.2) fun w => fusedRepair_boot w
    rw [State.getF, hreg]
    decide
  clear_value s1
  obtain ⟨hchip1, hon1, hpins1, hmail1, hhbm1, hshadow1, hcirrus1, hslots1, hstore1⟩ := hs1
  have hframe := s1.chipRise_frame 0 b i f
  have hpower := s1.chipRise_power 0 b i f
  have hcause := s1.chipRise_cause 0 b i f (by decide)
  have hstage' := (s1.chipRise_stage 0 b i f).trans hstage
  generalize s1.chipRise 0 b i f = v at *
  obtain ⟨w, hw, hwmail, hwregs, hwframe⟩ : ∃ w : State, w = (v.postEvent 0x1 2 1 false).setInt 4 ∧ w.mail.sess = v.mail.sess ∧ w.regs = v.regs
      ∧ { w with mail := v.mail, sdio := v.sdio } = v := by
    refine ⟨_, rfl, ?_⟩
    unfold State.postEvent
    split <;> exact ⟨rfl, rfl, rfl⟩
  obtain rfl : w = t := hw.trans ht
  clear hw ht
  have hk {α : Type} (g : State → α) (hg : ∀ x m d, g { x with mail := m, sdio := d } = g x := by intros; rfl)
      (hg' : ∀ x p c r, g { x with power := p, cad := c, regs := r } = g x := by intros; rfl) : g w = g s1 := by
    rw [← hg w v.mail v.sdio, hwframe, ← hg' v s1.power s1.cad s1.regs, hframe]
  refine ⟨(hk State.chip).trans hchip1, ((hk State.on).trans hon1).trans hon, (State.getF_of_regs hwregs _ _).trans hstage',
    (State.getF_of_regs hwregs _ _).trans hcause, ?_, ?_, ?_, ?_, ?_, ?_, ?_, ?_, ?_, ?_, ?_⟩
  · rw [show w.power = v.power from (congrArg State.power hwframe : _), hpower]
  · rw [show w.power = v.power from (congrArg State.power hwframe : _), hpower]
  · rw [show w.power = v.power from (congrArg State.power hwframe : _), hpower]
  · rw [hk State.pins, hpins1]
  · rw [hwmail, show v.mail = s1.mail from (congrArg State.mail hframe : _), hmail1]
    rfl
  · rw [hk State.mem, hhbm1]
  · rw [hk State.mem, hshadow1, hshadow]
  · rw [hk State.mem, hcirrus1, hcirrus]
  · rw [hk State.pml, hslots1, hslots]
  · rw [hk State.store, hstore1, himgs]
  · rw [hk State.store, hstore1, hactive]

/-- What a last-words record leaves alone. -/
structure State.WordKept (s t : State) : Prop where
  only : s.OnlyRecords t
  slots : t.pml.slots = s.pml.slots

theorem State.WordKept.refl (s : State) : s.WordKept s := ⟨.refl s, rfl⟩

theorem State.pmWord_leaves {s u : State} (h : s.WordKept u) (p : PmSub) : s.WordKept (u.pmWord p) ∧ (u.pmWord p).pml.words ≠ [] := by
  unfold State.pmWord
  extract_lets rec_ s1 full s2 l1
  have h1 : s.WordKept s1 := ⟨h.only.trans ⟨rfl⟩, h.slots⟩
  clear_value s1
  have h2 : s.WordKept s2 := by
    simp only [s2]
    split
    · refine ⟨h1.only.trans s1.pmDrop_onlyRecords, ?_⟩
      unfold State.pmDrop
      have hregs (v : State) : v.OnlyRegs ((v.addF pmlBase F.PML_DROPS_COUNT 1).flagF pmlBase F.PML_STAT_DROPPED) :=
        (State.OnlyRegs.of_addF v _ _ _).trans (.of_flagF _ _ _)
      rw [(hregs _).pml]
      exact h1.slots
    · exact h1
  have hl1 : l1 = s2.pml := rfl
  clear_value s2
  obtain ⟨v, hv, hvwords, hvslots, hvonly⟩ : ∃ v : State, v = { s2 with pml := { l1 with
      words := (if full then s2.pml.words.drop 1 else s2.pml.words) ++ [(s2.pml.wordNext, rec_)], wordNext := (s2.pml.wordNext + 1) % 64 } }
    ∧ v.pml.words ≠ [] ∧ v.pml.slots = s2.pml.slots ∧ s2.OnlyRecords v := ⟨_, rfl, by simp, by rw [hl1], ⟨rfl⟩⟩
  rw [← hv, State.pmPosted]
  have hpml := v.postEvent_pml 0x6 (if p.source = 1 then 1 else 0) (u.pml.wordNext + 1 * 65536) true
  have hpost := v.postEvent_onlyRecords 0x6 (if p.source = 1 then 1 else 0) (u.pml.wordNext + 1 * 65536) true
  exact ⟨⟨(h2.only.trans hvonly).trans hpost, by rw [hpml, hvslots, h2.slots]⟩, by rw [hpml]; exact hvwords⟩

/-- The record that the writer is committing goes to the last-words store (R508). -/
def State.cutRecord (s : State) : State := match s.pml.queue with
  | p :: q => if s.pmPrimary then { s.pmAbort with pml := { s.pmAbort.pml with queue := q } }.pmWord p else s
  | [] => s

theorem State.cutRecord_kept (s : State) : s.WordKept s.cutRecord := by
  have hcut (q : List PmSub) : s.WordKept { s.pmAbort with pml := { s.pmAbort.pml with queue := q } } := ⟨⟨rfl⟩, rfl⟩
  unfold State.cutRecord
  split
  · next p q _ =>
    split
    · exact (State.pmWord_leaves (hcut q) p).1
    · exact .refl s
  · exact .refl s

/-- What the last words leave before the reset (R508). -/
theorem State.lastWords_leaves (s : State) (p : PmSub) : s.WordKept (s.cutRecord.pmWord p) ∧ (s.cutRecord.pmWord p).pml.words ≠ [] :=
  State.pmWord_leaves s.cutRecord_kept p

theorem State.pwrgoodFall_leaves (hpg : s.pins.pwrgood = true) (hst : s.chip.st ≠ .off) :
    ∃ t, exec .pwrgoodFall s = .next t ∧ t.chip.st = .off ∧ t.chip.prev = s.chip.st ∧ t.on = 0 ∧ t.pins.pwrgood = false
      ∧ t.pins.resetN = s.pins.resetN ∧ t.mail.sess = false ∧ t.pml.words ≠ [] ∧ t.pml.slots = s.pml.slots ∧ t.mem.wshadow = s.mem.wshadow
      ∧ t.mem.hbm = [] ∧ t.store.imgs = s.store.imgs := by
  obtain ⟨u, hdone⟩ : ∃ u, u = s.cutRecord.pmWord ⟨0x7, 3, false, (s.errs.pin.getD (0, 0)).1, 0, 0, []⟩ := ⟨_, rfl⟩
  obtain ⟨hkept, hwords⟩ := s.lastWords_leaves ⟨0x7, 3, false, (s.errs.pin.getD (0, 0)).1, 0, 0, []⟩
  rw [← hdone] at hkept hwords
  obtain ⟨x, ⟨hx⟩, -, -, -, -, -, -, -, hshadow, -, -, hslots, -, -, himgs, -, hxwords⟩ := u.chipReset_leaves
  have hexec : exec .pwrgoodFall s = .next { u.chipReset with
        chip := ⟨.off, s.chip.st, false, 0⟩, on := 0,
        pins := { pwrgood := false, resetN := s.pins.resetN, cadenceOut := false, alertN := true, mbxbsy := false },
        sdio := Sdio.init 0, mail := Mail.init,
        regs := u.chipReset.regs.filter (fun e => fusedRepair e.1 e.2), latch := [],
        mem := { u.chipReset.mem with hbm := [], hznRam := [] }, flips := { u.chipReset.flips with mac := [], spd := [], hbm := [] }, tap := Tap.init } := by
    show Host.Outcome.next (pwrgoodFallEff s) = _
    unfold pwrgoodFallEff
    rw [hpg, if_neg (by decide), if_neg hst, hdone]
    rfl
  generalize u.chipReset = r at *
  have hmem : u.mem = s.mem := hkept.only.mem
  have hstore : u.store = s.store := (congrArg State.store hkept.only.frame : _)
  rw [← hx] at hshadow hslots himgs hxwords
  refine ⟨_, hexec, rfl, rfl, rfl, rfl, rfl, rfl, ?_, hslots.trans hkept.slots, hshadow.trans (by rw [hmem]), rfl, himgs.trans (by rw [hstore])⟩
  show r.pml.words ≠ []
  rw [show r.pml.words = u.pml.words from hxwords]
  exact hwords

end

/-- Settles O28. -/
theorem powerSwitching : Obligations.PowerSwitching := by
  refine ⟨fun s b i f hpg hreset => ⟨_, ?_, State.powerOn_leaves rfl⟩, fun s hpg hst => State.pwrgoodFall_leaves hpg hst, fun s hi v hst hbad => ?_,
    fun s v new hst hplan hsettling hkeep hnew hpos hlen hok => State.pwrReq_on hst hplan hsettling hkeep hnew hpos hlen hok,
    fun s hruns hok hlow hhigh hsettling hplan hbad => State.pwrSet_refused hruns hok hlow hhigh hsettling hplan hbad,
    fun s hruns hok hlow hhigh hsettling hplan hsame hfits => State.pwrSet_nothing hruns hok hlow hhigh hsettling hplan hsame hfits,
    fun s new hruns hok hlow hhigh hsettling hplan hkeep hnew hpos hlen hfits =>
      State.pwrSet_on hruns hok hlow hhigh hsettling hplan hkeep hnew hpos hlen hfits,
    fun s d hruns hok h4 h20 hmask hoff hon hsettling hplan _ hfits => State.pwrSet_off hruns hok h4 h20 hmask hoff hon hsettling hplan hfits,
    fun s d h4 h20 hd hheld hspd hplan => State.domainSettled_held h4 h20 hd hheld hspd hplan,
    fun s d _ hd hspd hheld hplan hwake hset hload => State.domainSettled_on hd hspd hheld hplan hwake hset hload⟩
  · show execPwrgoodRise b i f s = _
    unfold execPwrgoodRise
    rw [if_neg (by rw [hpg]; exact Bool.false_ne_true), if_pos hreset]
  · refine ⟨_, by rw [exec_pwrReqWrite hst, hbad], s.isF_flagF_self _ (by decide) rfl, s.reg_setF_of_ne _ _ _ (by decide), ?_⟩
    exact (State.OnlyRegs.of_flagF s pwrBase F.PWR_STAT_DEP_ERR).frame

end Sys2Proof.Machine
end


section
/-! PROOFS. O33: firmware images, quotes and debug unlocking (R417, R542, R543, R546 to R548, R552). -/

namespace Sys2Proof.Machine

section
variable {s t u : State}

/-! ## FW_LOAD begins its bulk phase (R542) -/

/-- t differs from s in the blocks and in the registers of block b alone. -/
structure State.OnlyBlockRegs (s t : State) (b : Nat) : Prop where
  frame : { t with regs := s.regs, blocks := s.blocks } = s
  reg : ∀ a, (∀ off < 0x100000, blkBase b + off ≠ a) → t.reg a = s.reg a

/-- There the atomic window of block b is held invalid. -/
structure State.HeldInvalid (s t : State) (b : Nat) : Prop extends s.OnlyBlockRegs t b where
  win : t.getF (blkBase b) F.SPD_ATOM_WIN_VALID = 0

theorem State.OnlyBlockRegs.refl (s : State) (b : Nat) : s.OnlyBlockRegs s b := ⟨rfl, fun _ _ => rfl⟩

theorem State.OnlyBlockRegs.of_onlyRegs {b : Nat} (h : s.OnlyRegs t) (hreg : ∀ a, (∀ off < 0x100000, blkBase b + off ≠ a) → t.reg a = s.reg a) :
    s.OnlyBlockRegs t b := ⟨by rw [← h.frame], hreg⟩

theorem State.OnlyBlockRegs.trans {b : Nat} (h : s.OnlyBlockRegs t b) (g : t.OnlyBlockRegs u b) : s.OnlyBlockRegs u b :=
  ⟨by rw [← h.frame, ← g.frame], fun a ha => (g.reg a ha).trans (h.reg a ha)⟩

theorem State.OnlyBlockRegs.setF {b : Nat} (h : s.OnlyBlockRegs t b) {f : Fld} (hf : f.off < 0x100000) (v : Nat) :
    s.OnlyBlockRegs (t.setF (blkBase b) f v) b :=
  h.trans (.of_onlyRegs (.of_setF t (blkBase b) f v) fun _ ha => t.reg_setF_of_ne _ v f (ha _ hf))

theorem State.OnlyBlockRegs.setSpdShop {b : Nat} (h : s.OnlyBlockRegs t b) (o : Option ShadowOp) : s.OnlyBlockRegs (t.setSpdShop b o) b := by
  have hbx : t.OnlyBlockRegs (t.setBx b { t.bx b with shop := o }) b := ⟨rfl, fun _ _ => rfl⟩
  exact (h.trans hbx).setF (by decide) _

theorem State.unclaim_heldInvalid (s : State) (b : Nat) (hdirty : s.dirtyKib b = []) : s.HeldInvalid ((s.windowSync b).unclaim b) b := by
  have hsync : s.OnlyBlockRegs (s.windowSync b) b := by
    unfold State.windowSync
    rw [hdirty]
    exact ((State.OnlyBlockRegs.refl s b).setSpdShop _).setSpdShop _
  have hptrs : s.OnlyBlockRegs ((List.range 16).foldl (fun st i => st.setPtr b i F.SPD_CIRC_BASE_VALID 0) (s.windowSync b)) b :=
    foldl_keeps (s.OnlyBlockRegs · b) _ hsync fun i hi v hv =>
      hv.setF (by have := List.mem_range.1 hi; simp only [Fld.idx]; omega) 0
  have hall := hptrs.setF (f := F.SPD_ATOM_WIN_VALID) (by decide) 0
  exact ⟨hall, State.getF_setF_self _ _ _ _ (by decide)⟩

theorem State.dirtyKib_of_regs {b : Nat} (h : ∀ off < 0x100000, t.reg (blkBase b + off) = s.reg (blkBase b + off)) : t.dirtyKib b = s.dirtyKib b := by
  have hget (f : Fld) (hf : f.off < 0x100000) : t.getF (blkBase b) f = s.getF (blkBase b) f := by rw [State.getF, h _ hf, State.getF]
  have hwin : t.retWin b = s.retWin b := by
    have hvalid : t.isF (blkBase b) F.SPD_RET_VALID = s.isF (blkBase b) F.SPD_RET_VALID := by rw [State.isF, hget _ (by decide), State.isF]
    simp only [State.retWin, hvalid, hget F.SPD_RET_BASE (by decide), hget F.SPD_RET_SIZE_KIB (by decide)]
  unfold State.dirtyKib
  rw [hwin]
  refine List.filter_congr fun k hk => ?_
  have hsize : (s.retWin b).2 / 1024 < 128 := by
    have hlt : s.getF (blkBase b) F.SPD_RET_SIZE_KIB < 128 := Nat.mod_lt _ (by decide)
    simp only [State.retWin]
    split
    · dsimp only
      omega
    · decide
  have hk := List.mem_range.1 hk
  rw [State.kibDirty, hget _ (show 0x10388 + 4 * (k / 32) < 0x100000 by omega), State.kibDirty]

/-- The blocks of region 0 one after the other. -/
theorem State.foldl_heldInvalid {l : List Nat} (hl : l.Nodup) (hdirty : ∀ b ∈ l, s.dirtyKib b = [])
    (ht : l.foldl (fun st b => (st.windowSync b).unclaim b) s = t) :
    { t with regs := s.regs, blocks := s.blocks } = s ∧ (∀ b ∈ l, t.getF (blkBase b) F.SPD_ATOM_WIN_VALID = 0)
      ∧ ∀ b, b ∉ l → ∀ off < 0x100000, t.reg (blkBase b + off) = s.reg (blkBase b + off) := by
  induction l generalizing s with
  | nil =>
    obtain rfl : s = t := ht
    exact ⟨rfl, fun _ hb => absurd hb List.not_mem_nil, fun _ _ _ _ => rfl⟩
  | cons b l ih =>
    have hb := s.unclaim_heldInvalid b (hdirty b List.mem_cons_self)
    rw [List.foldl_cons] at ht
    generalize (s.windowSync b).unclaim b = u at hb ht
    have hreg (q : Nat) (hq : q ≠ b) (off : Nat) (hoff : off < 0x100000) : u.reg (blkBase q + off) = s.reg (blkBase q + off) :=
      hb.reg _ fun off' hoff' => blkBase_ne hq.symm hoff' hoff
    have hnot := (List.nodup_cons.1 hl).1
    obtain ⟨hframe, hwin, hrest⟩ := ih (List.nodup_cons.1 hl).2 (fun q hq => by
      rw [State.dirtyKib_of_regs (hreg q (ne_of_mem_of_not_mem hq hnot))]
      exact hdirty q (List.mem_cons_of_mem _ hq)) ht
    refine ⟨by rw [← hb.frame, ← hframe], fun q hq => ?_, fun q hq off hoff => ?_⟩
    · rcases List.mem_cons.1 hq with rfl | hq
      · rw [State.getF, hrest q hnot _ (by decide), ← State.getF]
        exact hb.win
      · exact hwin q hq
    · rw [hrest q (fun h => hq (List.mem_cons_of_mem _ h)) off hoff, hreg q (fun h => hq (h ▸ List.mem_cons_self)) off hoff]

theorem fwLoad_begins (hruns : s.runs 0x0201 = true) (hok : s.front.okBulk 0 4194304 16 [(8, 8)] = true) (hon : s.pdOn 20 = true)
    (hdirty : ∀ b < 16, s.dirtyKib b = []) :
    ∃ t, exec .fwLoad s = .next t ∧ s.underway t ∧ t.mail.inq = s.mail.inq ++ [⟨s.mail.nextId, s.front.bulkLen, []⟩]
      ∧ (∀ b < 16, t.getF (blkBase b) F.SPD_ATOM_WIN_VALID = 0)
      ∧ { t with sdio := s.sdio, mail := s.mail, free := s.free, regs := s.regs, blocks := s.blocks } = s := by
  obtain ⟨u, hu⟩ : ∃ u, (List.range 16).foldl (fun st b => (st.windowSync b).unclaim b) s.took = u := ⟨_, rfl⟩
  obtain ⟨hframe, hwin, -⟩ := State.foldl_heldInvalid (s := s.took) List.nodup_range (fun b hb => hdirty b (List.mem_range.1 hb)) hu
  have hexec : exec .fwLoad s = .next (((u.armIn s.mail.nextId s.front.bulkLen).setTaken { s.front with stage := 1 }).goesOn s.front) := by
    rw [exec_of_runs hruns, fwLoadEff, if_neg (by simp [hok]), if_pos (by exact hon), State.fwBegin, hu]
    rfl
  have hmail : u.mail = s.took.mail := (congrArg State.mail hframe : _)
  have hsdio : u.sdio = s.took.sdio := (congrArg State.sdio hframe : _)
  have honly := ((u.armIn s.mail.nextId s.front.bulkLen).setTaken { s.front with stage := 1 }).goesOn_onlyPending s.front
  refine ⟨_, hexec, State.underway_of honly (congrArg Sdio.cmdCi hsdio : _) ((State.setTaken_ids (u.armIn _ _) _).trans ?_),
    honly.inq.trans ?_, fun b hb => ?_, ?_⟩
  · show u.mail.taken.map Taken.id = _
    rw [hmail]
  · exact State.armIn_inq_of_runs (u := u) hruns _ (congrArg Mail.inq hmail : _)
  · rw [State.getF_of_regs honly.regs]
    exact hwin b (List.mem_range.2 hb)
  · have hrest := honly.rest s.sdio s.mail s.free
    have hother : { ((u.armIn s.mail.nextId s.front.bulkLen).setTaken { s.front with stage := 1 }) with
        sdio := s.sdio, mail := s.mail, free := s.free, regs := s.regs, blocks := s.blocks } = s :=
      (congrArg (fun v : State => { v with sdio := s.sdio, mail := s.mail, free := s.free }) hframe : _)
    exact (congrArg (fun v : State => { v with regs := s.regs, blocks := s.blocks }) hrest : _).trans hother

/-! ## FW_LOAD waits for PD20 -/

theorem State.powerUp_leaves (s : State) {d : Nat} (hoff : s.pdPow d = false) :
    d ∈ (s.powerUp d).power.settling ∧ { s.powerUp d with power := s.power } = s := by
  unfold State.powerUp
  split
  · next h => exact ⟨h.resolve_left (by simp [hoff]), rfl⟩
  · exact ⟨List.mem_append_right _ (List.mem_singleton.2 rfl), rfl⟩

theorem fwLoad_waits (hruns : s.runs 0x0201 = true) (hok : s.front.okBulk 0 4194304 16 [(8, 8)] = true) (hoff : s.pdPow 20 = false) :
    ∃ t, exec .fwLoad s = .next t ∧ s.underway t ∧ 20 ∈ t.power.settling ∧ t.mail.inq = s.mail.inq ++ [⟨s.mail.nextId, 0, []⟩]
      ∧ { t with sdio := s.sdio, mail := s.mail, free := s.free, power := s.power } = s := by
  obtain ⟨hsettling, hframe⟩ := s.took.powerUp_leaves (d := 20) hoff
  have hon : ¬s.took.pdOn 20 = true := by
    show ¬(s.pdPow 20 && _) = true
    rw [hoff]
    exact Bool.false_ne_true
  have hexec : exec .fwLoad s = .next (((s.took.powerUp 20).armIn s.mail.nextId 0).goesOn s.front) := by
    rw [exec_of_runs hruns, fwLoadEff, if_neg (by simp [hok]), if_neg hon]
    rfl
  generalize s.took.powerUp 20 = u at *
  have hmail : u.mail = s.took.mail := (congrArg State.mail hframe : _)
  have hsdio : u.sdio = s.took.sdio := (congrArg State.sdio hframe : _)
  have honly := (u.armIn s.mail.nextId 0).goesOn_onlyPending s.front
  refine ⟨_, hexec, State.underway_of honly (congrArg Sdio.cmdCi hsdio : _) (congrArg (fun m : Mail => m.taken.map Taken.id) hmail : _), ?_,
    honly.inq.trans (State.armIn_inq_of_runs (u := u) hruns _ (congrArg Mail.inq hmail : _)), ?_⟩
  · rw [show (_ : State).power = u.power from (congrArg State.power (honly.rest s.sdio s.mail s.free) : _)]
    exact hsettling
  · have hrest := honly.rest s.sdio s.mail s.free
    exact (congrArg (fun v : State => { v with power := s.power }) hrest : _).trans
      (congrArg (fun v : State => { v with sdio := s.sdio, mail := s.mail, free := s.free }) hframe : _)

/-! ## Staging an image leaves the stores but the staged slot (R542) -/

/-- t has the stores of s and its repairs in progress. -/
structure State.SameStores (s t : State) : Prop where
  store : t.store = s.store
  bist : t.bist = s.bist

theorem State.SameStores.refl (s : State) : s.SameStores s := ⟨rfl, rfl⟩
theorem State.SameStores.trans (h : s.SameStores t) (g : t.SameStores u) : s.SameStores u := ⟨g.store.trans h.store, g.bist.trans h.bist⟩
theorem State.SameStores.foldl {α : Type} {f : State → α → State} {l : List α} (hs : s.SameStores t) (hf : ∀ (u : State) x, u.SameStores (f u x)) :
    s.SameStores (l.foldl f t) := foldl_keeps s.SameStores f hs fun x _ u hu => hu.trans (hf u x)

theorem State.OnlyRegs.sameStores (h : s.OnlyRegs t) : s.SameStores t := ⟨(congrArg State.store h.frame : _), (congrArg State.bist h.frame : _)⟩
theorem State.OnlyMailbox.sameStores (h : s.OnlyMailbox t) : s.SameStores t := ⟨h.store, h.bist⟩

theorem State.plainWrite_onlyRegs (s : State) (a v : Nat) : s.OnlyRegs (s.plainWrite a v) := by
  unfold State.plainWrite
  split
  · exact .of_setReg _ _ _
  · exact .refl s

theorem State.SameStores.withArrays (h : s.SameStores t) (u : State) (m : Mems) (f : Flips) (hu : t.SameStores u) :
    s.SameStores { u with mem := m, flips := f } := h.trans ⟨hu.store, hu.bist⟩

theorem State.lostRegion_sameStores (s : State) : s.SameStores s.lostRegion := by
  have htake : s.SameStores s.takeFree.2 := ⟨rfl, rfl⟩
  unfold State.lostRegion
  split
  next n s1 hs =>
  obtain rfl : s.takeFree.2 = s1 := congrArg Prod.snd hs
  extract_lets fresh m f s2
  have h2 : s.SameStores s2 := (State.SameStores.refl s).withArrays _ _ _ htake
  clear_value s2
  exact h2.foldl fun _ _ => ⟨rfl, rfl⟩

theorem State.kibRestore_sameStores (s : State) (b k : Nat) : s.SameStores (s.kibRestore b k) := by
  unfold State.kibRestore State.spdWr
  exact (State.SameStores.refl s).withArrays s _ _ (.refl s)

theorem State.windowRestore_sameStores (s : State) (b : Nat) : s.SameStores (s.windowRestore b) := by
  have hfold : s.SameStores ((List.range ((s.retWin b).2 / 1024)).foldl (fun st k => st.kibRestore b k)
      (s.setBx b { s.bx b with gather := (s.bx b).gather.filter (fun g => !(decide ((s.retWin b).1 ≤ g.line)
        && decide (g.line < (s.retWin b).1 + (s.retWin b).2))) })) :=
    State.SameStores.foldl ⟨rfl, rfl⟩ fun u k => u.kibRestore_sameStores b k
  unfold State.windowRestore
  exact hfold.trans ((State.OnlyRegs.of_setReg _ _ _).trans (.of_setReg _ _ _)).sameStores

theorem State.reclaim_sameStores (s : State) (b : Nat) : s.SameStores (s.reclaim b) := by
  unfold State.reclaim
  split
  · exact State.SameStores.foldl (.refl s) fun u e => (u.plainWrite_onlyRegs e.1 e.2).sameStores
  · exact .refl s

theorem State.fwRestore_sameStores (s : State) : s.SameStores s.fwRestore :=
  s.lostRegion_sameStores.foldl fun u b => (u.windowRestore_sameStores b).trans (State.reclaim_sameStores _ b)

theorem State.setInt_sameStores (s : State) (b : Nat) : s.SameStores (s.setInt b) := ⟨rfl, rfl⟩

theorem State.pghPut_sameStores (s : State) (m off : Nat) (d : List Byte) : s.SameStores (s.pghPut m off d) := by
  have hrefuse (u : State) (a : Nat) : u.SameStores (u.pghRefuse m a 1) := by
    have hnote : u.OnlyRegs (((u.setF pghBase F.PGH_PROT_ADDR_OFFSET a).setF pghBase F.PGH_PROT_ADDR_MASTER m).setF pghBase F.PGH_PROT_ADDR_WRITE 1) :=
      ((State.OnlyRegs.of_setF _ _ _ _).trans (.of_setF _ _ _ _)).trans (.of_setF _ _ _ _)
    unfold State.pghRefuse
    extract_lets stat s1 s2
    have h1 : u.OnlyRegs s1 := by
      simp only [s1]
      split
      · exact hnote
      · exact .refl u
    have h2 : u.OnlyRegs s2 := h1.trans (.of_setF _ _ _ _)
    clear_value s2
    split
    · exact h2.sameStores.trans (s2.setInt_sameStores 3)
    · exact h2.sameStores
  unfold State.pghPut
  split
  · exact ⟨rfl, rfl⟩
  · refine State.SameStores.foldl (.refl s) fun u i => ?_
    unfold State.pghWrite
    split
    · exact ⟨rfl, rfl⟩
    · exact hrefuse u _

theorem State.sleepReply_sameStores (s : State) : s.SameStores s.sleepReply := by
  unfold State.sleepReply
  split
  · split <;> exact ⟨rfl, rfl⟩
  · exact ⟨rfl, rfl⟩

/-- A reply that goes into the ring leaves the stores as the work before it left them. -/
theorem replyWrite_sameStores (s : State) (k : Nat) : s.replyReady.SameStores (replyWrite s k) := by
  unfold replyWrite
  extract_lets r
  have hr : s.replyReady.SameStores r := .refl r
  clear_value r
  split
  · next bytes _ =>
    extract_lets s1
    have h1 : s.replyReady.SameStores s1 := hr.trans (r.pghPut_sameStores 0 _ bytes)
    clear_value s1
    split
    · exact h1.trans ⟨rfl, rfl⟩
    · exact hr
  · exact hr

theorem State.fuseStep_of_none (h : s.bist.commit = none) : s.fuseStep = s := by
  rw [State.fuseStep, h]

/-- The staging of an image runs to its end at once. -/
theorem State.storesRun_of_staging {id : Nat} {img : List Byte} (hcommit : s.bist.commit = none) (hstaging : s.store.staging = some (id, img)) (n : Nat) :
    ({ s with store := { s.store with staged := img, staging := none } } : State).SameStores (s.storesRun (n + 1)) := by
  obtain ⟨u, hu⟩ : ∃ u, ({ s with store := { s.store with staged := img, staging := none } } : State) = u := ⟨_, rfl⟩
  have hbusy : s.storeBusy = true := by rw [State.storeBusy, hstaging, Option.isSome_some, Bool.or_true]
  have hstep : s.storeStep = (u.finish id 0 (leBytes 4 (fwVer img) ++ leBytes 4 (fwRoll img))).fwRestore := by
    rw [State.storeStep, State.fuseStep_of_none hcommit, State.fwStage, hstaging, ← hu]
  have hsame : u.SameStores s.storeStep := by
    rw [hstep]
    exact (u.finish_onlyMailbox id 0 _).sameStores.trans (State.fwRestore_sameStores _)
  have hidle : s.storeStep.storeBusy = false := by
    rw [State.storeBusy, hsame.bist, hsame.store, ← hu]
    show (s.bist.commit.isSome || _) = false
    rw [hcommit]
    rfl
  rw [State.storesRun, if_pos hbusy, State.storesRun_of_idle hidle, hu]
  exact hsame

theorem replyWrite_stages {k id : Nat} {img : List Byte} (hreplies : s.mail.replies = []) (hcommit : s.bist.commit = none)
    (hstaging : s.store.staging = some (id, img)) : (replyWrite s k).store = { s.store with staged := img, staging := none } := by
  have hrun := State.storesRun_of_staging hcommit hstaging 19999
  have hready : s.replyReady = (s.storesRun 20000).sleepReply := by rw [State.replyReady, hreplies]; rfl
  have hsame := hrun.trans (State.sleepReply_sameStores _)
  rw [← hready] at hsame
  exact (hsame.trans (replyWrite_sameStores s k)).store

/-! ## FW_ACTIVATE (R543) -/

theorem State.pmSubmit_frame (s : State) (p : PmSub) : { s.pmSubmit p with pml := s.pml, regs := s.regs } = s := by
  have hdrop : { s.pmDrop with pml := s.pml, regs := s.regs } = s := by
    obtain ⟨u, hu⟩ : ∃ u : State, u = { s with pml := { s.pml with drops := s.pml.drops + 1 } } := ⟨_, rfl⟩
    have hregs : u.OnlyRegs s.pmDrop := by
      rw [hu]
      exact (State.OnlyRegs.of_setF _ _ _ _).trans (.of_setF _ _ _ _)
    have hu' : { u with pml := s.pml } = s := by rw [hu]
    exact (congrArg (fun v : State => { v with pml := s.pml, regs := s.regs }) hregs.frame : _).trans
      (congrArg (fun v : State => { v with regs := s.regs }) hu' : _)
  unfold State.pmSubmit
  split
  · exact hdrop
  · rfl

theorem fwActivate_activates (hruns : s.runs 0x0202 = true) (hok : s.front.ok 0 [] = true) (hstaged : s.store.staged ≠ [])
    (hroll : s.store.rollback ≤ fwRoll s.store.staged) :
    ∃ t, exec .fwActivate s = .next t ∧ s.answered t 0 (leBytes 4 (fwVer s.store.staged))
      ∧ t.store = { s.store with active := s.store.staged, staged := [] }
      ∧ { t with sdio := s.sdio, mail := s.mail, store := s.store, pml := s.pml, regs := s.regs } = s := by
  obtain ⟨u, hu⟩ : ∃ u : State, u = { s.took with store := { s.store with active := s.store.staged, staged := [] } } := ⟨_, rfl⟩
  obtain ⟨p, hp⟩ : ∃ p : PmSub, p = ⟨0x9, u.pmSource, false, 0, 0, fwVer s.store.staged, []⟩ := ⟨_, rfl⟩
  have hexec : exec .fwActivate s = .next ((u.pmSubmit p).finish s.front.id 0 (leBytes 4 (fwVer s.store.staged))) := by
    rw [exec_of_runs hruns, fwActivateEff, if_neg (by simp [hok])]
    exact congrArg Host.Outcome.next (((if_neg (fun h => hstaged (List.isEmpty_iff.1 h))).trans (if_neg (Nat.not_lt.2 hroll))).trans (by rw [hp, hu]; rfl))
  have hframe := u.pmSubmit_frame p
  have hsdio : (u.pmSubmit p).sdio = u.sdio := (congrArg State.sdio hframe : _)
  have hmail : (u.pmSubmit p).mail = u.mail := (congrArg State.mail hframe : _)
  have hstore : (u.pmSubmit p).store = u.store := (congrArg State.store hframe : _)
  obtain ⟨t, ht, hanswered, honly⟩ := exec_of_reply hexec ⟨_, hruns⟩ (by rw [hsdio, hu]) (by rw [hmail, hu])
  refine ⟨t, ht, hanswered, by rw [honly.store, hstore, hu], ?_⟩
  have hu' : { u with sdio := s.sdio, mail := s.mail, store := s.store } = s := by rw [hu]; rfl
  exact ((congrArg (fun v : State => { v with store := s.store, pml := s.pml, regs := s.regs }) (honly.frame s.sdio s.mail) : _)).trans
    ((congrArg (fun v : State => { v with sdio := s.sdio, mail := s.mail, store := s.store, pml := s.pml, regs := s.regs }) hframe : _).trans
    (congrArg (fun v : State => { v with pml := s.pml, regs := s.regs }) hu' : _))

/-! ## A quote (R546, R548) -/

theorem beBytes_length (k n : Nat) : (beBytes k n).length = k := by rw [beBytes, List.length_reverse, leBytes_length]

theorem shaStep_length {v : List (BitVec 32)} (h : v.length = 8) (x : BitVec 32) : (shaStep v x).length = 8 := by
  unfold shaStep
  split
  · rfl
  · exact h

theorem shaBlock_length {v : List (BitVec 32)} (h : v.length = 8) (block : List Byte) : (shaBlock v block).length = 8 := by
  unfold shaBlock
  extract_lets sums
  have hsums : (sums.foldl shaStep v).length = 8 := foldl_keeps (fun u : List (BitVec 32) => u.length = 8) _ h fun x _ u hu => shaStep_length hu x
  rw [List.length_map, List.length_zip, h, hsums, Nat.min_self]

/-- A digest has 32 bytes. -/
theorem sha256_length (l : List Byte) : (sha256 l).length = 32 := by
  unfold sha256
  extract_lets m blocks
  have hstart : ((shaPrimes.take 8).map (rootWord 2)).length = 8 := by
    rw [List.length_map]
    rfl
  have hwords : (blocks.foldl shaBlock ((shaPrimes.take 8).map (rootWord 2))).length = 8 :=
    foldl_keeps (fun u : List (BitVec 32) => u.length = 8) _ hstart fun x _ u hu => shaBlock_length hu x
  generalize blocks.foldl shaBlock ((shaPrimes.take 8).map (rootWord 2)) = words at hwords
  rw [List.length_flatMap]
  simp only [beBytes_length, List.map_const', List.sum_replicate, hwords]
  rfl

theorem otsChain_length (pre : List Byte) (i n a : Nat) {x : List Byte} (h : x.length = 32) : (otsChain pre i n a x).length = 32 := by
  induction n generalizing a x with
  | zero => exact h
  | succ n ih => exact ih _ (sha256_length _)

theorem length_flatMap_range (n k : Nat) (f : Nat → List Byte) (h : ∀ i, (f i).length = k) : ((List.range n).flatMap f).length = n * k := by
  rw [List.length_flatMap]
  simp only [h, List.map_const', List.sum_replicate, List.length_range, smul_eq_mul]

theorem idNode_length (n r : Nat) : (idNode n r).length = 32 := by
  cases n <;> exact sha256_length _

theorem idOtsSign_length (q : Nat) (msg : List Byte) : (idOtsSign q msg).length = 2180 := by
  unfold idOtsSign
  extract_lets pre c dg
  have hc : c.length = 32 := padTo_length _ _
  have hchains : ((List.range 67).flatMap (fun (i : Nat) => otsChain pre i (otsCoef dg i 4) 0 (idElement q i))).length = 67 * 32 :=
    length_flatMap_range _ _ _ fun i => otsChain_length _ _ _ _ (padTo_length _ _)
  rw [List.length_append, List.length_append, beBytes_length, hc, hchains]

/-- A signature of the identity key has 2,668 bytes. -/
theorem idSign_length (q : Nat) (msg : List Byte) : (idSign q msg).length = 2668 := by
  have hpath : (idPath q).length = 15 * 32 := length_flatMap_range _ _ _ fun i => idNode_length _ _
  rw [idSign, List.length_append, List.length_append, List.length_append, beBytes_length, beBytes_length, idOtsSign_length, hpath]

theorem grp_length (on : Bool) (l : List Byte) : (grp on l).length = l.length := by
  unfold grp
  split
  · rfl
  · exact List.length_replicate

theorem fwMeasure_length (img : List Byte) : (fwMeasure img).length = 32 := by
  unfold fwMeasure
  split
  · exact List.length_replicate
  · exact sha256_length _

theorem State.quoteWeights_length (s : State) : s.quoteWeights.length = 36 := by
  unfold State.quoteWeights
  split
  · exact List.length_replicate
  · simp only [List.length_append, leBytes_length, sha256_length]

/-- The body of a quote has 256 bytes. -/
theorem State.quoteBody_length (s : State) {nonce : List Byte} (h : nonce.length = 32) (i q : Nat) : (s.quoteBody nonce i q).length = 256 := by
  have hplan : (if s.img.isEmpty then List.replicate 32 0 else sha256 s.img : List Byte).length = 32 := by
    split
    · exact List.length_replicate
    · exact sha256_length _
  simp only [State.quoteBody, List.length_append, leBytes_length, grp_length, fwMeasure_length, s.quoteWeights_length, hplan, serialBytes, rootHashBytes,
    padTo_length, h, List.length_replicate]

theorem leAt_append_left (l r : List Byte) {n : Nat} (h : n ≤ l.length) : leAt (l ++ r) 0 n = leAt l 0 n := by
  simp only [leAt, slice, List.drop_zero, List.take_append_of_le_length h]

theorem State.quoteBody_magic (s : State) (nonce : List Byte) (i q : Nat) (sig : List Byte) : leAt (s.quoteBody nonce i q ++ sig) 0 4 = 0x544F5551 := by
  unfold State.quoteBody
  simp only [List.append_assoc]
  rw [leAt_append_left _ _ (by rw [leBytes_length])]
  decide

theorem State.took_quoteFree (hruns : s.runs 0x0103 = true) (hfirst : s.takenOp 0x0103 = none) (hheld : s.quoteHeld = false) :
    (s.took.quoteHeld || s.took.mail.taken.any (fun x => decide (x.op = 0x0103 ∧ x.id ≠ s.front.id))) = false := by
  have hop : s.front.op = 0x0103 := ((s.runs_iff _).1 hruns).1
  have hold : s.took.quoteHeld = false := by
    unfold State.quoteHeld State.inProgress at hheld ⊢
    show (s.mail.taken ++ [s.front]).any _ = false
    rw [List.any_append, hheld, Bool.false_or, List.any_cons, List.any_nil, Bool.or_false, hop]
    decide
  rw [hold, Bool.false_or]
  show (s.mail.taken ++ [s.front]).any _ = false
  refine List.any_eq_false.2 fun x hx hc => ?_
  obtain ⟨hxop, hxid⟩ := of_decide_eq_true hc
  rcases List.mem_append.1 hx with hx | hx
  · exact List.find?_eq_none.1 hfirst x hx (decide_eq_true hxop)
  · exact hxid (congrArg Taken.id (List.mem_singleton.1 hx))

theorem quote_signs (hfirst : s.takenOp 0x0103 = none) (hruns : s.runs 0x0103 = true) (hok : s.front.ok 32 [] = true) (hheld : s.quoteHeld = false)
    (hleft : s.store.idNext < 32768) :
    ∃ t res, exec .quote s = .next t ∧ s.answered t 0 res ∧ res.length = 2924 ∧ leAt res 0 4 = 0x544F5551
      ∧ t.store = { s.store with idNext := s.store.idNext + 1 }
      ∧ t.getF secBase F.SEC_QUOTES_COUNT = satCount F.SEC_QUOTES_COUNT.width (s.getF secBase F.SEC_QUOTES_COUNT) 1
      ∧ { t with sdio := s.sdio, mail := s.mail, store := s.store, regs := s.regs } = s := by
  obtain ⟨u, hu⟩ : ∃ u : State, u = { s.took with store := { s.store with idNext := s.store.idNext + 1 } } := ⟨_, rfl⟩
  obtain ⟨body, hbody⟩ : ∃ body, body = u.quoteBody (slice s.front.par 0 32) (s.front.fldFrom 32 4 0x101 0xFFFFFFFF) s.store.idNext := ⟨_, rfl⟩
  have hexec : exec .quote s = .next ((u.addF secBase F.SEC_QUOTES_COUNT 1).finish s.front.id 0 (body ++ idSign s.store.idNext body)) := by
    have htaken : exec .quote s = .next (s.hostCmd 0x0103 quoteEff) := by
      refine exec_eq_next ?_
      rw [hfirst]
    rw [htaken, State.hostCmd_of_runs _ hruns, quoteEff, if_neg (by simp [hok]), if_neg (ne_true_of_eq_false (State.took_quoteFree hruns hfirst hheld))]
    exact congrArg Host.Outcome.next ((if_neg (Nat.not_le.2 hleft)).trans (by rw [hbody, hu]; rfl))
  have hnonce : (slice s.front.par 0 32).length = 32 := by
    have hpar : 32 ≤ s.front.par.length := by
      simp only [Taken.ok, Bool.and_eq_true, decide_eq_true_eq] at hok
      exact hok.1.2
    rw [slice, List.drop_zero, List.length_take]
    omega
  have hadd := State.OnlyRegs.of_addF u secBase F.SEC_QUOTES_COUNT 1
  have hcount : (u.addF secBase F.SEC_QUOTES_COUNT 1).getF secBase F.SEC_QUOTES_COUNT
      = satCount F.SEC_QUOTES_COUNT.width (s.getF secBase F.SEC_QUOTES_COUNT) 1 := by
    rw [State.getF_addF_self _ _ _ _ (by decide), hu]
    rfl
  generalize u.addF secBase F.SEC_QUOTES_COUNT 1 = w at *
  obtain ⟨t, ht, hanswered, honly⟩ := exec_of_reply hexec ⟨_, hruns⟩ (by rw [hadd.sdio, hu]) (by rw [hadd.mail, hu])
  refine ⟨t, _, ht, hanswered, ?_, ?_, ?_, ?_, ?_⟩
  · rw [List.length_append, idSign_length, hbody, u.quoteBody_length hnonce]
  · rw [hbody]
    exact u.quoteBody_magic _ _ _ _
  · rw [honly.store, hadd.sameStores.store, hu]
  · rw [State.getF_of_regs honly.regs, hcount]
  · have hu' : { u with sdio := s.sdio, mail := s.mail, store := s.store } = s := by rw [hu]; rfl
    exact (congrArg (fun v : State => { v with store := s.store, regs := s.regs }) (honly.frame s.sdio s.mail) : _).trans
      ((congrArg (fun v : State => { v with sdio := s.sdio, mail := s.mail, store := s.store, regs := s.regs }) hadd.frame : _).trans
      (congrArg (fun v : State => { v with regs := s.regs }) hu' : _))

/-! ## Debug unlocking (R552) -/

theorem secDebugUnlock_writes (v : Nat) (hon : s.pdOn 3 = true) (hfw : s.fwImage ≠ []) :
    ∃ t, exec (.secDebugUnlock v) s = .next t ∧ { t with regs := s.regs } = s
      ∧ (v.testBit 0 = false → t.getF secBase F.SEC_DEBUG_UNLOCK = 0)
      ∧ (v.testBit 0 = true → (fwDebug s.fwImage && !Config.permLockFuse) = true → t.getF secBase F.SEC_DEBUG_UNLOCK = 1
          ∧ t.getF secBase F.SEC_STAT_SINCE_BOOT = 1)
      ∧ (v.testBit 0 = true → (fwDebug s.fwImage && !Config.permLockFuse) = false → t = s) := by
  have hexec : exec (.secDebugUnlock v) s = .next (secDebugWrite s v) := by
    refine exec_eq_next (if_pos ?_)
    rw [hon, Bool.true_and, Bool.not_eq_true', List.isEmpty_eq_false_iff]
    exact hfw
  refine ⟨_, hexec, ?_⟩
  unfold secDebugWrite bit
  cases hv : v.testBit 0 with
  | false =>
    rw [if_neg Bool.false_ne_true]
    exact ⟨(State.OnlyRegs.of_setF _ _ _ _).frame, fun _ => State.getF_setF_self _ _ _ _ (by decide), nofun, nofun⟩
  | true =>
    rw [if_pos rfl]
    cases hmay : fwDebug s.fwImage && !Config.permLockFuse with
    | false =>
      rw [if_neg Bool.false_ne_true]
      exact ⟨rfl, nofun, nofun, fun _ _ => rfl⟩
    | true =>
      rw [if_pos rfl]
      refine ⟨((State.OnlyRegs.of_flagF _ _ _).trans (.of_flagF _ _ _)).frame, nofun, fun _ _ => ⟨?_, State.getF_setF_self _ _ _ _ (by decide)⟩, nofun⟩
      rw [State.getF_flagF_of_apart _ _ (Or.inl (by decide)) (by decide)]
      exact State.getF_setF_self _ _ _ _ (by decide)

end

/-- Settles O33. -/
theorem firmwareQuotesAndDebug : Obligations.FirmwareQuotesAndDebug := by
  unfold Obligations.FirmwareQuotesAndDebug
  refine ⟨fun s hruns hok hon hdirty => fwLoad_begins hruns hok hon hdirty, fun s hruns hok hoff => fwLoad_waits hruns hok hoff,
    fun s k id img hreplies hcommit hstaging => ⟨_, rfl, replyWrite_stages hreplies hcommit hstaging⟩,
    fun s hruns hok hstaged hroll => fwActivate_activates hruns hok hstaged hroll,
    fun s hfirst hruns hok hheld hleft => quote_signs hfirst hruns hok hheld hleft, fun s v hon hfw => secDebugUnlock_writes v hon hfw⟩

end Sys2Proof.Machine
end


section
/-! SUPPORT. Macros: their arrays of registers, row reads without flips, entries of the scoreboard (R41, R61, R76, R119, R142). -/

namespace Sys2Proof.Machine

section
variable {s t : State}

theorem State.mx_setMx_self (s : State) (m : Nat) (x : MacroX) : (s.setMx m x).mx m = x := SMap.get_set_self _ _ _ _

theorem State.mx_setMx_of_ne (s : State) {m k : Nat} (x : MacroX) (h : k ≠ m) : (s.setMx m x).mx k = s.mx k := SMap.get_set_ne _ _ _ h.symm

/-- The registers of a macro lie in its block's window beside the block's own. -/
theorem macBase_ne_blkBase {m b off off' : Nat} (hoff : off < 0x4000) (hoff' : off' < 0x80000) : macBase m + off ≠ blkBase b + off' := by
  simp only [macBase, blkBase]
  omega

theorem macBase_ne {m k off off' : Nat} (h : m ≠ k) (hoff : off < 0x4000) (hoff' : off' < 0x4000) : macBase m + off ≠ macBase k + off' := by
  simp only [macBase, blkBase]
  omega

/-- Macro m's registers at this offset. -/
theorem regDesc_macBase {m off : Nat} (hm : m < 4096) (hoff : off < 0x4000) : regDesc (macBase m + off) = Loc.desc ⟨.mac, m, off⟩ := by
  have hloc : locate (macBase m + off) = some ⟨.mac, m, off⟩ := by
    obtain ⟨a, ha⟩ : ∃ a, a = macBase m + off := ⟨_, rfl⟩
    rw [← ha]
    unfold macBase blkBase at ha
    unfold locate
    extract_lets p o r b
    have ho : o = 0x80000 + (m % 16) * 0x4000 + off := by omega
    have hunit : a / 0x100000 = 512 + m / 16 := by omega
    have hregion : a / 0x1000000 = a / 0x100000 / 16 := (Nat.div_div_eq_div_mul a 0x100000 16).symm
    have hfew : m / 16 / 16 < 16 := by omega
    have htop : a / 0x1000000 = 32 + m / 16 / 16 := by omega
    have hr : r = m / 16 / 16 := by omega
    have hb : b = m / 16 % 16 := by omega
    clear_value o r b
    rw [if_neg (by omega), if_neg (by omega), if_pos (by omega), if_neg (by omega), if_pos (by omega)]
    refine congrArg some (congr (congrArg (Loc.mk Win.mac) ?_) ?_)
    · omega
    · omega
  rw [regDesc, hloc]
  rfl

/-! ## The scoreboard -/

theorem State.sbPeak_onlyRegs (s : State) (b : Nat) : s.OnlyRegs (s.sbPeak b) := .of_setF s _ _ _

theorem State.sbPeak_reg (s : State) (b : Nat) {a : Nat} (h : a ≠ blkBase b + F.BLK_SEQ_STAT_SB_PEAK.off) : (s.sbPeak b).reg a = s.reg a :=
  s.reg_setF_of_ne _ _ _ (Ne.symm h)

theorem State.takeAge_onlyBlocks (s : State) (b : Nat) : s.OnlyBlocks (s.takeAge b).2 := ⟨rfl⟩

/-! ## Row reads without flips -/

theorem State.rowCheck_clean {m r : Nat} (h : s.logFlips m r = []) : s.rowCheck m r = (⟨s.rowRd m r, [], false⟩, s) := by
  rw [State.rowCheck, h]
  rfl

/-- A row without a flipped column is delivered, and nothing changes (R61). -/
theorem State.readRow_clean {m r : Nat} (h : s.logFlips m r = []) (back : Bool) : s.readRow m r back = (⟨some (s.rowRd m r), false, false, none⟩, s) := by
  rw [State.readRow, State.rowCheck_clean h]
  rfl

theorem State.remap_of_reg {m i : Nat} (h : t.reg (macBase m + 0x40 + 4 * i) = s.reg (macBase m + 0x40 + 4 * i)) : t.remap m i = s.remap m i := by
  rw [State.remap, h, State.remap]

end

end Sys2Proof.Machine
end


section
/-! PROOFS. O15: remaps, configuration and readback of a macro (R11, R65, R66, R68, R76, R117, R119). -/

namespace Sys2Proof.Machine

section
variable {s : State} {m i v : Nat}

/-! ## Remap entries -/

theorem exec_macRemapValidWrite (hon : s.compOn (m / 16) = true) (hi : i < 16) : exec (.macRemapValidWrite m i v) s = .next (remapWrite s m i v) :=
  congrArg Host.Outcome.next (if_pos ⟨hon, hi⟩)

/-- A write that remapWrite ignores changes nothing, whether the macro is on or off. -/
theorem exec_macRemapValidWrite_of_same (h : remapWrite s m i v = s) : exec (.macRemapValidWrite m i v) s = .next s := by
  show Host.Outcome.next (if s.compOn (m / 16) = true ∧ i < 16 then remapWrite s m i v else s) = _
  rw [h, ite_self]

/-- Another valid entry names the column. -/
def State.colUsed (s : State) (m i col : Nat) : Bool :=
  (List.range 16).any (fun (j : Nat) => decide (j ≠ i) && (s.remap m j).testBit 15 && decide (s.remap m j % 2048 = col))

theorem remapWrite_fused (h : (s.remap m i).testBit 17 = true) : remapWrite s m i v = s := if_pos h

theorem remapWrite_open {col : Nat} (hfused : (s.remap m i).testBit 17 = false) (hcol : (if v % 2048 < 1096 then v % 2048 else s.remap m i % 2048) = col) :
    remapWrite s m i v =
      if v.testBit 15 && s.colUsed m i col then s
      else if !v.testBit 15 then
        (((s.setReg (macBase m + 0x40 + 4 * i) (BitVec.ofNat 32 col)).setMx m
          { (s.setReg (macBase m + 0x40 + 4 * i) (BitVec.ofNat 32 col)).mx m with
            fill := SMap.set 512 ((s.setReg (macBase m + 0x40 + 4 * i) (BitVec.ofNat 32 col)).mx m).fill i 512 }).freeMacroSlot m)
      else if (s.remap m i).testBit 15 && decide (s.remap m i % 2048 = col) then s
      else (s.setReg (macBase m + 0x40 + 4 * i) (BitVec.ofNat 32 (col + 0x8000))).fillStart m i := by
  subst hcol
  exact if_neg (by rw [hfused]; exact Bool.false_ne_true)

theorem remapWrite_invalid (hfused : (s.remap m i).testBit 17 = false) (hv : v.testBit 15 = false) (hcol : v % 2048 < 1096) :
    remapWrite s m i v = (((s.setReg (macBase m + 0x40 + 4 * i) (BitVec.ofNat 32 (v % 2048))).setMx m
      { (s.setReg (macBase m + 0x40 + 4 * i) (BitVec.ofNat 32 (v % 2048))).mx m with
        fill := SMap.set 512 ((s.setReg (macBase m + 0x40 + 4 * i) (BitVec.ofNat 32 (v % 2048))).mx m).fill i 512 }).freeMacroSlot m) := by
  rw [remapWrite_open hfused (if_pos hcol), hv, Bool.false_and, if_neg Bool.false_ne_true, Bool.not_false, if_pos rfl]

theorem remapWrite_used (hv : v.testBit 15 = true) (hcol : v % 2048 < 1096) (hused : s.colUsed m i (v % 2048) = true) : remapWrite s m i v = s := by
  cases hfused : (s.remap m i).testBit 17 with
  | true => exact remapWrite_fused hfused
  | false => rw [remapWrite_open hfused (if_pos hcol), hv, hused, Bool.true_and, if_pos rfl]

theorem remapWrite_same (hv : v.testBit 15 = true) (hcol : v % 2048 < 1096) (hvalid : (s.remap m i).testBit 15 = true)
    (hsame : s.remap m i % 2048 = v % 2048) : remapWrite s m i v = s := by
  cases hfused : (s.remap m i).testBit 17 with
  | true => exact remapWrite_fused hfused
  | false => rw [remapWrite_open hfused (if_pos hcol), hv, hvalid, hsame, decide_eq_true rfl, Bool.not_true, if_neg Bool.false_ne_true, Bool.and_true, if_pos rfl,
      ite_self]

theorem remapWrite_valid (hfused : (s.remap m i).testBit 17 = false) (hv : v.testBit 15 = true) (hcol : v % 2048 < 1096)
    (hnew : ¬((s.remap m i).testBit 15 = true ∧ s.remap m i % 2048 = v % 2048)) (hused : s.colUsed m i (v % 2048) = false) :
    remapWrite s m i v = (s.setReg (macBase m + 0x40 + 4 * i) (BitVec.ofNat 32 (v % 2048 + 0x8000))).fillStart m i := by
  have hnew' : ¬((s.remap m i).testBit 15 && decide (s.remap m i % 2048 = v % 2048)) = true := by
    rw [Bool.and_eq_true, decide_eq_true_eq]
    exact hnew
  rw [remapWrite_open hfused (if_pos hcol), hv, hused, Bool.and_false, if_neg Bool.false_ne_true, Bool.not_true, if_neg Bool.false_ne_true, if_neg hnew']

/-- A reserved column leaves the field as it is (R11). -/
theorem remapWrite_reserved {w : Nat} (hv : 1096 ≤ v % 2048) (hw : w % 2048 = s.remap m i % 2048) (hbit : w.testBit 15 = v.testBit 15) :
    remapWrite s m i v = remapWrite s m i w := by
  cases hfused : (s.remap m i).testBit 17 with
  | true => rw [remapWrite_fused hfused, remapWrite_fused hfused]
  | false =>
    rw [remapWrite_open hfused (if_neg (Nat.not_lt.2 hv)), remapWrite_open (v := w) (col := s.remap m i % 2048) hfused (by rw [hw, ite_self]), hbit]

theorem State.freeMacroSlot_leaves (s : State) (m : Nat) : ((s.freeMacroSlot m).mx m).fill = (s.mx m).fill
    ∧ (s.freeMacroSlot m).regs = s.regs ∧ { s.freeMacroSlot m with macros := s.macros } = s := by
  unfold State.freeMacroSlot
  split
  · exact ⟨by rw [State.mx_setMx_self], rfl, rfl⟩
  · exact ⟨rfl, rfl, rfl⟩

theorem State.setMx_frame (s : State) (m : Nat) (x : MacroX) : { s.setMx m x with macros := s.macros } = s := rfl

/-- VALID 0 ends the use of the spare. -/
theorem macRemap_ends (hi : i < 16) (hon : s.compOn (m / 16) = true) (hfused : (s.remap m i).testBit 17 = false)
    (hv : v.testBit 15 = false) (hcol : v % 2048 < 1096) :
    ∃ t, exec (.macRemapValidWrite m i v) s = .next t ∧ t.remap m i = v % 2048 ∧ SMap.get 512 (t.mx m).fill i = 512
      ∧ (∀ a, a ≠ macBase m + 0x40 + 4 * i → t.reg a = s.reg a) ∧ { t with regs := s.regs, macros := s.macros } = s := by
  refine ⟨_, (exec_macRemapValidWrite hon hi).trans (congrArg _ (remapWrite_invalid hfused hv hcol)), ?_⟩
  have hself := s.reg_setReg_self (macBase m + 0x40 + 4 * i) (BitVec.ofNat 32 (v % 2048))
  have hother (a : Nat) (ha : a ≠ macBase m + 0x40 + 4 * i) := s.reg_setReg_of_ne (BitVec.ofNat 32 (v % 2048)) ha.symm
  have honly := State.OnlyRegs.of_setReg s (macBase m + 0x40 + 4 * i) (BitVec.ofNat 32 (v % 2048))
  generalize s.setReg (macBase m + 0x40 + 4 * i) (BitVec.ofNat 32 (v % 2048)) = u at *
  obtain ⟨w, hw⟩ : ∃ w, w = u.setMx m { u.mx m with fill := SMap.set 512 (u.mx m).fill i 512 } := ⟨_, rfl⟩
  rw [← hw]
  obtain ⟨hfill, hregs, hframe⟩ := w.freeMacroSlot_leaves m
  have hreg (a : Nat) : (w.freeMacroSlot m).reg a = u.reg a := State.reg_of_regs (s := u) (by rw [hregs, hw]; rfl) a
  refine ⟨?_, ?_, fun a ha => (hreg a).trans (hother a ha), ?_⟩
  · rw [State.remap, hreg, hself, BitVec.toNat_ofNat]
    omega
  · rw [hfill, hw, State.mx_setMx_self]
    have hset := SMap.get_set_self 512 (u.mx m).fill i 512
    exact hset
  · have hmid : { w with macros := s.macros } = u := by
      rw [← honly.macros, hw]
      exact u.setMx_frame m _
    exact ((congrArg (fun x : State => { x with regs := s.regs, macros := s.macros }) hframe : _).trans
      (congrArg (fun x : State => { x with regs := s.regs }) hmid : _)).trans honly.frame

/-- A fill pass begins with a place on the scoreboard. -/
theorem State.fillStart_leaves (s : State) (m i : Nat) : SMap.get 512 ((s.fillStart m i).mx m).fill i = 0
    ∧ (∀ a, a ≠ blkBase (m / 16) + F.BLK_SEQ_STAT_SB_PEAK.off → (s.fillStart m i).reg a = s.reg a)
    ∧ (∀ k, k ≠ m → (s.fillStart m i).mx k = s.mx k) ∧ s.othersKept (s.fillStart m i) (m / 16)
    ∧ { s.fillStart m i with regs := s.regs, macros := s.macros, blocks := s.blocks } = s := by
  obtain ⟨u, hu⟩ : ∃ u, u = (s.takeAge (m / 16)).2 := ⟨_, rfl⟩
  obtain ⟨x, hx⟩ : ∃ x : MacroX, x = { u.mx m with
    fill := SMap.set 512 (u.mx m).fill i 0, fillAge := if (u.mx m).fill = [] then (s.bx (m / 16)).nextId else (u.mx m).fillAge } := ⟨_, rfl⟩
  have hdone : s.fillStart m i = (u.setMx m x).sbPeak (m / 16) := by
    rw [hx, hu]
    rfl
  have hfill : SMap.get 512 x.fill i = 0 := by
    have hset := SMap.get_set_self 512 (u.mx m).fill i 0
    rw [hx]
    exact hset
  have hblocks : s.OnlyBlocks u := by rw [hu]; exact s.takeAge_onlyBlocks _
  have hbx (q : Nat) (hq : q ≠ m / 16) : u.bx q = s.bx q := by
    rw [hu]
    exact SMap.get_set_ne _ _ _ (Ne.symm hq)
  have hpeak := (u.setMx m x).sbPeak_onlyRegs (m / 16)
  have hreg (a : Nat) (ha : a ≠ blkBase (m / 16) + F.BLK_SEQ_STAT_SB_PEAK.off) : ((u.setMx m x).sbPeak (m / 16)).reg a = s.reg a :=
    ((u.setMx m x).sbPeak_reg _ ha).trans (State.reg_of_regs (s := s) (t := u.setMx m x) hblocks.regs a)
  have hmacros : u.macros = s.macros := (congrArg State.macros hblocks.frame : _)
  rw [hdone]
  generalize (u.setMx m x).sbPeak (m / 16) = t at *
  refine ⟨by rw [hpeak.mx, State.mx_setMx_self, hfill], hreg, fun k hk => ?_, fun q hq => (hpeak.bx q).trans (hbx q hq), ?_⟩
  · rw [hpeak.mx, State.mx_setMx_of_ne _ _ hk, State.mx, hmacros, State.mx]
  · have hset := u.setMx_frame m x
    generalize u.setMx m x = w at hset hpeak
    rw [← hblocks.frame, ← hset, ← hpeak.frame]

/-- VALID 1 with a new column begins its fill pass. -/
theorem macRemap_begins (hi : i < 16) (hon : s.compOn (m / 16) = true) (hfused : (s.remap m i).testBit 17 = false)
    (hv : v.testBit 15 = true) (hcol : v % 2048 < 1096) (hnew : ¬((s.remap m i).testBit 15 = true ∧ s.remap m i % 2048 = v % 2048))
    (hfree : ∀ j < 16, j ≠ i → ¬((s.remap m j).testBit 15 = true ∧ s.remap m j % 2048 = v % 2048)) :
    ∃ t, exec (.macRemapValidWrite m i v) s = .next t ∧ t.remap m i = v % 2048 + 0x8000 ∧ SMap.get 512 (t.mx m).fill i = 0
      ∧ (∀ a, a ≠ macBase m + 0x40 + 4 * i → a ≠ blkBase (m / 16) + F.BLK_SEQ_STAT_SB_PEAK.off → t.reg a = s.reg a)
      ∧ (∀ k, k ≠ m → t.mx k = s.mx k) ∧ s.othersKept t (m / 16)
      ∧ { t with regs := s.regs, macros := s.macros, blocks := s.blocks } = s := by
  have hunused : s.colUsed m i (v % 2048) = false := by
    refine List.any_eq_false.2 fun j hj hc => ?_
    simp only [Bool.and_eq_true, decide_eq_true_eq] at hc
    exact hfree j (List.mem_range.1 hj) hc.1.1 ⟨hc.1.2, hc.2⟩
  refine ⟨_, (exec_macRemapValidWrite hon hi).trans (congrArg _ (remapWrite_valid hfused hv hcol hnew hunused)), ?_⟩
  have hself := s.reg_setReg_self (macBase m + 0x40 + 4 * i) (BitVec.ofNat 32 (v % 2048 + 0x8000))
  have hother (a : Nat) (ha : a ≠ macBase m + 0x40 + 4 * i) := s.reg_setReg_of_ne (BitVec.ofNat 32 (v % 2048 + 0x8000)) ha.symm
  have honly := State.OnlyRegs.of_setReg s (macBase m + 0x40 + 4 * i) (BitVec.ofNat 32 (v % 2048 + 0x8000))
  generalize s.setReg (macBase m + 0x40 + 4 * i) (BitVec.ofNat 32 (v % 2048 + 0x8000)) = u at *
  obtain ⟨hfill, hreg, hmx, hbx, hframe⟩ := u.fillStart_leaves m i
  generalize u.fillStart m i = t at *
  refine ⟨?_, hfill, fun a ha ha' => (hreg a ha').trans (hother a ha), fun k hk => (hmx k hk).trans (honly.mx k), fun q hq => (hbx q hq).trans (honly.bx q), ?_⟩
  · rw [State.remap, hreg _ (by rw [Nat.add_assoc]; exact macBase_ne_blkBase (by omega) (by decide)), hself, BitVec.toNat_ofNat]
    omega
  · rw [← honly.macros, ← honly.blocks]
    exact (congrArg (fun x : State => { x with regs := s.regs }) hframe : _).trans honly.frame

/-! ## MAC_CFG and MAC_RB_GO -/

theorem macCfg_busy (hon : s.compOn (m / 16) = true) (hbusy : s.macroBusy m = true) :
    ∃ t, exec (.macCfgWrite m v) s = .next t ∧ t.isF (macBase m) F.MAC_STAT_CFG_REJ = true ∧ t.reg (macBase m) = s.reg (macBase m)
      ∧ { t with regs := s.regs } = s :=
  ⟨_, congrArg Host.Outcome.next ((if_pos hon).trans (if_pos hbusy)), s.isF_flagF_self _ (by decide) rfl,
    s.reg_setF_of_ne _ _ _ (by show macBase m + 4 ≠ _; omega), (State.OnlyRegs.of_flagF _ _ _).frame⟩

/-- A write of MAC_RB_CTL gives ROW its value. -/
theorem State.plainWrite_row (hm : m < 4096) :
    (s.plainWrite (macBase m + 0x800) v).getF (macBase m) F.MAC_RB_CTL_ROW = bits v F.MAC_RB_CTL_ROW.lo F.MAC_RB_CTL_ROW.width := by
  have hfind : regs_mac.find? (fun d => d.at 0x800) = some
      ⟨"MAC_RB_CTL", 0x800, [], [⟨0, 9, .rw, 0, []⟩, ⟨16, 1, .wo, 0, []⟩, ⟨17, 1, .ro, 0, []⟩, ⟨18, 1, .ro, 0, []⟩, ⟨19, 1, .ro, 0, []⟩]⟩ := by
    decide
  have hdesc := (regDesc_macBase hm (off := 0x800) (by decide)).trans hfind
  have hwrite : s.plainWrite (macBase m + 0x800) v = s.setF (macBase m) F.MAC_RB_CTL_ROW (bits v 0 9) := by
    rw [State.plainWrite, hdesc]
    rfl
  rw [hwrite, State.getF_setF_self _ _ _ _ (by decide)]
  exact Nat.mod_mod _ _

theorem macRb_begins (hon : s.compOn (m / 16) = true) (hgo : v.testBit 16 = true) :
    ∃ t, exec (.macRbGo m v) s = .next t ∧ (t.mx m).rb = some (s.bx (m / 16)).nextId ∧ (t.bx (m / 16)).nextId = (s.bx (m / 16)).nextId + 1
      ∧ t.getF (macBase m) F.MAC_RB_CTL_DONE = 0 ∧ t.getF (macBase m) F.MAC_RB_CTL_ROW = bits v F.MAC_RB_CTL_ROW.lo F.MAC_RB_CTL_ROW.width
      ∧ { t with regs := s.regs, macros := s.macros, blocks := s.blocks } = s := by
  have hm : m < 4096 := by
    have hb := hon
    rw [State.compOn, Bool.and_eq_true, decide_eq_true_eq] at hb
    omega
  obtain ⟨u, hu⟩ : ∃ u, u = (s.plainWrite (macBase m + 0x800) v).setF (macBase m) F.MAC_RB_CTL_DONE 0 := ⟨_, rfl⟩
  obtain ⟨w, hw⟩ : ∃ w, w = (u.takeAge (m / 16)).2 := ⟨_, rfl⟩
  obtain ⟨x, hx⟩ : ∃ x : MacroX, x = { w.mx m with rb := some (u.bx (m / 16)).nextId } := ⟨_, rfl⟩
  have hexec : exec (.macRbGo m v) s = .next ((w.setMx m x).sbPeak (m / 16)) := by
    refine congrArg Host.Outcome.next ((if_pos hon).trans ?_)
    unfold rbWrite
    rw [hx, hw, hu]
    exact if_pos hgo
  have honly : s.OnlyRegs u := by
    rw [hu]
    exact (s.plainWrite_onlyRegs _ _).trans (.of_setF _ _ _ _)
  have hdone : u.getF (macBase m) F.MAC_RB_CTL_DONE = 0 := by
    rw [hu]
    exact State.getF_setF_self _ _ _ _ (by decide)
  have hrow : u.getF (macBase m) F.MAC_RB_CTL_ROW = bits v F.MAC_RB_CTL_ROW.lo F.MAC_RB_CTL_ROW.width := by
    rw [hu, State.getF_setF_of_apart _ _ _ (Or.inr (Or.inr (by decide))) (by decide)]
    exact State.plainWrite_row hm
  have hage : (w.bx (m / 16)).nextId = (u.bx (m / 16)).nextId + 1 := by
    rw [hw, State.takeAge, State.bx_setBx_self]
  have hblocks : u.OnlyBlocks w := by
    rw [hw]
    exact u.takeAge_onlyBlocks _
  have hset := w.setMx_frame m x
  have hself := w.mx_setMx_self m x
  have hregs : (w.setMx m x).regs = w.regs := rfl
  have hbx : (w.setMx m x).blocks = w.blocks := rfl
  generalize w.setMx m x = y at *
  have hpeak := y.sbPeak_onlyRegs (m / 16)
  have hreg (f : Fld) (hf : f.off < 0x4000) : (y.sbPeak (m / 16)).getF (macBase m) f = u.getF (macBase m) f := by
    rw [State.getF, y.sbPeak_reg _ (macBase_ne_blkBase hf (by decide)), State.reg_of_regs (s := u) (hregs.trans hblocks.regs), State.getF]
  generalize y.sbPeak (m / 16) = t at *
  refine ⟨t, hexec, ?_, ?_, (hreg _ (by decide)).trans hdone, (hreg _ (by decide)).trans hrow, ?_⟩
  · rw [hpeak.mx, hself, hx, ← honly.bx]
  · rw [hpeak.bx, State.bx, hbx, ← State.bx, hage, honly.bx]
  · rw [← honly.frame, ← hblocks.frame, ← hset, ← hpeak.frame]

/-! ## READBACK -/

theorem readback_delivers {b a : Nat} (hon : s.compOn b = true) (hnext : s.rbNext b = some (a, m)) (hclean : s.logFlips m (s.getF (macBase m) F.MAC_RB_CTL_ROW) = []) :
    ∃ t : State, exec (.readback b) s = .next (t.settleBlk b) ∧ (t.mx m).rb = none ∧ t.getF (macBase m) F.MAC_RB_CTL_DONE = 1
      ∧ (∀ i, i < 32 → (t.reg (macBase m + 0x840 + 4 * i)).toNat = leAt (s.rowRd m (s.getF (macBase m) F.MAC_RB_CTL_ROW)) (4 * i) 4)
      ∧ { t with regs := s.regs, macros := s.macros } = s := by
  obtain ⟨d, hd⟩ : ∃ d, d = s.rowRd m (s.getF (macBase m) F.MAC_RB_CTL_ROW) := ⟨_, rfl⟩
  obtain ⟨l, hl⟩ : ∃ l : List (Nat × Word), l = (List.range 32).map fun i => (macBase m + 0x840 + 4 * i, BitVec.ofNat 32 (leAt d (4 * i) 4)) := ⟨_, rfl⟩
  obtain ⟨u, hu⟩ : ∃ u, u = s.setMx m { s.mx m with rb := none } := ⟨_, rfl⟩
  have heff : readbackEff s b = (((u.setRegs l).setF (macBase m) F.MAC_RB_CTL_DONE 1).setF (macBase m) F.MAC_RB_CTL_CE 0).setF (macBase m) F.MAC_RB_CTL_UE 0 := by
    unfold readbackEff
    rw [hnext]
    dsimp only
    rw [State.readRow_clean hclean, ← hd, hu, hl, State.setRegs, List.foldl_map]
    rfl
  have hexec : exec (.readback b) s = .next ((readbackEff s b).settleBlk b) := by
    refine congrArg Host.Outcome.next (if_pos ?_)
    rw [hon, hnext]
    rfl
  rw [heff] at hexec
  refine ⟨_, hexec, ?_⟩
  have hnodup : (l.map Prod.fst).Nodup := by
    rw [hl, List.map_map]
    refine List.Nodup.map (fun i j hij => ?_) List.nodup_range
    have hij : macBase m + 0x840 + 4 * i = macBase m + 0x840 + 4 * j := hij
    omega
  have hdata (i : Nat) (hi : i < 32) : (u.setRegs l).reg (macBase m + 0x840 + 4 * i) = BitVec.ofNat 32 (leAt d (4 * i) 4) :=
    u.reg_setRegs hnodup (by rw [hl]; exact List.mem_map.2 ⟨i, List.mem_range.2 hi, rfl⟩)
  have honly := State.OnlyRegs.of_setRegs u l
  generalize u.setRegs l = w at *
  have hregs : w.OnlyRegs (((w.setF (macBase m) F.MAC_RB_CTL_DONE 1).setF (macBase m) F.MAC_RB_CTL_CE 0).setF (macBase m) F.MAC_RB_CTL_UE 0) :=
    ((State.OnlyRegs.of_setF _ _ _ _).trans (.of_setF _ _ _ _)).trans (.of_setF _ _ _ _)
  refine ⟨?_, ?_, fun i hi => ?_, ?_⟩
  · rw [hregs.mx, honly.mx, hu, State.mx_setMx_self]
  · rw [State.getF_setF_of_apart _ _ _ (Or.inr (Or.inr (by decide))) (by decide), State.getF_setF_of_apart _ _ _ (Or.inr (Or.inr (by decide))) (by decide),
      State.getF_setF_self _ _ _ _ (by decide)]
    rfl
  · have hne (f : Fld) (hf : f.off = 0x800) : macBase m + f.off ≠ macBase m + 0x840 + 4 * i := by omega
    rw [State.reg_setF_of_ne _ _ _ _ (hne _ rfl), State.reg_setF_of_ne _ _ _ _ (hne _ rfl), State.reg_setF_of_ne _ _ _ _ (hne _ rfl), hdata i hi,
      BitVec.toNat_ofNat, hd]
    exact Nat.mod_eq_of_lt (leAt_lt _ _ _)
  · have hset : { u with macros := s.macros } = s := by
      rw [hu]
      exact s.setMx_frame m _
    generalize ((w.setF (macBase m) F.MAC_RB_CTL_DONE 1).setF (macBase m) F.MAC_RB_CTL_CE 0).setF (macBase m) F.MAC_RB_CTL_UE 0 = t at *
    rw [← hset, ← honly.frame, ← hregs.frame]

end

/-- Settles O15. -/
theorem macroRegisters : Obligations.MacroRegisters := by
  unfold Obligations.MacroRegisters
  refine ⟨fun s m i v _ hi hon hfused hv hcol => macRemap_ends hi hon hfused hv hcol,
    fun s m i v _ hi hon hfused hv hcol hnew hfree => macRemap_begins hi hon hfused hv hcol hnew hfree,
    fun s m i v hv hold => ?reserved, fun s m i j v hcol hv hj hne hvalid hsame => ?used,
    fun s m i v hcol hv hvalid hsame => exec_macRemapValidWrite_of_same (remapWrite_same hv hcol hvalid hsame),
    fun s m i v hfused => exec_macRemapValidWrite_of_same (remapWrite_fused hfused),
    fun s m v hon hidle => congrArg Host.Outcome.next ((if_pos hon).trans (if_neg (by rw [hidle]; exact Bool.false_ne_true))),
    fun s m v hon hbusy => macCfg_busy hon hbusy, fun s m v hon hgo => macRb_begins hon hgo, fun s b a m hon hnext hclean => readback_delivers hon hnext hclean⟩
  case reserved =>
    refine congrArg Host.Outcome.next (if_congr Iff.rfl (remapWrite_reserved hv ?_ ?_) rfl)
    · cases v.testBit 15
      · exact (Nat.mod_mod _ _)
      · show (_ + 0x8000) % 2048 = _
        omega
    · cases v.testBit 15
      · exact Nat.testBit_lt_two_pow (show s.remap m i % 2048 + 0 < 2 ^ 15 by omega)
      · show (s.remap m i % 2048 + 2 ^ 15).testBit 15 = true
        rw [Nat.add_comm, Nat.testBit_two_pow_add_eq, Nat.testBit_lt_two_pow (by omega)]
        rfl
  case used =>
    refine exec_macRemapValidWrite_of_same (remapWrite_used hv hcol (List.any_eq_true.2 ⟨j, List.mem_range.2 hj, ?_⟩))
    simp only [Bool.and_eq_true, decide_eq_true_eq]
    exact ⟨⟨hne, hvalid⟩, hsame⟩

end Sys2Proof.Machine
end


section
/-! PROOFS. O16: the shadow port of a macro (R69 to R71, R117). -/

namespace Sys2Proof.Machine

section
variable {s t u : State} {m : Nat}

/-! ## Contexts brought up to date -/

theorem State.OnlyBlocks.refl (s : State) : s.OnlyBlocks s := ⟨rfl⟩

theorem State.setCtx_onlyBlocks (s : State) (b c : Nat) (x : Ctx) : s.OnlyBlocks (s.setCtx b c x) := ⟨rfl⟩

theorem State.ctxTidyN_onlyBlocks (s : State) (b c n : Nat) : s.OnlyBlocks (s.ctxTidyN b c n) := by
  induction n generalizing s with
  | zero => exact .refl s
  | succ n ih =>
    have hfin : s.OnlyBlocks (if (s.ctxIssues b c).isEmpty then s.setCtx b c { s.ctx b c with st := .done, reason := 0 } else s) := by
      split
      · exact s.setCtx_onlyBlocks _ _ _
      · exact .refl s
    unfold State.ctxTidyN
    dsimp only
    split
    · exact .refl s
    · split
      · exact hfin
      · split
        · exact (s.setCtx_onlyBlocks _ _ _).trans (ih _)
        · split <;> exact s.setCtx_onlyBlocks _ _ _

theorem State.ctxTidy_onlyBlocks (s : State) (b c : Nat) : s.OnlyBlocks (s.ctxTidy b c) := by
  unfold State.ctxTidy
  split
  · exact s.ctxTidyN_onlyBlocks _ _ _
  · exact .refl s

/-- While no wake is under way, macros restored leave the blocks and the list of regions that restore changed alone. -/
theorem State.wakeRestored_leaves (h : s.power.wake = 0) : { s.wakeRestored with blocks := s.blocks, power := s.power } = s := by
  obtain ⟨t, ht⟩ : ∃ t, s.wakeRestored = t := ⟨_, rfl⟩
  rw [ht]
  unfold State.wakeRestored at ht
  extract_lets run up p u at ht
  have hu : { u with power := s.power } = s := rfl
  have hwake : u.power.wake = 0 := h
  clear_value u
  have hfold (l : List (Nat × Nat)) : u.OnlyBlocks (l.foldl (fun st e => st.ctxTidy e.1 e.2) u) :=
    foldl_keeps u.OnlyBlocks _ (.refl u) fun e _ v hv => hv.trans (v.ctxTidy_onlyBlocks _ _)
  have hblocks := hfold ((planCtxs s.img).filter (fun e => decide (e.1 / 16 ∈ up)))
  generalize ((planCtxs s.img).filter (fun e => decide (e.1 / 16 ∈ up))).foldl (fun st e => st.ctxTidy e.1 e.2) u = w at *
  rw [State.wakeGo_of_awake (by rw [show w.power = u.power from (congrArg State.power hblocks.frame : _), hwake])] at ht
  rw [← ht]
  have hmid : { w with blocks := s.blocks } = u := by
    rw [show s.blocks = u.blocks from (congrArg State.blocks hu : _).symm]
    exact hblocks.frame
  exact (congrArg (fun x : State => { x with power := s.power }) hmid : _).trans hu

/-! ## SYNC and RESTORE take their rows -/

/-- An operation of the shadow port takes its place on the scoreboard. -/
theorem State.shopStart_leaves (s : State) (m : Nat) (restore : Bool) (left : List Nat) :
    ((s.shopStart m restore left).mx m).shop = some ⟨restore, left, (s.bx (m / 16)).nextId⟩
    ∧ (s.shopStart m restore left).getF (macBase m) F.MAC_SHADOW_CTL_BUSY = 1
    ∧ (s.shopStart m restore left).getF (macBase m) F.MAC_SHADOW_CTL_STALE = s.getF (macBase m) F.MAC_SHADOW_CTL_STALE
    ∧ s.othersKept (s.shopStart m restore left) (m / 16)
    ∧ { s.shopStart m restore left with regs := s.regs, macros := s.macros, blocks := s.blocks } = s := by
  obtain ⟨u, hu⟩ : ∃ u, u = (s.takeAge (m / 16)).2 := ⟨_, rfl⟩
  obtain ⟨o, ho⟩ : ∃ o : ShadowOp, o = ⟨restore, left, (s.bx (m / 16)).nextId⟩ := ⟨_, rfl⟩
  obtain ⟨x, hx⟩ : ∃ x : MacroX, x = { u.mx m with shop := some o } := ⟨_, rfl⟩
  have hdone : s.shopStart m restore left = ((u.setMx m x).setF (macBase m) F.MAC_SHADOW_CTL_BUSY 1).sbPeak (m / 16) := by
    rw [hx, hu, ho]
    rfl
  have hblocks : s.OnlyBlocks u := by rw [hu]; exact s.takeAge_onlyBlocks _
  have hbx (q : Nat) (hq : q ≠ m / 16) : u.bx q = s.bx q := by
    rw [hu]
    exact SMap.get_set_ne _ _ _ (Ne.symm hq)
  have hset := u.setMx_frame m x
  have hself := u.mx_setMx_self m x
  have hregs : (u.setMx m x).regs = s.regs := hblocks.regs
  have hxb : (u.setMx m x).blocks = u.blocks := rfl
  rw [hdone]
  generalize u.setMx m x = w at *
  have hbusy := w.getF_setF_self (macBase m) F.MAC_SHADOW_CTL_BUSY 1 (by decide)
  have hstale := w.getF_setF_of_apart (macBase m) (f := F.MAC_SHADOW_CTL_BUSY) (g := F.MAC_SHADOW_CTL_STALE) 1 (by decide) (by decide)
  have honly := State.OnlyRegs.of_setF w (macBase m) F.MAC_SHADOW_CTL_BUSY 1
  generalize w.setF (macBase m) F.MAC_SHADOW_CTL_BUSY 1 = y at *
  have hpeak := y.sbPeak_onlyRegs (m / 16)
  have hreg (f : Fld) (hf : f.off < 0x4000) : (y.sbPeak (m / 16)).getF (macBase m) f = y.getF (macBase m) f := by
    rw [State.getF, y.sbPeak_reg _ (macBase_ne_blkBase hf (by decide)), State.getF]
  generalize y.sbPeak (m / 16) = t at *
  refine ⟨by rw [hpeak.mx, honly.mx, hself, hx, ho], (hreg _ (by decide)).trans hbusy, ?_, fun q hq => ?_, ?_⟩
  · rw [hreg _ (by decide), hstale, State.getF_of_regs hregs]
  · rw [hpeak.bx, honly.bx, State.bx, hxb, ← State.bx, hbx q hq]
  · rw [← hblocks.frame, ← hset, ← honly.frame, ← hpeak.frame]

theorem shadowSync_takes (hon : s.compOn (m / 16) = true) (hidle : (s.mx m).shop = none) (hdirty : s.dirtyRows m ≠ []) :
    ∃ t, exec (.macShadowSync m) s = .next t ∧ (t.mx m).shop = some ⟨false, s.dirtyRows m, (s.bx (m / 16)).nextId⟩
      ∧ t.getF (macBase m) F.MAC_SHADOW_CTL_BUSY = 1 ∧ s.othersKept t (m / 16)
      ∧ { t with regs := s.regs, macros := s.macros, blocks := s.blocks } = s := by
  have hexec : exec (.macShadowSync m) s = .next (s.shopStart m false (s.dirtyRows m)) := by
    refine congrArg Host.Outcome.next ((if_pos hon).trans ?_)
    rw [shadowSync, hidle]
    exact if_neg fun h => hdirty (List.isEmpty_iff.1 h)
  obtain ⟨hshop, hbusy, -, hothers, hframe⟩ := s.shopStart_leaves m false (s.dirtyRows m)
  exact ⟨_, hexec, hshop, hbusy, hothers, hframe⟩

theorem shadowRestore_takes (hon : s.compOn (m / 16) = true) (hidle : (s.mx m).shop = none) :
    ∃ t, exec (.macShadowRestore m) s = .next t ∧ (t.mx m).shop = some ⟨true, List.range 512, (s.bx (m / 16)).nextId⟩
      ∧ t.getF (macBase m) F.MAC_SHADOW_CTL_BUSY = 1
      ∧ (s.anyDirty m = true → t.getF (macBase m) F.MAC_SHADOW_CTL_STALE = 1)
      ∧ s.othersKept t (m / 16) ∧ { t with regs := s.regs, macros := s.macros, blocks := s.blocks } = s := by
  obtain ⟨u, hu⟩ : ∃ u, u = if s.anyDirty m then s.flagF (macBase m) F.MAC_SHADOW_CTL_STALE else s := ⟨_, rfl⟩
  have hexec : exec (.macShadowRestore m) s = .next (u.shopStart m true (List.range 512)) := by
    refine congrArg Host.Outcome.next ((if_pos hon).trans ?_)
    rw [shadowRestore, hidle, hu]
    exact if_neg Bool.false_ne_true
  have honly : s.OnlyRegs u := by
    rw [hu]
    split
    · exact .of_flagF _ _ _
    · exact .refl s
  have hflag (h : s.anyDirty m = true) : u.getF (macBase m) F.MAC_SHADOW_CTL_STALE = 1 := by
    rw [hu, if_pos h]
    exact State.getF_setF_self _ _ _ _ (by decide)
  obtain ⟨hshop, hbusy, hstale, hothers, hframe⟩ := u.shopStart_leaves m true (List.range 512)
  generalize u.shopStart m true (List.range 512) = t at *
  refine ⟨t, hexec, by rw [hshop, honly.bx], hbusy, fun h => hstale.trans (hflag h), fun q hq => (hothers q hq).trans (honly.bx q), ?_⟩
  rw [← honly.macros, ← honly.blocks]
  exact (congrArg (fun x : State => { x with regs := s.regs }) hframe : _).trans honly.frame

/-! ## A row of SYNC is copied -/

theorem syncRow_copies {r k age : Nat} {l : List Nat} (hon : s.compOn (m / 16) = true) (hshop : (s.mx m).shop = some ⟨false, r :: k :: l, age⟩)
    (hfree : s.stepFree m r false age = true) (hturn : s.syncNextUp (m / 16) = true) (hclean : s.logFlips m r = []) :
    ∃ t : State, exec (.macSyncRowCopied m) s = .next (((t.settleBlk (m / 16)).armGo none).syncGo) ∧ (t.mx m).shop = some ⟨false, k :: l, age⟩
      ∧ t.rowDirty m r = false ∧ t.shadowRow m r = s.rowRd m r
      ∧ (∀ a, (a < 65536 * m + 128 * r ∨ 65536 * m + 128 * r + 128 ≤ a) → Mem.rd t.mem.wshadow a = Mem.rd s.mem.wshadow a)
      ∧ { t.mem with wshadow := s.mem.wshadow } = s.mem ∧ { t with regs := s.regs, macros := s.macros, mem := s.mem } = s := by
  obtain ⟨d, hd⟩ : ∃ d, d = s.rowRd m r := ⟨_, rfl⟩
  obtain ⟨u, hu⟩ : ∃ u : State, u = { s with mem := { s.mem with wshadow := Mem.wrN s.mem.wshadow (65536 * m + 128 * r) d } } := ⟨_, rfl⟩
  obtain ⟨w, hw⟩ : ∃ w, w = u.setF (macBase m) (rowBitFld 0xA0 r) 0 := ⟨_, rfl⟩
  obtain ⟨x, hx⟩ : ∃ x : MacroX, x = { w.mx m with shop := some ⟨false, k :: l, age⟩ } := ⟨_, rfl⟩
  have hrow : s.syncRow m = (w.setMx m x).setF (macBase m) F.MAC_SHADOW_CTL_BUSY 1 := by
    unfold State.syncRow
    rw [hshop]
    dsimp only
    rw [if_pos hfree, State.readRow_clean hclean, ← hd, hx, hw, hu]
    rfl
  have hdue : (s.syncDue m).isSome = true := by
    unfold State.syncDue
    rw [hshop]
    dsimp only
    rw [if_pos hfree]
    rfl
  have hexec : exec (.macSyncRowCopied m) s = .next ((((s.syncRow m).settleBlk (m / 16)).armGo none).syncGo) :=
    congrArg Host.Outcome.next (if_pos (by rw [hon, hdue, hturn]; rfl))
  rw [hrow] at hexec
  have hdlen : d.length = 128 := by rw [hd, State.rowRd, Mem.length_rdN]
  have hmem : u.mem = { s.mem with wshadow := Mem.wrN s.mem.wshadow (65536 * m + 128 * r) d } := by rw [hu]
  have humem : { u with mem := s.mem } = s := by rw [hu]
  have hwonly : u.OnlyRegs w := by rw [hw]; exact .of_setF _ _ _ _
  have hwdirty : w.getF (macBase m) (rowBitFld 0xA0 r) = 0 := by
    rw [hw]
    refine (State.getF_setF_self _ _ _ _ (by show r % 32 + 1 ≤ 32; omega)).trans (Nat.zero_mod _)
  have hset := w.setMx_frame m x
  have hself := w.mx_setMx_self m x
  have hregs : (w.setMx m x).regs = w.regs := rfl
  generalize w.setMx m x = y at *
  have hyonly := State.OnlyRegs.of_setF y (macBase m) F.MAC_SHADOW_CTL_BUSY 1
  have hdirty := State.getF_setF_of_ne y (macBase m) 1 (base' := macBase m) F.MAC_SHADOW_CTL_BUSY (rowBitFld 0xA0 r)
    (by show macBase m + 0x90 ≠ macBase m + (0xA0 + 4 * (r / 32)); omega)
  generalize y.setF (macBase m) F.MAC_SHADOW_CTL_BUSY 1 = t at *
  have hymem : y.mem = w.mem := (congrArg State.mem hset : _)
  have htmem : t.mem = { s.mem with wshadow := Mem.wrN s.mem.wshadow (65536 * m + 128 * r) d } := by
    rw [hyonly.mem, hymem, hwonly.mem, hmem]
  have hrd := Mem.rdN_wrN s.mem.wshadow (65536 * m + 128 * r) d
  rw [hdlen] at hrd
  refine ⟨t, hexec, by rw [hyonly.mx, hself, hx], ?_, ?_, fun a ha => ?_, by rw [htmem], ?_⟩
  · rw [State.rowDirty, hdirty, State.getF_of_regs hregs, hwdirty]
    rfl
  · rw [State.shadowRow, htmem, ← hd]
    exact hrd
  · rw [htmem]
    exact Mem.rd_wrN_of_outside _ _ _ _ (by rw [hdlen]; exact ha)
  · rw [← humem, ← hwonly.frame, ← hset, ← hyonly.frame]

/-! ## A restore retires -/

/-- The bit arrays of a macro's rows cleared. -/
def State.rowsClean (s : State) (m : Nat) : State :=
  (List.range 16).foldl (fun st i => (st.setReg (macBase m + 0xA0 + 4 * i) 0).setReg (macBase m + 0xE0 + 4 * i) 0) s

theorem State.rowsClean_onlyRegs (s : State) (m : Nat) : s.OnlyRegs (s.rowsClean m) :=
  foldl_keeps s.OnlyRegs _ (.refl s) fun _ _ _ hv => hv.trans ((State.OnlyRegs.of_setReg _ _ _).trans (.of_setReg _ _ _))

theorem State.reg_setReg_zero {a b : Nat} (h : s.reg b = 0) : (s.setReg a 0).reg b = 0 := by
  by_cases hab : a = b
  · rw [hab, State.reg_setReg_self]
  · rw [State.reg_setReg_of_ne _ _ hab, h]

theorem State.rowsClean_reg (s : State) (m : Nat) {i : Nat} (hi : i < 16) :
    (s.rowsClean m).reg (macBase m + 0xA0 + 4 * i) = 0 ∧ (s.rowsClean m).reg (macBase m + 0xE0 + 4 * i) = 0 := by
  refine foldl_establishes _ (Q := fun i (u : State) => u.reg (macBase m + 0xA0 + 4 * i) = 0 ∧ u.reg (macBase m + 0xE0 + 4 * i) = 0) (R := fun _ _ => True)
    (fun j u _ => ?_) (fun j k u hu => ?_) (fun _ _ _ _ => Or.inr trivial) (List.mem_range.2 hi) (Or.inr trivial)
  · exact ⟨State.reg_setReg_zero (State.reg_setReg_self _ _ _), State.reg_setReg_self _ _ _⟩
  · exact ⟨State.reg_setReg_zero (State.reg_setReg_zero hu.1), State.reg_setReg_zero (State.reg_setReg_zero hu.2)⟩

theorem State.holdTag_of_store (h : t.store = s.store) : t.holdTag m = s.holdTag m := by rw [State.holdTag, h, State.holdTag]

/-- What a restore leaves: the rows equal the shadow, no bit of the arrays is set, and the holding tag names the image of the shadow. -/
theorem State.restoreAll_leaves (s : State) (m : Nat) : (∀ i < 16, (s.restoreAll m).reg (macBase m + 0xA0 + 4 * i) = 0)
    ∧ (∀ i < 16, (s.restoreAll m).reg (macBase m + 0xE0 + 4 * i) = 0) ∧ ((s.restoreAll m).mx m).held = s.holdTag m
    ∧ (s.restoreAll m).mem = { s.mem with
        rows := Mem.wrN (Mem.clear s.mem.rows (65536 * m) (65536 * (m + 1))) (65536 * m) (Mem.rdN s.mem.wshadow (65536 * m) 65536) }
    ∧ (s.restoreAll m).mail = s.mail ∧ (s.restoreAll m).power = s.power := by
  unfold State.restoreAll
  extract_lets d stale rows fl s1 src
  have hmem : s1.mem = { s.mem with rows := Mem.wrN (Mem.clear s.mem.rows (65536 * m) (65536 * (m + 1))) (65536 * m) (Mem.rdN s.mem.wshadow (65536 * m) 65536) } :=
    rfl
  have hmail : s1.mail = s.mail := rfl
  have hpower : s1.power = s.power := rfl
  have htag : s1.holdTag m = s.holdTag m := State.holdTag_of_store rfl
  clear_value s1 src
  obtain ⟨x, hx⟩ : ∃ x : MacroX, x = { src with held := s1.holdTag m } := ⟨_, rfl⟩
  rw [← hx]
  have hself := s1.mx_setMx_self m x
  have hset := s1.setMx_frame m x
  generalize s1.setMx m x = y at *
  have htags : y.OnlyBlocks (y.setTag m none) := ⟨rfl⟩
  generalize y.setTag m none = z at *
  have honly := z.rowsClean_onlyRegs m
  have hreg := fun i (hi : i < 16) => z.rowsClean_reg m hi
  have hmid : { z with macros := s1.macros, blocks := s1.blocks } = s1 := by
    rw [show s1.blocks = y.blocks from (congrArg State.blocks hset : _).symm]
    exact (congrArg (fun x : State => { x with macros := s1.macros }) htags.frame : _).trans hset
  have hmx : z.mx m = y.mx m := by rw [State.mx, show z.macros = y.macros from (congrArg State.macros htags.frame : _), State.mx]
  refine ⟨fun i hi => (hreg i hi).1, fun i hi => (hreg i hi).2, ?_, ?_, ?_, ?_⟩
  · refine (congrArg MacroX.held (honly.mx m)).trans ?_
    rw [hmx, hself, hx]
    exact htag
  · exact honly.mem.trans ((congrArg State.mem hmid : _).trans hmem)
  · exact honly.mail.trans ((congrArg State.mail hmid : _).trans hmail)
  · exact honly.power.trans ((congrArg State.power hmid : _).trans hpower)

/-- Bytes of a copied range are those of the source. -/
theorem Mem.rd_copied (m w : Mem) {lo n o : Nat} (hi : Nat) (h : o < n) : Mem.rd (Mem.wrN (Mem.clear m lo hi) lo (Mem.rdN w lo n)) (lo + o) = Mem.rd w (lo + o) := by
  rw [Mem.rd_wrN, Mem.length_rdN, if_pos (by omega), Nat.add_sub_cancel_left]
  simp [Mem.rdN, h]

theorem Mem.rd_copied_of_outside (m w : Mem) {lo n hi a : Nat} (h : a < lo ∨ hi ≤ a ∧ lo + n ≤ a) :
    Mem.rd (Mem.wrN (Mem.clear m lo hi) lo (Mem.rdN w lo n)) a = Mem.rd m a := by
  rw [Mem.rd_wrN_of_outside _ _ _ _ (by rw [Mem.length_rdN]; omega), Mem.rd_clear, if_neg (by omega)]

theorem restore_retires {age : Nat} {l : List Nat} (hon : s.compOn (m / 16) = true) (hshop : (s.mx m).shop = some ⟨true, l, age⟩)
    (hrows : s.rowHeld (m / 16) (m % 16) 0 512 true age = false) (hrb : s.rbHeld m 0 512 age = false)
    (hscrub : 0 < (s.mx m).scrubReq → age ≤ (s.mx m).scrubAge) (hfill : (s.mx m).fill ≠ [] → age ≤ (s.mx m).fillAge)
    (harm : s.takenOp 0x0503 = none) (hsync : s.takenOp 0x0406 = none) (hwake : s.power.wake = 0) :
    ∃ t, exec (.macRestoreRetire m) s = .next t ∧ (t.mx m).shop = none ∧ t.getF (macBase m) F.MAC_SHADOW_CTL_BUSY = 0
      ∧ t.anyDirty m = false ∧ t.anyPoison m = false ∧ (t.mx m).held = s.holdTag m ∧ t.mem.wshadow = s.mem.wshadow
      ∧ (∀ o, o < 65536 → Mem.rd t.mem.rows (65536 * m + o) = Mem.rd s.mem.wshadow (65536 * m + o))
      ∧ (∀ a, (a < 65536 * m ∨ 65536 * (m + 1) ≤ a) → Mem.rd t.mem.rows a = Mem.rd s.mem.rows a) := by
  have hretire : s.restoreRetire m = (s.restoreAll m).setShop m none := by
    unfold State.restoreRetire
    rw [hshop]
    refine if_neg ?_
    rw [hrows, hrb, Bool.false_or, Bool.false_or, Bool.or_eq_true, decide_eq_true_eq, decide_eq_true_eq]
    rintro (⟨h, hlt⟩ | ⟨h, hlt⟩)
    · exact absurd hlt (Nat.not_lt.2 (hscrub h))
    · exact absurd hlt (Nat.not_lt.2 (hfill h))
  have hrest : s.restoringM m = true := by rw [State.restoringM, hshop]; rfl
  obtain ⟨hdirty, hpoison, hheld, hmem, hmail, hpower⟩ := s.restoreAll_leaves m
  obtain ⟨u, hu⟩ : ∃ u, s.restoreAll m = u := ⟨_, rfl⟩
  rw [hu] at hretire hdirty hpoison hheld hmem hmail hpower
  obtain ⟨x, hx⟩ : ∃ x : MacroX, x = { u.mx m with shop := none } := ⟨_, rfl⟩
  have hshopped : u.setShop m none = (u.setMx m x).setF (macBase m) F.MAC_SHADOW_CTL_BUSY 0 := by
    rw [hx]
    rfl
  have hset := u.setMx_frame m x
  have hself := u.mx_setMx_self m x
  have hregs : (u.setMx m x).regs = u.regs := rfl
  rw [hshopped] at hretire
  generalize u.setMx m x = y at *
  have honly := State.OnlyRegs.of_setF y (macBase m) F.MAC_SHADOW_CTL_BUSY 0
  have hbusy := y.getF_setF_self (macBase m) F.MAC_SHADOW_CTL_BUSY 0 (by decide)
  have hreg (a : Nat) (ha : a ≠ macBase m + 0x90) : (y.setF (macBase m) F.MAC_SHADOW_CTL_BUSY 0).reg a = u.reg a :=
    (y.reg_setF_of_ne _ _ _ ha.symm).trans (State.reg_of_regs hregs a)
  generalize y.setF (macBase m) F.MAC_SHADOW_CTL_BUSY 0 = w at *
  have hwpower : w.power = s.power := honly.power.trans ((congrArg State.power hset : _).trans hpower)
  have hwmail : w.mail = s.mail := honly.mail.trans ((congrArg State.mail hset : _).trans hmail)
  have hwmem : w.mem = u.mem := honly.mem.trans (congrArg State.mem hset : _)
  have hwx : w.mx m = x := (honly.mx m).trans hself
  have hlast := State.wakeRestored_leaves (s := w) (by rw [hwpower, hwake])
  have hexec : exec (.macRestoreRetire m) s = .next w.wakeRestored := by
    have hidle : w.restoringM m = false := by rw [State.restoringM, hwx, hx]; rfl
    have htaken (op : Nat) (h : s.takenOp op = none) : w.wakeRestored.takenOp op = none := by
      rw [State.takenOp, show w.wakeRestored.mail = w.mail from (congrArg State.mail hlast : _), hwmail]
      exact h
    refine congrArg Host.Outcome.next ((if_pos (by rw [hon, hrest]; rfl)).trans ?_)
    rw [hretire]
    refine (if_neg (by rw [hidle]; exact Bool.false_ne_true)).trans ?_
    rw [State.armGo, htaken _ harm]
    dsimp only
    rw [State.syncGo, htaken _ hsync]
  have htreg (a : Nat) : w.wakeRestored.reg a = w.reg a := State.reg_of_regs (congrArg State.regs hlast : _) a
  have htmx : w.wakeRestored.mx m = x := by
    rw [State.mx, show w.wakeRestored.macros = w.macros from (congrArg State.macros hlast : _), ← State.mx, hwx]
  have htmem : w.wakeRestored.mem = u.mem := (congrArg State.mem hlast : _).trans hwmem
  have hzero (o : Nat) (ho : 0x90 < o) (hall : ∀ i < 16, u.reg (macBase m + o + 4 * i) = 0) :
      (List.range 16).any (fun (i : Nat) => decide (w.wakeRestored.reg (macBase m + o + 4 * i) ≠ 0)) = false := by
    refine List.any_eq_false.2 fun i hi => ?_
    rw [htreg, hreg _ (by omega), hall i (List.mem_range.1 hi)]
    decide
  generalize w.wakeRestored = t at *
  have htrows : t.mem.rows = Mem.wrN (Mem.clear s.mem.rows (65536 * m) (65536 * (m + 1))) (65536 * m) (Mem.rdN s.mem.wshadow (65536 * m) 65536) := by
    rw [htmem, hmem]
  refine ⟨t, hexec, by rw [htmx, hx], ?_, hzero _ (by decide) hdirty, hzero _ (by decide) hpoison, by rw [htmx, hx]; exact hheld, by rw [htmem, hmem],
    fun o ho => ?_, fun a ha => ?_⟩
  · rw [State.getF, htreg, ← State.getF, hbusy]
    rfl
  · rw [htrows]
    exact Mem.rd_copied _ _ _ ho
  · rw [htrows]
    exact Mem.rd_copied_of_outside _ _ (by omega)

end

/-- Settles O16. -/
theorem shadowPort : Obligations.ShadowPort := by
  unfold Obligations.ShadowPort
  exact ⟨fun s m hon hidle hdirty => shadowSync_takes hon hidle hdirty, fun s m hon hidle => shadowRestore_takes hon hidle,
    fun s m r k age l hon _ hshop hfree hturn hclean => syncRow_copies hon hshop hfree hturn hclean,
    fun s m age l _ hon hshop hrows hrb hscrub hfill harm hsync hwake => restore_retires hon hshop hrows hrb hscrub hfill harm hsync hwake⟩

end Sys2Proof.Machine
end


section
/-! PROOFS. O14: row reads through ECC (R61 to R66); a row number outside the arrays meets the registers of the region. -/

namespace Sys2Proof.Machine

/-! ## The counterexample

The clauses about poisoned rows hold for every number r that an instruction can bring about (r < 512). They are stated for every r, and the bit of
row r is addressed from r alone: for r = 2,097,428 it is bit 20 of RGN_ERR_REC_LO, which the error raised for the poisoned row then rewrites. -/

/-- The number of a row whose poison bit falls on the error record of region 0. -/
def strayRow : Nat := 2097428

/-- Two flipped columns in one word of that row, its dirty bit set, and block 0 holding another error. -/
def strayState : State := { State.reset with
  regs := [(0x20000034, 1), (0x200C00C0, 0x100000)]
  flips := { State.reset.flips with mac := [1112 * strayRow, 1112 * strayRow + 1], hard := [] }
  blocks := [(0, { BlockX.init with eslot := some (0, 1) })] }

/-- A fold in which one element alone has an effect. -/
theorem foldl_of_single {α β : Type} (f : β → α → β) {l : List α} {u : β} {k : α} (hl : l.Nodup) (hk : k ∈ l) (hbefore : ∀ x ∈ l, x ≠ k → f u x = u)
    (hafter : ∀ x ∈ l, x ≠ k → f (f u k) x = f u k) : l.foldl f u = f u k := by
  obtain ⟨l₁, l₂, rfl⟩ := List.append_of_mem hk
  have hnot := List.nodup_middle.1 hl
  have hne (x : α) (hx : x ∈ l₁ ++ l₂) : x ≠ k := ne_of_mem_of_not_mem hx (List.nodup_cons.1 hnot).1
  have hfirst : l₁.foldl f u = u := foldl_keeps (fun v => v = u) f rfl fun x hx v hv => by
    rw [hv]
    exact hbefore x (List.mem_append_left _ hx) (hne x (List.mem_append_left _ hx))
  rw [List.foldl_append, List.foldl_cons, hfirst]
  exact foldl_keeps (fun v => v = f u k) f rfl fun x hx v hv => by
    rw [hv]
    exact hafter x (List.mem_append_right _ (List.mem_cons_of_mem _ hx)) (hne x (List.mem_append_right _ hx))


theorem strayState_remap {i : Nat} (h : i < 16) : strayState.remap 0 i = 0 := by
  have hall : ∀ i < 16, strayState.remap 0 i = 0 := by decide
  exact hall i h

theorem strayState_physCol (c : Nat) : strayState.physCol 0 c = c := by
  have hnone : (List.range 16).find? (fun (i : Nat) => (strayState.remap 0 i).testBit 15 && (strayState.remap 0 i).testBit 16
      && decide (strayState.remap 0 i % 2048 = c)) = none := List.find?_eq_none.2 fun i hi => by
    rw [strayState_remap (List.mem_range.1 hi), Nat.zero_testBit]
    exact Bool.false_ne_true
  rw [State.physCol, hnone]

theorem strayState_rowFlips : strayState.rowFlips 0 strayRow = [0, 1] := by decide

theorem filter_first_two (n : Nat) : (List.range (n + 2)).filter (fun (c : Nat) => decide (c ∈ [0, 1])) = [0, 1] := by
  rw [List.range_succ_eq_map, List.range_succ_eq_map, List.map_cons, List.filter_cons_of_pos (by simp), List.filter_cons_of_pos (by simp),
    List.filter_eq_nil_iff.2 fun c hc => ?_]
  obtain ⟨d, hd, rfl⟩ := List.mem_map.1 hc
  obtain ⟨e, -, rfl⟩ := List.mem_map.1 hd
  simp

theorem strayState_logFlips : strayState.logFlips 0 strayRow = [0, 1] := by
  unfold State.logFlips
  rw [strayState_rowFlips]
  simp only [strayState_physCol]
  exact filter_first_two 1094

theorem strayWord {w : Nat} (hw : w < 8) (hne : w ≠ 0) : List.filter (fun c => decide (colWord c = w)) [0, 1] = [] := by
  have hall : ∀ w < 8, w ≠ 0 → List.filter (fun c => decide (colWord c = w)) [0, 1] = [] := by decide
  exact hall w hw hne

/-- Two flips in one word are uncorrectable (R41). -/
theorem strayState_check : strayState.rowCheck 0 strayRow = (⟨strayState.rowRaw 0 strayRow, [], true⟩, strayState) := by
  unfold State.rowCheck
  rw [strayState_logFlips]
  have hzero : (List.filter (fun c => decide (colWord c = 0)) [0, 1]) = [0, 1] := by decide
  refine (if_neg (by simp)).trans ((foldl_of_single _ (k := 0) List.nodup_range (List.mem_range.2 (by decide)) (fun w hw hne => ?_)
    fun w hw hne => ?_).trans ?_)
  · dsimp only
    rw [strayWord (List.mem_range.1 hw) hne]
    rfl
  · dsimp only
    rw [strayWord (List.mem_range.1 hw) hne]
    rfl
  · dsimp only
    rw [hzero]
    rfl

/-! ## The error of the poisoned row goes into the bit -/

theorem strayState_dirty : strayState.rowDirty 0 strayRow = true := by decide

/-- The read's own records leave the error record of the block, and its slot, as they were. -/
theorem stray_raise {w : State} (hregs : ∀ a, a ≠ macBase 0 + 0x18 → a ≠ macBase 0 + 0x14 → a ≠ 0x200C0100 → w.reg a = strayState.reg a)
    (hblocks : w.blocks = strayState.blocks) (hepoch : w.epoch < 2 ^ 32) :
    (w.raiseBlockId 0 (w.faultId 0 (unitMac 0) 0x03) 0 0).rowPoisoned 0 strayRow = false := by
  have hreg (base : Nat) (f : Fld) (h1 : base + f.off ≠ macBase 0 + 0x18) (h2 : base + f.off ≠ macBase 0 + 0x14) (h3 : base + f.off ≠ 0x200C0100) :
      w.isF base f = strayState.isF base f := by
    rw [State.isF, State.getF, hregs _ h1 h2 h3, State.isF, State.getF]
  have hvalid : w.isF (blkBase 0) F.BLK_FAULT_STAT_VALID = true := by
    rw [hreg _ _ (by decide) (by decide) (by decide)]
    decide
  have hfree : w.isF (rgnBase (0 / 16)) F.RGN_ERR_STAT_VALID = false := by
    rw [hreg _ _ (by decide) (by decide) (by decide)]
    decide
  have hslot : (w.bx 0).eslot = some (0, 1) := by
    rw [State.bx, hblocks]
    rfl
  have hfid : w.faultId 0 (unitMac 0) 0x03 = 0x30000 + w.epoch * 2 ^ 32 := by
    rw [State.faultId]
    rfl
  obtain ⟨-, hrec, -⟩ := State.raiseBlockId_escalates (c := 0) (n := 0) hvalid hslot (fid := w.faultId 0 (unitMac 0) 0x03) (by omega) hfree (by omega)
  rw [hfid] at *
  generalize w.raiseBlockId 0 (0x30000 + w.epoch * 2 ^ 32) 0 0 = t at *
  have hlo : t.getF (rgnBase (0 / 16)) F.RGN_ERR_REC_LO_ID < 2 ^ 32 := bits_lt _ _ _
  have hlow : t.getF (rgnBase (0 / 16)) F.RGN_ERR_REC_LO_ID = 0x30000 := by omega
  have hword : (t.reg 0x200C0100).toNat = 0x30000 := by
    have hall : bits (t.reg 0x200C0100).toNat 0 32 = 0x30000 := hlow
    rwa [bits, Nat.shiftRight_zero, Nat.mod_eq_of_lt (t.reg 0x200C0100).isLt] at hall
  rw [State.rowPoisoned, State.getF]
  show decide (bits (t.reg 0x200C0100).toNat 20 1 = 1) = false
  rw [hword]
  decide

section
variable {s : State} {m r : Nat}

theorem State.noteUe_getF (s : State) (m r : Nat) {f : Fld} (h : f.off ≠ 0x18) : (s.noteUe m r).getF (macBase m) f = s.getF (macBase m) f := by
  rw [State.noteUe, State.getF_setF_of_off_ne _ _ _ (Ne.symm h), State.getF_setF_of_off_ne _ _ _ (Ne.symm h), State.getF_setF_of_off_ne _ _ _ (Ne.symm h)]

theorem rowBitFld_off {o r : Nat} (h : 0x18 < o) : (rowBitFld o r).off ≠ 0x18 := by
  show o + 4 * (r / 32) ≠ 0x18
  omega

theorem State.readRow_ue_dirty {q : RowRead} (hcheck : s.rowCheck m r = (q, s)) (hue : q.ue = true) (hdirty : s.rowDirty m r = true) (back : Bool) :
    s.readRow m r back = (⟨none, false, true, none⟩, (s.noteUe m r).poisonRow m r) := by
  have hkept : (s.noteUe m r).rowDirty m r = true := by
    rw [State.rowDirty, State.noteUe_getF _ _ _ (rowBitFld_off (by decide)), ← State.rowDirty, hdirty]
  rw [State.readRow, hcheck]
  exact (if_pos hue).trans (if_pos hkept)

end

/-- Refutes O14: the bit of row 2,097,428, past the arrays, is rewritten by the error that its poisoning raises. -/
theorem not_rowReadsAndScrub : ¬ Obligations.RowReadsAndScrub := by
  unfold Obligations.RowReadsAndScrub
  rintro ⟨-, -, -, -, hpoison, -⟩
  obtain ⟨-, hrow, -⟩ := hpoison strayState 0 strayRow (by rw [strayState_check]) strayState_dirty
  rw [State.readRow_ue_dirty strayState_check rfl strayState_dirty, State.poisonRow] at hrow
  have honly : strayState.OnlyRegs (((strayState.noteUe 0 strayRow).setF (macBase 0) (rowBitFld 0xE0 strayRow) 1).flagF (macBase 0) F.MAC_ECC_STAT_UE) :=
    ((((State.OnlyRegs.of_setF _ _ _ _).trans (.of_setF _ _ _ _)).trans (.of_setF _ _ _ _)).trans (.of_setF _ _ _ _)).trans (.of_flagF _ _ _)
  have haddr : macBase 0 + (rowBitFld 0xE0 strayRow).off = 0x200C0100 := by decide
  have hreg (a : Nat) (h18 : a ≠ macBase 0 + 0x18) (h14 : a ≠ macBase 0 + 0x14) (hbit : a ≠ 0x200C0100) :
      (((strayState.noteUe 0 strayRow).setF (macBase 0) (rowBitFld 0xE0 strayRow) 1).flagF (macBase 0) F.MAC_ECC_STAT_UE).reg a = strayState.reg a := by
    rw [State.flagF, State.reg_setF_of_ne _ _ _ _ (Ne.symm h14), State.reg_setF_of_ne _ _ _ _ (by rw [haddr]; exact hbit.symm), State.noteUe,
      State.reg_setF_of_ne _ _ _ _ (Ne.symm h18), State.reg_setF_of_ne _ _ _ _ (Ne.symm h18), State.reg_setF_of_ne _ _ _ _ (Ne.symm h18)]
  generalize ((strayState.noteUe 0 strayRow).setF (macBase 0) (rowBitFld 0xE0 strayRow) 1).flagF (macBase 0) F.MAC_ECC_STAT_UE = w at *
  have hepoch : w.epoch < 2 ^ 32 := bits_lt _ _ _
  exact Bool.false_ne_true ((stray_raise hreg honly.blocks hepoch).symm.trans hrow)

end Sys2Proof.Machine
end
